-- ==== Sys2Proof/Word.lean ====
section
/-! DEFINITION. The word types of the machine and the value of a merged register (R59). -/

namespace Sys2Proof

/-- A byte of memory. -/
abbrev Byte := BitVec 8
/-- A 64-bit value. -/
abbrev Word := BitVec 64
/-- A 32-bit lane. -/
abbrev Lane := BitVec 32
/-- An accumulator element (R70). -/
abbrev Elem := BitVec 80

/-- The value of a w register (R59): the tag, bits [127:64] and bits [63:0]. In a capability (R60) `lo` is ADDR and
`hi` holds T, B, E, OTYPE and PERMS. -/
structure Reg where
  tag : Bool
  hi : Word
  lo : Word
  deriving DecidableEq, Repr

/-- The null capability, which is also plain zero: 128 zero bits with tag 0 (R58). -/
def Reg.null : Reg := ⟨false, 0, 0⟩

/-- Plain data: tag 0 and bits [127:64] clear (R59). -/
def Reg.plain (x : Word) : Reg := ⟨false, 0, x⟩

end Sys2Proof
end

