-- ==== Sys2Proof/Syntax.lean ====
section
/-! DEFINITION. The instructions and events of spec/opcode_table.json as data: one constructor per row. Register
fields are numbers below the size of their file (R196); the addressing modes of the M format are `Mem` (R197, R198);
an event carries what the environment supplies to it. -/

namespace Sys2Proof

/-- The scopes of R197: SCOPE codes 0 to 4. -/
inductive Scope where
  | task | team | band | grid | system
  deriving DecidableEq, Repr

/-- The orders of AMO and CAS (R197). -/
inductive AmoOrd where
  | none | acquire | release | acqRel
  deriving DecidableEq, Repr

/-- The reductions of a barrier (R44, R277). -/
inductive Red where
  | none | add | min | max
  deriving DecidableEq, Repr

/-- The orders of CRED (R289). -/
inductive CredOrd where
  | fast | canon | exact
  deriving DecidableEq, Repr

/-- Rounding modes (R72, R257): RNE, RTZ, RDN, RUP. -/
inductive Rm where
  | rne | rtz | rdn | rup
  deriving DecidableEq, Repr

/-- The lane type TY of format V (R239). -/
inductive LaneTy where
  | f | i
  deriving DecidableEq, Repr

/-- The four addressing modes of format M (R197, R198). `imm` is D7; in `modulo` it is D7[3:0] and `mk` is D7[6:4];
in `index`, `wi` is D7[5:0] and `scaled` is D7[6]. -/
inductive Mem where
  | offset (rb : Fin 64) (imm : BitVec 7)
  | index (rb wi : Fin 64) (scaled : Bool)
  | post (rb : Fin 64) (imm : BitVec 7)
  | modulo (rb : Fin 64) (imm : BitVec 4) (mk : Fin 8)
  deriving DecidableEq, Repr

/-- The source of SMERGE (R257): an accumulator (SRC 0) or the head slot of a ring (SRC 1). -/
inductive MergeSrc where
  | acc (m : Fin 8)
  | slot (q : Fin 16)
  deriving DecidableEq, Repr

/-- The kinds of access of R341 (AKIND). -/
inductive Access where
  | none | load | store | fetch | engineRead | engineWrite | walk | rmw
  deriving DecidableEq, Repr

/-- What a report says besides the handle and the task (R341, R342): the cause word's fields, dwords 2 and 3 and DETAIL. -/
structure TrapReport where
  cause : Nat
  akind : Access
  maj : Nat
  minor : Nat
  addr : Nat
  pc : Nat
  detail : Nat
  deriving DecidableEq, Repr

/-- An error record's fields (R345), with the reporting tile's core name and the partition the location belongs to. -/
structure ErrReport where
  name : Nat
  sev : Nat
  unit : Nat
  array : Nat
  count : Nat
  loc : Nat
  syndrome : Nat
  part : Option Nat
  deriving DecidableEq, Repr

/-- One operation of a lattice unit on a region (R142, R291). -/
inductive LatOp where
  | load (key : Nat)
  | store (key : Nat) (cell : List (BitVec 8))
  | add (key : Nat) (cell : List (BitVec 8))
  | scan (started : Bool) (cursor : Nat)
  | count
  | dense (lo ext : List Nat)
  | grow (ncap ccap : Nat)
  deriving DecidableEq, Repr

/-- An energy account (R183). -/
inductive Account where
  | job (part tag : Nat)
  | own (part : Nat)
  | overhead
  | uncharged
  deriving DecidableEq, Repr

/-- Events that a unit of a die has counted in an interval of its meter (R183, R185): events of kind `kind` of a tile, of a vault,
braid, lattice unit, cache or HBM interface for a task's access or transfer, of the save or restore of a job's task, HBM refresh and
static energy of a partition's stacks, and events of the module controller, rim die, proofer or meter. -/
inductive EnergyUse where
  | tile (core kind n : Nat)
  | access (core kind n : Nat)
  | save (part tag kind n : Nat)
  | refresh (stack kind n : Nat)
  | module (kind n : Nat)
  deriving DecidableEq, Repr

/-- A measured entry of the time table (R21): die (or 56 + rim die), OFFSET and RATE. -/
structure TimeEntry where
  die : Nat
  offset : Int
  rate : Nat
  deriving DecidableEq, Repr

/-- A measured entry of the fret table (R23): die, direction, LO and HI. -/
structure FretEntry where
  die : Nat
  dir : Nat
  lo : Nat
  hi : Nat
  deriving DecidableEq, Repr

/-- How the retraining of a link module ends (R419). -/
inductive LinkOutcome where
  | repaired | degraded | disabled
  deriving DecidableEq, Repr

/-- Registers by name (R301, R311): the ones that a host, firmware or management writes. -/
inductive MReg where
  | qbase (part q : Nat) | qcbase (part q : Nat) | qctl (part q : Nat) | qwr (part q : Nat) | qrd (part q : Nat)
  | hpre (part : Nat) | hangctl (part : Nat) | relaunch (part : Nat)
  | hwbase (part n : Nat) | hwlen (part n : Nat) | hwhost (part n : Nat) | hwctl (part n : Nat)
  | cnbase (part : Nat) | cnctl (part : Nat) | cnrd (part : Nat)
  | zpool (die : Nat) | znotice (die : Nat) | zlend (die : Nat) | zstat (die : Nat)
  | ovf (die : Nat) | tripctl (die : Nat) | tripstat (die : Nat) | linkstat (die k : Nat)
  | asidtab | jperiod | preempten
  /-- `len` bytes at an offset of BAR0 of logical device `part`. -/
  | bar0 (part offset len : Nat)
  /-- `len` bytes at an address of the module register space. -/
  | space (pa len : Nat)
  deriving DecidableEq, Repr

/-- A request of a host on CXL.io (R308, R311, R319): the port, and what it reads of BAR0, if that: logical device, offset and
number of bytes. -/
structure ConfigRequest where
  port : Nat
  bar : Option (Nat × Nat × Nat)
  deriving DecidableEq, Repr

/-- The tables of a switchover (R19, R422): the dies that carry the partition's traffic, and the entries of its route tables: at a
die, towards a die, the direction. -/
structure RouteTables where
  carriers : List Nat
  routes : List (Nat × Nat × Nat)
  deriving DecidableEq, Repr

/-- An item of architectural state that a debug-port access names (R405). -/
inductive DebugItem where
  | w (n : Fin 64) | p (n : Fin 8) | v (n : Fin 32) (lane : Fin 64) | vl | m (n : Fin 8)
  | acc (n : Fin 8) (e : Nat) | amode (n : Fin 8) | pc | hpc | fctl | vstatus | wcfg (n : Fin 16)
  | scratch (offset : Nat)
  deriving DecidableEq, Repr

/-- An operation that a remote module asks of this one over Cinov (R315, R431). -/
inductive CinovReq where
  | put (part asid addr : Nat) (data : List (BitVec 8))
  | get (part asid addr len : Nat)
  | msg (name cls : Nat) (data : List (BitVec 8))
  deriving DecidableEq, Repr

/-- A Cinov packet (R314): the index of its connection in the peer table of the port's partition, its sequence number and the
operation. -/
structure CinovIn where
  peer : Nat
  seq : Nat
  op : CinovReq
  deriving DecidableEq, Repr

/-- What boot finds (R319, R318, R434): whether each firmware image verifies and boots, the vacant tile sites, the remap (a
logical name and the number of its physical tile among its die's tiles of that kind), the time and fret tables it measures, the
link modules that work per die and direction, and the stored policy's partitions. -/
structure BootData where
  imageOk : Bool × Bool
  reachesEnd : Bool
  vacant : List Nat
  remap : List (Nat × Nat)
  times : List TimeEntry
  bands : List FretEntry
  linksUp : List (Nat × Nat × Nat)
  degraded : List (Nat × Nat × Nat)
  genReadable : Bool
  absentStacks : List Nat
  deriving DecidableEq, Repr

/-- Partition set-up (R320): the partition's number and resources, or its removal. -/
structure PartSetup where
  number : Nat
  remove : Bool
  dies : List Nat
  hbms : List Nat
  ethPorts : List Nat
  asids : List (Nat × Nat)
  windows : List (Nat × Nat × Nat × Nat × Nat)
  svc : BitVec 64
  deriving DecidableEq, Repr

/-- The POLICY command (R321, R317, R409, R308): read or write a register, write a table entry, reset a die, name the partition
that a directly attached port presents. -/
inductive PolicyCmd where
  | read (reg : MReg)
  | write (reg : MReg) (value : BitVec 64)
  | peer (part index : Nat) (bytes : List (BitVec 8))
  | group (part index : Nat) (bytes : List (BitVec 8))
  | resetDie (die : Nat)
  | attach (port : Nat) (part : Option Nat)
  deriving DecidableEq, Repr

/-- Firmware's set-up of expert buffers (R52): the pool's size in pages, or one buffer. -/
inductive ExpertCfg where
  | pool (pages : Nat)
  | buffer (buf owner cls rowsz trig : Nat) (pinned : Bool)
  | remove (buf : Nat)
  deriving DecidableEq, Repr


/-- One constructor per row of spec/opcode_table.json, in its order. `sw` is the switch marker S (R192). -/
inductive Instr where
  /-- Writes a + b modulo 2^64 to wd with tag 0 (R217). -/
  | add (d : Fin 64) (a : Fin 64) (b : Fin 64) (sw : Bool)
  /-- Writes a − b modulo 2^64 to wd (R217). -/
  | sub (d : Fin 64) (a : Fin 64) (b : Fin 64) (sw : Bool)
  /-- Writes the bitwise AND of a and b to wd (R217). -/
  | and (d : Fin 64) (a : Fin 64) (b : Fin 64) (sw : Bool)
  /-- Writes the bitwise OR of a and b to wd (R217). -/
  | or (d : Fin 64) (a : Fin 64) (b : Fin 64) (sw : Bool)
  /-- Writes the bitwise XOR of a and b to wd (R217). -/
  | xor (d : Fin 64) (a : Fin 64) (b : Fin 64) (sw : Bool)
  /-- Writes a AND NOT b to wd (R217). -/
  | andn (d : Fin 64) (a : Fin 64) (b : Fin 64) (sw : Bool)
  /-- Shifts a left by b[5:0] (R217). -/
  | shl (d : Fin 64) (a : Fin 64) (b : Fin 64) (sw : Bool)
  /-- Shifts a right by b[5:0] with zeros shifted in (R217). -/
  | shr (d : Fin 64) (a : Fin 64) (b : Fin 64) (sw : Bool)
  /-- Shifts a right by b[5:0] with copies of a[63] shifted in (R217). -/
  | shra (d : Fin 64) (a : Fin 64) (b : Fin 64) (sw : Bool)
  /-- Rotates a right by b[5:0] (R217). -/
  | rot (d : Fin 64) (a : Fin 64) (b : Fin 64) (sw : Bool)
  /-- Writes the signed smaller of a and b (R217). -/
  | min (d : Fin 64) (a : Fin 64) (b : Fin 64) (sw : Bool)
  /-- Writes the signed larger of a and b (R217). -/
  | max (d : Fin 64) (a : Fin 64) (b : Fin 64) (sw : Bool)
  /-- Writes the count of leading zero bits of a (R217). -/
  | clz (d : Fin 64) (a : Fin 64) (sw : Bool)
  /-- Writes the count of one bits of a (R217). -/
  | popc (d : Fin 64) (a : Fin 64) (sw : Bool)
  /-- Copies a to wd with tag 0 (R217). -/
  | mov (d : Fin 64) (a : Fin 64) (sw : Bool)
  /-- Writes the low 64 bits of a × b; deferred class (R217). -/
  | mul (d : Fin 64) (a : Fin 64) (b : Fin 64) (sw : Bool)
  /-- Writes the high 64 bits of the signed product (R217). -/
  | mulh (d : Fin 64) (a : Fin 64) (b : Fin 64) (sw : Bool)
  /-- Writes the high 64 bits of the unsigned product (R217). -/
  | mulhU (d : Fin 64) (a : Fin 64) (b : Fin 64) (sw : Bool)
  /-- Signed division truncated toward zero, with defined results for zero and overflow (R217). -/
  | div (d : Fin 64) (a : Fin 64) (b : Fin 64) (sw : Bool)
  /-- Unsigned truncated division (R217). -/
  | divU (d : Fin 64) (a : Fin 64) (b : Fin 64) (sw : Bool)
  /-- Signed remainder with the sign of a (R217). -/
  | rem (d : Fin 64) (a : Fin 64) (b : Fin 64) (sw : Bool)
  /-- Unsigned remainder (R217). -/
  | remU (d : Fin 64) (a : Fin 64) (b : Fin 64) (sw : Bool)
  /-- Adds a sign-extended 11-bit immediate to a (R217). -/
  | addi (d : Fin 64) (a : Fin 64) (imm : BitVec 11) (sw : Bool)
  /-- Loads a sign-extended 17-bit immediate (R217). -/
  | li (d : Fin 64) (imm : BitVec 17) (sw : Bool)
  /-- Shifts wd left by 16 and inserts a 16-bit immediate (R217). -/
  | lih (d : Fin 64) (imm : BitVec 16) (sw : Bool)
  /-- Sets predicate pd to all ones when a equals b, else zero (R218). -/
  | cmpEq (p : Fin 8) (a : Fin 64) (b : Fin 64) (sw : Bool)
  /-- Sets pd when a differs from b (R218). -/
  | cmpNe (p : Fin 8) (a : Fin 64) (b : Fin 64) (sw : Bool)
  /-- Sets pd when a is signed less than b (R218). -/
  | cmpLt (p : Fin 8) (a : Fin 64) (b : Fin 64) (sw : Bool)
  /-- Sets pd when a is signed greater than or equal to b (R218). -/
  | cmpGe (p : Fin 8) (a : Fin 64) (b : Fin 64) (sw : Bool)
  /-- Sets pd when a is unsigned less than b (R218). -/
  | cmpLtu (p : Fin 8) (a : Fin 64) (b : Fin 64) (sw : Bool)
  /-- Sets pd when a is unsigned greater than or equal to b (R218). -/
  | cmpGeu (p : Fin 8) (a : Fin 64) (b : Fin 64) (sw : Bool)
  /-- Writes a or b according to bit 0 of predicate pk (R218). -/
  | sel (d : Fin 64) (a : Fin 64) (b : Fin 64) (k : Fin 8) (sw : Bool)
  /-- Writes the AND of two predicates (R218). -/
  | pand (d : Fin 8) (a : Fin 8) (b : Fin 8) (sw : Bool)
  /-- Writes the OR of two predicates (R218). -/
  | por (d : Fin 8) (a : Fin 8) (b : Fin 8) (sw : Bool)
  /-- Writes the XOR of two predicates (R218). -/
  | pxor (d : Fin 8) (a : Fin 8) (b : Fin 8) (sw : Bool)
  /-- Writes the complement of a predicate (R218). -/
  | pnot (d : Fin 8) (a : Fin 8) (sw : Bool)
  /-- Narrows a capability to a range rounded outward to a representable exponent (R220). -/
  | csetb (d : Fin 64) (a : Fin 64) (b : Fin 64) (sw : Bool)
  /-- Writes the base of a capability's bounds (R219). -/
  | cgetb (d : Fin 64) (a : Fin 64) (sw : Bool)
  /-- Writes the length of a capability's bounds (R219). -/
  | cgetl (d : Fin 64) (a : Fin 64) (sw : Bool)
  /-- Masks a capability's permissions (R219). -/
  | candp (d : Fin 64) (a : Fin 64) (b : Fin 64) (sw : Bool)
  /-- Seals a capability with an object type from a sealing capability (R219). -/
  | cseal (d : Fin 64) (a : Fin 64) (b : Fin 64) (sw : Bool)
  /-- Unseals a capability with a matching unsealing capability (R219). -/
  | cunseal (d : Fin 64) (a : Fin 64) (b : Fin 64) (sw : Bool)
  /-- Adds an offset to a capability's address, clearing the tag outside the representable window (R219). -/
  | cadd (d : Fin 64) (a : Fin 64) (b : Fin 64) (sw : Bool)
  /-- Writes a capability's tag, permissions and object type as plain data (R219). -/
  | ctag (d : Fin 64) (a : Fin 64) (sw : Bool)
  /-- Copies all 128 bits of a capability with tag 0 (R219). -/
  | cclr (d : Fin 64) (a : Fin 64) (sw : Bool)
  /-- Compares two capabilities bit for bit including tags (R219). -/
  | ceq (d : Fin 64) (a : Fin 64) (b : Fin 64) (sw : Bool)
  /-- Rebuilds a tagged capability from plain bits that lie within a tagged authority (R221). -/
  | cderive (d : Fin 64) (a : Fin 64) (b : Fin 64) (sw : Bool)
  /-- Branches by a 19-bit offset when the predicate XOR NEG is 1, and ends the run (R222). -/
  | b (k : Fin 8) (n : Bool) (off : BitVec 19) (sw : Bool)
  /-- Jumps by a 23-bit offset and ends the run (R222). -/
  | j (off : BitVec 23) (sw : Bool)
  /-- Pushes the return capability, spilling if full, and jumps (R222). -/
  | call (off : BitVec 23) (sw : Bool)
  /-- Continues at the capability in wa (R222). -/
  | jr (a : Fin 64) (sw : Bool)
  /-- Pushes the return capability and continues at the capability in wa (R222). -/
  | callr (a : Fin 64) (sw : Bool)
  /-- Pops the newest return entry, filling from RSPILL when empty, and continues there (R222). -/
  | ret (sw : Bool)
  /-- Pushes a loop level with a count, or skips the body when the count is 0 (R224). -/
  | loop (a : Fin 64) (imm : BitVec 11) (sw : Bool)
  /-- Does nothing and does not end its run (R222). -/
  | nop (sw : Bool)
  /-- Ends the task: retires engine work, returns tokens, discards the inbox, zeroes the scratchpad (R298). -/
  | exit (a : Fin 64) (sw : Bool)
  /-- Ends the run and waits for a deliverable class or a wake-up, unless the wake flag is set (R223). -/
  | wfe (sw : Bool)
  /-- Pops the top loop level and continues after its END (R226). -/
  | lbreak (sw : Bool)
  /-- Loads 1, 2, 4 or 8 bytes zero-extended, with an optional base update (R227). -/
  | ld (t : Fin 64) (z : Fin 4) (mem : Mem) (sw : Bool)
  /-- Loads a byte sign-extended (R227). -/
  | ldSb (t : Fin 64) (mem : Mem) (sw : Bool)
  /-- Loads a halfword sign-extended (R227). -/
  | ldSh (t : Fin 64) (mem : Mem) (sw : Bool)
  /-- Loads a word sign-extended (R227). -/
  | ldSw (t : Fin 64) (mem : Mem) (sw : Bool)
  /-- Loads a 16-byte granule with its tag under LOAD_CAP and CAPST (R228). -/
  | ldc (t : Fin 64) (mem : Mem) (sw : Bool)
  /-- Stores 1, 2, 4 or 8 bytes, clearing touched tags (R227). -/
  | st (t : Fin 64) (z : Fin 4) (mem : Mem) (sw : Bool)
  /-- Stores a 16-byte granule, setting its tag for a permitted tagged capability (R228). -/
  | stc (t : Fin 64) (mem : Mem) (sw : Bool)
  /-- Loads one element through the window's format into a register (R229). -/
  | ldf (t : Fin 64) (mem : Mem) (sw : Bool)
  /-- Encodes a register value into one element through the window's format (R229). -/
  | stf (t : Fin 64) (mem : Mem) (sw : Bool)
  /-- Requests a line into the L1 without faulting, with its base update (R230). -/
  | pref (mem : Mem) (sw : Bool)
  /-- Copies counted elements between capabilities, carrying tags for aligned 8-byte copies (R231). -/
  | repCopy (d : Fin 64) (a : Fin 64) (b : Fin 64) (z : Fin 4) (sw : Bool)
  /-- Fills counted elements with a register value (R231). -/
  | repFill (d : Fin 64) (a : Fin 64) (b : Fin 64) (z : Fin 4) (sw : Bool)
  /-- Orders earlier accesses of the selected kinds before later ones at a scope (R124). -/
  | fence (kinds : BitVec 6) (w : Bool) (scope : Scope) (sw : Bool)
  /-- Acquire load of 1 byte at a scope (R233). -/
  | ldAqB (d : Fin 64) (b : Fin 64) (scope : Scope) (sw : Bool)
  /-- Acquire load of 2 bytes (R233). -/
  | ldAqH (d : Fin 64) (b : Fin 64) (scope : Scope) (sw : Bool)
  /-- Acquire load of 4 bytes (R233). -/
  | ldAqW (d : Fin 64) (b : Fin 64) (scope : Scope) (sw : Bool)
  /-- Acquire load of 8 bytes (R233). -/
  | ldAq (d : Fin 64) (b : Fin 64) (scope : Scope) (sw : Bool)
  /-- Release store of 1 byte at a scope (R233). -/
  | stRlB (t : Fin 64) (b : Fin 64) (scope : Scope) (sw : Bool)
  /-- Release store of 2 bytes (R233). -/
  | stRlH (t : Fin 64) (b : Fin 64) (scope : Scope) (sw : Bool)
  /-- Release store of 4 bytes (R233). -/
  | stRlW (t : Fin 64) (b : Fin 64) (scope : Scope) (sw : Bool)
  /-- Release store of 8 bytes (R233). -/
  | stRl (t : Fin 64) (b : Fin 64) (scope : Scope) (sw : Bool)
  /-- Reads a stream descriptor and binds an address generator to a register (R236). -/
  | sbind (n : Fin 64) (d : Fin 64) (sw : Bool)
  /-- Releases the generator bound to a register once appends are performed (R237). -/
  | sunbind (n : Fin 64) (sw : Bool)
  /-- Writes a generator's exhausted, bound, REG and POS state (R237). -/
  | sstat (d : Fin 64) (k : Fin 8) (sw : Bool)
  /-- Atomically adds at the home and returns the old value (R234). -/
  | amoAdd (d : Fin 64) (b : Fin 64) (z : Bool) (scope : Scope) (ord : AmoOrd) (sw : Bool)
  /-- Atomic AND returning the old value (R234). -/
  | amoAnd (d : Fin 64) (b : Fin 64) (z : Bool) (scope : Scope) (ord : AmoOrd) (sw : Bool)
  /-- Atomic OR returning the old value (R234). -/
  | amoOr (d : Fin 64) (b : Fin 64) (z : Bool) (scope : Scope) (ord : AmoOrd) (sw : Bool)
  /-- Atomic XOR returning the old value (R234). -/
  | amoXor (d : Fin 64) (b : Fin 64) (z : Bool) (scope : Scope) (ord : AmoOrd) (sw : Bool)
  /-- Atomic signed minimum (R234). -/
  | amoMin (d : Fin 64) (b : Fin 64) (z : Bool) (scope : Scope) (ord : AmoOrd) (sw : Bool)
  /-- Atomic signed maximum (R234). -/
  | amoMax (d : Fin 64) (b : Fin 64) (z : Bool) (scope : Scope) (ord : AmoOrd) (sw : Bool)
  /-- Atomic unsigned minimum (R234). -/
  | amoMinu (d : Fin 64) (b : Fin 64) (z : Bool) (scope : Scope) (ord : AmoOrd) (sw : Bool)
  /-- Atomic unsigned maximum (R234). -/
  | amoMaxu (d : Fin 64) (b : Fin 64) (z : Bool) (scope : Scope) (ord : AmoOrd) (sw : Bool)
  /-- Atomic swap returning the old value (R234). -/
  | amoSwap (d : Fin 64) (b : Fin 64) (z : Bool) (scope : Scope) (ord : AmoOrd) (sw : Bool)
  /-- Compares 8 bytes with wd and writes wn on a match, returning the old value (R235). -/
  | cas (d : Fin 64) (b : Fin 64) (n : Fin 64) (scope : Scope) (ord : AmoOrd) (sw : Bool)
  /-- Lane-wise add in FP32 or INT32 (R242). -/
  | vadd (ty : LaneTy) (d : Fin 32) (a : Fin 32) (b : Fin 32) (g : Fin 8) (sw : Bool)
  /-- Lane-wise subtract (R242). -/
  | vsub (ty : LaneTy) (d : Fin 32) (a : Fin 32) (b : Fin 32) (g : Fin 8) (sw : Bool)
  /-- Lane-wise multiply (R242). -/
  | vmul (ty : LaneTy) (d : Fin 32) (a : Fin 32) (b : Fin 32) (g : Fin 8) (sw : Bool)
  /-- Lane-wise minimum (R242). -/
  | vmin (ty : LaneTy) (d : Fin 32) (a : Fin 32) (b : Fin 32) (g : Fin 8) (sw : Bool)
  /-- Lane-wise maximum (R242). -/
  | vmax (ty : LaneTy) (d : Fin 32) (a : Fin 32) (b : Fin 32) (g : Fin 8) (sw : Bool)
  /-- Lane-wise absolute value (R242). -/
  | vabs (ty : LaneTy) (d : Fin 32) (a : Fin 32) (g : Fin 8) (sw : Bool)
  /-- Lane-wise negation (R242). -/
  | vneg (ty : LaneTy) (d : Fin 32) (a : Fin 32) (g : Fin 8) (sw : Bool)
  /-- Lane-wise bitwise AND of INT32 lanes (R242). -/
  | vand (d : Fin 32) (a : Fin 32) (b : Fin 32) (g : Fin 8) (sw : Bool)
  /-- Lane-wise bitwise OR (R242). -/
  | vor (d : Fin 32) (a : Fin 32) (b : Fin 32) (g : Fin 8) (sw : Bool)
  /-- Lane-wise bitwise XOR (R242). -/
  | vxor (d : Fin 32) (a : Fin 32) (b : Fin 32) (g : Fin 8) (sw : Bool)
  /-- Lane-wise shift left (R242). -/
  | vshl (d : Fin 32) (a : Fin 32) (b : Fin 32) (g : Fin 8) (sw : Bool)
  /-- Lane-wise logical shift right (R242). -/
  | vshr (d : Fin 32) (a : Fin 32) (b : Fin 32) (g : Fin 8) (sw : Bool)
  /-- Lane-wise arithmetic shift right (R242). -/
  | vshra (d : Fin 32) (a : Fin 32) (b : Fin 32) (g : Fin 8) (sw : Bool)
  /-- Lane-wise saturating INT32 add (R242). -/
  | vadds (d : Fin 32) (a : Fin 32) (b : Fin 32) (g : Fin 8) (sw : Bool)
  /-- Lane-wise saturating INT32 subtract (R242). -/
  | vsubs (d : Fin 32) (a : Fin 32) (b : Fin 32) (g : Fin 8) (sw : Bool)
  /-- Lane-wise fused multiply-add into the destination (R242). -/
  | vfma (ty : LaneTy) (d : Fin 32) (a : Fin 32) (b : Fin 32) (g : Fin 8) (sw : Bool)
  /-- Lane-wise fused negated multiply-add (R242). -/
  | vfnma (ty : LaneTy) (d : Fin 32) (a : Fin 32) (b : Fin 32) (g : Fin 8) (sw : Bool)
  /-- Sets predicate bits of active lanes where a equals b (R243). -/
  | vcmpEq (ty : LaneTy) (p : Fin 8) (a : Fin 32) (b : Fin 32) (g : Fin 8) (sw : Bool)
  /-- Sets predicate bits where a differs from b (R243). -/
  | vcmpNe (ty : LaneTy) (p : Fin 8) (a : Fin 32) (b : Fin 32) (g : Fin 8) (sw : Bool)
  /-- Sets predicate bits where a is less than b (R243). -/
  | vcmpLt (ty : LaneTy) (p : Fin 8) (a : Fin 32) (b : Fin 32) (g : Fin 8) (sw : Bool)
  /-- Sets predicate bits where a is at most b (R243). -/
  | vcmpLe (ty : LaneTy) (p : Fin 8) (a : Fin 32) (b : Fin 32) (g : Fin 8) (sw : Bool)
  /-- Selects lanes of va or vb by a predicate for lanes below VL (R243). -/
  | vsel (d : Fin 32) (a : Fin 32) (b : Fin 32) (k : Fin 8) (sw : Bool)
  /-- Decodes window-format elements to FP32 lanes (R244). -/
  | vcvtDec (d : Fin 32) (a : Fin 32) (g : Fin 8) (w : Fin 16) (sw : Bool)
  /-- Decodes MX elements with per-lane scale bytes (R244). -/
  | vcvtDecMx (d : Fin 32) (a : Fin 32) (c : Fin 32) (g : Fin 8) (w : Fin 16) (sw : Bool)
  /-- Encodes FP32 lanes into a window format, optionally saturating (R244). -/
  | vcvtEnc (d : Fin 32) (a : Fin 32) (t : Bool) (g : Fin 8) (w : Fin 16) (sw : Bool)
  /-- Encodes two 32-lane MX blocks, writing elements and scale bytes (R244). -/
  | vcvtEncMx (d : Fin 32) (a : Fin 32) (c : Fin 32) (g : Fin 8) (w : Fin 16) (sw : Bool)
  /-- Loads consecutive scratchpad elements into lanes (R245). -/
  | vld (d : Fin 32) (b : Fin 64) (e : Fin 4) (g : Fin 8) (sw : Bool)
  /-- Stores lanes as consecutive scratchpad elements (R245). -/
  | vst (d : Fin 32) (b : Fin 64) (e : Fin 4) (g : Fin 8) (sw : Bool)
  /-- Gathers 4-byte words at lane-indexed scratchpad offsets (R245). -/
  | vgather (d : Fin 32) (b : Fin 64) (i : Fin 32) (g : Fin 8) (sw : Bool)
  /-- Scatters lanes to lane-indexed scratchpad offsets in ascending lane order (R245). -/
  | vscatter (d : Fin 32) (b : Fin 64) (i : Fin 32) (g : Fin 8) (sw : Bool)
  /-- Permutes lanes of va by indices in vb (R247). -/
  | vshuf (d : Fin 32) (a : Fin 32) (b : Fin 32) (g : Fin 8) (sw : Bool)
  /-- Broadcasts lane j of va to active lanes (R247). -/
  | vbcast (d : Fin 32) (a : Fin 32) (lane : Fin 64) (g : Fin 8) (sw : Bool)
  /-- Sets VL to min(wa, 64) and writes it to wd (R247). -/
  | vsetvl (d : Fin 64) (a : Fin 64) (sw : Bool)
  /-- Copies a 32-bit scalar to every lane below VL (R247). -/
  | vsplat (d : Fin 32) (a : Fin 64) (sw : Bool)
  /-- Extracts one lane into a scalar register (R247). -/
  | vextr (d : Fin 64) (a : Fin 32) (b : Fin 64) (sw : Bool)
  /-- Adds lanes over the fixed pairwise tree into lane 0 (R248). -/
  | vredAdd (ty : LaneTy) (d : Fin 32) (a : Fin 32) (g : Fin 8) (sw : Bool)
  /-- Minimum over lanes into lane 0 (R248). -/
  | vredMin (ty : LaneTy) (d : Fin 32) (a : Fin 32) (g : Fin 8) (sw : Bool)
  /-- Maximum over lanes into lane 0 (R248). -/
  | vredMax (ty : LaneTy) (d : Fin 32) (a : Fin 32) (g : Fin 8) (sw : Bool)
  /-- Inclusive sequential prefix sum (R248). -/
  | vscanAdd (ty : LaneTy) (d : Fin 32) (a : Fin 32) (g : Fin 8) (sw : Bool)
  /-- Inclusive prefix minimum (R248). -/
  | vscanMin (ty : LaneTy) (d : Fin 32) (a : Fin 32) (g : Fin 8) (sw : Bool)
  /-- Inclusive prefix maximum (R248). -/
  | vscanMax (ty : LaneTy) (d : Fin 32) (a : Fin 32) (g : Fin 8) (sw : Bool)
  /-- Lane-wise exp2 rounded to IF19 (R249). -/
  | vexp2 (d : Fin 32) (a : Fin 32) (g : Fin 8) (sw : Bool)
  /-- Lane-wise reciprocal rounded to IF19 (R249). -/
  | vrcp (d : Fin 32) (a : Fin 32) (g : Fin 8) (sw : Bool)
  /-- Lane-wise reciprocal square root rounded to IF19 (R249). -/
  | vrsqrt (d : Fin 32) (a : Fin 32) (g : Fin 8) (sw : Bool)
  /-- Accumulates 4-way INT8 or 2-way BF16 dot products per lane (R250). -/
  | vdot (ty : LaneTy) (d : Fin 32) (a : Fin 32) (b : Fin 32) (g : Fin 8) (u : Bool) (q : Bool) (sw : Bool)
  /-- Packs active lanes to the bottom and sets VL to their count (R251). -/
  | vcompress (d : Fin 32) (a : Fin 32) (g : Fin 8) (sw : Bool)
  /-- Spreads low lanes into active lane positions (R251). -/
  | vexpand (d : Fin 32) (a : Fin 32) (g : Fin 8) (sw : Bool)
  /-- Accumulates a 16×32 by 32×16 product from ring head slots and pops them at retirement (R263). -/
  | mma (n : Fin 8) (a : Fin 16) (b : Fin 16) (w : Fin 64) (c : Bool) (sw : Bool)
  /-- Forms a tensor-map slice product in steps recorded in a progress word (R264). -/
  | bmm (n : Fin 8) (a : Fin 32) (b : Fin 32) (w : Fin 64) (c : Bool) (sw : Bool)
  /-- Ragged slice product that re-reads an arrival counter before each row group (R264). -/
  | bmmR (n : Fin 8) (a : Fin 32) (b : Fin 32) (w : Fin 64) (c : Bool) (sw : Bool)
  /-- Configures or unconfigures a ring of tile slots (R258). -/
  | qcfg (q : Fin 16) (w : Fin 64) (sw : Bool)
  /-- Writes a ring's state word (R259). -/
  | qstat (q : Fin 16) (w : Fin 64) (sw : Bool)
  /-- Waits until n slots from HEAD are READY, acting as a task-scope acquire (R260). -/
  | twait (q : Fin 16) (w : Fin 64) (sw : Bool)
  /-- Writes one tile-table slot's state word (R259). -/
  | tstate (t : Fin 256) (w : Fin 64) (sw : Bool)
  /-- Writes an accumulator's mode register, emptying elements on a mode change (R261). -/
  | acfg (n : Fin 8) (w : Fin 64) (sw : Bool)
  /-- Sets every accumulator element to its mode's empty value (R262). -/
  | azero (n : Fin 8) (sw : Bool)
  /-- Copies one accumulator and its mode into another (R262). -/
  | amov (n : Fin 8) (m : Fin 8) (sw : Bool)
  /-- Adds z times each storage row or column sum of a slot into the accumulator (R266). -/
  | rowsum (n : Fin 8) (a : Fin 16) (w : Fin 64) (o : Bool) (k : Bool) (sw : Bool)
  /-- Encodes an accumulator through a window into a ring's tail slot (R267). -/
  | drain (n : Fin 8) (q : Fin 16) (rm : Rm) (t : Bool) (w : Fin 64) (z : Bool) (sw : Bool)
  /-- Requantises an INT accumulator by a parameter block into a tail slot (R268). -/
  | drainq (n : Fin 8) (q : Fin 16) (w : Fin 64) (z : Bool) (sw : Bool)
  /-- Drains locally, then sends the slot to another core's ring with an optional wake (R269). -/
  | drainr (n : Fin 8) (q : Fin 16) (rm : Rm) (t : Bool) (w : Fin 64) (z : Bool) (sw : Bool)
  /-- Admits one (key, index) pair to a sieve list (R270). -/
  | spush (n : Fin 8) (j : Fin 16) (w : Fin 64) (sw : Bool)
  /-- Ranks 256 candidate scores into sieve lists, skipped when the bound lies below every peg (R271). -/
  | smma (n : Fin 8) (a : Fin 16) (b : Fin 16) (w : Fin 64) (sw : Bool)
  /-- Writes a list's peg and valid count (R270). -/
  | speg (n : Fin 8) (j : Fin 16) (w : Fin 64) (sw : Bool)
  /-- Merges another sieve accumulator or a slot of entries into the lists (R270). -/
  | smerge (n : Fin 8) (src : MergeSrc) (sw : Bool)
  /-- Writes all sieve entries to a tail slot (R270). -/
  | sread (n : Fin 8) (q : Fin 16) (sw : Bool)
  /-- Updates the running row maximum in vm (R272). -/
  | smaxr (n : Fin 8) (v : Fin 32) (sw : Bool)
  /-- Replaces scores by exp2 of their offset from the maximum and adds row sums (R272). -/
  | expt (n : Fin 8) (v : Fin 32) (sw : Bool)
  /-- Scales accumulator rows, and optionally the running sum, by exp2 of the maximum change (R272). -/
  | rescale (n : Fin 8) (l : Bool) (v : Fin 32) (sw : Bool)
  /-- Divides each accumulator row by its running sum (R272). -/
  | rowdiv (n : Fin 8) (v : Fin 32) (sw : Bool)
  /-- Multiplies a lattice-region window by a B slot, streaming present cells (R273). -/
  | lspmm (n : Fin 8) (k : Fin 16) (b : Fin 16) (w : Fin 64) (sw : Bool)
  /-- Places one message into the send buffer, waiting while the buffer is full (R278). -/
  | send (h : Fin 64) (b : Fin 64) (sw : Bool)
  /-- Ends the handler, empties the current message and continues at HPC (R280). -/
  | hret (sw : Bool)
  /-- Reads, takes, releases, counts or clears inbox state by an operation word (R281). -/
  | mbox (d : Fin 64) (o : Fin 64) (sw : Bool)
  /-- Arrives at a barrier with a reduction and waits parked for the episode (R282). -/
  | bar (d : Fin 64) (v : Fin 64) (i : Fin 16) (scope : Scope) (red : Red) (sw : Bool)
  /-- Barrier wait at a run boundary, taking a latched value or waiting for the episode (R282). -/
  | barw (d : Fin 64) (v : Fin 64) (i : Fin 16) (scope : Scope) (red : Red) (sw : Bool)
  /-- Arrives at a barrier without waiting (R282). -/
  | sstep (d : Fin 64) (v : Fin 64) (i : Fin 16) (scope : Scope) (red : Red) (sw : Bool)
  /-- Pushes a range as the newest deque entry (R283). -/
  | dpush (d : Fin 64) (r : Fin 64) (sw : Bool)
  /-- Removes the newest deque entry (R283). -/
  | dpop (d : Fin 64) (sw : Bool)
  /-- Halves the newest deque entry (R283). -/
  | dsplit (d : Fin 64) (sw : Bool)
  /-- Steals the larger half of an oldest range from tasks of a team or band (R51). -/
  | dsteal (d : Fin 64) (scope : Scope) (sw : Bool)
  /-- Issues a descriptor transfer into the local scratchpad or a tail slot (R284). -/
  | get (b : Fin 64) (sw : Bool)
  /-- Issues a descriptor transfer out of the scratchpad to memory, a core, a slot or expert buffers (R284). -/
  | put (b : Fin 64) (sw : Bool)
  /-- Waits until a completion counter reaches a value, acting as a task-scope acquire (R287). -/
  | cwait (d : Fin 64) (c : Fin 64) (sw : Bool)
  /-- Moves the task's tensor-map slice between memory and the scratchpad (R288). -/
  | copy (p : Fin 64) (c : Fin 64) (sw : Bool)
  /-- Joins a collective reduction of a vector over a team, band or grid (R289). -/
  | cred (b : Fin 64) (scope : Scope) (ord : CredOrd) (sw : Bool)
  /-- Reads a lattice cell, or zeros for an absent key, into a buffer (R291). -/
  | lld (p : Fin 64) (l : Fin 64) (sw : Bool)
  /-- Inserts, replaces or deletes a lattice cell (R291). -/
  | lst (p : Fin 64) (l : Fin 64) (sw : Bool)
  /-- Merges an addend cell into a lattice key (R147). -/
  | ladd (p : Fin 64) (l : Fin 64) (sw : Bool)
  /-- Takes one scan step to the next present key above the cursor (R146). -/
  | lscan (p : Fin 64) (l : Fin 64) (sw : Bool)
  /-- Writes NUSED and CUSED of a region (R291). -/
  | lcount (d : Fin 64) (l : Fin 64) (sw : Bool)
  /-- Reads a coordinate box in one event and writes it densely to memory (R148). -/
  | ldense (b : Fin 64) (l : Fin 64) (sw : Bool)
  /-- Raises a region's node or cell pool capacity (R149). -/
  | lgrow (n : Fin 64) (l : Fin 64) (sw : Bool)
  /-- The lattice unit performs one operation on a region in full, including splits and removals (R142). -/
  | latticeEvent (desc : Nat) (op : LatOp)
  /-- Asks the proofer for more tokens and writes NOW and LATER (R294). -/
  | treq (d : Fin 64) (r : Fin 64) (sw : Bool)
  /-- Returns tokens, first to pending revocations, the rest to FREE (R177). -/
  | tret (c : Fin 64) (sw : Bool)
  /-- Writes the task's token state word (R178). -/
  | tstat (d : Fin 64) (sw : Bool)
  /-- Forms a chord over an eligible rectangle or reports 1 (R151). -/
  | compose (d : Fin 64) (r : Fin 64) (sw : Bool)
  /-- Gathers registers to the anchor and idles the members (R158). -/
  | decompose (sw : Bool)
  /-- Arrives at a consort formation and waits for every participant (R163). -/
  | gang (d : Fin 64) (r : Fin 64) (sw : Bool)
  /-- Waits until every live member reaches a JOIN with the same key, reattaching or dissolving (R166). -/
  | join (k : Fin 64) (sw : Bool)
  /-- Copies a packet into a queue slot and advances QWR (R297). -/
  | launch (q : Fin 64) (p : Fin 64) (sw : Bool)
  /-- Sends a service call and waits for the reply (R299). -/
  | trap (d : Fin 64) (a : Fin 64) (sw : Bool)
  /-- Sends a reply to a handle (R300). -/
  | eret (v : Fin 64) (h : Fin 64) (sw : Bool)
  /-- Reads a system register (R301). -/
  | srd (d : Fin 64) (srn : Fin 2048) (sw : Bool)
  /-- Writes a system register, with the register's own effects (R301). -/
  | swr (v : Fin 64) (srn : Fin 2048) (sw : Bool)
  /-- Invalidates one page's entries for an ASID across the partition (R303). -/
  | tlbiPage (a : Fin 64) (b : Fin 64) (sw : Bool)
  /-- Invalidates every non-global entry of an ASID (R303). -/
  | tlbiAsid (b : Fin 64) (sw : Bool)
  /-- Invalidates every global entry (R303). -/
  | tlbiGlobal (sw : Bool)
  /-- Invalidates every entry of the partition (R303). -/
  | tlbiPart (sw : Bool)
  /-- Waits for earlier stores and discards fetched instructions (R304). -/
  | ifence (sw : Bool)
  /-- Loads the decode table and its ordered flag (R305). -/
  | tblld (b : Fin 64) (sw : Bool)
  /-- Reads the job's or partition's charged energy (R306). -/
  | meter (d : Fin 64) (e : Bool) (sw : Bool)
  /-- Compact alias of MOV (R199). -/
  | cMov (d : Fin 16) (a : Fin 16) (sw : Bool)
  /-- Compact alias of ADD with RS1 = RD (R199). -/
  | cAdd (d : Fin 16) (a : Fin 16) (sw : Bool)
  /-- Compact alias of SUB (R199). -/
  | cSub (d : Fin 16) (a : Fin 16) (sw : Bool)
  /-- Compact alias of AND (R199). -/
  | cAnd (d : Fin 16) (a : Fin 16) (sw : Bool)
  /-- Compact alias of OR (R199). -/
  | cOr (d : Fin 16) (a : Fin 16) (sw : Bool)
  /-- Compact alias of XOR (R199). -/
  | cXor (d : Fin 16) (a : Fin 16) (sw : Bool)
  /-- Compact alias of SHL (R199). -/
  | cShl (d : Fin 16) (a : Fin 16) (sw : Bool)
  /-- Compact alias of SHR (R199). -/
  | cShr (d : Fin 16) (a : Fin 16) (sw : Bool)
  /-- Compact alias of JR (R199). -/
  | cJr (a : Fin 16) (sw : Bool)
  /-- Compact alias of CALLR (R199). -/
  | cCallr (a : Fin 16) (sw : Bool)
  /-- Compact alias of RET (R199). -/
  | cRet (sw : Bool)
  /-- Compact alias of NOP (R199). -/
  | cNop (sw : Bool)
  /-- Compact alias of ADDI with a 5-bit immediate and RS1 = RD (R199). -/
  | cAddi (d : Fin 16) (imm : BitVec 5) (sw : Bool)
  /-- Compact alias of LI with a 5-bit immediate (R199). -/
  | cLi (d : Fin 16) (imm : BitVec 5) (sw : Bool)
  /-- Compact unconditional branch with a 9-bit offset (R199). -/
  | cB (off : BitVec 9) (sw : Bool)
  /-- Compact 8-byte load at [rb + 0] (R199). -/
  | cLd (t : Fin 16) (b : Fin 16) (sw : Bool)
  /-- Compact 8-byte store at [rb + 0] (R199). -/
  | cSt (t : Fin 16) (b : Fin 16) (sw : Bool)
  /-- Compact 4-byte load (R199). -/
  | cLdW (t : Fin 16) (b : Fin 16) (sw : Bool)
  /-- Compact 4-byte store (R199). -/
  | cStW (t : Fin 16) (b : Fin 16) (sw : Bool)
  /-- Compact 8-byte load with post-increment by 8 (R199). -/
  | cLdPost (t : Fin 16) (b : Fin 16) (sw : Bool)
  /-- Compact 8-byte store with post-increment by 8 (R199). -/
  | cStPost (t : Fin 16) (b : Fin 16) (sw : Bool)
  /-- Compact capability load (R199). -/
  | cLdc (t : Fin 16) (b : Fin 16) (sw : Bool)
  /-- Compact capability store (R199). -/
  | cStc (t : Fin 16) (b : Fin 16) (sw : Bool)
  /-- A deferred instruction's results are written, releasing a parked run when it is the last (R195). -/
  | deferredResult (core : Nat)
  /-- A chord run commits in program order, applying its writes, stores and traps (R156). -/
  | chordRunCommit (core : Nat)
  /-- The leader forwards a fetched run to every attached follower's buffer (R164). -/
  | consortRunForward (leader : Nat)
  /-- A follower whose buffer stays full for 256 cycles detaches and the leader continues (R164). -/
  | followerBufferTimeout (core : Nat)
  /-- At a run boundary the highest-priority deliverable class is entered, saving HPC (R48). -/
  | handlerEntry (core : Nat)
  /-- After earlier deferred results are written, the trap record is placed and class 15's handler is entered (R340). -/
  | localTrap (core : Nat) (report : TrapReport)
  /-- A page walk finishes, filling the TLBs or reporting a translation failure (R112). -/
  | walkComplete (core va : Nat) (kind : Access)
  /-- A reply to a posted fault arrives and RETRY, SKIP, LOCAL or ABORT is applied (R343). -/
  | faultReply (core seq : Nat) (value : BitVec 64)
  /-- A reply to a service call arrives and its value is written to wd (R299). -/
  | serviceCallReply (core seq : Nat) (value : BitVec 64)
  /-- A fault or call routed to the module controller is logged and ends the grid (R344). -/
  | moduleControllerCall
  /-- An error found with no consumer produces an error record to logs and service cores (R345). -/
  | machineCheck (report : ErrReport)
  /-- At every TIME multiple of 1,024 the wait table is scanned for waits beyond LIMIT (R353). -/
  | hangScan (die : Nat)
  /-- The module controller replies ABORT to a hung handle within 10 µs (R355). -/
  | hangAbortReply (core : Nat)
  /-- A write of QWR enqueues the covered packets and triggers arbitration (R31). -/
  | qwr (part q : Nat) (value : BitVec 64)
  /-- A write of QCTL sets the ring size and enable and repeats arbitration (R34). -/
  | qctl (part q : Nat) (value : BitVec 64)
  /-- The chosen packet is dispatched once placement can be made, with deadline and malformation checks (R34). -/
  | dispatch (part : Nat)
  /-- After the shape record is broadcast, registers are set and the task begins or awaits a wake (R39). -/
  | taskStart (core : Nat)
  /-- A pre-empted task stops at a run boundary or wait, drains and writes its context record (R55). -/
  | taskSave (core : Nat)
  /-- A saved grid resumes when its core names are idle, requesting its recorded holdings (R56). -/
  | gridResume (grid : Nat)
  /-- When the last task has exited and transfers have ended, the completion record is written (R36). -/
  | gridComplete (grid : Nat)
  /-- Host command 1 saves the named grid, which competes again at once (R312). -/
  | hprePreempt (part q slot : Nat)
  /-- Host command 2 saves the named grid and holds it (R312). -/
  | hprePreemptHold (part q slot : Nat)
  /-- Host command 3 releases a held grid to resume (R312). -/
  | hpreResume (part q slot : Nat)
  /-- Relaunches a severed RESTARTABLE grid from its severance list (R426). -/
  | relaunch (part q slot : Nat)
  /-- A write to a register with no behaviour of its own sets its RW fields by the access codes (R5). -/
  | registerWrite (reg : MReg) (value : BitVec 64)
  /-- A class message reaches its destination and is accepted, discarded or refused (R279). -/
  | messageArrival (index : Nat)
  /-- A wake-up message sets the wake flag, releases WFE or releases an awaiting task (R279). -/
  | wakeUpArrival (index : Nat)
  /-- A refused message or transfer is resent after its doubling retry interval (R47). -/
  | messageRetry (index : Nat)
  /-- A message refused by a taskless core for LIMIT × 1,024 cycles is discarded and counted (R357). -/
  | messageRefusalDiscard (index : Nat)
  /-- A transfer has landed or been read, updating slots, counters and any wake (R286). -/
  | transferComplete (core index : Nat)
  /-- The last byte of a fill is written and the slot becomes READY (R68). -/
  | slotFillComplete (core slot : Nat)
  /-- An engine instruction completes, writing its accumulator and popping its slots (R274). -/
  | engineRetire (core : Nat)
  /-- A collective's result is written at each participant and its counter incremented (R290). -/
  | collectiveComplete (index : Nat) (arrival : List Nat)
  /-- A home grants an engine ownership of a line, a point in its coherence order (R126). -/
  | ownershipGrant (core index line : Nat)
  /-- After 1,024 home cycles waiting, an engine releases unaccessed grants and re-requests in order (R390). -/
  | ownershipTimeout (core index : Nat)
  /-- A store is applied at its home and becomes visible to every agent (R118). -/
  | storePerformed (core index : Nat)
  /-- The sequencer stamps a replicated-page write and multicasts it (R105). -/
  | replicatedWrite (core index : Nat)
  /-- A copy applies a stamped write, marks it pending and acknowledges (R130). -/
  | replicaAck (stamp die : Nat)
  /-- With every acknowledgement, the sequencer sends the commit notice and the write is performed (R130). -/
  | replicaCommit (stamp : Nat)
  /-- The standby sequencer completes the stamp prefix and continues stamping (R393). -/
  | sequencerFailover
  /-- The pool manager places and counts an arriving row, allocating a page if needed (R52). -/
  | expertRowArrival (index : Nat)
  /-- A store of 0 to the release word resets the counter and reclaims pages (R52). -/
  | expertRelease (die buf : Nat)
  /-- A store to the decision dword drops, reroutes or defers held arrivals (R359). -/
  | overflowDecision (die buf : Nat)
  /-- The proofer decides a request from FREE and revocations of lower-class victims (R174). -/
  | tokenGrant (core r : Nat)
  /-- At D′ the holding drops and tokens pass to the waiting requesters (R176). -/
  | revocationDeadline (core : Nat)
  /-- At each window start the slot balance is refilled from the holding in force (R171). -/
  | issueWindow (core : Nat)
  /-- A pool-size write is clamped and revokes any excess over the new pool (R182). -/
  | zpool (die : Nat) (value : BitVec 64)
  /-- After an uncorrectable error or 2,048 unserved cycles, the proofer rebuilds from gate copies (R408). -/
  | prooferRebuild (die : Nat) (succeeds : Bool)
  /-- Supply current over ITRIP for 1 µs triggers emergency revocation (R411). -/
  | currentTrip (die : Nat)
  /-- A junction over TTRIP triggers emergency revocation and clock stepping (R411). -/
  | thermalTrip (die : Nat)
  /-- Every 100 µs of a trip the die clock steps by 25 MHz, republishing tables (R411). -/
  | thermalClockStep (die : Nat)
  /-- After 100 µs below the recovery limits, TREQ grants again (R411). -/
  | tripRecovery (die : Nat)
  /-- At 125 °C the die's power is removed and its tiles are lost (R411). -/
  | thermalCutoff (die : Nat)
  /-- Every 10,500 reference ticks a die's events are scaled to the measured supply energy (R184). -/
  | meterReconcile (die emeas : Nat) (uses : List EnergyUse) (others : Nat × Nat) (sensorOk : Bool)
  /-- Every journal period open accounts are journaled and readings signed (R187). -/
  | journalPeriod (signatureOk : Bool)
  /-- Every 1 ms the module controller republishes the time table under SEQ (R21). -/
  | timeTablePublish (entries : List TimeEntry)
  /-- A die clock change retimes its crossings and republishes within 100 µs (R23). -/
  | clockChange (die clock : Nat) (entries : List TimeEntry) (bands : List FretEntry)
  /-- A bank goes drowsy 1,024 cycles after its tile holds no task and no tokens (R73). -/
  | bankDrowsy (core bank : Nat)
  /-- An accumulator bank is refreshed internally without changing values (R74). -/
  | accumulatorRefresh (core acc : Nat)
  /-- A tile with a UNIT_LOST record or a 4,096-cycle unanswered request is lost (R398). -/
  | tileLost (core : Nat) (array : Nat)
  /-- Firmware retires a tile, rebinding or vacating its name and advancing GEN (R403). -/
  | tileRetire (core : Nat) (spare : Bool)
  /-- A router drops a stale-generation message and reports it to the sender (R429). -/
  | staleGenDrop (index : Nat)
  /-- A debug-port access returns committed state or a status (R405). -/
  | debugRead (name : BitVec 32) (item : DebugItem)
  /-- A link module with excess retries or a failed eye check retrains in service (R419). -/
  | linkRetrain (die dir link : Nat) (outcome : LinkOutcome) (lo hi : Nat)
  /-- An edge with no working module fails and its fret entry becomes 0 (R421). -/
  | linkFail (die dir : Nat)
  /-- New route tables are installed and unacknowledged traffic is resent (R423). -/
  | routeSwitchover (part : Nat) (tables : RouteTables)
  /-- A store to the Cinov write index wakes the engine to take entries (R315). -/
  | cinovDoorbell (part : Nat)
  /-- A Cinov entry completes, writing status and incrementing its counter (R431). -/
  | cinovComplete (part status : Nat) (data : List (BitVec 8))
  /-- A write of CNCTL enables or stops the Cinov engine (R316). -/
  | cnctl (part : Nat) (value : BitVec 64)
  /-- An unacknowledged Cinov packet is retransmitted after backoff, losing the connection at 64 (R430). -/
  | cinovRetransmit (part peer : Nat)
  /-- A received frame is dropped on a bad FCS or delivered to Cinov (R430). -/
  | ethernetFrameRx (port : Nat) (fcsOk : Bool) (op : CinovIn)
  /-- A failed port's connections move to other ports (R430). -/
  | ethernetPortFail (port : Nat)
  /-- A host store through CXL.mem is performed when the rim die completes it (R134). -/
  | hostMemStore (part offset : Nat) (data : List (BitVec 8))
  /-- A host read through CXL.mem returns device data or no response when uncorrectable (R309). -/
  | hostMemRead (part offset len : Nat)
  /-- A host answers a back-invalidation snoop and the device access proceeds (R309). -/
  | backInvalidateResponse (index : Nat) (data : Option (List (BitVec 8)))
  /-- An unanswered snoop after 1 ms counts as answered without data (R432). -/
  | snoopTimeout (index : Nat)
  /-- A host grants ownership or data of a host line over CXL.cache (R134). -/
  | cxlCacheResponse (pa : Nat) (data : Option (List (BitVec 8))) (poisoned : Bool)
  /-- A port link down or IDE failure clears EN of its host windows (R432). -/
  | cxlLinkDown (port : Nat)
  /-- Boot runs firmware verification, lane repair, self-test, census, remap, tables and partitions (R319). -/
  | powerGood (boot : BootData)
  /-- After 120 s the boot step is abandoned and the module enters recovery (R435). -/
  | bootTimeout
  /-- A configuration request is answered, with retry status during boot (R319). -/
  | cxlConfigRequest (request : ConfigRequest)
  /-- A module reset waits until unsigned deltas are journaled, up to 10 s (R190). -/
  | moduleReset (waited : Nat)
  /-- Loss of always-on contents resumes counters from the non-volatile store and sets GAP (R416). -/
  | alwaysOnLoss
  /-- Opening the enclosure journals an event reading (R417). -/
  | enclosureOpen
  /-- Enabling the debug port journals an event reading (R417). -/
  | debugPortEnable
  /-- On loss or 1 ms without heartbeat the standby controller takes over (R418). -/
  | moduleControllerTakeover
  /-- Management command returning signed Hendex readings from a SEQ (R321). -/
  | readings (fromSeq ackSeq : Nat)
  /-- Management command setting up or removing a partition (R321). -/
  | partition (setup : PartSetup)
  /-- Management command reading or writing die-block and module-controller registers (R321). -/
  | policy (cmd : PolicyCmd)
  /-- Management command returning the census, remap and GEN (R321). -/
  | census
  /-- Management command staging a signed image for the next boot (R321). -/
  | firmware (image : Nat) (signed : Bool)
  /-- The table of trimmed event coefficients of R183 is changed and an event reading with code 4 is journaled (R417). -/
  | coefficientTableChange (table : List Nat)
  /-- The module's reading key is replaced and an event reading with code 6 is journaled (R417). -/
  | readingKeyReplacement (key : Nat)
  /-- Firmware configures an expert buffer or sizes the pool, and a DEFER overflow message is sent for arrivals held for that buffer (R359). -/
  | expertBufferConfiguration (die : Nat) (cfg : ExpertCfg)
  /-- Firmware gates the power of an idle tile, making it dark, so debug reads return NOT_POWERED and placement on it takes 4,096 extra cycles (R404). -/
  | tilePowerGating (core : Nat)
  /-- Firmware fuses off a failing lane quad, saving and restoring any task on the core, and only W of R240 changes (R406). -/
  | laneQuadFusing (core quad : Nat)
  deriving DecidableEq, Repr

end Sys2Proof
end

