-- ==== Sys2Proof/WellFormed.lean ====
section
/-! DEFINITION. Well-formed instructions: the limits that the fields' types do not carry. Each check is named, and each
is one that the decoder makes too (R197, R201, R277, R367). -/

namespace Sys2Proof

/-- The scopes that BAR, BARW, SSTEP and CRED allocate (R277): team, band and grid. -/
def barScope (c : Scope) : Bool := decide (c = .team ∨ c = .band ∨ c = .grid)

/-- The scopes that DSTEAL allocates (R277): team and band. -/
def stealScope (c : Scope) : Bool := decide (c = .team ∨ c = .band)

/-- The windows with a scale plane (R81): W3, W4, W7 and W8. -/
def mxWindow (w : Nat) : Bool := decide (w = 3 ∨ w = 4 ∨ w = 7 ∨ w = 8)

/-- The windows that VCVT names without a scale operand (R244): W1 to W14 but for the MX windows. -/
def plainWindow (w : Nat) : Bool := decide (1 ≤ w ∧ w ≤ 14) && !mxWindow w

/-- The system register numbers that R301 allocates. -/
def srnAllocated (n : Nat) : Bool :=
  decide (n ≤ 2 ∨ (0x10 ≤ n ∧ n ≤ 0x1F) ∨ (0x20 ≤ n ∧ n ≤ 0x22) ∨ (0x28 ≤ n ∧ n ≤ 0x2F) ∨ (0x30 ≤ n ∧ n ≤ 0x32) ∨
    (0x40 ≤ n ∧ n ≤ 0x5F) ∨ (0x100 ≤ n ∧ n ≤ 0x17F ∧ n % 8 ≤ 4) ∨ (0x180 ≤ n ∧ n ≤ 0x183) ∨ n = 0x190)

/-- Whether a row of the table has an encoding: an instruction, not an event. -/
def Instr.encoded (i : Instr) : Bool :=
  match i with
  | .add _ _ _ _ => true
  | .sub _ _ _ _ => true
  | .and _ _ _ _ => true
  | .or _ _ _ _ => true
  | .xor _ _ _ _ => true
  | .andn _ _ _ _ => true
  | .shl _ _ _ _ => true
  | .shr _ _ _ _ => true
  | .shra _ _ _ _ => true
  | .rot _ _ _ _ => true
  | .min _ _ _ _ => true
  | .max _ _ _ _ => true
  | .clz _ _ _ => true
  | .popc _ _ _ => true
  | .mov _ _ _ => true
  | .mul _ _ _ _ => true
  | .mulh _ _ _ _ => true
  | .mulhU _ _ _ _ => true
  | .div _ _ _ _ => true
  | .divU _ _ _ _ => true
  | .rem _ _ _ _ => true
  | .remU _ _ _ _ => true
  | .addi _ _ _ _ => true
  | .li _ _ _ => true
  | .lih _ _ _ => true
  | .cmpEq _ _ _ _ => true
  | .cmpNe _ _ _ _ => true
  | .cmpLt _ _ _ _ => true
  | .cmpGe _ _ _ _ => true
  | .cmpLtu _ _ _ _ => true
  | .cmpGeu _ _ _ _ => true
  | .sel _ _ _ _ _ => true
  | .pand _ _ _ _ => true
  | .por _ _ _ _ => true
  | .pxor _ _ _ _ => true
  | .pnot _ _ _ => true
  | .csetb _ _ _ _ => true
  | .cgetb _ _ _ => true
  | .cgetl _ _ _ => true
  | .candp _ _ _ _ => true
  | .cseal _ _ _ _ => true
  | .cunseal _ _ _ _ => true
  | .cadd _ _ _ _ => true
  | .ctag _ _ _ => true
  | .cclr _ _ _ => true
  | .ceq _ _ _ _ => true
  | .cderive _ _ _ _ => true
  | .b _ _ _ _ => true
  | .j _ _ => true
  | .call _ _ => true
  | .jr _ _ => true
  | .callr _ _ => true
  | .ret _ => true
  | .loop _ _ _ => true
  | .nop _ => true
  | .exit _ _ => true
  | .wfe _ => true
  | .lbreak _ => true
  | .ld _ _ _ _ => true
  | .ldSb _ _ _ => true
  | .ldSh _ _ _ => true
  | .ldSw _ _ _ => true
  | .ldc _ _ _ => true
  | .st _ _ _ _ => true
  | .stc _ _ _ => true
  | .ldf _ _ _ => true
  | .stf _ _ _ => true
  | .pref _ _ => true
  | .repCopy _ _ _ _ _ => true
  | .repFill _ _ _ _ _ => true
  | .fence _ _ _ _ => true
  | .ldAqB _ _ _ _ => true
  | .ldAqH _ _ _ _ => true
  | .ldAqW _ _ _ _ => true
  | .ldAq _ _ _ _ => true
  | .stRlB _ _ _ _ => true
  | .stRlH _ _ _ _ => true
  | .stRlW _ _ _ _ => true
  | .stRl _ _ _ _ => true
  | .sbind _ _ _ => true
  | .sunbind _ _ => true
  | .sstat _ _ _ => true
  | .amoAdd _ _ _ _ _ _ => true
  | .amoAnd _ _ _ _ _ _ => true
  | .amoOr _ _ _ _ _ _ => true
  | .amoXor _ _ _ _ _ _ => true
  | .amoMin _ _ _ _ _ _ => true
  | .amoMax _ _ _ _ _ _ => true
  | .amoMinu _ _ _ _ _ _ => true
  | .amoMaxu _ _ _ _ _ _ => true
  | .amoSwap _ _ _ _ _ _ => true
  | .cas _ _ _ _ _ _ => true
  | .vadd _ _ _ _ _ _ => true
  | .vsub _ _ _ _ _ _ => true
  | .vmul _ _ _ _ _ _ => true
  | .vmin _ _ _ _ _ _ => true
  | .vmax _ _ _ _ _ _ => true
  | .vabs _ _ _ _ _ => true
  | .vneg _ _ _ _ _ => true
  | .vand _ _ _ _ _ => true
  | .vor _ _ _ _ _ => true
  | .vxor _ _ _ _ _ => true
  | .vshl _ _ _ _ _ => true
  | .vshr _ _ _ _ _ => true
  | .vshra _ _ _ _ _ => true
  | .vadds _ _ _ _ _ => true
  | .vsubs _ _ _ _ _ => true
  | .vfma _ _ _ _ _ _ => true
  | .vfnma _ _ _ _ _ _ => true
  | .vcmpEq _ _ _ _ _ _ => true
  | .vcmpNe _ _ _ _ _ _ => true
  | .vcmpLt _ _ _ _ _ _ => true
  | .vcmpLe _ _ _ _ _ _ => true
  | .vsel _ _ _ _ _ => true
  | .vcvtDec _ _ _ _ _ => true
  | .vcvtDecMx _ _ _ _ _ _ => true
  | .vcvtEnc _ _ _ _ _ _ => true
  | .vcvtEncMx _ _ _ _ _ _ => true
  | .vld _ _ _ _ _ => true
  | .vst _ _ _ _ _ => true
  | .vgather _ _ _ _ _ => true
  | .vscatter _ _ _ _ _ => true
  | .vshuf _ _ _ _ _ => true
  | .vbcast _ _ _ _ _ => true
  | .vsetvl _ _ _ => true
  | .vsplat _ _ _ => true
  | .vextr _ _ _ _ => true
  | .vredAdd _ _ _ _ _ => true
  | .vredMin _ _ _ _ _ => true
  | .vredMax _ _ _ _ _ => true
  | .vscanAdd _ _ _ _ _ => true
  | .vscanMin _ _ _ _ _ => true
  | .vscanMax _ _ _ _ _ => true
  | .vexp2 _ _ _ _ => true
  | .vrcp _ _ _ _ => true
  | .vrsqrt _ _ _ _ => true
  | .vdot _ _ _ _ _ _ _ _ => true
  | .vcompress _ _ _ _ => true
  | .vexpand _ _ _ _ => true
  | .mma _ _ _ _ _ _ => true
  | .bmm _ _ _ _ _ _ => true
  | .bmmR _ _ _ _ _ _ => true
  | .qcfg _ _ _ => true
  | .qstat _ _ _ => true
  | .twait _ _ _ => true
  | .tstate _ _ _ => true
  | .acfg _ _ _ => true
  | .azero _ _ => true
  | .amov _ _ _ => true
  | .rowsum _ _ _ _ _ _ => true
  | .drain _ _ _ _ _ _ _ => true
  | .drainq _ _ _ _ _ => true
  | .drainr _ _ _ _ _ _ _ => true
  | .spush _ _ _ _ => true
  | .smma _ _ _ _ _ => true
  | .speg _ _ _ _ => true
  | .smerge _ _ _ => true
  | .sread _ _ _ => true
  | .smaxr _ _ _ => true
  | .expt _ _ _ => true
  | .rescale _ _ _ _ => true
  | .rowdiv _ _ _ => true
  | .lspmm _ _ _ _ _ => true
  | .send _ _ _ => true
  | .hret _ => true
  | .mbox _ _ _ => true
  | .bar _ _ _ _ _ _ => true
  | .barw _ _ _ _ _ _ => true
  | .sstep _ _ _ _ _ _ => true
  | .dpush _ _ _ => true
  | .dpop _ _ => true
  | .dsplit _ _ => true
  | .dsteal _ _ _ => true
  | .get _ _ => true
  | .put _ _ => true
  | .cwait _ _ _ => true
  | .copy _ _ _ => true
  | .cred _ _ _ _ => true
  | .lld _ _ _ => true
  | .lst _ _ _ => true
  | .ladd _ _ _ => true
  | .lscan _ _ _ => true
  | .lcount _ _ _ => true
  | .ldense _ _ _ => true
  | .lgrow _ _ _ => true
  | .latticeEvent _ _ => false
  | .treq _ _ _ => true
  | .tret _ _ => true
  | .tstat _ _ => true
  | .compose _ _ _ => true
  | .decompose _ => true
  | .gang _ _ _ => true
  | .join _ _ => true
  | .launch _ _ _ => true
  | .trap _ _ _ => true
  | .eret _ _ _ => true
  | .srd _ _ _ => true
  | .swr _ _ _ => true
  | .tlbiPage _ _ _ => true
  | .tlbiAsid _ _ => true
  | .tlbiGlobal _ => true
  | .tlbiPart _ => true
  | .ifence _ => true
  | .tblld _ _ => true
  | .meter _ _ _ => true
  | .cMov _ _ _ => true
  | .cAdd _ _ _ => true
  | .cSub _ _ _ => true
  | .cAnd _ _ _ => true
  | .cOr _ _ _ => true
  | .cXor _ _ _ => true
  | .cShl _ _ _ => true
  | .cShr _ _ _ => true
  | .cJr _ _ => true
  | .cCallr _ _ => true
  | .cRet _ => true
  | .cNop _ => true
  | .cAddi _ _ _ => true
  | .cLi _ _ _ => true
  | .cB _ _ => true
  | .cLd _ _ _ => true
  | .cSt _ _ _ => true
  | .cLdW _ _ _ => true
  | .cStW _ _ _ => true
  | .cLdPost _ _ _ => true
  | .cStPost _ _ _ => true
  | .cLdc _ _ _ => true
  | .cStc _ _ _ => true
  | .deferredResult _ => false
  | .chordRunCommit _ => false
  | .consortRunForward _ => false
  | .followerBufferTimeout _ => false
  | .handlerEntry _ => false
  | .localTrap _ _ => false
  | .walkComplete _ _ _ => false
  | .faultReply _ _ _ => false
  | .serviceCallReply _ _ _ => false
  | .moduleControllerCall => false
  | .machineCheck _ => false
  | .hangScan _ => false
  | .hangAbortReply _ => false
  | .qwr _ _ _ => false
  | .qctl _ _ _ => false
  | .dispatch _ => false
  | .taskStart _ => false
  | .taskSave _ => false
  | .gridResume _ => false
  | .gridComplete _ => false
  | .hprePreempt _ _ _ => false
  | .hprePreemptHold _ _ _ => false
  | .hpreResume _ _ _ => false
  | .relaunch _ _ _ => false
  | .registerWrite _ _ => false
  | .messageArrival _ => false
  | .wakeUpArrival _ => false
  | .messageRetry _ => false
  | .messageRefusalDiscard _ => false
  | .transferComplete _ _ => false
  | .slotFillComplete _ _ => false
  | .engineRetire _ => false
  | .collectiveComplete _ _ => false
  | .ownershipGrant _ _ _ => false
  | .ownershipTimeout _ _ => false
  | .storePerformed _ _ => false
  | .replicatedWrite _ _ => false
  | .replicaAck _ _ => false
  | .replicaCommit _ => false
  | .sequencerFailover => false
  | .expertRowArrival _ => false
  | .expertRelease _ _ => false
  | .overflowDecision _ _ => false
  | .tokenGrant _ _ => false
  | .revocationDeadline _ => false
  | .issueWindow _ => false
  | .zpool _ _ => false
  | .prooferRebuild _ _ => false
  | .currentTrip _ => false
  | .thermalTrip _ => false
  | .thermalClockStep _ => false
  | .tripRecovery _ => false
  | .thermalCutoff _ => false
  | .meterReconcile _ _ _ _ _ => false
  | .journalPeriod _ => false
  | .timeTablePublish _ => false
  | .clockChange _ _ _ _ => false
  | .bankDrowsy _ _ => false
  | .accumulatorRefresh _ _ => false
  | .tileLost _ _ => false
  | .tileRetire _ _ => false
  | .staleGenDrop _ => false
  | .debugRead _ _ => false
  | .linkRetrain _ _ _ _ _ _ => false
  | .linkFail _ _ => false
  | .routeSwitchover _ _ => false
  | .cinovDoorbell _ => false
  | .cinovComplete _ _ _ => false
  | .cnctl _ _ => false
  | .cinovRetransmit _ _ => false
  | .ethernetFrameRx _ _ _ => false
  | .ethernetPortFail _ => false
  | .hostMemStore _ _ _ => false
  | .hostMemRead _ _ _ => false
  | .backInvalidateResponse _ _ => false
  | .snoopTimeout _ => false
  | .cxlCacheResponse _ _ _ => false
  | .cxlLinkDown _ => false
  | .powerGood _ => false
  | .bootTimeout => false
  | .cxlConfigRequest _ => false
  | .moduleReset _ => false
  | .alwaysOnLoss => false
  | .enclosureOpen => false
  | .debugPortEnable => false
  | .moduleControllerTakeover => false
  | .readings _ _ => false
  | .partition _ => false
  | .policy _ => false
  | .census => false
  | .firmware _ _ => false
  | .coefficientTableChange _ => false
  | .readingKeyReplacement _ => false
  | .expertBufferConfiguration _ _ => false
  | .tilePowerGating _ => false
  | .laneQuadFusing _ _ => false

/-- The well-formed instructions; an event is always well-formed. -/
def Instr.wellFormed (i : Instr) : Bool :=
  match i with
  | .add _ _ _ _ => true
  | .sub _ _ _ _ => true
  | .and _ _ _ _ => true
  | .or _ _ _ _ => true
  | .xor _ _ _ _ => true
  | .andn _ _ _ _ => true
  | .shl _ _ _ _ => true
  | .shr _ _ _ _ => true
  | .shra _ _ _ _ => true
  | .rot _ _ _ _ => true
  | .min _ _ _ _ => true
  | .max _ _ _ _ => true
  | .clz _ _ _ => true
  | .popc _ _ _ => true
  | .mov _ _ _ => true
  | .mul _ _ _ _ => true
  | .mulh _ _ _ _ => true
  | .mulhU _ _ _ _ => true
  | .div _ _ _ _ => true
  | .divU _ _ _ _ => true
  | .rem _ _ _ _ => true
  | .remU _ _ _ _ => true
  | .addi _ _ _ _ => true
  | .li _ _ _ => true
  | .lih _ _ _ => true
  | .cmpEq _ _ _ _ => true
  | .cmpNe _ _ _ _ => true
  | .cmpLt _ _ _ _ => true
  | .cmpGe _ _ _ _ => true
  | .cmpLtu _ _ _ _ => true
  | .cmpGeu _ _ _ _ => true
  | .sel _ _ _ _ _ => true
  | .pand _ _ _ _ => true
  | .por _ _ _ _ => true
  | .pxor _ _ _ _ => true
  | .pnot _ _ _ => true
  | .csetb _ _ _ _ => true
  | .cgetb _ _ _ => true
  | .cgetl _ _ _ => true
  | .candp _ _ _ _ => true
  | .cseal _ _ _ _ => true
  | .cunseal _ _ _ _ => true
  | .cadd _ _ _ _ => true
  | .ctag _ _ _ => true
  | .cclr _ _ _ => true
  | .ceq _ _ _ _ => true
  | .cderive _ _ _ _ => true
  | .b _ _ _ _ => true
  | .j _ _ => true
  | .call _ _ => true
  | .jr _ _ => true
  | .callr _ _ => true
  | .ret _ => true
  | .loop _ imm _ => decide (2 ≤ imm.toNat)
  | .nop _ => true
  | .exit _ _ => true
  | .wfe _ => true
  | .lbreak _ => true
  | .ld _ _ _ _ => true
  | .ldSb _ _ _ => true
  | .ldSh _ _ _ => true
  | .ldSw _ _ _ => true
  | .ldc _ _ _ => true
  | .st _ _ _ _ => true
  | .stc _ _ _ => true
  | .ldf _ _ _ => true
  | .stf _ _ _ => true
  | .pref _ _ => true
  | .repCopy _ _ _ _ _ => true
  | .repFill _ _ _ _ _ => true
  | .fence _ _ _ _ => true
  | .ldAqB _ _ _ _ => true
  | .ldAqH _ _ _ _ => true
  | .ldAqW _ _ _ _ => true
  | .ldAq _ _ _ _ => true
  | .stRlB _ _ _ _ => true
  | .stRlH _ _ _ _ => true
  | .stRlW _ _ _ _ => true
  | .stRl _ _ _ _ => true
  | .sbind _ _ _ => true
  | .sunbind _ _ => true
  | .sstat _ _ _ => true
  | .amoAdd _ _ _ _ _ _ => true
  | .amoAnd _ _ _ _ _ _ => true
  | .amoOr _ _ _ _ _ _ => true
  | .amoXor _ _ _ _ _ _ => true
  | .amoMin _ _ _ _ _ _ => true
  | .amoMax _ _ _ _ _ _ => true
  | .amoMinu _ _ _ _ _ _ => true
  | .amoMaxu _ _ _ _ _ _ => true
  | .amoSwap _ _ _ _ _ _ => true
  | .cas _ _ _ _ _ _ => true
  | .vadd _ _ _ _ _ _ => true
  | .vsub _ _ _ _ _ _ => true
  | .vmul _ _ _ _ _ _ => true
  | .vmin _ _ _ _ _ _ => true
  | .vmax _ _ _ _ _ _ => true
  | .vabs _ _ _ _ _ => true
  | .vneg _ _ _ _ _ => true
  | .vand _ _ _ _ _ => true
  | .vor _ _ _ _ _ => true
  | .vxor _ _ _ _ _ => true
  | .vshl _ _ _ _ _ => true
  | .vshr _ _ _ _ _ => true
  | .vshra _ _ _ _ _ => true
  | .vadds _ _ _ _ _ => true
  | .vsubs _ _ _ _ _ => true
  | .vfma _ _ _ _ _ _ => true
  | .vfnma _ _ _ _ _ _ => true
  | .vcmpEq _ _ _ _ _ _ => true
  | .vcmpNe _ _ _ _ _ _ => true
  | .vcmpLt _ _ _ _ _ _ => true
  | .vcmpLe _ _ _ _ _ _ => true
  | .vsel _ _ _ _ _ => true
  | .vcvtDec _ _ _ w _ => plainWindow w.val
  | .vcvtDecMx _ _ _ _ w _ => mxWindow w.val
  | .vcvtEnc _ _ _ _ w _ => plainWindow w.val
  | .vcvtEncMx _ _ _ _ w _ => mxWindow w.val
  | .vld _ _ _ _ _ => true
  | .vst _ _ _ _ _ => true
  | .vgather _ _ _ _ _ => true
  | .vscatter _ _ _ _ _ => true
  | .vshuf _ _ _ _ _ => true
  | .vbcast _ _ _ _ _ => true
  | .vsetvl _ _ _ => true
  | .vsplat _ _ _ => true
  | .vextr _ _ _ _ => true
  | .vredAdd _ _ _ _ _ => true
  | .vredMin _ _ _ _ _ => true
  | .vredMax _ _ _ _ _ => true
  | .vscanAdd _ _ _ _ _ => true
  | .vscanMin _ _ _ _ _ => true
  | .vscanMax _ _ _ _ _ => true
  | .vexp2 _ _ _ _ => true
  | .vrcp _ _ _ _ => true
  | .vrsqrt _ _ _ _ => true
  | .vdot ty _ _ _ _ u q _ => decide (ty = .i) || (!u && !q)
  | .vcompress _ _ _ _ => true
  | .vexpand _ _ _ _ => true
  | .mma _ _ _ _ _ _ => true
  | .bmm _ _ _ _ _ _ => true
  | .bmmR _ _ _ _ _ _ => true
  | .qcfg _ _ _ => true
  | .qstat _ _ _ => true
  | .twait _ _ _ => true
  | .tstate _ _ _ => true
  | .acfg _ _ _ => true
  | .azero _ _ => true
  | .amov _ _ _ => true
  | .rowsum _ _ _ _ _ _ => true
  | .drain _ _ _ _ _ _ _ => true
  | .drainq _ _ _ _ _ => true
  | .drainr _ _ _ _ _ _ _ => true
  | .spush _ _ _ _ => true
  | .smma _ _ _ _ _ => true
  | .speg _ _ _ _ => true
  | .smerge _ _ _ => true
  | .sread _ _ _ => true
  | .smaxr _ _ _ => true
  | .expt _ _ _ => true
  | .rescale _ _ _ _ => true
  | .rowdiv _ _ _ => true
  | .lspmm _ _ _ _ _ => true
  | .send _ _ _ => true
  | .hret _ => true
  | .mbox _ _ _ => true
  | .bar _ _ _ scope _ _ => barScope scope
  | .barw _ _ _ scope _ _ => barScope scope
  | .sstep _ _ _ scope _ _ => barScope scope
  | .dpush _ _ _ => true
  | .dpop _ _ => true
  | .dsplit _ _ => true
  | .dsteal _ scope _ => stealScope scope
  | .get _ _ => true
  | .put _ _ => true
  | .cwait _ _ _ => true
  | .copy _ _ _ => true
  | .cred _ scope _ _ => barScope scope
  | .lld _ _ _ => true
  | .lst _ _ _ => true
  | .ladd _ _ _ => true
  | .lscan _ _ _ => true
  | .lcount _ _ _ => true
  | .ldense _ _ _ => true
  | .lgrow _ _ _ => true
  | .latticeEvent _ _ => true
  | .treq _ _ _ => true
  | .tret _ _ => true
  | .tstat _ _ => true
  | .compose _ _ _ => true
  | .decompose _ => true
  | .gang _ _ _ => true
  | .join _ _ => true
  | .launch _ _ _ => true
  | .trap _ _ _ => true
  | .eret _ _ _ => true
  | .srd _ srn _ => srnAllocated srn.val
  | .swr _ srn _ => srnAllocated srn.val
  | .tlbiPage _ _ _ => true
  | .tlbiAsid _ _ => true
  | .tlbiGlobal _ => true
  | .tlbiPart _ => true
  | .ifence _ => true
  | .tblld _ _ => true
  | .meter _ _ _ => true
  | .cMov d a _ => decide (¬ (d.val = 0 ∧ a.val = 0))
  | .cAdd _ _ _ => true
  | .cSub _ _ _ => true
  | .cAnd _ _ _ => true
  | .cOr _ _ _ => true
  | .cXor _ _ _ => true
  | .cShl _ _ _ => true
  | .cShr _ _ _ => true
  | .cJr _ _ => true
  | .cCallr _ _ => true
  | .cRet _ => true
  | .cNop _ => true
  | .cAddi _ _ _ => true
  | .cLi _ _ _ => true
  | .cB _ _ => true
  | .cLd _ _ _ => true
  | .cSt _ _ _ => true
  | .cLdW _ _ _ => true
  | .cStW _ _ _ => true
  | .cLdPost _ _ _ => true
  | .cStPost _ _ _ => true
  | .cLdc _ _ _ => true
  | .cStc _ _ _ => true
  | .deferredResult _ => true
  | .chordRunCommit _ => true
  | .consortRunForward _ => true
  | .followerBufferTimeout _ => true
  | .handlerEntry _ => true
  | .localTrap _ _ => true
  | .walkComplete _ _ _ => true
  | .faultReply _ _ _ => true
  | .serviceCallReply _ _ _ => true
  | .moduleControllerCall => true
  | .machineCheck _ => true
  | .hangScan _ => true
  | .hangAbortReply _ => true
  | .qwr _ _ _ => true
  | .qctl _ _ _ => true
  | .dispatch _ => true
  | .taskStart _ => true
  | .taskSave _ => true
  | .gridResume _ => true
  | .gridComplete _ => true
  | .hprePreempt _ _ _ => true
  | .hprePreemptHold _ _ _ => true
  | .hpreResume _ _ _ => true
  | .relaunch _ _ _ => true
  | .registerWrite _ _ => true
  | .messageArrival _ => true
  | .wakeUpArrival _ => true
  | .messageRetry _ => true
  | .messageRefusalDiscard _ => true
  | .transferComplete _ _ => true
  | .slotFillComplete _ _ => true
  | .engineRetire _ => true
  | .collectiveComplete _ _ => true
  | .ownershipGrant _ _ _ => true
  | .ownershipTimeout _ _ => true
  | .storePerformed _ _ => true
  | .replicatedWrite _ _ => true
  | .replicaAck _ _ => true
  | .replicaCommit _ => true
  | .sequencerFailover => true
  | .expertRowArrival _ => true
  | .expertRelease _ _ => true
  | .overflowDecision _ _ => true
  | .tokenGrant _ _ => true
  | .revocationDeadline _ => true
  | .issueWindow _ => true
  | .zpool _ _ => true
  | .prooferRebuild _ _ => true
  | .currentTrip _ => true
  | .thermalTrip _ => true
  | .thermalClockStep _ => true
  | .tripRecovery _ => true
  | .thermalCutoff _ => true
  | .meterReconcile _ _ _ _ _ => true
  | .journalPeriod _ => true
  | .timeTablePublish _ => true
  | .clockChange _ _ _ _ => true
  | .bankDrowsy _ _ => true
  | .accumulatorRefresh _ _ => true
  | .tileLost _ _ => true
  | .tileRetire _ _ => true
  | .staleGenDrop _ => true
  | .debugRead _ _ => true
  | .linkRetrain _ _ _ _ _ _ => true
  | .linkFail _ _ => true
  | .routeSwitchover _ _ => true
  | .cinovDoorbell _ => true
  | .cinovComplete _ _ _ => true
  | .cnctl _ _ => true
  | .cinovRetransmit _ _ => true
  | .ethernetFrameRx _ _ _ => true
  | .ethernetPortFail _ => true
  | .hostMemStore _ _ _ => true
  | .hostMemRead _ _ _ => true
  | .backInvalidateResponse _ _ => true
  | .snoopTimeout _ => true
  | .cxlCacheResponse _ _ _ => true
  | .cxlLinkDown _ => true
  | .powerGood _ => true
  | .bootTimeout => true
  | .cxlConfigRequest _ => true
  | .moduleReset _ => true
  | .alwaysOnLoss => true
  | .enclosureOpen => true
  | .debugPortEnable => true
  | .moduleControllerTakeover => true
  | .readings _ _ => true
  | .partition _ => true
  | .policy _ => true
  | .census => true
  | .firmware _ _ => true
  | .coefficientTableChange _ => true
  | .readingKeyReplacement _ => true
  | .expertBufferConfiguration _ _ => true
  | .tilePowerGating _ => true
  | .laneQuadFusing _ _ => true

end Sys2Proof
end

