-- ==== Sys2Proof/Decode.lean ====
section
/-! DEFINITION. The decoder, total on any bytes, and the encoder after it, both from the formats of R196 and R199, the
map of R201 and the tables of R257 and R277. A word is a number whose bit 0 is bit [0] of the first parcel. Encodings
that are not instructions are rejected by name (R200, R367). -/

namespace Sys2Proof

/-- Why bytes are not an instruction (R367): an unallocated encoding or a nonzero zero field, with MAJ and MINOR as the
cause word reports them, or fewer bytes than the instruction has. -/
inductive Reject where
  | unallocated (maj minor : Nat)
  | reserved (maj minor : Nat)
  | truncated
  deriving DecidableEq, Repr

/-- Whether the bit of weight `p` is set. -/
def bitAt (w p : Nat) : Bool := decide (w / p % 2 = 1)

/-- A field of 2 bits. -/
def fin4 (x : Nat) : Fin 4 := ⟨x % 4, Nat.mod_lt _ (by decide)⟩
/-- A field of 3 bits. -/
def fin8 (x : Nat) : Fin 8 := ⟨x % 8, Nat.mod_lt _ (by decide)⟩
/-- A field of 4 bits. -/
def fin16 (x : Nat) : Fin 16 := ⟨x % 16, Nat.mod_lt _ (by decide)⟩
/-- A field of 5 bits. -/
def fin32 (x : Nat) : Fin 32 := ⟨x % 32, Nat.mod_lt _ (by decide)⟩
/-- A field of 6 bits. -/
def fin64 (x : Nat) : Fin 64 := ⟨x % 64, Nat.mod_lt _ (by decide)⟩
/-- A field of 8 bits. -/
def fin256 (x : Nat) : Fin 256 := ⟨x % 256, Nat.mod_lt _ (by decide)⟩
/-- A field of 11 bits. -/
def fin2048 (x : Nat) : Fin 2048 := ⟨x % 2048, Nat.mod_lt _ (by decide)⟩

/-- SCOPE codes (R197). -/
def Scope.code : Scope → Nat
  | .task => 0 | .team => 1 | .band => 2 | .grid => 3 | .system => 4
/-- The scope of an allocated code (R197). -/
def Scope.ofCode : Nat → Scope
  | 0 => .task | 1 => .team | 2 => .band | 3 => .grid | _ => .system
/-- ORD codes of AMO and CAS (R197). -/
def AmoOrd.code : AmoOrd → Nat
  | .none => 0 | .acquire => 1 | .release => 2 | .acqRel => 3
/-- The order of a code (R197). -/
def AmoOrd.ofCode : Nat → AmoOrd
  | 0 => .none | 1 => .acquire | 2 => .release | _ => .acqRel
/-- ORD codes of barriers (R277). -/
def Red.code : Red → Nat
  | .none => 0 | .add => 1 | .min => 2 | .max => 3
/-- The reduction of a code (R277). -/
def Red.ofCode : Nat → Red
  | 0 => .none | 1 => .add | 2 => .min | _ => .max
/-- ORD codes of CRED (R277). -/
def CredOrd.code : CredOrd → Nat
  | .fast => 0 | .canon => 1 | .exact => 2
/-- The order of a code (R277). -/
def CredOrd.ofCode : Nat → CredOrd
  | 0 => .fast | 1 => .canon | _ => .exact
/-- Rounding-mode codes (R72, R257). -/
def Rm.code : Rm → Nat
  | .rne => 0 | .rtz => 1 | .rdn => 2 | .rup => 3
/-- The rounding mode of a code (R72, R257). -/
def Rm.ofCode : Nat → Rm
  | 0 => .rne | 1 => .rtz | 2 => .rdn | _ => .rup
/-- TY codes (R197). -/
def LaneTy.code : LaneTy → Nat
  | .f => 0 | .i => 1
/-- The lane type of a code (R197). -/
def LaneTy.ofCode : Nat → LaneTy
  | 0 => .f | _ => .i

/-- The D7, AM and RB fields of an addressing mode, in place (R196, R198). -/
def Mem.bits : Mem → Nat
  | .offset rb imm => rb.val * 32768 + imm.toNat * 33554432
  | .index rb wi sc => rb.val * 32768 + 2097152 + wi.val * 33554432 + sc.toNat * 2147483648
  | .post rb imm => rb.val * 32768 + 4194304 + imm.toNat * 33554432
  | .modulo rb imm mk => rb.val * 32768 + 6291456 + imm.toNat * 33554432 + mk.val * 536870912
/-- The addressing mode of an M-format word (R196, R198). -/
def Mem.ofBits (w : Nat) : Mem :=
  match w / 2097152 % 4 with
  | 0 => .offset (fin64 (w / 32768)) (BitVec.ofNat 7 (w / 33554432))
  | 1 => .index (fin64 (w / 32768)) (fin64 (w / 33554432)) (bitAt w 2147483648)
  | 2 => .post (fin64 (w / 32768)) (BitVec.ofNat 7 (w / 33554432))
  | _ => .modulo (fin64 (w / 32768)) (BitVec.ofNat 4 (w / 33554432)) (fin8 (w / 536870912))

/-- QA [15:12], am [18:16] and SRC [19] of SMERGE (R257). -/
def MergeSrc.bits : MergeSrc → Nat
  | .acc m => m.val * 65536
  | .slot q => q.val * 4096 + 524288
/-- The source of an SMERGE word (R257). -/
def MergeSrc.ofBits (w : Nat) : MergeSrc :=
  if w / 524288 % 2 = 0 then .acc (fin8 (w / 65536)) else .slot (fin16 (w / 4096))
/-- The field of SMERGE that its source leaves unused, which must be zero (R257). -/
def MergeSrc.unused (w : Nat) : Nat :=
  if w / 524288 % 2 = 0 then w / 4096 % 16 else w / 65536 % 8


/-- Major 0x00 (R201). -/
def dec00 (w : Nat) : Except Reject Instr :=
  match w / 134217728 % 32 with
  | 0 => .ok (.add (fin64 (w / 512)) (fin64 (w / 32768)) (fin64 (w / 2097152)) (bitAt w 4))
  | 1 => .ok (.sub (fin64 (w / 512)) (fin64 (w / 32768)) (fin64 (w / 2097152)) (bitAt w 4))
  | 2 => .ok (.and (fin64 (w / 512)) (fin64 (w / 32768)) (fin64 (w / 2097152)) (bitAt w 4))
  | 3 => .ok (.or (fin64 (w / 512)) (fin64 (w / 32768)) (fin64 (w / 2097152)) (bitAt w 4))
  | 4 => .ok (.xor (fin64 (w / 512)) (fin64 (w / 32768)) (fin64 (w / 2097152)) (bitAt w 4))
  | 5 => .ok (.andn (fin64 (w / 512)) (fin64 (w / 32768)) (fin64 (w / 2097152)) (bitAt w 4))
  | 6 => .ok (.shl (fin64 (w / 512)) (fin64 (w / 32768)) (fin64 (w / 2097152)) (bitAt w 4))
  | 7 => .ok (.shr (fin64 (w / 512)) (fin64 (w / 32768)) (fin64 (w / 2097152)) (bitAt w 4))
  | 8 => .ok (.shra (fin64 (w / 512)) (fin64 (w / 32768)) (fin64 (w / 2097152)) (bitAt w 4))
  | 9 => .ok (.rot (fin64 (w / 512)) (fin64 (w / 32768)) (fin64 (w / 2097152)) (bitAt w 4))
  | 10 => .ok (.min (fin64 (w / 512)) (fin64 (w / 32768)) (fin64 (w / 2097152)) (bitAt w 4))
  | 11 => .ok (.max (fin64 (w / 512)) (fin64 (w / 32768)) (fin64 (w / 2097152)) (bitAt w 4))
  | 12 => if ¬ w / 2097152 % 64 = 0 then .error (.reserved 0 12) else
    .ok (.clz (fin64 (w / 512)) (fin64 (w / 32768)) (bitAt w 4))
  | 13 => if ¬ w / 2097152 % 64 = 0 then .error (.reserved 0 13) else
    .ok (.popc (fin64 (w / 512)) (fin64 (w / 32768)) (bitAt w 4))
  | 14 => if ¬ w / 2097152 % 64 = 0 then .error (.reserved 0 14) else
    .ok (.mov (fin64 (w / 512)) (fin64 (w / 32768)) (bitAt w 4))
  | n => .error (.unallocated 0 n)

/-- Major 0x01 (R201). -/
def dec01 (w : Nat) : Except Reject Instr :=
  match w / 134217728 % 32 with
  | 0 => .ok (.mul (fin64 (w / 512)) (fin64 (w / 32768)) (fin64 (w / 2097152)) (bitAt w 4))
  | 1 => .ok (.mulh (fin64 (w / 512)) (fin64 (w / 32768)) (fin64 (w / 2097152)) (bitAt w 4))
  | 2 => .ok (.mulhU (fin64 (w / 512)) (fin64 (w / 32768)) (fin64 (w / 2097152)) (bitAt w 4))
  | 3 => .ok (.div (fin64 (w / 512)) (fin64 (w / 32768)) (fin64 (w / 2097152)) (bitAt w 4))
  | 4 => .ok (.divU (fin64 (w / 512)) (fin64 (w / 32768)) (fin64 (w / 2097152)) (bitAt w 4))
  | 5 => .ok (.rem (fin64 (w / 512)) (fin64 (w / 32768)) (fin64 (w / 2097152)) (bitAt w 4))
  | 6 => .ok (.remU (fin64 (w / 512)) (fin64 (w / 32768)) (fin64 (w / 2097152)) (bitAt w 4))
  | n => .error (.unallocated 1 n)

/-- Major 0x02 (R201). -/
def dec02 (w : Nat) : Except Reject Instr :=
  .ok (.addi (fin64 (w / 512)) (fin64 (w / 32768)) (BitVec.ofNat 11 (w / 2097152)) (bitAt w 4))

/-- Major 0x03 (R201). -/
def dec03 (w : Nat) : Except Reject Instr :=
  .ok (.li (fin64 (w / 512)) (BitVec.ofNat 17 (w / 32768)) (bitAt w 4))

/-- Major 0x04 (R201). -/
def dec04 (w : Nat) : Except Reject Instr :=
  if ¬ w / 2147483648 % 2 = 0 then .error (.reserved 4 0) else
  .ok (.lih (fin64 (w / 512)) (BitVec.ofNat 16 (w / 32768)) (bitAt w 4))

/-- Major 0x05 (R201). -/
def dec05 (w : Nat) : Except Reject Instr :=
  match w / 4096 % 8 with
  | 0 => if ¬ w / 134217728 % 32 = 0 then .error (.reserved 5 0) else
    .ok (.cmpEq (fin8 (w / 512)) (fin64 (w / 32768)) (fin64 (w / 2097152)) (bitAt w 4))
  | 1 => if ¬ w / 134217728 % 32 = 0 then .error (.reserved 5 1) else
    .ok (.cmpNe (fin8 (w / 512)) (fin64 (w / 32768)) (fin64 (w / 2097152)) (bitAt w 4))
  | 2 => if ¬ w / 134217728 % 32 = 0 then .error (.reserved 5 2) else
    .ok (.cmpLt (fin8 (w / 512)) (fin64 (w / 32768)) (fin64 (w / 2097152)) (bitAt w 4))
  | 3 => if ¬ w / 134217728 % 32 = 0 then .error (.reserved 5 3) else
    .ok (.cmpGe (fin8 (w / 512)) (fin64 (w / 32768)) (fin64 (w / 2097152)) (bitAt w 4))
  | 4 => if ¬ w / 134217728 % 32 = 0 then .error (.reserved 5 4) else
    .ok (.cmpLtu (fin8 (w / 512)) (fin64 (w / 32768)) (fin64 (w / 2097152)) (bitAt w 4))
  | 5 => if ¬ w / 134217728 % 32 = 0 then .error (.reserved 5 5) else
    .ok (.cmpGeu (fin8 (w / 512)) (fin64 (w / 32768)) (fin64 (w / 2097152)) (bitAt w 4))
  | n => .error (.unallocated 5 n)

/-- Major 0x06 (R201). -/
def dec06 (w : Nat) : Except Reject Instr :=
  if ¬ w / 1073741824 % 4 = 0 then .error (.reserved 6 0) else
  .ok (.sel (fin64 (w / 512)) (fin64 (w / 32768)) (fin64 (w / 2097152)) (fin8 (w / 134217728)) (bitAt w 4))

/-- Major 0x07 (R201). -/
def dec07 (w : Nat) : Except Reject Instr :=
  match w / 134217728 % 32 with
  | 0 => if ¬ w / 4096 % 8 = 0 then .error (.reserved 7 0) else
    if ¬ w / 262144 % 8 = 0 then .error (.reserved 7 0) else
    if ¬ w / 16777216 % 8 = 0 then .error (.reserved 7 0) else
    .ok (.pand (fin8 (w / 512)) (fin8 (w / 32768)) (fin8 (w / 2097152)) (bitAt w 4))
  | 1 => if ¬ w / 4096 % 8 = 0 then .error (.reserved 7 1) else
    if ¬ w / 262144 % 8 = 0 then .error (.reserved 7 1) else
    if ¬ w / 16777216 % 8 = 0 then .error (.reserved 7 1) else
    .ok (.por (fin8 (w / 512)) (fin8 (w / 32768)) (fin8 (w / 2097152)) (bitAt w 4))
  | 2 => if ¬ w / 4096 % 8 = 0 then .error (.reserved 7 2) else
    if ¬ w / 262144 % 8 = 0 then .error (.reserved 7 2) else
    if ¬ w / 16777216 % 8 = 0 then .error (.reserved 7 2) else
    .ok (.pxor (fin8 (w / 512)) (fin8 (w / 32768)) (fin8 (w / 2097152)) (bitAt w 4))
  | 3 => if ¬ w / 4096 % 8 = 0 then .error (.reserved 7 3) else
    if ¬ w / 262144 % 512 = 0 then .error (.reserved 7 3) else
    .ok (.pnot (fin8 (w / 512)) (fin8 (w / 32768)) (bitAt w 4))
  | n => .error (.unallocated 7 n)

/-- Major 0x08 (R201). -/
def dec08 (w : Nat) : Except Reject Instr :=
  match w / 134217728 % 32 with
  | 0 => .ok (.csetb (fin64 (w / 512)) (fin64 (w / 32768)) (fin64 (w / 2097152)) (bitAt w 4))
  | 1 => if ¬ w / 2097152 % 64 = 0 then .error (.reserved 8 1) else
    .ok (.cgetb (fin64 (w / 512)) (fin64 (w / 32768)) (bitAt w 4))
  | 2 => if ¬ w / 2097152 % 64 = 0 then .error (.reserved 8 2) else
    .ok (.cgetl (fin64 (w / 512)) (fin64 (w / 32768)) (bitAt w 4))
  | 3 => .ok (.candp (fin64 (w / 512)) (fin64 (w / 32768)) (fin64 (w / 2097152)) (bitAt w 4))
  | 4 => .ok (.cseal (fin64 (w / 512)) (fin64 (w / 32768)) (fin64 (w / 2097152)) (bitAt w 4))
  | 5 => .ok (.cunseal (fin64 (w / 512)) (fin64 (w / 32768)) (fin64 (w / 2097152)) (bitAt w 4))
  | 6 => .ok (.cadd (fin64 (w / 512)) (fin64 (w / 32768)) (fin64 (w / 2097152)) (bitAt w 4))
  | 7 => if ¬ w / 2097152 % 64 = 0 then .error (.reserved 8 7) else
    .ok (.ctag (fin64 (w / 512)) (fin64 (w / 32768)) (bitAt w 4))
  | 8 => if ¬ w / 2097152 % 64 = 0 then .error (.reserved 8 8) else
    .ok (.cclr (fin64 (w / 512)) (fin64 (w / 32768)) (bitAt w 4))
  | 9 => .ok (.ceq (fin64 (w / 512)) (fin64 (w / 32768)) (fin64 (w / 2097152)) (bitAt w 4))
  | 10 => .ok (.cderive (fin64 (w / 512)) (fin64 (w / 32768)) (fin64 (w / 2097152)) (bitAt w 4))
  | n => .error (.unallocated 8 n)

/-- Major 0x09 (R201). -/
def dec09 (w : Nat) : Except Reject Instr :=
  .ok (.b (fin8 (w / 512)) (bitAt w 4096) (BitVec.ofNat 19 (w / 8192)) (bitAt w 4))

/-- Major 0x0A (R201). -/
def dec0A (w : Nat) : Except Reject Instr :=
  .ok (.j (BitVec.ofNat 23 (w / 512)) (bitAt w 4))

/-- Major 0x0B (R201). -/
def dec0B (w : Nat) : Except Reject Instr :=
  .ok (.call (BitVec.ofNat 23 (w / 512)) (bitAt w 4))

/-- Major 0x0C (R201). -/
def dec0C (w : Nat) : Except Reject Instr :=
  match w / 134217728 % 32 with
  | 0 => if ¬ w / 512 % 64 = 0 then .error (.reserved 12 0) else
    if ¬ w / 2097152 % 64 = 0 then .error (.reserved 12 0) else
    .ok (.jr (fin64 (w / 32768)) (bitAt w 4))
  | 1 => if ¬ w / 512 % 64 = 0 then .error (.reserved 12 1) else
    if ¬ w / 2097152 % 64 = 0 then .error (.reserved 12 1) else
    .ok (.callr (fin64 (w / 32768)) (bitAt w 4))
  | 2 => if ¬ w / 512 % 262144 = 0 then .error (.reserved 12 2) else
    .ok (.ret (bitAt w 4))
  | n => .error (.unallocated 12 n)

/-- Major 0x0D (R201). -/
def dec0D (w : Nat) : Except Reject Instr :=
  if ¬ w / 512 % 64 = 0 then .error (.reserved 13 0) else
  if w / 2097152 < 2 then .error (.reserved 13 0) else
  .ok (.loop (fin64 (w / 32768)) (BitVec.ofNat 11 (w / 2097152)) (bitAt w 4))

/-- Major 0x0E (R201). -/
def dec0E (w : Nat) : Except Reject Instr :=
  match w / 134217728 % 32 with
  | 0 => if ¬ w / 512 % 262144 = 0 then .error (.reserved 14 0) else
    .ok (.nop (bitAt w 4))
  | 1 => if ¬ w / 512 % 64 = 0 then .error (.reserved 14 1) else
    if ¬ w / 2097152 % 64 = 0 then .error (.reserved 14 1) else
    .ok (.exit (fin64 (w / 32768)) (bitAt w 4))
  | 2 => if ¬ w / 512 % 262144 = 0 then .error (.reserved 14 2) else
    .ok (.wfe (bitAt w 4))
  | 3 => if ¬ w / 512 % 262144 = 0 then .error (.reserved 14 3) else
    .ok (.lbreak (bitAt w 4))
  | n => .error (.unallocated 14 n)

/-- Major 0x10 (R201). -/
def dec10 (w : Nat) : Except Reject Instr :=
  .ok (.ld (fin64 (w / 512)) (fin4 (w / 8388608)) (Mem.ofBits w) (bitAt w 4))

/-- Major 0x11 (R201). -/
def dec11 (w : Nat) : Except Reject Instr :=
  match w / 8388608 % 4 with
  | 0 => .ok (.ldSb (fin64 (w / 512)) (Mem.ofBits w) (bitAt w 4))
  | 1 => .ok (.ldSh (fin64 (w / 512)) (Mem.ofBits w) (bitAt w 4))
  | 2 => .ok (.ldSw (fin64 (w / 512)) (Mem.ofBits w) (bitAt w 4))
  | _ => .ok (.ldc (fin64 (w / 512)) (Mem.ofBits w) (bitAt w 4))

/-- Major 0x12 (R201). -/
def dec12 (w : Nat) : Except Reject Instr :=
  .ok (.st (fin64 (w / 512)) (fin4 (w / 8388608)) (Mem.ofBits w) (bitAt w 4))

/-- Major 0x13 (R201). -/
def dec13 (w : Nat) : Except Reject Instr :=
  match w / 8388608 % 4 with
  | 0 => .ok (.stc (fin64 (w / 512)) (Mem.ofBits w) (bitAt w 4))
  | 1 => .ok (.ldf (fin64 (w / 512)) (Mem.ofBits w) (bitAt w 4))
  | 2 => .ok (.stf (fin64 (w / 512)) (Mem.ofBits w) (bitAt w 4))
  | _ => if ¬ w / 512 % 64 = 0 then .error (.reserved 19 3) else
    .ok (.pref (Mem.ofBits w) (bitAt w 4))

/-- Major 0x14 (R201). -/
def dec14 (w : Nat) : Except Reject Instr :=
  match w / 134217728 % 2 with
  | 0 => if ¬ w / 1073741824 % 4 = 0 then .error (.reserved 20 0) else
    .ok (.repCopy (fin64 (w / 512)) (fin64 (w / 32768)) (fin64 (w / 2097152)) (fin4 (w / 268435456)) (bitAt w 4))
  | _ => if ¬ w / 1073741824 % 4 = 0 then .error (.reserved 20 1) else
    .ok (.repFill (fin64 (w / 512)) (fin64 (w / 32768)) (fin64 (w / 2097152)) (fin4 (w / 268435456)) (bitAt w 4))

/-- Major 0x15 (R201). -/
def dec15 (w : Nat) : Except Reject Instr :=
  match w / 2097152 % 64 with
  | 0 => if 5 ≤ w / 134217728 % 8 then .error (.unallocated 21 0) else
    if ¬ w / 65536 % 32 = 0 then .error (.reserved 21 0) else
    if ¬ w / 1073741824 % 4 = 0 then .error (.reserved 21 0) else
    .ok (.fence (BitVec.ofNat 6 (w / 512)) (bitAt w 32768) (Scope.ofCode (w / 134217728 % 8)) (bitAt w 4))
  | 1 => if 5 ≤ w / 134217728 % 8 then .error (.unallocated 21 1) else
    if ¬ w / 1073741824 % 4 = 0 then .error (.reserved 21 1) else
    .ok (.ldAqB (fin64 (w / 512)) (fin64 (w / 32768)) (Scope.ofCode (w / 134217728 % 8)) (bitAt w 4))
  | 2 => if 5 ≤ w / 134217728 % 8 then .error (.unallocated 21 2) else
    if ¬ w / 1073741824 % 4 = 0 then .error (.reserved 21 2) else
    .ok (.ldAqH (fin64 (w / 512)) (fin64 (w / 32768)) (Scope.ofCode (w / 134217728 % 8)) (bitAt w 4))
  | 3 => if 5 ≤ w / 134217728 % 8 then .error (.unallocated 21 3) else
    if ¬ w / 1073741824 % 4 = 0 then .error (.reserved 21 3) else
    .ok (.ldAqW (fin64 (w / 512)) (fin64 (w / 32768)) (Scope.ofCode (w / 134217728 % 8)) (bitAt w 4))
  | 4 => if 5 ≤ w / 134217728 % 8 then .error (.unallocated 21 4) else
    if ¬ w / 1073741824 % 4 = 0 then .error (.reserved 21 4) else
    .ok (.ldAq (fin64 (w / 512)) (fin64 (w / 32768)) (Scope.ofCode (w / 134217728 % 8)) (bitAt w 4))
  | 5 => if 5 ≤ w / 134217728 % 8 then .error (.unallocated 21 5) else
    if ¬ w / 1073741824 % 4 = 0 then .error (.reserved 21 5) else
    .ok (.stRlB (fin64 (w / 512)) (fin64 (w / 32768)) (Scope.ofCode (w / 134217728 % 8)) (bitAt w 4))
  | 6 => if 5 ≤ w / 134217728 % 8 then .error (.unallocated 21 6) else
    if ¬ w / 1073741824 % 4 = 0 then .error (.reserved 21 6) else
    .ok (.stRlH (fin64 (w / 512)) (fin64 (w / 32768)) (Scope.ofCode (w / 134217728 % 8)) (bitAt w 4))
  | 7 => if 5 ≤ w / 134217728 % 8 then .error (.unallocated 21 7) else
    if ¬ w / 1073741824 % 4 = 0 then .error (.reserved 21 7) else
    .ok (.stRlW (fin64 (w / 512)) (fin64 (w / 32768)) (Scope.ofCode (w / 134217728 % 8)) (bitAt w 4))
  | 8 => if 5 ≤ w / 134217728 % 8 then .error (.unallocated 21 8) else
    if ¬ w / 1073741824 % 4 = 0 then .error (.reserved 21 8) else
    .ok (.stRl (fin64 (w / 512)) (fin64 (w / 32768)) (Scope.ofCode (w / 134217728 % 8)) (bitAt w 4))
  | 16 => if ¬ w / 134217728 % 32 = 0 then .error (.reserved 21 16) else
    .ok (.sbind (fin64 (w / 512)) (fin64 (w / 32768)) (bitAt w 4))
  | 17 => if ¬ w / 32768 % 64 = 0 then .error (.reserved 21 17) else
    if ¬ w / 134217728 % 32 = 0 then .error (.reserved 21 17) else
    .ok (.sunbind (fin64 (w / 512)) (bitAt w 4))
  | 18 => if ¬ w / 262144 % 8 = 0 then .error (.reserved 21 18) else
    if ¬ w / 134217728 % 32 = 0 then .error (.reserved 21 18) else
    .ok (.sstat (fin64 (w / 512)) (fin8 (w / 32768)) (bitAt w 4))
  | n => .error (.unallocated 21 n)

/-- Major 0x16 (R201). -/
def dec16 (w : Nat) : Except Reject Instr :=
  match w / 2097152 % 16 with
  | 0 => if 5 ≤ w / 134217728 % 8 then .error (.unallocated 22 0) else
    if ¬ w / 67108864 % 2 = 0 then .error (.reserved 22 0) else
    .ok (.amoAdd (fin64 (w / 512)) (fin64 (w / 32768)) (bitAt w 33554432) (Scope.ofCode (w / 134217728 % 8)) (AmoOrd.ofCode (w / 1073741824 % 4)) (bitAt w 4))
  | 1 => if 5 ≤ w / 134217728 % 8 then .error (.unallocated 22 1) else
    if ¬ w / 67108864 % 2 = 0 then .error (.reserved 22 1) else
    .ok (.amoAnd (fin64 (w / 512)) (fin64 (w / 32768)) (bitAt w 33554432) (Scope.ofCode (w / 134217728 % 8)) (AmoOrd.ofCode (w / 1073741824 % 4)) (bitAt w 4))
  | 2 => if 5 ≤ w / 134217728 % 8 then .error (.unallocated 22 2) else
    if ¬ w / 67108864 % 2 = 0 then .error (.reserved 22 2) else
    .ok (.amoOr (fin64 (w / 512)) (fin64 (w / 32768)) (bitAt w 33554432) (Scope.ofCode (w / 134217728 % 8)) (AmoOrd.ofCode (w / 1073741824 % 4)) (bitAt w 4))
  | 3 => if 5 ≤ w / 134217728 % 8 then .error (.unallocated 22 3) else
    if ¬ w / 67108864 % 2 = 0 then .error (.reserved 22 3) else
    .ok (.amoXor (fin64 (w / 512)) (fin64 (w / 32768)) (bitAt w 33554432) (Scope.ofCode (w / 134217728 % 8)) (AmoOrd.ofCode (w / 1073741824 % 4)) (bitAt w 4))
  | 4 => if 5 ≤ w / 134217728 % 8 then .error (.unallocated 22 4) else
    if ¬ w / 67108864 % 2 = 0 then .error (.reserved 22 4) else
    .ok (.amoMin (fin64 (w / 512)) (fin64 (w / 32768)) (bitAt w 33554432) (Scope.ofCode (w / 134217728 % 8)) (AmoOrd.ofCode (w / 1073741824 % 4)) (bitAt w 4))
  | 5 => if 5 ≤ w / 134217728 % 8 then .error (.unallocated 22 5) else
    if ¬ w / 67108864 % 2 = 0 then .error (.reserved 22 5) else
    .ok (.amoMax (fin64 (w / 512)) (fin64 (w / 32768)) (bitAt w 33554432) (Scope.ofCode (w / 134217728 % 8)) (AmoOrd.ofCode (w / 1073741824 % 4)) (bitAt w 4))
  | 6 => if 5 ≤ w / 134217728 % 8 then .error (.unallocated 22 6) else
    if ¬ w / 67108864 % 2 = 0 then .error (.reserved 22 6) else
    .ok (.amoMinu (fin64 (w / 512)) (fin64 (w / 32768)) (bitAt w 33554432) (Scope.ofCode (w / 134217728 % 8)) (AmoOrd.ofCode (w / 1073741824 % 4)) (bitAt w 4))
  | 7 => if 5 ≤ w / 134217728 % 8 then .error (.unallocated 22 7) else
    if ¬ w / 67108864 % 2 = 0 then .error (.reserved 22 7) else
    .ok (.amoMaxu (fin64 (w / 512)) (fin64 (w / 32768)) (bitAt w 33554432) (Scope.ofCode (w / 134217728 % 8)) (AmoOrd.ofCode (w / 1073741824 % 4)) (bitAt w 4))
  | 8 => if 5 ≤ w / 134217728 % 8 then .error (.unallocated 22 8) else
    if ¬ w / 67108864 % 2 = 0 then .error (.reserved 22 8) else
    .ok (.amoSwap (fin64 (w / 512)) (fin64 (w / 32768)) (bitAt w 33554432) (Scope.ofCode (w / 134217728 % 8)) (AmoOrd.ofCode (w / 1073741824 % 4)) (bitAt w 4))
  | n => .error (.unallocated 22 n)

/-- Major 0x17 (R201). -/
def dec17 (w : Nat) : Except Reject Instr :=
  if 5 ≤ w / 134217728 % 8 then .error (.unallocated 23 0) else
  .ok (.cas (fin64 (w / 512)) (fin64 (w / 32768)) (fin64 (w / 2097152)) (Scope.ofCode (w / 134217728 % 8)) (AmoOrd.ofCode (w / 1073741824 % 4)) (bitAt w 4))

/-- Major 0x18 (R201). -/
def dec18 (w : Nat) : Except Reject Instr :=
  match w / 268435456 % 16 with
  | 0 => .ok (.vadd (LaneTy.ofCode (w / 512 % 2)) (fin32 (w / 1024)) (fin32 (w / 32768)) (fin32 (w / 1048576)) (fin8 (w / 33554432)) (bitAt w 4))
  | 1 => .ok (.vsub (LaneTy.ofCode (w / 512 % 2)) (fin32 (w / 1024)) (fin32 (w / 32768)) (fin32 (w / 1048576)) (fin8 (w / 33554432)) (bitAt w 4))
  | 2 => .ok (.vmul (LaneTy.ofCode (w / 512 % 2)) (fin32 (w / 1024)) (fin32 (w / 32768)) (fin32 (w / 1048576)) (fin8 (w / 33554432)) (bitAt w 4))
  | 3 => .ok (.vmin (LaneTy.ofCode (w / 512 % 2)) (fin32 (w / 1024)) (fin32 (w / 32768)) (fin32 (w / 1048576)) (fin8 (w / 33554432)) (bitAt w 4))
  | 4 => .ok (.vmax (LaneTy.ofCode (w / 512 % 2)) (fin32 (w / 1024)) (fin32 (w / 32768)) (fin32 (w / 1048576)) (fin8 (w / 33554432)) (bitAt w 4))
  | 5 => if ¬ w / 1048576 % 32 = 0 then .error (.reserved 24 5) else
    .ok (.vabs (LaneTy.ofCode (w / 512 % 2)) (fin32 (w / 1024)) (fin32 (w / 32768)) (fin8 (w / 33554432)) (bitAt w 4))
  | 6 => if ¬ w / 1048576 % 32 = 0 then .error (.reserved 24 6) else
    .ok (.vneg (LaneTy.ofCode (w / 512 % 2)) (fin32 (w / 1024)) (fin32 (w / 32768)) (fin8 (w / 33554432)) (bitAt w 4))
  | 7 =>
    if w / 512 % 2 = 0 then .error (.unallocated 24 7) else
    .ok (.vand (fin32 (w / 1024)) (fin32 (w / 32768)) (fin32 (w / 1048576)) (fin8 (w / 33554432)) (bitAt w 4))
  | 8 =>
    if w / 512 % 2 = 0 then .error (.unallocated 24 8) else
    .ok (.vor (fin32 (w / 1024)) (fin32 (w / 32768)) (fin32 (w / 1048576)) (fin8 (w / 33554432)) (bitAt w 4))
  | 9 =>
    if w / 512 % 2 = 0 then .error (.unallocated 24 9) else
    .ok (.vxor (fin32 (w / 1024)) (fin32 (w / 32768)) (fin32 (w / 1048576)) (fin8 (w / 33554432)) (bitAt w 4))
  | 10 =>
    if w / 512 % 2 = 0 then .error (.unallocated 24 10) else
    .ok (.vshl (fin32 (w / 1024)) (fin32 (w / 32768)) (fin32 (w / 1048576)) (fin8 (w / 33554432)) (bitAt w 4))
  | 11 =>
    if w / 512 % 2 = 0 then .error (.unallocated 24 11) else
    .ok (.vshr (fin32 (w / 1024)) (fin32 (w / 32768)) (fin32 (w / 1048576)) (fin8 (w / 33554432)) (bitAt w 4))
  | 12 =>
    if w / 512 % 2 = 0 then .error (.unallocated 24 12) else
    .ok (.vshra (fin32 (w / 1024)) (fin32 (w / 32768)) (fin32 (w / 1048576)) (fin8 (w / 33554432)) (bitAt w 4))
  | 13 =>
    if w / 512 % 2 = 0 then .error (.unallocated 24 13) else
    .ok (.vadds (fin32 (w / 1024)) (fin32 (w / 32768)) (fin32 (w / 1048576)) (fin8 (w / 33554432)) (bitAt w 4))
  | 14 =>
    if w / 512 % 2 = 0 then .error (.unallocated 24 14) else
    .ok (.vsubs (fin32 (w / 1024)) (fin32 (w / 32768)) (fin32 (w / 1048576)) (fin8 (w / 33554432)) (bitAt w 4))
  | n => .error (.unallocated 24 n)

/-- Major 0x19 (R201). -/
def dec19 (w : Nat) : Except Reject Instr :=
  match w / 268435456 % 16 with
  | 0 => .ok (.vfma (LaneTy.ofCode (w / 512 % 2)) (fin32 (w / 1024)) (fin32 (w / 32768)) (fin32 (w / 1048576)) (fin8 (w / 33554432)) (bitAt w 4))
  | 1 => .ok (.vfnma (LaneTy.ofCode (w / 512 % 2)) (fin32 (w / 1024)) (fin32 (w / 32768)) (fin32 (w / 1048576)) (fin8 (w / 33554432)) (bitAt w 4))
  | n => .error (.unallocated 25 n)

/-- Major 0x1A (R201). -/
def dec1A (w : Nat) : Except Reject Instr :=
  match w / 268435456 % 16 with
  | 0 => if ¬ w / 8192 % 4 = 0 then .error (.reserved 26 0) else
    .ok (.vcmpEq (LaneTy.ofCode (w / 512 % 2)) (fin8 (w / 1024)) (fin32 (w / 32768)) (fin32 (w / 1048576)) (fin8 (w / 33554432)) (bitAt w 4))
  | 1 => if ¬ w / 8192 % 4 = 0 then .error (.reserved 26 1) else
    .ok (.vcmpNe (LaneTy.ofCode (w / 512 % 2)) (fin8 (w / 1024)) (fin32 (w / 32768)) (fin32 (w / 1048576)) (fin8 (w / 33554432)) (bitAt w 4))
  | 2 => if ¬ w / 8192 % 4 = 0 then .error (.reserved 26 2) else
    .ok (.vcmpLt (LaneTy.ofCode (w / 512 % 2)) (fin8 (w / 1024)) (fin32 (w / 32768)) (fin32 (w / 1048576)) (fin8 (w / 33554432)) (bitAt w 4))
  | 3 => if ¬ w / 8192 % 4 = 0 then .error (.reserved 26 3) else
    .ok (.vcmpLe (LaneTy.ofCode (w / 512 % 2)) (fin8 (w / 1024)) (fin32 (w / 32768)) (fin32 (w / 1048576)) (fin8 (w / 33554432)) (bitAt w 4))
  | n => .error (.unallocated 26 n)

/-- Major 0x1B (R201). -/
def dec1B (w : Nat) : Except Reject Instr :=
  if ¬ w / 512 % 2 = 0 then .error (.reserved 27 0) else
  if ¬ w / 268435456 % 16 = 0 then .error (.reserved 27 0) else
  .ok (.vsel (fin32 (w / 1024)) (fin32 (w / 32768)) (fin32 (w / 1048576)) (fin8 (w / 33554432)) (bitAt w 4))

/-- Major 0x1C (R201). -/
def dec1C (w : Nat) : Except Reject Instr :=
  if w / 268435456 = 0 ∨ w / 268435456 = 15 then .error (.unallocated 28 0) else
  if mxWindow (w / 268435456) then
    if w / 512 % 2 = 0 then .ok (.vcvtDecMx (fin32 (w / 1024)) (fin32 (w / 32768)) (fin32 (w / 1048576)) (fin8 (w / 33554432)) (fin16 (w / 268435456)) (bitAt w 4)) else .ok (.vcvtEncMx (fin32 (w / 1024)) (fin32 (w / 32768)) (fin32 (w / 1048576)) (fin8 (w / 33554432)) (fin16 (w / 268435456)) (bitAt w 4))
  else if w / 512 % 2 = 0 then
    if ¬ w / 1048576 % 32 = 0 then .error (.reserved 28 0) else
    .ok (.vcvtDec (fin32 (w / 1024)) (fin32 (w / 32768)) (fin8 (w / 33554432)) (fin16 (w / 268435456)) (bitAt w 4))
  else
    if ¬ w / 2097152 % 16 = 0 then .error (.reserved 28 0) else
    .ok (.vcvtEnc (fin32 (w / 1024)) (fin32 (w / 32768)) (bitAt w 1048576) (fin8 (w / 33554432)) (fin16 (w / 268435456)) (bitAt w 4))

/-- Major 0x1D (R201). -/
def dec1D (w : Nat) : Except Reject Instr :=
  match w / 536870912 % 8 with
  | 0 => if ¬ w / 512 % 2 = 0 then .error (.reserved 29 0) else
    if ¬ w / 8388608 % 8 = 0 then .error (.reserved 29 0) else
    .ok (.vld (fin32 (w / 1024)) (fin64 (w / 32768)) (fin4 (w / 2097152)) (fin8 (w / 67108864)) (bitAt w 4))
  | 1 => if ¬ w / 512 % 2 = 0 then .error (.reserved 29 1) else
    if ¬ w / 8388608 % 8 = 0 then .error (.reserved 29 1) else
    .ok (.vst (fin32 (w / 1024)) (fin64 (w / 32768)) (fin4 (w / 2097152)) (fin8 (w / 67108864)) (bitAt w 4))
  | 2 => if ¬ w / 512 % 2 = 0 then .error (.reserved 29 2) else
    .ok (.vgather (fin32 (w / 1024)) (fin64 (w / 32768)) (fin32 (w / 2097152)) (fin8 (w / 67108864)) (bitAt w 4))
  | 3 => if ¬ w / 512 % 2 = 0 then .error (.reserved 29 3) else
    .ok (.vscatter (fin32 (w / 1024)) (fin64 (w / 32768)) (fin32 (w / 2097152)) (fin8 (w / 67108864)) (bitAt w 4))
  | n => .error (.unallocated 29 n)

/-- Major 0x1E (R201). -/
def dec1E (w : Nat) : Except Reject Instr :=
  match w / 268435456 % 16 with
  | 0 => if ¬ w / 512 % 2 = 0 then .error (.reserved 30 0) else
    .ok (.vshuf (fin32 (w / 1024)) (fin32 (w / 32768)) (fin32 (w / 1048576)) (fin8 (w / 33554432)) (bitAt w 4))
  | 1 => .ok (.vbcast (fin32 (w / 1024)) (fin32 (w / 32768)) (fin64 (w / 1048576 % 32 + 32 * (w / 512 % 2))) (fin8 (w / 33554432)) (bitAt w 4))
  | n => .error (.unallocated 30 n)

/-- Major 0x1F (R201). -/
def dec1F (w : Nat) : Except Reject Instr :=
  match w / 134217728 % 32 with
  | 0 => if ¬ w / 2097152 % 64 = 0 then .error (.reserved 31 0) else
    .ok (.vsetvl (fin64 (w / 512)) (fin64 (w / 32768)) (bitAt w 4))
  | 1 => if ¬ w / 16384 % 2 = 0 then .error (.reserved 31 1) else
    if ¬ w / 2097152 % 64 = 0 then .error (.reserved 31 1) else
    .ok (.vsplat (fin32 (w / 512)) (fin64 (w / 32768)) (bitAt w 4))
  | 2 => if ¬ w / 1048576 % 2 = 0 then .error (.reserved 31 2) else
    .ok (.vextr (fin64 (w / 512)) (fin32 (w / 32768)) (fin64 (w / 2097152)) (bitAt w 4))
  | n => .error (.unallocated 31 n)

/-- Major 0x20 (R201). -/
def dec20 (w : Nat) : Except Reject Instr :=
  match w / 268435456 % 16 with
  | 0 => if ¬ w / 1048576 % 32 = 0 then .error (.reserved 32 0) else
    .ok (.vredAdd (LaneTy.ofCode (w / 512 % 2)) (fin32 (w / 1024)) (fin32 (w / 32768)) (fin8 (w / 33554432)) (bitAt w 4))
  | 1 => if ¬ w / 1048576 % 32 = 0 then .error (.reserved 32 1) else
    .ok (.vredMin (LaneTy.ofCode (w / 512 % 2)) (fin32 (w / 1024)) (fin32 (w / 32768)) (fin8 (w / 33554432)) (bitAt w 4))
  | 2 => if ¬ w / 1048576 % 32 = 0 then .error (.reserved 32 2) else
    .ok (.vredMax (LaneTy.ofCode (w / 512 % 2)) (fin32 (w / 1024)) (fin32 (w / 32768)) (fin8 (w / 33554432)) (bitAt w 4))
  | 4 => if ¬ w / 1048576 % 32 = 0 then .error (.reserved 32 4) else
    .ok (.vscanAdd (LaneTy.ofCode (w / 512 % 2)) (fin32 (w / 1024)) (fin32 (w / 32768)) (fin8 (w / 33554432)) (bitAt w 4))
  | 5 => if ¬ w / 1048576 % 32 = 0 then .error (.reserved 32 5) else
    .ok (.vscanMin (LaneTy.ofCode (w / 512 % 2)) (fin32 (w / 1024)) (fin32 (w / 32768)) (fin8 (w / 33554432)) (bitAt w 4))
  | 6 => if ¬ w / 1048576 % 32 = 0 then .error (.reserved 32 6) else
    .ok (.vscanMax (LaneTy.ofCode (w / 512 % 2)) (fin32 (w / 1024)) (fin32 (w / 32768)) (fin8 (w / 33554432)) (bitAt w 4))
  | n => .error (.unallocated 32 n)

/-- Major 0x21 (R201). -/
def dec21 (w : Nat) : Except Reject Instr :=
  match w / 268435456 % 16 with
  | 0 => if w / 512 % 2 = 1 then .error (.unallocated 33 0) else
    if ¬ w / 1048576 % 32 = 0 then .error (.reserved 33 0) else
    .ok (.vexp2 (fin32 (w / 1024)) (fin32 (w / 32768)) (fin8 (w / 33554432)) (bitAt w 4))
  | 1 => if w / 512 % 2 = 1 then .error (.unallocated 33 1) else
    if ¬ w / 1048576 % 32 = 0 then .error (.reserved 33 1) else
    .ok (.vrcp (fin32 (w / 1024)) (fin32 (w / 32768)) (fin8 (w / 33554432)) (bitAt w 4))
  | 2 => if w / 512 % 2 = 1 then .error (.unallocated 33 2) else
    if ¬ w / 1048576 % 32 = 0 then .error (.reserved 33 2) else
    .ok (.vrsqrt (fin32 (w / 1024)) (fin32 (w / 32768)) (fin8 (w / 33554432)) (bitAt w 4))
  | n => .error (.unallocated 33 n)

/-- Major 0x22 (R201). -/
def dec22 (w : Nat) : Except Reject Instr :=
  if ¬ w / 1073741824 % 4 = 0 then .error (.reserved 34 0) else
  if w / 512 % 2 = 0 ∧ ¬ w / 268435456 % 4 = 0 then .error (.reserved 34 0) else
  .ok (.vdot (LaneTy.ofCode (w / 512 % 2)) (fin32 (w / 1024)) (fin32 (w / 32768)) (fin32 (w / 1048576)) (fin8 (w / 33554432)) (bitAt w 268435456) (bitAt w 536870912) (bitAt w 4))

/-- Major 0x23 (R201). -/
def dec23 (w : Nat) : Except Reject Instr :=
  match w / 268435456 % 16 with
  | 0 => if ¬ w / 512 % 2 = 0 then .error (.reserved 35 0) else
    if ¬ w / 1048576 % 32 = 0 then .error (.reserved 35 0) else
    .ok (.vcompress (fin32 (w / 1024)) (fin32 (w / 32768)) (fin8 (w / 33554432)) (bitAt w 4))
  | 1 => if ¬ w / 512 % 2 = 0 then .error (.reserved 35 1) else
    if ¬ w / 1048576 % 32 = 0 then .error (.reserved 35 1) else
    .ok (.vexpand (fin32 (w / 1024)) (fin32 (w / 32768)) (fin8 (w / 33554432)) (bitAt w 4))
  | n => .error (.unallocated 35 n)

/-- Major 0x28 (R201). -/
def dec28 (w : Nat) : Except Reject Instr :=
  if ¬ w / 1048576 % 4 = 0 then .error (.reserved 40 0) else
  if ¬ w / 536870912 % 8 = 0 then .error (.reserved 40 0) else
  .ok (.mma (fin8 (w / 512)) (fin16 (w / 4096)) (fin16 (w / 65536)) (fin64 (w / 4194304)) (bitAt w 268435456) (bitAt w 4))

/-- Major 0x29 (R201). -/
def dec29 (w : Nat) : Except Reject Instr :=
  if w / 536870912 % 2 = 0 then
    if ¬ w / 1073741824 % 4 = 0 then .error (.reserved 41 0) else
    .ok (.bmm (fin8 (w / 512)) (fin32 (w / 4096)) (fin32 (w / 131072)) (fin64 (w / 4194304)) (bitAt w 268435456) (bitAt w 4))
  else
    if ¬ w / 1073741824 % 4 = 0 then .error (.reserved 41 0) else
    .ok (.bmmR (fin8 (w / 512)) (fin32 (w / 4096)) (fin32 (w / 131072)) (fin64 (w / 4194304)) (bitAt w 268435456) (bitAt w 4))

/-- Major 0x2A (R201). -/
def dec2A (w : Nat) : Except Reject Instr :=
  match w / 268435456 % 16 with
  | 0 => if ¬ w / 512 % 8 = 0 then .error (.reserved 42 0) else
    if ¬ w / 65536 % 64 = 0 then .error (.reserved 42 0) else
    .ok (.qcfg (fin16 (w / 4096)) (fin64 (w / 4194304)) (bitAt w 4))
  | 1 => if ¬ w / 512 % 8 = 0 then .error (.reserved 42 1) else
    if ¬ w / 65536 % 64 = 0 then .error (.reserved 42 1) else
    .ok (.qstat (fin16 (w / 4096)) (fin64 (w / 4194304)) (bitAt w 4))
  | 2 => if ¬ w / 512 % 8 = 0 then .error (.reserved 42 2) else
    if ¬ w / 65536 % 64 = 0 then .error (.reserved 42 2) else
    .ok (.twait (fin16 (w / 4096)) (fin64 (w / 4194304)) (bitAt w 4))
  | 3 => if ¬ w / 512 % 8 = 0 then .error (.reserved 42 3) else
    if ¬ w / 1048576 % 4 = 0 then .error (.reserved 42 3) else
    .ok (.tstate (fin256 (w / 4096)) (fin64 (w / 4194304)) (bitAt w 4))
  | 4 => if ¬ w / 4096 % 1024 = 0 then .error (.reserved 42 4) else
    .ok (.acfg (fin8 (w / 512)) (fin64 (w / 4194304)) (bitAt w 4))
  | 5 => if ¬ w / 4096 % 65536 = 0 then .error (.reserved 42 5) else
    .ok (.azero (fin8 (w / 512)) (bitAt w 4))
  | 6 => if ¬ w / 32768 % 8192 = 0 then .error (.reserved 42 6) else
    .ok (.amov (fin8 (w / 512)) (fin8 (w / 4096)) (bitAt w 4))
  | n => .error (.unallocated 42 n)

/-- Major 0x2B (R201). -/
def dec2B (w : Nat) : Except Reject Instr :=
  if ¬ w / 65536 % 64 = 0 then .error (.reserved 43 0) else
  if ¬ w / 1073741824 % 4 = 0 then .error (.reserved 43 0) else
  .ok (.rowsum (fin8 (w / 512)) (fin16 (w / 4096)) (fin64 (w / 4194304)) (bitAt w 268435456) (bitAt w 536870912) (bitAt w 4))

/-- Major 0x2C (R201). -/
def dec2C (w : Nat) : Except Reject Instr :=
  match w / 268435456 % 4 with
  | 0 => if ¬ w / 524288 % 8 = 0 then .error (.reserved 44 0) else
    if ¬ w / 2147483648 % 2 = 0 then .error (.reserved 44 0) else
    .ok (.drain (fin8 (w / 512)) (fin16 (w / 4096)) (Rm.ofCode (w / 65536 % 4)) (bitAt w 262144) (fin64 (w / 4194304)) (bitAt w 1073741824) (bitAt w 4))
  | 1 => if ¬ w / 65536 % 64 = 0 then .error (.reserved 44 1) else
    if ¬ w / 2147483648 % 2 = 0 then .error (.reserved 44 1) else
    .ok (.drainq (fin8 (w / 512)) (fin16 (w / 4096)) (fin64 (w / 4194304)) (bitAt w 1073741824) (bitAt w 4))
  | 2 => if ¬ w / 524288 % 8 = 0 then .error (.reserved 44 2) else
    if ¬ w / 2147483648 % 2 = 0 then .error (.reserved 44 2) else
    .ok (.drainr (fin8 (w / 512)) (fin16 (w / 4096)) (Rm.ofCode (w / 65536 % 4)) (bitAt w 262144) (fin64 (w / 4194304)) (bitAt w 1073741824) (bitAt w 4))
  | n => .error (.unallocated 44 n)

/-- Major 0x2D (R201). -/
def dec2D (w : Nat) : Except Reject Instr :=
  match w / 268435456 % 16 with
  | 0 => if ¬ w / 65536 % 64 = 0 then .error (.reserved 45 0) else
    .ok (.spush (fin8 (w / 512)) (fin16 (w / 4096)) (fin64 (w / 4194304)) (bitAt w 4))
  | 1 => if ¬ w / 1048576 % 4 = 0 then .error (.reserved 45 1) else
    .ok (.smma (fin8 (w / 512)) (fin16 (w / 4096)) (fin16 (w / 65536)) (fin64 (w / 4194304)) (bitAt w 4))
  | 2 => if ¬ w / 65536 % 64 = 0 then .error (.reserved 45 2) else
    .ok (.speg (fin8 (w / 512)) (fin16 (w / 4096)) (fin64 (w / 4194304)) (bitAt w 4))
  | 3 => if ¬ w / 1048576 % 256 = 0 then .error (.reserved 45 3) else
    if ¬ MergeSrc.unused w = 0 then .error (.reserved 45 3) else
    .ok (.smerge (fin8 (w / 512)) (MergeSrc.ofBits w) (bitAt w 4))
  | 4 => if ¬ w / 65536 % 4096 = 0 then .error (.reserved 45 4) else
    .ok (.sread (fin8 (w / 512)) (fin16 (w / 4096)) (bitAt w 4))
  | n => .error (.unallocated 45 n)

/-- Major 0x2E (R201). -/
def dec2E (w : Nat) : Except Reject Instr :=
  match w / 268435456 % 16 with
  | 0 => if ¬ w / 4096 % 1024 = 0 then .error (.reserved 46 0) else
    if ¬ w / 134217728 % 2 = 0 then .error (.reserved 46 0) else
    .ok (.smaxr (fin8 (w / 512)) (fin32 (w / 4194304)) (bitAt w 4))
  | 1 => if ¬ w / 4096 % 1024 = 0 then .error (.reserved 46 1) else
    if ¬ w / 134217728 % 2 = 0 then .error (.reserved 46 1) else
    .ok (.expt (fin8 (w / 512)) (fin32 (w / 4194304)) (bitAt w 4))
  | 2 => if ¬ w / 8192 % 512 = 0 then .error (.reserved 46 2) else
    if ¬ w / 134217728 % 2 = 0 then .error (.reserved 46 2) else
    .ok (.rescale (fin8 (w / 512)) (bitAt w 4096) (fin32 (w / 4194304)) (bitAt w 4))
  | 3 => if ¬ w / 4096 % 1024 = 0 then .error (.reserved 46 3) else
    if ¬ w / 134217728 % 2 = 0 then .error (.reserved 46 3) else
    .ok (.rowdiv (fin8 (w / 512)) (fin32 (w / 4194304)) (bitAt w 4))
  | n => .error (.unallocated 46 n)

/-- Major 0x2F (R201). -/
def dec2F (w : Nat) : Except Reject Instr :=
  if ¬ w / 1048576 % 4 = 0 then .error (.reserved 47 0) else
  if ¬ w / 268435456 % 16 = 0 then .error (.reserved 47 0) else
  .ok (.lspmm (fin8 (w / 512)) (fin16 (w / 4096)) (fin16 (w / 65536)) (fin64 (w / 4194304)) (bitAt w 4))

/-- Major 0x34 (R201). -/
def dec34 (w : Nat) : Except Reject Instr :=
  match w / 2097152 % 64 with
  | 0 => if ¬ w / 134217728 % 32 = 0 then .error (.reserved 52 0) else
    .ok (.send (fin64 (w / 512)) (fin64 (w / 32768)) (bitAt w 4))
  | 1 => if ¬ w / 512 % 4096 = 0 then .error (.reserved 52 1) else
    if ¬ w / 134217728 % 32 = 0 then .error (.reserved 52 1) else
    .ok (.hret (bitAt w 4))
  | 2 => if ¬ w / 134217728 % 32 = 0 then .error (.reserved 52 2) else
    .ok (.mbox (fin64 (w / 512)) (fin64 (w / 32768)) (bitAt w 4))
  | n => .error (.unallocated 52 n)

/-- Major 0x35 (R201). -/
def dec35 (w : Nat) : Except Reject Instr :=
  match w / 2097152 % 4 with
  | 0 => if w / 134217728 % 8 = 0 ∨ 4 ≤ w / 134217728 % 8 then .error (.unallocated 53 0) else
    .ok (.bar (fin64 (w / 512)) (fin64 (w / 32768)) (fin16 (w / 8388608)) (Scope.ofCode (w / 134217728 % 8)) (Red.ofCode (w / 1073741824 % 4)) (bitAt w 4))
  | 1 => if w / 134217728 % 8 = 0 ∨ 4 ≤ w / 134217728 % 8 then .error (.unallocated 53 1) else
    .ok (.barw (fin64 (w / 512)) (fin64 (w / 32768)) (fin16 (w / 8388608)) (Scope.ofCode (w / 134217728 % 8)) (Red.ofCode (w / 1073741824 % 4)) (bitAt w 4))
  | 2 => if w / 134217728 % 8 = 0 ∨ 4 ≤ w / 134217728 % 8 then .error (.unallocated 53 2) else
    .ok (.sstep (fin64 (w / 512)) (fin64 (w / 32768)) (fin16 (w / 8388608)) (Scope.ofCode (w / 134217728 % 8)) (Red.ofCode (w / 1073741824 % 4)) (bitAt w 4))
  | n => .error (.unallocated 53 n)

/-- Major 0x36 (R201). -/
def dec36 (w : Nat) : Except Reject Instr :=
  match w / 2097152 % 64 with
  | 0 => if ¬ w / 134217728 % 32 = 0 then .error (.reserved 54 0) else
    .ok (.dpush (fin64 (w / 512)) (fin64 (w / 32768)) (bitAt w 4))
  | 1 => if ¬ w / 32768 % 64 = 0 then .error (.reserved 54 1) else
    if ¬ w / 134217728 % 32 = 0 then .error (.reserved 54 1) else
    .ok (.dpop (fin64 (w / 512)) (bitAt w 4))
  | 2 => if ¬ w / 32768 % 64 = 0 then .error (.reserved 54 2) else
    if ¬ w / 134217728 % 32 = 0 then .error (.reserved 54 2) else
    .ok (.dsplit (fin64 (w / 512)) (bitAt w 4))
  | 3 => if w / 134217728 % 8 = 0 ∨ 3 ≤ w / 134217728 % 8 then .error (.unallocated 54 3) else
    if ¬ w / 32768 % 64 = 0 then .error (.reserved 54 3) else
    if ¬ w / 1073741824 % 4 = 0 then .error (.reserved 54 3) else
    .ok (.dsteal (fin64 (w / 512)) (Scope.ofCode (w / 134217728 % 8)) (bitAt w 4))
  | n => .error (.unallocated 54 n)

/-- Major 0x37 (R201). -/
def dec37 (w : Nat) : Except Reject Instr :=
  match w / 2097152 % 64 with
  | 0 => if ¬ w / 512 % 64 = 0 then .error (.reserved 55 0) else
    if ¬ w / 134217728 % 32 = 0 then .error (.reserved 55 0) else
    .ok (.get (fin64 (w / 32768)) (bitAt w 4))
  | 1 => if ¬ w / 512 % 64 = 0 then .error (.reserved 55 1) else
    if ¬ w / 134217728 % 32 = 0 then .error (.reserved 55 1) else
    .ok (.put (fin64 (w / 32768)) (bitAt w 4))
  | 2 => if ¬ w / 134217728 % 32 = 0 then .error (.reserved 55 2) else
    .ok (.cwait (fin64 (w / 512)) (fin64 (w / 32768)) (bitAt w 4))
  | n => .error (.unallocated 55 n)

/-- Major 0x38 (R201). -/
def dec38 (w : Nat) : Except Reject Instr :=
  match w / 2097152 % 64 with
  | 0 => if ¬ w / 134217728 % 32 = 0 then .error (.reserved 56 0) else
    .ok (.copy (fin64 (w / 512)) (fin64 (w / 32768)) (bitAt w 4))
  | 1 => if w / 134217728 % 8 = 0 ∨ 4 ≤ w / 134217728 % 8 then .error (.unallocated 56 1) else
    if w / 1073741824 % 4 = 3 then .error (.unallocated 56 1) else
    if ¬ w / 512 % 64 = 0 then .error (.reserved 56 1) else
    .ok (.cred (fin64 (w / 32768)) (Scope.ofCode (w / 134217728 % 8)) (CredOrd.ofCode (w / 1073741824 % 4)) (bitAt w 4))
  | n => .error (.unallocated 56 n)

/-- Major 0x39 (R201). -/
def dec39 (w : Nat) : Except Reject Instr :=
  match w / 2097152 % 64 with
  | 0 => if ¬ w / 134217728 % 32 = 0 then .error (.reserved 57 0) else
    .ok (.lld (fin64 (w / 512)) (fin64 (w / 32768)) (bitAt w 4))
  | 1 => if ¬ w / 134217728 % 32 = 0 then .error (.reserved 57 1) else
    .ok (.lst (fin64 (w / 512)) (fin64 (w / 32768)) (bitAt w 4))
  | 2 => if ¬ w / 134217728 % 32 = 0 then .error (.reserved 57 2) else
    .ok (.ladd (fin64 (w / 512)) (fin64 (w / 32768)) (bitAt w 4))
  | 3 => if ¬ w / 134217728 % 32 = 0 then .error (.reserved 57 3) else
    .ok (.lscan (fin64 (w / 512)) (fin64 (w / 32768)) (bitAt w 4))
  | 4 => if ¬ w / 134217728 % 32 = 0 then .error (.reserved 57 4) else
    .ok (.lcount (fin64 (w / 512)) (fin64 (w / 32768)) (bitAt w 4))
  | 5 => if ¬ w / 134217728 % 32 = 0 then .error (.reserved 57 5) else
    .ok (.ldense (fin64 (w / 512)) (fin64 (w / 32768)) (bitAt w 4))
  | 6 => if ¬ w / 134217728 % 32 = 0 then .error (.reserved 57 6) else
    .ok (.lgrow (fin64 (w / 512)) (fin64 (w / 32768)) (bitAt w 4))
  | n => .error (.unallocated 57 n)

/-- Major 0x3A (R201). -/
def dec3A (w : Nat) : Except Reject Instr :=
  match w / 2097152 % 64 with
  | 0 => if ¬ w / 134217728 % 32 = 0 then .error (.reserved 58 0) else
    .ok (.treq (fin64 (w / 512)) (fin64 (w / 32768)) (bitAt w 4))
  | 1 => if ¬ w / 512 % 64 = 0 then .error (.reserved 58 1) else
    if ¬ w / 134217728 % 32 = 0 then .error (.reserved 58 1) else
    .ok (.tret (fin64 (w / 32768)) (bitAt w 4))
  | 2 => if ¬ w / 32768 % 64 = 0 then .error (.reserved 58 2) else
    if ¬ w / 134217728 % 32 = 0 then .error (.reserved 58 2) else
    .ok (.tstat (fin64 (w / 512)) (bitAt w 4))
  | n => .error (.unallocated 58 n)

/-- Major 0x3B (R201). -/
def dec3B (w : Nat) : Except Reject Instr :=
  match w / 2097152 % 64 with
  | 0 => if ¬ w / 134217728 % 32 = 0 then .error (.reserved 59 0) else
    .ok (.compose (fin64 (w / 512)) (fin64 (w / 32768)) (bitAt w 4))
  | 1 => if ¬ w / 512 % 4096 = 0 then .error (.reserved 59 1) else
    if ¬ w / 134217728 % 32 = 0 then .error (.reserved 59 1) else
    .ok (.decompose (bitAt w 4))
  | 2 => if ¬ w / 134217728 % 32 = 0 then .error (.reserved 59 2) else
    .ok (.gang (fin64 (w / 512)) (fin64 (w / 32768)) (bitAt w 4))
  | 3 => if ¬ w / 512 % 64 = 0 then .error (.reserved 59 3) else
    if ¬ w / 134217728 % 32 = 0 then .error (.reserved 59 3) else
    .ok (.join (fin64 (w / 32768)) (bitAt w 4))
  | 4 => if ¬ w / 134217728 % 32 = 0 then .error (.reserved 59 4) else
    .ok (.launch (fin64 (w / 512)) (fin64 (w / 32768)) (bitAt w 4))
  | n => .error (.unallocated 59 n)

/-- Major 0x3C (R201). -/
def dec3C (w : Nat) : Except Reject Instr :=
  match w / 2097152 % 64 with
  | 0 => if ¬ w / 134217728 % 32 = 0 then .error (.reserved 60 0) else
    .ok (.trap (fin64 (w / 512)) (fin64 (w / 32768)) (bitAt w 4))
  | 1 => if ¬ w / 134217728 % 32 = 0 then .error (.reserved 60 1) else
    .ok (.eret (fin64 (w / 512)) (fin64 (w / 32768)) (bitAt w 4))
  | 2 => if srnAllocated (w / 32768 % 64 + 64 * (w / 134217728 % 32)) = false then .error (.unallocated 60 2) else
    .ok (.srd (fin64 (w / 512)) (fin2048 (w / 32768 % 64 + 64 * (w / 134217728 % 32))) (bitAt w 4))
  | 3 => if srnAllocated (w / 32768 % 64 + 64 * (w / 134217728 % 32)) = false then .error (.unallocated 60 3) else
    .ok (.swr (fin64 (w / 512)) (fin2048 (w / 32768 % 64 + 64 * (w / 134217728 % 32))) (bitAt w 4))
  | n => .error (.unallocated 60 n)

/-- Major 0x3D (R201). -/
def dec3D (w : Nat) : Except Reject Instr :=
  match w / 2097152 % 64 with
  | 0 =>
    match w / 1073741824 with
    | 0 => if ¬ w / 134217728 % 8 = 0 then .error (.reserved 61 0) else
      .ok (.tlbiPage (fin64 (w / 512)) (fin64 (w / 32768)) (bitAt w 4))
    | 1 => if ¬ w / 512 % 64 = 0 then .error (.reserved 61 0) else
      if ¬ w / 134217728 % 8 = 0 then .error (.reserved 61 0) else
      .ok (.tlbiAsid (fin64 (w / 32768)) (bitAt w 4))
    | 2 => if ¬ w / 512 % 4096 = 0 then .error (.reserved 61 0) else
      if ¬ w / 134217728 % 8 = 0 then .error (.reserved 61 0) else
      .ok (.tlbiGlobal (bitAt w 4))
    | _ => if ¬ w / 512 % 4096 = 0 then .error (.reserved 61 0) else
      if ¬ w / 134217728 % 8 = 0 then .error (.reserved 61 0) else
      .ok (.tlbiPart (bitAt w 4))
  | 1 => if ¬ w / 512 % 4096 = 0 then .error (.reserved 61 1) else
    if ¬ w / 134217728 % 32 = 0 then .error (.reserved 61 1) else
    .ok (.ifence (bitAt w 4))
  | 2 => if ¬ w / 512 % 64 = 0 then .error (.reserved 61 2) else
    if ¬ w / 134217728 % 32 = 0 then .error (.reserved 61 2) else
    .ok (.tblld (fin64 (w / 32768)) (bitAt w 4))
  | 3 => if 2 ≤ w / 32768 % 64 then .error (.unallocated 61 3) else
    if ¬ w / 134217728 % 32 = 0 then .error (.reserved 61 3) else
    .ok (.meter (fin64 (w / 512)) (bitAt w 32768) (bitAt w 4))
  | n => .error (.unallocated 61 n)

/-- A 32-bit instruction (R196, R201); `w` is its word. -/
def decode32 (w : Nat) : Except Reject Instr :=
  match w / 8 % 64 with
  | 0 => dec00 w
  | 1 => dec01 w
  | 2 => dec02 w
  | 3 => dec03 w
  | 4 => dec04 w
  | 5 => dec05 w
  | 6 => dec06 w
  | 7 => dec07 w
  | 8 => dec08 w
  | 9 => dec09 w
  | 10 => dec0A w
  | 11 => dec0B w
  | 12 => dec0C w
  | 13 => dec0D w
  | 14 => dec0E w
  | 16 => dec10 w
  | 17 => dec11 w
  | 18 => dec12 w
  | 19 => dec13 w
  | 20 => dec14 w
  | 21 => dec15 w
  | 22 => dec16 w
  | 23 => dec17 w
  | 24 => dec18 w
  | 25 => dec19 w
  | 26 => dec1A w
  | 27 => dec1B w
  | 28 => dec1C w
  | 29 => dec1D w
  | 30 => dec1E w
  | 31 => dec1F w
  | 32 => dec20 w
  | 33 => dec21 w
  | 34 => dec22 w
  | 35 => dec23 w
  | 40 => dec28 w
  | 41 => dec29 w
  | 42 => dec2A w
  | 43 => dec2B w
  | 44 => dec2C w
  | 45 => dec2D w
  | 46 => dec2E w
  | 47 => dec2F w
  | 52 => dec34 w
  | 53 => dec35 w
  | 54 => dec36 w
  | 55 => dec37 w
  | 56 => dec38 w
  | 57 => dec39 w
  | 58 => dec3A w
  | 59 => dec3B w
  | 60 => dec3C w
  | 61 => dec3D w
  | n => .error (.unallocated n 0)

/-- Compact quadrant Q0 (R199). -/
def decQ0 (w : Nat) : Except Reject Instr :=
  match w / 8 % 16 with
  | 0 => if w / 128 % 256 = 0 then .error (.unallocated 255 0) else
    if ¬ w / 32768 % 2 = 0 then .error (.reserved 0 14) else
    .ok (.cMov (fin16 (w / 128)) (fin16 (w / 2048)) (bitAt w 4))
  | 1 => if ¬ w / 32768 % 2 = 0 then .error (.reserved 0 0) else
    .ok (.cAdd (fin16 (w / 128)) (fin16 (w / 2048)) (bitAt w 4))
  | 2 => if ¬ w / 32768 % 2 = 0 then .error (.reserved 0 1) else
    .ok (.cSub (fin16 (w / 128)) (fin16 (w / 2048)) (bitAt w 4))
  | 3 => if ¬ w / 32768 % 2 = 0 then .error (.reserved 0 2) else
    .ok (.cAnd (fin16 (w / 128)) (fin16 (w / 2048)) (bitAt w 4))
  | 4 => if ¬ w / 32768 % 2 = 0 then .error (.reserved 0 3) else
    .ok (.cOr (fin16 (w / 128)) (fin16 (w / 2048)) (bitAt w 4))
  | 5 => if ¬ w / 32768 % 2 = 0 then .error (.reserved 0 4) else
    .ok (.cXor (fin16 (w / 128)) (fin16 (w / 2048)) (bitAt w 4))
  | 6 => if ¬ w / 32768 % 2 = 0 then .error (.reserved 0 6) else
    .ok (.cShl (fin16 (w / 128)) (fin16 (w / 2048)) (bitAt w 4))
  | 7 => if ¬ w / 32768 % 2 = 0 then .error (.reserved 0 7) else
    .ok (.cShr (fin16 (w / 128)) (fin16 (w / 2048)) (bitAt w 4))
  | 8 => if ¬ w / 128 % 16 = 0 then .error (.reserved 12 0) else
    if ¬ w / 32768 % 2 = 0 then .error (.reserved 12 0) else
    .ok (.cJr (fin16 (w / 2048)) (bitAt w 4))
  | 9 => if ¬ w / 128 % 16 = 0 then .error (.reserved 12 1) else
    if ¬ w / 32768 % 2 = 0 then .error (.reserved 12 1) else
    .ok (.cCallr (fin16 (w / 2048)) (bitAt w 4))
  | 10 => if ¬ w / 128 % 512 = 0 then .error (.reserved 12 2) else
    .ok (.cRet (bitAt w 4))
  | 11 => if ¬ w / 128 % 512 = 0 then .error (.reserved 14 0) else
    .ok (.cNop (bitAt w 4))
  | _ => .error (.unallocated 255 0)

/-- Compact quadrant Q1 (R199). -/
def decQ1 (w : Nat) : Except Reject Instr :=
  match w / 8 % 16 with
  | 0 => .ok (.cAddi (fin16 (w / 128)) (BitVec.ofNat 5 (w / 2048)) (bitAt w 4))
  | 1 => .ok (.cLi (fin16 (w / 128)) (BitVec.ofNat 5 (w / 2048)) (bitAt w 4))
  | 2 => .ok (.cB (BitVec.ofNat 9 (w / 128)) (bitAt w 4))
  | _ => .error (.unallocated 255 0)

/-- Compact quadrant Q2 (R199). -/
def decQ2 (w : Nat) : Except Reject Instr :=
  match w / 8 % 16 with
  | 0 => if ¬ w / 32768 % 2 = 0 then .error (.reserved 16 0) else
    .ok (.cLd (fin16 (w / 128)) (fin16 (w / 2048)) (bitAt w 4))
  | 1 => if ¬ w / 32768 % 2 = 0 then .error (.reserved 18 0) else
    .ok (.cSt (fin16 (w / 128)) (fin16 (w / 2048)) (bitAt w 4))
  | 2 => if ¬ w / 32768 % 2 = 0 then .error (.reserved 16 0) else
    .ok (.cLdW (fin16 (w / 128)) (fin16 (w / 2048)) (bitAt w 4))
  | 3 => if ¬ w / 32768 % 2 = 0 then .error (.reserved 18 0) else
    .ok (.cStW (fin16 (w / 128)) (fin16 (w / 2048)) (bitAt w 4))
  | 4 => if ¬ w / 32768 % 2 = 0 then .error (.reserved 16 0) else
    .ok (.cLdPost (fin16 (w / 128)) (fin16 (w / 2048)) (bitAt w 4))
  | 5 => if ¬ w / 32768 % 2 = 0 then .error (.reserved 18 0) else
    .ok (.cStPost (fin16 (w / 128)) (fin16 (w / 2048)) (bitAt w 4))
  | 6 => if ¬ w / 32768 % 2 = 0 then .error (.reserved 17 3) else
    .ok (.cLdc (fin16 (w / 128)) (fin16 (w / 2048)) (bitAt w 4))
  | 7 => if ¬ w / 32768 % 2 = 0 then .error (.reserved 19 0) else
    .ok (.cStc (fin16 (w / 128)) (fin16 (w / 2048)) (bitAt w 4))
  | _ => .error (.unallocated 255 0)

/-- Length in bytes of the instruction whose first parcel is `p` (R191). -/
def lengthOf (p : Nat) : Nat := if p % 4 = 3 then 4 else 2

/-- An instruction of one parcel, in its quadrant (R191, R199). -/
def decode16 (w : Nat) : Except Reject Instr :=
  match w % 4 with
  | 0 => decQ0 w
  | 1 => decQ1 w
  | _ => decQ2 w

/-- The instruction at the front of a list of bytes and the bytes after it (R191: parcels are little-endian). -/
def decode (bs : List Byte) : Except Reject (Instr × List Byte) :=
  match bs with
  | b0 :: b1 :: rest =>
    let p := b0.toNat + 256 * b1.toNat
    if p % 4 = 3 then
      match rest with
      | b2 :: b3 :: rest' => (decode32 (p + 65536 * (b2.toNat + 256 * b3.toNat))).map (·, rest')
      | _ => .error .truncated
    else (decode16 p).map (·, rest)
  | _ => .error .truncated

/-- The `n` low bytes of a number, least significant first (R4). -/
def bytesLE : Nat → Nat → List Byte
  | 0, _ => []
  | n + 1, x => BitVec.ofNat 8 x :: bytesLE n (x / 256)

/-- The instruction that the decoder reads from a word of `nbits` bits whose further bits are zero. -/
def decodeTableWord (nbits w : Nat) : Option Instr :=
  match decode (bytesLE 4 (w % 2 ^ nbits)) with
  | .ok (i, _) => some i
  | .error _ => none


/-- The bytes an instruction occupies and its word (R196, R199, R201, R277); none for an event, which has no
encoding. -/
def encodeWord (i : Instr) : Option (Nat × Nat) :=
  match i with
  | .add d a b sw => some (4, 3 + sw.toNat * 4 + d.val * 512 + a.val * 32768 + b.val * 2097152)
  | .sub d a b sw => some (4, 134217731 + sw.toNat * 4 + d.val * 512 + a.val * 32768 + b.val * 2097152)
  | .and d a b sw => some (4, 268435459 + sw.toNat * 4 + d.val * 512 + a.val * 32768 + b.val * 2097152)
  | .or d a b sw => some (4, 402653187 + sw.toNat * 4 + d.val * 512 + a.val * 32768 + b.val * 2097152)
  | .xor d a b sw => some (4, 536870915 + sw.toNat * 4 + d.val * 512 + a.val * 32768 + b.val * 2097152)
  | .andn d a b sw => some (4, 671088643 + sw.toNat * 4 + d.val * 512 + a.val * 32768 + b.val * 2097152)
  | .shl d a b sw => some (4, 805306371 + sw.toNat * 4 + d.val * 512 + a.val * 32768 + b.val * 2097152)
  | .shr d a b sw => some (4, 939524099 + sw.toNat * 4 + d.val * 512 + a.val * 32768 + b.val * 2097152)
  | .shra d a b sw => some (4, 1073741827 + sw.toNat * 4 + d.val * 512 + a.val * 32768 + b.val * 2097152)
  | .rot d a b sw => some (4, 1207959555 + sw.toNat * 4 + d.val * 512 + a.val * 32768 + b.val * 2097152)
  | .min d a b sw => some (4, 1342177283 + sw.toNat * 4 + d.val * 512 + a.val * 32768 + b.val * 2097152)
  | .max d a b sw => some (4, 1476395011 + sw.toNat * 4 + d.val * 512 + a.val * 32768 + b.val * 2097152)
  | .clz d a sw => some (4, 1610612739 + sw.toNat * 4 + d.val * 512 + a.val * 32768)
  | .popc d a sw => some (4, 1744830467 + sw.toNat * 4 + d.val * 512 + a.val * 32768)
  | .mov d a sw => some (4, 1879048195 + sw.toNat * 4 + d.val * 512 + a.val * 32768)
  | .mul d a b sw => some (4, 11 + sw.toNat * 4 + d.val * 512 + a.val * 32768 + b.val * 2097152)
  | .mulh d a b sw => some (4, 134217739 + sw.toNat * 4 + d.val * 512 + a.val * 32768 + b.val * 2097152)
  | .mulhU d a b sw => some (4, 268435467 + sw.toNat * 4 + d.val * 512 + a.val * 32768 + b.val * 2097152)
  | .div d a b sw => some (4, 402653195 + sw.toNat * 4 + d.val * 512 + a.val * 32768 + b.val * 2097152)
  | .divU d a b sw => some (4, 536870923 + sw.toNat * 4 + d.val * 512 + a.val * 32768 + b.val * 2097152)
  | .rem d a b sw => some (4, 671088651 + sw.toNat * 4 + d.val * 512 + a.val * 32768 + b.val * 2097152)
  | .remU d a b sw => some (4, 805306379 + sw.toNat * 4 + d.val * 512 + a.val * 32768 + b.val * 2097152)
  | .addi d a imm sw => some (4, 19 + sw.toNat * 4 + d.val * 512 + a.val * 32768 + imm.toNat * 2097152)
  | .li d imm sw => some (4, 27 + sw.toNat * 4 + d.val * 512 + imm.toNat * 32768)
  | .lih d imm sw => some (4, 35 + sw.toNat * 4 + d.val * 512 + imm.toNat * 32768)
  | .cmpEq p a b sw => some (4, 43 + sw.toNat * 4 + p.val * 512 + a.val * 32768 + b.val * 2097152)
  | .cmpNe p a b sw => some (4, 4139 + sw.toNat * 4 + p.val * 512 + a.val * 32768 + b.val * 2097152)
  | .cmpLt p a b sw => some (4, 8235 + sw.toNat * 4 + p.val * 512 + a.val * 32768 + b.val * 2097152)
  | .cmpGe p a b sw => some (4, 12331 + sw.toNat * 4 + p.val * 512 + a.val * 32768 + b.val * 2097152)
  | .cmpLtu p a b sw => some (4, 16427 + sw.toNat * 4 + p.val * 512 + a.val * 32768 + b.val * 2097152)
  | .cmpGeu p a b sw => some (4, 20523 + sw.toNat * 4 + p.val * 512 + a.val * 32768 + b.val * 2097152)
  | .sel d a b k sw => some (4, 51 + sw.toNat * 4 + d.val * 512 + a.val * 32768 + b.val * 2097152 + k.val * 134217728)
  | .pand d a b sw => some (4, 59 + sw.toNat * 4 + d.val * 512 + a.val * 32768 + b.val * 2097152)
  | .por d a b sw => some (4, 134217787 + sw.toNat * 4 + d.val * 512 + a.val * 32768 + b.val * 2097152)
  | .pxor d a b sw => some (4, 268435515 + sw.toNat * 4 + d.val * 512 + a.val * 32768 + b.val * 2097152)
  | .pnot d a sw => some (4, 402653243 + sw.toNat * 4 + d.val * 512 + a.val * 32768)
  | .csetb d a b sw => some (4, 67 + sw.toNat * 4 + d.val * 512 + a.val * 32768 + b.val * 2097152)
  | .cgetb d a sw => some (4, 134217795 + sw.toNat * 4 + d.val * 512 + a.val * 32768)
  | .cgetl d a sw => some (4, 268435523 + sw.toNat * 4 + d.val * 512 + a.val * 32768)
  | .candp d a b sw => some (4, 402653251 + sw.toNat * 4 + d.val * 512 + a.val * 32768 + b.val * 2097152)
  | .cseal d a b sw => some (4, 536870979 + sw.toNat * 4 + d.val * 512 + a.val * 32768 + b.val * 2097152)
  | .cunseal d a b sw => some (4, 671088707 + sw.toNat * 4 + d.val * 512 + a.val * 32768 + b.val * 2097152)
  | .cadd d a b sw => some (4, 805306435 + sw.toNat * 4 + d.val * 512 + a.val * 32768 + b.val * 2097152)
  | .ctag d a sw => some (4, 939524163 + sw.toNat * 4 + d.val * 512 + a.val * 32768)
  | .cclr d a sw => some (4, 1073741891 + sw.toNat * 4 + d.val * 512 + a.val * 32768)
  | .ceq d a b sw => some (4, 1207959619 + sw.toNat * 4 + d.val * 512 + a.val * 32768 + b.val * 2097152)
  | .cderive d a b sw => some (4, 1342177347 + sw.toNat * 4 + d.val * 512 + a.val * 32768 + b.val * 2097152)
  | .b k n off sw => some (4, 75 + sw.toNat * 4 + k.val * 512 + n.toNat * 4096 + off.toNat * 8192)
  | .j off sw => some (4, 83 + sw.toNat * 4 + off.toNat * 512)
  | .call off sw => some (4, 91 + sw.toNat * 4 + off.toNat * 512)
  | .jr a sw => some (4, 99 + sw.toNat * 4 + a.val * 32768)
  | .callr a sw => some (4, 134217827 + sw.toNat * 4 + a.val * 32768)
  | .ret sw => some (4, 268435555 + sw.toNat * 4)
  | .loop a imm sw => some (4, 107 + sw.toNat * 4 + a.val * 32768 + imm.toNat * 2097152)
  | .nop sw => some (4, 115 + sw.toNat * 4)
  | .exit a sw => some (4, 134217843 + sw.toNat * 4 + a.val * 32768)
  | .wfe sw => some (4, 268435571 + sw.toNat * 4)
  | .lbreak sw => some (4, 402653299 + sw.toNat * 4)
  | .ld t z mem sw => some (4, 131 + sw.toNat * 4 + t.val * 512 + z.val * 8388608 + mem.bits)
  | .ldSb t mem sw => some (4, 139 + sw.toNat * 4 + t.val * 512 + mem.bits)
  | .ldSh t mem sw => some (4, 8388747 + sw.toNat * 4 + t.val * 512 + mem.bits)
  | .ldSw t mem sw => some (4, 16777355 + sw.toNat * 4 + t.val * 512 + mem.bits)
  | .ldc t mem sw => some (4, 25165963 + sw.toNat * 4 + t.val * 512 + mem.bits)
  | .st t z mem sw => some (4, 147 + sw.toNat * 4 + t.val * 512 + z.val * 8388608 + mem.bits)
  | .stc t mem sw => some (4, 155 + sw.toNat * 4 + t.val * 512 + mem.bits)
  | .ldf t mem sw => some (4, 8388763 + sw.toNat * 4 + t.val * 512 + mem.bits)
  | .stf t mem sw => some (4, 16777371 + sw.toNat * 4 + t.val * 512 + mem.bits)
  | .pref mem sw => some (4, 25165979 + sw.toNat * 4 + mem.bits)
  | .repCopy d a b z sw => some (4, 163 + sw.toNat * 4 + d.val * 512 + a.val * 32768 + b.val * 2097152 + z.val * 268435456)
  | .repFill d a b z sw => some (4, 134217891 + sw.toNat * 4 + d.val * 512 + a.val * 32768 + b.val * 2097152 + z.val * 268435456)
  | .fence kinds w scope sw => some (4, 171 + sw.toNat * 4 + kinds.toNat * 512 + w.toNat * 32768 + scope.code * 134217728)
  | .ldAqB d b scope sw => some (4, 2097323 + sw.toNat * 4 + d.val * 512 + b.val * 32768 + scope.code * 134217728)
  | .ldAqH d b scope sw => some (4, 4194475 + sw.toNat * 4 + d.val * 512 + b.val * 32768 + scope.code * 134217728)
  | .ldAqW d b scope sw => some (4, 6291627 + sw.toNat * 4 + d.val * 512 + b.val * 32768 + scope.code * 134217728)
  | .ldAq d b scope sw => some (4, 8388779 + sw.toNat * 4 + d.val * 512 + b.val * 32768 + scope.code * 134217728)
  | .stRlB t b scope sw => some (4, 10485931 + sw.toNat * 4 + t.val * 512 + b.val * 32768 + scope.code * 134217728)
  | .stRlH t b scope sw => some (4, 12583083 + sw.toNat * 4 + t.val * 512 + b.val * 32768 + scope.code * 134217728)
  | .stRlW t b scope sw => some (4, 14680235 + sw.toNat * 4 + t.val * 512 + b.val * 32768 + scope.code * 134217728)
  | .stRl t b scope sw => some (4, 16777387 + sw.toNat * 4 + t.val * 512 + b.val * 32768 + scope.code * 134217728)
  | .sbind n d sw => some (4, 33554603 + sw.toNat * 4 + n.val * 512 + d.val * 32768)
  | .sunbind n sw => some (4, 35651755 + sw.toNat * 4 + n.val * 512)
  | .sstat d k sw => some (4, 37748907 + sw.toNat * 4 + d.val * 512 + k.val * 32768)
  | .amoAdd d b z scope ord sw => some (4, 179 + sw.toNat * 4 + d.val * 512 + b.val * 32768 + z.toNat * 33554432 + scope.code * 134217728 + ord.code * 1073741824)
  | .amoAnd d b z scope ord sw => some (4, 2097331 + sw.toNat * 4 + d.val * 512 + b.val * 32768 + z.toNat * 33554432 + scope.code * 134217728 + ord.code * 1073741824)
  | .amoOr d b z scope ord sw => some (4, 4194483 + sw.toNat * 4 + d.val * 512 + b.val * 32768 + z.toNat * 33554432 + scope.code * 134217728 + ord.code * 1073741824)
  | .amoXor d b z scope ord sw => some (4, 6291635 + sw.toNat * 4 + d.val * 512 + b.val * 32768 + z.toNat * 33554432 + scope.code * 134217728 + ord.code * 1073741824)
  | .amoMin d b z scope ord sw => some (4, 8388787 + sw.toNat * 4 + d.val * 512 + b.val * 32768 + z.toNat * 33554432 + scope.code * 134217728 + ord.code * 1073741824)
  | .amoMax d b z scope ord sw => some (4, 10485939 + sw.toNat * 4 + d.val * 512 + b.val * 32768 + z.toNat * 33554432 + scope.code * 134217728 + ord.code * 1073741824)
  | .amoMinu d b z scope ord sw => some (4, 12583091 + sw.toNat * 4 + d.val * 512 + b.val * 32768 + z.toNat * 33554432 + scope.code * 134217728 + ord.code * 1073741824)
  | .amoMaxu d b z scope ord sw => some (4, 14680243 + sw.toNat * 4 + d.val * 512 + b.val * 32768 + z.toNat * 33554432 + scope.code * 134217728 + ord.code * 1073741824)
  | .amoSwap d b z scope ord sw => some (4, 16777395 + sw.toNat * 4 + d.val * 512 + b.val * 32768 + z.toNat * 33554432 + scope.code * 134217728 + ord.code * 1073741824)
  | .cas d b n scope ord sw => some (4, 187 + sw.toNat * 4 + d.val * 512 + b.val * 32768 + n.val * 2097152 + scope.code * 134217728 + ord.code * 1073741824)
  | .vadd ty d a b g sw => some (4, 195 + sw.toNat * 4 + ty.code * 512 + d.val * 1024 + a.val * 32768 + b.val * 1048576 + g.val * 33554432)
  | .vsub ty d a b g sw => some (4, 268435651 + sw.toNat * 4 + ty.code * 512 + d.val * 1024 + a.val * 32768 + b.val * 1048576 + g.val * 33554432)
  | .vmul ty d a b g sw => some (4, 536871107 + sw.toNat * 4 + ty.code * 512 + d.val * 1024 + a.val * 32768 + b.val * 1048576 + g.val * 33554432)
  | .vmin ty d a b g sw => some (4, 805306563 + sw.toNat * 4 + ty.code * 512 + d.val * 1024 + a.val * 32768 + b.val * 1048576 + g.val * 33554432)
  | .vmax ty d a b g sw => some (4, 1073742019 + sw.toNat * 4 + ty.code * 512 + d.val * 1024 + a.val * 32768 + b.val * 1048576 + g.val * 33554432)
  | .vabs ty d a g sw => some (4, 1342177475 + sw.toNat * 4 + ty.code * 512 + d.val * 1024 + a.val * 32768 + g.val * 33554432)
  | .vneg ty d a g sw => some (4, 1610612931 + sw.toNat * 4 + ty.code * 512 + d.val * 1024 + a.val * 32768 + g.val * 33554432)
  | .vand d a b g sw => some (4, 1879048899 + sw.toNat * 4 + d.val * 1024 + a.val * 32768 + b.val * 1048576 + g.val * 33554432)
  | .vor d a b g sw => some (4, 2147484355 + sw.toNat * 4 + d.val * 1024 + a.val * 32768 + b.val * 1048576 + g.val * 33554432)
  | .vxor d a b g sw => some (4, 2415919811 + sw.toNat * 4 + d.val * 1024 + a.val * 32768 + b.val * 1048576 + g.val * 33554432)
  | .vshl d a b g sw => some (4, 2684355267 + sw.toNat * 4 + d.val * 1024 + a.val * 32768 + b.val * 1048576 + g.val * 33554432)
  | .vshr d a b g sw => some (4, 2952790723 + sw.toNat * 4 + d.val * 1024 + a.val * 32768 + b.val * 1048576 + g.val * 33554432)
  | .vshra d a b g sw => some (4, 3221226179 + sw.toNat * 4 + d.val * 1024 + a.val * 32768 + b.val * 1048576 + g.val * 33554432)
  | .vadds d a b g sw => some (4, 3489661635 + sw.toNat * 4 + d.val * 1024 + a.val * 32768 + b.val * 1048576 + g.val * 33554432)
  | .vsubs d a b g sw => some (4, 3758097091 + sw.toNat * 4 + d.val * 1024 + a.val * 32768 + b.val * 1048576 + g.val * 33554432)
  | .vfma ty d a b g sw => some (4, 203 + sw.toNat * 4 + ty.code * 512 + d.val * 1024 + a.val * 32768 + b.val * 1048576 + g.val * 33554432)
  | .vfnma ty d a b g sw => some (4, 268435659 + sw.toNat * 4 + ty.code * 512 + d.val * 1024 + a.val * 32768 + b.val * 1048576 + g.val * 33554432)
  | .vcmpEq ty p a b g sw => some (4, 211 + sw.toNat * 4 + ty.code * 512 + p.val * 1024 + a.val * 32768 + b.val * 1048576 + g.val * 33554432)
  | .vcmpNe ty p a b g sw => some (4, 268435667 + sw.toNat * 4 + ty.code * 512 + p.val * 1024 + a.val * 32768 + b.val * 1048576 + g.val * 33554432)
  | .vcmpLt ty p a b g sw => some (4, 536871123 + sw.toNat * 4 + ty.code * 512 + p.val * 1024 + a.val * 32768 + b.val * 1048576 + g.val * 33554432)
  | .vcmpLe ty p a b g sw => some (4, 805306579 + sw.toNat * 4 + ty.code * 512 + p.val * 1024 + a.val * 32768 + b.val * 1048576 + g.val * 33554432)
  | .vsel d a b k sw => some (4, 219 + sw.toNat * 4 + d.val * 1024 + a.val * 32768 + b.val * 1048576 + k.val * 33554432)
  | .vcvtDec d a g w sw => some (4, 227 + sw.toNat * 4 + d.val * 1024 + a.val * 32768 + g.val * 33554432 + w.val * 268435456)
  | .vcvtDecMx d a c g w sw => some (4, 227 + sw.toNat * 4 + d.val * 1024 + a.val * 32768 + c.val * 1048576 + g.val * 33554432 + w.val * 268435456)
  | .vcvtEnc d a t g w sw => some (4, 739 + sw.toNat * 4 + d.val * 1024 + a.val * 32768 + t.toNat * 1048576 + g.val * 33554432 + w.val * 268435456)
  | .vcvtEncMx d a c g w sw => some (4, 739 + sw.toNat * 4 + d.val * 1024 + a.val * 32768 + c.val * 1048576 + g.val * 33554432 + w.val * 268435456)
  | .vld d b e g sw => some (4, 235 + sw.toNat * 4 + d.val * 1024 + b.val * 32768 + e.val * 2097152 + g.val * 67108864)
  | .vst d b e g sw => some (4, 536871147 + sw.toNat * 4 + d.val * 1024 + b.val * 32768 + e.val * 2097152 + g.val * 67108864)
  | .vgather d b i g sw => some (4, 1073742059 + sw.toNat * 4 + d.val * 1024 + b.val * 32768 + i.val * 2097152 + g.val * 67108864)
  | .vscatter d b i g sw => some (4, 1610612971 + sw.toNat * 4 + d.val * 1024 + b.val * 32768 + i.val * 2097152 + g.val * 67108864)
  | .vshuf d a b g sw => some (4, 243 + sw.toNat * 4 + d.val * 1024 + a.val * 32768 + b.val * 1048576 + g.val * 33554432)
  | .vbcast d a lane g sw => some (4, 268435699 + sw.toNat * 4 + d.val * 1024 + a.val * 32768 + (lane.val % 32) * 1048576 + (lane.val / 32) * 512 + g.val * 33554432)
  | .vsetvl d a sw => some (4, 251 + sw.toNat * 4 + d.val * 512 + a.val * 32768)
  | .vsplat d a sw => some (4, 134217979 + sw.toNat * 4 + d.val * 512 + a.val * 32768)
  | .vextr d a b sw => some (4, 268435707 + sw.toNat * 4 + d.val * 512 + a.val * 32768 + b.val * 2097152)
  | .vredAdd ty d a g sw => some (4, 259 + sw.toNat * 4 + ty.code * 512 + d.val * 1024 + a.val * 32768 + g.val * 33554432)
  | .vredMin ty d a g sw => some (4, 268435715 + sw.toNat * 4 + ty.code * 512 + d.val * 1024 + a.val * 32768 + g.val * 33554432)
  | .vredMax ty d a g sw => some (4, 536871171 + sw.toNat * 4 + ty.code * 512 + d.val * 1024 + a.val * 32768 + g.val * 33554432)
  | .vscanAdd ty d a g sw => some (4, 1073742083 + sw.toNat * 4 + ty.code * 512 + d.val * 1024 + a.val * 32768 + g.val * 33554432)
  | .vscanMin ty d a g sw => some (4, 1342177539 + sw.toNat * 4 + ty.code * 512 + d.val * 1024 + a.val * 32768 + g.val * 33554432)
  | .vscanMax ty d a g sw => some (4, 1610612995 + sw.toNat * 4 + ty.code * 512 + d.val * 1024 + a.val * 32768 + g.val * 33554432)
  | .vexp2 d a g sw => some (4, 267 + sw.toNat * 4 + d.val * 1024 + a.val * 32768 + g.val * 33554432)
  | .vrcp d a g sw => some (4, 268435723 + sw.toNat * 4 + d.val * 1024 + a.val * 32768 + g.val * 33554432)
  | .vrsqrt d a g sw => some (4, 536871179 + sw.toNat * 4 + d.val * 1024 + a.val * 32768 + g.val * 33554432)
  | .vdot ty d a b g u q sw => some (4, 275 + sw.toNat * 4 + ty.code * 512 + d.val * 1024 + a.val * 32768 + b.val * 1048576 + g.val * 33554432 + u.toNat * 268435456 + q.toNat * 536870912)
  | .vcompress d a g sw => some (4, 283 + sw.toNat * 4 + d.val * 1024 + a.val * 32768 + g.val * 33554432)
  | .vexpand d a g sw => some (4, 268435739 + sw.toNat * 4 + d.val * 1024 + a.val * 32768 + g.val * 33554432)
  | .mma n a b w c sw => some (4, 323 + sw.toNat * 4 + n.val * 512 + a.val * 4096 + b.val * 65536 + w.val * 4194304 + c.toNat * 268435456)
  | .bmm n a b w c sw => some (4, 331 + sw.toNat * 4 + n.val * 512 + a.val * 4096 + b.val * 131072 + w.val * 4194304 + c.toNat * 268435456)
  | .bmmR n a b w c sw => some (4, 536871243 + sw.toNat * 4 + n.val * 512 + a.val * 4096 + b.val * 131072 + w.val * 4194304 + c.toNat * 268435456)
  | .qcfg q w sw => some (4, 339 + sw.toNat * 4 + q.val * 4096 + w.val * 4194304)
  | .qstat q w sw => some (4, 268435795 + sw.toNat * 4 + q.val * 4096 + w.val * 4194304)
  | .twait q w sw => some (4, 536871251 + sw.toNat * 4 + q.val * 4096 + w.val * 4194304)
  | .tstate t w sw => some (4, 805306707 + sw.toNat * 4 + t.val * 4096 + w.val * 4194304)
  | .acfg n w sw => some (4, 1073742163 + sw.toNat * 4 + n.val * 512 + w.val * 4194304)
  | .azero n sw => some (4, 1342177619 + sw.toNat * 4 + n.val * 512)
  | .amov n m sw => some (4, 1610613075 + sw.toNat * 4 + n.val * 512 + m.val * 4096)
  | .rowsum n a w o k sw => some (4, 347 + sw.toNat * 4 + n.val * 512 + a.val * 4096 + w.val * 4194304 + o.toNat * 268435456 + k.toNat * 536870912)
  | .drain n q rm t w z sw => some (4, 355 + sw.toNat * 4 + n.val * 512 + q.val * 4096 + rm.code * 65536 + t.toNat * 262144 + w.val * 4194304 + z.toNat * 1073741824)
  | .drainq n q w z sw => some (4, 268435811 + sw.toNat * 4 + n.val * 512 + q.val * 4096 + w.val * 4194304 + z.toNat * 1073741824)
  | .drainr n q rm t w z sw => some (4, 536871267 + sw.toNat * 4 + n.val * 512 + q.val * 4096 + rm.code * 65536 + t.toNat * 262144 + w.val * 4194304 + z.toNat * 1073741824)
  | .spush n j w sw => some (4, 363 + sw.toNat * 4 + n.val * 512 + j.val * 4096 + w.val * 4194304)
  | .smma n a b w sw => some (4, 268435819 + sw.toNat * 4 + n.val * 512 + a.val * 4096 + b.val * 65536 + w.val * 4194304)
  | .speg n j w sw => some (4, 536871275 + sw.toNat * 4 + n.val * 512 + j.val * 4096 + w.val * 4194304)
  | .smerge n src sw => some (4, 805306731 + sw.toNat * 4 + n.val * 512 + src.bits)
  | .sread n q sw => some (4, 1073742187 + sw.toNat * 4 + n.val * 512 + q.val * 4096)
  | .smaxr n v sw => some (4, 371 + sw.toNat * 4 + n.val * 512 + v.val * 4194304)
  | .expt n v sw => some (4, 268435827 + sw.toNat * 4 + n.val * 512 + v.val * 4194304)
  | .rescale n l v sw => some (4, 536871283 + sw.toNat * 4 + n.val * 512 + l.toNat * 4096 + v.val * 4194304)
  | .rowdiv n v sw => some (4, 805306739 + sw.toNat * 4 + n.val * 512 + v.val * 4194304)
  | .lspmm n k b w sw => some (4, 379 + sw.toNat * 4 + n.val * 512 + k.val * 4096 + b.val * 65536 + w.val * 4194304)
  | .send h b sw => some (4, 419 + sw.toNat * 4 + h.val * 512 + b.val * 32768)
  | .hret sw => some (4, 2097571 + sw.toNat * 4)
  | .mbox d o sw => some (4, 4194723 + sw.toNat * 4 + d.val * 512 + o.val * 32768)
  | .bar d v i scope red sw => some (4, 427 + sw.toNat * 4 + d.val * 512 + v.val * 32768 + i.val * 8388608 + scope.code * 134217728 + red.code * 1073741824)
  | .barw d v i scope red sw => some (4, 2097579 + sw.toNat * 4 + d.val * 512 + v.val * 32768 + i.val * 8388608 + scope.code * 134217728 + red.code * 1073741824)
  | .sstep d v i scope red sw => some (4, 4194731 + sw.toNat * 4 + d.val * 512 + v.val * 32768 + i.val * 8388608 + scope.code * 134217728 + red.code * 1073741824)
  | .dpush d r sw => some (4, 435 + sw.toNat * 4 + d.val * 512 + r.val * 32768)
  | .dpop d sw => some (4, 2097587 + sw.toNat * 4 + d.val * 512)
  | .dsplit d sw => some (4, 4194739 + sw.toNat * 4 + d.val * 512)
  | .dsteal d scope sw => some (4, 6291891 + sw.toNat * 4 + d.val * 512 + scope.code * 134217728)
  | .get b sw => some (4, 443 + sw.toNat * 4 + b.val * 32768)
  | .put b sw => some (4, 2097595 + sw.toNat * 4 + b.val * 32768)
  | .cwait d c sw => some (4, 4194747 + sw.toNat * 4 + d.val * 512 + c.val * 32768)
  | .copy p c sw => some (4, 451 + sw.toNat * 4 + p.val * 512 + c.val * 32768)
  | .cred b scope ord sw => some (4, 2097603 + sw.toNat * 4 + b.val * 32768 + scope.code * 134217728 + ord.code * 1073741824)
  | .lld p l sw => some (4, 459 + sw.toNat * 4 + p.val * 512 + l.val * 32768)
  | .lst p l sw => some (4, 2097611 + sw.toNat * 4 + p.val * 512 + l.val * 32768)
  | .ladd p l sw => some (4, 4194763 + sw.toNat * 4 + p.val * 512 + l.val * 32768)
  | .lscan p l sw => some (4, 6291915 + sw.toNat * 4 + p.val * 512 + l.val * 32768)
  | .lcount d l sw => some (4, 8389067 + sw.toNat * 4 + d.val * 512 + l.val * 32768)
  | .ldense b l sw => some (4, 10486219 + sw.toNat * 4 + b.val * 512 + l.val * 32768)
  | .lgrow n l sw => some (4, 12583371 + sw.toNat * 4 + n.val * 512 + l.val * 32768)
  | .latticeEvent _ _ => none
  | .treq d r sw => some (4, 467 + sw.toNat * 4 + d.val * 512 + r.val * 32768)
  | .tret c sw => some (4, 2097619 + sw.toNat * 4 + c.val * 32768)
  | .tstat d sw => some (4, 4194771 + sw.toNat * 4 + d.val * 512)
  | .compose d r sw => some (4, 475 + sw.toNat * 4 + d.val * 512 + r.val * 32768)
  | .decompose sw => some (4, 2097627 + sw.toNat * 4)
  | .gang d r sw => some (4, 4194779 + sw.toNat * 4 + d.val * 512 + r.val * 32768)
  | .join k sw => some (4, 6291931 + sw.toNat * 4 + k.val * 32768)
  | .launch q p sw => some (4, 8389083 + sw.toNat * 4 + q.val * 512 + p.val * 32768)
  | .trap d a sw => some (4, 483 + sw.toNat * 4 + d.val * 512 + a.val * 32768)
  | .eret v h sw => some (4, 2097635 + sw.toNat * 4 + v.val * 512 + h.val * 32768)
  | .srd d srn sw => some (4, 4194787 + sw.toNat * 4 + d.val * 512 + (srn.val % 64) * 32768 + (srn.val / 64) * 134217728)
  | .swr v srn sw => some (4, 6291939 + sw.toNat * 4 + v.val * 512 + (srn.val % 64) * 32768 + (srn.val / 64) * 134217728)
  | .tlbiPage a b sw => some (4, 491 + sw.toNat * 4 + a.val * 512 + b.val * 32768)
  | .tlbiAsid b sw => some (4, 1073742315 + sw.toNat * 4 + b.val * 32768)
  | .tlbiGlobal sw => some (4, 2147484139 + sw.toNat * 4)
  | .tlbiPart sw => some (4, 3221225963 + sw.toNat * 4)
  | .ifence sw => some (4, 2097643 + sw.toNat * 4)
  | .tblld b sw => some (4, 4194795 + sw.toNat * 4 + b.val * 32768)
  | .meter d e sw => some (4, 6291947 + sw.toNat * 4 + d.val * 512 + e.toNat * 32768)
  | .cMov d a sw => some (2, 0 + sw.toNat * 4 + d.val * 128 + a.val * 2048)
  | .cAdd d a sw => some (2, 8 + sw.toNat * 4 + d.val * 128 + a.val * 2048)
  | .cSub d a sw => some (2, 16 + sw.toNat * 4 + d.val * 128 + a.val * 2048)
  | .cAnd d a sw => some (2, 24 + sw.toNat * 4 + d.val * 128 + a.val * 2048)
  | .cOr d a sw => some (2, 32 + sw.toNat * 4 + d.val * 128 + a.val * 2048)
  | .cXor d a sw => some (2, 40 + sw.toNat * 4 + d.val * 128 + a.val * 2048)
  | .cShl d a sw => some (2, 48 + sw.toNat * 4 + d.val * 128 + a.val * 2048)
  | .cShr d a sw => some (2, 56 + sw.toNat * 4 + d.val * 128 + a.val * 2048)
  | .cJr a sw => some (2, 64 + sw.toNat * 4 + a.val * 2048)
  | .cCallr a sw => some (2, 72 + sw.toNat * 4 + a.val * 2048)
  | .cRet sw => some (2, 80 + sw.toNat * 4)
  | .cNop sw => some (2, 88 + sw.toNat * 4)
  | .cAddi d imm sw => some (2, 1 + sw.toNat * 4 + d.val * 128 + imm.toNat * 2048)
  | .cLi d imm sw => some (2, 9 + sw.toNat * 4 + d.val * 128 + imm.toNat * 2048)
  | .cB off sw => some (2, 17 + sw.toNat * 4 + off.toNat * 128)
  | .cLd t b sw => some (2, 2 + sw.toNat * 4 + t.val * 128 + b.val * 2048)
  | .cSt t b sw => some (2, 10 + sw.toNat * 4 + t.val * 128 + b.val * 2048)
  | .cLdW t b sw => some (2, 18 + sw.toNat * 4 + t.val * 128 + b.val * 2048)
  | .cStW t b sw => some (2, 26 + sw.toNat * 4 + t.val * 128 + b.val * 2048)
  | .cLdPost t b sw => some (2, 34 + sw.toNat * 4 + t.val * 128 + b.val * 2048)
  | .cStPost t b sw => some (2, 42 + sw.toNat * 4 + t.val * 128 + b.val * 2048)
  | .cLdc t b sw => some (2, 50 + sw.toNat * 4 + t.val * 128 + b.val * 2048)
  | .cStc t b sw => some (2, 58 + sw.toNat * 4 + t.val * 128 + b.val * 2048)
  | .deferredResult _ => none
  | .chordRunCommit _ => none
  | .consortRunForward _ => none
  | .followerBufferTimeout _ => none
  | .handlerEntry _ => none
  | .localTrap _ _ => none
  | .walkComplete _ _ _ => none
  | .faultReply _ _ _ => none
  | .serviceCallReply _ _ _ => none
  | .moduleControllerCall => none
  | .machineCheck _ => none
  | .hangScan _ => none
  | .hangAbortReply _ => none
  | .qwr _ _ _ => none
  | .qctl _ _ _ => none
  | .dispatch _ => none
  | .taskStart _ => none
  | .taskSave _ => none
  | .gridResume _ => none
  | .gridComplete _ => none
  | .hprePreempt _ _ _ => none
  | .hprePreemptHold _ _ _ => none
  | .hpreResume _ _ _ => none
  | .relaunch _ _ _ => none
  | .registerWrite _ _ => none
  | .messageArrival _ => none
  | .wakeUpArrival _ => none
  | .messageRetry _ => none
  | .messageRefusalDiscard _ => none
  | .transferComplete _ _ => none
  | .slotFillComplete _ _ => none
  | .engineRetire _ => none
  | .collectiveComplete _ _ => none
  | .ownershipGrant _ _ _ => none
  | .ownershipTimeout _ _ => none
  | .storePerformed _ _ => none
  | .replicatedWrite _ _ => none
  | .replicaAck _ _ => none
  | .replicaCommit _ => none
  | .sequencerFailover => none
  | .expertRowArrival _ => none
  | .expertRelease _ _ => none
  | .overflowDecision _ _ => none
  | .tokenGrant _ _ => none
  | .revocationDeadline _ => none
  | .issueWindow _ => none
  | .zpool _ _ => none
  | .prooferRebuild _ _ => none
  | .currentTrip _ => none
  | .thermalTrip _ => none
  | .thermalClockStep _ => none
  | .tripRecovery _ => none
  | .thermalCutoff _ => none
  | .meterReconcile _ _ _ _ _ => none
  | .journalPeriod _ => none
  | .timeTablePublish _ => none
  | .clockChange _ _ _ _ => none
  | .bankDrowsy _ _ => none
  | .accumulatorRefresh _ _ => none
  | .tileLost _ _ => none
  | .tileRetire _ _ => none
  | .staleGenDrop _ => none
  | .debugRead _ _ => none
  | .linkRetrain _ _ _ _ _ _ => none
  | .linkFail _ _ => none
  | .routeSwitchover _ _ => none
  | .cinovDoorbell _ => none
  | .cinovComplete _ _ _ => none
  | .cnctl _ _ => none
  | .cinovRetransmit _ _ => none
  | .ethernetFrameRx _ _ _ => none
  | .ethernetPortFail _ => none
  | .hostMemStore _ _ _ => none
  | .hostMemRead _ _ _ => none
  | .backInvalidateResponse _ _ => none
  | .snoopTimeout _ => none
  | .cxlCacheResponse _ _ _ => none
  | .cxlLinkDown _ => none
  | .powerGood _ => none
  | .bootTimeout => none
  | .cxlConfigRequest _ => none
  | .moduleReset _ => none
  | .alwaysOnLoss => none
  | .enclosureOpen => none
  | .debugPortEnable => none
  | .moduleControllerTakeover => none
  | .readings _ _ => none
  | .partition _ => none
  | .policy _ => none
  | .census => none
  | .firmware _ _ => none
  | .coefficientTableChange _ => none
  | .readingKeyReplacement _ => none
  | .expertBufferConfiguration _ _ => none
  | .tilePowerGating _ => none
  | .laneQuadFusing _ _ => none

/-- The bytes of a well-formed instruction, little-endian; an event has none. -/
def encode (i : Instr) : List Byte :=
  match encodeWord i with
  | some (n, w) => bytesLE n w
  | none => []

end Sys2Proof
end

