-- ==== Sys2Proof/Config.lean ====
section
/-! DEFINITION. What the module fixes (R9 to R13, R100, R168) and the free values: opaque constants for what the manual
leaves open, of which nothing can be proved. -/

namespace Sys2Proof.Config

/-- Compute dies of a module (R9). -/
def dies : Nat := 56
/-- Rim dies of a module (R16). -/
def rimDies : Nat := 16
/-- Tile sites of a module (R1). -/
def tileSites : Nat := 7168
/-- Bytes of a scratchpad (R13). -/
def scratchBytes : Nat := 393216
/-- Bytes of one HBM stack (R100). -/
def stackBytes : Nat := 0xC_0000_0000
/-- HBM stacks (R100). -/
def stacks' : Nat := 32
/-- First physical address of the vaults (R100). -/
def vaultBase : Nat := 0x0_0200_0000_0000
/-- First physical address of host memory (R100). -/
def hostBase : Nat := 0x8_0000_0000_0000
/-- Bytes of one vault (R100). -/
def vaultBytes : Nat := 0x800_0000
/-- First untranslated virtual address (R97). -/
def localBase : Nat := 0x00FF_0000_0000_0000
/-- First address of the module information area (R97). -/
def infoBase : Nat := 0x00FF_0001_0000_0000
/-- First address of the expert window (R97, R331). -/
def expertBase : Nat := 0x00FE_0000_0000_0000
/-- First key of the scratchpads in the model's one memory: above the 52-bit physical space. -/
def scratchKey : Nat := 0x10_0000_0000_0000
/-- First key of the expert window's bytes in the model's one memory. -/
def expertKey : Nat := 0x20_0000_0000_0000

/-- Cycles that pass on a die around one step: the manual's times bear on no value, so the number is left free
(log entry 5). The first argument is the free-value counter, the second the die (56 + r for rim die r). -/
opaque elapsed : Nat → Nat → Nat
/-- A byte whose content the manual does not state (log entry 6). -/
opaque freeByte : Nat → BitVec 8
/-- A choice the manual leaves to the hardware, such as a TLB's victim (log entry 7). -/
opaque freeChoice : Nat → Nat
/-- The 17,088 bytes of the signature of a Hendex reading (R188, R189), by the reading key and the 96-byte body: a cryptographic
value that this model does not compute (log entry 8). -/
opaque signature : Nat → List (BitVec 8) → BitVec 136704
/-- What certifies a reading key under the module identity key (R189), of whatever length (log entry 8). -/
opaque keyCertificate : Nat → List (BitVec 8)
/-- The module identity of a module (R188), made in manufacture (log entry 8). -/
opaque moduleId : BitVec 256
/-- The value of a sum, product or conversion that the manual does not state (log entry 9). -/
opaque freeWord : Nat → BitVec 64

end Sys2Proof.Config
end

