-- ==== Sys2Proof/Machine/State.lean ====
section
/-! DEFINITION. The state of the module as plain data: what the manual gives each core (R58), die, partition, grid and
the module as a whole, with the value at module reset. Keyed parts are association lists in rising key order; a key that
is not listed holds the part's reset value. INVENTORY.md names the rule of each field. -/

namespace Sys2Proof.Machine

/-- The reasons a run of the model stops. Every fault that the manual describes is a local trap, a posted fault or a
machine check (R339) and is a next state; none of those is here. -/
inductive Fault where
  /-- Raised by a step of a core name outside the module's 7,168 tile sites (R1, R9, R11): an input names a core that
  does not exist. Safe: the hardware has no such core. -/
  | noSuchCore
  /-- Raised by an access of the model to a physical address behind which R100 says there is nothing. Safe: the manual
  gives no value there. -/
  | noSuchAddress
  deriving DecidableEq, Repr

/-- The reasons the model gives no meaning. -/
inductive Refusal where
  /-- Raised by an arm of exec whose instruction has no meaning yet. Safe. -/
  | notModelled (mnemonic : String)
  deriving DecidableEq, Repr

/-- States of a tile-table slot (R68). -/
inductive SlotState where
  | empty | filling | ready | draining
  deriving DecidableEq, Repr

/-- A tile-table slot (R68). -/
structure Slot where
  state : SlotState
  ring : Option (Fin 16)
  off : Nat
  len : Nat
  deriving DecidableEq, Repr

/-- A ring (R69). -/
structure Ring where
  first : Nat
  len : Nat
  head : Nat
  tail : Nat
  count : Nat
  deriving DecidableEq, Repr

/-- An address generator (R64); `reg` is 0 when unbound. `born` is the number of old values that the task kept when it was bound
(R238). -/
structure Stream where
  cap : Reg
  dir : Bool
  esize : Nat
  cnt0 : Nat
  cnt1 : Nat
  cnt2 : Nat
  str1 : Int
  str2 : Int
  pos : Nat
  reg : Nat
  born : Nat := 0
  deriving DecidableEq, Repr

/-- A level of the loop stack (R66). -/
structure LoopLevel where
  start : Nat
  stop : Nat
  count : Nat
  deriving DecidableEq, Repr

/-- An accumulator and its mode register (R70, R71). -/
structure Acc where
  elems : Vector Elem 256
  mode : Word
  deriving DecidableEq, Repr

/-- A class entry (R45) with the class's discard count, arrival count and deliverable latch (R46, R281). -/
structure ClassEntry where
  cap : Reg
  cfg : Word
  discards : Nat
  arrivals : Nat
  latch : Bool
  deriving DecidableEq, Repr

/-- A message held in an inbox or in the current-message buffer (R46, R48); `arrival` orders arrivals, and `place` is where the entry
of a spilled message lies: virtual addresses, keys and lengths (R47). -/
structure InMsg where
  source : Nat
  cls : Nat
  len : Nat
  data : List Word
  arrival : Nat
  place : List (Nat × Nat × Nat) := []
  deriving DecidableEq, Repr

/-- The files of registers that the run rules watch (R369). -/
inductive File where
  | w | p | v | vl
  deriving DecidableEq, Repr

/-- A register that a deferred instruction of the run has named as a result, and that instruction's run position (R369). -/
structure Pend where
  file : File
  num : Nat
  pos : Nat
  deriving DecidableEq, Repr

/-- A store that has issued and has not been performed (R118, R121): the first key and the bytes, the tag it sets if it
stores a tagged granule, whether it goes to the sequencer (R105), whether its run has committed (R155) and that run's number
in its chord (R156), and the generator whose append it is (R238). -/
structure PStore where
  key : Nat
  data : List Byte
  tag : Bool
  repl : Bool
  committed : Bool
  run : Nat := 0
  append : Option Nat := none
  deriving DecidableEq, Repr

/-- A TLB entry (R111): ASID, virtual page, page size, the leaf as the walk loaded it and its address. -/
structure TlbEntry where
  asid : Nat
  vpage : Nat
  big : Bool
  pte : Nat
  pteAddr : Nat
  part : Nat
  deriving DecidableEq, Repr

/-- One side of a transfer element: a scratchpad, translated memory, a bin (R285), the remote slot (R284), an expert
buffer (R285), or bytes already read (R292). -/
inductive Place where
  | scratch (core off : Nat)
  | virt (va : Nat)
  | bin (va capacity elen : Nat)
  | remoteSlot (off : Nat)
  | expert (entry : Nat)
  | bytes (data : List Byte)
  | nowhere
  deriving DecidableEq, Repr

/-- An element of a transfer that has not been moved (R384). -/
structure XElem where
  index : Nat
  src : Place
  dst : Place
  len : Nat
  deriving DecidableEq, Repr

/-- A transfer held by a copy engine (R286): GET, PUT, COPY, LDENSE's writes, or the second half of DRAINR (R269).
`remote` is the core of RKIND 1 and 2 or of a DRAINR, with the ring of the latter two, `slot` the local slot, `fill` whether that slot is filled,
`stopped` the SEQ of the fault that stops it (2^16 once LOCAL has handed that fault to the task), `grants` the lines that
homes have granted it and whether exclusively (R126), `ordered` that it asks for them one at a time (R390), `id` tells its rows from others. -/
structure Xfer where
  pc : Nat
  maj : Nat
  minor : Nat
  elems : List XElem
  slot : Option Nat
  fill : Bool
  remote : Option (Nat × Option Nat)
  remoteSlot : Option Nat
  bytes : Nat
  localCtr : Option Nat
  remoteCtr : Option (Nat × Nat)
  wake : Option Nat
  job : Nat
  stopped : Option Nat
  interval : Nat
  grants : List (Nat × Bool)
  ordered : Bool
  destName : Nat
  id : Nat
  deriving DecidableEq, Repr

/-- An engine instruction that has issued and not retired (R254, R274), with every operand as its issue read it; LSPMM has `owed`
issue slots still to spend as its elements stream (R273). -/
inductive EngOp where
  | mma (acc sa sb wa wb : Nat) (clear : Bool) (rm : Rm)
  | bmmStep (acc rowLo wa wb : Nat) (rows cols : List (List (Nat × Nat))) (clear : Bool) (rm : Rm)
  | rowsum (acc sa win z : Nat) (col keep : Bool) (rm : Rm)
  | drain (acc slot win : Nat) (rm : Rm) (sat zero : Bool)
  | drainq (acc slot win : Nat) (corr mult : List Int) (csel : Bool) (shift : Nat) (zout : Int) (zero : Bool)
  | spush (acc list key index : Nat)
  | smma (acc sa sb wa wb : Nat) (bound : Nat)
  | smergeAcc (acc src : Nat)
  | smergeSlot (acc slot : Nat)
  | sread (acc slot : Nat)
  | smaxr (acc vm : Nat)
  | expt (acc vm : Nat) (rm : Rm)
  | rescale (acc vm : Nat) (sl : Bool) (rm : Rm)
  | rowdiv (acc vm : Nat) (rm : Rm)
  | acfg (acc : Nat) (mode : Word)
  | azero (acc : Nat)
  | amov (dst src : Nat)
  | lspmm (acc sb wb cfmt : Nat) (cells : List (Nat × Nat × Nat)) (rm : Rm) (owed : Nat)
  deriving DecidableEq, Repr

/-- What a waiting task waits for (R55, R352): the withdrawals of R55 and R353 depend on it. -/
inductive WaitFor where
  | barrier (scope : Scope) (id : Nat) (arrivedHere barw : Bool)
  | slots
  | tokens
  | wfe
  | firstWake
  | gang (addr : Nat) (word : Word) (wd reg : Nat)
  | join (key reg : Nat)
  | reply
  | sendSpace
  | cred (scope : Scope) (k : Nat)
  | line
  | engine
  deriving DecidableEq, Repr

/-- A wait-table entry (R352): what for, the die TIME at which the wait began, and the waiting instruction's major, minor
and length, which a hang reports (R353). -/
structure Wait where
  on : WaitFor
  start : Nat
  maj : Nat
  minor : Nat
  len : Nat
  deriving DecidableEq, Repr

/-- A service call or posted fault that awaits its reply (R299, R343). `xfer` is the index of the transfer whose
element failed (R384); `wd` and `len` are the call's destination and the instruction's length, `start` the die TIME at
which it was sent (R352). -/
structure Awaiting where
  seq : Nat
  call : Bool
  report : TrapReport
  xfer : Bool
  wd : Nat
  len : Nat
  start : Nat
  deriving DecidableEq, Repr

/-- A chord on its anchor (R151): origin, shape and the members' cores in member order. -/
structure Chord where
  x0 : Nat
  y0 : Nat
  shape : Nat
  members : List Nat
  deriving DecidableEq, Repr

/-- A run that a leader forwards (R164): its start, the bytes from there as the leader fetched them, and whether the leader
came to it by a taken branch or a jump. -/
structure Forward where
  start : Nat
  bytes : List Byte
  jumped : Bool
  deriving DecidableEq, Repr

/-- A consort as each member holds it (R163 to R166): key, the leader's core, whether this member is attached, and `runs`:
for a follower the runs forwarded to it, the oldest first, for the leader its next run while that is still to be forwarded.
`started` says that the follower is in the oldest of them, `branched` that its last run ended at a branch or jump whose outcome
and target are to be compared with the leader's next run, and `jumped` that outcome; `count` is the member count that GANG
reports. -/
structure Consort where
  key : Nat
  leader : Nat
  attached : Bool
  runs : List Forward
  started : Bool
  branched : Bool
  jumped : Bool
  fullSince : Option Nat
  count : Nat
  deriving DecidableEq, Repr

/-- The grid and ranks of the task that a core holds (R38). -/
structure TaskRef where
  grid : Nat
  band : Nat
  team : Nat
  rank : Nat
  deriving DecidableEq, Repr

/-- A BAR that its run waits for at the run's end (R282): its barrier, the register that its value goes to, and its own pc, at
which the task resumes when the wait is withdrawn (R55, R353). -/
structure Due where
  scope : Scope
  inst : Nat
  id : Nat
  wd : Nat
  pc : Reg
  deriving DecidableEq, Repr

/-- Why a task is to stop at its next run boundary (R55, R343, R424). -/
inductive StopReq where
  | save | abort
  deriving DecidableEq, Repr

/-- One core with its engine and its task (R58), and what the proofer, the copy engine and the TLBs hold for it. -/
structure Tile where
  task : Option TaskRef
  w : Vector Reg 64
  p : Vector Word 8
  v : Vector (Vector Lane 64) 32
  vl : Nat
  m : Vector Word 8
  ag : Vector Stream 8
  loops : List LoopLevel
  rets : List Reg
  rscnt : Nat
  slots : Vector Slot 256
  rings : Vector Ring 16
  acc : Vector Acc 8
  pc : Reg
  hpc : Reg
  fctl : Word
  vstatus : Word
  wcfg : Vector Word 16
  rspill : Reg
  ispill : Reg
  classes : Vector ClassEntry 16
  dectab : Vector Lane 256
  ordered : Bool
  inbox : List InMsg
  spilled : List InMsg
  cmsg : Option InMsg
  deque : List (Nat × Nat)
  wake : Bool
  svcseq : Nat
  job : Nat
  asid : Nat
  eclass : Nat
  hold : Nat
  revoke : Nat
  deadline : Nat
  later : Nat
  /-- Tokens of a TRET that leave at a window start, and that start (R177); the TIME from which TSTAT shows REVOKE (R176). -/
  returns : Nat
  returnAt : Nat
  noticed : Nat
  loanStart : Nat
  bal : Int
  sbal : Int
  /-- The TIME of the latest window start whose refill the balances hold (R171). -/
  window : Nat
  trips : Nat
  handler : Bool
  runPos : Nat
  runStart : Nat
  /-- Elements that the REP in progress has moved in this execution, and whether it carries tags (R231, R232, R381). -/
  rep : Option (Nat × Bool)
  pend : List Pend
  parked : Bool
  due : List Due
  wait : Option Wait
  awaiting : List Awaiting
  stores : List PStore
  /-- What bytes held before each store of the task, the newest first, while a read generator is bound (R238). -/
  undo : List (Nat × List Byte)
  eng : List EngOp
  xfers : List Xfer
  itlb : List TlbEntry
  dtlb : List TlbEntry
  chord : Option Chord
  /-- Runs of the chord that have ended, and that have committed (R156). -/
  runs : Nat
  commits : Nat
  composed : Bool
  memberOf : Option Nat
  consort : Option Consort
  creds : Nat × Nat × Nat
  stop : Option StopReq
  svc : Word
  drowsy : List Nat
  idleSince : Nat
  /-- Engine slots and lattice operations that the meter has not yet taken over (R183). -/
  slotEvents : Nat
  latticeEvents : Nat
  deriving DecidableEq, Repr

/-- A class entry after reset: null, disabled (R45). -/
def ClassEntry.reset : ClassEntry := ⟨Reg.null, 0, 0, 0, false⟩
/-- An EMPTY slot of no ring (R58). -/
def Slot.reset : Slot := ⟨.empty, none, 0, 0⟩
/-- An unconfigured ring (R58). -/
def Ring.reset : Ring := ⟨0, 0, 0, 0, 0⟩
/-- An unbound generator (R58). -/
def Stream.reset : Stream := ⟨Reg.null, false, 0, 0, 0, 0, 0, 0, 0, 0, 0⟩
/-- A FLOAT accumulator of +0 (R58). -/
def Acc.reset : Acc := ⟨Vector.replicate 256 0, 0⟩

/-- A core that holds no task: the values of R39 and R58. The idle core also keeps the SVC register and TLBs, which do
not belong to the task. -/
def Tile.idle : Tile where
  task := none
  w := Vector.replicate 64 Reg.null
  p := (Vector.replicate 8 0).set 0 (BitVec.allOnes 64)
  v := Vector.replicate 32 (Vector.replicate 64 0)
  vl := 64
  m := Vector.replicate 8 0
  ag := Vector.replicate 8 Stream.reset
  loops := []
  rets := []
  rscnt := 0
  slots := Vector.replicate 256 Slot.reset
  rings := Vector.replicate 16 Ring.reset
  acc := Vector.replicate 8 Acc.reset
  pc := Reg.null
  hpc := Reg.null
  fctl := 0
  vstatus := 0
  wcfg := Vector.replicate 16 0
  rspill := Reg.null
  ispill := Reg.null
  classes := Vector.replicate 16 ClassEntry.reset
  dectab := Vector.replicate 256 0
  ordered := false
  inbox := []
  spilled := []
  cmsg := none
  deque := []
  wake := false
  svcseq := 0
  job := 0
  asid := 0
  eclass := 0
  hold := 0
  revoke := 0
  deadline := 0
  later := 0
  returns := 0
  returnAt := 0
  noticed := 0
  loanStart := 0
  bal := 0
  sbal := 0
  window := 0
  trips := 0
  handler := false
  runPos := 0
  runStart := 0
  rep := none
  pend := []
  parked := false
  due := []
  wait := none
  awaiting := []
  stores := []
  undo := []
  eng := []
  xfers := []
  itlb := []
  dtlb := []
  chord := none
  runs := 0
  commits := 0
  composed := false
  memberOf := none
  consort := none
  creds := (0, 0, 0)
  stop := none
  svc := 0
  drowsy := []
  idleSince := 0
  slotEvents := 0
  latticeEvents := 0

/-- A barrier instance's identifier (R44, R282): the reduction that its first arrival fixed, the arrived tasks with their
contributions, and the tasks that hold a latched value, by global rank. -/
structure Barrier where
  scope : Scope
  inst : Nat
  id : Nat
  red : Option Red
  arrived : List (Nat × Word)
  done : List (Nat × Word)
  deriving DecidableEq, Repr

/-- A participant of a collective: global rank, core, the bytes of its source, DOFF and the counter (R289, R290). -/
structure CollPart where
  grank : Nat
  core : Nat
  data : List Byte
  scales : List Byte
  doff : Nat
  ctr : Option Nat
  deriving DecidableEq, Repr

/-- A collective of an instance (R289, R290, R425): its parameters, the participants, the result once it exists, and
who still has to take it. -/
structure Coll where
  grid : Nat
  scope : Scope
  inst : Nat
  k : Nat
  ord : CredOrd
  count : Nat
  win : Nat
  parts : List CollPart
  result : Option (List Byte × List Byte)
  takers : List Nat
  deriving DecidableEq, Repr

/-- Where a grid is in its life (R33 to R36, R54 to R56, R312, R424, R426): it runs, is being saved, is saved and
competes, is held, has completed SEVERED, or is to be placed anew by a relaunch. -/
inductive GridPhase where
  | running | saving | saved | held | severed | accepted
  deriving DecidableEq, Repr

/-- What a saved task keeps beside its record (R55, R56): its core, the holding to request, whether a wake-up arrived
while it was saved, and the items whose layout in the record R75 does not state. -/
structure SavedTask where
  grank : Nat
  core : Nat
  hold : Nat
  wake : Bool
  aside : Tile
  written : Bool
  deriving DecidableEq, Repr

/-- A grid (R28, R30): its packet's fields, its placement and its progress. `cores` gives the core of each global rank,
`unstarted` the cores whose task has not begun (R39), `hold` that the save in progress ends held (R312), `sever` the die
and direction of the failed edge for which the grid stops (R424), `abort` the EXITVAL of code 3. -/
structure Grid where
  part : Nat
  queue : Nat
  slot : Nat
  packet : List Byte
  tags : Bool × Bool
  prog : Reg
  ctx : Reg
  deadline : Nat
  shape : Nat
  bands : Nat
  teams : Nat
  tasks : Nat
  job : Nat
  asid : Nat
  flags : Nat
  nmaps : Nat
  tilemask : Nat
  args : List Word
  phase : GridPhase
  late : Bool
  cores : List Nat
  exited : List Nat
  started : Option Nat
  exitval : Word
  msgdrop : Nat
  abort : Option Word
  bars : List Barrier
  saved : List SavedTask
  consorts : List (Nat × Nat × List Nat)
  noVictim : Bool
  startOrder : Nat
  unstarted : List Nat
  hold : Bool
  sever : Option (Nat × Nat)
  deriving DecidableEq, Repr

/-- A severed grid that may be relaunched (R426). -/
structure Severance where
  part : Nat
  queue : Nat
  slot : Nat
  grid : Nat
  deriving DecidableEq, Repr

/-- A launch queue's registers (R31). -/
structure Queue where
  qbase : Word
  qcbase : Word
  qctl : Word
  qwr : Nat
  qrd : Nat
  deriving DecidableEq, Repr

/-- A host window's registers (R310). -/
structure HostWin where
  base : Word
  len : Word
  host : Word
  ctl : Word
  deriving DecidableEq, Repr

/-- A Cinov entry that the engine has taken (R315, R316): its bytes and LCAP's tag, the local bytes it sends, none when LCAP
or a local page failed, and its status once it has completed. -/
structure CinovOp where
  index : Nat
  bytes : List Byte
  lcap : Bool
  sent : Option (List Byte)
  done : Option Nat
  deriving DecidableEq, Repr

/-- A partition (R29, R320) with its register block (R311). -/
structure Partition where
  live : Bool
  dies : List Nat
  hbms : List Nat
  ethPorts : List Nat
  asids : List Nat
  svc : Word
  queues : Vector Queue 16
  hpre : Word
  hangctl : Word
  relaunch : Word
  windows : Vector HostWin 8
  cnbase : Word
  cnctl : Word
  cnrd : Nat
  cnTaken : List CinovOp
  cnNext : Nat
  /-- A write of CNCTL with EN 0 that waits for the entries taken (R316). -/
  cnPending : Option Word
  peers : List (Nat × List Byte)
  groups : List (Nat × List Byte)
  lostPeers : List Nat
  retrans : List (Nat × Nat)
  /-- Connections by peer-table index: the next sequence number to send and the next to accept (R314). -/
  conns : List (Nat × Nat × Nat)
  carriers : List Nat
  /-- Route tables that firmware has installed: at a die, towards a die, the direction (R19, R422). -/
  routes : List (Nat × Nat × Nat)
  deriving DecidableEq, Repr

/-- A link edge of a die (R420) and its fret entry (R23). -/
structure Link where
  retrains : Nat
  degraded : Nat
  up : Nat
  state : Nat
  lo : Nat
  hi : Nat
  deriving DecidableEq, Repr

/-- An expert buffer (R52). `pages` are the span's mapped pool pages; `first` orders first arrivals (R53). -/
structure Expert where
  owner : Nat
  cls : Nat
  rowsz : Nat
  trig : Nat
  pinned : Bool
  pages : List Nat
  flushed : Bool
  first : Nat
  deriving DecidableEq, Repr

/-- A wait of a requester for tokens under notice: requester, victim, tokens (R174, R176). -/
structure Owed where
  requester : Nat
  victim : Nat
  tokens : Nat
  deriving DecidableEq, Repr

/-- A die (R10): compute dies 0 to 55 and rim dies as 56 + r (R16). -/
structure Die where
  time : Nat
  /-- The clock that firmware set, in steps of 25 MHz, and the thermal steps below it (R10, R411). -/
  clock : Nat
  slow : Nat
  offset : Int
  rate : Nat
  pool : Nat
  notice : Nat
  dirs : Nat
  lowmark : Nat
  lendmax : Nat
  lent : List (Nat × Nat)
  borrowed : List (Nat × Nat)
  /-- Borrowed tokens that a lender has recalled (R180), and requests that the proofer has received and not decided (R174). -/
  recalled : List (Nat × Nat)
  requests : List (Nat × Nat)
  owed : List Owed
  frozen : Bool
  rebuilds : Nat
  tripped : Bool
  thermal : Bool
  powered : Bool
  ovf : Word
  tripctl : Word
  tripstat : Word
  links : Vector Link 4
  experts : List (Nat × Expert)
  poolPages : Nat
  poolFree : Nat
  flushing : Option Nat
  badIntervals : Nat
  meterFaulty : Bool
  /-- The reference count up to which the meter has reconciled (R184), and weighted events of tasks that have left their core. -/
  metered : Nat
  counts : List (Account × Nat)
  deriving DecidableEq, Repr

/-- A message in the fabric (R46, R47): its names, class or wake-up, payload, the retry interval after a refusal, when
its refusals by a core without a task began (R357), and the grid whose MSGDROP counts it; `old` says that it was sent under route
tables that have been replaced (R132). -/
structure Msg where
  src : Nat
  srcName : Nat
  dest : Nat
  destName : Nat
  cls : Nat
  wake : Bool
  len : Nat
  data : List Word
  interval : Nat
  refusedAt : Option Nat
  grid : Option Nat
  buffered : Bool
  part : Nat
  old : Bool := false
  deriving DecidableEq, Repr

/-- A reply in the fabric (R300, R343): destination name, SEQ and value. -/
structure Reply where
  name : Nat
  seq : Nat
  value : Word
  deriving DecidableEq, Repr

/-- A row on its way to an expert buffer, or held for it (R52, R53, R358, R359). -/
structure Row where
  sender : Nat
  die : Nat
  buf : Nat
  data : List Byte
  held : Nat
  deferred : Bool
  told : Bool
  xfer : Nat
  deriving DecidableEq, Repr

/-- A write in the replicated-page sequencer (R105, R130): stamp, writer, key, bytes and tag, the copies that have
acknowledged it (dies, and 56 for the master), and the writer's transfer, 0 for its core. -/
structure RWrite where
  stamp : Nat
  writer : Nat
  key : Nat
  data : List Byte
  tag : Bool
  acks : List Nat
  copies : List Nat
  xfer : Nat := 0
  deriving DecidableEq, Repr

/-- What an account holds (R184, R187): picojoules charged since it opened, millijoules journaled, the start of its
interval, the end and CUMUL of its last signed reading (R416), the flags of its next reading (R188), whether a whole journal
period has found it without a grid, and the charges that METER may still leave out, by time (R306). -/
structure Acct where
  pj : Int
  cumul : Nat
  start : Nat
  signedTo : Nat × Nat
  gap : Bool
  preempted : Bool
  reset : Bool
  closing : Bool
  history : List (Nat × Int)
  deriving DecidableEq, Repr

/-- A Hendex reading (R188, R189): its 96-byte body and its signature once signed. -/
structure Reading where
  seq : Nat
  body : List Byte
  signature : Option (BitVec 136704)
  deriving DecidableEq, Repr

/-- What the module sends out: replies of management, of CXL, of the debug port and of Cinov. -/
inductive Output where
  | readings (rs : List Reading)
  | register (value : Word)
  | census (vacant : List Nat) (remap : List (Nat × Nat)) (gen : Nat)
  | debug (status : Nat) (value : Option (BitVec 128))
  | hostData (data : Option (List Byte))
  | aer (part : Nat)
  | configRetry
  | configOk
  | snoop (pa : Nat)
  | cinovReply (part peer : Nat) (seq : Nat) (status : Nat) (data : List Byte)
  | cinovSend (part peer udp seq op raddr len arg : Nat) (data : List Byte)
  | hostStore (port addr : Nat) (data : List Byte)
  | refusedCommand
  deriving DecidableEq, Repr

/-- Boot and recovery (R319, R434). -/
inductive BootPhase where
  | off | booting | running | recovery
  deriving DecidableEq, Repr

/-- A table of the module information area while it is written anew (R24): what it held, and how far the copy of each die is: not
begun, or SEQ odd and that many entries written, plus 1. A copy that is not listed is written whole. -/
structure Publishing where
  old : List Byte
  copies : List (Nat × Nat)
  deriving DecidableEq, Repr

/-- One thing that happens next: a core steps, or an event of the table comes about. -/
inductive Input where
  | tile (core : Nat)
  | event (i : Instr)
  deriving DecidableEq, Repr

/-- The whole module. -/
structure State where
  /-- What happens next, in order (log entry 1). -/
  inputs : List Input
  /-- The core that steps (log entry 1). -/
  cur : Nat
  /-- The counter that free values are taken at (log entry 2). -/
  free : Nat
  /-- Memory: physical space, scratchpads and expert windows, in canonical form (R100, R13, R331). -/
  mem : List Host.Cell
  /-- The tagged granules, in rising order (R106). -/
  tags : List Nat
  /-- The 8-byte words whose code is uncorrectable (R346, R387). -/
  bad : List Nat
  /-- Words of replicas whose code is uncorrectable, by the replica's die (R392). -/
  badCopies : List (Nat × Nat)
  /-- Words among them that are uncorrectable in a memory-side cache (R17, R346). -/
  badCached : List Nat
  tiles : List (Nat × Tile)
  dies : List (Nat × Die)
  parts : List (Nat × Partition)
  clusterTlbs : List (Nat × List TlbEntry)
  grids : List (Nat × Grid)
  colls : List Coll
  msgs : List Msg
  replies : List Reply
  rows : List Row
  calls : List (Nat × TrapReport × Word)
  rwrites : List RWrite
  stamp : Nat
  standbySeq : Bool
  seqLost : Bool
  /-- Lines of device memory that a host may hold (R309): their address and the logical device. -/
  snoops : List (Nat × Nat)
  /-- Lines of host memory of which the host has granted ownership (R134). -/
  hostOwned : List Nat
  refCount : Nat
  tableSeq : Nat
  fretSeq : Nat
  timePub : Option Publishing
  fretPub : Option Publishing
  gen : Nat
  vacant : List Nat
  /-- The physical tiles of logical names that are not bound to their own: its number among its die's tiles of the kind (R26). -/
  remap : List (Nat × Nat)
  gated : List Nat
  retired : List Nat
  fused : List (Nat × Nat)
  asidtab : Word
  jperiod : Word
  preempten : Word
  /-- The partitions that directly attached CXL ports present (R308). -/
  attached : List (Nat × Nat)
  accounts : List (Account × Acct)
  journal : List Reading
  seqNo : Nat
  resets : Nat
  ackSeq : Nat
  readKey : Nat
  /-- What certifies the reading key under the identity key (R189). -/
  readCert : List Byte
  /-- The reference count at the last journal (R187). -/
  journalAt : Nat
  coeffs : List Nat
  errlog : List ErrReport
  /-- CORRECTED events of the journal period, by location, not yet recorded (R345). -/
  recent : List ErrReport
  severances : List Severance
  /-- The stored policy's partitions (R319, R320), which firmware sets up at boot. -/
  policy : List PartSetup
  boot : BootPhase
  activeImage : Nat
  images : Nat × Nat
  failedBoots : Nat
  standbyCtl : Bool
  ctlLost : Bool
  staged : Option Nat
  outputs : List Output
  deriving DecidableEq, Repr

/-- A queue after reset (R31). -/
def Queue.reset : Queue := ⟨0, 0, 0, 0, 0⟩
/-- A host window after reset (R310). -/
def HostWin.reset : HostWin := ⟨0, 0, 0, 0⟩
/-- A link before boot trains it (R420). -/
def Link.reset : Link := ⟨0, 0, 0, 0, 0, 0⟩

/-- A partition that firmware has not set up, with its registers at reset: HANGCTL holds LIMIT 0x0010_0000 and KINDS
0x7F (R352). -/
def Partition.reset : Partition where
  live := false
  dies := []
  hbms := []
  ethPorts := []
  asids := []
  svc := 0
  queues := Vector.replicate 16 Queue.reset
  hpre := 0
  hangctl := 0x1000007F
  relaunch := 0
  windows := Vector.replicate 8 HostWin.reset
  cnbase := 0
  cnctl := 0
  cnrd := 0
  cnTaken := []
  cnNext := 0
  cnPending := none
  peers := []
  groups := []
  lostPeers := []
  retrans := []
  conns := []
  carriers := []
  routes := []

/-- A die after reset: ZNOTICE 512 (R181), TRIPCTL with TTRIP 105 and ITRIP 150 (R410), 1.05 GHz (R10), RATE 1.0 (R21). -/
def Die.reset : Die where
  time := 0
  clock := 42
  slow := 0
  offset := 0
  rate := 0x40000000
  pool := 0
  notice := 512
  dirs := 0
  lowmark := 0
  lendmax := 0
  lent := []
  borrowed := []
  recalled := []
  requests := []
  owed := []
  frozen := false
  rebuilds := 0
  tripped := false
  thermal := false
  powered := true
  ovf := 0
  tripctl := 0x690096
  tripstat := 0
  links := Vector.replicate 4 Link.reset
  experts := []
  poolPages := 0
  poolFree := 0
  flushing := none
  badIntervals := 0
  meterFaulty := false
  metered := 0
  counts := []

/-- The module right after reset and before boot (R319): no task anywhere, every register at its reset value. -/
def State.reset : State where
  inputs := []
  cur := 0
  free := 0
  mem := []
  tags := []
  bad := []
  badCopies := []
  badCached := []
  tiles := []
  dies := []
  parts := []
  clusterTlbs := []
  grids := []
  colls := []
  msgs := []
  replies := []
  rows := []
  calls := []
  rwrites := []
  stamp := 0
  standbySeq := false
  seqLost := false
  snoops := []
  hostOwned := []
  refCount := 0
  tableSeq := 0
  fretSeq := 0
  timePub := none
  fretPub := none
  gen := 1
  vacant := []
  remap := []
  gated := []
  retired := []
  fused := []
  asidtab := 0
  jperiod := 1000
  preempten := 0
  attached := []
  accounts := []
  journal := []
  seqNo := 0
  resets := 0
  ackSeq := 0
  readKey := 0
  readCert := []
  journalAt := 0
  coeffs := []
  errlog := []
  recent := []
  severances := []
  policy := []
  boot := .off
  activeImage := 0
  images := (0, 0)
  failedBoots := 0
  standbyCtl := false
  ctlLost := false
  staged := none
  outputs := []

end Sys2Proof.Machine
end

