-- ==== Sys2Proof/Machine/Base.lean ====
section
/-! DEFINITION. Plain operations on the state's data: keyed lists, the one memory in canonical form, granule tags, core
names, partitions, and capabilities (R60, R61). -/

namespace Sys2Proof.Machine

/-! ### Bit fields and keyed lists -/

/-- Field of `n` bits at bit `lo` (R4). -/
def bf (x lo n : Nat) : Nat := x / 2 ^ lo % 2 ^ n
/-- The `n`-bit field `x` read as two's complement (R202). -/
def sext (x n : Nat) : Int := if x % 2 ^ n < 2 ^ (n - 1) then (x % 2 ^ n : Nat) else (x % 2 ^ n : Nat) - (2 ^ n : Nat)
/-- An integer as a 64-bit word. -/
def wordOf (x : Int) : Word := BitVec.ofInt 64 x
/-- 1 for true. -/
def bit (b : Bool) : Nat := if b then 1 else 0

/-- Looks a key up; an unlisted key holds `d`. -/
def keyGet {α : Type} (d : α) : List (Nat × α) → Nat → α
  | [], _ => d
  | (k, v) :: r, n => if k = n then v else keyGet d r n
/-- Looks a key up. -/
def keyFind {α : Type} : List (Nat × α) → Nat → Option α
  | [], _ => none
  | (k, v) :: r, n => if k = n then some v else keyFind r n
/-- Sets a key, keeping rising order. -/
def keySet {α : Type} : List (Nat × α) → Nat → α → List (Nat × α)
  | [], n, x => [(n, x)]
  | (k, v) :: r, n, x => if n < k then (n, x) :: (k, v) :: r else if n = k then (n, x) :: r else (k, v) :: keySet r n x
/-- Removes a key. -/
def keyDel {α : Type} (l : List (Nat × α)) (n : Nat) : List (Nat × α) := l.filter (fun e => e.1 != n)

/-! ### Memory: canonical list of cells; an unlisted address reads as 0 (log entry 3) -/

/-- What an unlisted address reads as. -/
def Memory.default : Byte := 0
/-- One byte of memory. -/
def Memory.get : List Host.Cell → Nat → Byte
  | [], _ => Memory.default
  | (a, b) :: r, n => if n < a then Memory.default else if n = a then b else Memory.get r n
/-- Puts a cell in front unless it holds what an unlisted address reads as. -/
def Memory.cons (n : Nat) (x : Byte) (r : List Host.Cell) : List Host.Cell :=
  if x = Memory.default then r else (n, x) :: r
/-- Writes one byte, keeping the canonical form. -/
def Memory.set : List Host.Cell → Nat → Byte → List Host.Cell
  | [], n, x => Memory.cons n x []
  | (a, b) :: r, n, x =>
    if n < a then Memory.cons n x ((a, b) :: r) else if n = a then Memory.cons n x r else (a, b) :: Memory.set r n x
/-- Writes bytes at rising addresses. -/
def Memory.write : List Host.Cell → Nat → List Byte → List Host.Cell
  | m, _, [] => m
  | m, n, x :: r => Memory.write (Memory.set m n x) (n + 1) r
/-- `n` bytes from address `a`. -/
def Memory.read (m : List Host.Cell) (a : Nat) : Nat → List Byte
  | 0 => []
  | n + 1 => Memory.get m a :: Memory.read m (a + 1) n
/-- Removes the cells of a range, which then reads as 0. -/
def Memory.clear (m : List Host.Cell) (a n : Nat) : List Host.Cell :=
  m.filter (fun c => decide (c.1 < a) || decide (a + n ≤ c.1))
/-- Strictly rising addresses above a bound, and no cell equal to the default. -/
def Memory.wfFrom : Nat → List Host.Cell → Bool
  | _, [] => true
  | lo, (a, b) :: r => decide (lo ≤ a) && decide (b ≠ Memory.default) && Memory.wfFrom (a + 1) r
/-- The canonical form of memory. -/
def Memory.wf (m : List Host.Cell) : Bool := Memory.wfFrom 0 m

/-- Little-endian value of bytes (R4). -/
def leNat : List Byte → Nat
  | [] => 0
  | b :: r => b.toNat + 256 * leNat r
/-- The `n` low bytes of a value, little-endian (R4). -/
def leBytes : Nat → Nat → List Byte
  | 0, _ => []
  | n + 1, x => BitVec.ofNat 8 x :: leBytes n (x / 256)

/-- Whether a granule is tagged (R106); granules are numbered by key / 16. -/
def tagGet (l : List Nat) (g : Nat) : Bool := l.contains g
/-- Puts a granule into the rising list of tagged granules. -/
def tagIns : List Nat → Nat → List Nat
  | [], g => [g]
  | x :: r, g => if g < x then g :: x :: r else if g = x then x :: r else x :: tagIns r g
/-- Clears the tags of every granule that a range touches (R106). -/
def tagClear (l : List Nat) (a n : Nat) : List Nat :=
  l.filter (fun g => decide (16 * g + 16 ≤ a) || decide (a + n ≤ 16 * g))

/-! ### Cores, dies, names -/

/-- A die by number; an unlisted die is as after reset. -/
def State.die (s : State) (d : Nat) : Die := keyGet Die.reset s.dies d
/-- Replaces a die. -/
def State.setDie (s : State) (d : Nat) (x : Die) : State := { s with dies := keySet s.dies d x }
/-- A core's tile. -/
def State.tile (s : State) (k : Nat) : Tile := keyGet Tile.idle s.tiles k
/-- Replaces a core's tile. -/
def State.setTile (s : State) (k : Nat) (t : Tile) : State := { s with tiles := keySet s.tiles k t }
/-- Changes a core's tile. -/
def State.modTile (s : State) (k : Nat) (f : Tile → Tile) : State := s.setTile k (f (s.tile k))
/-- Changes a die. -/
def State.modDie (s : State) (d : Nat) (f : Die → Die) : State := s.setDie d (f (s.die d))
/-- The die of a core. -/
def dieOf (k : Nat) : Nat := k / 128
/-- The cluster of a core, counted over the module. -/
def clusterOf (k : Nat) : Nat := k / 16
/-- Tile kinds by tile index (R11): 0 dense, 1 sparse, 2 attention, 3 vector. -/
def kindOf (k : Nat) : Nat := if k % 16 < 8 then 0 else if k % 16 < 10 then 1 else if k % 16 < 12 then 2 else 3
/-- Tokens at full rate (R11). -/
def fullRate (k : Nat) : Nat := match kindOf k with | 0 => 4 | 1 => 3 | 2 => 4 | _ => 1
/-- The core name of a core (R25). -/
def nameAt (gen k : Nat) : Nat :=
  gen * 2 ^ 24 + (dieOf k % 8) * 2 ^ 21 + (dieOf k / 8) * 2 ^ 18 + (clusterOf k % 8) * 2 ^ 15 + (k % 16) * 2 ^ 11
/-- The core name of a core at the current generation. -/
def State.nameOf (s : State) (k : Nat) : Nat := nameAt s.gen k
/-- The core that a name names, whatever its generation; none for a row of 7 or a nonzero low field (R25). -/
def coreOf (n : Nat) : Option Nat :=
  if bf n 18 3 = 7 ∨ bf n 0 11 ≠ 0 then none
  else some ((bf n 18 3 * 8 + bf n 21 3) * 128 + bf n 15 3 * 16 + bf n 11 4)
/-- The pool manager's name of a die (R52). -/
def State.poolName (s : State) (d : Nat) : Nat := s.gen * 2 ^ 24 + d % 8 * 2 ^ 21 + d / 8 * 2 ^ 18 + 1
/-- A core whose logical name is bound to a live tile (R26). -/
def State.live (s : State) (k : Nat) : Bool := decide (k < Config.tileSites) && !(s.vacant.contains k)
/-- A partition by number. -/
def State.part (s : State) (p : Nat) : Partition := keyGet Partition.reset s.parts p
/-- Replaces a partition. -/
def State.modPart (s : State) (p : Nat) (f : Partition → Partition) : State :=
  { s with parts := keySet s.parts p (f (s.part p)) }
/-- The partition that holds a die (R29). -/
def State.partOfDie (s : State) (d : Nat) : Option Nat :=
  (s.parts.find? (fun e => e.2.live && e.2.dies.contains d)).map (·.1)
/-- The partition of a core (R29). -/
def State.partOf (s : State) (k : Nat) : Option Nat := s.partOfDie (dieOf k)
/-- The partition's number, 16 when a die belongs to none. -/
def State.partNo (s : State) (k : Nat) : Nat := (s.partOf k).getD 16
/-- A grid. -/
def State.grid? (s : State) (g : Nat) : Option Grid := keyFind s.grids g
/-- Changes a grid. -/
def State.modGrid (s : State) (g : Nat) (f : Grid → Grid) : State :=
  match keyFind s.grids g with
  | none => s
  | some x => { s with grids := keySet s.grids g (f x) }
/-- The die whose TIME is a partition's reference TIME (R22). -/
def State.refDie (s : State) (p : Nat) : Nat := (s.part p).dies.foldl min 55
/-- A partition's reference TIME (R22). -/
def State.refTime (s : State) (p : Nat) : Nat := (s.die (s.refDie p)).time
/-- The TIME of a core's die. -/
def State.timeOf (s : State) (k : Nat) : Nat := (s.die (dieOf k)).time

/-! ### Tasks and ranks (R38) -/

/-- The grid of a core's task. -/
def State.gridOf (s : State) (k : Nat) : Option Grid := ((s.tile k).task).bind (fun r => s.grid? r.grid)
/-- Global rank (R38). -/
def grankOf (g : Grid) (r : TaskRef) : Nat := (r.band * g.teams + r.team) * g.tasks + r.rank
/-- The instance of a scope that a task belongs to: its number among the grid's instances (R44). -/
def instOf (g : Grid) (sc : Scope) (r : TaskRef) : Nat :=
  match sc with
  | .task => grankOf g r
  | .team => r.band * g.teams + r.team
  | .band => r.band
  | .grid => 0
  | .system => 0
/-- Tasks of an instance of a scope. -/
def instSize (g : Grid) (sc : Scope) : Nat :=
  match sc with
  | .task => 1
  | .team => g.tasks
  | .band => g.teams * g.tasks
  | .grid => g.bands * g.teams * g.tasks
  | .system => g.bands * g.teams * g.tasks
/-- Global ranks of the members of an instance, ascending. -/
def instRanks (g : Grid) (sc : Scope) (inst : Nat) : List Nat :=
  match sc with
  | .task => [inst]
  | .grid => List.range (instSize g .grid)
  | .system => List.range (instSize g .grid)
  | _ => (List.range (instSize g sc)).map (· + inst * instSize g sc)
/-- The core of a global rank. -/
def coreOfRank (g : Grid) (r : Nat) : Nat := g.cores.getD r 0

/-! ### Capabilities (R60, R61) -/

end Sys2Proof.Machine

namespace Sys2Proof

open Machine

/-- Exponent E. -/
def Reg.e (c : Reg) : Nat := bf c.hi.toNat 24 6
/-- Base mantissa B. -/
def Reg.b (c : Reg) : Nat := bf c.hi.toNat 30 17
/-- Top mantissa T. -/
def Reg.t (c : Reg) : Nat := bf c.hi.toNat 47 17
/-- Object type; 0 is unsealed. -/
def Reg.otype (c : Reg) : Nat := bf c.hi.toNat 16 8
/-- Permission bits. -/
def Reg.perms (c : Reg) : Nat := bf c.hi.toNat 0 16
/-- Every permission of a mask is held. -/
def Reg.has (c : Reg) (m : Nat) : Bool := decide (c.perms &&& m = m)
/-- The address. -/
def Reg.addr (c : Reg) : Nat := c.lo.toNat
/-- A capability from its fields. -/
def Reg.mk' (tag : Bool) (t b e otype perms addr : Nat) : Reg :=
  ⟨tag, BitVec.ofNat 64 (t % 2 ^ 17 * 2 ^ 47 + b % 2 ^ 17 * 2 ^ 30 + e % 64 * 2 ^ 24 + otype % 256 * 2 ^ 16 + perms % 2 ^ 16),
    BitVec.ofNat 64 addr⟩

end Sys2Proof

namespace Sys2Proof.Machine

namespace Perm
/-- The permission bits of R60. -/
def load : Nat := 1
/-- STORE. -/
def store : Nat := 2
/-- EXEC. -/
def exec : Nat := 4
/-- LOAD_CAP. -/
def loadCap : Nat := 8
/-- STORE_CAP. -/
def storeCap : Nat := 16
/-- STORE_LOCAL_CAP. -/
def storeLocal : Nat := 32
/-- SEAL. -/
def sealing : Nat := 64
/-- UNSEAL. -/
def unsealing : Nat := 128
/-- GLOBAL. -/
def global : Nat := 256
/-- ENGINE. -/
def engine : Nat := 512
/-- LATTICE. -/
def lattice : Nat := 1024
/-- SYSTEM. -/
def system : Nat := 2048
end Perm

/-- Base and top of a capability (R61), on unbounded integers. -/
def capBounds (c : Reg) : Int × Int :=
  let a : Int := (c.addr / 2 ^ c.e : Nat)
  let low : Int := ((c.b : Int) - 32768) % 131072
  let w := a - ((a % 131072) - low) % 131072
  ((w + 32768) * (2 ^ c.e : Nat), (w + ((c.t : Int) - low) % 131072) * (2 ^ c.e : Nat))

/-- The address lies in the representable window (R61). -/
def capRepresents (c : Reg) (a : Nat) : Bool :=
  let base := (capBounds c).1
  decide (base - (2 ^ (c.e + 15) : Nat) ≤ a ∧ (a : Int) < base + (2 ^ (c.e + 16) : Nat) + (2 ^ (c.e + 15) : Nat))

/-- The rules of CADD (R219): ADDR takes a new value; the tag stays when nothing was added, or when the capability is
unsealed and the new address is representable. -/
def capMove (c : Reg) (same : Bool) (a : Nat) : Reg :=
  { c with lo := BitVec.ofNat 64 a,
           tag := c.tag && (same || (decide (c.otype = 0) && capRepresents c (a % 2 ^ 64))) }
/-- CADD by an offset. -/
def capAdd (c : Reg) (o : Int) : Reg := capMove c (decide (o = 0)) ((((c.addr : Int) + o) % (2 ^ 64 : Nat)).toNat)

end Sys2Proof.Machine

namespace Sys2Proof

open Machine

/-- 16 bytes of a register value, little-endian: ADDR first (R60, R4). -/
def Reg.bytes (c : Reg) : List Byte := leBytes 8 c.lo.toNat ++ leBytes 8 c.hi.toNat
/-- A register value from 16 bytes and a tag. -/
def Reg.ofBytes (tag : Bool) (l : List Byte) : Reg :=
  ⟨tag, BitVec.ofNat 64 (leNat ((l.drop 8).take 8)), BitVec.ofNat 64 (leNat (l.take 8))⟩

/-! ### Codes -/

/-- AKIND (R341). -/
def Access.code : Access → Nat
  | .none => 0 | .load => 1 | .store => 2 | .fetch => 3 | .engineRead => 4 | .engineWrite => 5 | .walk => 6 | .rmw => 7
/-- The cause word (R341). -/
def TrapReport.word (r : TrapReport) : Nat :=
  r.minor % 256 * 2 ^ 24 + r.maj % 256 * 2 ^ 16 + Access.code r.akind * 2 ^ 8 + r.cause % 256

end Sys2Proof
end

