-- ==== Sys2Proof/Machine/Flags.lean ====
section
/-! DEFINITION. Number formats, exact arithmetic, rounding and the VSTATUS flags (R77 to R96). A value is exact until one
rounding at the end. -/

namespace Sys2Proof.Machine

/-! ### Exact values -/

/-- An exact value (R83): NaN, a signed infinity, or (−1)^neg × m × 2^e, a signed zero when m = 0. -/
inductive Ext where
  | nan
  | inf (neg : Bool)
  | num (neg : Bool) (m : Nat) (e : Int)
  deriving DecidableEq, Repr

/-- A dyadic rational n × 2^e. -/
structure Dy where
  n : Int
  e : Int
  deriving DecidableEq, Repr

/-- +0. -/
def Ext.zero : Ext := .num false 0 0
/-- An integer as an exact value. -/
def Ext.ofInt (n : Int) : Ext := .num (decide (n < 0)) n.natAbs 0
/-- The value of a finite exact value. -/
def Ext.dy : Ext → Dy
  | .num neg m e => ⟨if neg then -(m : Int) else m, e⟩
  | _ => ⟨0, 0⟩
/-- Exact sum. -/
def Dy.add (a b : Dy) : Dy :=
  let e := min a.e b.e
  ⟨a.n * (2 ^ (a.e - e).toNat : Nat) + b.n * (2 ^ (b.e - e).toNat : Nat), e⟩
/-- Exact comparison a < b. -/
def Dy.lt (a b : Dy) : Bool := decide ((Dy.add a ⟨-b.n, b.e⟩).n < 0)
/-- Equal values. -/
def Dy.eqv (a b : Dy) : Bool := decide ((Dy.add a ⟨-b.n, b.e⟩).n = 0)
/-- A dyadic as an exact value, with the sign of a zero given. -/
def Dy.ext (d : Dy) (zneg : Bool) : Ext := if d.n = 0 then .num zneg 0 0 else .num (decide (d.n < 0)) d.n.natAbs d.e
/-- The value is a zero. -/
def Ext.isZero : Ext → Bool
  | .num _ m _ => decide (m = 0)
  | _ => false
/-- The value is an infinity. -/
def Ext.isInf : Ext → Bool
  | .inf _ => true
  | _ => false
/-- The value is NaN. -/
def Ext.isNan : Ext → Bool
  | .nan => true
  | _ => false
/-- Sign. -/
def Ext.neg : Ext → Bool
  | .nan => false
  | .inf n => n
  | .num n _ _ => n
/-- Negation; NaN stays NaN. -/
def Ext.negate : Ext → Ext
  | .nan => .nan
  | .inf n => .inf (!n)
  | .num n m e => .num (!n) m e
/-- Scaled by 2^k. -/
def Ext.scale (k : Int) : Ext → Ext
  | .num n m e => .num n m (e + k)
  | x => x
/-- Exact product; 0 × ∞ is NaN. -/
def Ext.mul (a b : Ext) : Ext :=
  match a, b with
  | .nan, _ => .nan
  | _, .nan => .nan
  | .inf n, y => if y.isZero then .nan else .inf (n != y.neg)
  | x, .inf n => if x.isZero then .nan else .inf (n != x.neg)
  | .num n m e, .num n' m' e' => .num (n != n') (m * m') (e + e')
/-- a < b; −0 equals +0, and a NaN is below nothing and above nothing. -/
def Ext.lt (a b : Ext) : Bool :=
  match a, b with
  | .nan, _ => false
  | _, .nan => false
  | .inf n, y => n && y != .inf true
  | _, .inf n => !n
  | x, y => Dy.lt x.dy y.dy
/-- Equal values; −0 equals +0; NaN equals nothing. -/
def Ext.eqv (a b : Ext) : Bool :=
  match a, b with
  | .nan, _ => false
  | _, .nan => false
  | .inf n, y => y == .inf n
  | _, .inf _ => false
  | x, y => Dy.eqv x.dy y.dy

/-! ### Rounding and float formats (R78, R84) -/

/-- Rounds m × 2^e to a multiple of 2^q: the multiple and whether it is inexact. -/
def roundAt (rm : Rm) (neg : Bool) (m : Nat) (e q : Int) : Nat × Bool :=
  if q ≤ e then (m * 2 ^ (e - q).toNat, false)
  else
    let d := (q - e).toNat
    let lo := m / 2 ^ d
    let rem := m % 2 ^ d
    let up := match rm with
      | .rne => decide (2 * rem > 2 ^ d) || (decide (2 * rem = 2 ^ d) && decide (lo % 2 = 1))
      | .rtz => false
      | .rdn => neg && decide (rem > 0)
      | .rup => !neg && decide (rem > 0)
    (if up then lo + 1 else lo, decide (rem > 0))

/-- How the all-ones exponent and overflow work: IEEE rule, E4M3, or E2M1 (R78, R82). -/
inductive FmtKind where
  | ieee | e4m3 | e2m1
  deriving DecidableEq, Repr

/-- A float format: exponent and fraction widths, bias, kind. -/
structure Fmt where
  ebits : Nat
  fbits : Nat
  bias : Nat
  kind : FmtKind
  deriving DecidableEq, Repr

/-- FP32. -/
def fp32 : Fmt := ⟨8, 23, 127, .ieee⟩
/-- FP16. -/
def fp16 : Fmt := ⟨5, 10, 15, .ieee⟩
/-- BF16. -/
def bf16 : Fmt := ⟨8, 7, 127, .ieee⟩
/-- FP8 E4M3. -/
def e4m3 : Fmt := ⟨4, 3, 7, .e4m3⟩
/-- FP8 E5M2. -/
def e5m2 : Fmt := ⟨5, 2, 15, .ieee⟩
/-- FP4 E2M1. -/
def e2m1 : Fmt := ⟨2, 1, 1, .e2m1⟩
/-- IF19 without its container (R79). -/
def if19 : Fmt := ⟨8, 10, 127, .ieee⟩
/-- FA80 (R80). -/
def fa80 : Fmt := ⟨15, 64, 16383, .ieee⟩

/-- The exponent of the last place of a subnormal. -/
def Fmt.minExp (f : Fmt) : Int := 1 - (f.bias : Int) - f.fbits
/-- The largest finite magnitude, as bits without sign. -/
def Fmt.maxBits (f : Fmt) : Nat :=
  match f.kind with
  | .ieee => (2 ^ f.ebits - 1) * 2 ^ f.fbits - 1
  | .e4m3 => 2 ^ (f.ebits + f.fbits) - 2
  | .e2m1 => 2 ^ (f.ebits + f.fbits) - 1
/-- Infinity, as bits without sign. -/
def Fmt.infBits (f : Fmt) : Nat := (2 ^ f.ebits - 1) * 2 ^ f.fbits
/-- The canonical NaN (R84 step 4, R80). -/
def Fmt.nanBits (f : Fmt) : Nat :=
  match f.kind with
  | .ieee => f.infBits + 2 ^ (f.fbits - 1)
  | .e4m3 => 2 ^ (f.ebits + f.fbits) - 1
  | .e2m1 => 0
/-- The sign bit's weight. -/
def Fmt.signBit (f : Fmt) : Nat := 2 ^ (f.ebits + f.fbits)

/-- The value of a code (R78). -/
def decodeFloat (f : Fmt) (x : Nat) : Ext :=
  let neg := decide (x / f.signBit % 2 = 1)
  let e := x / 2 ^ f.fbits % 2 ^ f.ebits
  let fr := x % 2 ^ f.fbits
  let special := match f.kind with
    | .ieee => decide (e = 2 ^ f.ebits - 1)
    | .e4m3 => decide (e = 2 ^ f.ebits - 1 ∧ fr = 2 ^ f.fbits - 1)
    | .e2m1 => false
  if special then (if f.kind = .ieee ∧ fr = 0 then .inf neg else .nan)
  else if e = 0 then .num neg fr f.minExp
  else .num neg (2 ^ f.fbits + fr) (f.minExp + (e - 1 : Nat))

/-- NX. -/
def flNX : Nat := 1
/-- UF. -/
def flUF : Nat := 2
/-- OF. -/
def flOF : Nat := 4
/-- DZ. -/
def flDZ : Nat := 8
/-- NV. -/
def flNV : Nat := 16

/-- Encodes an exact value (R84) with the flags of the rounding: the bits and NX, UF, OF. Tininess is detected after
rounding (R90), and a conversion that changes the value sets NX (log entry 12). The NaN of a format without infinities that −∞
gives has its sign (log entry 49). -/
def encodeFloat (f : Fmt) (rm : Rm) (sat : Bool) (x : Ext) : Nat × Nat :=
  match x with
  | .nan => (f.nanBits, if f.kind = .e2m1 then flNX else 0)
  | .inf neg =>
    let sg := if neg then f.signBit else 0
    match f.kind with
    | .ieee => (sg + f.infBits, 0)
    | .e4m3 => (if sat then sg + f.maxBits else sg + f.nanBits, flNX)
    | .e2m1 => (sg + f.maxBits, flNX)
  | .num neg m e =>
    let sg := if neg then f.signBit else 0
    if m = 0 then (sg, 0)
    else
      let top : Int := e + Nat.log2 m
      let q := max (top - f.fbits) f.minExp
      let (r, nx) := roundAt rm neg m e q
      let free := (roundAt rm neg m e (top - f.fbits)).1
      let tiny := decide (top - f.fbits + Nat.log2 free < f.minExp + f.fbits)
      let mag : Nat := if q = f.minExp then r else r + (q - f.minExp).toNat * 2 ^ f.fbits
      if mag > f.maxBits then
        let toMax := sat || (match f.kind with
          | .e2m1 => true
          | .e4m3 => false
          | .ieee => (match rm with | .rne => false | .rtz => true | .rdn => !neg | .rup => neg))
        ((if toMax then sg + f.maxBits else if f.kind = .ieee then sg + f.infBits else sg + f.nanBits), flOF + flNX)
      else (sg + mag, (if nx then flNX else 0) + (if nx && tiny then flUF else 0))

/-- RoundFA80 (R87). -/
def roundFA (rm : Rm) (x : Ext) : Elem := BitVec.ofNat 80 (encodeFloat fa80 rm false x).1
/-- The value of an FA80 element; every all-ones exponent with a fraction is NaN (R80). -/
def decodeFA (x : Elem) : Ext := decodeFloat fa80 x.toNat
/-- Rounds to IF19 by RNE, in the container of R79: bits and flags. -/
def roundIF (x : Ext) : Nat × Nat := let (b, fl) := encodeFloat if19 .rne false x; (b * 2 ^ 13, fl)
/-- The value rounded to IF19 by RNE (R83). -/
def toIF (x : Ext) : Ext := decodeFloat fp32 (roundIF x).1
/-- FCTL.RM (R72). -/
def rmOf (x : Word) : Rm := Rm.ofCode (x.toNat % 4)

/-! ### Windows (R82 to R86) -/

/-- Classes of a window's format. -/
inductive WinKind where
  | raw
  | flt (f : Fmt)
  | int (bits : Nat) (signed : Bool)
  | mxint
  | table
  | fa
  deriving DecidableEq, Repr

/-- The element format of a window (R82). -/
def winKind : Nat → WinKind
  | 1 => .flt e4m3 | 2 => .flt e5m2 | 3 => .flt e4m3 | 4 => .flt e5m2
  | 5 => .int 8 true | 6 => .int 8 false | 7 => .mxint | 8 => .flt e2m1
  | 9 => .flt fp16 | 10 => .flt bf16 | 11 => .flt fp32 | 12 => .table
  | 13 => .int 16 true | 14 => .int 32 true | 15 => .fa
  | _ => .raw
/-- The window is block-scaled (R81). -/
def isMx (w : Nat) : Bool := decide (w = 3 ∨ w = 4 ∨ w = 7 ∨ w = 8)
/-- Half-bytes of an element (R82): 1 for W8. -/
def winNibbles : Nat → Nat
  | 8 => 1 | 9 => 4 | 10 => 4 | 11 => 8 | 13 => 4 | 14 => 8 | 15 => 32 | _ => 2
/-- Bytes of `n` elements. -/
def winBytes (w n : Nat) : Nat := (n * winNibbles w + 1) / 2
/-- Bytes of one element, 1 for W8 (R229). -/
def elemBytes (w : Nat) : Nat := (winNibbles w + 1) / 2
/-- Operand width in slots: 1, 2 or 4 (R170, R253). -/
def winSlots (w : Nat) : Nat := if w = 9 ∨ w = 10 ∨ w = 13 then 2 else if w = 11 ∨ w = 14 then 4 else 1
/-- The window can feed an INT accumulator (R82). -/
def winInt (w : Nat) : Bool := decide (w = 5 ∨ w = 6 ∨ w = 13 ∨ w = 14)
/-- Range of an integer format (R77). -/
def intLo (bits : Nat) (signed : Bool) : Int := if signed then -(2 ^ (bits - 1) : Nat) else 0
/-- Upper end. -/
def intHi (bits : Nat) (signed : Bool) : Int := if signed then (2 ^ (bits - 1) : Nat) - 1 else (2 ^ bits : Nat) - 1

/-- Decode(w, bits) without the scale (R83); `tab` is the decode table. -/
def decodeWin (tab : Nat → Lane) (w bits : Nat) : Ext :=
  match winKind w with
  | .raw => .ofInt (bits : Int)
  | .flt f => decodeFloat f bits
  | .int n sg => .ofInt (if sg then sext bits n else (bits % 2 ^ n : Nat))
  | .mxint => .scale (-6) (.ofInt (sext bits 8))
  | .table => decodeFloat fp32 (tab (bits % 256)).toNat
  | .fa => decodeFloat fa80 bits
/-- Rounds an exact finite value to an integer by a mode, with whether it is inexact. -/
def roundInt (rm : Rm) (x : Ext) : Int × Bool :=
  match x with
  | .num neg m e => let (r, nx) := roundAt rm neg m e 0; (if neg then -(r : Int) else r, nx)
  | _ => (0, false)
/-- Encode into an integer format (R84): the code and flags. -/
def encodeInt (bits : Nat) (signed : Bool) (rm : Rm) (sat : Bool) (x : Ext) : Nat × Nat :=
  match x with
  | .nan => (0, flNV + flNX)
  | .inf neg => (((if neg then intLo bits signed else intHi bits signed) % (2 ^ bits : Nat)).toNat, flNV + flNX)
  | .num _ _ _ =>
    let (r, nx) := roundInt rm x
    if intLo bits signed ≤ r ∧ r ≤ intHi bits signed then ((r % (2 ^ bits : Nat)).toNat, if nx then flNX else 0)
    else if sat then
      (((if r < 0 then intLo bits signed else intHi bits signed) % (2 ^ bits : Nat)).toNat, flOF + flNX)
    else ((r % (2 ^ bits : Nat)).toNat, flOF + flNX)
/-- Encode into an MXINT8 element: clamped to −127/64 to 127/64 (R85). -/
def encodeMxInt (rm : Rm) (x : Ext) : Nat × Nat :=
  match x with
  | .nan => (0, flNV + flNX)
  | .inf neg => (if neg then 129 else 127, flNV + flNX)
  | .num _ _ _ =>
    let (r, nx) := roundInt rm (x.scale 6)
    let c := max (-127) (min 127 r)
    ((c % 256).toNat, if c ≠ r then flOF + flNX else if nx then flNX else 0)

/-- Encode through the ordered decode table (R86); among entries that are all infinite every code is as near as any other. -/
def encodeTable (tab : Nat → Lane) (rm : Rm) (x : Ext) : Nat :=
  let ent := fun (c : Nat) => decodeFloat fp32 (tab c).toNat
  let codes := List.range 256
  let below := fun (_ : Unit) =>
    match (codes.filter (fun c => !(Ext.lt x (ent c)))).reverse with
    | [] => 0
    | c :: _ => (codes.find? (fun d => Ext.eqv (ent d) (ent c))).getD 0
  let above := fun (_ : Unit) => (codes.find? (fun c => !(Ext.lt (ent c) x))).getD 255
  let dist := fun (c : Nat) => (Dy.add (ent c).dy ⟨-x.dy.n, x.dy.e⟩)
  let mag := fun (d : Dy) => (⟨(d.n.natAbs : Int), d.e⟩ : Dy)
  match x with
  | .nan => 0
  | .inf neg => if neg then 0 else 255
  | .num neg _ _ =>
    match rm with
    | .rdn => below ()
    | .rup => above ()
    | .rtz => if neg && !x.isZero then above () else below ()
    | .rne =>
      let fin := codes.filter (fun c => !(ent c).isInf)
      let best := fin.foldl (fun (b : Option Dy) c =>
        match b with | none => some (mag (dist c)) | some y => if Dy.lt (mag (dist c)) y then some (mag (dist c)) else b) none
      match best with
      | none => 0
      | some y =>
        let near := fin.filter (fun c => Dy.eqv (mag (dist c)) y)
        ((near.find? (fun c => decide (c % 2 = 0))).orElse (fun _ => near.head?)).getD 0

/-- Encode(w, x, rm, sat) (R84): the code and the flags of a vector conversion (R90, log entry 12). MX elements always
saturate. -/
def encodeWin (tab : Nat → Lane) (w : Nat) (rm : Rm) (sat : Bool) (x : Ext) : Nat × Nat :=
  match winKind w with
  | .raw => (0, 0)
  | .flt f =>
    let (b, fl) := match x with
      | .inf neg => if isMx w then ((if neg then f.signBit else 0) + f.maxBits, flNX) else encodeFloat f rm sat x
      | _ => encodeFloat f rm (sat || isMx w) x
    (b, fl + (if f.kind = .e2m1 ∧ (x.isNan ∨ x.isInf) then flNV else 0))
  | .int n sg => encodeInt n sg rm sat x
  | .mxint => encodeMxInt rm x
  | .table =>
    let c := encodeTable tab rm x
    (c, if Ext.eqv (decodeFloat fp32 (tab c).toNat) x then 0 else flNX)
  | .fa => encodeFloat fa80 rm sat x

/-- emax of an MX element format (R85). -/
def mxEmax (w : Nat) : Int := if w = 3 then 8 else if w = 4 then 15 else if w = 8 then 2 else 0
/-- The scale byte of a block (R85), over its values. -/
def mxScale (w : Nat) (l : List Ext) : Nat :=
  if l.any (fun x => x.isNan || x.isInf) then 0xFF
  else
    let logs := l.filterMap (fun x => match x with | .num _ m e => if m = 0 then none else some (e + Nat.log2 m) | _ => none)
    match logs with
    | [] => 0
    | a :: r => (max 0 (min 254 (r.foldl max a - mxEmax w + 127))).toNat
/-- Encodes a block's values at its scale (R85): codes and flags. Scale 0xFF makes every element NaN, which changes every value
but a NaN (R90, log entry 12). -/
def mxEncode (tab : Nat → Lane) (w : Nat) (rm : Rm) (s : Nat) (l : List Ext) : List (Nat × Nat) :=
  if s = 0xFF then l.map (fun x => (0,
    (if x.isNan then 0 else flNX) + (if (x.isNan || x.isInf) && decide (w = 7 ∨ w = 8) then flNV else 0)))
  else l.map (fun x => encodeWin tab w rm true (x.scale (127 - (s : Int))))

/-! ### The exact sums (R87, R88, R89, R95, R96) -/

/-- FloatSum's sum before its rounding (R87): the terms are products with their scale exponents. -/
def sumExt (c : Ext) (terms : List (Ext × Ext × Int)) (rm : Rm) : Ext :=
  let prods := terms.map (fun t => (Ext.mul t.1 t.2.1).scale t.2.2)
  if c.isNan || prods.any Ext.isNan then .nan
  else
    let infs := (c :: prods).filter Ext.isInf
    match infs with
    | x :: r => if r.all (fun y => y == x) then x else .nan
    | [] =>
      let s := prods.foldl (fun a t => Dy.add a t.dy) c.dy
      if s.n = 0 then .num ((c :: prods).all (fun x => x.isZero && x.neg) || decide (rm = .rdn)) 0 0
      else s.ext false
/-- FloatSum (R87). -/
def floatSum (c : Elem) (terms : List (Ext × Ext × Int)) (rm : Rm) : Elem := roundFA rm (sumExt (decodeFA c) terms rm)
/-- −0 of FA80. -/
def faNegZero : Elem := BitVec.ofNat 80 (2 ^ 79)
/-- The clamp or wrap of IntSum (R88). -/
def narrow (iw : Nat) (sat : Bool) (s : Int) : Int :=
  if sat then max (-(2 ^ (iw - 1) : Nat)) (min ((2 ^ (iw - 1) : Nat) - 1) s)
  else s - (2 ^ iw : Nat) * ((s + (2 ^ (iw - 1) : Nat)) / (2 ^ iw : Nat))
/-- Width in bits of AMODE.IW (R70). -/
def iwBits : Nat → Nat
  | 0 => 32 | 1 => 48 | 2 => 64 | _ => 80
/-- Requant (R89). -/
def requant (acc corr mult : Int) (shift : Nat) (zout : Int) (lo hi : Int) : Int :=
  let p := (acc - corr) * mult
  let q := if shift = 0 then p
    else (if p < 0 then -1 else 1) * (((p.natAbs + 2 ^ (shift - 1)) / 2 ^ shift : Nat) : Int)
  max lo (min hi (q + zout))

/-! ### Vector FP32 (R90) -/

/-- A lane's value. -/
def lane (x : Lane) : Ext := decodeFloat fp32 x.toNat
/-- A signalling NaN. -/
def isSnan (x : Lane) : Bool := decide (x.toNat / 2 ^ 23 % 256 = 255 ∧ x.toNat % 2 ^ 23 ≠ 0 ∧ x.toNat / 2 ^ 22 % 2 = 0)
/-- NV when an input is a signalling NaN. -/
def snanFlag (l : List Lane) : Nat := if l.any isSnan then flNV else 0
/-- Rounds to binary32 with flags. -/
def toLane (rm : Rm) (x : Ext) : Lane × Nat := let (b, fl) := encodeFloat fp32 rm false x; (BitVec.ofNat 32 b, fl)
/-- Exact sum of two values (R90): two zeros of one sign keep it, and any other exact zero sum is +0, or −0 under RDN. -/
def sum2 (rm : Rm) (a b : Ext) : Ext :=
  if a.isZero && b.isZero && (a.neg == b.neg) then a else sumExt a [(b, .num false 1 0, 0)] rm
/-- Sum with flags; NV for a signalling NaN or ∞ − ∞. -/
def fAdd (rm : Rm) (a b : Lane) : Lane × Nat :=
  let x := sum2 rm (lane a) (lane b)
  let (r, fl) := toLane rm x
  (r, fl ||| snanFlag [a, b] ||| (if x.isNan && !(lane a).isNan && !(lane b).isNan then flNV else 0))
/-- Difference. -/
def fSub (rm : Rm) (a b : Lane) : Lane × Nat :=
  let x := sum2 rm (lane a) (lane b).negate
  let (r, fl) := toLane rm x
  (r, fl ||| snanFlag [a, b] ||| (if x.isNan && !(lane a).isNan && !(lane b).isNan then flNV else 0))
/-- Product. -/
def fMul (rm : Rm) (a b : Lane) : Lane × Nat :=
  let x := Ext.mul (lane a) (lane b)
  let (r, fl) := toLane rm x
  (r, fl ||| snanFlag [a, b] ||| (if x.isNan && !(lane a).isNan && !(lane b).isNan then flNV else 0))
/-- d + a × b, or d − a × b, with one rounding and the zeros that R242 gives. NV of 0 × ∞ with a quiet NaN addend is left open by IEEE 754:
`open'` decides it (log entry 7). -/
def fFma (rm : Rm) (minus open' : Bool) (a b d : Lane) : Lane × Nat :=
  let p := Ext.mul (if minus then (lane a).negate else lane a) (lane b)
  let x := sumExt (lane d) [(p, .num false 1 0, 0)] rm
  let (r, fl) := toLane rm x
  let bad := p.isNan && !(lane a).isNan && !(lane b).isNan
  let nv := if (lane d).isNan then bad && open' else x.isNan && !(lane a).isNan && !(lane b).isNan
  (r, fl ||| snanFlag [a, b, d] ||| (if nv then flNV else 0))
/-- The canonical NaN lane. -/
def nanLane : Lane := 0x7FC00000
/-- The smaller, −0 below +0, NaN if either is NaN (R242). -/
def fMin (a b : Lane) : Lane × Nat :=
  let x := lane a
  let y := lane b
  (if x.isNan || y.isNan then nanLane
   else if Ext.lt x y || (Ext.eqv x y && x.neg) then a else b, snanFlag [a, b])
/-- The larger, +0 above −0. -/
def fMax (a b : Lane) : Lane × Nat :=
  let x := lane a
  let y := lane b
  (if x.isNan || y.isNan then nanLane
   else if Ext.lt y x || (Ext.eqv x y && y.neg) then a else b, snanFlag [a, b])

/-! ### Transcendentals (R91, R249) -/

/-- Bitwise integer square root: the largest acc with acc² ≤ n, bits from `i` down. -/
def isqrtGo (n : Nat) : Nat → Nat → Nat
  | 0, acc => acc
  | i + 1, acc => isqrtGo n i (if (acc + 2 ^ i) * (acc + 2 ^ i) ≤ n then acc + 2 ^ i else acc)
/-- floor(√n). -/
def isqrt (n : Nat) : Nat := isqrtGo n (Nat.log2 n / 2 + 1) 0

/-- Bounds of 2^f × 2^p for a fraction f of `bits` bits, by square roots (the chain keeps a lower and an upper bound). -/
def exp2Go (p f : Nat) : Nat → Nat → Nat → Nat → Nat → Nat × Nat
  | 0, _, _, lo, hi => (lo, hi)
  | i + 1, rl, rh, lo, hi =>
    let rl' := isqrt (rl * 2 ^ p)
    let rh' := isqrt (rh * 2 ^ p) + 1
    if f / 2 ^ i % 2 = 1 then exp2Go p f i rl' rh' (lo * rl' / 2 ^ p) (hi * rh' / 2 ^ p + 1)
    else exp2Go p f i rl' rh' lo hi
/-- Rounds the bounds at precision `p`: the result if both round alike. -/
def exp2Try (p : Nat) (n : Int) (fn : Nat) (fe : Nat) : Option (Nat × Nat) :=
  let f := if fe ≤ p then fn * 2 ^ (p - fe) else fn / 2 ^ (fe - p)
  let (lo, hi) := exp2Go p f p (2 * 2 ^ p) (2 * 2 ^ p) (2 ^ p) (2 ^ p)
  let hi := hi + 4
  let r := fun (x : Nat) => roundIF (.num false (4 * x + 1) (n - p - 2))
  if r lo = r hi then some (r lo) else none
/-- exp2 rounded to IF19 by RNE (R91): container bits and flags. Far arguments are answered by their sign. -/
def exp2IF (x : Ext) : Nat × Nat :=
  match x with
  | .nan => (0x7FC00000, 0)
  | .inf neg => (if neg then 0 else 0x7F800000, 0)
  | .num neg m e =>
    if m = 0 then roundIF (.num false 1 0)
    else if e + Nat.log2 m ≥ 10 then
      if neg then (0, flUF + flNX) else (0x7F800000, flOF + flNX)
    else
      let fe := (-e).toNat
      let v : Int := (if neg then -(m : Int) else m) * (2 ^ e.toNat : Nat)
      let n := v / (2 ^ fe : Nat)
      let fn := (v % (2 ^ fe : Nat)).toNat
      if fn = 0 then roundIF (.num false 1 n)
      else ((exp2Try 80 n fn fe).orElse (fun _ => (exp2Try 260 n fn fe).orElse (fun _ => exp2Try 2200 n fn fe))).getD
        (roundIF (.num false (2 ^ 64 + 1) (n - 64)))
/-- 1/x rounded to IF19 by RNE. -/
def rcpIF (x : Ext) : Nat × Nat :=
  match x with
  | .nan => (0x7FC00000, 0)
  | .inf neg => (if neg then 0x80000000 else 0, 0)
  | .num neg m e =>
    if m = 0 then (if neg then 0xFF800000 else 0x7F800000, flDZ)
    else
      let k := Nat.log2 m + 64
      let q := 2 ^ k / m
      roundIF (.num neg (2 * q + (if 2 ^ k % m = 0 then 0 else 1)) (-e - k - 1))
/-- 1/√x rounded to IF19 by RNE. -/
def rsqrtIF (x : Ext) : Nat × Nat :=
  match x with
  | .nan => (0x7FC00000, 0)
  | .inf neg => if neg then (0x7FC00000, flNV) else (0, 0)
  | .num neg m e =>
    if m = 0 then (if neg then 0xFF800000 else 0x7F800000, flDZ)
    else if neg then (0x7FC00000, flNV)
    else
      let m' := if e % 2 = 0 then m else 2 * m
      let e' := if e % 2 = 0 then e else e - 1
      let k := 2 * (Nat.log2 m' + 32)
      let y := 2 ^ k / m'
      let r := isqrt y
      let exact := decide (r * r * m' = 2 ^ k)
      roundIF (.num false (2 * r + (if exact then 0 else 1)) (-(e' / 2) - (k / 2 : Nat) - 1))

/-! ### Sieve order (R93) -/

/-- A sieve or RANKED entry: FP32 key bits and index. -/
abbrev Pair := Nat × Nat
/-- Keys are stored with −0 as +0 (R93). -/
def sieveKey (k : Nat) : Nat := if k = 0x80000000 then 0 else k
/-- k1 > k2 in FP32 total order with −0 equal to +0, for keys that are no NaN. -/
def keyAbove (a b : Nat) : Bool := Ext.lt (decodeFloat fp32 b) (decodeFloat fp32 a)
/-- The key is NaN. -/
def keyNan (k : Nat) : Bool := (decodeFloat fp32 k).isNan
/-- Ranks before (R93). -/
def ranksBefore (a b : Pair) : Bool := keyAbove a.1 b.1 || (decide (a.1 = b.1) && decide (a.2 < b.2))
/-- Puts a pair into a ranked list; an identical pair is kept once. -/
def rankInsert : List Pair → Pair → List Pair
  | [], x => [x]
  | y :: r, x => if x = y then y :: r else if ranksBefore x y then x :: y :: r else y :: rankInsert r x
/-- Admission to a list of depth k (R93): NaN never enters. -/
def admitPair (k : Nat) (l : List Pair) (x : Pair) : List Pair :=
  if keyNan x.1 then l else (rankInsert l (sieveKey x.1, x.2)).take k
/-- The key in KFMT widened to FP32 (R70, R270). -/
def widenKey (kfmt bits : Nat) : Nat :=
  if kfmt = 1 then bits % 2 ^ 16 * 2 ^ 16
  else if kfmt = 2 then
    let v := decodeFloat fp16 (bits % 2 ^ 16)
    (encodeFloat fp32 .rne false v).1
  else bits % 2 ^ 32

end Sys2Proof.Machine
end

