-- ==== Sys2Proof/Machine/Home.lean ====
section
/-! DEFINITION. What is done away from the cores: writes at a home (R118, R106, R388), messages and error records entering
the fabric (R46, R345), the pool manager of a die (R52, R53, R358, R359, R331) and the module information area (R99). -/

namespace Sys2Proof.Machine

/-- A free value, and the state with the counter advanced (log entry 2). -/
def State.fresh (s : State) : Nat × State := (s.free, { s with free := s.free + 1 })

/-! ### Keys of the one memory -/

/-- Key of a byte of a core's scratchpad. -/
def scratchAt (k off : Nat) : Nat := Config.scratchKey + k * 2 ^ 19 + off
/-- The key lies in a scratchpad. -/
def isScratch (key : Nat) : Bool := decide (Config.scratchKey ≤ key ∧ key < Config.expertKey)
/-- The key lies in the expert window. -/
def isExpert (key : Nat) : Bool := decide (Config.expertKey ≤ key)
/-- The key lies in host memory (R100). -/
def isHost (key : Nat) : Bool := decide (Config.hostBase ≤ key ∧ key < Config.scratchKey)
/-- The key lies in a vault (R100). -/
def isVault (key : Nat) : Bool := decide (Config.vaultBase ≤ key ∧ key < Config.vaultBase + 56 * 2 ^ 30)
/-- The key lies in HBM (R100). -/
def isHbm (key : Nat) : Bool := decide (key < Config.stacks' * Config.stackBytes)
/-- Two ranges meet. -/
def meets (a n b m : Nat) : Bool := decide (a < b + m ∧ b < a + n)
/-- A location lies in the memory tier of a scope for a task of core `k` (R116); the pages of an expert window lie in vaults of
its die, a replicated page in HBM. -/
def inTier (k : Nat) (sc : Scope) (key : Nat) : Bool :=
  let own := isScratch key && decide ((key - Config.scratchKey) / 2 ^ 19 = k)
  match sc with
  | .task => own
  | .team => own || (isVault key && decide ((key - Config.vaultBase) / 2 ^ 27 = clusterOf k))
  | .band => own || (isVault key && decide ((key - Config.vaultBase) / 2 ^ 30 = dieOf k)) ||
      (isExpert key && decide ((key - Config.expertKey) / 2 ^ 30 = dieOf k))
  | .grid => !isHost key
  | .system => true
/-- The narrowest scope that holds two cores: that of one core, of their tasks' team, band or grid, or the partition (R116,
R131). -/
def State.scopeOf (s : State) (k c : Nat) : Scope :=
  if k = c then .task
  else
    match (s.tile k).task, (s.tile c).task with
    | some a, some b =>
      if a.grid ≠ b.grid then .system
      else if a.band ≠ b.band then .grid
      else if a.team ≠ b.team then .band
      else .team
    | _, _ => .system
/-- Key of an address of the span of expert buffer `b` of die `d` (R331). -/
def expertAt (d b off : Nat) : Nat := Config.expertKey + d * 2 ^ 30 + b * 2 ^ 22 + off
/-- ARRAY of an uncorrectable location (R346, R433). -/
def arrayOf (key : Nat) : Nat :=
  if isScratch key then 3 else if isExpert key ∨ isVault key then 7 else if isHost key then 0xFF else 9

/-- A word of the range has an uncorrectable code. -/
def State.isBad (s : State) (key n : Nat) : Bool := s.bad.any (fun w => decide (8 * w < key + n ∧ key < 8 * w + 8))
/-- ARRAY of an uncorrectable range: 8 when the word is bad in a memory-side cache (R17, R346). -/
def State.arrayAt (s : State) (key n : Nat) : Nat :=
  if s.badCached.any (fun w => decide (8 * w < key + n ∧ key < 8 * w + 8)) then 8 else arrayOf key
/-- A write of the range consumes an uncorrectable word that it covers only in part (R388). -/
def State.badPartial (s : State) (key n : Nat) : Bool :=
  s.bad.any (fun w => decide (8 * w < key + n ∧ key < 8 * w + 8 ∧ ¬ (key ≤ 8 * w ∧ 8 * w + 8 ≤ key + n)))

/-- The words of a range that it covers whole take a new code, in every copy (R388). -/
def State.renew (s : State) (key n : Nat) : State :=
  let whole := fun (w : Nat) => decide (key ≤ 8 * w ∧ 8 * w + 8 ≤ key + n)
  { s with
    bad := s.bad.filter (fun w => !whole w), badCached := s.badCached.filter (fun w => !whole w)
    badCopies := s.badCopies.filter (fun w => !whole w.2) }
/-- A write is applied at the home of its bytes: the granules' tags are cleared, or set for a tagged granule outside
host memory (R106), and words it covers whole take a new code (R388). -/
def State.writeKey (s : State) (key : Nat) (data : List Byte) (tag : Bool) : State :=
  let n := data.length
  let cleared := tagClear s.tags key n
  State.renew { s with
    mem := Memory.write s.mem key data
    tags := if tag ∧ ¬ isHost key then tagIns cleared (key / 16) else cleared } key n
/-- A range is zeroed: its bytes, its tags and its code words. -/
def State.zero (s : State) (key n : Nat) : State :=
  State.renew { s with mem := Memory.clear s.mem key n, tags := tagClear s.tags key n } key n
/-- Bytes from a key. -/
def State.readAt (s : State) (key n : Nat) : List Byte := Memory.read s.mem key n
/-- A little-endian value from a key. -/
def State.readNat (s : State) (key n : Nat) : Nat := leNat (s.readAt key n)
/-- Writes a little-endian value. -/
def State.writeNat (s : State) (key n x : Nat) : State := s.writeKey key (leBytes n x) false
/-- Zeroes a core's scratchpad (R39). -/
def State.zeroScratch (s : State) (k : Nat) : State := s.zero (scratchAt k 0) (2 ^ 19)
/-- The completion counter of a core's scratchpad is incremented modulo 2^32 (R286). -/
def State.bump (s : State) (k off : Nat) : State :=
  s.writeNat (scratchAt k off) 4 ((s.readNat (scratchAt k off) 4 + 1) % 2 ^ 32)
/-- Increments a counter if there is one. -/
def State.bump? (s : State) (c : Option (Nat × Nat)) : State :=
  match c with
  | none => s
  | some (k, off) => s.bump k off

/-! ### Messages and records -/

/-- The sender of messages that come from no core: the module controller and the pool managers (R52, R345). -/
def moduleSource : Nat := Config.tileSites
/-- A message enters the fabric (R46). -/
def State.push (s : State) (m : Msg) : State := { s with msgs := s.msgs ++ [m] }
/-- A class message to a core name. -/
def mkMsg (src srcName destName cls : Nat) (data : List Word) (grid : Option Nat) (part : Nat) : Msg :=
  { src := src, srcName := srcName, dest := (coreOf destName).getD Config.tileSites, destName := destName, cls := cls,
    wake := false, len := data.length, data := data, interval := 0, refusedAt := none, grid := grid,
    buffered := false, part := part }
/-- Dword 5 of a report (R342). -/
def State.jobDword (s : State) (k : Nat) : Nat :=
  (s.tile k).job % 2 ^ 16 + (s.tile k).asid % 2 ^ 14 * 2 ^ 16 + s.partNo k % 16 * 2 ^ 32
/-- The service core name and class of a partition: the SVC of its lowest-numbered core (R345). -/
def State.partSvc (s : State) (p : Nat) : Word := (s.tile (s.refDie p * 128)).svc
/-- An error record (R345): the log keeps it, and the partition's service core receives it. CORRECTED events are
gathered until the journal period ends. -/
def State.emitRecord (s : State) (r : ErrReport) : State :=
  let s := { s with errlog := s.errlog ++ [r] }
  match r.part with
  | none => s
  | some p =>
    let svc := (s.partSvc p).toNat
    let d5 := match coreOf r.name with
      | some k => if r.name = 0 then p * 2 ^ 32 else (s.jobDword k) % 2 ^ 32 + p * 2 ^ 32
      | none => p * 2 ^ 32
    let data := [r.name + 4 * 2 ^ 48, r.sev + r.unit * 2 ^ 8 + r.array * 2 ^ 16 + r.count % 2 ^ 24 * 2 ^ 24, r.loc,
      r.syndrome, s.refCount, d5, 0, 0]
    s.push (mkMsg moduleSource 0 (svc % 2 ^ 32) (bf svc 32 4) (data.map (BitVec.ofNat 64)) none p)
/-- An error is reported as R345 says: CORRECTED events are gathered per location, all others are recorded at once. -/
def State.record (s : State) (r : ErrReport) : State :=
  if r.sev ≠ 0 then s.emitRecord r
  else
    let same := fun (q : ErrReport) => decide (q.unit = r.unit ∧ q.array = r.array ∧ q.loc = r.loc ∧ q.name = r.name)
    if s.recent.any same then
      { s with recent := s.recent.map (fun q => if same q then { q with count := q.count + r.count } else q) }
    else { s with recent := s.recent ++ [r] }
/-- A record of a unit that belongs to no tile. -/
def unitRecord (sev unit array loc : Nat) (part : Option Nat) : ErrReport :=
  { name := 0, sev := sev, unit := unit, array := array, count := 1, loc := loc, syndrome := 0, part := part }

/-! ### Expert buffers -/

/-- The arrival counter of a buffer (R331). -/
def State.expertCount (s : State) (d b : Nat) : Nat := s.readNat (expertAt d b 0) 4
/-- The buffer's configuration, if firmware configured it. -/
def State.expert? (s : State) (d b : Nat) : Option Expert := keyFind (s.die d).experts b
/-- Changes a configured buffer. -/
def State.modExpert (s : State) (d b : Nat) (f : Expert → Expert) : State :=
  match s.expert? d b with
  | none => s
  | some e => s.modDie d (fun x => { x with experts := keySet x.experts b (f e) })
/-- A page of a span is mapped: the first always, others while the buffer holds a pool page for them (R331). -/
def State.expertMapped (s : State) (d b page : Nat) : Bool :=
  decide (page = 0) || (match s.expert? d b with | none => false | some e => e.pages.contains page)
/-- Adds 1 to the drop count of a buffer (R359). -/
def State.dropRow (s : State) (d b : Nat) : State :=
  s.writeNat (expertAt d b 24) 4 ((s.readNat (expertAt d b 24) 4 + 1) % 2 ^ 32)
/-- A message of the pool manager (R52). -/
def State.poolMsg (s : State) (d owner cls : Nat) (data : List Word) : State :=
  s.push (mkMsg (moduleSource + 1 + d) (s.poolName d) owner cls data none ((s.partOfDie d).getD 16))
/-- The pages, other than the first, that row `c` of a buffer touches (R331). -/
def rowPages (rowsz c : Nat) : List Nat :=
  let lo := (64 + c * rowsz) / 65536
  let hi := (64 + (c + 1) * rowsz - 1) / 65536
  ((List.range (hi + 1 - lo)).map (· + lo)).filter (· ≠ 0)
/-- A flush is sent to the owner of the oldest partly filled buffer, unless one is outstanding (R53). The place of the
FLUSH bit in the payload is not stated: dword 0 is a free value (log entry 9). -/
def State.flush (s : State) (d : Nat) : State :=
  if (s.die d).flushing.isSome then s
  else
    let cand := (s.die d).experts.filter (fun e =>
      decide (0 < s.expertCount d e.1 ∧ s.expertCount d e.1 < e.2.trig) && !e.2.flushed)
    let best := cand.foldl (fun (a : Option (Nat × Expert)) e =>
      match a with | none => some e | some x => if e.2.first < x.2.first then some e else a) none
    match best with
    | none => s
    | some (b, e) =>
      let (n, s) := s.fresh
      let s := s.poolMsg d e.owner e.cls [Config.freeWord n, BitVec.ofNat 64 (s.expertCount d b)]
      (s.modExpert d b (fun e => { e with flushed := true })).modDie d (fun x => { x with flushing := some b })
/-- The overflow message of a buffer with held arrivals, at most one (R358). -/
def State.overflowMsg (s : State) (d b why : Nat) : State :=
  let held := s.rows.filter (fun r => decide (r.die = d ∧ r.buf = b ∧ r.held ≠ 0))
  let ovf := (s.die d).ovf.toNat
  let sender := match held with | [] => 0 | r :: _ => s.nameOf r.sender
  s.poolMsg d (ovf % 2 ^ 32) (bf ovf 32 4)
    [BitVec.ofNat 64 (why + b * 2 ^ 8 + d * 2 ^ 16 + held.length * 2 ^ 32),
     BitVec.ofNat 64 (sender + (s.die d).poolFree % 2 ^ 16 * 2 ^ 32)]
/-- A row is held with a reason: 1 ABSENT, 2 FULL, 3 SPAN, 4 waiting for a page (R53, R358). With no overflow core an
overflowing row is dropped. -/
def State.holdRow (s : State) (r : Row) (why : Nat) : State :=
  if why = 4 then State.flush { s with rows := s.rows ++ [{ r with held := 4 }] } r.die
  else if (s.die r.die).ovf.toNat % 2 ^ 32 = 0 then s.dropRow r.die r.buf
  else
    let told := s.rows.any (fun q => decide (q.die = r.die ∧ q.buf = r.buf ∧ q.told))
    let s := { s with rows := s.rows ++ [{ r with held := why, told := true }] }
    if told then s else s.overflowMsg r.die r.buf why
/-- A row arrives at its pool manager (R52): it lands, is dropped for its size (R377), or is held. -/
def State.arriveRow (s : State) (r : Row) : State :=
  match s.expert? r.die r.buf with
  | none => s.holdRow r 1
  | some e =>
    let c := s.expertCount r.die r.buf
    if r.data.length ≠ e.rowsz then s.dropRow r.die r.buf
    else if 64 + (c + 1) * e.rowsz > 2 ^ 22 then s.holdRow r 3
    else
      let need := (rowPages e.rowsz c).filter (fun p => !e.pages.contains p)
      if need.length > (s.die r.die).poolFree then
        s.holdRow r (if (s.die r.die).experts.any (fun x => decide (x.2.pages ≠ []) && !x.2.pinned) then 4 else 2)
      else
        let s := s.writeKey (expertAt r.die r.buf (64 + c * e.rowsz)) r.data false
        let (n, s) := s.fresh
        let s := (s.modExpert r.die r.buf (fun e => { e with
          pages := e.pages ++ need, first := if c = 0 then n else e.first })).modDie r.die
            (fun x => { x with poolFree := x.poolFree - need.length })
        let s := s.writeNat (expertAt r.die r.buf 0) 4 ((c + 1) % 2 ^ 32)
        let s := if c + 1 = e.trig then
            s.poolMsg r.die e.owner e.cls [BitVec.ofNat 64 r.buf, BitVec.ofNat 64 (c + 1)] else s
        s
/-- Rows that were held for a buffer arrive again. -/
def State.retryRows (s : State) (which : Row → Bool) : State :=
  let again := s.rows.filter which
  let s := { s with rows := s.rows.filter (fun r => !which r) }
  again.foldl (fun (s : State) r => s.arriveRow { r with held := 0, told := false }) s
/-- The owner releases a buffer (R52): counter 0, first page zeroed, pool pages reclaimed unless PINNED; held arrivals
then land. Deferred arrivals for other buffers are told again (R359). -/
def State.releaseExpert (s : State) (d b : Nat) : State :=
  let s := s.writeNat (expertAt d b 0) 4 0
  let s := s.zero (expertAt d b 64) (65536 - 64)
  let s := match s.expert? d b with
    | none => s
    | some e =>
      if e.pinned then s.modExpert d b (fun e => { e with flushed := false })
      else
        let s := e.pages.foldl (fun (s : State) p => s.zero (expertAt d b (p * 65536)) 65536) s
        (s.modExpert d b (fun e => { e with pages := [], flushed := false })).modDie d
          (fun x => { x with poolFree := x.poolFree + e.pages.length })
  let s := s.modDie d (fun x => { x with flushing := if x.flushing = some b then none else x.flushing })
  s.retryRows (fun r => decide (r.die = d ∧ r.held ≠ 0 ∧ (r.buf = b ∨ r.held = 4 ∨ r.deferred)))
/-- The overflow handler's decision is applied to every arrival held for the buffer, and the dword becomes 0 (R359). A
dword with a one in bits [63:22] or [7:2] breaks an obligation whose outcome is not stated: nothing is decided (log
entry 10). -/
def State.decideOverflow (s : State) (d b : Nat) : State :=
  let x := s.readNat (expertAt d b 16) 8
  if x = 0 then s
  else
    let s := s.writeNat (expertAt d b 16) 8 0
    if x / 2 ^ 22 ≠ 0 ∨ bf x 2 6 ≠ 0 then s
    else
      let mine := fun (r : Row) => decide (r.die = d ∧ r.buf = b ∧ r.held ≠ 0 ∧ r.held ≠ 4)
      let held := s.rows.filter mine
      match x % 4 with
      | 1 =>
        let s := { s with rows := s.rows.filter (fun r => !mine r) }
        held.foldl (fun (s : State) _ => s.dropRow d b) s
      | 2 =>
        let s := { s with rows := s.rows.filter (fun r => !mine r) }
        held.foldl (fun (s : State) r => s.arriveRow
          { r with die := bf x 16 6, buf := bf x 8 8, held := 0, told := false, deferred := false }) s
      | 3 => { s with rows := s.rows.map (fun r => if mine r then { r with deferred := true, told := false } else r) }
      | _ => s

/-- A store is performed (R118): at its home, or at the pool manager, where the counter of a span is never stored to,
a release word that becomes 0 releases the buffer, and a decision is applied (R331, R52, R359). -/
def State.performAt (s : State) (key : Nat) (data : List Byte) (tag : Bool) : State :=
  if !isExpert key then s.writeKey key data tag
  else
    let off := (key - Config.expertKey) % 2 ^ 22
    let b := (key - Config.expertKey) / 2 ^ 22 % 256
    let d := (key - Config.expertKey) / 2 ^ 30
    let old := s.readAt (expertAt d b 0) 4
    let s := s.writeKey key data false
    let s := if off < 4 then { s with mem := Memory.write s.mem (expertAt d b 0) old } else s
    let touches := fun (w : Nat) => decide (off < w + 8 ∧ w < off + data.length)
    let s := if touches 8 ∧ s.readNat (expertAt d b 8) 8 = 0 then s.releaseExpert d b else s
    if touches 16 then s.decideOverflow d b else s

/-! ### The replicated-page sequencer (R105, R130) -/

/-- Copies of a replicated page of a partition: its dies, and 56 for the master. -/
def State.copiesOf (s : State) (p : Nat) : List Nat := 56 :: (s.part p).dies
/-- Some word of a range is bad in a copy of its replicated page: copy `c`, a die's replica or the master (R392). -/
def State.copyBad (s : State) (c w : Nat) : Bool := if c = 56 then s.bad.contains w else s.badCopies.contains (c, w)
/-- A bad copy of a word is rewritten from a good one, which is recorded as CORRECTED (R392). -/
def State.mendCopy (s : State) (k c w : Nat) : State :=
  let good := if c = 56 then { s with bad := s.bad.filter (· ≠ w), badCached := s.badCached.filter (· ≠ w) } else { s with badCopies := s.badCopies.filter (· ≠ (c, w)) }
  good.record (if c = 56 then unitRecord 0 6 9 (8 * w) (some (s.partNo k)) else unitRecord 0 1 7 (8 * w) (some (s.partNo k)))
/-- Copy `c` of a word is read for core `k` (R392): when it is bad the word is served and rewritten from the master, and a
master that is bad too from a good replica; a word that is bad in every copy stays so. -/
def State.mendWord (s : State) (k c w : Nat) : State :=
  if !s.copyBad c w || (s.copiesOf (s.partNo k)).all (fun x => s.copyBad x w) then s
  else
    let s := if s.copyBad 56 w then s.mendCopy k 56 w else s
    if s.copyBad c w then s.mendCopy k c w else s
/-- Copy `c` of a range is read for core `k`; pages that are not replicated have one copy. -/
def State.mend (s : State) (k c key n : Nat) (repl : Bool) : State :=
  if repl then
    let hit := (s.bad ++ s.badCopies.map (·.2)).filter (fun w => meets (8 * w) 8 key n)
    hit.foldl (fun (s : State) w => s.mendWord k c w) s
  else s
/-- The copy of a range that core `k` reads is uncorrectable: of a replicated page that of its die (R105), else the home's. -/
def State.unreadable (s : State) (k key n : Nat) (repl : Bool) : Bool :=
  if repl then s.badCopies.any (fun w => decide (w.1 = dieOf k) && meets (8 * w.2) 8 key n) else s.isBad key n
/-- The sequencer stamps a write of a core, or of its transfer `id`, and multicasts it (R105). -/
def State.stampWrite (s : State) (k key : Nat) (data : List Byte) (tag : Bool) (id : Nat := 0) : State :=
  { s with
    stamp := s.stamp + 1
    rwrites := s.rwrites ++
      [{ stamp := s.stamp + 1, writer := k, key := key, data := data, tag := tag, acks := [],
         copies := s.copiesOf (s.partNo k), xfer := id }] }
/-- A copy applies a stamped write once it has applied all earlier ones, and acknowledges (R130). -/
def State.ackWrite (s : State) (n copy : Nat) : State :=
  if s.rwrites.any (fun w => decide (w.stamp < n) && w.copies.contains copy && !w.acks.contains copy) then s
  else { s with rwrites := s.rwrites.map (fun w =>
    if w.stamp = n ∧ w.copies.contains copy ∧ ¬ w.acks.contains copy then { w with acks := w.acks ++ [copy] } else w) }
/-- An access of core `k` to a range waits at its home: some engine other than transfer `id` of the core has been granted a
line of the range and has not finished with it (R126), or a host may hold a line of it and has not answered (R309). A shared
grant does not hold back an engine that asks for the line shared. -/
def State.owned (s : State) (k id key n : Nat) (sharing : Bool := false) : Bool :=
  s.snoops.any (fun l => decide (l.1 < key + n ∧ key < l.1 + 64)) || s.tiles.any (fun e => e.2.xfers.any (fun x => !(decide (e.1 = k ∧ x.id = id)) &&
    x.grants.any (fun l => !(sharing && !l.2) && decide (64 * l.1 < key + n ∧ key < 64 * l.1 + 64))))
/-- The number of no transfer. -/
def noXfer : Nat := 0
/-- With every acknowledgement the sequencer sends the commit notice and the write is performed (R130), in stamp order; a line
that another engine owns is waited for (R126), and a lost sequencer sends nothing (R393). -/
def State.commitWrite (s : State) (n : Nat) : State :=
  match s.rwrites with
  | [] => s
  | w :: r =>
    if w.stamp = n ∧ w.copies.all (fun c => w.acks.contains c) ∧ s.seqLost = false ∧ s.owned w.writer w.xfer w.key w.data.length = false then
      State.writeKey { s with rwrites := r } w.key w.data w.tag
    else s
/-- The oldest stamped write is acknowledged by every copy and performed. -/
def State.settleWrite (s : State) : State :=
  match s.rwrites with
  | [] => s
  | w :: _ => (w.copies.foldl (fun s c => s.ackWrite w.stamp c) s).commitWrite w.stamp
/-- Every stamped write is performed. -/
def State.settleWrites (s : State) : State := s.rwrites.foldl (fun s _ => s.settleWrite) s
/-- Bytes that some copy still holds pending (R130). -/
def State.pendingBytes (s : State) (k key n : Nat) : Bool :=
  s.rwrites.any (fun w => decide (w.key < key + n ∧ key < w.key + w.data.length) &&
    (decide (w.writer = k) || w.acks.contains (dieOf k)))

/-- A reference of a walk, of a table or of a host to a range waits at its home (R112, R126, R309): a line is owned, or the
master holds bytes of it pending (R130). -/
def State.homeBusy (s : State) (key n : Nat) : Bool :=
  s.owned Config.tileSites noXfer key n || s.rwrites.any (fun w => meets key n w.key w.data.length && w.acks.contains 56)

/-! ### Performing stores (R118, R121) -/

/-- Numbers of the 64-byte lines of a range. -/
def linesOf (key n : Nat) : List Nat := (List.range ((key + n + 63) / 64 - key / 64)).map (· + key / 64)
/-- The host has granted ownership of every line of a range of host memory (R134). -/
def State.hostGranted (s : State) (key n : Nat) : Bool := (linesOf key n).all s.hostOwned.contains
/-- The host grants ownership of the lines of a range of host memory (R134). -/
def State.hostTake (s : State) (key n : Nat) : State :=
  if !isHost key then s else { s with hostOwned := s.hostOwned ++ (linesOf key n).filter (fun l => !s.hostOwned.contains l) }
/-- The port and the host's address of an address in a host window (R310). -/
def State.hostAddr (s : State) (pa : Nat) : Option (Nat × Nat) :=
  s.parts.findSome? (fun p => if !p.2.live then none else
    (p.2.windows.toList.find? (fun w => decide (w.ctl.toNat % 2 = 1 ∧ w.base.toNat ≤ pa ∧ pa < w.base.toNat + w.len.toNat % 2 ^ 16 * 2 ^ 30))).map
      (fun w => (bf w.ctl.toNat 1 3, w.host.toNat + (pa - w.base.toNat))))
/-- A store to host memory leaves through the port of its window (R310). -/
def State.sendHost (s : State) (key : Nat) (data : List Byte) : State :=
  if !isHost key then s
  else match s.hostAddr key with
    | none => s
    | some (port, a) => { s with outputs := s.outputs ++ [.hostStore port a data] }
/-- A store of a core, or of its transfer `id`, is performed: through the sequencer for a replicated page. -/
def State.performStore (s : State) (k : Nat) (st : PStore) (id : Nat := 0) : State :=
  if st.repl then (s.settleWrites.stampWrite k st.key st.data st.tag id).settleWrites
  else (s.performAt st.key st.data st.tag).sendHost st.key st.data
/-- A store cannot be performed yet: its run has not committed (R155), its line is owned (R126), the host has not granted its line
of host memory (R134), or the sequencer is lost (R393). -/
def State.stuck (s : State) (k : Nat) (x : PStore) : Bool :=
  !x.committed || s.owned k noXfer x.key x.data.length || (isHost x.key && !s.hostGranted x.key x.data.length) || (x.repl && s.seqLost)
/-- Which stores of a buffer are performed when some are wanted: those, and any that shares a byte with a later one of them
(R121 rule 1). -/
def choose (want : PStore → Bool) : List PStore → List (Bool × PStore)
  | [] => []
  | x :: r =>
    let l := choose want r
    (want x || l.any (fun y => y.1 && meets x.key x.data.length y.2.key y.2.data.length), x) :: l
/-- Performs the chosen stores, oldest first, up to one that cannot be performed yet; gives the rest. -/
def performChosen (k : Nat) : List (Bool × PStore) → State → List PStore × State
  | [], s => ([], s)
  | (chosen, x) :: r, s =>
    if chosen && s.stuck k x then (x :: r.map (·.2), s)
    else if chosen then performChosen k r (s.performStore k x)
    else
      let (l, s') := performChosen k r s
      (x :: l, s')
/-- Every run of a chord has committed (R156). -/
def Tile.commitRuns (t : Tile) : Tile :=
  { t with commits := t.runs, stores := t.stores.map (fun x => { x with committed := true }) }
/-- The same on a chord's anchor; a single core has nothing to commit. -/
def Tile.commitAll (t : Tile) : Tile := if t.chord.isSome then t.commitRuns else t
/-- A core's stamped writes have been performed, as far as the sequencer's order lets them be. -/
def State.settleOf (s : State) (k : Nat) : State :=
  if s.rwrites.any (fun w => decide (w.writer = k)) then s.settleWrites else s
/-- The wanted stores of a core are performed, oldest first, as far as they can be; the runs of a chord commit first (R155),
and the core's stamped writes are performed (R130). -/
def State.drain (s : State) (k : Nat) (want : PStore → Bool) : State :=
  let (rest, s) := performChosen k (choose want (s.tile k).commitAll.stores) s
  (s.modTile k (fun t => { t.commitAll with stores := rest })).settleOf k
/-- The stores of a core are performed. -/
def State.drainStores (s : State) (k : Nat) : State := s.drain k (fun _ => true)
/-- A stamped write, as the store that it came from. -/
def RWrite.store (w : RWrite) : PStore := { key := w.key, data := w.data, tag := w.tag, repl := true, committed := true }
/-- Some wanted store of a core, buffered or stamped, is still to be performed. -/
def State.undrained (s : State) (k : Nat) (want : PStore → Bool) : Bool :=
  (s.tile k).stores.any want || s.rwrites.any (fun w => decide (w.writer = k ∧ w.xfer = 0) && want w.store)

/-! ### The module information area (R99, R21, R23) -/

/-- The reference count at a TIME by an entry of the time table (R21). -/
def refAt (offset : Int) (rate t : Nat) : Int := offset + (t * rate / 2 ^ 30 : Nat)
/-- The TIME at a reference count by an entry of the time table (R21). -/
def timeAt (offset : Int) (rate r : Nat) : Int := ((r : Int) - offset) * (2 ^ 30 : Nat) / rate
/-- A die's TIME as the time table converts it to another die's (R21, R22). -/
def State.convert (s : State) (t d e : Nat) : Int :=
  timeAt (s.die e).offset (s.die e).rate (refAt (s.die d).offset (s.die d).rate t).toNat

/-- The 1,168 bytes of the time table (R21). -/
def State.timeTable (s : State) : List Byte :=
  leBytes 8 s.tableSeq ++ leBytes 8 0 ++
    (List.range 72).flatMap (fun d => leBytes 8 (((s.die d).offset % (2 ^ 64 : Nat)).toNat) ++ leBytes 4 (s.die d).rate ++ leBytes 4 0)
/-- The fret table (R23). -/
def State.fretTable (s : State) : List Byte :=
  leBytes 8 s.fretSeq ++ leBytes 8 0 ++
    (List.range 72).flatMap (fun d => (List.range 4).flatMap (fun k =>
      let l := (s.die d).links[k]?.getD Link.reset
      leBytes 2 l.lo ++ leBytes 2 l.hi))
/-- The partition record (R99). -/
def State.partRecord (s : State) (p : Nat) : List Byte :=
  leBytes 2 p ++ leBytes 2 (s.refDie p) ++ leBytes 4 0 ++ leBytes 8 ((s.part p).dies.foldl (fun a d => a ||| 2 ^ d) 0) ++
    leBytes 4 ((s.part p).hbms.foldl (fun a d => a ||| 2 ^ d) 0)
/-- The copy of a table on a die while it is written anew, with entries of `e` bytes (R24): as it was, or with SEQ odd and the
first entries new. -/
def Publishing.copy (x : Publishing) (d e seq : Nat) (new : List Byte) : List Byte :=
  match keyFind x.copies d with
  | none => new
  | some 0 => x.old
  | some (j + 1) => leBytes 8 (seq - 1) ++ leBytes 8 0 ++ (new.drop 16).take (e * j) ++ x.old.drop (16 + e * j)
/-- The time table as a die's copy holds it (R99). -/
def State.timeCopy (s : State) (d : Nat) : List Byte :=
  match s.timePub with
  | none => s.timeTable
  | some x => x.copy d 16 s.tableSeq s.timeTable
/-- The fret table as a die's copy holds it. -/
def State.fretCopy (s : State) (d : Nat) : List Byte :=
  match s.fretPub with
  | none => s.fretTable
  | some x => x.copy d 4 s.fretSeq s.fretTable
/-- A table is about to be written anew in the copy of every compute die. -/
def Publishing.begin' (old : List Byte) : Publishing := ⟨old, (List.range Config.dies).map (fun d => (d, 0))⟩
/-- Time in which each die's copy takes further entries, until it is whole: `n` is the number of entries. -/
def Publishing.advance (x : Publishing) (free n : Nat) : Option Publishing :=
  let l := (x.copies.map (fun c => (c.1, c.2 + Config.elapsed free (128 + c.1)))).filter (fun c => decide (c.2 ≤ n + 1))
  if l.isEmpty then none else some { x with copies := l }
/-- `n` bytes at an offset of the area, from the copy of a core's die. Bytes that no table holds read as 0 (log entry 35). -/
def State.infoBytes (s : State) (k off n : Nat) : List Byte :=
  (List.range n).map (fun i =>
    let o := off + i
    if o < 0x1000 then (s.timeCopy (dieOf k)).getD o 0
    else if o < 0x2000 then (s.fretCopy (dieOf k)).getD (o - 0x1000) 0
    else if o < 0x2020 then (s.partRecord (s.partNo k)).getD (o - 0x2000) 0
    else 0)

end Sys2Proof.Machine
end

