-- ==== Sys2Proof/Machine/Engine.lean ====
section
/-! DEFINITION. The engine of a tile: slots and rings (R68, R69), operands through windows (R81, R82, R263), and what each
engine instruction does when it retires (R254, R263 to R273). -/

namespace Sys2Proof.Machine

/-! ### Slots and rings (R68, R69) -/

/-- A slot of the tile table. -/
def Tile.slot (t : Tile) (i : Nat) : Slot := t.slots[i]?.getD Slot.reset
/-- Changes a slot. -/
def Tile.modSlot (t : Tile) (i : Nat) (f : Slot → Slot) : Tile := { t with slots := t.slots.setIfInBounds i (f (t.slot i)) }
/-- A ring. -/
def Tile.ring (t : Tile) (q : Nat) : Ring := t.rings[q]?.getD Ring.reset
/-- Changes a ring. -/
def Tile.modRing (t : Tile) (q : Nat) (f : Ring → Ring) : Tile := { t with rings := t.rings.setIfInBounds q (f (t.ring q)) }
/-- The slot after one of a ring, wrapping at its end (R69). -/
def Ring.after (r : Ring) (i : Nat) : Nat := if i + 1 = r.first + r.len then r.first else i + 1
/-- The `n`-th slot from HEAD. -/
def Ring.nth (r : Ring) (n : Nat) : Nat := r.first + (r.head - r.first + n) % (max r.len 1)
/-- A slot becomes EMPTY; if it heads its ring, HEAD advances (R68, R69). -/
def Tile.empty (t : Tile) (i : Nat) : Tile :=
  let sl := t.slot i
  let t := t.modSlot i (fun x => { x with state := .empty })
  match sl.ring with
  | none => t
  | some q => t.modRing q.val (fun r => if r.head = i then { r with head := r.after i, count := r.count - 1 } else r)
/-- A fill names the tail slot (R69): EMPTY becomes FILLING and TAIL advances. -/
def Tile.fillTail (t : Tile) (q : Nat) : Tile :=
  let r := t.ring q
  (t.modSlot r.tail (fun x => { x with state := .filling })).modRing q
    (fun r => { r with tail := r.after r.tail, count := r.count + 1 })
/-- The last byte of a fill has been written (R68). -/
def Tile.ready (t : Tile) (i : Nat) : Tile := t.modSlot i (fun x => { x with state := .ready })

/-! ### Accumulators (R70, R71) -/

/-- An accumulator. -/
def Tile.accOf (t : Tile) (n : Nat) : Acc := t.acc[n]?.getD Acc.reset
/-- Changes an accumulator. -/
def Tile.modAcc (t : Tile) (n : Nat) (f : Acc → Acc) : Tile := { t with acc := t.acc.setIfInBounds n (f (t.accOf n)) }
/-- MODE of a mode register: 0 FLOAT, 1 INT, 2 SIEVE. -/
def modeOf (m : Word) : Nat := m.toNat % 4
/-- L = 2^LLOG. -/
def sieveLists (m : Word) : Nat := 2 ^ bf m.toNat 21 3
/-- Depth k = KM1 + 1. -/
def sieveDepth (m : Word) : Nat := bf m.toNat 24 8 + 1
/-- KFMT. -/
def sieveFmt (m : Word) : Nat := bf m.toNat 19 2
/-- IBASE. -/
def sieveBase (m : Word) : Nat := bf m.toNat 32 32
/-- Width in bits of an INT accumulator. -/
def accBits (m : Word) : Nat := iwBits (bf m.toNat 16 2)
/-- SAT of an INT accumulator. -/
def accSat (m : Word) : Bool := decide (bf m.toNat 18 1 = 1)
/-- Every element at the mode's empty value: +0, 0 or invalid (R71), all zero bits. -/
def Acc.emptied (a : Acc) : Acc := { a with elems := Vector.replicate 256 0 }
/-- An INT element's value. -/
def elemInt (x : Elem) : Int := x.toInt

/-- A held entry as a sieve element (R71). -/
def pairElem (x : Pair) : Elem := BitVec.ofNat 80 (x.1 % 2 ^ 32 * 2 ^ 48 + x.2 % 2 ^ 40 * 2 ^ 8 + 2 ^ 7)
/-- The valid entries of list `j`, in order (R71). -/
def Acc.list (a : Acc) (j : Nat) : List Pair :=
  let c := 256 / sieveLists a.mode
  ((List.range c).map (fun i => (a.elems[j * c + i]?.getD 0).toNat)).filterMap
    (fun x => if x / 2 ^ 7 % 2 = 1 then some (x / 2 ^ 48 % 2 ^ 32, x / 2 ^ 8 % 2 ^ 40) else none)
/-- Replaces list `j`. -/
def Acc.setList (a : Acc) (j : Nat) (l : List Pair) : Acc :=
  let c := 256 / sieveLists a.mode
  { a with elems := Vector.ofFn (fun (i : Fin 256) =>
      if i.val / c = j then (match l[i.val % c]? with | some x => pairElem x | none => 0) else a.elems[i]) }
/-- The peg of a list: its k-th key, −∞ before that (R93). -/
def Acc.peg (a : Acc) (j : Nat) : Nat := (((a.list j)[sieveDepth a.mode - 1]?).map (·.1)).getD 0xFF800000
/-- Admits a pair to list `j` (R93). -/
def Acc.push (a : Acc) (j : Nat) (x : Pair) : Acc := a.setList j (admitPair (sieveDepth a.mode) (a.list j) x)

/-! ### Operands (R81 to R83, R263) -/

/-- The decode table as a function of the code (R86). -/
def Tile.table (t : Tile) (c : Nat) : Lane := t.dectab[c]?.getD 0
/-- SOFF of a window (R72). -/
def Tile.soff (t : Tile) (w : Nat) : Nat := (t.wcfg[w]?.getD 0).toNat % 2 ^ 19
/-- The bits of element `i` of a window's array at byte offset `base` of a scratchpad (R82, R81). -/
def elemBits (s : State) (k w base i : Nat) : Nat :=
  if w = 8 then
    let b := (Memory.get s.mem (scratchAt k (base + i / 2))).toNat
    if i % 2 = 0 then b % 16 else b / 16
  else if w = 15 then s.readNat (scratchAt k (base + 16 * i)) 10
  else s.readNat (scratchAt k (base + i * elemBytes w)) (elemBytes w)
/-- Offset of the scale byte of element `i` (R81). -/
def scaleOff (soff w base i : Nat) : Nat := if w = 8 then soff + (base + i / 2) / 16 else soff + (base + i) / 32
/-- The scale byte of element `i`; 127 outside MX windows. -/
def scaleByte (s : State) (k soff w base i : Nat) : Nat :=
  if isMx w then (Memory.get s.mem (scratchAt k (scaleOff soff w base i))).toNat else 127
/-- A multiplier input from its bits and scale byte: IF19 rounding outside the MX scale, which stays an exponent (R83). -/
def operandOf (t : Tile) (w bits scale : Nat) : Ext × Int :=
  if isMx w ∧ scale = 0xFF then (.nan, 0)
  else (if w = 11 ∨ w = 13 ∨ w = 14 ∨ w = 12 then toIF (decodeWin t.table w bits) else decodeWin t.table w bits, (scale : Int) - 127)
/-- The exact value of an element through a window, scale included (R81). -/
def valueOf (t : Tile) (w bits scale : Nat) : Ext :=
  if isMx w ∧ scale = 0xFF then .nan else (decodeWin t.table w bits).scale (if isMx w then (scale : Int) - 127 else 0)
/-- 32 elements of row or column `r` of a slot, as bits and scale byte (R263). -/
def slotLine (s : State) (k w slot r : Nat) : List (Nat × Nat) :=
  let t := s.tile k
  let base := (t.slot slot).off
  (List.range 32).map (fun j => (elemBits s k w base (32 * r + j), scaleByte s k (t.soff w) w base (32 * r + j)))

/-- The products of a row and a column (R87); a window's inputs are exact integers in INT mode (R83). -/
def products (t : Tile) (wa wb : Nat) (a b : List (Nat × Nat)) : List (Ext × Ext × Int) :=
  (a.zip b).map (fun x =>
    let (u, eu) := operandOf t wa x.1.1 x.1.2
    let (v, ev) := operandOf t wb x.2.1 x.2.2
    (u, v, eu + ev))
/-- The exact integer products of a row and a column (R88). -/
def intProducts (t : Tile) (wa wb : Nat) (a b : List (Nat × Nat)) : Int :=
  (a.zip b).foldl (fun s x => s + (decodeWin t.table wa x.1.1).dy.n * (decodeWin t.table wb x.2.1).dy.n) 0
/-- One element of a product: FloatSum or IntSum, with CLEAR's start (R263, R264). -/
def macElem (t : Tile) (mode : Word) (wa wb : Nat) (clear : Bool) (rm : Rm) (a b : List (Nat × Nat)) (c : Elem) : Elem :=
  if modeOf mode = 1 then
    BitVec.ofInt 80 (narrow (accBits mode) (accSat mode) ((if clear then 0 else elemInt c) + intProducts t wa wb a b))
  else floatSum (if clear then faNegZero else c) (products t wa wb a b) rm

/-- C[16×16] += A · B over lines of elements (R263). -/
def mmaAcc (t : Tile) (acc : Acc) (wa wb : Nat) (clear : Bool) (rm : Rm) (rows cols : List (List (Nat × Nat))) : Acc :=
  { acc with elems := Vector.ofFn (fun (i : Fin 256) =>
      macElem t acc.mode wa wb clear rm (rows.getD (i.val / 16) []) (cols.getD (i.val % 16) []) acc.elems[i]) }

/-- The format of KFMT. -/
def kfmtOf (n : Nat) : Fmt := if n = 1 then bf16 else if n = 2 then fp16 else fp32
/-- Candidate keys enter the lists (R271): the key is rounded once to KFMT and widened. -/
def smmaAcc (t : Tile) (acc : Acc) (wa wb : Nat) (rows cols : List (List (Nat × Nat))) : Acc :=
  let l := sieveLists acc.mode
  (List.range 256).foldl (fun (a : Acc) n =>
    let i := n / 16
    let j := n % 16
    let x := sumExt (.num true 0 0) (products t wa wb (rows.getD i []) (cols.getD j [])) .rne
    let key := (encodeFloat fp32 .rne false (decodeFloat (kfmtOf (sieveFmt acc.mode)) (encodeFloat (kfmtOf (sieveFmt acc.mode)) .rne false x).1)).1
    a.push (i * l / 16) (key, sieveBase acc.mode + 16 * (i % (16 / l)) + j)) acc
/-- IBASE advances by 256 / L (R271). -/
def Acc.nextBase (a : Acc) : Acc :=
  let m := a.mode.toNat
  { a with mode := BitVec.ofNat 64 (m % 2 ^ 32 + (sieveBase a.mode + 256 / sieveLists a.mode) % 2 ^ 32 * 2 ^ 32) }
/-- SMMA is skipped: the bound, no NaN, ranks below every list's peg (R271). -/
def smmaSkips (a : Acc) (bound : Nat) : Bool :=
  !keyNan bound && (List.range (sieveLists a.mode)).all (fun j => keyAbove (a.peg j) (sieveKey bound))

/-! ### Encoding into slots (R267, R268, R85) -/

/-- An accumulator element's exact value by mode (R267). -/
def elemExt (mode : Word) (x : Elem) : Ext := if modeOf mode = 1 then .ofInt (elemInt x) else decodeFA x
/-- Packs element codes into bytes; W8 packs nibbles (R81). -/
def packElems (w : Nat) : List Nat → List Byte
  | [] => []
  | [a] => if w = 8 then [BitVec.ofNat 8 a] else leBytes (elemBytes w) a
  | a :: b :: r => if w = 8 then BitVec.ofNat 8 (a % 16 + b % 16 * 16) :: packElems w r
                   else leBytes (elemBytes w) a ++ packElems w (b :: r)
/-- Writes an accumulator's elements through a window at a scratchpad offset, MX scales beside them (R267, R85). -/
def drainTo (s : State) (k acc off w : Nat) (rm : Rm) (sat : Bool) : State :=
  let t := s.tile k
  let a := t.accOf acc
  let el := a.elems.toList
  if w = 15 then s.writeKey (scratchAt k off) (el.flatMap (fun x => leBytes 16 x.toNat)) false
  else if isMx w then
    (List.range 8).foldl (fun (s : State) b =>
      let vals := ((el.drop (32 * b)).take 32).map (elemExt a.mode)
      let sc := mxScale w vals
      let codes := (mxEncode t.table w rm sc vals).map (·.1)
      let s := s.writeKey (scratchAt k (off + winBytes w (32 * b))) (packElems w codes) false
      s.writeKey (scratchAt k (scaleOff (t.soff w) w off (32 * b))) [BitVec.ofNat 8 sc] false) s
  else
    s.writeKey (scratchAt k off) (packElems w (el.map (fun x => (encodeWin t.table w rm sat (elemExt a.mode x)).1))) false
/-- A drain's last byte is written: the slot is READY; with ZERO the accumulator is emptied (R267). -/
def drained (s : State) (k acc slot : Nat) (zero : Bool) : State :=
  s.modTile k (fun t => let t := t.ready slot; if zero then t.modAcc acc Acc.emptied else t)

/-! ### Attention (R272) -/

/-- Lane of a vector register. -/
def Tile.lane (t : Tile) (v i : Nat) : Lane := (t.v[v]?.getD (Vector.replicate 64 0))[i]?.getD 0
/-- Replaces the lanes of a vector register. -/
def Tile.setLanes (t : Tile) (v : Nat) (f : Nat → Lane → Lane) : Tile :=
  { t with v := t.v.setIfInBounds v (Vector.ofFn (fun (i : Fin 64) => f i.val (t.lane v i.val))) }
/-- Binary32 by RNE (R272). -/
def rneLane (x : Ext) : Lane := (toLane .rne x).1
/-- The larger of two values; NaN if either is NaN. -/
def extMax (a b : Ext) : Ext := if a.isNan || b.isNan then .nan else if Ext.lt a b || (Ext.eqv a b && a.neg) then b else a
/-- a − b, exact; NaN for equal infinities. -/
def extSub (a b : Ext) : Ext := sumExt a [(b.negate, .num false 1 0, 0)] .rne
/-- Row `i` of an accumulator. -/
def Acc.row (a : Acc) (i : Nat) : List Ext := (List.range 16).map (fun j => decodeFA (a.elems[16 * i + j]?.getD 0))
/-- exp2 rounded once to IF19, as a value. -/
def exp2Val (x : Ext) : Ext := decodeFloat fp32 (exp2IF x).1
/-- SMAXR (R272). -/
def smaxrTile (t : Tile) (acc vm : Nat) : Tile :=
  let a := t.accOf acc
  let rowMax := fun (i : Nat) => (a.row i).foldl extMax (.inf true)
  let old := fun (i : Nat) => t.lane vm i
  t.setLanes vm (fun i x =>
    if i < 16 then rneLane (extMax (lane (old i)) (lane (rneLane (rowMax i))))
    else if i < 32 then old (i - 16) else x)
/-- The factor of RESCALE for row `i` (R272). -/
def rescaleF (t : Tile) (vm i : Nat) : Ext :=
  let m := lane (t.lane vm i)
  let prev := lane (t.lane vm (16 + i))
  if m == .inf true && prev == .inf true then .num false 1 0
  else if prev == .inf true then .zero
  else exp2Val (extSub prev m)
/-- RESCALE (R272). -/
def rescaleTile (t : Tile) (acc vm : Nat) (sl : Bool) (rm : Rm) : Tile :=
  let t' := t.modAcc acc (fun a => { a with elems := Vector.ofFn (fun (n : Fin 256) =>
    roundFA rm (Ext.mul (decodeFA a.elems[n]) (rescaleF t vm (n.val / 16)))) })
  if sl then t'.setLanes vm (fun i x => if 32 ≤ i ∧ i < 48 then rneLane (Ext.mul (lane x) (rescaleF t vm (i - 32))) else x)
  else t'
/-- EXPT (R272). -/
def exptTile (t : Tile) (acc vm : Nat) (rm : Rm) : Tile :=
  let a := t.accOf acc
  let new := fun (n : Nat) =>
    let m := lane (t.lane vm (n / 16))
    if m == .inf true then Ext.zero else exp2Val (extSub (decodeFA (a.elems[n]?.getD 0)) m)
  let t' := t.modAcc acc (fun a => { a with elems := Vector.ofFn (fun (n : Fin 256) => roundFA rm (new n.val)) })
  t'.setLanes vm (fun i x => if 32 ≤ i ∧ i < 48 then
      rneLane (sumExt (lane x) ((List.range 16).map (fun j => (new (16 * (i - 32) + j), Ext.num false 1 0, 0))) .rne) else x)
/-- a / b rounded to FA80: x / 0 is ±∞, 0 / 0 and ∞ / ∞ NaN (R272). -/
def divFA (rm : Rm) (a b : Ext) : Elem :=
  let sg := a.neg != b.neg
  match a, b with
  | .nan, _ => roundFA rm .nan
  | _, .nan => roundFA rm .nan
  | .inf _, .inf _ => roundFA rm .nan
  | .inf _, _ => roundFA rm (.inf sg)
  | _, .inf _ => roundFA rm (.num sg 0 0)
  | .num _ m e, .num _ m' e' =>
    if m' = 0 then roundFA rm (if m = 0 then .nan else .inf sg)
    else if m = 0 then roundFA rm (.num sg 0 0)
    else
      let sh := Nat.log2 m' + 80
      let q := m * 2 ^ sh / m'
      roundFA rm (.num sg (2 * q + (if m * 2 ^ sh % m' = 0 then 0 else 1)) (e - e' - sh - 1))
/-- ROWDIV (R272). -/
def rowdivTile (t : Tile) (acc vm : Nat) (rm : Rm) : Tile :=
  t.modAcc acc (fun a => { a with elems := Vector.ofFn (fun (n : Fin 256) =>
    divFA rm (decodeFA a.elems[n]) (lane (t.lane vm (32 + n.val / 16)))) })

/-! ### Retirement (R274) -/

/-- The elements of a window of a lattice region as lines: +0 where no key is present (R273). -/
def cellLines (cells : List (Nat × Nat × Nat)) : List (List (Nat × Nat)) :=
  (List.range 16).map (fun i => (List.range 32).map (fun j =>
    (((cells.find? (fun c => decide (c.1 = i ∧ c.2.1 = j))).map (·.2.2)).getD 0, 127)))
/-- ROWSUM's update of one element (R266). -/
def rowsumElem (mode : Word) (t : Tile) (win z : Nat) (rm : Rm) (line : List (Nat × Nat)) (c : Elem) : Elem :=
  if modeOf mode = 1 then
    let s := line.foldl (fun a x => a + (decodeWin t.table win x.1).dy.n) 0
    BitVec.ofInt 80 (narrow (accBits mode) (accSat mode) (elemInt c + sext z 32 * s))
  else
    let s := sumExt (.num true 0 0) (line.map (fun x => let (v, e) := operandOf t win x.1 x.2; (v, Ext.num false 1 0, e))) .rne
    floatSum c [(decodeFloat fp32 (z % 2 ^ 32), s, 0)] rm

/-- The issue gate refuses what the core permits: BAL takes SBAL, FORCED is set and the event recorded (R407). -/
def State.gateRefuses (s : State) (k : Nat) : State :=
  let s := s.modTile k (fun t => { t with bal := t.sbal, trips := t.trips + 1 })
  let s := s.modDie (dieOf k) (fun d => { d with tripstat := d.tripstat ||| 4 })
  s.record { unitRecord 0 8 0xFF (s.nameOf k) (some (s.partNo k)) with name := s.nameOf k }
/-- Issue slots that an engine instruction in the queue has still to spend (R273). -/
def EngOp.owed : EngOp → Nat
  | .lspmm _ _ _ _ _ _ n => n
  | _ => 0
/-- The same with fewer slots to spend. -/
def EngOp.owing (op : EngOp) (n : Nat) : EngOp :=
  match op with
  | .lspmm acc sb wb cfmt cells rm _ => .lspmm acc sb wb cfmt cells rm n
  | op => op
/-- Cycles of a window (R171). -/
def windowLen (k : Nat) : Nat := if kindOf k = 1 then 3 else 4
/-- The latest window start at or before a cycle (R171). -/
def lastStart (k now : Nat) : Nat := now / windowLen k * windowLen k
/-- A window has started whose refill a tile's balances do not hold yet (R171). -/
def State.windowDue (s : State) (k : Nat) : Bool := decide ((s.tile k).window < lastStart k (s.timeOf k))
/-- Slots that a tile can spend now, one after the other (R171, R407): none at a holding of 0 (R173). -/
def State.spendable (s : State) (k : Nat) : Nat :=
  let t := s.tile k
  if t.hold = 0 ∨ s.windowDue k then 0 else (min t.bal t.sbal).toNat
/-- Slots are spent, and counted as energy events (R171, R183, R407). -/
def Tile.spent (t : Tile) (n : Nat) : Tile := { t with bal := t.bal - n, sbal := t.sbal - n, slotEvents := t.slotEvents + n }
/-- The oldest engine instruction spends what it owes, as far as its balance allows; the gate may refuse what BAL allows. -/
def State.payOwed (s : State) (k : Nat) (op : EngOp) (rest : List EngOp) : State :=
  let t := s.tile k
  let n := min op.owed (s.spendable k)
  if n = 0 then (if t.hold ≠ 0 ∧ 1 ≤ t.bal ∧ !s.windowDue k then s.gateRefuses k else s)
  else s.modTile k (fun t => { t.spent n with eng := op.owing (op.owed - n) :: rest })

/-- What an engine instruction of a core does as it retires: its accumulator or slot is written and its head slots are popped. -/
def State.retire (s : State) (k : Nat) (op : EngOp) : State :=
  let t := s.tile k
  let lines := fun (w slot : Nat) => (List.range 16).map (fun r => slotLine s k w slot r)
  match op with
  | .mma acc sa sb wa wb clear rm =>
    let rows := lines wa sa
    let cols := lines wb sb
    s.modTile k (fun t => ((t.modAcc acc (fun a => mmaAcc t a wa wb clear rm rows cols)).empty sa).empty sb)
  | .bmmStep acc rowLo wa wb rows cols clear rm =>
    s.modTile k (fun t => (List.range rows.length).foldl (fun (t : Tile) i =>
      let r := rowLo + i
      let line := rows.getD i []
      t.modAcc (acc + r / 16) (fun a => { a with elems := Vector.ofFn (fun (n : Fin 256) =>
        if n.val / 16 = r % 16 ∧ n.val % 16 < cols.length then
          (if line.isEmpty then 0 else macElem t a.mode wa wb clear rm line (cols.getD (n.val % 16) []) a.elems[n])
        else a.elems[n]) })) t)
  | .rowsum acc sa win z col keep rm =>
    let ls := lines win sa
    s.modTile k (fun t =>
      let t := t.modAcc acc (fun a => { a with elems := Vector.ofFn (fun (n : Fin 256) =>
        rowsumElem a.mode t win z rm (ls.getD (if col then n.val % 16 else n.val / 16) []) a.elems[n]) })
      if keep then t else t.empty sa)
  | .drain acc slot win rm sat zero => drained (drainTo s k acc (t.slot slot).off win rm sat) k acc slot zero
  | .drainq acc slot win corr mult csel shift zout zero =>
    let (bits, sg) := match winKind win with | .int b g => (b, g) | _ => (8, true)
    let code := fun (n : Nat) (x : Elem) =>
      ((requant (elemInt x) (corr.getD (if csel then n % 16 else n / 16) 0) (mult.getD (n % 16) 0) shift zout
        (intLo bits sg) (intHi bits sg)) % (2 ^ bits : Nat)).toNat
    let codes := (List.range 256).map (fun n => code n ((t.accOf acc).elems[n]?.getD 0))
    drained (s.writeKey (scratchAt k (t.slot slot).off) (packElems win codes) false) k acc slot zero
  | .spush acc list key index => s.modTile k (fun t => t.modAcc acc (fun a => a.push list (key, index)))
  | .smma acc sa sb wa wb bound =>
    let rows := lines wa sa
    let cols := lines wb sb
    s.modTile k (fun t =>
      let t := t.modAcc acc (fun a => (if smmaSkips a bound then a else smmaAcc t a wa wb rows cols).nextBase)
      (t.empty sa).empty sb)
  | .smergeAcc acc src =>
    s.modTile k (fun t => t.modAcc acc (fun a => (List.range (sieveLists a.mode)).foldl (fun (a : Acc) j =>
      ((t.accOf src).list j).foldl (fun (a : Acc) x => a.push j x) a) a))
  | .smergeSlot acc slot =>
    let off := (t.slot slot).off
    s.modTile k (fun t => (t.modAcc acc (fun a =>
      let c := 256 / sieveLists a.mode
      (List.range 256).foldl (fun (a : Acc) n =>
        let x := s.readNat (scratchAt k (off + 16 * n)) 10
        if x / 2 ^ 72 % 2 = 1 then a.push (n / c) (x % 2 ^ 32, x / 2 ^ 32 % 2 ^ 40) else a) a)).empty slot)
  | .sread acc slot =>
    let a := t.accOf acc
    let data := a.elems.toList.flatMap (fun x =>
      let n := x.toNat
      if n / 2 ^ 7 % 2 = 1 then leBytes 4 (n / 2 ^ 48) ++ leBytes 5 (n / 2 ^ 8) ++ leBytes 7 1 else leBytes 16 0)
    (s.writeKey (scratchAt k (t.slot slot).off) data false).modTile k (fun t => t.ready slot)
  | .smaxr acc vm => s.modTile k (fun t => smaxrTile t acc vm)
  | .expt acc vm rm => s.modTile k (fun t => exptTile t acc vm rm)
  | .rescale acc vm sl rm => s.modTile k (fun t => rescaleTile t acc vm sl rm)
  | .rowdiv acc vm rm => s.modTile k (fun t => rowdivTile t acc vm rm)
  | .acfg acc mode =>
    s.modTile k (fun t => t.modAcc acc (fun a => if modeOf a.mode = modeOf mode then { a with mode := mode }
      else { a.emptied with mode := mode }))
  | .azero acc => s.modTile k (fun t => t.modAcc acc Acc.emptied)
  | .amov dst src => s.modTile k (fun t => t.modAcc dst (fun _ => t.accOf src))
  | .lspmm acc sb wb cfmt cells rm _ =>
    let rows := cellLines cells
    let cols := lines wb sb
    s.modTile k (fun t => (t.modAcc acc (fun a =>
      if modeOf a.mode = 2 then (smmaAcc t a cfmt wb rows cols).nextBase
      else mmaAcc t a cfmt wb false rm rows cols)).empty sb)
/-- The oldest engine instruction of a core retires. One that owes slots spends them first. -/
def State.engineStep (s : State) (k : Nat) : State :=
  match (s.tile k).eng with
  | [] => s
  | op :: rest =>
    if op.owed ≠ 0 ∧ op.owed ≠ min op.owed (s.spendable k) then s.payOwed k op rest
    else (s.modTile k (fun t => { t.spent op.owed with eng := rest })).retire k op

/-- The scratchpad bytes of a slot of a window, and their scale bytes. -/
def Tile.slotSpans (t : Tile) (slot w : Nat) : List (Nat × Nat) :=
  let x := t.slot slot
  (x.off, x.len) :: (if isMx w then [(scaleOff (t.soff w) w x.off 0, x.len / (if w = 8 then 16 else 32) + 1)] else [])
/-- Scratchpad bytes that a queued engine instruction has still to read. -/
def Tile.engReads (t : Tile) : EngOp → List (Nat × Nat)
  | .mma _ sa sb wa wb _ _ => t.slotSpans sa wa ++ t.slotSpans sb wb
  | .smma _ sa sb wa wb _ => t.slotSpans sa wa ++ t.slotSpans sb wb
  | .rowsum _ sa win _ _ _ _ => t.slotSpans sa win
  | .smergeSlot _ slot => t.slotSpans slot 0
  | .lspmm _ sb wb _ _ _ _ => t.slotSpans sb wb
  | _ => []
/-- Scratchpad bytes that a queued engine instruction has still to write. -/
def Tile.engWrites (t : Tile) : EngOp → List (Nat × Nat)
  | .drain _ slot win _ _ _ => t.slotSpans slot win
  | .drainq _ slot win _ _ _ _ _ _ => t.slotSpans slot win
  | .sread _ slot => t.slotSpans slot 0
  | _ => []
/-- A queued engine instruction stands before an access of the core to scratchpad bytes (R122): it writes some of them, or the
access does and it reads some. -/
def Tile.engineHolds (t : Tile) (off n : Nat) (write : Bool) : Bool :=
  t.eng.any (fun op => ((if write then t.engReads op else []) ++ t.engWrites op).any (fun x => meets x.1 x.2 off n))

/-- The engine instructions of a core retire, in issue order (R254), up to one that lacks tokens. -/
def State.engineDrain (s : State) (k : Nat) : State := (s.tile k).eng.foldl (fun (s : State) _ => s.engineStep k) s

end Sys2Proof.Machine
end

