-- ==== Sys2Proof/Machine/Ops.lean ====
section
/-! DEFINITION. The shared operations of a core: how an operation ends short of its effect, taking a trap, posting a fault
and returning from a handler (R340 to R343), translation (R108 to R113, R380 to R386), checked loads and stores (R215),
register access with streams (R65, R202), and the issue of an instruction with its run rules (R366, R369, R195). -/

namespace Sys2Proof.Machine

/-- How an operation ends short of its effect. `keep` keeps what it has done so far (R232, R265, R282); otherwise the
state before the instruction returns, but for what walks did to page tables and TLBs. -/
inductive Exn where
  | trap (cause : Nat) (akind : Access) (addr detail : Nat) (keep : Bool)
  | post (cause : Nat) (akind : Access) (addr detail : Nat) (keep : Bool)
  | wait (on : WaitFor) (keep : Bool)
  | fault (f : Fault)

/-- An operation of the core `cur`. -/
abbrev Op := EStateM Exn State

/-- A local trap (R340). -/
def trap {α : Type} (cause : Nat) (akind : Access) (addr detail : Nat) : Op α := throw (.trap cause akind addr detail false)
/-- A posted fault (R342). -/
def post {α : Type} (cause : Nat) (akind : Access) (addr detail : Nat) : Op α := throw (.post cause akind addr detail false)
/-- A wait at issue. -/
def waitFor {α : Type} (w : WaitFor) : Op α := throw (.wait w false)
/-- LIMIT with SUB 0: register field and the lowest bit of the failing field (R368). -/
def limit {α : Type} (reg field : Nat) : Op α := trap 0x26 .none 0 (reg + field * 2 ^ 32)
/-- LIMIT of a field of the instruction itself, [47] set (R368). -/
def limitField {α : Type} (reg bitPos : Nat) : Op α := limit reg (0x8000 + bitPos)
/-- Continues only if a condition holds. -/
def require (b : Bool) (e : Op Unit) : Op Unit := if b then pure () else e

/-- The core's tile. -/
def getT : Op Tile := do let s ← get; pure (s.tile s.cur)
/-- Changes the core's tile. -/
def modT (f : Tile → Tile) : Op Unit := modify (fun s => s.modTile s.cur f)
/-- The core's number. -/
def me : Op Nat := do let s ← get; pure s.cur
/-- A free 64-bit value (log entries 2 and 9). -/
def freshWord : Op Word := do
  let s ← get
  set { s with free := s.free + 1 }
  pure (Config.freeWord s.free)

/-! ### Taking a trap, posting a fault, returning from a handler -/

/-- The class-15 handler capability can be entered (R340). -/
def Tile.trapReady (t : Tile) : Bool :=
  let c := (t.classes[15]).cap
  c.tag && decide (c.otype = 0) && c.has Perm.exec
/-- The task is an attached consort follower (R164). -/
def Tile.follower (t : Tile) (k : Nat) : Bool :=
  match t.consort with
  | none => false
  | some c => c.attached && decide (c.leader ≠ k)
/-- The follower detaches and stays in the consort (R165). -/
def Tile.detach (t : Tile) : Tile :=
  { t with consort := t.consort.map (fun c =>
      { c with attached := false, runs := [], started := false, branched := false, jumped := false, fullSince := none }) }
/-- Every attached follower of a leader detaches and continues at its own next pc (R165). -/
def State.detachAll (s : State) (leader : Nat) : State :=
  { s with tiles := s.tiles.map (fun e => if e.2.follower e.1 && decide (e.2.consort.map (·.leader) = some leader) then
      (e.1, e.2.detach) else e) }
/-- The instruction flow is at a run boundary: nothing of the run is pending, nothing is waited for. -/
def Tile.boundary (t : Tile) : Tile :=
  { t with runPos := 0, rep := none, pend := [], parked := false, due := [], wait := none }
/-- A capability as the pc takes it: bit 0 of its address is clear (R191, log entry 46). -/
def pcOf (c : Reg) : Reg := { c with lo := c.lo &&& ~~~1#64 }
/-- The report's dwords (R342). -/
def reportData (s : State) (k kind seq : Nat) (r : TrapReport) : List Word :=
  [s.nameOf k + seq % 2 ^ 16 * 2 ^ 32 + kind * 2 ^ 48, r.word, r.addr, r.pc, r.detail, s.jobDword k].map (BitVec.ofNat 64)
/-- A fault or call goes to the module controller: the service core itself raises it, or SVC names the caller or no core
of the partition (R344). -/
def State.toController (s : State) (k : Nat) : Bool :=
  let svc := (s.tile k).svc.toNat
  match coreOf (svc % 2 ^ 32) with
  | none => true
  | some c => decide (c = k) || decide (s.partOf c ≠ s.partOf k) || decide (s.partOf k = none) || !s.live c || decide (bf svc 24 8 ≠ s.gen)

/-- A fault is posted to the service core (R342) and the task blocks at its instruction (R343). -/
def postFault (s : State) (k : Nat) (r : TrapReport) (xfer : Bool) (len : Nat) : State :=
  let t := s.tile k
  let seq := (t.svcseq + 1) % 2 ^ 16
  let aw : Awaiting :=
      { seq := seq, call := false, report := r, xfer := xfer, wd := 0, len := len, start := s.timeOf k }
  let s := s.setTile k { (if xfer then t else t.boundary.commitAll) with svcseq := seq, awaiting := t.awaiting ++ [aw] }
  if s.toController k then { s with calls := s.calls ++ [(k, r, BitVec.ofNat 64 r.word)] }
  else
    let svc := t.svc.toNat
    s.push (mkMsg k (s.nameOf k) (svc % 2 ^ 32) (bf svc 32 4) (reportData s k 3 seq r) ((t.task).map (·.grid)) (s.partNo k))

/-- Taking a local trap (R340): HPC takes the capability of the faulting instruction, the record is the current message,
and execution continues at the class-15 handler. A follower detaches first. The trap is escalated to a posted fault with
ESC when a handler has not returned or the handler capability cannot be used. -/
def takeTrap (s : State) (k : Nat) (r : TrapReport) (len : Nat) : State :=
  let t := if (s.tile k).follower k then (s.tile k).detach else s.tile k
  if t.handler || !t.trapReady then
    postFault (s.setTile k t) k { r with detail := r.detail + (if bf r.detail 15 1 = 1 then 0 else 2 ^ 15) } false len
  else
    let m : InMsg := { source := s.nameOf k, cls := 15, len := 6, data := reportData s k 2 0 r, arrival := 0 }
    (s.setTile k { t.boundary.commitAll with hpc := t.pc, cmsg := some m, pc := pcOf (t.classes[15]).cap, handler := true }).detachAll k

/-- Returning from a handler (R280): the current message is emptied and execution continues at HPC. -/
def returnHandler (t : Tile) : Tile := { t with pc := pcOf t.hpc, cmsg := none, handler := false }

/-! ### Translation -/

/-- Needs of an access: R, W, X and ENG as bits 0 to 3 (R109, R381). -/
def needR : Nat := 1
/-- W. -/
def needW : Nat := 2
/-- X. -/
def needX : Nat := 4
/-- ENG. -/
def needEng : Nat := 8

/-- A frame a leaf may name: an HBM stack, a vault or an enabled host window of the partition (R100, R380). -/
def frameOk (s : State) (p pa : Nat) : Bool :=
  let q := s.part p
  if isHbm pa then q.hbms.contains (pa / Config.stackBytes)
  else if isVault pa then q.dies.contains ((pa - Config.vaultBase) / 2 ^ 30)
  else if Config.hostBase ≤ pa then
    q.windows.toList.any (fun w => decide (w.ctl.toNat % 2 = 1 ∧ w.base.toNat ≤ pa ∧ pa < w.base.toNat + w.len.toNat % 2 ^ 16 * 2 ^ 30))
  else false
/-- A frame a table pointer may name: not host memory (R108, R385). -/
def tableOk (s : State) (p pa : Nat) : Bool := decide (pa < Config.hostBase) && frameOk s p pa

/-- How a walk fails (R380, R381, R385). Cause 0 is no failure: the walk waits at a home (R112, R126, R309). -/
structure WalkFail where
  cause : Nat
  level : Nat
  ue : Bool
  wsub : Nat
  missing : Nat
  key : Nat
  deriving DecidableEq, Repr

/-- A walk's leaf: the PTE, whether it maps 512 MiB, and its address. -/
structure Leaf where
  pte : Nat
  big : Bool
  pteAddr : Nat
  deriving DecidableEq, Repr

/-- The permission bits R, W, X, ENG of a leaf as needs. -/
def pteBits (e : Nat) : Nat := e / 2 % 16
/-- The leaf grants the needs. -/
def permits (e need : Nat) : Bool := decide (pteBits e &&& need = need)
/-- The physical address that a leaf gives a virtual address. -/
def leafPa (l : Leaf) (va : Nat) : Nat := bf l.pte 16 36 * 2 ^ 16 + (if l.big then va % 2 ^ 29 else va % 2 ^ 16)

/-- A leaf is checked: its frame, then its permissions (R380). -/
def walkLeaf (s : State) (p need level : Nat) (l : Leaf) : Except WalkFail Leaf :=
  if !frameOk s p (bf l.pte 16 36 * 2 ^ 16) then .error ⟨0x12, level, false, 0, 0, 0⟩
  else if !permits l.pte need then .error ⟨0x11, level, false, 0, need - (pteBits l.pte &&& need), 0⟩
  else .ok l

/-- The walk from `level` 1, 2 or 3 at a table (R108, R380, R385). A V-clear entry is malformed only by LEVEL 0b11 or a
one in bits [15:13] (log entry 11). -/
def walkFrom (s : State) (p va need : Nat) : Nat → Nat → Nat → Except WalkFail Leaf
  | 0, _, _ => .error ⟨0x10, 3, false, 0, 0, 0⟩
  | fuel + 1, level, table =>
    let idx := if level = 1 then bf va 42 14 else if level = 2 then bf va 29 13 else bf va 16 13
    let a := table + 8 * idx
    let e := s.readNat a 8
    let lv := bf e 7 2
    if s.homeBusy a 8 then .error ⟨0, level, false, 0, 0, a⟩
    else if s.isBad a 8 then .error ⟨0x13, level, true, 5, 0, a⟩
    else if lv = 3 then .error ⟨0x13, level, false, 1, 0, a⟩
    else if e % 2 = 0 then
      if bf e 13 3 ≠ 0 then .error ⟨0x13, level, false, 2, 0, a⟩ else .error ⟨0x10, level, false, 0, 0, a⟩
    else if (level = 1 ∧ lv ≠ 0) ∨ (level = 2 ∧ lv = 2) ∨ (level = 3 ∧ lv ≠ 2) then .error ⟨0x13, level, false, 1, 0, a⟩
    else if bf e 13 3 ≠ 0 ∨ (lv = 0 ∧ bf e 1 12 ≠ 0) ∨ (lv = 1 ∧ bf e 16 13 ≠ 0) then .error ⟨0x13, level, false, 2, 0, a⟩
    else if lv = 0 then
      if !tableOk s p (bf e 16 36 * 2 ^ 16) then .error ⟨0x13, level, false, 3, 0, a⟩
      else walkFrom s p va need fuel (level + 1) (bf e 16 36 * 2 ^ 16)
    else walkLeaf s p need level ⟨e, lv = 1, a⟩

/-- The walk of a virtual address: the ASID entry, then levels 1 to 3 (R110, R380). The spec gives no outcome for a ROOT that lies
in host memory or outside the partition: the walk goes on from there (log entry 11). -/
def walk (s : State) (p asid va need : Nat) : Except WalkFail Leaf :=
  let a := s.asidtab.toNat + 8 * asid
  let e := s.readNat a 8
  if s.homeBusy a 8 then .error ⟨0, 0, false, 0, 0, a⟩
  else if s.isBad a 8 then .error ⟨0x13, 0, true, 5, 0, a⟩
  else if bf e 52 8 ≠ 0 ∨ bf e 1 16 ≠ 0 then .error ⟨0x13, 0, false, 2, 0, a⟩
  else if e % 2 = 0 ∨ bf e 60 4 ≠ p then .error ⟨0x13, 0, false, 4, 0, a⟩
  else walkFrom s p va need 3 1 (bf e 17 35 * 2 ^ 17)

/-- A hardware update of a leaf's A or D at its home (R109, R112): a write of 8 bytes, which clears the granule's tag (R106). -/
def State.setPte (s : State) (a e : Nat) : State := s.writeNat a 8 e
/-- Bit A. -/
def pteA : Nat := 512
/-- Bit D. -/
def pteD : Nat := 1024

/-- The entry maps an address of a partition's ASID; G matches every ASID (R111, R113). -/
def TlbEntry.hits (e : TlbEntry) (p asid va : Nat) : Bool :=
  decide (e.part = p) && (decide (e.asid = asid) || decide (bf e.pte 11 1 = 1)) &&
    decide (e.vpage = if e.big then va / 2 ^ 29 else va / 2 ^ 16)
/-- The cluster TLB's set of an entry (R111). -/
def TlbEntry.set (e : TlbEntry) : Nat := e.vpage % 512
/-- Entries of a cluster's TLB. -/
def State.clusterTlb (s : State) (c : Nat) : List TlbEntry := keyGet [] s.clusterTlbs c
/-- Drops entries from every TLB of a cluster (R111). -/
def State.dropTlb (s : State) (c : Nat) (which : TlbEntry → Bool) : State :=
  let keep := fun (l : List TlbEntry) => l.filter (fun e => !which e)
  { s with
    clusterTlbs := s.clusterTlbs.map (fun x => if x.1 = c then (x.1, keep x.2) else x)
    tiles := s.tiles.map (fun x =>
      if clusterOf x.1 = c then (x.1, { x.2 with itlb := keep x.2.itlb, dtlb := keep x.2.dtlb }) else x) }
/-- Changes entries in every TLB of the module (R112). -/
def State.mapTlb (s : State) (f : TlbEntry → TlbEntry) : State :=
  { s with
    clusterTlbs := s.clusterTlbs.map (fun x => (x.1, x.2.map f))
    tiles := s.tiles.map (fun x => (x.1, { x.2 with itlb := x.2.itlb.map f, dtlb := x.2.dtlb.map f })) }
/-- Puts an entry into a core TLB; when it is full, some entry leaves (log entry 7). -/
def tlbPut (cap : Nat) (l : List TlbEntry) (e : TlbEntry) (n : Nat) : List TlbEntry :=
  if l.length < cap then l ++ [e] else l.set (Config.freeChoice n % cap) e
/-- Puts an entry into a cluster's TLB; a full set drops some entry of it from the cluster and its cores. -/
def State.clusterPut (s : State) (c : Nat) (e : TlbEntry) : State :=
  let l := s.clusterTlb c
  let set := l.filter (fun x => decide (x.set = e.set))
  let (n, s) := s.fresh
  let s := if set.length < 8 then s else
    match set[Config.freeChoice n % 8]? with
    | none => s
    | some v => s.dropTlb c (fun x => decide (x = v))
  { s with clusterTlbs := keySet s.clusterTlbs c (s.clusterTlb c ++ [e]) }
/-- Puts an entry into the core's instruction or data TLB. -/
def State.corePut (s : State) (k : Nat) (inst : Bool) (e : TlbEntry) : State :=
  let (n, s) := s.fresh
  s.modTile k (fun t => if inst then { t with itlb := tlbPut 32 t.itlb e n } else { t with dtlb := tlbPut 64 t.dtlb e n })

/-- Looks an address up in the core's TLB, then the cluster's; several matches are dropped and nothing is found (R386). -/
def State.tlbLookup (s : State) (k : Nat) (inst : Bool) (p asid va : Nat) : Option TlbEntry × State :=
  let c := clusterOf k
  let hits := fun (l : List TlbEntry) => l.filter (fun e => e.hits p asid va)
  match hits (if inst then (s.tile k).itlb else (s.tile k).dtlb) with
  | [e] => (some e, s)
  | [] =>
    match hits (s.clusterTlb c) with
    | [e] => (some e, s.corePut k inst e)
    | [] => (none, s)
    | _ => (none, s.dropTlb c (fun e => e.hits p asid va))
  | _ => (none, s.dropTlb c (fun e => e.hits p asid va))

/-- DETAIL of a translation cause (R381). -/
def walkDetail (f : WalkFail) (rewalk : Bool) (elem : Nat) : Nat :=
  f.level * 2 ^ 16 + bit rewalk * 2 ^ 18 + bit f.ue * 2 ^ 19 + f.missing * 2 ^ 20 + f.wsub * 2 ^ 24 + elem % 2 ^ 32 * 2 ^ 32

/-- A translated place: the key of its first byte, and what its leaf says of capabilities and replication. -/
structure Phys where
  key : Nat
  capst : Bool
  repl : Bool
  deriving DecidableEq, Repr

/-- Walks and fills the TLBs, setting A; a failing walk sets nothing (R112, R380). -/
def State.walkFill (s : State) (k : Nat) (inst : Bool) (p asid va need : Nat) : Except WalkFail (TlbEntry × State) :=
  match walk s p asid va need with
  | .error f => .error f
  | .ok l =>
    let pte := l.pte ||| pteA
    let s := s.setPte l.pteAddr pte
    let e : TlbEntry := { asid := asid, vpage := if l.big then va / 2 ^ 29 else va / 2 ^ 16, big := l.big, pte := pte,
                          pteAddr := l.pteAddr, part := p }
    .ok (e, (s.clusterPut (clusterOf k) e).corePut k inst e)

/-- D is set at the leaf's home if the entry still holds what the walk read, apart from A and D (R112). -/
def State.setDirty (s : State) (e : TlbEntry) : Option (TlbEntry × State) :=
  let now := s.readNat e.pteAddr 8
  let strip := fun (x : Nat) => x - (x &&& (pteA ||| pteD))
  if strip now = strip e.pte ∧ s.homeBusy e.pteAddr 8 = false then
    let f := fun (x : TlbEntry) => if x.pteAddr = e.pteAddr ∧ strip x.pte = strip e.pte then { x with pte := x.pte ||| pteD } else x
    some (f e, (s.setPte e.pteAddr (now ||| pteD)).mapTlb f)
  else none

/-- What a leaf gives an address. -/
def physOf (e : TlbEntry) (va : Nat) : Phys :=
  let pa := leafPa ⟨e.pte, e.big, e.pteAddr⟩ va
  { key := pa, capst := decide (bf e.pte 12 1 = 1), repl := decide (bf e.pte 5 1 = 1) && !e.big && isHbm pa }

/-- The pool manager answers for the expert window (R331). -/
def expertWalk (s : State) (p va need : Nat) : Except WalkFail Phys :=
  let o := va - Config.expertBase
  let d := o / 2 ^ 30
  if !((s.part p).dies.contains d) then .error ⟨0x10, 2, false, 0, 0, 0⟩
  else if !s.expertMapped d (o / 2 ^ 22 % 256) (o / 2 ^ 16 % 64) then .error ⟨0x10, 3, false, 0, 0, 0⟩
  else if need &&& needX ≠ 0 then .error ⟨0x11, 3, false, 0, needX, 0⟩
  else .ok ⟨Config.expertKey + o, false, false⟩

/-- A translation that fails or waits: how, whether after a re-walk (R113), and the state with what the lookups did to the
TLBs. -/
structure TransFail where
  why : WalkFail
  rewalk : Bool
  s : State

/-- The walk of a miss: it fills the TLBs, or fails. -/
def State.fillTlb (s : State) (k j : Nat) (inst : Bool) (va need : Nat) (re : Bool) : Except TransFail (TlbEntry × State) :=
  match s.walkFill j inst (s.partNo k) (s.tile k).asid va need with
  | .error f => .error ⟨f, re, s⟩
  | .ok r => .ok r
/-- D is set before a write through an entry (R112); when the leaf has changed since the walk, the walk restarts. -/
def State.dirtied (s : State) (k j : Nat) (inst : Bool) (va need : Nat) (e : TlbEntry) : Except TransFail (Phys × State) :=
  if need &&& needW = 0 ∨ bf e.pte 10 1 = 1 then .ok (physOf e va, s)
  else
    match s.setDirty e with
    | some (e, s) => .ok (physOf e va, s)
    | none =>
      match State.fillTlb (s.dropTlb (clusterOf j) (fun x => x.hits (s.partNo k) (s.tile k).asid va)) k j inst va need false with
      | .error f => .error f
      | .ok (e, s) =>
        match s.setDirty e with
        | some (e, s) => .ok (physOf e va, s)
        | none => .error ⟨⟨0, 3, false, 0, 0, e.pteAddr⟩, false, s⟩
/-- The member of a chord that fetches and executes a run that starts at an address (R153). -/
def Chord.runMember (c : Chord) (k x : Nat) : Nat := c.members.getD ((bf x 6 10 ^^^ bf x 16 10) % c.members.length) k
/-- The member of a chord through whose queue and L1 an access passes (R155). -/
def Chord.queueMember (c : Chord) (k a : Nat) : Nat := c.members.getD (bf a 6 6 % c.members.length) k
/-- The member of a chord on which register w`n` has its home (R154); every value stands in the anchor's tile, where R156 has it
read and written as on one core. -/
def Chord.home (c : Chord) (k n : Nat) : Nat := c.members.getD (n % c.members.length) k
/-- The core whose TLB an access of core `k` uses: in a chord the member that executes the run, for a fetch, or whose queue the
access passes through (R153, R155). -/
def State.tlbCore (s : State) (k : Nat) (inst : Bool) (va : Nat) : Nat :=
  match (s.tile k).chord with
  | none => k
  | some c => if inst then c.runMember k (if (s.tile k).runPos = 0 then va else (s.tile k).runStart) else c.queueMember k va
/-- The table walk of an access with its TLBs, re-walk and D update (R111 to R113, R382): an entry that refuses the access is
dropped whatever the fresh walk finds. Every access to a replicated page is uncorrectable once both sequencers are lost
(R393). -/
def State.tableTranslate (s : State) (k : Nat) (inst : Bool) (va need : Nat) : Except TransFail (Phys × State) :=
  let p := s.partNo k
  let asid := (s.tile k).asid
  let j := s.tlbCore k inst va
  let (hit, s) := s.tlbLookup j inst p asid va
  let r := match hit with
    | none => s.fillTlb k j inst va need false
    | some e => if permits e.pte need then .ok (e, s)
        else State.fillTlb (s.dropTlb (clusterOf j) (fun x => x.hits p asid va)) k j inst va need true
  match r with
  | .error f => .error f
  | .ok (e, s) =>
    match s.dirtied k j inst va need e with
    | .error f => .error f
    | .ok (x, s) => if x.repl && s.seqLost then .error ⟨⟨0x38, 9, false, 0, 0, x.key⟩, false, s⟩ else .ok (x, s)

/-- Where a virtual address leads (R97, R98). -/
inductive Loc where
  | scratch (window off : Nat)
  | info (off : Nat)
  | expert
  | hole
  | virt
  | unbacked
  deriving DecidableEq, Repr

/-- The place of `n` bytes at an address (R97, R98); no place holds a range that runs into the untranslated region, for which no
table is read (R108). -/
def locate (a n : Nat) : Loc :=
  if a < Config.localBase ∧ Config.localBase < a + n then .unbacked
  else if a < Config.expertBase then .virt
  else if a < 0x00FE_000E_0000_0000 then .expert
  else if a < 0x00FE_0400_0000_0000 then .hole
  else if a < Config.localBase then .virt
  else if a < Config.localBase + 2 ^ 24 then
    if a % 2 ^ 20 + n ≤ Config.scratchBytes then .scratch ((a - Config.localBase) / 2 ^ 20) (a % 2 ^ 20) else .unbacked
  else if Config.infoBase ≤ a ∧ a + n ≤ Config.infoBase + 65536 then .info (a - Config.infoBase)
  else .unbacked

/-- Translates an address outside the untranslated region for a core, as a pure step: the place or the failure. -/
def State.translateAt (s : State) (k : Nat) (inst : Bool) (va need : Nat) : Except TransFail (Phys × State) :=
  match locate va 1 with
  | .expert => match expertWalk s (s.partNo k) va need with
    | .error f => .error ⟨f, false, s⟩
    | .ok p => .ok (p, s)
  | .hole => .error ⟨⟨0x10, 1, false, 0, 0, 0⟩, false, s⟩
  | _ => s.tableTranslate k inst va need

/-- A translation of the core that fails is reported as a posted fault (R380), and a walk that met an uncorrectable error also
sends an error record (R385); one that waits at a home is a wait of its instruction. -/
def failTranslation {α : Type} (f : TransFail) (va : Nat) (ak : Access) (elem : Nat) : Op α := do
  let w := f.why
  if w.cause = 0 then do
    set f.s
    waitFor .line
  else do
    set (if w.ue then f.s.record { unitRecord 2 (if isVault w.key then 1 else 6) (f.s.arrayAt w.key 8) w.key (some (f.s.partNo f.s.cur)) with
      name := f.s.nameOf f.s.cur } else f.s)
    post w.cause (if w.cause = 0x13 then .walk else ak) va (walkDetail w f.rewalk elem)
/-- Translates for the core. -/
def translate (inst : Bool) (va need : Nat) (ak : Access) (elem : Nat) : Op Phys := do
  let s ← get
  match s.translateAt s.cur inst va need with
  | .ok (p, s') => do
    set s'
    pure p
  | .error f => failTranslation f va ak elem

/-! ### Checked accesses (R215, R371) -/

/-- Checks 1 to 5 of R215: tag, seal, permissions, bounds, alignment and the high address bits. -/
def checkCap (fld src : Nat) (c : Reg) (a n perms align : Nat) (ak : Access) (lane : Nat := 0) : Op Unit := do
  let d := fld + src * 2 ^ 16 + lane * 2 ^ 24
  require c.tag (trap 0x08 ak a d)
  require (decide (c.otype = 0)) (trap 0x09 ak a d)
  require (c.has perms) (trap 0x0A ak a d)
  let (base, top) := capBounds c
  require (decide (base ≤ (a : Int) ∧ ((a + n : Nat) : Int) ≤ top)) (trap 0x0B ak a d)
  require (decide (a % align = 0)) (trap 0x0C ak a d)
  require (decide (a / 2 ^ 56 = 0)) (trap 0x0D ak a d)

/-- Bytes of the core's store buffer that are not yet performed, over what memory holds (R119, R120). -/
def forward (st : List PStore) (key : Nat) (b : Byte) : Byte :=
  st.foldl (fun b x => if x.key ≤ key ∧ key < x.key + x.data.length then x.data.getD (key - x.key) 0 else b) b
/-- The tag of a granule as the core's own stores leave it. -/
def forwardTag (st : List PStore) (g : Nat) (b : Bool) : Bool :=
  st.foldl (fun b x => if x.key < 16 * g + 16 ∧ 16 * g < x.key + x.data.length then x.tag else b) b
/-- Bytes at a key as a core sees them. -/
def State.seen (s : State) (k key n : Nat) : List Byte :=
  (List.range n).map (fun i => forward (s.tile k).stores (key + i) (Memory.get s.mem (key + i)))

/-- The record of an uncorrectable word that core `cur` consumes (R387). -/
def State.consumed (s : State) (key n : Nat) : State :=
  s.record { unitRecord 2 (if isScratch key then 0 else if isVault key then 1 else 6) (s.arrayAt key n) key (some (s.partNo s.cur)) with
    name := s.nameOf s.cur }
/-- Offset of a key in its scratchpad. -/
def scratchOff (key : Nat) : Nat := (key - Config.scratchKey) % 2 ^ 19
/-- A queued engine instruction of the core stands before an access to bytes of its scratchpad. -/
def State.engineHoldsKey (s : State) (key n : Nat) (write : Bool) : Bool :=
  isScratch key && decide ((key - Config.scratchKey) / 2 ^ 19 = s.cur) && (s.tile s.cur).engineHolds (scratchOff key) n write
/-- An access of the core to its scratchpad waits for the engine instructions that stand before it (R122). -/
def engineOver (key n : Nat) (write : Bool) : Op Unit := do
  let s ← get
  if s.engineHoldsKey key n write then waitFor .tokens
/-- An uncorrectable word consumed by a core's load is a local trap with an error record (R387). A word of a replicated page is
served and mended from another copy while there is one (R392). -/
def consume (key n : Nat) (ak : Access) (a : Nat) (repl : Bool := false) : Op Unit := do
  engineOver key n (decide (ak = .rmw))
  let s ← get
  let s := s.mend s.cur (dieOf s.cur) key n repl
  if s.unreadable s.cur key n repl then do
    set (s.consumed key n)
    trap 0x38 ak a (s.arrayAt key n * 2 ^ 16)
  else set s
/-- A write that covers only part of an uncorrectable word consumes it (R388), unless a copy of its replicated page mends it. -/
def consumePart (key n : Nat) (ak : Access) (a : Nat) (repl : Bool := false) : Op Unit := do
  engineOver key n true
  let s ← get
  let s := s.mend s.cur 56 key n repl
  if s.badPartial key n then do
    set (s.consumed key n)
    trap 0x38 ak a (s.arrayAt key n * 2 ^ 16)
  else set s
/-- Every wanted store of the core is performed before the operation goes on; it waits while one cannot be. -/
def performFirst (want : PStore → Bool) : Op Unit := do
  let s ← get
  let s' := s.drain s.cur want
  if s'.undrained s.cur want then waitFor .line else set s'
/-- A store writes bytes of a range. -/
def PStore.over (key n : Nat) (x : PStore) : Bool := meets x.key x.data.length key n
/-- The core's earlier stores to bytes of a range are performed first (R121 rule 1, R127). -/
def performOver (key n : Nat) : Op Unit := do
  let s ← get
  if s.undrained s.cur (PStore.over key n) then performFirst (PStore.over key n) else pure ()
/-- A read by the core of a range of translated memory (R119, R126, R130): bytes that a copy holds pending and lines that an
engine owns are waited for, and so are the core's own writes to a replicated page (R105). -/
def readable (p : Phys) (n : Nat) (ak : Access) (a : Nat) : Op Unit := do
  if p.repl then performOver p.key n
  let s ← get
  if s.pendingBytes s.cur p.key n || s.owned s.cur noXfer p.key n then waitFor .line
  consume p.key n ak a p.repl

/-- Loads `n` bytes at an address whose capability has been checked: the bytes, and the granule's tag for a capability
load (R228); `eng` adds the ENG need of engines and generators. -/
def loadAt (fld src a n : Nat) (ak : Access) (eng : Bool) (elem : Nat) : Op (List Byte × Bool) := do
  match locate a n with
  | .unbacked => trap 0x0E ak a (fld + src * 2 ^ 16)
  | .scratch _ off =>
    let k ← me
    consume (scratchAt k off) n ak a
    let s ← get
    pure (s.readAt (scratchAt k off) n, tagGet s.tags (scratchAt k off / 16))
  | .info off => do
    let s ← get
    pure (s.infoBytes s.cur off n, false)
  | _ =>
    let first := min n (65536 - a % 65536)
    let p ← translate false a (needR + (if eng then needEng else 0)) ak elem
    readable p first ak a
    let s ← get
    let tag := p.capst && !isHost p.key && forwardTag (s.tile s.cur).stores (p.key / 16) (tagGet s.tags (p.key / 16))
    if first = n then pure (s.seen s.cur p.key n, tag)
    else do
      let q ← translate false (a + first) (needR + (if eng then needEng else 0)) ak elem
      readable q (n - first) ak (a + first)
      let s' ← get
      pure (s'.seen s.cur p.key first ++ s'.seen s.cur q.key (n - first), tag)

/-- Some read generator is bound, and may have read elements ahead (R238). -/
def Tile.readsAhead (t : Tile) : Bool := t.ag.toList.any (fun g => decide (g.reg ≠ 0) && !g.dir)
/-- What the bytes of a store of the core held before it is kept while a generator may have read them already (R238). -/
def State.noted (s : State) (key n : Nat) : State :=
  if (s.tile s.cur).readsAhead then s.modTile s.cur (fun t => { t with undo := (key, s.seen s.cur key n) :: t.undo }) else s
/-- The same as an operation. -/
def noteStore (key n : Nat) : Op Unit := modify (fun s => s.noted key n)
/-- Stores bytes at an address whose capability has been checked. In the scratchpad the store is performed at once
(R122); elsewhere it waits in the core's store buffer, uncommitted in a chord (R155). A plain store to the information
area is not performed (R99); `hard` accesses trap there (R371). -/
def storeAt (fld src a : Nat) (data : List Byte) (ak : Access) (eng hard : Bool) (want : Bool) (elem : Nat)
    (gen : Option Nat := none) : Op Unit := do
  let n := data.length
  match locate a n with
  | .unbacked => trap 0x0E ak a (fld + src * 2 ^ 16)
  | .info _ => if hard then trap 0x0E ak a (fld + src * 2 ^ 16) else pure ()
  | .scratch w off =>
    let k ← me
    consumePart (scratchAt k off) n ak a
    noteStore (scratchAt k off) n
    modify (fun s => s.writeKey (scratchAt k off) data (want && decide (w = 0)))
  | _ =>
    let p ← translate false a (needW + (if eng then needEng else 0)) ak elem
    consumePart p.key n ak a p.repl
    noteStore p.key n
    modT (fun t => { t with stores := t.stores ++ [
      { key := p.key, data := data, tag := want && p.capst && !isHost p.key, repl := p.repl, committed := t.chord.isNone,
        run := t.runs, append := gen }] })

/-- A checked load. -/
def load (fld src : Nat) (c : Reg) (a n perms align : Nat) (ak : Access) : Op (List Byte × Bool) := do
  checkCap fld src c a n perms align ak
  loadAt fld src a n ak false 0
/-- A checked store. -/
def store (fld src : Nat) (c : Reg) (a : Nat) (data : List Byte) (perms align : Nat) (ak : Access) (want : Bool) : Op Unit := do
  checkCap fld src c a data.length perms align ak
  storeAt fld src a data ak false false want 0

/-! ### Registers and streams (R59, R65, R202) -/

/-- The generator bound to a register. -/
def Tile.bound (t : Tile) (n : Nat) : Option (Nat × Stream) :=
  if n < 48 then none
  else ((List.range 8).filterMap (fun k => (t.ag[k]?).bind (fun g => if g.reg = n then some (k, g) else none))).head?
/-- Elements of a stream. -/
def Stream.total (g : Stream) : Nat := g.cnt0 * g.cnt1 * g.cnt2
/-- Address of the element at POS (R236). -/
def Stream.elemAddr (g : Stream) : Nat :=
  let i0 := g.pos % g.cnt0
  let i1 := g.pos / g.cnt0 % g.cnt1
  let i2 := g.pos / (g.cnt0 * g.cnt1)
  ((((g.cap.addr : Int) + i0 * (2 ^ g.esize : Nat) + i1 * g.str1 + i2 * g.str2) % (2 ^ 64 : Nat))).toNat
/-- STREAM_EXHAUSTED (R374). -/
def checkStream (n k : Nat) (g : Stream) : Op Unit :=
  require (decide (g.pos < g.total)) (trap 0x23 .none 0 (n + k * 2 ^ 16))
/-- The element accesses of a generator need ENGINE and ENG (R236). -/
def advance (k : Nat) : Op Unit :=
  modT (fun t => { t with ag := t.ag.setIfInBounds k { (t.ag[k]?.getD Stream.reset) with pos := (t.ag[k]?.getD Stream.reset).pos + 1 } })

/-- The core's earlier engine instructions retire before a stream access (R122). -/
def engineFirst : Op Unit := modify (fun s => s.engineDrain s.cur)
/-- Where the bytes of a stream element stand: key and length of its parts. -/
def State.elemKeys (s : State) (k a n : Nat) : List (Nat × Nat) :=
  match locate a n with
  | .scratch _ off => [(scratchAt k off, n)]
  | .unbacked => []
  | .info _ => []
  | _ =>
    let first := min n (65536 - a % 65536)
    let part := fun (va m : Nat) => match s.translateAt k false va (needR + needEng) with
      | .ok (p, _) => [(p.key, m)]
      | .error _ => []
    if first = n then part a n else part a first ++ part (a + first) (n - first)
/-- A byte before the stores of a list, the newest first. -/
def undone (l : List (Nat × List Byte)) (key : Nat) (b : Byte) : Byte :=
  l.foldl (fun b x => if x.1 ≤ key ∧ key < x.1 + x.2.length then x.2.getD (key - x.1) b else b) b
/-- An element as its generator read it (R238): now, or before some of the task's stores since SBIND; which is a free choice. -/
def readAhead (a n : Nat) (g : Stream) (b : List Byte) : Op (List Byte) := do
  let s ← get
  let l := (s.tile s.cur).undo
  let l := l.take (l.length - g.born)
  if l.isEmpty then pure b
  else do
    set { s with free := s.free + 1 }
    let l := l.take (Config.freeChoice s.free % (l.length + 1))
    let keys := (s.elemKeys s.cur a n).flatMap (fun p => (List.range p.2).map (· + p.1))
    pure ((b.zip keys).map (fun x => undone l x.2 x.1))
/-- Pops the next element of a read stream (R65). -/
def popStream (n k : Nat) (g : Stream) : Op Reg := do
  checkStream n k g
  let a := g.elemAddr
  checkCap n 3 g.cap a (2 ^ g.esize) (Perm.engine + Perm.load) (2 ^ g.esize) .engineRead
  engineFirst
  let (b, _) ← loadAt n 3 a (2 ^ g.esize) .engineRead true (g.pos % 2 ^ 32)
  let b ← readAhead a (2 ^ g.esize) g b
  advance k
  pure (Reg.plain (BitVec.ofNat 64 (leNat b)))

/-- ReadW (R202): w0 reads as 0; a register bound to a read stream pops. The value of a register bound to a write stream
is not stated (log entry 9). -/
def readW (n : Nat) : Op Reg := do
  if n = 0 then pure Reg.null
  else
    let t ← getT
    match t.bound n with
    | some (k, g) => if g.dir then do let x ← freshWord; pure (Reg.plain x) else popStream n k g
    | none => pure (t.w[n]?.getD Reg.null)
/-- The integer value of a register (R59). -/
def readX (n : Nat) : Op Word := do let r ← readW n; pure r.lo
/-- The integer value as a natural number. -/
def readN (n : Nat) : Op Nat := do let r ← readW n; pure r.lo.toNat

/-- WriteW (R202): w0 discards; a register bound to a write stream appends; one bound to a read stream discards (R65). -/
def writeW (n : Nat) (v : Reg) : Op Unit := do
  if n = 0 then pure ()
  else
    let t ← getT
    match t.bound n with
    | some (k, g) =>
      if g.dir then
        checkStream n k g
        let a := g.elemAddr
        checkCap n 3 g.cap a (2 ^ g.esize) (Perm.engine + Perm.store) (2 ^ g.esize) .engineWrite
        engineFirst
        storeAt n 3 a (leBytes (2 ^ g.esize) v.lo.toNat) .engineWrite true true false (g.pos % 2 ^ 32) (some k)
        advance k
      else pure ()
    | none => modT (fun t => { t with w := t.w.setIfInBounds n v })
/-- Writes plain data (R59). -/
def writeX (n : Nat) (x : Word) : Op Unit := writeW n (Reg.plain x)
/-- Writes a natural number as plain data. -/
def writeN (n x : Nat) : Op Unit := writeX n (BitVec.ofNat 64 x)

/-- ReadP (R202). -/
def Tile.rp (t : Tile) (n : Nat) : Word := if n = 0 then BitVec.allOnes 64 else t.p[n]?.getD 0
/-- WriteP (R202): p0 discards. -/
def Tile.wp (t : Tile) (n : Nat) (x : Word) : Tile := if n = 0 then t else { t with p := t.p.setIfInBounds n x }
/-- ReadP as an operation. -/
def readP (n : Nat) : Op Word := do let t ← getT; pure (t.rp n)
/-- WriteP as an operation. -/
def writeP (n : Nat) (x : Word) : Op Unit := modT (fun t => t.wp n x)

/-! ### Issue (R366, R369, R193, R195) -/

/-- Which of the core's earlier stores an instruction has performed before it goes on (R123 to R133): none, those to the tier
of a scope, or the appends of generators among them. -/
inductive Drain where
  | none
  | stores (tier : Scope)
  | appends (tier : Scope)
  deriving DecidableEq, Repr
/-- A drain asks for a store of core `k` to be performed. -/
def Drain.wants (d : Drain) (k : Nat) (x : PStore) : Bool :=
  match d with
  | .none => false
  | .stores sc => inTier k sc x.key
  | .appends sc => x.append.isSome && inTier k sc x.key

/-- What issue must know of an instruction: its major and minor, length, S, class, what ends its run, must-carry-S, the
tile kinds that execute it (bit per kind), its privilege, the registers it reads and writes, two roles it must not give
one register, its bits, whether earlier engine work is finished first as far as its tokens allow, and whether all of it must be,
which earlier stores are performed first, whether it is a branch or a jump whose outcome may detach a consort follower (R165). -/
structure Meta where
  maj : Nat
  minor : Nat
  len : Nat
  sw : Bool
  deferred : Bool := false
  ends : Bool := false
  mustS : Bool := false
  kinds : Nat := 15
  priv : Bool := false
  srn : Nat := 0
  reads : List (File × Nat) := []
  writes : List (File × Nat) := []
  clash : Option (File × Nat) := none
  bits : Nat := 0
  sync : Bool := false
  engine : Bool := false
  drain : Drain := .none
  diverges : Bool := false
  deriving Repr

/-- How an instruction that takes effect goes on: with the next one, at a capability, or again at itself with progress
made, as a run of one instruction (R232, R265), or not at all, because the task has ended (R298). -/
inductive Flow where
  | seq
  | jump (pc : Reg)
  | again
  | gone
  deriving DecidableEq, Repr

/-- The flow goes elsewhere than to the next instruction. -/
def Flow.jumps : Flow → Bool
  | .jump _ => true
  | _ => false

/-- File code of RUN_HAZARD (R368). -/
def File.code : File → Nat
  | .w => 0 | .p => 1 | .v => 2 | .vl => 3
/-- Finds a register of the pending set. -/
def findPend (l : List Pend) (r : File × Nat) : Option Pend := l.find? (fun x => decide (x.file = r.1 ∧ x.num = r.2))
/-- RUN_HAZARD (R369). -/
def hazard {α : Type} (reg hsub pos : Nat) (f : File) : Op α :=
  trap 0x03 .none 0 (reg + hsub * 2 ^ 16 + pos * 2 ^ 24 + File.code f * 2 ^ 32)

/-- The checks of R366 steps 2 to 4 that every instruction shares: tile kind, privilege, run rules. -/
def precheck (m : Meta) : Op Unit := do
  let t ← getT
  let k ← me
  require (decide (m.kinds / 2 ^ kindOf k % 2 = 1)) (trap 0x01 .none 0 (m.bits % 2 ^ 32 * 2 ^ 16))
  require (!m.priv || t.pc.has Perm.system) (trap 0x04 .none 0 (m.srn * 2 ^ 16))
  let isPop := fun (r : File × Nat) => decide (r.1 = .w) && (match t.bound r.2 with | some (_, g) => !g.dir | none => false)
  match (m.reads.filter (fun r => !isPop r)).findSome? (findPend t.pend) with
  | some x => hazard x.num 1 x.pos x.file
  | none => pure ()
  match m.writes.findSome? (findPend t.pend) with
  | some x => hazard x.num 2 x.pos x.file
  | none => pure ()
  require (!m.mustS || m.sw) (trap 0x03 .none 0 (3 * 2 ^ 16))
  match m.clash with
  | some r => hazard r.2 4 0 r.1
  | none => pure ()

/-- The END rule of R373: a control instruction at the END of the top loop level. -/
def endRule : Op Unit := do
  let t ← getT
  match t.loops with
  | l :: _ => require (decide (t.pc.addr ≠ l.stop)) (limit 0 0xFFFF)
  | [] => pure ()

/-- Turn-back at the END of loop levels (R66, R225): the levels left, and the address to continue at. -/
def turnBack (a : Nat) : List LoopLevel → List LoopLevel × Option Nat
  | [] => ([], none)
  | l :: r =>
    if l.stop ≠ a then (l :: r, none)
    else if l.count > 1 then ({ l with count := l.count - 1 } :: r, some l.start)
    else turnBack a r

/-- At the end of a run the leader of a consort has its next run to forward; an attached follower is through with the oldest
run forwarded to it, and keeps what of its branch or target is to be compared with the leader's (R164, R165). -/
def consortEnd (k : Nat) (diverges jumped : Bool) (t : Tile) : Tile :=
  match t.consort with
  | none => t
  | some c =>
    if c.leader = k then { t with consort := some { c with runs := [⟨t.pc.addr, [], jumped⟩] } }
    else if c.attached && c.started then
      { t with consort := some { c with
          runs := c.runs.drop 1, started := false, branched := diverges, jumped := jumped, fullSince := none } }
    else t
/-- A register of the instruction is bound to a write stream, so that its write is an append (R65). -/
def Tile.appends (t : Tile) (r : File × Nat) : Bool :=
  decide (r.1 = .w) && (match t.bound r.2 with
    | some (_, g) => g.dir
    | none => false)
/-- At the end of a run of a chord there is one more run to commit (R156). -/
def chordEnd (t : Tile) : Tile := if t.chord.isSome then { t with runs := t.runs + 1 } else t

/-- An instruction has taken effect (R193, R195): deferred results, and appends (R65), join the run's pending set, the pc moves, a loop turns
back, and the run ends, parked while results are pending. `resumed` says that a REP or BMM had already made progress in
this run. -/
def finish (k : Nat) (m : Meta) (f : Flow) (resumed : Bool) (t : Tile) : Tile :=
  let runStart := if t.runPos = 0 && !resumed then t.pc.addr else t.runStart
  match f with
  | .gone => t
  | .again => { t with runStart := runStart, runPos := 0, pend := [], parked := false, wait := none }
  | _ =>
    let (loops, back) := match f with
      | .seq => turnBack t.pc.addr t.loops
      | _ => (t.loops, none)
    let pc := match f with
      | .jump c => c
      | _ => match back with
        | some a => capAdd t.pc ((a : Int) - t.pc.addr)
        | none => capAdd t.pc m.len
    let named := (m.writes.filter (fun r =>
      (m.deferred && !(decide (r.2 = 0) && (decide (r.1 = .w) || decide (r.1 = .p)))) || t.appends r)).map
      (fun r => { file := r.1, num := r.2, pos := t.runPos : Pend })
    let pend := t.pend ++ named
    let ended := m.sw || m.ends || back.isSome || decide (t.runPos + 1 = 32)
    let t' : Tile := { t with
      pc := pc, loops := loops, wait := none, rep := none
      runStart := runStart
      runPos := if ended then 0 else t.runPos + 1
      pend := pend
      parked := ended && !(pend.isEmpty && t.due.isEmpty) }
    if ended then chordEnd (consortEnd k m.diverges f.jumps t') else t'

/-- The leaves that the entries of `new` were loaded from and those of `old` were not: A and D are set there (R109, R112). -/
def State.markLeaves (s : State) (old new : List (Nat × List TlbEntry)) : State :=
  (new.flatMap (·.2)).foldl (fun (s : State) e =>
    if (old.flatMap (·.2)).contains e then s
    else s.setPte e.pteAddr (s.readNat e.pteAddr 8 ||| (e.pte &&& (pteA ||| pteD)))) s
/-- The state after an instruction that took no effect: `s`, but for what walks did to page tables and to the TLBs of every core
(R111, R112, R379, R380), for error records and mended copies (R345, R392) and for the free-value counter. -/
def rollback (s t : State) : State :=
  let s := s.markLeaves s.clusterTlbs t.clusterTlbs
  { s with
    free := t.free, clusterTlbs := t.clusterTlbs, errlog := t.errlog, msgs := t.msgs, recent := t.recent
    bad := s.bad.filter t.bad.contains, badCopies := s.badCopies.filter t.badCopies.contains
    tiles := s.tiles.map (fun (e : Nat × Tile) => (e.1, { e.2 with itlb := (t.tile e.1).itlb, dtlb := (t.tile e.1).dtlb })) }.modTile
    s.cur (fun x => { x with itlb := (t.tile s.cur).itlb, dtlb := (t.tile s.cur).dtlb })

/-- Work of the task that the instruction waits for is finished first: its engine instructions (R122, R254), and its stores as
its drain says (R123 to R133). -/
def settle (m : Meta) (s : State) : State :=
  let s := if m.sync || m.engine then s.engineDrain s.cur else s
  match m.drain with
  | .none => s
  | d => s.drain s.cur (d.wants s.cur)
/-- What the instruction waits for is not finished: a queued engine instruction lacks tokens (R273), or a store cannot be
performed yet. -/
def unsettled (m : Meta) (s : State) : Option WaitFor :=
  if m.engine && !(s.tile s.cur).eng.isEmpty then some .tokens
  else if m.drain ≠ .none ∧ s.undrained s.cur (m.drain.wants s.cur) = true then some .line
  else none

/-- Starts or keeps a wait (R352). -/
def Tile.waiting (t : Tile) (m : Meta) (w : WaitFor) (now : Nat) : Tile :=
  { t with wait := match t.wait with
    | some x => some { x with on := w }
    | none => some ⟨w, now, m.maj, m.minor, m.len⟩ }

/-- Issue of an instruction (R366): its shared checks, then its own operation, then the end of the instruction. A trap or
fault is taken at the instruction; a wait leaves the pc at it. A trap enters its handler once every engine instruction has
retired (R254). -/
def issue (m : Meta) (body : Op Flow) (s : State) : Host.Outcome State Fault Refusal :=
  let s := settle m s
  match unsettled m s with
  | some w => .next (s.modTile s.cur (fun t => t.waiting m w (s.timeOf s.cur)))
  | none =>
  let report := fun (c : Nat) (ak : Access) (a d : Nat) =>
    ({ cause := c, akind := ak, maj := m.maj, minor := m.minor, addr := a, pc := (s.tile s.cur).pc.addr, detail := d } : TrapReport)
  let kept := fun (keep : Bool) (t : State) => if keep then t else rollback s t
  match (do precheck m; body) s with
  | .ok f t => .next (t.modTile t.cur (finish t.cur m f (s.tile s.cur).rep.isSome))
  | .error (.trap c ak a d keep) t =>
    let u := (kept keep t).engineDrain s.cur
    .next (if (u.tile s.cur).eng.isEmpty then takeTrap u s.cur (report c ak a d) m.len
      else u.modTile s.cur (fun x => x.waiting m .tokens (s.timeOf s.cur)))
  | .error (.post c ak a d keep) t => .next (postFault (kept keep t) s.cur (report c ak a d) false m.len)
  | .error (.wait w keep) t => .next ((kept keep t).modTile s.cur (fun x => x.waiting m w (s.timeOf s.cur)))
  | .error (.fault f) _ => .fault f

/-! ### Fetch (R191, R366 step 1) -/

/-- A fetch of a range waits while a copy holds bytes of it pending or its line is owned; an uncorrectable word is consumed. -/
def fetchable (p : Phys) (n a : Nat) : Op Unit := do
  let s ← get
  if s.pendingBytes s.cur p.key n || s.owned s.cur noXfer p.key n then waitFor .line
  consume p.key n .fetch a p.repl
/-- Fetches `n` bytes at an address through the pc capability: checks 1, 2, 3 and 5 of R215, below the untranslated region,
then translation as a fetch. The bytes are what the homes hold, or the replica of the core's die; a fetch waits as other reads
do (R126, R130). -/
def fetchBytes (a n : Nat) : Op (List Byte) := do
  let t ← getT
  checkCap 0 1 t.pc a n Perm.exec 1 .fetch
  require (decide (a + n ≤ Config.localBase)) (trap 0x0E .fetch a (2 ^ 16))
  let first := min n (65536 - a % 65536)
  let p ← translate true a needX .fetch 0
  fetchable p first a
  let s ← get
  if first = n then pure (s.readAt p.key n)
  else do
    let q ← translate true (a + first) needX .fetch 0
    fetchable q (n - first) (a + first)
    let s' ← get
    pure (s'.readAt p.key first ++ s'.readAt q.key (n - first))

/-- Length of the instruction whose first parcel stands at an address, as LOOP and LBREAK read it (R224, R226). -/
def parcelLength (a : Nat) : Op Nat := do
  let b ← fetchBytes a 2
  pure (if leNat b % 4 = 3 then 4 else 2)

end Sys2Proof.Machine
end

