-- ==== Sys2Proof/Machine/Operands.lean ====
section
/-! DEFINITION. Operand forms: what issue must know of each format (R194, R196, R201), the addresses and base updates of
format M (R198, R63), operand words whose fields are checked in ascending order (R368), inbox classes (R46) and the
deliverable one (R48). -/

namespace Sys2Proof.Machine

/-- A w register as the run rules see it. -/
def wr (n : Fin 64) : File × Nat := (.w, n.val)
/-- A register that a compact field names: w0 to w15 (R199). -/
def low (n : Fin 16) : Fin 64 := ⟨n.val, by omega⟩
/-- A predicate register as the run rules see it. -/
def pr (n : Fin 8) : File × Nat := (.p, n.val)
/-- A vector register as the run rules see it. -/
def vr (n : Fin 32) : File × Nat := (.v, n.val)
/-- VL as the run rules see it. -/
def vlr : File × Nat := (.vl, 0)
/-- The bits of an instruction as R368 reports them. -/
def bitsOf (i : Instr) : Nat := ((encodeWord i).map (·.2)).getD 0

/-- An immediate instruction of `len` bytes that reads and writes registers. -/
def metaI (maj minor len : Nat) (sw : Bool) (reads writes : List (File × Nat)) : Meta :=
  { maj := maj, minor := minor, len := len, sw := sw, reads := reads, writes := writes }
/-- A deferred instruction that reads registers and names results. -/
def metaD (maj minor : Nat) (sw : Bool) (reads writes : List (File × Nat)) : Meta :=
  { maj := maj, minor := minor, len := 4, sw := sw, deferred := true, reads := reads, writes := writes }
/-- A control instruction, which ends its run (R193). -/
def metaC (maj minor len : Nat) (sw : Bool) (reads : List (File × Nat)) : Meta :=
  { maj := maj, minor := minor, len := len, sw := sw, ends := true, reads := reads }

/-- The next instruction follows. -/
def seqFlow : Op Flow := pure .seq

/-! ### Format M (R198, R63) -/

/-- Register RB. -/
def Mem.rb : Mem → Fin 64
  | .offset rb _ => rb
  | .index rb _ _ => rb
  | .post rb _ => rb
  | .modulo rb _ _ => rb
/-- Registers that the address reads. -/
def Mem.reads : Mem → List (File × Nat)
  | .offset rb _ => [wr rb]
  | .index rb wi _ => [wr rb, wr wi]
  | .post rb _ => [wr rb]
  | .modulo rb _ _ => [wr rb]
/-- The form updates its base register. -/
def Mem.updates : Mem → Bool
  | .offset _ _ => false
  | .index _ _ _ => false
  | .post _ _ => true
  | .modulo _ _ _ => true

/-- What EA returns: the capability, the access address, and the base after its update (R198). -/
structure Ea where
  cap : Reg
  addr : Nat
  next : Option Reg
  deriving DecidableEq, Repr

/-- Address arithmetic modulo 2^64. -/
def addrAdd (a : Nat) (o : Int) : Nat := (((a : Int) + o) % (2 ^ 64 : Nat)).toNat
/-- ModuloStep (R63): base + ((ADDR − base + imm) mod LEN), or ADDR + imm for LEN 0. -/
def moduloStep (c : Reg) (imm : Int) (m : Word) : Nat :=
  let len := m.toNat % 2 ^ 32
  let base := (capBounds c).1
  if len = 0 then addrAdd c.addr imm
  else ((base + ((c.addr : Int) - base + imm) % (len : Nat)) % (2 ^ 64 : Nat)).toNat
/-- The base register moved to a new address by the rules of CADD (R198, R219). -/
def baseTo (c : Reg) (a : Nat) : Reg := capMove c (decide (a = c.addr)) a

/-- EA (R198) with offset unit `u` = 2^`lg`; registers are read in the order of their fields. -/
def ea (u lg : Nat) (m : Mem) : Op Ea :=
  match m with
  | .offset rb imm => do
    let c ← readW rb
    pure ⟨c, addrAdd c.addr (imm.toInt * u), none⟩
  | .index rb wi sc => do
    let c ← readW rb
    let x ← readN wi
    pure ⟨c, addrAdd c.addr ((x * 2 ^ (if sc then lg else 0) : Nat) : Int), none⟩
  | .post rb imm => do
    let c ← readW rb
    pure ⟨c, c.addr, some (baseTo c (addrAdd c.addr (imm.toInt * u)))⟩
  | .modulo rb imm mk => do
    let c ← readW rb
    let t ← getT
    pure ⟨c, c.addr, some (baseTo c (moduloStep c (imm.toInt * u) (t.m[mk]?.getD 0)))⟩
/-- The base update (R198). -/
def updateBase (m : Mem) (e : Ea) : Op Unit :=
  match e.next with
  | none => pure ()
  | some c => writeW (Mem.rb m) c

/-- A load or store of format M: reads RT if it stores, its base and its index; a load with a base update must not name
its base as RT (R369). -/
def metaM (maj minor len : Nat) (sw loads : Bool) (t : Fin 64) (m : Mem) : Meta :=
  { maj := maj, minor := minor, len := len, sw := sw, deferred := loads
    reads := (if loads then [] else [wr t]) ++ Mem.reads m
    writes := if loads then [wr t] else []
    clash := if loads && Mem.updates m && decide (t = Mem.rb m) then some (wr t) else none
    sync := true }

/-! ### Operand words (R368) -/

/-- A field that must be zero: bits `lo` to `hi − 1`; FIELD is the lowest bit of the field. -/
def zeroField (reg x lo hi : Nat) : Op Unit := require (decide (bf x lo (hi - lo) = 0)) (limit reg lo)
/-- A condition on the field at bit `lo`. -/
def fieldOk (reg lo : Nat) (b : Bool) : Op Unit := require b (limit reg lo)

/-- Every access range of a descriptor or block in memory, read as LDC would (R284): the bytes and the tag of the first
granule; the failing register is the pointer's. -/
def readBlock (reg : Nat) (c : Reg) (n perms align : Nat) (ak : Access) : Op (List Byte × Bool) := do
  checkCap reg 0 c c.addr n perms align ak
  loadAt reg 0 c.addr n ak false 0
/-- Field of `n` bytes at byte `o` of a block. -/
def blockNat (b : List Byte) (o n : Nat) : Nat := leNat ((b.drop o).take n)
/-- The capability at byte `o` of a block whose pointer is `c`, with the tag that LDC would give it (R228). -/
def blockCap (b : List Byte) (o : Nat) (tag : Bool) (c : Reg) : Reg :=
  Reg.ofBytes (tag && c.has Perm.loadCap) ((b.drop o).take 16)

/-- The window that holds an address, and the offset in it, backed or not (R98). -/
def windowOf (a : Nat) : Option (Nat × Nat) :=
  if Config.localBase ≤ a ∧ a < Config.localBase + 2 ^ 24 then some ((a - Config.localBase) / 2 ^ 20, a % 2 ^ 20) else none
/-- A scratchpad range through a window: the window and the offset of an address whose `n` bytes lie in one window
(R98). -/
def windowAt (a n : Nat) : Option (Nat × Nat) :=
  match locate a n with
  | .scratch w off => some (w, off)
  | _ => none
/-- WINDOW for an address in no window (R368): the field naming it, [20] set; a vector access adds its lane (R375). -/
def noWindow {α : Type} (reg a : Nat) (ak : Access) (lane : Nat := 0) : Op α := trap 0x1B ak a (reg + 2 ^ 20 + lane * 2 ^ 24)
/-- The scratchpad offset of `n` bytes that must lie in one window (WINDOW) and be backed (UNBACKED), after R215 checks 1 to 5
of their capability (R366, R371). -/
def inWindow (reg a n : Nat) (ak : Access) : Op Nat :=
  match windowOf a with
  | none => noWindow reg a ak
  | some (_, off) => do
    require (decide (off + n ≤ 2 ^ 20)) (noWindow reg a ak)
    require (decide (off + n ≤ Config.scratchBytes)) (trap 0x0E ak a reg)
    pure off

/-! ### Inbox classes (R45, R46, R48) -/

/-- A class entry. -/
def Tile.cls (t : Tile) (c : Nat) : ClassEntry := t.classes[c]?.getD ClassEntry.reset
/-- Changes a class entry. -/
def Tile.modCls (t : Tile) (c : Nat) (f : ClassEntry → ClassEntry) : Tile :=
  { t with classes := t.classes.setIfInBounds c (f (t.cls c)) }
/-- EN. -/
def ClassEntry.en (e : ClassEntry) : Bool := decide (e.cfg.toNat % 2 = 1)
/-- KIND 1: RANKED. -/
def ClassEntry.ranked (e : ClassEntry) : Bool := decide (e.cfg.toNat / 2 % 2 = 1)
/-- k = KM1 + 1. -/
def ClassEntry.depth (e : ClassEntry) : Nat := bf e.cfg.toNat 2 6 + 1
/-- PRIO. -/
def ClassEntry.prio (e : ClassEntry) : Nat := bf e.cfg.toNat 8 4
/-- TRIG. -/
def ClassEntry.trig (e : ClassEntry) : Nat := bf e.cfg.toNat 12 8
/-- Entries a class holds, hardware first, in delivery order. -/
def Tile.held (t : Tile) (c : Nat) : List InMsg := (t.inbox ++ t.spilled).filter (fun m => decide (m.cls = c))
/-- A class is deliverable: FIFO when non-empty, RANKED when its latch is set and it holds an entry (R46, R281). -/
def Tile.deliverable (t : Tile) (c : Nat) : Bool :=
  !(t.held c).isEmpty && (t.cls c).en && (!(t.cls c).ranked || (t.cls c).latch)
/-- Where the head entry of a class stands in arrival order. -/
def Tile.headPos (t : Tile) (c : Nat) : Nat := ((t.held c).head?.map (·.arrival)).getD 0
/-- The deliverable class of highest PRIO, among equals the one whose head entry arrived first (R48). -/
def Tile.nextClass (t : Tile) : Option Nat :=
  ((List.range 16).filter t.deliverable).foldl (fun (best : Option Nat) c =>
    match best with
    | none => some c
    | some b =>
      if (t.cls c).prio > (t.cls b).prio ∨ ((t.cls c).prio = (t.cls b).prio ∧ t.headPos c < t.headPos b) then some c else some b) none
/-- Removes the head entry of a class; spilled entries of FIFO classes return as hardware entries free (R47). A RANKED
class that has been emptied is no longer deliverable and counts its arrivals anew (R281). -/
def removeHead (c : Nat) : List InMsg → List InMsg
  | [] => []
  | m :: r => if m.cls = c then r else m :: removeHead c r
/-- Hardware entries that FIFO classes share: 64 less the reservations of enabled RANKED classes (R47). -/
def Tile.fifoRoom (t : Tile) : Nat :=
  64 - ((List.range 16).map (fun c => if (t.cls c).en && (t.cls c).ranked then (t.cls c).depth else 0)).sum
/-- FIFO entries that stand in hardware. -/
def Tile.fifoUsed (t : Tile) : Nat := (t.inbox.filter (fun m => !(t.cls m.cls).ranked)).length
/-- The oldest spilled entries return while hardware entries are free (R47). -/
def Tile.unspill (t : Tile) : Tile :=
  let n := t.fifoRoom - t.fifoUsed
  { t with inbox := t.inbox ++ t.spilled.take n, spilled := t.spilled.drop n }
/-- Takes the head entry of a class out of the inbox. -/
def Tile.takeHead (t : Tile) (c : Nat) : Tile :=
  let t := if t.inbox.any (fun m => decide (m.cls = c)) then { t with inbox := removeHead c t.inbox }
           else { t with spilled := removeHead c t.spilled }
  let t := t.unspill
  if (t.held c).isEmpty then t.modCls c (fun e => { e with latch := false, arrivals := 0 }) else t

end Sys2Proof.Machine
end

