-- ==== Sys2Proof/Machine/Region.lean ====
section
/-! DEFINITION. Lattice regions (R135 to R150, R394 to R397): the descriptor, the index tree in its vault, and what each
lattice operation does as one event. -/

namespace Sys2Proof.Machine

/-- The number that names no node and no cell (R135). -/
def latNone : Nat := 0xFFFFFFFF

/-- A descriptor as read (R135): `key` is its physical address. -/
structure Region where
  key : Nat
  npool : Nat
  ncap : Nat
  cpool : Nat
  ccap : Nat
  root : Nat
  nused : Nat
  cused : Nat
  nfree : Nat
  cfree : Nat
  nhwm : Nat
  chwm : Nat
  dims : Nat
  cfmt : Nat
  csz : Nat
  bw : List Nat
  splits : Nat
  clean : Bool
  deriving DecidableEq, Repr

/-- Why an operation fails at the lattice unit (R394): the cause and its DETAIL fields (R381). -/
structure LatFail where
  cause : Nat
  detail : Nat
  deriving DecidableEq, Repr

/-- What a lattice event works on. -/
structure LatSt where
  r : Region
  s : State

/-- A part of a lattice event. A failure discards every change (R394). -/
abbrev Lat := EStateM LatFail LatSt

/-- LATTICE_DESCRIPTOR with a DSUB (R396). -/
def badRegion {α : Type} (dsub : Nat) : Lat α := throw ⟨0x31, dsub * 2 ^ 16⟩
/-- Continues only if a condition holds; else DSUB 4. -/
def sound (b : Bool) : Lat Unit := if b then pure () else badRegion 4
/-- The region. -/
def region : Lat Region := do let x ← get; pure x.r
/-- Changes the region's fields. -/
def modRegion (f : Region → Region) : Lat Unit := modify (fun x => { x with r := f x.r })

/-- First byte of the descriptor's vault (R136). -/
def Region.vault (r : Region) : Nat := r.key / Config.vaultBytes * Config.vaultBytes
/-- z = log2(CSZ) (R137). -/
def Region.z (r : Region) : Nat := 4 * r.csz
/-- Elements of a cell. -/
def Region.lanes (r : Region) : Nat := 2 ^ r.z
/-- Bytes of a cell (R291). -/
def Region.cellBytes (r : Region) : Nat := r.lanes * elemBytes r.cfmt
/-- SLOT (R136). -/
def Region.slotBytes (r : Region) : Nat := max 16 r.cellBytes
/-- Bit width of a coordinate. -/
def Region.width (r : Region) (d : Nat) : Nat := r.bw.getD d 0
/-- W, the key's width (R137). -/
def Region.keyWidth (r : Region) : Nat := r.width 0 - r.z + r.width 1 + r.width 2 + r.width 3
/-- The key of a coordinate (R137). -/
def Region.keyOf (r : Region) (c0 c1 c2 c3 : Nat) : Nat :=
  let w0 := r.width 0 - r.z
  c0 / r.lanes + 2 ^ w0 * (c1 + 2 ^ r.width 1 * (c2 + 2 ^ r.width 2 * c3))

/-- Reads the descriptor at a physical address (R135); `clean` says that every field marked zero is zero. -/
def readRegion (s : State) (key : Nat) : Region :=
  let b := s.readAt key 128
  let f := fun (i : Nat) => blockNat b (4 * i) 4
  { key := key, npool := f 0, ncap := f 1, cpool := f 2, ccap := f 3, root := f 4, nused := f 5, cused := f 6, nfree := f 7,
    cfree := f 8, nhwm := f 9, chwm := f 10, dims := blockNat b 44 1 % 8, cfmt := blockNat b 45 1 % 16,
    csz := blockNat b 45 1 / 16 % 4, bw := (List.range 4).map (fun i => blockNat b (48 + i) 1), splits := blockNat b 64 8,
    clean := decide (blockNat b 44 1 / 8 = 0 ∧ blockNat b 45 1 / 64 = 0 ∧ blockNat b 46 2 = 0 ∧ blockNat b 52 12 = 0 ∧
      blockNat b 72 56 = 0) }
/-- Writes the fields that hardware and LGROW maintain (R135). -/
def writeRegion (s : State) (r : Region) : State :=
  let fs := [(4, r.ncap), (12, r.ccap), (16, r.root), (20, r.nused), (24, r.cused), (28, r.nfree), (32, r.cfree), (36, r.nhwm),
    (40, r.chwm)]
  (fs.foldl (fun (s : State) x => s.writeNat (r.key + x.1) 4 x.2) s).writeNat (r.key + 64) 8 (r.splits % 2 ^ 64)

/-- The form of a descriptor (R394 step 2, R396): DSUB 1, 2, 3, then the roots and free lists of DSUB 4. -/
def regionForm (r : Region) : Option Nat :=
  let pools := fun (r : Region) => decide (r.npool + 256 * r.ncap ≤ Config.vaultBytes ∧ r.cpool + r.slotBytes * r.ccap ≤ Config.vaultBytes)
  let below := fun (x h : Nat) => decide (x = latNone ∨ x < h)
  if r.key % 128 ≠ 0 ∨ !isVault r.key then some 1
  else if !r.clean ∨ r.dims = 0 ∨ 4 < r.dims ∨ r.csz = 3 ∨ !([1, 2, 5, 6, 9, 10, 11, 13, 14].contains r.cfmt) ∨
      r.npool % 256 ≠ 0 ∨ r.cpool % 16 ≠ 0 ∨ (r.bw.drop r.dims).any (· ≠ 0) ∨ r.width 0 < r.z ∨ 64 < r.keyWidth then some 2
  else if !pools r then some 3
  else if !(below r.root r.nhwm && below r.nfree r.nhwm && below r.cfree r.chwm) then some 4
  else none

/-! ### Nodes and cells (R138, R140) -/

/-- A node (R140): KIND 0 free, 1 leaf, 2 interior; keys; cell or child numbers; NEXT (of a leaf or of the free list) and
PREV. -/
structure Node where
  kind : Nat
  keys : List Nat
  ptrs : List Nat
  next : Nat
  prev : Nat
  deriving DecidableEq, Repr

/-- Strictly ascending. -/
def ascending : List Nat → Bool
  | a :: b :: r => decide (a < b) && ascending (b :: r)
  | _ => true
/-- A node from its 256 bytes. -/
def Node.ofBytes (b : List Byte) : Node :=
  let kind := blockNat b 0 1
  let n := blockNat b 1 1
  let keys := fun (o : Nat) => (List.range n).map (fun i => blockNat b (o + 8 * i) 8)
  if kind = 1 then ⟨1, keys 16, (List.range n).map (fun i => blockNat b (112 + 4 * i) 4), blockNat b 4 4, blockNat b 8 4⟩
  else if kind = 2 then ⟨2, keys 8, (List.range (n + 1)).map (fun i => blockNat b (128 + 4 * i) 4), latNone, latNone⟩
  else ⟨kind, [], [], blockNat b 4 4, latNone⟩
/-- Pads bytes with zeros. -/
def padTo (n : Nat) (b : List Byte) : List Byte := b ++ List.replicate (n - b.length) 0
/-- The 256 bytes of a node; fields not shown are zero (R140). -/
def Node.bytes (x : Node) : List Byte :=
  let ks := x.keys.flatMap (leBytes 8)
  let ps := x.ptrs.flatMap (leBytes 4)
  let head := leBytes 1 x.kind ++ leBytes 1 x.keys.length ++ leBytes 2 0
  padTo 256 (if x.kind = 1 then head ++ leBytes 4 x.next ++ leBytes 4 x.prev ++ leBytes 4 0 ++ padTo 96 ks ++ ps
    else if x.kind = 2 then head ++ leBytes 4 0 ++ padTo 120 ks ++ ps
    else leBytes 4 0 ++ leBytes 4 x.next)

/-- Bytes of the region's vault, with an uncorrectable word reported (R387). -/
def latBytes (key n : Nat) : Lat (List Byte) := do
  let x ← get
  if x.s.isBad key n then throw ⟨0x38, 7 * 2 ^ 16⟩ else pure (x.s.readAt key n)
/-- Key of node `n` (R136). -/
def Region.nodeKey (r : Region) (n : Nat) : Nat := r.vault + r.npool + 256 * n
/-- Key of cell `j` (R136). -/
def Region.cellKey (r : Region) (j : Nat) : Nat := r.vault + r.cpool + r.slotBytes * j
/-- Reads a node and checks it (R396 DSUB 4). -/
def readNode (n : Nat) : Lat Node := do
  let r ← region
  sound (decide (n < r.nhwm))
  let b ← latBytes (r.nodeKey n) 256
  let x := Node.ofBytes b
  let cnt := blockNat b 1 1
  sound (decide (x.kind ≤ 2 ∧ (x.kind = 1 → cnt ≤ 12) ∧ (x.kind = 2 → cnt ≤ 15)) && ascending x.keys)
  sound (decide (x.kind ≠ 1) || x.ptrs.all (· < r.chwm))
  pure x
/-- Reads a node of a kind. -/
def readKind (k n : Nat) : Lat Node := do
  let x ← readNode n
  sound (decide (x.kind = k))
  pure x
/-- Writes a node. -/
def writeNode (n : Nat) (x : Node) : Lat Unit :=
  modify (fun l => { l with s := l.s.writeKey (l.r.nodeKey n) x.bytes false })
/-- A cell's bytes. -/
def readCell (j : Nat) : Lat (List Byte) := do
  let r ← region
  latBytes (r.cellKey j) r.cellBytes
/-- Writes a cell; the rest of its slot is zero (R138). -/
def writeCell (j : Nat) (b : List Byte) : Lat Unit :=
  modify (fun l => { l with s := l.s.writeKey (l.r.cellKey j) (padTo l.r.slotBytes b) false })
/-- A freed node heads NFREE and counts once in SPLITS (R145). -/
def freeNode (n : Nat) : Lat Unit := do
  let r ← region
  writeNode n ⟨0, [], [], r.nfree, latNone⟩
  modRegion (fun r => { r with nfree := n, nused := r.nused - 1, splits := r.splits + 1 })

/-! ### Search (R141) -/

/-- The path to a key's leaf: interior nodes with the child taken, from the leaf's parent up, and the leaf. -/
def searchFrom (k : Nat) : Nat → Nat → List (Nat × Nat) → Lat (List (Nat × Nat) × Nat × Node)
  | 0, _, _ => badRegion 4
  | fuel + 1, n, path => do
    let x ← readNode n
    if x.kind = 1 then pure (path, n, x)
    else if x.kind = 2 then do
      let i := x.keys.countP (· ≤ k)
      searchFrom k fuel (x.ptrs.getD i latNone) ((n, i) :: path)
    else badRegion 4
/-- Nodes that a path can hold before it must repeat one. -/
def maxHeight : Nat := 128
/-- Searches a non-empty region. -/
def search (k : Nat) : Lat (List (Nat × Nat) × Nat × Node) := do
  let r ← region
  searchFrom k maxHeight r.root []
/-- The cell number of a key, if it is present (R139). -/
def lookup (k : Nat) : Lat (Option Nat) := do
  let r ← region
  if r.root = latNone then pure none
  else do
    let (_, _, x) ← search k
    pure ((x.keys.zip x.ptrs).find? (fun p => decide (p.1 = k)) |>.map (·.2))
/-- A key's cell, zeros for an absent key (R139). -/
def latLoad (k : Nat) : Lat (List Byte) := do
  let r ← region
  match ← lookup k with
  | some j => readCell j
  | none => pure (List.replicate r.cellBytes 0)

/-! ### Insertion (R143, R144) -/

/-- Inserts into a list at a position. -/
def insAt (l : List Nat) (i x : Nat) : List Nat := l.take i ++ x :: l.drop i
/-- Up to `n` nodes from the free list: the nodes and the new head. -/
def freeNodes : Nat → Nat → Lat (List Nat × Nat)
  | 0, h => pure ([], h)
  | n + 1, h =>
    if h = latNone then pure ([], h)
    else do
      let x ← readKind 0 h
      let (l, h') ← freeNodes n x.next
      sound (!l.contains h)
      pure (h :: l, h')
/-- f of R144: full nodes on the path, counted upward from a full leaf. -/
def fullNodes : List (Nat × Nat) → Lat Nat
  | [] => pure 0
  | (n, _) :: up => do
    let x ← readKind 2 n
    if x.keys.length < 15 then pure 0
    else do
      let f ← fullNodes up
      pure (f + 1)
/-- A separator and its right child go into the parent, which may split (R143 steps 2 to 4). -/
def insertUp : List (Nat × Nat) → List Nat → Nat → Nat → Lat Unit
  | [], alloc, sep, right => do
    let r ← region
    let n := alloc.headD latNone
    writeNode n ⟨2, [sep], [r.root, right], latNone, latNone⟩
    modRegion (fun r => { r with root := n })
  | (p, i) :: up, alloc, sep, right => do
    let x ← readKind 2 p
    let keys := insAt x.keys i sep
    let ptrs := insAt x.ptrs (i + 1) right
    if keys.length ≤ 15 then writeNode p { x with keys := keys, ptrs := ptrs }
    else do
      let n := alloc.headD latNone
      writeNode p { x with keys := keys.take 8, ptrs := ptrs.take 9 }
      writeNode n ⟨2, keys.drop 9, ptrs.drop 9, latNone, latNone⟩
      modRegion (fun r => { r with splits := r.splits + 1 })
      insertUp up alloc.tail (keys.getD 8 0) n
/-- Takes a cell: the head of CFREE, else the next of the pool. -/
def takeCell : Lat Nat := do
  let r ← region
  if r.cfree = latNone then do
    modRegion (fun r => { r with chwm := r.chwm + 1, cused := r.cused + 1 })
    pure r.chwm
  else do
    let b ← latBytes (r.cellKey r.cfree) 4
    modRegion (fun r => { r with cfree := leNat b, cused := r.cused + 1 })
    pure r.cfree
/-- What a search says of a region that may be empty. -/
abbrev Found := Option (List (Nat × Nat) × Nat × Node)
/-- Searches for the place of an absent key. -/
def findPlace (k : Nat) : Lat Found := do
  let r ← region
  if r.root = latNone then pure none
  else do
    let x ← search k
    pure (some x)
/-- The leaf of a place is full. -/
def Found.full : Found → Bool
  | none => false
  | some (_, _, x) => decide (x.keys.length = 12)
/-- Nodes that an insertion needs (R144). -/
def nodesNeeded : Found → Lat Nat
  | none => pure 1
  | some (path, leaf, x) =>
    if Found.full (some (path, leaf, x)) then do
      let f ← fullNodes path
      pure (if f = path.length then f + 2 else f + 1)
    else pure 0
/-- Every other node and cell link that an insertion reads is sound (R394 step 5). -/
def insertReads (p : Found) : Lat Unit := do
  let r ← region
  match p with
  | none => pure ()
  | some (_, _, x) => if p.full && decide (x.next ≠ latNone) then (do let _ ← readKind 1 x.next) else pure ()
  if r.cfree = latNone then pure ()
  else do
    let b ← latBytes (r.cellKey r.cfree) 4
    sound (decide (leNat b = latNone ∨ leNat b < r.chwm))
/-- Puts a key and its cell into a leaf, which splits when it is full (R143). -/
def insertLeaf (k j : Nat) (path : List (Nat × Nat)) (leaf : Nat) (x : Node) (alloc : List Nat) : Lat Unit := do
  let i := x.keys.countP (· < k)
  let keys := insAt x.keys i k
  let ptrs := insAt x.ptrs i j
  if keys.length ≤ 12 then writeNode leaf { x with keys := keys, ptrs := ptrs }
  else do
    let n := alloc.headD latNone
    writeNode leaf { x with keys := keys.take 7, ptrs := ptrs.take 7, next := n }
    writeNode n ⟨1, keys.drop 7, ptrs.drop 7, x.next, leaf⟩
    if x.next ≠ latNone then do
      let y ← readKind 1 x.next
      writeNode x.next { y with prev := n }
    modRegion (fun r => { r with splits := r.splits + 1 })
    insertUp path alloc.tail (keys.getD 7 0) n
/-- Inserts an absent key with its cell (R143, R144). -/
def latInsert (k : Nat) (cell : List Byte) : Lat Unit := do
  let r ← region
  let found ← findPlace k
  let need ← nodesNeeded found
  insertReads found
  let (taken, head) ← freeNodes need r.nfree
  let rest := need - taken.length
  let noNodes := decide (r.nhwm + rest > r.ncap ∧ rest ≠ 0)
  let noCell := decide (r.cfree = latNone ∧ r.ccap ≤ r.chwm)
  if noNodes || noCell then throw ⟨0x30, need * 2 ^ 16 + bit noCell * 2 ^ 24 + bit noNodes * 2 ^ 25⟩
  let alloc := taken ++ (List.range rest).map (· + r.nhwm)
  let j ← takeCell
  writeCell j cell
  modRegion (fun r => { r with nfree := head, nhwm := r.nhwm + rest, nused := r.nused + need })
  match found with
  | none => do
    let n := alloc.headD latNone
    writeNode n ⟨1, [k], [j], latNone, latNone⟩
    modRegion (fun r => { r with root := n })
  | some (path, leaf, x) => insertLeaf k j path leaf x alloc

/-! ### Deletion (R145) -/

/-- A parent loses a child, and is removed itself when it has none left. -/
def dropChild : List (Nat × Nat) → Lat Unit
  | [] => modRegion (fun r => { r with root := latNone })
  | (p, i) :: up => do
    let x ← readKind 2 p
    let ptrs := x.ptrs.eraseIdx i
    if ptrs.isEmpty then do
      freeNode p
      dropChild up
    else writeNode p { x with keys := x.keys.eraseIdx (i - 1), ptrs := ptrs }
/-- An interior root with one child is freed, repeatedly. -/
def lowerRoot : Nat → Lat Unit
  | 0 => pure ()
  | fuel + 1 => do
    let r ← region
    if r.root = latNone then pure ()
    else do
      let x ← readNode r.root
      if x.kind = 2 ∧ x.ptrs.length = 1 then do
        freeNode r.root
        modRegion (fun r => { r with root := x.ptrs.headD latNone })
        lowerRoot fuel
      else pure ()
/-- Deletes a present key. -/
def latDelete (k : Nat) : Lat Unit := do
  let (path, leaf, x) ← search k
  let i := x.keys.countP (· < k)
  let j := x.ptrs.getD i 0
  let r ← region
  modify (fun l => { l with s := l.s.writeNat (l.r.cellKey j) 4 r.cfree })
  modRegion (fun r => { r with cfree := j, cused := r.cused - 1 })
  let y := { x with keys := x.keys.eraseIdx i, ptrs := x.ptrs.eraseIdx i }
  if !y.keys.isEmpty then writeNode leaf y
  else do
    if x.prev ≠ latNone then do
      let p ← readKind 1 x.prev
      writeNode x.prev { p with next := x.next }
    if x.next ≠ latNone then do
      let q ← readKind 1 x.next
      writeNode x.next { q with prev := x.prev }
    freeNode leaf
    dropChild path
    lowerRoot maxHeight

/-! ### Values and scans (R138, R139, R146, R147) -/

/-- An element is zero by value: +0, −0 or integer 0. -/
def zeroElem (cfmt bits : Nat) : Bool := (decodeWin (fun _ => 0) cfmt bits).isZero
/-- The element codes of a cell. -/
def Region.elems (r : Region) (b : List Byte) : List Nat :=
  (List.range r.lanes).map (fun i => blockNat b (i * elemBytes r.cfmt) (elemBytes r.cfmt))
/-- The bytes of a cell from element codes; zero elements are stored as +0 (R139). -/
def Region.pack (r : Region) (l : List Nat) : List Byte :=
  l.flatMap (fun x => leBytes (elemBytes r.cfmt) (if zeroElem r.cfmt x then 0 else x))
/-- A cell takes element codes: inserted, replaced, deleted or left absent (R139). -/
def latStore (k : Nat) (l : List Nat) : Lat Unit := do
  let r ← region
  let zero := l.all (zeroElem r.cfmt)
  match ← lookup k with
  | some j => if zero then latDelete k else writeCell j (r.pack l)
  | none => if zero then pure () else latInsert k (r.pack l)
/-- LADD's merge (R147). -/
def latAdd (k : Nat) (addend : List Nat) : Lat Unit := do
  let r ← region
  let b ← latLoad k
  let dec := decodeWin (fun _ => 0) r.cfmt
  latStore k (((r.elems b).zip addend).map (fun x =>
    (encodeWin (fun _ => 0) r.cfmt .rne true (sum2 .rne (dec x.1) (dec x.2))).1))
/-- The first key above a bound along the leaf chain. -/
def scanLeaves (above : Nat → Bool) : Nat → Node → Lat (Option (Nat × Nat))
  | 0, _ => badRegion 4
  | fuel + 1, x =>
    match (x.keys.zip x.ptrs).find? (fun p => above p.1) with
    | some p => pure (some p)
    | none => if x.next = latNone then pure none
      else do
        let y ← readKind 1 x.next
        scanLeaves above fuel y
/-- One step of a scan (R146): the next key and its cell number. -/
def latScan (started : Bool) (cursor : Nat) : Lat (Option (Nat × Nat)) := do
  let r ← region
  if r.root = latNone then pure none
  else do
    let (_, _, x) ← search (if started then cursor else 0)
    scanLeaves (fun k => !started || decide (cursor < k)) (r.nhwm + 1) x

/-! ### Keys and boxes (R397) -/

/-- LATTICE_KEY. -/
def badKey {α : Type} (dim : Nat) (box : Bool) : Lat α := throw ⟨0x32, dim * 2 ^ 16 + bit box * 2 ^ 20⟩
/-- A key below 2^W. -/
def checkKey (k : Nat) : Lat Unit := do
  let r ← region
  if k < 2 ^ r.keyWidth then pure () else badKey (r.dims - 1) false
/-- A box within the coordinate range: LOd + EXTd ≤ 2^BWd for every dimension. -/
def checkBox (lo ext : List Nat) : Lat Unit := do
  let r ← region
  match (List.range 4).find? (fun d => decide (lo.getD d 0 + ext.getD d 0 > 2 ^ r.width d)) with
  | some d => badKey d true
  | none => pure ()
/-- The elements of a box in the order of R292, innermost dimension first. -/
def boxElems (lo ext : List Nat) : Lat (List Nat) := do
  let r ← region
  let e := fun (d : Nat) => ext.getD d 1
  let c := fun (d : Nat) => lo.getD d 0
  let rows := (List.range (e 3)).flatMap (fun i3 => (List.range (e 2)).flatMap (fun i2 => (List.range (e 1)).map (fun i1 => (i1, i2, i3))))
  let parts ← rows.mapM (fun (i1, i2, i3) =>
    (List.range (e 0)).mapM (fun i0 => do
      let b ← latLoad (r.keyOf (c 0 + i0) (c 1 + i1) (c 2 + i2) (c 3 + i3))
      pure ((r.elems b).getD ((c 0 + i0) % r.lanes) 0)))
  pure parts.flatten

/-- A lattice event on the region at a physical address: its form is checked, it acts in full, and the descriptor's
fields are written back (R142, R394). -/
def runLattice {α : Type} (s : State) (key : Nat) (op : Lat α) : Except LatFail (α × State) :=
  if s.isBad key 128 then .error ⟨0x38, 7 * 2 ^ 16⟩
  else
    let r := readRegion s key
    match regionForm r with
    | some d => .error ⟨0x31, d * 2 ^ 16⟩
    | none =>
      match op ⟨r, s⟩ with
      | .ok a l => .ok (a, if l.r = r then l.s else writeRegion l.s l.r)
      | .error e _ => .error e

/-- The places of a region's node and cell pools, as far as they have been used (R135). -/
def regionSpans (s : State) (key : Nat) : List (Nat × Nat) :=
  let r := readRegion s key
  [(r.vault + r.npool, 256 * min r.nhwm r.ncap), (r.vault + r.cpool, r.slotBytes * min r.chwm r.ccap)]

/-- LGROW (R149, R293): the new capacities, 0 keeping the current one, must fit the vault (DSUB 3). -/
def latGrow (ncap ccap : Nat) : Lat Unit := do
  let r ← region
  let r' := { r with ncap := if ncap = 0 then r.ncap else ncap, ccap := if ccap = 0 then r.ccap else ccap }
  if r'.npool + 256 * r'.ncap ≤ Config.vaultBytes ∧ r'.cpool + r'.slotBytes * r'.ccap ≤ Config.vaultBytes then
    modRegion (fun _ => r')
  else badRegion 3

end Sys2Proof.Machine
end

