-- ==== Sys2Proof/Machine/TensorMap.lean ====
section
/-! DEFINITION. Tensor maps and slices (R42, R43), engine reads (R126, R387), ring, accumulator and window checks (R376),
tokens at issue (R170, R171, R407) and core names as destinations (R25, R428). -/

namespace Sys2Proof.Machine

/-- An uncorrectable word that an engine consumes is a posted fault with AKIND 4 and an error record (R387), unless another copy
of its replicated page serves it (R392). -/
def engineConsume (key n a : Nat) (repl : Bool := false) : Op Unit := do
  engineOver key n false
  let s ← get
  let s := s.mend s.cur (dieOf s.cur) key n repl
  if s.unreadable s.cur key n repl then do
    set (s.consumed key n)
    post 0x38 .engineRead a (s.arrayAt key n * 2 ^ 16)
  else set s

/-! ### Tensor maps (R42, R43) -/

/-- The slice of a map for the calling task: window, origin, index and extent of each dimension, and strides. -/
structure Slice where
  win : Nat
  origin : Nat
  ext : List Nat
  strides : List Nat
  deriving DecidableEq, Repr

/-- LevelPair (R43): rank and count by LEVEL, from the grid of the task. -/
def levelPair (g : Grid) (r : TaskRef) (level : Nat) : Nat × Nat :=
  match level with
  | 1 => (r.rank, g.tasks)
  | 2 => (r.team, g.teams)
  | 3 => (r.band, g.bands)
  | _ => (grankOf g r, g.bands * g.teams * g.tasks)
/-- Rounded-up quotient. -/
def ceilDiv (a b : Nat) : Nat := (a + b - 1) / b
/-- SliceOf (R43): first index and extent. -/
def sliceOf (e align level i n : Nat) : Nat × Nat :=
  if level = 0 then (0, e)
  else
    let g := max align 1
    let s := ceilDiv (ceilDiv e n) g * g
    let lo := min (i * s) e
    (lo, min (lo + s) e - lo)
/-- Bytes before element `n` of a row (R82); W8 packs two elements a byte. -/
def elemOff (w n : Nat) : Nat := n * winNibbles w / 2
/-- LevelPair of the calling task; a core with no task has none, and every level is then whole. -/
def taskPair (s : State) (level : Nat) : Nat × Nat :=
  match (s.tile s.cur).task with
  | none => (0, 1)
  | some r => match s.grid? r.grid with
    | none => (0, 1)
    | some g => levelPair g r level
/-- Map `k` of the core's scratchpad, its fields checked in ascending order (R368, R376), and the slice of the calling
task. Dimensions at or above DIMS have extent 1. -/
def readMap (k : Nat) : Op Slice := do
  let s ← get
  engineConsume (scratchAt s.cur (64 * k)) 64 (Config.localBase + 64 * k)
  let b := s.readAt (scratchAt s.cur (64 * k)) 64
  let x := leNat b
  let win := blockNat b 42 1 % 16
  let dims := blockNat b 43 1 % 8
  fieldOk 0 340 (decide (bf x 340 4 = 0))
  fieldOk 0 344 (decide (1 ≤ dims ∧ dims ≤ 4))
  fieldOk 0 347 (decide (bf x 347 5 = 0))
  let dim := fun (d : Nat) =>
    let level := bf x (352 + 8 * d) 3
    let (i, n) := taskPair s level
    if d < dims then sliceOf (blockNat b (8 + 4 * d) 4) (blockNat b (48 + 2 * d) 2) level i n else (0, 1)
  let part := fun (d : Nat) => do
    fieldOk 0 (352 + 8 * d) (decide (bf x (352 + 8 * d) 3 ≤ 4) && !(decide (d = 0 ∧ win = 8 ∧ (dim 0).1 % 2 = 1)))
    fieldOk 0 (355 + 8 * d) (decide (bf x (355 + 8 * d) 5 = 0))
  part 0
  part 1
  part 2
  part 3
  fieldOk 0 448 (decide (bf x 448 64 = 0))
  let strides := (List.range 3).map (fun d => blockNat b (24 + 6 * d) 6)
  let off := elemOff win (dim 0).1 + ((List.range 3).map (fun d => (dim (d + 1)).1 * strides.getD d 0)).sum
  pure { win := win, origin := addrAdd (blockNat b 0 8) off, ext := (List.range 4).map (fun d => (dim d).2), strides := strides }
/-- Extent of a dimension of a slice. -/
def Slice.extent (m : Slice) (d : Nat) : Nat := m.ext.getD d 0
/-- Address of row `r` of a slice. -/
def Slice.row (m : Slice) (r : Nat) : Nat := addrAdd m.origin ((r * m.strides.getD 0 0 : Nat) : Int)

/-! ### Engine reads (R126, R387) -/

/-- One piece of an access within a 64 KiB page of translated memory: its key and whether its page is replicated. -/
structure Piece where
  va : Nat
  len : Nat
  key : Nat
  repl : Bool
  capst : Bool
  deriving DecidableEq, Repr
/-- Translates `n` bytes page by page for a core; a failure gives the lowest address of the failing page (R380). -/
def State.pieces (s : State) (k need : Nat) : Nat → Nat → Nat → Except (Nat × TransFail) (List Piece × State)
  | 0, _, _ => .ok ([], s)
  | fuel + 1, va, n =>
    if n = 0 then .ok ([], s)
    else
      let first := min n (65536 - va % 65536)
      match s.translateAt k false va need with
      | .error f => .error (va, f)
      | .ok (p, s') =>
        match s'.pieces k need fuel (va + first) (n - first) with
        | .error e => .error e
        | .ok (l, s'') => .ok (⟨va, first, p.key, p.repl, p.capst⟩ :: l, s'')
/-- Pages that `n` bytes can touch. -/
def pagesOf (n : Nat) : Nat := n / 65536 + 2
/-- An engine reads `n` bytes at an address whose capability has been checked, once the core's earlier stores to them have been
performed (R127). -/
def engineRead (reg a n : Nat) : Op (List Byte) := do
  match locate a n with
  | .unbacked => trap 0x0E .engineRead a reg
  | .scratch _ off => do
    let k ← me
    engineConsume (scratchAt k off) n a
    let s ← get
    pure (s.readAt (scratchAt k off) n)
  | .info off => do
    let s ← get
    pure (s.infoBytes s.cur off n)
  | _ => do
    let s ← get
    match s.pieces s.cur (needR + needEng) (pagesOf n) a n with
    | .error (va, f) => failTranslation f va .engineRead 0
    | .ok (l, s') => do
      set s'
      l.forM (fun p => performOver p.key p.len)
      let s' ← get
      if l.any (fun p => s'.pendingBytes s'.cur p.key p.len || s'.owned s'.cur noXfer p.key p.len true) then waitFor .line
      l.forM (fun p => engineConsume p.key p.len p.va p.repl)
      let s' ← get
      pure (l.flatMap (fun p => s'.readAt p.key p.len))
/-- A fresh number for a transfer, never that of no transfer. -/
def xferId : Op Nat := do
  let s ← get
  let (n, s') := s.fresh
  set s'
  pure (n + 1)

/-! ### Rings, slots, accumulators, windows (R376) -/

/-- RING (R368). -/
def ringTrap {α : Type} (q reason : Nat) : Op α := trap 0x19 .none 0 (q * 2 ^ 16 + reason * 2 ^ 24)
/-- A configured ring (RING 1). -/
def ringUsed (q : Nat) : Op Ring := do
  let t ← getT
  require (decide ((t.ring q).len ≠ 0)) (ringTrap q 1)
  pure (t.ring q)
/-- The slot holds `n` bytes (RING 2). -/
def slotHolds (q slot n : Nat) : Op Unit := do
  let t ← getT
  require (decide (n ≤ (t.slot slot).len)) (ringTrap q 2)
/-- ACC_MODE with the mode found (R368). -/
def accMode (n : Nat) (ok : Nat → Bool) : Op Unit := do
  let t ← getT
  let m := modeOf (t.accOf n).mode
  require (ok m) (trap 0x1A .none 0 (n * 2 ^ 16 + m * 2 ^ 24))
/-- WINDOW for a window number (R368). -/
def windowTrap {α : Type} (reg w : Nat) : Op α := trap 0x1B .none 0 (reg + w * 2 ^ 16)
/-- A window of the class of an accumulator's mode (R82, R263): W1 to W14, in INT mode W5, W6, W13 and W14. -/
def windowOk (mode : Word) (w : Nat) : Bool := if modeOf mode = 1 then winInt w else decide (1 ≤ w ∧ w ≤ 14)
/-- Operand windows of an accumulator. -/
def windowsOk (reg n : Nat) (ws : List Nat) : Op Unit := do
  let t ← getT
  match ws.find? (fun w => !windowOk (t.accOf n).mode w) with
  | some w => windowTrap reg w
  | none => pure ()
/-- The scale bytes of `n` elements from a scratchpad offset lie in the scratchpad (R376): a check of
core state, with no access (log entry 13). -/
def scalesOk (reg w off n : Nat) : Op Unit := do
  let t ← getT
  let lo := scaleOff (t.soff w) w off 0
  let hi := scaleOff (t.soff w) w off (n - 1)
  require (!isMx w || decide (hi < Config.scratchBytes))
    (trap 0x1B .none (Config.localBase + max lo Config.scratchBytes) (reg + w * 2 ^ 16))
/-- A slot that an instruction reads as ring head is READY; until then it waits at issue (R68, R254). -/
def slotReady (slot : Nat) : Op Unit := do
  let t ← getT
  if (t.slot slot).state = .ready then pure () else waitFor .slots
/-- A tail slot that a fill takes is EMPTY; until then it waits at issue (R254). -/
def slotEmpty (slot : Nat) : Op Unit := do
  let t ← getT
  if (t.slot slot).state = .empty then pure () else waitFor .slots
/-- The bytes of a slot that an engine reads, and their scale bytes, are correctable (R387). -/
def slotSound (slot w n : Nat) : Op Unit := do
  let t ← getT
  let k ← me
  let off := (t.slot slot).off
  engineConsume (scratchAt k off) (winBytes w n) (Config.localBase + off)
  if isMx w then
    engineConsume (scratchAt k (scaleOff (t.soff w) w off 0)) (winBytes 1 n / 32) (Config.localBase + scaleOff (t.soff w) w off 0)
  else pure ()

/-! ### Tokens (R170, R171, R173, R407) -/

/-- An engine instruction of `n` slots issues, or waits for tokens or for the refill of a window that has started. -/
def spend (n : Nat) : Op Unit := do
  let s ← get
  let t := s.tile s.cur
  if t.hold = 0 ∨ t.bal < 1 ∨ s.windowDue s.cur then waitFor .tokens
  if t.sbal < 1 then do
    modify (fun s => s.gateRefuses s.cur)
    throw (.wait .tokens true)
  modT (fun t => t.spent n)
/-- An engine instruction joins the engine's queue. -/
def issueEngine (op : EngOp) : Op Unit := modT (fun t => { t with eng := t.eng ++ [op] })
/-- FCTL.RM as the instruction's issue reads it (R254). -/
def sampleRm : Op Rm := do
  let t ← getT
  pure (rmOf t.fctl)

/-! ### Core names as destinations (R25, R377, R428) -/

/-- A core name held at bit `lo` of an operand word or descriptor: it names a core of the task's partition (LIMIT at
`lo`), and its GEN is the current one (LIMIT at `lo` + 24). -/
def destCore (reg lo name : Nat) : Op Nat := do
  let s ← get
  match coreOf name with
  | none => limit reg lo
  | some c => do
    require (decide (c < Config.tileSites ∧ s.partOf c = s.partOf s.cur)) (limit reg lo)
    require (decide (name / 2 ^ 24 = s.gen)) (limit reg (lo + 24))
    pure c

/-! ### Lattice operations of a core (R291, R394) -/

/-- Posts a failure of the lattice unit: dword 2 is the descriptor's address, DETAIL names the region's register and the
operand's (R394, R395); uncorrectable data also sends an error record (R387). -/
def postLattice {α : Type} (xa xb a : Nat) (ak : Access) (e : LatFail) : Op α := do
  if e.cause = 0x38 then modify (fun s => s.record { unitRecord 2 1 7 a (some (s.partNo s.cur)) with name := s.nameOf s.cur })
  post e.cause ak a (xb + xa * 2 ^ 8 + e.detail)
/-- The physical address of the descriptor, read as a load of the instruction's AKIND (R394 step 1): translated like any other
address below the untranslated region. The scratchpad and the information area are no vault. -/
def regionKey (xa xb a : Nat) (ak : Access) (need : Nat) : Op Nat := do
  match locate a 128 with
  | .unbacked => trap 0x0E ak a xb
  | .scratch _ _ => postLattice xa xb a ak ⟨0x31, 2 ^ 16⟩
  | .info _ => postLattice xa xb a ak ⟨0x31, 2 ^ 16⟩
  | _ => do
    let p ← translate false a need ak 0
    if isExpert p.key then postLattice xa xb a ak ⟨0x31, 2 ^ 16⟩ else pure p.key
/-- Runs a lattice event for the core. An operation on a region is an access to its descriptor (R129): the core's earlier stores
to it are performed first, and it waits while an engine owns a line of the descriptor or of a node or cell slot in use
(R126). -/
def coreLattice {α : Type} (xa xb a : Nat) (ak : Access) (key : Nat) (op : Lat α) : Op α := do
  performOver key 128
  let s ← get
  if s.owned s.cur noXfer key 128 || (regionSpans s key).any (fun x => s.owned s.cur noXfer x.1 x.2) then waitFor .line
  match runLattice s key op with
  | .error e => postLattice xa xb a ak e
  | .ok (x, s') => do
    set s'
    pure x
/-- A lattice operation of the core has acted: its unit counts one energy event (R142, R183). -/
def latticeDone : Op Unit := modT (fun t => { t with latticeEvents := t.latticeEvents + 1 })

end Sys2Proof.Machine
end

