-- ==== Sys2Proof/Machine/Transfer.lean ====
section
/-! DEFINITION. The copy engines: how a transfer's elements are moved, refused, stopped and completed (R284 to R286, R269,
R384), and wake-up messages (R223, R279). -/

namespace Sys2Proof.Machine

/-- A task whose record has been written stands saved on its core until its grid leaves it (R55). -/
def State.recorded (s : State) (k : Nat) : Bool :=
  match s.gridOf k with
  | none => false
  | some g => g.saved.any (fun x => decide (x.core = k))
/-- A core that accepts messages and transfers: live, with a task that is not saved, and no chord member (R279, R404). -/
def State.receives (s : State) (k : Nat) : Bool :=
  s.live k && (s.tile k).task.isSome && (s.tile k).memberOf.isNone && !s.recorded k
/-- A name of another generation than the current one, which the first router does not forward (R27). -/
def State.stale (s : State) (name : Nat) : Bool := decide (bf name 24 8 ≠ s.gen)
/-- The retry interval after a refusal (R47): 64 cycles, doubling up to 4,096. -/
def nextInterval (n : Nat) : Nat := if n = 0 then 64 else min 4096 (2 * n)
/-- A wake-up message to a core name (R278, R279). -/
def wakeMsg (src srcName destName part : Nat) (grid : Option Nat) : Msg :=
  { mkMsg src srcName destName 0 [] grid part with wake := true }

/-- How the movement of an element ends without the element moved. -/
inductive XStop where
  | busy
  | fault (cause : Nat) (ak : Access) (addr detail : Nat)
  deriving DecidableEq, Repr

/-- DETAIL of uncorrectable data that a transfer consumes (R381). -/
def State.xferBad (s : State) (key elem : Nat) : Nat := s.arrayAt key 1 * 2 ^ 16 + 2 ^ 24 + elem % 2 ^ 32 * 2 ^ 32
/-- The pieces of `n` bytes as an engine of core `k` reaches them: a window of its scratchpad, or translated memory. -/
def State.places (s : State) (k need va n : Nat) : Except (Nat × TransFail) (List Piece × State) :=
  match locate va n with
  | .scratch _ off => .ok ([⟨va, n, scratchAt k off, false, false⟩], s)
  | _ => s.pieces k need (pagesOf n) va n
/-- An element whose translation fails stops its transfer (R384); one whose walk waits moves later. -/
def xferFail (f : Nat × TransFail) (ak : Access) (index : Nat) : XStop :=
  if f.2.why.cause = 0 then .busy
  else .fault f.2.why.cause (if f.2.why.cause = 0x13 then .walk else ak) f.1 (walkDetail f.2.why f.2.rewalk index)
/-- The pieces of an access with their bad copies mended (R392): `c` says which copy is read. -/
def State.mendPieces (s : State) (k c : Nat) (l : List Piece) : State :=
  l.foldl (fun (s : State) p => s.mend k c p.key p.len p.repl) s
/-- Reads one side of an element. -/
def State.fetchPlace (s : State) (k id : Nat) (e : XElem) : Except XStop (List Byte × State) :=
  match e.src with
  | .bytes b => .ok (b, s)
  | .scratch c off =>
    if s.isBad (scratchAt c off) e.len then
      .error (.fault 0x38 .engineRead (Config.localBase + off) (s.xferBad (scratchAt c off) e.index))
    else .ok (s.readAt (scratchAt c off) e.len, s)
  | .virt va =>
    match s.places k (needR + needEng) va e.len with
    | .error f => .error (xferFail f .engineRead e.index)
    | .ok (l, s) =>
      let s := s.mendPieces k (dieOf k) l
      if l.any (fun p => s.pendingBytes k p.key p.len || s.owned k id p.key p.len true) then .error .busy
      else match l.find? (fun p => s.unreadable k p.key p.len p.repl) with
        | some p => .error (.fault 0x38 .engineRead p.va (s.xferBad p.key e.index))
        | none => .ok (l.flatMap (fun p => s.readAt p.key p.len), s)
  | _ => .ok ([], s)
/-- An engine's write of a piece waits: for a line that another engine owns (R126), or one that the host has not granted (R134). -/
def State.heldBack (s : State) (k id : Nat) (p : Piece) : Bool :=
  s.owned k id p.key p.len || (isHost p.key && !s.hostGranted p.key p.len)
/-- Writes bytes to translated memory, page by page, as engine writes (R126). -/
def State.writePieces (s : State) (k id : Nat) : List Piece → List Byte → State
  | [], _ => s
  | p :: l, b =>
    let st : PStore := { key := p.key, data := b.take p.len, tag := false, repl := p.repl, committed := true }
    State.writePieces (s.performStore k st id) k id l (b.drop p.len)
/-- Translates and writes an element's bytes; a partial write of an uncorrectable word consumes it (R388). -/
def State.putVirt (s : State) (k id index va need : Nat) (b : List Byte) : Except XStop State :=
  match s.places k need va b.length with
  | .error f => .error (xferFail f .engineWrite index)
  | .ok (l, s) =>
    let s := s.mendPieces k 56 l
    if l.any (s.heldBack k id) then .error .busy
    else match l.find? (fun p => s.badPartial p.key p.len) with
      | some p => .error (.fault 0x38 .engineWrite p.va (s.xferBad p.key index))
      | none => .ok (s.writePieces k id l b)
/-- The expert buffer that a list entry names (R285): die and buffer, or the address of the NOT_MAPPED fault. -/
def expertPlace (s : State) (k x : Nat) : Except Nat (Nat × Nat) :=
  if x / 2 ^ 14 ≠ 0 then .error 0
  else
    let d := bf x 8 6
    if Config.dies ≤ d ∨ s.partOfDie d ≠ s.partOf k then .error (Config.expertBase + d * 2 ^ 30 + x % 256 * 2 ^ 22)
    else .ok (d, x % 256)
/-- Moves one element of a transfer of core `k`. -/
def State.moveElem (s : State) (k : Nat) (x : Xfer) (e : XElem) : Except XStop State :=
  match s.fetchPlace k x.id e with
  | .error f => .error f
  | .ok (b, s) =>
    match e.dst with
    | .scratch c off =>
      if s.badPartial (scratchAt c off) e.len then
        .error (.fault 0x38 .engineWrite (Config.localBase + off) (s.xferBad (scratchAt c off) e.index))
      else .ok (s.writeKey (scratchAt c off) b false)
    | .virt va => s.putVirt k x.id e.index va (needW + needEng) b
    | .bin va capacity elen =>
      match s.places k (needR + needW + needEng) va 4 with
      | .error f => .error (xferFail f .engineWrite e.index)
      | .ok (l, s) =>
        let s := s.mendPieces k 56 l
        if l.any (s.heldBack k x.id) then .error .busy
        else match l.find? (fun p => s.isBad p.key p.len) with
          | some p => .error (.fault 0x38 .engineWrite p.va (s.xferBad p.key e.index))
          | none =>
            let pos := leNat (l.flatMap (fun p => s.readAt p.key p.len))
            let add := fun (s : State) => s.writePieces k x.id l (leBytes 4 ((pos + 1) % 2 ^ 32))
            if pos < capacity then
              match s.putVirt k x.id e.index (addrAdd va ((16 + pos * elen : Nat) : Int)) (needW + needEng) b with
              | .error f => .error f
              | .ok s => .ok (add s)
            else .ok (add s)
    | .remoteSlot off =>
      match x.remote, x.remoteSlot with
      | some (c, _), some sl => .ok (s.writeKey (scratchAt c (((s.tile c).slot sl).off + off)) b false)
      | _, _ => .error .busy
    | .expert entry =>
      match expertPlace s k entry with
      | .error a => .error (.fault 0x10 .engineWrite a (walkDetail ⟨0x10, 2, false, 0, 0, 0⟩ false e.index))
      | .ok (d, n) => .ok { s with rows := s.rows ++
          [{ sender := k, die := d, buf := n, data := b, held := 0, deferred := false, told := false, xfer := x.id }] }
    | _ => .ok s

/-- First addresses of the lines that a range touches. -/
def lineStarts (va n : Nat) : List Nat :=
  ((List.range (n / 64 + 2)).map (fun i => (va / 64 + i) * 64)).filter (fun a => decide (a < va + n))
/-- The line that a virtual address leads to, by a walk that changes nothing. -/
def State.lineAt (s : State) (k va : Nat) : Option Nat :=
  match locate va 1 with
  | .virt => match walk s (s.partNo k) (s.tile k).asid va 0 with
    | .ok l => some (leafPa l va / 64)
    | .error _ => none
  | .expert => match expertWalk s (s.partNo k) va 0 with
    | .ok p => some (p.key / 64)
    | .error _ => none
  | _ => none
/-- Lines of one side of an element. -/
def State.placeLines (s : State) (k : Nat) (p : Place) (n : Nat) : List Nat :=
  match p with
  | .virt va => (lineStarts va n).filterMap (s.lineAt k)
  | .bin va _ _ => (lineStarts va 4).filterMap (s.lineAt k)
  | _ => []
/-- Memory lines that a transfer has still to write (R126). -/
def State.xferWrites (s : State) (k : Nat) (l : List XElem) : List Nat := l.flatMap (fun e => s.placeLines k e.dst e.len)
/-- Memory lines that a transfer has still to access (R126). -/
def State.xferLines (s : State) (k : Nat) (l : List XElem) : List Nat :=
  l.flatMap (fun e => s.placeLines k e.src e.len ++ s.placeLines k e.dst e.len)
/-- The grants that a transfer holds when it stops between elements (R126): of those it had or reached, the lines with which it
has not finished, exclusively where it has still to write. -/
def State.keptGrants (s : State) (k : Nat) (had : List (Nat × Bool)) (moved left : List XElem) : List (Nat × Bool) :=
  let reached := s.xferLines k moved
  let writes := s.xferWrites k left
  ((s.xferLines k left).eraseDups.filter (fun l => had.any (fun g => decide (g.1 = l)) || reached.contains l)).map
    (fun l => (l, writes.contains l))

/-- Changes the transfer at an index. -/
def State.modXfer (s : State) (k i : Nat) (f : Xfer → Xfer) : State := s.modTile k (fun t => { t with xfers := t.xfers.modify i f })
/-- The transfer at an index is refused for now (R47). -/
def State.refuseXfer (s : State) (k i : Nat) : State := s.modXfer k i (fun x => { x with interval := nextInterval x.interval })
/-- Rows of a transfer that no pool manager has counted yet. -/
def State.rowsOut (s : State) (k : Nat) (x : Xfer) : Bool := s.rows.any (fun r => decide (r.sender = k ∧ r.xfer = x.id))

/-- A transfer ends (R286): slots take their states, counters are incremented, a wake-up follows. -/
def State.endXfer (s : State) (k i : Nat) (x : Xfer) : State :=
  let s := s.modTile k (fun t => { t with xfers := t.xfers.eraseIdx i })
  let s := match x.slot with
    | none => s
    | some sl => s.modTile k (fun t => if x.fill then t.ready sl else t.empty sl)
  let s := match x.remote, x.remoteSlot with
    | some (c, _), some sl => s.modTile c (fun t => t.ready sl)
    | _, _ => s
  let s := (s.bump? (x.localCtr.map (fun o => (k, o)))).bump? x.remoteCtr
  match x.wake with
  | none => s
  | some _ => s.push (wakeMsg k (s.nameOf k) x.destName (s.partNo k) (((s.tile k).task).map (·.grid)))
/-- A transfer stops at an element (R384): its fault is posted, and grants for lines not yet accessed are released; of a line
that the moved elements reached the access is over, and it is released too (log entry 32). -/
def State.stopXfer (s : State) (k i : Nat) (x : Xfer) (cause : Nat) (ak : Access) (addr detail : Nat) : State :=
  let seq := ((s.tile k).svcseq + 1) % 2 ^ 16
  let s := s.modXfer k i (fun y => { y with elems := x.elems, stopped := some seq, grants := [] })
  let s := if cause = 0x38 then s.record { unitRecord 2 1 (bf detail 16 8) addr (some (s.partNo k)) with name := s.nameOf k } else s
  postFault s k { cause := cause, akind := ak, maj := x.maj, minor := x.minor, addr := addr, pc := x.pc, detail := detail } true 4
/-- Moves the elements of a transfer in ascending order until one stops it. -/
def State.moveAll (s : State) (k i : Nat) (x : Xfer) : List XElem → State
  | [] => let s := s.modXfer k i (fun y => { y with elems := [] })
    if s.rowsOut k x then s else s.endXfer k i x
  | e :: r =>
    match s.moveElem k x e with
    | .ok s => State.moveAll s k i x r
    | .error .busy =>
      let moved := x.elems.take (x.elems.length - (r.length + 1))
      s.modXfer k i (fun y => { y with elems := e :: r, grants := s.keptGrants k y.grants moved (e :: r) })
    | .error (.fault c ak a d) => s.stopXfer k i { x with elems := e :: r } c ak a d

/-- The memory that a range of virtual addresses leads to, by walks that change nothing: keys and lengths within pages. -/
def State.spansAt (s : State) (k : Nat) : Nat → Nat → Nat → List (Nat × Nat)
  | 0, _, _ => []
  | fuel + 1, va, n =>
    if n = 0 then []
    else
      let first := min n (65536 - va % 65536)
      (((s.lineAt k va).map (fun l => [(64 * l + va % 64, first)])).getD []) ++ State.spansAt s k fuel (va + first) (n - first)
/-- The memory of one side of an element of a transfer: keys and lengths. A bin is its counter and its whole span; the remote slot
is its bytes once the transfer has opened it, and before that the tail slot of the ring that it names. -/
def State.placeSpans (s : State) (k : Nat) (x : Xfer) (p : Place) (n : Nat) : List (Nat × Nat) :=
  match p with
  | .scratch c o => [(scratchAt c o, n)]
  | .virt va =>
    match locate va n with
    | .scratch _ o => [(scratchAt k o, n)]
    | _ => s.spansAt k (pagesOf n) va n
  | .bin va capacity elen => s.spansAt k (pagesOf (16 + capacity * elen)) va (16 + capacity * elen)
  | .remoteSlot o =>
    match x.remote with
    | some (c, some q) => [(scratchAt c (((s.tile c).slot (x.remoteSlot.getD ((s.tile c).ring q).tail)).off + o), n)]
    | _ => []
  | _ => []
/-- What a transfer has still to write. -/
def State.xferSpans (s : State) (k : Nat) (x : Xfer) : List (Nat × Nat) :=
  x.elems.flatMap (fun e => s.placeSpans k x e.dst e.len)
/-- What a transfer has still to read. -/
def State.xferSources (s : State) (k : Nat) (x : Xfer) : List (Nat × Nat) :=
  x.elems.flatMap (fun e => s.placeSpans k x e.src e.len)
/-- The core's earlier accesses to the bytes of a transfer are performed before it is accepted (R127), as its addresses translate
then: its stores, and the engine instructions that reach the scratchpad bytes. -/
def xferFirst (x : Xfer) : Op Unit := do
  let s ← get
  let writes := s.xferSpans s.cur x
  let reads := s.xferSources s.cur x
  if (writes.any (fun p => s.engineHoldsKey p.1 p.2 true)) || reads.any (fun p => s.engineHoldsKey p.1 p.2 false) then waitFor .tokens
  let want := fun (y : PStore) => (writes ++ reads).any (fun p => meets y.key y.data.length p.1 p.2)
  if s.undrained s.cur want then performFirst want else pure ()
/-- An earlier transfer `x` of the task stands before a later one `y` (R127, R286): it has still to write bytes that `y` writes
or reads, or to read bytes that `y` writes. -/
def State.before (s : State) (k : Nat) (x y : Xfer) : Bool :=
  let hit := fun (a b : List (Nat × Nat)) => a.any (fun p => b.any (fun q => meets p.1 p.2 q.1 q.2))
  hit (s.xferSpans k x) (s.xferSpans k y ++ s.xferSources k y) || hit (s.xferSources k x) (s.xferSpans k y)

/-- The local slot of a DRAINR must be READY at the head of its ring, and becomes DRAINING (R269); other transfers took
their slot at issue. -/
def State.openLocal (s : State) (k : Nat) (x : Xfer) : Option State :=
  match x.slot with
  | none => some s
  | some sl =>
    let y := (s.tile k).slot sl
    if x.maj ≠ 0x2C ∨ y.state = .draining then some s
    else if y.state = .ready ∧ y.ring.map (fun q => ((s.tile k).ring q).head) = some sl then
      some (s.modTile k (fun t => t.modSlot sl (fun y => { y with state := .draining })))
    else none
/-- The tail slot of ring `q` of core `c` takes `n` bytes: FILLING (R286). `none` while it is refused. -/
def State.openRemote (s : State) (c q n : Nat) : Option (Nat × State) :=
  let r := (s.tile c).ring q
  let sl := (s.tile c).slot r.tail
  if r.len = 0 ∨ sl.state ≠ .empty ∨ sl.len < n then none else some (r.tail, s.modTile c (fun t => t.fillTail q))
/-- A transfer whose local side is open reaches its remote core: refused while the core accepts none, or while the slot
that it needs cannot be taken (R279, R286). Else its elements are moved. -/
def State.runXfer (s : State) (k i : Nat) (x : Xfer) : State :=
  match x.remote with
  | none => s.moveAll k i x x.elems
  | some (c, ring) =>
    if !s.receives c then s.refuseXfer k i
    else
      match ring, x.remoteSlot with
      | some q, none =>
        match s.openRemote c q x.bytes with
        | none => s.refuseXfer k i
        | some (sl, s) =>
          let y := { x with remoteSlot := some sl, interval := 0 }
          (s.modXfer k i (fun _ => y)).moveAll k i y x.elems
      | _, _ => (s.modXfer k i (fun y => { y with interval := 0 })).moveAll k i { x with interval := 0 } x.elems
/-- A copy engine works on transfer `i` of core `k` until it ends, is refused or stops (R286, R384). A stopped transfer and
one that writes bytes that an earlier transfer of the task has still to write stay as they are; a stale one goes nowhere
(R429). -/
def State.completeXfer (s : State) (k i : Nat) : State :=
  match (s.tile k).xfers[i]? with
  | none => s
  | some x =>
    if x.stopped.isSome || (x.remote.isSome && s.stale x.destName) || ((s.tile k).xfers.take i).any (fun y => s.before k y x) then s
    else
      match s.openLocal k x with
      | none => s
      | some s => s.runXfer k i x
/-- A SKIP reply, or the loss of a stale name, completes a transfer without its unmoved elements (R384, R429). -/
def State.skipXfer (s : State) (k i : Nat) : State :=
  match (s.tile k).xfers[i]? with
  | none => s
  | some x => s.endXfer k i x
/-- Index of the first transfer of a task that a fault's reply or a handler's return names. -/
def stoppedAt (seq : Nat) (l : List Xfer) : Option Nat := l.findIdx? (fun x => decide (x.stopped = some seq))

end Sys2Proof.Machine
end

