-- ==== Sys2Proof/Machine/Sync.lean ====
section
/-! DEFINITION. FENCE, acquire loads, release stores, AMO and CAS (R123 to R125, R233 to R235), and streams (R236,
R237). Loads are performed at issue; a release or a fence has the core's earlier stores performed. -/

namespace Sys2Proof.Machine

/-! ### FENCE, acquire, release (R233) -/

/-- Some write of a transfer of the task is still to be performed. -/
def State.xfersOut (s : State) (k : Nat) : Bool :=
  !(s.tile k).xfers.isEmpty || s.rows.any (fun r => decide (r.sender = k))
/-- A scope covers an operation whose narrowest scope is another (R116). -/
def scopeCovers (a b : Scope) : Bool := decide (b.code ≤ a.code)
/-- The narrowest scope whose tier holds a location that a place leads to; a remote slot counts at the narrowest scope that holds
both cores (R116). A place that translates to nothing counts at every scope. -/
def State.placeIn (s : State) (k : Nat) (sc : Scope) (x : Xfer) (p : Place) (n : Nat) : Bool :=
  match p with
  | .scratch c _ => scopeCovers sc (s.scopeOf k c)
  | .remoteSlot _ => scopeCovers sc (s.scopeOf k ((x.remote.map (·.1)).getD k))
  | .expert _ => scopeCovers sc .grid
  | .virt _ => (s.placeLines k p n).isEmpty || (s.placeLines k p n).any (fun l => inTier k sc (64 * l))
  | .bin _ _ _ => (s.placeLines k p n).isEmpty || (s.placeLines k p n).any (fun l => inTier k sc (64 * l))
  | _ => false
/-- A transfer of the task has still to write into the tier of a scope, or a remote slot of its instance to bring to READY, or a
stamped write to the tier to perform (R124, R133). -/
def State.xfersIn (s : State) (k : Nat) (sc : Scope) : Bool :=
  (s.tile k).xfers.any (fun x => (match x.remote with | some (c, _) => scopeCovers sc (s.scopeOf k c) | none => x.fill && x.slot.isSome) ||
    x.elems.any (fun e => s.placeIn k sc x e.dst e.len)) ||
  (scopeCovers sc .grid && (s.rows.any (fun r => decide (r.sender = k)) || s.rwrites.any (fun w => decide (w.writer = k ∧ w.xfer ≠ 0))))
/-- What a FENCE of kinds LL, LS, SL, SS, ENG, STR from bit 0 and WALK has performed (R124): earlier stores to the scope's tier for
SL, SS and WALK, appends of generators for STR. Loads are performed at issue, which is in program order. -/
def fenceDrain (kinds : BitVec 6) (w : Bool) (scope : Scope) : Drain :=
  if kinds.getLsbD 2 || kinds.getLsbD 3 || w then .stores scope
  else if kinds.getLsbD 5 then .appends scope
  else .none
/-- FENCE (R124). ENG waits for every write of the task's engine instructions and transfers into the tier, and until remote slots
are READY; the other kinds for the stores that they order. -/
def execFence (kinds : BitVec 6) (w : Bool) (scope : Scope) (sw : Bool) (s : State) : Host.Outcome State Fault Refusal :=
  let eng := kinds.getLsbD 4
  issue { metaD 0x15 0 sw [] [] with engine := eng, drain := fenceDrain kinds w scope } (do
    let s ← get
    if eng && s.xfersIn s.cur scope then waitFor .engine
    seqFlow) s
/-- An acquire load of 2^`lg` bytes (R233). -/
def acquireOp (minor lg : Nat) (d b : Fin 64) (sw : Bool) (s : State) : Host.Outcome State Fault Refusal :=
  issue { metaD 0x15 minor sw [wr b] [wr d] with sync := true } (do
    let c ← readW b
    let (x, _) ← load b 0 c c.addr (2 ^ lg) Perm.load (2 ^ lg) .load
    writeN d (leNat x)
    seqFlow) s
/-- A release store of 2^`lg` bytes (R233): every earlier access to the scope's tier has been performed when it issues (R123). -/
def releaseOp (minor lg : Nat) (t b : Fin 64) (scope : Scope) (sw : Bool) (s : State) : Host.Outcome State Fault Refusal :=
  issue { metaD 0x15 minor sw [wr t, wr b] [] with sync := true, drain := .stores scope } (do
    let x ← readN t
    let c ← readW b
    store b 0 c c.addr (leBytes (2 ^ lg) x) Perm.store (2 ^ lg) .store false
    seqFlow) s

/-- LD.AQ of 1 bytes (R233); whatever its scope, a load is performed before the next instruction issues. -/
def execLdAqB (d b : Fin 64) (_scope : Scope) (sw : Bool) (s : State) : Host.Outcome State Fault Refusal :=
  acquireOp 1 0 d b sw s
/-- LD.AQ of 2 bytes (R233). -/
def execLdAqH (d b : Fin 64) (_scope : Scope) (sw : Bool) (s : State) : Host.Outcome State Fault Refusal :=
  acquireOp 2 1 d b sw s
/-- LD.AQ of 4 bytes (R233). -/
def execLdAqW (d b : Fin 64) (_scope : Scope) (sw : Bool) (s : State) : Host.Outcome State Fault Refusal :=
  acquireOp 3 2 d b sw s
/-- LD.AQ of 8 bytes (R233). -/
def execLdAq (d b : Fin 64) (_scope : Scope) (sw : Bool) (s : State) : Host.Outcome State Fault Refusal :=
  acquireOp 4 3 d b sw s
/-- ST.RL of 1 bytes (R233). -/
def execStRlB (t b : Fin 64) (scope : Scope) (sw : Bool) (s : State) : Host.Outcome State Fault Refusal :=
  releaseOp 5 0 t b scope sw s
/-- ST.RL of 2 bytes (R233). -/
def execStRlH (t b : Fin 64) (scope : Scope) (sw : Bool) (s : State) : Host.Outcome State Fault Refusal :=
  releaseOp 6 1 t b scope sw s
/-- ST.RL of 4 bytes (R233). -/
def execStRlW (t b : Fin 64) (scope : Scope) (sw : Bool) (s : State) : Host.Outcome State Fault Refusal :=
  releaseOp 7 2 t b scope sw s
/-- ST.RL of 8 bytes (R233). -/
def execStRl (t b : Fin 64) (scope : Scope) (sw : Bool) (s : State) : Host.Outcome State Fault Refusal :=
  releaseOp 8 3 t b scope sw s

/-! ### Atomics (R125, R234, R235) -/

/-- One atomic event at the home of `n` bytes: gives the old value and writes the new one, if any; the granule's tag is
cleared (R125, R235, R105). The leaf needs W alone (R109); the core's earlier stores to the bytes come first (R121). -/
def rmwAt (reg : Nat) (a n : Nat) (f : Nat → Option Nat) : Op Nat := do
  match locate a n with
  | .unbacked => trap 0x0E .rmw a reg
  | .info _ => trap 0x0E .rmw a reg
  | .scratch _ off => do
    let k ← me
    consume (scratchAt k off) n .rmw a
    let s ← get
    let old := s.readNat (scratchAt k off) n
    match f old with
    | some x => do
      noteStore (scratchAt k off) n
      modify (fun s => s.writeNat (scratchAt k off) n x)
    | none => pure ()
    pure old
  | _ => do
    let p ← translate false a needW .rmw 0
    performOver p.key n
    let s ← get
    if s.owned s.cur noXfer p.key n then waitFor .line
    set (s.mend s.cur 56 p.key n p.repl)
    consume p.key n .rmw a
    noteStore p.key n
    let s ← get
    let s := if p.repl then s.settleWrites else s
    let old := s.readNat p.key n
    match f old with
    | some x =>
      if p.repl then set ((s.stampWrite s.cur p.key (leBytes n x) false).settleWrites)
      else set ((s.hostTake p.key n).performAt p.key (leBytes n x) false)
    | none => set s
    pure old
/-- What an atomic's ordering option has performed first (R125): a release the earlier stores to the scope's tier. -/
def orderDrain (o : AmoOrd) (scope : Scope) : Drain :=
  match o with
  | .release => .stores scope
  | .acqRel => .stores scope
  | _ => .none
/-- AMO (R234): `f` gives the new value from the old value and the operand, both of 8n bits. -/
def amoOp (minor : Nat) (d b : Fin 64) (z : Bool) (scope : Scope) (ord : AmoOrd) (sw : Bool)
    (f : (w : Nat) → BitVec w → BitVec w → BitVec w) (s : State) : Host.Outcome State Fault Refusal :=
  issue { metaD 0x16 minor sw [wr d, wr b] [wr d] with sync := true, drain := orderDrain ord scope } (do
    let n := if z then 8 else 4
    let x ← readN d
    let c ← readW b
    checkCap b 0 c c.addr n (Perm.load + Perm.store) n .rmw
    let old ← rmwAt b c.addr n (fun o => some (f (8 * n) (BitVec.ofNat _ o) (BitVec.ofNat _ x)).toNat)
    writeN d old
    seqFlow) s

/-- AMO.ADD (R234). -/
def execAmoAdd (d b : Fin 64) (z : Bool) (scope : Scope) (ord : AmoOrd) (sw : Bool) (s : State) :
    Host.Outcome State Fault Refusal :=
  amoOp 0 d b z scope ord sw (fun _ o x => o + x) s
/-- AMO.AND (R234). -/
def execAmoAnd (d b : Fin 64) (z : Bool) (scope : Scope) (ord : AmoOrd) (sw : Bool) (s : State) :
    Host.Outcome State Fault Refusal :=
  amoOp 1 d b z scope ord sw (fun _ o x => o &&& x) s
/-- AMO.OR (R234). -/
def execAmoOr (d b : Fin 64) (z : Bool) (scope : Scope) (ord : AmoOrd) (sw : Bool) (s : State) :
    Host.Outcome State Fault Refusal :=
  amoOp 2 d b z scope ord sw (fun _ o x => o ||| x) s
/-- AMO.XOR (R234). -/
def execAmoXor (d b : Fin 64) (z : Bool) (scope : Scope) (ord : AmoOrd) (sw : Bool) (s : State) :
    Host.Outcome State Fault Refusal :=
  amoOp 3 d b z scope ord sw (fun _ o x => o ^^^ x) s
/-- AMO.MIN (R234). -/
def execAmoMin (d b : Fin 64) (z : Bool) (scope : Scope) (ord : AmoOrd) (sw : Bool) (s : State) :
    Host.Outcome State Fault Refusal :=
  amoOp 4 d b z scope ord sw (fun _ o x => if x.slt o then x else o) s
/-- AMO.MAX (R234). -/
def execAmoMax (d b : Fin 64) (z : Bool) (scope : Scope) (ord : AmoOrd) (sw : Bool) (s : State) :
    Host.Outcome State Fault Refusal :=
  amoOp 5 d b z scope ord sw (fun _ o x => if o.slt x then x else o) s
/-- AMO.MINU (R234). -/
def execAmoMinu (d b : Fin 64) (z : Bool) (scope : Scope) (ord : AmoOrd) (sw : Bool) (s : State) :
    Host.Outcome State Fault Refusal :=
  amoOp 6 d b z scope ord sw (fun _ o x => if x.ult o then x else o) s
/-- AMO.MAXU (R234). -/
def execAmoMaxu (d b : Fin 64) (z : Bool) (scope : Scope) (ord : AmoOrd) (sw : Bool) (s : State) :
    Host.Outcome State Fault Refusal :=
  amoOp 7 d b z scope ord sw (fun _ o x => if o.ult x then x else o) s
/-- AMO.SWAP (R234). -/
def execAmoSwap (d b : Fin 64) (z : Bool) (scope : Scope) (ord : AmoOrd) (sw : Bool) (s : State) :
    Host.Outcome State Fault Refusal :=
  amoOp 8 d b z scope ord sw (fun _ _ x => x) s
/-- CAS (R235): writes wn where the 8 bytes equal wd, and gives the old value either way. -/
def execCas (d b n : Fin 64) (scope : Scope) (ord : AmoOrd) (sw : Bool) (s : State) : Host.Outcome State Fault Refusal :=
  issue { metaD 0x17 0 sw [wr d, wr b, wr n] [wr d] with sync := true, drain := orderDrain ord scope } (do
    let x ← readN d
    let c ← readW b
    let y ← readN n
    checkCap b 0 c c.addr 8 (Perm.load + Perm.store) 8 .rmw
    let old ← rmwAt b c.addr 8 (fun o => if o = x then some y else none)
    writeN d old
    seqFlow) s

/-! ### Streams (R236, R237) -/

/-- Releases generators: they are bound to nothing (R237). -/
def Tile.unbind (t : Tile) (which : Nat → Stream → Bool) : Tile :=
  let u := { t with ag := Vector.ofFn (fun (i : Fin 8) => if which i.val t.ag[i] then { t.ag[i] with reg := 0 } else t.ag[i]) }
  if u.readsAhead then u else { u with undo := [] }
/-- SBIND (R236). -/
def execSbind (n d : Fin 64) (sw : Bool) (s : State) : Host.Outcome State Fault Refusal :=
  issue { metaD 0x15 16 sw [wr d] [] with sync := true } (do
    require (decide (48 ≤ n.val)) (limitField n 9)
    let c ← readW d
    let (b, g) ← readBlock d c 64 Perm.load 64 .load
    let ctl := blockNat b 40 1
    fieldOk d 326 (decide (ctl / 64 = 0))
    fieldOk d 328 (decide (blockNat b 41 23 = 0))
    let cap := blockCap b 0 g c
    let dir := decide (ctl / 8 % 2 = 1)
    let ak := if dir then Access.engineWrite else Access.engineRead
    let src := d.val + 3 * 2 ^ 16
    require cap.tag (trap 0x08 ak cap.addr src)
    require (decide (cap.otype = 0)) (trap 0x09 ak cap.addr src)
    require (cap.has (Perm.engine + (if dir then Perm.store else Perm.load))) (trap 0x0A ak cap.addr src)
    modT (fun t =>
      let t := t.unbind (fun i g => decide (i = ctl % 8) || decide (g.reg = n.val))
      let g : Stream :=
          { cap := cap, dir := dir, esize := ctl / 16 % 4, cnt0 := blockNat b 16 4, cnt1 := blockNat b 20 4,
            cnt2 := blockNat b 24 4, str1 := sext (blockNat b 28 6) 48, str2 := sext (blockNat b 34 6) 48, pos := 0,
            reg := n.val, born := t.undo.length }
      { t with ag := t.ag.setIfInBounds (ctl % 8) g })
    seqFlow) s
/-- SUNBIND (R237): every append of the generator has been performed when it completes. -/
def execSunbind (n : Fin 64) (sw : Bool) (s : State) : Host.Outcome State Fault Refusal :=
  issue (metaD 0x15 17 sw [] []) (do
    let t ← getT
    match t.bound n with
    | some (g, _) => performFirst (fun x => decide (x.append = some g))
    | none => pure ()
    modT (fun t => t.unbind (fun _ g => decide (g.reg = n.val) && decide (48 ≤ n.val)))
    seqFlow) s
/-- SSTAT's word (R237). -/
def streamWord (g : Stream) : Nat :=
  g.pos % 2 ^ 48 + g.reg % 64 * 2 ^ 56 + bit (decide (g.reg ≠ 0)) * 2 ^ 62 +
    bit (decide (g.reg ≠ 0 ∧ g.total ≤ g.pos)) * 2 ^ 63
/-- SSTAT (R237). -/
def execSstat (d : Fin 64) (k : Fin 8) (sw : Bool) (s : State) : Host.Outcome State Fault Refusal :=
  issue (metaD 0x15 18 sw [] [wr d]) (do
    let t ← getT
    writeN d (streamWord t.ag[k])
    seqFlow) s

end Sys2Proof.Machine
end

