-- ==== Sys2Proof/Machine/Barrier.lean ====
section
/-! DEFINITION. Barriers (R44, R133, R282, R360) and collective reduction (R94 to R96, R289, R290, R361). -/

namespace Sys2Proof.Machine

/-! ### Barriers -/

/-- The reduction of two contributions (R44). -/
def Red.join (r : Red) (a b : Word) : Word :=
  match r with
  | .none => 0
  | .add => a + b
  | .min => if b.slt a then b else a
  | .max => if a.slt b then b else a
/-- The identity of a reduction (R44). -/
def Red.identity : Red → Word
  | .none => 0
  | .add => 0
  | .min => 0x7FFFFFFFFFFFFFFF
  | .max => 0x8000000000000000
/-- The reduced value of an episode (R44, R282). -/
def Barrier.value (b : Barrier) : Word :=
  let r := b.red.getD .none
  b.arrived.foldl (fun a x => Red.join r a x.2) (Red.identity r)
/-- The global ranks that must arrive have arrived or exited (R44). -/
def Barrier.full (g : Grid) (b : Barrier) : Bool :=
  !b.arrived.isEmpty && (instRanks g b.scope b.inst).all (fun r => b.arrived.any (fun x => decide (x.1 = r)) || g.exited.contains r)
/-- An episode with every arrival completes: each arrived task is DONE with the value (R282). -/
def Barrier.settle (g : Grid) (b : Barrier) : Barrier :=
  if b.full g then { b with red := none, arrived := [], done := b.done ++ b.arrived.map (fun x => (x.1, b.value)) } else b
/-- Every barrier of a grid completes that can, as after an EXIT. -/
def Grid.settleBars (g : Grid) : Grid := { g with bars := g.bars.map (Barrier.settle g) }
/-- The barrier of an instance and identifier; unused ones are IDLE for every task. -/
def Grid.bar (g : Grid) (sc : Scope) (inst id : Nat) : Barrier :=
  (g.bars.find? (fun b => decide (b.scope = sc ∧ b.inst = inst ∧ b.id = id))).getD ⟨sc, inst, id, none, [], []⟩
/-- Replaces a barrier. -/
def Grid.setBar (g : Grid) (b : Barrier) : Grid :=
  let others := g.bars.filter (fun x => !decide (x.scope = b.scope ∧ x.inst = b.inst ∧ x.id = b.id))
  { g with bars := if b.arrived.isEmpty && b.done.isEmpty then others else others ++ [b] }
/-- The task of a global rank stands in a list of tasks. -/
def hasRank (l : List (Nat × Word)) (r : Nat) : Bool := l.any (fun x => decide (x.1 = r))
/-- A task arrives (R282): a latched value is dropped, the first arrival fixes the reduction, the last completes the
episode. -/
def Grid.arrive (g : Grid) (b : Barrier) (rank : Nat) (red : Red) (x : Word) : Grid :=
  g.setBar (Barrier.settle g { b with red := some red, arrived := b.arrived ++ [(rank, x)], done := b.done.filter (fun y => decide (y.1 ≠ rank)) })
/-- An arrival is withdrawn (R55, R353). -/
def Grid.withdraw (g : Grid) (sc : Scope) (inst id rank : Nat) : Grid :=
  let b := g.bar sc inst id
  let l := b.arrived.filter (fun y => decide (y.1 ≠ rank))
  g.setBar { b with arrived := l, red := if l.isEmpty then none else b.red }

/-- The three instructions on a barrier. -/
inductive BarKind where
  | bar | barw | sstep
  deriving DecidableEq, Repr
/-- XC[1:0] (R277). -/
def BarKind.code : BarKind → Nat
  | .bar => 0 | .barw => 1 | .sstep => 2

/-- Takes the latched value of a task that is DONE: IDLE (R282). -/
def takeLatched (g : Grid) (gid : Nat) (b : Barrier) (rank : Nat) (d : Fin 64) : Op Flow := do
  let x := ((b.done.find? (fun y => decide (y.1 = rank))).map (·.2)).getD 0
  modify (fun s => s.modGrid gid (fun _ => g.setBar { b with done := b.done.filter (fun y => decide (y.1 ≠ rank)) }))
  writeX d x
  seqFlow
/-- Arrives once every transfer of the task into the scope's tier has landed (R133), and goes on as the instruction says: SSTEP
completes, BARW waits for the episode, BAR has its run wait for it at the run's S instruction. -/
def arriveOp (kind : BarKind) (d v : Fin 64) (id : Nat) (scope : Scope) (red : Red) (gid : Nat) (g : Grid) (r : TaskRef) : Op Flow := do
  let rank := grankOf g r
  let b := g.bar scope (instOf g scope r) id
  let x ← readX v
  require (b.arrived.isEmpty || decide (b.red = some red)) (trap 0x26 .none 0 (3 * 2 ^ 16))
  let s ← get
  if s.xfersIn s.cur scope then
    if kind = .sstep then waitFor .engine else waitFor (.barrier scope id false (decide (kind = .barw)))
  let g' := g.arrive b rank red x
  set (s.modGrid gid (fun _ => g'))
  if kind = .sstep then do
    writeN d 0
    seqFlow
  else do
    let b' := g'.bar scope (instOf g scope r) id
    if hasRank b'.done rank then takeLatched g' gid b' rank d
    else if kind = .barw then throw (.wait (.barrier scope id true true) true)
    else do
      modT (fun t => { t with due := t.due ++ [⟨scope, instOf g scope r, id, d, t.pc⟩] })
      seqFlow
/-- A barrier instruction by the task's state at the identifier (R282, R360). -/
def barrierBody (kind : BarKind) (d v : Fin 64) (id : Nat) (scope : Scope) (red : Red) (gid : Nat) (g : Grid) (r : TaskRef) : Op Flow := do
  let t ← getT
  let rank := grankOf g r
  let b := g.bar scope (instOf g scope r) id
  let here := decide (kind = .barw ∧ t.wait.map (·.on) = some (.barrier scope id true true))
  if hasRank b.arrived rank then
    if here then waitFor (.barrier scope id true true)
    else if kind = .barw then waitFor (.barrier scope id false true)
    else trap 0x26 .none 0 (2 * 2 ^ 16)
  else if hasRank b.done rank && (here || decide (kind = .barw)) then takeLatched g gid b rank d
  else arriveOp kind d v id scope red gid g r
/-- BAR, BARW and SSTEP (R282). -/
def barrierOp (kind : BarKind) (d v : Fin 64) (id : Nat) (scope : Scope) (red : Red) (sw : Bool) (s : State) :
    Host.Outcome State Fault Refusal :=
  issue { metaD 0x35 kind.code sw [wr v] [wr d] with mustS := decide (kind = .barw), engine := true, drain := .stores scope } (do
    let s ← get
    match (s.tile s.cur).task, s.gridOf s.cur with
    | some r, some g => barrierBody kind d v id scope red r.grid g r
    | _, _ => waitFor (.barrier scope id false (decide (kind = .barw)))) s

/-- The value that a BAR of core `k` waits for at its run's end, once its episode has completed. -/
def State.dueValue (s : State) (k : Nat) (d : Due) : Option Word :=
  match (s.tile k).task, s.gridOf k with
  | some r, some g => ((g.bar d.scope d.inst d.id).done.find? (fun y => decide (y.1 = grankOf g r))).map (·.2)
  | _, _ => none
/-- A parked run waits for the episode of some BAR (R282). -/
def State.dueWaiting (s : State) (k : Nat) : Bool := (s.tile k).parked && (s.tile k).due.any (fun d => (s.dueValue k d).isNone)
/-- A BAR's value goes to its register, and the task is IDLE at its barrier. -/
def State.takeDue (s : State) (k : Nat) (d : Due) (x : Word) : EStateM.Result Exn State Unit :=
  match (s.tile k).task, s.gridOf k with
  | some r, some g =>
    let b := g.bar d.scope d.inst d.id
    let u := s.modGrid r.grid (fun _ => g.setBar { b with done := b.done.filter (fun y => decide (y.1 ≠ grankOf g r)) })
    match writeX d.wd x { u with cur := k } with
    | .ok _ t => .ok () { t with cur := s.cur }
    | .error e t => .error e { t with cur := s.cur }
  | _, _ => .ok () s
/-- A BAR whose register cannot take its value is trapped or faulted at its own place. -/
def State.dueFails (s : State) (k : Nat) (d : Due) (e : Exn) : State :=
  let u := s.modTile k (fun t => { t with pc := d.pc })
  let report := fun (c : Nat) (ak : Access) (a x : Nat) =>
    ({ cause := c, akind := ak, maj := 0x35, minor := 0, addr := a, pc := d.pc.addr, detail := x } : TrapReport)
  match e with
  | .trap c ak a x _ => takeTrap u k (report c ak a x) 4
  | .post c ak a x _ => postFault u k (report c ak a x) false 4
  | _ => s
/-- A parked run is released (R195, R282): the values of its BARs are written, and the next run may begin. -/
def State.releaseRun (k : Nat) : List Due → State → State
  | [], s => s.modTile k (fun t => { t with parked := false, pend := [], due := [], wait := none })
  | d :: l, s =>
    match s.dueValue k d with
    | none => s
    | some x => match s.takeDue k d x with
      | .ok _ t => State.releaseRun k l t
      | .error e _ => s.dueFails k d e
/-- A run that waits for its BARs is given up at the first whose episode is open, which becomes the resume point: the arrivals from
there on are withdrawn, and the values of the BARs before it are taken (R55, R353). -/
def State.leaveDue (k : Nat) : List Due → State → State
  | [], s => s
  | d :: l, s =>
    match s.dueValue k d with
    | some x => match s.takeDue k d x with
      | .ok _ t => State.leaveDue k l t
      | .error _ _ => State.leaveDue k l s
    | none =>
      let s := match (s.tile k).task, s.gridOf k with
        | some r, some g => (d :: l).foldl (fun (s : State) (d : Due) => s.modGrid r.grid (fun x => x.withdraw d.scope d.inst d.id (grankOf g r))) s
        | _, _ => s
      s.modTile k (fun t => { t with pc := d.pc, due := [], pend := [], parked := false })

/-- BAR (R282). -/
def execBar (d v : Fin 64) (i : Fin 16) (scope : Scope) (red : Red) (sw : Bool) (s : State) : Host.Outcome State Fault Refusal :=
  barrierOp .bar d v i scope red sw s
/-- BARW (R282). -/
def execBarw (d v : Fin 64) (i : Fin 16) (scope : Scope) (red : Red) (sw : Bool) (s : State) : Host.Outcome State Fault Refusal :=
  barrierOp .barw d v i scope red sw s
/-- SSTEP (R282). -/
def execSstep (d v : Fin 64) (i : Fin 16) (scope : Scope) (red : Red) (sw : Bool) (s : State) : Host.Outcome State Fault Refusal :=
  barrierOp .sstep d v i scope red sw s

/-! ### Collective arithmetic (R94 to R96, R289) -/

/-- Windows that CRED takes (R289). -/
def credWindow (w : Nat) : Bool := [0, 3, 4, 7, 8, 9, 10, 11, 14, 15].contains w
/-- Bytes of `n` elements: W0 holds 64-bit integers. -/
def credBytes (w n : Nat) : Nat := if w = 0 then 8 * n else if w = 15 then 16 * n else winBytes w n
/-- Bits of element `i` of an array. -/
def credCode (w : Nat) (b : List Byte) (i : Nat) : Nat :=
  if w = 8 then
    let x := blockNat b (i / 2) 1
    if i % 2 = 0 then x % 16 else x / 16
  else if w = 15 then blockNat b (16 * i) 10
  else blockNat b (credBytes w i) (credBytes w 1)
/-- The exact value of an element, MX scale included: one scale byte stands beside each element. -/
def credValue (w : Nat) (b scales : List Byte) (i : Nat) : Ext :=
  if w = 15 then decodeFloat fa80 (credCode w b i)
  else if isMx w then
    let sc := blockNat scales i 1
    if sc = 0xFF then .nan else (decodeWin (fun _ => 0) w (credCode w b i)).scale ((sc : Int) - 127)
  else decodeWin (fun _ => 0) w (credCode w b i)
/-- One rounded addition: to the element format, or to FA80 for W15 and where MX values are carried (R95, R289). -/
def credAdd (w : Nat) (a b : Ext) : Ext :=
  let x := sum2 .rne a b
  if w = 15 ∨ isMx w then decodeFA (roundFA .rne x)
  else decodeWin (fun _ => 0) w (encodeWin (fun _ => 0) w .rne false x).1
/-- One level of CanonSum's tree (R95). -/
def canonLevel (f : Ext → Ext → Ext) : List Ext → List Ext
  | a :: b :: r => f a b :: canonLevel f r
  | l => l
/-- CanonSum (R95); `fuel` bounds the levels. -/
def canonSum (f : Ext → Ext → Ext) : Nat → List Ext → Ext
  | fuel + 1, a :: b :: r => canonSum f fuel (canonLevel f (a :: b :: r))
  | _, a :: _ => a
  | _, [] => .num true 0 0
/-- Sums in some order and grouping: a number below the participants' is a value, anything else joins the two latest sums; what is
left over at the end is joined too, so that a plain order of arrival adds from the left. -/
def mergeSums (f : Ext → Ext → Ext) (l : List Ext) : List Nat → List Ext → Ext
  | [], st => match st.reverse with
    | [] => .num true 0 0
    | a :: r => r.foldl f a
  | n :: ns, st =>
    if n < l.length then mergeSums f l ns (l.getD n (.num true 0 0) :: st)
    else match st with
      | a :: b :: r => mergeSums f l ns (f b a :: r)
      | _ => mergeSums f l ns st
/-- The sum of an element's values, in rank order, by the order of ORD; FAST adds them where they meet in the routers (R94 to R96). -/
def credSum (ord : CredOrd) (w : Nat) (arrival : List Nat) (l : List Ext) : Ext :=
  match ord with
  | .canon => canonSum (credAdd w) l.length l
  | .fast => mergeSums (credAdd w) l arrival []
  | .exact => match l with
    | [] => .num true 0 0
    | a :: r => sumExt a (r.map (fun x => (x, .num false 1 0, 0))) .rne
/-- The bytes of float results. -/
def credFloats (w : Nat) (l : List Ext) : List Byte :=
  if w = 15 then l.flatMap (fun x => leBytes 16 (roundFA .rne x).toNat)
  else packElems w (l.map (fun x => (encodeWin (fun _ => 0) w .rne false x).1))
/-- The blocks of MX results: bytes and scale bytes (R85). -/
def credBlocks (w : Nat) : Nat → List Ext → List Byte × List Byte
  | 0, _ => ([], [])
  | n + 1, l =>
    let v := l.take 32
    let sc := mxScale w v
    let (b, s) := credBlocks w n (l.drop 32)
    (packElems w ((mxEncode (fun _ => 0) w .rne sc v).map (·.1)) ++ b, BitVec.ofNat 8 sc :: s)
/-- The result of a collective: its bytes and, for an MX window, its scale bytes. The participants stand in rank order; an
exited one contributes −0, or 0 for integers (R290). -/
def credResult (ord : CredOrd) (w count : Nat) (arrival : List Nat) (parts : List (Option CollPart)) : List Byte × List Byte :=
  let size := credBytes w 1
  if w = 0 ∨ w = 14 then
    ((List.range count).flatMap (fun i =>
      leBytes size ((parts.map (fun p => match p with | none => 0 | some p => credCode w p.data i)).sum % 2 ^ (8 * size))), [])
  else
    let sums := (List.range count).map (fun i =>
      credSum ord w arrival (parts.map (fun p => match p with | none => .num true 0 0 | some p => credValue w p.data p.scales i)))
    if isMx w then credBlocks w (count / 32) sums else (credFloats w sums, [])

/-! ### CRED (R289, R290, R361) -/

/-- The task's count of collectives at a scope (R290). -/
def credCount (c : Nat × Nat × Nat) (sc : Scope) : Nat :=
  match sc with
  | .team => c.1
  | .band => c.2.1
  | _ => c.2.2
/-- Advances the count. -/
def credNext (c : Nat × Nat × Nat) (sc : Scope) : Nat × Nat × Nat :=
  match sc with
  | .team => (c.1 + 1, c.2.1, c.2.2)
  | .band => (c.1, c.2.1 + 1, c.2.2)
  | _ => (c.1, c.2.1, c.2.2 + 1)
/-- A collective is the one of a grid's instance and number. -/
def Coll.isAt (c : Coll) (gid : Nat) (sc : Scope) (inst k : Nat) : Bool :=
  decide (c.grid = gid ∧ c.scope = sc ∧ c.inst = inst ∧ c.k = k)
/-- A participant has taken its result: a collective that owes nobody a result is gone. -/
def takeColl (l : List Coll) (which : Coll → Bool) (rank : Nat) : List Coll :=
  (l.map (fun c => if which c then { c with takers := c.takers.filter (· ≠ rank) } else c)).filter (fun c =>
    !(which c && c.result.isSome && c.takers.isEmpty))
/-- A join is withdrawn (R55, R353), unless the result exists. -/
def dropJoin (l : List Coll) (which : Coll → Bool) (rank : Nat) : List Coll :=
  (l.map (fun c => if which c && c.result.isNone then { c with parts := c.parts.filter (fun p => decide (p.grank ≠ rank)) } else c)).filter
    (fun c => !(which c && c.result.isNone && c.parts.isEmpty))
/-- The block's fields, in ascending order (R368, R377), and the scale planes of MX windows (R376). -/
def credChecks (b : Fin 64) (x : Nat) : Op Unit := do
  let soff := bf x 0 32
  let doff := bf x 32 32
  let count := bf x 64 32
  let win := bf x 96 4
  let ctr := bf x 128 32
  fieldOk b 0 (decide (soff + credBytes win count ≤ Config.scratchBytes))
  fieldOk b 32 (decide (doff + credBytes win count ≤ Config.scratchBytes))
  fieldOk b 64 (decide (1 ≤ count ∧ count ≤ 65536) && (!isMx win || decide (count % 32 = 0)))
  require (credWindow win) (windowTrap b win)
  zeroField b x 100 104
  zeroField b x 104 128
  fieldOk b 128 (decide (ctr = 0xFFFFFFFF ∨ (ctr % 4 = 0 ∧ ctr + 4 ≤ Config.scratchBytes)))
  zeroField b x 160 256
  scalesOk b win soff count
  scalesOk b win doff count
/-- This participant's part, its source bytes read now (R290), with the scale byte of each element (R81). -/
def credPart (rank x : Nat) : Op CollPart := do
  let k ← me
  let t ← getT
  let soff := bf x 0 32
  let count := bf x 64 32
  let win := bf x 96 4
  let ctr := bf x 128 32
  engineConsume (scratchAt k soff) (credBytes win count) (Config.localBase + soff)
  let s ← get
  let scales := if isMx win then (List.range count).map (fun i => Memory.get s.mem (scratchAt k (scaleOff (t.soff win) win soff i))) else []
  pure { grank := rank, core := k, data := s.readAt (scratchAt k soff) (credBytes win count), scales := scales,
         doff := bf x 32 32, ctr := if ctr = 0xFFFFFFFF then none else some ctr }
/-- Joins a collective that the task has not joined; the first to join fixes ORD, COUNT and WIN (R361). -/
def credJoin (b : Fin 64) (sc : Scope) (ord : CredOrd) (gid inst k rank : Nat) : Op Flow := do
  let c ← readW b
  let (bytes, _) ← readBlock b c 32 Perm.load 16 .load
  let x := leNat bytes
  credChecks b x
  let s ← get
  let fresh : Coll := { grid := gid, scope := sc, inst := inst, k := k, ord := ord, count := bf x 64 32, win := bf x 96 4,
                        parts := [], result := none, takers := [] }
  let old := (s.colls.find? (fun q => q.isAt gid sc inst k)).getD fresh
  require (decide (old.ord = ord ∧ old.count = bf x 64 32 ∧ old.win = bf x 96 4)) (trap 0x26 .none 0 (4 * 2 ^ 16))
  let p ← credPart rank x
  modify (fun s => { s with colls := s.colls.filter (fun q => !q.isAt gid sc inst k) ++ [{ old with parts := old.parts ++ [p] }] })
  throw (.wait (.cred sc k) true)
/-- CRED (R289): joins the instance's next collective and completes once its result has been written here. -/
def execCred (b : Fin 64) (scope : Scope) (ord : CredOrd) (sw : Bool) (s : State) : Host.Outcome State Fault Refusal :=
  issue { metaD 0x38 1 sw [wr b] [] with sync := true } (do
    let s ← get
    match (s.tile s.cur).task, s.gridOf s.cur with
    | some r, some g =>
      let inst := instOf g scope r
      let k := credCount (s.tile s.cur).creds scope
      let rank := grankOf g r
      match s.colls.find? (fun q => q.isAt r.grid scope inst k) with
      | some q =>
        if q.takers.contains rank then do
          modify (fun s => { s with colls := takeColl s.colls (fun q => q.isAt r.grid scope inst k) rank })
          modT (fun t => { t with creds := credNext t.creds scope })
          seqFlow
        else if q.parts.any (fun p => decide (p.grank = rank)) then waitFor (.cred scope k)
        else credJoin b scope ord r.grid inst k rank
      | none => credJoin b scope ord r.grid inst k rank
    | _, _ => waitFor (.cred scope 0)) s
/-- A collective's result is written at each participant, and its counter incremented (R290). -/
def State.finishColl (s : State) (c : Coll) (res : List Byte × List Byte) : State :=
  let s := { s with colls := s.colls.map (fun q => if q.isAt c.grid c.scope c.inst c.k then
    { q with result := some res, takers := c.parts.map (·.grank) } else q) }
  c.parts.foldl (fun (s : State) p =>
    let s := s.writeKey (scratchAt p.core p.doff) res.1 false
    let s := if isMx c.win then s.writeKey (scratchAt p.core (scaleOff ((s.tile p.core).soff c.win) c.win p.doff 0)) res.2 false else s
    s.bump? (p.ctr.map (fun o => (p.core, o)))) s

end Sys2Proof.Machine
end

