-- ==== Sys2Proof/Machine/Chord.lean ====
section
/-! DEFINITION. Chords (R151 to R162) and consorts (R163 to R167): COMPOSE, DECOMPOSE, GANG and JOIN (R295, R296, R378),
and the events of runs in them. A chord shows every value, fault and order that one core shows (R156): its runs execute on
the anchor's state, and what stays open until the commit is when its stores are performed (R155). A member shows only in the TLBs
that its fetches and its queue use (Chord.runMember, Chord.queueMember, Chord.home). -/

namespace Sys2Proof.Machine

/-- COMPOSE_MISUSE (R378). -/
def misuse {α : Type} (reason : Nat) : Op α := trap 0x24 .none 0 (reason * 2 ^ 16)

/-! ### Chords -/

/-- Width and height of a shape (R295). -/
def shapeOf (n : Nat) : Nat × Nat :=
  match n with
  | 0 => (1, 2) | 1 => (2, 1) | 2 => (2, 2) | 3 => (2, 4) | 4 => (4, 2) | _ => (4, 4)
/-- The cores of a rectangle of a cluster, row-major; none when it leaves the mesh (R11, R151). -/
def rectCores (cluster x0 y0 shape : Nat) : List Nat :=
  let (w, h) := shapeOf shape
  if x0 + w ≤ 4 ∧ y0 + h ≤ 4 then
    (List.range h).flatMap (fun dy => (List.range w).map (fun dx => 16 * cluster + 4 * (y0 + dy) + x0 + dx))
  else []
/-- A core that a chord may take as a member: live, without a task, in no chord (R151). -/
def State.idle (s : State) (k : Nat) : Bool := s.live k && (s.tile k).task.isNone && (s.tile k).memberOf.isNone
/-- A rectangle is eligible for an anchor (R151). -/
def State.eligible (s : State) (k : Nat) (rect : List Nat) : Bool := rect.contains k && rect.all (fun c => decide (c = k) || s.idle c)
/-- Members in order: position p is member (p − pa) mod m (R151). -/
def memberOrder (k : Nat) (rect : List Nat) : List Nat :=
  let pa := rect.findIdx (· = k)
  rect.drop pa ++ rect.take pa
/-- A chord forms over an eligible rectangle (R151, R152). -/
def State.formChord (s : State) (k x0 y0 shape : Nat) (rect : List Nat) : State :=
  let members := memberOrder k rect
  let s := { s with gated := s.gated.filter (fun c => !members.contains c) }
  let s := (members.filter (· ≠ k)).foldl (fun (s : State) c => s.modTile c (fun t => { t with memberOf := some k, drowsy := [] })) s
  s.modTile k (fun t => { t with chord := some ⟨x0, y0, shape, members⟩, composed := true, runs := 0, commits := 0 })
/-- The members of a core's chord become idle, and its runs have committed (R158, R399). -/
def State.dropChord (s : State) (k : Nat) : State :=
  match (s.tile k).chord with
  | none => s
  | some c =>
    let s := (c.members.filter (· ≠ k)).foldl (fun (s : State) m => s.modTile m (fun t => { t with memberOf := none })) s
    s.modTile k (fun t => { t.commitRuns with chord := none, runs := 0, commits := 0 })
/-- COMPOSE (R151, R295). -/
def execCompose (d r : Fin 64) (sw : Bool) (s : State) : Host.Outcome State Fault Refusal :=
  issue { metaD 0x3B 0 sw [wr r] [wr d] with mustS := true } (do
    let x ← readN r
    fieldOk r 4 (decide (bf x 4 3 ≤ 5))
    zeroField r x 7 64
    let t ← getT
    require (!t.composed) (misuse 1)
    require t.consort.isNone (misuse 2)
    require (!t.handler) (misuse 3)
    let s ← get
    let rect := rectCores (clusterOf s.cur) (bf x 0 2) (bf x 2 2) (bf x 4 3)
    if s.eligible s.cur rect then do
      set (s.formChord s.cur (bf x 0 2) (bf x 2 2) (bf x 4 3) rect)
      writeN d rect.length
      seqFlow
    else do
      writeN d 1
      seqFlow) s
/-- DECOMPOSE (R158). -/
def execDecompose (sw : Bool) (s : State) : Host.Outcome State Fault Refusal :=
  issue { metaD 0x3B 1 sw [] [] with mustS := true } (do
    let t ← getT
    require (!t.handler) (misuse 3)
    let k ← me
    modify (fun s => s.dropChord k)
    modT (fun t => { t with composed := false })
    seqFlow) s
/-- The oldest run of a chord that has not committed can commit: it has ended, and the results that it parks for are written
(R156). -/
def Tile.canCommit (t : Tile) : Bool := t.chord.isSome && decide (t.commits < t.runs) && !(t.parked && decide (t.commits + 1 = t.runs))
/-- The oldest run of a chord commits: its stores may be performed (R155, R156). -/
def Tile.commitRun (t : Tile) : Tile :=
  { t with commits := t.commits + 1, stores := t.stores.map (fun x => { x with committed := x.committed || decide (x.run ≤ t.commits) }) }
/-- CHORD_RUN_COMMIT (R156): the chord's oldest run commits. -/
def execChordRunCommit (core : Nat) (s : State) : Host.Outcome State Fault Refusal :=
  .next (if (s.tile core).canCommit then s.modTile core Tile.commitRun else s)

/-! ### Consorts -/

/-- Band-local rank (R163). -/
def bandRank (g : Grid) (r : TaskRef) : Nat := r.team * g.tasks + r.rank
/-- The core of a band-local rank of a task's band, if the task is placed and has not exited. -/
def State.bandCore (s : State) (g : Grid) (r : TaskRef) (n : Nat) : Option Nat :=
  let rank := r.band * (g.teams * g.tasks) + n
  if n < g.teams * g.tasks ∧ ¬ g.exited.contains rank then
    let k := coreOfRank g rank
    if (s.tile k).task.map (·.grid) = some r.grid then some k else none
  else none
/-- The word of the GANG at which a core waits, with an address (R163). -/
def State.gangWord (s : State) (addr k : Nat) : Option Nat :=
  match (s.tile k).wait with
  | some ⟨.gang a w _ _, _, _, _, _⟩ => if a = addr ∧ (s.tile k).consort.isNone then some w.toNat else none
  | _ => none
/-- LEADER of a GANG word. -/
def gangLeads (x : Nat) : Bool := decide (bf x 8 1 = 1)
/-- Band-local ranks of a leader's followers. -/
def gangRange (x : Nat) : List Nat := (List.range (bf x 32 16 - bf x 16 16)).map (· + bf x 16 16)
/-- A core's GANG word names a leader's rank with a key (R163). -/
def followsWith (key leader : Nat) (x : Nat) : Bool := !gangLeads x && decide (bf x 0 8 = key ∧ bf x 16 16 = leader)
/-- The cores of a consort that forms when core `k` arrives with word `x` at an address: the leader first. -/
def State.gangMatch (s : State) (k : Nat) (g : Grid) (r : TaskRef) (addr x : Nat) : Option (List Nat) :=
  let word := fun (c : Nat) => if c = k then some x else s.gangWord addr c
  let lead := if gangLeads x then some k else s.bandCore g r (bf x 16 16)
  match lead with
  | none => none
  | some l =>
    match word l, (s.tile l).task with
    | some lx, some lr =>
      if !gangLeads lx || decide (bf lx 0 8 ≠ bf x 0 8) then none
      else
        let cores := (gangRange lx).map (fun n => s.bandCore g lr n)
        let good := cores.all (fun c => match c with
          | none => false
          | some c => match word c with
            | none => false
            | some w => followsWith (bf lx 0 8) (bandRank g lr) w)
        let all := l :: cores.filterMap id
        if good && all.contains k then some all else none
    | _, _ => none
/-- The fields of GANG's word, in ascending order (R296, R378). -/
def gangFields (r : Fin 64) (x rank : Nat) : Op Unit := do
  fieldOk r 0 (decide (bf x 0 8 ≠ 0))
  zeroField r x 9 16
  let lo := bf x 16 16
  let hi := bf x 32 16
  if gangLeads x then do
    fieldOk r 16 (!(decide (lo ≤ rank ∧ rank < hi)))
    fieldOk r 32 (decide (lo + 1 ≤ hi ∧ hi ≤ lo + 15))
  else zeroField r x 32 48
  zeroField r x 48 64
/-- What issue knows of GANG. -/
def metaGang (d r : Nat) (sw : Bool) : Meta := { metaD 0x3B 2 sw [(.w, r)] [(.w, d)] with mustS := true }
/-- An instruction at which a core waits completes: its registers are read and written, and the core goes on after it. -/
def State.passWait (s : State) (k : Nat) (m : Meta) (body : Op Unit) : State :=
  match issue m (do
    body
    seqFlow) { s with cur := k } with
  | .next t => { t with cur := s.cur }
  | _ => s
/-- A member of a consort that has formed goes on after its GANG, with the member count in its register (R163). -/
def State.passGang (s : State) (k : Nat) : State :=
  match (s.tile k).wait, (s.tile k).consort with
  | some ⟨.gang _ _ d r, _, _, _, _⟩, some c => s.passWait k (metaGang d r true) (do
      let _ ← readX r
      writeN d c.count)
  | _, _ => s
/-- The members of a leader's consort, the leader included (R163). -/
def State.members (s : State) (leader : Nat) : List Nat :=
  (s.tiles.filter (fun e => decide ((s.tile e.1).consort.map (·.leader) = some leader))).map (·.1)
/-- Every member that waits at its GANG goes on. -/
def State.passGangs (s : State) : State :=
  match (s.tile s.cur).consort with
  | none => s
  | some c => (s.members c.leader).foldl (fun (s : State) k => s.passGang k) s
/-- GANG (R163, R296): the last participant forms the consort, and every member goes on. -/
def execGang (d r : Fin 64) (sw : Bool) (s : State) : Host.Outcome State Fault Refusal :=
  match issue (metaGang d r sw) (do
    let x ← readX r
    let s ← get
    let t := s.tile s.cur
    match t.task, s.gridOf s.cur with
    | some tr, some g => do
      gangFields r x.toNat (bandRank g tr)
      require (!t.handler) (misuse 3)
      require (!t.composed && t.consort.isNone) (misuse 4)
      match s.gangMatch s.cur g tr t.pc.addr x.toNat with
      | none => waitFor (.gang t.pc.addr x d r)
      | some cores => do
        let c : Consort := { key := bf x.toNat 0 8, leader := cores.headD s.cur, attached := true, runs := [], started := false,
                             branched := false, jumped := false, fullSince := none, count := cores.length }
        set (cores.foldl (fun (s : State) k => s.modTile k (fun t => { t with consort := some c })) s)
        writeN d cores.length
        seqFlow
    | _, _ => waitFor (.gang t.pc.addr x d r)) s with
  | .next t => .next t.passGangs
  | o => o

/-- Forwarded runs that a follower has not started: 16 fill its buffer (R164). -/
def Consort.full (c : Consort) : Bool := decide (16 ≤ (c.runs.drop (bit c.started)).length)
/-- A run enters a follower's buffer, which may then be full from now on. -/
def Consort.take (c : Consort) (run : Forward) (now : Nat) : Consort :=
  let c := { c with runs := c.runs ++ [run] }
  if c.full && c.fullSince.isNone then { c with fullSince := some now } else c
/-- Gives a run to every attached follower of a leader (R164). -/
def State.forwardRun (s : State) (leader : Nat) (run : Forward) : State :=
  { s with tiles := s.tiles.map (fun e => if e.2.follower e.1 && decide (e.2.consort.map (·.leader) = some leader) then
      (e.1, { e.2 with consort := e.2.consort.map (fun c => c.take run (s.timeOf e.1)) }) else e) }
/-- Code bytes of a range within a page as a core's translation gives them now, as far as they can be fetched. -/
def State.codePart (s : State) (k a n : Nat) : List Byte × State :=
  match s.translateAt k true a needX with
  | .error f => ([], f.s)
  | .ok (p, s) =>
    if s.pendingBytes k p.key n || s.owned k noXfer p.key n || s.unreadable k p.key n p.repl then ([], s) else (s.readAt p.key n, s)
/-- `n` code bytes from an address, or the first of them, as the leader of a consort fetches them (R164). -/
def State.codeBytes (s : State) (k a n : Nat) : List Byte × State :=
  let n := min n (Config.localBase - a)
  let first := min n (65536 - a % 65536)
  let (b, s) := s.codePart k a first
  if first = n ∨ b.isEmpty then (b, s)
  else
    let (c, s) := s.codePart k (a + first) (n - first)
    (b ++ c, s)
/-- Bytes of the longest run (R193). -/
def runBytes : Nat := 128
/-- The buffer of some attached follower of a leader is full (R164). -/
def State.followersFull (s : State) (leader : Nat) : Bool :=
  s.tiles.any (fun e => e.2.follower e.1 && (match e.2.consort with
    | some c => decide (c.leader = leader) && c.full
    | none => false))
/-- A member stands at the JOIN that its leader waits for: it fetched it, or came to it in the run that the leader forwarded
(R166). -/
def joined (leader key : Nat) (e : Nat × Tile) : Bool :=
  decide (e.2.consort.map (·.leader) ≠ some leader) || decide (e.1 = leader) || (match e.2.wait with
    | some ⟨.join x _, _, _, _, _⟩ => decide (x = key)
    | _ => false)
/-- JOIN's run, as a member passes it. -/
def joinMeta (sw : Bool) (k : Nat) : Meta := { metaD 0x3B 3 sw [(.w, k)] [] with mustS := true }
/-- A member passes the JOIN at which it waits. -/
def State.passJoin (s : State) (k : Nat) : State :=
  match (s.tile k).wait with
  | some ⟨.join _ r, _, _, _, _⟩ => s.passWait k (joinMeta true r) (do
      let _ ← readX r
      pure ())
  | _ => s
/-- The match completes (R166): waiting members pass their JOIN and every member is attached; key 0 dissolves the consort. -/
def State.completeJoin (s : State) (leader key : Nat) : State :=
  let s := ((s.members leader).filter (· ≠ leader)).foldl (fun (s : State) k => s.passJoin k) s
  { s with tiles := s.tiles.map (fun e =>
      if decide (e.2.consort.map (·.leader) ≠ some leader) then e
      else (e.1, { e.2 with consort := if key = 0 then none else e.2.consort.map (fun c =>
        { c with attached := true, runs := [], started := false, branched := false, jumped := false, fullSince := none }) })) }
/-- JOIN (R166, R296): every member waits at it, and the leader's completes it for all of them. -/
def execJoin (k : Fin 64) (sw : Bool) (s : State) : Host.Outcome State Fault Refusal :=
  issue (joinMeta sw k) (do
    let x ← readN k
    zeroField k x 8 64
    let s ← get
    let t := s.tile s.cur
    require (!t.handler) (misuse 3)
    match t.consort with
    | none => seqFlow
    | some c =>
      if c.leader ≠ s.cur ∨ s.tiles.all (joined s.cur (x % 256)) = false then waitFor (.join (x % 256) k)
      else do
        set (s.completeJoin s.cur (x % 256))
        seqFlow) s
/-- A task leaves its consort at EXIT; when the leader exits the consort dissolves (R167, R401). -/
def State.leaveConsort (s : State) (k : Nat) : State :=
  let s := s.modTile k (fun t => { t with consort := none })
  { s with tiles := s.tiles.map (fun e =>
      if e.2.consort.map (·.leader) = some k then (e.1, { e.2 with consort := none }) else e) }
/-- CONSORT_RUN_FORWARD (R164): the leader's next run, with its bytes as far as the leader can fetch them now, goes to every
attached follower; while a buffer is full the leader waits. -/
def execConsortRunForward (leader : Nat) (s : State) : Host.Outcome State Fault Refusal :=
  let t := s.tile leader
  match t.consort with
  | none => .next s
  | some c =>
    if c.leader ≠ leader then .next s
    else
      match c.runs with
      | [] => .next s
      | x :: r =>
        if s.followersFull leader then .next s
        else
          let (b, s) := s.codeBytes leader x.start runBytes
          .next ((s.modTile leader (fun t => { t with consort := some { c with runs := r } })).forwardRun leader { x with bytes := b })
/-- FOLLOWER_BUFFER_TIMEOUT (R164): a buffer full for 256 cycles detaches its follower. -/
def execFollowerBufferTimeout (core : Nat) (s : State) : Host.Outcome State Fault Refusal :=
  let t := s.tile core
  match t.consort with
  | none => .next s
  | some c =>
    match c.fullSince with
    | none => .next s
    | some n => .next (if c.leader ≠ core ∧ c.attached ∧ c.full ∧ n + 256 ≤ s.timeOf core then s.setTile core t.detach else s)

end Sys2Proof.Machine
end

