-- ==== Sys2Proof/Machine/Tokens.lean ====
section
/-! DEFINITION. Power tokens: the proofer of a zone (R168 to R182, R408 to R411), the token instructions (R294) and the
events of the proofer. FREE is not held on its own: it is what the pool leaves beyond the holdings (R181, R408). -/

namespace Sys2Proof.Machine

/-- A core belongs to a die. -/
def onDie (d k : Nat) : Bool := decide (dieOf k = d)
/-- HELD of a die: tokens its tasks hold (R181). -/
def State.held (s : State) (d : Nat) : Nat := ((s.tiles.filter (fun e => onDie d e.1)).map (fun e => e.2.hold)).sum
/-- Tokens lent or borrowed, over every partner. -/
def loans (l : List (Nat × Nat)) : Nat := (l.map (·.2)).sum
/-- Tokens that a die ever holds at once (R168). -/
def dieLimit : Nat := 240
/-- FREE of a die (R181, R408): POOL + BORROWED − LENT − HELD, 0 if negative, and with HELD never beyond the die's limit (R168). -/
def State.freeTokens (s : State) (d : Nat) : Nat :=
  min ((s.die d).pool + loans (s.die d).borrowed - loans (s.die d).lent) dieLimit - s.held d
/-- Holdings beyond the pool (R182) or the die's limit (R168). -/
def State.excess (s : State) (d : Nat) : Nat :=
  max (loans (s.die d).lent + s.held d - ((s.die d).pool + loans (s.die d).borrowed)) (s.held d - dieLimit)

/-! ### Windows (R171) -/

/-- D′: the first window start at or after a cycle (R176). -/
def windowStart (k t : Nat) : Nat := ceilDiv t (windowLen k) * windowLen k
/-- A balance after `k` window starts with a holding of `n` (R171). -/
def refillMany (b : Int) (n k : Nat) : Int := if k = 0 then b else min (b + k * n) n
/-- The balances after every window start up to a cycle, from the holding in force: BAL, and the gate's shadow balance (R171,
R407). -/
def Tile.refilled (t : Tile) (k upto : Nat) : Tile :=
  let n := (lastStart k upto - t.window) / windowLen k
  { t with bal := refillMany t.bal t.hold n, sbal := refillMany t.sbal t.hold n, window := max t.window (lastStart k upto) }
/-- A holding changes at a cycle: windows that started before it had the old one (R171, R174), and the loan starts when it rises
from 0 (R175). -/
def State.setHold (s : State) (k n m : Nat) : State :=
  s.modTile k (fun t => { t.refilled k (m - 1) with hold := n, loanStart := if t.hold = 0 ∧ 0 < n then m else t.loanStart })

/-! ### Victims and revocation (R175, R176) -/

/-- A task comes before another in VictimOrder. -/
def victimBefore (a b : Nat × Tile) : Bool :=
  decide (a.2.eclass < b.2.eclass) || (decide (a.2.eclass = b.2.eclass) &&
    (decide (a.2.loanStart < b.2.loanStart) || (decide (a.2.loanStart = b.2.loanStart) && decide (a.1 < b.1))))
/-- Insertion into a list ordered by a relation. -/
def insertBy {α : Type} (f : α → α → Bool) (x : α) : List α → List α
  | [] => [x]
  | y :: r => if f x y then x :: y :: r else y :: insertBy f x r
/-- A list ordered by a relation. -/
def orderBy {α : Type} (f : α → α → Bool) (l : List α) : List α := l.foldl (fun r x => insertBy f x r) []
/-- VictimOrder(c) (R175). -/
def State.victims' (s : State) (d c : Nat) : List Nat :=
  (orderBy victimBefore (s.tiles.filter (fun e => onDie d e.1 && e.2.task.isSome &&
    decide (e.2.eclass < c ∧ 2 ≤ e.2.hold ∧ e.2.revoke = 0)))).map (·.1)
/-- Revoke(v, k, T0) for a requester, or for FREE (R176). -/
def State.revoke (s : State) (v k : Nat) (requester : Option Nat) : State :=
  let t0 := s.timeOf v
  let s := s.modTile v (fun t => { t with revoke := k, deadline := t0 + (s.die (dieOf v)).notice, noticed := t0 + 4 })
  match requester with
  | none => s
  | some r => s.modDie (dieOf v) (fun d => { d with owed := d.owed ++ [⟨r, v, k⟩] })
/-- Revokes up to `need` tokens of victims, each down to 1. -/
def revokeFrom (requester : Option Nat) : List Nat → Nat → State → Nat × State
  | [], _, s => (0, s)
  | v :: l, need, s =>
    let take := min need ((s.tile v).hold - 1)
    if take = 0 then (0, s)
    else
      let (n, s) := revokeFrom requester l (need - take) (s.revoke v take requester)
      (n + take, s)
/-- Tokens under notice of `v` that fill requesters' LATER counts at cycle `m`, in order; the rest of `n` goes to FREE (R176, R177). -/
def passOwed (v m : Nat) : List Owed → Nat → State → List Owed × State
  | [], _, s => ([], s)
  | o :: r, n, s =>
    if o.victim ≠ v ∨ n = 0 then
      let (l, s) := passOwed v m r n s
      (o :: l, s)
    else
      let c := min n o.tokens
      let s := s.modTile o.requester (fun t => { t with later := t.later - c })
      let s := s.setHold o.requester ((s.tile o.requester).hold + c) m
      let (l, s) := passOwed v m r (n - c) s
      (if o.tokens - c = 0 then l else { o with tokens := o.tokens - c } :: l, s)
/-- `n` tokens under notice leave their victim at cycle `m` (R176, R177, R179). -/
def State.passTokens (s : State) (v n m : Nat) : State :=
  let (l, s) := passOwed v m (s.die (dieOf v)).owed n s
  s.modDie (dieOf v) (fun d => { d with owed := l })
/-- At D′ the holding falls by REVOKE, and the tokens pass (R176). -/
def State.revocationDue (s : State) (k : Nat) : State :=
  let n := (s.tile k).revoke
  let m := windowStart k (s.tile k).deadline
  let s := s.setHold k ((s.tile k).hold - n) m
  (s.modTile k (fun t => { t with revoke := 0, deadline := 0 })).passTokens k n m
/-- The tokens of a TRET leave at their window start: first those under notice, the rest to FREE (R177). -/
def State.applyReturns (s : State) (k : Nat) : State :=
  let t := s.tile k
  let c := min t.returns t.hold
  let back := min c t.revoke
  let s := s.setHold k (t.hold - c) t.returnAt
  let s := s.modTile k (fun t => { t with
    returns := 0, returnAt := 0, revoke := t.revoke - back, deadline := if t.revoke - back = 0 then 0 else t.deadline })
  s.passTokens k back t.returnAt
/-- A task gives up its holding, at EXIT or a save (R179, R298): tokens under notice pass at once, the rest and what it was
still to receive go to FREE, and its requests lapse. -/
def State.releaseTokens (s : State) (k : Nat) : State :=
  let n := (s.tile k).revoke
  let s := s.modDie (dieOf k) (fun d => { d with
    owed := d.owed.filter (fun o => decide (o.requester ≠ k)), requests := d.requests.filter (fun r => decide (r.1 ≠ k)) })
  let s := s.passTokens k n (s.timeOf k)
  s.modTile k (fun t => { t with hold := 0, revoke := 0, deadline := 0, later := 0, returns := 0, returnAt := 0, bal := 0, sbal := 0 })

/-! ### Lending between zones (R180) -/

/-- The die in a direction: 0 north, 1 east, 2 south, 3 west (R9, R23). -/
def neighbour (d k : Nat) : Option Nat :=
  if d ≥ Config.dies then none
  else match k with
    | 0 => if 8 ≤ d then some (d - 8) else none
    | 1 => if d % 8 < 7 then some (d + 1) else none
    | 2 => if d + 8 < Config.dies then some (d + 8) else none
    | _ => if d % 8 ≠ 0 then some (d - 1) else none
/-- The opposite direction. -/
def opposite (k : Nat) : Nat := (k + 2) % 4
/-- Tokens move from a lender to a borrower. -/
def State.lendTokens (s : State) (lender borrower n : Nat) : State :=
  let s := s.modDie lender (fun d => { d with lent := keySet d.lent borrower (keyGet 0 d.lent borrower + n) })
  s.modDie borrower (fun d => { d with borrowed := keySet d.borrowed lender (keyGet 0 d.borrowed lender + n) })
/-- Tokens move back. -/
def State.repayTokens (s : State) (lender borrower n : Nat) : State :=
  let s := s.modDie lender (fun d => { d with lent := keySet d.lent borrower (keyGet 0 d.lent borrower - n) })
  s.modDie borrower (fun d => { d with borrowed := keySet d.borrowed lender (keyGet 0 d.borrowed lender - n) })
/-- A borrower asks its neighbour in a direction while its FREE is below its LOWMARK (R180). -/
def State.askNeighbour (s : State) (d k : Nat) : State :=
  match neighbour d k with
  | none => s
  | some l =>
    let lender := s.die l
    let n := min (s.freeTokens l - lender.lowmark) (lender.lendmax - keyGet 0 lender.lent d)
    if s.freeTokens d ≥ (s.die d).lowmark ∨ bf (s.die d).dirs k 1 = 0 ∨ bf lender.dirs (opposite k) 1 = 0 ∨ n = 0 ∨
        s.held d + s.freeTokens d + n > 240 ∨ lender.frozen ∨ (s.die d).frozen then s
    else s.lendTokens l d n
/-- Borrowed tokens go back to a lender as they are free beyond LOWMARK (R180). -/
def State.repayNeighbour (s : State) (d k : Nat) : State :=
  match neighbour d k with
  | none => s
  | some l =>
    let n := min (s.freeTokens d - (s.die d).lowmark) (keyGet 0 (s.die d).borrowed l)
    if n = 0 then s else s.repayTokens l d n
/-- Free tokens go back at once to lenders that have recalled them (R180). -/
def State.payRecalled (s : State) (d : Nat) : State :=
  (s.die d).recalled.foldl (fun (s : State) x =>
    let n := min (s.freeTokens d) (min x.2 (keyGet 0 (s.die d).borrowed x.1))
    (s.repayTokens x.1 d n).modDie d (fun y => { y with recalled := keySet y.recalled x.1 (x.2 - n) })) s
/-- A zone repays and borrows as its FREE stands (R180). -/
def State.balanceZone (s : State) (d : Nat) : State :=
  let s := s.payRecalled d
  let s := [0, 1, 2, 3].foldl (fun (s : State) k => s.repayNeighbour d k) s
  [0, 1, 2, 3].foldl (fun (s : State) k => s.askNeighbour d k) s
/-- A lender with FREE 0 and a request to meet recalls its loans: free tokens return at once, and of the rest what is not recalled
already is revoked from every class (R180). -/
def State.recallLoans (s : State) (d : Nat) : State :=
  (s.die d).lent.foldl (fun (s : State) x =>
    let now := min (s.freeTokens x.1) x.2
    let s := s.repayTokens d x.1 now
    let old := keyGet 0 (s.die x.1).recalled d
    let s := (revokeFrom none (s.victims' x.1 4) (x.2 - now - old) s).2
    s.modDie x.1 (fun y => { y with recalled := keySet y.recalled d (x.2 - now) })) s

/-! ### What falls due (R176, R177) -/

/-- What the next window starts of a die's tiles bring up to a cycle, as time, core and whether it is a return: tokens that a TRET
returned, and revocations. -/
def State.dueList (s : State) (d upto : Nat) : List (Nat × Nat × Bool) :=
  (s.tiles.filter (fun e => onDie d e.1)).flatMap (fun e =>
    (if e.2.returns ≠ 0 ∧ e.2.returnAt ≤ upto then [(e.2.returnAt, e.1, true)] else []) ++
    (if e.2.revoke ≠ 0 ∧ windowStart e.1 e.2.deadline ≤ upto then [(windowStart e.1 e.2.deadline, e.1, false)] else []))
/-- The earliest of them comes about; the zone repays and borrows as its FREE then stands (R180). -/
def State.applyDue (s : State) (d upto : Nat) : State :=
  match orderBy (fun a b => decide (a.1 < b.1)) (s.dueList d upto) with
  | [] => s
  | (_, k, ret) :: _ => (if ret then s.applyReturns k else s.revocationDue k).balanceZone d
/-- Everything of a die that falls due up to a cycle comes about, in time order. -/
def State.dueTokens (s : State) (d upto : Nat) : State :=
  (s.dueList d upto).foldl (fun (s : State) _ => s.applyDue d upto) s

/-! ### Grants (R174) -/

/-- The proofer of a die decides no request: frozen or tripped (R409, R411). -/
def Die.closed (d : Die) : Bool := d.frozen || d.tripped
/-- Grant(task, r) (R174): (now, later); the NOW tokens join HOLD at once. -/
def State.grant (s : State) (k r : Nat) : (Nat × Nat) × State :=
  let d := dieOf k
  let t := s.tile k
  let r := min r (fullRate k - t.hold - t.later)
  if r = 0 ∨ (s.die d).closed then ((0, 0), s)
  else
    let s := if s.freeTokens d = 0 then s.recallLoans d else s
    let now := min r (s.freeTokens d)
    let s := s.setHold k (t.hold + now) (s.timeOf k)
    let (later, s) := revokeFrom (some k) (s.victims' d t.eclass) (r - now) s
    let s := s.modTile k (fun t => { t with later := t.later + later })
    ((now, later), s.balanceZone d)
/-- The proofer decides the oldest request that it has received (R174). -/
def State.serveRequest (s : State) (d : Nat) : State :=
  match (s.die d).requests with
  | [] => s
  | (k, r) :: l => (State.grant (s.modDie d (fun x => { x with requests := l })) k r).2
/-- The proofer of a die has applied what is due and decided every request that it has received. -/
def State.serveAll (s : State) (d : Nat) : State :=
  let s := s.dueTokens d (s.die d).time
  (s.die d).requests.foldl (fun (s : State) _ => s.serveRequest d) s
/-- R182: holdings beyond the pool are revoked from every class, less what is already under notice for FREE. -/
def State.shed (s : State) (d : Nat) : State :=
  let noticed := ((s.tiles.filter (fun e => onDie d e.1)).map (fun e => e.2.revoke)).sum
  let owed := ((s.die d).owed.map (·.tokens)).sum
  (revokeFrom none (s.victims' d 4) (s.excess d - (noticed - owed)) s).2

/-! ### Energy events (R183, R185) -/

/-- Events weighted by the coefficient of their kind, in 1/256 pJ (R183). -/
def State.weigh (s : State) (kind n : Nat) : Nat := n * s.coeffs.getD kind 0
/-- Adds to an account's count. -/
def addCount (l : List (Account × Nat)) (a : Account) (n : Nat) : List (Account × Nat) :=
  if l.any (fun x => decide (x.1 = a)) then l.map (fun x => if x.1 = a then (a, x.2 + n) else x) else l ++ [(a, n)]
/-- The account of what a core does (R185): the job of its task, a chord member's anchor's; without a task that of the partition that
owns the tile; a dark tile's energy is uncharged. -/
def State.accountOf (s : State) (k : Nat) : Account :=
  let c := ((s.tile k).memberOf).getD k
  match s.partOf k with
  | none => .overhead
  | some p =>
    if (s.tile c).task.isSome then .job p (s.tile c).job
    else if s.gated.contains k || s.retired.contains k || !(s.die (dieOf k)).powered then .uncharged
    else .own p
/-- Issue slots and lattice operations that a core's tile has counted, weighted (kinds 0 and 5, log entry 45). -/
def State.tileCount (s : State) (k : Nat) : Nat := s.weigh 0 (s.tile k).slotEvents + s.weigh 5 (s.tile k).latticeEvents
/-- What a core's tile has counted goes to its die's meter, under the account that it belongs to now. -/
def State.takeEvents (s : State) (k : Nat) : State :=
  let n := s.tileCount k
  let s := if n = 0 then s else s.modDie (dieOf k) (fun d => { d with counts := addCount d.counts (s.accountOf k) n })
  s.modTile k (fun t => { t with slotEvents := 0, latticeEvents := 0 })

/-! ### TREQ, TRET, TSTAT (R294) -/

/-- The operand of TREQ and TRET: bits [63:8] are zero. -/
def tokenOperand (r : Fin 64) : Op Nat := do
  let x ← readN r
  zeroField r x 8 64
  pure (x % 256)
/-- TREQ (R174, R294): the proofer decides requests in the order in which it received them, and this one as TREQ issues (log entry
24). -/
def execTreq (d r : Fin 64) (sw : Bool) (s : State) : Host.Outcome State Fault Refusal :=
  issue (metaD 0x3A 0 sw [wr r] [wr d]) (do
    let n ← tokenOperand r
    let s ← get
    let ((now, later), s') := (s.serveAll (dieOf s.cur)).grant s.cur n
    set s'
    writeN d (now + later * 256)
    seqFlow) s
/-- TRET (R177, R294): the tokens leave at the first window start later than its issue. -/
def execTret (c : Fin 64) (sw : Bool) (s : State) : Host.Outcome State Fault Refusal :=
  issue (metaD 0x3A 1 sw [wr c] []) (do
    let n ← tokenOperand c
    modify (fun s => s.dueTokens (dieOf s.cur) (s.timeOf s.cur))
    let s ← get
    modT (fun t => { t with returns := min (t.returns + min n t.hold) t.hold, returnAt := windowStart s.cur (s.timeOf s.cur + 1) })
    seqFlow) s
/-- TSTAT's word (R178) at a TIME: a revocation shows from T0 + 4 (R176). -/
def Tile.tokenWord (t : Tile) (now : Nat) : Nat :=
  let shown := decide (t.revoke ≠ 0 ∧ t.noticed ≤ now)
  t.hold % 256 + (if shown then t.revoke % 256 * 2 ^ 8 + t.deadline % 2 ^ 32 * 2 ^ 32 else 0) + t.later % 256 * 2 ^ 16
/-- TSTAT (R178, R294). -/
def execTstat (d : Fin 64) (sw : Bool) (s : State) : Host.Outcome State Fault Refusal :=
  issue (metaD 0x3A 2 sw [] [wr d]) (do
    let s ← get
    writeN d ((s.tile s.cur).tokenWord (s.timeOf s.cur))
    seqFlow) s

/-! ### Events of the proofer -/

/-- TOKEN_GRANT (R174): the proofer decides the oldest request that it has received, which is this one. -/
def execTokenGrant (core r : Nat) (s : State) : Host.Outcome State Fault Refusal :=
  .next (if (s.die (dieOf core)).requests.head? = some (core, r) then s.serveRequest (dieOf core) else s)
/-- REVOCATION_DEADLINE (R176): once TIME has reached D′, after whatever of the die fell due before. -/
def execRevocationDeadline (core : Nat) (s : State) : Host.Outcome State Fault Refusal :=
  let t := s.tile core
  .next (if t.revoke ≠ 0 ∧ windowStart core t.deadline ≤ s.timeOf core then s.dueTokens (dieOf core) (windowStart core t.deadline) else s)
/-- ISSUE_WINDOW (R171, R177): the windows of the core's tile that have started refill its balances, each from the holding in force at
its start. -/
def execIssueWindow (core : Nat) (s : State) : Host.Outcome State Fault Refusal :=
  if Config.tileSites ≤ core ∨ (s.tile core).task.isNone ∨ !s.windowDue core then .next s
  else
    let s := s.dueTokens (dieOf core) (s.timeOf core)
    .next (s.modTile core (fun t => t.refilled core (s.timeOf core)))
/-- ZPOOL's new size: min(value, 240, 10,080 − the other pools) (R181, R168). -/
def State.setPool (s : State) (d x : Nat) : State :=
  let others := ((s.dies.filter (fun e => decide (e.1 ≠ d))).map (fun e => e.2.pool)).sum
  (s.modDie d (fun y => { y with pool := min (min (x % 256) 240) (10080 - others) })).shed d
/-- ZPOOL (R181, R182). -/
def execZpool (die : Nat) (value : BitVec 64) (s : State) : Host.Outcome State Fault Refusal :=
  .next (if die < Config.dies then (s.setPool die value.toNat).balanceZone die else s)

/-- Cancels LATER tokens beyond what revocations can fill, the lowest class first (R408 step 3). -/
def cancelLater : List Nat → Nat → State → State
  | [], _, s => s
  | k :: l, n, s =>
    let c := min n (s.tile k).later
    cancelLater l (n - c) (s.modTile k (fun t => { t with later := t.later - c }))
/-- Pairs requesters with victims in order (R408 step 3). -/
def pairOwed : List (Nat × Nat) → List (Nat × Nat) → Nat → List Owed
  | _, _, 0 => []
  | [], _, _ => []
  | _, [], _ => []
  | (r, n) :: rs, (v, k) :: vs, fuel + 1 =>
    let c := min n k
    let rest := pairOwed (if n - c = 0 then rs else (r, n - c) :: rs) (if k - c = 0 then vs else (v, k - c) :: vs) fuel
    if c = 0 then rest else ⟨r, v, c⟩ :: rest
/-- The proofer is rebuilt from the gate copies (R408). -/
def State.rebuildProofer (s : State) (d : Nat) : State :=
  let mine := s.tiles.filter (fun e => onDie d e.1)
  let asking := mine.filter (fun e => decide (0 < e.2.later))
  let noticed := mine.filter (fun e => decide (0 < e.2.revoke))
  let surplus := (asking.map (fun e => e.2.later)).sum - (noticed.map (fun e => e.2.revoke)).sum
  let s := cancelLater ((orderBy (fun (a b : Nat × Tile) => decide (a.2.eclass < b.2.eclass ∨ (a.2.eclass = b.2.eclass ∧ a.1 < b.1))) asking).map (·.1))
    surplus s
  let reqs := asking.map (fun e => (e.1, (s.tile e.1).later))
  let vics := (orderBy (fun (a b : Nat × Tile) => decide (a.2.deadline < b.2.deadline ∨ (a.2.deadline = b.2.deadline ∧ a.1 < b.1))) noticed).map
    (fun e => (e.1, e.2.revoke))
  let s := s.modDie d (fun x => { x with owed := pairOwed reqs vics (reqs.length + vics.length) })
  s.shed d
/-- A record of a zone's meter or proofer (R345). -/
def State.zoneRecord (s : State) (d sev : Nat) : State := s.record (unitRecord sev 8 0xFF d (s.partOfDie d))
/-- PROOFER_REBUILD (R408, R409): a failed rebuild, or a second one in a journal period, freezes the zone. -/
def execProoferRebuild (die : Nat) (succeeds : Bool) (s : State) : Host.Outcome State Fault Refusal :=
  if Config.dies ≤ die ∨ (s.die die).frozen then .next s
  else if !succeeds ∨ (s.die die).rebuilds ≠ 0 then
    .next ((s.modDie die (fun x => { x with frozen := true, rebuilds := x.rebuilds + 1 })).zoneRecord die 3)
  else
    .next (((s.rebuildProofer die).modDie die (fun x =>
      { x with rebuilds := x.rebuilds + 1, tripstat := x.tripstat ||| 8 })).zoneRecord die 0)

/-- Emergency revocation (R411): every task with HOLD 2 or more goes down to 1 with a notice of 64; the tokens go to FREE,
and LATER counts that they would have filled are cancelled. -/
def State.emergency (s : State) (d : Nat) : State :=
  let s := (s.die d).owed.foldl (fun (s : State) o => s.modTile o.requester (fun t => { t with later := t.later - o.tokens })) s
  let s := s.modDie d (fun x => { x with owed := [], tripped := true })
  { s with tiles := s.tiles.map (fun e =>
      if onDie d e.1 && decide (2 ≤ e.2.hold) then
        let due := (s.die d).time + 64
        (e.1, { e.2 with revoke := e.2.hold - 1, deadline := if e.2.revoke = 0 then due else min e.2.deadline due,
                         noticed := if e.2.revoke = 0 then (s.die d).time + 4 else e.2.noticed })
      else e) }
/-- CURRENT_TRIP (R411). -/
def execCurrentTrip (die : Nat) (s : State) : Host.Outcome State Fault Refusal :=
  .next (if die < Config.dies then (s.emergency die).modDie die (fun x => { x with tripstat := x.tripstat ||| 1 }) else s)
/-- THERMAL_TRIP (R411). -/
def execThermalTrip (die : Nat) (s : State) : Host.Outcome State Fault Refusal :=
  .next (if die < Config.dies then
    (s.emergency die).modDie die (fun x => { x with thermal := true, tripstat := x.tripstat ||| 2 }) else s)
/-- TRIP_RECOVERY (R411): TREQ grants again. -/
def execTripRecovery (die : Nat) (s : State) : Host.Outcome State Fault Refusal :=
  .next (if die < Config.dies then s.modDie die (fun x => { x with tripped := false, thermal := false }) else s)

end Sys2Proof.Machine
end

