-- ==== Sys2Proof/Machine/Context.lean ====
section
/-! DEFINITION. The context record of a task (R75, R76): its bytes, writing it into CTX at a save (R55, R363) and restoring
a task from it (R56, R364). Items whose layout in the record R75 does not state stand there as free bytes, and the saved
task keeps their values beside the record (log entry 15). -/

namespace Sys2Proof.Machine

/-- Bytes of a context record (R75). -/
def recordBytes : Nat := 458752
/-- Bytes before the scratchpad in a record. -/
def recordHead : Nat := 65536
/-- A list of exactly `n` bytes: cut, or followed by zeros. -/
def padBytes (n : Nat) (b : List Byte) : List Byte := b.take n ++ List.replicate (n - b.length) 0
/-- `n` bytes that the manual does not state (log entry 6). -/
def openBytes (c n : Nat) : List Byte := (List.range n).map (fun i => Config.freeByte (c + i))

/-! ### Writing (R75) -/

/-- The header. -/
def Tile.recordHeader (t : Tile) (k name : Nat) : List Byte :=
  padBytes 512 (leBytes 4 1 ++ leBytes 1 (kindOf k) ++ leBytes 1 (bit t.handler) ++
    leBytes 1 (match t.chord with | none => 1 | some c => c.members.length) ++ leBytes 1 0 ++
    leBytes 4 name ++ leBytes 2 t.job ++ leBytes 2 t.asid ++ leBytes 1 t.eclass ++ leBytes 1 (t.hold - t.revoke) ++
    leBytes 1 t.loops.length ++ leBytes 1 t.rets.length ++ leBytes 4 t.rscnt ++ leBytes 1 t.vl ++
    leBytes 1 t.inbox.length ++ leBytes 1 (bit t.ordered) ++ leBytes 1 (bit t.wake) ++ leBytes 2 t.svcseq ++ leBytes 2 0 ++
    leBytes 8 t.fctl.toNat ++ leBytes 8 t.vstatus.toNat)
/-- 64-bit words. -/
def wordBytes (l : List Word) : List Byte := l.flatMap (fun x => leBytes 8 x.toNat)
/-- A generator in the field order of R64, each field in the whole bytes that hold it, then zeros (log entry 22). -/
def Stream.record (g : Stream) : List Byte :=
  padBytes 64 (g.cap.bytes ++ leBytes 1 (bit g.dir) ++ leBytes 1 g.esize ++ leBytes 4 g.cnt0 ++ leBytes 4 g.cnt1 ++ leBytes 4 g.cnt2 ++
    leBytes 6 (g.str1 % (2 ^ 48 : Nat)).toNat ++ leBytes 6 (g.str2 % (2 ^ 48 : Nat)).toNat ++ leBytes 8 g.pos ++ leBytes 1 g.reg)
/-- Registers, loops, rings and generators: bytes 0x200 to 0xFFF. The loop stack's newest level comes first, with 8 bytes for each of
START, END and COUNT (log entry 22). -/
def Tile.recordRegs (t : Tile) : List Byte :=
  padBytes 256 ([t.pc, t.hpc, t.rspill, t.ispill].flatMap Reg.bytes) ++
  wordBytes t.wcfg.toList ++ wordBytes t.p.toList ++ wordBytes t.m.toList ++
  padBytes 16 [] ++ (t.w.toList.drop 1).flatMap Reg.bytes ++
  padBytes 256 (t.rets.flatMap Reg.bytes) ++
  padBytes 128 (t.loops.flatMap (fun l => leBytes 8 l.start ++ leBytes 8 l.stop ++ leBytes 8 l.count ++ leBytes 8 0)) ++
  t.rings.toList.flatMap (fun r => leBytes 1 r.first ++ leBytes 2 r.len ++ leBytes 1 r.head ++ leBytes 1 r.tail ++ leBytes 2 r.count ++ leBytes 1 0) ++
  t.ag.toList.flatMap Stream.record ++
  padBytes 256 (wordBytes (t.acc.toList.map (·.mode))) ++
  padBytes 256 (t.deque.flatMap (fun r => leBytes 4 r.1 ++ leBytes 4 r.2)) ++
  t.classes.toList.flatMap (fun e => e.cap.bytes ++ leBytes 8 e.cfg.toNat ++ leBytes 8 0)
/-- Tables, messages, vectors and accumulators: bytes 0x1000 to 0xFFFF. The tile table and message entries have no stated
layout. -/
def Tile.recordTail (t : Tile) (c : Nat) : List Byte :=
  openBytes c 2048 ++ t.dectab.toList.flatMap (fun x => leBytes 4 x.toNat) ++
  padBytes 9216 (if t.cmsg.isNone && t.inbox.isEmpty then [] else openBytes (c + 2048) (96 * (1 + t.inbox.length))) ++
  t.v.toList.flatMap (fun v => v.toList.flatMap (fun x => leBytes 4 x.toNat)) ++
  t.acc.toList.flatMap (fun a => a.elems.toList.flatMap (fun x => leBytes 16 x.toNat)) ++ padBytes 8192 []
/-- A record up to the scratchpad; `c` is the free-value counter. -/
def Tile.record (t : Tile) (k name c : Nat) : List Byte :=
  t.recordHeader k name ++ t.recordRegs ++ t.recordTail c
/-- Free values that a record may take. -/
def recordFree : Nat := 2048 + 9216
/-- Granules of the record's head that hold tagged capabilities. -/
def Tile.recordTags (t : Tile) : List Nat :=
  let at' := fun (off : Nat) (l : List Reg) => l.zipIdx.filterMap (fun r => if r.1.tag then some (off / 16 + r.2) else none)
  at' 0x200 [t.pc, t.hpc, t.rspill, t.ispill] ++ at' 0x400 t.w.toList ++ at' 0x800 t.rets ++
    t.ag.toList.zipIdx.filterMap (fun g => if g.1.cap.tag then some (0xA0 + 4 * g.2) else none) ++
    t.classes.toList.zipIdx.filterMap (fun e => if e.1.cap.tag then some (0xE0 + 2 * e.2) else none)
/-- Granules of the record that hold the scratchpad's tagged granules (R106). -/
def State.scratchTags (s : State) (k : Nat) : List Nat :=
  (s.tags.filter (fun g => decide (scratchAt k 0 / 16 ≤ g ∧ g < scratchAt k 0 / 16 + Config.scratchBytes / 16))).map
    (fun g => recordHead / 16 + (g - scratchAt k 0 / 16))

/-- How a record's write or read fails: the cause, its AKIND, and the address. Cause 0 is no failure: it waits at a home. -/
structure RecordFail where
  cause : Nat
  akind : Access
  addr : Nat
  deriving DecidableEq, Repr

/-- The memory of a record, as its task reaches it. -/
def State.recordPlaces (s : State) (k need va : Nat) : Except RecordFail (List Piece × State) :=
  match locate va recordBytes with
  | .virt =>
    match s.pieces k need (pagesOf recordBytes) va recordBytes with
    | .error (a, f) => .error ⟨f.why.cause, if f.why.cause = 0x13 then .walk else if need = needR then .load else .store, a⟩
    | .ok (l, s) => if l.any (fun p => s.homeBusy p.key p.len) then .error ⟨0, .none, va⟩ else .ok (l, s)
  | _ => .error ⟨0x0E, if need = needR then .load else .store, va⟩
/-- Sets the tags of record granules in the pages that may hold capabilities (R106, R107). -/
def State.recordTag (s : State) (va : Nat) (l : List Piece) (granules : List Nat) : State :=
  granules.foldl (fun (s : State) g =>
    match l.find? (fun p => decide (p.va ≤ va + 16 * g ∧ va + 16 * g < p.va + p.len)) with
    | some p => if p.capst && !isHost p.key then { s with tags := tagIns s.tags ((p.key + (va + 16 * g - p.va)) / 16) } else s
    | none => s) s
/-- Writes the record of a core's task at an address (R55 step 3). -/
def State.writeRecord (s : State) (k va : Nat) : Except RecordFail State :=
  if s.isBad (scratchAt k 0) Config.scratchBytes then .error ⟨0x38, .store, va + recordHead⟩
  else
    match s.recordPlaces k needW va with
    | .error f => .error f
    | .ok (l, s) =>
      let t := s.tile k
      let b := t.record k (s.nameOf k) s.free ++ s.readAt (scratchAt k 0) Config.scratchBytes
      let write := fun (s : State) (p : Piece) =>
        (s.hostTake p.key p.len).performStore k { key := p.key, data := (b.drop (p.va - va)).take p.len, tag := false, repl := p.repl, committed := true }
      .ok ((l.foldl write { s with free := s.free + recordFree }).recordTag va l (t.recordTags ++ s.scratchTags k))

/-! ### Reading (R56, R76) -/

/-- A record as read: its bytes and its tagged granules. -/
structure Record where
  bytes : List Byte
  tags : List Nat
  deriving DecidableEq, Repr

/-- Reads a record through a core's translation. -/
def State.readRecord (s : State) (k va : Nat) : Except RecordFail (Record × State) :=
  match s.recordPlaces k needR va with
  | .error f => .error f
  | .ok (l, s) =>
    let s := l.foldl (fun (s : State) p => s.mend k (dieOf k) p.key p.len p.repl) s
    match l.find? (fun p => s.unreadable k p.key p.len p.repl) with
    | some p => .error ⟨0x38, .load, p.va⟩
    | none =>
      let tagsOf := fun (p : Piece) =>
        if p.capst && !isHost p.key then
          (s.tags.filter (fun g => decide (p.key / 16 ≤ g ∧ 16 * g < p.key + p.len))).map (fun g => (p.va - va) / 16 + (g - p.key / 16))
        else []
      .ok (⟨l.flatMap (fun p => s.readAt p.key p.len), l.flatMap tagsOf⟩, s)
/-- A field of a record. -/
def Record.nat (r : Record) (off n : Nat) : Nat := blockNat r.bytes off n
/-- A 64-bit field. -/
def Record.word (r : Record) (off : Nat) : Word := BitVec.ofNat 64 (r.nat off 8)
/-- A register with its tag; one whose tag has been lost is plain data (R364). -/
def Record.reg (r : Record) (off : Nat) : Reg := Reg.ofBytes (r.tags.contains (off / 16)) ((r.bytes.drop off).take 16)
/-- A generator, bound as it was; what its elements were read ahead of is over. -/
def Record.stream (r : Record) (i : Nat) : Stream :=
  let o := 0xA00 + 64 * i
  { cap := r.reg o, dir := decide (r.nat (o + 16) 1 = 1), esize := r.nat (o + 17) 1, cnt0 := r.nat (o + 18) 4, cnt1 := r.nat (o + 22) 4,
    cnt2 := r.nat (o + 26) 4, str1 := sext (r.nat (o + 30) 6) 48, str2 := sext (r.nat (o + 36) 6) 48, pos := r.nat (o + 42) 8,
    reg := r.nat (o + 50) 1 }
/-- A loop level. -/
def Record.level (r : Record) (i : Nat) : LoopLevel :=
  { start := r.nat (0x900 + 32 * i) 8, stop := r.nat (0x908 + 32 * i) 8, count := r.nat (0x910 + 32 * i) 8 }
/-- A ring. -/
def Record.ring (r : Record) (i : Nat) : Ring :=
  { first := r.nat (0x980 + 8 * i) 1, len := r.nat (0x981 + 8 * i) 2, head := r.nat (0x983 + 8 * i) 1,
    tail := r.nat (0x984 + 8 * i) 1, count := r.nat (0x985 + 8 * i) 2 }
/-- The deque's ranges. -/
def Record.deque (r : Record) : List (Nat × Nat) :=
  ((List.range 32).map (fun i => (r.nat (0xD00 + 8 * i) 4, r.nat (0xD04 + 8 * i) 4))).filter (fun x => decide (x.1 < x.2))
/-- A class entry: capability and configuration from the record, counts from beside it. -/
def Record.cls (r : Record) (i : Nat) (e : ClassEntry) : ClassEntry :=
  { e with cap := r.reg (0xE00 + 32 * i), cfg := r.word (0xE10 + 32 * i) }
/-- An accumulator. -/
def Record.acc (r : Record) (i : Nat) : Acc :=
  { elems := Vector.ofFn (fun (j : Fin 256) => BitVec.ofNat 80 (r.nat (0x6000 + 4096 * i + 16 * j.val) 10)),
    mode := r.word (0xC00 + 8 * i) }
/-- The tile that a record restores (R56, R76), on a core whose own registers `now` stay its own. What the record's layout
does not state comes from `aside`. -/
def Record.tile (r : Record) (now aside : Tile) : Tile :=
  { aside with
    task := now.task
    w := Vector.ofFn (fun (i : Fin 64) => if i.val = 0 then Reg.null else r.reg (0x400 + 16 * i.val))
    p := Vector.ofFn (fun (i : Fin 8) => if i.val = 0 then BitVec.allOnes 64 else r.word (0x380 + 8 * i.val))
    v := Vector.ofFn (fun (i : Fin 32) => Vector.ofFn (fun (j : Fin 64) => BitVec.ofNat 32 (r.nat (0x4000 + 256 * i.val + 4 * j.val) 4)))
    vl := min 64 (r.nat 24 1)
    m := Vector.ofFn (fun (i : Fin 8) => r.word (0x3C0 + 8 * i.val))
    ag := Vector.ofFn (fun (i : Fin 8) => r.stream i.val)
    loops := (List.range (min 4 (r.nat 18 1))).map r.level
    rets := (List.range (min 16 (r.nat 19 1))).map (fun i => r.reg (0x800 + 16 * i))
    rscnt := r.nat 20 4
    rings := Vector.ofFn (fun (i : Fin 16) => r.ring i.val)
    acc := Vector.ofFn (fun (i : Fin 8) => r.acc i.val)
    pc := pcOf (r.reg 0x200)
    hpc := r.reg 0x210
    rspill := r.reg 0x220
    ispill := r.reg 0x230
    fctl := r.word 32
    vstatus := r.word 40
    wcfg := Vector.ofFn (fun (i : Fin 16) => r.word (0x300 + 8 * i.val))
    classes := Vector.ofFn (fun (i : Fin 16) => r.cls i.val aside.classes[i])
    dectab := Vector.ofFn (fun (i : Fin 256) => BitVec.ofNat 32 (r.nat (0x1800 + 4 * i.val) 4))
    ordered := decide (r.nat 26 1 % 2 = 1)
    deque := r.deque
    wake := decide (r.nat 27 1 % 2 = 1)
    svcseq := r.nat 28 2
    job := r.nat 12 2
    asid := r.nat 14 2
    eclass := r.nat 16 1
    handler := decide (r.nat 5 1 = 1)
    hold := 0, revoke := 0, deadline := 0, later := 0, returns := 0, returnAt := 0, noticed := 0, loanStart := 0, bal := 0, sbal := 0
    window := now.window, trips := now.trips, slotEvents := now.slotEvents, latticeEvents := now.latticeEvents
    runPos := 0, rep := none, pend := [], parked := false, due := [], awaiting := [], stores := [], undo := [], eng := [], xfers := []
    runs := 0, commits := 0
    itlb := now.itlb, dtlb := now.dtlb, chord := none, memberOf := none, consort := none, stop := none
    svc := now.svc, drowsy := [], idleSince := now.idleSince }
/-- Writes a record's scratchpad and its tags into a core's (R55, R106). -/
def State.restoreScratch (s : State) (k : Nat) (r : Record) : State :=
  let s := s.writeKey (scratchAt k 0) ((r.bytes.drop recordHead).take Config.scratchBytes) false
  { s with tags := (r.tags.filter (recordHead / 16 ≤ ·)).foldl (fun l g => tagIns l (scratchAt k 0 / 16 + (g - recordHead / 16))) s.tags }

end Sys2Proof.Machine
end

