-- ==== Sys2Proof/Machine/Grid.lean ====
section
/-! DEFINITION. The life of a grid: queues and packets (R30 to R36), checks and placement (R349, R37), task start (R39, R40),
the end of tasks and grids (R36, R298, R343, R348, R400), saving and resuming (R54 to R56, R363 to R365) and severance
(R424 to R426). -/

namespace Sys2Proof.Machine

/-! ### Queues (R31) and physical memory (R100) -/

/-- The physical map holds memory at every byte of a range (R100). -/
def backed (pa n : Nat) : Bool :=
  (isHbm pa && isHbm (pa + n - 1)) || (isVault pa && isVault (pa + n - 1)) || (isHost pa && isHost (pa + n - 1))
/-- N of a queue. -/
def Queue.n (q : Queue) : Nat := bf q.qctl.toNat 1 5
/-- EN of a queue. -/
def Queue.en (q : Queue) : Bool := decide (q.qctl.toNat % 2 = 1)
/-- Address of a slot. -/
def Queue.slotAt (q : Queue) (i : Nat) : Nat := q.qbase.toNat + 128 * (i % 2 ^ q.n)
/-- Address of a completion record. -/
def Queue.recordAt (q : Queue) (i : Nat) : Nat := q.qcbase.toNat + 32 * (i % 2 ^ q.n)
/-- A queue of a partition. -/
def State.queue (s : State) (p q : Nat) : Queue := (s.part p).queues[q]?.getD Queue.reset
/-- Changes a queue. -/
def State.modQueue (s : State) (p q : Nat) (f : Queue → Queue) : State :=
  s.modPart p (fun x => { x with queues := x.queues.setIfInBounds q (f (s.queue p q)) })
/-- A write of QWR is performed unless it would set WR more than 2^N beyond RD (R442). -/
def State.writeQwr (s : State) (p q x : Nat) : State :=
  let u := s.queue p q
  if (x + 2 ^ 32 - u.qrd) % 2 ^ 32 > 2 ^ u.n then s else s.modQueue p q (fun u => { u with qwr := x })
/-- A slot and its completion record lie in memory. -/
def State.ringOk (s : State) (p q i : Nat) : Bool :=
  backed ((s.queue p q).slotAt i) 128 && backed ((s.queue p q).recordAt i) 32
/-- A step that uses a slot and its record: an access to a physical address behind which there is nothing stops the run (R100). It waits
while a home of either is busy (R126, R309). -/
def State.withRing (s : State) (p q i : Nat) (t : State) : Host.Outcome State Fault Refusal :=
  if !s.ringOk p q i then .fault .noSuchAddress
  else if s.homeBusy ((s.queue p q).slotAt i) 128 || s.homeBusy ((s.queue p q).recordAt i) 32 then .next s
  else .next t

/-! ### Packets (R30) and their checks (R349) -/

/-- A grid as its packet describes it. -/
def packetGrid (p q slot id : Nat) (b : List Byte) (tags : Bool × Bool) : Grid :=
  { part := p, queue := q, slot := slot, packet := b, tags := tags
    prog := Reg.ofBytes tags.1 (b.take 16), ctx := Reg.ofBytes tags.2 ((b.drop 16).take 16)
    deadline := blockNat b 32 8, shape := blockNat b 40 8, bands := blockNat b 48 2, teams := blockNat b 50 1
    tasks := blockNat b 51 1, job := blockNat b 52 2, asid := blockNat b 54 2 % 2 ^ 14, flags := blockNat b 56 2
    nmaps := blockNat b 58 1, tilemask := blockNat b 60 2
    args := (List.range 8).map (fun i => BitVec.ofNat 64 (blockNat b (64 + 8 * i) 8))
    phase := .running, late := false, cores := [], exited := [], started := none, exitval := 0, msgdrop := 0, abort := none
    bars := [], saved := [], consorts := [], noVictim := false, startOrder := id, unstarted := [], hold := false, sever := none }
/-- ECLASS. -/
def Grid.eclass (g : Grid) : Nat := g.flags % 4
/-- RESTARTABLE. -/
def Grid.restartable (g : Grid) : Bool := decide (bf g.flags 2 1 = 1)
/-- DROP_IF_LATE. -/
def Grid.dropIfLate (g : Grid) : Bool := decide (bf g.flags 3 1 = 1)
/-- AWAIT_WAKE. -/
def Grid.awaitsWake (g : Grid) : Bool := decide (bf g.flags 4 1 = 1)
/-- Tasks of a grid. -/
def Grid.size (g : Grid) : Nat := g.bands * g.teams * g.tasks
/-- Every task has exited. -/
def Grid.allExited (g : Grid) : Bool := (List.range g.size).all (fun r => g.exited.contains r)
/-- One bits of a number below 2^n. -/
def onesBelow (n x : Nat) : Nat := ((List.range n).filter (fun i => decide (bf x i 1 = 1))).length
/-- The packet in a slot as its bytes and tags stand (R442, R349). -/
def State.packetAt (s : State) (p q slot id : Nat) : Grid :=
  let a := (s.queue p q).slotAt slot
  packetGrid p q slot id (s.readAt a 128) (tagGet s.tags (a / 16), tagGet s.tags (a / 16 + 1))
/-- Check 1: PROG. -/
def Grid.check1 (g : Grid) : Bool := g.prog.tag && decide (g.prog.otype = 0) && g.prog.has Perm.exec && decide (g.prog.addr % 2 = 0)
/-- Check 2: CTX. -/
def Grid.check2 (g : Grid) : Bool :=
  g.ctx.tag && decide (g.ctx.otype = 0) && g.ctx.has (Perm.load + Perm.store) && decide (g.ctx.addr % 64 = 0) &&
    decide ((capBounds g.ctx).1 ≤ (g.ctx.addr : Int) ∧ ((g.ctx.addr + recordBytes * g.size : Nat) : Int) ≤ (capBounds g.ctx).2)
/-- Check 3: SHAPE. -/
def Grid.check3 (g : Grid) : Bool :=
  decide (g.shape % 64 = 0 ∧ g.nmaps ≤ 32 ∧ (capBounds g.ctx).1 ≤ (g.shape : Int) ∧
    ((g.shape + 64 * g.nmaps : Nat) : Int) ≤ (capBounds g.ctx).2)
/-- Check 4: sizes. -/
def State.check4 (s : State) (g : Grid) : Bool :=
  decide (1 ≤ g.bands ∧ g.bands ≤ (s.part g.part).dies.length ∧ 1 ≤ g.teams ∧ g.teams ≤ 8 ∧ 1 ≤ g.tasks ∧ g.tasks ≤ 16 ∧
    g.tasks ≤ onesBelow 16 g.tilemask)
/-- An ASID is live and owned by a partition (R110). -/
def State.asidOwned (s : State) (p asid : Nat) : Bool :=
  let e := s.readNat (s.asidtab.toNat + 8 * asid) 8
  decide (e % 2 = 1 ∧ bf e 60 4 = p)
/-- Check 6: reserved bytes and bits. -/
def Grid.check6 (g : Grid) : Bool :=
  decide (blockNat g.packet 59 1 = 0 ∧ blockNat g.packet 62 2 = 0 ∧ g.flags / 32 = 0 ∧ blockNat g.packet 54 2 / 2 ^ 14 = 0)
/-- The first of checks 1 to 6 that fails; 0 when all pass (R349). -/
def State.packetCheck (s : State) (g : Grid) : Nat :=
  if !g.check1 then 1 else if !g.check2 then 2 else if !g.check3 then 3 else if !s.check4 g then 4
  else if !s.asidOwned g.part g.asid then 5 else if !g.check6 then 6 else 0
/-- Check 7 on one map (R42). -/
def mapOk (b : List Byte) : Bool :=
  let x := leNat b
  let dims := bf x 344 3
  decide (bf x 340 4 = 0 ∧ 1 ≤ dims ∧ dims ≤ 4 ∧ bf x 347 5 = 0 ∧ bf x 448 64 = 0) &&
    (List.range 4).all (fun d => decide (bf x (352 + 8 * d) 8 ≤ 4))
/-- Reads memory of an ASID by walks alone, as the dispatcher does (R39): the bytes, and the state with copies of replicated pages
mended (R392), or the cause. -/
def walkRead (p asid : Nat) : Nat → Nat → Nat → State → Except Nat (List Byte × State)
  | 0, _, _, s => .ok ([], s)
  | fuel + 1, va, n, s =>
    if n = 0 then .ok ([], s)
    else
      let first := min n (65536 - va % 65536)
      let place := match locate va 1 with
        | .virt => match walk s p asid va needR with
          | .error f => Except.error f.cause
          | .ok l => .ok (physOf ⟨asid, 0, l.big, l.pte, l.pteAddr, p⟩ va)
        | .expert => match expertWalk s p va needR with
          | .error f => .error f.cause
          | .ok x => .ok x
        | .hole => .error 0x10
        | _ => .error 0x0E
      match place with
      | .error c => .error c
      | .ok x =>
        let k := 128 * s.refDie p
        let s := s.mend k (dieOf k) x.key first x.repl
        if s.unreadable k x.key first x.repl then .error 0x38
        else match walkRead p asid fuel (va + first) (n - first) s with
          | .error c => .error c
          | .ok (l, t) => .ok (s.readAt x.key first ++ l, t)
/-- EXITVAL of a packet that a check fails (R349). -/
def malformedValue (check map cause : Nat) : Nat := check + map * 2 ^ 8 + cause * 2 ^ 16
/-- The shape record's bytes, or the EXITVAL of check 7 or 8: a record that cannot be read fails check 8. -/
def State.readShape (s : State) (g : Grid) : Except Nat (List Byte × State) :=
  match walkRead g.part g.asid 3 g.shape (64 * g.nmaps) s with
  | .error c => .error (malformedValue 8 0 c)
  | .ok (b, t) =>
    match (List.range g.nmaps).find? (fun i => !mapOk ((b.drop (64 * i)).take 64)) with
    | some i => .error (malformedValue 7 i 0)
    | none => .ok (b, t)

/-! ### Completion records (R36, R348) -/

/-- Writes a completion record. -/
def State.writeCompletion (s : State) (p q slot status job msgdrop start fin exitval : Nat) : State :=
  let b := leBytes 2 status ++ leBytes 2 job ++ leBytes 4 msgdrop ++ leBytes 8 start ++ leBytes 8 fin ++ leBytes 8 exitval
  let a := (s.queue p q).recordAt slot
  State.sendHost ((s.hostTake a 32).writeKey a b false) a b
/-- BUSY of HPRE (R312). -/
def hpreBusy : Nat := 2 ^ 63
/-- HPRE's command on a grid is over. -/
def State.hpreDone (s : State) (g : Grid) : State :=
  s.modPart g.part (fun x =>
    let r := x.hpre.toNat
    if bf r 32 4 = g.queue ∧ r % 2 ^ 32 = g.slot then { x with hpre := BitVec.ofNat 64 (r % hpreBusy) } else x)
/-- A grid completes with a code and an EXITVAL (R36, R348); `keep` leaves it for a relaunch (R426). -/
def State.completeGrid (s : State) (gid code exitval : Nat) (keep : Bool) : State :=
  match s.grid? gid with
  | none => s
  | some g =>
    let status := code + (if g.late ∧ (code = 3 ∨ code = 5 ∨ code = 6) then 2 ^ 8 else 0)
    let s := s.writeCompletion g.part g.queue g.slot status g.job (g.msgdrop % 2 ^ 32) (g.started.getD 0) (s.refTime g.part) exitval
    let s := s.hpreDone g
    { s with
      grids := if keep then keySet s.grids gid { g with phase := .severed } else keyDel s.grids gid
      colls := s.colls.filter (fun c => decide (c.grid ≠ gid) || (keep && c.result.isSome)) }

/-! ### Arbitration (R33) and placement (R37) -/

/-- What competes for placement: a queue's head packet, or a saved grid. -/
structure Cand where
  key : Nat
  resumed : Bool
  queue : Nat
  id : Nat
  deriving DecidableEq, Repr
/-- DEADLINE as a rank: 0 counts as latest. -/
def deadlineKey (d : Nat) : Nat := if d = 0 then 2 ^ 64 else d
/-- A candidate precedes another (R33). -/
def Cand.before (a b : Cand) : Bool :=
  decide (a.key < b.key) || (decide (a.key = b.key) && ((a.resumed && !b.resumed) ||
    (decide (a.resumed = b.resumed) && (decide (a.queue < b.queue) || (decide (a.queue = b.queue) && decide (a.id < b.id))))))
/-- The candidates of a partition. -/
def State.candidates (s : State) (p : Nat) : List Cand :=
  (List.range 16).filterMap (fun q =>
    let u := s.queue p q
    if u.en && decide (1 ≤ u.n ∧ u.n ≤ 16 ∧ u.qrd ≠ u.qwr) then
      some ⟨deadlineKey (s.readNat (u.slotAt u.qrd + 32) 8), false, q, u.qrd⟩
    else none) ++
  (s.grids.filter (fun e => decide (e.2.part = p ∧ (e.2.phase = .saved ∨ e.2.phase = .accepted)))).map (fun e =>
    ⟨deadlineKey e.2.deadline, true, e.2.queue, e.1⟩)
/-- The dispatcher's choice (R33). -/
def State.chosen (s : State) (p : Nat) : Option Cand :=
  (s.candidates p).foldl (fun (best : Option Cand) c =>
    match best with
    | none => some c
    | some b => if c.before b then some c else some b) none
/-- New placements are held (R415, R418), or the partition is not set up. -/
def State.holdsPlacement (s : State) (p : Nat) : Bool :=
  !(s.part p).live || decide (1048576 ≤ s.journal.length) || s.ctlLost

/-- The idle tiles of a cluster that a mask permits, ascending (R37). -/
def State.tilesFor (s : State) (mask cluster : Nat) : List Nat :=
  ((List.range 16).filter (fun i => decide (bf mask i 1 = 1))).map (· + 16 * cluster) |>.filter s.idle
/-- Teams go to clusters in ascending order, each above the last; `want` says which teams are placed. -/
def State.placeTeams (s : State) (mask tasks : Nat) : Nat → List Nat → List Bool → Option (List Nat)
  | _, _, [] => some []
  | 0, _, _ :: _ => none
  | fuel + 1, cs, false :: ts => (s.placeTeams mask tasks fuel cs ts).map (List.replicate tasks 0 ++ ·)
  | _ + 1, [], true :: _ => none
  | fuel + 1, c :: cs, true :: ts =>
    let ks := s.tilesFor mask c
    if tasks ≤ ks.length then (s.placeTeams mask tasks fuel cs ts).map (ks.take tasks ++ ·)
    else s.placeTeams mask tasks fuel cs (true :: ts)
/-- Dies of a partition, ascending. -/
def State.diesOf (s : State) (p : Nat) : List Nat := orderBy (fun (a b : Nat) => decide (a < b)) (s.part p).dies
/-- Bands go to the dies in ascending order. -/
def State.placeBands (s : State) (g : Grid) (want : Nat → Bool) : List Nat → Nat → Nat → Option (List Nat)
  | _, _, 0 => some []
  | [], _, _ + 1 => none
  | d :: ds, b, n + 1 =>
    match s.placeTeams g.tilemask g.tasks 24 ((List.range 8).map (· + 8 * d)) ((List.range g.teams).map (fun j => want (b * g.teams + j))) with
    | none => none
    | some l => (s.placeBands g want ds (b + 1) n).map (l ++ ·)
/-- A placement of every wanted team: cores in global rank order (R37). -/
def State.placement (s : State) (g : Grid) (want : Nat → Bool) : Option (List Nat) := s.placeBands g want (s.diesOf g.part) 0 g.bands
/-- The ranks of a global rank (R38). -/
def Grid.refOf (g : Grid) (gid r : Nat) : TaskRef :=
  { grid := gid, band := r / (g.teams * g.tasks), team := r / g.tasks % g.teams, rank := r % g.tasks }
/-- A task is put on a core (R39), which is powered for it (R404): the tile takes its job tag, ASID and energy class, its banks wake
(R73), and its balances are 0 until the next window starts (R171). -/
def State.seat (s : State) (g : Grid) (gid r k : Nat) : State :=
  State.modTile { s with gated := s.gated.filter (· ≠ k) } k (fun t => { t with
    task := some (g.refOf gid r), job := g.job, asid := g.asid, eclass := g.eclass, drowsy := [], window := lastStart k (s.timeOf k) })
/-- A core that its task has left: the values of R39, with the SVC register and the TLBs of the core. -/
def Tile.vacated (t : Tile) (now : Nat) : Tile :=
  { Tile.idle with svc := t.svc, itlb := t.itlb, dtlb := t.dtlb, trips := t.trips, idleSince := now }
/-- A task leaves its core (R39): chord, consort, tokens and scratchpad are given up. -/
def State.clearTask (s : State) (k : Nat) : State :=
  let s := (((s.takeEvents k).dropChord k).leaveConsort k).releaseTokens k
  let s := (s.zeroScratch k).modTile k (fun t => t.vacated (s.timeOf k))
  s.balanceZone (dieOf k)

/-! ### Task start (R39, R40) -/

/-- The rank word (R39). -/
def Grid.rankWord (g : Grid) (r : TaskRef) : Nat :=
  grankOf g r + r.rank * 2 ^ 16 + r.team * 2 ^ 24 + r.band * 2 ^ 32 + g.tasks * 2 ^ 40 + g.teams * 2 ^ 48 + g.bands * 2 ^ 56
/-- w0 to w63 at the start of a task (R39). -/
def Grid.startRegs (g : Grid) (r : TaskRef) : Vector Reg 64 :=
  Vector.ofFn (fun (i : Fin 64) =>
    if i.val = 1 then g.ctx
    else if i.val = 2 then Reg.plain (BitVec.ofNat 64 (g.rankWord r))
    else if 3 ≤ i.val ∧ i.val ≤ 10 then Reg.plain (g.args.getD (i.val - 3) 0)
    else Reg.null)
/-- The task of a core begins: its registers are set, and with AWAIT_WAKE it waits unless a wake-up was kept for it. -/
def State.startTask (s : State) (k : Nat) (gid : Nat) (g : Grid) (r : TaskRef) : State :=
  let s := s.modGrid gid (fun g => { g with unstarted := g.unstarted.filter (· ≠ k) })
  s.modTile k (fun t => { t with
    pc := g.prog, w := g.startRegs r, wake := t.wake && !g.awaitsWake
    wait := if g.awaitsWake && !t.wake then some ⟨.firstWake, s.timeOf k, 0xFF, 0, 0⟩ else none })
/-- TASK_START (R39). -/
def execTaskStart (core : Nat) (s : State) : Host.Outcome State Fault Refusal :=
  match (s.tile core).task with
  | none => .next s
  | some r => match s.grid? r.grid with
    | none => .next s
    | some g => .next (if g.unstarted.contains core then s.startTask core r.grid g r else s)

/-! ### Waits and stops (R55, R353, R343) -/

/-- The effect of a core's wait is withdrawn; a hang also withdraws the arrival of BARW from IDLE, a stop leaves it (R55,
R353). -/
def State.withdrawWait (s : State) (k : Nat) (hang : Bool) : State :=
  if !(s.tile k).due.isEmpty then State.leaveDue k (s.tile k).due s
  else
  match (s.tile k).wait, (s.tile k).task, s.gridOf k with
  | some w, some r, some g =>
    match w.on with
    | .barrier sc id true barw =>
      if barw && !hang then s else s.modGrid r.grid (fun g => g.withdraw sc (instOf g sc r) id (grankOf g r))
    | .cred sc n => { s with colls := dropJoin s.colls (fun c => c.isAt r.grid sc (instOf g sc r) n) (grankOf g r) }
    | _ => s
  | _, _, _ => s
/-- Every transfer of a core moves on, and one that is refused or stopped ends as a SKIP ends it (R343). -/
def State.endXfers (s : State) (k : Nat) : State :=
  (List.range (s.tile k).xfers.length).foldl (fun (s : State) _ =>
    let n := (s.tile k).xfers.length
    let s := s.completeXfer k 0
    if (s.tile k).xfers.length < n then s else s.skipXfer k 0) s
/-- A task stops under ABORT and leaves its core (R343, R400). -/
def State.stopTask (s : State) (k : Nat) : State :=
  let s := (s.engineDrain k).endXfers k
  let s := (s.drainStores k).withdrawWait k false
  let s := match (s.tile k).task with
    | none => s
    | some r => s.modGrid r.grid (fun g => { g with unstarted := g.unstarted.filter (· ≠ k), saved := g.saved.filter (fun x => decide (x.core ≠ k)) })
  s.clearTask k
/-- Cores that hold a task of a grid. -/
def State.coresOf (s : State) (gid : Nat) : List Nat :=
  (s.tiles.filter (fun e => decide (e.2.task.map (·.grid) = some gid))).map (·.1)
/-- A task that does not execute: it waits, is blocked, has been saved or has not begun. -/
def State.stands (s : State) (g : Grid) (k : Nat) : Bool :=
  (s.tile k).wait.isSome || !(s.tile k).awaiting.isEmpty || g.unstarted.contains k || g.saved.any (fun x => decide (x.core = k))
/-- A grid ends with STATUS 3 and an EXITVAL (R343, R400): tasks that stand stop at once, the others at their next run
boundary. -/
def State.abortGrid (s : State) (gid : Nat) (word : Word) : State :=
  match s.grid? gid with
  | none => s
  | some g =>
    let s := s.modGrid gid (fun g => { g with abort := some (g.abort.getD word), phase := .running, sever := none })
    (s.coresOf gid).foldl (fun (s : State) k =>
      if s.stands g k then s.stopTask k else s.modTile k (fun t => { t with stop := some .abort })) s
/-- GRID_COMPLETE (R36, R343): every task has exited, or the tasks of an aborted grid have stopped. -/
def execGridComplete (grid : Nat) (s : State) : Host.Outcome State Fault Refusal :=
  match s.grid? grid with
  | none => .next s
  | some g =>
    match g.abort with
    | some w => if (s.coresOf grid).isEmpty then s.withRing g.part g.queue g.slot (s.completeGrid grid 3 w.toNat false) else .next s
    | none =>
      if g.phase = .running ∧ g.allExited then
        s.withRing g.part g.queue g.slot (s.completeGrid grid (bit g.late) g.exitval.toNat false)
      else .next s

/-! ### Saving (R55, R363) and severance (R424) -/

/-- The tasks of a grid are to stop and be saved. -/
def State.beginSave (s : State) (gid : Nat) (hold : Bool) (sever : Option (Nat × Nat)) : State :=
  let s := s.modGrid gid (fun g => { g with phase := .saving, hold := hold, sever := sever })
  (s.coresOf gid).foldl (fun (s : State) k => s.modTile k (fun t => { t with stop := some .save })) s
/-- The consorts of a grid: key, leader's rank, member ranks (R167). -/
def State.gridConsorts (s : State) (gid : Nat) (g : Grid) : List (Nat × Nat × List Nat) :=
  let rankOf := fun (k : Nat) => match (s.tile k).task with
    | none => 0
    | some r => grankOf g r
  (s.coresOf gid).filterMap (fun k => match (s.tile k).consort with
    | some c => if c.leader = k then some (c.key, rankOf k, (s.members k).map rankOf) else none
    | none => none)
/-- Teams of which some task was stopped, and teams whose tasks have all exited (R424). -/
def Grid.stoppedTeams (g : Grid) : List Nat :=
  (List.range (g.bands * g.teams)).filter (fun t => !(List.range g.tasks).all (fun i => g.exited.contains (t * g.tasks + i)))
/-- EXITVAL of a severed grid (R424). -/
def Grid.severValue (g : Grid) : Nat :=
  let (die, dir) := g.sever.getD (0, 0)
  let stopped := g.stoppedTeams.length
  bit (g.saved.all (·.written)) * 2 ^ 48 + dir * 2 ^ 40 + die * 2 ^ 32 + stopped * 2 ^ 16 + (g.bands * g.teams - stopped)
/-- A severed grid completes with STATUS 5; it may be relaunched if it is RESTARTABLE and every record reached CTX, while
its partition holds fewer than 16 lists (R426). -/
def State.completeSevered (s : State) (gid : Nat) (g : Grid) : State :=
  let keep := g.restartable && g.saved.all (·.written) &&
    decide ((s.severances.filter (fun x => decide (x.part = g.part))).length < 16)
  let s := if keep then { s with severances := s.severances ++ [⟨g.part, g.queue, g.slot, gid⟩] } else s
  s.completeGrid gid 5 g.severValue keep
/-- Steps 4 and 5 of R55 for every task, once every record has been written (R363). -/
def State.finishSave (s : State) (gid : Nat) : State :=
  match s.grid? gid with
  | none => s
  | some g =>
    let s := s.modGrid gid (fun x => { x with consorts := s.gridConsorts gid g })
    let s := (s.coresOf gid).foldl (fun (s : State) k => s.clearTask k) s
    let s := { s with accounts := s.accounts.map (fun a => if a.1 = .job g.part g.job then (a.1, { a.2 with preempted := true }) else a) }
    if g.sever.isSome then
      match s.grid? gid with
      | none => s
      | some g => s.completeSevered gid g
    else (s.modGrid gid (fun x => { x with phase := if g.hold then .held else .saved, hold := false })).hpreDone g
/-- A grid whose every task has exited or been saved is saved; one whose tasks all exited completes instead. -/
def State.checkSaved (s : State) (gid : Nat) : State :=
  match s.grid? gid with
  | none => s
  | some g =>
    if g.phase ≠ .saving then s
    else if g.allExited && g.sever.isNone then s.modGrid gid (fun x => { x with phase := .running, hold := false })
    else if (s.coresOf gid).all (fun k => g.saved.any (fun x => decide (x.core = k))) then s.finishSave gid
    else s
/-- A save is abandoned (R363): every task continues, and the grid is no victim again. -/
def State.abandonSave (s : State) (gid : Nat) (k : Nat) (f : RecordFail) : State :=
  match s.grid? gid with
  | none => s
  | some g =>
    let s := (s.coresOf gid).foldl (fun (s : State) c => s.modTile c (fun t => { t with
      stop := none, wake := t.wake || g.saved.any (fun x => decide (x.core = c) && x.wake) })) s
    let s := s.modGrid gid (fun x => { x with phase := .running, saved := [], hold := false, noVictim := true })
    let s := s.hpreDone g
    s.record { unitRecord (if f.cause = 0x38 then 2 else f.cause) 0 (if f.cause = 0x38 then 3 else 0xFF) f.addr (some g.part) with
      name := s.nameOf k }
/-- A task has come to where it can be saved (R55, R343): at a run boundary, between two elements of a REP or steps of a BMM (R232,
R265), or in a wait, with no reply outstanding and no transfer that stands stopped for its handler to end. -/
def Tile.atStop (t : Tile) : Bool :=
  t.awaiting.isEmpty && !t.xfers.any (fun x => x.stopped.isSome) && (t.wait.isSome || (decide (t.runPos = 0) && !t.parked))
/-- What a saved task keeps beside its record: a task that waits for its first wake still does. -/
def Tile.keptAside (t : Tile) : Tile :=
  { t.boundary with wait := if t.wait.map (·.on) = some .firstWake then t.wait else none }
/-- A task's record is written, or the save fails; it waits while a home of the record is busy. -/
def State.saveTask (now : State) (k : Nat) (gid : Nat) (g : Grid) (r : TaskRef) : State :=
  let s := (now.withdrawWait k false).modTile k Tile.keptAside
  let t := s.tile k
  let entry := fun (ok : Bool) =>
    ({ grank := grankOf g r, core := k, hold := t.hold - t.revoke, wake := false, aside := t, written := ok } : SavedTask)
  match s.writeRecord k (g.ctx.addr + recordBytes * grankOf g r) with
  | .ok s => (s.modGrid gid (fun g => { g with saved := g.saved ++ [entry true] })).checkSaved gid
  | .error f =>
    if f.cause = 0 then now
    else if g.sever.isSome then (s.modGrid gid (fun g => { g with saved := g.saved ++ [entry false] })).checkSaved gid
    else s.abandonSave gid k f
/-- TASK_SAVE (R55): engine instructions retire, stores are performed and transfers land first, its own and those of others into its
slots, so that no slot is left FILLING. -/
def execTaskSave (core : Nat) (s : State) : Host.Outcome State Fault Refusal :=
  match (s.tile core).task with
  | none => .next s
  | some r => match s.grid? r.grid with
    | none => .next s
    | some g =>
      if g.phase ≠ .saving ∨ (s.tile core).atStop = false ∨ g.unstarted.contains core ∨ g.saved.any (fun x => decide (x.core = core)) then
        .next s
      else
        let t := (s.engineDrain core).drainStores core
        if t.xfersOut core || !(t.tile core).eng.isEmpty || t.undrained core (fun _ => true) ||
            (t.tile core).slots.toList.any (fun x => decide (x.state = .filling)) then .next s
        else s.withRing g.part g.queue g.slot (t.saveTask core r.grid g r)

/-! ### Dispatch (R34, R35, R54) -/

/-- A packet leaves its queue (R36). -/
def State.popPacket (s : State) (p q : Nat) : State := s.modQueue p q (fun u => { u with qrd := (u.qrd + 1) % 2 ^ 32 })
/-- The grid that a waiting packet pre-empts (R54): the later start is the later START, and a grid that has not run an instruction is
yet to start (R36). -/
def State.victimGrid (s : State) (p : Nat) (g : Grid) : Option Nat :=
  let cand := s.grids.filter (fun e => decide (e.2.part = p ∧ e.2.phase = .running ∧ e.2.abort = none ∧ e.2.noVictim = false ∧
    e.2.eclass < g.eclass ∧ deadlineKey g.deadline < deadlineKey e.2.deadline) && !e.2.allExited)
  let start := fun (x : Grid) => x.started.getD (2 ^ 64)
  let worse := fun (a b : Nat × Grid) =>
    decide (deadlineKey b.2.deadline < deadlineKey a.2.deadline ∨ (deadlineKey b.2.deadline = deadlineKey a.2.deadline ∧
      (a.2.eclass < b.2.eclass ∨ (a.2.eclass = b.2.eclass ∧ (start b.2 < start a.2 ∨ (start b.2 = start a.2 ∧ b.2.startOrder < a.2.startOrder))))))
  ((orderBy worse cand).head?).map (·.1)
/-- A chosen packet that cannot be placed has a grid saved for it, one at a time, where policy enables it (R54). -/
def State.preemptFor (s : State) (p : Nat) (g : Grid) : State :=
  if bf s.preempten.toNat p 1 = 0 ∨ s.grids.any (fun e => decide (e.2.part = p ∧ e.2.phase = .saving)) then s
  else match s.victimGrid p g with
    | none => s
    | some v => s.beginSave v false none
/-- A job has had a packet enqueued: its account is not about to close (R187). -/
def State.noteJob (s : State) (p job : Nat) : State :=
  { s with accounts := s.accounts.map (fun a => if a.1 = .job p job then (a.1, { a.2 with closing := false }) else a) }
/-- A packet completes without running: MALFORMED or EXPIRED (R349, R35). -/
def State.rejectPacket (s : State) (g : Grid) (code exitval : Nat) : State :=
  ((s.noteJob g.part g.job).popPacket g.part g.queue).writeCompletion g.part g.queue g.slot code g.job 0 0 (s.refTime g.part) exitval
/-- A placed grid's tasks are put on their cores, with the shape record in every scratchpad (R39). -/
def State.seatGrid (s : State) (g : Grid) (gid : Nat) (cores : List Nat) (shape : List Byte) : State :=
  let s := s.noteJob g.part g.job
  let s := { s with grids := keySet s.grids gid { g with cores := cores, unstarted := cores } }
  cores.zipIdx.foldl (fun (s : State) c => (s.seat g gid c.2 c.1).writeKey (scratchAt c.1 0) shape false) s
/-- The decision on a chosen packet (R34, R35, R349). While no placement can be made the packet stays at its queue's head: the next
decision reads the slot, and compares the deadline, anew (log entry 47). -/
def State.decidePacket (s : State) (p q : Nat) : State :=
  let u := s.queue p q
  let (gid, s) := s.fresh
  let g := s.packetAt p q u.qrd gid
  let late := decide (g.deadline ≠ 0 ∧ g.deadline < s.refTime p)
  let g := { g with late := late }
  if s.isBad (u.slotAt u.qrd) 128 then s.rejectPacket g 4 (malformedValue 8 0 0x38)
  else if s.packetCheck g ≠ 0 then s.rejectPacket g 4 (malformedValue (s.packetCheck g) 0 0)
  else if late ∧ g.dropIfLate then s.rejectPacket g 2 0
  else match s.placement g (fun _ => true) with
    | none => s.preemptFor p g
    | some cores =>
      match s.readShape g with
      | .error v => s.rejectPacket g 4 v
      | .ok (b, s) => (s.popPacket p q).seatGrid g gid cores b
/-- DISPATCH (R34): the chosen packet, once its placement can be made. -/
def execDispatch (part : Nat) (s : State) : Host.Outcome State Fault Refusal :=
  match s.chosen part with
  | none => .next s
  | some c =>
    if c.resumed ∨ s.holdsPlacement part then .next s
    else s.withRing part c.queue (s.queue part c.queue).qrd (s.decidePacket part c.queue)

/-! ### Resumption (R56, R161, R167, R364) -/

/-- Cores for saved tasks: their own names when idle, or another idle name of the kind in the cluster when the name is
vacant (R56, R403). -/
def State.resumeCores (s : State) : List SavedTask → List Nat → Option (List Nat)
  | [], _ => some []
  | x :: l, used =>
    let own := s.idle x.core && !used.contains x.core
    let other := ((List.range 16).map (· + 16 * clusterOf x.core)).find? (fun k =>
      decide (kindOf k = kindOf x.core) && s.idle k && !used.contains k && !l.any (fun y => decide (y.core = k)))
    match if own then some x.core else if s.live x.core then none else other with
    | none => none
    | some k => (s.resumeCores l (k :: used)).map (k :: ·)
/-- Restores a task from its record on a core that holds it; a failure gives the EXITVAL of STATUS 6 (R364). Which cause
stands for a wrong FORMAT or KIND is not stated: a free value. No EXITVAL stands for a read that waits at a home. -/
def State.restoreTask (s : State) (g : Grid) (x : SavedTask) (k : Nat) : Except (Option Word) State :=
  match s.readRecord k (g.ctx.addr + recordBytes * x.grank) with
  | .error f => .error (if f.cause = 0 then none else some (BitVec.ofNat 64 (TrapReport.word ⟨f.cause, f.akind, 0xFF, 0, 0, 0, 0⟩)))
  | .ok (r, s) =>
    if r.nat 0 4 ≠ 1 ∨ r.nat 4 1 ≠ kindOf k then .error (some (Config.freeWord s.free))
    else
      let now := s.tile k
      let t := r.tile now x.aside
      let woken := x.wake || t.wake
      let first := t.wait.isSome && woken
      let s := s.setTile k { t with
        wake := if t.wait.isSome then false else woken
        wait := if first then none else t.wait }
      .ok (s.restoreScratch k r)
/-- Restores every task of a grid. -/
def State.restoreAll (s : State) (g : Grid) : List (SavedTask × Nat) → Except (Option Word) State
  | [] => .ok s
  | (x, k) :: l =>
    match s.restoreTask g x k with
    | .error w => .error w
    | .ok s => s.restoreAll g l
/-- The rectangle that a resumed chord takes (R161): the saved one if eligible, else the first eligible shape. -/
def State.rechord (s : State) (k : Nat) (c : Chord) : Option (Nat × Nat × Nat) :=
  let cl := clusterOf k
  let ok := fun (r : Nat × Nat × Nat) => s.eligible k (rectCores cl r.1 r.2.1 r.2.2)
  let origins := (List.range 4).flatMap (fun y => (List.range 4).map (fun x => (x, y)))
  let tries := (c.x0, c.y0, c.shape) :: [5, 4, 3, 2, 1, 0].flatMap (fun sh => origins.map (fun o => (o.1, o.2, sh)))
  tries.find? ok
/-- A restored chord is recomposed on its anchor. -/
def State.recompose (s : State) (k : Nat) (c : Option Chord) : State :=
  match c with
  | none => s
  | some c => match s.rechord k c with
    | none => s
    | some (x, y, sh) => s.formChord k x y sh (rectCores (clusterOf k) x y sh)
/-- The restored members of the grid's consorts, detached (R167). -/
def State.reconsort (s : State) (g : Grid) : State :=
  g.consorts.foldl (fun (s : State) c =>
    c.2.2.foldl (fun (s : State) r =>
      if g.exited.contains r then s
      else
        let x : Consort := ⟨c.1, coreOfRank g c.2.1, false, [], false, false, false, none, c.2.2.length⟩
        s.modTile (coreOfRank g r) (fun t => { t with consort := some x })) s) s
/-- The proofer receives a request on a task's behalf for the holding that was recorded (R56, R174). -/
def State.askTokens (s : State) (k n : Nat) : State :=
  if n = 0 then s else s.modDie (dieOf k) (fun d => { d with requests := d.requests ++ [(k, n)] })
/-- A saved grid takes cores and continues, or ends UNRESTORABLE (R364). The proofers receive its requests in ascending core name. -/
def State.resumeOn (s : State) (gid : Nat) (g : Grid) (pairs : List (SavedTask × Nat)) : State :=
  let cores := pairs.foldl (fun (l : List Nat) x => l.set x.1.grank x.2) (g.cores ++ List.replicate (g.size - g.cores.length) 0)
  let g' := { g with cores := cores, phase := .running, saved := [], consorts := [], sever := none }
  let seated := pairs.foldl (fun (s : State) x => s.seat g gid x.1.grank x.2) s
  match seated.restoreAll g pairs with
  | .error none => s
  | .error (some w) => s.completeGrid gid 6 w.toNat false
  | .ok s =>
    let s := pairs.foldl (fun (s : State) x => s.recompose x.2 x.1.aside.chord) s
    let s := { s with grids := keySet s.grids gid g' }
    let s := s.reconsort { g with cores := cores }
    (orderBy (fun (a b : Nat × Nat) => decide (a.1 < b.1)) (pairs.map (fun x => (x.2, x.1.hold)))).foldl (fun (s : State) r => s.askTokens r.1 r.2) s
/-- The cores of a relaunched grid: its stopped teams are placed by R37 (R426). -/
def State.relaunchCores (s : State) (g : Grid) : Option (List (SavedTask × Nat)) :=
  (s.placement g (fun t => g.stoppedTeams.contains t)).map (fun cores => g.saved.map (fun x => (x, cores.getD x.grank 0)))
/-- GRID_RESUME (R56, R426): the grid is the dispatcher's choice and its cores are idle. -/
def execGridResume (grid : Nat) (s : State) : Host.Outcome State Fault Refusal :=
  match s.grid? grid with
  | none => .next s
  | some g =>
    let mine := match s.chosen g.part with
      | none => false
      | some c => c.resumed && decide (c.id = grid)
    if !mine || s.holdsPlacement g.part then .next s
    else if g.phase = .accepted then
      if s.packetCheck g ≠ 0 then
        s.withRing g.part g.queue g.slot (s.completeGrid grid 4 (malformedValue (s.packetCheck g) 0 0) false)
      else match s.relaunchCores g with
        | none => .next s
        | some pairs => s.withRing g.part g.queue g.slot (s.resumeOn grid g pairs)
    else match s.resumeCores g.saved [] with
      | none => .next s
      | some cores => s.withRing g.part g.queue g.slot (s.resumeOn grid g (g.saved.zip cores))

/-! ### The host's commands (R312, R426) -/

/-- The grid that was dispatched from a slot and satisfies a condition. -/
def State.gridFrom (s : State) (p q slot : Nat) (f : Grid → Bool) : Option Nat :=
  (s.grids.find? (fun e => decide (e.2.part = p ∧ e.2.queue = q ∧ e.2.slot = slot) && f e.2)).map (·.1)
/-- HPRE's commands 1 and 2: a running grid is saved, and held after command 2; one whose tasks have all exited has completed (R36). -/
def State.hpreSave (s : State) (p q slot : Nat) (hold : Bool) : State :=
  match s.gridFrom p q slot (fun g => decide (g.phase = .running ∧ g.abort = none) && !g.allExited) with
  | none => s
  | some gid => (s.beginSave gid hold none).modPart p (fun x => { x with hpre := BitVec.ofNat 64 (x.hpre.toNat % hpreBusy + hpreBusy) })
/-- HPRE's command 3: a held grid competes again. -/
def State.hpreRelease (s : State) (p q slot : Nat) : State :=
  match s.gridFrom p q slot (fun g => decide (g.phase = .held)) with
  | none => s
  | some gid => s.modGrid gid (fun g => { g with phase := .saved })
/-- A write of HPRE (R312): not performed while BUSY. -/
def State.writeHpre (s : State) (p q slot cmd : Nat) : State :=
  if hpreBusy ≤ (s.part p).hpre.toNat then s
  else
    let s := s.modPart p (fun x => { x with hpre := BitVec.ofNat 64 (slot % 2 ^ 32 + q % 16 * 2 ^ 32) })
    match cmd with
    | 1 => s.hpreSave p q slot false
    | 2 => s.hpreSave p q slot true
    | 3 => s.hpreRelease p q slot
    | _ => s
/-- HPRE_PREEMPT (R312). -/
def execHprePreempt (part q slot : Nat) (s : State) : Host.Outcome State Fault Refusal := .next (s.writeHpre part q slot 1)
/-- HPRE_PREEMPT_HOLD (R312). -/
def execHprePreemptHold (part q slot : Nat) (s : State) : Host.Outcome State Fault Refusal := .next (s.writeHpre part q slot 2)
/-- HPRE_RESUME (R312). -/
def execHpreResume (part q slot : Nat) (s : State) : Host.Outcome State Fault Refusal := .next (s.writeHpre part q slot 3)
/-- A write of RELAUNCH with CMD 1 (R426). -/
def State.writeRelaunch (s : State) (p q slot : Nat) (cmd : Bool) : State :=
  let fields := slot % 2 ^ 32 + q % 16 * 2 ^ 32
  let put := fun (s : State) (err : Bool) => s.modPart p (fun x => { x with relaunch := BitVec.ofNat 64 (fields + bit err * 2 ^ 62) })
  if !cmd then put s (decide (bf (s.part p).relaunch.toNat 62 1 = 1))
  else
    match s.severances.find? (fun x => decide (x.part = p ∧ x.queue = q ∧ x.slot = slot)) with
    | none => put s true
    | some x =>
      match s.grid? x.grid with
      | none => put s true
      | some g =>
        if s.readAt ((s.queue p q).slotAt slot) 128 = g.packet then
          let s := { s with severances := s.severances.filter (fun y => !decide (y = x)) }
          put (s.modGrid x.grid (fun g => { g with phase := .accepted, part := p })) false
        else put s true
/-- RELAUNCH (R426). -/
def execRelaunch (part q slot : Nat) (s : State) : Host.Outcome State Fault Refusal := .next (s.writeRelaunch part q slot true)

/-! ### EXIT (R298) -/

/-- The task of a core ends (R298, R49, R36). -/
def State.exitTask (s : State) (k : Nat) (x : Word) : State :=
  match (s.tile k).task, s.gridOf k with
  | some r, some g =>
    let t := s.tile k
    let rank := grankOf g r
    let s := s.clearTask k
    let s := s.modGrid r.grid (fun g => Grid.settleBars { g with
      exited := g.exited ++ [rank], msgdrop := g.msgdrop + t.inbox.length + t.spilled.length
      exitval := if rank = 0 then x else g.exitval })
    s.checkSaved r.grid
  | _, _ => s.clearTask k
/-- EXIT (R298): it waits until the task's transfers have ended. -/
def execExit (a : Fin 64) (sw : Bool) (s : State) : Host.Outcome State Fault Refusal :=
  issue { metaC 0x0E 1 4 sw [wr a] with engine := true, drain := .stores .system } (do
    endRule
    let s ← get
    if s.xfersOut s.cur then waitFor .engine
    let x ← readX a
    let k ← me
    modify (fun s => s.exitTask k x)
    pure .gone) s

end Sys2Proof.Machine
end

