-- ==== Sys2Proof/Machine/Registers.lean ====
section
/-! DEFINITION. Registers by name: the maps of the partition, die and module-controller blocks (R31, R181, R310 to R312,
R316, R352, R358, R410, R420, R426) and the system registers of a core (R301, R302), with SRD and SWR and the events that
write registers. -/

namespace Sys2Proof.Machine

/-! ### Blocks (R311) -/

/-- Registers of a queue, by their order in a block (R31, R301). -/
def queueReg (j : Nat) : Option (Nat → Nat → MReg) :=
  match j with
  | 0 => some .qbase
  | 1 => some .qcbase
  | 2 => some .qctl
  | 3 => some .qwr
  | 4 => some .qrd
  | _ => none
/-- Registers of a zone, by their order in a block (R181). -/
def zoneReg (j : Nat) : Nat → MReg :=
  match j with
  | 0 => .zpool
  | 1 => .znotice
  | 2 => .zlend
  | _ => .zstat
/-- Registers of a host window, by their order in a block (R310). -/
def windowReg (j : Nat) : Nat → Nat → MReg :=
  match j with
  | 0 => .hwbase
  | 1 => .hwlen
  | 2 => .hwhost
  | _ => .hwctl
/-- Keeps the bits of a mask. -/
def maskTo (v : Word) (m : Nat) : Word := v &&& BitVec.ofNat 64 m
/-- ZLEND's word. -/
def Die.zlend (d : Die) : Nat := d.dirs % 16 * 2 ^ 16 + d.lowmark % 256 * 2 ^ 8 + d.lendmax % 256
/-- ZSTAT's word (R181). -/
def State.zstat (s : State) (d : Nat) : Nat :=
  s.freeTokens d % 256 + s.held d % 256 * 2 ^ 8 + loans (s.die d).lent % 256 * 2 ^ 16 + loans (s.die d).borrowed % 256 * 2 ^ 24
/-- LINKSTAT's word (R420). -/
def Link.word (l : Link) : Nat := l.state % 4 + l.up % 16 * 2 ^ 4 + l.degraded % 16 * 2 ^ 8 + l.retrains % 256 * 2 ^ 12
/-- A host window. -/
def State.window (s : State) (p n : Nat) : HostWin := (s.part p).windows[n]?.getD HostWin.reset
/-- Reads a register by its name; an access by offset is no name. -/
def State.namedRead (s : State) (r : MReg) : Word :=
  match r with
  | .qbase p q => (s.queue p q).qbase
  | .qcbase p q => (s.queue p q).qcbase
  | .qctl p q => (s.queue p q).qctl
  | .qwr p q => BitVec.ofNat 64 (s.queue p q).qwr
  | .qrd p q => BitVec.ofNat 64 (s.queue p q).qrd
  | .hpre p => (s.part p).hpre
  | .hangctl p => (s.part p).hangctl
  | .relaunch p => (s.part p).relaunch
  | .hwbase p n => (s.window p n).base
  | .hwlen p n => (s.window p n).len
  | .hwhost p n => (s.window p n).host
  | .hwctl p n => (s.window p n).ctl
  | .cnbase p => (s.part p).cnbase
  | .cnctl p => (s.part p).cnctl
  | .cnrd p => BitVec.ofNat 64 (s.part p).cnrd
  | .zpool d => BitVec.ofNat 64 (s.die d).pool
  | .znotice d => BitVec.ofNat 64 (s.die d).notice
  | .zlend d => BitVec.ofNat 64 (s.die d).zlend
  | .zstat d => BitVec.ofNat 64 (s.zstat d)
  | .ovf d => (s.die d).ovf
  | .tripctl d => (s.die d).tripctl
  | .tripstat d => (s.die d).tripstat
  | .linkstat d k => BitVec.ofNat 64 ((s.die d).links[k]?.getD Link.reset).word
  | .asidtab => s.asidtab
  | .jperiod => s.jperiod
  | .preempten => s.preempten
  | .bar0 .. | .space .. => 0
/-- Changes a host window. -/
def State.modWindow (s : State) (p n : Nat) (f : HostWin → HostWin) : State :=
  s.modPart p (fun x => { x with windows := x.windows.setIfInBounds n (f (s.window p n)) })
/-- A write of CNCTL (R316): one with EN 0 takes effect once every entry taken has completed. -/
def State.writeCnctl (s : State) (p : Nat) (v : Word) : State :=
  let x := maskTo v 0x3FFF011F
  if bf v.toNat 8 1 = 1 ∨ !(s.part p).cnTaken.any (fun e => e.done.isNone) then
    s.modPart p (fun y => { y with cnctl := x, cnPending := none })
  else s.modPart p (fun y => { y with cnPending := some x })
/-- A write of OVF: with CORE 0 the overflowing arrivals of the die are dropped (R358). -/
def State.writeOvf (s : State) (d : Nat) (v : Word) : State :=
  let s := s.modDie d (fun x => { x with ovf := maskTo v 0xFFFFFFFFF })
  if v.toNat % 2 ^ 32 ≠ 0 then s
  else
    let mine := fun (r : Row) => decide (r.die = d ∧ r.held ≠ 0 ∧ r.held ≠ 4)
    let gone := s.rows.filter mine
    gone.foldl (fun (s : State) r => s.dropRow r.die r.buf) { s with rows := s.rows.filter (fun r => !mine r) }
/-- Writes a register by its name and the access codes of its map (R5): RO fields keep their values, W1C bits are cleared. -/
def State.namedWrite (s : State) (r : MReg) (v : Word) : State :=
  let x := v.toNat
  match r with
  | .qbase p q => s.modQueue p q (fun u => { u with qbase := maskTo v 0xFFFFFFFFFFFFFF80 })
  | .qcbase p q => s.modQueue p q (fun u => { u with qcbase := maskTo v 0xFFFFFFFFFFFFFFE0 })
  | .qctl p q => s.modQueue p q (fun u => { u with qctl := maskTo v 0x3F })
  | .qwr p q => s.writeQwr p q (x % 2 ^ 32)
  | .qrd _ _ => s
  | .hpre p => s.writeHpre p (bf x 32 4) (x % 2 ^ 32) (bf x 61 2)
  | .hangctl p => s.modPart p (fun y => { y with hangctl := maskTo v 0xFFFFFFFF7F })
  | .relaunch p => s.writeRelaunch p (bf x 32 4) (x % 2 ^ 32) (decide (bf x 61 1 = 1))
  | .hwbase p n => s.modWindow p n (fun w => { w with base := maskTo v 0xFFFFFC0000000 })
  | .hwlen p n => s.modWindow p n (fun w => { w with len := maskTo v 0xFFFF })
  | .hwhost p n => s.modWindow p n (fun w => { w with host := maskTo v 0xFFFFFFFFC0000000 })
  | .hwctl p n => s.modWindow p n (fun w => { w with ctl := maskTo v 0xF })
  | .cnbase p => s.modPart p (fun y => { y with cnbase := maskTo v 0xFFFFFFFFFFFFC0 })
  | .cnctl p => s.writeCnctl p v
  | .cnrd _ => s
  | .zpool d => if d < Config.dies then (s.setPool d x).balanceZone d else s
  | .znotice d => s.modDie d (fun y => { y with notice := max 64 (x % 2 ^ 16) })
  | .zlend d => (s.modDie d (fun y => { y with dirs := bf x 16 4, lowmark := bf x 8 8, lendmax := bf x 0 8 })).balanceZone d
  | .zstat _ => s
  | .ovf d => s.writeOvf d v
  | .tripctl d => s.modDie d (fun y => { y with tripctl := BitVec.ofNat 64 (min 110 (bf x 16 8) * 2 ^ 16 + min 150 (bf x 0 10)) })
  | .tripstat d => s.modDie d (fun y => { y with tripstat := y.tripstat &&& ~~~(maskTo v 0xF) })
  | .linkstat _ _ => s
  | .asidtab => { s with asidtab := maskTo v 0xFFFFFFFFE0000 }
  | .jperiod => { s with jperiod := BitVec.ofNat 64 (max 100 (min 60000 (x % 2 ^ 16))) }
  | .preempten => { s with preempten := maskTo v 0xFFFF }
  | .bar0 .. | .space .. => s

/-! ### The module register space (R311) -/

/-- The register at an offset of a partition block. -/
def blockReg (p o : Nat) : Option MReg :=
  if o < 0x400 then (queueReg (o % 0x40 / 8)).map (fun f => f p (o / 0x40))
  else if 0x2000 ≤ o ∧ o < 0x2100 then some (windowReg (o % 32 / 8) p ((o - 0x2000) / 32))
  else match o with
    | 0x1000 => some (.hpre p)
    | 0x1008 => some (.hangctl p)
    | 0x1010 => some (.relaunch p)
    | 0x3000 => some (.cnbase p)
    | 0x3008 => some (.cnctl p)
    | 0x3010 => some (.cnrd p)
    | _ => none
/-- The register at an offset of a die block (R181, R358, R410, R420). -/
def dieReg (d o : Nat) : Option MReg :=
  if o < 0x20 then some (zoneReg (o / 8) d)
  else if 0x40 ≤ o ∧ o < 0x60 then some (.linkstat d ((o - 0x40) / 8))
  else match o with
    | 0x20 => some (.ovf d)
    | 0x28 => some (.tripctl d)
    | 0x30 => some (.tripstat d)
    | _ => none
/-- The register at an offset of the module-controller block (R312). -/
def moduleReg (o : Nat) : Option MReg :=
  match o with
  | 0 => some .asidtab
  | 8 => some .jperiod
  | 16 => some .preempten
  | _ => none
/-- The 8 bytes that a partition block gives at an aligned offset: a register, or its peer or group table (R317). -/
def State.blockRead (s : State) (p o : Nat) : Word :=
  if 0x4000 ≤ o ∧ o < 0x6000 then BitVec.ofNat 64 (blockNat (keyGet [] (s.part p).peers ((o - 0x4000) / 32)) (o % 32) 8)
  else if 0x6000 ≤ o ∧ o < 0x7000 then BitVec.ofNat 64 (blockNat (keyGet [] (s.part p).groups ((o - 0x6000) / 64)) (o % 64) 8)
  else ((blockReg p o).map s.namedRead).getD 0
/-- First address of the partition blocks. -/
def blockBase : Nat := 0x0_0300_0000_0000
/-- First address of the die blocks. -/
def dieBase : Nat := 0x0_0310_0000_0000
/-- First address of the module-controller block. -/
def moduleBase : Nat := 0x0_0320_0000_0000
/-- The register at an aligned address outside the partition blocks. -/
def spaceReg (pa : Nat) : Option MReg :=
  if dieBase ≤ pa ∧ pa < dieBase + Config.dies * 2 ^ 20 then dieReg ((pa - dieBase) / 2 ^ 20) ((pa - dieBase) % 2 ^ 20)
  else if moduleBase ≤ pa then moduleReg (pa - moduleBase)
  else none
/-- Partition and offset of an address of the partition blocks. -/
def blockOf (pa : Nat) : Option (Nat × Nat) :=
  if blockBase ≤ pa ∧ pa < blockBase + 16 * 2 ^ 24 then some ((pa - blockBase) / 2 ^ 24, (pa - blockBase) % 2 ^ 24) else none
/-- Only naturally aligned accesses of 8 bytes are performed. -/
def performed (a n : Nat) : Bool := decide (n = 8 ∧ a % 8 = 0)
/-- Reads a register, by its name, by an offset of BAR0 of a logical device, or by its address. -/
def State.regRead (s : State) (r : MReg) : Word :=
  match r with
  | .bar0 p o n => if performed o n ∧ p < 16 then s.blockRead p o else 0
  | .space pa n =>
    if !performed pa n then 0
    else match blockOf pa with
      | some (p, o) => s.blockRead p o
      | none => ((spaceReg pa).map s.namedRead).getD 0
  | r => s.namedRead r
/-- The register that a write reaches; the tables are not written so (R317). -/
def regTarget (r : MReg) : Option MReg :=
  match r with
  | .bar0 p o n => if performed o n ∧ p < 16 then blockReg p o else none
  | .space pa n =>
    if !performed pa n then none
    else match blockOf pa with
      | some (p, o) => blockReg p o
      | none => spaceReg pa
  | r => some r
/-- Writes a register. -/
def State.regWrite (s : State) (r : MReg) (v : Word) : State :=
  match regTarget r with
  | none => s
  | some r => s.namedWrite r v
/-- REGISTER_WRITE (R5). -/
def execRegisterWrite (reg : MReg) (value : BitVec 64) (s : State) : Host.Outcome State Fault Refusal := .next (s.regWrite reg value)
/-- QWR (R31, R442). -/
def execQwr (part q : Nat) (value : BitVec 64) (s : State) : Host.Outcome State Fault Refusal :=
  .next (s.writeQwr part q (value.toNat % 2 ^ 32))
/-- QCTL (R31, R34). -/
def execQctl (part q : Nat) (value : BitVec 64) (s : State) : Host.Outcome State Fault Refusal :=
  .next (s.regWrite (.qctl part q) value)
/-- CNCTL (R316). -/
def execCnctl (part : Nat) (value : BitVec 64) (s : State) : Host.Outcome State Fault Refusal := .next (s.writeCnctl part value)

/-! ### System registers of a core (R301) -/

/-- The registers of R301. -/
inductive Sys where
  | fctl | vstatus | rscnt | wcfg (n : Nat) | hpc | rspill | ispill | amode (n : Nat) | time | name | taskinfo
  | classCap (n : Nat) | classCfg (n : Nat) | block (r : Nat → MReg) | zone (r : Nat → MReg) | svc
/-- The register of a number; none where it is unallocated. -/
def sysOf (n : Nat) : Option Sys :=
  if n = 0 then some .fctl
  else if n = 1 then some .vstatus
  else if n = 2 then some .rscnt
  else if 0x10 ≤ n ∧ n < 0x20 then some (.wcfg (n - 0x10))
  else if n = 0x20 then some .hpc
  else if n = 0x21 then some .rspill
  else if n = 0x22 then some .ispill
  else if 0x28 ≤ n ∧ n < 0x30 then some (.amode (n - 0x28))
  else if n = 0x30 then some .time
  else if n = 0x31 then some .name
  else if n = 0x32 then some .taskinfo
  else if 0x40 ≤ n ∧ n < 0x50 then some (.classCap (n - 0x40))
  else if 0x50 ≤ n ∧ n < 0x60 then some (.classCfg (n - 0x50))
  else if 0x100 ≤ n ∧ n < 0x180 then (queueReg ((n - 0x100) % 8)).map (fun f => Sys.block (fun p => f p ((n - 0x100) / 8)))
  else if 0x180 ≤ n ∧ n < 0x184 then some (.zone (zoneReg (n - 0x180)))
  else if n = 0x190 then some .svc
  else none
/-- SWR of the register is privileged (R301). -/
def sysPriv (n : Nat) : Bool := decide (0x100 ≤ n)
/-- TASKINFO (R302). -/
def Tile.taskInfo (t : Tile) (k : Nat) : Nat := t.job % 2 ^ 16 + t.asid % 2 ^ 14 * 2 ^ 16 + t.eclass % 4 * 2 ^ 30 + kindOf k * 2 ^ 32
/-- The value of a register, as plain data or a capability. -/
def State.sysRead (s : State) (r : Sys) : Reg :=
  let t := s.tile s.cur
  match r with
  | .fctl => Reg.plain t.fctl
  | .vstatus => Reg.plain t.vstatus
  | .rscnt => Reg.plain (BitVec.ofNat 64 t.rscnt)
  | .wcfg n => Reg.plain (t.wcfg[n]?.getD 0)
  | .hpc => t.hpc
  | .rspill => t.rspill
  | .ispill => t.ispill
  | .amode n => Reg.plain ((t.acc[n]?.getD Acc.reset).mode)
  | .time => Reg.plain (BitVec.ofNat 64 (s.timeOf s.cur))
  | .name => Reg.plain (BitVec.ofNat 64 (s.nameOf s.cur))
  | .taskinfo => Reg.plain (BitVec.ofNat 64 (t.taskInfo s.cur))
  | .classCap n => (t.cls n).cap
  | .classCfg n => Reg.plain (t.cls n).cfg
  | .block f => Reg.plain (s.regRead (f (s.partNo s.cur)))
  | .zone f => Reg.plain (s.regRead (f (dieOf s.cur)))
  | .svc => Reg.plain t.svc
/-- k summed over the enabled RANKED classes (R47). -/
def Tile.rankedTotal (t : Tile) : Nat :=
  ((List.range 16).map (fun c => if (t.cls c).en && (t.cls c).ranked then (t.cls c).depth else 0)).sum
/-- A class's entries are discarded and counted (R301). -/
def Tile.dropClass (t : Tile) (c : Nat) : Tile :=
  let n := (t.held c).length
  let t := { t with inbox := t.inbox.filter (fun m => decide (m.cls ≠ c)), spilled := t.spilled.filter (fun m => decide (m.cls ≠ c)) }
  (t.modCls c (fun e => { e with discards := (e.discards + n) % 2 ^ 32, arrivals := 0, latch := false })).unspill
/-- A write of a class configuration that is legal (R301): one that changes KIND or KM1, or clears EN, discards the class's
entries. -/
def Tile.setCfg (t : Tile) (c : Nat) (x : Word) : Tile :=
  let old := (t.cls c).cfg.toNat
  let set := t.modCls c (fun e => { e with cfg := x })
  if bf old 1 7 ≠ bf x.toNat 1 7 ∨ (old % 2 = 1 ∧ x.toNat % 2 = 0) then set.dropClass c else set
/-- Writes a register of the core; `v` names the value's register field. -/
def sysWrite (v : Fin 64) (r : Sys) (c : Reg) : Op Unit := do
  let x := c.lo
  match r with
  | .fctl => modT (fun t => { t with fctl := maskTo x 3 })
  | .vstatus => modT (fun t => { t with vstatus := t.vstatus &&& ~~~(maskTo x 31) })
  | .wcfg n => modT (fun t => { t with wcfg := t.wcfg.setIfInBounds n (maskTo x 0x7FFFF) })
  | .hpc => modT (fun t => { t with hpc := c })
  | .rspill => modT (fun t => { t with rspill := c })
  | .ispill => modT (fun t => { t with ispill := c })
  | .classCap n => modT (fun t => t.modCls n (fun e => { e with cap := c }))
  | .classCfg n => do
    let t ← getT
    fieldOk v 2 (decide ((t.modCls n (fun e => { e with cfg := x })).rankedTotal ≤ 48))
    zeroField v x.toNat 20 64
    modT (fun t => t.setCfg n x)
  | .block f => modify (fun s => match s.partOf s.cur with
    | none => s
    | some p => s.regWrite (f p) x)
  | .zone f => modify (fun s => s.regWrite (f (dieOf s.cur)) x)
  | .svc => do
    zeroField v x.toNat 36 64
    modT (fun t => { t with svc := x })
  | _ => pure ()
/-- UNALLOCATED for a register number (R377); DETAIL holds the instruction's bits (R368). -/
def noSrn {α : Type} (i : Instr) : Op α := trap 0x01 .none 0 (bitsOf i % 2 ^ 32 * 2 ^ 16)
/-- SRD (R301). -/
def execSrd (d : Fin 64) (srn : Fin 2048) (sw : Bool) (s : State) : Host.Outcome State Fault Refusal :=
  issue { metaD 0x3C 2 sw [] [wr d] with sync := true } (do
    match sysOf srn with
    | none => noSrn (.srd d srn sw)
    | some r => do
      let s ← get
      writeW d (s.sysRead r)
      seqFlow) s
/-- SWR (R301). -/
def execSwr (v : Fin 64) (srn : Fin 2048) (sw : Bool) (s : State) : Host.Outcome State Fault Refusal :=
  issue { metaD 0x3C 3 sw [wr v] [] with sync := true, priv := sysPriv srn && (sysOf srn).isSome, srn := srn.val } (do
    match sysOf srn with
    | none => noSrn (.swr v srn sw)
    | some r => do
      let c ← readW v
      sysWrite v r c
      seqFlow) s

end Sys2Proof.Machine
end

