-- ==== Sys2Proof/Machine/System.lean ====
section
/-! DEFINITION. LAUNCH (R297), TRAP and ERET (R299, R300), TLBI, IFENCE, TBLLD and METER (R303 to R306). -/

namespace Sys2Proof.Machine

/-! ### LAUNCH (R297) -/

/-- Copies a packet into the slot at WR, with the tags of its two capabilities, and advances QWR. -/
def State.enqueue (s : State) (p q : Nat) (b : List Byte) (t0 t1 : Bool) : State :=
  let u := s.queue p q
  let a := u.slotAt u.qwr
  let s := s.writeKey a b false
  let tag := fun (l : List Nat) (g : Nat) (t : Bool) => if t && !isHost a then tagIns l g else l
  let s := { s with tags := tag (tag s.tags (a / 16) t0) (a / 16 + 1) t1 }
  s.modQueue p q (fun u => { u with qwr := (u.qwr + 1) % 2 ^ 32 })
/-- A queue takes no packet: N is 0, or WR − RD = 2^N. -/
def Queue.full (u : Queue) : Bool := decide (u.n = 0 ∨ (u.qwr + 2 ^ 32 - u.qrd) % 2 ^ 32 = 2 ^ u.n)
/-- LAUNCH (R297). -/
def execLaunch (q p : Fin 64) (sw : Bool) (s : State) : Host.Outcome State Fault Refusal :=
  issue { metaD 0x3B 4 sw [wr q, wr p] [wr q] with sync := true, drain := .stores .system } (do
    let x ← readN q
    zeroField q x 4 64
    let c ← readW p
    checkCap p 0 c c.addr 128 (Perm.load + Perm.loadCap) 128 .load
    let (b, t0) ← loadAt p 0 c.addr 128 .load false 0
    let (_, t1) ← loadAt p 0 (c.addr + 16) 16 .load false 0
    let s ← get
    let part := s.partNo s.cur
    let u := s.queue part (x % 16)
    if u.full || (s.partOf s.cur).isNone then do
      writeX q (BitVec.allOnes 64)
      seqFlow
    else do
      require (backed (u.slotAt u.qwr) 128) (throw (.fault .noSuchAddress))
      modify (fun s => s.enqueue part (x % 16) b t0 t1)
      writeN q u.qwr
      seqFlow) s

/-! ### TRAP and ERET (R299, R300) -/

/-- The call of a task enters the fabric, or goes to the module controller (R344), and the task awaits its reply. -/
def State.sendCall (s : State) (k wd : Nat) (x : Word) : State :=
  let t := s.tile k
  let seq := (t.svcseq + 1) % 2 ^ 16
  let report : TrapReport := { cause := 0, akind := .none, maj := 0x3C, minor := 0, addr := 0, pc := t.pc.addr, detail := 0 }
  let aw : Awaiting := { seq := seq, call := true, report := report, xfer := false, wd := wd, len := 4, start := s.timeOf k }
  let s := s.setTile k { t.boundary with svcseq := seq, awaiting := t.awaiting ++ [aw] }
  if s.toController k then { s with calls := s.calls ++ [(k, report, x)] }
  else
    let svc := t.svc.toNat
    let handle := s.nameOf k + seq * 2 ^ 32 + 2 ^ 48
    s.push (mkMsg k (s.nameOf k) (svc % 2 ^ 32) (bf svc 32 4) [BitVec.ofNat 64 handle, x, t.pc.lo] ((t.task).map (·.grid)) (s.partNo k))
/-- TRAP (R299): the task waits at the run boundary, with the pc at the TRAP until the reply arrives. -/
def execTrap (d a : Fin 64) (sw : Bool) (s : State) : Host.Outcome State Fault Refusal :=
  issue { metaC 0x3C 0 4 sw [wr a] with writes := [wr d], drain := .stores .system } (do
    endRule
    let x ← readX a
    let k ← me
    modify (fun s => s.sendCall k d x)
    throw (.wait .reply true)) s
/-- ERET (R300): the reply leaves for the handle's core. -/
def execEret (v h : Fin 64) (sw : Bool) (s : State) : Host.Outcome State Fault Refusal :=
  issue { metaC 0x3C 1 4 sw [wr v, wr h] with priv := true } (do
    endRule
    let x ← readX v
    let y ← readN h
    modify (fun s => { s with replies := s.replies ++ [{ name := y % 2 ^ 32, seq := bf y 32 16, value := x }] })
    seqFlow) s

/-! ### TLBI, IFENCE (R114, R115, R303, R304) -/

/-- Drops entries from every TLB of a partition's clusters (R114). -/
def State.dropPart (s : State) (p : Nat) (which : TlbEntry → Bool) : State :=
  let keep := fun (l : List TlbEntry) => l.filter (fun e => !which e)
  let inPart := fun (d : Nat) => (s.part p).dies.contains d
  { s with
    clusterTlbs := s.clusterTlbs.map (fun x => if inPart (x.1 / 8) then (x.1, keep x.2) else x)
    tiles := s.tiles.map (fun x =>
      if inPart (dieOf x.1) then (x.1, { x.2 with itlb := keep x.2.itlb, dtlb := keep x.2.dtlb }) else x) }
/-- The stores of every core of a partition are performed, so that no access translated through a removed entry is still in
flight (R115). -/
def State.drainPart (s : State) (p : Nat) : State :=
  (s.tiles.filter (fun e => decide (s.partOf e.1 = some p))).foldl (fun (s : State) e => s.drainStores e.1) s
/-- TLBI's completion (R115). -/
def tlbiOp (which : Nat → TlbEntry → Bool) : Op Flow := do
  let s ← get
  let p := s.partNo s.cur
  modify (fun s => s.drainPart p)
  let s ← get
  if s.tiles.any (fun e => decide (s.partOf e.1 = some p) && s.undrained e.1 (fun _ => true)) then throw (.wait .line true)
  modify (fun s => s.dropPart p (which p))
  seqFlow
/-- The ASID operand of TLBI must belong to the partition. -/
def tlbiAsid (b : Fin 64) : Op Nat := do
  let x ← readN b
  let s ← get
  fieldOk b 0 (s.asidOwned (s.partNo s.cur) (x % 2 ^ 14))
  pure (x % 2 ^ 14)
/-- What issue knows of TLBI. -/
def metaTlbi (sw : Bool) (reads : List (File × Nat)) : Meta := { metaD 0x3D 0 sw reads [] with priv := true }
/-- TLBI, page (R303). -/
def execTlbiPage (a b : Fin 64) (sw : Bool) (s : State) : Host.Outcome State Fault Refusal :=
  issue (metaTlbi sw [wr a, wr b]) (do
    let va ← readN a
    let asid ← tlbiAsid b
    tlbiOp (fun p e => e.hits p asid (va % 2 ^ 56))) s
/-- TLBI, ASID (R303). -/
def execTlbiAsid (b : Fin 64) (sw : Bool) (s : State) : Host.Outcome State Fault Refusal :=
  issue (metaTlbi sw [wr b]) (do
    let asid ← tlbiAsid b
    tlbiOp (fun p e => decide (e.part = p ∧ e.asid = asid ∧ bf e.pte 11 1 = 0))) s
/-- TLBI, global (R303). -/
def execTlbiGlobal (sw : Bool) (s : State) : Host.Outcome State Fault Refusal :=
  issue (metaTlbi sw []) (tlbiOp (fun p e => decide (e.part = p ∧ bf e.pte 11 1 = 1))) s
/-- TLBI, partition (R303). -/
def execTlbiPart (sw : Bool) (s : State) : Host.Outcome State Fault Refusal :=
  issue (metaTlbi sw []) (tlbiOp (fun p e => decide (e.part = p))) s
/-- IFENCE (R304): earlier stores are performed; instructions are fetched anew, as every step of this model fetches them. -/
def execIfence (sw : Bool) (s : State) : Host.Outcome State Fault Refusal :=
  issue { metaD 0x3D 1 sw [] [] with mustS := true, drain := .stores .system } seqFlow s

/-! ### TBLLD and METER (R305, R306) -/

/-- The table that 1,024 bytes give (R86). -/
def tableOf (b : List Byte) : Vector Lane 256 :=
  Vector.ofFn (fun (i : Fin 256) => BitVec.ofNat 32 (roundIF (decodeFloat fp32 (blockNat b (4 * i.val) 4))).1)
/-- No entry is NaN, and the entries do not fall (R86). -/
def tableOrdered (t : Vector Lane 256) : Bool :=
  t.toList.all (fun x => !(lane x).isNan) && (t.toList.zip (t.toList.drop 1)).all (fun p => !(lane p.2).lt (lane p.1))
/-- TBLLD (R305). -/
def execTblld (b : Fin 64) (sw : Bool) (s : State) : Host.Outcome State Fault Refusal :=
  issue { metaD 0x3D 2 sw [wr b] [] with engine := true } (do
    let c ← readW b
    let (bytes, _) ← readBlock b c 1024 Perm.load 64 .load
    modT (fun t => { t with dectab := tableOf bytes, ordered := tableOrdered (tableOf bytes) })
    seqFlow) s
/-- An account's picojoules as METER may read them (R306): every reconciliation at least 21,000 ticks old counts, and a
free choice says which of the later ones do (log entry 7). -/
def Acct.metered (a : Acct) (now c : Nat) : Int :=
  let late := a.history.filter (fun h => decide (now < h.1 + 21000))
  a.pj - ((late.zipIdx.filter (fun h => decide (bf c h.2 1 = 1))).map (fun h => h.1.2)).sum
/-- METER (R306). -/
def execMeter (d : Fin 64) (e : Bool) (sw : Bool) (s : State) : Host.Outcome State Fault Refusal :=
  issue (metaD 0x3D 3 sw [] [wr d]) (do
    let s ← get
    let (n, s') := s.fresh
    set s'
    let p := s.partNo s.cur
    let acct := if e then Account.own p else Account.job p (s.tile s.cur).job
    match s.accounts.find? (fun a => decide (a.1 = acct)) with
    | none => do
      writeN d 0
      seqFlow
    | some a => do
      writeX d (wordOf (a.2.metered s.refCount (Config.freeChoice n) / 1000))
      seqFlow) s

end Sys2Proof.Machine
end

