-- ==== Sys2Proof/Machine/Faults.lean ====
section
/-! DEFINITION. Events of a task's runs, waits and faults: deferred results (R195), handler entry (R48), local traps (R340),
walks (R112), replies (R299, R343, R383, R384), the module controller's answers (R344, R355), machine checks (R345) and hang
detection (R352, R353). -/

namespace Sys2Proof.Machine

/-- A run whose BARs wait for their episodes waits in the wait table from then on (R282, R352). -/
def State.startDueWait (s : State) (k : Nat) : State :=
  match (s.tile k).wait, (s.tile k).due with
  | none, d :: _ => s.modTile k (fun t => { t with wait := some ⟨.barrier d.scope d.id true false, s.timeOf k, 0x35, 0, 4⟩ })
  | _, _ => s
/-- DEFERRED_RESULT (R195): the results of the run are written, and the parked run is released once its BARs' episodes have
completed. -/
def execDeferredResult (core : Nat) (s : State) : Host.Outcome State Fault Refusal :=
  .next (if !(s.tile core).parked then s
    else if s.dueWaiting core then s.startDueWait core
    else State.releaseRun core (s.tile core).due s)

/-! ### Handler entry (R48) -/

/-- The task is at a run boundary: it waits in BARW, which is one whatever came before it in the run, or nothing of a run has
issued (R48). WFE completes first, and the handler then resumes after it (R223). -/
def Tile.openWait (t : Tile) : Bool :=
  match t.wait with
  | none => decide (t.runPos = 0) && !t.parked
  | some w => match w.on with
    | .barrier _ _ _ barw => barw
    | _ => false
/-- A task can enter a handler: it is at a run boundary and in no handler, and awaits no reply (R48, R299). -/
def Tile.canEnter (t : Tile) : Bool :=
  t.task.isSome && !t.handler && t.awaiting.isEmpty && t.openWait
/-- Entering the handler of a class (R48, R165): a chord's earlier runs have committed (R160). -/
def State.enterHandler (s : State) (k c : Nat) : State :=
  let t := if (s.tile k).follower k then (s.tile k).detach else s.tile k
  let head := (t.held c).head?
  let t' := t.takeHead c
  (s.setTile k { t'.boundary.commitAll with hpc := t.pc, cmsg := head, pc := pcOf (t.cls c).cap, handler := true }).detachAll k
/-- HANDLER_ENTRY (R48): every engine instruction that has issued retires first (R254). -/
def execHandlerEntry (core : Nat) (s : State) : Host.Outcome State Fault Refusal :=
  .next (if (s.tile core).canEnter then
    match (s.tile core).nextClass with
    | none => s
    | some c =>
      let s := s.engineDrain core
      if (s.tile core).eng.isEmpty then s.enterHandler core c else s
  else s)
/-- An entry of the spill region has come back to the inbox, and is still to be looked at (R356). -/
def Tile.spillBack (t : Tile) : Option InMsg := t.inbox.find? (fun m => !m.place.isEmpty)
/-- A returned entry is read: one that meets an uncorrectable error is discarded and counted, and CAUSE 0x38 is posted (R356). -/
def State.readSpilled (s : State) (k : Nat) (m : InMsg) : State :=
  match m.place.find? (fun p => s.isBad p.2.1 p.2.2) with
  | none => s.modTile k (fun t => { t with inbox := t.inbox.map (fun x => if x = m then { x with place := [] } else x) })
  | some (_, key, _) =>
    let a := ((m.place.head?).map (·.1)).getD 0
    let s := s.modTile k (fun t => Tile.modCls { t with inbox := t.inbox.filter (fun x => decide (x ≠ m)) } m.cls (fun e =>
      { e with discards := (e.discards + 1) % 2 ^ 32 }))
    let r : TrapReport := { cause := 0x38, akind := .load, maj := 0xFF, minor := 0, addr := a, pc := (s.tile k).pc.addr, detail := s.arrayAt key 1 * 2 ^ 16 }
    postFault s k r false 0
/-- LOCAL_TRAP (R340): the record of a trap is placed and the handler of class 15 is entered, or the trap is escalated. -/
def execLocalTrap (core : Nat) (report : TrapReport) (s : State) : Host.Outcome State Fault Refusal :=
  .next (if (s.tile core).task.isSome && (s.tile core).awaiting.isEmpty then takeTrap s core report 4 else s)

/-! ### Walks (R112) -/

/-- What an access of a kind needs of a leaf. -/
def needOf : Access → Nat
  | .none => 0 | .load => needR | .store => needW | .fetch => needX | .engineRead => needR + needEng
  | .engineWrite => needW + needEng | .walk => needR | .rmw => needW
/-- WALK_COMPLETE (R112): a walk for a core fills the TLBs, or its failure is posted (R380). -/
def execWalkComplete (core va : Nat) (kind : Access) (s : State) : Host.Outcome State Fault Refusal :=
  if (s.tile core).task.isNone ∨ (s.tile core).awaiting ≠ [] ∨ needOf kind = 0 ∨ Config.localBase ≤ va then .next s
  else
    match s.translateAt core (decide (kind = .fetch)) va (needOf kind) with
    | .ok (_, s) => .next s
    | .error f =>
      let ak := if f.why.cause = 0x13 then .walk else kind
      let r : TrapReport :=
        { cause := f.why.cause, akind := ak, maj := 0xFF, minor := 0, addr := va, pc := (s.tile core).pc.addr, detail := walkDetail f.why f.rewalk 0 }
      .next (if f.why.cause = 0 then f.s else postFault f.s core r false 0)

/-! ### Replies (R299, R343, R383, R384) -/

/-- The reply in the fabric that a core takes with a SEQ and value, and the state without it. -/
def State.takeReply (s : State) (core seq : Nat) (value : Word) : Option State :=
  let mine := fun (r : Reply) => decide (coreOf r.name = some core ∧ r.seq = seq ∧ r.value = value)
  if s.replies.any mine then some { s with replies := s.replies.eraseP mine } else none
/-- A handle that a core's task waits under. -/
def Tile.awaits (t : Tile) (seq : Nat) (call : Bool) : Option Awaiting := t.awaiting.find? (fun a => decide (a.seq = seq ∧ a.call = call))
/-- The reply to a handle has arrived. -/
def Tile.answered (t : Tile) (seq : Nat) : Tile := { t with awaiting := t.awaiting.filter (fun a => decide (a.seq ≠ seq)), wait := t.wait }
/-- The grid of a core is aborted with a word. -/
def State.abortCore (s : State) (k : Nat) (word : Word) : State :=
  match (s.tile k).task with
  | none => s
  | some r => s.abortGrid r.grid word
/-- The cause word of a fault, as EXITVAL takes it. -/
def Awaiting.word (a : Awaiting) : Word := BitVec.ofNat 64 a.report.word
/-- RETRY (R343, R383, R384). -/
def State.retryReply (s : State) (k : Nat) (a : Awaiting) : State :=
  s.modTile k (fun t => { t.answered a.seq with
    xfers := if a.xfer then t.xfers.map (fun x => if x.stopped = some a.seq then { x with stopped := none } else x) else t.xfers })
/-- SKIP (R383, R384): execution continues after the instruction; a fetch that failed acts as ABORT. -/
def State.skipReply (s : State) (k : Nat) (a : Awaiting) : State :=
  if a.xfer then
    let s := s.modTile k (fun t => t.answered a.seq)
    match stoppedAt a.seq (s.tile k).xfers with
    | none => s
    | some i => s.skipXfer k i
  else if a.report.maj = 0xFF then s.abortCore k a.word
  else
    let m : Meta := { maj := a.report.maj, minor := a.report.minor, len := a.len, sw := true }
    s.modTile k (fun t => finish k m .seq true (t.answered a.seq))
/-- LOCAL (R343, R383): the task takes a local trap with the same record, or the grid is aborted where R340 would escalate
it. A stopped transfer stays stopped until HRET. -/
def State.localReply (s : State) (k : Nat) (a : Awaiting) : State :=
  let s := s.modTile k (fun t => { t.answered a.seq with
    xfers := if a.xfer then t.xfers.map (fun x => if x.stopped = some a.seq then { x with stopped := some (2 ^ 16) } else x) else t.xfers })
  if (s.tile k).handler || !(s.tile k).trapReady then s.abortCore k a.word
  else takeTrap (s.withdrawWait k false) k a.report a.len
/-- The action of a reply to a posted fault (R343). -/
def State.applyReply (s : State) (k : Nat) (a : Awaiting) (value : Word) : State :=
  match value.toNat with
  | 0 => s.retryReply k a
  | 1 => s.skipReply k a
  | 2 => s.localReply k a
  | _ => s.abortCore k a.word
/-- The run of a task is where a LOCAL reply to a transfer's fault can be taken: a boundary or a wait (R383). -/
def Tile.atEntry (t : Tile) : Bool := t.wait.isSome || (decide (t.runPos = 0) && !t.parked)
/-- FAULT_REPLY (R343). A reply that no task waits under is discarded; one to a saved task is refused with retry (R55). -/
def execFaultReply (core seq : Nat) (value : BitVec 64) (s : State) : Host.Outcome State Fault Refusal :=
  match s.takeReply core seq value with
  | none => .next s
  | some s' =>
    match (s.tile core).awaits seq false, (s.tile core).awaits seq true with
    | some a, _ => .next (if a.xfer && decide (value = 2) && !(s.tile core).atEntry then s else s'.applyReply core a value)
    | none, some _ => .next s
    | none, none =>
      if s.grids.any (fun g => g.2.saved.any (fun x => decide (x.core = core))) && (s.tile core).task.isNone then .next s
      else .next s'
/-- A service call is answered: wd takes the value and the task goes on after the TRAP (R299). -/
def State.callReply (s : State) (k : Nat) (a : Awaiting) (value : Word) : Host.Outcome State Fault Refusal :=
  let run := issue (metaC 0x3C 0 4 true []) (do
    writeX a.wd value
    seqFlow) { (s.modTile k (fun t => { t.answered a.seq with wait := none })) with cur := k }
  match run with
  | .next t => .next { t with cur := s.cur }
  | .fault f => .fault f
  | .refused r => .refused r
/-- SERVICE_CALL_REPLY (R299). -/
def execServiceCallReply (core seq : Nat) (value : BitVec 64) (s : State) : Host.Outcome State Fault Refusal :=
  match s.takeReply core seq value, (s.tile core).awaits seq true with
  | some s', some a => s'.callReply core a value
  | _, _ => .next s

/-! ### The module controller (R344, R355) -/

/-- The entry of the error log for a call or a handle that the module controller answers. -/
def handleRecord (name : Nat) (r : TrapReport) (word : Word) : ErrReport :=
  { name := name, sev := r.cause, unit := 9, array := 0xFF, count := 1, loc := r.pc, syndrome := word.toNat, part := none }
/-- MODULE_CONTROLLER_CALL (R344): the oldest fault or call sent to the module controller is logged and ends its grid. -/
def execModuleControllerCall (s : State) : Host.Outcome State Fault Refusal :=
  match s.calls with
  | [] => .next s
  | (k, r, w) :: l =>
    .next (State.abortCore { s with calls := l, errlog := s.errlog ++ [handleRecord (s.nameOf k) r w] } k w)
/-- KIND of a wait (R352). -/
def WaitFor.kind : WaitFor → Option Nat
  | .barrier _ _ _ _ => some 0
  | .slots => some 1
  | .wfe => some 2
  | .firstWake => some 2
  | .gang _ _ _ _ => some 3
  | .join _ _ => some 3
  | .sendSpace => some 5
  | .cred _ _ => some 6
  | _ => none
/-- A wait of a kind that began at a TIME is a hang for a core (R353). -/
def State.hung (s : State) (k kind start : Nat) : Bool :=
  let h := (s.part (s.partNo k)).hangctl.toNat
  decide (bf h 8 32 ≠ 0 ∧ bf h kind 1 = 1 ∧ start + bf h 8 32 * 1024 ≤ s.timeOf k)
/-- A hung wait is withdrawn and trapped (R353, R354). -/
def State.hangTrap (s : State) (k kind : Nat) (w : Wait) : State :=
  let s := s.withdrawWait k true
  let r : TrapReport :=
    { cause := 0x26, akind := .none, maj := w.maj, minor := w.minor, addr := 0, pc := (s.tile k).pc.addr, detail := 2 ^ 16 + kind * 2 ^ 24 }
  takeTrap s k r w.len
/-- The wait of a core, if it is a hang that traps. -/
def State.scanCore (s : State) (k : Nat) : State :=
  match (s.tile k).wait with
  | none => s
  | some w => match w.on.kind with
    | none => s
    | some n => if s.hung k n w.start then s.hangTrap k n w else s
/-- HANG_SCAN (R353). -/
def execHangScan (die : Nat) (s : State) : Host.Outcome State Fault Refusal :=
  .next ((s.tiles.filter (fun e => onDie die e.1)).foldl (fun (s : State) e => s.scanCore e.1) s)
/-- The service core that a handle of core `k` went to has no task (R355). -/
def State.serviceGone (s : State) (k : Nat) : Bool :=
  match coreOf ((s.tile k).svc.toNat % 2 ^ 32) with
  | none => true
  | some c => (s.tile c).task.isNone
/-- HANG_ABORT_REPLY (R355): the module controller replies ABORT to a core's oldest handle that hung or whose service core is
gone. A value replied to a call is written to wd (R299). -/
def execHangAbortReply (core : Nat) (s : State) : Host.Outcome State Fault Refusal :=
  match (s.tile core).awaiting with
  | [] => .next s
  | a :: _ =>
    if !s.hung core 4 a.start && !s.serviceGone core then .next s
    else
      let s := { s with errlog := s.errlog ++ [handleRecord (s.nameOf core) a.report a.word] }
      if a.call then s.callReply core a 3 else .next (s.applyReply core a 3)

/-! ### Machine checks (R345) -/

/-- A word of a home becomes uncorrectable, for array 8 in a memory-side cache. -/
def State.latentWord (s : State) (array w : Nat) : State :=
  if w ∈ s.bad then s else { s with bad := s.bad ++ [w], badCached := if array = 8 then s.badCached ++ [w] else s.badCached }
/-- The 8-byte word of memory that a record's location names, for the arrays that hold memory (R346). -/
def recordWord (r : ErrReport) : Option Nat :=
  if r.array = 3 then (coreOf r.name).map (fun k => scratchAt k r.loc / 8)
  else if r.array = 7 ∨ r.array = 8 ∨ r.array = 9 then some (r.loc / 8)
  else none
/-- A LATENT error stays in its word for the next consumer. An address of HBM in a vault's array is a replica of its page, in a vault
of the die that the record names (log entry 19). -/
def State.latent (s : State) (r : ErrReport) (w : Nat) : State :=
  match coreOf r.name with
  | some k =>
    if r.array = 7 ∧ isHbm (8 * w) then
      (if s.badCopies.contains (dieOf k, w) then s else { s with badCopies := s.badCopies ++ [(dieOf k, w)] })
    else s.latentWord r.array w
  | none => s.latentWord r.array w
/-- MACHINE_CHECK (R345): the record goes out; a LATENT error stays for its next consumer, and a lost meter count leaves a
gap in its account's next reading (R413). -/
def execMachineCheck (report : ErrReport) (s : State) : Host.Outcome State Fault Refusal :=
  let s := match recordWord report with
    | none => s
    | some w => if report.sev = 1 then s.latent report w else s
  let s := if report.array = 12 then { s with accounts := s.accounts.modify report.loc (fun a => (a.1, { a.2 with gap := true })) } else s
  .next (s.record report)

end Sys2Proof.Machine
end

