-- ==== Sys2Proof/Machine/Delivery.lean ====
section
/-! DEFINITION. What arrives: messages at their destinations (R46, R47, R279, R356, R357, R404, R429), transfers, fills and
engine instructions (R68, R126, R254, R286, R390), collectives (R290), stores and replicated writes (R105, R118, R130, R393)
and rows of expert buffers (R52, R53, R359). An event whose condition does not hold changes nothing (log entry 1). -/

namespace Sys2Proof.Machine

/-! ### Admission of class messages (R46, R47, R356) -/

/-- The vault that an address of a core's task leads to, by a walk that changes nothing (R356). -/
def State.vaultAt (s : State) (k va : Nat) : Option Nat :=
  match locate va 1 with
  | .virt => match walk s (s.partNo k) (s.tile k).asid va needR with
    | .ok l => if isVault (leafPa l va) then some ((leafPa l va - Config.vaultBase) / Config.vaultBytes) else none
    | .error _ => none
  | _ => none
/-- Entries of the spill region that INBOX_SPILL gives (R356). -/
def State.spillRoom (s : State) (k : Nat) : Nat :=
  let c := (s.tile k).ispill
  let (base, top) := capBounds c
  if !c.tag ∨ c.otype ≠ 0 ∨ !c.has (Perm.load + Perm.store) ∨ top ≤ base ∨ base < 0 then 0
  else
    match s.vaultAt k base.toNat, s.vaultAt k (top - 1).toNat with
    | some a, some b => if a = b ∧ a / 8 = dieOf k then (top - base).toNat / 96 else 0
    | _, _ => 0
/-- A FIFO arrival (R47): a free hardware entry, or the spill region once the class has entries there or the hardware is full;
`none` when the region is full too. -/
def Tile.acceptFifo (t : Tile) (m : InMsg) (room : Nat) : Option Tile :=
  if !t.spilled.any (fun x => decide (x.cls = m.cls)) && decide (t.fifoUsed < t.fifoRoom) then some { t with inbox := t.inbox ++ [m] }
  else if t.spilled.length < room then some { t with spilled := t.spilled ++ [m] }
  else none
/-- The key and index of a RANKED entry: payload bits [31:0] and [63:32] (R46). -/
def InMsg.key (m : InMsg) : Pair := (sieveKey ((m.data.headD 0).toNat % 2 ^ 32), (m.data.headD 0).toNat / 2 ^ 32)
/-- Counts discards of a class. -/
def Tile.discard (t : Tile) (c n : Nat) : Tile := t.modCls c (fun e => { e with discards := (e.discards + n) % 2 ^ 32 })
/-- A RANKED arrival counts towards TRIG whether it is admitted or not (R46, R281). -/
def Tile.countArrival (t : Tile) (c : Nat) : Tile :=
  t.modCls c (fun e => { e with arrivals := e.arrivals + 1, latch := e.latch || (decide (e.trig ≠ 0) && decide (e.trig ≤ e.arrivals + 1)) })
/-- A RANKED arrival (R46): a NaN key, a held pair, and what ranks below the k-th entry are discarded and counted. -/
def Tile.acceptRanked (t : Tile) (m : InMsg) : Tile :=
  let t := t.countArrival m.cls
  let held := t.held m.cls
  if keyNan ((m.data.headD 0).toNat % 2 ^ 32) || held.any (fun x => decide (x.key = m.key)) then t.discard m.cls 1
  else
    let all := insertBy (fun (a b : InMsg) => ranksBefore a.key b.key) m held
    let k := (t.cls m.cls).depth
    { (t.discard m.cls (all.length - k)) with inbox := t.inbox.filter (fun x => decide (x.cls ≠ m.cls)) ++ all.take k }
/-- A class message at a task (R279): a disabled class discards and counts it; `none` when it is refused. -/
def Tile.accept (t : Tile) (m : InMsg) (room : Nat) : Option Tile :=
  if !(t.cls m.cls).en then some (t.discard m.cls 1)
  else if (t.cls m.cls).ranked then some (t.acceptRanked m)
  else t.acceptFifo m room

/-! ### Messages in the fabric (R46, R47, R279) -/

/-- Two messages are delivered in order: one source, destination and class (R46). -/
def Msg.sameLane (a b : Msg) : Bool := decide (a.src = b.src ∧ a.dest = b.dest ∧ a.wake = b.wake ∧ a.cls = b.cls)
/-- No earlier message of its lane stands before the message at an index, nor one that still goes from its source to its destination
under tables that have been replaced (R132). -/
def State.leads (s : State) (i : Nat) (m : Msg) : Bool :=
  !(s.msgs.take i).any (fun x => x.sameLane m || (x.old && decide (x.src = m.src ∧ x.dest = m.dest)))
/-- The message at an index leaves the fabric. -/
def State.dropMsg (s : State) (i : Nat) : State := { s with msgs := s.msgs.eraseIdx i }
/-- The saved task that a core's name still stands for (R55, R56). -/
def State.savedOn (s : State) (k : Nat) : Option Nat :=
  (s.grids.find? (fun e => decide (e.2.phase = .saving ∨ e.2.phase = .saved ∨ e.2.phase = .held) &&
    e.2.saved.any (fun x => decide (x.core = k)))).map (·.1)
/-- The die whose cycles a sender's refusals count (R357): its own, the rim die of an Ethernet port (R313), or rim die 8 for
the module controller. -/
def Msg.clockDie (m : Msg) : Nat :=
  if m.src < moduleSource then dieOf m.src
  else if m.src = moduleSource then Config.dies + 8
  else if m.src - moduleSource - 1 < Config.dies then m.src - moduleSource - 1
  else Config.dies + (m.src - moduleSource - 1 - Config.dies) / 4
/-- A core holds no task, saved or not, and is no chord member (R357). -/
def State.bare (s : State) (k : Nat) : Bool := (s.tile k).task.isNone && (s.tile k).memberOf.isNone && (s.savedOn k).isNone
/-- A refusal (R47): the retry interval doubles; a refusal for want of a task is timed (R357). -/
def State.refuseMsg (s : State) (i : Nat) (m : Msg) : State :=
  let since := if s.bare m.dest then some (m.refusedAt.getD (s.die m.clockDie).time) else none
  { s with msgs := s.msgs.set i { m with interval := nextInterval m.interval, refusedAt := since, old := false } }
/-- An entry of an inbox. -/
def Msg.entry (m : Msg) (n : Nat) : InMsg := { source := m.srcName, cls := m.cls, len := m.len, data := m.data, arrival := n }
/-- Where the entry of a message that goes to the spill region is written: the first entry of the region that is not in use, as
addresses, keys and lengths (R47). -/
def State.spillPlace (s : State) (k : Nat) : List (Nat × Nat × Nat) :=
  let base := (capBounds (s.tile k).ispill).1.toNat
  let used := (s.tile k).spilled.filterMap (fun m => (m.place.head?).map (·.1))
  let free := (List.range (s.spillRoom k)).find? (fun i => !used.contains (base + 96 * i))
  match free with
  | none => []
  | some i =>
    let a := base + 96 * i
    let l := s.spansAt k 2 a 96
    l.zip (a :: l.map (fun x => a + x.2)) |>.map (fun x => (x.2, x.1.1, x.1.2))
/-- The bytes of a spilled entry are written in its vault; their layout is not stated (log entry 21). -/
def State.spillWrite (s : State) (l : List (Nat × Nat × Nat)) : State :=
  l.foldl (fun (s : State) p => State.writeKey { s with free := s.free + p.2.2 } p.2.1 ((List.range p.2.2).map (fun i => Config.freeByte (s.free + i))) false) s
/-- A class message reaches its destination core (R279). -/
def State.deliver (s : State) (i : Nat) (m : Msg) : State :=
  if !s.receives m.dest then s.refuseMsg i m
  else
    let (n, s) := s.fresh
    let place := s.spillPlace m.dest
    match (s.tile m.dest).accept { m.entry n with place := place } (s.spillRoom m.dest) with
    | some t =>
      let back := fun (x : InMsg) => if x.arrival = n then { x with place := [] } else x
      if t.spilled.length = (s.tile m.dest).spilled.length then (s.setTile m.dest { t with inbox := t.inbox.map back }).dropMsg i
      else ((s.setTile m.dest t).spillWrite place).dropMsg i
    | none => s.refuseMsg i m
/-- MESSAGE_ARRIVAL (R279): a class message that is first of its lane, of the current generation and not yet refused. -/
def execMessageArrival (index : Nat) (s : State) : Host.Outcome State Fault Refusal :=
  match s.msgs[index]? with
  | none => .next s
  | some m => .next (if m.wake ∨ m.interval ≠ 0 ∨ s.stale m.destName ∨ !s.leads index m then s else s.deliver index m)
/-- A wake-up reaches a core (R223, R40, R279). -/
def State.wakeCore (s : State) (k : Nat) : State :=
  if s.receives k then
    if (s.tile k).wait.map (fun w => w.on) = some .firstWake then s.modTile k (fun t => { t with wait := none, wake := false })
    else s.modTile k (fun t => { t with wake := true })
  else
    match s.savedOn k with
    | some gid => s.modGrid gid (fun g => { g with saved := g.saved.map (fun x => if x.core = k then { x with wake := true } else x) })
    | none => s.modTile k (fun t => { t with wake := true })
/-- WAKE_UP_ARRIVAL (R279): wake-ups are never refused. -/
def execWakeUpArrival (index : Nat) (s : State) : Host.Outcome State Fault Refusal :=
  match s.msgs[index]? with
  | none => .next s
  | some m =>
    .next (if !m.wake ∨ s.stale m.destName ∨ !s.leads index m ∨ Config.tileSites ≤ m.dest then s else (s.dropMsg index).wakeCore m.dest)
/-- Refused transfers of every core, as core and index. -/
def State.refusedXfers (s : State) : List (Nat × Nat) :=
  s.tiles.flatMap (fun e => (e.2.xfers.zipIdx.filter (fun x => decide (x.1.interval ≠ 0))).map (fun x => (e.1, x.2)))
/-- MESSAGE_RETRY (R47): a refused message is sent again; an index beyond the messages counts refused transfers. -/
def execMessageRetry (index : Nat) (s : State) : Host.Outcome State Fault Refusal :=
  match s.msgs[index]? with
  | some m => .next (if m.wake ∨ m.interval = 0 ∨ s.stale m.destName ∨ !s.leads index m then s else s.deliver index m)
  | none =>
    match s.refusedXfers[index - s.msgs.length]? with
    | none => .next s
    | some (k, i) => .next (s.completeXfer k i)
/-- A discarded message is counted in MSGDROP of its sender's grid, if that has not completed (R357, R429). -/
def State.countDrop (s : State) (m : Msg) : State :=
  match m.grid with
  | none => s
  | some g => s.modGrid g (fun g => if g.phase = .severed then g else { g with msgdrop := g.msgdrop + 1 })
/-- MESSAGE_REFUSAL_DISCARD (R357). -/
def execMessageRefusalDiscard (index : Nat) (s : State) : Host.Outcome State Fault Refusal :=
  match s.msgs[index]? with
  | none => .next s
  | some m =>
    let limit := bf (s.part m.part).hangctl.toNat 8 32
    match m.refusedAt with
    | none => .next s
    | some t =>
      .next (if limit = 0 ∨ (s.die m.clockDie).time < t + limit * 1024 ∨ !s.bare m.dest then s else (s.dropMsg index).countDrop m)
/-- The record of a stale name (R429). -/
def State.staleRecord (s : State) (name part : Nat) : State := s.record (unitRecord 2 3 0xFF name (some part))
/-- Transfers of every core that carry a stale name, as core and index. -/
def State.staleXfers (s : State) : List (Nat × Nat) :=
  s.tiles.flatMap (fun e => (e.2.xfers.zipIdx.filter (fun x => x.1.remote.isSome && s.stale x.1.destName)).map (fun x => (e.1, x.2)))
/-- STALE_GEN_DROP (R429): of a message, or, for an index beyond the messages, of a transfer with a stale name. -/
def execStaleGenDrop (index : Nat) (s : State) : Host.Outcome State Fault Refusal :=
  match s.msgs[index]? with
  | some m => .next (if s.stale m.destName then ((s.dropMsg index).countDrop m).staleRecord m.destName m.part else s)
  | none =>
    match s.staleXfers[index - s.msgs.length]? with
    | none => .next s
    | some (k, i) =>
      let name := (((s.tile k).xfers[i]?).map (fun x => x.destName)).getD 0
      .next ((s.skipXfer k i).staleRecord name (s.partNo k))

/-! ### Transfers, fills and engine instructions (R68, R126, R254, R286, R390) -/

/-- TRANSFER_COMPLETE (R286): a transfer that its remote core has not refused. -/
def execTransferComplete (core index : Nat) (s : State) : Host.Outcome State Fault Refusal :=
  match (s.tile core).xfers[index]? with
  | none => .next s
  | some x => .next (if x.interval = 0 then s.completeXfer core index else s)
/-- Engine instructions retire until a slot is no longer FILLING. -/
def State.fillByEngine (s : State) (k slot : Nat) : State :=
  (s.tile k).eng.foldl (fun (s : State) _ => if ((s.tile k).slot slot).state = .filling then s.engineStep k else s) s
/-- The transfer that fills a slot of a core: its own, or one of another core (R68). -/
def State.fillerOf (s : State) (k slot : Nat) : Option (Nat × Nat) :=
  match (s.tile k).xfers.findIdx? (fun x => x.fill && decide (x.slot = some slot)) with
  | some i => some (k, i)
  | none => s.tiles.findSome? (fun e =>
      (e.2.xfers.findIdx? (fun x => decide (x.remote.map (·.1) = some k ∧ x.remoteSlot = some slot))).map (fun i => (e.1, i)))
/-- SLOT_FILL_COMPLETE (R68): what fills a slot writes its last byte. -/
def execSlotFillComplete (core slot : Nat) (s : State) : Host.Outcome State Fault Refusal :=
  if ((s.tile core).slot slot).state ≠ .filling then .next s
  else
    match s.fillerOf core slot with
    | some (k, i) => .next (s.completeXfer k i)
    | none => .next (s.fillByEngine core slot)
/-- ENGINE_RETIRE (R274). -/
def execEngineRetire (core : Nat) (s : State) : Host.Outcome State Fault Refusal :=
  .next (if (s.tile core).eng.isEmpty then s else s.engineStep core)
/-- A transfer has been granted a line. -/
def Xfer.holdsLine (x : Xfer) (l : Nat) : Bool := x.grants.any (fun g => decide (g.1 = l))
/-- OWNERSHIP_GRANT (R126): a line that the transfer has still to access, exclusively where it has still to write it, once no other
engine's grant conflicts; after a timeout the lowest line comes first (R390). -/
def execOwnershipGrant (core index line : Nat) (s : State) : Host.Outcome State Fault Refusal :=
  match (s.tile core).xfers[index]? with
  | none => .next s
  | some x =>
    let open' := (s.xferLines core x.elems).filter (fun l => !x.holdsLine l)
    let lowest := open'.foldl min line
    let alone := (s.xferWrites core x.elems).contains line
    .next (if x.stopped.isSome ∨ !open'.contains line ∨ s.owned core x.id (64 * line) 64 (!alone) ∨ (x.ordered ∧ lowest ≠ line) then s
           else s.modXfer core index (fun y => { y with grants := y.grants ++ [(line, alone)] }))
/-- OWNERSHIP_TIMEOUT (R390): an engine that waits for a line releases every line that it has not accessed and asks for
them in order. -/
def execOwnershipTimeout (core index : Nat) (s : State) : Host.Outcome State Fault Refusal :=
  match (s.tile core).xfers[index]? with
  | none => .next s
  | some x =>
    .next (if x.stopped.isSome ∨ !(s.xferLines core x.elems).any (fun l => !x.holdsLine l) then s
           else s.modXfer core index (fun y => { y with grants := [], ordered := true }))

/-! ### Collectives (R290) -/

/-- The parts of a collective in rank order; an exited task has none (R290). -/
def Coll.ranked (c : Coll) (g : Grid) : List (Option CollPart) :=
  (instRanks g c.scope c.inst).map (fun r => c.parts.find? (fun p => decide (p.grank = r)))
/-- Every rank of the instance has joined or exited, and some task has joined. -/
def Coll.ready (c : Coll) (g : Grid) : Bool :=
  c.result.isNone && !c.parts.isEmpty &&
    (instRanks g c.scope c.inst).all (fun r => c.parts.any (fun p => decide (p.grank = r)) || g.exited.contains r)
/-- An order of sums: each of the first `n` numbers once, and joins anywhere between (R94). -/
def isOrder (l : List Nat) (n : Nat) : Bool := decide ((l.filter (fun x => decide (x < n))).length = n) && (List.range n).all l.contains
/-- COLLECTIVE_COMPLETE (R290): FAST adds as the contributions meet, which the event supplies. -/
def execCollectiveComplete (index : Nat) (arrival : List Nat) (s : State) : Host.Outcome State Fault Refusal :=
  match s.colls[index]? with
  | none => .next s
  | some c =>
    match s.grid? c.grid with
    | none => .next s
    | some g =>
      let parts := c.ranked g
      .next (if !c.ready g ∨ (c.ord = .fast ∧ !isOrder arrival parts.length) then s
             else s.finishColl c (credResult c.ord c.win c.count arrival parts))

/-! ### Stores and replicated writes (R118, R105, R130, R393) -/

/-- A store may be performed: nothing holds it back, and no earlier store of the core shares a byte with it (R121). -/
def State.canPerform (s : State) (k i : Nat) (x : PStore) : Bool :=
  !s.stuck k x && !((s.tile k).stores.take i).any (fun y => meets x.key x.data.length y.key y.data.length)
/-- A store leaves its core's buffer. -/
def State.dropStore (s : State) (k i : Nat) : State := s.modTile k (fun t => { t with stores := t.stores.eraseIdx i })
/-- STORE_PERFORMED (R118). -/
def execStorePerformed (core index : Nat) (s : State) : Host.Outcome State Fault Refusal :=
  match (s.tile core).stores[index]? with
  | none => .next s
  | some x => .next (if s.canPerform core index x then (s.dropStore core index).performStore core x else s)
/-- REPLICATED_WRITE (R105): the sequencer stamps a store to a replicated page. -/
def execReplicatedWrite (core index : Nat) (s : State) : Host.Outcome State Fault Refusal :=
  match (s.tile core).stores[index]? with
  | none => .next s
  | some x =>
    .next (if x.repl && !s.seqLost && s.canPerform core index x then (s.dropStore core index).stampWrite core x.key x.data x.tag else s)
/-- REPLICA_ACK (R130); copy 56 is the master. -/
def execReplicaAck (stamp die : Nat) (s : State) : Host.Outcome State Fault Refusal := .next (s.ackWrite stamp die)
/-- REPLICA_COMMIT (R130). -/
def execReplicaCommit (stamp : Nat) (s : State) : Host.Outcome State Fault Refusal := .next (s.commitWrite stamp)
/-- SEQUENCER_FAILOVER (R393): the sequencer in charge is lost. The standby performs every stamped write in order and goes
on; when it is lost too, replicated pages are uncorrectable. -/
def execSequencerFailover (s : State) : Host.Outcome State Fault Refusal :=
  if !s.standbySeq then .next (State.record { s.settleWrites with standbySeq := true } (unitRecord 3 10 0xFF 0 none))
  else if !s.seqLost then .next (State.record { s with seqLost := true } (unitRecord 4 10 0xFF 1 none))
  else .next s

/-! ### Expert buffers (R52, R53, R359) -/

/-- EXPERT_ROW_ARRIVAL (R52): a row that is not held, the first of its sender for its buffer. -/
def execExpertRowArrival (index : Nat) (s : State) : Host.Outcome State Fault Refusal :=
  match s.rows[index]? with
  | none => .next s
  | some r =>
    let behind := (s.rows.take index).any (fun q => decide (q.held = 0 ∧ q.sender = r.sender ∧ q.die = r.die ∧ q.buf = r.buf))
    .next (if r.held ≠ 0 ∨ behind then s else State.arriveRow { s with rows := s.rows.eraseIdx index } r)
/-- EXPERT_RELEASE (R52): a store of 0 to the release word of a buffer is performed. -/
def execExpertRelease (die buf : Nat) (s : State) : Host.Outcome State Fault Refusal :=
  .next (if die < Config.dies ∧ buf < 256 then s.performAt (expertAt die buf 8) (leBytes 8 0) false else s)
/-- OVERFLOW_DECISION (R359): the decision dword as it stands is applied. -/
def execOverflowDecision (die buf : Nat) (s : State) : Host.Outcome State Fault Refusal :=
  .next (if die < Config.dies ∧ buf < 256 then s.decideOverflow die buf else s)
/-- A flush is no longer outstanding once its buffer is gone (R53). -/
def Die.flushGone (x : Die) (buf : Nat) : Die := { x with flushing := if x.flushing = some buf then none else x.flushing }
/-- Arrivals of a buffer held under DEFER are told of again (R359). -/
def State.tellAgain (s : State) (d b : Nat) : State :=
  match s.rows.find? (fun r => decide (r.die = d ∧ r.buf = b ∧ r.held ≠ 0) && r.deferred) with
  | none => s
  | some r => State.overflowMsg { s with rows := s.rows.map (fun q =>
      if q.die = d ∧ q.buf = b ∧ q.deferred then { q with told := true } else q) } d b r.held
/-- EXPERT_BUFFER_CONFIGURATION (R52, R359): firmware sizes the pool, configures a buffer or takes it away. Arrivals that
wait for a page arrive again when pages are added. -/
def execExpertBufferConfiguration (die : Nat) (cfg : ExpertCfg) (s : State) : Host.Outcome State Fault Refusal :=
  if Config.dies ≤ die then .next s
  else
    match cfg with
    | .pool pages =>
      let used := (s.die die).poolPages - (s.die die).poolFree
      let s := s.modDie die (fun x => { x with poolPages := max pages used, poolFree := pages - used })
      .next (s.retryRows (fun r => decide (r.die = die ∧ r.held = 4)))
    | .buffer buf owner cls rowsz trig pinned =>
      if 256 ≤ buf then .next s
      else
        let old := (s.expert? die buf).map (fun e => (e.pages, e.flushed, e.first))
        let (pages, flushed, first) := old.getD ([], false, 0)
        let e : Expert := ⟨owner, cls % 16, rowsz, trig, pinned, pages, flushed, first⟩
        .next ((s.modDie die (fun x => { x with experts := keySet x.experts buf e })).tellAgain die buf)
    | .remove buf =>
      let n := ((s.expert? die buf).map (fun e => e.pages.length)).getD 0
      let s := s.modDie die (fun x => Die.flushGone { x with experts := keyDel x.experts buf, poolFree := x.poolFree + n } buf)
      .next (s.retryRows (fun r => decide (r.die = die ∧ r.held = 4)))

end Sys2Proof.Machine
end

