-- ==== Sys2Proof/Machine/Wafer.lean ====
section
/-! DEFINITION. The wafer: time and fret tables (R21 to R24), clocks and thermal steps (R10, R411), drowsy and gated tiles
(R73, R74, R404), lost, retired and fused tiles (R398 to R406, R427), the debug port (R405), links and routes (R16, R419 to
R424). -/

namespace Sys2Proof.Machine

/-! ### Edges (R9, R16) -/

/-- Compute dies that the rim dies join, in rim order (R16). -/
def rimJoins : List Nat := [1, 2, 5, 6, 15, 23, 39, 47, 49, 50, 53, 54, 8, 16, 32, 40]
/-- Direction from a compute die to rim die `r` (R16). -/
def rimDir (r : Nat) : Nat := r / 4
/-- The die at the other end of an edge: a compute die, or 56 + r for a rim die. -/
def edgeTo (d k : Nat) : Option Nat :=
  if Config.dies ≤ d then
    match rimJoins[d - Config.dies]? with
    | none => none
    | some c => if opposite (rimDir (d - Config.dies)) = k then some c else none
  else
    match neighbour d k with
    | some e => some e
    | none => ((List.range 16).find? (fun r => decide (rimJoins[r]? = some d ∧ rimDir r = k))).map (· + Config.dies)
/-- The link of a die in a direction. -/
def State.link (s : State) (d k : Nat) : Link := (s.die d).links[k]?.getD Link.reset
/-- Changes one end of an edge. -/
def State.modLink (s : State) (d k : Nat) (f : Link → Link) : State :=
  s.modDie d (fun x => { x with links := x.links.setIfInBounds k (f (s.link d k)) })
/-- Changes both ends of an edge. -/
def State.modEdge (s : State) (d k : Nat) (f : Link → Link) : State :=
  match edgeTo d k with
  | none => s
  | some e => (s.modLink d k f).modLink e (opposite k) f
/-- The record of an edge; its location is 4 × die + direction (log entry 14). -/
def State.edgeRecord (s : State) (d k sev : Nat) : State := s.record (unitRecord sev 4 0xFF (4 * d + k) (s.partOfDie d))

/-! ### The published tables (R21 to R24) -/

/-- RATE of a clock in steps of 25 MHz, against the 42 steps of the reference count (R21): the nominal ratio, rounded down, stands
for an entry that the module controller has measured (log entry 7). -/
def rateOf (clock : Nat) : Nat := 42 * 2 ^ 30 / clock
/-- The entry can be published for a die (R21): its conversion of the reference count is within 2 cycles of the die's TIME. -/
def State.accurate (s : State) (e : TimeEntry) : Bool :=
  let t : Int := (s.die e.die).time
  let x := timeAt e.offset e.rate s.refCount
  decide (e.die < 72 ∧ 2 ^ 29 ≤ e.rate ∧ e.rate < 2 ^ 31 ∧ x ≤ t + 2 ∧ t ≤ x + 2)
/-- The time table is written anew with accurate entries, in the copy of every die: SEQ advances by two (R24). -/
def State.publishTimes (s : State) (l : List TimeEntry) : State :=
  l.foldl (fun (s : State) e => if s.accurate e then s.modDie e.die (fun d => { d with
    offset := e.offset, rate := if e.die < Config.dies then e.rate else d.rate }) else s)
    { s with tableSeq := s.tableSeq + 2, timePub := some (Publishing.begin' s.timeTable) }
/-- The band of a fret entry is one of a link (R23): not 0, and LO not above HI. -/
def goodBand (e : FretEntry) : Bool := decide (e.lo ≤ e.hi ∧ 0 < e.hi ∧ e.hi < 2 ^ 16)
/-- The fret table is written anew for edges that work (R23, R24). -/
def State.publishBands (s : State) (l : List FretEntry) : State :=
  l.foldl (fun (s : State) e => if goodBand e ∧ e.die < 72 ∧ ((s.link e.die e.dir).state = 1 ∨ (s.link e.die e.dir).state = 2) then
    s.modLink e.die e.dir (fun x => { x with lo := e.lo, hi := e.hi }) else s)
    { s with fretSeq := s.fretSeq + 2, fretPub := some (Publishing.begin' s.fretTable) }
/-- The time-table entry of a die at a clock: the one that the module controller has measured, or one whose OFFSET goes on from the
die's TIME within what R21 allows, a free value. -/
def State.entryOf (s : State) (l : List TimeEntry) (d clock n : Nat) : TimeEntry :=
  match l.find? (fun e => decide (e.die = d) && s.accurate e) with
  | some e => e
  | none => { die := d, rate := rateOf clock
              offset := (s.refCount : Int) - ((s.die d).time * rateOf clock / 2 ^ 30 : Nat) + (Config.freeChoice n % 3 : Nat) - 1 }
/-- The fret entry of an edge: the one that has been timed, or a free band. -/
def bandOf (l : List FretEntry) (d k n : Nat) : FretEntry :=
  match l.find? (fun e => decide (e.die = d ∧ e.dir = k) && goodBand e) with
  | some e => e
  | none =>
    let hi := Config.freeChoice n % 65535 + 1
    ⟨d, k, Config.freeChoice (n + 1) % (hi + 1), hi⟩
/-- The fret entries of an edge, both ways. -/
def edgePair (l : List FretEntry) (d k n : Nat) : List FretEntry :=
  match edgeTo d k with
  | none => []
  | some e => [bandOf l d k n, bandOf l e (opposite k) (n + 2)]
/-- The fret entries of a die's edges, both ways, as they are timed anew. -/
def edgeBands (l : List FretEntry) (d n : Nat) : List FretEntry := (List.range 4).flatMap (fun k => edgePair l d k (n + 4 * k))
/-- After a change of its clock a die's entries are published in both tables (R21, R23). -/
def State.retime (s : State) (d : Nat) (times : List TimeEntry) (bands : List FretEntry) : State :=
  let n := s.free
  let own := s.entryOf times d ((s.die d).clock - (s.die d).slow) n
  (State.publishTimes { s with free := s.free + 17 } (times.filter (fun e => decide (e.die ≠ d)) ++ [own])).publishBands (edgeBands bands d (n + 1))
/-- TIME_TABLE_PUBLISH (R21): the entries that the module controller has measured. -/
def execTimeTablePublish (entries : List TimeEntry) (s : State) : Host.Outcome State Fault Refusal := .next (s.publishTimes entries)
/-- CLOCK_CHANGE (R10, R23): a clock from 0.70 to 1.05 GHz; the die's entries are measured anew. Thermal steps keep none of it
below 0.70 GHz (R411). -/
def execClockChange (die clock : Nat) (entries : List TimeEntry) (bands : List FretEntry) (s : State) :
    Host.Outcome State Fault Refusal :=
  if Config.dies ≤ die ∨ clock < 28 ∨ 42 < clock then .next s
  else .next ((s.modDie die (fun x => { x with clock := clock, slow := min x.slow (clock - 28) })).retime die entries bands)

/-! ### Thermal steps and cutoff (R411) -/

/-- The thermal steps of a die after one more 100 µs: one more while the trip lasts, down to 0.70 GHz, one fewer after it. -/
def Die.nextSlow (d : Die) : Nat := if d.thermal then (if d.clock - d.slow > 28 then d.slow + 1 else d.slow) else d.slow - 1
/-- THERMAL_CLOCK_STEP (R411). -/
def execThermalClockStep (die : Nat) (s : State) : Host.Outcome State Fault Refusal :=
  let d := s.die die
  if Config.dies ≤ die ∨ d.nextSlow = d.slow then .next s
  else
    .next ((s.modDie die (fun x => { x with slow := d.nextSlow })).retime die [] [])

/-! ### Lost tiles (R398 to R401) -/

/-- The record of a lost tile (R398). -/
def State.lostRecord (s : State) (k array : Nat) : State :=
  s.record { unitRecord 3 0 array (s.nameOf k) (s.partOf k) with name := s.nameOf k }
/-- A chord loses a member other than its anchor, which goes on alone with every committed run (R399). -/
def State.loseMember (s : State) (k : Nat) : State :=
  match (s.tile k).memberOf with
  | none => s
  | some a => s.dropChord a
/-- A tile with a task ends its grid (R400); the task on the lost tile stops at once. -/
def State.loseTask (s : State) (k : Nat) : State :=
  match (s.tile k).task with
  | none => s
  | some r =>
    let s := s.abortGrid r.grid 0x00FF0038
    if (s.tile k).task.isSome then s.stopTask k else s
/-- A tile is lost: its logical name has no live tile from now on (R26, R398). -/
def State.loseTile (s : State) (k array : Nat) : State :=
  if !s.live k then s
  else
    let s := ((s.lostRecord k array).loseMember k).loseTask k
    { s with vacant := s.vacant ++ [k] }
/-- TILE_LOST (R398). -/
def execTileLost (core : Nat) (array : Nat) (s : State) : Host.Outcome State Fault Refusal := .next (s.loseTile core array)
/-- THERMAL_CUTOFF (R411): the die's power is removed and every tile of it is lost. -/
def execThermalCutoff (die : Nat) (s : State) : Host.Outcome State Fault Refusal :=
  if Config.dies ≤ die ∨ (s.die die).powered = false then .next s
  else
    let s := (s.modDie die (fun x => { x with powered := false })).zoneRecord die 3
    .next ((List.range 128).foldl (fun (s : State) i => s.loseTile (128 * die + i) 0xFF) s)

/-! ### Retirement, power gating and fusing (R403, R404, R406, R427) -/

/-- The core that holds the task of a tile: itself, or the anchor of its chord. -/
def State.holderOf (s : State) (k : Nat) : Nat := ((s.tile k).memberOf).getD k
/-- The running grid of a tile is to be saved (R55). -/
def State.saveGridOf (s : State) (k : Nat) : State :=
  match (s.tile (s.holderOf k)).task with
  | none => s
  | some r => match s.grid? r.grid with
    | none => s
    | some g => if g.phase = .running ∧ g.abort = none then s.beginSave r.grid false none else s
/-- Every message and transfer in the braid has been delivered or refused (R427). -/
def State.quiescent (s : State) : Bool :=
  s.msgs.all (fun m => decide (m.interval ≠ 0)) && s.replies.isEmpty && s.rows.all (fun r => decide (r.held ≠ 0)) &&
    s.tiles.all (fun e => e.2.xfers.all (fun x => x.remote.isNone || decide (x.interval ≠ 0) || x.stopped.isSome))
/-- GEN advances, from 255 to 1 (R27). -/
def nextGen (g : Nat) : Nat := if g = 255 then 1 else g + 1
/-- A name is bound to a spare tile, fresh but for its SVC register, or made vacant (R403), and GEN advances. Which spare it is bound
to is not stated: a free choice. -/
def State.rebind (s : State) (k : Nat) (spare : Bool) : State :=
  let (n, s) := (s.takeEvents k).fresh
  let s := s.modTile k (fun t => { Tile.idle with svc := t.svc, idleSince := s.timeOf k })
  { s with
    gen := nextGen s.gen
    gated := s.gated.filter (· ≠ k)
    fused := s.fused.filter (fun x => decide (x.1 ≠ k))
    vacant := if spare then s.vacant.filter (· ≠ k) else s.vacant.filter (· ≠ k) ++ [k]
    remap := if spare then keySet s.remap k (Config.freeChoice n) else keyDel s.remap k
    retired := if spare then s.retired else s.retired ++ [k] }
/-- A tile is retired once it holds no task and the braid is quiet; until then its grid is saved (R403, R427). -/
def State.retireTile (s : State) (k : Nat) (spare : Bool) : State :=
  if Config.tileSites ≤ k ∨ s.retired.contains k then s
  else if (s.tile (s.holderOf k)).task.isSome then s.saveGridOf k
  else if s.quiescent then s.rebind k spare
  else s
/-- TILE_RETIRE (R403). -/
def execTileRetire (core : Nat) (spare : Bool) (s : State) : Host.Outcome State Fault Refusal := .next (s.retireTile core spare)
/-- TILE_POWER_GATING (R404): a tile without task and tokens. -/
def execTilePowerGating (core : Nat) (s : State) : Host.Outcome State Fault Refusal :=
  .next (if s.idle core && decide ((s.tile core).hold = 0) && !s.gated.contains core then { s with gated := s.gated ++ [core] } else s)
/-- Lane quads of a core (R240). -/
def laneQuads : Nat := 4
/-- LANE_QUAD_FUSING (R406): a core with a task is saved first; one left without a live quad is retired. -/
def execLaneQuadFusing (core quad : Nat) (s : State) : Host.Outcome State Fault Refusal :=
  if Config.tileSites ≤ core ∨ laneQuads ≤ quad then .next s
  else if (s.tile (s.holderOf core)).task.isSome then .next (s.saveGridOf core)
  else
    let s := if s.fused.contains (core, quad) then s else { s with fused := s.fused ++ [(core, quad)] }
    .next (if laneQuads ≤ (s.fused.filter (fun x => decide (x.1 = core))).length then s.retireTile core false else s)
/-- The scratchpad bank that a byte offset lies in (R13). -/
def bankOf (o : Nat) : Nat := o / 8 % 192
/-- The row of its bank that a byte offset lies at (R13). -/
def rowOf (o : Nat) : Nat := o / 1536
/-- Register and scratchpad banks of a tile (R13, R73): 0 to 3 hold w registers, 4 to 7 vectors, 8 to 15 accumulators, 16 the
predicate, loop, return and stream state, and 17 on are the scratchpad's. -/
def banks : Nat := 209
/-- BANK_DROWSY (R73): 1,024 cycles after the tile came to hold no task and no tokens; the bank keeps its contents. -/
def execBankDrowsy (core bank : Nat) (s : State) : Host.Outcome State Fault Refusal :=
  let t := s.tile core
  .next (if s.idle core && decide (t.hold = 0 ∧ t.idleSince + 1024 ≤ s.timeOf core ∧ bank < banks) && !t.drowsy.contains bank then
    s.setTile core { t with drowsy := t.drowsy ++ [bank] } else s)
/-- ACCUMULATOR_REFRESH (R74): a refresh never changes a value. -/
def execAccumulatorRefresh (_core _acc : Nat) (s : State) : Host.Outcome State Fault Refusal := .next s

/-! ### The debug port (R405) -/

/-- Plain data as the port returns it. -/
def debugWord (x : Nat) : BitVec 128 := BitVec.ofNat 128 x
/-- The committed value of an item of a core; a scratchpad item is the 8 bytes at its offset. -/
def State.debugItem (s : State) (k : Nat) (i : DebugItem) : Option (BitVec 128) :=
  let t := s.tile k
  let reg := fun (c : Reg) => debugWord (c.hi.toNat * 2 ^ 64 + c.lo.toNat)
  match i with
  | .w n => some (reg t.w[n])
  | .p n => some (debugWord t.p[n].toNat)
  | .v n l => some (debugWord (t.v[n])[l].toNat)
  | .vl => some (debugWord t.vl)
  | .m n => some (debugWord t.m[n].toNat)
  | .acc n e => ((t.accOf n).elems[e]?).map (fun x => debugWord x.toNat)
  | .amode n => some (debugWord (t.accOf n).mode.toNat)
  | .pc => some (reg t.pc)
  | .hpc => some (reg t.hpc)
  | .fctl => some (debugWord t.fctl.toNat)
  | .vstatus => some (debugWord t.vstatus.toNat)
  | .wcfg n => some (debugWord t.wcfg[n].toNat)
  | .scratch o => if o + 8 ≤ Config.scratchBytes then some (debugWord (s.readNat (scratchAt k o) 8)) else none
/-- The banks that hold an item of a core (R73). -/
def itemBanks (i : DebugItem) : List Nat :=
  match i with
  | .w n => [n / 16]
  | .v n _ => [4 + n / 8]
  | .acc n _ => [8 + n]
  | .p _ => [16]
  | .scratch o => [17 + bankOf o, 17 + bankOf (o + 7)]
  | _ => []
/-- Status of an access (R405); the generation is checked first (log entry 14). -/
def State.debugStatus (s : State) (name : Nat) : Nat :=
  if s.stale name then 4
  else match coreOf name with
    | none => 3
    | some k =>
      if s.retired.contains k then 2
      else if !s.live k then 3
      else if (s.tile k).memberOf.isSome then 5
      else if s.gated.contains k then 1
      else 0
/-- DEBUG_READ (R405): it never changes the values that it reads; a drowsy bank wakes (R73). -/
def execDebugRead (name : BitVec 32) (item : DebugItem) (s : State) : Host.Outcome State Fault Refusal :=
  let st := s.debugStatus name.toNat
  match coreOf name.toNat with
  | none => .next { s with outputs := s.outputs ++ [.debug st none] }
  | some k =>
    if st ≠ 0 then .next { s with outputs := s.outputs ++ [.debug st none] }
    else .next (State.modTile { s with outputs := s.outputs ++ [.debug st (s.debugItem k item)] } k (fun t =>
      { t with drowsy := t.drowsy.filter (fun b => !(itemBanks item).contains b) }))

/-! ### Links and routes (R419 to R424) -/

/-- Bit `m` of a module mask is set or cleared. -/
def setBit (x m : Nat) (b : Bool) : Nat := x - bf x m 1 * 2 ^ m + bit b * 2 ^ m
/-- Modules of an edge (R18). -/
def modulesOf (d k : Nat) : Nat :=
  match edgeTo d k with
  | none => 0
  | some e => if Config.dies ≤ d ∨ Config.dies ≤ e then 24 else 4
/-- A link's masks after a module's retraining (R419, R420). -/
def Link.retrained (l : Link) (m : Nat) (o : LinkOutcome) : Link :=
  { l with
    retrains := min 255 (l.retrains + 1)
    up := setBit l.up m (decide (o ≠ .disabled))
    degraded := setBit l.degraded m (decide (o = .degraded)) }
/-- An edge fails (R421): both of its fret entries become 0. -/
def State.failEdge (s : State) (d k : Nat) : State :=
  if (s.link d k).state = 3 then s
  else
    let old := s.fretTable
    let s := s.modEdge d k (fun l => { l with state := 3, up := 0, degraded := 0, lo := 0, hi := 0 })
    State.edgeRecord { s with fretSeq := s.fretSeq + 2, fretPub := some (Publishing.begin' old) } d k 3
/-- LINK_RETRAIN (R419): the module's masks, and the edge's fret entries, both ways, as they are timed anew; without a working module
the edge fails. -/
def execLinkRetrain (die dir link : Nat) (outcome : LinkOutcome) (lo hi : Nat) (s : State) : Host.Outcome State Fault Refusal :=
  if modulesOf die dir ≤ link ∨ (s.link die dir).state = 0 ∨ (s.link die dir).state = 3 then .next s
  else
    let s := s.modEdge die dir (fun l => l.retrained link outcome)
    if (s.link die dir).up = 0 then .next (s.failEdge die dir)
    else .next ((State.publishBands { s with free := s.free + 4 } (edgePair [⟨die, dir, lo, hi⟩] die dir s.free)).edgeRecord die dir 0)
/-- LINK_FAIL (R421). -/
def execLinkFail (die dir : Nat) (s : State) : Host.Outcome State Fault Refusal :=
  .next (if modulesOf die dir = 0 ∨ (s.link die dir).state = 0 then s else s.failEdge die dir)

/-- The compute die that a die belongs to or joins (R16). -/
def joinedDie (d : Nat) : Nat := if d < Config.dies then d else rimJoins.getD (d - Config.dies) 0
/-- The direction of the default tables (R19): east–west first, then north–south, then across a rim link. -/
def defaultHop (d dest : Nat) : Option Nat :=
  let c := joinedDie dest
  if d = dest then none
  else if Config.dies ≤ d then some (opposite (rimDir (d - Config.dies)))
  else if d % 8 < c % 8 then some 1
  else if c % 8 < d % 8 then some 3
  else if d / 8 < c / 8 then some 2
  else if c / 8 < d / 8 then some 0
  else if Config.dies ≤ dest then some (rimDir (dest - Config.dies))
  else none
/-- The direction that a partition's tables give at a die towards another: what firmware installed, or the default. -/
def Partition.nextHop (p : Partition) (d dest : Nat) : Option Nat :=
  match p.routes.find? (fun r => decide (r.1 = d ∧ r.2.1 = dest)) with
  | some (_, _, k) => some k
  | none => defaultHop d dest
/-- The edges that a message crosses from a die to another (R19). -/
def Partition.path (p : Partition) (dest : Nat) : Nat → Nat → List (Nat × Nat)
  | 0, _ => []
  | fuel + 1, d =>
    match p.nextHop d dest with
    | none => []
    | some k => (d, k) :: (match edgeTo d k with
      | none => []
      | some e => p.path dest fuel e)
/-- A message has been sent under tables that a switchover replaces (R132): it is on its way, its path changes, and no edge of it has
failed (R423). -/
def State.onOldPath (s : State) (old new : Partition) (m : Msg) : Bool :=
  let a := old.path (dieOf m.dest) 72 m.clockDie
  decide (m.interval = 0) && decide (a ≠ new.path (dieOf m.dest) 72 m.clockDie) && a.all (fun e => decide ((s.link e.1 e.2).state ≠ 3))
/-- The rim die of an HBM stack (R16). -/
def stackDie (x : Nat) : Nat := Config.dies + x / 2
/-- Dies of a partition's slice: its own, its carriers and the rim dies of its stacks (R422). -/
def State.slice (s : State) (p : Nat) : List Nat := (s.part p).dies ++ (s.part p).carriers ++ (s.part p).hbms.map stackDie
/-- The dies one crossing beyond those of a list, within a slice. -/
def State.spread (s : State) (slice l : List Nat) : List Nat :=
  l.foldl (fun (acc : List Nat) d => (List.range 4).foldl (fun (acc : List Nat) k =>
    match edgeTo d k with
    | none => acc
    | some e =>
      if slice.contains e && !acc.contains e && (decide ((s.link d k).state = 1) || decide ((s.link d k).state = 2)) then acc ++ [e]
      else acc) acc) l
/-- The dies that a list reaches within a slice. -/
def State.reached (s : State) (slice : List Nat) : Nat → List Nat → List Nat
  | 0, l => l
  | fuel + 1, l => State.reached s slice fuel (s.spread slice l)
/-- Some die of the partition has no route to another die, vault or stack of it (R424). -/
def State.cutOff (s : State) (p : Nat) : Bool :=
  let want := (s.part p).dies ++ (s.part p).hbms.map stackDie
  let got := s.reached (s.slice p) 72 [s.refDie p]
  want.any (fun d => !got.contains d)
/-- The failed edge of a slice, as R424 names it: its lower-numbered compute die and direction, or the rim die. -/
def State.failedEdge (s : State) (p : Nat) : Nat × Nat :=
  let ends := (orderBy (fun (a b : Nat) => decide (a < b)) ((s.part p).dies ++ (s.part p).carriers)).flatMap (fun d =>
    (List.range 4).map (fun k => (d, k)))
  match ends.find? (fun e => decide ((s.link e.1 e.2).state = 3)) with
  | none => (0, 0)
  | some (d, k) => match edgeTo d k with
    | none => (d, k)
    | some e => if Config.dies ≤ e then (e, 0) else (d, k)
/-- The grids of a partition that still run, or are being saved. -/
def State.activeGrids (s : State) (p : Nat) : List Nat :=
  (s.grids.filter (fun e => decide (e.2.part = p ∧ e.2.abort = none ∧ (e.2.phase = .running ∨ e.2.phase = .saving)) && !e.2.allExited)).map (·.1)
/-- A grid is severed: its tasks stop and are saved (R424). -/
def State.severGrid (s : State) (gid : Nat) (edge : Nat × Nat) : State :=
  match s.grid? gid with
  | none => s
  | some g =>
    if g.phase = .saving then (s.modGrid gid (fun g => { g with sever := some edge, hold := false })).checkSaved gid
    else (s.beginSave gid false (some edge)).checkSaved gid
/-- EN is cleared in every host window on a CXL port, and no TLB keeps a leaf of one (R432, R380). -/
def State.portDown (s : State) (port : Nat) : State :=
  let on := fun (w : HostWin) => decide (bf w.ctl.toNat 1 3 = port)
  let hit := fun (e : TlbEntry) =>
    let pa := bf e.pte 16 36 * 2 ^ 16
    s.parts.any (fun p => p.2.windows.toList.any (fun w =>
      on w && decide (w.base.toNat ≤ pa ∧ pa < w.base.toNat + w.len.toNat % 2 ^ 16 * 2 ^ 30)))
  let keep := fun (l : List TlbEntry) => l.filter (fun e => !hit e)
  { s with
    parts := s.parts.map (fun p => (p.1, { p.2 with windows := p.2.windows.map (fun w =>
      if on w then { w with ctl := BitVec.ofNat 64 (w.ctl.toNat - w.ctl.toNat % 2) } else w) }))
    clusterTlbs := s.clusterTlbs.map (fun x => (x.1, keep x.2))
    tiles := s.tiles.map (fun x => (x.1, { x.2 with itlb := keep x.2.itlb, dtlb := keep x.2.dtlb })) }
/-- Rim dies of the CXL ports (R308). -/
def portRims : List Nat := [4, 5, 6, 7, 12, 13, 14, 15]
/-- Every link of a die that it had has failed: a rim die is then isolated (R421). -/
def State.isolated (s : State) (d : Nat) : Bool :=
  (List.range 4).all (fun k => decide ((s.link d k).state = 3 ∨ (s.link d k).state = 0)) &&
    (List.range 4).any (fun k => decide ((s.link d k).state = 3))
/-- Stacks and Ethernet ports of isolated rim dies are lost to a partition (R421). -/
def State.dropRims (s : State) (p : Nat) : State :=
  s.modPart p (fun x => { x with
    hbms := x.hbms.filter (fun h => !s.isolated (stackDie h)), ethPorts := x.ethPorts.filter (fun e => !s.isolated (Config.dies + e / 4)) })
/-- The CXL ports of isolated rim dies are down (R421, R432). -/
def State.dropPorts (s : State) : State :=
  (List.range 8).foldl (fun (s : State) n => if s.isolated (Config.dies + portRims.getD n 0) then s.portDown n else s) s
/-- Firmware installs a partition's tables: messages on paths that change go on under the old ones, and their sources hold new
messages back until they have arrived (R132). -/
def State.installRoutes (s : State) (p : Nat) (tables : RouteTables) : State :=
  let old := s.part p
  let s := s.modPart p (fun x => { x with carriers := tables.carriers.filter (fun d => decide (d < Config.dies)), routes := tables.routes })
  { s with msgs := s.msgs.map (fun m => if m.part = p then { m with old := m.old || s.onOldPath old (s.part p) m } else m) }
/-- ROUTE_SWITCHOVER (R422 to R424): the new tables of a partition; traffic that was not acknowledged is sent again in its
order, and grids that the partition's cut severs are stopped. -/
def execRouteSwitchover (part : Nat) (tables : RouteTables) (s : State) : Host.Outcome State Fault Refusal :=
  if !(s.part part).live then .next s
  else
    let s := s.installRoutes part tables
    if s.cutOff part then
      let edge := s.failedEdge part
      .next ((((s.activeGrids part).foldl (fun (s : State) gid => s.severGrid gid edge) s).dropRims part).dropPorts)
    else .next s

end Sys2Proof.Machine
end

