-- ==== Sys2Proof/Machine/Meters.lean ====
section
/-! DEFINITION. Energy accounts and their readings (R183 to R190, R412 to R416), event readings (R417) and the module
controller's takeover (R418). Accounts of jobs and partitions have readings; R188 gives overhead and uncharged energy none. -/

namespace Sys2Proof.Machine

/-! ### Charges (R184, R412) -/

/-- An account that opens now. -/
def Acct.opened (now : Nat) : Acct := ⟨0, 0, now, (now, 0), false, false, false, false, []⟩
/-- Changes an account, which opens if it is not open. -/
def State.modAccount (s : State) (a : Account) (f : Acct → Acct) : State :=
  if s.accounts.any (fun x => decide (x.1 = a)) then { s with accounts := s.accounts.map (fun x => if x.1 = a then (x.1, f x.2) else x) }
  else { s with accounts := s.accounts ++ [(a, f (Acct.opened s.refCount))] }
/-- Charges picojoules to an account; reconciliations that METER must include leave its history (R306). -/
def State.charge (s : State) (a : Account) (pj : Int) (gap : Bool) : State :=
  s.modAccount a (fun x => { x with
    pj := x.pj + pj, gap := x.gap || gap
    history := x.history.filter (fun h => decide (s.refCount < h.1 + 21000)) ++ [(s.refCount, pj)] })
/-- Charges a die's accounts at a ratio, each rounded down, and gives the sum charged; counts are in 1/256 pJ (R183). -/
def State.chargeAll (s : State) (num den : Nat) (gap : Bool) : List (Account × Nat) → State × Nat
  | [] => (s, 0)
  | (a, n) :: l =>
    let pj := n * num / max den 1
    let (s, sum) := State.chargeAll (s.charge a pj gap) num den gap l
    (s, sum + pj)
/-- The ratio of a die's charges to its counts (R412): clamped to 0.95 to 1.05, or that of the other dies while its meter is
faulty. Without counts of other dies their ratio is not stated: a free value. -/
def chargeRatio (emeas eev : Nat) (others : Nat × Nat) (faulty : Bool) (n : Nat) : Nat × Nat :=
  if faulty then (if others.2 = 0 then (Config.freeChoice n, 256 * 1000) else others)
  else if 25600 * emeas < 95 * eev then (95, 25600)
  else if 105 * eev < 25600 * emeas then (105, 25600)
  else (emeas, eev)
/-- The ratio of an interval lies outside 0.95 to 1.05 (R412). -/
def offRatio (emeas eev : Nat) : Bool := decide (25600 * emeas < 95 * eev ∨ 105 * eev < 25600 * emeas)
/-- One interval of a die's meter whose sensor passes its check or not. -/
def State.reconcile (s : State) (d emeas : Nat) (counts : List (Account × Nat)) (others : Nat × Nat) (sensorOk : Bool) : State :=
  let eev := (counts.map (·.2)).sum
  let faulty := (s.die d).meterFaulty || !sensorOk
  let (n, s) := s.fresh
  let (num, den) := chargeRatio emeas eev others faulty n
  let (s, sum) := s.chargeAll num den faulty counts
  if faulty then
    let s := if (s.die d).meterFaulty then s else s.zoneRecord d 3
    s.modDie d (fun x => { x with meterFaulty := true })
  else
    let s := s.charge .overhead ((emeas : Int) - sum) false
    let bad := offRatio emeas eev
    let s := if bad then s.zoneRecord d 0 else s
    let run := if bad then (s.die d).badIntervals + 1 else 0
    let s := s.modDie d (fun x => { x with badIntervals := run })
    if run = 100 then (s.zoneRecord d 3).modDie d (fun x => { x with meterFaulty := true }) else s
/-- The account that a unit's events go to (R185); a stack that no partition holds counts as overhead. -/
def State.useAccount (s : State) (u : EnergyUse) : Account :=
  match u with
  | .tile core _ _ => s.accountOf core
  | .access core _ _ => s.accountOf core
  | .save p tag _ _ => .job p tag
  | .refresh stack _ _ => ((s.parts.find? (fun e => e.2.live && e.2.hbms.contains stack)).map (fun e => Account.own e.1)).getD .overhead
  | .module _ _ => .overhead
/-- The events of a unit, weighted. -/
def State.useCount (s : State) (u : EnergyUse) : Nat :=
  match u with
  | .tile _ kind n => s.weigh kind n
  | .access _ kind n => s.weigh kind n
  | .save _ _ kind n => s.weigh kind n
  | .refresh _ kind n => s.weigh kind n
  | .module kind n => s.weigh kind n
/-- The cores of a die give their counts to its meter. -/
def State.gatherCounts (s : State) (d : Nat) : State :=
  ((s.tiles.map (·.1)).filter (onDie d)).foldl (fun (s : State) k => s.takeEvents k) s
/-- The weighted counts of a die, by account: what its tiles have counted and what its other units have. -/
def State.dieCounts (s : State) (d : Nat) (uses : List EnergyUse) : List (Account × Nat) :=
  uses.foldl (fun l u => addCount l (s.useAccount u) (s.useCount u)) (s.die d).counts
/-- Ticks of the reference count between reconciliations (R184). -/
def meterTicks : Nat := 10500
/-- METER_RECONCILE (R184): every 10,500 ticks, with the energy measured at a die's supply, the events of its units, and the sums of
energy and counts over the other dies. -/
def execMeterReconcile (die emeas : Nat) (uses : List EnergyUse) (others : Nat × Nat) (sensorOk : Bool) (s : State) :
    Host.Outcome State Fault Refusal :=
  if Config.dies + Config.rimDies ≤ die ∨ s.refCount < (s.die die).metered + meterTicks then .next s
  else
    let s := s.gatherCounts die
    let counts := s.dieCounts die uses
    .next (State.reconcile (s.modDie die (fun d => { d with counts := [], metered := d.metered + meterTicks })) die emeas counts others sensorOk)

/-! ### Readings (R187, R188, R417) -/

/-- The 96 bytes of a reading (R188). -/
def readingBody (flags part job start fin energy cumul seq resets acc : Nat) : List Byte :=
  leBytes 2 1 ++ leBytes 2 flags ++ leBytes 2 part ++ leBytes 2 job ++ leBytes 32 Config.moduleId.toNat ++ leBytes 8 start ++
    leBytes 8 fin ++ leBytes 8 energy ++ leBytes 8 cumul ++ leBytes 8 seq ++ leBytes 4 resets ++ leBytes 2 acc ++ leBytes 10 0
/-- A reading is journaled under the next SEQ (R414). -/
def State.journalReading (s : State) (flags part job start energy cumul acc : Nat) : State :=
  { s with
    seqNo := s.seqNo + 1
    journal := s.journal ++ [⟨s.seqNo + 1, readingBody flags part job start s.refCount energy cumul (s.seqNo + 1) s.resets acc, none⟩] }
/-- An event reading (R417). -/
def State.eventReading (s : State) (code : Nat) : State := s.journalReading 0x18 0xFFFF 0 s.refCount 0 code 15
/-- Millijoules that an account has been charged. -/
def Acct.mj (a : Acct) : Nat := (a.pj / 1000000000).toNat
/-- FLAGS of an account's next reading. -/
def Acct.flags (a : Acct) (own final : Bool) : Nat :=
  bit a.gap + bit a.preempted * 2 + bit a.reset * 4 + bit own * 8 + bit final * 16
/-- An account after its reading: the remainder goes into the next (R187). -/
def Acct.journaled (a : Acct) (now : Nat) : Acct :=
  { a with cumul := a.mj, start := now, gap := false, preempted := false, reset := false }
/-- Some packet of a job waits in a partition's queues. -/
def State.jobQueued (s : State) (p job : Nat) : Bool :=
  (List.range 16).any (fun q =>
    let u := s.queue p q
    (List.range ((u.qwr + 2 ^ 32 - u.qrd) % 2 ^ 32)).any (fun i => decide (s.readNat (u.slotAt (u.qrd + i) + 52) 2 = job)))
/-- A job's account has no grid, placed, saved or waiting (R187). -/
def State.jobOver (s : State) (a : Account) : Bool :=
  match a with
  | .job p t => !(s.grids.any (fun g => decide (g.2.part = p ∧ g.2.job = t ∧ g.2.phase ≠ .severed)) || s.jobQueued p t)
  | _ => false
/-- Journals one account and keeps it open, or closes it after a whole journal period without a grid (R187). -/
def State.journalAccount (s : State) (a : Account) (x : Acct) : State × Option Acct :=
  let final := s.jobOver a && x.closing
  let y := { x.journaled s.refCount with closing := s.jobOver a }
  match a with
  | .job p t => (s.journalReading (x.flags false final) p t x.start (x.mj - x.cumul) x.mj 25, if final then none else some y)
  | .own p => (s.journalReading (x.flags true false) p 0 x.start (x.mj - x.cumul) x.mj 15, some y)
  | _ => (s, some x)
/-- Journals every account of a list; gives those that stay open. -/
def State.journalAll (s : State) : List (Account × Acct) → State × List (Account × Acct)
  | [] => (s, [])
  | (a, x) :: l =>
    let (s, y) := s.journalAccount a x
    let (s, r) := State.journalAll s l
    (s, match y with
      | none => r
      | some y => (a, y) :: r)
/-- Journals every open account. -/
def State.journalAccounts (s : State) : State :=
  let (t, l) := s.journalAll s.accounts
  { t with accounts := l }
/-- Partitions that are set up, ascending. -/
def State.liveParts (s : State) : List (Nat × Partition) := s.parts.filter (fun e => e.2.live)
/-- Module overhead goes to the partitions' own accounts in proportion to the dies they hold, the remainder to the lowest
number (R185). -/
def State.shareOverhead (s : State) : State :=
  match s.liveParts, s.accounts.find? (fun a => decide (a.1 = .overhead)) with
  | low :: _, some (_, x) =>
    let dies := (s.liveParts.map (fun e => e.2.dies.length)).sum
    if dies = 0 then s
    else
      let share := fun (e : Nat × Partition) => x.pj * e.2.dies.length / dies
      let rest := x.pj - (s.liveParts.map share).sum
      let s := s.liveParts.foldl (fun (s : State) e => s.charge (.own e.1) (share e + if e.1 = low.1 then rest else 0) false) s
      s.modAccount .overhead (fun a => { a with pj := 0 })
  | _, _ => s
/-- Every unsigned reading is signed with the reading key (R189, R414). -/
def State.signJournal (s : State) : State :=
  { s with
    journal := s.journal.map (fun r => if r.signature.isNone then { r with signature := some (Config.signature s.readKey r.body) } else r)
    accounts := s.accounts.map (fun a => (a.1, { a.2 with signedTo := (a.2.start, a.2.cumul) })) }
/-- Readings that the journal holds (R415). -/
def journalSize : Nat := 1048576
/-- More than 90 % of the journal is used. -/
def journalHigh (n : Nat) : Bool := decide (9 * journalSize < 10 * n)
/-- The CORRECTED records that a journal period has gathered go out (R345), and what counts per period starts anew (R407,
R409). -/
def State.endPeriod (s : State) : State :=
  let s := s.recent.foldl (fun (s : State) r => s.emitRecord r) { s with recent := [] }
  { s with
    tiles := s.tiles.map (fun e => (e.1, { e.2 with trips := 0 }))
    dies := s.dies.map (fun e => (e.1, { e.2 with rebuilds := 0 })) }
/-- The accounts are journaled and the readings signed; readings that fill the journal beyond 90 % double the period (R415). -/
def State.endJournal (s : State) (signatureOk : Bool) : State :=
  let before := s.journal.length
  let s := s.shareOverhead
  let s := if journalSize ≤ before then s else s.journalAccounts
  let s := if journalHigh s.journal.length && !journalHigh before then
      { s with jperiod := BitVec.ofNat 64 (min 60000 (2 * s.jperiod.toNat)) } else s
  (if signatureOk then s.signJournal else s).endPeriod
/-- Ticks of the reference count in a millisecond (R21). -/
def ticksPerMs : Nat := 1050000
/-- JOURNAL_PERIOD (R187, R414, R415) comes when a journal period has passed: a full journal takes no reading; one that fills beyond 90 % doubles the period. -/
def execJournalPeriod (signatureOk : Bool) (s : State) : Host.Outcome State Fault Refusal :=
  if s.refCount < s.journalAt + s.jperiod.toNat * ticksPerMs then .next s
  else .next (State.endJournal { s with journalAt := s.refCount } signatureOk)
/-- READINGS (R321, R414, R415): acknowledged readings are dropped; signed ones are returned in SEQ order, none beyond the
first unsigned one. -/
def execReadings (fromSeq ackSeq : Nat) (s : State) : Host.Outcome State Fault Refusal :=
  if s.boot ≠ .running ∨ s.ctlLost then .next { s with outputs := s.outputs ++ [.refusedCommand] }
  else
    let kept := s.journal.filter (fun r => decide (ackSeq < r.seq) || r.signature.isNone)
    let shown := (kept.takeWhile (fun r => r.signature.isSome)).filter (fun r => decide (fromSeq ≤ r.seq))
    .next { s with journal := kept, ackSeq := max s.ackSeq ackSeq, outputs := s.outputs ++ [.readings shown] }

/-! ### Events that are journaled (R416 to R418) -/

/-- ENCLOSURE_OPEN (R417). -/
def execEnclosureOpen (s : State) : Host.Outcome State Fault Refusal := .next (s.eventReading 1)
/-- DEBUG_PORT_ENABLE (R417). -/
def execDebugPortEnable (s : State) : Host.Outcome State Fault Refusal := .next (s.eventReading 2)
/-- COEFFICIENT_TABLE_CHANGE (R183, R417). -/
def execCoefficientTableChange (table : List Nat) (s : State) : Host.Outcome State Fault Refusal :=
  .next (State.eventReading { s with coeffs := table } 4)
/-- READING_KEY_REPLACEMENT (R189, R417): the new key comes certified by the identity key. -/
def execReadingKeyReplacement (key : Nat) (s : State) : Host.Outcome State Fault Refusal :=
  .next (State.eventReading { s with readKey := key, readCert := Config.keyCertificate key } 6)
/-- The reference count goes on from another value: the time table is written anew for it, its OFFSETs moved along (R21, R24). -/
def State.moveRef (s : State) (r : Nat) : State :=
  { s with
    refCount := r, tableSeq := s.tableSeq + 2, timePub := some (Publishing.begin' s.timeTable)
    dies := s.dies.map (fun e => (e.1, { e.2 with offset := e.2.offset + (r : Int) - (s.refCount : Int) })) }
/-- A one-time counter that advances in blocks of 1,024 never repeats a value (R416). -/
def nextBlock (n : Nat) : Nat := (n / 1024 + 1) * 1024
/-- ALWAYS_ON_LOSS (R416): unsigned readings and charges are gone; every account goes on from its last signed reading, and
the reference count that the module resumes with is not stated: a free value. -/
def execAlwaysOnLoss (s : State) : Host.Outcome State Fault Refusal :=
  let (n, s) := s.fresh
  let back := fun (a : Acct) => { a with
    pj := (a.signedTo.2 * 1000000000 : Nat), cumul := a.signedTo.2, start := a.signedTo.1, gap := true, history := [] }
  let s := s.moveRef (Config.freeChoice n)
  .next (State.eventReading { s with
    seqNo := nextBlock s.seqNo, resets := nextBlock s.resets, journalAt := s.refCount
    dies := s.dies.map (fun e => (e.1, { e.2 with metered := s.refCount }))
    journal := s.journal.filter (fun r => r.signature.isSome)
    accounts := s.accounts.map (fun a => (a.1, back a.2)) } 5)
/-- MODULE_CONTROLLER_TAKEOVER (R418): the standby goes on from copies, its reference count within 2 ticks; when it is lost
too, a MODULE record goes out and placements are held. -/
def execModuleControllerTakeover (s : State) : Host.Outcome State Fault Refusal :=
  if !s.standbyCtl then
    let (n, s) := s.fresh
    let s := s.moveRef (s.refCount + Config.freeChoice n % 5 - 2)
    let s := State.eventReading { s with
      standbyCtl := true, fretSeq := s.fretSeq + 2, fretPub := some (Publishing.begin' s.fretTable)
      accounts := s.accounts.map (fun a => (a.1, { a.2 with gap := true })) } 7
    .next (s.record (unitRecord 3 9 0xFF 0 none))
  else if !s.ctlLost then .next (State.record { s with ctlLost := true } (unitRecord 4 9 0xFF 1 none))
  else .next s

end Sys2Proof.Machine
end

