-- ==== Sys2Proof/Machine/HostLink.lean ====
section
/-! DEFINITION. Outside the module: Cinov (R314 to R317, R430, R431), host accesses to device memory (R134, R309, R433) and
CXL links (R432). What a peer or a host sends comes with the event. -/

namespace Sys2Proof.Machine

/-! ### Memory of an ASID as an engine without a core reaches it -/

/-- A core of a partition, under whose name its Cinov engine's accesses go. -/
def State.partCore (s : State) (p : Nat) : Nat := s.refDie p * 128
/-- How an access of such an engine ends without effect: it waits at a home or for a walk, or a page or word of it fails. -/
inductive Denied where
  | waits | fails
  deriving DecidableEq, Repr
/-- A walk that waits, or that fails. -/
def denied (f : WalkFail) : Denied := if f.cause = 0 then .waits else .fails
/-- Translates one page of an ASID as an engine access, setting A, and D for writes (R109). -/
def State.asidPage (s : State) (p asid need va n : Nat) : Except Denied (Piece × State) :=
  match locate va 1 with
  | .virt => match walk s p asid va need with
    | .error f => .error (denied f)
    | .ok l =>
      let x := physOf ⟨asid, 0, l.big, l.pte, l.pteAddr, p⟩ va
      .ok (⟨va, n, x.key, x.repl, x.capst⟩, s.setPte l.pteAddr (l.pte ||| pteA ||| (if need &&& needW = 0 then 0 else pteD)))
  | .expert => match expertWalk s p va need with
    | .error f => .error (denied f)
    | .ok x => .ok (⟨va, n, x.key, false, false⟩, s)
  | _ => .error .fails
/-- Translates `n` bytes of an ASID page by page. -/
def State.asidPieces (s : State) (p asid need : Nat) : Nat → Nat → Nat → Except Denied (List Piece × State)
  | 0, _, _ => .ok ([], s)
  | fuel + 1, va, n =>
    if n = 0 then .ok ([], s)
    else
      let first := min n (65536 - va % 65536)
      match s.asidPage p asid need va first with
      | .error e => .error e
      | .ok (x, s) =>
        match s.asidPieces p asid need fuel (va + first) (n - first) with
        | .error e => .error e
        | .ok (l, s) => .ok (x :: l, s)
/-- Reads bytes of an ASID; a replicated page is read at its master (R392). -/
def State.asidRead (s : State) (p asid va n : Nat) : Except Denied (List Byte × State) :=
  match s.asidPieces p asid (needR + needEng) (pagesOf n) va n with
  | .error e => .error e
  | .ok (l, s) =>
    let s := s.mendPieces (s.partCore p) 56 l
    if l.any (fun x => s.homeBusy x.key x.len) then .error .waits
    else if l.any (fun x => s.isBad x.key x.len) then .error .fails
    else .ok (l.flatMap (fun x => s.readAt x.key x.len), s)
/-- Writes bytes of an ASID. -/
def State.asidWrite (s : State) (p asid va : Nat) (b : List Byte) : Except Denied State :=
  match s.asidPieces p asid (needW + needEng) (pagesOf b.length) va b.length with
  | .error e => .error e
  | .ok (l, s) =>
    let k := s.partCore p
    let s := s.mendPieces k 56 l
    if l.any (fun x => s.heldBack k noXfer x || (x.repl && s.seqLost)) then .error .waits
    else if l.any (fun x => s.badPartial x.key x.len) then .error .fails
    else .ok (s.writePieces k noXfer l b)

/-! ### The Cinov ring (R315, R316) -/

/-- N of the ring. -/
def Partition.cnN (p : Partition) : Nat := bf p.cnctl.toNat 0 5
/-- EN of the engine. -/
def Partition.cnEn (p : Partition) : Bool := decide (bf p.cnctl.toNat 8 1 = 1)
/-- The ring's ASID. -/
def Partition.cnAsid (p : Partition) : Nat := bf p.cnctl.toNat 16 14
/-- Virtual address of an entry. -/
def Partition.cnEntry (p : Partition) (i : Nat) : Nat := p.cnbase.toNat + 64 * (i % 2 ^ p.cnN)
/-- LCAP of an entry. -/
def CinovOp.cap (o : CinovOp) : Reg := Reg.ofBytes o.lcap (o.bytes.take 16)
/-- Field of an entry. -/
def CinovOp.nat (o : CinovOp) (off n : Nat) : Nat := blockNat o.bytes off n
/-- LEN. -/
def CinovOp.len (o : CinovOp) : Nat := o.nat 24 4
/-- PEER. -/
def CinovOp.peer (o : CinovOp) : Nat := o.nat 28 2
/-- OP. -/
def CinovOp.op (o : CinovOp) : Nat := o.nat 30 1
/-- ARG. -/
def CinovOp.arg (o : CinovOp) : Nat := o.nat 31 1
/-- A table entry of a partition; an unwritten one is zeros. -/
def tableEntry (l : List (Nat × List Byte)) (i : Nat) : List Byte := keyGet [] l i
/-- The peer-table indices that an entry's operation reaches: its peer, or the other members of its group. -/
def Partition.reaches (p : Partition) (o : CinovOp) : List Nat :=
  if o.op < 3 then [o.peer]
  else
    let g := tableEntry p.groups o.peer
    ((List.range (blockNat g 0 1)).filter (fun i => decide (i ≠ blockNat g 1 1))).map (fun i => blockNat g (8 + 2 * i) 2)
/-- An entry is as R315 and R317 require; what the engine does with any other entry is not stated, so it moves nothing and
completes with the status that the event supplies. -/
def Partition.formed (p : Partition) (o : CinovOp) : Bool :=
  let enabled := if o.op < 3 then decide (blockNat (tableEntry p.peers o.peer) 21 1 % 2 = 1)
    else decide (blockNat (tableEntry p.groups o.peer) 2 1 % 2 = 1)
  decide (o.op ≤ 4 ∧ o.nat 40 24 = 0) && enabled && (if o.op = 2 then decide (o.len ≤ 64 ∧ o.arg < 16) else true) &&
    (if o.op < 2 then decide (o.arg = 0) else true) && (if 3 ≤ o.op then credWindow o.arg else true)
/-- LCAP holds what the operation needs (R315): ENGINE, LOAD for PUT, MSG and CRED, STORE for GET and CRED. -/
def CinovOp.capOk (o : CinovOp) : Bool :=
  let c := o.cap
  let perms := Perm.engine + (if o.op = 0 then 0 else Perm.load) + (if o.op = 0 ∨ 3 ≤ o.op then Perm.store else 0)
  c.tag && decide (c.otype = 0) && c.has perms &&
    decide ((capBounds c).1 ≤ (c.addr : Int) ∧ ((c.addr + o.len : Nat) : Int) ≤ (capBounds c).2)
/-- The local bytes of an entry as it is taken: nothing for GET. -/
def State.cinovLocal (s : State) (p asid : Nat) (o : CinovOp) : Except Denied (List Byte × State) :=
  if !o.capOk then .error .fails
  else if o.op = 0 then .ok ([], s)
  else s.asidRead p asid o.cap.addr o.len
/-- UDP port that Cinov packets go to unless firmware sets another (R314). -/
def defaultUdp : Nat := 48640
/-- UDP port of a peer (R317). -/
def Partition.udpOf (p : Partition) (n : Nat) : Nat :=
  let x := blockNat (tableEntry p.peers n) 18 2
  if x = 0 then defaultUdp else x
/-- A connection's next sequence number to send and the next it accepts (R314). -/
def Partition.conn (p : Partition) (n : Nat) : Nat × Nat := keyGet (0, 0) p.conns n
/-- What an entry asks of one peer goes out as the next packet of their connection (R314, R315). -/
def State.cinovPacket (s : State) (p : Nat) (o : CinovOp) (d : List Byte) (n : Nat) : State :=
  let q := s.part p
  let c := q.conn n
  State.modPart { s with outputs := s.outputs ++ [.cinovSend p n (q.udpOf n) c.1 o.op (o.nat 16 8) o.len o.arg d] } p
    (fun x => { x with conns := keySet x.conns n ((c.1 + 1) % 2 ^ 32, c.2) })
/-- LCAP's tag, as the entry's first granule stands in memory. -/
def State.lcapTag (s : State) (p asid va : Nat) : Bool :=
  match s.asidPieces p asid (needR + needEng) 2 va 16 with
  | .ok (x :: _, _) => x.capst && !isHost x.key && tagGet s.tags (x.key / 16)
  | _ => false
/-- The engine takes one entry: it reads it, and sends what the operation sends. An entry that it cannot read stays untaken. -/
def State.takeEntry (s : State) (p i : Nat) : Option State :=
  let q := s.part p
  match s.asidRead p q.cnAsid (q.cnEntry i) 64 with
  | .error _ => none
  | .ok (b, s) =>
    let o : CinovOp := ⟨i, b, s.lcapTag p q.cnAsid (q.cnEntry i), none, none⟩
    let taken := fun (o : CinovOp) (s : State) => s.modPart p (fun x => { x with cnTaken := x.cnTaken ++ [o], cnNext := (i + 1) % 2 ^ 32 })
    if !q.formed o then some (taken o s)
    else match s.cinovLocal p q.cnAsid o with
      | .error .waits => none
      | .error .fails => some (taken o s)
      | .ok (d, s) => some (taken { o with sent := some d } ((q.reaches o).foldl (fun s n => s.cinovPacket p o d n) s))
/-- Takes `n` entries, up to one that cannot be read yet. -/
def State.takeEntries (s : State) (p : Nat) : Nat → State
  | 0 => s
  | n + 1 => match s.takeEntry p (s.part p).cnNext with
    | none => s
    | some t => t.takeEntries p n
/-- CINOV_DOORBELL (R315): the engine takes the entries that the write index covers. -/
def execCinovDoorbell (part : Nat) (s : State) : Host.Outcome State Fault Refusal :=
  let q := s.part part
  if !q.live ∨ !q.cnEn ∨ q.cnPending.isSome ∨ q.cnN = 0 ∨ 16 < q.cnN then .next s
  else
    match s.asidRead part q.cnAsid (q.cnbase.toNat - 8) 8 with
    | .error _ => .next s
    | .ok (b, s) =>
      let ahead := (leNat b % 2 ^ 32 + 2 ^ 32 - q.cnNext) % 2 ^ 32
      let room := 2 ^ q.cnN - (q.cnNext + 2 ^ 32 - q.cnrd) % 2 ^ 32
      .next (if ahead ≤ room then s.takeEntries part ahead else s)

/-! ### Completion (R431) -/

/-- The result of a collective across modules: the other members' contributions stand in rank order in `data`, this
endpoint's at its rank (R314, R95, R96). -/
def Partition.cinovResult (p : Partition) (o : CinovOp) (mine data : List Byte) : List Byte :=
  let g := tableEntry p.groups o.peer
  let self := blockNat g 1 1
  let parts := (List.range (blockNat g 0 1)).map (fun i =>
    let d := if i = self then mine else (data.drop ((if i < self then i else i - 1) * o.len)).take o.len
    (some ⟨i, 0, d, [], 0, none⟩ : Option CollPart))
  (credResult (if o.op = 3 then .canon else .exact) o.arg (o.len / credBytes o.arg 1) [] parts).1
/-- The bytes that an entry writes at LCAP when it completes OK; MX windows carry no scale bytes here, so their result is not
stated: free bytes (log entry 6). -/
def Partition.cinovWrites (p : Partition) (o : CinovOp) (data : List Byte) (n : Nat) : List Byte :=
  if o.op = 0 then (data ++ List.replicate o.len 0).take o.len
  else if o.op < 3 then []
  else if isMx o.arg then (List.range o.len).map (fun i => Config.freeByte (n + i))
  else p.cinovResult o (o.sent.getD []) data
/-- Status and memory of an entry that completes with a status of the peer (R431); none while its local pages wait. -/
def State.cinovOutcome (s : State) (p : Nat) (o : CinovOp) (status : Nat) (data : List Byte) : Option (Nat × State) :=
  let q := s.part p
  if !q.formed o then some (status % 4, s)
  else if o.sent.isNone then some (3, s)
  else if (q.reaches o).any q.lostPeers.contains ∨ status = 1 then some (1, s)
  else if status ≠ 0 then some (2, s)
  else
    let w := q.cinovWrites o data s.free
    match State.asidWrite { s with free := s.free + o.len } p q.cnAsid o.cap.addr w with
    | .error .waits => none
    | .error .fails => some (3, s)
    | .ok t => some (0, t)
/-- A write of the engine's report: none while it waits, nothing where the page fails. -/
def State.reportWrite (s : State) (p va : Nat) (b : List Byte) : Option State :=
  match s.asidWrite p (s.part p).cnAsid va b with
  | .error .waits => none
  | .error .fails => some s
  | .ok t => some t
/-- The counter at CADDR is incremented. -/
def State.cinovCount (s : State) (p : Nat) (o : CinovOp) : Option State :=
  match s.asidRead p (s.part p).cnAsid (o.nat 32 8) 4 with
  | .error .waits => none
  | .error .fails => some s
  | .ok (b, s) => s.reportWrite p (o.nat 32 8) (leBytes 4 ((leNat b + 1) % 2 ^ 32))
/-- The status dword is written, then the counter at CADDR is incremented (R431). -/
def State.cinovReport (s : State) (p : Nat) (o : CinovOp) (status : Nat) : Option State :=
  (s.reportWrite p ((s.part p).cnEntry o.index + 40) (leBytes 8 status)).bind (fun s => s.cinovCount p o)
/-- CNRD advances over completed entries, and a write of CNCTL that waits takes effect once no entry is open (R316). -/
def Partition.cnAdvance (p : Partition) : Partition :=
  let n := (p.cnTaken.takeWhile (fun o => o.done.isSome)).length
  let rest := p.cnTaken.drop n
  let settled := !rest.any (fun o => o.done.isNone)
  { p with
    cnTaken := rest, cnrd := (p.cnrd + n) % 2 ^ 32
    cnctl := if settled then p.cnPending.getD p.cnctl else p.cnctl
    cnPending := if settled then none else p.cnPending }
/-- An entry is over with a status. -/
def Partition.cnDone (q : Partition) (o : CinovOp) (st : Nat) : Partition :=
  Partition.cnAdvance { q with
    cnTaken := q.cnTaken.map (fun x => if x.index = o.index then { x with done := some st } else x)
    retrans := if st = 1 then q.retrans else keyDel q.retrans o.peer }
/-- CINOV_COMPLETE (R431): the oldest open entry completes with the peer's status and data; nothing happens while a home that it
needs is busy. -/
def execCinovComplete (part status : Nat) (data : List (BitVec 8)) (s : State) : Host.Outcome State Fault Refusal :=
  match (s.part part).cnTaken.find? (fun o => o.done.isNone) with
  | none => .next s
  | some o =>
    match s.cinovOutcome part o status data with
    | none => .next s
    | some (st, t) =>
      match t.cinovReport part o st with
      | none => .next s
      | some t => .next (t.modPart part (fun q => q.cnDone o st))
/-- CINOV_RETRANSMIT (R430): the 64th unacknowledged retransmission loses the connection. -/
def execCinovRetransmit (part peer : Nat) (s : State) : Host.Outcome State Fault Refusal :=
  .next (s.modPart part (fun q =>
    let n := keyGet 0 q.retrans peer + 1
    if q.lostPeers.contains peer then q
    else if 64 ≤ n then { q with retrans := keyDel q.retrans peer, lostPeers := q.lostPeers ++ [peer] }
    else { q with retrans := keySet q.retrans peer n }))

/-! ### What a peer asks of this module (R315, R430, R431) -/

/-- A packet's reply: to which partition, port, peer and sequence number. -/
structure Answer where
  part : Nat
  port : Nat
  peer : Nat
  seq : Nat
  deriving DecidableEq, Repr
/-- The packet is accepted, and a reply goes back; a remote fault also sends a record to the partition (R431). -/
def State.cinovAnswer (s : State) (a : Answer) (status : Nat) (data : List Byte) : State :=
  let s := if status = 0 then s else s.record (unitRecord 2 7 0xFF a.port (some a.part))
  State.modPart { s with outputs := s.outputs ++ [.cinovReply a.part a.peer a.seq status data] } a.part
    (fun q => { q with conns := keySet q.conns a.peer ((q.conn a.peer).1, (a.seq + 1) % 2 ^ 32) })
/-- A message that a peer sends (R315). Its source name is not stated: a free value. -/
def State.cinovMessage (s : State) (a : Answer) (name cls : Nat) (data : List Byte) : State :=
  match coreOf name with
  | none => s.cinovAnswer a 2 []
  | some k =>
    if s.partOf k ≠ some a.part ∨ 64 < data.length ∨ 16 ≤ cls then s.cinovAnswer a 2 []
    else
      let (n, s) := s.fresh
      let words := (List.range ((data.length + 7) / 8)).map (fun i => BitVec.ofNat 64 (blockNat data (8 * i) 8))
      let m := mkMsg (moduleSource + 1 + Config.dies + a.port) ((Config.freeWord n).toNat % 2 ^ 32) name cls words none a.part
      (s.push m).cinovAnswer a 0 []
/-- An operation of a peer is carried out; one whose home is busy is not accepted yet, and comes again. -/
def State.cinovServe (s : State) (a : Answer) (op : CinovReq) : State :=
  match op with
  | .put part asid addr data =>
    if part ≠ a.part then s else match s.asidWrite part asid addr data with
      | .error .waits => s
      | .error .fails => s.cinovAnswer a 2 []
      | .ok t => t.cinovAnswer a 0 []
  | .get part asid addr len =>
    if part ≠ a.part then s else match s.asidRead part asid addr len with
      | .error .waits => s
      | .error .fails => s.cinovAnswer a 2 []
      | .ok (b, t) => t.cinovAnswer a 0 b
  | .msg name cls data => s.cinovMessage a name cls data
/-- The connection of a packet is open: its peer entry is enabled, its port carries it, and it is not lost (R317, R430). -/
def Partition.open' (p : Partition) (port peer : Nat) : Bool :=
  let e := tableEntry p.peers peer
  decide (blockNat e 21 1 % 2 = 1 ∧ blockNat e 20 1 = port) && !p.lostPeers.contains peer
/-- A packet is taken if its number is the next of its connection; one that was taken before is acknowledged again, and one that
comes early is dropped, so each is served once and in order (R314). -/
def State.cinovAccept (s : State) (port : Nat) (x : CinovIn) : State :=
  match s.parts.find? (fun e => e.2.live && e.2.ethPorts.contains port) with
  | none => s
  | some (p, q) =>
    let next := (q.conn x.peer).2
    if !q.open' port x.peer ∨ 2 ^ 32 ≤ x.seq then s
    else if x.seq = next then s.cinovServe ⟨p, port, x.peer, x.seq⟩ x.op
    else if (next + 2 ^ 32 - x.seq) % 2 ^ 32 < 2 ^ 31 then { s with outputs := s.outputs ++ [.cinovReply p x.peer x.seq 0 []] }
    else s
/-- ETHERNET_FRAME_RX (R430): a bad FCS drops the frame. -/
def execEthernetFrameRx (port : Nat) (fcsOk : Bool) (op : CinovIn) (s : State) : Host.Outcome State Fault Refusal :=
  .next (if fcsOk then s.cinovAccept port op else s)
/-- Connections of a port move to another port of the partition, or are lost with its last (R430). -/
def Partition.movePort (p : Partition) (port : Nat) : Partition :=
  let left := p.ethPorts.filter (· ≠ port)
  let on := fun (e : Nat × List Byte) => decide (blockNat e.2 20 1 = port)
  match left with
  | [] => { p with ethPorts := [], lostPeers := p.lostPeers ++ ((p.peers.filter on).map (·.1)).filter (fun i => !p.lostPeers.contains i) }
  | n :: _ => { p with ethPorts := left, peers := p.peers.map (fun e => if on e then (e.1, e.2.set 20 (BitVec.ofNat 8 n)) else e) }
/-- ETHERNET_PORT_FAIL (R430). -/
def execEthernetPortFail (port : Nat) (s : State) : Host.Outcome State Fault Refusal :=
  .next { s with parts := s.parts.map (fun e => if e.2.ethPorts.contains port then (e.1, e.2.movePort port) else e) }

/-! ### CXL (R134, R309, R432, R433) -/

/-- The device address of a host offset of a logical device (R309). -/
def State.hdmAddr (s : State) (p off : Nat) : Option Nat :=
  ((orderBy (fun (a b : Nat) => decide (a < b)) (s.part p).hbms)[off / Config.stackBytes]?).map (fun n =>
    n * Config.stackBytes + off % Config.stackBytes)
/-- A line of a range is granted to an engine (R126). -/
def State.granted (s : State) (a n : Nat) : Bool :=
  s.tiles.any (fun e => e.2.xfers.any (fun x => x.grants.any (fun l => meets (64 * l.1) 64 a n)))
/-- HOST_MEM_STORE (R134): within one stack; it waits for an engine that owns the line (R126). -/
def execHostMemStore (part offset : Nat) (data : List (BitVec 8)) (s : State) : Host.Outcome State Fault Refusal :=
  match s.hdmAddr part offset with
  | none => .next s
  | some a =>
    .next (if Config.stackBytes < offset % Config.stackBytes + data.length ∨ s.granted a data.length then s
      else s.writeKey a data false)
/-- A host may hold the lines of a range from now on. -/
def State.hostHolds (s : State) (p a n : Nat) : State :=
  { s with snoops := s.snoops ++ ((lineStarts a n).filter (fun l => !s.snoops.any (fun x => decide (x.1 = l)))).map (fun l => (l, p)) }
/-- HOST_MEM_READ (R309, R433): no data and an AER signal when the range is uncorrectable; it waits for an engine that owns the
line (R126) and for bytes that the master holds pending (R130). -/
def execHostMemRead (part offset len : Nat) (s : State) : Host.Outcome State Fault Refusal :=
  match s.hdmAddr part offset with
  | none => .next s
  | some a =>
    if Config.stackBytes < offset % Config.stackBytes + len ∨ s.granted a len ∨
        s.rwrites.any (fun w => meets a len w.key w.data.length && w.acks.contains 56) then .next s
    else if s.isBad a len then
      .next (State.record { s with outputs := s.outputs ++ [.hostData none, .aer part] } (unitRecord 2 7 (s.arrayAt a len) a (some part)))
    else .next (State.hostHolds { s with outputs := s.outputs ++ [.hostData (some (s.readAt a len))] } part a len)
/-- A snoop is answered: the host gives the line up, and with data the home takes the host's value. -/
def State.answerSnoop (s : State) (i : Nat) (l : Nat × Nat) (data : Option (List Byte)) : State :=
  let s := { s with snoops := s.snoops.eraseIdx i, outputs := s.outputs ++ [.snoop l.1] }
  match data with
  | none => s
  | some b => if b.length = 64 then s.writeKey l.1 b false else s
/-- BACK_INVALIDATE_RESPONSE (R309). -/
def execBackInvalidateResponse (index : Nat) (data : Option (List (BitVec 8))) (s : State) : Host.Outcome State Fault Refusal :=
  match s.snoops[index]? with
  | none => .next s
  | some l => .next (s.answerSnoop index l data)
/-- SNOOP_TIMEOUT (R432): answered without data. -/
def execSnoopTimeout (index : Nat) (s : State) : Host.Outcome State Fault Refusal :=
  match s.snoops[index]? with
  | none => .next s
  | some l => .next ((s.answerSnoop index l none).record (unitRecord 0 7 0xFF l.1 (some l.2)))
/-- An enabled host window holds a device address. -/
def State.hostMapped (s : State) (pa : Nat) : Bool :=
  isHost pa && s.parts.any (fun e => e.2.live && frameOk s e.1 pa)
/-- The host has taken a line of host memory back. -/
def State.hostGiveBack (s : State) (a : Nat) : State := { s with hostOwned := s.hostOwned.filter (· ≠ a / 64) }
/-- CXL_CACHE_RESPONSE (R134, R433): the host grants ownership of a line, or gives the line as it holds it, which it may have
changed; a poisoned line is uncorrectable to its consumer. -/
def execCxlCacheResponse (pa : Nat) (data : Option (List (BitVec 8))) (poisoned : Bool) (s : State) :
    Host.Outcome State Fault Refusal :=
  let a := pa / 64 * 64
  if !s.hostMapped a then .next s
  else
    let s := match data with
      | none => s.hostTake a 64
      | some b => if b.length = 64 then (s.writeKey a b false).hostGiveBack a else s
    .next (if poisoned then
      { s with bad := s.bad ++ ((List.range 8).map (fun i => a / 8 + i)).filter (fun w => !s.bad.contains w) } else s)
/-- CXL_LINK_DOWN (R432). -/
def execCxlLinkDown (port : Nat) (s : State) : Host.Outcome State Fault Refusal := .next (if port < 8 then s.portDown port else s)

end Sys2Proof.Machine
end

