-- ==== Sys2Proof/Machine/Boot.lean ====
section
/-! DEFINITION. Boot, module reset and recovery (R190, R318, R319, R414, R434, R435), partitions (R29, R320) and the management
commands (R317, R321, R409). -/

namespace Sys2Proof.Machine

/-! ### Partitions (R320) -/

/-- Two lists share no member. -/
def disjoint (a b : List Nat) : Bool := a.all (fun x => !b.contains x)
/-- A host window as set-up words leave it: the bits that are not RW stay 0 (R310). -/
def HostWin.masked (b n h c : Nat) : HostWin :=
  ⟨maskTo (BitVec.ofNat 64 b) 0xFFFFFC0000000, maskTo (BitVec.ofNat 64 n) 0xFFFF, maskTo (BitVec.ofNat 64 h) 0xFFFFFFFFC0000000,
    maskTo (BitVec.ofNat 64 c) 0xF⟩
/-- The host windows of a partition after a set-up: number, base, length, host address and control of those that it writes. -/
def PartitionWindows (old : Vector HostWin 8) (l : List (Nat × Nat × Nat × Nat × Nat)) : Vector HostWin 8 :=
  Vector.ofFn (fun (i : Fin 8) => match l.find? (fun w => decide (w.1 = i.val)) with
    | none => old[i]
    | some (_, b, n, h, c) => HostWin.masked b n h c)
/-- The device addresses of the enabled windows: first address and length (R310). -/
def windowRanges (l : List HostWin) : List (Nat × Nat) :=
  (l.filter (fun w => decide (w.ctl.toNat % 2 = 1))).map (fun w => (w.base.toNat, w.len.toNat * 2 ^ 30))
/-- Ranges lie in host memory, are not empty, and do not meet each other or those of others (R310). -/
def rangesFit : List (Nat × Nat) → List (Nat × Nat) → Bool
  | [], _ => true
  | r :: l, others =>
    decide (0 < r.2 ∧ Config.hostBase ≤ r.1 ∧ r.1 + r.2 ≤ Config.scratchKey) && (l ++ others).all (fun q => !meets r.1 r.2 q.1 q.2) &&
      rangesFit l others
/-- A set-up names resources of the module that no other partition holds. -/
def State.partFits (s : State) (x : PartSetup) : Bool :=
  x.asids.all (fun a => decide (a.1 < 2 ^ 14)) &&
    rangesFit (windowRanges (PartitionWindows (s.part x.number).windows x.windows).toList)
      ((s.parts.filter (fun e => decide (e.1 ≠ x.number) && e.2.live)).flatMap (fun e => windowRanges e.2.windows.toList)) &&
  x.dies.all (fun d => decide (d < Config.dies)) && x.hbms.all (fun h => decide (h < Config.stacks')) &&
    x.ethPorts.all (fun e => decide (e < 64)) && !x.dies.isEmpty &&
    s.parts.all (fun e => decide (e.1 = x.number) || !e.2.live ||
      (disjoint x.dies e.2.dies && disjoint x.hbms e.2.hbms && disjoint x.ethPorts e.2.ethPorts))
/-- A partition holds a running or saved grid, which forbids changing it. -/
def State.partBusy (s : State) (p : Nat) : Bool := s.grids.any (fun g => decide (g.2.part = p ∧ g.2.phase ≠ .severed))
/-- Writes an entry of the ASID table (R110): V, the level-1 table and the partition. -/
def State.writeAsid (s : State) (asid table p : Nat) : State :=
  s.writeNat (s.asidtab.toNat + 8 * asid) 8 (1 + bf table 17 35 * 2 ^ 17 + p % 16 * 2 ^ 60)
/-- A partition is set up (R320): its resources, ASID table entries, host windows, and SVC of each of its cores; the block's other
registers hold the last value written (R5). -/
def State.setUp (s : State) (x : PartSetup) : State :=
  let s := x.asids.foldl (fun (s : State) a => s.writeAsid a.1 a.2 x.number) s
  let s := s.modPart x.number (fun q => { q with
    live := true, dies := x.dies, hbms := x.hbms, ethPorts := x.ethPorts, asids := x.asids.map (·.1), svc := x.svc
    windows := PartitionWindows q.windows x.windows, carriers := [], routes := [] })
  (x.dies.flatMap (fun d => (List.range 128).map (· + 128 * d))).foldl (fun (s : State) k => s.modTile k (fun t => { t with svc := x.svc })) s
/-- A partition is removed: its ASID table entries become 0 and it holds nothing; its block keeps the last values written (R5). -/
def State.tearDown (s : State) (p : Nat) : State :=
  let s := (s.part p).asids.foldl (fun (s : State) a => s.writeNat (s.asidtab.toNat + 8 * a) 8 0) s
  let s := s.modPart p (fun q => { q with
    live := false, dies := [], hbms := [], ethPorts := [], asids := [], carriers := [], routes := [] })
  { s with severances := s.severances.filter (fun x => decide (x.part ≠ p)) }
/-- Management refuses a command: before boot has ended, and after both module controllers are lost. -/
def State.refuseCommand (s : State) : State := { s with outputs := s.outputs ++ [.refusedCommand] }
/-- Management answers commands other than CENSUS and FIRMWARE (R434, R418). -/
def State.manages (s : State) : Bool := decide (s.boot = .running) && !s.ctlLost
/-- PARTITION (R320, R321); the set-up is stored for later boots. -/
def execPartition (setup : PartSetup) (s : State) : Host.Outcome State Fault Refusal :=
  let stored := s.policy.filter (fun x => decide (x.number ≠ setup.number))
  if !s.manages ∨ 16 ≤ setup.number ∨ s.partBusy setup.number then .next s.refuseCommand
  else if setup.remove then .next { s.tearDown setup.number with policy := stored }
  else if s.partFits setup then .next { s.setUp setup with policy := stored ++ [setup] }
  else .next s.refuseCommand

/-! ### POLICY, CENSUS and FIRMWARE (R317, R321, R409, R434) -/

/-- POLICY reaches die blocks and the module controller's block, by name or by address. -/
def managed : MReg → Bool
  | .zpool _ => true
  | .znotice _ => true
  | .zlend _ => true
  | .zstat _ => true
  | .ovf _ => true
  | .tripctl _ => true
  | .tripstat _ => true
  | .linkstat _ _ => true
  | .asidtab => true
  | .jperiod => true
  | .preempten => true
  | .space pa _ => (blockOf pa).isNone
  | _ => false
/-- Grids with a task on a die. -/
def State.gridsOn (s : State) (d : Nat) : List Nat :=
  (s.grids.filter (fun g => (s.coresOf g.1).any (onDie d))).map (·.1)
/-- A die is reset by firmware (R409, R412): its grids end ABORTED with an EXITVAL that is not stated, a free value, and its
zone and meter work again. -/
def State.resetDie (s : State) (d : Nat) : State :=
  let (n, s) := s.fresh
  let s := (s.gridsOn d).foldl (fun (s : State) g => s.abortGrid g (Config.freeWord n)) s
  s.modDie d (fun x => { x with frozen := false, rebuilds := 0, meterFaulty := false, badIntervals := 0 })
/-- POLICY (R317, R321, R409, R308); a peer entry that is written opens its connection anew (R431). -/
def execPolicy (cmd : PolicyCmd) (s : State) : Host.Outcome State Fault Refusal :=
  if !s.manages then .next s.refuseCommand
  else
    match cmd with
    | .read r => .next (if managed r then { s with outputs := s.outputs ++ [.register (s.regRead r)] } else s.refuseCommand)
    | .write r v => .next (if managed r then s.regWrite r v else s.refuseCommand)
    | .peer p i b =>
      .next (if (s.part p).live ∧ i < 256 ∧ b.length = 32 then s.modPart p (fun q => { q with
        peers := keySet q.peers i b, lostPeers := q.lostPeers.filter (· ≠ i), retrans := keyDel q.retrans i, conns := keyDel q.conns i })
        else s.refuseCommand)
    | .group p i b =>
      .next (if (s.part p).live ∧ i < 64 ∧ b.length = 64 then s.modPart p (fun q => { q with groups := keySet q.groups i b })
             else s.refuseCommand)
    | .resetDie d => .next (if d < Config.dies then s.resetDie d else s.refuseCommand)
    | .attach port p =>
      .next (if 8 ≤ port then s.refuseCommand else match p with
        | none => { s with attached := keyDel s.attached port }
        | some p => { s with attached := keySet s.attached port p })
/-- CENSUS and FIRMWARE are answered in recovery too (R434). -/
def State.answers (s : State) : Bool := (decide (s.boot = .running) || decide (s.boot = .recovery)) && !s.ctlLost
/-- CENSUS (R321): the vacant names, the remap and GEN. -/
def execCensus (s : State) : Host.Outcome State Fault Refusal :=
  .next (if s.answers then { s with outputs := s.outputs ++ [.census s.vacant s.remap s.gen] } else s.refuseCommand)
/-- FIRMWARE (R321, R434): a signed image goes into the inactive slot, and the event is journaled (R417). -/
def execFirmware (image : Nat) (signed : Bool) (s : State) : Host.Outcome State Fault Refusal :=
  if !s.answers ∨ !signed then .next s.refuseCommand
  else
    let slot := 1 - s.activeImage
    .next (State.eventReading { s with
      images := if slot = 0 then (image, s.images.2) else (s.images.1, image), staged := some slot } 3)

/-! ### Boot (R318, R319, R434, R435) -/

/-- An image slot verifies (R319 step 1). -/
def slotOk (b : BootData) (n : Nat) : Bool := if n = 0 then b.imageOk.1 else b.imageOk.2
/-- The slot that boots: the staged or active one, or the other when it fails or has failed three boots (R434). -/
def State.bootSlot (s : State) (b : BootData) : Option Nat :=
  let first := s.staged.getD s.activeImage
  let worn := s.staged.isNone && decide (3 ≤ s.failedBoots)
  if slotOk b first && !worn then some first
  else if slotOk b (1 - first) then some (1 - first)
  else none
/-- A module mask that boot found for an edge. -/
def maskFor (l : List (Nat × Nat × Nat)) (d k : Nat) : Nat :=
  match l.find? (fun x => decide (x.1 = d ∧ x.2.1 = k)) with
  | none => 0
  | some x => x.2.2
/-- A mask of an edge's modules, as the lower of its two dies gives it (R18). -/
def edgeMask (l : List (Nat × Nat × Nat)) (d k e : Nat) : Nat :=
  (if d ≤ e then maskFor l d k else maskFor l e (opposite k)) % 2 ^ modulesOf d k
/-- A link as lane repair leaves it (R318, R420): up, or failed without a working module. -/
def bootLink (b : BootData) (d k : Nat) : Link :=
  match edgeTo d k with
  | none => Link.reset
  | some e =>
    let up := edgeMask b.linksUp d k e
    { Link.reset with up := up, degraded := edgeMask b.degraded d k e &&& up, state := if up = 0 then 3 else 1 }
/-- Step 2: every edge of every die. -/
def State.bootLinks (s : State) (b : BootData) : State :=
  (List.range 72).foldl (fun (s : State) d => s.modDie d (fun x => { x with links := Vector.ofFn (fun (k : Fin 4) => bootLink b d k.val) })) s
/-- Stacks that boot does not find: those that fail their test and those of a rim die whose link is lost (R435). -/
def State.absentStack (s : State) (b : BootData) (h : Nat) : Bool := b.absentStacks.contains h || s.isolated (stackDie h)
/-- The entries of both tables that boot publishes: one for every die, and one for every direction. -/
def State.bootEntries (s : State) (b : BootData) : List TimeEntry × List FretEntry :=
  ((List.range 72).map (fun d => s.entryOf b.times d ((s.die d).clock - (s.die d).slow) (s.free + d)),
   (List.range 72).flatMap (fun d => edgeBands b.bands d (s.free + 72 + 16 * d)))
/-- Steps 4 to 7: the census, the remap, GEN, the tables and the zones' pools. -/
def State.bootTables (s : State) (b : BootData) : State :=
  let s := { s with
    vacant := b.vacant ++ s.retired.filter (fun k => !b.vacant.contains k)
    remap := b.remap, gen := if b.genReadable then s.gen else nextGen s.gen }
  let s := (List.range 72).foldl (fun (s : State) d => s.modDie d (fun x => { x with time := 0 })) s
  let l := s.bootEntries b
  let s := (State.publishTimes { s with free := s.free + 1224 } l.1).publishBands l.2
  (List.range Config.dies).foldl (fun (s : State) d => s.modDie d (fun x => { x with pool := 180, notice := 512 })) s
/-- Step 8: the partitions of the stored policy whose stacks and ports are there (R435). -/
def State.bootPartitions (s : State) (b : BootData) : State :=
  s.policy.foldl (fun (s : State) x =>
    if s.partFits x && x.hbms.all (fun h => !s.absentStack b h) && x.ethPorts.all (fun e => !s.isolated (Config.dies + e / 4)) then s.setUp x
    else s) s
/-- A staged image that boots is activated, which is journaled (R417). -/
def State.activate (s : State) (slot : Nat) : State :=
  let t := { s with activeImage := slot, staged := none, failedBoots := if slot = s.activeImage then s.failedBoots else 0 }
  if s.staged = some slot then t.eventReading 3 else t
/-- POWER_GOOD (R319): boot runs to its end, stops before it, or finds no image and enters recovery. -/
def execPowerGood (boot : BootData) (s : State) : Host.Outcome State Fault Refusal :=
  if s.boot ≠ .off then .next s
  else
    match s.bootSlot boot with
    | none => .next { s with boot := .recovery }
    | some slot =>
      let s := s.activate slot
      if boot.reachesEnd then
        let s := ((s.bootLinks boot).bootTables boot).bootPartitions boot
        .next { s with boot := .running, failedBoots := 0 }
      else .next { s with boot := .booting, failedBoots := s.failedBoots + 1 }
/-- BOOT_TIMEOUT (R435): a boot that has not ended is abandoned. -/
def execBootTimeout (s : State) : Host.Outcome State Fault Refusal := .next (if s.boot = .booting then { s with boot := .recovery } else s)
/-- A port presents a logical device: any through a switch, the one that firmware names on a directly attached port (R308). -/
def State.presents (s : State) (port p : Nat) : Bool :=
  match keyFind s.attached port with
  | none => true
  | some q => decide (q = p)
/-- The answer to a host's request on CXL.io (R319, R434, R311): retry status until boot has ended, and in recovery; then a read of
BAR0 of a logical device, if it names one. -/
def State.configAnswer (s : State) (r : ConfigRequest) : Output :=
  if s.boot ≠ .running then .configRetry
  else match r.bar with
    | none => .configOk
    | some (p, o, n) => .register (if s.presents r.port p then s.regRead (.bar0 p o n) else 0)
/-- CXL_CONFIG_REQUEST (R319, R434, R308, R311). -/
def execCxlConfigRequest (request : ConfigRequest) (s : State) : Host.Outcome State Fault Refusal :=
  .next { s with outputs := s.outputs ++ [s.configAnswer request] }

/-! ### Module reset (R190, R414) -/

/-- The accounts that have readings (R188). -/
def hasReadings (a : Account) : Bool :=
  match a with
  | .job _ _ => true
  | .own _ => true
  | _ => false
/-- Some delta is not yet journaled and signed (R190). -/
def State.unsignedDeltas (s : State) : Bool :=
  s.journal.any (fun r => r.signature.isNone) || s.accounts.any (fun a => hasReadings a.1 && decide (a.2.mj ≠ a.2.cumul))
/-- RESET is set in an unsigned reading (R414). -/
def Reading.spansReset (r : Reading) : Reading :=
  if r.signature.isSome then r
  else
    let flags := blockNat r.body 2 2
    { r with body := r.body.take 2 ++ leBytes 2 (flags - bf flags 2 1 * 4 + 4) ++ r.body.drop 4 }
/-- The module after a reset: what the always-on domain and the non-volatile store hold stays (R190, R416, R434). -/
def State.afterReset (s : State) : State :=
  let s := s.tiles.foldl (fun (s : State) e => s.takeEvents e.1) s
  { State.reset with
    dies := s.dies.map (fun e => (e.1, { Die.reset with metered := e.2.metered, counts := e.2.counts }))
    readCert := s.readCert, journalAt := s.journalAt
    inputs := s.inputs, cur := s.cur, free := s.free, refCount := s.refCount, gen := s.gen, retired := s.retired, fused := s.fused
    accounts := s.accounts.map (fun a => (a.1, { a.2 with reset := true }))
    journal := s.journal.map Reading.spansReset
    seqNo := s.seqNo, resets := s.resets + 1, ackSeq := s.ackSeq, readKey := s.readKey, coeffs := s.coeffs, errlog := s.errlog
    policy := s.policy, activeImage := s.activeImage, images := s.images, failedBoots := s.failedBoots, staged := s.staged
    outputs := s.outputs }
/-- MODULE_RESET (R190, R414): held off while deltas are unsigned, for at most 10 s; `waited` is in seconds. -/
def execModuleReset (waited : Nat) (s : State) : Host.Outcome State Fault Refusal :=
  .next (if s.unsignedDeltas && decide (waited < 10) then s else s.afterReset)

end Sys2Proof.Machine
end

