-- ==== Sys2Proof/Machine/Capability.lean ====
section
/-! DEFINITION. Comparison, selection and predicate logic (R218), and the capability instructions (R219 to R221). -/

namespace Sys2Proof.Machine

/-! ### Predicates (R218) -/

/-- All ones or zero. -/
def allOrNone (b : Bool) : Word := if b then BitVec.allOnes 64 else 0
/-- CMP: pd takes all ones if the condition holds, else 0. -/
def compare (minor : Nat) (sw : Bool) (p : Fin 8) (a b : Fin 64) (f : Word → Word → Bool) (s : State) :
    Host.Outcome State Fault Refusal :=
  issue (metaI 0x05 minor 4 sw [wr a, wr b] [pr p]) (do
    let x ← readX a
    let y ← readX b
    writeP p (allOrNone (f x y))
    seqFlow) s
/-- Predicate logic over 64 bits. -/
def predOp (minor : Nat) (sw : Bool) (d a b : Fin 8) (f : Word → Word → Word) (s : State) : Host.Outcome State Fault Refusal :=
  issue (metaI 0x07 minor 4 sw [pr a, pr b] [pr d]) (do
    let x ← readP a
    let y ← readP b
    writeP d (f x y)
    seqFlow) s

/-- CMP.EQ (R218). -/
def execCmpEq (p : Fin 8) (a b : Fin 64) (sw : Bool) (s : State) : Host.Outcome State Fault Refusal :=
  compare 0 sw p a b (fun x y => x == y) s
/-- CMP.NE (R218). -/
def execCmpNe (p : Fin 8) (a b : Fin 64) (sw : Bool) (s : State) : Host.Outcome State Fault Refusal :=
  compare 1 sw p a b (fun x y => x != y) s
/-- CMP.LT (R218). -/
def execCmpLt (p : Fin 8) (a b : Fin 64) (sw : Bool) (s : State) : Host.Outcome State Fault Refusal :=
  compare 2 sw p a b (fun x y => x.slt y) s
/-- CMP.GE (R218). -/
def execCmpGe (p : Fin 8) (a b : Fin 64) (sw : Bool) (s : State) : Host.Outcome State Fault Refusal :=
  compare 3 sw p a b (fun x y => !x.slt y) s
/-- CMP.LTU (R218). -/
def execCmpLtu (p : Fin 8) (a b : Fin 64) (sw : Bool) (s : State) : Host.Outcome State Fault Refusal :=
  compare 4 sw p a b (fun x y => x.ult y) s
/-- CMP.GEU (R218). -/
def execCmpGeu (p : Fin 8) (a b : Fin 64) (sw : Bool) (s : State) : Host.Outcome State Fault Refusal :=
  compare 5 sw p a b (fun x y => !x.ult y) s
/-- SEL (R218): a or b by bit 0 of the predicate, as plain data. -/
def execSel (d a b : Fin 64) (k : Fin 8) (sw : Bool) (s : State) : Host.Outcome State Fault Refusal :=
  issue (metaI 0x06 0 4 sw [wr a, wr b, pr k] [wr d]) (do
    let x ← readX a
    let y ← readX b
    let p ← readP k
    writeX d (if p.getLsbD 0 then x else y)
    seqFlow) s
/-- PAND (R218). -/
def execPand (d a b : Fin 8) (sw : Bool) (s : State) : Host.Outcome State Fault Refusal :=
  predOp 0 sw d a b (fun x y => x &&& y) s
/-- POR (R218). -/
def execPor (d a b : Fin 8) (sw : Bool) (s : State) : Host.Outcome State Fault Refusal :=
  predOp 1 sw d a b (fun x y => x ||| y) s
/-- PXOR (R218). -/
def execPxor (d a b : Fin 8) (sw : Bool) (s : State) : Host.Outcome State Fault Refusal :=
  predOp 2 sw d a b (fun x y => x ^^^ y) s
/-- PNOT (R218). -/
def execPnot (d a : Fin 8) (sw : Bool) (s : State) : Host.Outcome State Fault Refusal :=
  predOp 3 sw d a a (fun x _ => ~~~x) s

/-! ### Capabilities (R219 to R221) -/

/-- An instruction of major 0x08 with two operands: its result with its tag. -/
def capOp (fn : Nat) (sw : Bool) (d a b : Fin 64) (f : Reg → Reg → Reg) (s : State) : Host.Outcome State Fault Refusal :=
  issue (metaI 0x08 fn 4 sw [wr a, wr b] [wr d]) (do
    let x ← readW a
    let y ← readW b
    writeW d (f x y)
    seqFlow) s
/-- An instruction of major 0x08 with one operand. -/
def capOp1 (fn : Nat) (sw : Bool) (d a : Fin 64) (f : Reg → Reg) (s : State) : Host.Outcome State Fault Refusal :=
  issue (metaI 0x08 fn 4 sw [wr a] [wr d]) (do
    let x ← readW a
    writeW d (f x)
    seqFlow) s

/-- Unsealed. -/
def Reg.isOpen (c : Reg) : Bool := decide (c.otype = 0)
/-- A natural number rounded up to a multiple of 2^e. -/
def ceilTo (e n : Nat) : Nat := (n + 2 ^ e - 1) / 2 ^ e * 2 ^ e
/-- The exponent that CSETB leaves its loop with, from `e` on (R220). -/
def setbExp (lo hi : Nat) : Nat → Nat → Nat
  | 0, e => e
  | fuel + 1, e =>
    if ceilTo e hi - lo / 2 ^ e * 2 ^ e ≤ 2 ^ (e + 16) ∨ e = 48 then e else setbExp lo hi fuel (e + 1)
/-- CSETB (R220). -/
def capSetb (ca : Reg) (len : Nat) : Reg :=
  let lo := ca.addr
  let hi := lo + len
  let e := setbExp lo hi 48 0
  let lo' := lo / 2 ^ e * 2 ^ e
  let hi' := ceilTo e hi
  let (base, top) := capBounds ca
  Reg.mk' (ca.tag && Reg.isOpen ca && decide (base ≤ lo' ∧ (hi' : Int) ≤ top ∧ hi' ≤ 2 ^ 64))
    (hi' / 2 ^ e) (lo' / 2 ^ e) e ca.otype ca.perms lo
/-- The capability with other OTYPE and PERMS and tag. -/
def capWith (c : Reg) (tag : Bool) (otype perms : Nat) : Reg := Reg.mk' tag c.t c.b c.e otype perms c.addr
/-- ct is a usable authority with a permission: tagged, unsealed, within its bounds (R219). -/
def capAuthority (ct : Reg) (perm : Nat) : Bool :=
  ct.tag && Reg.isOpen ct && ct.has perm && decide ((capBounds ct).1 ≤ (ct.addr : Int) ∧ (ct.addr : Int) < (capBounds ct).2)
/-- CSEAL (R219). -/
def capSeal (ca ct : Reg) : Reg :=
  capWith ca (ca.tag && Reg.isOpen ca && capAuthority ct Perm.sealing && decide (1 ≤ ct.addr ∧ ct.addr ≤ 255))
    (ct.addr % 256) ca.perms
/-- CUNSEAL (R219). -/
def capUnseal (ca ct : Reg) : Reg :=
  capWith ca (ca.tag && !Reg.isOpen ca && capAuthority ct Perm.unsealing && decide (ct.addr = ca.otype)) 0
    (if ct.has Perm.global then ca.perms else ca.perms - (ca.perms &&& Perm.global))
/-- CTAG's word (R219). -/
def capTag (c : Reg) : Word := BitVec.ofNat 64 (bit c.tag + c.perms * 2 ^ 8 + c.otype * 2 ^ 24)
/-- CDERIVE's conditions (R221). -/
def capDerives (ca x : Reg) : Bool :=
  let (b, t) := capBounds ca
  let (b', t') := capBounds x
  ca.tag && Reg.isOpen ca && Reg.isOpen x && decide (x.perms / 2 ^ 12 = 0 ∧ x.e ≤ 48) && decide (b ≤ b' ∧ b' ≤ t' ∧ t' ≤ t) &&
    decide (x.perms &&& ca.perms = x.perms)

/-- CSETB (R220). -/
def execCsetb (d a b : Fin 64) (sw : Bool) (s : State) : Host.Outcome State Fault Refusal :=
  capOp 0 sw d a b (fun ca x => capSetb ca x.addr) s
/-- CGETB (R219). -/
def execCgetb (d a : Fin 64) (sw : Bool) (s : State) : Host.Outcome State Fault Refusal :=
  capOp1 1 sw d a (fun c => Reg.plain (wordOf (capBounds c).1)) s
/-- CGETL (R219): top − base, or 2^64 − 1 when that is 2^64. -/
def execCgetl (d a : Fin 64) (sw : Bool) (s : State) : Host.Outcome State Fault Refusal :=
  capOp1 2 sw d a (fun c =>
    let n := (capBounds c).2 - (capBounds c).1
    Reg.plain (if n = (2 ^ 64 : Nat) then BitVec.allOnes 64 else wordOf n)) s
/-- CANDP (R219). -/
def execCandp (d a b : Fin 64) (sw : Bool) (s : State) : Host.Outcome State Fault Refusal :=
  capOp 3 sw d a b (fun c x => capWith c (c.tag && Reg.isOpen c) c.otype (c.perms &&& x.addr % 2 ^ 16)) s
/-- CSEAL (R219). -/
def execCseal (d a b : Fin 64) (sw : Bool) (s : State) : Host.Outcome State Fault Refusal := capOp 4 sw d a b capSeal s
/-- CUNSEAL (R219). -/
def execCunseal (d a b : Fin 64) (sw : Bool) (s : State) : Host.Outcome State Fault Refusal := capOp 5 sw d a b capUnseal s
/-- CADD (R219). -/
def execCadd (d a b : Fin 64) (sw : Bool) (s : State) : Host.Outcome State Fault Refusal :=
  capOp 6 sw d a b (fun c x => capAdd c x.addr) s
/-- CTAG (R219). -/
def execCtag (d a : Fin 64) (sw : Bool) (s : State) : Host.Outcome State Fault Refusal := capOp1 7 sw d a (fun c => Reg.plain (capTag c)) s
/-- CCLR (R219): all 128 bits with tag 0. -/
def execCclr (d a : Fin 64) (sw : Bool) (s : State) : Host.Outcome State Fault Refusal :=
  capOp1 8 sw d a (fun c => Reg.mk false c.hi c.lo) s
/-- CEQ (R219). -/
def execCeq (d a b : Fin 64) (sw : Bool) (s : State) : Host.Outcome State Fault Refusal :=
  capOp 9 sw d a b (fun x y => Reg.plain (if x = y then 1 else 0)) s
/-- CDERIVE (R221). -/
def execCderive (d a b : Fin 64) (sw : Bool) (s : State) : Host.Outcome State Fault Refusal :=
  capOp 10 sw d a b (fun ca x => Reg.mk (capDerives ca x) x.hi x.lo) s

end Sys2Proof.Machine
end

