-- ==== Sys2Proof/Machine/Control.lean ====
section
/-! DEFINITION. Control transfer, the return store, loops and WFE (R66, R67, R222 to R226, R373), with their compact
forms (R199). -/

namespace Sys2Proof.Machine

/-- A jump: the END rule of R373, then the target. -/
def jumpTo (c : Reg) : Op Flow := pure (.jump c)
/-- The pc capability moved by an offset (R222). -/
def branchTarget (off : Int) : Op Reg := do
  let t ← getT
  pure (capAdd t.pc off)
/-- The target checks of JR, CALLR and RET (R222, R373): tag, seal, EXEC, bit 0. -/
def checkTarget (reg src : Nat) (c : Reg) : Op Unit := do
  let d := reg + src * 2 ^ 16
  require c.tag (trap 0x08 .fetch c.addr d)
  require (decide (c.otype = 0)) (trap 0x09 .fetch c.addr d)
  require (c.has Perm.exec) (trap 0x0A .fetch c.addr d)
  require (decide (c.addr % 2 = 0)) (trap 0x0C .fetch c.addr d)
/-- Pushes the return capability of an instruction of `len` bytes, spilling the oldest entry of a full store (R67, R222,
R373). -/
def pushReturn (len : Nat) : Op Unit := do
  let t ← getT
  let c := capAdd t.pc len
  match t.rets with
  | [] => modT (fun t => { t with rets := [c] })
  | o :: rest =>
    if t.rets.length < 16 then modT (fun t => { t with rets := t.rets ++ [c] })
    else
      let a := addrAdd t.rspill.addr ((16 * t.rscnt : Nat) : Int)
      checkCap 0 2 t.rspill a 16 (Perm.store + Perm.storeCap) 16 .store
      require (!o.tag || o.has Perm.global || t.rspill.has Perm.storeLocal) (trap 0x0A .store a (2 * 2 ^ 16))
      engineFirst
      storeAt 0 2 a o.bytes .store false false o.tag 0
      modT (fun t => { t with rets := rest ++ [c], rscnt := (t.rscnt + 1) % 2 ^ 32 })
/-- Pops the newest return entry, filling from the spill when the store is empty (R67, R222, R373): the entry and SRC. -/
def popReturn : Op (Reg × Nat) := do
  let t ← getT
  match t.rets.getLast? with
  | some c =>
    modT (fun t => { t with rets := t.rets.dropLast })
    pure (c, 0)
  | none =>
    let a := addrAdd t.rspill.addr ((16 * (t.rscnt - 1) : Nat) : Int)
    checkCap 0 2 t.rspill a 16 (Perm.load + Perm.loadCap) 16 .load
    engineFirst
    let (b, g) ← loadAt 0 2 a 16 .load false 0
    modT (fun t => { t with rscnt := t.rscnt - 1 })
    pure (Reg.ofBytes g b, 2)

/-- B (R222): taken when ReadP(PK)[0] XOR NEG is 1. -/
def branchOp (len : Nat) (k : Fin 8) (neg : Bool) (off : Int) (sw : Bool) (s : State) : Host.Outcome State Fault Refusal :=
  issue { metaC 0x09 0 len sw [pr k] with diverges := true } (do
    endRule
    let p ← readP k
    if (p.getLsbD 0) != neg then do
      let c ← branchTarget (2 * off)
      jumpTo c
    else seqFlow) s
/-- JR (R222). -/
def jumpReg (len : Nat) (a : Fin 64) (sw : Bool) (s : State) : Host.Outcome State Fault Refusal :=
  issue { metaC 0x0C 0 len sw [wr a] with diverges := true } (do
    endRule
    let c ← readW a
    checkTarget a 0 c
    jumpTo c) s
/-- CALLR (R222). -/
def callReg (len : Nat) (a : Fin 64) (sw : Bool) (s : State) : Host.Outcome State Fault Refusal :=
  issue { metaC 0x0C 1 len sw [wr a] with diverges := true } (do
    endRule
    let c ← readW a
    checkTarget a 0 c
    pushReturn len
    jumpTo c) s
/-- RET (R222). -/
def returnOp (len : Nat) (sw : Bool) (s : State) : Host.Outcome State Fault Refusal :=
  issue { metaC 0x0C 2 len sw [] with diverges := true } (do
    let t ← getT
    require (!t.rets.isEmpty || decide (t.rscnt ≠ 0)) (trap 0x22 .none 0 0)
    endRule
    let (c, src) ← popReturn
    checkTarget 0 src c
    jumpTo c) s
/-- NOP (R222): it does not end its run. -/
def nopOp (len : Nat) (sw : Bool) (s : State) : Host.Outcome State Fault Refusal :=
  issue (metaI 0x0E 0 len sw [] []) seqFlow s

/-- B (R222). -/
def execB (k : Fin 8) (n : Bool) (off : BitVec 19) (sw : Bool) (s : State) : Host.Outcome State Fault Refusal :=
  branchOp 4 k n off.toInt sw s
/-- J (R222). -/
def execJ (off : BitVec 23) (sw : Bool) (s : State) : Host.Outcome State Fault Refusal :=
  issue (metaC 0x0A 0 4 sw []) (do
    endRule
    let c ← branchTarget (2 * off.toInt)
    jumpTo c) s
/-- CALL (R222). -/
def execCall (off : BitVec 23) (sw : Bool) (s : State) : Host.Outcome State Fault Refusal :=
  issue (metaC 0x0B 0 4 sw []) (do
    endRule
    pushReturn 4
    let c ← branchTarget (2 * off.toInt)
    jumpTo c) s
/-- JR (R222). -/
def execJr (a : Fin 64) (sw : Bool) (s : State) : Host.Outcome State Fault Refusal := jumpReg 4 a sw s
/-- CALLR (R222). -/
def execCallr (a : Fin 64) (sw : Bool) (s : State) : Host.Outcome State Fault Refusal := callReg 4 a sw s
/-- RET (R222). -/
def execRet (sw : Bool) (s : State) : Host.Outcome State Fault Refusal := returnOp 4 sw s
/-- NOP (R222). -/
def execNop (sw : Bool) (s : State) : Host.Outcome State Fault Refusal := nopOp 4 sw s
/-- LOOP (R224): END is the LOOP's address + 2 × IMM11; a count of 0 skips the body. -/
def execLoop (a : Fin 64) (imm : BitVec 11) (sw : Bool) (s : State) : Host.Outcome State Fault Refusal :=
  issue (metaI 0x0D 0 4 sw [wr a] []) (do
    let t ← getT
    require (decide (t.loops.length < 4)) (trap 0x20 .none 0 0)
    endRule
    let x ← readN a
    let c := x % 2 ^ 32
    let stop := t.pc.addr + 2 * imm.toNat
    if c = 0 then do
      let n ← parcelLength stop
      let pc ← branchTarget ((2 * imm.toNat + n : Nat) : Int)
      jumpTo pc
    else do
      modT (fun t => { t with loops := { start := t.pc.addr + 4, stop := stop, count := c } :: t.loops })
      seqFlow) s
/-- LBREAK (R226): pops the top level and continues after its END. -/
def execLbreak (sw : Bool) (s : State) : Host.Outcome State Fault Refusal :=
  issue (metaC 0x0E 3 4 sw []) (do
    let t ← getT
    match t.loops with
    | [] => trap 0x21 .none 0 0
    | l :: r => do
      endRule
      let n ← parcelLength l.stop
      modT (fun t => { t with loops := r })
      let pc ← branchTarget ((l.stop : Int) + n - t.pc.addr)
      jumpTo pc) s
/-- WFE (R223): does not wait with the wake flag set, which it clears, or with a class deliverable. -/
def execWfe (sw : Bool) (s : State) : Host.Outcome State Fault Refusal :=
  issue (metaC 0x0E 2 4 sw []) (do
    endRule
    let t ← getT
    if t.wake then do
      modT (fun t => { t with wake := false })
      seqFlow
    else if t.nextClass.isSome then seqFlow
    else waitFor .wfe) s

/-- Compact JR (R199). -/
def execCJr (a : Fin 16) (sw : Bool) (s : State) : Host.Outcome State Fault Refusal := jumpReg 2 (low a) sw s
/-- Compact CALLR (R199). -/
def execCCallr (a : Fin 16) (sw : Bool) (s : State) : Host.Outcome State Fault Refusal := callReg 2 (low a) sw s
/-- Compact RET (R199). -/
def execCRet (sw : Bool) (s : State) : Host.Outcome State Fault Refusal := returnOp 2 sw s
/-- Compact NOP (R199). -/
def execCNop (sw : Bool) (s : State) : Host.Outcome State Fault Refusal := nopOp 2 sw s
/-- Compact B: PK 0, NEG 0 (R199). -/
def execCB (off : BitVec 9) (sw : Bool) (s : State) : Host.Outcome State Fault Refusal :=
  branchOp 2 0 false off.toInt sw s

end Sys2Proof.Machine
end

