-- ==== Sys2Proof/Machine/Integer.lean ====
section
/-! DEFINITION. Integer arithmetic of majors 0x00 to 0x04 (R217): shared operations, then one meaning per instruction. -/

namespace Sys2Proof.Machine

/-- A three-register operation (R217): reads RS1, then RS2, and writes the result as plain data. -/
def alu (m : Meta) (d a b : Nat) (f : Word → Word → Word) (s : State) : Host.Outcome State Fault Refusal :=
  issue m (do
    let x ← readX a
    let y ← readX b
    writeX d (f x y)
    seqFlow) s
/-- A two-register operation. -/
def alu1 (m : Meta) (d a : Nat) (f : Word → Word) (s : State) : Host.Outcome State Fault Refusal :=
  issue m (do
    let x ← readX a
    writeX d (f x)
    seqFlow) s
/-- Format R of major 0x00: immediate class. -/
def metaAlu (fn len : Nat) (sw : Bool) (d a b : Fin 64) : Meta := metaI 0x00 fn len sw [wr a, wr b] [wr d]
/-- Format R of major 0x01: deferred class. -/
def metaMul (fn : Nat) (sw : Bool) (d a b : Fin 64) : Meta := metaD 0x01 fn sw [wr a, wr b] [wr d]

/-! ### Results (R217) -/

/-- Shift count b[5:0]. -/
def shamt (b : Word) : Nat := b.toNat % 64
/-- Shift left. -/
def aluShl (a b : Word) : Word := a <<< shamt b
/-- Logical shift right. -/
def aluShr (a b : Word) : Word := a >>> shamt b
/-- Arithmetic shift right. -/
def aluShra (a b : Word) : Word := a.sshiftRight (shamt b)
/-- Rotate right. -/
def aluRot (a b : Word) : Word := a.rotateRight (shamt b)
/-- Signed minimum. -/
def aluMin (a b : Word) : Word := if b.slt a then b else a
/-- Signed maximum. -/
def aluMax (a b : Word) : Word := if a.slt b then b else a
/-- Leading zero bits. -/
def aluClz (a : Word) : Word := if a.toNat = 0 then 64 else BitVec.ofNat 64 (63 - Nat.log2 a.toNat)
/-- One bits. -/
def aluPopc (a : Word) : Word := BitVec.ofNat 64 ((List.range 64).countP (fun i => a.getLsbD i))
/-- High half of the signed product. -/
def aluMulh (a b : Word) : Word := BitVec.ofInt 64 (a.toInt * b.toInt / (2 ^ 64 : Nat))
/-- High half of the unsigned product. -/
def aluMulhU (a b : Word) : Word := BitVec.ofNat 64 (a.toNat * b.toNat / 2 ^ 64)
/-- Signed division toward zero; all ones by zero. -/
def aluDiv (a b : Word) : Word := if b = 0 then BitVec.allOnes 64 else BitVec.ofInt 64 (a.toInt.tdiv b.toInt)
/-- Unsigned division; all ones by zero. -/
def aluDivU (a b : Word) : Word := if b = 0 then BitVec.allOnes 64 else BitVec.ofNat 64 (a.toNat / b.toNat)
/-- Signed remainder; a by zero. -/
def aluRem (a b : Word) : Word := if b = 0 then a else BitVec.ofInt 64 (a.toInt.tmod b.toInt)
/-- Unsigned remainder; a by zero. -/
def aluRemU (a b : Word) : Word := if b = 0 then a else BitVec.ofNat 64 (a.toNat % b.toNat)

/-! ### Meanings -/

/-- ADD (R217). -/
def execAdd (d a b : Fin 64) (sw : Bool) (s : State) : Host.Outcome State Fault Refusal :=
  alu (metaAlu 0 4 sw d a b) d a b (fun x y => x + y) s
/-- SUB (R217). -/
def execSub (d a b : Fin 64) (sw : Bool) (s : State) : Host.Outcome State Fault Refusal :=
  alu (metaAlu 1 4 sw d a b) d a b (fun x y => x - y) s
/-- AND (R217). -/
def execAnd (d a b : Fin 64) (sw : Bool) (s : State) : Host.Outcome State Fault Refusal :=
  alu (metaAlu 2 4 sw d a b) d a b (fun x y => x &&& y) s
/-- OR (R217). -/
def execOr (d a b : Fin 64) (sw : Bool) (s : State) : Host.Outcome State Fault Refusal :=
  alu (metaAlu 3 4 sw d a b) d a b (fun x y => x ||| y) s
/-- XOR (R217). -/
def execXor (d a b : Fin 64) (sw : Bool) (s : State) : Host.Outcome State Fault Refusal :=
  alu (metaAlu 4 4 sw d a b) d a b (fun x y => x ^^^ y) s
/-- ANDN (R217). -/
def execAndn (d a b : Fin 64) (sw : Bool) (s : State) : Host.Outcome State Fault Refusal :=
  alu (metaAlu 5 4 sw d a b) d a b (fun x y => x &&& ~~~y) s
/-- SHL (R217). -/
def execShl (d a b : Fin 64) (sw : Bool) (s : State) : Host.Outcome State Fault Refusal :=
  alu (metaAlu 6 4 sw d a b) d a b aluShl s
/-- SHR (R217). -/
def execShr (d a b : Fin 64) (sw : Bool) (s : State) : Host.Outcome State Fault Refusal :=
  alu (metaAlu 7 4 sw d a b) d a b aluShr s
/-- SHRA (R217). -/
def execShra (d a b : Fin 64) (sw : Bool) (s : State) : Host.Outcome State Fault Refusal :=
  alu (metaAlu 8 4 sw d a b) d a b aluShra s
/-- ROT (R217). -/
def execRot (d a b : Fin 64) (sw : Bool) (s : State) : Host.Outcome State Fault Refusal :=
  alu (metaAlu 9 4 sw d a b) d a b aluRot s
/-- MIN (R217). -/
def execMin (d a b : Fin 64) (sw : Bool) (s : State) : Host.Outcome State Fault Refusal :=
  alu (metaAlu 10 4 sw d a b) d a b aluMin s
/-- MAX (R217). -/
def execMax (d a b : Fin 64) (sw : Bool) (s : State) : Host.Outcome State Fault Refusal :=
  alu (metaAlu 11 4 sw d a b) d a b aluMax s
/-- CLZ (R217). -/
def execClz (d a : Fin 64) (sw : Bool) (s : State) : Host.Outcome State Fault Refusal :=
  alu1 (metaI 0x00 12 4 sw [wr a] [wr d]) d a aluClz s
/-- POPC (R217). -/
def execPopc (d a : Fin 64) (sw : Bool) (s : State) : Host.Outcome State Fault Refusal :=
  alu1 (metaI 0x00 13 4 sw [wr a] [wr d]) d a aluPopc s
/-- MOV (R217). -/
def execMov (d a : Fin 64) (sw : Bool) (s : State) : Host.Outcome State Fault Refusal :=
  alu1 (metaI 0x00 14 4 sw [wr a] [wr d]) d a (fun x => x) s
/-- MUL (R217): deferred. -/
def execMul (d a b : Fin 64) (sw : Bool) (s : State) : Host.Outcome State Fault Refusal :=
  alu (metaMul 0 sw d a b) d a b (fun x y => x * y) s
/-- MULH (R217): deferred. -/
def execMulh (d a b : Fin 64) (sw : Bool) (s : State) : Host.Outcome State Fault Refusal :=
  alu (metaMul 1 sw d a b) d a b aluMulh s
/-- MULHU (R217): deferred. -/
def execMulhU (d a b : Fin 64) (sw : Bool) (s : State) : Host.Outcome State Fault Refusal :=
  alu (metaMul 2 sw d a b) d a b aluMulhU s
/-- DIV (R217): deferred. -/
def execDiv (d a b : Fin 64) (sw : Bool) (s : State) : Host.Outcome State Fault Refusal :=
  alu (metaMul 3 sw d a b) d a b aluDiv s
/-- DIVU (R217): deferred. -/
def execDivU (d a b : Fin 64) (sw : Bool) (s : State) : Host.Outcome State Fault Refusal :=
  alu (metaMul 4 sw d a b) d a b aluDivU s
/-- REM (R217): deferred. -/
def execRem (d a b : Fin 64) (sw : Bool) (s : State) : Host.Outcome State Fault Refusal :=
  alu (metaMul 5 sw d a b) d a b aluRem s
/-- REMU (R217): deferred. -/
def execRemU (d a b : Fin 64) (sw : Bool) (s : State) : Host.Outcome State Fault Refusal :=
  alu (metaMul 6 sw d a b) d a b aluRemU s
/-- ADDI (R217). -/
def execAddi (d a : Fin 64) (imm : BitVec 11) (sw : Bool) (s : State) : Host.Outcome State Fault Refusal :=
  alu1 (metaI 0x02 0 4 sw [wr a] [wr d]) d a (fun x => x + imm.signExtend 64) s
/-- Writes an immediate (R217). -/
def loadImm (m : Meta) (d : Nat) (x : Word) (s : State) : Host.Outcome State Fault Refusal :=
  issue m (do
    writeX d x
    seqFlow) s
/-- LI (R217). -/
def execLi (d : Fin 64) (imm : BitVec 17) (sw : Bool) (s : State) : Host.Outcome State Fault Refusal :=
  loadImm (metaI 0x03 0 4 sw [] [wr d]) d (imm.signExtend 64) s
/-- LIH (R217): ReadW(RD)[47:0] ∥ IMM17[15:0]. -/
def execLih (d : Fin 64) (imm : BitVec 16) (sw : Bool) (s : State) : Host.Outcome State Fault Refusal :=
  alu1 (metaI 0x04 0 4 sw [wr d] [wr d]) d d (fun x => x <<< 16 ||| imm.setWidth 64) s

/-! ### Compact forms (R199) -/

/-- Compact ADD with RS1 = RD (R199). -/
def execCAdd (d a : Fin 16) (sw : Bool) (s : State) : Host.Outcome State Fault Refusal :=
  alu (metaAlu 0 2 sw (low d) (low d) (low a)) (low d) (low d) (low a) (fun x y => x + y) s
/-- Compact SUB with RS1 = RD (R199). -/
def execCSub (d a : Fin 16) (sw : Bool) (s : State) : Host.Outcome State Fault Refusal :=
  alu (metaAlu 1 2 sw (low d) (low d) (low a)) (low d) (low d) (low a) (fun x y => x - y) s
/-- Compact AND with RS1 = RD (R199). -/
def execCAnd (d a : Fin 16) (sw : Bool) (s : State) : Host.Outcome State Fault Refusal :=
  alu (metaAlu 2 2 sw (low d) (low d) (low a)) (low d) (low d) (low a) (fun x y => x &&& y) s
/-- Compact OR with RS1 = RD (R199). -/
def execCOr (d a : Fin 16) (sw : Bool) (s : State) : Host.Outcome State Fault Refusal :=
  alu (metaAlu 3 2 sw (low d) (low d) (low a)) (low d) (low d) (low a) (fun x y => x ||| y) s
/-- Compact XOR with RS1 = RD (R199). -/
def execCXor (d a : Fin 16) (sw : Bool) (s : State) : Host.Outcome State Fault Refusal :=
  alu (metaAlu 4 2 sw (low d) (low d) (low a)) (low d) (low d) (low a) (fun x y => x ^^^ y) s
/-- Compact SHL with RS1 = RD (R199). -/
def execCShl (d a : Fin 16) (sw : Bool) (s : State) : Host.Outcome State Fault Refusal :=
  alu (metaAlu 6 2 sw (low d) (low d) (low a)) (low d) (low d) (low a) aluShl s
/-- Compact SHR with RS1 = RD (R199). -/
def execCShr (d a : Fin 16) (sw : Bool) (s : State) : Host.Outcome State Fault Refusal :=
  alu (metaAlu 7 2 sw (low d) (low d) (low a)) (low d) (low d) (low a) aluShr s
/-- Compact MOV (R199). -/
def execCMov (d a : Fin 16) (sw : Bool) (s : State) : Host.Outcome State Fault Refusal :=
  alu1 (metaI 0x00 14 2 sw [wr (low a)] [wr (low d)]) (low d) (low a) (fun x => x) s
/-- Compact ADDI with RS1 = RD (R199). -/
def execCAddi (d : Fin 16) (imm : BitVec 5) (sw : Bool) (s : State) : Host.Outcome State Fault Refusal :=
  alu1 (metaI 0x02 0 2 sw [wr (low d)] [wr (low d)]) (low d) (low d) (fun x => x + imm.signExtend 64) s
/-- Compact LI (R199). -/
def execCLi (d : Fin 16) (imm : BitVec 5) (sw : Bool) (s : State) : Host.Outcome State Fault Refusal :=
  loadImm (metaI 0x03 0 2 sw [] [wr (low d)]) (low d) (imm.signExtend 64) s

end Sys2Proof.Machine
end

