-- ==== Sys2Proof/Machine/Move.lean ====
section
/-! DEFINITION. GET, PUT, CWAIT and COPY (R284 to R288, R377): their checks at issue, and the transfer that the copy engine
accepts. -/

namespace Sys2Proof.Machine

/-- Transfers that a copy engine of 16 holds: GET, PUT, COPY and LDENSE writes (R286). -/
def Tile.copying (t : Tile) : Nat := (t.xfers.filter (fun x => decide (x.maj ≠ 0x2C))).length
/-- A transfer waits at issue while the copy engine is full (R286). -/
def copyRoom : Op Unit := do
  let t ← getT
  if 16 ≤ t.copying then waitFor .engine
/-- The cause with which a range fails R215 checks 1 to 3 and 5 against a capability, or its backing; transfer writes to the
information area are unbacked (R371). -/
def rangeCause (c : Reg) (n perms : Nat) (write : Bool) (a : Nat) : Option Nat :=
  let (base, top) := capBounds c
  if !c.tag then some 0x08
  else if c.otype ≠ 0 then some 0x09
  else if !c.has perms then some 0x0A
  else if !decide (base ≤ (a : Int) ∧ ((a + n : Nat) : Int) ≤ top) then some 0x0B
  else if a / 2 ^ 56 ≠ 0 then some 0x0D
  else match locate a n with
    | .unbacked => some 0x0E
    | .info _ => if write then some 0x0E else none
    | _ => none
/-- Every range of a transfer's memory side is checked, the lowest failing address reported (R366, R371). -/
def checkRanges (reg src : Nat) (c : Reg) (n perms : Nat) (write : Bool) (l : List Nat) : Op Unit := do
  let ak := if write then Access.engineWrite else Access.engineRead
  match l.filter (fun a => (rangeCause c n perms write a).isSome) with
  | [] => pure ()
  | a :: r => do
    let low := r.foldl min a
    trap ((rangeCause c n perms write low).getD 0) ak low (reg + src * 2 ^ 16)
/-- The place of a memory range: a window of the scratchpad, the information area as it stands, or translated memory. -/
def memPlace (s : State) (k a n : Nat) : Place :=
  match locate a n with
  | .scratch _ off => .scratch k off
  | .info off => .bytes (s.infoBytes k off n)
  | _ => .virt a
/-- The local slot of a transfer: the EMPTY tail slot that it fills, or the READY head slot that it drains; until then it
waits at issue (R68, R286). -/
def takeSlot (q : Nat) (fill : Bool) : Op Nat := do
  let t ← getT
  let r := t.ring q
  if fill then do
    slotEmpty r.tail
    modT (fun t => t.fillTail q)
    pure r.tail
  else do
    slotReady r.head
    modT (fun t => t.modSlot r.head (fun x => { x with state := .draining }))
    pure r.head

/-! ### GET and PUT (R284, R285) -/

/-- A transfer descriptor's fields (R284). -/
structure Desc where
  put : Bool
  core : Nat
  roff : Nat
  loff : Nat
  count : Nat
  elen : Nat
  ioff : Nat
  ccoff : Nat
  rcoff : Nat
  estride : Nat
  lkind : Nat
  rkind : Nat
  list : Nat
  lq : Nat
  rq : Nat
  deriving DecidableEq, Repr
/-- Reads the fields from the descriptor's 64 bytes. -/
def Desc.of (put : Bool) (b : List Byte) : Desc :=
  let ctl := blockNat b 56 1
  { put := put, core := blockNat b 16 4, roff := blockNat b 20 4, loff := blockNat b 24 4, count := blockNat b 28 4,
    elen := blockNat b 32 4, ioff := blockNat b 36 4, ccoff := blockNat b 40 4, rcoff := blockNat b 44 4,
    estride := blockNat b 48 6, lkind := ctl % 4, rkind := ctl / 4 % 4, list := ctl / 16 % 4, lq := blockNat b 57 1 % 16,
    rq := blockNat b 57 1 / 16 }
/-- Bytes moved. -/
def Desc.bytes (d : Desc) : Nat := d.count * d.elen
/-- The remote side is another core (RKIND 1 and 2). -/
def Desc.remote (d : Desc) : Bool := decide (d.rkind = 1 ∨ d.rkind = 2)
/-- A counter offset: none, or an aligned word of the scratchpad. -/
def ctrOk (o : Nat) : Bool := decide (o = 0xFFFFFFFF ∨ (o % 4 = 0 ∧ o + 4 ≤ Config.scratchBytes))
/-- A counter, if there is one. -/
def ctrOf (o : Nat) : Option Nat := if o = 0xFFFFFFFF then none else some o
/-- The list lies in the scratchpad, 4-byte aligned. -/
def Desc.listOk (d : Desc) : Bool := decide (d.list = 0) || decide (d.ioff % 4 = 0 ∧ d.ioff + 4 * d.count ≤ Config.scratchBytes)
/-- The list's entries; without a list, 0, 1, 2 … (R285). -/
def Desc.entries (d : Desc) (s : State) (k : Nat) : List Nat :=
  if d.list = 0 then List.range d.count else (List.range d.count).map (fun e => s.readNat (scratchAt k (d.ioff + 4 * e)) 4)
/-- The fields, in ascending order of their lowest bit (R368, R377, R428): a combination that R284 excludes names RKIND or
LIST, the field that has no such value there. The entries are looked at only where the list lies in the scratchpad. -/
def descChecks (w : Fin 64) (b : List Byte) (d : Desc) : Op Unit := do
  let s ← get
  let x := leNat b
  if d.remote then (do let _ ← destCore w 128 d.core) else fieldOk w 128 (decide (d.core = 0))
  fieldOk w 160 (!(decide (d.rkind = 1) && d.listOk) ||
    (if d.list = 0 then decide (d.count = 0 ∨ d.roff + d.bytes ≤ Config.scratchBytes)
     else (d.entries s s.cur).all (fun e => decide (d.roff + (e + 1) * d.elen ≤ Config.scratchBytes))))
  fieldOk w 192 (decide (d.lkind ≠ 0) || decide (d.loff + d.bytes ≤ Config.scratchBytes))
  fieldOk w 224 (decide (d.bytes ≤ Config.scratchBytes))
  fieldOk w 256 (decide (1 ≤ d.elen ∧ d.elen ≤ Config.scratchBytes))
  fieldOk w 288 d.listOk
  fieldOk w 320 (ctrOk d.ccoff)
  fieldOk w 352 (!d.remote || ctrOk d.rcoff)
  zeroField w x 432 448
  fieldOk w 448 (decide (d.lkind < 2))
  fieldOk w 450 (!(decide (2 ≤ d.rkind) && !d.put) && !(decide (d.rkind = 2 ∧ d.list ≠ 0)) && !(decide (d.rkind = 3 ∧ d.list ≠ 2)))
  fieldOk w 452 (decide (d.list < 3) && (decide (d.list ≠ 2) || (d.put && decide (d.rkind = 0 ∨ d.rkind = 3))))
  zeroField w x 454 456
  zeroField w x 464 512
/-- The remote place of an entry (R285). -/
def Desc.far (d : Desc) (s : State) (k a e x : Nat) : Place :=
  let at' := addrAdd a ((x * d.estride : Nat) : Int)
  if d.rkind = 1 then .scratch ((coreOf d.core).getD 0) (d.roff + x * d.elen)
  else if d.rkind = 2 then .remoteSlot (e * d.elen)
  else if d.rkind = 3 then .expert x
  else if d.list = 2 then .bin at' ((d.estride - 16) / d.elen) d.elen
  else memPlace s k at' d.elen
/-- The elements of a transfer, ascending (R285). -/
def Desc.elems (d : Desc) (s : State) (k a base : Nat) : List XElem :=
  ((d.entries s k).zipIdx).map (fun (x, e) =>
    let near : Place := .scratch k (base + e * d.elen)
    let far := d.far s k a e x
    if d.put then ⟨e, near, far, d.elen⟩ else ⟨e, far, near, d.elen⟩)
/-- GET and PUT (R284 to R286). -/
def moveOp (put : Bool) (w : Fin 64) (sw : Bool) (s : State) : Host.Outcome State Fault Refusal :=
  issue { metaD 0x37 (bit put) sw [wr w] [] with sync := true } (do
    let c ← readW w
    let (b, g) ← readBlock w c 64 Perm.load 16 .load
    let d := Desc.of put b
    let cap := blockCap b 0 g c
    descChecks w b d
    if d.lkind = 1 then do
      let r ← ringUsed d.lq
      slotHolds d.lq (if put then r.head else r.tail) d.bytes
    let k ← me
    if d.list ≠ 0 then engineConsume (scratchAt k d.ioff) (4 * d.count) (Config.localBase + d.ioff)
    let s ← get
    if d.rkind = 0 then
      checkRanges w 3 cap (if d.list = 2 then max d.estride 4 else d.elen)
        (Perm.engine + (if put then Perm.store else Perm.load) + (if d.list = 2 then Perm.load else 0)) put
        ((d.entries s k).map (fun x => addrAdd cap.addr ((x * d.estride : Nat) : Int)))
    copyRoom
    let slot ← if d.lkind = 1 then (do let q ← takeSlot d.lq (!put); pure (some q)) else pure none
    let t ← getT
    let base := match slot with
      | some q => (t.slot q).off
      | none => d.loff
    let id ← xferId
    let core := (coreOf d.core).getD 0
    let x : Xfer :=
      { pc := t.pc.addr, maj := 0x37, minor := bit put, elems := d.elems s k cap.addr base, slot := slot, fill := !put,
        remote := if d.remote then some (core, if d.rkind = 2 then some d.rq else none) else none, remoteSlot := none,
        bytes := d.bytes, localCtr := ctrOf d.ccoff,
        remoteCtr := if d.remote then (ctrOf d.rcoff).map (fun o => (core, o)) else none, wake := none, job := t.job,
        stopped := none, interval := 0, grants := [], ordered := false, destName := d.core, id := id }
    xferFirst x
    modT (fun t => { t with xfers := t.xfers ++ [x] })
    seqFlow) s
/-- GET (R284). -/
def execGet (b : Fin 64) (sw : Bool) (s : State) : Host.Outcome State Fault Refusal := moveOp false b sw s
/-- PUT (R284). -/
def execPut (b : Fin 64) (sw : Bool) (s : State) : Host.Outcome State Fault Refusal := moveOp true b sw s

/-! ### CWAIT (R287) -/

/-- CWAIT (R287). -/
def execCwait (d c : Fin 64) (sw : Bool) (s : State) : Host.Outcome State Fault Refusal :=
  issue { metaD 0x37 2 sw [wr d, wr c] [wr d] with sync := true } (do
    let x ← readN d
    let cap ← readW c
    checkCap c 0 cap cap.addr 4 Perm.load 4 .load
    let off ← inWindow c cap.addr 4 .load
    let k ← me
    consume (scratchAt k off) 4 .load cap.addr
    let s ← get
    let v := s.readNat (scratchAt k off) 4
    if (v + 2 ^ 32 - x % 2 ^ 32) % 2 ^ 32 < 2 ^ 31 then do
      writeN d v
      seqFlow
    else waitFor .slots) s

/-! ### COPY (R288) -/

/-- Bytes of a row of a slice. -/
def Slice.rowBytes (m : Slice) : Nat := elemOff m.win (m.extent 0)
/-- Bytes of a slice, packed. -/
def Slice.bytes (m : Slice) : Nat := m.rowBytes * m.extent 1 * m.extent 2 * m.extent 3
/-- Addresses of the rows of a slice in (d3, d2, d1) order. -/
def Slice.rows (m : Slice) : List Nat :=
  if m.bytes = 0 then []
  else (List.range (m.extent 3)).flatMap (fun i3 => (List.range (m.extent 2)).flatMap (fun i2 =>
    (List.range (m.extent 1)).map (fun i1 => addrAdd m.origin
      ((i1 * m.strides.getD 0 0 + i2 * m.strides.getD 1 0 + i3 * m.strides.getD 2 0 : Nat) : Int))))
/-- COPY (R288). -/
def execCopy (p c : Fin 64) (sw : Bool) (s : State) : Host.Outcome State Fault Refusal :=
  issue { metaD 0x38 0 sw [wr p, wr c] [] with sync := true } (do
    let x ← readN p
    let put := decide (bf x 5 1 = 1)
    let slotted := decide (bf x 6 1 = 1)
    let q := bf x 7 4
    let cnt := bf x 32 16
    zeroField p x 11 12
    zeroField p x 31 32
    fieldOk p 32 (decide (cnt = 0xFFFF ∨ 8 * cnt + 4 ≤ Config.scratchBytes))
    zeroField p x 48 64
    let m ← readMap (x % 32)
    fieldOk p 0 (decide (m.win ≠ 8) || decide (m.extent 0 % 2 = 0))
    fieldOk p 12 (decide (m.bytes ≤ Config.scratchBytes) && (slotted || decide (bf x 12 19 + m.bytes ≤ Config.scratchBytes)))
    if slotted then do
      let r ← ringUsed q
      slotHolds q (if put then r.head else r.tail) m.bytes
    let cap ← readW c
    checkRanges c 0 cap m.rowBytes (Perm.engine + (if put then Perm.store else Perm.load)) put m.rows
    copyRoom
    let slot ← if slotted then (do let sl ← takeSlot q (!put); pure (some sl)) else pure none
    let k ← me
    let s ← get
    let t ← getT
    let base := match slot with
      | some sl => (t.slot sl).off
      | none => bf x 12 19
    let id ← xferId
    let elems := (m.rows.zipIdx).map (fun (a, e) =>
      let near : Place := .scratch k (base + e * m.rowBytes)
      let far := memPlace s k a m.rowBytes
      if put then (⟨e, near, far, m.rowBytes⟩ : XElem) else ⟨e, far, near, m.rowBytes⟩)
    let f : Xfer :=
      { pc := t.pc.addr, maj := 0x38, minor := 0, elems := elems, slot := slot, fill := !put, remote := none,
        remoteSlot := none, bytes := m.bytes, localCtr := if cnt = 0xFFFF then none else some (8 * cnt), remoteCtr := none,
        wake := none, job := t.job, stopped := none, interval := 0, grants := [], ordered := false, destName := 0, id := id }
    xferFirst f
    modT (fun t => { t with xfers := t.xfers ++ [f] })
    seqFlow) s

end Sys2Proof.Machine
end

