-- ==== Sys2Proof/Machine/Lattice.lean ====
section
/-! DEFINITION. The lattice instructions (R291 to R293) over the operations of Region.lean, and the lattice unit's own event
(R142). -/

namespace Sys2Proof.Machine

/-- A lattice instruction reads registers XA to XA + `n` − 1 and the region's; earlier engine work of the task comes first. -/
def metaL (minor n : Nat) (sw : Bool) (p l : Fin 64) (writes : List (File × Nat)) : Meta :=
  { metaD 0x39 minor sw ((List.range n).map (fun i => (File.w, p.val + i)) ++ [wr l]) writes with sync := true }
/-- XA's range (R291, R377). -/
def xaRange (p : Fin 64) (n : Nat) : Op Unit := require (decide (p.val + n ≤ 64)) (limitField p 9)
/-- The region capability over the descriptor's 128 bytes, and the descriptor's physical address (R291 steps 6 and 7). -/
def openRegion (p l : Fin 64) (c : Reg) (perm : Nat) (ak : Access) : Op Nat := do
  checkCap l 0 c c.addr 128 (Perm.lattice + perm) 1 ak
  regionKey p l c.addr ak needR
/-- The cell buffer: its capability, alignment and window (R291 step 8); gives its scratchpad offset. -/
def cellBuffer (reg : Nat) (c : Reg) (r : Region) (perm : Nat) (ak : Access) : Op Nat := do
  checkCap reg 0 c c.addr r.cellBytes perm (elemBytes r.cfmt) ak
  inWindow reg c.addr r.cellBytes ak
/-- Reads the cell buffer's element codes. -/
def readBuffer (r : Region) (a off : Nat) : Op (List Nat) := do
  let k ← me
  consume (scratchAt k off) r.cellBytes .load a
  let s ← get
  pure (r.elems (s.readAt (scratchAt k off) r.cellBytes))
/-- Writes the cell buffer. -/
def writeBuffer (a off : Nat) (b : List Byte) : Op Unit := do
  let k ← me
  consumePart (scratchAt k off) b.length .store a
  noteStore (scratchAt k off) b.length
  modify (fun s => s.writeKey (scratchAt k off) b false)

/-- LLD (R291): the cell, or zeros for an absent key. -/
def execLld (p l : Fin 64) (sw : Bool) (s : State) : Host.Outcome State Fault Refusal :=
  issue (metaL 0 2 sw p l []) (do
    xaRange p 2
    let key ← readN p
    let buf ← readW (p.val + 1)
    let c ← readW l
    let pa ← openRegion p l c Perm.load .load
    let r ← coreLattice p l c.addr .load pa region
    let off ← cellBuffer (p.val + 1) buf r Perm.store .store
    let b ← coreLattice p l c.addr .load pa (do
      checkKey key
      latLoad key)
    writeBuffer buf.addr off b
    latticeDone
    seqFlow) s
/-- LST and LADD (R291): one event with the buffer's elements. -/
def cellOp (minor : Nat) (ak : Access) (op : Nat → List Nat → Lat Unit) (p l : Fin 64) (sw : Bool) (s : State) :
    Host.Outcome State Fault Refusal :=
  issue (metaL minor 2 sw p l []) (do
    xaRange p 2
    let key ← readN p
    let buf ← readW (p.val + 1)
    let c ← readW l
    let pa ← openRegion p l c Perm.store ak
    let r ← coreLattice p l c.addr ak pa region
    let off ← cellBuffer (p.val + 1) buf r Perm.load .load
    let x ← readBuffer r buf.addr off
    coreLattice p l c.addr ak pa (do
      checkKey key
      op key x)
    latticeDone
    seqFlow) s
/-- LST (R139, R291): inserts, replaces or deletes. -/
def execLst (p l : Fin 64) (sw : Bool) (s : State) : Host.Outcome State Fault Refusal := cellOp 1 .store latStore p l sw s
/-- LADD (R147, R291). -/
def execLadd (p l : Fin 64) (sw : Bool) (s : State) : Host.Outcome State Fault Refusal := cellOp 2 .rmw latAdd p l sw s
/-- LSCAN (R146, R291): one step of a scan. -/
def execLscan (p l : Fin 64) (sw : Bool) (s : State) : Host.Outcome State Fault Refusal :=
  issue (metaL 3 3 sw p l [wr p, (.w, p.val + 1)]) (do
    xaRange p 3
    let cursor ← readN p
    let st ← readN (p.val + 1)
    let buf ← readW (p.val + 2)
    zeroField (p.val + 1) st 2 64
    let c ← readW l
    let pa ← openRegion p l c Perm.load .load
    let r ← coreLattice p l c.addr .load pa region
    let off ← cellBuffer (p.val + 2) buf r Perm.store .store
    let found ← coreLattice p l c.addr .load pa (do
      match ← latScan (decide (st % 2 = 1)) cursor with
      | none => pure none
      | some (k, j) => do
        let b ← readCell j
        pure (some (k, b)))
    latticeDone
    match found with
    | none => do
      writeN (p.val + 1) (st % 2 + 2)
      seqFlow
    | some (k, b) => do
      writeBuffer buf.addr off b
      writeN p k
      writeN (p.val + 1) 1
      seqFlow) s
/-- LCOUNT (R291). -/
def execLcount (d l : Fin 64) (sw : Bool) (s : State) : Host.Outcome State Fault Refusal :=
  issue (metaL 4 0 sw d l [wr d]) (do
    let c ← readW l
    let pa ← openRegion d l c Perm.load .load
    let r ← coreLattice d l c.addr .load pa region
    latticeDone
    writeN d (r.cused + r.nused * 2 ^ 32)
    seqFlow) s
/-- LGROW (R149, R293): the new capacities may not be below the current ones. -/
def execLgrow (n l : Fin 64) (sw : Bool) (s : State) : Host.Outcome State Fault Refusal :=
  issue (metaL 6 1 sw n l []) (do
    let x ← readN n
    let c ← readW l
    let pa ← openRegion n l c Perm.store .store
    let r ← coreLattice n l c.addr .store pa region
    let ncap := bf x 0 32
    let ccap := bf x 32 32
    fieldOk n 0 (decide (ncap = 0 ∨ r.ncap ≤ ncap))
    fieldOk n 32 (decide (ccap = 0 ∨ r.ccap ≤ ccap))
    coreLattice n l c.addr .store pa (latGrow ncap ccap)
    latticeDone
    seqFlow) s

/-! ### LDENSE (R148, R292, R397) -/

/-- The destination range of LDENSE, element by element, posted with its lowest failing address (R397). -/
def denseRange (b : Fin 64) (dst : Reg) (esize n : Nat) : Op Unit := do
  let perms := Perm.store + Perm.engine
  match ((List.range n).map (fun i => addrAdd dst.addr ((i * esize : Nat) : Int))).find? (fun a => (rangeCause dst esize perms true a).isSome) with
  | some a => post ((rangeCause dst esize perms true a).getD 0) .engineWrite a (b + 3 * 2 ^ 16)
  | none => pure ()
/-- LDENSE (R292): the box is read in one event, and its writes are a transfer of the copy engine. -/
def execLdense (b l : Fin 64) (sw : Bool) (s : State) : Host.Outcome State Fault Refusal :=
  issue (metaL 5 1 sw b l []) (do
    let p ← readW b
    let c ← readW l
    checkCap b 0 p p.addr 64 Perm.load 16 .load
    checkCap l 0 c c.addr 128 (Perm.lattice + Perm.load) 1 .load
    let (d, g) ← loadAt b 0 p.addr 64 .load false 0
    let pa ← regionKey b l c.addr .load needR
    let r ← coreLattice b l c.addr .load pa region
    let dst := blockCap d 0 g p
    let lo := (List.range 4).map (fun i => blockNat d (16 + 4 * i) 4)
    let ext := (List.range 4).map (fun i => blockNat d (32 + 4 * i) 4)
    let ctr := blockNat d 48 4
    let esize := elemBytes r.cfmt
    let n := ext.foldl (· * ·) 1
    fieldOk b 384 (ctrOk ctr)
    fieldOk b 416 (decide (blockNat d 52 12 = 0))
    coreLattice b l c.addr .load pa (checkBox lo ext)
    denseRange b dst esize n
    copyRoom
    let codes ← if n = 0 then pure [] else coreLattice b l c.addr .load pa (boxElems lo ext)
    let id ← xferId
    let k ← me
    let s ← get
    let t ← getT
    let elems := codes.zipIdx.map (fun (x, i) =>
      (⟨i, .bytes (leBytes esize x), memPlace s k (addrAdd dst.addr ((i * esize : Nat) : Int)) esize, esize⟩ : XElem))
    let f : Xfer :=
      { pc := t.pc.addr, maj := 0x39, minor := 5, elems := elems, slot := none, fill := false, remote := none,
        remoteSlot := none, bytes := n * esize, localCtr := ctrOf ctr, remoteCtr := none,
        wake := none, job := t.job, stopped := none, interval := 0, grants := [], ordered := false, destName := 0, id := id }
    xferFirst f
    latticeDone
    modT (fun t => { t with xfers := t.xfers ++ [f] })
    seqFlow) s

/-! ### The lattice unit's event (R142) -/

/-- One operation of a lattice unit on the region whose descriptor stands at a physical address. -/
def latEvent (op : LatOp) : Lat Unit := do
  let r ← region
  match op with
  | .load key => do
    checkKey key
    let _ ← latLoad key
    pure ()
  | .store key cell => do
    checkKey key
    latStore key (r.elems cell)
  | .add key cell => do
    checkKey key
    latAdd key (r.elems cell)
  | .scan started cursor => do
    let _ ← latScan started cursor
    pure ()
  | .count => pure ()
  | .dense lo ext => do
    checkBox lo ext
    let _ ← boxElems lo ext
    pure ()
  | .grow ncap ccap =>
    if (ncap = 0 ∨ r.ncap ≤ ncap) ∧ (ccap = 0 ∨ r.ccap ≤ ccap) then latGrow ncap ccap else pure ()
/-- LATTICE_EVENT (R142): the operation is performed in full, or, when the unit refuses it, changes nothing. -/
def execLatticeEvent (desc : Nat) (op : LatOp) (s : State) : Host.Outcome State Fault Refusal :=
  match runLattice s desc (latEvent op) with
  | .ok (_, s') => .next s'
  | .error _ => .next s

end Sys2Proof.Machine
end

