-- ==== Sys2Proof/Machine/LoadStore.lean ====
section
/-! DEFINITION. Loads, stores, capability and window moves, PREF and block moves (R198, R227 to R232), with the compact
loads and stores (R199). -/

namespace Sys2Proof.Machine

/-- LD (R227): 2^`lg` bytes, zero- or sign-extended. -/
def loadOp (m : Meta) (t : Fin 64) (lg : Nat) (signed : Bool) (mem : Mem) (s : State) : Host.Outcome State Fault Refusal :=
  issue m (do
    let e ← ea (2 ^ lg) lg mem
    let (b, _) ← load (Mem.rb mem) 0 e.cap e.addr (2 ^ lg) Perm.load (2 ^ lg) .load
    updateBase mem e
    writeX t (if signed then wordOf (sext (leNat b) (8 * 2 ^ lg)) else BitVec.ofNat 64 (leNat b))
    seqFlow) s
/-- ST (R227): the low 2^`lg` bytes of RT. -/
def storeOp (m : Meta) (t : Fin 64) (lg : Nat) (mem : Mem) (s : State) : Host.Outcome State Fault Refusal :=
  issue m (do
    let x ← readN t
    let e ← ea (2 ^ lg) lg mem
    store (Mem.rb mem) 0 e.cap e.addr (leBytes (2 ^ lg) x) Perm.store (2 ^ lg) .store false
    updateBase mem e
    seqFlow) s
/-- LDC (R228): the granule with its tag under LOAD_CAP. -/
def loadCapOp (m : Meta) (t : Fin 64) (mem : Mem) (s : State) : Host.Outcome State Fault Refusal :=
  issue m (do
    let e ← ea 16 4 mem
    let (b, g) ← load (Mem.rb mem) 0 e.cap e.addr 16 Perm.load 16 .load
    updateBase mem e
    writeW t (Reg.ofBytes (g && e.cap.has Perm.loadCap) b)
    seqFlow) s
/-- A tagged value may be stored through a capability: STORE_CAP, and GLOBAL or STORE_LOCAL_CAP (R228). -/
def mayStoreCap (c v : Reg) : Bool := c.has Perm.storeCap && (v.has Perm.global || c.has Perm.storeLocal)
/-- STC (R228). -/
def storeCapOp (m : Meta) (t : Fin 64) (mem : Mem) (s : State) : Host.Outcome State Fault Refusal :=
  issue m (do
    let v ← readW t
    let e ← ea 16 4 mem
    checkCap (Mem.rb mem) 0 e.cap e.addr 16 Perm.store 16 .store
    require (!v.tag || mayStoreCap e.cap v) (trap 0x0A .store e.addr (Mem.rb mem))
    storeAt (Mem.rb mem) 0 e.addr v.bytes .store false false v.tag 0
    updateBase mem e
    seqFlow) s

/-- LD (R227). -/
def execLd (t : Fin 64) (z : Fin 4) (mem : Mem) (sw : Bool) (s : State) : Host.Outcome State Fault Refusal :=
  loadOp (metaM 0x10 0 4 sw true t mem) t z false mem s
/-- LD.SB (R227). -/
def execLdSb (t : Fin 64) (mem : Mem) (sw : Bool) (s : State) : Host.Outcome State Fault Refusal :=
  loadOp (metaM 0x11 0 4 sw true t mem) t 0 true mem s
/-- LD.SH (R227). -/
def execLdSh (t : Fin 64) (mem : Mem) (sw : Bool) (s : State) : Host.Outcome State Fault Refusal :=
  loadOp (metaM 0x11 1 4 sw true t mem) t 1 true mem s
/-- LD.SW (R227). -/
def execLdSw (t : Fin 64) (mem : Mem) (sw : Bool) (s : State) : Host.Outcome State Fault Refusal :=
  loadOp (metaM 0x11 2 4 sw true t mem) t 2 true mem s
/-- LDC (R228). -/
def execLdc (t : Fin 64) (mem : Mem) (sw : Bool) (s : State) : Host.Outcome State Fault Refusal :=
  loadCapOp (metaM 0x11 3 4 sw true t mem) t mem s
/-- ST (R227). -/
def execSt (t : Fin 64) (z : Fin 4) (mem : Mem) (sw : Bool) (s : State) : Host.Outcome State Fault Refusal :=
  storeOp (metaM 0x12 0 4 sw false t mem) t z mem s
/-- STC (R228). -/
def execStc (t : Fin 64) (mem : Mem) (sw : Bool) (s : State) : Host.Outcome State Fault Refusal :=
  storeCapOp (metaM 0x13 0 4 sw false t mem) t mem s

/-! ### Windows (R229) -/

/-- The checks of LDF and STF: R215 checks 1 to 5 over one element of the window that holds the address, WINDOW when
none does (R371), UNBACKED beyond the scratchpad, WINDOW when the scale byte lies outside it (R374). Gives window, offset and
the scale byte's offset. -/
def windowChecks (reg : Nat) (c : Reg) (a perms : Nat) (ak : Access) : Op (Nat × Nat × Nat) := do
  match windowOf a with
  | none => do
    checkCap reg 0 c a 1 perms 1 ak
    noWindow reg a ak
  | some (w, off) => do
    checkCap reg 0 c a (elemBytes w) perms (elemBytes w) ak
    require (decide (off + elemBytes w ≤ Config.scratchBytes)) (trap 0x0E ak a reg)
    let t ← getT
    let so := scaleOff (t.soff w) w off 0
    require (!isMx w || decide (so < Config.scratchBytes)) (trap 0x1B ak (Config.localBase + so) (reg + w * 2 ^ 16))
    pure (w, off, so)
/-- The scale byte of an element (R81); 127 outside MX windows. -/
def readScale (w so : Nat) (ak : Access) (a : Nat) : Op Nat := do
  if isMx w then do
    let k ← me
    consume (scratchAt k so) 1 ak a
    let s ← get
    pure (s.readNat (scratchAt k so) 1)
  else pure 127
/-- LDF's value (R229). -/
def ldfValue (t : Tile) (w bits scale : Nat) : Word :=
  let f32 := fun (b : Nat) => (encodeFloat fp32 .rne false (valueOf t w b scale)).1
  match winKind w with
  | .raw => BitVec.ofNat 64 bits
  | .int n sg => if sg then wordOf (sext bits n) else BitVec.ofNat 64 bits
  | _ => if w = 8 then BitVec.ofNat 64 (f32 (bits % 16) + f32 (bits / 16) * 2 ^ 32) else BitVec.ofNat 64 (f32 bits)
/-- STF's bytes (R229): `rm` is FCTL.RM. -/
def stfBytes (t : Tile) (w scale : Nat) (rm : Rm) (x : Word) : List Byte :=
  let val := fun (b : Nat) => decodeFloat fp32 (b % 2 ^ 32)
  let enc := fun (v : Ext) => (encodeWin t.table w rm (isMx w) (if isMx w then v.scale (127 - (scale : Int)) else v)).1
  match winKind w with
  | .raw => leBytes 1 x.toNat
  | .int n _ => leBytes (elemBytes w) (x.toNat % 2 ^ n)
  | _ =>
    if w = 8 then leBytes 1 (enc (val x.toNat) % 16 + enc (val (x.toNat / 2 ^ 32)) % 16 * 16)
    else leBytes (elemBytes w) (enc (val x.toNat))
/-- LDF (R229). -/
def execLdf (t : Fin 64) (mem : Mem) (sw : Bool) (s : State) : Host.Outcome State Fault Refusal :=
  issue (metaM 0x13 1 4 sw true t mem) (do
    let e ← ea 1 0 mem
    let (w, _, so) ← windowChecks (Mem.rb mem) e.cap e.addr Perm.load .load
    let (b, _) ← loadAt (Mem.rb mem) 0 e.addr (elemBytes w) .load false 0
    let sc ← readScale w so .load e.addr
    updateBase mem e
    let u ← getT
    writeX t (ldfValue u w (leNat b) sc)
    seqFlow) s
/-- STF (R229): through W12 it needs the ordered flag. -/
def execStf (t : Fin 64) (mem : Mem) (sw : Bool) (s : State) : Host.Outcome State Fault Refusal :=
  issue (metaM 0x13 2 4 sw false t mem) (do
    let x ← readX t
    let e ← ea 1 0 mem
    let u ← getT
    require (u.ordered || decide ((windowOf e.addr).map (·.1) ≠ some 12)) (trap 0x1C .none 0 (12 * 2 ^ 16))
    let (w, _, so) ← windowChecks (Mem.rb mem) e.cap e.addr Perm.store .store
    let sc ← readScale w so .store e.addr
    storeAt (Mem.rb mem) 0 e.addr (stfBytes u w sc (rmOf u.fctl) x) .store false false false 0
    updateBase mem e
    seqFlow) s
/-- PREF (R230): only its base update; for an address in HBM or host memory it may start a walk, which fills TLBs and sets A;
whether it does is free (log entry 7). -/
def execPref (mem : Mem) (sw : Bool) (s : State) : Host.Outcome State Fault Refusal :=
  issue (metaI 0x13 3 4 sw (Mem.reads mem) []) (do
    let e ← ea 1 0 mem
    updateBase mem e
    let s ← get
    let (n, s') := s.fresh
    set s'
    let (base, top) := capBounds e.cap
    if Config.freeChoice n % 2 = 1 ∧ e.cap.tag ∧ e.cap.otype = 0 ∧ e.cap.has Perm.load ∧ base ≤ (e.addr : Int) ∧
        (e.addr : Int) + 1 ≤ top ∧ e.addr / 2 ^ 56 = 0 ∧ locate e.addr 1 = .virt then
      match s'.translateAt s'.cur false e.addr needR with
      | .ok (p, s'') => if isHbm p.key || isHost p.key then set s'' else pure ()
      | .error _ => pure ()
    else pure ()
    seqFlow) s

/-! ### Block moves (R231, R232) -/

/-- One element or granule of a REP is done: the pointers advance, the count falls, and the REP goes on while it is not
0 (R231). -/
def repNext (d a c : Fin 64) (copy : Bool) (wd ws : Reg) (cnt moved e : Nat) (carry : Bool) (n : Nat) : Op Flow := do
  writeW d (capAdd wd ((n * moved : Nat) : Int))
  if copy then writeW a (capAdd ws ((n * moved : Nat) : Int))
  writeN c (cnt - moved)
  if cnt = moved then seqFlow
  else do
    modT (fun t => { t with rep := some (e + moved, carry) })
    pure .again
/-- The checks of one element of a REP: source, then destination. -/
def repCheck (d a : Fin 64) (copy : Bool) (wd ws : Reg) (off n : Nat) : Op Unit := do
  if copy then checkCap a 0 ws (addrAdd ws.addr off) n Perm.load n .load
  checkCap d 0 wd (addrAdd wd.addr off) n Perm.store n .store
/-- LIMIT of a REP whose registers are not distinct (R374): the later field. -/
def repFields (d a c : Fin 64) (copy : Bool) : Op Unit := do
  require (!(copy && decide (d = a))) (limitField a 15)
  require (!(decide (d = c) || (copy && decide (a = c)))) (limitField c 21)
/-- One step of REP.COPY or REP.FILL: one element, or one granule of a tag-carrying copy. -/
def repOp (copy : Bool) (d a c : Fin 64) (z : Nat) (sw : Bool) (s : State) : Host.Outcome State Fault Refusal :=
  issue { metaD 0x14 (bit (!copy)) sw [wr d, wr a, wr c] ([wr d] ++ (if copy then [wr a] else []) ++ [wr c]) with
          mustS := true, sync := true } (do
    repFields d a c copy
    let wd ← readW d
    let ws ← readW a
    let cnt ← readN c
    let t ← getT
    let n := 2 ^ z
    let (e, carry) := match t.rep with
      | some (e, g) => (e, copy && g)
      | none => (0, copy && decide (z = 3) && decide (wd.addr % 16 = 0) && decide (ws.addr % 16 = 0))
    if cnt = 0 then seqFlow
    else if carry && decide (2 ≤ cnt) then do
      repCheck d a copy wd ws 0 8
      repCheck d a copy wd ws 8 8
      let (b, g) ← loadAt a 0 ws.addr 16 .load false e
      let v := Reg.ofBytes (g && ws.has Perm.loadCap) b
      storeAt d 0 wd.addr b .store false false (v.tag && mayStoreCap wd v) e
      repNext d a c copy wd ws cnt 2 e carry n
    else do
      repCheck d a copy wd ws 0 n
      let b ← (if copy then do
          let (b, _) ← loadAt a 0 ws.addr n .load false e
          pure b
        else pure (leBytes n ws.lo.toNat))
      storeAt d 0 wd.addr b .store false false false e
      repNext d a c copy wd ws cnt 1 e carry n) s
/-- REP.COPY (R231). -/
def execRepCopy (d a b : Fin 64) (z : Fin 4) (sw : Bool) (s : State) : Host.Outcome State Fault Refusal :=
  repOp true d a b z sw s
/-- REP.FILL (R231). -/
def execRepFill (d a b : Fin 64) (z : Fin 4) (sw : Bool) (s : State) : Host.Outcome State Fault Refusal :=
  repOp false d a b z sw s

/-! ### Compact forms (R199) -/

/-- [rb + 0]. -/
def plainMem (b : Fin 16) : Mem := .offset (low b) 0
/-- [rb]+=8, with D7 = 1. -/
def postMem (b : Fin 16) : Mem := .post (low b) 1
/-- Compact LD (R199). -/
def execCLd (t b : Fin 16) (sw : Bool) (s : State) : Host.Outcome State Fault Refusal :=
  loadOp (metaM 0x10 0 2 sw true (low t) (plainMem b)) (low t) 3 false (plainMem b) s
/-- Compact ST (R199). -/
def execCSt (t b : Fin 16) (sw : Bool) (s : State) : Host.Outcome State Fault Refusal :=
  storeOp (metaM 0x12 0 2 sw false (low t) (plainMem b)) (low t) 3 (plainMem b) s
/-- Compact LD.W (R199). -/
def execCLdW (t b : Fin 16) (sw : Bool) (s : State) : Host.Outcome State Fault Refusal :=
  loadOp (metaM 0x10 0 2 sw true (low t) (plainMem b)) (low t) 2 false (plainMem b) s
/-- Compact ST.W (R199). -/
def execCStW (t b : Fin 16) (sw : Bool) (s : State) : Host.Outcome State Fault Refusal :=
  storeOp (metaM 0x12 0 2 sw false (low t) (plainMem b)) (low t) 2 (plainMem b) s
/-- Compact LD with post-increment (R199). -/
def execCLdPost (t b : Fin 16) (sw : Bool) (s : State) : Host.Outcome State Fault Refusal :=
  loadOp (metaM 0x10 0 2 sw true (low t) (postMem b)) (low t) 3 false (postMem b) s
/-- Compact ST with post-increment (R199). -/
def execCStPost (t b : Fin 16) (sw : Bool) (s : State) : Host.Outcome State Fault Refusal :=
  storeOp (metaM 0x12 0 2 sw false (low t) (postMem b)) (low t) 3 (postMem b) s
/-- Compact LDC (R199). -/
def execCLdc (t b : Fin 16) (sw : Bool) (s : State) : Host.Outcome State Fault Refusal :=
  loadCapOp (metaM 0x11 3 2 sw true (low t) (plainMem b)) (low t) (plainMem b) s
/-- Compact STC (R199). -/
def execCStc (t b : Fin 16) (sw : Bool) (s : State) : Host.Outcome State Fault Refusal :=
  storeCapOp (metaM 0x13 0 2 sw false (low t) (plainMem b)) (low t) (plainMem b) s

end Sys2Proof.Machine
end

