-- ==== Sys2Proof/Machine/Message.lean ====
section
/-! DEFINITION. Messages, handlers and deques: SEND, HRET and MBOX (R278 to R281), and the deque instructions (R50, R51,
R283). -/

namespace Sys2Proof.Machine

/-! ### SEND (R278) -/

/-- Messages that stand in a core's send buffer. -/
def State.buffered (s : State) (k : Nat) : Nat := (s.msgs.filter (fun m => decide (m.src = k) && m.buffered)).length
/-- The fields of a header word that SEND checks, in ascending order (R368, R377, R428): the destination core, the class,
the payload length and whether it is a wake-up. -/
def sendHeader (h b : Fin 64) (x : Nat) : Op Unit := do
  let _ ← destCore h 0 (x % 2 ^ 32)
  let wake := decide (bf x 40 1 = 1)
  let len := bf x 36 4
  fieldOk h 32 (!wake || decide (bf x 32 4 = 0))
  fieldOk h 36 (decide (len ≤ 8) && (!wake || decide (len = 0)))
  zeroField h x 41 64
  require (if len = 0 then decide (b.val = 0) else decide (b.val + len ≤ 64)) (limitField b 15)
/-- Payload registers of a header that names a legal range. -/
def sendRegs (b : Fin 64) (x : Nat) : List Nat :=
  ((List.range (min 8 (bf x 36 4))).map (· + b.val)).filter (· < 64)
/-- RUN_HAZARD of the payload registers (R369): they are read like any other register. -/
def sendHazard (b : Fin 64) (x : Nat) : Op Unit := do
  let t ← getT
  match ((sendRegs b x).map (fun n => (File.w, n))).findSome? (findPend t.pend) with
  | some p => hazard p.num 1 p.pos p.file
  | none => pure ()
/-- SEND (R278): a release of the narrowest scope that holds both cores (R131): every earlier core access to its tier has been
performed when the message enters the send buffer. -/
def execSend (h b : Fin 64) (sw : Bool) (s : State) : Host.Outcome State Fault Refusal :=
  issue (metaD 0x34 0 sw [wr h] []) (do
    let x ← readN h
    sendHazard b x
    sendHeader h b x
    let s ← get
    if 8 ≤ s.buffered s.cur then waitFor .sendSpace
    performFirst (fun y => inTier s.cur (s.scopeOf s.cur ((coreOf (x % 2 ^ 32)).getD s.cur)) y.key)
    let data ← (sendRegs b x).mapM readX
    let s ← get
    let m := mkMsg s.cur (s.nameOf s.cur) (x % 2 ^ 32) (bf x 32 4) data (((s.tile s.cur).task).map (·.grid)) (s.partNo s.cur)
    set (s.push { m with wake := decide (bf x 40 1 = 1), buffered := true })
    seqFlow) s

/-! ### HRET (R280) -/

/-- HRET (R280): the handler ends, and transfers that a LOCAL reply left stopped move on as under RETRY (R383). -/
def execHret (sw : Bool) (s : State) : Host.Outcome State Fault Refusal :=
  issue { metaD 0x34 1 sw [] [] with mustS := true } (do
    endRule
    let t ← getT
    require t.handler (trap 0x25 .none 0 0)
    modT (fun t => returnHandler { t with
      xfers := t.xfers.map (fun x => if x.stopped = some (2 ^ 16) then { x with stopped := none } else x) })
    pure (.jump (pcOf t.hpc))) s

/-! ### MBOX (R281) -/

/-- The word of COUNT and CLEAR. -/
def Tile.countWord (t : Tile) (c : Nat) : Nat := (t.held c).length % 2 ^ 16 + (t.cls c).discards % 2 ^ 32 * 2 ^ 16
/-- The word of INFO. -/
def infoWord : Option InMsg → Nat
  | none => 0
  | some m => m.source % 2 ^ 32 + m.cls % 16 * 2 ^ 32 + m.len % 16 * 2 ^ 36 + 2 ^ 40
/-- Payload dword of the current message, 0 beyond it. -/
def messageDword (m : Option InMsg) (i : Nat) : Word :=
  match m with
  | none => 0
  | some m => if m.len ≤ i then 0 else m.data.getD i 0
/-- MBOX's operation on class or dword `sel`: what wd takes, and the inbox after it. -/
def mboxOp (op sel : Nat) (t : Tile) : Word × Tile :=
  match op with
  | 0 => (messageDword t.cmsg (sel % 8), t)
  | 1 => (BitVec.ofNat 64 (infoWord t.cmsg), t)
  | 2 => match (t.held sel).head? with
    | none => (0, t)
    | some m => (1, { t.takeHead sel with cmsg := some m })
  | 3 => (BitVec.ofNat 64 (t.held sel).length,
      if (t.cls sel).ranked && !(t.held sel).isEmpty then t.modCls sel (fun e => { e with latch := true }) else t)
  | 4 => (BitVec.ofNat 64 (t.countWord sel), t)
  | _ => (BitVec.ofNat 64 (t.countWord sel), t.modCls sel (fun e => { e with discards := 0 }))
/-- MBOX (R281). -/
def execMbox (d o : Fin 64) (sw : Bool) (s : State) : Host.Outcome State Fault Refusal :=
  issue (metaD 0x34 2 sw [wr o] [wr d]) (do
    let x ← readN o
    let op := bf x 4 4
    fieldOk o 0 (!(decide (op = 0 ∧ 8 ≤ x % 16)))
    fieldOk o 4 (decide (op < 6))
    zeroField o x 8 64
    let t ← getT
    let (v, t') := mboxOp op (x % 16) t
    modT (fun _ => t')
    writeX d v
    seqFlow) s

/-! ### Deques (R50, R51, R283); the oldest entry stands first -/

/-- A range word. -/
def rangeWord (r : Nat × Nat) : Nat := r.1 % 2 ^ 32 + r.2 % 2 ^ 32 * 2 ^ 32
/-- Removes the newest entry. -/
def popNewest (l : List (Nat × Nat)) : Option ((Nat × Nat) × List (Nat × Nat)) :=
  match l.getLast? with
  | none => none
  | some r => some (r, l.dropLast)
/-- The larger half of the oldest range, and what the victim keeps (R51). -/
def stealOldest : List (Nat × Nat) → Option ((Nat × Nat) × List (Nat × Nat))
  | [] => none
  | (lo, hi) :: r =>
    let half := (hi - lo + 1) / 2
    if hi - lo ≤ 1 then some ((lo, hi), r) else some ((lo, lo + half), (lo + half, hi) :: r)
/-- DPUSH (R283). -/
def execDpush (d r : Fin 64) (sw : Bool) (s : State) : Host.Outcome State Fault Refusal :=
  issue (metaD 0x36 0 sw [wr r] [wr d]) (do
    let x ← readN r
    let lo := bf x 0 32
    let hi := bf x 32 32
    let t ← getT
    if hi ≤ lo then do
      writeN d 1
      seqFlow
    else if 32 ≤ t.deque.length then do
      writeN d 0
      seqFlow
    else do
      modT (fun t => { t with deque := t.deque ++ [(lo, hi)] })
      writeN d 1
      seqFlow) s
/-- DPOP (R283). -/
def execDpop (d : Fin 64) (sw : Bool) (s : State) : Host.Outcome State Fault Refusal :=
  issue (metaD 0x36 1 sw [] [wr d]) (do
    let t ← getT
    match popNewest t.deque with
    | none => do
      writeN d 0
      seqFlow
    | some (r, l) => do
      modT (fun t => { t with deque := l })
      writeN d (rangeWord r)
      seqFlow) s
/-- DSPLIT's effect on a deque, if the newest entry can be halved (R283). -/
def splitNewest (l : List (Nat × Nat)) : Option (List (Nat × Nat)) :=
  match popNewest l with
  | none => none
  | some ((lo, hi), r) =>
    let half := (hi - lo + 1) / 2
    if hi - lo < 2 ∨ 32 ≤ l.length then none else some (r ++ [(lo + half, hi), (lo, lo + half)])
/-- DSPLIT (R283). -/
def execDsplit (d : Fin 64) (sw : Bool) (s : State) : Host.Outcome State Fault Refusal :=
  issue (metaD 0x36 2 sw [] [wr d]) (do
    let t ← getT
    match splitNewest t.deque with
    | none => do
      writeN d 0
      seqFlow
    | some l => do
      modT (fun t => { t with deque := l })
      writeN d 1
      seqFlow) s
/-- The cores that a steal visits, in order (R51): the other tasks of the instance, cyclically from the thief's global
rank + 1; a core whose task has exited holds no range of the grid (R362), nor one whose task has been recorded (R55). -/
def State.victims (s : State) (scope : Scope) : List Nat :=
  match (s.tile s.cur).task, s.gridOf s.cur with
  | some r, some g =>
    let me := grankOf g r
    let ranks := instRanks g scope (instOf g scope r)
    let order := ranks.filter (fun x => decide (me < x)) ++ ranks.filter (fun x => decide (x < me))
    ((order.filter (fun x => !g.exited.contains x)).map (coreOfRank g)).filter (fun k => !s.recorded k)
  | _, _ => []
/-- The first range that the victims give. -/
def stealFrom : List Nat → State → Option ((Nat × Nat) × State)
  | [], _ => none
  | k :: l, s =>
    match stealOldest (s.tile k).deque with
    | none => stealFrom l s
    | some (r, d) => some (r, s.modTile k (fun t => { t with deque := d }))
/-- DSTEAL (R51, R283). -/
def execDsteal (d : Fin 64) (scope : Scope) (sw : Bool) (s : State) : Host.Outcome State Fault Refusal :=
  issue (metaD 0x36 3 sw [] [wr d]) (do
    let s ← get
    match stealFrom (s.victims scope) s with
    | none => do
      writeN d 0
      seqFlow
    | some (r, s') => do
      set s'
      writeN d (rangeWord r)
      seqFlow) s

end Sys2Proof.Machine
end

