-- ==== Sys2Proof/Machine/Tensor.lean ====
section
/-! DEFINITION. The tensor, sieve, attention and sparse instructions (R253 to R274, R376). An engine instruction makes its
checks and its waits at issue, spends its slots and joins the engine's queue; its effect is that of `State.engineStep`
when it retires. Every engine instruction first has the earlier ones retire (R254). -/

namespace Sys2Proof.Machine

/-- An accumulator, slot or lane instruction of format T: deferred class, after the engine's earlier work. -/
def metaT (maj minor kinds : Nat) (sw : Bool) (i : Instr) (reads writes : List (File × Nat)) : Meta :=
  { metaD maj minor sw reads writes with kinds := kinds, engine := true, bits := bitsOf i }
/-- Tile kinds that hold an accumulator (R253). -/
def accKinds : Nat := 7
/-- Tile kinds that run MMA (R253). -/
def mmaKinds : Nat := 5
/-- The engine's queue retires before the instruction completes: its effect is complete at once (R254). -/
def engineNow : Op Unit := modify (fun s => s.engineDrain s.cur)

/-! ### Rings and slots (R258 to R260) -/

/-- QCFG's slots, old and new, in ascending order. -/
def qcfgSlots (old : Ring) (first len : Nat) : List Nat :=
  (List.range 256).filter (fun i =>
    decide (old.first ≤ i ∧ i < old.first + old.len) || decide (first ≤ i ∧ i < first + len))
/-- QCFG's effect (R258). -/
def qcfgTile (t : Tile) (q : Fin 16) (slen stride base len first : Nat) : Tile :=
  let old := t.ring q
  let clear := fun (t : Tile) (i : Nat) =>
    if old.first ≤ i ∧ i < old.first + old.len then t.modSlot i (fun x => { x with state := .empty, ring := none }) else t
  let fill := fun (t : Tile) (j : Nat) => t.modSlot (first + j) (fun _ => ⟨.empty, some q, 64 * (base + j * stride), 64 * slen⟩)
  let t := (List.range 256).foldl clear t
  let t := (List.range len).foldl fill t
  t.modRing q (fun _ => if len = 0 then Ring.reset else ⟨first, len, first, first, 0⟩)
/-- QCFG (R258). -/
def execQcfg (q : Fin 16) (w : Fin 64) (sw : Bool) (s : State) : Host.Outcome State Fault Refusal :=
  issue (metaT 0x2A 0 15 sw (.qcfg q w sw) [wr w] []) (do
    let x ← readN w
    let t ← getT
    let first := bf x 0 8
    let len := bf x 8 9
    let base := bf x 17 13
    let stride := bf x 30 13
    let slen := bf x 43 13
    match (qcfgSlots (t.ring q) first len).find? (fun i => decide ((t.slot i).state = .filling ∨ (t.slot i).state = .draining)) with
    | some i => trap 0x18 .none 0 (i * 2 ^ 16 + (if (t.slot i).state = .filling then 1 else 3) * 2 ^ 24)
    | none => pure ()
    let others := (List.range 16).filter (fun r => decide (r ≠ q.val ∧ (t.ring r).len ≠ 0))
    require (decide (len = 0) || others.all (fun r =>
      decide (first + len ≤ (t.ring r).first ∨ (t.ring r).first + (t.ring r).len ≤ first))) (ringTrap q 4)
    require (decide (len = 0) || decide (64 * (base + (len - 1) * stride + slen) ≤ Config.scratchBytes)) (ringTrap q 5)
    fieldOk w 8 (decide (len ≤ 256) && (decide (len = 0) || decide (first + len ≤ 256)))
    fieldOk w 30 (decide (len < 2 ∨ slen ≤ stride))
    fieldOk w 43 (decide (len = 0) || decide (1 ≤ slen ∧ slen ≤ 6144))
    zeroField w x 56 64
    modT (fun t => qcfgTile t q slen stride base len first)
    seqFlow) s
/-- Consecutive READY slots from HEAD. -/
def Tile.nready (t : Tile) (r : Ring) : Nat :=
  ((List.range r.count).takeWhile (fun i => decide ((t.slot (r.nth i)).state = .ready))).length
/-- QSTAT (R259). -/
def execQstat (q : Fin 16) (w : Fin 64) (sw : Bool) (s : State) : Host.Outcome State Fault Refusal :=
  issue { metaT 0x2A 1 15 sw (.qstat q w sw) [] [wr w] with engine := false } (do
    let t ← getT
    let r := t.ring q
    writeN w (t.nready r * 2 ^ 42 + r.count * 2 ^ 33 + r.tail * 2 ^ 25 + r.head * 2 ^ 17 + r.len * 2 ^ 8 + r.first)
    seqFlow) s
/-- TWAIT (R260). -/
def execTwait (q : Fin 16) (w : Fin 64) (sw : Bool) (s : State) : Host.Outcome State Fault Refusal :=
  issue (metaT 0x2A 2 15 sw (.twait q w sw) [wr w] []) (do
    let x ← readN w
    let r ← ringUsed q
    let n := x % 2 ^ 9
    fieldOk w 0 (decide (n ≤ r.len))
    zeroField w x 9 64
    let t ← getT
    if (List.range n).all (fun i => decide ((t.slot (r.nth i)).state = .ready)) then seqFlow else waitFor .slots) s
/-- STATE code of a slot (R259). -/
def SlotState.code : SlotState → Nat
  | .empty => 0 | .filling => 1 | .ready => 2 | .draining => 3
/-- TSTATE's word (R259). -/
def slotWord (x : Slot) : Nat :=
  x.len / 64 * 2 ^ 21 + x.off / 64 * 2 ^ 8 + (match x.ring with | none => 0 | some r => 2 ^ 6 + r.val * 4) + x.state.code
/-- TSTATE (R259). -/
def execTstate (t : Fin 256) (w : Fin 64) (sw : Bool) (s : State) : Host.Outcome State Fault Refusal :=
  issue { metaT 0x2A 3 15 sw (.tstate t w sw) [] [wr w] with engine := false } (do
    let x ← getT
    writeN w (slotWord (x.slot t))
    seqFlow) s

/-! ### Accumulator set-up (R261, R262) -/

/-- ACFG (R261). -/
def execAcfg (n : Fin 8) (w : Fin 64) (sw : Bool) (s : State) : Host.Outcome State Fault Refusal :=
  issue (metaT 0x2A 4 accKinds sw (.acfg n w sw) [wr w] []) (do
    let m ← readX w
    let x := m.toNat
    let t ← getT
    let old := (t.accOf n).mode
    let kept := decide (modeOf m = 2 ∧ modeOf old = 2)
    fieldOk w 0 (decide (modeOf m ≠ 3))
    zeroField w x 2 16
    fieldOk w 19 (decide (sieveFmt m ≠ 3))
    fieldOk w 21 (decide (bf x 21 3 ≤ 4) && !(kept && decide (bf x 21 3 ≠ bf old.toNat 21 3)))
    fieldOk w 24 (decide (sieveDepth m ≤ 256 / sieveLists m) && !(kept && decide (sieveDepth m < sieveDepth old)))
    issueEngine (.acfg n m)
    engineNow
    seqFlow) s
/-- AZERO (R262). -/
def execAzero (n : Fin 8) (sw : Bool) (s : State) : Host.Outcome State Fault Refusal :=
  issue (metaT 0x2A 5 accKinds sw (.azero n sw) [] []) (do
    issueEngine (.azero n)
    engineNow
    seqFlow) s
/-- AMOV (R262). -/
def execAmov (n m : Fin 8) (sw : Bool) (s : State) : Host.Outcome State Fault Refusal :=
  issue (metaT 0x2A 6 accKinds sw (.amov n m sw) [] []) (do
    spend 1
    issueEngine (.amov n m)
    seqFlow) s

/-! ### MMA and ROWSUM (R263, R266) -/

/-- The head slots of an MMA's operands, with the ring checks of R376: the slots of A and B. -/
def mmaSlots (a b : Fin 16) (wa wb : Nat) : Op (Nat × Nat) := do
  let ra ← ringUsed a
  let rb ← ringUsed b
  let sa := ra.head
  let sb := if a = b then ra.after ra.head else rb.head
  slotHolds a sa (winBytes wa 512)
  slotHolds b sb (winBytes wb 512)
  require (!(decide (a = b) && decide (ra.len = 1))) (ringTrap a 3)
  pure (sa, sb)
/-- The scale planes of an MMA's operands lie in the scratchpad. -/
def mmaScales (reg sa sb wa wb : Nat) : Op Unit := do
  let t ← getT
  scalesOk reg wa (t.slot sa).off 512
  scalesOk reg wb (t.slot sb).off 512
/-- Both operand slots are READY and sound. -/
def mmaReady (sa sb wa wb : Nat) : Op Unit := do
  slotReady sa
  slotReady sb
  slotSound sa wa 512
  slotSound sb wb 512
/-- MMA (R263). -/
def execMma (n : Fin 8) (a b : Fin 16) (w : Fin 64) (c : Bool) (sw : Bool) (s : State) : Host.Outcome State Fault Refusal :=
  issue (metaT 0x28 0 mmaKinds sw (.mma n a b w c sw) [wr w] []) (do
    let x ← readN w
    let wa := x % 16
    let wb := x / 16 % 16
    let (sa, sb) ← mmaSlots a b wa wb
    accMode n (· ≠ 2)
    windowsOk w n [wa, wb]
    mmaScales w sa sb wa wb
    mmaReady sa sb wa wb
    spend (max (winSlots wa) (winSlots wb))
    let rm ← sampleRm
    issueEngine (.mma n sa sb wa wb c rm)
    seqFlow) s
/-- ROWSUM (R266). -/
def execRowsum (n : Fin 8) (a : Fin 16) (w : Fin 64) (o k : Bool) (sw : Bool) (s : State) : Host.Outcome State Fault Refusal :=
  issue (metaT 0x2B 0 mmaKinds sw (.rowsum n a w o k sw) [wr w] []) (do
    let x ← readN w
    let win := bf x 32 4
    let r ← ringUsed a
    slotHolds a r.head (winBytes win 512)
    accMode n (· ≠ 2)
    windowsOk w n [win]
    let t ← getT
    scalesOk w win (t.slot r.head).off 512
    zeroField w x 36 64
    slotReady r.head
    slotSound r.head win 512
    spend 1
    let rm ← sampleRm
    issueEngine (.rowsum n r.head win (x % 2 ^ 32) o k rm)
    seqFlow) s

/-! ### BMM (R264, R265) -/

/-- A progress word. -/
structure Progress where
  j0 : Nat
  rowHi : Nat
  rowLo : Nat
  ks : Nat
  deriving DecidableEq, Repr
/-- The fields of a progress word. -/
def Progress.of (x : Nat) : Progress := ⟨bf x 32 16, bf x 24 8, bf x 16 8, bf x 0 16⟩
/-- The word of a progress. -/
def Progress.word (p : Progress) : Nat := p.ks % 2 ^ 16 + p.rowLo % 2 ^ 8 * 2 ^ 16 + p.rowHi % 2 ^ 8 * 2 ^ 24 + p.j0 * 2 ^ 32
/-- Elements `k0` to `k0 + n − 1` of a row of a slice, each checked against wp and then read: bits and scale byte. -/
def sliceLine (reg : Nat) (c : Reg) (m : Slice) (r k0 n : Nat) : Op (List (Nat × Nat)) := do
  let base := m.row r
  (List.range n).mapM (fun i => do
    let e := k0 + i
    let a := addrAdd base ((elemOff m.win e : Nat) : Int)
    let size := elemBytes m.win
    checkCap reg 0 c a size (Perm.load + Perm.engine) 1 .engineRead
    let b ← engineRead reg a size
    let bits := if m.win = 8 then (if e % 2 = 0 then leNat b % 16 else leNat b / 16) else leNat b
    match windowAt a size with
    | some (_, off) =>
      if isMx m.win then do
        let t ← getT
        let k ← me
        let so := scaleOff (t.soff m.win) m.win off 0
        require (decide (so < Config.scratchBytes)) (trap 0x1B .none (Config.localBase + so) (reg + m.win * 2 ^ 16))
        engineConsume (scratchAt k so) 1 (Config.localBase + so)
        let s ← get
        pure (bits, s.readNat (scratchAt k so) 1)
      else pure (bits, 127)
    | none => pure (bits, 127))
/-- The operand checks of BMM that its maps and its progress word decide (R376). -/
def bmmChecks (n : Fin 8) (w : Fin 64) (x : Nat) (a b : Slice) : Op Unit := do
  let kk := a.extent 0
  let m := a.extent 1
  fieldOk 0 64 (decide (kk = b.extent 0 ∧ kk < 2 ^ 21))
  fieldOk 0 96 (decide (n.val + ceilDiv m 16 ≤ 8))
  let p := Progress.of x
  let reg := w.val + 1
  fieldOk reg 0 (decide (p.rowHi = 0 ∨ kk = 0 ∨ 32 * p.ks < kk))
  fieldOk reg 24 (decide (p.rowHi = 0) || decide (p.rowLo < p.rowHi ∧ p.rowHi - p.rowLo ≤ 16))
  zeroField reg x 48 64
  let mx := fun (y : Slice) =>
    require (!isMx y.win || (windowAt y.origin 1).isSome) (trap 0x1B .none 0 (y.win * 2 ^ 16 + 2 ^ 20))
  mx a
  mx b
  let used := (List.range (ceilDiv m 16)).map (· + n.val)
  used.forM (fun i => accMode i (· ≠ 2))
  (n.val :: used).forM (fun i => windowsOk 0 i [a.win, b.win])
/-- Rows of A that are live (R264): all of them, or as many as the arrival counter says, read through wp + 2. -/
def bmmLive (ragged : Bool) (w : Fin 64) (m : Nat) : Op Nat := do
  if ragged then do
    let c ← readW (w.val + 2)
    let (b, _) ← load (w.val + 2) 0 c c.addr 4 Perm.load 4 .load
    pure (min m (leNat b))
  else pure m
/-- One step of an open row group: 32 terms, or the effect of CLEAR for K = 0. -/
def bmmStep (n : Fin 8) (w : Fin 64) (a b : Slice) (p : Progress) (nc : Nat) (clear : Bool) : Op Unit := do
  let kk := a.extent 0
  let rows := (List.range (p.rowHi - p.rowLo)).map (· + p.rowLo)
  let cols := (List.range nc).map (· + p.j0)
  let rm ← sampleRm
  if kk = 0 then
    if clear then issueEngine (.bmmStep n p.rowLo a.win b.win (rows.map (fun _ => [])) (cols.map (fun _ => [])) true rm)
    else pure ()
  else do
    let c ← readW w
    let k0 := 32 * p.ks
    let terms := min 32 (kk - k0)
    let as ← rows.mapM (fun r => sliceLine w c a r k0 terms)
    let bs ← cols.mapM (fun r => sliceLine w c b r k0 terms)
    spend (max (winSlots a.win) (winSlots b.win))
    issueEngine (.bmmStep n p.rowLo a.win b.win as bs (clear && decide (p.ks = 0)) rm)
/-- The progress after a step (R264). -/
def Progress.next (p : Progress) (kk : Nat) : Progress :=
  if kk = 0 ∨ kk ≤ 32 * (p.ks + 1) then ⟨p.j0, 0, p.rowHi, 0⟩ else ⟨p.j0, p.rowHi, p.rowLo, p.ks + 1⟩
/-- BMM and BMM.R: one step of the machine is one turn of the loop of R264. -/
def bmmOp (ragged : Bool) (i : Instr) (n : Fin 8) (a b : Fin 32) (w : Fin 64) (clear sw : Bool) (s : State) :
    Host.Outcome State Fault Refusal :=
  issue { metaT 0x29 0 mmaKinds sw i ([wr w, (.w, w.val + 1)] ++ (if ragged then [(.w, w.val + 2)] else [])) [(.w, w.val + 1)] with
          mustS := true } (do
    accMode n (· ≠ 2)
    require (decide (w.val ≤ if ragged then 61 else 62)) (limitField w 22)
    let ma ← readMap a
    let mb ← readMap b
    let x ← readN (w.val + 1)
    bmmChecks n w x ma mb
    let p := Progress.of x
    let kk := ma.extent 0
    let nc := min 16 (mb.extent 1 - p.j0)
    let open' ← (if p.rowHi = 0 then do
        let live ← bmmLive ragged w (ma.extent 1)
        pure (if live ≤ p.rowLo ∨ nc = 0 then none
          else some { p with rowHi := min live (16 * (p.rowLo / 16 + 1)), ks := 0 })
      else pure (some p))
    match open' with
    | none => seqFlow
    | some p => do
      bmmStep n w ma mb p nc clear
      writeN (w.val + 1) (p.next kk).word
      modT (fun t => { t with rep := some (0, false) })
      pure .again) s
/-- BMM (R264). -/
def execBmm (n : Fin 8) (a b : Fin 32) (w : Fin 64) (c : Bool) (sw : Bool) (s : State) : Host.Outcome State Fault Refusal :=
  bmmOp false (.bmm n a b w c sw) n a b w c sw s
/-- BMM.R (R264). -/
def execBmmR (n : Fin 8) (a b : Fin 32) (w : Fin 64) (c : Bool) (sw : Bool) (s : State) : Host.Outcome State Fault Refusal :=
  bmmOp true (.bmmR n a b w c sw) n a b w c sw s

/-! ### Drains (R267 to R269) -/

/-- The checks of DRAIN and DRAINR that a window number decides, in the order of R376: the tail slot. -/
def drainChecks (n : Fin 8) (q : Fin 16) (w : Fin 64) (win : Nat) (mxOk : Bool) : Op Nat := do
  let r ← ringUsed q
  slotHolds q r.tail (winBytes win 256)
  let t ← getT
  scalesOk w win (t.slot r.tail).off 256
  accMode n (· ≠ 2)
  require (decide (win ≠ 0) && (mxOk || !isMx win)) (windowTrap w win)
  require (decide (win ≠ 12) || t.ordered) (trap 0x1C .none 0 (12 * 2 ^ 16))
  pure r.tail
/-- The tail slot is taken and the drain joins the engine (R267). -/
def drainIssue (q : Fin 16) (slot : Nat) (op : EngOp) : Op Unit := do
  slotEmpty slot
  spend 1
  modT (fun t => t.fillTail q)
  issueEngine op
/-- DRAIN (R267). -/
def execDrain (n : Fin 8) (q : Fin 16) (rm : Rm) (t : Bool) (w : Fin 64) (z : Bool) (sw : Bool) (s : State) :
    Host.Outcome State Fault Refusal :=
  issue (metaT 0x2C 0 accKinds sw (.drain n q rm t w z sw) [wr w] []) (do
    let x ← readN w
    let slot ← drainChecks n q w (x % 16) true
    zeroField w x 4 64
    drainIssue q slot (.drain n slot (x % 16) rm t z)
    seqFlow) s
/-- DRAINQ (R268), its checks in the order that R376 lists. -/
def execDrainq (n : Fin 8) (q : Fin 16) (w : Fin 64) (z : Bool) (sw : Bool) (s : State) : Host.Outcome State Fault Refusal :=
  issue (metaT 0x2C 1 accKinds sw (.drainq n q w z sw) [wr w] []) (do
    let c ← readW w
    let r ← ringUsed q
    accMode n (· = 1)
    checkCap w 0 c c.addr 256 Perm.load 64 .load
    let off ← inWindow w c.addr 256 .load
    let k ← me
    engineConsume (scratchAt k off) 256 c.addr
    let s ← get
    let b := s.readAt (scratchAt k off) 256
    let ctl := blockNat b 193 1
    let shift := blockNat b 192 1
    let win := ctl % 16
    fieldOk w 1536 (decide (shift ≤ 63))
    require (winInt win) (windowTrap w win)
    fieldOk w 1549 (decide (ctl / 32 = 0))
    fieldOk w 1552 (decide (blockNat b 194 2 = 0))
    fieldOk w 1600 (decide (blockNat b 200 56 = 0))
    slotHolds q r.tail (winBytes win 256)
    let corr := (List.range 16).map (fun i => sext (blockNat b (8 * i) 8) 64)
    let mult := (List.range 16).map (fun i => sext (blockNat b (128 + 4 * i) 4) 32)
    drainIssue q r.tail (.drainq n r.tail win corr mult (decide (ctl / 16 % 2 = 1)) shift (sext (blockNat b 196 4) 32) z)
    seqFlow) s
/-- DRAINR (R269): the drain into the local slot, and the transfer that follows it. -/
def execDrainr (n : Fin 8) (q : Fin 16) (rm : Rm) (t : Bool) (w : Fin 64) (z : Bool) (sw : Bool) (s : State) :
    Host.Outcome State Fault Refusal :=
  issue (metaT 0x2C 2 accKinds sw (.drainr n q rm t w z sw) [wr w] []) (do
    let x ← readN w
    let win := bf x 36 4
    let slot ← drainChecks n q w win false
    let dest ← destCore w 0 (x % 2 ^ 32)
    zeroField w x 41 64
    drainIssue q slot (.drain n slot win rm t z)
    let k ← me
    let u ← getT
    let id ← xferId
    let len := winBytes win 256
    let f : Xfer :=
      { pc := u.pc.addr, maj := 0x2C, minor := 2, elems := [⟨0, .scratch k (u.slot slot).off, .remoteSlot 0, len⟩],
        slot := some slot, fill := false, remote := some (dest, some (bf x 32 4)), remoteSlot := none, bytes := len, localCtr := none,
        remoteCtr := none, wake := if bf x 40 1 = 1 then some dest else none, job := u.job, stopped := none, interval := 0,
        grants := [], ordered := false, destName := x % 2 ^ 32, id := id }
    modT (fun t => { t with xfers := t.xfers ++ [f] })
    seqFlow) s

/-! ### Sieves (R270, R271) -/

/-- List j is below L (R376). -/
def listOk (n j : Nat) : Op Unit := do
  let t ← getT
  require (decide (j < sieveLists (t.accOf n).mode)) (limitField 0 12)
/-- SPUSH (R270). -/
def execSpush (n : Fin 8) (j : Fin 16) (w : Fin 64) (sw : Bool) (s : State) : Host.Outcome State Fault Refusal :=
  issue (metaT 0x2D 0 accKinds sw (.spush n j w sw) [wr w] []) (do
    let x ← readN w
    accMode n (· = 2)
    listOk n j
    let t ← getT
    let m := (t.accOf n).mode
    spend 1
    issueEngine (.spush n j (widenKey (sieveFmt m) (x % 2 ^ 32)) (sieveBase m + bf x 32 32))
    seqFlow) s
/-- SMMA (R271): skipped, it spends no slots. -/
def execSmma (n : Fin 8) (a b : Fin 16) (w : Fin 64) (sw : Bool) (s : State) : Host.Outcome State Fault Refusal :=
  issue (metaT 0x2D 1 mmaKinds sw (.smma n a b w sw) [wr w] []) (do
    let x ← readN w
    let wa := x % 16
    let wb := x / 16 % 16
    let (sa, sb) ← mmaSlots a b wa wb
    match [wa, wb].find? (fun v => decide (v = 0 ∨ v = 15)) with
    | some v => windowTrap w v
    | none => pure ()
    mmaScales w sa sb wa wb
    accMode n (· = 2)
    let t ← getT
    if smmaSkips (t.accOf n) (bf x 32 32) then do
      slotReady sa
      slotReady sb
    else do
      mmaReady sa sb wa wb
      spend (max (winSlots wa) (winSlots wb))
    issueEngine (.smma n sa sb wa wb (bf x 32 32))
    seqFlow) s
/-- SPEG (R270). -/
def execSpeg (n : Fin 8) (j : Fin 16) (w : Fin 64) (sw : Bool) (s : State) : Host.Outcome State Fault Refusal :=
  issue (metaT 0x2D 2 accKinds sw (.speg n j w sw) [] [wr w]) (do
    accMode n (· = 2)
    listOk n j
    let t ← getT
    let a := t.accOf n
    writeN w (a.peg j + (a.list j).length * 2 ^ 32)
    seqFlow) s
/-- SMERGE (R270). -/
def execSmerge (n : Fin 8) (src : MergeSrc) (sw : Bool) (s : State) : Host.Outcome State Fault Refusal :=
  issue (metaT 0x2D 3 accKinds sw (.smerge n src sw) [] []) (match src with
    | .acc m => do
      accMode n (· = 2)
      let t ← getT
      accMode m (fun x => decide (x = 2 ∧ sieveLists (t.accOf m).mode = sieveLists (t.accOf n).mode))
      spend 1
      issueEngine (.smergeAcc n m)
      seqFlow
    | .slot q => do
      let r ← ringUsed q
      slotHolds q r.head 4096
      accMode n (· = 2)
      slotReady r.head
      slotSound r.head 0 4096
      spend 1
      issueEngine (.smergeSlot n r.head)
      seqFlow) s
/-- SREAD (R270). -/
def execSread (n : Fin 8) (q : Fin 16) (sw : Bool) (s : State) : Host.Outcome State Fault Refusal :=
  issue (metaT 0x2D 4 accKinds sw (.sread n q sw) [] []) (do
    let r ← ringUsed q
    slotHolds q r.tail 4096
    accMode n (· = 2)
    drainIssue q r.tail (.sread n r.tail)
    seqFlow) s

/-! ### Attention (R272) -/

/-- An attention instruction: a FLOAT accumulator, one slot, and its lanes written before it completes. -/
def attnOp (m : Meta) (n : Fin 8) (op : Rm → EngOp) (s : State) : Host.Outcome State Fault Refusal :=
  issue m (do
    accMode n (· = 0)
    spend 1
    let rm ← sampleRm
    issueEngine (op rm)
    engineNow
    seqFlow) s
/-- SMAXR (R272). -/
def execSmaxr (n : Fin 8) (v : Fin 32) (sw : Bool) (s : State) : Host.Outcome State Fault Refusal :=
  attnOp (metaT 0x2E 0 4 sw (.smaxr n v sw) [vr v] [vr v]) n (fun _ => .smaxr n v) s
/-- EXPT (R272). -/
def execExpt (n : Fin 8) (v : Fin 32) (sw : Bool) (s : State) : Host.Outcome State Fault Refusal :=
  attnOp (metaT 0x2E 1 4 sw (.expt n v sw) [vr v] [vr v]) n (fun rm => .expt n v rm) s
/-- RESCALE (R272). -/
def execRescale (n : Fin 8) (l : Bool) (v : Fin 32) (sw : Bool) (s : State) : Host.Outcome State Fault Refusal :=
  attnOp (metaT 0x2E 2 4 sw (.rescale n l v sw) [vr v] [vr v]) n (fun rm => .rescale n v l rm) s
/-- ROWDIV (R272). -/
def execRowdiv (n : Fin 8) (v : Fin 32) (sw : Bool) (s : State) : Host.Outcome State Fault Refusal :=
  attnOp (metaT 0x2E 3 4 sw (.rowdiv n v sw) [vr v] []) n (fun rm => .rowdiv n v rm) s

/-! ### LSPMM (R273) -/

/-- CFMT is of the class of B's window and of the accumulator's mode (R263, R376). -/
def lspmmClass (mode : Word) (wb cfmt : Nat) : Bool := windowOk mode wb && windowOk mode cfmt
/-- The present elements of a window of the region, as row, column and bits, and the range check of R397. -/
def lspmmCells (row0 k0 : Nat) : Lat (List (Nat × Nat × Nat)) := do
  let r ← region
  checkBox [k0, row0, 0, 0] [32, 16, 0, 0]
  let cells ← (List.range 16).mapM (fun i =>
    (List.range 32).mapM (fun k => do
      match ← lookup (r.keyOf (k0 + k) (row0 + i) 0 0) with
      | none => pure none
      | some j => do
        let b ← readCell j
        pure (some (i, k, (r.elems b).getD ((k0 + k) % r.lanes) 0))))
  pure (cells.flatten.filterMap id)
/-- LSPMM (R273): 1 slot at issue, and 1 that it owes for each further 64 present elements. -/
def execLspmm (n : Fin 8) (k b : Fin 16) (w : Fin 64) (sw : Bool) (s : State) : Host.Outcome State Fault Refusal :=
  issue (metaT 0x2F 0 2 sw (.lspmm n k b w sw) [wr w, (.w, w.val + 1)] []) (do
    let r ← ringUsed b
    slotHolds b r.head (winBytes k 512)
    let t ← getT
    scalesOk w k (t.slot r.head).off 512
    require (decide (w.val ≤ 62)) (limitField w 22)
    let x ← readN (w.val + 1)
    fieldOk (w.val + 1) 32 (decide (bf x 32 32 % 32 = 0))
    let c ← readW w
    checkCap w 0 c c.addr 128 (Perm.lattice + Perm.engine) 1 .engineRead
    let key ← regionKey 0 w c.addr .engineRead (needR + needEng)
    let cfmt ← coreLattice 0 w c.addr .engineRead key (do
      let g ← region
      if g.dims = 2 then pure g.cfmt else badRegion 5)
    let mode := (t.accOf n).mode
    require (lspmmClass mode k cfmt) (windowTrap w cfmt)
    let cells ← coreLattice 0 w c.addr .engineRead key (lspmmCells (x % 2 ^ 32) (bf x 32 32))
    slotReady r.head
    slotSound r.head k 512
    spend 1
    latticeDone
    let rm ← sampleRm
    issueEngine (.lspmm n r.head k cfmt cells rm (ceilDiv cells.length 64 - 1))
    seqFlow) s

end Sys2Proof.Machine
end

