-- ==== Sys2Proof/Machine/Vec.lean ====
section
/-! DEFINITION. Vector instructions (R62, R90 to R92, R239 to R252, R375). -/

namespace Sys2Proof.Machine

/-! ### Lanes (R239) -/

/-- A lane is active: below VL, and its governing bit is 1. -/
def Tile.active (t : Tile) (g i : Nat) : Bool := decide (i < t.vl) && (t.rp g).getLsbD i
/-- The active lanes, ascending. -/
def Tile.lanes (t : Tile) (g : Nat) : List Nat := (List.range 64).filter (t.active g)
/-- Sets sticky flags of VSTATUS (R72, R90). -/
def Tile.flag (t : Tile) (fl : Nat) : Tile := { t with vstatus := t.vstatus ||| BitVec.ofNat 64 fl }
/-- Flags of several lanes together. -/
def orFlags (l : List Nat) : Nat := l.foldl (· ||| ·) 0
/-- A vector instruction of format V: every one reads VL (R369). -/
def metaV (maj minor : Nat) (sw : Bool) (reads writes : List (File × Nat)) : Meta :=
  metaD maj minor sw (reads ++ [vlr]) writes
/-- Writes the active lanes of a register by a function of the lane, and its flags (R239). -/
def writeLanes (d g : Nat) (f : Nat → Lane × Nat) : Op Unit :=
  modT (fun t =>
    let fl := orFlags ((t.lanes g).map (fun i => (f i).2))
    ((t.setLanes d (fun i x => if t.active g i then (f i).1 else x)).flag fl))
/-- A lane-wise operation of two sources and the destination's prior value. -/
def laneOp (m : Meta) (d a b g : Nat) (f : Rm → Lane → Lane → Lane → Lane × Nat) (s : State) :
    Host.Outcome State Fault Refusal :=
  issue m (do
    let t ← getT
    writeLanes d g (fun i => f (rmOf t.fctl) (t.lane a i) (t.lane b i) (t.lane d i))
    seqFlow) s
/-- An integer lane function raises no flag (R239). -/
def plainLane (x : Lane) : Lane × Nat := (x, 0)
/-- By lane type. -/
def byType (ty : LaneTy) (f : Rm → Lane → Lane → Lane × Nat) (i : Lane → Lane → Lane) :
    Rm → Lane → Lane → Lane → Lane × Nat :=
  fun rm a b _ => match ty with | .f => f rm a b | .i => plainLane (i a b)

/-! ### Arithmetic (R242) -/

/-- Major 0x18 with two sources. -/
def v18 (minor : Nat) (d a b : Fin 32) (g : Fin 8) (sw : Bool) (f : Rm → Lane → Lane → Lane → Lane × Nat) (s : State) :
    Host.Outcome State Fault Refusal :=
  laneOp (metaV 0x18 minor sw [vr a, vr b, pr g] [vr d]) d a b g f s
/-- Signed minimum of lanes. -/
def iMin (a b : Lane) : Lane := if b.slt a then b else a
/-- Signed maximum of lanes. -/
def iMax (a b : Lane) : Lane := if a.slt b then b else a
/-- A value clamped to a signed lane. -/
def clampLane (x : Int) : Lane := BitVec.ofInt 32 (max (-(2 ^ 31 : Nat)) (min ((2 ^ 31 : Nat) - 1) x))

/-- VADD (R242). -/
def execVadd (ty : LaneTy) (d a b : Fin 32) (g : Fin 8) (sw : Bool) (s : State) : Host.Outcome State Fault Refusal :=
  v18 0 d a b g sw (byType ty fAdd (fun x y => x + y)) s
/-- VSUB (R242). -/
def execVsub (ty : LaneTy) (d a b : Fin 32) (g : Fin 8) (sw : Bool) (s : State) : Host.Outcome State Fault Refusal :=
  v18 1 d a b g sw (byType ty fSub (fun x y => x - y)) s
/-- VMUL (R242). -/
def execVmul (ty : LaneTy) (d a b : Fin 32) (g : Fin 8) (sw : Bool) (s : State) : Host.Outcome State Fault Refusal :=
  v18 2 d a b g sw (byType ty fMul (fun x y => x * y)) s
/-- VMIN (R242). -/
def execVmin (ty : LaneTy) (d a b : Fin 32) (g : Fin 8) (sw : Bool) (s : State) : Host.Outcome State Fault Refusal :=
  v18 3 d a b g sw (byType ty (fun _ => fMin) (fun x y => iMin x y)) s
/-- VMAX (R242). -/
def execVmax (ty : LaneTy) (d a b : Fin 32) (g : Fin 8) (sw : Bool) (s : State) : Host.Outcome State Fault Refusal :=
  v18 4 d a b g sw (byType ty (fun _ => fMax) (fun x y => iMax x y)) s
/-- VABS (R242): bit 31 cleared, or |a| mod 2^32. -/
def execVabs (ty : LaneTy) (d a : Fin 32) (g : Fin 8) (sw : Bool) (s : State) : Host.Outcome State Fault Refusal :=
  v18 5 d a a g sw (byType ty (fun _ x _ => plainLane (x &&& 0x7FFFFFFF)) (fun x _ => if x.msb then -x else x)) s
/-- VNEG (R242): bit 31 inverted, or −a mod 2^32. -/
def execVneg (ty : LaneTy) (d a : Fin 32) (g : Fin 8) (sw : Bool) (s : State) : Host.Outcome State Fault Refusal :=
  v18 6 d a a g sw (byType ty (fun _ x _ => plainLane (x ^^^ 0x80000000)) (fun x _ => -x)) s
/-- VAND (R242). -/
def execVand (d a b : Fin 32) (g : Fin 8) (sw : Bool) (s : State) : Host.Outcome State Fault Refusal :=
  v18 7 d a b g sw (fun _ x y _ => plainLane (x &&& y)) s
/-- VOR (R242). -/
def execVor (d a b : Fin 32) (g : Fin 8) (sw : Bool) (s : State) : Host.Outcome State Fault Refusal :=
  v18 8 d a b g sw (fun _ x y _ => plainLane (x ||| y)) s
/-- VXOR (R242). -/
def execVxor (d a b : Fin 32) (g : Fin 8) (sw : Bool) (s : State) : Host.Outcome State Fault Refusal :=
  v18 9 d a b g sw (fun _ x y _ => plainLane (x ^^^ y)) s
/-- VSHL (R242). -/
def execVshl (d a b : Fin 32) (g : Fin 8) (sw : Bool) (s : State) : Host.Outcome State Fault Refusal :=
  v18 10 d a b g sw (fun _ x y _ => plainLane (x <<< (y.toNat % 32))) s
/-- VSHR (R242). -/
def execVshr (d a b : Fin 32) (g : Fin 8) (sw : Bool) (s : State) : Host.Outcome State Fault Refusal :=
  v18 11 d a b g sw (fun _ x y _ => plainLane (x >>> (y.toNat % 32))) s
/-- VSHRA (R242). -/
def execVshra (d a b : Fin 32) (g : Fin 8) (sw : Bool) (s : State) : Host.Outcome State Fault Refusal :=
  v18 12 d a b g sw (fun _ x y _ => plainLane (x.sshiftRight (y.toNat % 32))) s
/-- VADDS (R242). -/
def execVadds (d a b : Fin 32) (g : Fin 8) (sw : Bool) (s : State) : Host.Outcome State Fault Refusal :=
  v18 13 d a b g sw (fun _ x y _ => plainLane (clampLane (x.toInt + y.toInt))) s
/-- VSUBS (R242). -/
def execVsubs (d a b : Fin 32) (g : Fin 8) (sw : Bool) (s : State) : Host.Outcome State Fault Refusal :=
  v18 14 d a b g sw (fun _ x y _ => plainLane (clampLane (x.toInt - y.toInt))) s
/-- Major 0x19: multiply-add into the destination (R242); the open NV of IEEE 754 is a free choice (log entry 7). -/
def fmaOp (minor : Nat) (minus : Bool) (ty : LaneTy) (d a b : Fin 32) (g : Fin 8) (sw : Bool) (s : State) : Host.Outcome State Fault Refusal :=
  issue (metaV 0x19 minor sw [vr d, vr a, vr b, pr g] [vr d]) (do
    let s ← get
    let (n, s') := s.fresh
    set s'
    let t ← getT
    writeLanes d g (fun i => match ty with
      | .f => fFma (rmOf t.fctl) minus (decide (Config.freeChoice n % 2 = 1)) (t.lane a i) (t.lane b i) (t.lane d i)
      | .i => plainLane (if minus then t.lane d i - t.lane a i * t.lane b i else t.lane d i + t.lane a i * t.lane b i))
    seqFlow) s
/-- VFMA (R242). -/
def execVfma (ty : LaneTy) (d a b : Fin 32) (g : Fin 8) (sw : Bool) (s : State) : Host.Outcome State Fault Refusal := fmaOp 0 false ty d a b g sw s
/-- VFNMA (R242). -/
def execVfnma (ty : LaneTy) (d a b : Fin 32) (g : Fin 8) (sw : Bool) (s : State) : Host.Outcome State Fault Refusal := fmaOp 1 true ty d a b g sw s

/-! ### Compare and select (R243) -/

/-- VCMP: bits of active lanes take the condition; NV for any NaN if `loud`, else for a signalling one. -/
def vcmpOp (minor : Nat) (loud : Bool) (ty : LaneTy) (p : Fin 8) (a b : Fin 32) (g : Fin 8) (sw : Bool)
    (f : Ext → Ext → Bool) (h : Lane → Lane → Bool) (s : State) : Host.Outcome State Fault Refusal :=
  issue (metaV 0x1A minor sw [vr a, vr b, pr g] [pr p]) (do
    let t ← getT
    let holds := fun (i : Nat) => match ty with
      | .f => f (lane (t.lane a i)) (lane (t.lane b i))
      | .i => h (t.lane a i) (t.lane b i)
    let flags := fun (i : Nat) => match ty with
      | .f => if loud && ((lane (t.lane a i)).isNan || (lane (t.lane b i)).isNan) then flNV
              else snanFlag [t.lane a i, t.lane b i]
      | .i => 0
    let old := t.rp p
    writeP p (BitVec.ofFnLE (fun (i : Fin 64) => if t.active g i.val then holds i.val else old.getLsbD i.val))
    modT (fun x => x.flag (orFlags ((t.lanes g).map flags)))
    seqFlow) s
/-- VCMP.EQ (R243). -/
def execVcmpEq (ty : LaneTy) (p : Fin 8) (a b : Fin 32) (g : Fin 8) (sw : Bool) (s : State) : Host.Outcome State Fault Refusal :=
  vcmpOp 0 false ty p a b g sw (fun x y => Ext.eqv x y) (fun x y => x == y) s
/-- VCMP.NE (R243). -/
def execVcmpNe (ty : LaneTy) (p : Fin 8) (a b : Fin 32) (g : Fin 8) (sw : Bool) (s : State) : Host.Outcome State Fault Refusal :=
  vcmpOp 1 false ty p a b g sw (fun x y => !Ext.eqv x y) (fun x y => x != y) s
/-- VCMP.LT (R243). -/
def execVcmpLt (ty : LaneTy) (p : Fin 8) (a b : Fin 32) (g : Fin 8) (sw : Bool) (s : State) : Host.Outcome State Fault Refusal :=
  vcmpOp 2 true ty p a b g sw (fun x y => Ext.lt x y) (fun x y => x.slt y) s
/-- VCMP.LE (R243). -/
def execVcmpLe (ty : LaneTy) (p : Fin 8) (a b : Fin 32) (g : Fin 8) (sw : Bool) (s : State) : Host.Outcome State Fault Refusal :=
  vcmpOp 3 true ty p a b g sw (fun x y => Ext.lt x y || Ext.eqv x y) (fun x y => !y.slt x) s
/-- VSEL (R243): a or b by the predicate for every lane below VL. -/
def execVsel (d a b : Fin 32) (k : Fin 8) (sw : Bool) (s : State) : Host.Outcome State Fault Refusal :=
  issue (metaV 0x1B 0 sw [vr a, vr b, pr k] [vr d]) (do
    let t ← getT
    writeLanes d 0 (fun i => plainLane (if (t.rp k).getLsbD i then t.lane a i else t.lane b i))
    seqFlow) s

/-! ### Conversions (R244) -/

/-- A decode of the low element bits of each active lane, rounded to binary32 by FCTL.RM. -/
def vdecode (m : Meta) (d a g w : Nat) (scale : Tile → Nat → Nat) (s : State) : Host.Outcome State Fault Refusal :=
  issue m (do
    let t ← getT
    let mask := 2 ^ (4 * winNibbles w)
    writeLanes d g (fun i => toLane (rmOf t.fctl) (valueOf t w ((t.lane a i).toNat % mask) (scale t i)))
    seqFlow) s
/-- VCVT, decode (R244). -/
def execVcvtDec (d a : Fin 32) (g : Fin 8) (w : Fin 16) (sw : Bool) (s : State) : Host.Outcome State Fault Refusal :=
  vdecode (metaV 0x1C 0 sw [vr a, pr g] [vr d]) d a g w (fun _ _ => 127) s
/-- VCVT, MX decode: scale bytes from vc (R244). -/
def execVcvtDecMx (d a c : Fin 32) (g : Fin 8) (w : Fin 16) (sw : Bool) (s : State) : Host.Outcome State Fault Refusal :=
  vdecode (metaV 0x1C 0 sw [vr a, vr c, pr g] [vr d]) d a g w (fun t i => (t.lane c i).toNat % 256) s
/-- Flags of an encode: NX, OF and NV (R90); NV for a signalling NaN whatever the format. -/
def encodeFlags (x : Lane) (fl : Nat) : Nat := (fl &&& (flNX ||| flOF ||| flNV)) ||| snanFlag [x]
/-- VCVT, encode (R244): through W12 it needs the ordered flag (R375). -/
def execVcvtEnc (d a : Fin 32) (t : Bool) (g : Fin 8) (w : Fin 16) (sw : Bool) (s : State) : Host.Outcome State Fault Refusal :=
  issue (metaV 0x1C 0 sw [vr a, pr g] [vr d]) (do
    let u ← getT
    require (u.ordered || decide (w.val ≠ 12) || (u.lanes g).isEmpty) (trap 0x1C .none 0 (12 * 2 ^ 16))
    writeLanes d g (fun i =>
      let x := u.lane a i
      let (b, fl) := encodeWin u.table w (rmOf u.fctl) t (lane x)
      (BitVec.ofNat 32 b, encodeFlags x fl))
    seqFlow) s
/-- VCVT, MX encode (R244): a block of the active lanes among lanes 0 to 31, and another among 32 to 63. -/
def execVcvtEncMx (d a c : Fin 32) (g : Fin 8) (w : Fin 16) (sw : Bool) (s : State) : Host.Outcome State Fault Refusal :=
  issue { metaV 0x1C 0 sw [vr a, pr g] [vr d, vr c] with clash := if d = c then some (vr d) else none } (do
    let u ← getT
    let block := fun (k : Nat) => (u.lanes g).filter (fun i => decide (i / 32 = k))
    let vals := fun (k : Nat) => (block k).map (fun i => lane (u.lane a i))
    let scales := (List.range 2).map (fun k => mxScale w (vals k))
    let codes := (List.range 2).flatMap (fun k =>
      (block k).zip (mxEncode u.table w (rmOf u.fctl) (scales.getD k 0) (vals k)))
    let code := fun (i : Nat) => (keyFind codes i).getD (0, 0)
    writeLanes d g (fun i => (BitVec.ofNat 32 (code i).1, encodeFlags (u.lane a i) (code i).2))
    writeLanes c g (fun i => plainLane (BitVec.ofNat 32 (scales.getD (i / 32) 0)))
    seqFlow) s

/-! ### Scratchpad access (R245, R246, R375) -/

/-- Checks every active lane, lowest first, before any lane is accessed (R241): `addr` gives a lane's address. Gives the
scratchpad key of each active lane. -/
def checkLanes (reg : Nat) (c : Reg) (perms n align : Nat) (ak : Access) (addr : Nat → Nat) : List Nat → Op (List (Nat × Nat))
  | [] => pure []
  | i :: r => do
    checkCap reg 0 c (addr i) n perms align ak i
    require (windowOf c.addr).isSome (noWindow reg c.addr ak i)
    match windowOf (addr i) with
    | none => noWindow reg (addr i) ak i
    | some (_, off) => do
      require (decide (off + n ≤ Config.scratchBytes)) (trap 0x0E ak (addr i) (reg + i * 2 ^ 24))
      let k ← me
      let rest ← checkLanes reg c perms n align ak addr r
      pure ((i, scratchAt k off) :: rest)
/-- Uncorrectable words among the bytes read (R387). -/
def consumeLanes (n : Nat) (addr : Nat → Nat) : List (Nat × Nat) → Op Unit
  | [] => pure ()
  | (i, key) :: r => do
    consume key n .load (addr i)
    consumeLanes n addr r
/-- Element bytes of ESZ: 1, 2, 4, or 1 for nibbles. -/
def eszBytes (e : Nat) : Nat := if e = 3 then 1 else 2 ^ e
/-- Address of lane `i` of a contiguous access. -/
def laneAddr (c : Reg) (e i : Nat) : Nat := addrAdd c.addr ((if e = 3 then i / 2 else i * eszBytes e : Nat) : Int)
/-- Major 0x1D: its meta (R201). -/
def metaVM (minor : Nat) (sw : Bool) (reads writes : List (File × Nat)) : Meta :=
  { metaV 0x1D minor sw reads writes with sync := true }
/-- Loads active lanes of `n` bytes from their keys. -/
def loadLanes (d g n : Nat) (nib : Bool) (keys : List (Nat × Nat)) : Op Unit := do
  let s ← get
  writeLanes d g (fun i =>
    let b := s.readNat ((keyFind keys i).getD 0) n
    plainLane (BitVec.ofNat 32 (if nib then (if i % 2 = 0 then b % 16 else b / 16) else b)))
/-- Stores one lane's element, a nibble keeping the other one of its byte. -/
def storeLane (n : Nat) (nib : Bool) (i key x : Nat) (s : State) : State :=
  if nib then
    let b := s.readNat key 1
    s.writeNat key 1 (if i % 2 = 0 then b / 16 * 16 + x % 16 else b % 16 + x % 16 * 16)
  else s.writeNat key n x
/-- Every lane's bytes may be stored to: no queued engine instruction stands before the store (R122), and no uncorrectable word is
written in part (R388). -/
def consumePartLanes (n : Nat) (addr : Nat → Nat) : List (Nat × Nat) → Op Unit
  | [] => pure ()
  | (i, key) :: r => do
    consumePart key n .store (addr i)
    noteStore key n
    consumePartLanes n addr r
/-- Stores active lanes in ascending order (R246). -/
def storeLanes (v n : Nat) (nib : Bool) (addr : Nat → Nat) (keys : List (Nat × Nat)) : Op Unit := do
  consumePartLanes n addr keys
  let t ← getT
  modify (fun s => keys.foldl (fun (s : State) p => storeLane n nib p.1 p.2 (t.lane v p.1).toNat s) s)
/-- VLD (R245). -/
def execVld (d : Fin 32) (b : Fin 64) (e : Fin 4) (g : Fin 8) (sw : Bool) (s : State) : Host.Outcome State Fault Refusal :=
  issue (metaVM 0 sw [wr b, pr g] [vr d]) (do
    let c ← readW b
    let t ← getT
    let keys ← checkLanes b c Perm.load (eszBytes e) (eszBytes e) .load (laneAddr c e) (t.lanes g)
    consumeLanes (eszBytes e) (laneAddr c e) keys
    loadLanes d g (eszBytes e) (decide (e.val = 3)) keys
    seqFlow) s
/-- VST (R245). -/
def execVst (d : Fin 32) (b : Fin 64) (e : Fin 4) (g : Fin 8) (sw : Bool) (s : State) : Host.Outcome State Fault Refusal :=
  issue (metaVM 1 sw [vr d, wr b, pr g] []) (do
    let c ← readW b
    let t ← getT
    let keys ← checkLanes b c Perm.store (eszBytes e) (eszBytes e) .store (laneAddr c e) (t.lanes g)
    storeLanes d (eszBytes e) (decide (e.val = 3)) (laneAddr c e) keys
    seqFlow) s
/-- Address of lane `i` of a gather or scatter. -/
def indexAddr (t : Tile) (c : Reg) (v i : Nat) : Nat := addrAdd c.addr ((4 * (t.lane v i).toNat : Nat) : Int)
/-- VGATHER (R245). -/
def execVgather (d : Fin 32) (b : Fin 64) (i : Fin 32) (g : Fin 8) (sw : Bool) (s : State) : Host.Outcome State Fault Refusal :=
  issue (metaVM 2 sw [wr b, vr i, pr g] [vr d]) (do
    let c ← readW b
    let t ← getT
    let keys ← checkLanes b c Perm.load 4 4 .load (indexAddr t c i) (t.lanes g)
    consumeLanes 4 (indexAddr t c i) keys
    loadLanes d g 4 false keys
    seqFlow) s
/-- VSCATTER (R245, R246). -/
def execVscatter (d : Fin 32) (b : Fin 64) (i : Fin 32) (g : Fin 8) (sw : Bool) (s : State) : Host.Outcome State Fault Refusal :=
  issue (metaVM 3 sw [vr d, wr b, vr i, pr g] []) (do
    let c ← readW b
    let t ← getT
    let keys ← checkLanes b c Perm.store 4 4 .store (indexAddr t c i) (t.lanes g)
    storeLanes d 4 false (indexAddr t c i) keys
    seqFlow) s

/-! ### Moving lanes (R247, R251) -/

/-- VSHUF (R247). -/
def execVshuf (d a b : Fin 32) (g : Fin 8) (sw : Bool) (s : State) : Host.Outcome State Fault Refusal :=
  issue (metaV 0x1E 0 sw [vr a, vr b, pr g] [vr d]) (do
    let t ← getT
    writeLanes d g (fun i => plainLane (t.lane a ((t.lane b i).toNat % 64)))
    seqFlow) s
/-- VBCAST (R247). -/
def execVbcast (d a : Fin 32) (lane : Fin 64) (g : Fin 8) (sw : Bool) (s : State) : Host.Outcome State Fault Refusal :=
  issue (metaV 0x1E 1 sw [vr a, pr g] [vr d]) (do
    let t ← getT
    writeLanes d g (fun _ => plainLane (t.lane a lane))
    seqFlow) s
/-- VSETVL (R247). -/
def execVsetvl (d a : Fin 64) (sw : Bool) (s : State) : Host.Outcome State Fault Refusal :=
  issue (metaV 0x1F 0 sw [wr a] [wr d, vlr]) (do
    let x ← readN a
    modT (fun t => { t with vl := min x 64 })
    writeN d (min x 64)
    seqFlow) s
/-- VSPLAT (R247): every lane below VL. -/
def execVsplat (d : Fin 32) (a : Fin 64) (sw : Bool) (s : State) : Host.Outcome State Fault Refusal :=
  issue (metaV 0x1F 1 sw [wr a] [vr d]) (do
    let x ← readX a
    writeLanes d 0 (fun _ => plainLane (x.setWidth 32))
    seqFlow) s
/-- VEXTR (R247). -/
def execVextr (d : Fin 64) (a : Fin 32) (b : Fin 64) (sw : Bool) (s : State) : Host.Outcome State Fault Refusal :=
  issue (metaV 0x1F 2 sw [vr a, wr b] [wr d]) (do
    let x ← readN b
    let t ← getT
    writeN d (t.lane a (x % 64)).toNat
    seqFlow) s
/-- VCOMPRESS (R251): active lanes to the bottom, then VL. -/
def execVcompress (d a : Fin 32) (g : Fin 8) (sw : Bool) (s : State) : Host.Outcome State Fault Refusal :=
  issue (metaV 0x23 0 sw [vr a, pr g] [vr d, vlr]) (do
    modT (fun t =>
      let l := t.lanes g
      { t.setLanes d (fun i x => match l[i]? with | some j => t.lane a j | none => x) with vl := l.length })
    seqFlow) s
/-- VEXPAND (R251): low lanes to the active positions. -/
def execVexpand (d a : Fin 32) (g : Fin 8) (sw : Bool) (s : State) : Host.Outcome State Fault Refusal :=
  issue (metaV 0x23 1 sw [vr a, pr g] [vr d]) (do
    let t ← getT
    writeLanes d g (fun i => plainLane (t.lane a ((t.lanes g).countP (· < i))))
    seqFlow) s

/-! ### Reductions and scans (R92, R248) -/

/-- An operation of VRED and VSCAN, with its identity. -/
structure RedOp where
  ident : Lane
  op : Rm → Lane → Lane → Lane × Nat
/-- Add, by lane type. -/
def redAdd : LaneTy → RedOp
  | .f => ⟨0x80000000, fAdd⟩
  | .i => ⟨0, fun _ a b => plainLane (a + b)⟩
/-- Minimum, by lane type. -/
def redMin : LaneTy → RedOp
  | .f => ⟨0x7F800000, fun _ => fMin⟩
  | .i => ⟨0x7FFFFFFF, fun _ a b => plainLane (iMin a b)⟩
/-- Maximum, by lane type. -/
def redMax : LaneTy → RedOp
  | .f => ⟨0xFF800000, fun _ => fMax⟩
  | .i => ⟨0x80000000, fun _ a b => plainLane (iMax a b)⟩
/-- One level of the tree: neighbours combined, with the flags so far. -/
def redLevel (o : RedOp) (rm : Rm) : List Lane → Nat → List Lane × Nat
  | [], fl => ([], fl)
  | [x], fl => ([x], fl)
  | x :: y :: r, fl =>
    let (z, f) := o.op rm x y
    let (l, fl') := redLevel o rm r (fl ||| f)
    (z :: l, fl')
/-- `n` levels of the tree. -/
def redTree (o : RedOp) (rm : Rm) : Nat → List Lane → Nat → List Lane × Nat
  | 0, l, fl => (l, fl)
  | n + 1, l, fl =>
    let (l', fl') := redLevel o rm l fl
    redTree o rm n l' fl'
/-- The lanes of a register with inactive ones replaced by the identity. -/
def redInput (t : Tile) (a g : Nat) (o : RedOp) : List Lane :=
  (List.range 64).map (fun i => if t.active g i then t.lane a i else o.ident)
/-- VRED: the root goes to lane 0, whatever VL and the predicate hold. -/
def vredOp (minor : Nat) (o : RedOp) (d a : Fin 32) (g : Fin 8) (sw : Bool) (s : State) : Host.Outcome State Fault Refusal :=
  issue (metaV 0x20 minor sw [vr a, pr g] [vr d]) (do
    modT (fun t =>
      let (l, fl) := redTree o (rmOf t.fctl) 6 (redInput t a g o) 0
      ((t.setLanes d (fun i x => if i = 0 then l.headD 0 else x)).flag (if (t.lanes g).isEmpty then 0 else fl)))
    seqFlow) s
/-- The inclusive scan: running values and flags. -/
def scanList (o : RedOp) (rm : Rm) : Option Lane → List Lane → List (Lane × Nat)
  | _, [] => []
  | none, x :: r => (x, 0) :: scanList o rm (some x) r
  | some p, x :: r =>
    let (y, f) := o.op rm p x
    (y, f) :: scanList o rm (some y) r
/-- VSCAN. -/
def vscanOp (minor : Nat) (o : RedOp) (d a : Fin 32) (g : Fin 8) (sw : Bool) (s : State) : Host.Outcome State Fault Refusal :=
  issue (metaV 0x20 minor sw [vr a, pr g] [vr d]) (do
    modT (fun t =>
      let l := scanList o (rmOf t.fctl) none (redInput t a g o)
      let fl := if (t.lanes g).isEmpty then 0 else orFlags (l.map (·.2))
      ((t.setLanes d (fun i x => if t.active g i then (l[i]?.getD (0, 0)).1 else x)).flag fl))
    seqFlow) s
/-- VRED.ADD (R248). -/
def execVredAdd (ty : LaneTy) (d a : Fin 32) (g : Fin 8) (sw : Bool) (s : State) : Host.Outcome State Fault Refusal := vredOp 0 (redAdd ty) d a g sw s
/-- VSCAN.ADD (R248). -/
def execVscanAdd (ty : LaneTy) (d a : Fin 32) (g : Fin 8) (sw : Bool) (s : State) : Host.Outcome State Fault Refusal := vscanOp 4 (redAdd ty) d a g sw s
/-- VRED.MIN (R248). -/
def execVredMin (ty : LaneTy) (d a : Fin 32) (g : Fin 8) (sw : Bool) (s : State) : Host.Outcome State Fault Refusal := vredOp 1 (redMin ty) d a g sw s
/-- VSCAN.MIN (R248). -/
def execVscanMin (ty : LaneTy) (d a : Fin 32) (g : Fin 8) (sw : Bool) (s : State) : Host.Outcome State Fault Refusal := vscanOp 5 (redMin ty) d a g sw s
/-- VRED.MAX (R248). -/
def execVredMax (ty : LaneTy) (d a : Fin 32) (g : Fin 8) (sw : Bool) (s : State) : Host.Outcome State Fault Refusal := vredOp 2 (redMax ty) d a g sw s
/-- VSCAN.MAX (R248). -/
def execVscanMax (ty : LaneTy) (d a : Fin 32) (g : Fin 8) (sw : Bool) (s : State) : Host.Outcome State Fault Refusal := vscanOp 6 (redMax ty) d a g sw s

/-! ### Transcendentals and dot products (R249, R250) -/

/-- Major 0x21: correctly rounded to IF19 by RNE. -/
def transOp (minor : Nat) (f : Ext → Nat × Nat) (d a : Fin 32) (g : Fin 8) (sw : Bool) (s : State) : Host.Outcome State Fault Refusal :=
  issue (metaV 0x21 minor sw [vr a, pr g] [vr d]) (do
    let t ← getT
    writeLanes d g (fun i =>
      let (b, fl) := f (lane (t.lane a i))
      (BitVec.ofNat 32 b, fl ||| snanFlag [t.lane a i]))
    seqFlow) s
/-- VEXP2 (R249). -/
def execVexp2 (d a : Fin 32) (g : Fin 8) (sw : Bool) (s : State) : Host.Outcome State Fault Refusal := transOp 0 exp2IF d a g sw s
/-- VRCP (R249). -/
def execVrcp (d a : Fin 32) (g : Fin 8) (sw : Bool) (s : State) : Host.Outcome State Fault Refusal := transOp 1 rcpIF d a g sw s
/-- VRSQRT (R249). -/
def execVrsqrt (d a : Fin 32) (g : Fin 8) (sw : Bool) (s : State) : Host.Outcome State Fault Refusal := transOp 2 rsqrtIF d a g sw s
/-- d + Σ a_j × b_j over four bytes, each signed or unsigned. -/
def dotBytes (ua ub : Bool) (a b d : Lane) : Lane :=
  let el := fun (u : Bool) (x j : Nat) => if u then ((x / 2 ^ (8 * j) % 256 : Nat) : Int) else sext (x / 2 ^ (8 * j)) 8
  BitVec.ofInt 32 (d.toInt + ((List.range 4).map (fun j => el ua a.toNat j * el ub b.toNat j)).sum)
/-- RoundF(d + a0 × b0 + a1 × b1) over BF16 halves, with one rounding and the flags of R90. -/
def dotHalves (rm : Rm) (a b d : Lane) : Lane × Nat :=
  let el := fun (x : Lane) (j : Nat) => BitVec.ofNat 32 (x.toNat / 2 ^ (16 * j) % 2 ^ 16 * 2 ^ 16)
  let ins := [el a 0, el b 0, el a 1, el b 1, d]
  let x := sumExt (lane d) [(lane (el a 0), lane (el b 0), 0), (lane (el a 1), lane (el b 1), 0)] rm
  let (r, fl) := toLane rm x
  (r, fl ||| snanFlag ins ||| (if x.isNan && ins.all (fun y => !(lane y).isNan) then flNV else 0))
/-- VDOT (R250). -/
def execVdot (ty : LaneTy) (d a b : Fin 32) (g : Fin 8) (u q : Bool) (sw : Bool) (s : State) : Host.Outcome State Fault Refusal :=
  laneOp (metaV 0x22 0 sw [vr d, vr a, vr b, pr g] [vr d]) d a b g
    (fun rm x y z => match ty with | .f => dotHalves rm x y z | .i => plainLane (dotBytes u q x y z)) s

end Sys2Proof.Machine
end

