-- ==== Sys2Proof/Machine/Dispatch.lean ====
section
/-! DEFINITION. One arm per constructor of Instr: the meaning of each instruction and event. -/

namespace Sys2Proof.Machine

/-- Runs one instruction at the core `cur`, or lets one event of the table come about. -/
def exec (i : Instr) (s : State) : Host.Outcome State Fault Refusal :=
  match i with
  | .add d a b sw => Sys2Proof.Machine.execAdd d a b sw s
  | .sub d a b sw => Sys2Proof.Machine.execSub d a b sw s
  | .and d a b sw => Sys2Proof.Machine.execAnd d a b sw s
  | .or d a b sw => Sys2Proof.Machine.execOr d a b sw s
  | .xor d a b sw => Sys2Proof.Machine.execXor d a b sw s
  | .andn d a b sw => Sys2Proof.Machine.execAndn d a b sw s
  | .shl d a b sw => Sys2Proof.Machine.execShl d a b sw s
  | .shr d a b sw => Sys2Proof.Machine.execShr d a b sw s
  | .shra d a b sw => Sys2Proof.Machine.execShra d a b sw s
  | .rot d a b sw => Sys2Proof.Machine.execRot d a b sw s
  | .min d a b sw => Sys2Proof.Machine.execMin d a b sw s
  | .max d a b sw => Sys2Proof.Machine.execMax d a b sw s
  | .clz d a sw => Sys2Proof.Machine.execClz d a sw s
  | .popc d a sw => Sys2Proof.Machine.execPopc d a sw s
  | .mov d a sw => Sys2Proof.Machine.execMov d a sw s
  | .mul d a b sw => Sys2Proof.Machine.execMul d a b sw s
  | .mulh d a b sw => Sys2Proof.Machine.execMulh d a b sw s
  | .mulhU d a b sw => Sys2Proof.Machine.execMulhU d a b sw s
  | .div d a b sw => Sys2Proof.Machine.execDiv d a b sw s
  | .divU d a b sw => Sys2Proof.Machine.execDivU d a b sw s
  | .rem d a b sw => Sys2Proof.Machine.execRem d a b sw s
  | .remU d a b sw => Sys2Proof.Machine.execRemU d a b sw s
  | .addi d a imm sw => Sys2Proof.Machine.execAddi d a imm sw s
  | .li d imm sw => Sys2Proof.Machine.execLi d imm sw s
  | .lih d imm sw => Sys2Proof.Machine.execLih d imm sw s
  | .cmpEq p a b sw => Sys2Proof.Machine.execCmpEq p a b sw s
  | .cmpNe p a b sw => Sys2Proof.Machine.execCmpNe p a b sw s
  | .cmpLt p a b sw => Sys2Proof.Machine.execCmpLt p a b sw s
  | .cmpGe p a b sw => Sys2Proof.Machine.execCmpGe p a b sw s
  | .cmpLtu p a b sw => Sys2Proof.Machine.execCmpLtu p a b sw s
  | .cmpGeu p a b sw => Sys2Proof.Machine.execCmpGeu p a b sw s
  | .sel d a b k sw => Sys2Proof.Machine.execSel d a b k sw s
  | .pand d a b sw => Sys2Proof.Machine.execPand d a b sw s
  | .por d a b sw => Sys2Proof.Machine.execPor d a b sw s
  | .pxor d a b sw => Sys2Proof.Machine.execPxor d a b sw s
  | .pnot d a sw => Sys2Proof.Machine.execPnot d a sw s
  | .csetb d a b sw => Sys2Proof.Machine.execCsetb d a b sw s
  | .cgetb d a sw => Sys2Proof.Machine.execCgetb d a sw s
  | .cgetl d a sw => Sys2Proof.Machine.execCgetl d a sw s
  | .candp d a b sw => Sys2Proof.Machine.execCandp d a b sw s
  | .cseal d a b sw => Sys2Proof.Machine.execCseal d a b sw s
  | .cunseal d a b sw => Sys2Proof.Machine.execCunseal d a b sw s
  | .cadd d a b sw => Sys2Proof.Machine.execCadd d a b sw s
  | .ctag d a sw => Sys2Proof.Machine.execCtag d a sw s
  | .cclr d a sw => Sys2Proof.Machine.execCclr d a sw s
  | .ceq d a b sw => Sys2Proof.Machine.execCeq d a b sw s
  | .cderive d a b sw => Sys2Proof.Machine.execCderive d a b sw s
  | .b k n off sw => Sys2Proof.Machine.execB k n off sw s
  | .j off sw => Sys2Proof.Machine.execJ off sw s
  | .call off sw => Sys2Proof.Machine.execCall off sw s
  | .jr a sw => Sys2Proof.Machine.execJr a sw s
  | .callr a sw => Sys2Proof.Machine.execCallr a sw s
  | .ret sw => Sys2Proof.Machine.execRet sw s
  | .loop a imm sw => Sys2Proof.Machine.execLoop a imm sw s
  | .nop sw => Sys2Proof.Machine.execNop sw s
  | .exit a sw => Sys2Proof.Machine.execExit a sw s
  | .wfe sw => Sys2Proof.Machine.execWfe sw s
  | .lbreak sw => Sys2Proof.Machine.execLbreak sw s
  | .ld t z mem sw => Sys2Proof.Machine.execLd t z mem sw s
  | .ldSb t mem sw => Sys2Proof.Machine.execLdSb t mem sw s
  | .ldSh t mem sw => Sys2Proof.Machine.execLdSh t mem sw s
  | .ldSw t mem sw => Sys2Proof.Machine.execLdSw t mem sw s
  | .ldc t mem sw => Sys2Proof.Machine.execLdc t mem sw s
  | .st t z mem sw => Sys2Proof.Machine.execSt t z mem sw s
  | .stc t mem sw => Sys2Proof.Machine.execStc t mem sw s
  | .ldf t mem sw => Sys2Proof.Machine.execLdf t mem sw s
  | .stf t mem sw => Sys2Proof.Machine.execStf t mem sw s
  | .pref mem sw => Sys2Proof.Machine.execPref mem sw s
  | .repCopy d a b z sw => Sys2Proof.Machine.execRepCopy d a b z sw s
  | .repFill d a b z sw => Sys2Proof.Machine.execRepFill d a b z sw s
  | .fence kinds w scope sw => Sys2Proof.Machine.execFence kinds w scope sw s
  | .ldAqB d b scope sw => Sys2Proof.Machine.execLdAqB d b scope sw s
  | .ldAqH d b scope sw => Sys2Proof.Machine.execLdAqH d b scope sw s
  | .ldAqW d b scope sw => Sys2Proof.Machine.execLdAqW d b scope sw s
  | .ldAq d b scope sw => Sys2Proof.Machine.execLdAq d b scope sw s
  | .stRlB t b scope sw => Sys2Proof.Machine.execStRlB t b scope sw s
  | .stRlH t b scope sw => Sys2Proof.Machine.execStRlH t b scope sw s
  | .stRlW t b scope sw => Sys2Proof.Machine.execStRlW t b scope sw s
  | .stRl t b scope sw => Sys2Proof.Machine.execStRl t b scope sw s
  | .sbind n d sw => Sys2Proof.Machine.execSbind n d sw s
  | .sunbind n sw => Sys2Proof.Machine.execSunbind n sw s
  | .sstat d k sw => Sys2Proof.Machine.execSstat d k sw s
  | .amoAdd d b z scope ord sw => Sys2Proof.Machine.execAmoAdd d b z scope ord sw s
  | .amoAnd d b z scope ord sw => Sys2Proof.Machine.execAmoAnd d b z scope ord sw s
  | .amoOr d b z scope ord sw => Sys2Proof.Machine.execAmoOr d b z scope ord sw s
  | .amoXor d b z scope ord sw => Sys2Proof.Machine.execAmoXor d b z scope ord sw s
  | .amoMin d b z scope ord sw => Sys2Proof.Machine.execAmoMin d b z scope ord sw s
  | .amoMax d b z scope ord sw => Sys2Proof.Machine.execAmoMax d b z scope ord sw s
  | .amoMinu d b z scope ord sw => Sys2Proof.Machine.execAmoMinu d b z scope ord sw s
  | .amoMaxu d b z scope ord sw => Sys2Proof.Machine.execAmoMaxu d b z scope ord sw s
  | .amoSwap d b z scope ord sw => Sys2Proof.Machine.execAmoSwap d b z scope ord sw s
  | .cas d b n scope ord sw => Sys2Proof.Machine.execCas d b n scope ord sw s
  | .vadd ty d a b g sw => Sys2Proof.Machine.execVadd ty d a b g sw s
  | .vsub ty d a b g sw => Sys2Proof.Machine.execVsub ty d a b g sw s
  | .vmul ty d a b g sw => Sys2Proof.Machine.execVmul ty d a b g sw s
  | .vmin ty d a b g sw => Sys2Proof.Machine.execVmin ty d a b g sw s
  | .vmax ty d a b g sw => Sys2Proof.Machine.execVmax ty d a b g sw s
  | .vabs ty d a g sw => Sys2Proof.Machine.execVabs ty d a g sw s
  | .vneg ty d a g sw => Sys2Proof.Machine.execVneg ty d a g sw s
  | .vand d a b g sw => Sys2Proof.Machine.execVand d a b g sw s
  | .vor d a b g sw => Sys2Proof.Machine.execVor d a b g sw s
  | .vxor d a b g sw => Sys2Proof.Machine.execVxor d a b g sw s
  | .vshl d a b g sw => Sys2Proof.Machine.execVshl d a b g sw s
  | .vshr d a b g sw => Sys2Proof.Machine.execVshr d a b g sw s
  | .vshra d a b g sw => Sys2Proof.Machine.execVshra d a b g sw s
  | .vadds d a b g sw => Sys2Proof.Machine.execVadds d a b g sw s
  | .vsubs d a b g sw => Sys2Proof.Machine.execVsubs d a b g sw s
  | .vfma ty d a b g sw => Sys2Proof.Machine.execVfma ty d a b g sw s
  | .vfnma ty d a b g sw => Sys2Proof.Machine.execVfnma ty d a b g sw s
  | .vcmpEq ty p a b g sw => Sys2Proof.Machine.execVcmpEq ty p a b g sw s
  | .vcmpNe ty p a b g sw => Sys2Proof.Machine.execVcmpNe ty p a b g sw s
  | .vcmpLt ty p a b g sw => Sys2Proof.Machine.execVcmpLt ty p a b g sw s
  | .vcmpLe ty p a b g sw => Sys2Proof.Machine.execVcmpLe ty p a b g sw s
  | .vsel d a b k sw => Sys2Proof.Machine.execVsel d a b k sw s
  | .vcvtDec d a g w sw => Sys2Proof.Machine.execVcvtDec d a g w sw s
  | .vcvtDecMx d a c g w sw => Sys2Proof.Machine.execVcvtDecMx d a c g w sw s
  | .vcvtEnc d a t g w sw => Sys2Proof.Machine.execVcvtEnc d a t g w sw s
  | .vcvtEncMx d a c g w sw => Sys2Proof.Machine.execVcvtEncMx d a c g w sw s
  | .vld d b e g sw => Sys2Proof.Machine.execVld d b e g sw s
  | .vst d b e g sw => Sys2Proof.Machine.execVst d b e g sw s
  | .vgather d b i1 g sw => Sys2Proof.Machine.execVgather d b i1 g sw s
  | .vscatter d b i1 g sw => Sys2Proof.Machine.execVscatter d b i1 g sw s
  | .vshuf d a b g sw => Sys2Proof.Machine.execVshuf d a b g sw s
  | .vbcast d a lane g sw => Sys2Proof.Machine.execVbcast d a lane g sw s
  | .vsetvl d a sw => Sys2Proof.Machine.execVsetvl d a sw s
  | .vsplat d a sw => Sys2Proof.Machine.execVsplat d a sw s
  | .vextr d a b sw => Sys2Proof.Machine.execVextr d a b sw s
  | .vredAdd ty d a g sw => Sys2Proof.Machine.execVredAdd ty d a g sw s
  | .vredMin ty d a g sw => Sys2Proof.Machine.execVredMin ty d a g sw s
  | .vredMax ty d a g sw => Sys2Proof.Machine.execVredMax ty d a g sw s
  | .vscanAdd ty d a g sw => Sys2Proof.Machine.execVscanAdd ty d a g sw s
  | .vscanMin ty d a g sw => Sys2Proof.Machine.execVscanMin ty d a g sw s
  | .vscanMax ty d a g sw => Sys2Proof.Machine.execVscanMax ty d a g sw s
  | .vexp2 d a g sw => Sys2Proof.Machine.execVexp2 d a g sw s
  | .vrcp d a g sw => Sys2Proof.Machine.execVrcp d a g sw s
  | .vrsqrt d a g sw => Sys2Proof.Machine.execVrsqrt d a g sw s
  | .vdot ty d a b g u q sw => Sys2Proof.Machine.execVdot ty d a b g u q sw s
  | .vcompress d a g sw => Sys2Proof.Machine.execVcompress d a g sw s
  | .vexpand d a g sw => Sys2Proof.Machine.execVexpand d a g sw s
  | .mma n a b w c sw => Sys2Proof.Machine.execMma n a b w c sw s
  | .bmm n a b w c sw => Sys2Proof.Machine.execBmm n a b w c sw s
  | .bmmR n a b w c sw => Sys2Proof.Machine.execBmmR n a b w c sw s
  | .qcfg q w sw => Sys2Proof.Machine.execQcfg q w sw s
  | .qstat q w sw => Sys2Proof.Machine.execQstat q w sw s
  | .twait q w sw => Sys2Proof.Machine.execTwait q w sw s
  | .tstate t w sw => Sys2Proof.Machine.execTstate t w sw s
  | .acfg n w sw => Sys2Proof.Machine.execAcfg n w sw s
  | .azero n sw => Sys2Proof.Machine.execAzero n sw s
  | .amov n m sw => Sys2Proof.Machine.execAmov n m sw s
  | .rowsum n a w o k sw => Sys2Proof.Machine.execRowsum n a w o k sw s
  | .drain n q rm t w z sw => Sys2Proof.Machine.execDrain n q rm t w z sw s
  | .drainq n q w z sw => Sys2Proof.Machine.execDrainq n q w z sw s
  | .drainr n q rm t w z sw => Sys2Proof.Machine.execDrainr n q rm t w z sw s
  | .spush n j w sw => Sys2Proof.Machine.execSpush n j w sw s
  | .smma n a b w sw => Sys2Proof.Machine.execSmma n a b w sw s
  | .speg n j w sw => Sys2Proof.Machine.execSpeg n j w sw s
  | .smerge n src sw => Sys2Proof.Machine.execSmerge n src sw s
  | .sread n q sw => Sys2Proof.Machine.execSread n q sw s
  | .smaxr n v sw => Sys2Proof.Machine.execSmaxr n v sw s
  | .expt n v sw => Sys2Proof.Machine.execExpt n v sw s
  | .rescale n l v sw => Sys2Proof.Machine.execRescale n l v sw s
  | .rowdiv n v sw => Sys2Proof.Machine.execRowdiv n v sw s
  | .lspmm n k b w sw => Sys2Proof.Machine.execLspmm n k b w sw s
  | .send h b sw => Sys2Proof.Machine.execSend h b sw s
  | .hret sw => Sys2Proof.Machine.execHret sw s
  | .mbox d o sw => Sys2Proof.Machine.execMbox d o sw s
  | .bar d v i1 scope red sw => Sys2Proof.Machine.execBar d v i1 scope red sw s
  | .barw d v i1 scope red sw => Sys2Proof.Machine.execBarw d v i1 scope red sw s
  | .sstep d v i1 scope red sw => Sys2Proof.Machine.execSstep d v i1 scope red sw s
  | .dpush d r sw => Sys2Proof.Machine.execDpush d r sw s
  | .dpop d sw => Sys2Proof.Machine.execDpop d sw s
  | .dsplit d sw => Sys2Proof.Machine.execDsplit d sw s
  | .dsteal d scope sw => Sys2Proof.Machine.execDsteal d scope sw s
  | .get b sw => Sys2Proof.Machine.execGet b sw s
  | .put b sw => Sys2Proof.Machine.execPut b sw s
  | .cwait d c sw => Sys2Proof.Machine.execCwait d c sw s
  | .copy p c sw => Sys2Proof.Machine.execCopy p c sw s
  | .cred b scope ord sw => Sys2Proof.Machine.execCred b scope ord sw s
  | .lld p l sw => Sys2Proof.Machine.execLld p l sw s
  | .lst p l sw => Sys2Proof.Machine.execLst p l sw s
  | .ladd p l sw => Sys2Proof.Machine.execLadd p l sw s
  | .lscan p l sw => Sys2Proof.Machine.execLscan p l sw s
  | .lcount d l sw => Sys2Proof.Machine.execLcount d l sw s
  | .ldense b l sw => Sys2Proof.Machine.execLdense b l sw s
  | .lgrow n l sw => Sys2Proof.Machine.execLgrow n l sw s
  | .latticeEvent desc op => Sys2Proof.Machine.execLatticeEvent desc op s
  | .treq d r sw => Sys2Proof.Machine.execTreq d r sw s
  | .tret c sw => Sys2Proof.Machine.execTret c sw s
  | .tstat d sw => Sys2Proof.Machine.execTstat d sw s
  | .compose d r sw => Sys2Proof.Machine.execCompose d r sw s
  | .decompose sw => Sys2Proof.Machine.execDecompose sw s
  | .gang d r sw => Sys2Proof.Machine.execGang d r sw s
  | .join k sw => Sys2Proof.Machine.execJoin k sw s
  | .launch q p sw => Sys2Proof.Machine.execLaunch q p sw s
  | .trap d a sw => Sys2Proof.Machine.execTrap d a sw s
  | .eret v h sw => Sys2Proof.Machine.execEret v h sw s
  | .srd d srn sw => Sys2Proof.Machine.execSrd d srn sw s
  | .swr v srn sw => Sys2Proof.Machine.execSwr v srn sw s
  | .tlbiPage a b sw => Sys2Proof.Machine.execTlbiPage a b sw s
  | .tlbiAsid b sw => Sys2Proof.Machine.execTlbiAsid b sw s
  | .tlbiGlobal sw => Sys2Proof.Machine.execTlbiGlobal sw s
  | .tlbiPart sw => Sys2Proof.Machine.execTlbiPart sw s
  | .ifence sw => Sys2Proof.Machine.execIfence sw s
  | .tblld b sw => Sys2Proof.Machine.execTblld b sw s
  | .meter d e sw => Sys2Proof.Machine.execMeter d e sw s
  | .cMov d a sw => Sys2Proof.Machine.execCMov d a sw s
  | .cAdd d a sw => Sys2Proof.Machine.execCAdd d a sw s
  | .cSub d a sw => Sys2Proof.Machine.execCSub d a sw s
  | .cAnd d a sw => Sys2Proof.Machine.execCAnd d a sw s
  | .cOr d a sw => Sys2Proof.Machine.execCOr d a sw s
  | .cXor d a sw => Sys2Proof.Machine.execCXor d a sw s
  | .cShl d a sw => Sys2Proof.Machine.execCShl d a sw s
  | .cShr d a sw => Sys2Proof.Machine.execCShr d a sw s
  | .cJr a sw => Sys2Proof.Machine.execCJr a sw s
  | .cCallr a sw => Sys2Proof.Machine.execCCallr a sw s
  | .cRet sw => Sys2Proof.Machine.execCRet sw s
  | .cNop sw => Sys2Proof.Machine.execCNop sw s
  | .cAddi d imm sw => Sys2Proof.Machine.execCAddi d imm sw s
  | .cLi d imm sw => Sys2Proof.Machine.execCLi d imm sw s
  | .cB off sw => Sys2Proof.Machine.execCB off sw s
  | .cLd t b sw => Sys2Proof.Machine.execCLd t b sw s
  | .cSt t b sw => Sys2Proof.Machine.execCSt t b sw s
  | .cLdW t b sw => Sys2Proof.Machine.execCLdW t b sw s
  | .cStW t b sw => Sys2Proof.Machine.execCStW t b sw s
  | .cLdPost t b sw => Sys2Proof.Machine.execCLdPost t b sw s
  | .cStPost t b sw => Sys2Proof.Machine.execCStPost t b sw s
  | .cLdc t b sw => Sys2Proof.Machine.execCLdc t b sw s
  | .cStc t b sw => Sys2Proof.Machine.execCStc t b sw s
  | .deferredResult core => Sys2Proof.Machine.execDeferredResult core s
  | .chordRunCommit core => Sys2Proof.Machine.execChordRunCommit core s
  | .consortRunForward leader => Sys2Proof.Machine.execConsortRunForward leader s
  | .followerBufferTimeout core => Sys2Proof.Machine.execFollowerBufferTimeout core s
  | .handlerEntry core => Sys2Proof.Machine.execHandlerEntry core s
  | .localTrap core report => Sys2Proof.Machine.execLocalTrap core report s
  | .walkComplete core va kind => Sys2Proof.Machine.execWalkComplete core va kind s
  | .faultReply core seq value => Sys2Proof.Machine.execFaultReply core seq value s
  | .serviceCallReply core seq value => Sys2Proof.Machine.execServiceCallReply core seq value s
  | .moduleControllerCall => Sys2Proof.Machine.execModuleControllerCall s
  | .machineCheck report => Sys2Proof.Machine.execMachineCheck report s
  | .hangScan die => Sys2Proof.Machine.execHangScan die s
  | .hangAbortReply core => Sys2Proof.Machine.execHangAbortReply core s
  | .qwr part q value => Sys2Proof.Machine.execQwr part q value s
  | .qctl part q value => Sys2Proof.Machine.execQctl part q value s
  | .dispatch part => Sys2Proof.Machine.execDispatch part s
  | .taskStart core => Sys2Proof.Machine.execTaskStart core s
  | .taskSave core => Sys2Proof.Machine.execTaskSave core s
  | .gridResume grid => Sys2Proof.Machine.execGridResume grid s
  | .gridComplete grid => Sys2Proof.Machine.execGridComplete grid s
  | .hprePreempt part q slot => Sys2Proof.Machine.execHprePreempt part q slot s
  | .hprePreemptHold part q slot => Sys2Proof.Machine.execHprePreemptHold part q slot s
  | .hpreResume part q slot => Sys2Proof.Machine.execHpreResume part q slot s
  | .relaunch part q slot => Sys2Proof.Machine.execRelaunch part q slot s
  | .registerWrite reg value => Sys2Proof.Machine.execRegisterWrite reg value s
  | .messageArrival index => Sys2Proof.Machine.execMessageArrival index s
  | .wakeUpArrival index => Sys2Proof.Machine.execWakeUpArrival index s
  | .messageRetry index => Sys2Proof.Machine.execMessageRetry index s
  | .messageRefusalDiscard index => Sys2Proof.Machine.execMessageRefusalDiscard index s
  | .transferComplete core index => Sys2Proof.Machine.execTransferComplete core index s
  | .slotFillComplete core slot => Sys2Proof.Machine.execSlotFillComplete core slot s
  | .engineRetire core => Sys2Proof.Machine.execEngineRetire core s
  | .collectiveComplete index arrival => Sys2Proof.Machine.execCollectiveComplete index arrival s
  | .ownershipGrant core index line => Sys2Proof.Machine.execOwnershipGrant core index line s
  | .ownershipTimeout core index => Sys2Proof.Machine.execOwnershipTimeout core index s
  | .storePerformed core index => Sys2Proof.Machine.execStorePerformed core index s
  | .replicatedWrite core index => Sys2Proof.Machine.execReplicatedWrite core index s
  | .replicaAck stamp die => Sys2Proof.Machine.execReplicaAck stamp die s
  | .replicaCommit stamp => Sys2Proof.Machine.execReplicaCommit stamp s
  | .sequencerFailover => Sys2Proof.Machine.execSequencerFailover s
  | .expertRowArrival index => Sys2Proof.Machine.execExpertRowArrival index s
  | .expertRelease die buf => Sys2Proof.Machine.execExpertRelease die buf s
  | .overflowDecision die buf => Sys2Proof.Machine.execOverflowDecision die buf s
  | .tokenGrant core r => Sys2Proof.Machine.execTokenGrant core r s
  | .revocationDeadline core => Sys2Proof.Machine.execRevocationDeadline core s
  | .issueWindow core => Sys2Proof.Machine.execIssueWindow core s
  | .zpool die value => Sys2Proof.Machine.execZpool die value s
  | .prooferRebuild die succeeds => Sys2Proof.Machine.execProoferRebuild die succeeds s
  | .currentTrip die => Sys2Proof.Machine.execCurrentTrip die s
  | .thermalTrip die => Sys2Proof.Machine.execThermalTrip die s
  | .thermalClockStep die => Sys2Proof.Machine.execThermalClockStep die s
  | .tripRecovery die => Sys2Proof.Machine.execTripRecovery die s
  | .thermalCutoff die => Sys2Proof.Machine.execThermalCutoff die s
  | .meterReconcile die emeas uses others sensorOk => Sys2Proof.Machine.execMeterReconcile die emeas uses others sensorOk s
  | .journalPeriod signatureOk => Sys2Proof.Machine.execJournalPeriod signatureOk s
  | .timeTablePublish entries => Sys2Proof.Machine.execTimeTablePublish entries s
  | .clockChange die clock entries bands => Sys2Proof.Machine.execClockChange die clock entries bands s
  | .bankDrowsy core bank => Sys2Proof.Machine.execBankDrowsy core bank s
  | .accumulatorRefresh core acc => Sys2Proof.Machine.execAccumulatorRefresh core acc s
  | .tileLost core array => Sys2Proof.Machine.execTileLost core array s
  | .tileRetire core spare => Sys2Proof.Machine.execTileRetire core spare s
  | .staleGenDrop index => Sys2Proof.Machine.execStaleGenDrop index s
  | .debugRead name item => Sys2Proof.Machine.execDebugRead name item s
  | .linkRetrain die dir link outcome lo hi => Sys2Proof.Machine.execLinkRetrain die dir link outcome lo hi s
  | .linkFail die dir => Sys2Proof.Machine.execLinkFail die dir s
  | .routeSwitchover part tables => Sys2Proof.Machine.execRouteSwitchover part tables s
  | .cinovDoorbell part => Sys2Proof.Machine.execCinovDoorbell part s
  | .cinovComplete part status data => Sys2Proof.Machine.execCinovComplete part status data s
  | .cnctl part value => Sys2Proof.Machine.execCnctl part value s
  | .cinovRetransmit part peer => Sys2Proof.Machine.execCinovRetransmit part peer s
  | .ethernetFrameRx port fcsOk op => Sys2Proof.Machine.execEthernetFrameRx port fcsOk op s
  | .ethernetPortFail port => Sys2Proof.Machine.execEthernetPortFail port s
  | .hostMemStore part offset data => Sys2Proof.Machine.execHostMemStore part offset data s
  | .hostMemRead part offset len => Sys2Proof.Machine.execHostMemRead part offset len s
  | .backInvalidateResponse index data => Sys2Proof.Machine.execBackInvalidateResponse index data s
  | .snoopTimeout index => Sys2Proof.Machine.execSnoopTimeout index s
  | .cxlCacheResponse pa data poisoned => Sys2Proof.Machine.execCxlCacheResponse pa data poisoned s
  | .cxlLinkDown port => Sys2Proof.Machine.execCxlLinkDown port s
  | .powerGood boot => Sys2Proof.Machine.execPowerGood boot s
  | .bootTimeout => Sys2Proof.Machine.execBootTimeout s
  | .cxlConfigRequest request => Sys2Proof.Machine.execCxlConfigRequest request s
  | .moduleReset waited => Sys2Proof.Machine.execModuleReset waited s
  | .alwaysOnLoss => Sys2Proof.Machine.execAlwaysOnLoss s
  | .enclosureOpen => Sys2Proof.Machine.execEnclosureOpen s
  | .debugPortEnable => Sys2Proof.Machine.execDebugPortEnable s
  | .moduleControllerTakeover => Sys2Proof.Machine.execModuleControllerTakeover s
  | .readings fromSeq ackSeq => Sys2Proof.Machine.execReadings fromSeq ackSeq s
  | .partition setup => Sys2Proof.Machine.execPartition setup s
  | .policy cmd => Sys2Proof.Machine.execPolicy cmd s
  | .census => Sys2Proof.Machine.execCensus s
  | .firmware image signed => Sys2Proof.Machine.execFirmware image signed s
  | .coefficientTableChange table => Sys2Proof.Machine.execCoefficientTableChange table s
  | .readingKeyReplacement key => Sys2Proof.Machine.execReadingKeyReplacement key s
  | .expertBufferConfiguration die cfg => Sys2Proof.Machine.execExpertBufferConfiguration die cfg s
  | .tilePowerGating core => Sys2Proof.Machine.execTilePowerGating core s
  | .laneQuadFusing core quad => Sys2Proof.Machine.execLaneQuadFusing core quad s

end Sys2Proof.Machine
end

