-- ==== Sys2Proof/Machine/Schedule.lean ====
section
/-! DEFINITION. What one step of the module does: fetch and decode (R191, R366, R367), the order in which a core's run, waits,
stops and handlers go on (R48, R55, R195, R384), the events that come about by themselves, and time (R10, R21). Which core steps
and which event comes next is the inputs' choice; without inputs the core `cur` steps (log entry 1). -/

namespace Sys2Proof.Machine

/-! ### Fetch and decode -/

/-- What stands at the pc: the instruction's bits, and what the decoder reads from them. -/
structure Fetched where
  bits : Nat
  decoded : Except Reject Instr

/-- The run that an attached follower is in, as its leader forwarded it, and the leader (R164). -/
def Tile.inForwarded (t : Tile) (k : Nat) : Option (Forward × Nat) :=
  match t.consort with
  | none => none
  | some c => if c.leader ≠ k ∧ c.attached ∧ c.started then c.runs.head?.map (fun f => (f, c.leader)) else none
/-- An attached follower takes code bytes from the run that the leader forwarded, under its own pc capability; bytes that the leader
had not fetched then are fetched by the leader now (R164). -/
def followBytes (f : Forward) (leader a n : Nat) : Op (List Byte) := do
  let t ← getT
  checkCap 0 1 t.pc a n Perm.exec 1 .fetch
  require (decide (a + n ≤ Config.localBase)) (trap 0x0E .fetch a (2 ^ 16))
  if f.start ≤ a ∧ a + n ≤ f.start + f.bytes.length then pure ((f.bytes.drop (a - f.start)).take n)
  else do
    let s ← get
    let (b, s) := s.codeBytes leader a n
    if b.length = n then do
      set s
      pure b
    else waitFor .line
/-- Code bytes at an address, as the core gets them. -/
def codeAt (a n : Nat) : Op (List Byte) := do
  let s ← get
  match (s.tile s.cur).inForwarded s.cur with
  | some (f, leader) => followBytes f leader a n
  | none => fetchBytes a n
/-- Fetches the instruction at the pc: its first parcel, then all of its bytes (R191, R366 step 1). -/
def fetchInstr : Op Fetched := do
  let t ← getT
  let b ← codeAt t.pc.addr 2
  let b ← if lengthOf (leNat b) = 4 then codeAt t.pc.addr 4 else pure b
  pure ⟨leNat b, (decode b).map (·.1)⟩
/-- A fetch that fails (R366 step 1, R341): MAJ 0xFF. `t` is the state after its walks. -/
def fetchFails (s t : State) (e : Exn) : Host.Outcome State Fault Refusal :=
  let r := fun (c : Nat) (ak : Access) (a d : Nat) =>
    ({ cause := c, akind := ak, maj := 0xFF, minor := 0, addr := a, pc := (s.tile s.cur).pc.addr, detail := d } : TrapReport)
  match e with
  | .trap c ak a d _ => .next (takeTrap t s.cur (r c ak a d) 0)
  | .post c ak a d _ => .next (postFault t s.cur (r c ak a d) false 0)
  | .wait w _ => .next (t.modTile s.cur (fun x => { x with wait := some ⟨w, s.timeOf s.cur, 0xFF, 0, 0⟩ }))
  | .fault f => .fault f
/-- A rejected encoding (R367): a local trap with the instruction's bits. -/
def rejectReport (s : State) (bits : Nat) (r : Reject) : TrapReport :=
  let (cause, maj, minor) := match r with
    | .unallocated a b => (0x01, a, b)
    | .reserved a b => (0x02, a, b)
    | .truncated => (0x01, 0xFF, 0)
  { cause := cause, akind := .none, maj := maj, minor := minor, addr := 0, pc := (s.tile s.cur).pc.addr, detail := bits % 2 ^ 32 * 2 ^ 16 }
/-- The first instruction of a grid gives its START (R36). -/
def State.markStarted (s : State) : State :=
  match (s.tile s.cur).task with
  | none => s
  | some r => s.modGrid r.grid (fun g => { g with started := some (g.started.getD (s.refTime g.part)) })
/-- The core `cur` fetches, decodes and runs the instruction at its pc. -/
def runCore (s : State) : Host.Outcome State Fault Refusal :=
  match fetchInstr s with
  | .error e t => fetchFails s t e
  | .ok f t =>
    match f.decoded with
    | .ok i => exec i t.markStarted
    | .error r => .next (takeTrap t t.cur (rejectReport t f.bits r) 0)

/-! ### Events that come about by themselves -/

/-- What an event does to a state. -/
abbrev Event := State → Host.Outcome State Fault Refusal
/-- The event of a reply in the fabric. -/
def State.replyEvent (s : State) (r : Reply) : Event :=
  match coreOf r.name with
  | none => execFaultReply Config.tileSites r.seq r.value
  | some c => if ((s.tile c).awaits r.seq true).isSome then execServiceCallReply c r.seq r.value else execFaultReply c r.seq r.value
/-- The event of the message at an index. -/
def State.msgEvent (s : State) (i : Nat) (m : Msg) : Event :=
  if s.stale m.destName then execStaleGenDrop i else if m.wake then execWakeUpArrival i else execMessageArrival i
/-- Numbers below the length of a list. -/
def indices {α : Type} (l : List α) : List Nat := List.range l.length
/-- An event, if a condition holds. -/
def eventIf (c : Bool) (e : Event) : List Event := if c then [e] else []
/-- The events of a core's consort. -/
def consortEvents (k : Nat) (c : Consort) : List Event :=
  eventIf (decide (c.leader = k) && !c.runs.isEmpty) (execConsortRunForward k) ++ eventIf c.fullSince.isSome (execFollowerBufferTimeout k)
/-- The host grants ownership of the lines of a range that have not been granted (R134). -/
def State.hostEvents (s : State) (key n : Nat) : List Event :=
  if !isHost key then [] else ((linesOf key n).filter (fun l => !s.hostOwned.contains l)).map (fun l => execCxlCacheResponse (64 * l) none false)
/-- Grants that the next element of a transfer waits for. -/
def State.xferHostEvents (s : State) (k : Nat) (x : Xfer) : List Event :=
  match x.elems with
  | ⟨_, _, .virt va, n⟩ :: _ =>
    (match s.places k (needW + needEng) va n with
    | .ok (l, _) => l.flatMap (fun p => s.hostEvents p.key p.len)
    | .error _ => [])
  | _ => []
/-- The core waits for issue slots: a wait for tokens, or an engine instruction that owes slots (R171, R273). -/
def Tile.wantsSlots (t : Tile) : Bool := decide (t.wait.map (fun w => w.on) = some .tokens) || t.eng.any (fun e => decide (e.owed ≠ 0))
/-- Events of one core: its save, its engine, its transfers, its stores, its chord and its consort. -/
def State.coreEvents (s : State) (e : Nat × Tile) : List Event :=
  let (k, t) := e
  eventIf (decide (t.stop = some .save)) (execTaskSave k) ++
  eventIf (decide (16 ≤ t.trips)) (execTileLost k 0xFF) ++
  eventIf (!t.eng.isEmpty) (execEngineRetire k) ++
  (indices t.xfers).map (execTransferComplete k) ++
  eventIf t.canCommit (execChordRunCommit k) ++
  t.stores.flatMap (fun x => s.hostEvents x.key x.data.length) ++
  t.xfers.flatMap (s.xferHostEvents k) ++
  (indices t.stores).map (execStorePerformed k) ++
  (t.consort.map (consortEvents k)).getD [] ++
  eventIf t.wantsSlots (execIssueWindow k) ++
  eventIf (decide (t.revoke ≠ 0)) (execRevocationDeadline k)
/-- Participants of a collective. -/
def State.collSize (s : State) (c : Coll) : Nat :=
  match s.grid? c.grid with
  | none => 0
  | some g => (instRanks g c.scope c.inst).length
/-- The events that may come about, in the order in which they are tried. -/
def State.events (s : State) : List Event :=
  s.grids.flatMap (fun g => g.2.unstarted.map execTaskStart) ++
  s.replies.map s.replyEvent ++
  eventIf (!s.calls.isEmpty) execModuleControllerCall ++
  s.msgs.zipIdx.map (fun m => s.msgEvent m.2 m.1) ++
  s.tiles.flatMap s.coreEvents ++
  s.dies.flatMap (fun d => (d.2.requests.take 1).map (fun r => execTokenGrant r.1 r.2)) ++
  (indices s.rows).map execExpertRowArrival ++
  s.rwrites.flatMap (fun w => w.copies.map (execReplicaAck w.stamp) ++ [execReplicaCommit w.stamp]) ++
  (indices s.snoops).map (fun i => execBackInvalidateResponse i none) ++
  s.colls.zipIdx.map (fun c => execCollectiveComplete c.2 (List.range (s.collSize c.1))) ++
  s.grids.map (fun g => execGridComplete g.1) ++
  s.grids.map (fun g => execGridResume g.1) ++
  s.parts.map (fun p => execDispatch p.1) ++
  (List.range (s.msgs.length + s.refusedXfers.length)).map execMessageRetry
/-- The first event of a list that changes more than the free-value counter. -/
def firstEvent (s : State) : List Event → Host.Outcome State Fault Refusal
  | [] => .next s
  | e :: l =>
    match e s with
    | .next t => if { t with free := s.free } = s then firstEvent s l else .next t
    | o => o
/-- What happens while the core `cur` has nothing to do. -/
def background (s : State) : Host.Outcome State Fault Refusal := firstEvent s s.events

/-! ### What the core `cur` does next -/

/-- The task of a core does not execute: there is none, it is a chord member, has not begun, has been saved, or a fault or
call of its flow, or of a transfer at a run boundary, awaits its reply (R384). -/
def State.blocked (s : State) (k : Nat) : Bool :=
  let t := s.tile k
  t.task.isNone || t.memberOf.isSome || s.recorded k || s.grids.any (fun g => g.2.unstarted.contains k) ||
    t.awaiting.any (fun a => !a.xfer) || (!t.awaiting.isEmpty && decide (t.runPos = 0) && !t.parked)
/-- A consort's run cannot begin: a leader has its run to forward first, an attached follower that is in no run has none
(R164). -/
def Tile.consortHolds (t : Tile) (k : Nat) : Bool :=
  match t.consort with
  | none => false
  | some c => if c.leader = k then decide (t.runPos = 0) && t.rep.isNone && !c.runs.isEmpty else c.attached && !c.started && c.runs.isEmpty
/-- An attached follower begins the oldest run that the leader forwarded, unless its own branch had another outcome or its own target
led elsewhere: then it detaches (R164, R165). -/
def Tile.followRun (t : Tile) (k : Nat) : Tile :=
  match t.consort with
  | none => t
  | some c =>
    match c.runs with
    | [] => t
    | a :: _ =>
      if c.leader = k ∨ c.attached = false ∨ c.started then t
      else if c.branched && decide (a.start ≠ t.pc.addr ∨ a.jumped ≠ c.jumped) then t.detach
      else
        let c := { c with started := true }
        { t with
          pc := capMove t.pc (decide (a.start = t.pc.addr)) a.start
          consort := some { c with fullSince := if c.full then c.fullSince else none } }
/-- Some class message can be delivered; an empty inbox is quickly ruled out. -/
def Tile.hasMail (t : Tile) : Bool := !(t.inbox.isEmpty && t.spilled.isEmpty) && t.nextClass.isSome
/-- A handler is entered once the engine instructions that have issued can retire (R254); until then other things happen. -/
def handlerStep (s : State) : Host.Outcome State Fault Refusal :=
  if ((s.engineDrain s.cur).tile s.cur).eng.isEmpty then execHandlerEntry s.cur s else background s
/-- A waiting core: something else happens first, then the waiting instruction looks again, unless the wait is gone. -/
def retryWait (s : State) : Host.Outcome State Fault Refusal :=
  match background s with
  | .next t =>
    if (t.tile s.cur).task = (s.tile s.cur).task ∧ (t.tile s.cur).wait = (s.tile s.cur).wait ∧ !t.blocked s.cur then runCore t
    else .next t
  | o => o
/-- The core `cur` looks again at what it waits for, or runs the instruction at its pc. -/
def flowStep (s : State) : Host.Outcome State Fault Refusal :=
  let t := s.tile s.cur
  match t.wait with
  | some w => if w.on = .firstWake then background s else retryWait s
  | none => if t.consortHolds s.cur then background s else runCore (if t.consort.isSome then s.setTile s.cur (t.followRun s.cur) else s)
/-- A task that executes: a message that has come back from the spill region is looked at (R356), a parked run's results are written
(R195) or it begins to wait for its BARs (R282), the task stops where it is to (R55, R343), or a handler is entered (R48). -/
def taskStep (s : State) : Host.Outcome State Fault Refusal :=
  let k := s.cur
  let t := s.tile k
  match t.spillBack with
  | some m => .next (s.readSpilled k m)
  | none =>
    if t.parked && (!s.dueWaiting k || t.wait.isNone) then execDeferredResult k s
    else if t.stop = some .abort ∧ t.atStop then .next (s.stopTask k)
    else if t.stop = some .save ∧ t.atStop then background s
    else if t.hasMail && t.canEnter then handlerStep s
    else if t.parked then background s
    else flowStep s
/-- One step of the core `cur`. -/
def coreStep (s : State) : Host.Outcome State Fault Refusal :=
  if Config.tileSites ≤ s.cur then .fault .noSuchCore
  else if s.blocked s.cur then background s
  else taskStep s

/-! ### One step of the module -/

/-- An input that names an event lets it come about; an instruction is no event. -/
def eventStep (i : Instr) (s : State) : Host.Outcome State Fault Refusal :=
  match encodeWord i with
  | some _ => .next s
  | none => exec i s
/-- The next input, or a step of `cur`. -/
def stepInput (s : State) : Host.Outcome State Fault Refusal :=
  match s.inputs with
  | [] => coreStep s
  | .tile k :: r => coreStep { s with inputs := r, cur := k }
  | .event i :: r => eventStep i { s with inputs := r }
/-- TIME of a compute die after `n` more cycles, when the reference count is `ref`: within the 2 cycles of the time table's conversion
that R21 allows, and never backwards; TIME has 64 bits (R10). -/
def Die.later (d : Die) (n ref : Nat) : Nat :=
  let c := timeAt d.offset d.rate ref
  max d.time (min (max ((d.time + n : Nat) : Int) (c - 2)) (c + 2)).toNat % 2 ^ 64
/-- Time passes for a die: a rim die's TIME is locked to the reference count (R16). -/
def Die.tick (d : Die) (free n e ref : Nat) : Die :=
  { d with time := if n < Config.dies then d.later (Config.elapsed free n) ref else (d.time + e) % 2 ^ 64 }
/-- Time passes (R10, R21): ticks of the reference count, cycles of every die once boot has begun, and copies of the tables that are
being written (log entry 5). -/
def State.tick (s : State) : State :=
  let e := Config.elapsed s.free 72
  { s with
    free := s.free + 1, refCount := s.refCount + e
    timePub := s.timePub.bind (fun x => x.advance s.free 72)
    fretPub := s.fretPub.bind (fun x => x.advance s.free 288)
    dies := if s.boot = .off then s.dies else s.dies.map (fun d => (d.1, d.2.tick s.free d.1 e (s.refCount + e))) }
/-- A step and the time it takes. -/
def stepModule (s : State) : Host.Outcome State Fault Refusal :=
  match stepInput s with
  | .next t => .next t.tick
  | .fault f => .fault f
  | .refused r => .refused r

/-! ### A program placed from outside (log entry 17) -/

/-- The capability of everything that can be addressed, with every permission. -/
def wholeCap (a : Nat) : Reg := Reg.mk' true (2 ^ 16) 0 40 0 0xFFF a
/-- Virtual address of the placed instruction. -/
def placedVa : Nat := 0x10000
/-- Page tables of ASID 0 at physical address 0, and the placed bytes: the ASID entry, levels 1, 2 and 3, and the page. -/
def placedMemory (b : List Byte) : List (Nat × List Byte) :=
  [(0, leBytes 8 0x20001), (0x20000, leBytes 8 0x40001), (0x40000, leBytes 8 0x50001), (0x50008, leBytes 8 0x6071F), (0x60000, b)]
/-- The core that runs the placed instruction: an attention tile, or a sparse tile for LSPMM (R253). -/
def placedCore (i : Option Instr) : Nat :=
  match i with
  | some (.lspmm _ _ _ _ _) => 8
  | _ => 10
/-- The one grid, of one task. -/
def placedGrid (k : Nat) : Grid :=
  { packetGrid 0 0 0 0 [] (false, false) with bands := 1, teams := 1, tasks := 1, cores := [k], prog := wholeCap placedVa }
/-- Places bytes in memory and a task on a core of die 0 in partition 0 whose pc is at them. -/
def State.place (s : State) (k : Nat) (b : List Byte) : State :=
  let s := (placedMemory b).foldl (fun (s : State) c => s.writeKey c.1 c.2 false) s
  let s := s.modPart 0 (fun p => { p with live := true, dies := [0], hbms := [0] })
  let s := { s with grids := keySet s.grids 0 (placedGrid k), dies := keySet s.dies 0 (s.die 0), inputs := [], cur := k, boot := .running }
  s.modTile k (fun t => { t with task := some ⟨0, 0, 0, 0⟩, pc := wholeCap placedVa })

end Sys2Proof.Machine
end

