-- ==== Sys2Proof/Machine/Step.lean ====
section
/-! DEFINITION. The step of the module, and the state in which its next step runs a given instruction. -/

namespace Sys2Proof.Machine

/-- One step of the module. -/
def step (s : State) : Host.Outcome State Fault Refusal := stepModule s

/-- The state with an instruction's word, its further bits zero, placed where the next step fetches: a program comes from
outside the machine, as a grid of one task (log entry 17). -/
def State.withFetchWord (s : State) (nbits w : Nat) : State :=
  s.place (placedCore (decodeTableWord nbits w)) (leBytes 4 (w % 2 ^ nbits))

end Sys2Proof.Machine
end

