-- ==== Sys2Proof/Laws/Encoding.lean ====
section
/-! SUPPORT. What the parts of an encoding read back as: each field of a word from its value, and the whole of `decode` from
`decode32` and `decode16` (R191, R196, R199). -/

namespace Sys2Proof.Laws

theorem fin4_of {a : Fin 4} {x : Nat} (h : x % 4 = a.val) : fin4 x = a := Fin.ext h
theorem fin8_of {a : Fin 8} {x : Nat} (h : x % 8 = a.val) : fin8 x = a := Fin.ext h
theorem fin16_of {a : Fin 16} {x : Nat} (h : x % 16 = a.val) : fin16 x = a := Fin.ext h
theorem fin32_of {a : Fin 32} {x : Nat} (h : x % 32 = a.val) : fin32 x = a := Fin.ext h
theorem fin64_of {a : Fin 64} {x : Nat} (h : x % 64 = a.val) : fin64 x = a := Fin.ext h
theorem fin256_of {a : Fin 256} {x : Nat} (h : x % 256 = a.val) : fin256 x = a := Fin.ext h
theorem fin2048_of {a : Fin 2048} {x : Nat} (h : x % 2048 = a.val) : fin2048 x = a := Fin.ext h

theorem bits_of {n : Nat} {v : BitVec n} {x : Nat} (h : x % 2 ^ n = v.toNat) : BitVec.ofNat n x = v :=
  BitVec.eq_of_toNat_eq (by simpa using h)

theorem bitAt_of {b : Bool} {w p : Nat} (h : w / p % 2 = b.toNat) : bitAt w p = b := by
  cases b <;> simp_all [bitAt]

theorem scope_code_lt (c : Scope) : c.code < 5 := by cases c <;> decide
theorem scope_of {c : Scope} {x : Nat} (h : x = c.code) : Scope.ofCode x = c := by subst h; cases c <;> rfl
theorem amoOrd_code_lt (c : AmoOrd) : c.code < 4 := by cases c <;> decide
theorem amoOrd_of {c : AmoOrd} {x : Nat} (h : x = c.code) : AmoOrd.ofCode x = c := by subst h; cases c <;> rfl
theorem red_code_lt (c : Red) : c.code < 4 := by cases c <;> decide
theorem red_of {c : Red} {x : Nat} (h : x = c.code) : Red.ofCode x = c := by subst h; cases c <;> rfl
theorem credOrd_code_lt (c : CredOrd) : c.code < 3 := by cases c <;> decide
theorem credOrd_of {c : CredOrd} {x : Nat} (h : x = c.code) : CredOrd.ofCode x = c := by subst h; cases c <;> rfl
theorem rm_code_lt (c : Rm) : c.code < 4 := by cases c <;> decide
theorem rm_of {c : Rm} {x : Nat} (h : x = c.code) : Rm.ofCode x = c := by subst h; cases c <;> rfl
theorem laneTy_code_lt (c : LaneTy) : c.code < 2 := by cases c <;> decide
theorem laneTy_of {c : LaneTy} {x : Nat} (h : x = c.code) : LaneTy.ofCode x = c := by subst h; cases c <;> rfl

/-- D7, AM and RB occupy bits 15 to 31 but for bits 23 and 24, which stay clear. -/
theorem mem_bits_fields (m : Mem) :
    m.bits % 32768 = 0 ∧ m.bits / 8388608 % 4 = 0 ∧ m.bits < 4294967296 := by
  cases m with
  | offset rb imm => have := rb.isLt; have := imm.isLt; simp only [Mem.bits]; omega
  | index rb wi sc => have := rb.isLt; have := wi.isLt; have := sc.toNat_lt; simp only [Mem.bits]; omega
  | post rb imm => have := rb.isLt; have := imm.isLt; simp only [Mem.bits]; omega
  | modulo rb imm mk => have := rb.isLt; have := mk.isLt; have := imm.isLt; simp only [Mem.bits]; omega

/-- The addressing mode reads back from a word that holds it. -/
theorem mem_of {m : Mem} {w : Nat} (h : w / 32768 % 256 = m.bits / 32768 % 256) (h' : w / 33554432 = m.bits / 33554432) :
    Mem.ofBits w = m := by
  cases m with
  | offset rb imm =>
    have := rb.isLt; have := imm.isLt; simp only [Mem.bits] at h h'
    simp only [Mem.ofBits, show w / 2097152 % 4 = 0 by omega]
    rw [fin64_of (a := rb) (by omega), bits_of (v := imm) (by omega)]
  | index rb wi sc =>
    have := rb.isLt; have := wi.isLt; have := sc.toNat_lt; simp only [Mem.bits] at h h'
    simp only [Mem.ofBits, show w / 2097152 % 4 = 1 by omega]
    rw [fin64_of (a := rb) (by omega), fin64_of (a := wi) (by omega), bitAt_of (b := sc) (by omega)]
  | post rb imm =>
    have := rb.isLt; have := imm.isLt; simp only [Mem.bits] at h h'
    simp only [Mem.ofBits, show w / 2097152 % 4 = 2 by omega]
    rw [fin64_of (a := rb) (by omega), bits_of (v := imm) (by omega)]
  | modulo rb imm mk =>
    have := rb.isLt; have := mk.isLt; have := imm.isLt; simp only [Mem.bits] at h h'
    simp only [Mem.ofBits, show w / 2097152 % 4 = 3 by omega]
    rw [fin64_of (a := rb) (by omega), bits_of (v := imm) (by omega), fin8_of (a := mk) (by omega)]

theorem mergeSrc_bits_fields (m : MergeSrc) :
    m.bits % 4096 = 0 ∧ m.bits < 1048576 := by
  cases m with
  | acc m => have := m.isLt; simp only [MergeSrc.bits]; omega
  | slot q => have := q.isLt; simp only [MergeSrc.bits]; omega

theorem mergeSrc_of {m : MergeSrc} {w : Nat} (h : w / 4096 % 256 = m.bits / 4096) : MergeSrc.ofBits w = m := by
  cases m with
  | acc m =>
    have := m.isLt; simp only [MergeSrc.bits] at h
    rw [MergeSrc.ofBits, if_pos (by omega), fin8_of (a := m) (by omega)]
  | slot q =>
    have := q.isLt; simp only [MergeSrc.bits] at h
    rw [MergeSrc.ofBits, if_neg (by omega), fin16_of (a := q) (by omega)]

theorem mergeSrc_unused {m : MergeSrc} {w : Nat} (h : w / 4096 % 256 = m.bits / 4096) : MergeSrc.unused w = 0 := by
  cases m with
  | acc m =>
    have := m.isLt; simp only [MergeSrc.bits] at h
    rw [MergeSrc.unused, if_pos (by omega)]; omega
  | slot q =>
    have := q.isLt; simp only [MergeSrc.bits] at h
    rw [MergeSrc.unused, if_neg (by omega)]; omega

/-- A word of four bytes with length code 0b11 decodes as `decode32` decodes it. -/
theorem decode_word32 {i : Instr} {w : Nat} (he : encodeWord i = some (4, w)) (hw : w < 4294967296) (hq : w % 4 = 3)
    (hd : decode32 w = .ok i) (rest : List Byte) : decode (encode i ++ rest) = .ok (i, rest) := by
  simp only [encode, he, bytesLE, List.cons_append, List.nil_append, decode, BitVec.toNat_ofNat]
  have hp : w % 2 ^ 8 + 256 * (w / 256 % 2 ^ 8) = w % 65536 := by omega
  have ha : w % 2 ^ 8 + 256 * (w / 256 % 2 ^ 8) + 65536 * (w / 256 / 256 % 2 ^ 8 + 256 * (w / 256 / 256 / 256 % 2 ^ 8)) = w := by
    omega
  rw [if_pos (by omega), ha, hd]; rfl

/-- A word of two bytes with another length code decodes as `decode16` decodes it. -/
theorem decode_word16 {i : Instr} {w : Nat} (he : encodeWord i = some (2, w)) (hw : w < 65536) (hq : w % 4 ≠ 3)
    (hd : decode16 w = .ok i) (rest : List Byte) : decode (encode i ++ rest) = .ok (i, rest) := by
  simp only [encode, he, bytesLE, List.cons_append, List.nil_append, decode, BitVec.toNat_ofNat]
  have hp : w % 2 ^ 8 + 256 * (w / 256 % 2 ^ 8) = w := by omega
  rw [if_neg (by omega), hp, hd]; rfl

end Sys2Proof.Laws
end

