-- ==== Sys2Proof/Laws/PerInstr.lean ====
section
/-! SUPPORT. Statements made instruction by instruction, with one lemma per constructor. `RoundTrip`: a well-formed instruction
reads back from its own bytes, whatever bytes follow (R191, R196, R199, R201). -/

namespace Sys2Proof.Laws

/-- A well-formed instruction that has an encoding reads back from its bytes, and the bytes after it are left. -/
def RoundTrip.Statement (i : Instr) : Prop :=
  i.wellFormed = true → i.encoded = true → ∀ rest : List Byte, decode (encode i ++ rest) = .ok (i, rest)

theorem barScope_code {c : Scope} (h : barScope c = true) : 1 ≤ c.code ∧ c.code ≤ 3 := by cases c <;> first | decide | exact absurd h (by decide)
theorem stealScope_code {c : Scope} (h : stealScope c = true) : 1 ≤ c.code ∧ c.code ≤ 2 := by cases c <;> first | decide | exact absurd h (by decide)
theorem plain_not_mx {n : Nat} (h : plainWindow n = true) : mxWindow n = false := by
  simp only [plainWindow, Bool.and_eq_true, Bool.not_eq_true'] at h; exact h.2
theorem mx_range {n : Nat} (h : mxWindow n = true) : 1 ≤ n ∧ n ≤ 14 := by
  simp only [mxWindow, decide_eq_true_eq] at h; omega
theorem plain_range {n : Nat} (h : plainWindow n = true) : 1 ≤ n ∧ n ≤ 14 := by
  simp only [plainWindow, Bool.and_eq_true, decide_eq_true_eq] at h; exact h.1

theorem vdot_limits {ty : LaneTy} {d a b : Fin 32} {g : Fin 8} {u q sw : Bool}
    (h : (Instr.vdot ty d a b g u q sw).wellFormed = true) : ty.code = 1 ∨ (u.toNat = 0 ∧ q.toNat = 0) := by
  cases ty <;> cases u <;> cases q <;> first | decide | exact absurd h Bool.false_ne_true

theorem fields1 {x b : Nat} {m0 m1 : Nat} {f0 f1 f2 f3 : Nat} (hm0 : m0 < 64) (hm1 : m1 < 32) (hb : b = 3 + 8 * m0 + 134217728 * m1)
    (hx : x = b + f3 * 4 + f0 * 512 + f1 * 32768 + f2 * 2097152) (h0 : f0 < 64) (h1 : f1 < 64) (h2 : f2 < 64) (h3 : f3 < 2) :
    x < 4294967296 ∧ x % 4 = 3 ∧ x / 8 % 64 = m0 ∧ x / 134217728 % 32 = m1 ∧ (x / 512) % 64 = f0 ∧ (x / 32768) % 64 = f1 ∧ (x / 2097152) % 64 = f2 ∧ x / 4 % 2 = f3 := by
  subst hb; refine ⟨?_, ?_, ?_, ?_, ?_, ?_, ?_, ?_⟩ <;> omega

theorem fields2 {x b : Nat} {m0 m1 : Nat} {f0 f1 f2 : Nat} (hm0 : m0 < 64) (hm1 : m1 < 32) (hb : b = 3 + 8 * m0 + 134217728 * m1)
    (hx : x = b + f2 * 4 + f0 * 512 + f1 * 32768) (h0 : f0 < 64) (h1 : f1 < 64) (h2 : f2 < 2) :
    x < 4294967296 ∧ x % 4 = 3 ∧ x / 8 % 64 = m0 ∧ x / 134217728 % 32 = m1 ∧ ¬ (¬ x / 2097152 % 64 = 0) ∧ (x / 512) % 64 = f0 ∧ (x / 32768) % 64 = f1 ∧ x / 4 % 2 = f2 := by
  subst hb; refine ⟨?_, ?_, ?_, ?_, ?_, ?_, ?_, ?_⟩ <;> omega

theorem fields3 {x b : Nat} {m0 m1 : Nat} {f0 f1 f2 f3 : Nat} (hm0 : m0 < 64) (hm1 : m1 < 8) (hb : b = 3 + 8 * m0 + 4096 * m1)
    (hx : x = b + f3 * 4 + f0 * 512 + f1 * 32768 + f2 * 2097152) (h0 : f0 < 8) (h1 : f1 < 64) (h2 : f2 < 64) (h3 : f3 < 2) :
    x < 4294967296 ∧ x % 4 = 3 ∧ x / 8 % 64 = m0 ∧ x / 4096 % 8 = m1 ∧ ¬ (¬ x / 134217728 % 32 = 0) ∧ (x / 512) % 8 = f0 ∧ (x / 32768) % 64 = f1 ∧ (x / 2097152) % 64 = f2 ∧ x / 4 % 2 = f3 := by
  subst hb; refine ⟨?_, ?_, ?_, ?_, ?_, ?_, ?_, ?_, ?_⟩ <;> omega

theorem fields4 {x b : Nat} {m0 m1 : Nat} {f0 f1 f2 f3 : Nat} (hm0 : m0 < 64) (hm1 : m1 < 32) (hb : b = 3 + 8 * m0 + 134217728 * m1)
    (hx : x = b + f3 * 4 + f0 * 512 + f1 * 32768 + f2 * 2097152) (h0 : f0 < 8) (h1 : f1 < 8) (h2 : f2 < 8) (h3 : f3 < 2) :
    x < 4294967296 ∧ x % 4 = 3 ∧ x / 8 % 64 = m0 ∧ x / 134217728 % 32 = m1 ∧ ¬ (¬ x / 4096 % 8 = 0) ∧ ¬ (¬ x / 262144 % 8 = 0) ∧ ¬ (¬ x / 16777216 % 8 = 0) ∧ (x / 512) % 8 = f0 ∧ (x / 32768) % 8 = f1 ∧ (x / 2097152) % 8 = f2 ∧ x / 4 % 2 = f3 := by
  subst hb; refine ⟨?_, ?_, ?_, ?_, ?_, ?_, ?_, ?_, ?_, ?_, ?_⟩ <;> omega

theorem fields5 {x b : Nat} {m0 : Nat} {f0 f1 : Nat} (hm0 : m0 < 64) (hb : b = 3 + 8 * m0)
    (hx : x = b + f1 * 4 + f0 * 512) (h0 : f0 < 8388608) (h1 : f1 < 2) :
    x < 4294967296 ∧ x % 4 = 3 ∧ x / 8 % 64 = m0 ∧ (x / 512) % 2 ^ 23 = f0 ∧ x / 4 % 2 = f1 := by
  subst hb; refine ⟨?_, ?_, ?_, ?_, ?_⟩ <;> omega

theorem fields6 {x b : Nat} {m0 m1 : Nat} {f0 f1 : Nat} (hm0 : m0 < 64) (hm1 : m1 < 32) (hb : b = 3 + 8 * m0 + 134217728 * m1)
    (hx : x = b + f1 * 4 + f0 * 32768) (h0 : f0 < 64) (h1 : f1 < 2) :
    x < 4294967296 ∧ x % 4 = 3 ∧ x / 8 % 64 = m0 ∧ x / 134217728 % 32 = m1 ∧ ¬ (¬ x / 512 % 64 = 0) ∧ ¬ (¬ x / 2097152 % 64 = 0) ∧ (x / 32768) % 64 = f0 ∧ x / 4 % 2 = f1 := by
  subst hb; refine ⟨?_, ?_, ?_, ?_, ?_, ?_, ?_, ?_⟩ <;> omega

theorem fields7 {x b : Nat} {m0 m1 : Nat} {f0 : Nat} (hm0 : m0 < 64) (hm1 : m1 < 32) (hb : b = 3 + 8 * m0 + 134217728 * m1)
    (hx : x = b + f0 * 4) (h0 : f0 < 2) :
    x < 4294967296 ∧ x % 4 = 3 ∧ x / 8 % 64 = m0 ∧ x / 134217728 % 32 = m1 ∧ ¬ (¬ x / 512 % 262144 = 0) ∧ x / 4 % 2 = f0 := by
  subst hb; refine ⟨?_, ?_, ?_, ?_, ?_, ?_⟩ <;> omega

theorem fields8 {x b : Nat} {m0 : Nat} {f0 f1 f2 f3 : Nat} (hm0 : m0 < 64) (hb : b = 3 + 8 * m0)
    (hx : x = b + f3 * 4 + f0 * 512 + f1 * 8388608 + f2) (h0 : f0 < 64) (h1 : f1 < 4) (h2 : f2 % 32768 = 0 ∧ f2 / 8388608 % 4 = 0 ∧ f2 < 4294967296) (h3 : f3 < 2) :
    x < 4294967296 ∧ x % 4 = 3 ∧ x / 8 % 64 = m0 ∧ (x / 512) % 64 = f0 ∧ (x / 8388608) % 4 = f1 ∧ x / 32768 % 256 = f2 / 32768 % 256 ∧ x / 33554432 = f2 / 33554432 ∧ x / 4 % 2 = f3 := by
  subst hb; refine ⟨?_, ?_, ?_, ?_, ?_, ?_, ?_, ?_⟩ <;> omega

theorem fields9 {x b : Nat} {m0 m1 : Nat} {f0 f1 f2 : Nat} (hm0 : m0 < 64) (hm1 : m1 < 4) (hb : b = 3 + 8 * m0 + 8388608 * m1)
    (hx : x = b + f2 * 4 + f0 * 512 + f1) (h0 : f0 < 64) (h1 : f1 % 32768 = 0 ∧ f1 / 8388608 % 4 = 0 ∧ f1 < 4294967296) (h2 : f2 < 2) :
    x < 4294967296 ∧ x % 4 = 3 ∧ x / 8 % 64 = m0 ∧ x / 8388608 % 4 = m1 ∧ (x / 512) % 64 = f0 ∧ x / 32768 % 256 = f1 / 32768 % 256 ∧ x / 33554432 = f1 / 33554432 ∧ x / 4 % 2 = f2 := by
  subst hb; refine ⟨?_, ?_, ?_, ?_, ?_, ?_, ?_, ?_⟩ <;> omega

theorem fields10 {x b : Nat} {m0 m1 : Nat} {f0 f1 f2 f3 f4 : Nat} (hm0 : m0 < 64) (hm1 : m1 < 2) (hb : b = 3 + 8 * m0 + 134217728 * m1)
    (hx : x = b + f4 * 4 + f0 * 512 + f1 * 32768 + f2 * 2097152 + f3 * 268435456) (h0 : f0 < 64) (h1 : f1 < 64) (h2 : f2 < 64) (h3 : f3 < 4) (h4 : f4 < 2) :
    x < 4294967296 ∧ x % 4 = 3 ∧ x / 8 % 64 = m0 ∧ x / 134217728 % 2 = m1 ∧ ¬ (¬ x / 1073741824 % 4 = 0) ∧ (x / 512) % 64 = f0 ∧ (x / 32768) % 64 = f1 ∧ (x / 2097152) % 64 = f2 ∧ (x / 268435456) % 4 = f3 ∧ x / 4 % 2 = f4 := by
  subst hb; refine ⟨?_, ?_, ?_, ?_, ?_, ?_, ?_, ?_, ?_, ?_⟩ <;> omega

theorem fields11 {x b : Nat} {m0 m1 : Nat} {f0 f1 f2 f3 : Nat} (hm0 : m0 < 64) (hm1 : m1 < 64) (hb : b = 3 + 8 * m0 + 2097152 * m1)
    (hx : x = b + f3 * 4 + f0 * 512 + f1 * 32768 + f2 * 134217728) (h0 : f0 < 64) (h1 : f1 < 64) (h2 : f2 < 5) (h3 : f3 < 2) :
    x < 4294967296 ∧ x % 4 = 3 ∧ x / 8 % 64 = m0 ∧ x / 2097152 % 64 = m1 ∧ ¬ (5 ≤ x / 134217728 % 8) ∧ ¬ (¬ x / 1073741824 % 4 = 0) ∧ (x / 512) % 64 = f0 ∧ (x / 32768) % 64 = f1 ∧ x / 134217728 % 8 = f2 ∧ x / 4 % 2 = f3 := by
  subst hb; refine ⟨?_, ?_, ?_, ?_, ?_, ?_, ?_, ?_, ?_, ?_⟩ <;> omega

theorem fields12 {x b : Nat} {m0 m1 : Nat} {f0 f1 f2 : Nat} (hm0 : m0 < 64) (hm1 : m1 < 64) (hb : b = 3 + 8 * m0 + 2097152 * m1)
    (hx : x = b + f2 * 4 + f0 * 512 + f1 * 32768) (h0 : f0 < 64) (h1 : f1 < 64) (h2 : f2 < 2) :
    x < 4294967296 ∧ x % 4 = 3 ∧ x / 8 % 64 = m0 ∧ x / 2097152 % 64 = m1 ∧ ¬ (¬ x / 134217728 % 32 = 0) ∧ (x / 512) % 64 = f0 ∧ (x / 32768) % 64 = f1 ∧ x / 4 % 2 = f2 := by
  subst hb; refine ⟨?_, ?_, ?_, ?_, ?_, ?_, ?_, ?_⟩ <;> omega

theorem fields13 {x b : Nat} {m0 m1 : Nat} {f0 f1 : Nat} (hm0 : m0 < 64) (hm1 : m1 < 64) (hb : b = 3 + 8 * m0 + 2097152 * m1)
    (hx : x = b + f1 * 4 + f0 * 512) (h0 : f0 < 64) (h1 : f1 < 2) :
    x < 4294967296 ∧ x % 4 = 3 ∧ x / 8 % 64 = m0 ∧ x / 2097152 % 64 = m1 ∧ ¬ (¬ x / 32768 % 64 = 0) ∧ ¬ (¬ x / 134217728 % 32 = 0) ∧ (x / 512) % 64 = f0 ∧ x / 4 % 2 = f1 := by
  subst hb; refine ⟨?_, ?_, ?_, ?_, ?_, ?_, ?_, ?_⟩ <;> omega

theorem fields14 {x b : Nat} {m0 m1 : Nat} {f0 f1 f2 f3 f4 f5 : Nat} (hm0 : m0 < 64) (hm1 : m1 < 16) (hb : b = 3 + 8 * m0 + 2097152 * m1)
    (hx : x = b + f5 * 4 + f0 * 512 + f1 * 32768 + f2 * 33554432 + f3 * 134217728 + f4 * 1073741824) (h0 : f0 < 64) (h1 : f1 < 64) (h2 : f2 < 2) (h3 : f3 < 5) (h4 : f4 < 4) (h5 : f5 < 2) :
    x < 4294967296 ∧ x % 4 = 3 ∧ x / 8 % 64 = m0 ∧ x / 2097152 % 16 = m1 ∧ ¬ (5 ≤ x / 134217728 % 8) ∧ ¬ (¬ x / 67108864 % 2 = 0) ∧ (x / 512) % 64 = f0 ∧ (x / 32768) % 64 = f1 ∧ x / 33554432 % 2 = f2 ∧ x / 134217728 % 8 = f3 ∧ x / 1073741824 % 4 = f4 ∧ x / 4 % 2 = f5 := by
  subst hb; refine ⟨?_, ?_, ?_, ?_, ?_, ?_, ?_, ?_, ?_, ?_, ?_, ?_⟩ <;> omega

theorem fields15 {x b : Nat} {m0 m1 : Nat} {f0 f1 f2 f3 f4 f5 : Nat} (hm0 : m0 < 64) (hm1 : m1 < 16) (hb : b = 3 + 8 * m0 + 268435456 * m1)
    (hx : x = b + f5 * 4 + f0 * 512 + f1 * 1024 + f2 * 32768 + f3 * 1048576 + f4 * 33554432) (h0 : f0 < 2) (h1 : f1 < 32) (h2 : f2 < 32) (h3 : f3 < 32) (h4 : f4 < 8) (h5 : f5 < 2) :
    x < 4294967296 ∧ x % 4 = 3 ∧ x / 8 % 64 = m0 ∧ x / 268435456 % 16 = m1 ∧ x / 512 % 2 = f0 ∧ (x / 1024) % 32 = f1 ∧ (x / 32768) % 32 = f2 ∧ (x / 1048576) % 32 = f3 ∧ (x / 33554432) % 8 = f4 ∧ x / 4 % 2 = f5 := by
  subst hb; refine ⟨?_, ?_, ?_, ?_, ?_, ?_, ?_, ?_, ?_, ?_⟩ <;> omega

theorem fields16 {x b : Nat} {m0 m1 : Nat} {f0 f1 f2 f3 f4 : Nat} (hm0 : m0 < 64) (hm1 : m1 < 16) (hb : b = 3 + 8 * m0 + 268435456 * m1)
    (hx : x = b + f4 * 4 + f0 * 512 + f1 * 1024 + f2 * 32768 + f3 * 33554432) (h0 : f0 < 2) (h1 : f1 < 32) (h2 : f2 < 32) (h3 : f3 < 8) (h4 : f4 < 2) :
    x < 4294967296 ∧ x % 4 = 3 ∧ x / 8 % 64 = m0 ∧ x / 268435456 % 16 = m1 ∧ ¬ (¬ x / 1048576 % 32 = 0) ∧ x / 512 % 2 = f0 ∧ (x / 1024) % 32 = f1 ∧ (x / 32768) % 32 = f2 ∧ (x / 33554432) % 8 = f3 ∧ x / 4 % 2 = f4 := by
  subst hb; refine ⟨?_, ?_, ?_, ?_, ?_, ?_, ?_, ?_, ?_, ?_⟩ <;> omega

theorem fields17 {x b : Nat} {m0 m1 : Nat} {f0 f1 f2 f3 f4 : Nat} (hm0 : m0 < 64) (hm1 : m1 < 16) (hb : b = 3 + 8 * m0 + 268435456 * m1 + 512)
    (hx : x = b + f4 * 4 + f0 * 1024 + f1 * 32768 + f2 * 1048576 + f3 * 33554432) (h0 : f0 < 32) (h1 : f1 < 32) (h2 : f2 < 32) (h3 : f3 < 8) (h4 : f4 < 2) :
    x < 4294967296 ∧ x % 4 = 3 ∧ x / 8 % 64 = m0 ∧ x / 268435456 % 16 = m1 ∧ ¬ (x / 512 % 2 = 0) ∧ (x / 1024) % 32 = f0 ∧ (x / 32768) % 32 = f1 ∧ (x / 1048576) % 32 = f2 ∧ (x / 33554432) % 8 = f3 ∧ x / 4 % 2 = f4 := by
  subst hb; refine ⟨?_, ?_, ?_, ?_, ?_, ?_, ?_, ?_, ?_, ?_⟩ <;> omega

theorem fields18 {x b : Nat} {m0 m1 : Nat} {f0 f1 f2 f3 f4 f5 : Nat} (hm0 : m0 < 64) (hm1 : m1 < 16) (hb : b = 3 + 8 * m0 + 268435456 * m1)
    (hx : x = b + f5 * 4 + f0 * 512 + f1 * 1024 + f2 * 32768 + f3 * 1048576 + f4 * 33554432) (h0 : f0 < 2) (h1 : f1 < 8) (h2 : f2 < 32) (h3 : f3 < 32) (h4 : f4 < 8) (h5 : f5 < 2) :
    x < 4294967296 ∧ x % 4 = 3 ∧ x / 8 % 64 = m0 ∧ x / 268435456 % 16 = m1 ∧ ¬ (¬ x / 8192 % 4 = 0) ∧ x / 512 % 2 = f0 ∧ (x / 1024) % 8 = f1 ∧ (x / 32768) % 32 = f2 ∧ (x / 1048576) % 32 = f3 ∧ (x / 33554432) % 8 = f4 ∧ x / 4 % 2 = f5 := by
  subst hb; refine ⟨?_, ?_, ?_, ?_, ?_, ?_, ?_, ?_, ?_, ?_, ?_⟩ <;> omega

theorem fields19 {x b : Nat} {m0 m1 : Nat} {f0 f1 f2 f3 f4 : Nat} (hm0 : m0 < 64) (hm1 : m1 < 8) (hb : b = 3 + 8 * m0 + 536870912 * m1)
    (hx : x = b + f4 * 4 + f0 * 1024 + f1 * 32768 + f2 * 2097152 + f3 * 67108864) (h0 : f0 < 32) (h1 : f1 < 64) (h2 : f2 < 4) (h3 : f3 < 8) (h4 : f4 < 2) :
    x < 4294967296 ∧ x % 4 = 3 ∧ x / 8 % 64 = m0 ∧ x / 536870912 % 8 = m1 ∧ ¬ (¬ x / 512 % 2 = 0) ∧ ¬ (¬ x / 8388608 % 8 = 0) ∧ (x / 1024) % 32 = f0 ∧ (x / 32768) % 64 = f1 ∧ (x / 2097152) % 4 = f2 ∧ (x / 67108864) % 8 = f3 ∧ x / 4 % 2 = f4 := by
  subst hb; refine ⟨?_, ?_, ?_, ?_, ?_, ?_, ?_, ?_, ?_, ?_, ?_⟩ <;> omega

theorem fields20 {x b : Nat} {m0 m1 : Nat} {f0 f1 f2 f3 f4 : Nat} (hm0 : m0 < 64) (hm1 : m1 < 8) (hb : b = 3 + 8 * m0 + 536870912 * m1)
    (hx : x = b + f4 * 4 + f0 * 1024 + f1 * 32768 + f2 * 2097152 + f3 * 67108864) (h0 : f0 < 32) (h1 : f1 < 64) (h2 : f2 < 32) (h3 : f3 < 8) (h4 : f4 < 2) :
    x < 4294967296 ∧ x % 4 = 3 ∧ x / 8 % 64 = m0 ∧ x / 536870912 % 8 = m1 ∧ ¬ (¬ x / 512 % 2 = 0) ∧ (x / 1024) % 32 = f0 ∧ (x / 32768) % 64 = f1 ∧ (x / 2097152) % 32 = f2 ∧ (x / 67108864) % 8 = f3 ∧ x / 4 % 2 = f4 := by
  subst hb; refine ⟨?_, ?_, ?_, ?_, ?_, ?_, ?_, ?_, ?_, ?_⟩ <;> omega

theorem fields21 {x b : Nat} {m0 m1 : Nat} {f0 f1 f2 f3 : Nat} (hm0 : m0 < 64) (hm1 : m1 < 16) (hb : b = 3 + 8 * m0 + 268435456 * m1)
    (hx : x = b + f3 * 4 + f0 * 1024 + f1 * 32768 + f2 * 33554432) (h0 : f0 < 32) (h1 : f1 < 32) (h2 : f2 < 8) (h3 : f3 < 2) :
    x < 4294967296 ∧ x % 4 = 3 ∧ x / 8 % 64 = m0 ∧ x / 268435456 % 16 = m1 ∧ ¬ (x / 512 % 2 = 1) ∧ ¬ (¬ x / 1048576 % 32 = 0) ∧ (x / 1024) % 32 = f0 ∧ (x / 32768) % 32 = f1 ∧ (x / 33554432) % 8 = f2 ∧ x / 4 % 2 = f3 := by
  subst hb; refine ⟨?_, ?_, ?_, ?_, ?_, ?_, ?_, ?_, ?_, ?_⟩ <;> omega

theorem fields22 {x b : Nat} {m0 m1 : Nat} {f0 f1 f2 f3 : Nat} (hm0 : m0 < 64) (hm1 : m1 < 16) (hb : b = 3 + 8 * m0 + 268435456 * m1)
    (hx : x = b + f3 * 4 + f0 * 1024 + f1 * 32768 + f2 * 33554432) (h0 : f0 < 32) (h1 : f1 < 32) (h2 : f2 < 8) (h3 : f3 < 2) :
    x < 4294967296 ∧ x % 4 = 3 ∧ x / 8 % 64 = m0 ∧ x / 268435456 % 16 = m1 ∧ ¬ (¬ x / 512 % 2 = 0) ∧ ¬ (¬ x / 1048576 % 32 = 0) ∧ (x / 1024) % 32 = f0 ∧ (x / 32768) % 32 = f1 ∧ (x / 33554432) % 8 = f2 ∧ x / 4 % 2 = f3 := by
  subst hb; refine ⟨?_, ?_, ?_, ?_, ?_, ?_, ?_, ?_, ?_, ?_⟩ <;> omega

theorem fields23 {x b : Nat} {m0 m1 : Nat} {f0 f1 f2 : Nat} (hm0 : m0 < 64) (hm1 : m1 < 16) (hb : b = 3 + 8 * m0 + 268435456 * m1)
    (hx : x = b + f2 * 4 + f0 * 4096 + f1 * 4194304) (h0 : f0 < 16) (h1 : f1 < 64) (h2 : f2 < 2) :
    x < 4294967296 ∧ x % 4 = 3 ∧ x / 8 % 64 = m0 ∧ x / 268435456 % 16 = m1 ∧ ¬ (¬ x / 512 % 8 = 0) ∧ ¬ (¬ x / 65536 % 64 = 0) ∧ (x / 4096) % 16 = f0 ∧ (x / 4194304) % 64 = f1 ∧ x / 4 % 2 = f2 := by
  subst hb; refine ⟨?_, ?_, ?_, ?_, ?_, ?_, ?_, ?_, ?_⟩ <;> omega

theorem fields24 {x b : Nat} {m0 m1 : Nat} {f0 f1 f2 f3 f4 f5 f6 : Nat} (hm0 : m0 < 64) (hm1 : m1 < 4) (hb : b = 3 + 8 * m0 + 268435456 * m1)
    (hx : x = b + f6 * 4 + f0 * 512 + f1 * 4096 + f2 * 65536 + f3 * 262144 + f4 * 4194304 + f5 * 1073741824) (h0 : f0 < 8) (h1 : f1 < 16) (h2 : f2 < 4) (h3 : f3 < 2) (h4 : f4 < 64) (h5 : f5 < 2) (h6 : f6 < 2) :
    x < 4294967296 ∧ x % 4 = 3 ∧ x / 8 % 64 = m0 ∧ x / 268435456 % 4 = m1 ∧ ¬ (¬ x / 524288 % 8 = 0) ∧ ¬ (¬ x / 2147483648 % 2 = 0) ∧ (x / 512) % 8 = f0 ∧ (x / 4096) % 16 = f1 ∧ x / 65536 % 4 = f2 ∧ x / 262144 % 2 = f3 ∧ (x / 4194304) % 64 = f4 ∧ x / 1073741824 % 2 = f5 ∧ x / 4 % 2 = f6 := by
  subst hb; refine ⟨?_, ?_, ?_, ?_, ?_, ?_, ?_, ?_, ?_, ?_, ?_, ?_, ?_⟩ <;> omega

theorem fields25 {x b : Nat} {m0 m1 : Nat} {f0 f1 f2 f3 : Nat} (hm0 : m0 < 64) (hm1 : m1 < 16) (hb : b = 3 + 8 * m0 + 268435456 * m1)
    (hx : x = b + f3 * 4 + f0 * 512 + f1 * 4096 + f2 * 4194304) (h0 : f0 < 8) (h1 : f1 < 16) (h2 : f2 < 64) (h3 : f3 < 2) :
    x < 4294967296 ∧ x % 4 = 3 ∧ x / 8 % 64 = m0 ∧ x / 268435456 % 16 = m1 ∧ ¬ (¬ x / 65536 % 64 = 0) ∧ (x / 512) % 8 = f0 ∧ (x / 4096) % 16 = f1 ∧ (x / 4194304) % 64 = f2 ∧ x / 4 % 2 = f3 := by
  subst hb; refine ⟨?_, ?_, ?_, ?_, ?_, ?_, ?_, ?_, ?_⟩ <;> omega

theorem fields26 {x b : Nat} {m0 m1 : Nat} {f0 f1 f2 : Nat} (hm0 : m0 < 64) (hm1 : m1 < 16) (hb : b = 3 + 8 * m0 + 268435456 * m1)
    (hx : x = b + f2 * 4 + f0 * 512 + f1 * 4194304) (h0 : f0 < 8) (h1 : f1 < 32) (h2 : f2 < 2) :
    x < 4294967296 ∧ x % 4 = 3 ∧ x / 8 % 64 = m0 ∧ x / 268435456 % 16 = m1 ∧ ¬ (¬ x / 4096 % 1024 = 0) ∧ ¬ (¬ x / 134217728 % 2 = 0) ∧ (x / 512) % 8 = f0 ∧ (x / 4194304) % 32 = f1 ∧ x / 4 % 2 = f2 := by
  subst hb; refine ⟨?_, ?_, ?_, ?_, ?_, ?_, ?_, ?_, ?_⟩ <;> omega

theorem fields27 {x b : Nat} {m0 m1 : Nat} {f0 : Nat} (hm0 : m0 < 64) (hm1 : m1 < 64) (hb : b = 3 + 8 * m0 + 2097152 * m1)
    (hx : x = b + f0 * 4) (h0 : f0 < 2) :
    x < 4294967296 ∧ x % 4 = 3 ∧ x / 8 % 64 = m0 ∧ x / 2097152 % 64 = m1 ∧ ¬ (¬ x / 512 % 4096 = 0) ∧ ¬ (¬ x / 134217728 % 32 = 0) ∧ x / 4 % 2 = f0 := by
  subst hb; refine ⟨?_, ?_, ?_, ?_, ?_, ?_, ?_⟩ <;> omega

theorem fields28 {x b : Nat} {m0 m1 : Nat} {f0 f1 : Nat} (hm0 : m0 < 64) (hm1 : m1 < 64) (hb : b = 3 + 8 * m0 + 2097152 * m1)
    (hx : x = b + f1 * 4 + f0 * 32768) (h0 : f0 < 64) (h1 : f1 < 2) :
    x < 4294967296 ∧ x % 4 = 3 ∧ x / 8 % 64 = m0 ∧ x / 2097152 % 64 = m1 ∧ ¬ (¬ x / 512 % 64 = 0) ∧ ¬ (¬ x / 134217728 % 32 = 0) ∧ (x / 32768) % 64 = f0 ∧ x / 4 % 2 = f1 := by
  subst hb; refine ⟨?_, ?_, ?_, ?_, ?_, ?_, ?_, ?_⟩ <;> omega

theorem fields29 {x b : Nat} {m0 m1 m2 : Nat} {f0 : Nat} (hm0 : m0 < 64) (hm1 : m1 < 64) (hm2 : m2 < 4) (hb : b = 3 + 8 * m0 + 2097152 * m1 + 1073741824 * m2)
    (hx : x = b + f0 * 4) (h0 : f0 < 2) :
    x < 4294967296 ∧ x % 4 = 3 ∧ x / 8 % 64 = m0 ∧ x / 2097152 % 64 = m1 ∧ x / 1073741824 = m2 ∧ ¬ (¬ x / 512 % 4096 = 0) ∧ ¬ (¬ x / 134217728 % 8 = 0) ∧ x / 4 % 2 = f0 := by
  subst hb; refine ⟨?_, ?_, ?_, ?_, ?_, ?_, ?_, ?_⟩ <;> omega

theorem fields30 {x b : Nat} {m1 : Nat} {f0 f1 f2 : Nat} (hm1 : m1 < 16) (hb : b = 0 + 8 * m1)
    (hx : x = b + f2 * 4 + f0 * 128 + f1 * 2048) (h0 : f0 < 16) (h1 : f1 < 16) (h2 : f2 < 2) :
    x < 65536 ∧ x % 4 ≠ 3 ∧ x % 4 = 0 ∧ x / 8 % 16 = m1 ∧ ¬ (¬ x / 32768 % 2 = 0) ∧ (x / 128) % 16 = f0 ∧ (x / 2048) % 16 = f1 ∧ x / 4 % 2 = f2 := by
  subst hb; refine ⟨?_, ?_, ?_, ?_, ?_, ?_, ?_, ?_⟩ <;> omega

theorem fields31 {x b : Nat} {m1 : Nat} {f0 f1 : Nat} (hm1 : m1 < 16) (hb : b = 0 + 8 * m1)
    (hx : x = b + f1 * 4 + f0 * 2048) (h0 : f0 < 16) (h1 : f1 < 2) :
    x < 65536 ∧ x % 4 ≠ 3 ∧ x % 4 = 0 ∧ x / 8 % 16 = m1 ∧ ¬ (¬ x / 128 % 16 = 0) ∧ ¬ (¬ x / 32768 % 2 = 0) ∧ (x / 2048) % 16 = f0 ∧ x / 4 % 2 = f1 := by
  subst hb; refine ⟨?_, ?_, ?_, ?_, ?_, ?_, ?_, ?_⟩ <;> omega

theorem fields32 {x b : Nat} {m1 : Nat} {f0 : Nat} (hm1 : m1 < 16) (hb : b = 0 + 8 * m1)
    (hx : x = b + f0 * 4) (h0 : f0 < 2) :
    x < 65536 ∧ x % 4 ≠ 3 ∧ x % 4 = 0 ∧ x / 8 % 16 = m1 ∧ ¬ (¬ x / 128 % 512 = 0) ∧ x / 4 % 2 = f0 := by
  subst hb; refine ⟨?_, ?_, ?_, ?_, ?_, ?_⟩ <;> omega

theorem fields33 {x b : Nat} {m1 : Nat} {f0 f1 f2 : Nat} (hm1 : m1 < 16) (hb : b = 1 + 8 * m1)
    (hx : x = b + f2 * 4 + f0 * 128 + f1 * 2048) (h0 : f0 < 16) (h1 : f1 < 32) (h2 : f2 < 2) :
    x < 65536 ∧ x % 4 ≠ 3 ∧ x % 4 = 1 ∧ x / 8 % 16 = m1 ∧ (x / 128) % 16 = f0 ∧ (x / 2048) % 2 ^ 5 = f1 ∧ x / 4 % 2 = f2 := by
  subst hb; refine ⟨?_, ?_, ?_, ?_, ?_, ?_, ?_⟩ <;> omega

theorem fields34 {x b : Nat} {m1 : Nat} {f0 f1 f2 : Nat} (hm1 : m1 < 16) (hb : b = 2 + 8 * m1)
    (hx : x = b + f2 * 4 + f0 * 128 + f1 * 2048) (h0 : f0 < 16) (h1 : f1 < 16) (h2 : f2 < 2) :
    x < 65536 ∧ x % 4 ≠ 3 ∧ x % 4 = 2 ∧ x / 8 % 16 = m1 ∧ ¬ (¬ x / 32768 % 2 = 0) ∧ (x / 128) % 16 = f0 ∧ (x / 2048) % 16 = f1 ∧ x / 4 % 2 = f2 := by
  subst hb; refine ⟨?_, ?_, ?_, ?_, ?_, ?_, ?_, ?_⟩ <;> omega

theorem RoundTrip.add (d : Fin 64) (a : Fin 64) (b : Fin 64) (sw : Bool) : RoundTrip.Statement (.add d a b sw) := by
  intro _ _ rest
  obtain ⟨x, hx⟩ : ∃ x, x = 3 + sw.toNat * 4 + d.val * 512 + a.val * 32768 + b.val * 2097152 := ⟨_, rfl⟩
  have he : encodeWord (.add d a b sw) = some (4, x) := by rw [hx]; rfl
  obtain ⟨q0, q1, k0, k1, v0, v1, v2, v3⟩ := fields1 (m0 := 0) (m1 := 0) (by decide) (by decide) rfl hx d.isLt a.isLt b.isLt sw.toNat_lt
  refine decode_word32 he q0 q1 ?_ rest
  rw [decode32]; rw [k0]
  change dec00 x = _
  rw [dec00]; rw [k1]
  change Except.ok _ = _
  rw [fin64_of (a := d) v0, fin64_of (a := a) v1, fin64_of (a := b) v2, bitAt_of (b := sw) v3]

theorem RoundTrip.sub (d : Fin 64) (a : Fin 64) (b : Fin 64) (sw : Bool) : RoundTrip.Statement (.sub d a b sw) := by
  intro _ _ rest
  obtain ⟨x, hx⟩ : ∃ x, x = 134217731 + sw.toNat * 4 + d.val * 512 + a.val * 32768 + b.val * 2097152 := ⟨_, rfl⟩
  have he : encodeWord (.sub d a b sw) = some (4, x) := by rw [hx]; rfl
  obtain ⟨q0, q1, k0, k1, v0, v1, v2, v3⟩ := fields1 (m0 := 0) (m1 := 1) (by decide) (by decide) rfl hx d.isLt a.isLt b.isLt sw.toNat_lt
  refine decode_word32 he q0 q1 ?_ rest
  rw [decode32]; rw [k0]
  change dec00 x = _
  rw [dec00]; rw [k1]
  change Except.ok _ = _
  rw [fin64_of (a := d) v0, fin64_of (a := a) v1, fin64_of (a := b) v2, bitAt_of (b := sw) v3]

theorem RoundTrip.and (d : Fin 64) (a : Fin 64) (b : Fin 64) (sw : Bool) : RoundTrip.Statement (.and d a b sw) := by
  intro _ _ rest
  obtain ⟨x, hx⟩ : ∃ x, x = 268435459 + sw.toNat * 4 + d.val * 512 + a.val * 32768 + b.val * 2097152 := ⟨_, rfl⟩
  have he : encodeWord (.and d a b sw) = some (4, x) := by rw [hx]; rfl
  obtain ⟨q0, q1, k0, k1, v0, v1, v2, v3⟩ := fields1 (m0 := 0) (m1 := 2) (by decide) (by decide) rfl hx d.isLt a.isLt b.isLt sw.toNat_lt
  refine decode_word32 he q0 q1 ?_ rest
  rw [decode32]; rw [k0]
  change dec00 x = _
  rw [dec00]; rw [k1]
  change Except.ok _ = _
  rw [fin64_of (a := d) v0, fin64_of (a := a) v1, fin64_of (a := b) v2, bitAt_of (b := sw) v3]

theorem RoundTrip.or (d : Fin 64) (a : Fin 64) (b : Fin 64) (sw : Bool) : RoundTrip.Statement (.or d a b sw) := by
  intro _ _ rest
  obtain ⟨x, hx⟩ : ∃ x, x = 402653187 + sw.toNat * 4 + d.val * 512 + a.val * 32768 + b.val * 2097152 := ⟨_, rfl⟩
  have he : encodeWord (.or d a b sw) = some (4, x) := by rw [hx]; rfl
  obtain ⟨q0, q1, k0, k1, v0, v1, v2, v3⟩ := fields1 (m0 := 0) (m1 := 3) (by decide) (by decide) rfl hx d.isLt a.isLt b.isLt sw.toNat_lt
  refine decode_word32 he q0 q1 ?_ rest
  rw [decode32]; rw [k0]
  change dec00 x = _
  rw [dec00]; rw [k1]
  change Except.ok _ = _
  rw [fin64_of (a := d) v0, fin64_of (a := a) v1, fin64_of (a := b) v2, bitAt_of (b := sw) v3]

theorem RoundTrip.xor (d : Fin 64) (a : Fin 64) (b : Fin 64) (sw : Bool) : RoundTrip.Statement (.xor d a b sw) := by
  intro _ _ rest
  obtain ⟨x, hx⟩ : ∃ x, x = 536870915 + sw.toNat * 4 + d.val * 512 + a.val * 32768 + b.val * 2097152 := ⟨_, rfl⟩
  have he : encodeWord (.xor d a b sw) = some (4, x) := by rw [hx]; rfl
  obtain ⟨q0, q1, k0, k1, v0, v1, v2, v3⟩ := fields1 (m0 := 0) (m1 := 4) (by decide) (by decide) rfl hx d.isLt a.isLt b.isLt sw.toNat_lt
  refine decode_word32 he q0 q1 ?_ rest
  rw [decode32]; rw [k0]
  change dec00 x = _
  rw [dec00]; rw [k1]
  change Except.ok _ = _
  rw [fin64_of (a := d) v0, fin64_of (a := a) v1, fin64_of (a := b) v2, bitAt_of (b := sw) v3]

theorem RoundTrip.andn (d : Fin 64) (a : Fin 64) (b : Fin 64) (sw : Bool) : RoundTrip.Statement (.andn d a b sw) := by
  intro _ _ rest
  obtain ⟨x, hx⟩ : ∃ x, x = 671088643 + sw.toNat * 4 + d.val * 512 + a.val * 32768 + b.val * 2097152 := ⟨_, rfl⟩
  have he : encodeWord (.andn d a b sw) = some (4, x) := by rw [hx]; rfl
  obtain ⟨q0, q1, k0, k1, v0, v1, v2, v3⟩ := fields1 (m0 := 0) (m1 := 5) (by decide) (by decide) rfl hx d.isLt a.isLt b.isLt sw.toNat_lt
  refine decode_word32 he q0 q1 ?_ rest
  rw [decode32]; rw [k0]
  change dec00 x = _
  rw [dec00]; rw [k1]
  change Except.ok _ = _
  rw [fin64_of (a := d) v0, fin64_of (a := a) v1, fin64_of (a := b) v2, bitAt_of (b := sw) v3]

theorem RoundTrip.shl (d : Fin 64) (a : Fin 64) (b : Fin 64) (sw : Bool) : RoundTrip.Statement (.shl d a b sw) := by
  intro _ _ rest
  obtain ⟨x, hx⟩ : ∃ x, x = 805306371 + sw.toNat * 4 + d.val * 512 + a.val * 32768 + b.val * 2097152 := ⟨_, rfl⟩
  have he : encodeWord (.shl d a b sw) = some (4, x) := by rw [hx]; rfl
  obtain ⟨q0, q1, k0, k1, v0, v1, v2, v3⟩ := fields1 (m0 := 0) (m1 := 6) (by decide) (by decide) rfl hx d.isLt a.isLt b.isLt sw.toNat_lt
  refine decode_word32 he q0 q1 ?_ rest
  rw [decode32]; rw [k0]
  change dec00 x = _
  rw [dec00]; rw [k1]
  change Except.ok _ = _
  rw [fin64_of (a := d) v0, fin64_of (a := a) v1, fin64_of (a := b) v2, bitAt_of (b := sw) v3]

theorem RoundTrip.shr (d : Fin 64) (a : Fin 64) (b : Fin 64) (sw : Bool) : RoundTrip.Statement (.shr d a b sw) := by
  intro _ _ rest
  obtain ⟨x, hx⟩ : ∃ x, x = 939524099 + sw.toNat * 4 + d.val * 512 + a.val * 32768 + b.val * 2097152 := ⟨_, rfl⟩
  have he : encodeWord (.shr d a b sw) = some (4, x) := by rw [hx]; rfl
  obtain ⟨q0, q1, k0, k1, v0, v1, v2, v3⟩ := fields1 (m0 := 0) (m1 := 7) (by decide) (by decide) rfl hx d.isLt a.isLt b.isLt sw.toNat_lt
  refine decode_word32 he q0 q1 ?_ rest
  rw [decode32]; rw [k0]
  change dec00 x = _
  rw [dec00]; rw [k1]
  change Except.ok _ = _
  rw [fin64_of (a := d) v0, fin64_of (a := a) v1, fin64_of (a := b) v2, bitAt_of (b := sw) v3]

theorem RoundTrip.shra (d : Fin 64) (a : Fin 64) (b : Fin 64) (sw : Bool) : RoundTrip.Statement (.shra d a b sw) := by
  intro _ _ rest
  obtain ⟨x, hx⟩ : ∃ x, x = 1073741827 + sw.toNat * 4 + d.val * 512 + a.val * 32768 + b.val * 2097152 := ⟨_, rfl⟩
  have he : encodeWord (.shra d a b sw) = some (4, x) := by rw [hx]; rfl
  obtain ⟨q0, q1, k0, k1, v0, v1, v2, v3⟩ := fields1 (m0 := 0) (m1 := 8) (by decide) (by decide) rfl hx d.isLt a.isLt b.isLt sw.toNat_lt
  refine decode_word32 he q0 q1 ?_ rest
  rw [decode32]; rw [k0]
  change dec00 x = _
  rw [dec00]; rw [k1]
  change Except.ok _ = _
  rw [fin64_of (a := d) v0, fin64_of (a := a) v1, fin64_of (a := b) v2, bitAt_of (b := sw) v3]

theorem RoundTrip.rot (d : Fin 64) (a : Fin 64) (b : Fin 64) (sw : Bool) : RoundTrip.Statement (.rot d a b sw) := by
  intro _ _ rest
  obtain ⟨x, hx⟩ : ∃ x, x = 1207959555 + sw.toNat * 4 + d.val * 512 + a.val * 32768 + b.val * 2097152 := ⟨_, rfl⟩
  have he : encodeWord (.rot d a b sw) = some (4, x) := by rw [hx]; rfl
  obtain ⟨q0, q1, k0, k1, v0, v1, v2, v3⟩ := fields1 (m0 := 0) (m1 := 9) (by decide) (by decide) rfl hx d.isLt a.isLt b.isLt sw.toNat_lt
  refine decode_word32 he q0 q1 ?_ rest
  rw [decode32]; rw [k0]
  change dec00 x = _
  rw [dec00]; rw [k1]
  change Except.ok _ = _
  rw [fin64_of (a := d) v0, fin64_of (a := a) v1, fin64_of (a := b) v2, bitAt_of (b := sw) v3]

theorem RoundTrip.min (d : Fin 64) (a : Fin 64) (b : Fin 64) (sw : Bool) : RoundTrip.Statement (.min d a b sw) := by
  intro _ _ rest
  obtain ⟨x, hx⟩ : ∃ x, x = 1342177283 + sw.toNat * 4 + d.val * 512 + a.val * 32768 + b.val * 2097152 := ⟨_, rfl⟩
  have he : encodeWord (.min d a b sw) = some (4, x) := by rw [hx]; rfl
  obtain ⟨q0, q1, k0, k1, v0, v1, v2, v3⟩ := fields1 (m0 := 0) (m1 := 10) (by decide) (by decide) rfl hx d.isLt a.isLt b.isLt sw.toNat_lt
  refine decode_word32 he q0 q1 ?_ rest
  rw [decode32]; rw [k0]
  change dec00 x = _
  rw [dec00]; rw [k1]
  change Except.ok _ = _
  rw [fin64_of (a := d) v0, fin64_of (a := a) v1, fin64_of (a := b) v2, bitAt_of (b := sw) v3]

theorem RoundTrip.max (d : Fin 64) (a : Fin 64) (b : Fin 64) (sw : Bool) : RoundTrip.Statement (.max d a b sw) := by
  intro _ _ rest
  obtain ⟨x, hx⟩ : ∃ x, x = 1476395011 + sw.toNat * 4 + d.val * 512 + a.val * 32768 + b.val * 2097152 := ⟨_, rfl⟩
  have he : encodeWord (.max d a b sw) = some (4, x) := by rw [hx]; rfl
  obtain ⟨q0, q1, k0, k1, v0, v1, v2, v3⟩ := fields1 (m0 := 0) (m1 := 11) (by decide) (by decide) rfl hx d.isLt a.isLt b.isLt sw.toNat_lt
  refine decode_word32 he q0 q1 ?_ rest
  rw [decode32]; rw [k0]
  change dec00 x = _
  rw [dec00]; rw [k1]
  change Except.ok _ = _
  rw [fin64_of (a := d) v0, fin64_of (a := a) v1, fin64_of (a := b) v2, bitAt_of (b := sw) v3]

theorem RoundTrip.clz (d : Fin 64) (a : Fin 64) (sw : Bool) : RoundTrip.Statement (.clz d a sw) := by
  intro _ _ rest
  obtain ⟨x, hx⟩ : ∃ x, x = 1610612739 + sw.toNat * 4 + d.val * 512 + a.val * 32768 := ⟨_, rfl⟩
  have he : encodeWord (.clz d a sw) = some (4, x) := by rw [hx]; rfl
  obtain ⟨q0, q1, k0, k1, c0, v0, v1, v2⟩ := fields2 (m0 := 0) (m1 := 12) (by decide) (by decide) rfl hx d.isLt a.isLt sw.toNat_lt
  refine decode_word32 he q0 q1 ?_ rest
  rw [decode32]; rw [k0]
  change dec00 x = _
  rw [dec00]; rw [k1]
  change (if _ then _ else _) = _
  rw [if_neg c0]
  rw [fin64_of (a := d) v0, fin64_of (a := a) v1, bitAt_of (b := sw) v2]

theorem RoundTrip.popc (d : Fin 64) (a : Fin 64) (sw : Bool) : RoundTrip.Statement (.popc d a sw) := by
  intro _ _ rest
  obtain ⟨x, hx⟩ : ∃ x, x = 1744830467 + sw.toNat * 4 + d.val * 512 + a.val * 32768 := ⟨_, rfl⟩
  have he : encodeWord (.popc d a sw) = some (4, x) := by rw [hx]; rfl
  obtain ⟨q0, q1, k0, k1, c0, v0, v1, v2⟩ := fields2 (m0 := 0) (m1 := 13) (by decide) (by decide) rfl hx d.isLt a.isLt sw.toNat_lt
  refine decode_word32 he q0 q1 ?_ rest
  rw [decode32]; rw [k0]
  change dec00 x = _
  rw [dec00]; rw [k1]
  change (if _ then _ else _) = _
  rw [if_neg c0]
  rw [fin64_of (a := d) v0, fin64_of (a := a) v1, bitAt_of (b := sw) v2]

theorem RoundTrip.mov (d : Fin 64) (a : Fin 64) (sw : Bool) : RoundTrip.Statement (.mov d a sw) := by
  intro _ _ rest
  obtain ⟨x, hx⟩ : ∃ x, x = 1879048195 + sw.toNat * 4 + d.val * 512 + a.val * 32768 := ⟨_, rfl⟩
  have he : encodeWord (.mov d a sw) = some (4, x) := by rw [hx]; rfl
  obtain ⟨q0, q1, k0, k1, c0, v0, v1, v2⟩ := fields2 (m0 := 0) (m1 := 14) (by decide) (by decide) rfl hx d.isLt a.isLt sw.toNat_lt
  refine decode_word32 he q0 q1 ?_ rest
  rw [decode32]; rw [k0]
  change dec00 x = _
  rw [dec00]; rw [k1]
  change (if _ then _ else _) = _
  rw [if_neg c0]
  rw [fin64_of (a := d) v0, fin64_of (a := a) v1, bitAt_of (b := sw) v2]

theorem RoundTrip.mul (d : Fin 64) (a : Fin 64) (b : Fin 64) (sw : Bool) : RoundTrip.Statement (.mul d a b sw) := by
  intro _ _ rest
  obtain ⟨x, hx⟩ : ∃ x, x = 11 + sw.toNat * 4 + d.val * 512 + a.val * 32768 + b.val * 2097152 := ⟨_, rfl⟩
  have he : encodeWord (.mul d a b sw) = some (4, x) := by rw [hx]; rfl
  obtain ⟨q0, q1, k0, k1, v0, v1, v2, v3⟩ := fields1 (m0 := 1) (m1 := 0) (by decide) (by decide) rfl hx d.isLt a.isLt b.isLt sw.toNat_lt
  refine decode_word32 he q0 q1 ?_ rest
  rw [decode32]; rw [k0]
  change dec01 x = _
  rw [dec01]; rw [k1]
  change Except.ok _ = _
  rw [fin64_of (a := d) v0, fin64_of (a := a) v1, fin64_of (a := b) v2, bitAt_of (b := sw) v3]

theorem RoundTrip.mulh (d : Fin 64) (a : Fin 64) (b : Fin 64) (sw : Bool) : RoundTrip.Statement (.mulh d a b sw) := by
  intro _ _ rest
  obtain ⟨x, hx⟩ : ∃ x, x = 134217739 + sw.toNat * 4 + d.val * 512 + a.val * 32768 + b.val * 2097152 := ⟨_, rfl⟩
  have he : encodeWord (.mulh d a b sw) = some (4, x) := by rw [hx]; rfl
  obtain ⟨q0, q1, k0, k1, v0, v1, v2, v3⟩ := fields1 (m0 := 1) (m1 := 1) (by decide) (by decide) rfl hx d.isLt a.isLt b.isLt sw.toNat_lt
  refine decode_word32 he q0 q1 ?_ rest
  rw [decode32]; rw [k0]
  change dec01 x = _
  rw [dec01]; rw [k1]
  change Except.ok _ = _
  rw [fin64_of (a := d) v0, fin64_of (a := a) v1, fin64_of (a := b) v2, bitAt_of (b := sw) v3]

theorem RoundTrip.mulhU (d : Fin 64) (a : Fin 64) (b : Fin 64) (sw : Bool) : RoundTrip.Statement (.mulhU d a b sw) := by
  intro _ _ rest
  obtain ⟨x, hx⟩ : ∃ x, x = 268435467 + sw.toNat * 4 + d.val * 512 + a.val * 32768 + b.val * 2097152 := ⟨_, rfl⟩
  have he : encodeWord (.mulhU d a b sw) = some (4, x) := by rw [hx]; rfl
  obtain ⟨q0, q1, k0, k1, v0, v1, v2, v3⟩ := fields1 (m0 := 1) (m1 := 2) (by decide) (by decide) rfl hx d.isLt a.isLt b.isLt sw.toNat_lt
  refine decode_word32 he q0 q1 ?_ rest
  rw [decode32]; rw [k0]
  change dec01 x = _
  rw [dec01]; rw [k1]
  change Except.ok _ = _
  rw [fin64_of (a := d) v0, fin64_of (a := a) v1, fin64_of (a := b) v2, bitAt_of (b := sw) v3]

theorem RoundTrip.div (d : Fin 64) (a : Fin 64) (b : Fin 64) (sw : Bool) : RoundTrip.Statement (.div d a b sw) := by
  intro _ _ rest
  obtain ⟨x, hx⟩ : ∃ x, x = 402653195 + sw.toNat * 4 + d.val * 512 + a.val * 32768 + b.val * 2097152 := ⟨_, rfl⟩
  have he : encodeWord (.div d a b sw) = some (4, x) := by rw [hx]; rfl
  obtain ⟨q0, q1, k0, k1, v0, v1, v2, v3⟩ := fields1 (m0 := 1) (m1 := 3) (by decide) (by decide) rfl hx d.isLt a.isLt b.isLt sw.toNat_lt
  refine decode_word32 he q0 q1 ?_ rest
  rw [decode32]; rw [k0]
  change dec01 x = _
  rw [dec01]; rw [k1]
  change Except.ok _ = _
  rw [fin64_of (a := d) v0, fin64_of (a := a) v1, fin64_of (a := b) v2, bitAt_of (b := sw) v3]

theorem RoundTrip.divU (d : Fin 64) (a : Fin 64) (b : Fin 64) (sw : Bool) : RoundTrip.Statement (.divU d a b sw) := by
  intro _ _ rest
  obtain ⟨x, hx⟩ : ∃ x, x = 536870923 + sw.toNat * 4 + d.val * 512 + a.val * 32768 + b.val * 2097152 := ⟨_, rfl⟩
  have he : encodeWord (.divU d a b sw) = some (4, x) := by rw [hx]; rfl
  obtain ⟨q0, q1, k0, k1, v0, v1, v2, v3⟩ := fields1 (m0 := 1) (m1 := 4) (by decide) (by decide) rfl hx d.isLt a.isLt b.isLt sw.toNat_lt
  refine decode_word32 he q0 q1 ?_ rest
  rw [decode32]; rw [k0]
  change dec01 x = _
  rw [dec01]; rw [k1]
  change Except.ok _ = _
  rw [fin64_of (a := d) v0, fin64_of (a := a) v1, fin64_of (a := b) v2, bitAt_of (b := sw) v3]

theorem RoundTrip.rem (d : Fin 64) (a : Fin 64) (b : Fin 64) (sw : Bool) : RoundTrip.Statement (.rem d a b sw) := by
  intro _ _ rest
  obtain ⟨x, hx⟩ : ∃ x, x = 671088651 + sw.toNat * 4 + d.val * 512 + a.val * 32768 + b.val * 2097152 := ⟨_, rfl⟩
  have he : encodeWord (.rem d a b sw) = some (4, x) := by rw [hx]; rfl
  obtain ⟨q0, q1, k0, k1, v0, v1, v2, v3⟩ := fields1 (m0 := 1) (m1 := 5) (by decide) (by decide) rfl hx d.isLt a.isLt b.isLt sw.toNat_lt
  refine decode_word32 he q0 q1 ?_ rest
  rw [decode32]; rw [k0]
  change dec01 x = _
  rw [dec01]; rw [k1]
  change Except.ok _ = _
  rw [fin64_of (a := d) v0, fin64_of (a := a) v1, fin64_of (a := b) v2, bitAt_of (b := sw) v3]

theorem RoundTrip.remU (d : Fin 64) (a : Fin 64) (b : Fin 64) (sw : Bool) : RoundTrip.Statement (.remU d a b sw) := by
  intro _ _ rest
  obtain ⟨x, hx⟩ : ∃ x, x = 805306379 + sw.toNat * 4 + d.val * 512 + a.val * 32768 + b.val * 2097152 := ⟨_, rfl⟩
  have he : encodeWord (.remU d a b sw) = some (4, x) := by rw [hx]; rfl
  obtain ⟨q0, q1, k0, k1, v0, v1, v2, v3⟩ := fields1 (m0 := 1) (m1 := 6) (by decide) (by decide) rfl hx d.isLt a.isLt b.isLt sw.toNat_lt
  refine decode_word32 he q0 q1 ?_ rest
  rw [decode32]; rw [k0]
  change dec01 x = _
  rw [dec01]; rw [k1]
  change Except.ok _ = _
  rw [fin64_of (a := d) v0, fin64_of (a := a) v1, fin64_of (a := b) v2, bitAt_of (b := sw) v3]

theorem RoundTrip.addi (d : Fin 64) (a : Fin 64) (imm : BitVec 11) (sw : Bool) : RoundTrip.Statement (.addi d a imm sw) := by
  intro _ _ rest
  have := d.isLt; have := a.isLt; have := imm.isLt; have := sw.toNat_lt
  obtain ⟨x, hx⟩ : ∃ x, x = 19 + sw.toNat * 4 + d.val * 512 + a.val * 32768 + imm.toNat * 2097152 := ⟨_, rfl⟩
  have he : encodeWord (.addi d a imm sw) = some (4, x) := by rw [hx]; rfl
  refine decode_word32 he (by omega) (by omega) ?_ rest
  rw [decode32]
  rw [show x / 8 % 64 = 2 by omega]
  change dec02 x = _
  rw [dec02]
  rw [fin64_of (a := d) (by omega), fin64_of (a := a) (by omega), bits_of (v := imm) (by omega), bitAt_of (b := sw) (by omega)]

theorem RoundTrip.li (d : Fin 64) (imm : BitVec 17) (sw : Bool) : RoundTrip.Statement (.li d imm sw) := by
  intro _ _ rest
  have := d.isLt; have := imm.isLt; have := sw.toNat_lt
  obtain ⟨x, hx⟩ : ∃ x, x = 27 + sw.toNat * 4 + d.val * 512 + imm.toNat * 32768 := ⟨_, rfl⟩
  have he : encodeWord (.li d imm sw) = some (4, x) := by rw [hx]; rfl
  refine decode_word32 he (by omega) (by omega) ?_ rest
  rw [decode32]
  rw [show x / 8 % 64 = 3 by omega]
  change dec03 x = _
  rw [dec03]
  rw [fin64_of (a := d) (by omega), bits_of (v := imm) (by omega), bitAt_of (b := sw) (by omega)]

theorem RoundTrip.lih (d : Fin 64) (imm : BitVec 16) (sw : Bool) : RoundTrip.Statement (.lih d imm sw) := by
  intro _ _ rest
  have := d.isLt; have := imm.isLt; have := sw.toNat_lt
  obtain ⟨x, hx⟩ : ∃ x, x = 35 + sw.toNat * 4 + d.val * 512 + imm.toNat * 32768 := ⟨_, rfl⟩
  have he : encodeWord (.lih d imm sw) = some (4, x) := by rw [hx]; rfl
  refine decode_word32 he (by omega) (by omega) ?_ rest
  rw [decode32]
  rw [show x / 8 % 64 = 4 by omega]
  change dec04 x = _
  rw [dec04]
  rw [if_neg (by omega)]
  rw [fin64_of (a := d) (by omega), bits_of (v := imm) (by omega), bitAt_of (b := sw) (by omega)]

theorem RoundTrip.cmpEq (p : Fin 8) (a : Fin 64) (b : Fin 64) (sw : Bool) : RoundTrip.Statement (.cmpEq p a b sw) := by
  intro _ _ rest
  obtain ⟨x, hx⟩ : ∃ x, x = 43 + sw.toNat * 4 + p.val * 512 + a.val * 32768 + b.val * 2097152 := ⟨_, rfl⟩
  have he : encodeWord (.cmpEq p a b sw) = some (4, x) := by rw [hx]; rfl
  obtain ⟨q0, q1, k0, k1, c0, v0, v1, v2, v3⟩ := fields3 (m0 := 5) (m1 := 0) (by decide) (by decide) rfl hx p.isLt a.isLt b.isLt sw.toNat_lt
  refine decode_word32 he q0 q1 ?_ rest
  rw [decode32]; rw [k0]
  change dec05 x = _
  rw [dec05]; rw [k1]
  change (if _ then _ else _) = _
  rw [if_neg c0]
  rw [fin8_of (a := p) v0, fin64_of (a := a) v1, fin64_of (a := b) v2, bitAt_of (b := sw) v3]

theorem RoundTrip.cmpNe (p : Fin 8) (a : Fin 64) (b : Fin 64) (sw : Bool) : RoundTrip.Statement (.cmpNe p a b sw) := by
  intro _ _ rest
  obtain ⟨x, hx⟩ : ∃ x, x = 4139 + sw.toNat * 4 + p.val * 512 + a.val * 32768 + b.val * 2097152 := ⟨_, rfl⟩
  have he : encodeWord (.cmpNe p a b sw) = some (4, x) := by rw [hx]; rfl
  obtain ⟨q0, q1, k0, k1, c0, v0, v1, v2, v3⟩ := fields3 (m0 := 5) (m1 := 1) (by decide) (by decide) rfl hx p.isLt a.isLt b.isLt sw.toNat_lt
  refine decode_word32 he q0 q1 ?_ rest
  rw [decode32]; rw [k0]
  change dec05 x = _
  rw [dec05]; rw [k1]
  change (if _ then _ else _) = _
  rw [if_neg c0]
  rw [fin8_of (a := p) v0, fin64_of (a := a) v1, fin64_of (a := b) v2, bitAt_of (b := sw) v3]

theorem RoundTrip.cmpLt (p : Fin 8) (a : Fin 64) (b : Fin 64) (sw : Bool) : RoundTrip.Statement (.cmpLt p a b sw) := by
  intro _ _ rest
  obtain ⟨x, hx⟩ : ∃ x, x = 8235 + sw.toNat * 4 + p.val * 512 + a.val * 32768 + b.val * 2097152 := ⟨_, rfl⟩
  have he : encodeWord (.cmpLt p a b sw) = some (4, x) := by rw [hx]; rfl
  obtain ⟨q0, q1, k0, k1, c0, v0, v1, v2, v3⟩ := fields3 (m0 := 5) (m1 := 2) (by decide) (by decide) rfl hx p.isLt a.isLt b.isLt sw.toNat_lt
  refine decode_word32 he q0 q1 ?_ rest
  rw [decode32]; rw [k0]
  change dec05 x = _
  rw [dec05]; rw [k1]
  change (if _ then _ else _) = _
  rw [if_neg c0]
  rw [fin8_of (a := p) v0, fin64_of (a := a) v1, fin64_of (a := b) v2, bitAt_of (b := sw) v3]

theorem RoundTrip.cmpGe (p : Fin 8) (a : Fin 64) (b : Fin 64) (sw : Bool) : RoundTrip.Statement (.cmpGe p a b sw) := by
  intro _ _ rest
  obtain ⟨x, hx⟩ : ∃ x, x = 12331 + sw.toNat * 4 + p.val * 512 + a.val * 32768 + b.val * 2097152 := ⟨_, rfl⟩
  have he : encodeWord (.cmpGe p a b sw) = some (4, x) := by rw [hx]; rfl
  obtain ⟨q0, q1, k0, k1, c0, v0, v1, v2, v3⟩ := fields3 (m0 := 5) (m1 := 3) (by decide) (by decide) rfl hx p.isLt a.isLt b.isLt sw.toNat_lt
  refine decode_word32 he q0 q1 ?_ rest
  rw [decode32]; rw [k0]
  change dec05 x = _
  rw [dec05]; rw [k1]
  change (if _ then _ else _) = _
  rw [if_neg c0]
  rw [fin8_of (a := p) v0, fin64_of (a := a) v1, fin64_of (a := b) v2, bitAt_of (b := sw) v3]

theorem RoundTrip.cmpLtu (p : Fin 8) (a : Fin 64) (b : Fin 64) (sw : Bool) : RoundTrip.Statement (.cmpLtu p a b sw) := by
  intro _ _ rest
  obtain ⟨x, hx⟩ : ∃ x, x = 16427 + sw.toNat * 4 + p.val * 512 + a.val * 32768 + b.val * 2097152 := ⟨_, rfl⟩
  have he : encodeWord (.cmpLtu p a b sw) = some (4, x) := by rw [hx]; rfl
  obtain ⟨q0, q1, k0, k1, c0, v0, v1, v2, v3⟩ := fields3 (m0 := 5) (m1 := 4) (by decide) (by decide) rfl hx p.isLt a.isLt b.isLt sw.toNat_lt
  refine decode_word32 he q0 q1 ?_ rest
  rw [decode32]; rw [k0]
  change dec05 x = _
  rw [dec05]; rw [k1]
  change (if _ then _ else _) = _
  rw [if_neg c0]
  rw [fin8_of (a := p) v0, fin64_of (a := a) v1, fin64_of (a := b) v2, bitAt_of (b := sw) v3]

theorem RoundTrip.cmpGeu (p : Fin 8) (a : Fin 64) (b : Fin 64) (sw : Bool) : RoundTrip.Statement (.cmpGeu p a b sw) := by
  intro _ _ rest
  obtain ⟨x, hx⟩ : ∃ x, x = 20523 + sw.toNat * 4 + p.val * 512 + a.val * 32768 + b.val * 2097152 := ⟨_, rfl⟩
  have he : encodeWord (.cmpGeu p a b sw) = some (4, x) := by rw [hx]; rfl
  obtain ⟨q0, q1, k0, k1, c0, v0, v1, v2, v3⟩ := fields3 (m0 := 5) (m1 := 5) (by decide) (by decide) rfl hx p.isLt a.isLt b.isLt sw.toNat_lt
  refine decode_word32 he q0 q1 ?_ rest
  rw [decode32]; rw [k0]
  change dec05 x = _
  rw [dec05]; rw [k1]
  change (if _ then _ else _) = _
  rw [if_neg c0]
  rw [fin8_of (a := p) v0, fin64_of (a := a) v1, fin64_of (a := b) v2, bitAt_of (b := sw) v3]

theorem RoundTrip.sel (d : Fin 64) (a : Fin 64) (b : Fin 64) (k : Fin 8) (sw : Bool) : RoundTrip.Statement (.sel d a b k sw) := by
  intro _ _ rest
  have := d.isLt; have := a.isLt; have := b.isLt; have := k.isLt; have := sw.toNat_lt
  obtain ⟨x, hx⟩ : ∃ x, x = 51 + sw.toNat * 4 + d.val * 512 + a.val * 32768 + b.val * 2097152 + k.val * 134217728 := ⟨_, rfl⟩
  have he : encodeWord (.sel d a b k sw) = some (4, x) := by rw [hx]; rfl
  refine decode_word32 he (by omega) (by omega) ?_ rest
  rw [decode32]
  rw [show x / 8 % 64 = 6 by omega]
  change dec06 x = _
  rw [dec06]
  rw [if_neg (by omega)]
  rw [fin64_of (a := d) (by omega), fin64_of (a := a) (by omega), fin64_of (a := b) (by omega), fin8_of (a := k) (by omega), bitAt_of (b := sw) (by omega)]

theorem RoundTrip.pand (d : Fin 8) (a : Fin 8) (b : Fin 8) (sw : Bool) : RoundTrip.Statement (.pand d a b sw) := by
  intro _ _ rest
  obtain ⟨x, hx⟩ : ∃ x, x = 59 + sw.toNat * 4 + d.val * 512 + a.val * 32768 + b.val * 2097152 := ⟨_, rfl⟩
  have he : encodeWord (.pand d a b sw) = some (4, x) := by rw [hx]; rfl
  obtain ⟨q0, q1, k0, k1, c0, c1, c2, v0, v1, v2, v3⟩ := fields4 (m0 := 7) (m1 := 0) (by decide) (by decide) rfl hx d.isLt a.isLt b.isLt sw.toNat_lt
  refine decode_word32 he q0 q1 ?_ rest
  rw [decode32]; rw [k0]
  change dec07 x = _
  rw [dec07]; rw [k1]
  change (if _ then _ else _) = _
  rw [if_neg c0]
  rw [if_neg c1]
  rw [if_neg c2]
  rw [fin8_of (a := d) v0, fin8_of (a := a) v1, fin8_of (a := b) v2, bitAt_of (b := sw) v3]

theorem RoundTrip.por (d : Fin 8) (a : Fin 8) (b : Fin 8) (sw : Bool) : RoundTrip.Statement (.por d a b sw) := by
  intro _ _ rest
  obtain ⟨x, hx⟩ : ∃ x, x = 134217787 + sw.toNat * 4 + d.val * 512 + a.val * 32768 + b.val * 2097152 := ⟨_, rfl⟩
  have he : encodeWord (.por d a b sw) = some (4, x) := by rw [hx]; rfl
  obtain ⟨q0, q1, k0, k1, c0, c1, c2, v0, v1, v2, v3⟩ := fields4 (m0 := 7) (m1 := 1) (by decide) (by decide) rfl hx d.isLt a.isLt b.isLt sw.toNat_lt
  refine decode_word32 he q0 q1 ?_ rest
  rw [decode32]; rw [k0]
  change dec07 x = _
  rw [dec07]; rw [k1]
  change (if _ then _ else _) = _
  rw [if_neg c0]
  rw [if_neg c1]
  rw [if_neg c2]
  rw [fin8_of (a := d) v0, fin8_of (a := a) v1, fin8_of (a := b) v2, bitAt_of (b := sw) v3]

theorem RoundTrip.pxor (d : Fin 8) (a : Fin 8) (b : Fin 8) (sw : Bool) : RoundTrip.Statement (.pxor d a b sw) := by
  intro _ _ rest
  obtain ⟨x, hx⟩ : ∃ x, x = 268435515 + sw.toNat * 4 + d.val * 512 + a.val * 32768 + b.val * 2097152 := ⟨_, rfl⟩
  have he : encodeWord (.pxor d a b sw) = some (4, x) := by rw [hx]; rfl
  obtain ⟨q0, q1, k0, k1, c0, c1, c2, v0, v1, v2, v3⟩ := fields4 (m0 := 7) (m1 := 2) (by decide) (by decide) rfl hx d.isLt a.isLt b.isLt sw.toNat_lt
  refine decode_word32 he q0 q1 ?_ rest
  rw [decode32]; rw [k0]
  change dec07 x = _
  rw [dec07]; rw [k1]
  change (if _ then _ else _) = _
  rw [if_neg c0]
  rw [if_neg c1]
  rw [if_neg c2]
  rw [fin8_of (a := d) v0, fin8_of (a := a) v1, fin8_of (a := b) v2, bitAt_of (b := sw) v3]

theorem RoundTrip.pnot (d : Fin 8) (a : Fin 8) (sw : Bool) : RoundTrip.Statement (.pnot d a sw) := by
  intro _ _ rest
  have := d.isLt; have := a.isLt; have := sw.toNat_lt
  obtain ⟨x, hx⟩ : ∃ x, x = 402653243 + sw.toNat * 4 + d.val * 512 + a.val * 32768 := ⟨_, rfl⟩
  have he : encodeWord (.pnot d a sw) = some (4, x) := by rw [hx]; rfl
  refine decode_word32 he (by omega) (by omega) ?_ rest
  rw [decode32]
  rw [show x / 8 % 64 = 7 by omega]
  change dec07 x = _
  rw [dec07]
  rw [show x / 134217728 % 32 = 3 by omega]
  change (if _ then _ else _) = _
  rw [if_neg (by omega)]
  rw [if_neg (by omega)]
  rw [fin8_of (a := d) (by omega), fin8_of (a := a) (by omega), bitAt_of (b := sw) (by omega)]

theorem RoundTrip.csetb (d : Fin 64) (a : Fin 64) (b : Fin 64) (sw : Bool) : RoundTrip.Statement (.csetb d a b sw) := by
  intro _ _ rest
  obtain ⟨x, hx⟩ : ∃ x, x = 67 + sw.toNat * 4 + d.val * 512 + a.val * 32768 + b.val * 2097152 := ⟨_, rfl⟩
  have he : encodeWord (.csetb d a b sw) = some (4, x) := by rw [hx]; rfl
  obtain ⟨q0, q1, k0, k1, v0, v1, v2, v3⟩ := fields1 (m0 := 8) (m1 := 0) (by decide) (by decide) rfl hx d.isLt a.isLt b.isLt sw.toNat_lt
  refine decode_word32 he q0 q1 ?_ rest
  rw [decode32]; rw [k0]
  change dec08 x = _
  rw [dec08]; rw [k1]
  change Except.ok _ = _
  rw [fin64_of (a := d) v0, fin64_of (a := a) v1, fin64_of (a := b) v2, bitAt_of (b := sw) v3]

theorem RoundTrip.cgetb (d : Fin 64) (a : Fin 64) (sw : Bool) : RoundTrip.Statement (.cgetb d a sw) := by
  intro _ _ rest
  obtain ⟨x, hx⟩ : ∃ x, x = 134217795 + sw.toNat * 4 + d.val * 512 + a.val * 32768 := ⟨_, rfl⟩
  have he : encodeWord (.cgetb d a sw) = some (4, x) := by rw [hx]; rfl
  obtain ⟨q0, q1, k0, k1, c0, v0, v1, v2⟩ := fields2 (m0 := 8) (m1 := 1) (by decide) (by decide) rfl hx d.isLt a.isLt sw.toNat_lt
  refine decode_word32 he q0 q1 ?_ rest
  rw [decode32]; rw [k0]
  change dec08 x = _
  rw [dec08]; rw [k1]
  change (if _ then _ else _) = _
  rw [if_neg c0]
  rw [fin64_of (a := d) v0, fin64_of (a := a) v1, bitAt_of (b := sw) v2]

theorem RoundTrip.cgetl (d : Fin 64) (a : Fin 64) (sw : Bool) : RoundTrip.Statement (.cgetl d a sw) := by
  intro _ _ rest
  obtain ⟨x, hx⟩ : ∃ x, x = 268435523 + sw.toNat * 4 + d.val * 512 + a.val * 32768 := ⟨_, rfl⟩
  have he : encodeWord (.cgetl d a sw) = some (4, x) := by rw [hx]; rfl
  obtain ⟨q0, q1, k0, k1, c0, v0, v1, v2⟩ := fields2 (m0 := 8) (m1 := 2) (by decide) (by decide) rfl hx d.isLt a.isLt sw.toNat_lt
  refine decode_word32 he q0 q1 ?_ rest
  rw [decode32]; rw [k0]
  change dec08 x = _
  rw [dec08]; rw [k1]
  change (if _ then _ else _) = _
  rw [if_neg c0]
  rw [fin64_of (a := d) v0, fin64_of (a := a) v1, bitAt_of (b := sw) v2]

theorem RoundTrip.candp (d : Fin 64) (a : Fin 64) (b : Fin 64) (sw : Bool) : RoundTrip.Statement (.candp d a b sw) := by
  intro _ _ rest
  obtain ⟨x, hx⟩ : ∃ x, x = 402653251 + sw.toNat * 4 + d.val * 512 + a.val * 32768 + b.val * 2097152 := ⟨_, rfl⟩
  have he : encodeWord (.candp d a b sw) = some (4, x) := by rw [hx]; rfl
  obtain ⟨q0, q1, k0, k1, v0, v1, v2, v3⟩ := fields1 (m0 := 8) (m1 := 3) (by decide) (by decide) rfl hx d.isLt a.isLt b.isLt sw.toNat_lt
  refine decode_word32 he q0 q1 ?_ rest
  rw [decode32]; rw [k0]
  change dec08 x = _
  rw [dec08]; rw [k1]
  change Except.ok _ = _
  rw [fin64_of (a := d) v0, fin64_of (a := a) v1, fin64_of (a := b) v2, bitAt_of (b := sw) v3]

theorem RoundTrip.cseal (d : Fin 64) (a : Fin 64) (b : Fin 64) (sw : Bool) : RoundTrip.Statement (.cseal d a b sw) := by
  intro _ _ rest
  obtain ⟨x, hx⟩ : ∃ x, x = 536870979 + sw.toNat * 4 + d.val * 512 + a.val * 32768 + b.val * 2097152 := ⟨_, rfl⟩
  have he : encodeWord (.cseal d a b sw) = some (4, x) := by rw [hx]; rfl
  obtain ⟨q0, q1, k0, k1, v0, v1, v2, v3⟩ := fields1 (m0 := 8) (m1 := 4) (by decide) (by decide) rfl hx d.isLt a.isLt b.isLt sw.toNat_lt
  refine decode_word32 he q0 q1 ?_ rest
  rw [decode32]; rw [k0]
  change dec08 x = _
  rw [dec08]; rw [k1]
  change Except.ok _ = _
  rw [fin64_of (a := d) v0, fin64_of (a := a) v1, fin64_of (a := b) v2, bitAt_of (b := sw) v3]

theorem RoundTrip.cunseal (d : Fin 64) (a : Fin 64) (b : Fin 64) (sw : Bool) : RoundTrip.Statement (.cunseal d a b sw) := by
  intro _ _ rest
  obtain ⟨x, hx⟩ : ∃ x, x = 671088707 + sw.toNat * 4 + d.val * 512 + a.val * 32768 + b.val * 2097152 := ⟨_, rfl⟩
  have he : encodeWord (.cunseal d a b sw) = some (4, x) := by rw [hx]; rfl
  obtain ⟨q0, q1, k0, k1, v0, v1, v2, v3⟩ := fields1 (m0 := 8) (m1 := 5) (by decide) (by decide) rfl hx d.isLt a.isLt b.isLt sw.toNat_lt
  refine decode_word32 he q0 q1 ?_ rest
  rw [decode32]; rw [k0]
  change dec08 x = _
  rw [dec08]; rw [k1]
  change Except.ok _ = _
  rw [fin64_of (a := d) v0, fin64_of (a := a) v1, fin64_of (a := b) v2, bitAt_of (b := sw) v3]

theorem RoundTrip.cadd (d : Fin 64) (a : Fin 64) (b : Fin 64) (sw : Bool) : RoundTrip.Statement (.cadd d a b sw) := by
  intro _ _ rest
  obtain ⟨x, hx⟩ : ∃ x, x = 805306435 + sw.toNat * 4 + d.val * 512 + a.val * 32768 + b.val * 2097152 := ⟨_, rfl⟩
  have he : encodeWord (.cadd d a b sw) = some (4, x) := by rw [hx]; rfl
  obtain ⟨q0, q1, k0, k1, v0, v1, v2, v3⟩ := fields1 (m0 := 8) (m1 := 6) (by decide) (by decide) rfl hx d.isLt a.isLt b.isLt sw.toNat_lt
  refine decode_word32 he q0 q1 ?_ rest
  rw [decode32]; rw [k0]
  change dec08 x = _
  rw [dec08]; rw [k1]
  change Except.ok _ = _
  rw [fin64_of (a := d) v0, fin64_of (a := a) v1, fin64_of (a := b) v2, bitAt_of (b := sw) v3]

theorem RoundTrip.ctag (d : Fin 64) (a : Fin 64) (sw : Bool) : RoundTrip.Statement (.ctag d a sw) := by
  intro _ _ rest
  obtain ⟨x, hx⟩ : ∃ x, x = 939524163 + sw.toNat * 4 + d.val * 512 + a.val * 32768 := ⟨_, rfl⟩
  have he : encodeWord (.ctag d a sw) = some (4, x) := by rw [hx]; rfl
  obtain ⟨q0, q1, k0, k1, c0, v0, v1, v2⟩ := fields2 (m0 := 8) (m1 := 7) (by decide) (by decide) rfl hx d.isLt a.isLt sw.toNat_lt
  refine decode_word32 he q0 q1 ?_ rest
  rw [decode32]; rw [k0]
  change dec08 x = _
  rw [dec08]; rw [k1]
  change (if _ then _ else _) = _
  rw [if_neg c0]
  rw [fin64_of (a := d) v0, fin64_of (a := a) v1, bitAt_of (b := sw) v2]

theorem RoundTrip.cclr (d : Fin 64) (a : Fin 64) (sw : Bool) : RoundTrip.Statement (.cclr d a sw) := by
  intro _ _ rest
  obtain ⟨x, hx⟩ : ∃ x, x = 1073741891 + sw.toNat * 4 + d.val * 512 + a.val * 32768 := ⟨_, rfl⟩
  have he : encodeWord (.cclr d a sw) = some (4, x) := by rw [hx]; rfl
  obtain ⟨q0, q1, k0, k1, c0, v0, v1, v2⟩ := fields2 (m0 := 8) (m1 := 8) (by decide) (by decide) rfl hx d.isLt a.isLt sw.toNat_lt
  refine decode_word32 he q0 q1 ?_ rest
  rw [decode32]; rw [k0]
  change dec08 x = _
  rw [dec08]; rw [k1]
  change (if _ then _ else _) = _
  rw [if_neg c0]
  rw [fin64_of (a := d) v0, fin64_of (a := a) v1, bitAt_of (b := sw) v2]

theorem RoundTrip.ceq (d : Fin 64) (a : Fin 64) (b : Fin 64) (sw : Bool) : RoundTrip.Statement (.ceq d a b sw) := by
  intro _ _ rest
  obtain ⟨x, hx⟩ : ∃ x, x = 1207959619 + sw.toNat * 4 + d.val * 512 + a.val * 32768 + b.val * 2097152 := ⟨_, rfl⟩
  have he : encodeWord (.ceq d a b sw) = some (4, x) := by rw [hx]; rfl
  obtain ⟨q0, q1, k0, k1, v0, v1, v2, v3⟩ := fields1 (m0 := 8) (m1 := 9) (by decide) (by decide) rfl hx d.isLt a.isLt b.isLt sw.toNat_lt
  refine decode_word32 he q0 q1 ?_ rest
  rw [decode32]; rw [k0]
  change dec08 x = _
  rw [dec08]; rw [k1]
  change Except.ok _ = _
  rw [fin64_of (a := d) v0, fin64_of (a := a) v1, fin64_of (a := b) v2, bitAt_of (b := sw) v3]

theorem RoundTrip.cderive (d : Fin 64) (a : Fin 64) (b : Fin 64) (sw : Bool) : RoundTrip.Statement (.cderive d a b sw) := by
  intro _ _ rest
  obtain ⟨x, hx⟩ : ∃ x, x = 1342177347 + sw.toNat * 4 + d.val * 512 + a.val * 32768 + b.val * 2097152 := ⟨_, rfl⟩
  have he : encodeWord (.cderive d a b sw) = some (4, x) := by rw [hx]; rfl
  obtain ⟨q0, q1, k0, k1, v0, v1, v2, v3⟩ := fields1 (m0 := 8) (m1 := 10) (by decide) (by decide) rfl hx d.isLt a.isLt b.isLt sw.toNat_lt
  refine decode_word32 he q0 q1 ?_ rest
  rw [decode32]; rw [k0]
  change dec08 x = _
  rw [dec08]; rw [k1]
  change Except.ok _ = _
  rw [fin64_of (a := d) v0, fin64_of (a := a) v1, fin64_of (a := b) v2, bitAt_of (b := sw) v3]

theorem RoundTrip.b (k : Fin 8) (n : Bool) (off : BitVec 19) (sw : Bool) : RoundTrip.Statement (.b k n off sw) := by
  intro _ _ rest
  have := k.isLt; have := n.toNat_lt; have := off.isLt; have := sw.toNat_lt
  obtain ⟨x, hx⟩ : ∃ x, x = 75 + sw.toNat * 4 + k.val * 512 + n.toNat * 4096 + off.toNat * 8192 := ⟨_, rfl⟩
  have he : encodeWord (.b k n off sw) = some (4, x) := by rw [hx]; rfl
  refine decode_word32 he (by omega) (by omega) ?_ rest
  rw [decode32]
  rw [show x / 8 % 64 = 9 by omega]
  change dec09 x = _
  rw [dec09]
  rw [fin8_of (a := k) (by omega), bitAt_of (b := n) (by omega), bits_of (v := off) (by omega), bitAt_of (b := sw) (by omega)]

theorem RoundTrip.j (off : BitVec 23) (sw : Bool) : RoundTrip.Statement (.j off sw) := by
  intro _ _ rest
  obtain ⟨x, hx⟩ : ∃ x, x = 83 + sw.toNat * 4 + off.toNat * 512 := ⟨_, rfl⟩
  have he : encodeWord (.j off sw) = some (4, x) := by rw [hx]; rfl
  obtain ⟨q0, q1, k0, v0, v1⟩ := fields5 (m0 := 10) (by decide) rfl hx off.isLt sw.toNat_lt
  refine decode_word32 he q0 q1 ?_ rest
  rw [decode32]; rw [k0]
  change dec0A x = _
  rw [dec0A]
  rw [bits_of (v := off) v0, bitAt_of (b := sw) v1]

theorem RoundTrip.call (off : BitVec 23) (sw : Bool) : RoundTrip.Statement (.call off sw) := by
  intro _ _ rest
  obtain ⟨x, hx⟩ : ∃ x, x = 91 + sw.toNat * 4 + off.toNat * 512 := ⟨_, rfl⟩
  have he : encodeWord (.call off sw) = some (4, x) := by rw [hx]; rfl
  obtain ⟨q0, q1, k0, v0, v1⟩ := fields5 (m0 := 11) (by decide) rfl hx off.isLt sw.toNat_lt
  refine decode_word32 he q0 q1 ?_ rest
  rw [decode32]; rw [k0]
  change dec0B x = _
  rw [dec0B]
  rw [bits_of (v := off) v0, bitAt_of (b := sw) v1]

theorem RoundTrip.jr (a : Fin 64) (sw : Bool) : RoundTrip.Statement (.jr a sw) := by
  intro _ _ rest
  obtain ⟨x, hx⟩ : ∃ x, x = 99 + sw.toNat * 4 + a.val * 32768 := ⟨_, rfl⟩
  have he : encodeWord (.jr a sw) = some (4, x) := by rw [hx]; rfl
  obtain ⟨q0, q1, k0, k1, c0, c1, v0, v1⟩ := fields6 (m0 := 12) (m1 := 0) (by decide) (by decide) rfl hx a.isLt sw.toNat_lt
  refine decode_word32 he q0 q1 ?_ rest
  rw [decode32]; rw [k0]
  change dec0C x = _
  rw [dec0C]; rw [k1]
  change (if _ then _ else _) = _
  rw [if_neg c0]
  rw [if_neg c1]
  rw [fin64_of (a := a) v0, bitAt_of (b := sw) v1]

theorem RoundTrip.callr (a : Fin 64) (sw : Bool) : RoundTrip.Statement (.callr a sw) := by
  intro _ _ rest
  obtain ⟨x, hx⟩ : ∃ x, x = 134217827 + sw.toNat * 4 + a.val * 32768 := ⟨_, rfl⟩
  have he : encodeWord (.callr a sw) = some (4, x) := by rw [hx]; rfl
  obtain ⟨q0, q1, k0, k1, c0, c1, v0, v1⟩ := fields6 (m0 := 12) (m1 := 1) (by decide) (by decide) rfl hx a.isLt sw.toNat_lt
  refine decode_word32 he q0 q1 ?_ rest
  rw [decode32]; rw [k0]
  change dec0C x = _
  rw [dec0C]; rw [k1]
  change (if _ then _ else _) = _
  rw [if_neg c0]
  rw [if_neg c1]
  rw [fin64_of (a := a) v0, bitAt_of (b := sw) v1]

theorem RoundTrip.ret (sw : Bool) : RoundTrip.Statement (.ret sw) := by
  intro _ _ rest
  obtain ⟨x, hx⟩ : ∃ x, x = 268435555 + sw.toNat * 4 := ⟨_, rfl⟩
  have he : encodeWord (.ret sw) = some (4, x) := by rw [hx]; rfl
  obtain ⟨q0, q1, k0, k1, c0, v0⟩ := fields7 (m0 := 12) (m1 := 2) (by decide) (by decide) rfl hx sw.toNat_lt
  refine decode_word32 he q0 q1 ?_ rest
  rw [decode32]; rw [k0]
  change dec0C x = _
  rw [dec0C]; rw [k1]
  change (if _ then _ else _) = _
  rw [if_neg c0]
  rw [bitAt_of (b := sw) v0]

theorem RoundTrip.loop (a : Fin 64) (imm : BitVec 11) (sw : Bool) : RoundTrip.Statement (.loop a imm sw) := by
  intro hwf _ rest
  have := a.isLt; have := imm.isLt; have := sw.toNat_lt; replace hwf : 2 ≤ imm.toNat := of_decide_eq_true hwf
  obtain ⟨x, hx⟩ : ∃ x, x = 107 + sw.toNat * 4 + a.val * 32768 + imm.toNat * 2097152 := ⟨_, rfl⟩
  have he : encodeWord (.loop a imm sw) = some (4, x) := by rw [hx]; rfl
  refine decode_word32 he (by omega) (by omega) ?_ rest
  rw [decode32]
  rw [show x / 8 % 64 = 13 by omega]
  change dec0D x = _
  rw [dec0D]
  rw [if_neg (by omega)]
  rw [if_neg (by omega)]
  rw [fin64_of (a := a) (by omega), bits_of (v := imm) (by omega), bitAt_of (b := sw) (by omega)]

theorem RoundTrip.nop (sw : Bool) : RoundTrip.Statement (.nop sw) := by
  intro _ _ rest
  obtain ⟨x, hx⟩ : ∃ x, x = 115 + sw.toNat * 4 := ⟨_, rfl⟩
  have he : encodeWord (.nop sw) = some (4, x) := by rw [hx]; rfl
  obtain ⟨q0, q1, k0, k1, c0, v0⟩ := fields7 (m0 := 14) (m1 := 0) (by decide) (by decide) rfl hx sw.toNat_lt
  refine decode_word32 he q0 q1 ?_ rest
  rw [decode32]; rw [k0]
  change dec0E x = _
  rw [dec0E]; rw [k1]
  change (if _ then _ else _) = _
  rw [if_neg c0]
  rw [bitAt_of (b := sw) v0]

theorem RoundTrip.exit (a : Fin 64) (sw : Bool) : RoundTrip.Statement (.exit a sw) := by
  intro _ _ rest
  obtain ⟨x, hx⟩ : ∃ x, x = 134217843 + sw.toNat * 4 + a.val * 32768 := ⟨_, rfl⟩
  have he : encodeWord (.exit a sw) = some (4, x) := by rw [hx]; rfl
  obtain ⟨q0, q1, k0, k1, c0, c1, v0, v1⟩ := fields6 (m0 := 14) (m1 := 1) (by decide) (by decide) rfl hx a.isLt sw.toNat_lt
  refine decode_word32 he q0 q1 ?_ rest
  rw [decode32]; rw [k0]
  change dec0E x = _
  rw [dec0E]; rw [k1]
  change (if _ then _ else _) = _
  rw [if_neg c0]
  rw [if_neg c1]
  rw [fin64_of (a := a) v0, bitAt_of (b := sw) v1]

theorem RoundTrip.wfe (sw : Bool) : RoundTrip.Statement (.wfe sw) := by
  intro _ _ rest
  obtain ⟨x, hx⟩ : ∃ x, x = 268435571 + sw.toNat * 4 := ⟨_, rfl⟩
  have he : encodeWord (.wfe sw) = some (4, x) := by rw [hx]; rfl
  obtain ⟨q0, q1, k0, k1, c0, v0⟩ := fields7 (m0 := 14) (m1 := 2) (by decide) (by decide) rfl hx sw.toNat_lt
  refine decode_word32 he q0 q1 ?_ rest
  rw [decode32]; rw [k0]
  change dec0E x = _
  rw [dec0E]; rw [k1]
  change (if _ then _ else _) = _
  rw [if_neg c0]
  rw [bitAt_of (b := sw) v0]

theorem RoundTrip.lbreak (sw : Bool) : RoundTrip.Statement (.lbreak sw) := by
  intro _ _ rest
  obtain ⟨x, hx⟩ : ∃ x, x = 402653299 + sw.toNat * 4 := ⟨_, rfl⟩
  have he : encodeWord (.lbreak sw) = some (4, x) := by rw [hx]; rfl
  obtain ⟨q0, q1, k0, k1, c0, v0⟩ := fields7 (m0 := 14) (m1 := 3) (by decide) (by decide) rfl hx sw.toNat_lt
  refine decode_word32 he q0 q1 ?_ rest
  rw [decode32]; rw [k0]
  change dec0E x = _
  rw [dec0E]; rw [k1]
  change (if _ then _ else _) = _
  rw [if_neg c0]
  rw [bitAt_of (b := sw) v0]

theorem RoundTrip.ld (t : Fin 64) (z : Fin 4) (mem : Mem) (sw : Bool) : RoundTrip.Statement (.ld t z mem sw) := by
  intro _ _ rest
  obtain ⟨x, hx⟩ : ∃ x, x = 131 + sw.toNat * 4 + t.val * 512 + z.val * 8388608 + mem.bits := ⟨_, rfl⟩
  have he : encodeWord (.ld t z mem sw) = some (4, x) := by rw [hx]; rfl
  obtain ⟨q0, q1, k0, v0, v1, v2, v2b, v3⟩ := fields8 (m0 := 16) (by decide) rfl hx t.isLt z.isLt (mem_bits_fields mem) sw.toNat_lt
  refine decode_word32 he q0 q1 ?_ rest
  rw [decode32]; rw [k0]
  change dec10 x = _
  rw [dec10]
  rw [fin64_of (a := t) v0, fin4_of (a := z) v1, mem_of (m := mem) v2 v2b, bitAt_of (b := sw) v3]

theorem RoundTrip.ldSb (t : Fin 64) (mem : Mem) (sw : Bool) : RoundTrip.Statement (.ldSb t mem sw) := by
  intro _ _ rest
  obtain ⟨x, hx⟩ : ∃ x, x = 139 + sw.toNat * 4 + t.val * 512 + mem.bits := ⟨_, rfl⟩
  have he : encodeWord (.ldSb t mem sw) = some (4, x) := by rw [hx]; rfl
  obtain ⟨q0, q1, k0, k1, v0, v1, v1b, v2⟩ := fields9 (m0 := 17) (m1 := 0) (by decide) (by decide) rfl hx t.isLt (mem_bits_fields mem) sw.toNat_lt
  refine decode_word32 he q0 q1 ?_ rest
  rw [decode32]; rw [k0]
  change dec11 x = _
  rw [dec11]; rw [k1]
  change Except.ok _ = _
  rw [fin64_of (a := t) v0, mem_of (m := mem) v1 v1b, bitAt_of (b := sw) v2]

theorem RoundTrip.ldSh (t : Fin 64) (mem : Mem) (sw : Bool) : RoundTrip.Statement (.ldSh t mem sw) := by
  intro _ _ rest
  obtain ⟨x, hx⟩ : ∃ x, x = 8388747 + sw.toNat * 4 + t.val * 512 + mem.bits := ⟨_, rfl⟩
  have he : encodeWord (.ldSh t mem sw) = some (4, x) := by rw [hx]; rfl
  obtain ⟨q0, q1, k0, k1, v0, v1, v1b, v2⟩ := fields9 (m0 := 17) (m1 := 1) (by decide) (by decide) rfl hx t.isLt (mem_bits_fields mem) sw.toNat_lt
  refine decode_word32 he q0 q1 ?_ rest
  rw [decode32]; rw [k0]
  change dec11 x = _
  rw [dec11]; rw [k1]
  change Except.ok _ = _
  rw [fin64_of (a := t) v0, mem_of (m := mem) v1 v1b, bitAt_of (b := sw) v2]

theorem RoundTrip.ldSw (t : Fin 64) (mem : Mem) (sw : Bool) : RoundTrip.Statement (.ldSw t mem sw) := by
  intro _ _ rest
  obtain ⟨x, hx⟩ : ∃ x, x = 16777355 + sw.toNat * 4 + t.val * 512 + mem.bits := ⟨_, rfl⟩
  have he : encodeWord (.ldSw t mem sw) = some (4, x) := by rw [hx]; rfl
  obtain ⟨q0, q1, k0, k1, v0, v1, v1b, v2⟩ := fields9 (m0 := 17) (m1 := 2) (by decide) (by decide) rfl hx t.isLt (mem_bits_fields mem) sw.toNat_lt
  refine decode_word32 he q0 q1 ?_ rest
  rw [decode32]; rw [k0]
  change dec11 x = _
  rw [dec11]; rw [k1]
  change Except.ok _ = _
  rw [fin64_of (a := t) v0, mem_of (m := mem) v1 v1b, bitAt_of (b := sw) v2]

theorem RoundTrip.ldc (t : Fin 64) (mem : Mem) (sw : Bool) : RoundTrip.Statement (.ldc t mem sw) := by
  intro _ _ rest
  obtain ⟨x, hx⟩ : ∃ x, x = 25165963 + sw.toNat * 4 + t.val * 512 + mem.bits := ⟨_, rfl⟩
  have he : encodeWord (.ldc t mem sw) = some (4, x) := by rw [hx]; rfl
  obtain ⟨q0, q1, k0, k1, v0, v1, v1b, v2⟩ := fields9 (m0 := 17) (m1 := 3) (by decide) (by decide) rfl hx t.isLt (mem_bits_fields mem) sw.toNat_lt
  refine decode_word32 he q0 q1 ?_ rest
  rw [decode32]; rw [k0]
  change dec11 x = _
  rw [dec11]; rw [k1]
  change Except.ok _ = _
  rw [fin64_of (a := t) v0, mem_of (m := mem) v1 v1b, bitAt_of (b := sw) v2]

theorem RoundTrip.st (t : Fin 64) (z : Fin 4) (mem : Mem) (sw : Bool) : RoundTrip.Statement (.st t z mem sw) := by
  intro _ _ rest
  obtain ⟨x, hx⟩ : ∃ x, x = 147 + sw.toNat * 4 + t.val * 512 + z.val * 8388608 + mem.bits := ⟨_, rfl⟩
  have he : encodeWord (.st t z mem sw) = some (4, x) := by rw [hx]; rfl
  obtain ⟨q0, q1, k0, v0, v1, v2, v2b, v3⟩ := fields8 (m0 := 18) (by decide) rfl hx t.isLt z.isLt (mem_bits_fields mem) sw.toNat_lt
  refine decode_word32 he q0 q1 ?_ rest
  rw [decode32]; rw [k0]
  change dec12 x = _
  rw [dec12]
  rw [fin64_of (a := t) v0, fin4_of (a := z) v1, mem_of (m := mem) v2 v2b, bitAt_of (b := sw) v3]

theorem RoundTrip.stc (t : Fin 64) (mem : Mem) (sw : Bool) : RoundTrip.Statement (.stc t mem sw) := by
  intro _ _ rest
  obtain ⟨x, hx⟩ : ∃ x, x = 155 + sw.toNat * 4 + t.val * 512 + mem.bits := ⟨_, rfl⟩
  have he : encodeWord (.stc t mem sw) = some (4, x) := by rw [hx]; rfl
  obtain ⟨q0, q1, k0, k1, v0, v1, v1b, v2⟩ := fields9 (m0 := 19) (m1 := 0) (by decide) (by decide) rfl hx t.isLt (mem_bits_fields mem) sw.toNat_lt
  refine decode_word32 he q0 q1 ?_ rest
  rw [decode32]; rw [k0]
  change dec13 x = _
  rw [dec13]; rw [k1]
  change Except.ok _ = _
  rw [fin64_of (a := t) v0, mem_of (m := mem) v1 v1b, bitAt_of (b := sw) v2]

theorem RoundTrip.ldf (t : Fin 64) (mem : Mem) (sw : Bool) : RoundTrip.Statement (.ldf t mem sw) := by
  intro _ _ rest
  obtain ⟨x, hx⟩ : ∃ x, x = 8388763 + sw.toNat * 4 + t.val * 512 + mem.bits := ⟨_, rfl⟩
  have he : encodeWord (.ldf t mem sw) = some (4, x) := by rw [hx]; rfl
  obtain ⟨q0, q1, k0, k1, v0, v1, v1b, v2⟩ := fields9 (m0 := 19) (m1 := 1) (by decide) (by decide) rfl hx t.isLt (mem_bits_fields mem) sw.toNat_lt
  refine decode_word32 he q0 q1 ?_ rest
  rw [decode32]; rw [k0]
  change dec13 x = _
  rw [dec13]; rw [k1]
  change Except.ok _ = _
  rw [fin64_of (a := t) v0, mem_of (m := mem) v1 v1b, bitAt_of (b := sw) v2]

theorem RoundTrip.stf (t : Fin 64) (mem : Mem) (sw : Bool) : RoundTrip.Statement (.stf t mem sw) := by
  intro _ _ rest
  obtain ⟨x, hx⟩ : ∃ x, x = 16777371 + sw.toNat * 4 + t.val * 512 + mem.bits := ⟨_, rfl⟩
  have he : encodeWord (.stf t mem sw) = some (4, x) := by rw [hx]; rfl
  obtain ⟨q0, q1, k0, k1, v0, v1, v1b, v2⟩ := fields9 (m0 := 19) (m1 := 2) (by decide) (by decide) rfl hx t.isLt (mem_bits_fields mem) sw.toNat_lt
  refine decode_word32 he q0 q1 ?_ rest
  rw [decode32]; rw [k0]
  change dec13 x = _
  rw [dec13]; rw [k1]
  change Except.ok _ = _
  rw [fin64_of (a := t) v0, mem_of (m := mem) v1 v1b, bitAt_of (b := sw) v2]

theorem RoundTrip.pref (mem : Mem) (sw : Bool) : RoundTrip.Statement (.pref mem sw) := by
  intro _ _ rest
  have := mem_bits_fields mem; have := sw.toNat_lt
  obtain ⟨x, hx⟩ : ∃ x, x = 25165979 + sw.toNat * 4 + mem.bits := ⟨_, rfl⟩
  have he : encodeWord (.pref mem sw) = some (4, x) := by rw [hx]; rfl
  refine decode_word32 he (by omega) (by omega) ?_ rest
  rw [decode32]
  rw [show x / 8 % 64 = 19 by omega]
  change dec13 x = _
  rw [dec13]
  rw [show x / 8388608 % 4 = 3 by omega]
  change (if _ then _ else _) = _
  rw [if_neg (by omega)]
  rw [mem_of (m := mem) (by omega) (by omega), bitAt_of (b := sw) (by omega)]

theorem RoundTrip.repCopy (d : Fin 64) (a : Fin 64) (b : Fin 64) (z : Fin 4) (sw : Bool) : RoundTrip.Statement (.repCopy d a b z sw) := by
  intro _ _ rest
  obtain ⟨x, hx⟩ : ∃ x, x = 163 + sw.toNat * 4 + d.val * 512 + a.val * 32768 + b.val * 2097152 + z.val * 268435456 := ⟨_, rfl⟩
  have he : encodeWord (.repCopy d a b z sw) = some (4, x) := by rw [hx]; rfl
  obtain ⟨q0, q1, k0, k1, c0, v0, v1, v2, v3, v4⟩ := fields10 (m0 := 20) (m1 := 0) (by decide) (by decide) rfl hx d.isLt a.isLt b.isLt z.isLt sw.toNat_lt
  refine decode_word32 he q0 q1 ?_ rest
  rw [decode32]; rw [k0]
  change dec14 x = _
  rw [dec14]; rw [k1]
  change (if _ then _ else _) = _
  rw [if_neg c0]
  rw [fin64_of (a := d) v0, fin64_of (a := a) v1, fin64_of (a := b) v2, fin4_of (a := z) v3, bitAt_of (b := sw) v4]

theorem RoundTrip.repFill (d : Fin 64) (a : Fin 64) (b : Fin 64) (z : Fin 4) (sw : Bool) : RoundTrip.Statement (.repFill d a b z sw) := by
  intro _ _ rest
  obtain ⟨x, hx⟩ : ∃ x, x = 134217891 + sw.toNat * 4 + d.val * 512 + a.val * 32768 + b.val * 2097152 + z.val * 268435456 := ⟨_, rfl⟩
  have he : encodeWord (.repFill d a b z sw) = some (4, x) := by rw [hx]; rfl
  obtain ⟨q0, q1, k0, k1, c0, v0, v1, v2, v3, v4⟩ := fields10 (m0 := 20) (m1 := 1) (by decide) (by decide) rfl hx d.isLt a.isLt b.isLt z.isLt sw.toNat_lt
  refine decode_word32 he q0 q1 ?_ rest
  rw [decode32]; rw [k0]
  change dec14 x = _
  rw [dec14]; rw [k1]
  change (if _ then _ else _) = _
  rw [if_neg c0]
  rw [fin64_of (a := d) v0, fin64_of (a := a) v1, fin64_of (a := b) v2, fin4_of (a := z) v3, bitAt_of (b := sw) v4]

theorem RoundTrip.fence (kinds : BitVec 6) (w : Bool) (scope : Scope) (sw : Bool) : RoundTrip.Statement (.fence kinds w scope sw) := by
  intro _ _ rest
  have := kinds.isLt; have := w.toNat_lt; have := scope_code_lt scope; have := sw.toNat_lt
  obtain ⟨x, hx⟩ : ∃ x, x = 171 + sw.toNat * 4 + kinds.toNat * 512 + w.toNat * 32768 + scope.code * 134217728 := ⟨_, rfl⟩
  have he : encodeWord (.fence kinds w scope sw) = some (4, x) := by rw [hx]; rfl
  refine decode_word32 he (by omega) (by omega) ?_ rest
  rw [decode32]
  rw [show x / 8 % 64 = 21 by omega]
  change dec15 x = _
  rw [dec15]
  rw [show x / 2097152 % 64 = 0 by omega]
  change (if _ then _ else _) = _
  rw [if_neg (by omega)]
  rw [if_neg (by omega)]
  rw [if_neg (by omega)]
  rw [bits_of (v := kinds) (by omega), bitAt_of (b := w) (by omega), scope_of (c := scope) (by omega), bitAt_of (b := sw) (by omega)]

theorem RoundTrip.ldAqB (d : Fin 64) (b : Fin 64) (scope : Scope) (sw : Bool) : RoundTrip.Statement (.ldAqB d b scope sw) := by
  intro _ _ rest
  obtain ⟨x, hx⟩ : ∃ x, x = 2097323 + sw.toNat * 4 + d.val * 512 + b.val * 32768 + scope.code * 134217728 := ⟨_, rfl⟩
  have he : encodeWord (.ldAqB d b scope sw) = some (4, x) := by rw [hx]; rfl
  obtain ⟨q0, q1, k0, k1, c0, c1, v0, v1, v2, v3⟩ := fields11 (m0 := 21) (m1 := 1) (by decide) (by decide) rfl hx d.isLt b.isLt (scope_code_lt scope) sw.toNat_lt
  refine decode_word32 he q0 q1 ?_ rest
  rw [decode32]; rw [k0]
  change dec15 x = _
  rw [dec15]; rw [k1]
  change (if _ then _ else _) = _
  rw [if_neg c0]
  rw [if_neg c1]
  rw [fin64_of (a := d) v0, fin64_of (a := b) v1, scope_of (c := scope) v2, bitAt_of (b := sw) v3]

theorem RoundTrip.ldAqH (d : Fin 64) (b : Fin 64) (scope : Scope) (sw : Bool) : RoundTrip.Statement (.ldAqH d b scope sw) := by
  intro _ _ rest
  obtain ⟨x, hx⟩ : ∃ x, x = 4194475 + sw.toNat * 4 + d.val * 512 + b.val * 32768 + scope.code * 134217728 := ⟨_, rfl⟩
  have he : encodeWord (.ldAqH d b scope sw) = some (4, x) := by rw [hx]; rfl
  obtain ⟨q0, q1, k0, k1, c0, c1, v0, v1, v2, v3⟩ := fields11 (m0 := 21) (m1 := 2) (by decide) (by decide) rfl hx d.isLt b.isLt (scope_code_lt scope) sw.toNat_lt
  refine decode_word32 he q0 q1 ?_ rest
  rw [decode32]; rw [k0]
  change dec15 x = _
  rw [dec15]; rw [k1]
  change (if _ then _ else _) = _
  rw [if_neg c0]
  rw [if_neg c1]
  rw [fin64_of (a := d) v0, fin64_of (a := b) v1, scope_of (c := scope) v2, bitAt_of (b := sw) v3]

theorem RoundTrip.ldAqW (d : Fin 64) (b : Fin 64) (scope : Scope) (sw : Bool) : RoundTrip.Statement (.ldAqW d b scope sw) := by
  intro _ _ rest
  obtain ⟨x, hx⟩ : ∃ x, x = 6291627 + sw.toNat * 4 + d.val * 512 + b.val * 32768 + scope.code * 134217728 := ⟨_, rfl⟩
  have he : encodeWord (.ldAqW d b scope sw) = some (4, x) := by rw [hx]; rfl
  obtain ⟨q0, q1, k0, k1, c0, c1, v0, v1, v2, v3⟩ := fields11 (m0 := 21) (m1 := 3) (by decide) (by decide) rfl hx d.isLt b.isLt (scope_code_lt scope) sw.toNat_lt
  refine decode_word32 he q0 q1 ?_ rest
  rw [decode32]; rw [k0]
  change dec15 x = _
  rw [dec15]; rw [k1]
  change (if _ then _ else _) = _
  rw [if_neg c0]
  rw [if_neg c1]
  rw [fin64_of (a := d) v0, fin64_of (a := b) v1, scope_of (c := scope) v2, bitAt_of (b := sw) v3]

theorem RoundTrip.ldAq (d : Fin 64) (b : Fin 64) (scope : Scope) (sw : Bool) : RoundTrip.Statement (.ldAq d b scope sw) := by
  intro _ _ rest
  obtain ⟨x, hx⟩ : ∃ x, x = 8388779 + sw.toNat * 4 + d.val * 512 + b.val * 32768 + scope.code * 134217728 := ⟨_, rfl⟩
  have he : encodeWord (.ldAq d b scope sw) = some (4, x) := by rw [hx]; rfl
  obtain ⟨q0, q1, k0, k1, c0, c1, v0, v1, v2, v3⟩ := fields11 (m0 := 21) (m1 := 4) (by decide) (by decide) rfl hx d.isLt b.isLt (scope_code_lt scope) sw.toNat_lt
  refine decode_word32 he q0 q1 ?_ rest
  rw [decode32]; rw [k0]
  change dec15 x = _
  rw [dec15]; rw [k1]
  change (if _ then _ else _) = _
  rw [if_neg c0]
  rw [if_neg c1]
  rw [fin64_of (a := d) v0, fin64_of (a := b) v1, scope_of (c := scope) v2, bitAt_of (b := sw) v3]

theorem RoundTrip.stRlB (t : Fin 64) (b : Fin 64) (scope : Scope) (sw : Bool) : RoundTrip.Statement (.stRlB t b scope sw) := by
  intro _ _ rest
  obtain ⟨x, hx⟩ : ∃ x, x = 10485931 + sw.toNat * 4 + t.val * 512 + b.val * 32768 + scope.code * 134217728 := ⟨_, rfl⟩
  have he : encodeWord (.stRlB t b scope sw) = some (4, x) := by rw [hx]; rfl
  obtain ⟨q0, q1, k0, k1, c0, c1, v0, v1, v2, v3⟩ := fields11 (m0 := 21) (m1 := 5) (by decide) (by decide) rfl hx t.isLt b.isLt (scope_code_lt scope) sw.toNat_lt
  refine decode_word32 he q0 q1 ?_ rest
  rw [decode32]; rw [k0]
  change dec15 x = _
  rw [dec15]; rw [k1]
  change (if _ then _ else _) = _
  rw [if_neg c0]
  rw [if_neg c1]
  rw [fin64_of (a := t) v0, fin64_of (a := b) v1, scope_of (c := scope) v2, bitAt_of (b := sw) v3]

theorem RoundTrip.stRlH (t : Fin 64) (b : Fin 64) (scope : Scope) (sw : Bool) : RoundTrip.Statement (.stRlH t b scope sw) := by
  intro _ _ rest
  obtain ⟨x, hx⟩ : ∃ x, x = 12583083 + sw.toNat * 4 + t.val * 512 + b.val * 32768 + scope.code * 134217728 := ⟨_, rfl⟩
  have he : encodeWord (.stRlH t b scope sw) = some (4, x) := by rw [hx]; rfl
  obtain ⟨q0, q1, k0, k1, c0, c1, v0, v1, v2, v3⟩ := fields11 (m0 := 21) (m1 := 6) (by decide) (by decide) rfl hx t.isLt b.isLt (scope_code_lt scope) sw.toNat_lt
  refine decode_word32 he q0 q1 ?_ rest
  rw [decode32]; rw [k0]
  change dec15 x = _
  rw [dec15]; rw [k1]
  change (if _ then _ else _) = _
  rw [if_neg c0]
  rw [if_neg c1]
  rw [fin64_of (a := t) v0, fin64_of (a := b) v1, scope_of (c := scope) v2, bitAt_of (b := sw) v3]

theorem RoundTrip.stRlW (t : Fin 64) (b : Fin 64) (scope : Scope) (sw : Bool) : RoundTrip.Statement (.stRlW t b scope sw) := by
  intro _ _ rest
  obtain ⟨x, hx⟩ : ∃ x, x = 14680235 + sw.toNat * 4 + t.val * 512 + b.val * 32768 + scope.code * 134217728 := ⟨_, rfl⟩
  have he : encodeWord (.stRlW t b scope sw) = some (4, x) := by rw [hx]; rfl
  obtain ⟨q0, q1, k0, k1, c0, c1, v0, v1, v2, v3⟩ := fields11 (m0 := 21) (m1 := 7) (by decide) (by decide) rfl hx t.isLt b.isLt (scope_code_lt scope) sw.toNat_lt
  refine decode_word32 he q0 q1 ?_ rest
  rw [decode32]; rw [k0]
  change dec15 x = _
  rw [dec15]; rw [k1]
  change (if _ then _ else _) = _
  rw [if_neg c0]
  rw [if_neg c1]
  rw [fin64_of (a := t) v0, fin64_of (a := b) v1, scope_of (c := scope) v2, bitAt_of (b := sw) v3]

theorem RoundTrip.stRl (t : Fin 64) (b : Fin 64) (scope : Scope) (sw : Bool) : RoundTrip.Statement (.stRl t b scope sw) := by
  intro _ _ rest
  obtain ⟨x, hx⟩ : ∃ x, x = 16777387 + sw.toNat * 4 + t.val * 512 + b.val * 32768 + scope.code * 134217728 := ⟨_, rfl⟩
  have he : encodeWord (.stRl t b scope sw) = some (4, x) := by rw [hx]; rfl
  obtain ⟨q0, q1, k0, k1, c0, c1, v0, v1, v2, v3⟩ := fields11 (m0 := 21) (m1 := 8) (by decide) (by decide) rfl hx t.isLt b.isLt (scope_code_lt scope) sw.toNat_lt
  refine decode_word32 he q0 q1 ?_ rest
  rw [decode32]; rw [k0]
  change dec15 x = _
  rw [dec15]; rw [k1]
  change (if _ then _ else _) = _
  rw [if_neg c0]
  rw [if_neg c1]
  rw [fin64_of (a := t) v0, fin64_of (a := b) v1, scope_of (c := scope) v2, bitAt_of (b := sw) v3]

theorem RoundTrip.sbind (n : Fin 64) (d : Fin 64) (sw : Bool) : RoundTrip.Statement (.sbind n d sw) := by
  intro _ _ rest
  obtain ⟨x, hx⟩ : ∃ x, x = 33554603 + sw.toNat * 4 + n.val * 512 + d.val * 32768 := ⟨_, rfl⟩
  have he : encodeWord (.sbind n d sw) = some (4, x) := by rw [hx]; rfl
  obtain ⟨q0, q1, k0, k1, c0, v0, v1, v2⟩ := fields12 (m0 := 21) (m1 := 16) (by decide) (by decide) rfl hx n.isLt d.isLt sw.toNat_lt
  refine decode_word32 he q0 q1 ?_ rest
  rw [decode32]; rw [k0]
  change dec15 x = _
  rw [dec15]; rw [k1]
  change (if _ then _ else _) = _
  rw [if_neg c0]
  rw [fin64_of (a := n) v0, fin64_of (a := d) v1, bitAt_of (b := sw) v2]

theorem RoundTrip.sunbind (n : Fin 64) (sw : Bool) : RoundTrip.Statement (.sunbind n sw) := by
  intro _ _ rest
  obtain ⟨x, hx⟩ : ∃ x, x = 35651755 + sw.toNat * 4 + n.val * 512 := ⟨_, rfl⟩
  have he : encodeWord (.sunbind n sw) = some (4, x) := by rw [hx]; rfl
  obtain ⟨q0, q1, k0, k1, c0, c1, v0, v1⟩ := fields13 (m0 := 21) (m1 := 17) (by decide) (by decide) rfl hx n.isLt sw.toNat_lt
  refine decode_word32 he q0 q1 ?_ rest
  rw [decode32]; rw [k0]
  change dec15 x = _
  rw [dec15]; rw [k1]
  change (if _ then _ else _) = _
  rw [if_neg c0]
  rw [if_neg c1]
  rw [fin64_of (a := n) v0, bitAt_of (b := sw) v1]

theorem RoundTrip.sstat (d : Fin 64) (k : Fin 8) (sw : Bool) : RoundTrip.Statement (.sstat d k sw) := by
  intro _ _ rest
  have := d.isLt; have := k.isLt; have := sw.toNat_lt
  obtain ⟨x, hx⟩ : ∃ x, x = 37748907 + sw.toNat * 4 + d.val * 512 + k.val * 32768 := ⟨_, rfl⟩
  have he : encodeWord (.sstat d k sw) = some (4, x) := by rw [hx]; rfl
  refine decode_word32 he (by omega) (by omega) ?_ rest
  rw [decode32]
  rw [show x / 8 % 64 = 21 by omega]
  change dec15 x = _
  rw [dec15]
  rw [show x / 2097152 % 64 = 18 by omega]
  change (if _ then _ else _) = _
  rw [if_neg (by omega)]
  rw [if_neg (by omega)]
  rw [fin64_of (a := d) (by omega), fin8_of (a := k) (by omega), bitAt_of (b := sw) (by omega)]

theorem RoundTrip.amoAdd (d : Fin 64) (b : Fin 64) (z : Bool) (scope : Scope) (ord : AmoOrd) (sw : Bool) : RoundTrip.Statement (.amoAdd d b z scope ord sw) := by
  intro _ _ rest
  obtain ⟨x, hx⟩ : ∃ x, x = 179 + sw.toNat * 4 + d.val * 512 + b.val * 32768 + z.toNat * 33554432 + scope.code * 134217728 + ord.code * 1073741824 := ⟨_, rfl⟩
  have he : encodeWord (.amoAdd d b z scope ord sw) = some (4, x) := by rw [hx]; rfl
  obtain ⟨q0, q1, k0, k1, c0, c1, v0, v1, v2, v3, v4, v5⟩ := fields14 (m0 := 22) (m1 := 0) (by decide) (by decide) rfl hx d.isLt b.isLt z.toNat_lt (scope_code_lt scope) (amoOrd_code_lt ord) sw.toNat_lt
  refine decode_word32 he q0 q1 ?_ rest
  rw [decode32]; rw [k0]
  change dec16 x = _
  rw [dec16]; rw [k1]
  change (if _ then _ else _) = _
  rw [if_neg c0]
  rw [if_neg c1]
  rw [fin64_of (a := d) v0, fin64_of (a := b) v1, bitAt_of (b := z) v2, scope_of (c := scope) v3, amoOrd_of (c := ord) v4, bitAt_of (b := sw) v5]

theorem RoundTrip.amoAnd (d : Fin 64) (b : Fin 64) (z : Bool) (scope : Scope) (ord : AmoOrd) (sw : Bool) : RoundTrip.Statement (.amoAnd d b z scope ord sw) := by
  intro _ _ rest
  obtain ⟨x, hx⟩ : ∃ x, x = 2097331 + sw.toNat * 4 + d.val * 512 + b.val * 32768 + z.toNat * 33554432 + scope.code * 134217728 + ord.code * 1073741824 := ⟨_, rfl⟩
  have he : encodeWord (.amoAnd d b z scope ord sw) = some (4, x) := by rw [hx]; rfl
  obtain ⟨q0, q1, k0, k1, c0, c1, v0, v1, v2, v3, v4, v5⟩ := fields14 (m0 := 22) (m1 := 1) (by decide) (by decide) rfl hx d.isLt b.isLt z.toNat_lt (scope_code_lt scope) (amoOrd_code_lt ord) sw.toNat_lt
  refine decode_word32 he q0 q1 ?_ rest
  rw [decode32]; rw [k0]
  change dec16 x = _
  rw [dec16]; rw [k1]
  change (if _ then _ else _) = _
  rw [if_neg c0]
  rw [if_neg c1]
  rw [fin64_of (a := d) v0, fin64_of (a := b) v1, bitAt_of (b := z) v2, scope_of (c := scope) v3, amoOrd_of (c := ord) v4, bitAt_of (b := sw) v5]

theorem RoundTrip.amoOr (d : Fin 64) (b : Fin 64) (z : Bool) (scope : Scope) (ord : AmoOrd) (sw : Bool) : RoundTrip.Statement (.amoOr d b z scope ord sw) := by
  intro _ _ rest
  obtain ⟨x, hx⟩ : ∃ x, x = 4194483 + sw.toNat * 4 + d.val * 512 + b.val * 32768 + z.toNat * 33554432 + scope.code * 134217728 + ord.code * 1073741824 := ⟨_, rfl⟩
  have he : encodeWord (.amoOr d b z scope ord sw) = some (4, x) := by rw [hx]; rfl
  obtain ⟨q0, q1, k0, k1, c0, c1, v0, v1, v2, v3, v4, v5⟩ := fields14 (m0 := 22) (m1 := 2) (by decide) (by decide) rfl hx d.isLt b.isLt z.toNat_lt (scope_code_lt scope) (amoOrd_code_lt ord) sw.toNat_lt
  refine decode_word32 he q0 q1 ?_ rest
  rw [decode32]; rw [k0]
  change dec16 x = _
  rw [dec16]; rw [k1]
  change (if _ then _ else _) = _
  rw [if_neg c0]
  rw [if_neg c1]
  rw [fin64_of (a := d) v0, fin64_of (a := b) v1, bitAt_of (b := z) v2, scope_of (c := scope) v3, amoOrd_of (c := ord) v4, bitAt_of (b := sw) v5]

theorem RoundTrip.amoXor (d : Fin 64) (b : Fin 64) (z : Bool) (scope : Scope) (ord : AmoOrd) (sw : Bool) : RoundTrip.Statement (.amoXor d b z scope ord sw) := by
  intro _ _ rest
  obtain ⟨x, hx⟩ : ∃ x, x = 6291635 + sw.toNat * 4 + d.val * 512 + b.val * 32768 + z.toNat * 33554432 + scope.code * 134217728 + ord.code * 1073741824 := ⟨_, rfl⟩
  have he : encodeWord (.amoXor d b z scope ord sw) = some (4, x) := by rw [hx]; rfl
  obtain ⟨q0, q1, k0, k1, c0, c1, v0, v1, v2, v3, v4, v5⟩ := fields14 (m0 := 22) (m1 := 3) (by decide) (by decide) rfl hx d.isLt b.isLt z.toNat_lt (scope_code_lt scope) (amoOrd_code_lt ord) sw.toNat_lt
  refine decode_word32 he q0 q1 ?_ rest
  rw [decode32]; rw [k0]
  change dec16 x = _
  rw [dec16]; rw [k1]
  change (if _ then _ else _) = _
  rw [if_neg c0]
  rw [if_neg c1]
  rw [fin64_of (a := d) v0, fin64_of (a := b) v1, bitAt_of (b := z) v2, scope_of (c := scope) v3, amoOrd_of (c := ord) v4, bitAt_of (b := sw) v5]

theorem RoundTrip.amoMin (d : Fin 64) (b : Fin 64) (z : Bool) (scope : Scope) (ord : AmoOrd) (sw : Bool) : RoundTrip.Statement (.amoMin d b z scope ord sw) := by
  intro _ _ rest
  obtain ⟨x, hx⟩ : ∃ x, x = 8388787 + sw.toNat * 4 + d.val * 512 + b.val * 32768 + z.toNat * 33554432 + scope.code * 134217728 + ord.code * 1073741824 := ⟨_, rfl⟩
  have he : encodeWord (.amoMin d b z scope ord sw) = some (4, x) := by rw [hx]; rfl
  obtain ⟨q0, q1, k0, k1, c0, c1, v0, v1, v2, v3, v4, v5⟩ := fields14 (m0 := 22) (m1 := 4) (by decide) (by decide) rfl hx d.isLt b.isLt z.toNat_lt (scope_code_lt scope) (amoOrd_code_lt ord) sw.toNat_lt
  refine decode_word32 he q0 q1 ?_ rest
  rw [decode32]; rw [k0]
  change dec16 x = _
  rw [dec16]; rw [k1]
  change (if _ then _ else _) = _
  rw [if_neg c0]
  rw [if_neg c1]
  rw [fin64_of (a := d) v0, fin64_of (a := b) v1, bitAt_of (b := z) v2, scope_of (c := scope) v3, amoOrd_of (c := ord) v4, bitAt_of (b := sw) v5]

theorem RoundTrip.amoMax (d : Fin 64) (b : Fin 64) (z : Bool) (scope : Scope) (ord : AmoOrd) (sw : Bool) : RoundTrip.Statement (.amoMax d b z scope ord sw) := by
  intro _ _ rest
  obtain ⟨x, hx⟩ : ∃ x, x = 10485939 + sw.toNat * 4 + d.val * 512 + b.val * 32768 + z.toNat * 33554432 + scope.code * 134217728 + ord.code * 1073741824 := ⟨_, rfl⟩
  have he : encodeWord (.amoMax d b z scope ord sw) = some (4, x) := by rw [hx]; rfl
  obtain ⟨q0, q1, k0, k1, c0, c1, v0, v1, v2, v3, v4, v5⟩ := fields14 (m0 := 22) (m1 := 5) (by decide) (by decide) rfl hx d.isLt b.isLt z.toNat_lt (scope_code_lt scope) (amoOrd_code_lt ord) sw.toNat_lt
  refine decode_word32 he q0 q1 ?_ rest
  rw [decode32]; rw [k0]
  change dec16 x = _
  rw [dec16]; rw [k1]
  change (if _ then _ else _) = _
  rw [if_neg c0]
  rw [if_neg c1]
  rw [fin64_of (a := d) v0, fin64_of (a := b) v1, bitAt_of (b := z) v2, scope_of (c := scope) v3, amoOrd_of (c := ord) v4, bitAt_of (b := sw) v5]

theorem RoundTrip.amoMinu (d : Fin 64) (b : Fin 64) (z : Bool) (scope : Scope) (ord : AmoOrd) (sw : Bool) : RoundTrip.Statement (.amoMinu d b z scope ord sw) := by
  intro _ _ rest
  obtain ⟨x, hx⟩ : ∃ x, x = 12583091 + sw.toNat * 4 + d.val * 512 + b.val * 32768 + z.toNat * 33554432 + scope.code * 134217728 + ord.code * 1073741824 := ⟨_, rfl⟩
  have he : encodeWord (.amoMinu d b z scope ord sw) = some (4, x) := by rw [hx]; rfl
  obtain ⟨q0, q1, k0, k1, c0, c1, v0, v1, v2, v3, v4, v5⟩ := fields14 (m0 := 22) (m1 := 6) (by decide) (by decide) rfl hx d.isLt b.isLt z.toNat_lt (scope_code_lt scope) (amoOrd_code_lt ord) sw.toNat_lt
  refine decode_word32 he q0 q1 ?_ rest
  rw [decode32]; rw [k0]
  change dec16 x = _
  rw [dec16]; rw [k1]
  change (if _ then _ else _) = _
  rw [if_neg c0]
  rw [if_neg c1]
  rw [fin64_of (a := d) v0, fin64_of (a := b) v1, bitAt_of (b := z) v2, scope_of (c := scope) v3, amoOrd_of (c := ord) v4, bitAt_of (b := sw) v5]

theorem RoundTrip.amoMaxu (d : Fin 64) (b : Fin 64) (z : Bool) (scope : Scope) (ord : AmoOrd) (sw : Bool) : RoundTrip.Statement (.amoMaxu d b z scope ord sw) := by
  intro _ _ rest
  obtain ⟨x, hx⟩ : ∃ x, x = 14680243 + sw.toNat * 4 + d.val * 512 + b.val * 32768 + z.toNat * 33554432 + scope.code * 134217728 + ord.code * 1073741824 := ⟨_, rfl⟩
  have he : encodeWord (.amoMaxu d b z scope ord sw) = some (4, x) := by rw [hx]; rfl
  obtain ⟨q0, q1, k0, k1, c0, c1, v0, v1, v2, v3, v4, v5⟩ := fields14 (m0 := 22) (m1 := 7) (by decide) (by decide) rfl hx d.isLt b.isLt z.toNat_lt (scope_code_lt scope) (amoOrd_code_lt ord) sw.toNat_lt
  refine decode_word32 he q0 q1 ?_ rest
  rw [decode32]; rw [k0]
  change dec16 x = _
  rw [dec16]; rw [k1]
  change (if _ then _ else _) = _
  rw [if_neg c0]
  rw [if_neg c1]
  rw [fin64_of (a := d) v0, fin64_of (a := b) v1, bitAt_of (b := z) v2, scope_of (c := scope) v3, amoOrd_of (c := ord) v4, bitAt_of (b := sw) v5]

theorem RoundTrip.amoSwap (d : Fin 64) (b : Fin 64) (z : Bool) (scope : Scope) (ord : AmoOrd) (sw : Bool) : RoundTrip.Statement (.amoSwap d b z scope ord sw) := by
  intro _ _ rest
  obtain ⟨x, hx⟩ : ∃ x, x = 16777395 + sw.toNat * 4 + d.val * 512 + b.val * 32768 + z.toNat * 33554432 + scope.code * 134217728 + ord.code * 1073741824 := ⟨_, rfl⟩
  have he : encodeWord (.amoSwap d b z scope ord sw) = some (4, x) := by rw [hx]; rfl
  obtain ⟨q0, q1, k0, k1, c0, c1, v0, v1, v2, v3, v4, v5⟩ := fields14 (m0 := 22) (m1 := 8) (by decide) (by decide) rfl hx d.isLt b.isLt z.toNat_lt (scope_code_lt scope) (amoOrd_code_lt ord) sw.toNat_lt
  refine decode_word32 he q0 q1 ?_ rest
  rw [decode32]; rw [k0]
  change dec16 x = _
  rw [dec16]; rw [k1]
  change (if _ then _ else _) = _
  rw [if_neg c0]
  rw [if_neg c1]
  rw [fin64_of (a := d) v0, fin64_of (a := b) v1, bitAt_of (b := z) v2, scope_of (c := scope) v3, amoOrd_of (c := ord) v4, bitAt_of (b := sw) v5]

theorem RoundTrip.cas (d : Fin 64) (b : Fin 64) (n : Fin 64) (scope : Scope) (ord : AmoOrd) (sw : Bool) : RoundTrip.Statement (.cas d b n scope ord sw) := by
  intro _ _ rest
  have := d.isLt; have := b.isLt; have := n.isLt; have := scope_code_lt scope; have := amoOrd_code_lt ord; have := sw.toNat_lt
  obtain ⟨x, hx⟩ : ∃ x, x = 187 + sw.toNat * 4 + d.val * 512 + b.val * 32768 + n.val * 2097152 + scope.code * 134217728 + ord.code * 1073741824 := ⟨_, rfl⟩
  have he : encodeWord (.cas d b n scope ord sw) = some (4, x) := by rw [hx]; rfl
  refine decode_word32 he (by omega) (by omega) ?_ rest
  rw [decode32]
  rw [show x / 8 % 64 = 23 by omega]
  change dec17 x = _
  rw [dec17]
  rw [if_neg (by omega)]
  rw [fin64_of (a := d) (by omega), fin64_of (a := b) (by omega), fin64_of (a := n) (by omega), scope_of (c := scope) (by omega), amoOrd_of (c := ord) (by omega), bitAt_of (b := sw) (by omega)]

theorem RoundTrip.vadd (ty : LaneTy) (d : Fin 32) (a : Fin 32) (b : Fin 32) (g : Fin 8) (sw : Bool) : RoundTrip.Statement (.vadd ty d a b g sw) := by
  intro _ _ rest
  obtain ⟨x, hx⟩ : ∃ x, x = 195 + sw.toNat * 4 + ty.code * 512 + d.val * 1024 + a.val * 32768 + b.val * 1048576 + g.val * 33554432 := ⟨_, rfl⟩
  have he : encodeWord (.vadd ty d a b g sw) = some (4, x) := by rw [hx]; rfl
  obtain ⟨q0, q1, k0, k1, v0, v1, v2, v3, v4, v5⟩ := fields15 (m0 := 24) (m1 := 0) (by decide) (by decide) rfl hx (laneTy_code_lt ty) d.isLt a.isLt b.isLt g.isLt sw.toNat_lt
  refine decode_word32 he q0 q1 ?_ rest
  rw [decode32]; rw [k0]
  change dec18 x = _
  rw [dec18]; rw [k1]
  change Except.ok _ = _
  rw [laneTy_of (c := ty) v0, fin32_of (a := d) v1, fin32_of (a := a) v2, fin32_of (a := b) v3, fin8_of (a := g) v4, bitAt_of (b := sw) v5]

theorem RoundTrip.vsub (ty : LaneTy) (d : Fin 32) (a : Fin 32) (b : Fin 32) (g : Fin 8) (sw : Bool) : RoundTrip.Statement (.vsub ty d a b g sw) := by
  intro _ _ rest
  obtain ⟨x, hx⟩ : ∃ x, x = 268435651 + sw.toNat * 4 + ty.code * 512 + d.val * 1024 + a.val * 32768 + b.val * 1048576 + g.val * 33554432 := ⟨_, rfl⟩
  have he : encodeWord (.vsub ty d a b g sw) = some (4, x) := by rw [hx]; rfl
  obtain ⟨q0, q1, k0, k1, v0, v1, v2, v3, v4, v5⟩ := fields15 (m0 := 24) (m1 := 1) (by decide) (by decide) rfl hx (laneTy_code_lt ty) d.isLt a.isLt b.isLt g.isLt sw.toNat_lt
  refine decode_word32 he q0 q1 ?_ rest
  rw [decode32]; rw [k0]
  change dec18 x = _
  rw [dec18]; rw [k1]
  change Except.ok _ = _
  rw [laneTy_of (c := ty) v0, fin32_of (a := d) v1, fin32_of (a := a) v2, fin32_of (a := b) v3, fin8_of (a := g) v4, bitAt_of (b := sw) v5]

theorem RoundTrip.vmul (ty : LaneTy) (d : Fin 32) (a : Fin 32) (b : Fin 32) (g : Fin 8) (sw : Bool) : RoundTrip.Statement (.vmul ty d a b g sw) := by
  intro _ _ rest
  obtain ⟨x, hx⟩ : ∃ x, x = 536871107 + sw.toNat * 4 + ty.code * 512 + d.val * 1024 + a.val * 32768 + b.val * 1048576 + g.val * 33554432 := ⟨_, rfl⟩
  have he : encodeWord (.vmul ty d a b g sw) = some (4, x) := by rw [hx]; rfl
  obtain ⟨q0, q1, k0, k1, v0, v1, v2, v3, v4, v5⟩ := fields15 (m0 := 24) (m1 := 2) (by decide) (by decide) rfl hx (laneTy_code_lt ty) d.isLt a.isLt b.isLt g.isLt sw.toNat_lt
  refine decode_word32 he q0 q1 ?_ rest
  rw [decode32]; rw [k0]
  change dec18 x = _
  rw [dec18]; rw [k1]
  change Except.ok _ = _
  rw [laneTy_of (c := ty) v0, fin32_of (a := d) v1, fin32_of (a := a) v2, fin32_of (a := b) v3, fin8_of (a := g) v4, bitAt_of (b := sw) v5]

theorem RoundTrip.vmin (ty : LaneTy) (d : Fin 32) (a : Fin 32) (b : Fin 32) (g : Fin 8) (sw : Bool) : RoundTrip.Statement (.vmin ty d a b g sw) := by
  intro _ _ rest
  obtain ⟨x, hx⟩ : ∃ x, x = 805306563 + sw.toNat * 4 + ty.code * 512 + d.val * 1024 + a.val * 32768 + b.val * 1048576 + g.val * 33554432 := ⟨_, rfl⟩
  have he : encodeWord (.vmin ty d a b g sw) = some (4, x) := by rw [hx]; rfl
  obtain ⟨q0, q1, k0, k1, v0, v1, v2, v3, v4, v5⟩ := fields15 (m0 := 24) (m1 := 3) (by decide) (by decide) rfl hx (laneTy_code_lt ty) d.isLt a.isLt b.isLt g.isLt sw.toNat_lt
  refine decode_word32 he q0 q1 ?_ rest
  rw [decode32]; rw [k0]
  change dec18 x = _
  rw [dec18]; rw [k1]
  change Except.ok _ = _
  rw [laneTy_of (c := ty) v0, fin32_of (a := d) v1, fin32_of (a := a) v2, fin32_of (a := b) v3, fin8_of (a := g) v4, bitAt_of (b := sw) v5]

theorem RoundTrip.vmax (ty : LaneTy) (d : Fin 32) (a : Fin 32) (b : Fin 32) (g : Fin 8) (sw : Bool) : RoundTrip.Statement (.vmax ty d a b g sw) := by
  intro _ _ rest
  obtain ⟨x, hx⟩ : ∃ x, x = 1073742019 + sw.toNat * 4 + ty.code * 512 + d.val * 1024 + a.val * 32768 + b.val * 1048576 + g.val * 33554432 := ⟨_, rfl⟩
  have he : encodeWord (.vmax ty d a b g sw) = some (4, x) := by rw [hx]; rfl
  obtain ⟨q0, q1, k0, k1, v0, v1, v2, v3, v4, v5⟩ := fields15 (m0 := 24) (m1 := 4) (by decide) (by decide) rfl hx (laneTy_code_lt ty) d.isLt a.isLt b.isLt g.isLt sw.toNat_lt
  refine decode_word32 he q0 q1 ?_ rest
  rw [decode32]; rw [k0]
  change dec18 x = _
  rw [dec18]; rw [k1]
  change Except.ok _ = _
  rw [laneTy_of (c := ty) v0, fin32_of (a := d) v1, fin32_of (a := a) v2, fin32_of (a := b) v3, fin8_of (a := g) v4, bitAt_of (b := sw) v5]

theorem RoundTrip.vabs (ty : LaneTy) (d : Fin 32) (a : Fin 32) (g : Fin 8) (sw : Bool) : RoundTrip.Statement (.vabs ty d a g sw) := by
  intro _ _ rest
  obtain ⟨x, hx⟩ : ∃ x, x = 1342177475 + sw.toNat * 4 + ty.code * 512 + d.val * 1024 + a.val * 32768 + g.val * 33554432 := ⟨_, rfl⟩
  have he : encodeWord (.vabs ty d a g sw) = some (4, x) := by rw [hx]; rfl
  obtain ⟨q0, q1, k0, k1, c0, v0, v1, v2, v3, v4⟩ := fields16 (m0 := 24) (m1 := 5) (by decide) (by decide) rfl hx (laneTy_code_lt ty) d.isLt a.isLt g.isLt sw.toNat_lt
  refine decode_word32 he q0 q1 ?_ rest
  rw [decode32]; rw [k0]
  change dec18 x = _
  rw [dec18]; rw [k1]
  change (if _ then _ else _) = _
  rw [if_neg c0]
  rw [laneTy_of (c := ty) v0, fin32_of (a := d) v1, fin32_of (a := a) v2, fin8_of (a := g) v3, bitAt_of (b := sw) v4]

theorem RoundTrip.vneg (ty : LaneTy) (d : Fin 32) (a : Fin 32) (g : Fin 8) (sw : Bool) : RoundTrip.Statement (.vneg ty d a g sw) := by
  intro _ _ rest
  obtain ⟨x, hx⟩ : ∃ x, x = 1610612931 + sw.toNat * 4 + ty.code * 512 + d.val * 1024 + a.val * 32768 + g.val * 33554432 := ⟨_, rfl⟩
  have he : encodeWord (.vneg ty d a g sw) = some (4, x) := by rw [hx]; rfl
  obtain ⟨q0, q1, k0, k1, c0, v0, v1, v2, v3, v4⟩ := fields16 (m0 := 24) (m1 := 6) (by decide) (by decide) rfl hx (laneTy_code_lt ty) d.isLt a.isLt g.isLt sw.toNat_lt
  refine decode_word32 he q0 q1 ?_ rest
  rw [decode32]; rw [k0]
  change dec18 x = _
  rw [dec18]; rw [k1]
  change (if _ then _ else _) = _
  rw [if_neg c0]
  rw [laneTy_of (c := ty) v0, fin32_of (a := d) v1, fin32_of (a := a) v2, fin8_of (a := g) v3, bitAt_of (b := sw) v4]

theorem RoundTrip.vand (d : Fin 32) (a : Fin 32) (b : Fin 32) (g : Fin 8) (sw : Bool) : RoundTrip.Statement (.vand d a b g sw) := by
  intro _ _ rest
  obtain ⟨x, hx⟩ : ∃ x, x = 1879048899 + sw.toNat * 4 + d.val * 1024 + a.val * 32768 + b.val * 1048576 + g.val * 33554432 := ⟨_, rfl⟩
  have he : encodeWord (.vand d a b g sw) = some (4, x) := by rw [hx]; rfl
  obtain ⟨q0, q1, k0, k1, c0, v0, v1, v2, v3, v4⟩ := fields17 (m0 := 24) (m1 := 7) (by decide) (by decide) rfl hx d.isLt a.isLt b.isLt g.isLt sw.toNat_lt
  refine decode_word32 he q0 q1 ?_ rest
  rw [decode32]; rw [k0]
  change dec18 x = _
  rw [dec18]; rw [k1]
  change (if _ then _ else _) = _
  rw [if_neg c0]
  rw [fin32_of (a := d) v0, fin32_of (a := a) v1, fin32_of (a := b) v2, fin8_of (a := g) v3, bitAt_of (b := sw) v4]

theorem RoundTrip.vor (d : Fin 32) (a : Fin 32) (b : Fin 32) (g : Fin 8) (sw : Bool) : RoundTrip.Statement (.vor d a b g sw) := by
  intro _ _ rest
  obtain ⟨x, hx⟩ : ∃ x, x = 2147484355 + sw.toNat * 4 + d.val * 1024 + a.val * 32768 + b.val * 1048576 + g.val * 33554432 := ⟨_, rfl⟩
  have he : encodeWord (.vor d a b g sw) = some (4, x) := by rw [hx]; rfl
  obtain ⟨q0, q1, k0, k1, c0, v0, v1, v2, v3, v4⟩ := fields17 (m0 := 24) (m1 := 8) (by decide) (by decide) rfl hx d.isLt a.isLt b.isLt g.isLt sw.toNat_lt
  refine decode_word32 he q0 q1 ?_ rest
  rw [decode32]; rw [k0]
  change dec18 x = _
  rw [dec18]; rw [k1]
  change (if _ then _ else _) = _
  rw [if_neg c0]
  rw [fin32_of (a := d) v0, fin32_of (a := a) v1, fin32_of (a := b) v2, fin8_of (a := g) v3, bitAt_of (b := sw) v4]

theorem RoundTrip.vxor (d : Fin 32) (a : Fin 32) (b : Fin 32) (g : Fin 8) (sw : Bool) : RoundTrip.Statement (.vxor d a b g sw) := by
  intro _ _ rest
  obtain ⟨x, hx⟩ : ∃ x, x = 2415919811 + sw.toNat * 4 + d.val * 1024 + a.val * 32768 + b.val * 1048576 + g.val * 33554432 := ⟨_, rfl⟩
  have he : encodeWord (.vxor d a b g sw) = some (4, x) := by rw [hx]; rfl
  obtain ⟨q0, q1, k0, k1, c0, v0, v1, v2, v3, v4⟩ := fields17 (m0 := 24) (m1 := 9) (by decide) (by decide) rfl hx d.isLt a.isLt b.isLt g.isLt sw.toNat_lt
  refine decode_word32 he q0 q1 ?_ rest
  rw [decode32]; rw [k0]
  change dec18 x = _
  rw [dec18]; rw [k1]
  change (if _ then _ else _) = _
  rw [if_neg c0]
  rw [fin32_of (a := d) v0, fin32_of (a := a) v1, fin32_of (a := b) v2, fin8_of (a := g) v3, bitAt_of (b := sw) v4]

theorem RoundTrip.vshl (d : Fin 32) (a : Fin 32) (b : Fin 32) (g : Fin 8) (sw : Bool) : RoundTrip.Statement (.vshl d a b g sw) := by
  intro _ _ rest
  obtain ⟨x, hx⟩ : ∃ x, x = 2684355267 + sw.toNat * 4 + d.val * 1024 + a.val * 32768 + b.val * 1048576 + g.val * 33554432 := ⟨_, rfl⟩
  have he : encodeWord (.vshl d a b g sw) = some (4, x) := by rw [hx]; rfl
  obtain ⟨q0, q1, k0, k1, c0, v0, v1, v2, v3, v4⟩ := fields17 (m0 := 24) (m1 := 10) (by decide) (by decide) rfl hx d.isLt a.isLt b.isLt g.isLt sw.toNat_lt
  refine decode_word32 he q0 q1 ?_ rest
  rw [decode32]; rw [k0]
  change dec18 x = _
  rw [dec18]; rw [k1]
  change (if _ then _ else _) = _
  rw [if_neg c0]
  rw [fin32_of (a := d) v0, fin32_of (a := a) v1, fin32_of (a := b) v2, fin8_of (a := g) v3, bitAt_of (b := sw) v4]

theorem RoundTrip.vshr (d : Fin 32) (a : Fin 32) (b : Fin 32) (g : Fin 8) (sw : Bool) : RoundTrip.Statement (.vshr d a b g sw) := by
  intro _ _ rest
  obtain ⟨x, hx⟩ : ∃ x, x = 2952790723 + sw.toNat * 4 + d.val * 1024 + a.val * 32768 + b.val * 1048576 + g.val * 33554432 := ⟨_, rfl⟩
  have he : encodeWord (.vshr d a b g sw) = some (4, x) := by rw [hx]; rfl
  obtain ⟨q0, q1, k0, k1, c0, v0, v1, v2, v3, v4⟩ := fields17 (m0 := 24) (m1 := 11) (by decide) (by decide) rfl hx d.isLt a.isLt b.isLt g.isLt sw.toNat_lt
  refine decode_word32 he q0 q1 ?_ rest
  rw [decode32]; rw [k0]
  change dec18 x = _
  rw [dec18]; rw [k1]
  change (if _ then _ else _) = _
  rw [if_neg c0]
  rw [fin32_of (a := d) v0, fin32_of (a := a) v1, fin32_of (a := b) v2, fin8_of (a := g) v3, bitAt_of (b := sw) v4]

theorem RoundTrip.vshra (d : Fin 32) (a : Fin 32) (b : Fin 32) (g : Fin 8) (sw : Bool) : RoundTrip.Statement (.vshra d a b g sw) := by
  intro _ _ rest
  obtain ⟨x, hx⟩ : ∃ x, x = 3221226179 + sw.toNat * 4 + d.val * 1024 + a.val * 32768 + b.val * 1048576 + g.val * 33554432 := ⟨_, rfl⟩
  have he : encodeWord (.vshra d a b g sw) = some (4, x) := by rw [hx]; rfl
  obtain ⟨q0, q1, k0, k1, c0, v0, v1, v2, v3, v4⟩ := fields17 (m0 := 24) (m1 := 12) (by decide) (by decide) rfl hx d.isLt a.isLt b.isLt g.isLt sw.toNat_lt
  refine decode_word32 he q0 q1 ?_ rest
  rw [decode32]; rw [k0]
  change dec18 x = _
  rw [dec18]; rw [k1]
  change (if _ then _ else _) = _
  rw [if_neg c0]
  rw [fin32_of (a := d) v0, fin32_of (a := a) v1, fin32_of (a := b) v2, fin8_of (a := g) v3, bitAt_of (b := sw) v4]

theorem RoundTrip.vadds (d : Fin 32) (a : Fin 32) (b : Fin 32) (g : Fin 8) (sw : Bool) : RoundTrip.Statement (.vadds d a b g sw) := by
  intro _ _ rest
  obtain ⟨x, hx⟩ : ∃ x, x = 3489661635 + sw.toNat * 4 + d.val * 1024 + a.val * 32768 + b.val * 1048576 + g.val * 33554432 := ⟨_, rfl⟩
  have he : encodeWord (.vadds d a b g sw) = some (4, x) := by rw [hx]; rfl
  obtain ⟨q0, q1, k0, k1, c0, v0, v1, v2, v3, v4⟩ := fields17 (m0 := 24) (m1 := 13) (by decide) (by decide) rfl hx d.isLt a.isLt b.isLt g.isLt sw.toNat_lt
  refine decode_word32 he q0 q1 ?_ rest
  rw [decode32]; rw [k0]
  change dec18 x = _
  rw [dec18]; rw [k1]
  change (if _ then _ else _) = _
  rw [if_neg c0]
  rw [fin32_of (a := d) v0, fin32_of (a := a) v1, fin32_of (a := b) v2, fin8_of (a := g) v3, bitAt_of (b := sw) v4]

theorem RoundTrip.vsubs (d : Fin 32) (a : Fin 32) (b : Fin 32) (g : Fin 8) (sw : Bool) : RoundTrip.Statement (.vsubs d a b g sw) := by
  intro _ _ rest
  obtain ⟨x, hx⟩ : ∃ x, x = 3758097091 + sw.toNat * 4 + d.val * 1024 + a.val * 32768 + b.val * 1048576 + g.val * 33554432 := ⟨_, rfl⟩
  have he : encodeWord (.vsubs d a b g sw) = some (4, x) := by rw [hx]; rfl
  obtain ⟨q0, q1, k0, k1, c0, v0, v1, v2, v3, v4⟩ := fields17 (m0 := 24) (m1 := 14) (by decide) (by decide) rfl hx d.isLt a.isLt b.isLt g.isLt sw.toNat_lt
  refine decode_word32 he q0 q1 ?_ rest
  rw [decode32]; rw [k0]
  change dec18 x = _
  rw [dec18]; rw [k1]
  change (if _ then _ else _) = _
  rw [if_neg c0]
  rw [fin32_of (a := d) v0, fin32_of (a := a) v1, fin32_of (a := b) v2, fin8_of (a := g) v3, bitAt_of (b := sw) v4]

theorem RoundTrip.vfma (ty : LaneTy) (d : Fin 32) (a : Fin 32) (b : Fin 32) (g : Fin 8) (sw : Bool) : RoundTrip.Statement (.vfma ty d a b g sw) := by
  intro _ _ rest
  obtain ⟨x, hx⟩ : ∃ x, x = 203 + sw.toNat * 4 + ty.code * 512 + d.val * 1024 + a.val * 32768 + b.val * 1048576 + g.val * 33554432 := ⟨_, rfl⟩
  have he : encodeWord (.vfma ty d a b g sw) = some (4, x) := by rw [hx]; rfl
  obtain ⟨q0, q1, k0, k1, v0, v1, v2, v3, v4, v5⟩ := fields15 (m0 := 25) (m1 := 0) (by decide) (by decide) rfl hx (laneTy_code_lt ty) d.isLt a.isLt b.isLt g.isLt sw.toNat_lt
  refine decode_word32 he q0 q1 ?_ rest
  rw [decode32]; rw [k0]
  change dec19 x = _
  rw [dec19]; rw [k1]
  change Except.ok _ = _
  rw [laneTy_of (c := ty) v0, fin32_of (a := d) v1, fin32_of (a := a) v2, fin32_of (a := b) v3, fin8_of (a := g) v4, bitAt_of (b := sw) v5]

theorem RoundTrip.vfnma (ty : LaneTy) (d : Fin 32) (a : Fin 32) (b : Fin 32) (g : Fin 8) (sw : Bool) : RoundTrip.Statement (.vfnma ty d a b g sw) := by
  intro _ _ rest
  obtain ⟨x, hx⟩ : ∃ x, x = 268435659 + sw.toNat * 4 + ty.code * 512 + d.val * 1024 + a.val * 32768 + b.val * 1048576 + g.val * 33554432 := ⟨_, rfl⟩
  have he : encodeWord (.vfnma ty d a b g sw) = some (4, x) := by rw [hx]; rfl
  obtain ⟨q0, q1, k0, k1, v0, v1, v2, v3, v4, v5⟩ := fields15 (m0 := 25) (m1 := 1) (by decide) (by decide) rfl hx (laneTy_code_lt ty) d.isLt a.isLt b.isLt g.isLt sw.toNat_lt
  refine decode_word32 he q0 q1 ?_ rest
  rw [decode32]; rw [k0]
  change dec19 x = _
  rw [dec19]; rw [k1]
  change Except.ok _ = _
  rw [laneTy_of (c := ty) v0, fin32_of (a := d) v1, fin32_of (a := a) v2, fin32_of (a := b) v3, fin8_of (a := g) v4, bitAt_of (b := sw) v5]

theorem RoundTrip.vcmpEq (ty : LaneTy) (p : Fin 8) (a : Fin 32) (b : Fin 32) (g : Fin 8) (sw : Bool) : RoundTrip.Statement (.vcmpEq ty p a b g sw) := by
  intro _ _ rest
  obtain ⟨x, hx⟩ : ∃ x, x = 211 + sw.toNat * 4 + ty.code * 512 + p.val * 1024 + a.val * 32768 + b.val * 1048576 + g.val * 33554432 := ⟨_, rfl⟩
  have he : encodeWord (.vcmpEq ty p a b g sw) = some (4, x) := by rw [hx]; rfl
  obtain ⟨q0, q1, k0, k1, c0, v0, v1, v2, v3, v4, v5⟩ := fields18 (m0 := 26) (m1 := 0) (by decide) (by decide) rfl hx (laneTy_code_lt ty) p.isLt a.isLt b.isLt g.isLt sw.toNat_lt
  refine decode_word32 he q0 q1 ?_ rest
  rw [decode32]; rw [k0]
  change dec1A x = _
  rw [dec1A]; rw [k1]
  change (if _ then _ else _) = _
  rw [if_neg c0]
  rw [laneTy_of (c := ty) v0, fin8_of (a := p) v1, fin32_of (a := a) v2, fin32_of (a := b) v3, fin8_of (a := g) v4, bitAt_of (b := sw) v5]

theorem RoundTrip.vcmpNe (ty : LaneTy) (p : Fin 8) (a : Fin 32) (b : Fin 32) (g : Fin 8) (sw : Bool) : RoundTrip.Statement (.vcmpNe ty p a b g sw) := by
  intro _ _ rest
  obtain ⟨x, hx⟩ : ∃ x, x = 268435667 + sw.toNat * 4 + ty.code * 512 + p.val * 1024 + a.val * 32768 + b.val * 1048576 + g.val * 33554432 := ⟨_, rfl⟩
  have he : encodeWord (.vcmpNe ty p a b g sw) = some (4, x) := by rw [hx]; rfl
  obtain ⟨q0, q1, k0, k1, c0, v0, v1, v2, v3, v4, v5⟩ := fields18 (m0 := 26) (m1 := 1) (by decide) (by decide) rfl hx (laneTy_code_lt ty) p.isLt a.isLt b.isLt g.isLt sw.toNat_lt
  refine decode_word32 he q0 q1 ?_ rest
  rw [decode32]; rw [k0]
  change dec1A x = _
  rw [dec1A]; rw [k1]
  change (if _ then _ else _) = _
  rw [if_neg c0]
  rw [laneTy_of (c := ty) v0, fin8_of (a := p) v1, fin32_of (a := a) v2, fin32_of (a := b) v3, fin8_of (a := g) v4, bitAt_of (b := sw) v5]

theorem RoundTrip.vcmpLt (ty : LaneTy) (p : Fin 8) (a : Fin 32) (b : Fin 32) (g : Fin 8) (sw : Bool) : RoundTrip.Statement (.vcmpLt ty p a b g sw) := by
  intro _ _ rest
  obtain ⟨x, hx⟩ : ∃ x, x = 536871123 + sw.toNat * 4 + ty.code * 512 + p.val * 1024 + a.val * 32768 + b.val * 1048576 + g.val * 33554432 := ⟨_, rfl⟩
  have he : encodeWord (.vcmpLt ty p a b g sw) = some (4, x) := by rw [hx]; rfl
  obtain ⟨q0, q1, k0, k1, c0, v0, v1, v2, v3, v4, v5⟩ := fields18 (m0 := 26) (m1 := 2) (by decide) (by decide) rfl hx (laneTy_code_lt ty) p.isLt a.isLt b.isLt g.isLt sw.toNat_lt
  refine decode_word32 he q0 q1 ?_ rest
  rw [decode32]; rw [k0]
  change dec1A x = _
  rw [dec1A]; rw [k1]
  change (if _ then _ else _) = _
  rw [if_neg c0]
  rw [laneTy_of (c := ty) v0, fin8_of (a := p) v1, fin32_of (a := a) v2, fin32_of (a := b) v3, fin8_of (a := g) v4, bitAt_of (b := sw) v5]

theorem RoundTrip.vcmpLe (ty : LaneTy) (p : Fin 8) (a : Fin 32) (b : Fin 32) (g : Fin 8) (sw : Bool) : RoundTrip.Statement (.vcmpLe ty p a b g sw) := by
  intro _ _ rest
  obtain ⟨x, hx⟩ : ∃ x, x = 805306579 + sw.toNat * 4 + ty.code * 512 + p.val * 1024 + a.val * 32768 + b.val * 1048576 + g.val * 33554432 := ⟨_, rfl⟩
  have he : encodeWord (.vcmpLe ty p a b g sw) = some (4, x) := by rw [hx]; rfl
  obtain ⟨q0, q1, k0, k1, c0, v0, v1, v2, v3, v4, v5⟩ := fields18 (m0 := 26) (m1 := 3) (by decide) (by decide) rfl hx (laneTy_code_lt ty) p.isLt a.isLt b.isLt g.isLt sw.toNat_lt
  refine decode_word32 he q0 q1 ?_ rest
  rw [decode32]; rw [k0]
  change dec1A x = _
  rw [dec1A]; rw [k1]
  change (if _ then _ else _) = _
  rw [if_neg c0]
  rw [laneTy_of (c := ty) v0, fin8_of (a := p) v1, fin32_of (a := a) v2, fin32_of (a := b) v3, fin8_of (a := g) v4, bitAt_of (b := sw) v5]

theorem RoundTrip.vsel (d : Fin 32) (a : Fin 32) (b : Fin 32) (k : Fin 8) (sw : Bool) : RoundTrip.Statement (.vsel d a b k sw) := by
  intro _ _ rest
  have := d.isLt; have := a.isLt; have := b.isLt; have := k.isLt; have := sw.toNat_lt
  obtain ⟨x, hx⟩ : ∃ x, x = 219 + sw.toNat * 4 + d.val * 1024 + a.val * 32768 + b.val * 1048576 + k.val * 33554432 := ⟨_, rfl⟩
  have he : encodeWord (.vsel d a b k sw) = some (4, x) := by rw [hx]; rfl
  refine decode_word32 he (by omega) (by omega) ?_ rest
  rw [decode32]
  rw [show x / 8 % 64 = 27 by omega]
  change dec1B x = _
  rw [dec1B]
  rw [if_neg (by omega)]
  rw [if_neg (by omega)]
  rw [fin32_of (a := d) (by omega), fin32_of (a := a) (by omega), fin32_of (a := b) (by omega), fin8_of (a := k) (by omega), bitAt_of (b := sw) (by omega)]

theorem RoundTrip.vcvtDec (d : Fin 32) (a : Fin 32) (g : Fin 8) (w : Fin 16) (sw : Bool) : RoundTrip.Statement (.vcvtDec d a g w sw) := by
  intro hwf _ rest
  have := d.isLt; have := a.isLt; have := g.isLt; have := w.isLt; have := sw.toNat_lt; replace hwf : plainWindow w.val = true := hwf
  obtain ⟨x, hx⟩ : ∃ x, x = 227 + sw.toNat * 4 + d.val * 1024 + a.val * 32768 + g.val * 33554432 + w.val * 268435456 := ⟨_, rfl⟩
  have he : encodeWord (.vcvtDec d a g w sw) = some (4, x) := by rw [hx]; rfl
  refine decode_word32 he (by omega) (by omega) ?_ rest
  rw [decode32]
  rw [show x / 8 % 64 = 28 by omega]
  change dec1C x = _
  rw [dec1C]
  rw [if_neg (by have := plain_range hwf; omega)]
  rw [if_neg (by rw [show x / 268435456 = w.val by omega]; simp [plain_not_mx hwf])]
  rw [if_pos (by omega)]
  rw [if_neg (by omega)]
  rw [fin32_of (a := d) (by omega), fin32_of (a := a) (by omega), fin8_of (a := g) (by omega), fin16_of (a := w) (by omega), bitAt_of (b := sw) (by omega)]

theorem RoundTrip.vcvtDecMx (d : Fin 32) (a : Fin 32) (c : Fin 32) (g : Fin 8) (w : Fin 16) (sw : Bool) : RoundTrip.Statement (.vcvtDecMx d a c g w sw) := by
  intro hwf _ rest
  have := d.isLt; have := a.isLt; have := c.isLt; have := g.isLt; have := w.isLt; have := sw.toNat_lt; replace hwf : mxWindow w.val = true := hwf
  obtain ⟨x, hx⟩ : ∃ x, x = 227 + sw.toNat * 4 + d.val * 1024 + a.val * 32768 + c.val * 1048576 + g.val * 33554432 + w.val * 268435456 := ⟨_, rfl⟩
  have he : encodeWord (.vcvtDecMx d a c g w sw) = some (4, x) := by rw [hx]; rfl
  refine decode_word32 he (by omega) (by omega) ?_ rest
  rw [decode32]
  rw [show x / 8 % 64 = 28 by omega]
  change dec1C x = _
  rw [dec1C]
  rw [if_neg (by have := mx_range hwf; omega)]
  rw [if_pos (by rw [show x / 268435456 = w.val by omega]; simpa using hwf)]
  rw [if_pos (by omega)]
  rw [fin32_of (a := d) (by omega), fin32_of (a := a) (by omega), fin32_of (a := c) (by omega), fin8_of (a := g) (by omega), fin16_of (a := w) (by omega), bitAt_of (b := sw) (by omega)]

theorem RoundTrip.vcvtEnc (d : Fin 32) (a : Fin 32) (t : Bool) (g : Fin 8) (w : Fin 16) (sw : Bool) : RoundTrip.Statement (.vcvtEnc d a t g w sw) := by
  intro hwf _ rest
  have := d.isLt; have := a.isLt; have := t.toNat_lt; have := g.isLt; have := w.isLt; have := sw.toNat_lt; replace hwf : plainWindow w.val = true := hwf
  obtain ⟨x, hx⟩ : ∃ x, x = 739 + sw.toNat * 4 + d.val * 1024 + a.val * 32768 + t.toNat * 1048576 + g.val * 33554432 + w.val * 268435456 := ⟨_, rfl⟩
  have he : encodeWord (.vcvtEnc d a t g w sw) = some (4, x) := by rw [hx]; rfl
  refine decode_word32 he (by omega) (by omega) ?_ rest
  rw [decode32]
  rw [show x / 8 % 64 = 28 by omega]
  change dec1C x = _
  rw [dec1C]
  rw [if_neg (by have := plain_range hwf; omega)]
  rw [if_neg (by rw [show x / 268435456 = w.val by omega]; simp [plain_not_mx hwf])]
  rw [if_neg (by omega)]
  rw [if_neg (by omega)]
  rw [fin32_of (a := d) (by omega), fin32_of (a := a) (by omega), bitAt_of (b := t) (by omega), fin8_of (a := g) (by omega), fin16_of (a := w) (by omega), bitAt_of (b := sw) (by omega)]

theorem RoundTrip.vcvtEncMx (d : Fin 32) (a : Fin 32) (c : Fin 32) (g : Fin 8) (w : Fin 16) (sw : Bool) : RoundTrip.Statement (.vcvtEncMx d a c g w sw) := by
  intro hwf _ rest
  have := d.isLt; have := a.isLt; have := c.isLt; have := g.isLt; have := w.isLt; have := sw.toNat_lt; replace hwf : mxWindow w.val = true := hwf
  obtain ⟨x, hx⟩ : ∃ x, x = 739 + sw.toNat * 4 + d.val * 1024 + a.val * 32768 + c.val * 1048576 + g.val * 33554432 + w.val * 268435456 := ⟨_, rfl⟩
  have he : encodeWord (.vcvtEncMx d a c g w sw) = some (4, x) := by rw [hx]; rfl
  refine decode_word32 he (by omega) (by omega) ?_ rest
  rw [decode32]
  rw [show x / 8 % 64 = 28 by omega]
  change dec1C x = _
  rw [dec1C]
  rw [if_neg (by have := mx_range hwf; omega)]
  rw [if_pos (by rw [show x / 268435456 = w.val by omega]; simpa using hwf)]
  rw [if_neg (by omega)]
  rw [fin32_of (a := d) (by omega), fin32_of (a := a) (by omega), fin32_of (a := c) (by omega), fin8_of (a := g) (by omega), fin16_of (a := w) (by omega), bitAt_of (b := sw) (by omega)]

theorem RoundTrip.vld (d : Fin 32) (b : Fin 64) (e : Fin 4) (g : Fin 8) (sw : Bool) : RoundTrip.Statement (.vld d b e g sw) := by
  intro _ _ rest
  obtain ⟨x, hx⟩ : ∃ x, x = 235 + sw.toNat * 4 + d.val * 1024 + b.val * 32768 + e.val * 2097152 + g.val * 67108864 := ⟨_, rfl⟩
  have he : encodeWord (.vld d b e g sw) = some (4, x) := by rw [hx]; rfl
  obtain ⟨q0, q1, k0, k1, c0, c1, v0, v1, v2, v3, v4⟩ := fields19 (m0 := 29) (m1 := 0) (by decide) (by decide) rfl hx d.isLt b.isLt e.isLt g.isLt sw.toNat_lt
  refine decode_word32 he q0 q1 ?_ rest
  rw [decode32]; rw [k0]
  change dec1D x = _
  rw [dec1D]; rw [k1]
  change (if _ then _ else _) = _
  rw [if_neg c0]
  rw [if_neg c1]
  rw [fin32_of (a := d) v0, fin64_of (a := b) v1, fin4_of (a := e) v2, fin8_of (a := g) v3, bitAt_of (b := sw) v4]

theorem RoundTrip.vst (d : Fin 32) (b : Fin 64) (e : Fin 4) (g : Fin 8) (sw : Bool) : RoundTrip.Statement (.vst d b e g sw) := by
  intro _ _ rest
  obtain ⟨x, hx⟩ : ∃ x, x = 536871147 + sw.toNat * 4 + d.val * 1024 + b.val * 32768 + e.val * 2097152 + g.val * 67108864 := ⟨_, rfl⟩
  have he : encodeWord (.vst d b e g sw) = some (4, x) := by rw [hx]; rfl
  obtain ⟨q0, q1, k0, k1, c0, c1, v0, v1, v2, v3, v4⟩ := fields19 (m0 := 29) (m1 := 1) (by decide) (by decide) rfl hx d.isLt b.isLt e.isLt g.isLt sw.toNat_lt
  refine decode_word32 he q0 q1 ?_ rest
  rw [decode32]; rw [k0]
  change dec1D x = _
  rw [dec1D]; rw [k1]
  change (if _ then _ else _) = _
  rw [if_neg c0]
  rw [if_neg c1]
  rw [fin32_of (a := d) v0, fin64_of (a := b) v1, fin4_of (a := e) v2, fin8_of (a := g) v3, bitAt_of (b := sw) v4]

theorem RoundTrip.vgather (d : Fin 32) (b : Fin 64) (i : Fin 32) (g : Fin 8) (sw : Bool) : RoundTrip.Statement (.vgather d b i g sw) := by
  intro _ _ rest
  obtain ⟨x, hx⟩ : ∃ x, x = 1073742059 + sw.toNat * 4 + d.val * 1024 + b.val * 32768 + i.val * 2097152 + g.val * 67108864 := ⟨_, rfl⟩
  have he : encodeWord (.vgather d b i g sw) = some (4, x) := by rw [hx]; rfl
  obtain ⟨q0, q1, k0, k1, c0, v0, v1, v2, v3, v4⟩ := fields20 (m0 := 29) (m1 := 2) (by decide) (by decide) rfl hx d.isLt b.isLt i.isLt g.isLt sw.toNat_lt
  refine decode_word32 he q0 q1 ?_ rest
  rw [decode32]; rw [k0]
  change dec1D x = _
  rw [dec1D]; rw [k1]
  change (if _ then _ else _) = _
  rw [if_neg c0]
  rw [fin32_of (a := d) v0, fin64_of (a := b) v1, fin32_of (a := i) v2, fin8_of (a := g) v3, bitAt_of (b := sw) v4]

theorem RoundTrip.vscatter (d : Fin 32) (b : Fin 64) (i : Fin 32) (g : Fin 8) (sw : Bool) : RoundTrip.Statement (.vscatter d b i g sw) := by
  intro _ _ rest
  obtain ⟨x, hx⟩ : ∃ x, x = 1610612971 + sw.toNat * 4 + d.val * 1024 + b.val * 32768 + i.val * 2097152 + g.val * 67108864 := ⟨_, rfl⟩
  have he : encodeWord (.vscatter d b i g sw) = some (4, x) := by rw [hx]; rfl
  obtain ⟨q0, q1, k0, k1, c0, v0, v1, v2, v3, v4⟩ := fields20 (m0 := 29) (m1 := 3) (by decide) (by decide) rfl hx d.isLt b.isLt i.isLt g.isLt sw.toNat_lt
  refine decode_word32 he q0 q1 ?_ rest
  rw [decode32]; rw [k0]
  change dec1D x = _
  rw [dec1D]; rw [k1]
  change (if _ then _ else _) = _
  rw [if_neg c0]
  rw [fin32_of (a := d) v0, fin64_of (a := b) v1, fin32_of (a := i) v2, fin8_of (a := g) v3, bitAt_of (b := sw) v4]

theorem RoundTrip.vshuf (d : Fin 32) (a : Fin 32) (b : Fin 32) (g : Fin 8) (sw : Bool) : RoundTrip.Statement (.vshuf d a b g sw) := by
  intro _ _ rest
  have := d.isLt; have := a.isLt; have := b.isLt; have := g.isLt; have := sw.toNat_lt
  obtain ⟨x, hx⟩ : ∃ x, x = 243 + sw.toNat * 4 + d.val * 1024 + a.val * 32768 + b.val * 1048576 + g.val * 33554432 := ⟨_, rfl⟩
  have he : encodeWord (.vshuf d a b g sw) = some (4, x) := by rw [hx]; rfl
  refine decode_word32 he (by omega) (by omega) ?_ rest
  rw [decode32]
  rw [show x / 8 % 64 = 30 by omega]
  change dec1E x = _
  rw [dec1E]
  rw [show x / 268435456 % 16 = 0 by omega]
  change (if _ then _ else _) = _
  rw [if_neg (by omega)]
  rw [fin32_of (a := d) (by omega), fin32_of (a := a) (by omega), fin32_of (a := b) (by omega), fin8_of (a := g) (by omega), bitAt_of (b := sw) (by omega)]

theorem fieldsVbcast {x d a lo hi g s : Nat}
    (hx : x = 268435699 + s * 4 + d * 1024 + a * 32768 + lo * 1048576 + hi * 512 + g * 33554432)
    (h0 : d < 32) (h1 : a < 32) (h2 : lo < 32) (h3 : hi < 2) (h4 : g < 8) (h5 : s < 2) :
    x < 4294967296 ∧ x % 4 = 3 ∧ x / 8 % 64 = 30 ∧ x / 268435456 % 16 = 1 ∧ x / 1024 % 32 = d ∧ x / 32768 % 32 = a ∧
      x / 1048576 % 32 = lo ∧ x / 512 % 2 = hi ∧ x / 33554432 % 8 = g ∧ x / 4 % 2 = s := by
  refine ⟨?_, ?_, ?_, ?_, ?_, ?_, ?_, ?_, ?_, ?_⟩ <;> omega

theorem RoundTrip.vbcast (d : Fin 32) (a : Fin 32) (lane : Fin 64) (g : Fin 8) (sw : Bool) : RoundTrip.Statement (.vbcast d a lane g sw) := by
  intro _ _ rest
  have := lane.isLt
  obtain ⟨x, hx⟩ : ∃ x, x = 268435699 + sw.toNat * 4 + d.val * 1024 + a.val * 32768 + (lane.val % 32) * 1048576 + (lane.val / 32) * 512 + g.val * 33554432 := ⟨_, rfl⟩
  have he : encodeWord (.vbcast d a lane g sw) = some (4, x) := by rw [hx]; rfl
  obtain ⟨q0, q1, k0, k1, v0, v1, vlo, vhi, v3, v4⟩ := fieldsVbcast hx d.isLt a.isLt (by omega) (by omega) g.isLt sw.toNat_lt
  refine decode_word32 he q0 q1 ?_ rest
  rw [decode32, k0]
  change dec1E x = _
  rw [dec1E, k1]
  change Except.ok _ = _
  rw [fin32_of (a := d) v0, fin32_of (a := a) v1, fin64_of (a := lane) (by rw [vlo, vhi]; omega), fin8_of (a := g) v3, bitAt_of (b := sw) v4]

theorem RoundTrip.vsetvl (d : Fin 64) (a : Fin 64) (sw : Bool) : RoundTrip.Statement (.vsetvl d a sw) := by
  intro _ _ rest
  obtain ⟨x, hx⟩ : ∃ x, x = 251 + sw.toNat * 4 + d.val * 512 + a.val * 32768 := ⟨_, rfl⟩
  have he : encodeWord (.vsetvl d a sw) = some (4, x) := by rw [hx]; rfl
  obtain ⟨q0, q1, k0, k1, c0, v0, v1, v2⟩ := fields2 (m0 := 31) (m1 := 0) (by decide) (by decide) rfl hx d.isLt a.isLt sw.toNat_lt
  refine decode_word32 he q0 q1 ?_ rest
  rw [decode32]; rw [k0]
  change dec1F x = _
  rw [dec1F]; rw [k1]
  change (if _ then _ else _) = _
  rw [if_neg c0]
  rw [fin64_of (a := d) v0, fin64_of (a := a) v1, bitAt_of (b := sw) v2]

theorem RoundTrip.vsplat (d : Fin 32) (a : Fin 64) (sw : Bool) : RoundTrip.Statement (.vsplat d a sw) := by
  intro _ _ rest
  have := d.isLt; have := a.isLt; have := sw.toNat_lt
  obtain ⟨x, hx⟩ : ∃ x, x = 134217979 + sw.toNat * 4 + d.val * 512 + a.val * 32768 := ⟨_, rfl⟩
  have he : encodeWord (.vsplat d a sw) = some (4, x) := by rw [hx]; rfl
  refine decode_word32 he (by omega) (by omega) ?_ rest
  rw [decode32]
  rw [show x / 8 % 64 = 31 by omega]
  change dec1F x = _
  rw [dec1F]
  rw [show x / 134217728 % 32 = 1 by omega]
  change (if _ then _ else _) = _
  rw [if_neg (by omega)]
  rw [if_neg (by omega)]
  rw [fin32_of (a := d) (by omega), fin64_of (a := a) (by omega), bitAt_of (b := sw) (by omega)]

theorem RoundTrip.vextr (d : Fin 64) (a : Fin 32) (b : Fin 64) (sw : Bool) : RoundTrip.Statement (.vextr d a b sw) := by
  intro _ _ rest
  have := d.isLt; have := a.isLt; have := b.isLt; have := sw.toNat_lt
  obtain ⟨x, hx⟩ : ∃ x, x = 268435707 + sw.toNat * 4 + d.val * 512 + a.val * 32768 + b.val * 2097152 := ⟨_, rfl⟩
  have he : encodeWord (.vextr d a b sw) = some (4, x) := by rw [hx]; rfl
  refine decode_word32 he (by omega) (by omega) ?_ rest
  rw [decode32]
  rw [show x / 8 % 64 = 31 by omega]
  change dec1F x = _
  rw [dec1F]
  rw [show x / 134217728 % 32 = 2 by omega]
  change (if _ then _ else _) = _
  rw [if_neg (by omega)]
  rw [fin64_of (a := d) (by omega), fin32_of (a := a) (by omega), fin64_of (a := b) (by omega), bitAt_of (b := sw) (by omega)]

theorem RoundTrip.vredAdd (ty : LaneTy) (d : Fin 32) (a : Fin 32) (g : Fin 8) (sw : Bool) : RoundTrip.Statement (.vredAdd ty d a g sw) := by
  intro _ _ rest
  obtain ⟨x, hx⟩ : ∃ x, x = 259 + sw.toNat * 4 + ty.code * 512 + d.val * 1024 + a.val * 32768 + g.val * 33554432 := ⟨_, rfl⟩
  have he : encodeWord (.vredAdd ty d a g sw) = some (4, x) := by rw [hx]; rfl
  obtain ⟨q0, q1, k0, k1, c0, v0, v1, v2, v3, v4⟩ := fields16 (m0 := 32) (m1 := 0) (by decide) (by decide) rfl hx (laneTy_code_lt ty) d.isLt a.isLt g.isLt sw.toNat_lt
  refine decode_word32 he q0 q1 ?_ rest
  rw [decode32]; rw [k0]
  change dec20 x = _
  rw [dec20]; rw [k1]
  change (if _ then _ else _) = _
  rw [if_neg c0]
  rw [laneTy_of (c := ty) v0, fin32_of (a := d) v1, fin32_of (a := a) v2, fin8_of (a := g) v3, bitAt_of (b := sw) v4]

theorem RoundTrip.vredMin (ty : LaneTy) (d : Fin 32) (a : Fin 32) (g : Fin 8) (sw : Bool) : RoundTrip.Statement (.vredMin ty d a g sw) := by
  intro _ _ rest
  obtain ⟨x, hx⟩ : ∃ x, x = 268435715 + sw.toNat * 4 + ty.code * 512 + d.val * 1024 + a.val * 32768 + g.val * 33554432 := ⟨_, rfl⟩
  have he : encodeWord (.vredMin ty d a g sw) = some (4, x) := by rw [hx]; rfl
  obtain ⟨q0, q1, k0, k1, c0, v0, v1, v2, v3, v4⟩ := fields16 (m0 := 32) (m1 := 1) (by decide) (by decide) rfl hx (laneTy_code_lt ty) d.isLt a.isLt g.isLt sw.toNat_lt
  refine decode_word32 he q0 q1 ?_ rest
  rw [decode32]; rw [k0]
  change dec20 x = _
  rw [dec20]; rw [k1]
  change (if _ then _ else _) = _
  rw [if_neg c0]
  rw [laneTy_of (c := ty) v0, fin32_of (a := d) v1, fin32_of (a := a) v2, fin8_of (a := g) v3, bitAt_of (b := sw) v4]

theorem RoundTrip.vredMax (ty : LaneTy) (d : Fin 32) (a : Fin 32) (g : Fin 8) (sw : Bool) : RoundTrip.Statement (.vredMax ty d a g sw) := by
  intro _ _ rest
  obtain ⟨x, hx⟩ : ∃ x, x = 536871171 + sw.toNat * 4 + ty.code * 512 + d.val * 1024 + a.val * 32768 + g.val * 33554432 := ⟨_, rfl⟩
  have he : encodeWord (.vredMax ty d a g sw) = some (4, x) := by rw [hx]; rfl
  obtain ⟨q0, q1, k0, k1, c0, v0, v1, v2, v3, v4⟩ := fields16 (m0 := 32) (m1 := 2) (by decide) (by decide) rfl hx (laneTy_code_lt ty) d.isLt a.isLt g.isLt sw.toNat_lt
  refine decode_word32 he q0 q1 ?_ rest
  rw [decode32]; rw [k0]
  change dec20 x = _
  rw [dec20]; rw [k1]
  change (if _ then _ else _) = _
  rw [if_neg c0]
  rw [laneTy_of (c := ty) v0, fin32_of (a := d) v1, fin32_of (a := a) v2, fin8_of (a := g) v3, bitAt_of (b := sw) v4]

theorem RoundTrip.vscanAdd (ty : LaneTy) (d : Fin 32) (a : Fin 32) (g : Fin 8) (sw : Bool) : RoundTrip.Statement (.vscanAdd ty d a g sw) := by
  intro _ _ rest
  obtain ⟨x, hx⟩ : ∃ x, x = 1073742083 + sw.toNat * 4 + ty.code * 512 + d.val * 1024 + a.val * 32768 + g.val * 33554432 := ⟨_, rfl⟩
  have he : encodeWord (.vscanAdd ty d a g sw) = some (4, x) := by rw [hx]; rfl
  obtain ⟨q0, q1, k0, k1, c0, v0, v1, v2, v3, v4⟩ := fields16 (m0 := 32) (m1 := 4) (by decide) (by decide) rfl hx (laneTy_code_lt ty) d.isLt a.isLt g.isLt sw.toNat_lt
  refine decode_word32 he q0 q1 ?_ rest
  rw [decode32]; rw [k0]
  change dec20 x = _
  rw [dec20]; rw [k1]
  change (if _ then _ else _) = _
  rw [if_neg c0]
  rw [laneTy_of (c := ty) v0, fin32_of (a := d) v1, fin32_of (a := a) v2, fin8_of (a := g) v3, bitAt_of (b := sw) v4]

theorem RoundTrip.vscanMin (ty : LaneTy) (d : Fin 32) (a : Fin 32) (g : Fin 8) (sw : Bool) : RoundTrip.Statement (.vscanMin ty d a g sw) := by
  intro _ _ rest
  obtain ⟨x, hx⟩ : ∃ x, x = 1342177539 + sw.toNat * 4 + ty.code * 512 + d.val * 1024 + a.val * 32768 + g.val * 33554432 := ⟨_, rfl⟩
  have he : encodeWord (.vscanMin ty d a g sw) = some (4, x) := by rw [hx]; rfl
  obtain ⟨q0, q1, k0, k1, c0, v0, v1, v2, v3, v4⟩ := fields16 (m0 := 32) (m1 := 5) (by decide) (by decide) rfl hx (laneTy_code_lt ty) d.isLt a.isLt g.isLt sw.toNat_lt
  refine decode_word32 he q0 q1 ?_ rest
  rw [decode32]; rw [k0]
  change dec20 x = _
  rw [dec20]; rw [k1]
  change (if _ then _ else _) = _
  rw [if_neg c0]
  rw [laneTy_of (c := ty) v0, fin32_of (a := d) v1, fin32_of (a := a) v2, fin8_of (a := g) v3, bitAt_of (b := sw) v4]

theorem RoundTrip.vscanMax (ty : LaneTy) (d : Fin 32) (a : Fin 32) (g : Fin 8) (sw : Bool) : RoundTrip.Statement (.vscanMax ty d a g sw) := by
  intro _ _ rest
  obtain ⟨x, hx⟩ : ∃ x, x = 1610612995 + sw.toNat * 4 + ty.code * 512 + d.val * 1024 + a.val * 32768 + g.val * 33554432 := ⟨_, rfl⟩
  have he : encodeWord (.vscanMax ty d a g sw) = some (4, x) := by rw [hx]; rfl
  obtain ⟨q0, q1, k0, k1, c0, v0, v1, v2, v3, v4⟩ := fields16 (m0 := 32) (m1 := 6) (by decide) (by decide) rfl hx (laneTy_code_lt ty) d.isLt a.isLt g.isLt sw.toNat_lt
  refine decode_word32 he q0 q1 ?_ rest
  rw [decode32]; rw [k0]
  change dec20 x = _
  rw [dec20]; rw [k1]
  change (if _ then _ else _) = _
  rw [if_neg c0]
  rw [laneTy_of (c := ty) v0, fin32_of (a := d) v1, fin32_of (a := a) v2, fin8_of (a := g) v3, bitAt_of (b := sw) v4]

theorem RoundTrip.vexp2 (d : Fin 32) (a : Fin 32) (g : Fin 8) (sw : Bool) : RoundTrip.Statement (.vexp2 d a g sw) := by
  intro _ _ rest
  obtain ⟨x, hx⟩ : ∃ x, x = 267 + sw.toNat * 4 + d.val * 1024 + a.val * 32768 + g.val * 33554432 := ⟨_, rfl⟩
  have he : encodeWord (.vexp2 d a g sw) = some (4, x) := by rw [hx]; rfl
  obtain ⟨q0, q1, k0, k1, c0, c1, v0, v1, v2, v3⟩ := fields21 (m0 := 33) (m1 := 0) (by decide) (by decide) rfl hx d.isLt a.isLt g.isLt sw.toNat_lt
  refine decode_word32 he q0 q1 ?_ rest
  rw [decode32]; rw [k0]
  change dec21 x = _
  rw [dec21]; rw [k1]
  change (if _ then _ else _) = _
  rw [if_neg c0]
  rw [if_neg c1]
  rw [fin32_of (a := d) v0, fin32_of (a := a) v1, fin8_of (a := g) v2, bitAt_of (b := sw) v3]

theorem RoundTrip.vrcp (d : Fin 32) (a : Fin 32) (g : Fin 8) (sw : Bool) : RoundTrip.Statement (.vrcp d a g sw) := by
  intro _ _ rest
  obtain ⟨x, hx⟩ : ∃ x, x = 268435723 + sw.toNat * 4 + d.val * 1024 + a.val * 32768 + g.val * 33554432 := ⟨_, rfl⟩
  have he : encodeWord (.vrcp d a g sw) = some (4, x) := by rw [hx]; rfl
  obtain ⟨q0, q1, k0, k1, c0, c1, v0, v1, v2, v3⟩ := fields21 (m0 := 33) (m1 := 1) (by decide) (by decide) rfl hx d.isLt a.isLt g.isLt sw.toNat_lt
  refine decode_word32 he q0 q1 ?_ rest
  rw [decode32]; rw [k0]
  change dec21 x = _
  rw [dec21]; rw [k1]
  change (if _ then _ else _) = _
  rw [if_neg c0]
  rw [if_neg c1]
  rw [fin32_of (a := d) v0, fin32_of (a := a) v1, fin8_of (a := g) v2, bitAt_of (b := sw) v3]

theorem RoundTrip.vrsqrt (d : Fin 32) (a : Fin 32) (g : Fin 8) (sw : Bool) : RoundTrip.Statement (.vrsqrt d a g sw) := by
  intro _ _ rest
  obtain ⟨x, hx⟩ : ∃ x, x = 536871179 + sw.toNat * 4 + d.val * 1024 + a.val * 32768 + g.val * 33554432 := ⟨_, rfl⟩
  have he : encodeWord (.vrsqrt d a g sw) = some (4, x) := by rw [hx]; rfl
  obtain ⟨q0, q1, k0, k1, c0, c1, v0, v1, v2, v3⟩ := fields21 (m0 := 33) (m1 := 2) (by decide) (by decide) rfl hx d.isLt a.isLt g.isLt sw.toNat_lt
  refine decode_word32 he q0 q1 ?_ rest
  rw [decode32]; rw [k0]
  change dec21 x = _
  rw [dec21]; rw [k1]
  change (if _ then _ else _) = _
  rw [if_neg c0]
  rw [if_neg c1]
  rw [fin32_of (a := d) v0, fin32_of (a := a) v1, fin8_of (a := g) v2, bitAt_of (b := sw) v3]

theorem RoundTrip.vdot (ty : LaneTy) (d : Fin 32) (a : Fin 32) (b : Fin 32) (g : Fin 8) (u : Bool) (q : Bool) (sw : Bool) : RoundTrip.Statement (.vdot ty d a b g u q sw) := by
  intro hwf _ rest
  have := laneTy_code_lt ty; have := d.isLt; have := a.isLt; have := b.isLt; have := g.isLt; have := u.toNat_lt; have := q.toNat_lt; have := sw.toNat_lt; have hq : ty.code = 1 ∨ (u.toNat = 0 ∧ q.toNat = 0) := vdot_limits hwf
  obtain ⟨x, hx⟩ : ∃ x, x = 275 + sw.toNat * 4 + ty.code * 512 + d.val * 1024 + a.val * 32768 + b.val * 1048576 + g.val * 33554432 + u.toNat * 268435456 + q.toNat * 536870912 := ⟨_, rfl⟩
  have he : encodeWord (.vdot ty d a b g u q sw) = some (4, x) := by rw [hx]; rfl
  refine decode_word32 he (by omega) (by omega) ?_ rest
  rw [decode32]
  rw [show x / 8 % 64 = 34 by omega]
  change dec22 x = _
  rw [dec22]
  rw [if_neg (by omega)]
  rw [if_neg (by omega)]
  rw [laneTy_of (c := ty) (by omega), fin32_of (a := d) (by omega), fin32_of (a := a) (by omega), fin32_of (a := b) (by omega), fin8_of (a := g) (by omega), bitAt_of (b := u) (by omega), bitAt_of (b := q) (by omega), bitAt_of (b := sw) (by omega)]

theorem RoundTrip.vcompress (d : Fin 32) (a : Fin 32) (g : Fin 8) (sw : Bool) : RoundTrip.Statement (.vcompress d a g sw) := by
  intro _ _ rest
  obtain ⟨x, hx⟩ : ∃ x, x = 283 + sw.toNat * 4 + d.val * 1024 + a.val * 32768 + g.val * 33554432 := ⟨_, rfl⟩
  have he : encodeWord (.vcompress d a g sw) = some (4, x) := by rw [hx]; rfl
  obtain ⟨q0, q1, k0, k1, c0, c1, v0, v1, v2, v3⟩ := fields22 (m0 := 35) (m1 := 0) (by decide) (by decide) rfl hx d.isLt a.isLt g.isLt sw.toNat_lt
  refine decode_word32 he q0 q1 ?_ rest
  rw [decode32]; rw [k0]
  change dec23 x = _
  rw [dec23]; rw [k1]
  change (if _ then _ else _) = _
  rw [if_neg c0]
  rw [if_neg c1]
  rw [fin32_of (a := d) v0, fin32_of (a := a) v1, fin8_of (a := g) v2, bitAt_of (b := sw) v3]

theorem RoundTrip.vexpand (d : Fin 32) (a : Fin 32) (g : Fin 8) (sw : Bool) : RoundTrip.Statement (.vexpand d a g sw) := by
  intro _ _ rest
  obtain ⟨x, hx⟩ : ∃ x, x = 268435739 + sw.toNat * 4 + d.val * 1024 + a.val * 32768 + g.val * 33554432 := ⟨_, rfl⟩
  have he : encodeWord (.vexpand d a g sw) = some (4, x) := by rw [hx]; rfl
  obtain ⟨q0, q1, k0, k1, c0, c1, v0, v1, v2, v3⟩ := fields22 (m0 := 35) (m1 := 1) (by decide) (by decide) rfl hx d.isLt a.isLt g.isLt sw.toNat_lt
  refine decode_word32 he q0 q1 ?_ rest
  rw [decode32]; rw [k0]
  change dec23 x = _
  rw [dec23]; rw [k1]
  change (if _ then _ else _) = _
  rw [if_neg c0]
  rw [if_neg c1]
  rw [fin32_of (a := d) v0, fin32_of (a := a) v1, fin8_of (a := g) v2, bitAt_of (b := sw) v3]

theorem RoundTrip.mma (n : Fin 8) (a : Fin 16) (b : Fin 16) (w : Fin 64) (c : Bool) (sw : Bool) : RoundTrip.Statement (.mma n a b w c sw) := by
  intro _ _ rest
  have := n.isLt; have := a.isLt; have := b.isLt; have := w.isLt; have := c.toNat_lt; have := sw.toNat_lt
  obtain ⟨x, hx⟩ : ∃ x, x = 323 + sw.toNat * 4 + n.val * 512 + a.val * 4096 + b.val * 65536 + w.val * 4194304 + c.toNat * 268435456 := ⟨_, rfl⟩
  have he : encodeWord (.mma n a b w c sw) = some (4, x) := by rw [hx]; rfl
  refine decode_word32 he (by omega) (by omega) ?_ rest
  rw [decode32]
  rw [show x / 8 % 64 = 40 by omega]
  change dec28 x = _
  rw [dec28]
  rw [if_neg (by omega)]
  rw [if_neg (by omega)]
  rw [fin8_of (a := n) (by omega), fin16_of (a := a) (by omega), fin16_of (a := b) (by omega), fin64_of (a := w) (by omega), bitAt_of (b := c) (by omega), bitAt_of (b := sw) (by omega)]

theorem RoundTrip.bmm (n : Fin 8) (a : Fin 32) (b : Fin 32) (w : Fin 64) (c : Bool) (sw : Bool) : RoundTrip.Statement (.bmm n a b w c sw) := by
  intro _ _ rest
  have := n.isLt; have := a.isLt; have := b.isLt; have := w.isLt; have := c.toNat_lt; have := sw.toNat_lt
  obtain ⟨x, hx⟩ : ∃ x, x = 331 + sw.toNat * 4 + n.val * 512 + a.val * 4096 + b.val * 131072 + w.val * 4194304 + c.toNat * 268435456 := ⟨_, rfl⟩
  have he : encodeWord (.bmm n a b w c sw) = some (4, x) := by rw [hx]; rfl
  refine decode_word32 he (by omega) (by omega) ?_ rest
  rw [decode32]
  rw [show x / 8 % 64 = 41 by omega]
  change dec29 x = _
  rw [dec29]
  rw [if_pos (by omega)]
  rw [if_neg (by omega)]
  rw [fin8_of (a := n) (by omega), fin32_of (a := a) (by omega), fin32_of (a := b) (by omega), fin64_of (a := w) (by omega), bitAt_of (b := c) (by omega), bitAt_of (b := sw) (by omega)]

theorem RoundTrip.bmmR (n : Fin 8) (a : Fin 32) (b : Fin 32) (w : Fin 64) (c : Bool) (sw : Bool) : RoundTrip.Statement (.bmmR n a b w c sw) := by
  intro _ _ rest
  have := n.isLt; have := a.isLt; have := b.isLt; have := w.isLt; have := c.toNat_lt; have := sw.toNat_lt
  obtain ⟨x, hx⟩ : ∃ x, x = 536871243 + sw.toNat * 4 + n.val * 512 + a.val * 4096 + b.val * 131072 + w.val * 4194304 + c.toNat * 268435456 := ⟨_, rfl⟩
  have he : encodeWord (.bmmR n a b w c sw) = some (4, x) := by rw [hx]; rfl
  refine decode_word32 he (by omega) (by omega) ?_ rest
  rw [decode32]
  rw [show x / 8 % 64 = 41 by omega]
  change dec29 x = _
  rw [dec29]
  rw [if_neg (by omega)]
  rw [if_neg (by omega)]
  rw [fin8_of (a := n) (by omega), fin32_of (a := a) (by omega), fin32_of (a := b) (by omega), fin64_of (a := w) (by omega), bitAt_of (b := c) (by omega), bitAt_of (b := sw) (by omega)]

theorem RoundTrip.qcfg (q : Fin 16) (w : Fin 64) (sw : Bool) : RoundTrip.Statement (.qcfg q w sw) := by
  intro _ _ rest
  obtain ⟨x, hx⟩ : ∃ x, x = 339 + sw.toNat * 4 + q.val * 4096 + w.val * 4194304 := ⟨_, rfl⟩
  have he : encodeWord (.qcfg q w sw) = some (4, x) := by rw [hx]; rfl
  obtain ⟨q0, q1, k0, k1, c0, c1, v0, v1, v2⟩ := fields23 (m0 := 42) (m1 := 0) (by decide) (by decide) rfl hx q.isLt w.isLt sw.toNat_lt
  refine decode_word32 he q0 q1 ?_ rest
  rw [decode32]; rw [k0]
  change dec2A x = _
  rw [dec2A]; rw [k1]
  change (if _ then _ else _) = _
  rw [if_neg c0]
  rw [if_neg c1]
  rw [fin16_of (a := q) v0, fin64_of (a := w) v1, bitAt_of (b := sw) v2]

theorem RoundTrip.qstat (q : Fin 16) (w : Fin 64) (sw : Bool) : RoundTrip.Statement (.qstat q w sw) := by
  intro _ _ rest
  obtain ⟨x, hx⟩ : ∃ x, x = 268435795 + sw.toNat * 4 + q.val * 4096 + w.val * 4194304 := ⟨_, rfl⟩
  have he : encodeWord (.qstat q w sw) = some (4, x) := by rw [hx]; rfl
  obtain ⟨q0, q1, k0, k1, c0, c1, v0, v1, v2⟩ := fields23 (m0 := 42) (m1 := 1) (by decide) (by decide) rfl hx q.isLt w.isLt sw.toNat_lt
  refine decode_word32 he q0 q1 ?_ rest
  rw [decode32]; rw [k0]
  change dec2A x = _
  rw [dec2A]; rw [k1]
  change (if _ then _ else _) = _
  rw [if_neg c0]
  rw [if_neg c1]
  rw [fin16_of (a := q) v0, fin64_of (a := w) v1, bitAt_of (b := sw) v2]

theorem RoundTrip.twait (q : Fin 16) (w : Fin 64) (sw : Bool) : RoundTrip.Statement (.twait q w sw) := by
  intro _ _ rest
  obtain ⟨x, hx⟩ : ∃ x, x = 536871251 + sw.toNat * 4 + q.val * 4096 + w.val * 4194304 := ⟨_, rfl⟩
  have he : encodeWord (.twait q w sw) = some (4, x) := by rw [hx]; rfl
  obtain ⟨q0, q1, k0, k1, c0, c1, v0, v1, v2⟩ := fields23 (m0 := 42) (m1 := 2) (by decide) (by decide) rfl hx q.isLt w.isLt sw.toNat_lt
  refine decode_word32 he q0 q1 ?_ rest
  rw [decode32]; rw [k0]
  change dec2A x = _
  rw [dec2A]; rw [k1]
  change (if _ then _ else _) = _
  rw [if_neg c0]
  rw [if_neg c1]
  rw [fin16_of (a := q) v0, fin64_of (a := w) v1, bitAt_of (b := sw) v2]

theorem RoundTrip.tstate (t : Fin 256) (w : Fin 64) (sw : Bool) : RoundTrip.Statement (.tstate t w sw) := by
  intro _ _ rest
  have := t.isLt; have := w.isLt; have := sw.toNat_lt
  obtain ⟨x, hx⟩ : ∃ x, x = 805306707 + sw.toNat * 4 + t.val * 4096 + w.val * 4194304 := ⟨_, rfl⟩
  have he : encodeWord (.tstate t w sw) = some (4, x) := by rw [hx]; rfl
  refine decode_word32 he (by omega) (by omega) ?_ rest
  rw [decode32]
  rw [show x / 8 % 64 = 42 by omega]
  change dec2A x = _
  rw [dec2A]
  rw [show x / 268435456 % 16 = 3 by omega]
  change (if _ then _ else _) = _
  rw [if_neg (by omega)]
  rw [if_neg (by omega)]
  rw [fin256_of (a := t) (by omega), fin64_of (a := w) (by omega), bitAt_of (b := sw) (by omega)]

theorem RoundTrip.acfg (n : Fin 8) (w : Fin 64) (sw : Bool) : RoundTrip.Statement (.acfg n w sw) := by
  intro _ _ rest
  have := n.isLt; have := w.isLt; have := sw.toNat_lt
  obtain ⟨x, hx⟩ : ∃ x, x = 1073742163 + sw.toNat * 4 + n.val * 512 + w.val * 4194304 := ⟨_, rfl⟩
  have he : encodeWord (.acfg n w sw) = some (4, x) := by rw [hx]; rfl
  refine decode_word32 he (by omega) (by omega) ?_ rest
  rw [decode32]
  rw [show x / 8 % 64 = 42 by omega]
  change dec2A x = _
  rw [dec2A]
  rw [show x / 268435456 % 16 = 4 by omega]
  change (if _ then _ else _) = _
  rw [if_neg (by omega)]
  rw [fin8_of (a := n) (by omega), fin64_of (a := w) (by omega), bitAt_of (b := sw) (by omega)]

theorem RoundTrip.azero (n : Fin 8) (sw : Bool) : RoundTrip.Statement (.azero n sw) := by
  intro _ _ rest
  have := n.isLt; have := sw.toNat_lt
  obtain ⟨x, hx⟩ : ∃ x, x = 1342177619 + sw.toNat * 4 + n.val * 512 := ⟨_, rfl⟩
  have he : encodeWord (.azero n sw) = some (4, x) := by rw [hx]; rfl
  refine decode_word32 he (by omega) (by omega) ?_ rest
  rw [decode32]
  rw [show x / 8 % 64 = 42 by omega]
  change dec2A x = _
  rw [dec2A]
  rw [show x / 268435456 % 16 = 5 by omega]
  change (if _ then _ else _) = _
  rw [if_neg (by omega)]
  rw [fin8_of (a := n) (by omega), bitAt_of (b := sw) (by omega)]

theorem RoundTrip.amov (n : Fin 8) (m : Fin 8) (sw : Bool) : RoundTrip.Statement (.amov n m sw) := by
  intro _ _ rest
  have := n.isLt; have := m.isLt; have := sw.toNat_lt
  obtain ⟨x, hx⟩ : ∃ x, x = 1610613075 + sw.toNat * 4 + n.val * 512 + m.val * 4096 := ⟨_, rfl⟩
  have he : encodeWord (.amov n m sw) = some (4, x) := by rw [hx]; rfl
  refine decode_word32 he (by omega) (by omega) ?_ rest
  rw [decode32]
  rw [show x / 8 % 64 = 42 by omega]
  change dec2A x = _
  rw [dec2A]
  rw [show x / 268435456 % 16 = 6 by omega]
  change (if _ then _ else _) = _
  rw [if_neg (by omega)]
  rw [fin8_of (a := n) (by omega), fin8_of (a := m) (by omega), bitAt_of (b := sw) (by omega)]

theorem RoundTrip.rowsum (n : Fin 8) (a : Fin 16) (w : Fin 64) (o : Bool) (k : Bool) (sw : Bool) : RoundTrip.Statement (.rowsum n a w o k sw) := by
  intro _ _ rest
  have := n.isLt; have := a.isLt; have := w.isLt; have := o.toNat_lt; have := k.toNat_lt; have := sw.toNat_lt
  obtain ⟨x, hx⟩ : ∃ x, x = 347 + sw.toNat * 4 + n.val * 512 + a.val * 4096 + w.val * 4194304 + o.toNat * 268435456 + k.toNat * 536870912 := ⟨_, rfl⟩
  have he : encodeWord (.rowsum n a w o k sw) = some (4, x) := by rw [hx]; rfl
  refine decode_word32 he (by omega) (by omega) ?_ rest
  rw [decode32]
  rw [show x / 8 % 64 = 43 by omega]
  change dec2B x = _
  rw [dec2B]
  rw [if_neg (by omega)]
  rw [if_neg (by omega)]
  rw [fin8_of (a := n) (by omega), fin16_of (a := a) (by omega), fin64_of (a := w) (by omega), bitAt_of (b := o) (by omega), bitAt_of (b := k) (by omega), bitAt_of (b := sw) (by omega)]

theorem RoundTrip.drain (n : Fin 8) (q : Fin 16) (rm : Rm) (t : Bool) (w : Fin 64) (z : Bool) (sw : Bool) : RoundTrip.Statement (.drain n q rm t w z sw) := by
  intro _ _ rest
  obtain ⟨x, hx⟩ : ∃ x, x = 355 + sw.toNat * 4 + n.val * 512 + q.val * 4096 + rm.code * 65536 + t.toNat * 262144 + w.val * 4194304 + z.toNat * 1073741824 := ⟨_, rfl⟩
  have he : encodeWord (.drain n q rm t w z sw) = some (4, x) := by rw [hx]; rfl
  obtain ⟨q0, q1, k0, k1, c0, c1, v0, v1, v2, v3, v4, v5, v6⟩ := fields24 (m0 := 44) (m1 := 0) (by decide) (by decide) rfl hx n.isLt q.isLt (rm_code_lt rm) t.toNat_lt w.isLt z.toNat_lt sw.toNat_lt
  refine decode_word32 he q0 q1 ?_ rest
  rw [decode32]; rw [k0]
  change dec2C x = _
  rw [dec2C]; rw [k1]
  change (if _ then _ else _) = _
  rw [if_neg c0]
  rw [if_neg c1]
  rw [fin8_of (a := n) v0, fin16_of (a := q) v1, rm_of (c := rm) v2, bitAt_of (b := t) v3, fin64_of (a := w) v4, bitAt_of (b := z) v5, bitAt_of (b := sw) v6]

theorem RoundTrip.drainq (n : Fin 8) (q : Fin 16) (w : Fin 64) (z : Bool) (sw : Bool) : RoundTrip.Statement (.drainq n q w z sw) := by
  intro _ _ rest
  have := n.isLt; have := q.isLt; have := w.isLt; have := z.toNat_lt; have := sw.toNat_lt
  obtain ⟨x, hx⟩ : ∃ x, x = 268435811 + sw.toNat * 4 + n.val * 512 + q.val * 4096 + w.val * 4194304 + z.toNat * 1073741824 := ⟨_, rfl⟩
  have he : encodeWord (.drainq n q w z sw) = some (4, x) := by rw [hx]; rfl
  refine decode_word32 he (by omega) (by omega) ?_ rest
  rw [decode32]
  rw [show x / 8 % 64 = 44 by omega]
  change dec2C x = _
  rw [dec2C]
  rw [show x / 268435456 % 4 = 1 by omega]
  change (if _ then _ else _) = _
  rw [if_neg (by omega)]
  rw [if_neg (by omega)]
  rw [fin8_of (a := n) (by omega), fin16_of (a := q) (by omega), fin64_of (a := w) (by omega), bitAt_of (b := z) (by omega), bitAt_of (b := sw) (by omega)]

theorem RoundTrip.drainr (n : Fin 8) (q : Fin 16) (rm : Rm) (t : Bool) (w : Fin 64) (z : Bool) (sw : Bool) : RoundTrip.Statement (.drainr n q rm t w z sw) := by
  intro _ _ rest
  obtain ⟨x, hx⟩ : ∃ x, x = 536871267 + sw.toNat * 4 + n.val * 512 + q.val * 4096 + rm.code * 65536 + t.toNat * 262144 + w.val * 4194304 + z.toNat * 1073741824 := ⟨_, rfl⟩
  have he : encodeWord (.drainr n q rm t w z sw) = some (4, x) := by rw [hx]; rfl
  obtain ⟨q0, q1, k0, k1, c0, c1, v0, v1, v2, v3, v4, v5, v6⟩ := fields24 (m0 := 44) (m1 := 2) (by decide) (by decide) rfl hx n.isLt q.isLt (rm_code_lt rm) t.toNat_lt w.isLt z.toNat_lt sw.toNat_lt
  refine decode_word32 he q0 q1 ?_ rest
  rw [decode32]; rw [k0]
  change dec2C x = _
  rw [dec2C]; rw [k1]
  change (if _ then _ else _) = _
  rw [if_neg c0]
  rw [if_neg c1]
  rw [fin8_of (a := n) v0, fin16_of (a := q) v1, rm_of (c := rm) v2, bitAt_of (b := t) v3, fin64_of (a := w) v4, bitAt_of (b := z) v5, bitAt_of (b := sw) v6]

theorem RoundTrip.spush (n : Fin 8) (j : Fin 16) (w : Fin 64) (sw : Bool) : RoundTrip.Statement (.spush n j w sw) := by
  intro _ _ rest
  obtain ⟨x, hx⟩ : ∃ x, x = 363 + sw.toNat * 4 + n.val * 512 + j.val * 4096 + w.val * 4194304 := ⟨_, rfl⟩
  have he : encodeWord (.spush n j w sw) = some (4, x) := by rw [hx]; rfl
  obtain ⟨q0, q1, k0, k1, c0, v0, v1, v2, v3⟩ := fields25 (m0 := 45) (m1 := 0) (by decide) (by decide) rfl hx n.isLt j.isLt w.isLt sw.toNat_lt
  refine decode_word32 he q0 q1 ?_ rest
  rw [decode32]; rw [k0]
  change dec2D x = _
  rw [dec2D]; rw [k1]
  change (if _ then _ else _) = _
  rw [if_neg c0]
  rw [fin8_of (a := n) v0, fin16_of (a := j) v1, fin64_of (a := w) v2, bitAt_of (b := sw) v3]

theorem RoundTrip.smma (n : Fin 8) (a : Fin 16) (b : Fin 16) (w : Fin 64) (sw : Bool) : RoundTrip.Statement (.smma n a b w sw) := by
  intro _ _ rest
  have := n.isLt; have := a.isLt; have := b.isLt; have := w.isLt; have := sw.toNat_lt
  obtain ⟨x, hx⟩ : ∃ x, x = 268435819 + sw.toNat * 4 + n.val * 512 + a.val * 4096 + b.val * 65536 + w.val * 4194304 := ⟨_, rfl⟩
  have he : encodeWord (.smma n a b w sw) = some (4, x) := by rw [hx]; rfl
  refine decode_word32 he (by omega) (by omega) ?_ rest
  rw [decode32]
  rw [show x / 8 % 64 = 45 by omega]
  change dec2D x = _
  rw [dec2D]
  rw [show x / 268435456 % 16 = 1 by omega]
  change (if _ then _ else _) = _
  rw [if_neg (by omega)]
  rw [fin8_of (a := n) (by omega), fin16_of (a := a) (by omega), fin16_of (a := b) (by omega), fin64_of (a := w) (by omega), bitAt_of (b := sw) (by omega)]

theorem RoundTrip.speg (n : Fin 8) (j : Fin 16) (w : Fin 64) (sw : Bool) : RoundTrip.Statement (.speg n j w sw) := by
  intro _ _ rest
  obtain ⟨x, hx⟩ : ∃ x, x = 536871275 + sw.toNat * 4 + n.val * 512 + j.val * 4096 + w.val * 4194304 := ⟨_, rfl⟩
  have he : encodeWord (.speg n j w sw) = some (4, x) := by rw [hx]; rfl
  obtain ⟨q0, q1, k0, k1, c0, v0, v1, v2, v3⟩ := fields25 (m0 := 45) (m1 := 2) (by decide) (by decide) rfl hx n.isLt j.isLt w.isLt sw.toNat_lt
  refine decode_word32 he q0 q1 ?_ rest
  rw [decode32]; rw [k0]
  change dec2D x = _
  rw [dec2D]; rw [k1]
  change (if _ then _ else _) = _
  rw [if_neg c0]
  rw [fin8_of (a := n) v0, fin16_of (a := j) v1, fin64_of (a := w) v2, bitAt_of (b := sw) v3]

theorem RoundTrip.smerge (n : Fin 8) (src : MergeSrc) (sw : Bool) : RoundTrip.Statement (.smerge n src sw) := by
  intro _ _ rest
  have := n.isLt; have := mergeSrc_bits_fields src; have := sw.toNat_lt
  obtain ⟨x, hx⟩ : ∃ x, x = 805306731 + sw.toNat * 4 + n.val * 512 + src.bits := ⟨_, rfl⟩
  have he : encodeWord (.smerge n src sw) = some (4, x) := by rw [hx]; rfl
  refine decode_word32 he (by omega) (by omega) ?_ rest
  rw [decode32]
  rw [show x / 8 % 64 = 45 by omega]
  change dec2D x = _
  rw [dec2D]
  rw [show x / 268435456 % 16 = 3 by omega]
  change (if _ then _ else _) = _
  rw [if_neg (by omega)]
  rw [if_neg (by rw [mergeSrc_unused (m := src) (by omega)]; decide)]
  rw [fin8_of (a := n) (by omega), mergeSrc_of (m := src) (by omega), bitAt_of (b := sw) (by omega)]

theorem RoundTrip.sread (n : Fin 8) (q : Fin 16) (sw : Bool) : RoundTrip.Statement (.sread n q sw) := by
  intro _ _ rest
  have := n.isLt; have := q.isLt; have := sw.toNat_lt
  obtain ⟨x, hx⟩ : ∃ x, x = 1073742187 + sw.toNat * 4 + n.val * 512 + q.val * 4096 := ⟨_, rfl⟩
  have he : encodeWord (.sread n q sw) = some (4, x) := by rw [hx]; rfl
  refine decode_word32 he (by omega) (by omega) ?_ rest
  rw [decode32]
  rw [show x / 8 % 64 = 45 by omega]
  change dec2D x = _
  rw [dec2D]
  rw [show x / 268435456 % 16 = 4 by omega]
  change (if _ then _ else _) = _
  rw [if_neg (by omega)]
  rw [fin8_of (a := n) (by omega), fin16_of (a := q) (by omega), bitAt_of (b := sw) (by omega)]

theorem RoundTrip.smaxr (n : Fin 8) (v : Fin 32) (sw : Bool) : RoundTrip.Statement (.smaxr n v sw) := by
  intro _ _ rest
  obtain ⟨x, hx⟩ : ∃ x, x = 371 + sw.toNat * 4 + n.val * 512 + v.val * 4194304 := ⟨_, rfl⟩
  have he : encodeWord (.smaxr n v sw) = some (4, x) := by rw [hx]; rfl
  obtain ⟨q0, q1, k0, k1, c0, c1, v0, v1, v2⟩ := fields26 (m0 := 46) (m1 := 0) (by decide) (by decide) rfl hx n.isLt v.isLt sw.toNat_lt
  refine decode_word32 he q0 q1 ?_ rest
  rw [decode32]; rw [k0]
  change dec2E x = _
  rw [dec2E]; rw [k1]
  change (if _ then _ else _) = _
  rw [if_neg c0]
  rw [if_neg c1]
  rw [fin8_of (a := n) v0, fin32_of (a := v) v1, bitAt_of (b := sw) v2]

theorem RoundTrip.expt (n : Fin 8) (v : Fin 32) (sw : Bool) : RoundTrip.Statement (.expt n v sw) := by
  intro _ _ rest
  obtain ⟨x, hx⟩ : ∃ x, x = 268435827 + sw.toNat * 4 + n.val * 512 + v.val * 4194304 := ⟨_, rfl⟩
  have he : encodeWord (.expt n v sw) = some (4, x) := by rw [hx]; rfl
  obtain ⟨q0, q1, k0, k1, c0, c1, v0, v1, v2⟩ := fields26 (m0 := 46) (m1 := 1) (by decide) (by decide) rfl hx n.isLt v.isLt sw.toNat_lt
  refine decode_word32 he q0 q1 ?_ rest
  rw [decode32]; rw [k0]
  change dec2E x = _
  rw [dec2E]; rw [k1]
  change (if _ then _ else _) = _
  rw [if_neg c0]
  rw [if_neg c1]
  rw [fin8_of (a := n) v0, fin32_of (a := v) v1, bitAt_of (b := sw) v2]

theorem RoundTrip.rescale (n : Fin 8) (l : Bool) (v : Fin 32) (sw : Bool) : RoundTrip.Statement (.rescale n l v sw) := by
  intro _ _ rest
  have := n.isLt; have := l.toNat_lt; have := v.isLt; have := sw.toNat_lt
  obtain ⟨x, hx⟩ : ∃ x, x = 536871283 + sw.toNat * 4 + n.val * 512 + l.toNat * 4096 + v.val * 4194304 := ⟨_, rfl⟩
  have he : encodeWord (.rescale n l v sw) = some (4, x) := by rw [hx]; rfl
  refine decode_word32 he (by omega) (by omega) ?_ rest
  rw [decode32]
  rw [show x / 8 % 64 = 46 by omega]
  change dec2E x = _
  rw [dec2E]
  rw [show x / 268435456 % 16 = 2 by omega]
  change (if _ then _ else _) = _
  rw [if_neg (by omega)]
  rw [if_neg (by omega)]
  rw [fin8_of (a := n) (by omega), bitAt_of (b := l) (by omega), fin32_of (a := v) (by omega), bitAt_of (b := sw) (by omega)]

theorem RoundTrip.rowdiv (n : Fin 8) (v : Fin 32) (sw : Bool) : RoundTrip.Statement (.rowdiv n v sw) := by
  intro _ _ rest
  obtain ⟨x, hx⟩ : ∃ x, x = 805306739 + sw.toNat * 4 + n.val * 512 + v.val * 4194304 := ⟨_, rfl⟩
  have he : encodeWord (.rowdiv n v sw) = some (4, x) := by rw [hx]; rfl
  obtain ⟨q0, q1, k0, k1, c0, c1, v0, v1, v2⟩ := fields26 (m0 := 46) (m1 := 3) (by decide) (by decide) rfl hx n.isLt v.isLt sw.toNat_lt
  refine decode_word32 he q0 q1 ?_ rest
  rw [decode32]; rw [k0]
  change dec2E x = _
  rw [dec2E]; rw [k1]
  change (if _ then _ else _) = _
  rw [if_neg c0]
  rw [if_neg c1]
  rw [fin8_of (a := n) v0, fin32_of (a := v) v1, bitAt_of (b := sw) v2]

theorem RoundTrip.lspmm (n : Fin 8) (k : Fin 16) (b : Fin 16) (w : Fin 64) (sw : Bool) : RoundTrip.Statement (.lspmm n k b w sw) := by
  intro _ _ rest
  have := n.isLt; have := k.isLt; have := b.isLt; have := w.isLt; have := sw.toNat_lt
  obtain ⟨x, hx⟩ : ∃ x, x = 379 + sw.toNat * 4 + n.val * 512 + k.val * 4096 + b.val * 65536 + w.val * 4194304 := ⟨_, rfl⟩
  have he : encodeWord (.lspmm n k b w sw) = some (4, x) := by rw [hx]; rfl
  refine decode_word32 he (by omega) (by omega) ?_ rest
  rw [decode32]
  rw [show x / 8 % 64 = 47 by omega]
  change dec2F x = _
  rw [dec2F]
  rw [if_neg (by omega)]
  rw [if_neg (by omega)]
  rw [fin8_of (a := n) (by omega), fin16_of (a := k) (by omega), fin16_of (a := b) (by omega), fin64_of (a := w) (by omega), bitAt_of (b := sw) (by omega)]

theorem RoundTrip.send (h : Fin 64) (b : Fin 64) (sw : Bool) : RoundTrip.Statement (.send h b sw) := by
  intro _ _ rest
  obtain ⟨x, hx⟩ : ∃ x, x = 419 + sw.toNat * 4 + h.val * 512 + b.val * 32768 := ⟨_, rfl⟩
  have he : encodeWord (.send h b sw) = some (4, x) := by rw [hx]; rfl
  obtain ⟨q0, q1, k0, k1, c0, v0, v1, v2⟩ := fields12 (m0 := 52) (m1 := 0) (by decide) (by decide) rfl hx h.isLt b.isLt sw.toNat_lt
  refine decode_word32 he q0 q1 ?_ rest
  rw [decode32]; rw [k0]
  change dec34 x = _
  rw [dec34]; rw [k1]
  change (if _ then _ else _) = _
  rw [if_neg c0]
  rw [fin64_of (a := h) v0, fin64_of (a := b) v1, bitAt_of (b := sw) v2]

theorem RoundTrip.hret (sw : Bool) : RoundTrip.Statement (.hret sw) := by
  intro _ _ rest
  obtain ⟨x, hx⟩ : ∃ x, x = 2097571 + sw.toNat * 4 := ⟨_, rfl⟩
  have he : encodeWord (.hret sw) = some (4, x) := by rw [hx]; rfl
  obtain ⟨q0, q1, k0, k1, c0, c1, v0⟩ := fields27 (m0 := 52) (m1 := 1) (by decide) (by decide) rfl hx sw.toNat_lt
  refine decode_word32 he q0 q1 ?_ rest
  rw [decode32]; rw [k0]
  change dec34 x = _
  rw [dec34]; rw [k1]
  change (if _ then _ else _) = _
  rw [if_neg c0]
  rw [if_neg c1]
  rw [bitAt_of (b := sw) v0]

theorem RoundTrip.mbox (d : Fin 64) (o : Fin 64) (sw : Bool) : RoundTrip.Statement (.mbox d o sw) := by
  intro _ _ rest
  obtain ⟨x, hx⟩ : ∃ x, x = 4194723 + sw.toNat * 4 + d.val * 512 + o.val * 32768 := ⟨_, rfl⟩
  have he : encodeWord (.mbox d o sw) = some (4, x) := by rw [hx]; rfl
  obtain ⟨q0, q1, k0, k1, c0, v0, v1, v2⟩ := fields12 (m0 := 52) (m1 := 2) (by decide) (by decide) rfl hx d.isLt o.isLt sw.toNat_lt
  refine decode_word32 he q0 q1 ?_ rest
  rw [decode32]; rw [k0]
  change dec34 x = _
  rw [dec34]; rw [k1]
  change (if _ then _ else _) = _
  rw [if_neg c0]
  rw [fin64_of (a := d) v0, fin64_of (a := o) v1, bitAt_of (b := sw) v2]

theorem RoundTrip.bar (d : Fin 64) (v : Fin 64) (i : Fin 16) (scope : Scope) (red : Red) (sw : Bool) : RoundTrip.Statement (.bar d v i scope red sw) := by
  intro hwf _ rest
  have := d.isLt; have := v.isLt; have := i.isLt; have := scope_code_lt scope; have := red_code_lt red; have := sw.toNat_lt; have hsc := barScope_code hwf
  obtain ⟨x, hx⟩ : ∃ x, x = 427 + sw.toNat * 4 + d.val * 512 + v.val * 32768 + i.val * 8388608 + scope.code * 134217728 + red.code * 1073741824 := ⟨_, rfl⟩
  have he : encodeWord (.bar d v i scope red sw) = some (4, x) := by rw [hx]; rfl
  refine decode_word32 he (by omega) (by omega) ?_ rest
  rw [decode32]
  rw [show x / 8 % 64 = 53 by omega]
  change dec35 x = _
  rw [dec35]
  rw [show x / 2097152 % 4 = 0 by omega]
  change (if _ then _ else _) = _
  rw [if_neg (by omega)]
  rw [fin64_of (a := d) (by omega), fin64_of (a := v) (by omega), fin16_of (a := i) (by omega), scope_of (c := scope) (by omega), red_of (c := red) (by omega), bitAt_of (b := sw) (by omega)]

theorem RoundTrip.barw (d : Fin 64) (v : Fin 64) (i : Fin 16) (scope : Scope) (red : Red) (sw : Bool) : RoundTrip.Statement (.barw d v i scope red sw) := by
  intro hwf _ rest
  have := d.isLt; have := v.isLt; have := i.isLt; have := scope_code_lt scope; have := red_code_lt red; have := sw.toNat_lt; have hsc := barScope_code hwf
  obtain ⟨x, hx⟩ : ∃ x, x = 2097579 + sw.toNat * 4 + d.val * 512 + v.val * 32768 + i.val * 8388608 + scope.code * 134217728 + red.code * 1073741824 := ⟨_, rfl⟩
  have he : encodeWord (.barw d v i scope red sw) = some (4, x) := by rw [hx]; rfl
  refine decode_word32 he (by omega) (by omega) ?_ rest
  rw [decode32]
  rw [show x / 8 % 64 = 53 by omega]
  change dec35 x = _
  rw [dec35]
  rw [show x / 2097152 % 4 = 1 by omega]
  change (if _ then _ else _) = _
  rw [if_neg (by omega)]
  rw [fin64_of (a := d) (by omega), fin64_of (a := v) (by omega), fin16_of (a := i) (by omega), scope_of (c := scope) (by omega), red_of (c := red) (by omega), bitAt_of (b := sw) (by omega)]

theorem RoundTrip.sstep (d : Fin 64) (v : Fin 64) (i : Fin 16) (scope : Scope) (red : Red) (sw : Bool) : RoundTrip.Statement (.sstep d v i scope red sw) := by
  intro hwf _ rest
  have := d.isLt; have := v.isLt; have := i.isLt; have := scope_code_lt scope; have := red_code_lt red; have := sw.toNat_lt; have hsc := barScope_code hwf
  obtain ⟨x, hx⟩ : ∃ x, x = 4194731 + sw.toNat * 4 + d.val * 512 + v.val * 32768 + i.val * 8388608 + scope.code * 134217728 + red.code * 1073741824 := ⟨_, rfl⟩
  have he : encodeWord (.sstep d v i scope red sw) = some (4, x) := by rw [hx]; rfl
  refine decode_word32 he (by omega) (by omega) ?_ rest
  rw [decode32]
  rw [show x / 8 % 64 = 53 by omega]
  change dec35 x = _
  rw [dec35]
  rw [show x / 2097152 % 4 = 2 by omega]
  change (if _ then _ else _) = _
  rw [if_neg (by omega)]
  rw [fin64_of (a := d) (by omega), fin64_of (a := v) (by omega), fin16_of (a := i) (by omega), scope_of (c := scope) (by omega), red_of (c := red) (by omega), bitAt_of (b := sw) (by omega)]

theorem RoundTrip.dpush (d : Fin 64) (r : Fin 64) (sw : Bool) : RoundTrip.Statement (.dpush d r sw) := by
  intro _ _ rest
  obtain ⟨x, hx⟩ : ∃ x, x = 435 + sw.toNat * 4 + d.val * 512 + r.val * 32768 := ⟨_, rfl⟩
  have he : encodeWord (.dpush d r sw) = some (4, x) := by rw [hx]; rfl
  obtain ⟨q0, q1, k0, k1, c0, v0, v1, v2⟩ := fields12 (m0 := 54) (m1 := 0) (by decide) (by decide) rfl hx d.isLt r.isLt sw.toNat_lt
  refine decode_word32 he q0 q1 ?_ rest
  rw [decode32]; rw [k0]
  change dec36 x = _
  rw [dec36]; rw [k1]
  change (if _ then _ else _) = _
  rw [if_neg c0]
  rw [fin64_of (a := d) v0, fin64_of (a := r) v1, bitAt_of (b := sw) v2]

theorem RoundTrip.dpop (d : Fin 64) (sw : Bool) : RoundTrip.Statement (.dpop d sw) := by
  intro _ _ rest
  obtain ⟨x, hx⟩ : ∃ x, x = 2097587 + sw.toNat * 4 + d.val * 512 := ⟨_, rfl⟩
  have he : encodeWord (.dpop d sw) = some (4, x) := by rw [hx]; rfl
  obtain ⟨q0, q1, k0, k1, c0, c1, v0, v1⟩ := fields13 (m0 := 54) (m1 := 1) (by decide) (by decide) rfl hx d.isLt sw.toNat_lt
  refine decode_word32 he q0 q1 ?_ rest
  rw [decode32]; rw [k0]
  change dec36 x = _
  rw [dec36]; rw [k1]
  change (if _ then _ else _) = _
  rw [if_neg c0]
  rw [if_neg c1]
  rw [fin64_of (a := d) v0, bitAt_of (b := sw) v1]

theorem RoundTrip.dsplit (d : Fin 64) (sw : Bool) : RoundTrip.Statement (.dsplit d sw) := by
  intro _ _ rest
  obtain ⟨x, hx⟩ : ∃ x, x = 4194739 + sw.toNat * 4 + d.val * 512 := ⟨_, rfl⟩
  have he : encodeWord (.dsplit d sw) = some (4, x) := by rw [hx]; rfl
  obtain ⟨q0, q1, k0, k1, c0, c1, v0, v1⟩ := fields13 (m0 := 54) (m1 := 2) (by decide) (by decide) rfl hx d.isLt sw.toNat_lt
  refine decode_word32 he q0 q1 ?_ rest
  rw [decode32]; rw [k0]
  change dec36 x = _
  rw [dec36]; rw [k1]
  change (if _ then _ else _) = _
  rw [if_neg c0]
  rw [if_neg c1]
  rw [fin64_of (a := d) v0, bitAt_of (b := sw) v1]

theorem RoundTrip.dsteal (d : Fin 64) (scope : Scope) (sw : Bool) : RoundTrip.Statement (.dsteal d scope sw) := by
  intro hwf _ rest
  have := d.isLt; have := scope_code_lt scope; have := sw.toNat_lt; have hsc := stealScope_code hwf
  obtain ⟨x, hx⟩ : ∃ x, x = 6291891 + sw.toNat * 4 + d.val * 512 + scope.code * 134217728 := ⟨_, rfl⟩
  have he : encodeWord (.dsteal d scope sw) = some (4, x) := by rw [hx]; rfl
  refine decode_word32 he (by omega) (by omega) ?_ rest
  rw [decode32]
  rw [show x / 8 % 64 = 54 by omega]
  change dec36 x = _
  rw [dec36]
  rw [show x / 2097152 % 64 = 3 by omega]
  change (if _ then _ else _) = _
  rw [if_neg (by omega)]
  rw [if_neg (by omega)]
  rw [if_neg (by omega)]
  rw [fin64_of (a := d) (by omega), scope_of (c := scope) (by omega), bitAt_of (b := sw) (by omega)]

theorem RoundTrip.get (b : Fin 64) (sw : Bool) : RoundTrip.Statement (.get b sw) := by
  intro _ _ rest
  obtain ⟨x, hx⟩ : ∃ x, x = 443 + sw.toNat * 4 + b.val * 32768 := ⟨_, rfl⟩
  have he : encodeWord (.get b sw) = some (4, x) := by rw [hx]; rfl
  obtain ⟨q0, q1, k0, k1, c0, c1, v0, v1⟩ := fields28 (m0 := 55) (m1 := 0) (by decide) (by decide) rfl hx b.isLt sw.toNat_lt
  refine decode_word32 he q0 q1 ?_ rest
  rw [decode32]; rw [k0]
  change dec37 x = _
  rw [dec37]; rw [k1]
  change (if _ then _ else _) = _
  rw [if_neg c0]
  rw [if_neg c1]
  rw [fin64_of (a := b) v0, bitAt_of (b := sw) v1]

theorem RoundTrip.put (b : Fin 64) (sw : Bool) : RoundTrip.Statement (.put b sw) := by
  intro _ _ rest
  obtain ⟨x, hx⟩ : ∃ x, x = 2097595 + sw.toNat * 4 + b.val * 32768 := ⟨_, rfl⟩
  have he : encodeWord (.put b sw) = some (4, x) := by rw [hx]; rfl
  obtain ⟨q0, q1, k0, k1, c0, c1, v0, v1⟩ := fields28 (m0 := 55) (m1 := 1) (by decide) (by decide) rfl hx b.isLt sw.toNat_lt
  refine decode_word32 he q0 q1 ?_ rest
  rw [decode32]; rw [k0]
  change dec37 x = _
  rw [dec37]; rw [k1]
  change (if _ then _ else _) = _
  rw [if_neg c0]
  rw [if_neg c1]
  rw [fin64_of (a := b) v0, bitAt_of (b := sw) v1]

theorem RoundTrip.cwait (d : Fin 64) (c : Fin 64) (sw : Bool) : RoundTrip.Statement (.cwait d c sw) := by
  intro _ _ rest
  obtain ⟨x, hx⟩ : ∃ x, x = 4194747 + sw.toNat * 4 + d.val * 512 + c.val * 32768 := ⟨_, rfl⟩
  have he : encodeWord (.cwait d c sw) = some (4, x) := by rw [hx]; rfl
  obtain ⟨q0, q1, k0, k1, c0, v0, v1, v2⟩ := fields12 (m0 := 55) (m1 := 2) (by decide) (by decide) rfl hx d.isLt c.isLt sw.toNat_lt
  refine decode_word32 he q0 q1 ?_ rest
  rw [decode32]; rw [k0]
  change dec37 x = _
  rw [dec37]; rw [k1]
  change (if _ then _ else _) = _
  rw [if_neg c0]
  rw [fin64_of (a := d) v0, fin64_of (a := c) v1, bitAt_of (b := sw) v2]

theorem RoundTrip.copy (p : Fin 64) (c : Fin 64) (sw : Bool) : RoundTrip.Statement (.copy p c sw) := by
  intro _ _ rest
  obtain ⟨x, hx⟩ : ∃ x, x = 451 + sw.toNat * 4 + p.val * 512 + c.val * 32768 := ⟨_, rfl⟩
  have he : encodeWord (.copy p c sw) = some (4, x) := by rw [hx]; rfl
  obtain ⟨q0, q1, k0, k1, c0, v0, v1, v2⟩ := fields12 (m0 := 56) (m1 := 0) (by decide) (by decide) rfl hx p.isLt c.isLt sw.toNat_lt
  refine decode_word32 he q0 q1 ?_ rest
  rw [decode32]; rw [k0]
  change dec38 x = _
  rw [dec38]; rw [k1]
  change (if _ then _ else _) = _
  rw [if_neg c0]
  rw [fin64_of (a := p) v0, fin64_of (a := c) v1, bitAt_of (b := sw) v2]

theorem RoundTrip.cred (b : Fin 64) (scope : Scope) (ord : CredOrd) (sw : Bool) : RoundTrip.Statement (.cred b scope ord sw) := by
  intro hwf _ rest
  have := b.isLt; have := scope_code_lt scope; have := credOrd_code_lt ord; have := sw.toNat_lt; have hsc := barScope_code hwf
  obtain ⟨x, hx⟩ : ∃ x, x = 2097603 + sw.toNat * 4 + b.val * 32768 + scope.code * 134217728 + ord.code * 1073741824 := ⟨_, rfl⟩
  have he : encodeWord (.cred b scope ord sw) = some (4, x) := by rw [hx]; rfl
  refine decode_word32 he (by omega) (by omega) ?_ rest
  rw [decode32]
  rw [show x / 8 % 64 = 56 by omega]
  change dec38 x = _
  rw [dec38]
  rw [show x / 2097152 % 64 = 1 by omega]
  change (if _ then _ else _) = _
  rw [if_neg (by omega)]
  rw [if_neg (by omega)]
  rw [if_neg (by omega)]
  rw [fin64_of (a := b) (by omega), scope_of (c := scope) (by omega), credOrd_of (c := ord) (by omega), bitAt_of (b := sw) (by omega)]

theorem RoundTrip.lld (p : Fin 64) (l : Fin 64) (sw : Bool) : RoundTrip.Statement (.lld p l sw) := by
  intro _ _ rest
  obtain ⟨x, hx⟩ : ∃ x, x = 459 + sw.toNat * 4 + p.val * 512 + l.val * 32768 := ⟨_, rfl⟩
  have he : encodeWord (.lld p l sw) = some (4, x) := by rw [hx]; rfl
  obtain ⟨q0, q1, k0, k1, c0, v0, v1, v2⟩ := fields12 (m0 := 57) (m1 := 0) (by decide) (by decide) rfl hx p.isLt l.isLt sw.toNat_lt
  refine decode_word32 he q0 q1 ?_ rest
  rw [decode32]; rw [k0]
  change dec39 x = _
  rw [dec39]; rw [k1]
  change (if _ then _ else _) = _
  rw [if_neg c0]
  rw [fin64_of (a := p) v0, fin64_of (a := l) v1, bitAt_of (b := sw) v2]

theorem RoundTrip.lst (p : Fin 64) (l : Fin 64) (sw : Bool) : RoundTrip.Statement (.lst p l sw) := by
  intro _ _ rest
  obtain ⟨x, hx⟩ : ∃ x, x = 2097611 + sw.toNat * 4 + p.val * 512 + l.val * 32768 := ⟨_, rfl⟩
  have he : encodeWord (.lst p l sw) = some (4, x) := by rw [hx]; rfl
  obtain ⟨q0, q1, k0, k1, c0, v0, v1, v2⟩ := fields12 (m0 := 57) (m1 := 1) (by decide) (by decide) rfl hx p.isLt l.isLt sw.toNat_lt
  refine decode_word32 he q0 q1 ?_ rest
  rw [decode32]; rw [k0]
  change dec39 x = _
  rw [dec39]; rw [k1]
  change (if _ then _ else _) = _
  rw [if_neg c0]
  rw [fin64_of (a := p) v0, fin64_of (a := l) v1, bitAt_of (b := sw) v2]

theorem RoundTrip.ladd (p : Fin 64) (l : Fin 64) (sw : Bool) : RoundTrip.Statement (.ladd p l sw) := by
  intro _ _ rest
  obtain ⟨x, hx⟩ : ∃ x, x = 4194763 + sw.toNat * 4 + p.val * 512 + l.val * 32768 := ⟨_, rfl⟩
  have he : encodeWord (.ladd p l sw) = some (4, x) := by rw [hx]; rfl
  obtain ⟨q0, q1, k0, k1, c0, v0, v1, v2⟩ := fields12 (m0 := 57) (m1 := 2) (by decide) (by decide) rfl hx p.isLt l.isLt sw.toNat_lt
  refine decode_word32 he q0 q1 ?_ rest
  rw [decode32]; rw [k0]
  change dec39 x = _
  rw [dec39]; rw [k1]
  change (if _ then _ else _) = _
  rw [if_neg c0]
  rw [fin64_of (a := p) v0, fin64_of (a := l) v1, bitAt_of (b := sw) v2]

theorem RoundTrip.lscan (p : Fin 64) (l : Fin 64) (sw : Bool) : RoundTrip.Statement (.lscan p l sw) := by
  intro _ _ rest
  obtain ⟨x, hx⟩ : ∃ x, x = 6291915 + sw.toNat * 4 + p.val * 512 + l.val * 32768 := ⟨_, rfl⟩
  have he : encodeWord (.lscan p l sw) = some (4, x) := by rw [hx]; rfl
  obtain ⟨q0, q1, k0, k1, c0, v0, v1, v2⟩ := fields12 (m0 := 57) (m1 := 3) (by decide) (by decide) rfl hx p.isLt l.isLt sw.toNat_lt
  refine decode_word32 he q0 q1 ?_ rest
  rw [decode32]; rw [k0]
  change dec39 x = _
  rw [dec39]; rw [k1]
  change (if _ then _ else _) = _
  rw [if_neg c0]
  rw [fin64_of (a := p) v0, fin64_of (a := l) v1, bitAt_of (b := sw) v2]

theorem RoundTrip.lcount (d : Fin 64) (l : Fin 64) (sw : Bool) : RoundTrip.Statement (.lcount d l sw) := by
  intro _ _ rest
  obtain ⟨x, hx⟩ : ∃ x, x = 8389067 + sw.toNat * 4 + d.val * 512 + l.val * 32768 := ⟨_, rfl⟩
  have he : encodeWord (.lcount d l sw) = some (4, x) := by rw [hx]; rfl
  obtain ⟨q0, q1, k0, k1, c0, v0, v1, v2⟩ := fields12 (m0 := 57) (m1 := 4) (by decide) (by decide) rfl hx d.isLt l.isLt sw.toNat_lt
  refine decode_word32 he q0 q1 ?_ rest
  rw [decode32]; rw [k0]
  change dec39 x = _
  rw [dec39]; rw [k1]
  change (if _ then _ else _) = _
  rw [if_neg c0]
  rw [fin64_of (a := d) v0, fin64_of (a := l) v1, bitAt_of (b := sw) v2]

theorem RoundTrip.ldense (b : Fin 64) (l : Fin 64) (sw : Bool) : RoundTrip.Statement (.ldense b l sw) := by
  intro _ _ rest
  obtain ⟨x, hx⟩ : ∃ x, x = 10486219 + sw.toNat * 4 + b.val * 512 + l.val * 32768 := ⟨_, rfl⟩
  have he : encodeWord (.ldense b l sw) = some (4, x) := by rw [hx]; rfl
  obtain ⟨q0, q1, k0, k1, c0, v0, v1, v2⟩ := fields12 (m0 := 57) (m1 := 5) (by decide) (by decide) rfl hx b.isLt l.isLt sw.toNat_lt
  refine decode_word32 he q0 q1 ?_ rest
  rw [decode32]; rw [k0]
  change dec39 x = _
  rw [dec39]; rw [k1]
  change (if _ then _ else _) = _
  rw [if_neg c0]
  rw [fin64_of (a := b) v0, fin64_of (a := l) v1, bitAt_of (b := sw) v2]

theorem RoundTrip.lgrow (n : Fin 64) (l : Fin 64) (sw : Bool) : RoundTrip.Statement (.lgrow n l sw) := by
  intro _ _ rest
  obtain ⟨x, hx⟩ : ∃ x, x = 12583371 + sw.toNat * 4 + n.val * 512 + l.val * 32768 := ⟨_, rfl⟩
  have he : encodeWord (.lgrow n l sw) = some (4, x) := by rw [hx]; rfl
  obtain ⟨q0, q1, k0, k1, c0, v0, v1, v2⟩ := fields12 (m0 := 57) (m1 := 6) (by decide) (by decide) rfl hx n.isLt l.isLt sw.toNat_lt
  refine decode_word32 he q0 q1 ?_ rest
  rw [decode32]; rw [k0]
  change dec39 x = _
  rw [dec39]; rw [k1]
  change (if _ then _ else _) = _
  rw [if_neg c0]
  rw [fin64_of (a := n) v0, fin64_of (a := l) v1, bitAt_of (b := sw) v2]

theorem RoundTrip.latticeEvent (desc : Nat) (op : LatOp) : RoundTrip.Statement (.latticeEvent desc op) :=
  fun _ he => absurd he Bool.false_ne_true

theorem RoundTrip.treq (d : Fin 64) (r : Fin 64) (sw : Bool) : RoundTrip.Statement (.treq d r sw) := by
  intro _ _ rest
  obtain ⟨x, hx⟩ : ∃ x, x = 467 + sw.toNat * 4 + d.val * 512 + r.val * 32768 := ⟨_, rfl⟩
  have he : encodeWord (.treq d r sw) = some (4, x) := by rw [hx]; rfl
  obtain ⟨q0, q1, k0, k1, c0, v0, v1, v2⟩ := fields12 (m0 := 58) (m1 := 0) (by decide) (by decide) rfl hx d.isLt r.isLt sw.toNat_lt
  refine decode_word32 he q0 q1 ?_ rest
  rw [decode32]; rw [k0]
  change dec3A x = _
  rw [dec3A]; rw [k1]
  change (if _ then _ else _) = _
  rw [if_neg c0]
  rw [fin64_of (a := d) v0, fin64_of (a := r) v1, bitAt_of (b := sw) v2]

theorem RoundTrip.tret (c : Fin 64) (sw : Bool) : RoundTrip.Statement (.tret c sw) := by
  intro _ _ rest
  obtain ⟨x, hx⟩ : ∃ x, x = 2097619 + sw.toNat * 4 + c.val * 32768 := ⟨_, rfl⟩
  have he : encodeWord (.tret c sw) = some (4, x) := by rw [hx]; rfl
  obtain ⟨q0, q1, k0, k1, c0, c1, v0, v1⟩ := fields28 (m0 := 58) (m1 := 1) (by decide) (by decide) rfl hx c.isLt sw.toNat_lt
  refine decode_word32 he q0 q1 ?_ rest
  rw [decode32]; rw [k0]
  change dec3A x = _
  rw [dec3A]; rw [k1]
  change (if _ then _ else _) = _
  rw [if_neg c0]
  rw [if_neg c1]
  rw [fin64_of (a := c) v0, bitAt_of (b := sw) v1]

theorem RoundTrip.tstat (d : Fin 64) (sw : Bool) : RoundTrip.Statement (.tstat d sw) := by
  intro _ _ rest
  obtain ⟨x, hx⟩ : ∃ x, x = 4194771 + sw.toNat * 4 + d.val * 512 := ⟨_, rfl⟩
  have he : encodeWord (.tstat d sw) = some (4, x) := by rw [hx]; rfl
  obtain ⟨q0, q1, k0, k1, c0, c1, v0, v1⟩ := fields13 (m0 := 58) (m1 := 2) (by decide) (by decide) rfl hx d.isLt sw.toNat_lt
  refine decode_word32 he q0 q1 ?_ rest
  rw [decode32]; rw [k0]
  change dec3A x = _
  rw [dec3A]; rw [k1]
  change (if _ then _ else _) = _
  rw [if_neg c0]
  rw [if_neg c1]
  rw [fin64_of (a := d) v0, bitAt_of (b := sw) v1]

theorem RoundTrip.compose (d : Fin 64) (r : Fin 64) (sw : Bool) : RoundTrip.Statement (.compose d r sw) := by
  intro _ _ rest
  obtain ⟨x, hx⟩ : ∃ x, x = 475 + sw.toNat * 4 + d.val * 512 + r.val * 32768 := ⟨_, rfl⟩
  have he : encodeWord (.compose d r sw) = some (4, x) := by rw [hx]; rfl
  obtain ⟨q0, q1, k0, k1, c0, v0, v1, v2⟩ := fields12 (m0 := 59) (m1 := 0) (by decide) (by decide) rfl hx d.isLt r.isLt sw.toNat_lt
  refine decode_word32 he q0 q1 ?_ rest
  rw [decode32]; rw [k0]
  change dec3B x = _
  rw [dec3B]; rw [k1]
  change (if _ then _ else _) = _
  rw [if_neg c0]
  rw [fin64_of (a := d) v0, fin64_of (a := r) v1, bitAt_of (b := sw) v2]

theorem RoundTrip.decompose (sw : Bool) : RoundTrip.Statement (.decompose sw) := by
  intro _ _ rest
  obtain ⟨x, hx⟩ : ∃ x, x = 2097627 + sw.toNat * 4 := ⟨_, rfl⟩
  have he : encodeWord (.decompose sw) = some (4, x) := by rw [hx]; rfl
  obtain ⟨q0, q1, k0, k1, c0, c1, v0⟩ := fields27 (m0 := 59) (m1 := 1) (by decide) (by decide) rfl hx sw.toNat_lt
  refine decode_word32 he q0 q1 ?_ rest
  rw [decode32]; rw [k0]
  change dec3B x = _
  rw [dec3B]; rw [k1]
  change (if _ then _ else _) = _
  rw [if_neg c0]
  rw [if_neg c1]
  rw [bitAt_of (b := sw) v0]

theorem RoundTrip.gang (d : Fin 64) (r : Fin 64) (sw : Bool) : RoundTrip.Statement (.gang d r sw) := by
  intro _ _ rest
  obtain ⟨x, hx⟩ : ∃ x, x = 4194779 + sw.toNat * 4 + d.val * 512 + r.val * 32768 := ⟨_, rfl⟩
  have he : encodeWord (.gang d r sw) = some (4, x) := by rw [hx]; rfl
  obtain ⟨q0, q1, k0, k1, c0, v0, v1, v2⟩ := fields12 (m0 := 59) (m1 := 2) (by decide) (by decide) rfl hx d.isLt r.isLt sw.toNat_lt
  refine decode_word32 he q0 q1 ?_ rest
  rw [decode32]; rw [k0]
  change dec3B x = _
  rw [dec3B]; rw [k1]
  change (if _ then _ else _) = _
  rw [if_neg c0]
  rw [fin64_of (a := d) v0, fin64_of (a := r) v1, bitAt_of (b := sw) v2]

theorem RoundTrip.join (k : Fin 64) (sw : Bool) : RoundTrip.Statement (.join k sw) := by
  intro _ _ rest
  obtain ⟨x, hx⟩ : ∃ x, x = 6291931 + sw.toNat * 4 + k.val * 32768 := ⟨_, rfl⟩
  have he : encodeWord (.join k sw) = some (4, x) := by rw [hx]; rfl
  obtain ⟨q0, q1, k0, k1, c0, c1, v0, v1⟩ := fields28 (m0 := 59) (m1 := 3) (by decide) (by decide) rfl hx k.isLt sw.toNat_lt
  refine decode_word32 he q0 q1 ?_ rest
  rw [decode32]; rw [k0]
  change dec3B x = _
  rw [dec3B]; rw [k1]
  change (if _ then _ else _) = _
  rw [if_neg c0]
  rw [if_neg c1]
  rw [fin64_of (a := k) v0, bitAt_of (b := sw) v1]

theorem RoundTrip.launch (q : Fin 64) (p : Fin 64) (sw : Bool) : RoundTrip.Statement (.launch q p sw) := by
  intro _ _ rest
  obtain ⟨x, hx⟩ : ∃ x, x = 8389083 + sw.toNat * 4 + q.val * 512 + p.val * 32768 := ⟨_, rfl⟩
  have he : encodeWord (.launch q p sw) = some (4, x) := by rw [hx]; rfl
  obtain ⟨q0, q1, k0, k1, c0, v0, v1, v2⟩ := fields12 (m0 := 59) (m1 := 4) (by decide) (by decide) rfl hx q.isLt p.isLt sw.toNat_lt
  refine decode_word32 he q0 q1 ?_ rest
  rw [decode32]; rw [k0]
  change dec3B x = _
  rw [dec3B]; rw [k1]
  change (if _ then _ else _) = _
  rw [if_neg c0]
  rw [fin64_of (a := q) v0, fin64_of (a := p) v1, bitAt_of (b := sw) v2]

theorem RoundTrip.trap (d : Fin 64) (a : Fin 64) (sw : Bool) : RoundTrip.Statement (.trap d a sw) := by
  intro _ _ rest
  obtain ⟨x, hx⟩ : ∃ x, x = 483 + sw.toNat * 4 + d.val * 512 + a.val * 32768 := ⟨_, rfl⟩
  have he : encodeWord (.trap d a sw) = some (4, x) := by rw [hx]; rfl
  obtain ⟨q0, q1, k0, k1, c0, v0, v1, v2⟩ := fields12 (m0 := 60) (m1 := 0) (by decide) (by decide) rfl hx d.isLt a.isLt sw.toNat_lt
  refine decode_word32 he q0 q1 ?_ rest
  rw [decode32]; rw [k0]
  change dec3C x = _
  rw [dec3C]; rw [k1]
  change (if _ then _ else _) = _
  rw [if_neg c0]
  rw [fin64_of (a := d) v0, fin64_of (a := a) v1, bitAt_of (b := sw) v2]

theorem RoundTrip.eret (v : Fin 64) (h : Fin 64) (sw : Bool) : RoundTrip.Statement (.eret v h sw) := by
  intro _ _ rest
  obtain ⟨x, hx⟩ : ∃ x, x = 2097635 + sw.toNat * 4 + v.val * 512 + h.val * 32768 := ⟨_, rfl⟩
  have he : encodeWord (.eret v h sw) = some (4, x) := by rw [hx]; rfl
  obtain ⟨q0, q1, k0, k1, c0, v0, v1, v2⟩ := fields12 (m0 := 60) (m1 := 1) (by decide) (by decide) rfl hx v.isLt h.isLt sw.toNat_lt
  refine decode_word32 he q0 q1 ?_ rest
  rw [decode32]; rw [k0]
  change dec3C x = _
  rw [dec3C]; rw [k1]
  change (if _ then _ else _) = _
  rw [if_neg c0]
  rw [fin64_of (a := v) v0, fin64_of (a := h) v1, bitAt_of (b := sw) v2]

theorem RoundTrip.srd (d : Fin 64) (srn : Fin 2048) (sw : Bool) : RoundTrip.Statement (.srd d srn sw) := by
  intro hwf _ rest
  have := d.isLt; have := srn.isLt; have := sw.toNat_lt; replace hwf : srnAllocated srn.val = true := hwf
  obtain ⟨x, hx⟩ : ∃ x, x = 4194787 + sw.toNat * 4 + d.val * 512 + (srn.val % 64) * 32768 + (srn.val / 64) * 134217728 := ⟨_, rfl⟩
  have he : encodeWord (.srd d srn sw) = some (4, x) := by rw [hx]; rfl
  refine decode_word32 he (by omega) (by omega) ?_ rest
  rw [decode32]
  rw [show x / 8 % 64 = 60 by omega]
  change dec3C x = _
  rw [dec3C]
  rw [show x / 2097152 % 64 = 2 by omega]
  change (if _ then _ else _) = _
  rw [if_neg (by rw [show x / 32768 % 64 + 64 * (x / 134217728 % 32) = srn.val by omega]; rw [hwf]; decide)]
  rw [fin64_of (a := d) (by omega), fin2048_of (a := srn) (by omega), bitAt_of (b := sw) (by omega)]

theorem RoundTrip.swr (v : Fin 64) (srn : Fin 2048) (sw : Bool) : RoundTrip.Statement (.swr v srn sw) := by
  intro hwf _ rest
  have := v.isLt; have := srn.isLt; have := sw.toNat_lt; replace hwf : srnAllocated srn.val = true := hwf
  obtain ⟨x, hx⟩ : ∃ x, x = 6291939 + sw.toNat * 4 + v.val * 512 + (srn.val % 64) * 32768 + (srn.val / 64) * 134217728 := ⟨_, rfl⟩
  have he : encodeWord (.swr v srn sw) = some (4, x) := by rw [hx]; rfl
  refine decode_word32 he (by omega) (by omega) ?_ rest
  rw [decode32]
  rw [show x / 8 % 64 = 60 by omega]
  change dec3C x = _
  rw [dec3C]
  rw [show x / 2097152 % 64 = 3 by omega]
  change (if _ then _ else _) = _
  rw [if_neg (by rw [show x / 32768 % 64 + 64 * (x / 134217728 % 32) = srn.val by omega]; rw [hwf]; decide)]
  rw [fin64_of (a := v) (by omega), fin2048_of (a := srn) (by omega), bitAt_of (b := sw) (by omega)]

theorem RoundTrip.tlbiPage (a : Fin 64) (b : Fin 64) (sw : Bool) : RoundTrip.Statement (.tlbiPage a b sw) := by
  intro _ _ rest
  have := a.isLt; have := b.isLt; have := sw.toNat_lt
  obtain ⟨x, hx⟩ : ∃ x, x = 491 + sw.toNat * 4 + a.val * 512 + b.val * 32768 := ⟨_, rfl⟩
  have he : encodeWord (.tlbiPage a b sw) = some (4, x) := by rw [hx]; rfl
  refine decode_word32 he (by omega) (by omega) ?_ rest
  rw [decode32]
  rw [show x / 8 % 64 = 61 by omega]
  change dec3D x = _
  rw [dec3D]
  rw [show x / 2097152 % 64 = 0 by omega]
  rw [show x / 1073741824 = 0 by omega]
  change (if _ then _ else _) = _
  rw [if_neg (by omega)]
  rw [fin64_of (a := a) (by omega), fin64_of (a := b) (by omega), bitAt_of (b := sw) (by omega)]

theorem RoundTrip.tlbiAsid (b : Fin 64) (sw : Bool) : RoundTrip.Statement (.tlbiAsid b sw) := by
  intro _ _ rest
  have := b.isLt; have := sw.toNat_lt
  obtain ⟨x, hx⟩ : ∃ x, x = 1073742315 + sw.toNat * 4 + b.val * 32768 := ⟨_, rfl⟩
  have he : encodeWord (.tlbiAsid b sw) = some (4, x) := by rw [hx]; rfl
  refine decode_word32 he (by omega) (by omega) ?_ rest
  rw [decode32]
  rw [show x / 8 % 64 = 61 by omega]
  change dec3D x = _
  rw [dec3D]
  rw [show x / 2097152 % 64 = 0 by omega]
  rw [show x / 1073741824 = 1 by omega]
  change (if _ then _ else _) = _
  rw [if_neg (by omega)]
  rw [if_neg (by omega)]
  rw [fin64_of (a := b) (by omega), bitAt_of (b := sw) (by omega)]

theorem RoundTrip.tlbiGlobal (sw : Bool) : RoundTrip.Statement (.tlbiGlobal sw) := by
  intro _ _ rest
  obtain ⟨x, hx⟩ : ∃ x, x = 2147484139 + sw.toNat * 4 := ⟨_, rfl⟩
  have he : encodeWord (.tlbiGlobal sw) = some (4, x) := by rw [hx]; rfl
  obtain ⟨q0, q1, k0, k1, k2, c0, c1, v0⟩ := fields29 (m0 := 61) (m1 := 0) (m2 := 2) (by decide) (by decide) (by decide) rfl hx sw.toNat_lt
  refine decode_word32 he q0 q1 ?_ rest
  rw [decode32]; rw [k0]
  change dec3D x = _
  rw [dec3D]; rw [k1]; rw [k2]
  change (if _ then _ else _) = _
  rw [if_neg c0]
  rw [if_neg c1]
  rw [bitAt_of (b := sw) v0]

theorem RoundTrip.tlbiPart (sw : Bool) : RoundTrip.Statement (.tlbiPart sw) := by
  intro _ _ rest
  obtain ⟨x, hx⟩ : ∃ x, x = 3221225963 + sw.toNat * 4 := ⟨_, rfl⟩
  have he : encodeWord (.tlbiPart sw) = some (4, x) := by rw [hx]; rfl
  obtain ⟨q0, q1, k0, k1, k2, c0, c1, v0⟩ := fields29 (m0 := 61) (m1 := 0) (m2 := 3) (by decide) (by decide) (by decide) rfl hx sw.toNat_lt
  refine decode_word32 he q0 q1 ?_ rest
  rw [decode32]; rw [k0]
  change dec3D x = _
  rw [dec3D]; rw [k1]; rw [k2]
  change (if _ then _ else _) = _
  rw [if_neg c0]
  rw [if_neg c1]
  rw [bitAt_of (b := sw) v0]

theorem RoundTrip.ifence (sw : Bool) : RoundTrip.Statement (.ifence sw) := by
  intro _ _ rest
  obtain ⟨x, hx⟩ : ∃ x, x = 2097643 + sw.toNat * 4 := ⟨_, rfl⟩
  have he : encodeWord (.ifence sw) = some (4, x) := by rw [hx]; rfl
  obtain ⟨q0, q1, k0, k1, c0, c1, v0⟩ := fields27 (m0 := 61) (m1 := 1) (by decide) (by decide) rfl hx sw.toNat_lt
  refine decode_word32 he q0 q1 ?_ rest
  rw [decode32]; rw [k0]
  change dec3D x = _
  rw [dec3D]; rw [k1]
  change (if _ then _ else _) = _
  rw [if_neg c0]
  rw [if_neg c1]
  rw [bitAt_of (b := sw) v0]

theorem RoundTrip.tblld (b : Fin 64) (sw : Bool) : RoundTrip.Statement (.tblld b sw) := by
  intro _ _ rest
  obtain ⟨x, hx⟩ : ∃ x, x = 4194795 + sw.toNat * 4 + b.val * 32768 := ⟨_, rfl⟩
  have he : encodeWord (.tblld b sw) = some (4, x) := by rw [hx]; rfl
  obtain ⟨q0, q1, k0, k1, c0, c1, v0, v1⟩ := fields28 (m0 := 61) (m1 := 2) (by decide) (by decide) rfl hx b.isLt sw.toNat_lt
  refine decode_word32 he q0 q1 ?_ rest
  rw [decode32]; rw [k0]
  change dec3D x = _
  rw [dec3D]; rw [k1]
  change (if _ then _ else _) = _
  rw [if_neg c0]
  rw [if_neg c1]
  rw [fin64_of (a := b) v0, bitAt_of (b := sw) v1]

theorem RoundTrip.meter (d : Fin 64) (e : Bool) (sw : Bool) : RoundTrip.Statement (.meter d e sw) := by
  intro _ _ rest
  have := d.isLt; have := e.toNat_lt; have := sw.toNat_lt
  obtain ⟨x, hx⟩ : ∃ x, x = 6291947 + sw.toNat * 4 + d.val * 512 + e.toNat * 32768 := ⟨_, rfl⟩
  have he : encodeWord (.meter d e sw) = some (4, x) := by rw [hx]; rfl
  refine decode_word32 he (by omega) (by omega) ?_ rest
  rw [decode32]
  rw [show x / 8 % 64 = 61 by omega]
  change dec3D x = _
  rw [dec3D]
  rw [show x / 2097152 % 64 = 3 by omega]
  change (if _ then _ else _) = _
  rw [if_neg (by omega)]
  rw [if_neg (by omega)]
  rw [fin64_of (a := d) (by omega), bitAt_of (b := e) (by omega), bitAt_of (b := sw) (by omega)]

theorem RoundTrip.cMov (d : Fin 16) (a : Fin 16) (sw : Bool) : RoundTrip.Statement (.cMov d a sw) := by
  intro hwf _ rest
  have := d.isLt; have := a.isLt; have := sw.toNat_lt; replace hwf : ¬ (d.val = 0 ∧ a.val = 0) := of_decide_eq_true hwf
  obtain ⟨x, hx⟩ : ∃ x, x = 0 + sw.toNat * 4 + d.val * 128 + a.val * 2048 := ⟨_, rfl⟩
  have he : encodeWord (.cMov d a sw) = some (2, x) := by rw [hx]; rfl
  refine decode_word16 he (by omega) (by omega) ?_ rest
  rw [decode16]
  rw [show x % 4 = 0 by omega]
  change decQ0 x = _
  rw [decQ0]
  rw [show x / 8 % 16 = 0 by omega]
  change (if _ then _ else _) = _
  rw [if_neg (by omega)]
  rw [if_neg (by omega)]
  rw [fin16_of (a := d) (by omega), fin16_of (a := a) (by omega), bitAt_of (b := sw) (by omega)]

theorem RoundTrip.cAdd (d : Fin 16) (a : Fin 16) (sw : Bool) : RoundTrip.Statement (.cAdd d a sw) := by
  intro _ _ rest
  obtain ⟨x, hx⟩ : ∃ x, x = 8 + sw.toNat * 4 + d.val * 128 + a.val * 2048 := ⟨_, rfl⟩
  have he : encodeWord (.cAdd d a sw) = some (2, x) := by rw [hx]; rfl
  obtain ⟨q0, q1, k0, k1, c0, v0, v1, v2⟩ := fields30 (m1 := 1) (by decide) rfl hx d.isLt a.isLt sw.toNat_lt
  refine decode_word16 he q0 q1 ?_ rest
  rw [decode16]; rw [k0]
  change decQ0 x = _
  rw [decQ0]; rw [k1]
  change (if _ then _ else _) = _
  rw [if_neg c0]
  rw [fin16_of (a := d) v0, fin16_of (a := a) v1, bitAt_of (b := sw) v2]

theorem RoundTrip.cSub (d : Fin 16) (a : Fin 16) (sw : Bool) : RoundTrip.Statement (.cSub d a sw) := by
  intro _ _ rest
  obtain ⟨x, hx⟩ : ∃ x, x = 16 + sw.toNat * 4 + d.val * 128 + a.val * 2048 := ⟨_, rfl⟩
  have he : encodeWord (.cSub d a sw) = some (2, x) := by rw [hx]; rfl
  obtain ⟨q0, q1, k0, k1, c0, v0, v1, v2⟩ := fields30 (m1 := 2) (by decide) rfl hx d.isLt a.isLt sw.toNat_lt
  refine decode_word16 he q0 q1 ?_ rest
  rw [decode16]; rw [k0]
  change decQ0 x = _
  rw [decQ0]; rw [k1]
  change (if _ then _ else _) = _
  rw [if_neg c0]
  rw [fin16_of (a := d) v0, fin16_of (a := a) v1, bitAt_of (b := sw) v2]

theorem RoundTrip.cAnd (d : Fin 16) (a : Fin 16) (sw : Bool) : RoundTrip.Statement (.cAnd d a sw) := by
  intro _ _ rest
  obtain ⟨x, hx⟩ : ∃ x, x = 24 + sw.toNat * 4 + d.val * 128 + a.val * 2048 := ⟨_, rfl⟩
  have he : encodeWord (.cAnd d a sw) = some (2, x) := by rw [hx]; rfl
  obtain ⟨q0, q1, k0, k1, c0, v0, v1, v2⟩ := fields30 (m1 := 3) (by decide) rfl hx d.isLt a.isLt sw.toNat_lt
  refine decode_word16 he q0 q1 ?_ rest
  rw [decode16]; rw [k0]
  change decQ0 x = _
  rw [decQ0]; rw [k1]
  change (if _ then _ else _) = _
  rw [if_neg c0]
  rw [fin16_of (a := d) v0, fin16_of (a := a) v1, bitAt_of (b := sw) v2]

theorem RoundTrip.cOr (d : Fin 16) (a : Fin 16) (sw : Bool) : RoundTrip.Statement (.cOr d a sw) := by
  intro _ _ rest
  obtain ⟨x, hx⟩ : ∃ x, x = 32 + sw.toNat * 4 + d.val * 128 + a.val * 2048 := ⟨_, rfl⟩
  have he : encodeWord (.cOr d a sw) = some (2, x) := by rw [hx]; rfl
  obtain ⟨q0, q1, k0, k1, c0, v0, v1, v2⟩ := fields30 (m1 := 4) (by decide) rfl hx d.isLt a.isLt sw.toNat_lt
  refine decode_word16 he q0 q1 ?_ rest
  rw [decode16]; rw [k0]
  change decQ0 x = _
  rw [decQ0]; rw [k1]
  change (if _ then _ else _) = _
  rw [if_neg c0]
  rw [fin16_of (a := d) v0, fin16_of (a := a) v1, bitAt_of (b := sw) v2]

theorem RoundTrip.cXor (d : Fin 16) (a : Fin 16) (sw : Bool) : RoundTrip.Statement (.cXor d a sw) := by
  intro _ _ rest
  obtain ⟨x, hx⟩ : ∃ x, x = 40 + sw.toNat * 4 + d.val * 128 + a.val * 2048 := ⟨_, rfl⟩
  have he : encodeWord (.cXor d a sw) = some (2, x) := by rw [hx]; rfl
  obtain ⟨q0, q1, k0, k1, c0, v0, v1, v2⟩ := fields30 (m1 := 5) (by decide) rfl hx d.isLt a.isLt sw.toNat_lt
  refine decode_word16 he q0 q1 ?_ rest
  rw [decode16]; rw [k0]
  change decQ0 x = _
  rw [decQ0]; rw [k1]
  change (if _ then _ else _) = _
  rw [if_neg c0]
  rw [fin16_of (a := d) v0, fin16_of (a := a) v1, bitAt_of (b := sw) v2]

theorem RoundTrip.cShl (d : Fin 16) (a : Fin 16) (sw : Bool) : RoundTrip.Statement (.cShl d a sw) := by
  intro _ _ rest
  obtain ⟨x, hx⟩ : ∃ x, x = 48 + sw.toNat * 4 + d.val * 128 + a.val * 2048 := ⟨_, rfl⟩
  have he : encodeWord (.cShl d a sw) = some (2, x) := by rw [hx]; rfl
  obtain ⟨q0, q1, k0, k1, c0, v0, v1, v2⟩ := fields30 (m1 := 6) (by decide) rfl hx d.isLt a.isLt sw.toNat_lt
  refine decode_word16 he q0 q1 ?_ rest
  rw [decode16]; rw [k0]
  change decQ0 x = _
  rw [decQ0]; rw [k1]
  change (if _ then _ else _) = _
  rw [if_neg c0]
  rw [fin16_of (a := d) v0, fin16_of (a := a) v1, bitAt_of (b := sw) v2]

theorem RoundTrip.cShr (d : Fin 16) (a : Fin 16) (sw : Bool) : RoundTrip.Statement (.cShr d a sw) := by
  intro _ _ rest
  obtain ⟨x, hx⟩ : ∃ x, x = 56 + sw.toNat * 4 + d.val * 128 + a.val * 2048 := ⟨_, rfl⟩
  have he : encodeWord (.cShr d a sw) = some (2, x) := by rw [hx]; rfl
  obtain ⟨q0, q1, k0, k1, c0, v0, v1, v2⟩ := fields30 (m1 := 7) (by decide) rfl hx d.isLt a.isLt sw.toNat_lt
  refine decode_word16 he q0 q1 ?_ rest
  rw [decode16]; rw [k0]
  change decQ0 x = _
  rw [decQ0]; rw [k1]
  change (if _ then _ else _) = _
  rw [if_neg c0]
  rw [fin16_of (a := d) v0, fin16_of (a := a) v1, bitAt_of (b := sw) v2]

theorem RoundTrip.cJr (a : Fin 16) (sw : Bool) : RoundTrip.Statement (.cJr a sw) := by
  intro _ _ rest
  obtain ⟨x, hx⟩ : ∃ x, x = 64 + sw.toNat * 4 + a.val * 2048 := ⟨_, rfl⟩
  have he : encodeWord (.cJr a sw) = some (2, x) := by rw [hx]; rfl
  obtain ⟨q0, q1, k0, k1, c0, c1, v0, v1⟩ := fields31 (m1 := 8) (by decide) rfl hx a.isLt sw.toNat_lt
  refine decode_word16 he q0 q1 ?_ rest
  rw [decode16]; rw [k0]
  change decQ0 x = _
  rw [decQ0]; rw [k1]
  change (if _ then _ else _) = _
  rw [if_neg c0]
  rw [if_neg c1]
  rw [fin16_of (a := a) v0, bitAt_of (b := sw) v1]

theorem RoundTrip.cCallr (a : Fin 16) (sw : Bool) : RoundTrip.Statement (.cCallr a sw) := by
  intro _ _ rest
  obtain ⟨x, hx⟩ : ∃ x, x = 72 + sw.toNat * 4 + a.val * 2048 := ⟨_, rfl⟩
  have he : encodeWord (.cCallr a sw) = some (2, x) := by rw [hx]; rfl
  obtain ⟨q0, q1, k0, k1, c0, c1, v0, v1⟩ := fields31 (m1 := 9) (by decide) rfl hx a.isLt sw.toNat_lt
  refine decode_word16 he q0 q1 ?_ rest
  rw [decode16]; rw [k0]
  change decQ0 x = _
  rw [decQ0]; rw [k1]
  change (if _ then _ else _) = _
  rw [if_neg c0]
  rw [if_neg c1]
  rw [fin16_of (a := a) v0, bitAt_of (b := sw) v1]

theorem RoundTrip.cRet (sw : Bool) : RoundTrip.Statement (.cRet sw) := by
  intro _ _ rest
  obtain ⟨x, hx⟩ : ∃ x, x = 80 + sw.toNat * 4 := ⟨_, rfl⟩
  have he : encodeWord (.cRet sw) = some (2, x) := by rw [hx]; rfl
  obtain ⟨q0, q1, k0, k1, c0, v0⟩ := fields32 (m1 := 10) (by decide) rfl hx sw.toNat_lt
  refine decode_word16 he q0 q1 ?_ rest
  rw [decode16]; rw [k0]
  change decQ0 x = _
  rw [decQ0]; rw [k1]
  change (if _ then _ else _) = _
  rw [if_neg c0]
  rw [bitAt_of (b := sw) v0]

theorem RoundTrip.cNop (sw : Bool) : RoundTrip.Statement (.cNop sw) := by
  intro _ _ rest
  obtain ⟨x, hx⟩ : ∃ x, x = 88 + sw.toNat * 4 := ⟨_, rfl⟩
  have he : encodeWord (.cNop sw) = some (2, x) := by rw [hx]; rfl
  obtain ⟨q0, q1, k0, k1, c0, v0⟩ := fields32 (m1 := 11) (by decide) rfl hx sw.toNat_lt
  refine decode_word16 he q0 q1 ?_ rest
  rw [decode16]; rw [k0]
  change decQ0 x = _
  rw [decQ0]; rw [k1]
  change (if _ then _ else _) = _
  rw [if_neg c0]
  rw [bitAt_of (b := sw) v0]

theorem RoundTrip.cAddi (d : Fin 16) (imm : BitVec 5) (sw : Bool) : RoundTrip.Statement (.cAddi d imm sw) := by
  intro _ _ rest
  obtain ⟨x, hx⟩ : ∃ x, x = 1 + sw.toNat * 4 + d.val * 128 + imm.toNat * 2048 := ⟨_, rfl⟩
  have he : encodeWord (.cAddi d imm sw) = some (2, x) := by rw [hx]; rfl
  obtain ⟨q0, q1, k0, k1, v0, v1, v2⟩ := fields33 (m1 := 0) (by decide) rfl hx d.isLt imm.isLt sw.toNat_lt
  refine decode_word16 he q0 q1 ?_ rest
  rw [decode16]; rw [k0]
  change decQ1 x = _
  rw [decQ1]; rw [k1]
  change Except.ok _ = _
  rw [fin16_of (a := d) v0, bits_of (v := imm) v1, bitAt_of (b := sw) v2]

theorem RoundTrip.cLi (d : Fin 16) (imm : BitVec 5) (sw : Bool) : RoundTrip.Statement (.cLi d imm sw) := by
  intro _ _ rest
  obtain ⟨x, hx⟩ : ∃ x, x = 9 + sw.toNat * 4 + d.val * 128 + imm.toNat * 2048 := ⟨_, rfl⟩
  have he : encodeWord (.cLi d imm sw) = some (2, x) := by rw [hx]; rfl
  obtain ⟨q0, q1, k0, k1, v0, v1, v2⟩ := fields33 (m1 := 1) (by decide) rfl hx d.isLt imm.isLt sw.toNat_lt
  refine decode_word16 he q0 q1 ?_ rest
  rw [decode16]; rw [k0]
  change decQ1 x = _
  rw [decQ1]; rw [k1]
  change Except.ok _ = _
  rw [fin16_of (a := d) v0, bits_of (v := imm) v1, bitAt_of (b := sw) v2]

theorem RoundTrip.cB (off : BitVec 9) (sw : Bool) : RoundTrip.Statement (.cB off sw) := by
  intro _ _ rest
  have := off.isLt; have := sw.toNat_lt
  obtain ⟨x, hx⟩ : ∃ x, x = 17 + sw.toNat * 4 + off.toNat * 128 := ⟨_, rfl⟩
  have he : encodeWord (.cB off sw) = some (2, x) := by rw [hx]; rfl
  refine decode_word16 he (by omega) (by omega) ?_ rest
  rw [decode16]
  rw [show x % 4 = 1 by omega]
  change decQ1 x = _
  rw [decQ1]
  rw [show x / 8 % 16 = 2 by omega]
  change Except.ok _ = _
  rw [bits_of (v := off) (by omega), bitAt_of (b := sw) (by omega)]

theorem RoundTrip.cLd (t : Fin 16) (b : Fin 16) (sw : Bool) : RoundTrip.Statement (.cLd t b sw) := by
  intro _ _ rest
  obtain ⟨x, hx⟩ : ∃ x, x = 2 + sw.toNat * 4 + t.val * 128 + b.val * 2048 := ⟨_, rfl⟩
  have he : encodeWord (.cLd t b sw) = some (2, x) := by rw [hx]; rfl
  obtain ⟨q0, q1, k0, k1, c0, v0, v1, v2⟩ := fields34 (m1 := 0) (by decide) rfl hx t.isLt b.isLt sw.toNat_lt
  refine decode_word16 he q0 q1 ?_ rest
  rw [decode16]; rw [k0]
  change decQ2 x = _
  rw [decQ2]; rw [k1]
  change (if _ then _ else _) = _
  rw [if_neg c0]
  rw [fin16_of (a := t) v0, fin16_of (a := b) v1, bitAt_of (b := sw) v2]

theorem RoundTrip.cSt (t : Fin 16) (b : Fin 16) (sw : Bool) : RoundTrip.Statement (.cSt t b sw) := by
  intro _ _ rest
  obtain ⟨x, hx⟩ : ∃ x, x = 10 + sw.toNat * 4 + t.val * 128 + b.val * 2048 := ⟨_, rfl⟩
  have he : encodeWord (.cSt t b sw) = some (2, x) := by rw [hx]; rfl
  obtain ⟨q0, q1, k0, k1, c0, v0, v1, v2⟩ := fields34 (m1 := 1) (by decide) rfl hx t.isLt b.isLt sw.toNat_lt
  refine decode_word16 he q0 q1 ?_ rest
  rw [decode16]; rw [k0]
  change decQ2 x = _
  rw [decQ2]; rw [k1]
  change (if _ then _ else _) = _
  rw [if_neg c0]
  rw [fin16_of (a := t) v0, fin16_of (a := b) v1, bitAt_of (b := sw) v2]

theorem RoundTrip.cLdW (t : Fin 16) (b : Fin 16) (sw : Bool) : RoundTrip.Statement (.cLdW t b sw) := by
  intro _ _ rest
  obtain ⟨x, hx⟩ : ∃ x, x = 18 + sw.toNat * 4 + t.val * 128 + b.val * 2048 := ⟨_, rfl⟩
  have he : encodeWord (.cLdW t b sw) = some (2, x) := by rw [hx]; rfl
  obtain ⟨q0, q1, k0, k1, c0, v0, v1, v2⟩ := fields34 (m1 := 2) (by decide) rfl hx t.isLt b.isLt sw.toNat_lt
  refine decode_word16 he q0 q1 ?_ rest
  rw [decode16]; rw [k0]
  change decQ2 x = _
  rw [decQ2]; rw [k1]
  change (if _ then _ else _) = _
  rw [if_neg c0]
  rw [fin16_of (a := t) v0, fin16_of (a := b) v1, bitAt_of (b := sw) v2]

theorem RoundTrip.cStW (t : Fin 16) (b : Fin 16) (sw : Bool) : RoundTrip.Statement (.cStW t b sw) := by
  intro _ _ rest
  obtain ⟨x, hx⟩ : ∃ x, x = 26 + sw.toNat * 4 + t.val * 128 + b.val * 2048 := ⟨_, rfl⟩
  have he : encodeWord (.cStW t b sw) = some (2, x) := by rw [hx]; rfl
  obtain ⟨q0, q1, k0, k1, c0, v0, v1, v2⟩ := fields34 (m1 := 3) (by decide) rfl hx t.isLt b.isLt sw.toNat_lt
  refine decode_word16 he q0 q1 ?_ rest
  rw [decode16]; rw [k0]
  change decQ2 x = _
  rw [decQ2]; rw [k1]
  change (if _ then _ else _) = _
  rw [if_neg c0]
  rw [fin16_of (a := t) v0, fin16_of (a := b) v1, bitAt_of (b := sw) v2]

theorem RoundTrip.cLdPost (t : Fin 16) (b : Fin 16) (sw : Bool) : RoundTrip.Statement (.cLdPost t b sw) := by
  intro _ _ rest
  obtain ⟨x, hx⟩ : ∃ x, x = 34 + sw.toNat * 4 + t.val * 128 + b.val * 2048 := ⟨_, rfl⟩
  have he : encodeWord (.cLdPost t b sw) = some (2, x) := by rw [hx]; rfl
  obtain ⟨q0, q1, k0, k1, c0, v0, v1, v2⟩ := fields34 (m1 := 4) (by decide) rfl hx t.isLt b.isLt sw.toNat_lt
  refine decode_word16 he q0 q1 ?_ rest
  rw [decode16]; rw [k0]
  change decQ2 x = _
  rw [decQ2]; rw [k1]
  change (if _ then _ else _) = _
  rw [if_neg c0]
  rw [fin16_of (a := t) v0, fin16_of (a := b) v1, bitAt_of (b := sw) v2]

theorem RoundTrip.cStPost (t : Fin 16) (b : Fin 16) (sw : Bool) : RoundTrip.Statement (.cStPost t b sw) := by
  intro _ _ rest
  obtain ⟨x, hx⟩ : ∃ x, x = 42 + sw.toNat * 4 + t.val * 128 + b.val * 2048 := ⟨_, rfl⟩
  have he : encodeWord (.cStPost t b sw) = some (2, x) := by rw [hx]; rfl
  obtain ⟨q0, q1, k0, k1, c0, v0, v1, v2⟩ := fields34 (m1 := 5) (by decide) rfl hx t.isLt b.isLt sw.toNat_lt
  refine decode_word16 he q0 q1 ?_ rest
  rw [decode16]; rw [k0]
  change decQ2 x = _
  rw [decQ2]; rw [k1]
  change (if _ then _ else _) = _
  rw [if_neg c0]
  rw [fin16_of (a := t) v0, fin16_of (a := b) v1, bitAt_of (b := sw) v2]

theorem RoundTrip.cLdc (t : Fin 16) (b : Fin 16) (sw : Bool) : RoundTrip.Statement (.cLdc t b sw) := by
  intro _ _ rest
  obtain ⟨x, hx⟩ : ∃ x, x = 50 + sw.toNat * 4 + t.val * 128 + b.val * 2048 := ⟨_, rfl⟩
  have he : encodeWord (.cLdc t b sw) = some (2, x) := by rw [hx]; rfl
  obtain ⟨q0, q1, k0, k1, c0, v0, v1, v2⟩ := fields34 (m1 := 6) (by decide) rfl hx t.isLt b.isLt sw.toNat_lt
  refine decode_word16 he q0 q1 ?_ rest
  rw [decode16]; rw [k0]
  change decQ2 x = _
  rw [decQ2]; rw [k1]
  change (if _ then _ else _) = _
  rw [if_neg c0]
  rw [fin16_of (a := t) v0, fin16_of (a := b) v1, bitAt_of (b := sw) v2]

theorem RoundTrip.cStc (t : Fin 16) (b : Fin 16) (sw : Bool) : RoundTrip.Statement (.cStc t b sw) := by
  intro _ _ rest
  obtain ⟨x, hx⟩ : ∃ x, x = 58 + sw.toNat * 4 + t.val * 128 + b.val * 2048 := ⟨_, rfl⟩
  have he : encodeWord (.cStc t b sw) = some (2, x) := by rw [hx]; rfl
  obtain ⟨q0, q1, k0, k1, c0, v0, v1, v2⟩ := fields34 (m1 := 7) (by decide) rfl hx t.isLt b.isLt sw.toNat_lt
  refine decode_word16 he q0 q1 ?_ rest
  rw [decode16]; rw [k0]
  change decQ2 x = _
  rw [decQ2]; rw [k1]
  change (if _ then _ else _) = _
  rw [if_neg c0]
  rw [fin16_of (a := t) v0, fin16_of (a := b) v1, bitAt_of (b := sw) v2]

theorem RoundTrip.deferredResult (core : Nat) : RoundTrip.Statement (.deferredResult core) :=
  fun _ he => absurd he Bool.false_ne_true

theorem RoundTrip.chordRunCommit (core : Nat) : RoundTrip.Statement (.chordRunCommit core) :=
  fun _ he => absurd he Bool.false_ne_true

theorem RoundTrip.consortRunForward (leader : Nat) : RoundTrip.Statement (.consortRunForward leader) :=
  fun _ he => absurd he Bool.false_ne_true

theorem RoundTrip.followerBufferTimeout (core : Nat) : RoundTrip.Statement (.followerBufferTimeout core) :=
  fun _ he => absurd he Bool.false_ne_true

theorem RoundTrip.handlerEntry (core : Nat) : RoundTrip.Statement (.handlerEntry core) :=
  fun _ he => absurd he Bool.false_ne_true

theorem RoundTrip.localTrap (core : Nat) (report : TrapReport) : RoundTrip.Statement (.localTrap core report) :=
  fun _ he => absurd he Bool.false_ne_true

theorem RoundTrip.walkComplete (core : Nat) (va : Nat) (kind : Access) : RoundTrip.Statement (.walkComplete core va kind) :=
  fun _ he => absurd he Bool.false_ne_true

theorem RoundTrip.faultReply (core : Nat) (seq : Nat) (value : BitVec 64) : RoundTrip.Statement (.faultReply core seq value) :=
  fun _ he => absurd he Bool.false_ne_true

theorem RoundTrip.serviceCallReply (core : Nat) (seq : Nat) (value : BitVec 64) : RoundTrip.Statement (.serviceCallReply core seq value) :=
  fun _ he => absurd he Bool.false_ne_true

theorem RoundTrip.moduleControllerCall : RoundTrip.Statement (.moduleControllerCall) :=
  fun _ he => absurd he Bool.false_ne_true

theorem RoundTrip.machineCheck (report : ErrReport) : RoundTrip.Statement (.machineCheck report) :=
  fun _ he => absurd he Bool.false_ne_true

theorem RoundTrip.hangScan (die : Nat) : RoundTrip.Statement (.hangScan die) :=
  fun _ he => absurd he Bool.false_ne_true

theorem RoundTrip.hangAbortReply (core : Nat) : RoundTrip.Statement (.hangAbortReply core) :=
  fun _ he => absurd he Bool.false_ne_true

theorem RoundTrip.qwr (part : Nat) (q : Nat) (value : BitVec 64) : RoundTrip.Statement (.qwr part q value) :=
  fun _ he => absurd he Bool.false_ne_true

theorem RoundTrip.qctl (part : Nat) (q : Nat) (value : BitVec 64) : RoundTrip.Statement (.qctl part q value) :=
  fun _ he => absurd he Bool.false_ne_true

theorem RoundTrip.dispatch (part : Nat) : RoundTrip.Statement (.dispatch part) :=
  fun _ he => absurd he Bool.false_ne_true

theorem RoundTrip.taskStart (core : Nat) : RoundTrip.Statement (.taskStart core) :=
  fun _ he => absurd he Bool.false_ne_true

theorem RoundTrip.taskSave (core : Nat) : RoundTrip.Statement (.taskSave core) :=
  fun _ he => absurd he Bool.false_ne_true

theorem RoundTrip.gridResume (grid : Nat) : RoundTrip.Statement (.gridResume grid) :=
  fun _ he => absurd he Bool.false_ne_true

theorem RoundTrip.gridComplete (grid : Nat) : RoundTrip.Statement (.gridComplete grid) :=
  fun _ he => absurd he Bool.false_ne_true

theorem RoundTrip.hprePreempt (part : Nat) (q : Nat) (slot : Nat) : RoundTrip.Statement (.hprePreempt part q slot) :=
  fun _ he => absurd he Bool.false_ne_true

theorem RoundTrip.hprePreemptHold (part : Nat) (q : Nat) (slot : Nat) : RoundTrip.Statement (.hprePreemptHold part q slot) :=
  fun _ he => absurd he Bool.false_ne_true

theorem RoundTrip.hpreResume (part : Nat) (q : Nat) (slot : Nat) : RoundTrip.Statement (.hpreResume part q slot) :=
  fun _ he => absurd he Bool.false_ne_true

theorem RoundTrip.relaunch (part : Nat) (q : Nat) (slot : Nat) : RoundTrip.Statement (.relaunch part q slot) :=
  fun _ he => absurd he Bool.false_ne_true

theorem RoundTrip.registerWrite (reg : MReg) (value : BitVec 64) : RoundTrip.Statement (.registerWrite reg value) :=
  fun _ he => absurd he Bool.false_ne_true

theorem RoundTrip.messageArrival (index : Nat) : RoundTrip.Statement (.messageArrival index) :=
  fun _ he => absurd he Bool.false_ne_true

theorem RoundTrip.wakeUpArrival (index : Nat) : RoundTrip.Statement (.wakeUpArrival index) :=
  fun _ he => absurd he Bool.false_ne_true

theorem RoundTrip.messageRetry (index : Nat) : RoundTrip.Statement (.messageRetry index) :=
  fun _ he => absurd he Bool.false_ne_true

theorem RoundTrip.messageRefusalDiscard (index : Nat) : RoundTrip.Statement (.messageRefusalDiscard index) :=
  fun _ he => absurd he Bool.false_ne_true

theorem RoundTrip.transferComplete (core : Nat) (index : Nat) : RoundTrip.Statement (.transferComplete core index) :=
  fun _ he => absurd he Bool.false_ne_true

theorem RoundTrip.slotFillComplete (core : Nat) (slot : Nat) : RoundTrip.Statement (.slotFillComplete core slot) :=
  fun _ he => absurd he Bool.false_ne_true

theorem RoundTrip.engineRetire (core : Nat) : RoundTrip.Statement (.engineRetire core) :=
  fun _ he => absurd he Bool.false_ne_true

theorem RoundTrip.collectiveComplete (index : Nat) (arrival : List Nat) : RoundTrip.Statement (.collectiveComplete index arrival) :=
  fun _ he => absurd he Bool.false_ne_true

theorem RoundTrip.ownershipGrant (core : Nat) (index : Nat) (line : Nat) : RoundTrip.Statement (.ownershipGrant core index line) :=
  fun _ he => absurd he Bool.false_ne_true

theorem RoundTrip.ownershipTimeout (core : Nat) (index : Nat) : RoundTrip.Statement (.ownershipTimeout core index) :=
  fun _ he => absurd he Bool.false_ne_true

theorem RoundTrip.storePerformed (core : Nat) (index : Nat) : RoundTrip.Statement (.storePerformed core index) :=
  fun _ he => absurd he Bool.false_ne_true

theorem RoundTrip.replicatedWrite (core : Nat) (index : Nat) : RoundTrip.Statement (.replicatedWrite core index) :=
  fun _ he => absurd he Bool.false_ne_true

theorem RoundTrip.replicaAck (stamp : Nat) (die : Nat) : RoundTrip.Statement (.replicaAck stamp die) :=
  fun _ he => absurd he Bool.false_ne_true

theorem RoundTrip.replicaCommit (stamp : Nat) : RoundTrip.Statement (.replicaCommit stamp) :=
  fun _ he => absurd he Bool.false_ne_true

theorem RoundTrip.sequencerFailover : RoundTrip.Statement (.sequencerFailover) :=
  fun _ he => absurd he Bool.false_ne_true

theorem RoundTrip.expertRowArrival (index : Nat) : RoundTrip.Statement (.expertRowArrival index) :=
  fun _ he => absurd he Bool.false_ne_true

theorem RoundTrip.expertRelease (die : Nat) (buf : Nat) : RoundTrip.Statement (.expertRelease die buf) :=
  fun _ he => absurd he Bool.false_ne_true

theorem RoundTrip.overflowDecision (die : Nat) (buf : Nat) : RoundTrip.Statement (.overflowDecision die buf) :=
  fun _ he => absurd he Bool.false_ne_true

theorem RoundTrip.tokenGrant (core : Nat) (r : Nat) : RoundTrip.Statement (.tokenGrant core r) :=
  fun _ he => absurd he Bool.false_ne_true

theorem RoundTrip.revocationDeadline (core : Nat) : RoundTrip.Statement (.revocationDeadline core) :=
  fun _ he => absurd he Bool.false_ne_true

theorem RoundTrip.issueWindow (core : Nat) : RoundTrip.Statement (.issueWindow core) :=
  fun _ he => absurd he Bool.false_ne_true

theorem RoundTrip.zpool (die : Nat) (value : BitVec 64) : RoundTrip.Statement (.zpool die value) :=
  fun _ he => absurd he Bool.false_ne_true

theorem RoundTrip.prooferRebuild (die : Nat) (succeeds : Bool) : RoundTrip.Statement (.prooferRebuild die succeeds) :=
  fun _ he => absurd he Bool.false_ne_true

theorem RoundTrip.currentTrip (die : Nat) : RoundTrip.Statement (.currentTrip die) :=
  fun _ he => absurd he Bool.false_ne_true

theorem RoundTrip.thermalTrip (die : Nat) : RoundTrip.Statement (.thermalTrip die) :=
  fun _ he => absurd he Bool.false_ne_true

theorem RoundTrip.thermalClockStep (die : Nat) : RoundTrip.Statement (.thermalClockStep die) :=
  fun _ he => absurd he Bool.false_ne_true

theorem RoundTrip.tripRecovery (die : Nat) : RoundTrip.Statement (.tripRecovery die) :=
  fun _ he => absurd he Bool.false_ne_true

theorem RoundTrip.thermalCutoff (die : Nat) : RoundTrip.Statement (.thermalCutoff die) :=
  fun _ he => absurd he Bool.false_ne_true

theorem RoundTrip.meterReconcile (die : Nat) (emeas : Nat) (uses : List EnergyUse) (others : Nat × Nat) (sensorOk : Bool) : RoundTrip.Statement (.meterReconcile die emeas uses others sensorOk) :=
  fun _ he => absurd he Bool.false_ne_true

theorem RoundTrip.journalPeriod (signatureOk : Bool) : RoundTrip.Statement (.journalPeriod signatureOk) :=
  fun _ he => absurd he Bool.false_ne_true

theorem RoundTrip.timeTablePublish (entries : List TimeEntry) : RoundTrip.Statement (.timeTablePublish entries) :=
  fun _ he => absurd he Bool.false_ne_true

theorem RoundTrip.clockChange (die : Nat) (clock : Nat) (entries : List TimeEntry) (bands : List FretEntry) : RoundTrip.Statement (.clockChange die clock entries bands) :=
  fun _ he => absurd he Bool.false_ne_true

theorem RoundTrip.bankDrowsy (core : Nat) (bank : Nat) : RoundTrip.Statement (.bankDrowsy core bank) :=
  fun _ he => absurd he Bool.false_ne_true

theorem RoundTrip.accumulatorRefresh (core : Nat) (acc : Nat) : RoundTrip.Statement (.accumulatorRefresh core acc) :=
  fun _ he => absurd he Bool.false_ne_true

theorem RoundTrip.tileLost (core : Nat) (array : Nat) : RoundTrip.Statement (.tileLost core array) :=
  fun _ he => absurd he Bool.false_ne_true

theorem RoundTrip.tileRetire (core : Nat) (spare : Bool) : RoundTrip.Statement (.tileRetire core spare) :=
  fun _ he => absurd he Bool.false_ne_true

theorem RoundTrip.staleGenDrop (index : Nat) : RoundTrip.Statement (.staleGenDrop index) :=
  fun _ he => absurd he Bool.false_ne_true

theorem RoundTrip.debugRead (name : BitVec 32) (item : DebugItem) : RoundTrip.Statement (.debugRead name item) :=
  fun _ he => absurd he Bool.false_ne_true

theorem RoundTrip.linkRetrain (die : Nat) (dir : Nat) (link : Nat) (outcome : LinkOutcome) (lo : Nat) (hi : Nat) : RoundTrip.Statement (.linkRetrain die dir link outcome lo hi) :=
  fun _ he => absurd he Bool.false_ne_true

theorem RoundTrip.linkFail (die : Nat) (dir : Nat) : RoundTrip.Statement (.linkFail die dir) :=
  fun _ he => absurd he Bool.false_ne_true

theorem RoundTrip.routeSwitchover (part : Nat) (tables : RouteTables) : RoundTrip.Statement (.routeSwitchover part tables) :=
  fun _ he => absurd he Bool.false_ne_true

theorem RoundTrip.cinovDoorbell (part : Nat) : RoundTrip.Statement (.cinovDoorbell part) :=
  fun _ he => absurd he Bool.false_ne_true

theorem RoundTrip.cinovComplete (part : Nat) (status : Nat) (data : List (BitVec 8)) : RoundTrip.Statement (.cinovComplete part status data) :=
  fun _ he => absurd he Bool.false_ne_true

theorem RoundTrip.cnctl (part : Nat) (value : BitVec 64) : RoundTrip.Statement (.cnctl part value) :=
  fun _ he => absurd he Bool.false_ne_true

theorem RoundTrip.cinovRetransmit (part : Nat) (peer : Nat) : RoundTrip.Statement (.cinovRetransmit part peer) :=
  fun _ he => absurd he Bool.false_ne_true

theorem RoundTrip.ethernetFrameRx (port : Nat) (fcsOk : Bool) (op : CinovIn) : RoundTrip.Statement (.ethernetFrameRx port fcsOk op) :=
  fun _ he => absurd he Bool.false_ne_true

theorem RoundTrip.ethernetPortFail (port : Nat) : RoundTrip.Statement (.ethernetPortFail port) :=
  fun _ he => absurd he Bool.false_ne_true

theorem RoundTrip.hostMemStore (part : Nat) (offset : Nat) (data : List (BitVec 8)) : RoundTrip.Statement (.hostMemStore part offset data) :=
  fun _ he => absurd he Bool.false_ne_true

theorem RoundTrip.hostMemRead (part : Nat) (offset : Nat) (len : Nat) : RoundTrip.Statement (.hostMemRead part offset len) :=
  fun _ he => absurd he Bool.false_ne_true

theorem RoundTrip.backInvalidateResponse (index : Nat) (data : Option (List (BitVec 8))) : RoundTrip.Statement (.backInvalidateResponse index data) :=
  fun _ he => absurd he Bool.false_ne_true

theorem RoundTrip.snoopTimeout (index : Nat) : RoundTrip.Statement (.snoopTimeout index) :=
  fun _ he => absurd he Bool.false_ne_true

theorem RoundTrip.cxlCacheResponse (pa : Nat) (data : Option (List (BitVec 8))) (poisoned : Bool) : RoundTrip.Statement (.cxlCacheResponse pa data poisoned) :=
  fun _ he => absurd he Bool.false_ne_true

theorem RoundTrip.cxlLinkDown (port : Nat) : RoundTrip.Statement (.cxlLinkDown port) :=
  fun _ he => absurd he Bool.false_ne_true

theorem RoundTrip.powerGood (boot : BootData) : RoundTrip.Statement (.powerGood boot) :=
  fun _ he => absurd he Bool.false_ne_true

theorem RoundTrip.bootTimeout : RoundTrip.Statement (.bootTimeout) :=
  fun _ he => absurd he Bool.false_ne_true

theorem RoundTrip.cxlConfigRequest (request : ConfigRequest) : RoundTrip.Statement (.cxlConfigRequest request) :=
  fun _ he => absurd he Bool.false_ne_true

theorem RoundTrip.moduleReset (waited : Nat) : RoundTrip.Statement (.moduleReset waited) :=
  fun _ he => absurd he Bool.false_ne_true

theorem RoundTrip.alwaysOnLoss : RoundTrip.Statement (.alwaysOnLoss) :=
  fun _ he => absurd he Bool.false_ne_true

theorem RoundTrip.enclosureOpen : RoundTrip.Statement (.enclosureOpen) :=
  fun _ he => absurd he Bool.false_ne_true

theorem RoundTrip.debugPortEnable : RoundTrip.Statement (.debugPortEnable) :=
  fun _ he => absurd he Bool.false_ne_true

theorem RoundTrip.moduleControllerTakeover : RoundTrip.Statement (.moduleControllerTakeover) :=
  fun _ he => absurd he Bool.false_ne_true

theorem RoundTrip.readings (fromSeq : Nat) (ackSeq : Nat) : RoundTrip.Statement (.readings fromSeq ackSeq) :=
  fun _ he => absurd he Bool.false_ne_true

theorem RoundTrip.partition (setup : PartSetup) : RoundTrip.Statement (.partition setup) :=
  fun _ he => absurd he Bool.false_ne_true

theorem RoundTrip.policy (cmd : PolicyCmd) : RoundTrip.Statement (.policy cmd) :=
  fun _ he => absurd he Bool.false_ne_true

theorem RoundTrip.census : RoundTrip.Statement (.census) :=
  fun _ he => absurd he Bool.false_ne_true

theorem RoundTrip.firmware (image : Nat) (signed : Bool) : RoundTrip.Statement (.firmware image signed) :=
  fun _ he => absurd he Bool.false_ne_true

theorem RoundTrip.coefficientTableChange (table : List Nat) : RoundTrip.Statement (.coefficientTableChange table) :=
  fun _ he => absurd he Bool.false_ne_true

theorem RoundTrip.readingKeyReplacement (key : Nat) : RoundTrip.Statement (.readingKeyReplacement key) :=
  fun _ he => absurd he Bool.false_ne_true

theorem RoundTrip.expertBufferConfiguration (die : Nat) (cfg : ExpertCfg) : RoundTrip.Statement (.expertBufferConfiguration die cfg) :=
  fun _ he => absurd he Bool.false_ne_true

theorem RoundTrip.tilePowerGating (core : Nat) : RoundTrip.Statement (.tilePowerGating core) :=
  fun _ he => absurd he Bool.false_ne_true

theorem RoundTrip.laneQuadFusing (core : Nat) (quad : Nat) : RoundTrip.Statement (.laneQuadFusing core quad) :=
  fun _ he => absurd he Bool.false_ne_true

end Sys2Proof.Laws
end

