-- ==== Sys2Proof/Safety.lean ====
section
/-! DEFINITION. The terms in which claims are made: the invariant of every state, when an instruction may issue, what its own
effect is, and what everything else is that it leaves alone. -/

namespace Sys2Proof.Machine

/-- The invariant of every state: memory keeps its canonical form. -/
def State.Inv (s : State) : Prop := Memory.wf s.mem = true

/-- The tile of the core that steps. -/
def State.here (s : State) : Tile := s.tile s.cur

/-- The state once the engine instructions of the stepping core's task have retired (R122, R254). -/
def State.engineDone (s : State) : State := s.engineDrain s.cur
/-- The state once the stores of the stepping core to the tier of a scope have been performed, as far as they can be (R116, R118,
R123). -/
def State.storesDone (s : State) (sc : Scope) : State := s.drain s.cur (fun x => inTier s.cur sc x.key)
/-- The state once both have been done. -/
def State.settled (s : State) (sc : Scope) : State := s.engineDone.storesDone sc
/-- No store of the stepping core to the tier of a scope is still to be performed. -/
def Performed (s : State) (sc : Scope) : Prop := s.undrained s.cur (fun x => inTier s.cur sc x.key) = false

/-- What a register that no generator is bound to reads as: w0 is 0 (R202). -/
def Tile.getW (t : Tile) (n : Nat) : Reg := if n = 0 then Reg.null else t.w[n]?.getD Reg.null
/-- Its integer value (R59). -/
def Tile.getX (t : Tile) (n : Nat) : Word := (t.getW n).lo
/-- A write to a register that no generator is bound to: w0 discards it (R202). -/
def Tile.putW (t : Tile) (n : Nat) (v : Reg) : Tile := if n = 0 then t else { t with w := t.w.setIfInBounds n v }
/-- A write of plain data (R59). -/
def Tile.putX (t : Tile) (n : Nat) (x : Word) : Tile := t.putW n (Reg.plain x)

/-- The registers may be used by an instruction that issues now: none of them is a pending result of the run (R369), and no
generator is bound to those of them that are w registers (R65). -/
def Ready (s : State) (rs : List (File × Nat)) : Prop :=
  ∀ r ∈ rs, findPend s.here.pend r = none ∧ (r.1 = .w → s.here.bound r.2 = none)

/-- `t` with the fields of instruction flow taken from `u`: the pc, the loop stack, the run's bookkeeping, the chord's and the
consort's runs. -/
def Tile.withFlow (t u : Tile) : Tile :=
  { t with pc := u.pc, loops := u.loops, runPos := u.runPos, runStart := u.runStart, rep := u.rep, pend := u.pend,
           parked := u.parked, wait := u.wait, consort := u.consort, runs := u.runs }

/-- Nothing but the stepping core's tile has changed: all of memory, every other core, every die, message and register
outside the core is as before. -/
def OnlyCore (s t : State) : Prop := t = { s with tiles := keySet s.tiles s.cur t.here }

/-- From `s` to `t` the stepping core's own effect is `f`, and nothing else has changed but its instruction flow. -/
def Effect (s t : State) (f : Tile → Tile) : Prop :=
  t.cur = s.cur ∧ OnlyCore s t ∧ t.here = (f s.here).withFlow t.here

/-- Where execution continues after an instruction of `len` bytes that does not transfer control: after it, or at the
start of a loop whose END it is and which has iterations left (R66, R225). -/
def Tile.after (t : Tile) (len : Nat) : Reg :=
  match (turnBack t.pc.addr t.loops).2 with
  | some a => capAdd t.pc ((a : Int) - t.pc.addr)
  | none => capAdd t.pc len

/-- The registers that a deferred instruction leaves as pending results of its run (R194, R369): w0 and p0 hold nothing. -/
def results (rs : List (File × Nat)) : List (File × Nat) :=
  rs.filter (fun r => !(decide (r.2 = 0) && (decide (r.1 = .w) || decide (r.1 = .p))))

/-- The outcome is that of an instruction of `len` bytes that has taken effect: its effect on the core is `f`, nothing else
changes, the next instruction follows, and the run has the pending results `named` besides those it had. -/
def Through (o : Host.Outcome State Fault Refusal) (s : State) (len : Nat) (named : List (File × Nat)) (f : Tile → Tile) : Prop :=
  ∃ t, o = .next t ∧ Effect s t f ∧ t.here.pc = s.here.after len ∧
    t.here.pend = s.here.pend ++ named.map (fun r => ⟨r.1, r.2, s.here.runPos⟩)
/-- An instruction of immediate class takes effect and is through (R194). -/
def Completes (i : Instr) (s : State) (len : Nat) (f : Tile → Tile) : Prop := Through (exec i s) s len [] f
/-- An instruction of deferred class takes effect and is through; its results `rs` are pending until the run ends (R194). -/
def CompletesDeferred (i : Instr) (s : State) (rs : List (File × Nat)) (f : Tile → Tile) : Prop :=
  Through (exec i s) s 4 (results rs) f

/-- The same for a deferred instruction that first waits for earlier work of the task: that work leads from `o` to `s`. -/
def CompletesAfter (i : Instr) (o s : State) (rs : List (File × Nat)) (f : Tile → Tile) : Prop :=
  Through (exec i o) s 4 (results rs) f

/-- The outcome is that of an instruction that has taken effect and transfers control to the capability `c`: no result is
added to those pending. -/
def Jumps (o : Host.Outcome State Fault Refusal) (s : State) (c : Reg) (f : Tile → Tile) : Prop :=
  ∃ t, o = .next t ∧ Effect s t f ∧ t.here.pc = c ∧ t.here.pend = s.here.pend

/-- The active lanes of a vector register take new values, and the sticky flags that go with them are set (R62, R72, R239). -/
def Tile.putLanes (t : Tile) (d g : Nat) (f : Nat → Lane × Nat) : Tile :=
  (t.setLanes d (fun i x => if t.active g i then (f i).1 else x)).flag (orFlags ((t.lanes g).map (fun i => (f i).2)))

/-! ### The engine -/

/-- The core may issue an engine instruction now: it holds tokens, both budgets are positive, and they hold the refills of every
window that has started (R170, R171, R407). -/
def Funded (s : State) : Prop := s.here.hold ≠ 0 ∧ 1 ≤ s.here.bal ∧ 1 ≤ s.here.sbal ∧ s.windowDue s.cur = false
/-- `n` slots are spent, and counted as energy events (R171, R183). -/
def Tile.charged (t : Tile) (n : Nat) : Tile := { t with bal := t.bal - n, sbal := t.sbal - n, slotEvents := t.slotEvents + n }
/-- A lattice operation is counted as an energy event (R142, R183). -/
def Tile.counted (t : Tile) : Tile := { t with latticeEvents := t.latticeEvents + 1 }
/-- An engine instruction joins the queue. -/
def Tile.queued (t : Tile) (op : EngOp) : Tile := { t with eng := t.eng ++ [op] }
/-- A slot of a ring holds `n` elements of a window for the engine to read: the ring is configured, the slot is READY and long
enough, and neither the elements nor, for an MX window, their scale bytes lie outside the scratchpad or are uncorrectable. -/
def Operand (s : State) (q slot w n : Nat) : Prop :=
  (s.here.ring q).len ≠ 0 ∧ (s.here.slot slot).state = .ready ∧ winBytes w n ≤ (s.here.slot slot).len ∧
    s.isBad (scratchAt s.cur (s.here.slot slot).off) (winBytes w n) = false ∧
    (isMx w = true → scaleOff (s.here.soff w) w (s.here.slot slot).off (n - 1) < Config.scratchBytes ∧
      s.isBad (scratchAt s.cur (scaleOff (s.here.soff w) w (s.here.slot slot).off 0)) (winBytes 1 n / 32) = false)

/-! ### Addresses and memory -/

/-- A control instruction does not stand at the END of the top loop level (R373). -/
def NotAtEnd (s : State) : Prop := ∀ l ∈ s.here.loops.head?, l.stop ≠ s.here.pc.addr

/-- EA (R198) of registers that no generator is bound to, with offset unit `u` = 2^`lg`. -/
def Tile.ea (t : Tile) (u lg : Nat) (m : Mem) : Ea :=
  match m with
  | .offset rb imm => ⟨t.getW rb, addrAdd (t.getW rb).addr (imm.toInt * u), none⟩
  | .index rb wi sc => ⟨t.getW rb, addrAdd (t.getW rb).addr (((t.getX wi).toNat * 2 ^ (if sc then lg else 0) : Nat) : Int), none⟩
  | .post rb imm => ⟨t.getW rb, (t.getW rb).addr, some (baseTo (t.getW rb) (addrAdd (t.getW rb).addr (imm.toInt * u)))⟩
  | .modulo rb imm mi =>
    ⟨t.getW rb, (t.getW rb).addr, some (baseTo (t.getW rb) (moduloStep (t.getW rb) (imm.toInt * u) (t.m[mi]?.getD 0)))⟩
/-- The base update of an address (R198). -/
def Tile.based (t : Tile) (m : Mem) (e : Ea) : Tile :=
  match e.next with
  | none => t
  | some c => t.putW (Mem.rb m) c

/-- The capability passes checks 1 to 5 of R215 for `n` bytes at an address. -/
def Grants (c : Reg) (a n perms align : Nat) : Prop :=
  c.tag = true ∧ c.otype = 0 ∧ c.has perms = true ∧ (capBounds c).1 ≤ (a : Int) ∧ ((a + n : Nat) : Int) ≤ (capBounds c).2 ∧
    a % align = 0 ∧ a / 2 ^ 56 = 0

/-- The need of ENG that an access of an engine or a generator adds (R109). -/
def engNeed (eng : Bool) : Nat := if eng then needEng else 0

/-- The stepping core can read a range of translated memory now: no copy holds its bytes pending, no engine owns its lines and no
host holds them (R126, R130, R309), and the copy that it reads needs no mending and is correct (R387, R392). -/
def Readable (s : State) (p : Phys) (n : Nat) : Prop :=
  s.pendingBytes s.cur p.key n = false ∧ s.owned s.cur noXfer p.key n = false ∧ s.engineHoldsKey p.key n false = false ∧
    s.mend s.cur (dieOf s.cur) p.key n p.repl = s ∧ s.unreadable s.cur p.key n p.repl = false
/-- The `n` bytes at an address can be read by the stepping core: they are `bytes` with the granule tag `tag`, and `t` is the
state once the address is translated. They lie in its scratchpad, where no queued engine instruction has still to write them (R98,
R122), in the information area (R99), or in one page of translated memory, where the core sees its own stores (R119), but to a
replicated page only once they are performed (R105). -/
def Loads (s : State) (a n : Nat) (eng : Bool) (t : State) (bytes : List Byte) (tag : Bool) : Prop :=
  (∃ w off, locate a n = .scratch w off ∧ s.engineHoldsKey (scratchAt s.cur off) n false = false ∧
    s.isBad (scratchAt s.cur off) n = false ∧ t = s ∧
    bytes = s.readAt (scratchAt s.cur off) n ∧ tag = tagGet s.tags (scratchAt s.cur off / 16)) ∨
  (∃ off, locate a n = .info off ∧ t = s ∧ bytes = s.infoBytes s.cur off n ∧ tag = false) ∨
  (∃ p, (locate a n = .virt ∨ locate a n = .expert) ∧ a % 65536 + n ≤ 65536 ∧
    s.translateAt s.cur false a (needR + engNeed eng) = .ok (p, t) ∧
    (p.repl = true → t.undrained s.cur (PStore.over p.key n) = false) ∧ Readable t p n ∧
    bytes = t.seen s.cur p.key n ∧
    tag = (p.capst && !isHost p.key && forwardTag t.here.stores (p.key / 16) (tagGet t.tags (p.key / 16))))

/-- The bytes can be stored at an address by the stepping core, and `t` is the state after it: in its scratchpad the store is
performed, where no queued engine instruction has still to read or write them (R122), in translated memory it waits in the store
buffer (R118), a store to the information area is not performed (R99). `want` asks for the granule's tag; what the bytes held
before is kept for generators that may have read them (R238, log entry 38). An append is marked with its generator `gen` (R65). -/
def Stores (s : State) (a : Nat) (data : List Byte) (gen : Option Nat) (want : Bool) (t : State) : Prop :=
  (∃ w off, locate a data.length = .scratch w off ∧ s.engineHoldsKey (scratchAt s.cur off) data.length true = false ∧
    s.badPartial (scratchAt s.cur off) data.length = false ∧
    t = (s.noted (scratchAt s.cur off) data.length).writeKey (scratchAt s.cur off) data (want && decide (w = 0))) ∨
  (∃ off, locate a data.length = .info off ∧ t = s) ∨
  (∃ p u, (locate a data.length = .virt ∨ locate a data.length = .expert) ∧
    s.translateAt s.cur false a (needW + engNeed gen.isSome) = .ok (p, u) ∧ u.engineHoldsKey p.key data.length true = false ∧
    u.mend s.cur 56 p.key data.length p.repl = u ∧ u.badPartial p.key data.length = false ∧
    t = (u.noted p.key data.length).modTile s.cur (fun x => { x with stores := x.stores ++ [
      ⟨p.key, data, want && p.capst && !isHost p.key, p.repl, x.chord.isNone, x.runs, gen⟩] }))

/-- One atomic event on `n` bytes at an address (R125, R235): `old` is what they hold, `new` what is written there, if anything, and
`t` the state after it. In the scratchpad the core performs it. In translated memory its leaf needs W (R109), the core's own earlier
stores to the bytes have been performed by then (R121), and a line of host memory is granted for it (R134, log entry 48); in a
replicated page it takes its place in the sequencer's order after every stamped write (R105, R130). -/
def Rmw (s : State) (a n old : Nat) (new : Option Nat) (t : State) : Prop :=
  (∃ w off, locate a n = .scratch w off ∧ s.engineHoldsKey (scratchAt s.cur off) n true = false ∧
    s.isBad (scratchAt s.cur off) n = false ∧ old = s.readNat (scratchAt s.cur off) n ∧
    t = match new with
      | some x => (s.noted (scratchAt s.cur off) n).writeNat (scratchAt s.cur off) n x
      | none => s) ∨
  (∃ p v u, (locate a n = .virt ∨ locate a n = .expert) ∧ s.translateAt s.cur false a needW = .ok (p, v) ∧
    u = (if v.undrained s.cur (PStore.over p.key n) then v.drain s.cur (PStore.over p.key n) else v) ∧
    u.undrained s.cur (PStore.over p.key n) = false ∧ u.owned s.cur noXfer p.key n = false ∧
    u.mend s.cur 56 p.key n p.repl = u ∧ u.engineHoldsKey p.key n true = false ∧ u.isBad p.key n = false ∧
    ((p.repl = false ∧ old = u.readNat p.key n ∧
        t = match new with
          | some x => ((u.noted p.key n).hostTake p.key n).performAt p.key (leBytes n x) false
          | none => u.noted p.key n) ∨
      (p.repl = true ∧ old = (u.noted p.key n).settleWrites.readNat p.key n ∧
        t = match new with
          | some x => ((u.noted p.key n).settleWrites.stampWrite s.cur p.key (leBytes n x) false).settleWrites
          | none => (u.noted p.key n).settleWrites)))

/-- The outcome is that of an instruction of `len` bytes that has had no effect and takes a local trap with this report. -/
def Traps (o : Host.Outcome State Fault Refusal) (s : State) (r : TrapReport) (len : Nat) : Prop :=
  ∃ u, u.cur = s.cur ∧ OnlyCore s u ∧ u.here = s.here ∧ o = .next (takeTrap u s.cur r len)
/-- The outcome is that of an instruction that has had no effect but that the core now waits at it. -/
def Waits (o : Host.Outcome State Fault Refusal) (s : State) (w : WaitFor) : Prop :=
  ∃ t, o = .next t ∧ t.cur = s.cur ∧ OnlyCore s t ∧ t.here = { s.here with wait := t.here.wait } ∧ t.here.wait.map (·.on) = some w

/-- The two bytes of the first parcel at an address can be fetched through the pc capability (R191, R366 step 1), and `t` is
the state once the address is translated. -/
def Fetches (s : State) (a : Nat) (t : State) (bytes : List Byte) : Prop :=
  Grants s.here.pc a 2 Perm.exec 1 ∧ a + 2 ≤ Config.localBase ∧ a % 65536 + 2 ≤ 65536 ∧
    ∃ p, s.translateAt s.cur true a needX = .ok (p, t) ∧ Readable t p 2 ∧
      bytes = t.readAt p.key 2
/-- A target of JR, CALLR or RET: tagged, unsealed, with EXEC, bit 0 of ADDR clear (R222). -/
def Target (c : Reg) : Prop := c.tag = true ∧ c.otype = 0 ∧ c.has Perm.exec = true ∧ c.addr % 2 = 0

/-- From `s` to `t` nothing has changed but what a translation changes: one table entry, whose granule loses its tag and whose word
takes a new code (R106, R109, R388), the TLBs, and the free-value counter that their victims are drawn with (R111, R112). -/
def OnlyTables (s t : State) : Prop :=
  (∃ (mem : List Host.Cell) (tags bad cached : List Nat) (copies : List (Nat × Nat)) (free : Nat)
      (ctl : List (Nat × List TlbEntry)) (tiles : List (Nat × Tile)),
    t = { s with mem := mem, tags := tags, bad := bad, badCached := cached, badCopies := copies, free := free, clusterTlbs := ctl,
                 tiles := tiles }) ∧
  (∀ k, ∃ i d, t.tile k = { s.tile k with itlb := i, dtlb := d }) ∧
  (Memory.wf s.mem = true → Memory.wf t.mem = true ∧
    ∃ pte, (∀ x, x < pte ∨ pte + 8 ≤ x → Memory.get t.mem x = Memory.get s.mem x) ∧
      (∀ g, 16 * g + 16 ≤ pte ∨ pte + 8 ≤ 16 * g → tagGet t.tags g = tagGet s.tags g) ∧
      ∀ w, 8 * w + 8 ≤ pte ∨ pte + 8 ≤ 8 * w → (w ∈ t.bad ↔ w ∈ s.bad))

end Sys2Proof.Machine
end

