-- ==== Sys2Proof/Certificates/Slice0/Obligations.lean ====
section
/-! DEFINITION. The statements for the provers. -/

open Sys2Proof Sys2Proof.Machine

/-- Every instruction of R217 takes effect whenever its registers are ready: it writes the result of the table to wd with
tag 0 and changes nothing else. Majors 0x02 to 0x04 and 0x00 are of immediate class, major 0x01 is of deferred class. Division
by 0 gives all ones and its remainder gives a; neither traps. -/
def Obligations.IntegerArithmeticResults : Prop :=
  ∀ (s : State) (d a b : Fin 64) (sw : Bool),
    (Ready s [wr a, wr b, wr d] →
      Completes (.add d a b sw) s 4 (fun t => t.putX d (t.getX a + t.getX b)) ∧
      Completes (.sub d a b sw) s 4 (fun t => t.putX d (t.getX a - t.getX b)) ∧
      Completes (.and d a b sw) s 4 (fun t => t.putX d (t.getX a &&& t.getX b)) ∧
      Completes (.or d a b sw) s 4 (fun t => t.putX d (t.getX a ||| t.getX b)) ∧
      Completes (.xor d a b sw) s 4 (fun t => t.putX d (t.getX a ^^^ t.getX b)) ∧
      Completes (.andn d a b sw) s 4 (fun t => t.putX d (t.getX a &&& ~~~ t.getX b)) ∧
      Completes (.shl d a b sw) s 4 (fun t => t.putX d (t.getX a <<< ((t.getX b).toNat % 64))) ∧
      Completes (.shr d a b sw) s 4 (fun t => t.putX d (t.getX a >>> ((t.getX b).toNat % 64))) ∧
      Completes (.shra d a b sw) s 4 (fun t => t.putX d ((t.getX a).sshiftRight ((t.getX b).toNat % 64))) ∧
      Completes (.rot d a b sw) s 4 (fun t => t.putX d ((t.getX a).rotateRight ((t.getX b).toNat % 64))) ∧
      Completes (.min d a b sw) s 4 (fun t => t.putX d (if (t.getX b).toInt < (t.getX a).toInt then t.getX b else t.getX a)) ∧
      Completes (.max d a b sw) s 4 (fun t => t.putX d (if (t.getX a).toInt < (t.getX b).toInt then t.getX b else t.getX a)) ∧
      CompletesDeferred (.mul d a b sw) s [wr d] (fun t => t.putX d (t.getX a * t.getX b)) ∧
      CompletesDeferred (.mulh d a b sw) s [wr d]
        (fun t => t.putX d (BitVec.ofInt 64 ((t.getX a).toInt * (t.getX b).toInt / 2 ^ 64))) ∧
      CompletesDeferred (.mulhU d a b sw) s [wr d]
        (fun t => t.putX d (BitVec.ofNat 64 ((t.getX a).toNat * (t.getX b).toNat / 2 ^ 64))) ∧
      CompletesDeferred (.div d a b sw) s [wr d]
        (fun t => t.putX d (if t.getX b = 0 then BitVec.allOnes 64 else BitVec.ofInt 64 ((t.getX a).toInt.tdiv (t.getX b).toInt))) ∧
      CompletesDeferred (.divU d a b sw) s [wr d]
        (fun t => t.putX d (if t.getX b = 0 then BitVec.allOnes 64 else BitVec.ofNat 64 ((t.getX a).toNat / (t.getX b).toNat))) ∧
      CompletesDeferred (.rem d a b sw) s [wr d]
        (fun t => t.putX d (if t.getX b = 0 then t.getX a else BitVec.ofInt 64 ((t.getX a).toInt.tmod (t.getX b).toInt))) ∧
      CompletesDeferred (.remU d a b sw) s [wr d]
        (fun t => t.putX d (if t.getX b = 0 then t.getX a else BitVec.ofNat 64 ((t.getX a).toNat % (t.getX b).toNat)))) ∧
    (Ready s [wr a, wr d] →
      (∃ n : Tile → Nat, Completes (.clz d a sw) s 4 (fun t => t.putX d (BitVec.ofNat 64 (n t))) ∧
        ∀ t, n t ≤ 64 ∧ (t.getX a).toNat < 2 ^ (64 - n t) ∧ (n t < 64 → 2 ^ (63 - n t) ≤ (t.getX a).toNat)) ∧
      Completes (.popc d a sw) s 4
        (fun t => t.putX d (BitVec.ofNat 64 (((List.range 64).filter (fun i => (t.getX a).getLsbD i)).length))) ∧
      Completes (.mov d a sw) s 4 (fun t => t.putX d (t.getX a)) ∧
      ∀ imm : BitVec 11, Completes (.addi d a imm sw) s 4 (fun t => t.putX d (t.getX a + imm.signExtend 64))) ∧
    (Ready s [wr d] →
      (∀ imm : BitVec 17, Completes (.li d imm sw) s 4 (fun t => t.putX d (imm.signExtend 64))) ∧
      ∀ imm : BitVec 16, Completes (.lih d imm sw) s 4 (fun t => t.putX d ((t.getX d).setWidth 48 ++ imm)))

/-- Each compact integer form of R199 takes effect as the instruction it stands for, on w0 to w15, in two bytes. -/
def CompactIntegerForms : Prop :=
  ∀ (s : State) (d a : Fin 16) (imm : BitVec 5) (sw : Bool),
    (Ready s [wr (low d), wr (low a)] →
      Completes (.cAdd d a sw) s 2 (fun t => t.putX d (t.getX d + t.getX a)) ∧
      Completes (.cSub d a sw) s 2 (fun t => t.putX d (t.getX d - t.getX a)) ∧
      Completes (.cAnd d a sw) s 2 (fun t => t.putX d (t.getX d &&& t.getX a)) ∧
      Completes (.cOr d a sw) s 2 (fun t => t.putX d (t.getX d ||| t.getX a)) ∧
      Completes (.cXor d a sw) s 2 (fun t => t.putX d (t.getX d ^^^ t.getX a)) ∧
      Completes (.cShl d a sw) s 2 (fun t => t.putX d (t.getX d <<< ((t.getX a).toNat % 64))) ∧
      Completes (.cShr d a sw) s 2 (fun t => t.putX d (t.getX d >>> ((t.getX a).toNat % 64))) ∧
      Completes (.cMov d a sw) s 2 (fun t => t.putX d (t.getX a))) ∧
    (Ready s [wr (low d)] →
      Completes (.cAddi d imm sw) s 2 (fun t => t.putX d (t.getX d + imm.signExtend 64)) ∧
      Completes (.cLi d imm sw) s 2 (fun t => t.putX d (imm.signExtend 64)))

/-- Comparison, selection and predicate logic take effect whenever their registers are ready (R218). -/
def Obligations.PredicateResults : Prop :=
  ∀ (s : State) (sw : Bool),
    (∀ (p : Fin 8) (a b : Fin 64), Ready s [wr a, wr b, pr p] →
      Completes (.cmpEq p a b sw) s 4 (fun t => t.wp p (if t.getX a = t.getX b then BitVec.allOnes 64 else 0)) ∧
      Completes (.cmpNe p a b sw) s 4 (fun t => t.wp p (if t.getX a = t.getX b then 0 else BitVec.allOnes 64)) ∧
      Completes (.cmpLt p a b sw) s 4
        (fun t => t.wp p (if (t.getX a).toInt < (t.getX b).toInt then BitVec.allOnes 64 else 0)) ∧
      Completes (.cmpGe p a b sw) s 4
        (fun t => t.wp p (if (t.getX b).toInt ≤ (t.getX a).toInt then BitVec.allOnes 64 else 0)) ∧
      Completes (.cmpLtu p a b sw) s 4
        (fun t => t.wp p (if (t.getX a).toNat < (t.getX b).toNat then BitVec.allOnes 64 else 0)) ∧
      Completes (.cmpGeu p a b sw) s 4
        (fun t => t.wp p (if (t.getX b).toNat ≤ (t.getX a).toNat then BitVec.allOnes 64 else 0))) ∧
    (∀ (d a b : Fin 64) (k : Fin 8), Ready s [wr a, wr b, pr k, wr d] →
      Completes (.sel d a b k sw) s 4 (fun t => t.putX d (if (t.rp k).getLsbD 0 then t.getX a else t.getX b))) ∧
    ∀ d a b : Fin 8, Ready s [pr a, pr b, pr d] →
      Completes (.pand d a b sw) s 4 (fun t => t.wp d (t.rp a &&& t.rp b)) ∧
      Completes (.por d a b sw) s 4 (fun t => t.wp d (t.rp a ||| t.rp b)) ∧
      Completes (.pxor d a b sw) s 4 (fun t => t.wp d (t.rp a ^^^ t.rp b)) ∧
      Completes (.pnot d a sw) s 4 (fun t => t.wp d (~~~ t.rp a))

/-- `c` is `ca` with another tag, OTYPE and PERMS: the bounds' fields and the address are kept. -/
def SameRange (c ca : Reg) : Prop := c.lo = ca.lo ∧ c.t = ca.t ∧ c.b = ca.b ∧ c.e = ca.e

/-- The capability instructions of R219 take effect whenever their registers are ready, with the results of the table;
CSETB and CDERIVE have statements of their own. -/
def Obligations.CapabilityResults : Prop :=
  ∀ (s : State) (d a b : Fin 64) (sw : Bool),
    (Ready s [wr a, wr d] →
      Completes (.cgetb d a sw) s 4 (fun t => t.putX d (BitVec.ofInt 64 (capBounds (t.getW a)).1)) ∧
      Completes (.cgetl d a sw) s 4 (fun t => t.putX d
        (if (capBounds (t.getW a)).2 - (capBounds (t.getW a)).1 = 2 ^ 64 then BitVec.allOnes 64
         else BitVec.ofInt 64 ((capBounds (t.getW a)).2 - (capBounds (t.getW a)).1))) ∧
      Completes (.ctag d a sw) s 4 (fun t => t.putX d
        (BitVec.ofNat 64 ((t.getW a).tag.toNat + (t.getW a).perms * 2 ^ 8 + (t.getW a).otype * 2 ^ 24))) ∧
      Completes (.cclr d a sw) s 4 (fun t => t.putW d { t.getW a with tag := false })) ∧
    (Ready s [wr a, wr b, wr d] →
      (∃ r : Tile → Reg, Completes (.candp d a b sw) s 4 (fun t => t.putW d (r t)) ∧
        ∀ t, SameRange (r t) (t.getW a) ∧ (r t).otype = (t.getW a).otype ∧
          (r t).perms = (t.getW a).perms &&& (t.getX b).toNat % 2 ^ 16 ∧
          ((r t).tag = true ↔ (t.getW a).tag = true ∧ (t.getW a).otype = 0)) ∧
      (∃ r : Tile → Reg, Completes (.cseal d a b sw) s 4 (fun t => t.putW d (r t)) ∧
        ∀ t, SameRange (r t) (t.getW a) ∧ (r t).otype = (t.getX b).toNat % 2 ^ 8 ∧ (r t).perms = (t.getW a).perms ∧
          ((r t).tag = true ↔ (t.getW a).tag = true ∧ (t.getW a).otype = 0 ∧ (t.getW b).tag = true ∧ (t.getW b).otype = 0 ∧
            (t.getW b).has Perm.sealing = true ∧ (capBounds (t.getW b)).1 ≤ (t.getX b).toNat ∧
            ((t.getX b).toNat : Int) < (capBounds (t.getW b)).2 ∧ 1 ≤ (t.getX b).toNat ∧ (t.getX b).toNat ≤ 255)) ∧
      (∃ r : Tile → Reg, Completes (.cunseal d a b sw) s 4 (fun t => t.putW d (r t)) ∧
        ∀ t, SameRange (r t) (t.getW a) ∧ (r t).otype = 0 ∧
          (∀ m, m ≠ Perm.global → (∃ i : Fin 16, m = 2 ^ i.val) → (r t).has m = (t.getW a).has m) ∧
          ((r t).has Perm.global = true ↔ (t.getW a).has Perm.global = true ∧ (t.getW b).has Perm.global = true) ∧
          ((r t).tag = true ↔ (t.getW a).tag = true ∧ (t.getW a).otype ≠ 0 ∧ (t.getW b).tag = true ∧ (t.getW b).otype = 0 ∧
            (t.getW b).has Perm.unsealing = true ∧ (capBounds (t.getW b)).1 ≤ (t.getX b).toNat ∧
            ((t.getX b).toNat : Int) < (capBounds (t.getW b)).2 ∧ (t.getX b).toNat = (t.getW a).otype)) ∧
      (∃ r : Tile → Reg, Completes (.cadd d a b sw) s 4 (fun t => t.putW d (r t)) ∧
        ∀ t, (r t).hi = (t.getW a).hi ∧ (r t).lo = t.getX a + t.getX b ∧
          ((r t).tag = true ↔ (t.getW a).tag = true ∧
            (t.getX b = 0 ∨ (t.getW a).otype = 0 ∧
              (capBounds (t.getW a)).1 - 2 ^ ((t.getW a).e + 15) ≤ (t.getX a + t.getX b).toNat ∧
              ((t.getX a + t.getX b).toNat : Int) < (capBounds (t.getW a)).1 + 2 ^ ((t.getW a).e + 16) + 2 ^ ((t.getW a).e + 15)))) ∧
      Completes (.ceq d a b sw) s 4 (fun t => t.putX d (if t.getW a = t.getW b then 1 else 0)))

/-- CDERIVE takes effect whenever its registers are ready: all 128 bits of the second operand, with tag 1 only under the
conditions of R221. -/
def Obligations.DerivedCapabilityTag : Prop :=
  ∀ (s : State) (d a b : Fin 64) (sw : Bool), Ready s [wr a, wr b, wr d] →
    ∃ g : Tile → Bool, Completes (.cderive d a b sw) s 4 (fun t => t.putW d { t.getW b with tag := g t }) ∧
      ∀ t, g t = true ↔ (t.getW a).tag = true ∧ (t.getW a).otype = 0 ∧
        (t.getW b).otype = 0 ∧ (t.getW b).perms / 2 ^ 12 = 0 ∧ (t.getW b).e ≤ 48 ∧
        (capBounds (t.getW a)).1 ≤ (capBounds (t.getW b)).1 ∧ (capBounds (t.getW b)).1 ≤ (capBounds (t.getW b)).2 ∧
        (capBounds (t.getW b)).2 ≤ (capBounds (t.getW a)).2 ∧ (t.getW b).perms &&& (t.getW a).perms = (t.getW b).perms

/-- Addresses below `hi` rounded up to a multiple of 2^e. -/
def roundUp (e hi : Nat) : Nat := (hi + 2 ^ e - 1) / 2 ^ e * 2 ^ e
/-- `lo` rounded down to a multiple of 2^e. -/
def roundDown (e lo : Nat) : Nat := lo / 2 ^ e * 2 ^ e

/-- CSETB takes effect whenever its registers are ready (R220): its exponent is the least at which the outward rounded range
fits in 2^(E + 16), or 48; its fields are those of the rounded range, its tag is kept only for a range within ca, and where
the range fits and ends at or below 2^64 the bounds of the result are exactly the rounded range. -/
def Obligations.SetBoundsResult : Prop :=
  ∀ (s : State) (d a b : Fin 64) (sw : Bool), Ready s [wr a, wr b, wr d] →
    ∃ r : Tile → Reg, Completes (.csetb d a b sw) s 4 (fun t => t.putW d (r t)) ∧
      ∀ t, ∃ e : Nat, e ≤ 48 ∧
        (∀ e', e' < e → 2 ^ (e' + 16) < roundUp e' ((t.getX a).toNat + (t.getX b).toNat) - roundDown e' (t.getX a).toNat) ∧
        (e < 48 → roundUp e ((t.getX a).toNat + (t.getX b).toNat) - roundDown e (t.getX a).toNat ≤ 2 ^ (e + 16)) ∧
        (r t).lo = t.getX a ∧ (r t).otype = (t.getW a).otype ∧ (r t).perms = (t.getW a).perms ∧ (r t).e = e ∧
        (r t).b = roundDown e (t.getX a).toNat / 2 ^ e % 2 ^ 17 ∧
        (r t).t = roundUp e ((t.getX a).toNat + (t.getX b).toNat) / 2 ^ e % 2 ^ 17 ∧
        ((r t).tag = true ↔ (t.getW a).tag = true ∧ (t.getW a).otype = 0 ∧
          (capBounds (t.getW a)).1 ≤ roundDown e (t.getX a).toNat ∧
          (roundUp e ((t.getX a).toNat + (t.getX b).toNat) : Int) ≤ (capBounds (t.getW a)).2 ∧
          roundUp e ((t.getX a).toNat + (t.getX b).toNat) ≤ 2 ^ 64) ∧
        (roundUp e ((t.getX a).toNat + (t.getX b).toNat) - roundDown e (t.getX a).toNat ≤ 2 ^ (e + 16) →
          capBounds (r t) = ((roundDown e (t.getX a).toNat : Int), (roundUp e ((t.getX a).toNat + (t.getX b).toNat) : Int)))

/-- B, J, JR and NOP take effect whenever their registers are ready and they do not stand at a loop's END (R222): B branches
when its predicate XOR NEG is 1 and falls through otherwise, J always branches, JR continues at the capability in wa; the
compact B always branches, since p0 reads as all ones. NOP does nothing, at END too. -/
def Obligations.BranchesAndJumps : Prop :=
  ∀ (s : State) (sw : Bool),
    (NotAtEnd s →
      (∀ (k : Fin 8) (n : Bool) (off : BitVec 19), Ready s [pr k] →
        ((s.here.rp k).getLsbD 0 ≠ n → Jumps (exec (.b k n off sw) s) s (capAdd s.here.pc (2 * off.toInt)) (fun t => t)) ∧
        ((s.here.rp k).getLsbD 0 = n → Completes (.b k n off sw) s 4 (fun t => t))) ∧
      (∀ off : BitVec 9, Ready s [pr 0] → Jumps (exec (.cB off sw) s) s (capAdd s.here.pc (2 * off.toInt)) (fun t => t)) ∧
      (∀ off : BitVec 23, Jumps (exec (.j off sw) s) s (capAdd s.here.pc (2 * off.toInt)) (fun t => t)) ∧
      (∀ a : Fin 64, Ready s [wr a] → Target (s.here.getW a) → Jumps (exec (.jr a sw) s) s (s.here.getW a) (fun t => t)) ∧
      ∀ a : Fin 16, Ready s [wr (low a)] → Target (s.here.getW a) → Jumps (exec (.cJr a sw) s) s (s.here.getW a) (fun t => t)) ∧
    Completes (.nop sw) s 4 (fun t => t) ∧ Completes (.cNop sw) s 2 (fun t => t)

/-- A push of the return capability `c` (R67): appended to the return store, or, when 16 entries are held, after the oldest
entry has been written as a tagged capability at RSPILL.ADDR + 16 × RSCNT, once the engine work of the task has retired (R122).
`t` is the state after the spill's store. -/
def Pushes (s : State) (t : State) (c : Reg) (f : Tile → Tile) : Prop :=
  (s.here.rets.length < 16 ∧ t = s ∧ f = fun u => { u with rets := u.rets ++ [c] }) ∨
  (∃ o rest, s.here.rets = o :: rest ∧ 16 ≤ s.here.rets.length ∧
    Grants s.here.rspill (addrAdd s.here.rspill.addr (16 * s.here.rscnt : Nat)) 16 (Perm.store + Perm.storeCap) 16 ∧
    (o.tag = true → o.has Perm.global = true ∨ s.here.rspill.has Perm.storeLocal = true) ∧
    Stores s.engineDone (addrAdd s.here.rspill.addr (16 * s.here.rscnt : Nat)) o.bytes none o.tag t ∧
    f = fun u => { u with rets := rest ++ [c], rscnt := (s.here.rscnt + 1) % 2 ^ 32 })
/-- A pop of the return entry `c` (R67): the newest of the return store, or, when it is empty, the entry that is loaded from
RSPILL.ADDR + 16 × (RSCNT − 1), once the engine work of the task has retired (R122). `t` is the state after the fill's load. -/
def Pops (s : State) (t : State) (c : Reg) (f : Tile → Tile) : Prop :=
  (s.here.rets.getLast? = some c ∧ t = s ∧ f = fun u => { u with rets := u.rets.dropLast }) ∨
  (s.here.rets = [] ∧ s.here.rscnt ≠ 0 ∧
    Grants s.here.rspill (addrAdd s.here.rspill.addr (16 * (s.here.rscnt - 1) : Nat)) 16 (Perm.load + Perm.loadCap) 16 ∧
    (∃ b g, Loads s.engineDone (addrAdd s.here.rspill.addr (16 * (s.here.rscnt - 1) : Nat)) 16 false t b g ∧ c = Reg.ofBytes g b) ∧
    f = fun u => { u with rscnt := s.here.rscnt - 1 })

/-- CALL, CALLR and RET take effect whenever their operands are ready and they do not stand at a loop's END (R67, R222): a
call pushes the address after itself under the pc capability, spilling the oldest entry of a full store; RET continues at the
newest entry, filled from RSPILL when the store is empty. -/
def Obligations.CallsAndReturns : Prop :=
  ∀ (s t : State) (sw : Bool) (f : Tile → Tile), NotAtEnd s →
    (Pushes s t (capAdd s.here.pc 4) f →
      (∀ off : BitVec 23, Jumps (exec (.call off sw) s) t (capAdd s.here.pc (2 * off.toInt)) f) ∧
      ∀ a : Fin 64, Ready s [wr a] → Target (s.here.getW a) → Jumps (exec (.callr a sw) s) t (s.here.getW a) f) ∧
    (Pushes s t (capAdd s.here.pc 2) f → ∀ a : Fin 16, Ready s [wr (low a)] → Target (s.here.getW a) →
      Jumps (exec (.cCallr a sw) s) t (s.here.getW a) f) ∧
    (∀ c, Pops s t c f → Target c → Jumps (exec (.ret sw) s) t c f ∧ Jumps (exec (.cRet sw) s) t c f)

/-- LOOP with a nonzero count pushes a level and goes on; with a count of 0 it continues after the instruction at END, whose
length its first parcel gives. LBREAK pops the top level and continues after the instruction at that level's END (R224,
R226). -/
def LoopInstructions : Prop :=
  ∀ (s t : State) (sw : Bool) (b : List Byte), NotAtEnd s →
    (∀ (a : Fin 64) (imm : BitVec 11), Ready s [wr a] → s.here.loops.length < 4 → 2 ≤ imm.toNat →
      ((s.here.getX a).toNat % 2 ^ 32 ≠ 0 →
        ∃ u, exec (.loop a imm sw) s = .next u ∧ OnlyCore s u ∧ u.here.pc.addr = (s.here.pc.addr + 4) % 2 ^ 64 ∧
          u.here.loops = ⟨s.here.pc.addr + 4, s.here.pc.addr + 2 * imm.toNat, (s.here.getX a).toNat % 2 ^ 32⟩ :: s.here.loops ∧
          u.here = s.here.withFlow u.here) ∧
      ((s.here.getX a).toNat % 2 ^ 32 = 0 → Fetches s (s.here.pc.addr + 2 * imm.toNat) t b →
        Jumps (exec (.loop a imm sw) s) t
          (capAdd s.here.pc ((2 * imm.toNat + (if leNat b % 4 = 3 then 4 else 2) : Nat) : Int)) (fun x => x))) ∧
    (∀ (l : LoopLevel) (r : List LoopLevel), s.here.loops = l :: r → Fetches s l.stop t b →
      ∃ u, exec (.lbreak sw) s = .next u ∧ OnlyCore t u ∧ u.here.loops = r ∧
        u.here.pc = capAdd s.here.pc ((l.stop : Int) + ((if leNat b % 4 = 3 then 4 else 2 : Nat) : Int) - s.here.pc.addr) ∧
        u.here = t.here.withFlow u.here)

/-- The turn-back of R66 and R225: an instruction at END of the top level whose COUNT is more than 1 continues at START with
COUNT one less; a level with COUNT 1 is popped, and the next level is compared with the same instruction. NOP, which does
nothing else, shows it. -/
def LoopTurnBack : Prop :=
  ∀ (s : State) (l : LoopLevel) (r : List LoopLevel) (sw : Bool), s.here.loops = l :: r →
    ∃ t, exec (.nop sw) s = .next t ∧
      (l.stop ≠ s.here.pc.addr → t.here.loops = l :: r ∧ t.here.pc = capAdd s.here.pc 4) ∧
      (l.stop = s.here.pc.addr → 1 < l.count →
        t.here.loops = { l with count := l.count - 1 } :: r ∧ t.here.pc = capAdd s.here.pc ((l.start : Int) - s.here.pc.addr) ∧
          t.here.runPos = 0) ∧
      (l.stop = s.here.pc.addr → l.count ≤ 1 →
        ∃ u, exec (.nop sw) { s with tiles := keySet s.tiles s.cur { s.here with loops := r } } = .next u ∧
          t.here.loops = u.here.loops ∧ t.here.pc = u.here.pc)

/-- Hardware loops: LOOP and LBREAK, and the turn-back at the end of a level (R66, R224 to R226). -/
def Obligations.LoopResults : Prop := LoopInstructions ∧ LoopTurnBack

/-- Loads of 1, 2, 4 and 8 bytes take effect in every addressing mode once the engine work of the task has retired, whenever their
registers are ready, a base update does not name its base as RT, and the capability grants the bytes at the address that EA
gives (R198, R227): the base register is updated and RT takes the bytes zero- or sign-extended; RT is pending until the run
ends.
The model's own choices that it rests on: log entry 37. -/
def Obligations.LoadResults : Prop :=
  ∀ (o s t : State) (d : Fin 64) (m : Mem) (sw : Bool) (b : List Byte) (g : Bool), s = o.engineDone → Ready s (Mem.reads m ++ [wr d]) →
    ¬ (Mem.updates m = true ∧ d = Mem.rb m) →
    (∀ z : Fin 4, Grants (s.here.ea (2 ^ z.val) z m).cap (s.here.ea (2 ^ z.val) z m).addr (2 ^ z.val) Perm.load (2 ^ z.val) →
      Loads s (s.here.ea (2 ^ z.val) z m).addr (2 ^ z.val) false t b g →
      Through (exec (.ld d z m sw) o) t 4 (results [wr d])
        (fun u => (u.based m (s.here.ea (2 ^ z.val) z m)).putX d (BitVec.ofNat 64 (leNat b)))) ∧
    (Grants (s.here.ea 1 0 m).cap (s.here.ea 1 0 m).addr 1 Perm.load 1 → Loads s (s.here.ea 1 0 m).addr 1 false t b g →
      Through (exec (.ldSb d m sw) o) t 4 (results [wr d])
        (fun u => (u.based m (s.here.ea 1 0 m)).putX d ((BitVec.ofNat 8 (leNat b)).signExtend 64))) ∧
    (Grants (s.here.ea 2 1 m).cap (s.here.ea 2 1 m).addr 2 Perm.load 2 → Loads s (s.here.ea 2 1 m).addr 2 false t b g →
      Through (exec (.ldSh d m sw) o) t 4 (results [wr d])
        (fun u => (u.based m (s.here.ea 2 1 m)).putX d ((BitVec.ofNat 16 (leNat b)).signExtend 64))) ∧
    (Grants (s.here.ea 4 2 m).cap (s.here.ea 4 2 m).addr 4 Perm.load 4 → Loads s (s.here.ea 4 2 m).addr 4 false t b g →
      Through (exec (.ldSw d m sw) o) t 4 (results [wr d])
        (fun u => (u.based m (s.here.ea 4 2 m)).putX d ((BitVec.ofNat 32 (leNat b)).signExtend 64))) ∧
    (Grants (s.here.ea 16 4 m).cap (s.here.ea 16 4 m).addr 16 Perm.load 16 → Loads s (s.here.ea 16 4 m).addr 16 false t b g →
      Through (exec (.ldc d m sw) o) t 4 (results [wr d])
        (fun u => (u.based m (s.here.ea 16 4 m)).putW d (Reg.ofBytes (g && (s.here.ea 16 4 m).cap.has Perm.loadCap) b)))

/-- Stores of 1, 2, 4 and 8 bytes and of a capability take effect in every addressing mode once the engine work of the
task has retired, whenever their registers are ready and the capability grants the bytes at the address that EA gives (R198, R227,
R228): the low bytes of RT, or all its 128 bits with its tag, are stored there and the base register is updated.
The model's own choices that it rests on: log entry 37. -/
def Obligations.StoreResults : Prop :=
  ∀ (o s t : State) (r : Fin 64) (m : Mem) (sw : Bool), s = o.engineDone → Ready s (wr r :: Mem.reads m) →
    (∀ z : Fin 4, Grants (s.here.ea (2 ^ z.val) z m).cap (s.here.ea (2 ^ z.val) z m).addr (2 ^ z.val) Perm.store (2 ^ z.val) →
      Stores s (s.here.ea (2 ^ z.val) z m).addr (leBytes (2 ^ z.val) (s.here.getX r).toNat) none false t →
      Through (exec (.st r z m sw) o) t 4 [] (fun u => u.based m (s.here.ea (2 ^ z.val) z m))) ∧
    (Grants (s.here.ea 16 4 m).cap (s.here.ea 16 4 m).addr 16 Perm.store 16 →
      ((s.here.getW r).tag = true → (s.here.ea 16 4 m).cap.has Perm.storeCap = true ∧
        ((s.here.getW r).has Perm.global = true ∨ (s.here.ea 16 4 m).cap.has Perm.storeLocal = true)) →
      Stores s (s.here.ea 16 4 m).addr (s.here.getW r).bytes none (s.here.getW r).tag t →
      Through (exec (.stc r m sw) o) t 4 [] (fun u => u.based m (s.here.ea 16 4 m)))

/-- Each compact load and store of R199 takes effect as the instruction it stands for, in two bytes, with [rb + 0] or with
[rb]+=8. -/
def CompactLoadStoreForms : Prop :=
  ∀ (o s t : State) (r rb : Fin 16) (sw : Bool) (b : List Byte) (g : Bool), s = o.engineDone → Ready s [wr (low r), wr (low rb)] →
    (Grants (s.here.getW rb) (s.here.getW rb).addr 8 Perm.load 8 → Loads s (s.here.getW rb).addr 8 false t b g →
      Through (exec (.cLd r rb sw) o) t 2 (results [wr (low r)]) (fun u => u.putX r (BitVec.ofNat 64 (leNat b))) ∧
      (r ≠ rb → Through (exec (.cLdPost r rb sw) o) t 2 (results [wr (low r)])
        (fun u => (u.putW rb (baseTo (u.getW rb) (addrAdd (u.getW rb).addr 8))).putX r (BitVec.ofNat 64 (leNat b))))) ∧
    (Grants (s.here.getW rb) (s.here.getW rb).addr 4 Perm.load 4 → Loads s (s.here.getW rb).addr 4 false t b g →
      Through (exec (.cLdW r rb sw) o) t 2 (results [wr (low r)]) (fun u => u.putX r (BitVec.ofNat 64 (leNat b)))) ∧
    (Grants (s.here.getW rb) (s.here.getW rb).addr 16 Perm.load 16 → Loads s (s.here.getW rb).addr 16 false t b g →
      Through (exec (.cLdc r rb sw) o) t 2 (results [wr (low r)])
        (fun u => u.putW r (Reg.ofBytes (g && (s.here.getW rb).has Perm.loadCap) b))) ∧
    (Grants (s.here.getW rb) (s.here.getW rb).addr 8 Perm.store 8 →
      Stores s (s.here.getW rb).addr (leBytes 8 (s.here.getX r).toNat) none false t →
      Through (exec (.cSt r rb sw) o) t 2 [] (fun u => u) ∧
      Through (exec (.cStPost r rb sw) o) t 2 []
        (fun u => u.putW rb (baseTo (u.getW rb) (addrAdd (u.getW rb).addr 8)))) ∧
    (Grants (s.here.getW rb) (s.here.getW rb).addr 4 Perm.store 4 →
      Stores s (s.here.getW rb).addr (leBytes 4 (s.here.getX r).toNat) none false t →
      Through (exec (.cStW r rb sw) o) t 2 [] (fun u => u)) ∧
    (Grants (s.here.getW rb) (s.here.getW rb).addr 16 Perm.store 16 →
      ((s.here.getW r).tag = true → (s.here.getW rb).has Perm.storeCap = true ∧
        ((s.here.getW r).has Perm.global = true ∨ (s.here.getW rb).has Perm.storeLocal = true)) →
      Stores s (s.here.getW rb).addr (s.here.getW r).bytes none (s.here.getW r).tag t →
      Through (exec (.cStc r rb sw) o) t 2 [] (fun u => u))

/-- The compact forms of R199: each takes effect as the instruction it stands for. -/
def Obligations.CompactForms : Prop := CompactIntegerForms ∧ CompactLoadStoreForms

/-- What a store leaves of memory (R106, R118, R122): in the scratchpad exactly the bytes stored change, at the address that the
store computes, and they read back; every granule it touches loses its tag but one that the store tags. A store elsewhere
waits in the store buffer: of memory only one table entry, whose A and D bits are set, may differ. What the bytes held before is
kept beside the task's generators and nowhere else (R238). -/
def StoredBytesFrame : Prop :=
  ∀ (s t : State) (a : Nat) (d : List Byte) (gen : Option Nat) (want : Bool), Memory.wf s.mem = true → Stores s a d gen want t →
    (∃ w off, locate a d.length = .scratch w off ∧ t.readAt (scratchAt s.cur off) d.length = d ∧
      (∀ x, x < scratchAt s.cur off ∨ scratchAt s.cur off + d.length ≤ x → Memory.get t.mem x = Memory.get s.mem x) ∧
      (∀ n, 16 * n + 16 ≤ scratchAt s.cur off ∨ scratchAt s.cur off + d.length ≤ 16 * n → tagGet t.tags n = tagGet s.tags n ∨
        n = scratchAt s.cur off / 16) ∧ t.tiles = (s.noted (scratchAt s.cur off) d.length).tiles) ∨
    (∃ off, locate a d.length = .info off ∧ t = s) ∨
    (∃ u st, OnlyTables s u ∧
      t = (u.noted st.key d.length).modTile s.cur (fun x => { x with stores := x.stores ++ [st] }) ∧ st.data = d ∧
      t.mem = u.mem ∧ t.tags = u.tags)

/-- A translation that succeeds changes nothing but the A and D bits of one table entry, the TLBs, and the free-value counter
(R111, R112). -/
def TranslationFrame : Prop :=
  ∀ (s t : State) (k va need : Nat) (inst : Bool) (p : Phys), s.translateAt k inst va need = .ok (p, t) → OnlyTables s t

/-- What a store and a translation leave unchanged in memory (R100, R111, R118).
The model's own choices that it rests on: log entries 3 and 37. -/
def Obligations.MemoryFrame : Prop := StoredBytesFrame ∧ TranslationFrame

/-- LDF and STF take effect once the engine work of the task has retired, whenever their registers are ready, their address lies
in a window and the capability grants the window's element there (R229): LDF writes the element as R229 gives it, STF stores
it encoded by FCTL.RM. `q` is the scale byte of an MX window's block, 127 elsewhere. -/
def ElementLoadsAndStores : Prop :=
  ∀ (o s t : State) (r : Fin 64) (m : Mem) (sw : Bool) (w off q : Nat), s = o.engineDone → Ready s (wr r :: Mem.reads m) →
    windowAt (s.here.ea 1 0 m).addr 1 = some (w, off) →
    (isMx w = false → q = 127) →
    (isMx w = true → scaleOff (s.here.soff w) w off 0 < Config.scratchBytes ∧
      s.isBad (scratchAt s.cur (scaleOff (s.here.soff w) w off 0)) 1 = false ∧
      s.engineHoldsKey (scratchAt s.cur (scaleOff (s.here.soff w) w off 0)) 1 false = false ∧
      q = s.readNat (scratchAt s.cur (scaleOff (s.here.soff w) w off 0)) 1) →
    (∀ b g, ¬ (Mem.updates m = true ∧ r = Mem.rb m) →
      Grants (s.here.ea 1 0 m).cap (s.here.ea 1 0 m).addr (elemBytes w) Perm.load (elemBytes w) →
      Loads s (s.here.ea 1 0 m).addr (elemBytes w) false t b g →
      Through (exec (.ldf r m sw) o) t 4 (results [wr r])
        (fun u => (u.based m (s.here.ea 1 0 m)).putX r (ldfValue s.here w (leNat b) q)) ∧
      (winKind w = .raw → ldfValue s.here w (leNat b) q = BitVec.ofNat 64 (leNat b)) ∧
      (∀ n, winKind w = .int n true → ldfValue s.here w (leNat b) q = BitVec.ofInt 64 (sext (leNat b) n))) ∧
    (Grants (s.here.ea 1 0 m).cap (s.here.ea 1 0 m).addr (elemBytes w) Perm.store (elemBytes w) →
      (w = 12 → s.here.ordered = true) →
      Stores s (s.here.ea 1 0 m).addr (stfBytes s.here w q (rmOf s.here.fctl) (s.here.getX r)) none false t →
      Through (exec (.stf r m sw) o) t 4 [] (fun u => u.based m (s.here.ea 1 0 m)))

/-- PREF takes effect whenever its registers are ready, at any address: it updates the base and changes nothing else but what a
translation changes; what it checks or walks is left open (R230). -/
def PrefetchResult : Prop :=
  ∀ (s : State) (m : Mem) (sw : Bool), Ready s (Mem.reads m) →
    ∃ u t, exec (.pref m sw) s = .next t ∧ OnlyTables (s.modTile s.cur (fun x => x.based m (s.here.ea 1 0 m))) u ∧
      Effect u t (fun x => x) ∧ t.here.pc = s.here.after 4

/-- LDF, STF and PREF (R229, R230).
The model's own choices that it rests on: log entries 7, 13, 37 and 49. -/
def Obligations.ElementAccesses : Prop := ElementLoadsAndStores ∧ PrefetchResult

/-- LDF, STF and PREF complete (R81, R98, R229, R230): with no engine instruction under way and its registers ready, PREF does at any
address, and LDF and STF do at every element of a window that is backed, whose capability grants it and whose words, those of its scale
byte too, are correct; STF through W12 needs the ordered flag. Then LDF's register holds the element's value, STF's element the
register's, and execution goes on after the instruction. -/
def Obligations.ElementAccessesComplete : Prop :=
  ∀ (s : State) (r : Fin 64) (m : Mem) (sw : Bool) (w off so q : Nat), s.here.eng = [] →
    (Ready s (Mem.reads m) → ∃ t, exec (.pref m sw) s = .next t ∧ t.here.pc = s.here.after 4 ∧
      ∀ n : Fin 64, t.here.getW n = (s.here.based m (s.here.ea 1 0 m)).getW n) ∧
    (Ready s (wr r :: Mem.reads m) → windowOf (s.here.ea 1 0 m).addr = some (w, off) → off + elemBytes w ≤ Config.scratchBytes →
      so = scaleOff (s.here.soff w) w off 0 → (isMx w = true → so < Config.scratchBytes ∧ s.isBad (scratchAt s.cur so) 1 = false) →
      q = (if isMx w then s.readNat (scratchAt s.cur so) 1 else 127) →
      (¬ (Mem.updates m = true ∧ r = Mem.rb m) → s.isBad (scratchAt s.cur off) (elemBytes w) = false →
        Grants (s.here.ea 1 0 m).cap (s.here.ea 1 0 m).addr (elemBytes w) Perm.load (elemBytes w) →
        ∃ t, exec (.ldf r m sw) s = .next t ∧ t.here.pc = s.here.after 4 ∧
          t.here.getX r = if r = 0 then 0 else ldfValue s.here w (s.readNat (scratchAt s.cur off) (elemBytes w)) q) ∧
      (Grants (s.here.ea 1 0 m).cap (s.here.ea 1 0 m).addr (elemBytes w) Perm.store (elemBytes w) → (w = 12 → s.here.ordered = true) →
        s.badPartial (scratchAt s.cur off) (elemBytes w) = false →
        ∃ t, exec (.stf r m sw) s = .next t ∧ t.here.pc = s.here.after 4 ∧
          (s.Inv → t.readAt (scratchAt s.cur off) (elemBytes w) = stfBytes s.here w q (rmOf s.here.fctl) (s.here.getX r))))

/-- How far one step of REP.COPY.D in pairs goes: a REP carries tags if it began with both addresses multiples of 16 (R231). -/
def carries (s : State) (z : Fin 4) (a d : Fin 64) : Bool :=
  match s.here.rep with
  | some (_, g) => g
  | none => decide (z = 3 ∧ (s.here.getW d).addr % 16 = 0 ∧ (s.here.getW a).addr % 16 = 0)

/-- REP with its three registers ready, distinct, and S set (R231, R232, R374): with count 0 it is through; otherwise it moves one
element, or a granule with its tag, advances the pointers by CADD and counts down, and is through when the count is 0, else
goes on at itself with a run of its own. `n` is how many bytes and `k` how many elements are moved.
The model's own choices that it rests on: log entries 20 and 37. -/
def Obligations.RepeatedMoves : Prop :=
  ∀ (o s t : State) (d a c : Fin 64) (z : Fin 4) (n k : Nat) (sw : Bool), s = o.engineDone → Ready s [wr d, wr a, wr c] →
    sw = true → d ≠ c →
    ((s.here.getX c).toNat = 0 →
      (a ≠ d → a ≠ c → Through (exec (.repCopy d a c z sw) o) s 4 (results [wr d, wr a, wr c]) (fun u => u)) ∧
      Through (exec (.repFill d a c z sw) o) s 4 (results [wr d, wr c]) (fun u => u)) ∧
    ((s.here.getX c).toNat ≠ 0 → k ≤ (s.here.getX c).toNat →
      (∀ v b g, a ≠ d → a ≠ c →
        (carries s z a d = true → 2 ≤ (s.here.getX c).toNat → k = 2 ∧ n = 16) →
        (carries s z a d = false ∨ (s.here.getX c).toNat = 1 → k = 1 ∧ n = 2 ^ z.val) →
        Grants (s.here.getW a) (s.here.getW a).addr n Perm.load n → Grants (s.here.getW d) (s.here.getW d).addr n Perm.store n →
        Loads s (s.here.getW a).addr n false v b g →
        Stores v (s.here.getW d).addr b none
          (decide (k = 2) && g && (s.here.getW a).has Perm.loadCap &&
            mayStoreCap (s.here.getW d) (Reg.ofBytes (g && (s.here.getW a).has Perm.loadCap) b)) t →
        ∃ u, exec (.repCopy d a c z sw) o = .next u ∧
          Effect t u (fun x => ((x.putW d (capAdd (s.here.getW d) (k * 2 ^ z.val : Nat))).putW a
            (capAdd (s.here.getW a) (k * 2 ^ z.val : Nat))).putX c (s.here.getX c - BitVec.ofNat 64 k)) ∧
          ((s.here.getX c).toNat = k → u.here.pc = t.here.after 4 ∧ u.here.rep = none) ∧
          ((s.here.getX c).toNat ≠ k → u.here.pc = s.here.pc ∧ u.here.rep.isSome = true ∧ u.here.runPos = 0)) ∧
      (k = 1 → n = 2 ^ z.val → Grants (s.here.getW d) (s.here.getW d).addr n Perm.store n →
        Stores s (s.here.getW d).addr (leBytes n (s.here.getX a).toNat) none false t →
        ∃ u, exec (.repFill d a c z sw) o = .next u ∧
          Effect t u (fun x => (x.putW d (capAdd (s.here.getW d) n)).putX c (s.here.getX c - 1)) ∧
          ((s.here.getX c).toNat = 1 → u.here.pc = t.here.after 4 ∧ u.here.rep = none) ∧
          ((s.here.getX c).toNat ≠ 1 → u.here.pc = s.here.pc ∧ u.here.rep.isSome = true ∧ u.here.runPos = 0)))

/-- The acquire load of 2^`z` bytes. -/
def acquireOf (z : Fin 4) (d b : Fin 64) (sc : Scope) (sw : Bool) : Instr :=
  match z with
  | 0 => .ldAqB d b sc sw
  | 1 => .ldAqH d b sc sw
  | 2 => .ldAqW d b sc sw
  | 3 => .ldAq d b sc sw
/-- The release store of 2^`z` bytes. -/
def releaseOf (z : Fin 4) (r b : Fin 64) (sc : Scope) (sw : Bool) : Instr :=
  match z with
  | 0 => .stRlB r b sc sw
  | 1 => .stRlH r b sc sw
  | 2 => .stRlW r b sc sw
  | 3 => .stRl r b sc sw

/-- FENCE, acquire loads and release stores (R124, R233). A FENCE is through when what its kinds name has been done: with ENG the
engine's work and the transfers into the scope's tier, with SL, SS or WALK the core's stores to it, with STR the appends of its
generators there. An acquire load writes the bytes zero-extended. A release store issues once every earlier store to the tier has been
performed. -/
def FencesAcquiresReleases : Prop :=
  ∀ (o s t : State) (sc : Scope) (sw : Bool),
    (∀ (kinds : BitVec 6) (w : Bool) (u : State), u = (if kinds.getLsbD 4 then o.engineDone else o) →
      s = (if kinds.getLsbD 2 || kinds.getLsbD 3 || w then u.storesDone sc
        else if kinds.getLsbD 5 then u.drain u.cur (fun x => x.append.isSome && inTier u.cur sc x.key) else u) →
      (kinds.getLsbD 4 = true → s.here.eng = [] ∧ s.xfersIn s.cur sc = false) →
      ((kinds.getLsbD 2 || kinds.getLsbD 3 || w) = true → Performed s sc) →
      (kinds.getLsbD 5 = true → s.undrained s.cur (fun x => x.append.isSome && inTier s.cur sc x.key) = false) →
      Through (exec (.fence kinds w sc sw) o) s 4 [] (fun u => u)) ∧
    (∀ (z : Fin 4) (d b : Fin 64) (l : List Byte) (g : Bool), s = o.engineDone → Ready s [wr b, wr d] →
      Grants (s.here.getW b) (s.here.getW b).addr (2 ^ z.val) Perm.load (2 ^ z.val) →
      Loads s (s.here.getW b).addr (2 ^ z.val) false t l g →
      Through (exec (acquireOf z d b sc sw) o) t 4 (results [wr d]) (fun u => u.putX d (BitVec.ofNat 64 (leNat l)))) ∧
    (∀ (z : Fin 4) (r b : Fin 64), s = o.settled sc → Performed s sc → Ready s [wr r, wr b] →
      Grants (s.here.getW b) (s.here.getW b).addr (2 ^ z.val) Perm.store (2 ^ z.val) →
      Stores s (s.here.getW b).addr (leBytes (2 ^ z.val) (s.here.getX r).toNat) none false t →
      Through (exec (releaseOf z r b sc sw) o) t 4 [] (fun u => u))

/-- A plain store that waits in the store buffer is performed once no engine has been granted a line of its bytes and no host
holds one, the host has granted a line of host memory, and, in a chord, its run has committed (R118, R126, R134, R155): the bytes of an
HBM, vault or host page then hold the data, every other byte is as it was, and the store has left the buffer. What waits for all stores
of a core commits a chord's runs first. STORE_PERFORMED performs one of several stores where no earlier one of the core meets its bytes,
and leaves it where one of these holds it back. -/
def BufferedStorePerformed : Prop :=
  (∀ (s : State) (k : Nat) (x : PStore), Memory.wf s.mem = true → (s.tile k).stores = [x] → x.repl = false →
    isExpert x.key = false → (x.committed = true ∨ (s.tile k).chord.isSome = true) →
    s.owned k noXfer x.key x.data.length = false → (isHost x.key = true → s.hostGranted x.key x.data.length = true) →
    (∀ w ∈ s.rwrites, w.writer ≠ k) →
    ((s.drainStores k).tile k).stores = [] ∧ (s.drainStores k).readAt x.key x.data.length = x.data ∧
      (∀ a, a < x.key ∨ x.key + x.data.length ≤ a → Memory.get (s.drainStores k).mem a = Memory.get s.mem a) ∧
      Memory.wf (s.drainStores k).mem = true) ∧
  ∀ (s : State) (k i : Nat) (x : PStore), (s.tile k).stores[i]? = some x →
    ((s.owned k noXfer x.key x.data.length = true ∨ x.committed = false ∨ isHost x.key = true ∧ s.hostGranted x.key x.data.length = false ∨
      x.repl = true ∧ s.seqLost = true) → exec (.storePerformed k i) s = .next s) ∧
    (Memory.wf s.mem = true → x.committed = true → x.repl = false → isExpert x.key = false →
      (∀ y ∈ (s.tile k).stores.take i, y.key + y.data.length ≤ x.key ∨ x.key + x.data.length ≤ y.key) →
      s.owned k noXfer x.key x.data.length = false → (isHost x.key = true → s.hostGranted x.key x.data.length = true) →
      ∃ t, exec (.storePerformed k i) s = .next t ∧ t.readAt x.key x.data.length = x.data ∧
        (∀ a, a < x.key ∨ x.key + x.data.length ≤ a → Memory.get t.mem a = Memory.get s.mem a) ∧
        t.tile k = { s.tile k with stores := (s.tile k).stores.eraseIdx i } ∧ ∀ j, j ≠ k → t.tile j = s.tile j)

/-- FENCE, acquire loads and release stores, and when a buffered store is performed (R118 to R133, R234).
The model's own choices that it rests on: log entry 37. -/
def Obligations.OrderingInstructions : Prop := FencesAcquiresReleases ∧ BufferedStorePerformed

/-- The atomics (R125, R234, R235) take effect once the engine work of the task has retired and, with a release, the core's stores
to the scope's tier have been performed, whenever their registers are ready and the capability grants loads and stores of the bytes: wd takes the old value zero-extended, and one atomic event writes the
new one; CAS writes only where the bytes equal wd.
The model's own choices that it rests on: log entries 37 and 48. -/
def Obligations.AtomicResults : Prop :=
  ∀ (o s t : State) (d b e : Fin 64) (z : Bool) (sc : Scope) (ord : AmoOrd) (sw : Bool) (n x old : Nat),
    s = (if ord = .release ∨ ord = .acqRel then o.settled sc else o.engineDone) →
    (ord = .release ∨ ord = .acqRel → Performed s sc) → Ready s [wr d, wr b] →
    (n = (if z then 8 else 4) → x = (s.here.getX d).toNat % 2 ^ (8 * n) →
      Grants (s.here.getW b) (s.here.getW b).addr n (Perm.load + Perm.store) n →
      ∀ i new, (i, new) ∈ [
          (Instr.amoAdd d b z sc ord sw, (old + x) % 2 ^ (8 * n)),
          (Instr.amoAnd d b z sc ord sw, old &&& x),
          (Instr.amoOr d b z sc ord sw, old ||| x),
          (Instr.amoXor d b z sc ord sw, old ^^^ x),
          (Instr.amoMin d b z sc ord sw, if sext x (8 * n) < sext old (8 * n) then x else old),
          (Instr.amoMax d b z sc ord sw, if sext old (8 * n) < sext x (8 * n) then x else old),
          (Instr.amoMinu d b z sc ord sw, min old x),
          (Instr.amoMaxu d b z sc ord sw, max old x),
          (Instr.amoSwap d b z sc ord sw, x)] →
        Rmw s (s.here.getW b).addr n old (some new) t →
        Through (exec i o) t 4 (results [wr d]) (fun u => u.putX d (BitVec.ofNat 64 old))) ∧
    (Ready s [wr e] → Grants (s.here.getW b) (s.here.getW b).addr 8 (Perm.load + Perm.store) 8 →
      Rmw s (s.here.getW b).addr 8 old (if old = (s.here.getX d).toNat then some (s.here.getX e).toNat else none) t →
      Through (exec (.cas d b e sc ord sw) o) t 4 (results [wr d]) (fun u => u.putX d (BitVec.ofNat 64 old)))

/-- Element address of a stream at position `p` (R236). -/
def elementAt (g : Stream) (p : Nat) : Nat :=
  addrAdd g.cap.addr (((p % g.cnt0 : Nat) : Int) * 2 ^ g.esize + ((p / g.cnt0 % g.cnt1 : Nat) : Int) * g.str1 +
    ((p / (g.cnt0 * g.cnt1) : Nat) : Int) * g.str2)

/-- SBIND, SUNBIND and SSTAT take effect whenever their registers are ready (R236, R237): SBIND binds wn to generator GEN with the
descriptor's fields and POS 0 and releases every other generator of wn; SUNBIND releases wn's generators once the appends of the
one bound to wn have been performed; SSTAT writes the generator's word. Where no read generator is left, what stores have replaced
is forgotten. -/
def StreamInstructions : Prop :=
  ∀ (o s t : State) (sw : Bool),
    (∀ (n d : Fin 64) (b : List Byte) (g : Bool) (ctl : Nat) (cap : Reg), s = o.engineDone → Ready s [wr d] →
      48 ≤ n.val → Grants (s.here.getW d) (s.here.getW d).addr 64 Perm.load 64 →
      Loads s (s.here.getW d).addr 64 false t b g → ctl = blockNat b 40 1 → ctl < 64 → blockNat b 41 23 = 0 →
      cap = blockCap b 0 g (s.here.getW d) → cap.tag = true → cap.otype = 0 →
      cap.has (Perm.engine + (if ctl / 8 % 2 = 1 then Perm.store else Perm.load)) = true →
      ∃ (ag : Vector Stream 8) (undo : List (Nat × List Byte)), (undo = t.here.undo ∨ undo = []) ∧
        Through (exec (.sbind n d sw) o) t 4 [] (fun u => { u with ag := ag, undo := undo }) ∧
        { t.here with ag := ag }.bound n.val = some (ctl % 8,
          ⟨cap, decide (ctl / 8 % 2 = 1), ctl / 16 % 4, blockNat b 16 4, blockNat b 20 4, blockNat b 24 4,
            sext (blockNat b 28 6) 48, sext (blockNat b 34 6) 48, 0, n.val, undo.length⟩) ∧
        ∀ j : Fin 8, j.val ≠ ctl % 8 → ag[j] = if t.here.ag[j].reg = n.val then { t.here.ag[j] with reg := 0 } else t.here.ag[j]) ∧
    (∀ n : Fin 64, s = (match o.here.bound n.val with
        | some (k, _) => o.drain o.cur (fun x => decide (x.append = some k))
        | none => o) →
      (∀ k g, o.here.bound n.val = some (k, g) → s.undrained s.cur (fun x => decide (x.append = some k)) = false) →
      ∃ (ag : Vector Stream 8) (undo : List (Nat × List Byte)), (undo = s.here.undo ∨ undo = []) ∧
        Through (exec (.sunbind n sw) o) s 4 [] (fun u => { u with ag := ag, undo := undo }) ∧
        { s.here with ag := ag }.bound n.val = none ∧
        ∀ j : Fin 8, s.here.ag[j].reg ≠ n.val ∨ n.val < 48 → ag[j] = s.here.ag[j]) ∧
    (∀ (d : Fin 64) (k : Fin 8), Ready s [wr d] →
      CompletesDeferred (.sstat d k sw) s [wr d] (fun u => u.putX d (BitVec.ofNat 64
        (u.ag[k].pos % 2 ^ 48 + u.ag[k].reg % 64 * 2 ^ 56 + (if u.ag[k].reg = 0 then 0 else 2 ^ 62) +
          (if u.ag[k].reg ≠ 0 ∧ u.ag[k].total ≤ u.ag[k].pos then 2 ^ 63 else 0)))))

/-- The generator at `k` after one more element. -/
def stepped (k : Nat) (u : Tile) : Tile :=
  { u with ag := u.ag.setIfInBounds k { (u.ag[k]?.getD Stream.reset) with pos := (u.ag[k]?.getD Stream.reset).pos + 1 } }

/-- A register that a generator is bound to is a stream (R65, R236, R374), here through MOV and LI, once the engine work of the task
has retired (R122): reading it gives the element at POS, zero-extended, and advances POS; where the task has stored anything since
SBIND the element may have been read before (R238, log entry 38). Writing it appends the low bytes there, advances POS and makes the
register a pending result; an exhausted stream traps with STREAM_EXHAUSTED and has no effect. -/
def StreamOperands : Prop :=
  ∀ (s t : State) (d n : Fin 64) (k : Nat) (g : Stream) (imm : BitVec 17) (sw : Bool),
    s.here.bound n.val = some (k, g) → findPend s.here.pend (wr n) = none →
    (g.dir = false → Ready s [wr d] →
      (∀ b e, g.pos < g.total → Grants g.cap (elementAt g g.pos) (2 ^ g.esize) (Perm.engine + Perm.load) (2 ^ g.esize) →
        Loads s.engineDone (elementAt g g.pos) (2 ^ g.esize) true t b e →
        (s.here.undo.length ≤ g.born →
          Through (exec (.mov d n sw) s) t 4 [] (fun u => (stepped k u).putX d (BitVec.ofNat 64 (leNat b)))) ∧
        (g.born < s.here.undo.length →
          ∃ x : Word, Through (exec (.mov d n sw) s) { t with free := t.free + 1 } 4 [] (fun u => (stepped k u).putX d x))) ∧
      (g.total ≤ g.pos → s.here.eng = [] →
        Traps (exec (.mov d n sw) s) s ⟨0x23, .none, 0, 14, 0, s.here.pc.addr, n.val + k * 2 ^ 16⟩ 4)) ∧
    (g.dir = true →
      (g.pos < g.total → Grants g.cap (elementAt g g.pos) (2 ^ g.esize) (Perm.engine + Perm.store) (2 ^ g.esize) →
        (∀ off, locate (elementAt g g.pos) (2 ^ g.esize) ≠ .info off) →
        Stores s.engineDone (elementAt g g.pos) (leBytes (2 ^ g.esize) (imm.signExtend 64).toNat) (some k) false t →
        Through (exec (.li n imm sw) s) t 4 [wr n] (stepped k)) ∧
      (g.total ≤ g.pos → s.here.eng = [] →
        Traps (exec (.li n imm sw) s) s ⟨0x23, .none, 3, 0, 0, s.here.pc.addr, n.val + k * 2 ^ 16⟩ 4))

/-- Stream generators: SBIND, SUNBIND, SSTAT, and operands that are streams (R65, R236).
The model's own choices that it rests on: log entries 37 and 38. -/
def Obligations.StreamResults : Prop := StreamInstructions ∧ StreamOperands

/-- WFE and EXIT, where they do not stand at a loop's END (R223, R298): WFE clears a set wake flag and goes on, goes on where a
message class is deliverable, and otherwise waits. EXIT, once the task's engine work, stores and transfers are done, ends the
task: its core holds no task, and while its grid is not being saved the grid counts it as exited, with its EXITVAL for
global rank 0.
The model's own choices that it rests on: log entry 36. -/
def Obligations.WaitAndExit : Prop :=
  ∀ (o s : State) (a : Fin 64) (sw : Bool), NotAtEnd s →
    (s.here.wake = true → Completes (.wfe sw) s 4 (fun u => { u with wake := false })) ∧
    (s.here.wake = false → s.here.nextClass.isSome = true → Completes (.wfe sw) s 4 (fun u => u)) ∧
    (s.here.wake = false → s.here.nextClass = none → Waits (exec (.wfe sw) s) s .wfe) ∧
    (s = o.settled .system → Performed s .system → s.here.eng = [] → s.xfersOut s.cur = false → Ready s [wr a] →
      ∃ t, exec (.exit a sw) o = .next t ∧ t.cur = s.cur ∧
        ∀ r g, s.here.task = some r → s.gridOf s.cur = some g → g.phase ≠ .saving →
          t.here.task = none ∧ ∃ g', t.grid? r.grid = some g' ∧ g'.exited = g.exited ++ [grankOf g r] ∧
            g'.exitval = if grankOf g r = 0 then s.here.getX a else g.exitval)

/-- A lane value without flags. -/
def still (x : Lane) : Lane × Nat := (x, 0)

/-- Lane-wise arithmetic (R239, R242): every active lane of vd takes the table's value of the lanes of va and vb, inactive lanes
keep theirs; the floating forms round by FCTL.RM and set the sticky flags of R90. All take effect whenever their registers
are ready. -/
def VectorArithmetic : Prop :=
  ∀ (s : State) (d a b : Fin 32) (g : Fin 8) (sw : Bool), Ready s [vr a, vr b, pr g, vlr, vr d] →
    ∀ (i : Instr) (f : Rm → Lane → Lane → Lane × Nat), (i, f) ∈ [
        (Instr.vadd .f d a b g sw, fAdd),
        (Instr.vsub .f d a b g sw, fSub),
        (Instr.vmul .f d a b g sw, fMul),
        (Instr.vmin .f d a b g sw, fun _ => fMin),
        (Instr.vmax .f d a b g sw, fun _ => fMax),
        (Instr.vabs .f d a g sw, fun _ x _ => still (x &&& 0x7FFFFFFF)),
        (Instr.vneg .f d a g sw, fun _ x _ => still (x ^^^ 0x80000000)),
        (Instr.vadd .i d a b g sw, fun _ x y => still (x + y)),
        (Instr.vsub .i d a b g sw, fun _ x y => still (x - y)),
        (Instr.vmul .i d a b g sw, fun _ x y => still (x * y)),
        (Instr.vmin .i d a b g sw, fun _ x y => still (if y.toInt < x.toInt then y else x)),
        (Instr.vmax .i d a b g sw, fun _ x y => still (if x.toInt < y.toInt then y else x)),
        (Instr.vabs .i d a g sw, fun _ x _ => still (BitVec.ofNat 32 x.toInt.natAbs)),
        (Instr.vneg .i d a g sw, fun _ x _ => still (-x)),
        (Instr.vand d a b g sw, fun _ x y => still (x &&& y)),
        (Instr.vor d a b g sw, fun _ x y => still (x ||| y)),
        (Instr.vxor d a b g sw, fun _ x y => still (x ^^^ y)),
        (Instr.vshl d a b g sw, fun _ x y => still (x <<< (y.toNat % 32))),
        (Instr.vshr d a b g sw, fun _ x y => still (x >>> (y.toNat % 32))),
        (Instr.vshra d a b g sw, fun _ x y => still (x.sshiftRight (y.toNat % 32))),
        (Instr.vadds d a b g sw, fun _ x y => still (BitVec.ofInt 32 (max (-2147483648) (min 2147483647 (x.toInt + y.toInt))))),
        (Instr.vsubs d a b g sw, fun _ x y => still (BitVec.ofInt 32 (max (-2147483648) (min 2147483647 (x.toInt - y.toInt)))))] →
      CompletesDeferred i s [vr d] (fun u => u.putLanes d g (fun k => f (rmOf u.fctl) (u.lane a k) (u.lane b k)))

/-- Multiply-adds and dot products accumulate into the active lanes of vd (R242, R250) whenever their registers are ready. Where
IEEE 754 leaves NV of an FP32 multiply-add open, both values are allowed (log entry 7). -/
def VectorAccumulation : Prop :=
  ∀ (s : State) (d a b : Fin 32) (g : Fin 8) (sw : Bool), Ready s [vr a, vr b, pr g, vlr, vr d] →
    (∃ nv : Bool,
      Through (exec (.vfma .f d a b g sw) s) { s with free := s.free + 1 } 4 [vr d] (fun u => u.putLanes d g (fun k =>
        fFma (rmOf u.fctl) false nv (u.lane a k) (u.lane b k) (u.lane d k))) ∧
      Through (exec (.vfnma .f d a b g sw) s) { s with free := s.free + 1 } 4 [vr d] (fun u => u.putLanes d g (fun k =>
        fFma (rmOf u.fctl) true nv (u.lane a k) (u.lane b k) (u.lane d k)))) ∧
    Through (exec (.vfma .i d a b g sw) s) { s with free := s.free + 1 } 4 [vr d] (fun u => u.putLanes d g (fun k =>
      still (u.lane d k + u.lane a k * u.lane b k))) ∧
    Through (exec (.vfnma .i d a b g sw) s) { s with free := s.free + 1 } 4 [vr d] (fun u => u.putLanes d g (fun k =>
      still (u.lane d k - u.lane a k * u.lane b k))) ∧
    ∀ ua ub : Bool,
      CompletesDeferred (.vdot .f d a b g ua ub sw) s [vr d] (fun u => u.putLanes d g (fun k =>
        dotHalves (rmOf u.fctl) (u.lane a k) (u.lane b k) (u.lane d k))) ∧
      ∃ f : Lane → Lane → Lane → Lane,
        CompletesDeferred (.vdot .i d a b g ua ub sw) s [vr d] (fun u => u.putLanes d g (fun k =>
          still (f (u.lane a k) (u.lane b k) (u.lane d k)))) ∧
        ∀ x y z : Lane, ∃ p q : Fin 4 → Int,
          (∀ j : Fin 4, p j = if ua then ((x.extractLsb' (8 * j.val) 8).toNat : Int) else (x.extractLsb' (8 * j.val) 8).toInt) ∧
          (∀ j : Fin 4, q j = if ub then ((y.extractLsb' (8 * j.val) 8).toNat : Int) else (y.extractLsb' (8 * j.val) 8).toInt) ∧
          f x y z = z + BitVec.ofInt 32 (p 0 * q 0 + p 1 * q 1 + p 2 * q 2 + p 3 * q 3)

/-- A predicate after a vector compare: active lanes take the condition, the others keep their bits. -/
def compared (u : Tile) (p g : Nat) (h : Nat → Bool) : Word :=
  BitVec.ofFnLE (fun (i : Fin 64) => if u.active g i.val then h i.val else (u.rp p).getLsbD i.val)

/-- Vector compares and VSEL (R243) whenever their registers are ready. The equalities of FP32 set NV for a signalling NaN, the
orderings for any NaN; a NaN compares unequal and unordered. VSEL chooses for every lane below VL. -/
def VectorCompareSelect : Prop :=
  ∀ (s : State) (p : Fin 8) (d a b : Fin 32) (g : Fin 8) (sw : Bool), Ready s [vr a, vr b, pr g, vlr] →
    (Ready s [pr p] →
      (∀ (i : Instr) (h : Ext → Ext → Bool) (loud : Bool), (i, h, loud) ∈ [
          (Instr.vcmpEq .f p a b g sw, fun x y => Ext.eqv x y, false),
          (Instr.vcmpNe .f p a b g sw, fun x y => !Ext.eqv x y, false),
          (Instr.vcmpLt .f p a b g sw, fun x y => Ext.lt x y, true),
          (Instr.vcmpLe .f p a b g sw, fun x y => Ext.lt x y || Ext.eqv x y, true)] →
        CompletesDeferred i s [pr p] (fun u =>
          (u.wp p (compared u p g (fun k => h (lane (u.lane a k)) (lane (u.lane b k))))).flag
            (orFlags ((u.lanes g).map (fun k =>
              if loud && ((lane (u.lane a k)).isNan || (lane (u.lane b k)).isNan) then flNV else snanFlag [u.lane a k, u.lane b k]))))) ∧
      ∀ (i : Instr) (h : Lane → Lane → Bool), (i, h) ∈ [
          (Instr.vcmpEq .i p a b g sw, fun x y => decide (x = y)),
          (Instr.vcmpNe .i p a b g sw, fun x y => decide (x ≠ y)),
          (Instr.vcmpLt .i p a b g sw, fun x y => decide (x.toInt < y.toInt)),
          (Instr.vcmpLe .i p a b g sw, fun x y => decide (x.toInt ≤ y.toInt))] →
        CompletesDeferred i s [pr p] (fun u => u.wp p (compared u p g (fun k => h (u.lane a k) (u.lane b k))))) ∧
    (Ready s [vr d] → CompletesDeferred (.vsel d a b g sw) s [vr d]
      (fun u => u.putLanes d 0 (fun k => still (if (u.rp g).getLsbD k then u.lane a k else u.lane b k))))

/-- VCVT (R244) whenever its registers are ready: decode rounds the element's value to binary32 by FCTL.RM; encode gives the
element and, through W12, needs the ordered flag where a lane is active; an MX encode gives every active lane of a block of 32
lanes its element and the block's scale byte, and leaves the other lanes. -/
def VectorConversions : Prop :=
  ∀ (s : State) (d a c : Fin 32) (g : Fin 8) (w : Fin 16) (t sw : Bool), Ready s [vr a, pr g, vlr, vr d] →
    CompletesDeferred (.vcvtDec d a g w sw) s [vr d] (fun u => u.putLanes d g (fun k =>
      toLane (rmOf u.fctl) (valueOf u w ((u.lane a k).toNat % 2 ^ (4 * winNibbles w)) 127))) ∧
    ((s.here.ordered = true ∨ w ≠ 12 ∨ s.here.lanes g = []) →
      ∃ f : Tile → Nat → Lane × Nat, CompletesDeferred (.vcvtEnc d a t g w sw) s [vr d] (fun u => u.putLanes d g (f u)) ∧
        ∀ u k, (f u k).1 = BitVec.ofNat 32 (encodeWin u.table w (rmOf u.fctl) t (lane (u.lane a k))).1) ∧
    (Ready s [vr c] →
      CompletesDeferred (.vcvtDecMx d a c g w sw) s [vr d] (fun u => u.putLanes d g (fun k =>
        toLane (rmOf u.fctl) (valueOf u w ((u.lane a k).toNat % 2 ^ (4 * winNibbles w)) ((u.lane c k).toNat % 256)))) ∧
      (d ≠ c → ∃ v vs, CompletesDeferred (.vcvtEncMx d a c g w sw) s [vr d, vr c] (fun u => { u with v := v, vstatus := vs }) ∧
        (∀ r : Fin 32, r ≠ d → r ≠ c → v[r] = s.here.v[r]) ∧
        ∀ k : Fin 64,
          (s.here.active g k = false → v[d][k] = s.here.lane d k ∧ v[c][k] = s.here.lane c k) ∧
          (s.here.active g k = true →
            ∃ block codes, block = (s.here.lanes g).filter (fun j => decide (j / 32 = k.val / 32)) ∧
              v[c][k] = BitVec.ofNat 32 (mxScale w (block.map (fun j => lane (s.here.lane a j)))) ∧
              codes = mxEncode s.here.table w (rmOf s.here.fctl) (mxScale w (block.map (fun j => lane (s.here.lane a j))))
                (block.map (fun j => lane (s.here.lane a j))) ∧
              v[d][k] = BitVec.ofNat 32 (codes.getD (block.idxOf k.val) (0, 0)).1)))

/-- Fused and dot-product accumulation, and conversions between formats, in vector lanes.
The model's own choices that it rests on: log entries 7, 12 and 49. -/
def Obligations.VectorAccumulationAndConversion : Prop := VectorAccumulation ∧ VectorConversions

/-- The lanes of a vector access through `c` are checked and lie in the scratchpad (R241, R245, R375): `key` is the place of an
active lane's `n` bytes. -/
def LanesAt (s : State) (c : Reg) (g n perms align : Nat) (addr key : Nat → Nat) : Prop :=
  ∀ i ∈ s.here.lanes g, Grants c (addr i) n perms align ∧ (windowAt c.addr 1).isSome = true ∧
    ∃ w off, windowAt (addr i) n = some (w, off) ∧ key i = scratchAt s.cur off

/-- No queued engine instruction of the core stands before an access to any lane's bytes (R122). -/
def LanesFree (s : State) (g n : Nat) (key : Nat → Nat) (write : Bool) : Prop :=
  ∀ i ∈ s.here.lanes g, s.engineHoldsKey (key i) n write = false
/-- The state in which the lanes' bytes have been kept for generators that may have read them (R238). -/
def notedLanes (s : State) (g n : Nat) (key : Nat → Nat) : State :=
  (s.here.lanes g).foldl (fun (u : State) i => u.noted (key i) n) s

/-- Vector loads, stores, gathers and scatters (R245, R246), once the engine work of the task that touches their bytes has retired
and whenever their registers are ready and every active lane passes its checks: a load writes the zero-extended elements to the
active lanes; a store writes the low bits of the active lanes, lower lanes first; a nibble store keeps the other nibble.
The model's own choices that it rests on: log entry 37. -/
def Obligations.VectorMemory : Prop :=
  ∀ (o s t : State) (d x : Fin 32) (b : Fin 64) (e : Fin 4) (g : Fin 8) (sw : Bool) (key : Nat → Nat), s = o.engineDone →
    Ready s [wr b, pr g, vlr, vr d] →
    (LanesAt s (s.here.getW b) g (eszBytes e) Perm.load (eszBytes e) (laneAddr (s.here.getW b) e) key →
      (∀ i ∈ s.here.lanes g, s.isBad (key i) (eszBytes e) = false) → LanesFree s g (eszBytes e) key false →
      Through (exec (.vld d b e g sw) o) s 4 [vr d] (fun u => u.putLanes d g (fun i => still (BitVec.ofNat 32
        (if e = 3 then s.readNat (key i) 1 / 16 ^ (i % 2) % 16 else s.readNat (key i) (2 ^ e.val)))))) ∧
    (LanesAt s (s.here.getW b) g (eszBytes e) Perm.store (eszBytes e) (laneAddr (s.here.getW b) e) key →
      (∀ i ∈ s.here.lanes g, s.badPartial (key i) (eszBytes e) = false) → LanesFree s g (eszBytes e) key true →
      t = (s.here.lanes g).foldl (fun (u : State) i =>
        if e = 3 then u.writeNat (key i) 1 (if i % 2 = 0 then u.readNat (key i) 1 / 16 * 16 + (s.here.lane d i).toNat % 16
          else u.readNat (key i) 1 % 16 + (s.here.lane d i).toNat % 16 * 16)
        else u.writeNat (key i) (2 ^ e.val) (s.here.lane d i).toNat) (notedLanes s g (eszBytes e) key) →
      Through (exec (.vst d b e g sw) o) t 4 [] (fun u => u)) ∧
    (Ready s [vr x] →
      (LanesAt s (s.here.getW b) g 4 Perm.load 4 (fun i => addrAdd (s.here.getW b).addr ((4 * (s.here.lane x i).toNat : Nat) : Int)) key →
        (∀ i ∈ s.here.lanes g, s.isBad (key i) 4 = false) → LanesFree s g 4 key false →
        Through (exec (.vgather d b x g sw) o) s 4 [vr d] (fun u => u.putLanes d g (fun i =>
          still (BitVec.ofNat 32 (s.readNat (key i) 4))))) ∧
      (LanesAt s (s.here.getW b) g 4 Perm.store 4 (fun i => addrAdd (s.here.getW b).addr ((4 * (s.here.lane x i).toNat : Nat) : Int)) key →
        (∀ i ∈ s.here.lanes g, s.badPartial (key i) 4 = false) → LanesFree s g 4 key true →
        t = (s.here.lanes g).foldl (fun (u : State) i => u.writeNat (key i) 4 (s.here.lane d i).toNat) (notedLanes s g 4 key) →
        Through (exec (.vscatter d b x g sw) o) t 4 [] (fun u => u)))

/-- Instructions that move lanes, and VSETVL (R247, R251), whenever their registers are ready. -/
def VectorLaneMoves : Prop :=
  ∀ (s : State) (d a b : Fin 32) (n r q : Fin 64) (g : Fin 8) (sw : Bool), Ready s [vr a, vr b, pr g, vlr, vr d, wr n, wr r, wr q] →
    CompletesDeferred (.vshuf d a b g sw) s [vr d] (fun u => u.putLanes d g (fun k => still (u.lane a ((u.lane b k).toNat % 64)))) ∧
    CompletesDeferred (.vbcast d a n g sw) s [vr d] (fun u => u.putLanes d g (fun _ => still (u.lane a n))) ∧
    CompletesDeferred (.vsplat d n sw) s [vr d] (fun u => u.putLanes d 0 (fun _ => still ((u.getX n).setWidth 32))) ∧
    CompletesDeferred (.vextr r a n sw) s [wr r] (fun u => u.putX r ((u.lane a ((u.getX n).toNat % 64)).setWidth 64)) ∧
    CompletesDeferred (.vsetvl r n sw) s [wr r, vlr]
      (fun u => { u with vl := min (u.getX n).toNat 64 }.putX r (BitVec.ofNat 64 (min (u.getX n).toNat 64))) ∧
    CompletesDeferred (.vcompress d a g sw) s [vr d, vlr] (fun u =>
      { u.setLanes d (fun k x => if k < (u.lanes g).length then u.lane a ((u.lanes g).getD k 0) else x) with vl := (u.lanes g).length }) ∧
    CompletesDeferred (.vexpand d a g sw) s [vr d] (fun u => u.putLanes d g (fun k =>
      still (u.lane a ((List.range k).filter (u.active g)).length)))

/-- Comparison, selection and movement of vector lanes. -/
def Obligations.VectorCompareSelectAndMoves : Prop := VectorCompareSelect ∧ VectorLaneMoves

/-- One level of the reduction tree: neighbours combined. -/
def pairUp (f : Lane → Lane → Lane) (l : List Lane) : List Lane :=
  (List.range (l.length / 2)).map (fun i => f (l.getD (2 * i) 0) (l.getD (2 * i + 1) 0))

/-- VRED and VSCAN (R92, R248) whenever their registers are ready, for every operation and lane type: inactive lanes enter as
the identity; VRED writes the root of the tree over neighbours, six levels, to lane 0 and keeps the other lanes; VSCAN writes
the running values to the active lanes. -/
def Obligations.VectorReductionsScans : Prop :=
  ∀ (s : State) (d a : Fin 32) (g : Fin 8) (sw : Bool), Ready s [vr a, pr g, vlr, vr d] →
    ∀ (i j : Instr) (e : Lane) (f : Lane → Lane → Lane), (i, j, e, f) ∈ [
        (Instr.vredAdd .i d a g sw, Instr.vscanAdd .i d a g sw, (0 : Lane), fun x y => x + y),
        (Instr.vredMin .i d a g sw, Instr.vscanMin .i d a g sw, (0x7FFFFFFF : Lane), fun x y => if y.toInt < x.toInt then y else x),
        (Instr.vredMax .i d a g sw, Instr.vscanMax .i d a g sw, (0x80000000 : Lane), fun x y => if x.toInt < y.toInt then y else x),
        (Instr.vredAdd .f d a g sw, Instr.vscanAdd .f d a g sw, (0x80000000 : Lane), fun x y => (fAdd (rmOf s.here.fctl) x y).1),
        (Instr.vredMin .f d a g sw, Instr.vscanMin .f d a g sw, (0x7F800000 : Lane), fun x y => (fMin x y).1),
        (Instr.vredMax .f d a g sw, Instr.vscanMax .f d a g sw, (0xFF800000 : Lane), fun x y => (fMax x y).1)] →
      ∃ l fl fl', l = (List.range 64).map (fun k => if s.here.active g k then s.here.lane a k else e) ∧
        CompletesDeferred i s [vr d] (fun u =>
          (u.setLanes d (fun k x => if k = 0 then ((pairUp f (pairUp f (pairUp f (pairUp f (pairUp f (pairUp f l)))))).getD 0 0) else x)).flag fl) ∧
        CompletesDeferred j s [vr d] (fun u =>
          (u.setLanes d (fun k x => if u.active g k then (l.take (k + 1)).tail.foldl f (l.getD 0 0) else x)).flag fl')

/-- VEXP2, VRCP and VRSQRT (R91, R249) whenever their registers are ready: active lanes take the function of the lane, rounded to
IF19 by RNE, in a container whose low 13 bits are zero. -/
def VectorTranscendentals : Prop :=
  ∀ (s : State) (d a : Fin 32) (g : Fin 8) (sw : Bool), Ready s [vr a, pr g, vlr, vr d] →
    ∀ (i : Instr) (f : Ext → Nat × Nat), (i, f) ∈ [
        (Instr.vexp2 d a g sw, exp2IF), (Instr.vrcp d a g sw, rcpIF), (Instr.vrsqrt d a g sw, rsqrtIF)] →
      CompletesDeferred i s [vr d] (fun u => u.putLanes d g (fun k =>
        (BitVec.ofNat 32 (f (lane (u.lane a k))).1, (f (lane (u.lane a k))).2 ||| snanFlag [u.lane a k])))

/-- Lane arithmetic and the transcendental functions of the vector unit. -/
def Obligations.VectorArithmeticResults : Prop := VectorArithmetic ∧ VectorTranscendentals

/-- QCFG, QSTAT, TWAIT and TSTATE (R258 to R260). QCFG takes effect when no slot that it touches is filling or draining, the range
meets no other ring and its slots lie in the scratchpad: the ring is empty at FIRST, and its slots are EMPTY with their places.
QSTAT and TSTATE give their words; TWAIT goes on when the oldest n slots are READY and waits otherwise. -/
def Obligations.RingsAndSlots : Prop :=
  ∀ (o s : State) (q : Fin 16) (w : Fin 64) (i : Fin 256) (sw : Bool),
    (∀ x first len base stride slen : Nat, s = o.engineDone → s.here.eng = [] → Ready s [wr w] → x = (s.here.getX w).toNat → x < 2 ^ 56 →
      first = x % 2 ^ 8 → len = x / 2 ^ 8 % 2 ^ 9 → base = x / 2 ^ 17 % 2 ^ 13 → stride = x / 2 ^ 30 % 2 ^ 13 → slen = x / 2 ^ 43 % 2 ^ 13 →
      (∀ k, k < 256 → (((s.here.ring q).first ≤ k ∧ k < (s.here.ring q).first + (s.here.ring q).len) ∨ (first ≤ k ∧ k < first + len)) →
        (s.here.slot k).state = .empty ∨ (s.here.slot k).state = .ready) →
      (len ≠ 0 → first + len ≤ 256 ∧ 1 ≤ slen ∧ slen ≤ 6144 ∧ 64 * (base + (len - 1) * stride + slen) ≤ Config.scratchBytes ∧
        ∀ r : Fin 16, r ≠ q → (s.here.ring r).len ≠ 0 →
          first + len ≤ (s.here.ring r).first ∨ (s.here.ring r).first + (s.here.ring r).len ≤ first) →
      (2 ≤ len → slen ≤ stride) →
      ∃ slots rings, Through (exec (.qcfg q w sw) o) s 4 [] (fun u => { u with slots := slots, rings := rings }) ∧
        rings[q] = (if len = 0 then Ring.reset else ⟨first, len, first, first, 0⟩) ∧
        (∀ r : Fin 16, r ≠ q → rings[r] = s.here.rings[r]) ∧
        ∀ k : Fin 256,
          (first ≤ k.val ∧ k.val < first + len → slots[k] = ⟨.empty, some q, 64 * (base + (k.val - first) * stride), 64 * slen⟩) ∧
          (¬ (first ≤ k.val ∧ k.val < first + len) →
            slots[k] = if (s.here.ring q).first ≤ k.val ∧ k.val < (s.here.ring q).first + (s.here.ring q).len
              then { s.here.slots[k] with state := .empty, ring := none } else s.here.slots[k])) ∧
    (Ready s [wr w] →
      (∃ n, Through (exec (.qstat q w sw) s) s 4 (results [wr w]) (fun u => u.putX w (BitVec.ofNat 64
          ((s.here.ring q).first + (s.here.ring q).len * 2 ^ 8 + (s.here.ring q).head * 2 ^ 17 + (s.here.ring q).tail * 2 ^ 25 +
            (s.here.ring q).count * 2 ^ 33 + n * 2 ^ 42))) ∧ n ≤ (s.here.ring q).count ∧
        (∀ k, k < n → (s.here.slot ((s.here.ring q).nth k)).state = .ready) ∧
        (n < (s.here.ring q).count → (s.here.slot ((s.here.ring q).nth n)).state ≠ .ready)) ∧
      Through (exec (.tstate i w sw) s) s 4 (results [wr w]) (fun u => u.putX w (BitVec.ofNat 64
        ((match (s.here.slot i).state with | .empty => 0 | .filling => 1 | .ready => 2 | .draining => 3) +
          (match (s.here.slot i).ring with | none => 0 | some r => r.val * 2 ^ 2 + 2 ^ 6) +
          (s.here.slot i).off / 64 * 2 ^ 8 + (s.here.slot i).len / 64 * 2 ^ 21)))) ∧
    (∀ n : Nat, s = o.engineDone → s.here.eng = [] → Ready s [wr w] → n = (s.here.getX w).toNat → n ≤ (s.here.ring q).len → n < 2 ^ 9 →
      (s.here.ring q).len ≠ 0 →
      ((∀ k, k < n → (s.here.slot ((s.here.ring q).nth k)).state = .ready) →
        Through (exec (.twait q w sw) o) s 4 [] (fun u => u)) ∧
      (¬ (∀ k, k < n → (s.here.slot ((s.here.ring q).nth k)).state = .ready) → Waits (exec (.twait q w sw) o) s .slots))

/-- MMA, ROWSUM and SMMA (R263, R266, R271) take effect at issue, once the earlier engine work has retired: with operands READY in
their rings, an accumulator of the right mode and windows of its class they spend their slots and join the queue; a skipped
SMMA spends none. -/
def MultiplyAccumulateIssue : Prop :=
  ∀ (o s : State) (n : Fin 8) (a b : Fin 16) (w : Fin 64) (c k sw : Bool) (x wa wb sa sb : Nat), s = o.engineDone →
    s.here.eng = [] → Ready s [wr w] → kindOf s.cur = 0 ∨ kindOf s.cur = 2 → x = (s.here.getX w).toNat →
    (wa = x % 16 → wb = x / 16 % 16 → sa = (s.here.ring a).head →
      sb = (if a = b then (s.here.ring a).after (s.here.ring a).head else (s.here.ring b).head) → (a = b → (s.here.ring a).len ≠ 1) →
      (modeOf (s.here.accOf n).mode ≠ 2 → windowOk (s.here.accOf n).mode wa = true → windowOk (s.here.accOf n).mode wb = true →
        Operand s a sa wa 512 → Operand s b sb wb 512 → Funded s →
        Through (exec (.mma n a b w c sw) o) s 4 [] (fun u =>
          (u.charged (max (winSlots wa) (winSlots wb))).queued (.mma n sa sb wa wb c (rmOf u.fctl)))) ∧
      (modeOf (s.here.accOf n).mode = 2 → 1 ≤ wa → wa ≤ 14 → 1 ≤ wb → wb ≤ 14 → Operand s a sa wa 512 → Operand s b sb wb 512 →
        (smmaSkips (s.here.accOf n) (x / 2 ^ 32) = true →
          Through (exec (.smma n a b w sw) o) s 4 [] (fun u => u.queued (.smma n sa sb wa wb (x / 2 ^ 32)))) ∧
        (smmaSkips (s.here.accOf n) (x / 2 ^ 32) = false → Funded s →
          Through (exec (.smma n a b w sw) o) s 4 [] (fun u =>
            (u.charged (max (winSlots wa) (winSlots wb))).queued (.smma n sa sb wa wb (x / 2 ^ 32)))))) ∧
    (wa = x / 2 ^ 32 % 16 → sa = (s.here.ring a).head → x < 2 ^ 36 → modeOf (s.here.accOf n).mode ≠ 2 →
      windowOk (s.here.accOf n).mode wa = true → Operand s a sa wa 512 → Funded s →
      Through (exec (.rowsum n a w c k sw) o) s 4 [] (fun u =>
        (u.charged 1).queued (.rowsum n sa wa (x % 2 ^ 32) c k (rmOf u.fctl))))

/-- Row `i` of A or column `i` of B of an operand slot, as the engine reads it (R263). -/
def operandLine (s : State) (k w slot i : Nat) : List (Nat × Nat) := slotLine s k w slot i

/-- What MMA and ROWSUM do when they retire (R87, R88, R263, R266): in INT mode an element takes the narrowed exact integer sum,
in FLOAT mode FloatSum of its products; the head slots are popped, and nothing in memory changes. -/
def MultiplyAccumulateResult : Prop :=
  ∀ (s : State) (k : Nat) (n sa sb wa wb z : Nat) (c col keep : Bool) (rm : Rm) (rest : List EngOp) (i j : Fin 16) (a a' : Acc), n < 8 →
    a = (s.tile k).accOf n →
    ((s.tile k).eng = .mma n sa sb wa wb c rm :: rest → a' = ((s.engineStep k).tile k).accOf n →
      a'.mode = a.mode ∧ (s.engineStep k).mem = s.mem ∧ ((s.engineStep k).tile k).eng = rest ∧
      (sa < 256 → (((s.engineStep k).tile k).slot sa).state = .empty) ∧ (sb < 256 → (((s.engineStep k).tile k).slot sb).state = .empty) ∧
      (modeOf a.mode = 1 → a'.elems[16 * i.val + j.val]? = some (BitVec.ofInt 80 (narrow (accBits a.mode) (accSat a.mode)
        ((if c then 0 else ((a.elems[16 * i.val + j.val]?).getD 0).toInt) +
          intProducts (s.tile k) wa wb (operandLine s k wa sa i) (operandLine s k wb sb j))))) ∧
      (modeOf a.mode = 0 → a'.elems[16 * i.val + j.val]? = some (floatSum (if c then faNegZero else (a.elems[16 * i.val + j.val]?).getD 0)
        (products (s.tile k) wa wb (operandLine s k wa sa i) (operandLine s k wb sb j)) rm))) ∧
    ((s.tile k).eng = .rowsum n sa wa z col keep rm :: rest → a' = ((s.engineStep k).tile k).accOf n →
      a'.mode = a.mode ∧ (s.engineStep k).mem = s.mem ∧ ((s.engineStep k).tile k).eng = rest ∧
      (sa < 256 → (((s.engineStep k).tile k).slot sa).state = if keep then ((s.tile k).slot sa).state else .empty) ∧
      (modeOf a.mode = 1 → a'.elems[16 * i.val + j.val]? = some (BitVec.ofInt 80 (narrow (accBits a.mode) (accSat a.mode)
        (((a.elems[16 * i.val + j.val]?).getD 0).toInt + sext z 32 *
          ((operandLine s k wa sa (if col then j else i)).map (fun x => (decodeWin (s.tile k).table wa x.1).dy.n)).sum)))))

/-- MMA, SPMM and LSPMM: what issue does, and what the accumulator holds when the engine retires them. -/
def Obligations.MultiplyAccumulateResults : Prop := MultiplyAccumulateIssue ∧ MultiplyAccumulateResult

/-- ACFG, AZERO and AMOV (R261, R262), once the earlier engine work has retired: ACFG sets the mode word and empties the accumulator
when MODE changes; AZERO empties it; AMOV spends a slot and, when it retires, gives an a copy of am. -/
def AccumulatorSetUp : Prop :=
  ∀ (o s : State) (n m : Fin 8) (w : Fin 64) (x : Word) (sw : Bool), s = o.engineDone → s.here.eng = [] →
    kindOf s.cur = 0 ∨ kindOf s.cur = 1 ∨ kindOf s.cur = 2 →
    (Ready s [wr w] → x = s.here.getX w → modeOf x ≠ 3 → x.toNat / 2 ^ 2 % 2 ^ 14 = 0 → sieveFmt x ≠ 3 → x.toNat / 2 ^ 21 % 2 ^ 3 ≤ 4 →
      sieveDepth x ≤ 256 / sieveLists x →
      (modeOf x = 2 → modeOf (s.here.accOf n).mode = 2 →
        x.toNat / 2 ^ 21 % 2 ^ 3 = (s.here.accOf n).mode.toNat / 2 ^ 21 % 2 ^ 3 ∧ sieveDepth (s.here.accOf n).mode ≤ sieveDepth x) →
      Through (exec (.acfg n w sw) o) s 4 [] (fun u => u.modAcc n (fun a =>
        { elems := if modeOf a.mode = modeOf x then a.elems else Vector.replicate 256 0, mode := x }))) ∧
    Through (exec (.azero n sw) o) s 4 [] (fun u => u.modAcc n (fun a => { a with elems := Vector.replicate 256 0 })) ∧
    (Funded s → ∃ t, exec (.amov n m sw) o = .next t ∧ Effect s t (fun u => (u.charged 1).queued (.amov n m)) ∧
      t.here.pc = s.here.after 4 ∧ (t.engineDone.here.accOf n) = s.here.accOf m)

/-- The attention instructions (R272), once the earlier engine work has retired: SMAXR keeps row maxima, EXPT writes exponentials and
adds their row sums, RESCALE multiplies by the row's factor, ROWDIV divides by the row sum; all spend one slot and have
their whole effect when they complete. -/
def AttentionResults : Prop :=
  ∀ (o s : State) (n : Fin 8) (v : Fin 32) (l sw : Bool), s = o.engineDone → s.here.eng = [] → kindOf s.cur = 2 → Ready s [vr v] →
    modeOf (s.here.accOf n).mode = 0 → Funded s →
    (∃ x, CompletesAfter (.smaxr n v sw) o s [vr v] (fun u => (u.charged 1).setLanes v x) ∧
      ∀ (i : Nat) (y : Lane), x i y =
        if i < 16 then rneLane (extMax (lane (s.here.lane v i)) (lane (rneLane (((s.here.accOf n).row i).foldl extMax (.inf true)))))
        else if i < 32 then s.here.lane v (i - 16) else y) ∧
    (∃ (e : Fin 16 → Fin 16 → Ext) (x : Nat → Lane → Lane), CompletesAfter (.expt n v sw) o s [vr v] (fun u =>
        ((u.charged 1).modAcc n (fun a => { a with elems := Vector.ofFn (fun (k : Fin 256) =>
          roundFA (rmOf s.here.fctl) (e ⟨k.val / 16, by omega⟩ ⟨k.val % 16, by omega⟩)) })).setLanes v x) ∧
      (∀ i j : Fin 16, e i j = if lane (s.here.lane v i) == .inf true then Ext.zero
        else exp2Val (extSub (decodeFA ((s.here.accOf n).elems[16 * i.val + j.val]?.getD 0)) (lane (s.here.lane v i)))) ∧
      ∀ (i : Nat) (y : Lane), x i y = if h : 32 ≤ i ∧ i < 48
        then rneLane (sumExt (lane y) ((List.finRange 16).map (fun j => (e ⟨i - 32, by omega⟩ j, Ext.num false 1 0, 0))) .rne) else y) ∧
    (∃ x, CompletesAfter (.rescale n l v sw) o s [vr v] (fun u =>
        ((u.charged 1).modAcc n (fun a => { a with elems := Vector.ofFn (fun (k : Fin 256) =>
          roundFA (rmOf s.here.fctl) (Ext.mul (decodeFA a.elems[k]) (rescaleF s.here v (k.val / 16)))) })).setLanes v x) ∧
      ∀ (i : Nat) (y : Lane), x i y = if l = true ∧ 32 ≤ i ∧ i < 48 then rneLane (Ext.mul (lane y) (rescaleF s.here v (i - 32))) else y) ∧
    CompletesAfter (.rowdiv n v sw) o s [] (fun u =>
      (u.charged 1).modAcc n (fun a => { a with elems := Vector.ofFn (fun (k : Fin 256) =>
        divFA (rmOf s.here.fctl) (decodeFA a.elems[k]) (lane (s.here.lane v (32 + k.val / 16)))) }))

/-- Accumulator modes, seeds and the attention instructions. -/
def Obligations.AccumulatorAndAttention : Prop := AccumulatorSetUp ∧ AttentionResults

/-- The tail slot of a ring can take `n` elements of a window: the ring is configured, the slot EMPTY and long enough, and for an MX
window the scale bytes lie in the scratchpad. -/
def TailFits (s : State) (q w n : Nat) : Prop :=
  (s.here.ring q).len ≠ 0 ∧ (s.here.slot (s.here.ring q).tail).state = .empty ∧
    winBytes w n ≤ (s.here.slot (s.here.ring q).tail).len ∧
    (isMx w = true → scaleOff (s.here.soff w) w (s.here.slot (s.here.ring q).tail).off (n - 1) < Config.scratchBytes)

/-- DRAIN, DRAINQ and DRAINR (R267 to R269) take effect at issue, once the earlier engine work has retired: the tail slot goes
from EMPTY to FILLING, one slot is spent and the drain joins the queue; DRAINQ has read its parameter block; DRAINR also has a
transfer of the slot to the destination's ring. -/
def DrainIssue : Prop :=
  ∀ (o s : State) (n : Fin 8) (q : Fin 16) (rm : Rm) (w : Fin 64) (sat z sw : Bool) (x win slot : Nat), s = o.engineDone →
    s.here.eng = [] → Ready s [wr w] → kindOf s.cur ≠ 3 → x = (s.here.getX w).toNat → slot = (s.here.ring q).tail → Funded s →
    (modeOf (s.here.accOf n).mode ≠ 2 → win ≠ 0 → (win = 12 → s.here.ordered = true) → TailFits s q win 256 →
      (win = x → x < 16 →
        Through (exec (.drain n q rm sat w z sw) o) s 4 [] (fun u =>
          ((u.charged 1).fillTail q).queued (.drain n slot win rm sat z))) ∧
      (∀ c, win = x / 2 ^ 36 % 16 → x < 2 ^ 41 → isMx win = false → coreOf (x % 2 ^ 32) = some c → c < Config.tileSites →
        s.partOf c = s.partOf s.cur → x % 2 ^ 32 / 2 ^ 24 = s.gen →
        ∃ f : Xfer, Through (exec (.drainr n q rm sat w z sw) o) { s with free := s.free + 1 } 4 [] (fun u =>
            { ((u.charged 1).fillTail q).queued (.drain n slot win rm sat z) with xfers := u.xfers ++ [f] }) ∧
          f.slot = some slot ∧ f.fill = false ∧ f.remote = some (c, some (x / 2 ^ 32 % 16)) ∧ f.bytes = winBytes win 256 ∧
          f.wake = (if x / 2 ^ 40 % 2 = 1 then some c else none) ∧ f.stopped = none ∧
          f.elems.map (·.len) = [winBytes win 256])) ∧
    (∀ (off : Nat) (b : List Byte), modeOf (s.here.accOf n).mode = 1 → Grants (s.here.getW w) (s.here.getW w).addr 256 Perm.load 64 →
      (∃ v, windowAt (s.here.getW w).addr 256 = some (v, off)) → s.isBad (scratchAt s.cur off) 256 = false →
      b = s.readAt (scratchAt s.cur off) 256 → win = blockNat b 193 1 % 16 → winInt win = true → blockNat b 193 1 < 32 →
      blockNat b 192 1 ≤ 63 → blockNat b 194 2 = 0 → blockNat b 200 56 = 0 → TailFits s q win 256 →
      Through (exec (.drainq n q w z sw) o) s 4 [] (fun u => ((u.charged 1).fillTail q).queued
        (.drainq n slot win ((List.range 16).map (fun i => sext (blockNat b (8 * i) 8) 64))
          ((List.range 16).map (fun i => sext (blockNat b (128 + 4 * i) 4) 32)) (decide (blockNat b 193 1 / 16 % 2 = 1))
          (blockNat b 192 1) (sext (blockNat b 196 4) 32) z)))

/-- What a drain's retirement leaves (R267, R268): the slot is READY, ZERO empties the accumulator, and element `i` of the slot holds
the code of the accumulator's element `i`: raw through W15, encoded elsewhere, requantised by DRAINQ; in an MX window with the
block's scale byte, where the planes do not meet. -/
def DrainResult : Prop :=
  ∀ (s t : State) (k n slot win : Nat) (rm : Rm) (sat z : Bool) (rest : List EngOp) (a : Acc) (off : Nat) (i : Fin 256),
    Memory.wf s.mem = true → n < 8 → slot < 256 → t = s.engineStep k → a = (s.tile k).accOf n → off = ((s.tile k).slot slot).off →
    ((s.tile k).eng = .drain n slot win rm sat z :: rest → 1 ≤ win → win ≤ 15 →
      ((t.tile k).slot slot).state = .ready ∧ (t.tile k).eng = rest ∧
      ((t.tile k).accOf n) = (if z then { a with elems := Vector.replicate 256 0 } else a) ∧
      (win = 15 → t.readNat (scratchAt k (off + 16 * i.val)) 16 = (a.elems[i]).toNat) ∧
      (win ≠ 15 → isMx win = false → elemBits t k win off i.val =
        (encodeWin (s.tile k).table win rm sat (elemExt a.mode a.elems[i])).1 % 2 ^ (8 * elemBytes win)) ∧
      (isMx win = true → off % 64 = 0 →
        (scaleOff ((s.tile k).soff win) win off 255 < off ∨ off + winBytes win 256 ≤ scaleOff ((s.tile k).soff win) win off 0) →
        ∃ v q, v = ((a.elems.toList.drop (i.val / 32 * 32)).take 32).map (elemExt a.mode) ∧ q = mxScale win v ∧
          scaleByte t k ((s.tile k).soff win) win off i.val = q ∧
          elemBits t k win off i.val =
            ((mxEncode (s.tile k).table win rm q v).getD (i.val % 32) (0, 0)).1 % 2 ^ (if win = 8 then 4 else 8))) ∧
    (∀ corr mult csel shift zout bits sg, (s.tile k).eng = .drainq n slot win corr mult csel shift zout z :: rest →
      winKind win = .int bits sg →
      ((t.tile k).slot slot).state = .ready ∧ ((t.tile k).accOf n) = (if z then { a with elems := Vector.replicate 256 0 } else a) ∧
      elemBits t k win off i.val = ((requant (a.elems[i]).toInt (corr.getD (if csel then i.val % 16 else i.val / 16) 0)
        (mult.getD (i.val % 16) 0) shift zout (intLo bits sg) (intHi bits sg)) % (2 ^ bits : Nat)).toNat)

/-- DRAIN and DRAINQ: what issue does, and what the engine writes when it retires them.
The model's own choices that it rests on: log entries 12 and 49. -/
def Obligations.DrainResults : Prop := DrainIssue ∧ DrainResult

/-- The sieve instructions at issue (R270), once the earlier engine work has retired: SPUSH, SMERGE and SREAD spend one slot and join
the queue; SPEG gives the peg and the number of entries of a list. -/
def SieveIssue : Prop :=
  ∀ (o s : State) (n m : Fin 8) (j q : Fin 16) (w : Fin 64) (sw : Bool) (x : Nat), s = o.engineDone → s.here.eng = [] → kindOf s.cur ≠ 3 →
    modeOf (s.here.accOf n).mode = 2 →
    (j.val < sieveLists (s.here.accOf n).mode → Ready s [wr w] →
      Through (exec (.speg n j w sw) o) s 4 (results [wr w]) (fun u => u.putX w (BitVec.ofNat 64
        ((s.here.accOf n).peg j + ((s.here.accOf n).list j).length * 2 ^ 32))) ∧
      (x = (s.here.getX w).toNat → Funded s →
        Through (exec (.spush n j w sw) o) s 4 [] (fun u => (u.charged 1).queued
          (.spush n j (widenKey (sieveFmt (s.here.accOf n).mode) (x % 2 ^ 32)) (sieveBase (s.here.accOf n).mode + x / 2 ^ 32))))) ∧
    (Funded s →
      (modeOf (s.here.accOf m).mode = 2 → sieveLists (s.here.accOf m).mode = sieveLists (s.here.accOf n).mode →
        Through (exec (.smerge n (.acc m) sw) o) s 4 [] (fun u => (u.charged 1).queued (.smergeAcc n m))) ∧
      (Operand s q (s.here.ring q).head 0 4096 →
        Through (exec (.smerge n (.slot q) sw) o) s 4 [] (fun u => (u.charged 1).queued (.smergeSlot n (s.here.ring q).head))) ∧
      (TailFits s q 0 4096 →
        Through (exec (.sread n q sw) o) s 4 [] (fun u => ((u.charged 1).fillTail q).queued (.sread n (s.here.ring q).tail))))

/-- Admission to a list (R93): a NaN key never enters; otherwise the list holds, in rank order and without duplicates, the first
`k` of the pairs it held and the new one, whose key −0 is stored as +0. -/
def SieveAdmission : Prop :=
  ∀ (k : Nat) (l : List Pair) (x : Pair), l.Pairwise (fun a b => ranksBefore a b = true) → l.length ≤ k → x.1 < 2 ^ 32 →
    (∀ y ∈ l, y.1 < 2 ^ 32 ∧ keyNan y.1 = false ∧ y.1 ≠ 0x80000000) →
    (keyNan x.1 = true → admitPair k l x = l) ∧
    (keyNan x.1 = false →
      (admitPair k l x).Pairwise (fun a b => ranksBefore a b = true) ∧ (admitPair k l x).length ≤ k ∧
      (∀ y, y ∈ admitPair k l x → y ∈ l ∨ y = (sieveKey x.1, x.2)) ∧
      ∀ y, (y ∈ l ∨ y = (sieveKey x.1, x.2)) → y ∉ admitPair k l x →
        (admitPair k l x).length = k ∧ ∀ v ∈ admitPair k l x, ranksBefore v y = true)

/-- What SPUSH, SMERGE, SREAD and SMMA do when they retire (R270, R271): list j of the accumulator takes the pairs by admission and
the other lists keep theirs; a slot merged is popped; SREAD writes every element of the accumulator as 16 bytes; SMMA pops its
slots and advances IBASE, whether or not it was skipped, and a skipped one changes no list. -/
def SieveResult : Prop :=
  ∀ (s t : State) (k n : Nat) (rest : List EngOp) (a a' : Acc), Memory.wf s.mem = true → n < 8 → t = s.engineStep k →
    a = (s.tile k).accOf n → a' = (t.tile k).accOf n → sieveLists a.mode ≤ 16 → sieveDepth a.mode ≤ 256 / sieveLists a.mode →
    (∀ j key idx, (s.tile k).eng = .spush n j key idx :: rest → j < sieveLists a.mode → key < 2 ^ 32 → idx < 2 ^ 40 →
      (a.list j).length ≤ sieveDepth a.mode →
      a'.mode = a.mode ∧ a'.list j = admitPair (sieveDepth a.mode) (a.list j) (key, idx) ∧
        ∀ i, i < sieveLists a.mode → i ≠ j → a'.list i = a.list i) ∧
    (∀ src, (s.tile k).eng = .smergeAcc n src :: rest → src < 8 → src ≠ n →
      sieveLists ((s.tile k).accOf src).mode = sieveLists a.mode → (∀ j, j < sieveLists a.mode → (a.list j).length ≤ sieveDepth a.mode) →
      (t.tile k).accOf src = (s.tile k).accOf src ∧
      ∀ j, j < sieveLists a.mode → a'.list j = (((s.tile k).accOf src).list j).foldl (admitPair (sieveDepth a.mode)) (a.list j)) ∧
    (∀ slot, (s.tile k).eng = .smergeSlot n slot :: rest → slot < 256 → ((t.tile k).slot slot).state = .empty) ∧
    (∀ slot (i : Fin 256), (s.tile k).eng = .sread n slot :: rest → slot < 256 →
      ((t.tile k).slot slot).state = .ready ∧ a' = a ∧
      t.readNat (scratchAt k (((s.tile k).slot slot).off + 16 * i.val)) 16 =
        if (a.elems[i]).getLsbD 7 then (a.elems[i]).toNat / 2 ^ 48 + (a.elems[i]).toNat / 2 ^ 8 % 2 ^ 40 * 2 ^ 32 + 2 ^ 72 else 0) ∧
    (∀ sa sb wa wb bound, (s.tile k).eng = .smma n sa sb wa wb bound :: rest → sa < 256 → sb < 256 →
      ((t.tile k).slot sa).state = .empty ∧ ((t.tile k).slot sb).state = .empty ∧
      sieveBase a'.mode = (sieveBase a.mode + 256 / sieveLists a.mode) % 2 ^ 32 ∧ a'.mode.toNat % 2 ^ 32 = a.mode.toNat % 2 ^ 32 ∧
      (smmaSkips a bound = true → a'.elems = a.elems))

/-- The sieve: SPUSH, SPEG and SPULL at issue, what an admission keeps, and what the engine writes.
The model's own choices that it rests on: log entry 37. -/
def Obligations.SieveResults : Prop := SieveIssue ∧ SieveAdmission ∧ SieveResult

/-- The operand checks of BMM (R264, R376) hold for the slices `ma` and `mb` of its maps and the progress word `x`. -/
def BmmAccepts (s : State) (n : Fin 8) (x : Nat) (ma mb : Slice) : Prop :=
  ma.extent 0 = mb.extent 0 ∧ ma.extent 0 < 2 ^ 21 ∧ n.val + ceilDiv (ma.extent 1) 16 ≤ 8 ∧ x < 2 ^ 48 ∧
    (x / 2 ^ 24 % 2 ^ 8 = 0 ∨ ((ma.extent 0 = 0 ∨ 32 * (x % 2 ^ 16) < ma.extent 0) ∧
      x / 2 ^ 16 % 2 ^ 8 < x / 2 ^ 24 % 2 ^ 8 ∧ x / 2 ^ 24 % 2 ^ 8 - x / 2 ^ 16 % 2 ^ 8 ≤ 16)) ∧
    (∀ m ∈ [ma, mb], isMx m.win = true → (windowAt m.origin 1).isSome = true) ∧ modeOf (s.here.accOf n).mode ≠ 2 ∧
    (windowOk (s.here.accOf n).mode ma.win = true ∧ windowOk (s.here.accOf n).mode mb.win = true) ∧
    ∀ i, i < ceilDiv (ma.extent 1) 16 → modeOf (s.here.accOf (i + n)).mode ≠ 2 ∧
      windowOk (s.here.accOf (i + n)).mode ma.win = true ∧ windowOk (s.here.accOf (i + n)).mode mb.win = true

/-- BMM and BMM.R (R264, R265), with S set, once the earlier engine work has retired: `live` rows of A are to be
used, all of them, or as many as the arrival counter at wp + 2 says. With no row group open and none left to open it is through
and changes nothing; otherwise it opens the next row group of at most 16 rows within one accumulator if none is open, does one
step of at most 32 terms, and goes on at itself with the progress word of what remains in wp + 1.
The model's own choices that it rests on: log entry 34. -/
def Obligations.BlockMultiply : Prop :=
  ∀ (o s t v : State) (n : Fin 8) (a b : Fin 32) (w : Fin 64) (c ragged : Bool) (ma mb : Slice) (x live lo : Nat) (l : List Byte) (g : Bool),
    s = o.engineDone → s.here.eng = [] → kindOf s.cur = 0 ∨ kindOf s.cur = 2 → w.val + (if ragged then 2 else 1) ≤ 63 →
    Ready s ([wr w, (.w, w.val + 1)] ++ if ragged then [(.w, w.val + 2)] else []) →
    readMap a s = .ok ma s → readMap b s = .ok mb s → x = (s.here.getX (w.val + 1)).toNat → BmmAccepts s n x ma mb →
    lo = x / 2 ^ 16 % 2 ^ 8 →
    (x / 2 ^ 24 % 2 ^ 8 = 0 → (if ragged
      then Grants (s.here.getW (w.val + 2)) (s.here.getW (w.val + 2)).addr 4 Perm.load 4 ∧
        Loads s (s.here.getW (w.val + 2)).addr 4 false t l g ∧ live = min (ma.extent 1) (leNat l)
      else t = s ∧ live = ma.extent 1)) →
    (x / 2 ^ 24 % 2 ^ 8 ≠ 0 → t = s) →
    (x / 2 ^ 24 % 2 ^ 8 = 0 → (live ≤ lo ∨ mb.extent 1 ≤ x / 2 ^ 32) →
      Through (exec (if ragged then .bmmR n a b w c true else .bmm n a b w c true) o) t 4 (results [(.w, w.val + 1)]) (fun u => u)) ∧
    (∀ p : Progress, p = (if x / 2 ^ 24 % 2 ^ 8 = 0 then ⟨x / 2 ^ 32, min live (16 * (lo / 16 + 1)), lo, 0⟩
        else ⟨x / 2 ^ 32, x / 2 ^ 24 % 2 ^ 8, lo, x % 2 ^ 16⟩) →
      (x / 2 ^ 24 % 2 ^ 8 = 0 → lo < live ∧ x / 2 ^ 32 < mb.extent 1) →
      bmmStep n w ma mb p (min 16 (mb.extent 1 - p.j0)) c t = .ok ⟨⟩ v → v.here.bound (w.val + 1) = none →
      ∃ u, exec (if ragged then .bmmR n a b w c true else .bmm n a b w c true) o = .next u ∧
        Effect v u (fun y => y.putX (w.val + 1) (BitVec.ofNat 64
          (if 32 * (p.ks + 1) < ma.extent 0 then p.ks + 1 + p.rowLo % 2 ^ 8 * 2 ^ 16 + p.rowHi % 2 ^ 8 * 2 ^ 24 + p.j0 * 2 ^ 32
            else p.rowHi % 2 ^ 8 * 2 ^ 16 + p.j0 * 2 ^ 32))) ∧
        u.here.pc = v.here.pc ∧ u.here.rep.isSome = true ∧ u.here.runPos = 0)

/-- SEND (R278, R131) takes effect with its header naming a core of the partition in the current generation and a free place in the
send buffer, once the core's stores to the tier of the narrowest scope that holds both cores have been performed: one message with
the payload registers' values enters the buffer. With no place it waits. -/
def SendMessage : Prop :=
  ∀ (o s : State) (h b : Fin 64) (sw : Bool) (x c len : Nat), Ready o [wr h] →
    x = (o.here.getX h).toNat → x < 2 ^ 41 → len = x / 2 ^ 36 % 16 → len ≤ 8 → (len = 0 → b = 0) → b.val + len ≤ 64 →
    Ready o ((List.range len).map (fun i => (File.w, b.val + i))) →
    coreOf (x % 2 ^ 32) = some c → c < Config.tileSites → o.partOf c = o.partOf o.cur → x % 2 ^ 32 / 2 ^ 24 = o.gen →
    (x / 2 ^ 40 = 1 → len = 0 ∧ x / 2 ^ 32 % 16 = 0) → s = o.storesDone (o.scopeOf o.cur c) →
    ((o.msgs.filter (fun m => decide (m.src = o.cur) && m.buffered)).length < 8 → Performed s (o.scopeOf o.cur c) →
      ∃ m : Msg, Through (exec (.send h b sw) o) { s with msgs := s.msgs ++ [m] } 4 [] (fun u => u) ∧
        m.src = s.cur ∧ m.srcName = s.nameOf s.cur ∧ m.dest = c ∧ m.cls = x / 2 ^ 32 % 16 ∧ m.len = len ∧
        m.wake = decide (x / 2 ^ 40 = 1) ∧ m.buffered = true ∧ m.data = (List.range len).map (fun i => s.here.getX (b.val + i))) ∧
    (8 ≤ (o.msgs.filter (fun m => decide (m.src = o.cur) && m.buffered)).length → Waits (exec (.send h b sw) o) o .sendSpace)

/-- HRET and MBOX (R280, R281). HRET, with S set and not at a loop's END, ends the handler: the current message is emptied and
execution continues at HPC, with bit 0 clear; outside a handler it traps with HRET_OUTSIDE. MBOX gives what its OP names whenever its registers
are ready; TAKE, RELEASE and CLEAR also change the inbox. -/
def HandlersAndInbox : Prop :=
  ∀ (s : State) (d w : Fin 64) (sw : Bool) (sel : Fin 16),
    (NotAtEnd s → s.here.handler = true → ∃ xs, Jumps (exec (.hret true) s) s (pcOf s.here.hpc)
        (fun u => { u with cmsg := none, handler := false, xfers := xs })) ∧
    (NotAtEnd s → s.here.handler = false → s.here.eng = [] → Traps (exec (.hret true) s) s ⟨0x25, .none, 0x34, 1, 0, s.here.pc.addr, 0⟩ 4) ∧
    (Ready s [wr w, wr d] →
      (s.here.getX w = BitVec.ofNat 64 sel → sel.val < 8 → CompletesDeferred (.mbox d w sw) s [wr d]
        (fun u => u.putX d (match u.cmsg with | none => 0 | some m => if sel.val < m.len then m.data.getD sel 0 else 0))) ∧
      (s.here.getX w = BitVec.ofNat 64 (0x10 + sel) → CompletesDeferred (.mbox d w sw) s [wr d]
        (fun u => u.putX d (match u.cmsg with
          | none => 0
          | some m => BitVec.ofNat 64 (m.source % 2 ^ 32 + m.cls % 16 * 2 ^ 32 + m.len % 16 * 2 ^ 36 + 2 ^ 40)))) ∧
      (s.here.getX w = BitVec.ofNat 64 (0x20 + sel) → CompletesDeferred (.mbox d w sw) s [wr d]
        (fun u => match (u.held sel).head? with
          | none => u.putX d 0
          | some m => { u.takeHead sel with cmsg := some m }.putX d 1)) ∧
      (s.here.getX w = BitVec.ofNat 64 (0x30 + sel) → CompletesDeferred (.mbox d w sw) s [wr d]
        (fun u => (if (u.cls sel).ranked = true ∧ u.held sel ≠ [] then u.modCls sel (fun e => { e with latch := true }) else u).putX d
          (BitVec.ofNat 64 (u.held sel).length))) ∧
      (s.here.getX w = BitVec.ofNat 64 (0x40 + sel) → CompletesDeferred (.mbox d w sw) s [wr d]
        (fun u => u.putX d (BitVec.ofNat 64 ((u.held sel).length % 2 ^ 16 + (u.cls sel).discards % 2 ^ 32 * 2 ^ 16)))) ∧
      (s.here.getX w = BitVec.ofNat 64 (0x50 + sel) → CompletesDeferred (.mbox d w sw) s [wr d]
        (fun u => (u.modCls sel (fun e => { e with discards := 0 })).putX d
          (BitVec.ofNat 64 ((u.held sel).length % 2 ^ 16 + (u.cls sel).discards % 2 ^ 32 * 2 ^ 16)))))

/-- SEND, the inbox instructions and HRET.
The model's own choices that it rests on: log entries 21, 37, 39 and 46. -/
def Obligations.MessagesAndHandlers : Prop := SendMessage ∧ HandlersAndInbox

/-- The barrier instruction of a kind. -/
def barrierOf (kind : BarKind) (d v : Fin 64) (i : Fin 16) (sc : Scope) (red : Red) (sw : Bool) : Instr :=
  match kind with
  | .bar => .bar d v i sc red sw
  | .barw => .barw d v i sc red sw
  | .sstep => .sstep d v i sc red sw

/-- BAR, BARW and SSTEP (R44, R133, R282) of a task that has not arrived, once its engine work, and its stores and transfers into the
tier of the scope, are done; `b` is its barrier, `all` the arrivals with its own. SSTEP always completes with 0. Where it is the last to arrive, BAR and
BARW complete with the reduced value and every other task that arrived is DONE with it; where it is not, BARW waits with the arrival
recorded, and BAR completes, and its run waits for the value at its end. BARW of a task that is DONE takes the latched value; other
arrivals drop it. -/
def Barriers : Prop :=
  ∀ (o s : State) (kind : BarKind) (d v : Fin 64) (i : Fin 16) (sc : Scope) (red : Red) (sw : Bool) (r : TaskRef) (g : Grid) (b : Barrier)
    (all : List (Nat × Word)), s = o.settled sc → s.here.eng = [] → Performed s sc → (kind = .barw → sw = true) → Ready s [wr v, wr d] →
    s.here.task = some r → s.gridOf s.cur = some g → b = g.bar sc (instOf g sc r) i → hasRank b.arrived (grankOf g r) = false →
    all = b.arrived ++ [(grankOf g r, s.here.getX v)] →
    (hasRank b.done (grankOf g r) = true → kind = .barw →
      ∃ x, (grankOf g r, x) ∈ b.done ∧
        Through (exec (barrierOf kind d v i sc red sw) o) (s.modGrid r.grid (fun g => g.setBar
          { b with done := b.done.filter (fun y => decide (y.1 ≠ grankOf g r)) })) 4 (results [wr d]) (fun u => u.putX d x)) ∧
    ((hasRank b.done (grankOf g r) = false ∨ kind ≠ .barw) → (b.arrived = [] ∨ b.red = some red) → s.xfersIn s.cur sc = false →
      (kind = .sstep → Through (exec (barrierOf kind d v i sc red sw) o)
        (s.modGrid r.grid (fun g => g.arrive b (grankOf g r) red (s.here.getX v))) 4 (results [wr d]) (fun u => u.putX d 0)) ∧
      (kind ≠ .sstep →
        ((∀ x ∈ instRanks g sc (instOf g sc r), hasRank all x = true ∨ g.exited.contains x = true) →
          ∃ g' x, Through (exec (barrierOf kind d v i sc red sw) o) (s.modGrid r.grid (fun _ => g')) 4 (results [wr d]) (fun u => u.putX d x) ∧
            x = all.foldl (fun a y => Red.join red a y.2) (Red.identity red) ∧ g' = { g with bars := g'.bars } ∧
            (g'.bar sc (instOf g sc r) i).arrived = [] ∧
            ∀ y ∈ b.arrived, y.1 ≠ grankOf g r → (y.1, x) ∈ (g'.bar sc (instOf g sc r) i).done) ∧
        (¬ (∀ x ∈ instRanks g sc (instOf g sc r), hasRank all x = true ∨ g.exited.contains x = true) →
          (kind = .bar → Through (exec (barrierOf kind d v i sc red sw) o)
            (s.modGrid r.grid (fun g => g.arrive b (grankOf g r) red (s.here.getX v))) 4 (results [wr d])
            (fun u => { u with due := u.due ++ [⟨sc, instOf g sc r, i, d, u.pc⟩] })) ∧
          (kind = .barw → ∃ t, exec (barrierOf kind d v i sc red sw) o = .next t ∧ t.here.pc = s.here.pc ∧ t.here.w = s.here.w ∧
            t.here.wait.map (·.on) = some (.barrier sc i true true) ∧
            ∃ g', t.grid? r.grid = some g' ∧ (g'.bar sc (instOf g sc r) i).arrived = all))))

/-- The end of a run that holds BARs (R195, R282): while the episode of one of them is open the parked run waits; once each has
completed, the first BAR's register takes its value and the task is IDLE at its barrier. -/
def BarrierValues : Prop :=
  ∀ (s : State) (k : Nat) (r : TaskRef) (g : Grid) (d : Due), k < Config.tileSites → (s.tile k).parked = true → (s.tile k).due = [d] →
    (s.tile k).task = some r → s.gridOf k = some g → (s.tile k).bound d.wd = none → d.wd < 64 →
    (∀ x, (g.bar d.scope d.inst d.id).done.find? (fun y => decide (y.1 = grankOf g r)) = some (grankOf g r, x) →
      ∃ t, exec (.deferredResult k) s = .next t ∧ t.cur = s.cur ∧ (t.tile k).parked = false ∧ (t.tile k).due = [] ∧ (t.tile k).pend = [] ∧
        (t.tile k).w = ((s.tile k).putX d.wd x).w ∧
        ∃ g', t.grid? r.grid = some g' ∧ hasRank (g'.bar d.scope d.inst d.id).done (grankOf g r) = false) ∧
    (hasRank (g.bar d.scope d.inst d.id).done (grankOf g r) = false →
      ∃ t, exec (.deferredResult k) s = .next t ∧ (t.tile k).parked = true ∧ (t.tile k).due = [d] ∧ (t.tile k).w = (s.tile k).w)

/-- CRED (R289, R290): a task whose collective has its result completes and advances its count; one that has joined a collective
without a result waits. For the integer window W0 an element of the result is the sum modulo 2^64 in every order. -/
def CollectiveReduction : Prop :=
  ∀ (o s : State) (w : Fin 64) (sc : Scope) (ord : CredOrd) (sw : Bool) (r : TaskRef) (g : Grid) (q : Coll),
    s = o.engineDone → Ready s [wr w] → s.here.task = some r → s.gridOf s.cur = some g →
    s.colls.find? (fun c => c.isAt r.grid sc (instOf g sc r) (credCount s.here.creds sc)) = some q →
    (q.takers.contains (grankOf g r) = true → ∃ cs, Through (exec (.cred w sc ord sw) o) { s with colls := cs } 4 []
      (fun u => { u with creds := credNext u.creds sc })) ∧
    (q.takers.contains (grankOf g r) = false → (∃ p ∈ q.parts, p.grank = grankOf g r) →
      Waits (exec (.cred w sc ord sw) o) s (.cred sc (credCount s.here.creds sc))) ∧
    (∀ (arrival : List Nat) (parts : List (Option CollPart)) (n i : Nat), i < n →
      leNat (((credResult ord 0 n arrival parts).1.drop (8 * i)).take 8) =
        (parts.map (fun p => match p with | none => 0 | some p => leNat ((p.data.drop (8 * i)).take 8))).sum % 2 ^ 64)

/-- Barriers, the values that BARs leave to their run's end, and the collective reductions CRED.
The model's own choices that it rests on: log entries 34 and 37. -/
def Obligations.Rendezvous : Prop := Barriers ∧ BarrierValues ∧ CollectiveReduction

/-- The deque instructions (R50, R51, R283) whenever wd and wr are ready. `l` is the task's deque, oldest entry first. -/
def Obligations.DequeInstructions : Prop :=
  ∀ (s : State) (d r : Fin 64) (sc : Scope) (sw : Bool) (l : List (Nat × Nat)) (lo hi : Nat), Ready s [wr r, wr d] → l = s.here.deque →
    (lo = (s.here.getX r).toNat % 2 ^ 32 → hi = (s.here.getX r).toNat / 2 ^ 32 →
      CompletesDeferred (.dpush d r sw) s [wr d] (fun u =>
        if hi ≤ lo then u.putX d 1 else if 32 ≤ l.length then u.putX d 0 else { u with deque := l ++ [(lo, hi)] }.putX d 1)) ∧
    (l = [] → CompletesDeferred (.dpop d sw) s [wr d] (fun u => u.putX d 0) ∧ CompletesDeferred (.dsplit d sw) s [wr d] (fun u => u.putX d 0)) ∧
    (∀ l', l = l' ++ [(lo, hi)] → lo < 2 ^ 32 → hi < 2 ^ 32 →
      CompletesDeferred (.dpop d sw) s [wr d] (fun u => { u with deque := l' }.putX d (BitVec.ofNat 64 (lo + hi * 2 ^ 32))) ∧
      (2 ≤ hi - lo → l.length < 32 → CompletesDeferred (.dsplit d sw) s [wr d] (fun u =>
        { u with deque := l' ++ [(lo + (hi - lo + 1) / 2, hi), (lo, lo + (hi - lo + 1) / 2)] }.putX d 1)) ∧
      ((hi - lo < 2 ∨ 32 ≤ l.length) → CompletesDeferred (.dsplit d sw) s [wr d] (fun u => u.putX d 0))) ∧
    ((∀ k ∈ s.victims sc, (s.tile k).deque = []) → CompletesDeferred (.dsteal d sc sw) s [wr d] (fun u => u.putX d 0)) ∧
    (∀ (before after : List Nat) (k : Nat) (rest : List (Nat × Nat)), s.victims sc = before ++ k :: after →
      (∀ j ∈ before, (s.tile j).deque = []) → (s.tile k).deque = (lo, hi) :: rest → lo < hi → hi < 2 ^ 32 →
      ∃ m, m = (if hi - lo = 1 then hi else lo + (hi - lo + 1) / 2) ∧
        Through (exec (.dsteal d sc sw) s) (s.modTile k (fun u => { u with deque := if hi - lo = 1 then rest else (m, hi) :: rest })) 4
          (results [wr d]) (fun u => u.putX d (BitVec.ofNat 64 (lo + m * 2 ^ 32))))

/-- What a transfer's local slot becomes when the copy engine accepts it: the tail slot of ring `q` is taken for a fill, the head
slot is DRAINING. -/
def slotTaken (q : Option Nat) (fill : Bool) (u : Tile) : Tile :=
  match q with
  | none => u
  | some q => if fill then u.fillTail q else u.modSlot (u.ring q).head (fun x => { x with state := .draining })
/-- The local slot of a transfer of `n` bytes is ready to be taken. -/
def SlotReadyFor (s : State) (q : Option Nat) (fill : Bool) (n slot : Nat) : Prop :=
  ∀ r, q = some r → (s.here.ring r).len ≠ 0 ∧ slot = (if fill then (s.here.ring r).tail else (s.here.ring r).head) ∧
    n ≤ (s.here.slot slot).len ∧ (s.here.slot slot).state = if fill then .empty else .ready

/-- No queued engine instruction and no store of the core is still to be performed, so that nothing stands before a transfer
(R127). -/
def NothingBefore (s : State) : Prop := s.here.eng = [] ∧ s.undrained s.cur (fun _ => true) = false

/-- GET and PUT (R284 to R286) take effect with nothing of the task before them, with a legal descriptor, the slot ready, every memory range granted and a place in the copy engine: the transfer is accepted with one element for each entry, from
the source place to the destination. -/
def GetPutAccepted : Prop :=
  ∀ (o s t : State) (w : Fin 64) (put sw : Bool) (b : List Byte) (g : Bool) (d : Desc) (cap : Reg) (q : Option Nat) (slot : Nat),
    s = o.engineDone → Ready s [wr w] → Grants (s.here.getW w) (s.here.getW w).addr 64 Perm.load 16 →
    Loads s (s.here.getW w).addr 64 false t b g → NothingBefore t → d = Desc.of put b → cap = blockCap b 0 g (s.here.getW w) →
    descChecks w b d t = .ok ⟨⟩ t → q = (if d.lkind = 1 then some d.lq else none) → SlotReadyFor t q (!put) (d.count * d.elen) slot →
    (d.list ≠ 0 → t.isBad (scratchAt t.cur d.ioff) (4 * d.count) = false) →
    (d.rkind = 0 → ∀ x ∈ d.entries t t.cur, rangeCause cap (if d.list = 2 then max d.estride 4 else d.elen)
      (Perm.engine + (if put then Perm.store else Perm.load) + (if d.list = 2 then Perm.load else 0)) put
      (addrAdd cap.addr ((x * d.estride : Nat) : Int)) = none) →
    t.here.copying < 16 →
    ∃ x : Xfer, Through (exec (if put then .put w sw else .get w sw) o) { t with free := t.free + 1 } 4 []
        (fun u => { slotTaken q (!put) u with xfers := u.xfers ++ [x] }) ∧
      x.bytes = d.count * d.elen ∧ x.stopped = none ∧ x.slot = q.map (fun _ => slot) ∧ x.elems.length = d.count ∧
      ∀ e, e < d.count → ∃ y far,
        (d.entries t t.cur)[e]? = some y ∧
        far = d.far { t with free := t.free + 1 } t.cur cap.addr e y ∧
        x.elems[e]? = some (if put
          then ⟨e, .scratch t.cur ((if q.isSome then (t.here.slot slot).off else d.loff) + e * d.elen), far, d.elen⟩
          else ⟨e, far, .scratch t.cur ((if q.isSome then (t.here.slot slot).off else d.loff) + e * d.elen), d.elen⟩)

/-- CWAIT and COPY (R287, R288). CWAIT completes with the counter's value when it is at or past the one asked for, modulo 2^32, and
waits otherwise. COPY, under the conditions of GET and PUT, is accepted with one element for each row of the slice. -/
def CounterWaitsAndCopies : Prop :=
  ∀ (o s : State) (d c p : Fin 64) (sw : Bool),
    (∀ w off v, s = o.engineDone → Ready s [wr d, wr c] → Grants (s.here.getW c) (s.here.getW c).addr 4 Perm.load 4 →
      windowAt (s.here.getW c).addr 4 = some (w, off) → s.isBad (scratchAt s.cur off) 4 = false →
      s.engineHoldsKey (scratchAt s.cur off) 4 false = false →
      v = s.readNat (scratchAt s.cur off) 4 →
      ((v + 2 ^ 32 - (s.here.getX d).toNat % 2 ^ 32) % 2 ^ 32 < 2 ^ 31 →
        Through (exec (.cwait d c sw) o) s 4 (results [wr d]) (fun u => u.putX d (BitVec.ofNat 64 v))) ∧
      (2 ^ 31 ≤ (v + 2 ^ 32 - (s.here.getX d).toNat % 2 ^ 32) % 2 ^ 32 → Waits (exec (.cwait d c sw) o) s .slots)) ∧
    (∀ (x cnt slot : Nat) (put : Bool) (q : Option Nat) (m : Slice), s = o.engineDone → NothingBefore s → Ready s [wr p, wr c] →
      x = (s.here.getX p).toNat → x / 2 ^ 11 % 2 = 0 → x / 2 ^ 31 % 2 = 0 → x < 2 ^ 48 → cnt = x / 2 ^ 32 →
      (cnt = 0xFFFF ∨ 8 * cnt + 4 ≤ Config.scratchBytes) → put = decide (x / 2 ^ 5 % 2 = 1) → readMap (x % 32) s = .ok m s →
      (m.win = 8 → m.extent 0 % 2 = 0) → m.bytes ≤ Config.scratchBytes →
      q = (if x / 2 ^ 6 % 2 = 1 then some (x / 2 ^ 7 % 2 ^ 4) else none) →
      (q = none → x / 2 ^ 12 % 2 ^ 19 + m.bytes ≤ Config.scratchBytes) → SlotReadyFor s q (!put) m.bytes slot →
      (∀ a ∈ m.rows, rangeCause (s.here.getW c) m.rowBytes (Perm.engine + (if put then Perm.store else Perm.load)) put a = none) →
      s.here.copying < 16 →
      ∃ f : Xfer, Through (exec (.copy p c sw) o) { s with free := s.free + 1 } 4 []
          (fun u => { slotTaken q (!put) u with xfers := u.xfers ++ [f] }) ∧
        f.bytes = m.bytes ∧ f.localCtr = (if cnt = 0xFFFF then none else some (8 * cnt)) ∧ f.elems.length = m.rows.length)

/-- A transfer from the core's scratchpad to its scratchpad, with nothing in its way, is completed by the copy engine (R286): the
destination holds the source's bytes, every other byte of memory and every other core is as it was, and the engine is free
of it. -/
def TransferMovesBytes : Prop :=
  ∀ (s : State) (k a b n : Nat) (x : Xfer), Memory.wf s.mem = true → (s.tile k).xfers = [x] → x.elems = [⟨0, .scratch k a, .scratch k b, n⟩] →
    x.stopped = none → x.interval = 0 → x.remote = none → x.slot = none → x.localCtr = none → x.remoteCtr = none → x.wake = none →
    s.isBad (scratchAt k a) n = false → s.badPartial (scratchAt k b) n = false →
    (s.rows.any (fun r => decide (r.sender = k ∧ r.xfer = x.id))) = false →
    ∃ t, exec (.transferComplete k 0) s = .next t ∧ t.readAt (scratchAt k b) n = s.readAt (scratchAt k a) n ∧ (t.tile k).xfers = [] ∧
      (∀ y, y < scratchAt k b ∨ scratchAt k b + n ≤ y → Memory.get t.mem y = Memory.get s.mem y) ∧
      ∀ j, j ≠ k → t.tile j = s.tile j

/-- GET, PUT, COPY and CWAIT, and the bytes that a transfer moves when it completes.
The model's own choices that it rests on: log entries 19 and 37. -/
def Obligations.TransferResults : Prop := GetPutAccepted ∧ CounterWaitsAndCopies ∧ TransferMovesBytes

/-- The region that a lattice instruction names can be opened (R291 steps 6 to 8): the capability grants the descriptor with LATTICE
and `perms`, its page translates, no earlier store of the core to it is waiting and no engine owns a line of the region (R126, R129),
and the descriptor `r` at the physical address `pa` has a legal form. -/
def OpensRegion (s : State) (c : Reg) (perms need pa : Nat) (t : State) (r : Region) : Prop :=
  Grants c c.addr 128 (Perm.lattice + perms) 1 ∧ locate c.addr 128 = .virt ∧
    (∃ p, s.translateAt s.cur false c.addr need = .ok (p, t) ∧ pa = p.key) ∧ isExpert pa = false ∧
    t.undrained t.cur (PStore.over pa 128) = false ∧ t.owned t.cur noXfer pa 128 = false ∧
    (∀ x ∈ regionSpans t pa, t.owned t.cur noXfer x.1 x.2 = false) ∧
    t.isBad pa 128 = false ∧ r = readRegion t pa ∧ regionForm r = none
/-- A cell buffer (R291 step 8). -/
def CellBuffer (c : Reg) (r : Region) (perms off : Nat) : Prop :=
  Grants c c.addr r.cellBytes perms (elemBytes r.cfmt) ∧ ∃ w, windowAt c.addr r.cellBytes = some (w, off)
/-- The state after an event of the lattice unit that led from the region `r` to `y`. -/
def afterEvent (r : Region) (y : LatSt) : State := if y.r = r then y.s else writeRegion y.s y.r

/-- The lattice instructions (R291, R293) once the engine work of the task has retired, on a region that opens: LLD writes
the key's cell to the buffer; LST and LADD store or merge the buffer's elements in one event; LSCAN gives the next key and its
cell, or END; LCOUNT the counts of the descriptor; LGROW sets the capacities. LATTICE_EVENT performs the unit's operation in
full, and one that the unit refuses changes nothing. -/
def LatticeInstructions : Prop :=
  ∀ (o s t : State) (p l d : Fin 64) (sw : Bool) (pa off key : Nat) (r : Region), s = o.engineDone →
    (OpensRegion s (s.here.getW l) Perm.load needR pa t r →
      (p.val ≤ 62 → Ready s [wr p, (.w, p.val + 1), wr l] → key = (s.here.getX p).toNat → key < 2 ^ r.keyWidth →
        CellBuffer (s.here.getW (p.val + 1)) r Perm.store off →
        ∀ b y, latLoad key ⟨r, t⟩ = .ok b y → y.r = r → y.s.badPartial (scratchAt s.cur off) b.length = false → y.s.cur = s.cur →
        y.s.engineHoldsKey (scratchAt s.cur off) b.length true = false →
        Through (exec (.lld p l sw) o) ((y.s.noted (scratchAt s.cur off) b.length).writeKey (scratchAt s.cur off) b false) 4 []
          Tile.counted) ∧
      (p.val ≤ 61 → Ready s [wr p, (.w, p.val + 1), (.w, p.val + 2), wr l] → key = (s.here.getX p).toNat →
        (s.here.getX (p.val + 1)).toNat < 4 → CellBuffer (s.here.getW (p.val + 2)) r Perm.store off →
        (latScan (decide ((s.here.getX (p.val + 1)).toNat % 2 = 1)) key ⟨r, t⟩ = .ok none ⟨r, t⟩ →
          Through (exec (.lscan p l sw) o) t 4 (results [wr p, (.w, p.val + 1)]) (fun u =>
            u.counted.putX (p.val + 1) (BitVec.ofNat 64 ((s.here.getX (p.val + 1)).toNat % 2 + 2)))) ∧
        ∀ k j b, latScan (decide ((s.here.getX (p.val + 1)).toNat % 2 = 1)) key ⟨r, t⟩ = .ok (some (k, j)) ⟨r, t⟩ →
          readCell j ⟨r, t⟩ = .ok b ⟨r, t⟩ → t.badPartial (scratchAt s.cur off) b.length = false →
          t.engineHoldsKey (scratchAt s.cur off) b.length true = false →
          Through (exec (.lscan p l sw) o) ((t.noted (scratchAt s.cur off) b.length).writeKey (scratchAt s.cur off) b false) 4
            (results [wr p, (.w, p.val + 1)]) (fun u => (u.counted.putX p (BitVec.ofNat 64 k)).putX (p.val + 1) 1)) ∧
      (Ready s [wr l, wr d] → Through (exec (.lcount d l sw) o) t 4 (results [wr d]) (fun u =>
        u.counted.putX d (BitVec.ofNat 64 (r.cused + r.nused * 2 ^ 32))))) ∧
    (OpensRegion s (s.here.getW l) Perm.store needR pa t r →
      (p.val ≤ 62 → Ready s [wr p, (.w, p.val + 1), wr l] → key = (s.here.getX p).toNat → key < 2 ^ r.keyWidth →
        CellBuffer (s.here.getW (p.val + 1)) r Perm.load off → t.isBad (scratchAt s.cur off) r.cellBytes = false →
        t.engineHoldsKey (scratchAt s.cur off) r.cellBytes false = false →
        ∀ y, (latStore key (r.elems (t.readAt (scratchAt s.cur off) r.cellBytes)) ⟨r, t⟩ = .ok ⟨⟩ y →
            (afterEvent r y).cur = s.cur → Through (exec (.lst p l sw) o) (afterEvent r y) 4 [] Tile.counted) ∧
          (latAdd key (r.elems (t.readAt (scratchAt s.cur off) r.cellBytes)) ⟨r, t⟩ = .ok ⟨⟩ y →
            (afterEvent r y).cur = s.cur → Through (exec (.ladd p l sw) o) (afterEvent r y) 4 [] Tile.counted)) ∧
      (Ready s [wr p, wr l] →
        ∀ ncap ccap r', ncap = (s.here.getX p).toNat % 2 ^ 32 → ccap = (s.here.getX p).toNat / 2 ^ 32 → (ncap = 0 ∨ r.ncap ≤ ncap) →
          (ccap = 0 ∨ r.ccap ≤ ccap) → r' = { r with ncap := if ncap = 0 then r.ncap else ncap, ccap := if ccap = 0 then r.ccap else ccap } →
          r'.npool + 256 * r'.ncap ≤ Config.vaultBytes → r'.cpool + r'.slotBytes * r'.ccap ≤ Config.vaultBytes →
          Through (exec (.lgrow p l sw) o) (afterEvent r ⟨r', t⟩) 4 [] Tile.counted)) ∧
    (∀ op, s.isBad pa 128 = false → r = readRegion s pa → regionForm r = none →
      (∀ y, latEvent op ⟨r, s⟩ = .ok ⟨⟩ y → exec (.latticeEvent pa op) s = .next (afterEvent r y)) ∧
      (∀ e y, latEvent op ⟨r, s⟩ = .error e y → exec (.latticeEvent pa op) s = .next s))

/-- LDENSE and LSPMM (R273, R292) take effect with nothing of the task before them, on a region that opens, with the box, or the window of 16 by 32, in range: LDENSE is accepted by the copy engine with the box's elements as they stand; LSPMM joins
the engine's queue with the present elements, for one slot, and owes one more for each further 64 of them. -/
def LatticeStreams : Prop :=
  ∀ (o s t : State) (w l : Fin 64) (n : Fin 8) (k q : Fin 16) (sw : Bool) (pa : Nat) (r : Region), s = o.engineDone → NothingBefore s →
    (∀ (u : State) (b : List Byte) (g : Bool) (lo ext codes : List Nat) (dst : Reg), Ready s [wr w, wr l] →
      Grants (s.here.getW w) (s.here.getW w).addr 64 Perm.load 16 → Loads s (s.here.getW w).addr 64 false u b g →
      OpensRegion u (s.here.getW l) Perm.load needR pa t r →
      lo = (List.range 4).map (fun i => blockNat b (16 + 4 * i) 4) → ext = (List.range 4).map (fun i => blockNat b (32 + 4 * i) 4) →
      dst = blockCap b 0 g (s.here.getW w) → ctrOk (blockNat b 48 4) = true → blockNat b 52 12 = 0 →
      (∀ d, d < 4 → lo.getD d 0 + ext.getD d 0 ≤ 2 ^ r.width d) →
      (∀ i, i < ext.foldl (· * ·) 1 → rangeCause dst (elemBytes r.cfmt) (Perm.store + Perm.engine) true
        (addrAdd dst.addr ((i * elemBytes r.cfmt : Nat) : Int)) = none) →
      t.here.copying < 16 →
      (if ext.foldl (· * ·) 1 = 0 then codes = [] else boxElems lo ext ⟨r, t⟩ = .ok codes ⟨r, t⟩) →
      ∃ f : Xfer, Through (exec (.ldense w l sw) o) { t with free := t.free + 1 } 4 [] (fun x => { x.counted with xfers := x.xfers ++ [f] }) ∧
        f.bytes = ext.foldl (· * ·) 1 * elemBytes r.cfmt ∧ f.localCtr = ctrOf (blockNat b 48 4) ∧ f.elems.length = codes.length ∧
        ∀ (i c : Nat), codes[i]? = some c → ∃ e : XElem, f.elems[i]? = some e ∧ e.src = .bytes (leBytes (elemBytes r.cfmt) c)) ∧
    (∀ cells x, w.val ≤ 62 → Ready s [wr w, (.w, w.val + 1)] → kindOf s.cur = 1 → x = (s.here.getX (w.val + 1)).toNat → x / 2 ^ 32 % 32 = 0 →
      Operand s q (s.here.ring q).head k 512 → OpensRegion s (s.here.getW w) Perm.engine (needR + needEng) pa t r → r.dims = 2 →
      windowOk (s.here.accOf n).mode k = true → windowOk (s.here.accOf n).mode r.cfmt = true →
      lspmmCells (x % 2 ^ 32) (x / 2 ^ 32) ⟨r, t⟩ = .ok cells ⟨r, t⟩ → Funded s →
      Through (exec (.lspmm n k q w sw) o) t 4 [] (fun u =>
        ((u.charged 1).counted).queued (.lspmm n (s.here.ring q).head k r.cfmt cells (rmOf u.fctl) ((cells.length + 63) / 64 - 1))))

/-- Lattice regions: their instructions, events and record streams.
The model's own choices that it rests on: log entry 18. -/
def Obligations.LatticeResults : Prop := LatticeInstructions ∧ LatticeStreams

/-- TREQ, TRET and TSTAT (R174, R177, R178, R294) whenever their registers are ready and the operand is below 256. TREQ gives NOW and
LATER, once the proofer has decided the requests before it: with the zone open and enough free tokens, all that is asked for up to
the core's full rate at once; with the zone closed, nothing. TRET marks tokens that leave at the first window start later than its
issue, with what fell due before it done; TSTAT gives the holding, a shown revocation and LATER. -/
def TokenInstructions : Prop :=
  ∀ (s v : State) (d r : Fin 64) (sw : Bool) (n : Nat), Ready s [wr r, wr d] → n = (s.here.getX r).toNat → n < 2 ^ 8 →
    (v = s.serveAll (dieOf s.cur) →
      ((v.grant s.cur n).2.here.bound d = none → (v.grant s.cur n).2.cur = s.cur →
        Through (exec (.treq d r sw) s) (v.grant s.cur n).2 4 (results [wr d])
          (fun u => u.putX d (BitVec.ofNat 64 ((v.grant s.cur n).1.1 + (v.grant s.cur n).1.2 * 2 ^ 8))))) ∧
    ((v.die (dieOf s.cur)).closed = true → v.grant s.cur n = ((0, 0), v)) ∧
    ((v.die (dieOf s.cur)).closed = false → 0 < v.freeTokens (dieOf s.cur) →
      min n (fullRate s.cur - (v.tile s.cur).hold - (v.tile s.cur).later) ≤ v.freeTokens (dieOf s.cur) →
      (v.grant s.cur n).1 = (min n (fullRate s.cur - (v.tile s.cur).hold - (v.tile s.cur).later), 0)) ∧
    (v = s.dueTokens (dieOf s.cur) (s.timeOf s.cur) → v.cur = s.cur →
      Through (exec (.tret r sw) s) v 4 [] (fun u => { u with
        returns := min (u.returns + min n u.hold) u.hold
        returnAt := (v.timeOf s.cur + windowLen s.cur) / windowLen s.cur * windowLen s.cur })) ∧
    CompletesDeferred (.tstat d sw) s [wr d] (fun u => u.putX d (BitVec.ofNat 64
      (u.hold % 2 ^ 8 + (if u.revoke ≠ 0 ∧ u.noticed ≤ s.timeOf s.cur then u.revoke % 2 ^ 8 * 2 ^ 8 + u.deadline % 2 ^ 32 * 2 ^ 32 else 0) +
        u.later % 2 ^ 8 * 2 ^ 16)))

/-- COMPOSE and DECOMPOSE (R151, R158, R295), with S set, outside a handler: over an eligible rectangle COMPOSE forms the chord, whose
other members are taken, and gives its size; over another it gives 1 and nothing changes. DECOMPOSE releases the members and
commits the chord's runs. -/
def ChordInstructions : Prop :=
  ∀ (s : State) (d r : Fin 64) (x : Nat) (rect : List Nat), s.here.handler = false →
    (Ready s [wr r, wr d] → s.here.composed = false → s.here.consort = none → x = (s.here.getX r).toNat → x < 2 ^ 7 → x / 2 ^ 4 ≤ 5 →
      rect = rectCores (clusterOf s.cur) (x % 2 ^ 2) (x / 2 ^ 2 % 2 ^ 2) (x / 2 ^ 4) →
      (s.eligible s.cur rect = false → CompletesDeferred (.compose d r true) s [wr d] (fun u => u.putX d 1)) ∧
      (s.eligible s.cur rect = true → ∃ t, Through (exec (.compose d r true) s) t 4 (results [wr d])
          (fun u => u.putX d (BitVec.ofNat 64 rect.length)) ∧
        t.here = { s.here with chord := t.here.chord, composed := true, runs := 0, commits := 0 } ∧
        (∃ c, t.here.chord = some c ∧ ∀ k, k ∈ c.members ↔ k ∈ rect) ∧
        (∀ k, k ∈ rect → k ≠ s.cur → t.tile k = { s.tile k with memberOf := some s.cur, drowsy := [] }) ∧
        (∀ k, k ∉ rect → t.tile k = s.tile k) ∧ t.mem = s.mem)) ∧
    (∃ t, Through (exec (.decompose true) s) t 4 [] (fun u => { u with composed := false }) ∧ t.mem = s.mem ∧
      (s.here.chord = none → t = s) ∧
      (∀ c, s.here.chord = some c → (∀ k ∈ c.members, k ≠ s.cur → t.tile k = { s.tile k with memberOf := none }) ∧
        (∀ k, k ∉ c.members → k ≠ s.cur → t.tile k = s.tile k) ∧
        t.here = { s.here with
          chord := none, runs := 0, commits := 0, stores := s.here.stores.map (fun y => { y with committed := true }) }))

/-- Core `k` can go on after the GANG or JOIN that it waits at: none of its registers is a pending result, nor has it a generator. -/
def CanPass (s : State) (k : Nat) (rs : List Nat) : Prop :=
  ∀ n ∈ rs, findPend (s.tile k).pend (.w, n) = none ∧ (s.tile k).bound n = none

/-- The registers of the GANG or JOIN that a core waits at. -/
def meetRegs (w : Option Wait) : List Nat :=
  match w.map Wait.on with
  | some (.gang _ _ d r) => [d, r]
  | some (.join _ r) => [r]
  | _ => []
/-- Every other core of a list that waits at a GANG or JOIN can go on after it. -/
def OthersPass (s : State) (cores : List Nat) : Prop := ∀ k ∈ cores, k ≠ s.cur → CanPass s k (meetRegs (s.tile k).wait)

/-- GANG and JOIN (R163, R166, R296), with S set, outside a handler. GANG with a legal word forms the consort when every participant
has come to it, with ready registers: each of them goes on after its GANG with the number of participants. Otherwise it waits.
JOIN with a key goes on at once outside a consort; the leader's goes on when every member waits at it with ready registers, and so
does each member, key 0 dissolving the consort; otherwise it waits. -/
def ConsortInstructions : Prop :=
  ∀ (s : State) (d r : Fin 64) (x : Nat) (tr : TaskRef) (g : Grid), s.here.handler = false → x = (s.here.getX r).toNat →
    (Ready s [wr r, wr d] → s.here.task = some tr → s.gridOf s.cur = some g → s.here.consort = none → s.here.composed = false →
      x % 2 ^ 8 ≠ 0 → x / 2 ^ 9 % 2 ^ 7 = 0 → x < 2 ^ 48 →
      (x / 2 ^ 8 % 2 = 1 → x / 2 ^ 16 % 2 ^ 16 < x / 2 ^ 32 ∧ x / 2 ^ 32 ≤ x / 2 ^ 16 % 2 ^ 16 + 15 ∧
        ¬ (x / 2 ^ 16 % 2 ^ 16 ≤ bandRank g tr ∧ bandRank g tr < x / 2 ^ 32)) → (x / 2 ^ 8 % 2 = 0 → x < 2 ^ 32) →
      (s.gangMatch s.cur g tr s.here.pc.addr x = none →
        Waits (exec (.gang d r true) s) s (.gang s.here.pc.addr (s.here.getX r) d r)) ∧
      (∀ cores, s.gangMatch s.cur g tr s.here.pc.addr x = some cores →
        (∀ e ∈ s.tiles, e.2.consort.map (·.leader) ≠ some (cores.headD s.cur)) → OthersPass s cores →
        ∃ t, exec (.gang d r true) s = .next t ∧ t.cur = s.cur ∧ t.mem = s.mem ∧
          t.here = (s.here.putX d (BitVec.ofNat 64 cores.length)).withFlow t.here ∧ t.here.pc = s.here.after 4 ∧
          t.here.pend = s.here.pend ++ (results [wr d]).map (fun n => ⟨n.1, n.2, s.here.runPos⟩) ∧
          (∀ k ∈ cores, ∃ c, (t.tile k).consort = some c ∧ c.leader = cores.headD s.cur ∧ c.attached = true ∧ c.key = x % 2 ^ 8) ∧
          (∀ k ∈ cores, ∀ a w d' r', k ≠ s.cur → (s.tile k).wait.map (·.on) = some (.gang a w d' r') →
            t.tile k = ((s.tile k).putX d' (BitVec.ofNat 64 cores.length)).withFlow (t.tile k) ∧ (t.tile k).wait = none ∧
              (t.tile k).pc = (s.tile k).after 4) ∧
          (∀ k, k ∉ cores → t.tile k = s.tile k))) ∧
    (Ready s [wr r] → x < 2 ^ 8 →
      (s.here.consort = none → CompletesDeferred (.join r true) s [] (fun u => u)) ∧
      (∀ c, s.here.consort = some c →
        ((c.leader ≠ s.cur ∨ s.tiles.all (joined s.cur x) = false) → Waits (exec (.join r true) s) s (.join x r)) ∧
        (c.leader = s.cur → s.tiles.all (joined s.cur x) = true → OthersPass s (s.members s.cur) →
          ∃ t, exec (.join r true) s = .next t ∧ t.cur = s.cur ∧ t.mem = s.mem ∧ t.here = s.here.withFlow t.here ∧
            t.here.pc = s.here.after 4 ∧ t.here.pend = s.here.pend ∧
            (∀ k, (s.tile k).consort.map (·.leader) ≠ some s.cur → t.tile k = s.tile k) ∧
            (∀ k r', k ≠ s.cur → (s.tile k).consort.map (·.leader) = some s.cur → (s.tile k).wait.map (·.on) = some (.join x r') →
              t.tile k = (s.tile k).withFlow (t.tile k) ∧ (t.tile k).wait = none ∧ (t.tile k).pc = (s.tile k).after 4) ∧
            (x = 0 → ∀ k, (t.tile k).consort.map (·.leader) ≠ some s.cur) ∧
            (x ≠ 0 → ∀ k y, (s.tile k).consort = some y → y.leader = s.cur → ∃ y', (t.tile k).consort = some y' ∧
              y'.leader = s.cur ∧ y'.attached = true ∧ (k ≠ s.cur → y'.runs = [])))))

/-! ### System instructions -/

/-- A register of a queue or a zone by its number (R301), for the stepping core. -/
def SysBlock (s : State) (n : Nat) (r : MReg) : Prop :=
  (∃ q : Fin 16,
    (n = 0x100 + 8 * q.val ∧ r = .qbase (s.partNo s.cur) q) ∨ (n = 0x101 + 8 * q.val ∧ r = .qcbase (s.partNo s.cur) q) ∨
    (n = 0x102 + 8 * q.val ∧ r = .qctl (s.partNo s.cur) q) ∨ (n = 0x103 + 8 * q.val ∧ r = .qwr (s.partNo s.cur) q) ∨
    (n = 0x104 + 8 * q.val ∧ r = .qrd (s.partNo s.cur) q)) ∨
  (n = 0x180 ∧ r = .zpool (dieOf s.cur)) ∨ (n = 0x181 ∧ r = .znotice (dieOf s.cur)) ∨ (n = 0x182 ∧ r = .zlend (dieOf s.cur)) ∨
  (n = 0x183 ∧ r = .zstat (dieOf s.cur))
/-- A register of the table of R301 and its value for the stepping core. -/
def SysValue (s : State) (n : Nat) (v : Reg) : Prop :=
  (n = 0 ∧ v = Reg.plain s.here.fctl) ∨ (n = 1 ∧ v = Reg.plain s.here.vstatus) ∨
  (n = 2 ∧ v = Reg.plain (BitVec.ofNat 64 s.here.rscnt)) ∨ (∃ i : Fin 16, n = 0x10 + i.val ∧ v = Reg.plain s.here.wcfg[i]) ∨
  (n = 0x20 ∧ v = s.here.hpc) ∨ (n = 0x21 ∧ v = s.here.rspill) ∨ (n = 0x22 ∧ v = s.here.ispill) ∨
  (∃ i : Fin 8, n = 0x28 + i.val ∧ v = Reg.plain s.here.acc[i].mode) ∨ (n = 0x30 ∧ v = Reg.plain (BitVec.ofNat 64 (s.timeOf s.cur))) ∨
  (n = 0x31 ∧ v = Reg.plain (BitVec.ofNat 64 (s.nameOf s.cur))) ∨
  (n = 0x32 ∧ v = Reg.plain (BitVec.ofNat 64 (s.here.job % 2 ^ 16 + s.here.asid % 2 ^ 14 * 2 ^ 16 + s.here.eclass % 2 ^ 2 * 2 ^ 30 +
    kindOf s.cur * 2 ^ 32))) ∨
  (∃ i : Fin 16, n = 0x40 + i.val ∧ v = s.here.classes[i].cap) ∨ (∃ i : Fin 16, n = 0x50 + i.val ∧ v = Reg.plain s.here.classes[i].cfg) ∨
  (∃ r, SysBlock s n r ∧ v = Reg.plain (s.regRead r)) ∨ (n = 0x190 ∧ v = Reg.plain s.here.svc)
/-- What SWR of the value `c` does to a register of the core that takes it whole or in part: registers of the core are written,
VSTATUS is cleared bit by bit, and those that are read-only keep their value (R5, R301). -/
def SysUpdate (n : Nat) (c : Reg) (f : Tile → Tile) : Prop :=
  (n = 0 ∧ f = fun u => { u with fctl := c.lo &&& 3#64 }) ∨ (n = 1 ∧ f = fun u => { u with vstatus := u.vstatus &&& ~~~(c.lo &&& 31#64) }) ∨
  (∃ i : Fin 16, n = 0x10 + i.val ∧ f = fun u => { u with wcfg := u.wcfg.set i (c.lo &&& 0x7FFFF#64) }) ∨
  (n = 0x20 ∧ f = fun u => { u with hpc := c }) ∨ (n = 0x21 ∧ f = fun u => { u with rspill := c }) ∨
  (n = 0x22 ∧ f = fun u => { u with ispill := c }) ∨
  (∃ i : Fin 16, n = 0x40 + i.val ∧ f = fun u => u.modCls i (fun e => { e with cap := c })) ∨
  ((n = 2 ∨ 0x28 ≤ n ∧ n < 0x30 ∨ 0x30 ≤ n ∧ n < 0x33) ∧ f = fun u => u)

/-- SRD and SWR (R301) of every register, once the engine's work is done and with the operand ready. SRD writes the register's
value to wd, a capability register's with its tag, whatever the mode; SWR writes it by its access code. A class configuration takes
its 20 bits while the RANKED depths stay within 48 in sum, dropping the class's entries when KIND, KM1 or EN is turned; queue
and zone registers and SVC take a value with SYSTEM and otherwise trap with PRIVILEGE. A number not in the table is
UNALLOCATED. -/
def Obligations.SystemRegisters : Prop :=
  ∀ (o s : State) (d w : Fin 64) (n : Fin 2048) (sw : Bool) (x : Nat), s = o.engineDone →
    (Ready s [wr d] →
      (∀ v, SysValue s n v → Through (exec (.srd d n sw) o) s 4 (results [wr d]) (fun u => u.putW d v)) ∧
      ((∀ v, ¬ SysValue s n v) → s.here.eng = [] →
        ∃ b, Traps (exec (.srd d n sw) o) s ⟨0x01, .none, 0x3C, 2, 0, s.here.pc.addr, b % 2 ^ 32 * 2 ^ 16⟩ 4)) ∧
    (Ready s [wr w] → x = (s.here.getX w).toNat →
      (∀ f, SysUpdate n (s.here.getW w) f → Through (exec (.swr w n sw) o) s 4 [] f) ∧
      (∀ i : Fin 16, n.val = 0x50 + i.val → x < 2 ^ 20 →
        (s.here.modCls i (fun e => { e with cfg := s.here.getX w })).rankedTotal ≤ 48 →
        (x / 2 % 2 ^ 7 = s.here.classes[i].cfg.toNat / 2 % 2 ^ 7 → (s.here.classes[i].cfg.toNat % 2 = 1 → x % 2 = 1) →
          Through (exec (.swr w n sw) o) s 4 [] (fun u => u.modCls i (fun e => { e with cfg := s.here.getX w }))) ∧
        ((x / 2 % 2 ^ 7 ≠ s.here.classes[i].cfg.toNat / 2 % 2 ^ 7 ∨ s.here.classes[i].cfg.toNat % 2 = 1 ∧ x % 2 = 0) →
          Through (exec (.swr w n sw) o) s 4 [] (fun u => (u.modCls i (fun e => { e with cfg := s.here.getX w })).dropClass i))) ∧
      (s.here.pc.has Perm.system = true →
        (∀ r, SysBlock s n r → s.partOf s.cur ≠ none → Through (exec (.swr w n sw) o) (s.regWrite r (s.here.getX w)) 4 [] (fun u => u)) ∧
        (n.val = 0x190 → x < 2 ^ 36 → Through (exec (.swr w n sw) o) s 4 [] (fun u => { u with svc := s.here.getX w }))) ∧
      (s.here.pc.has Perm.system = false → ((∃ r, SysBlock s n r) ∨ n.val = 0x190) → s.here.eng = [] →
        Traps (exec (.swr w n sw) o) s ⟨0x04, .none, 0x3C, 3, 0, s.here.pc.addr, n.val * 2 ^ 16⟩ 4) ∧
      ((∀ v, ¬ SysValue s n v) → s.here.eng = [] →
        ∃ b, Traps (exec (.swr w n sw) o) s ⟨0x01, .none, 0x3C, 3, 0, s.here.pc.addr, b % 2 ^ 32 * 2 ^ 16⟩ 4))

/-- A register that the maps of R31, R181, R310 to R312, R316 and R352 place at an offset of partition `p`'s block (R311). -/
def BlockOffset (p o : Nat) (r : MReg) : Prop :=
  (∃ q : Fin 16, (o, r) ∈ [(q.val * 0x40, MReg.qbase p q), (q.val * 0x40 + 0x08, .qcbase p q), (q.val * 0x40 + 0x10, .qctl p q),
    (q.val * 0x40 + 0x18, .qwr p q), (q.val * 0x40 + 0x20, .qrd p q)]) ∨
  (o, r) ∈ [(0x1000, MReg.hpre p), (0x1008, .hangctl p), (0x1010, .relaunch p), (0x3000, .cnbase p), (0x3008, .cnctl p), (0x3010, .cnrd p)] ∨
  ∃ n : Fin 8, (o, r) ∈ [(0x2000 + 32 * n.val, MReg.hwbase p n), (0x2008 + 32 * n.val, .hwlen p n), (0x2010 + 32 * n.val, .hwhost p n),
    (0x2018 + 32 * n.val, .hwctl p n)]
/-- An access of the module register space (R311): in BAR0 of a logical device or at its physical address. One that is not of 8
bytes at a multiple of 8 reads 0 and has no effect; one of 8 bytes at a register's offset is that of the register; a gap reads 0
and takes no write. -/
def RegisterOffsets : Prop :=
  ∀ (s : State) (p d o n : Nat) (v : Word), p < 16 →
    (¬ (n = 8 ∧ o % 8 = 0) → s.regRead (.bar0 p o n) = 0 ∧ s.regRead (.space o n) = 0 ∧
      exec (.registerWrite (.bar0 p o n) v) s = .next s ∧ exec (.registerWrite (.space o n) v) s = .next s) ∧
    (∀ r, BlockOffset p o r → ∀ a ∈ [MReg.bar0 p o 8, .space (0x0300_0000_0000 + p * 0x100_0000 + o) 8],
      s.regRead a = s.regRead r ∧ exec (.registerWrite a v) s = exec (.registerWrite r v) s) ∧
    (d < 56 → ∀ r, (o, r) ∈ [(0x00, MReg.zpool d), (0x08, .znotice d), (0x10, .zlend d), (0x18, .zstat d), (0x20, .ovf d), (0x28, .tripctl d),
        (0x30, .tripstat d), (0x40, .linkstat d 0), (0x48, .linkstat d 1), (0x50, .linkstat d 2), (0x58, .linkstat d 3)] →
      s.regRead (.space (0x0310_0000_0000 + d * 0x10_0000 + o) 8) = s.regRead r ∧
        exec (.registerWrite (.space (0x0310_0000_0000 + d * 0x10_0000 + o) 8) v) s = exec (.registerWrite r v) s) ∧
    (∀ r, (o, r) ∈ [(0x00, MReg.asidtab), (0x08, .jperiod), (0x10, .preempten)] →
      s.regRead (.space (0x0320_0000_0000 + o) 8) = s.regRead r ∧
        exec (.registerWrite (.space (0x0320_0000_0000 + o) 8) v) s = exec (.registerWrite r v) s) ∧
    (∀ q j, q < 16 → 5 ≤ j → j < 8 → o = q * 0x40 + j * 8 →
      s.regRead (.bar0 p o 8) = 0 ∧ exec (.registerWrite (.bar0 p o 8) v) s = .next s)

/-- REGISTER_WRITE, QCTL, QWR, CNCTL and ZPOOL (R5, R31, R181, R310 to R312, R316, R352, R410): a register reads back the bits that
its map lets software write, and no other register of the same kind changes; QWR takes no index more than 2^N beyond RD
(R442); a write of CNCTL with EN 0 while entries are open takes effect once they have completed. -/
def RegisterWrites : Prop :=
  ∀ (s : State) (p d : Nat) (q : Fin 16) (w : Fin 8) (v : Word),
    (∀ r x, (r, x) ∈ [(MReg.qbase p q, v &&& 0xFFFFFFFFFFFFFF80#64), (.qcbase p q, v &&& 0xFFFFFFFFFFFFFFE0#64), (.qctl p q, v &&& 0x3F#64),
        (.hangctl p, v &&& 0xFFFFFFFF7F#64), (.hwbase p w, v &&& 0xFFFFFC0000000#64), (.hwlen p w, v &&& 0xFFFF#64),
        (.hwhost p w, v &&& 0xFFFFFFFFC0000000#64), (.hwctl p w, v &&& 0xF#64), (.cnbase p, v &&& 0xFFFFFFFFFFFFC0#64),
        (.znotice d, BitVec.ofNat 64 (max 64 (v.toNat % 2 ^ 16))),
        (.tripctl d, BitVec.ofNat 64 (min 110 (v.toNat / 2 ^ 16 % 2 ^ 8) * 2 ^ 16 + min 150 (v.toNat % 2 ^ 10))),
        (.tripstat d, (s.die d).tripstat &&& ~~~(v &&& 0xF#64)), (.asidtab, v &&& 0xFFFFFFFFE0000#64),
        (.jperiod, BitVec.ofNat 64 (max 100 (min 60000 (v.toNat % 2 ^ 16)))), (.preempten, v &&& 0xFFFF#64),
        (.qrd p q, s.regRead (.qrd p q)), (.cnrd p, s.regRead (.cnrd p)), (.zstat d, s.regRead (.zstat d)),
        (.linkstat d w, s.regRead (.linkstat d w))] →
      ∃ t, exec (.registerWrite r v) s = .next t ∧ t.regRead r = x ∧ t.mem = s.mem ∧ t.tiles = s.tiles ∧ t.grids = s.grids ∧
        ∀ r', regTarget r' = some r' → r' ≠ r → t.regRead r' = s.regRead r') ∧
    (∃ t, exec (.qctl p q v) s = .next t ∧ t.regRead (.qctl p q) = v &&& 0x3F#64 ∧ t.regRead (.qrd p q) = s.regRead (.qrd p q) ∧
      t.regRead (.qwr p q) = s.regRead (.qwr p q)) ∧
    (∃ t, exec (.qwr p q v) s = .next t ∧ t.mem = s.mem ∧ t.tiles = s.tiles ∧ (t.queue p q).qrd = (s.queue p q).qrd ∧
      (t.queue p q).qwr = if (v.toNat % 2 ^ 32 + 2 ^ 32 - (s.queue p q).qrd) % 2 ^ 32 ≤ 2 ^ ((s.queue p q).qctl.toNat / 2 % 2 ^ 5)
        then v.toNat % 2 ^ 32 else (s.queue p q).qwr) ∧
    (∃ t, exec (.cnctl p v) s = .next t ∧ t.mem = s.mem ∧ t.tiles = s.tiles ∧
      ((v.toNat / 2 ^ 8 % 2 = 1 ∨ ∀ e ∈ (s.part p).cnTaken, e.done ≠ none) →
        (t.part p).cnctl = v &&& 0x3FFF011F#64 ∧ (t.part p).cnPending = none) ∧
      (v.toNat / 2 ^ 8 % 2 = 0 → (∃ e ∈ (s.part p).cnTaken, e.done = none) →
        (t.part p).cnctl = (s.part p).cnctl ∧ (t.part p).cnPending = some (v &&& 0x3FFF011F#64))) ∧
    (d < Config.dies → ∃ t, exec (.zpool d v) s = .next t ∧ t.mem = s.mem ∧ t.grids = s.grids ∧
      (t.die d).pool = min (min (v.toNat % 2 ^ 8) 240) (10080 - ((s.dies.filter (fun e => decide (e.1 ≠ d))).map (fun e => e.2.pool)).sum))

/-- LAUNCH (R297), once the engine's work and the core's stores are done and with its packet granted: on a queue that is full, or
of a core in no partition, wq becomes all ones and nothing else changes; otherwise the packet's 128 bytes stand in the slot at WR
with the tags of its first two granules, WR has advanced by one, wq holds the slot's index, and no other byte has changed. -/
def LaunchResult : Prop :=
  ∀ (o s t u : State) (q p : Fin 64) (sw : Bool) (x a : Nat) (b b' : List Byte) (g g' : Bool) (k : Queue), s = o.settled .system →
    Performed s .system → Ready s [wr q, wr p] → x = (s.here.getX q).toNat → x < 2 ^ 4 → a = (s.here.getW p).addr →
    Grants (s.here.getW p) a 128 (Perm.load + Perm.loadCap) 128 → Loads s a 128 false t b g → Loads t (a + 16) 16 false u b' g' →
    u.cur = s.cur → u.here.bound q = none → k = u.queue (u.partNo u.cur) x →
    ((k.n = 0 ∨ (k.qwr + 2 ^ 32 - k.qrd) % 2 ^ 32 = 2 ^ k.n ∨ u.partOf u.cur = none) →
      Through (exec (.launch q p sw) o) u 4 (results [wr q]) (fun y => y.putX q (BitVec.allOnes 64))) ∧
    (k.n ≠ 0 → (k.qwr + 2 ^ 32 - k.qrd) % 2 ^ 32 ≠ 2 ^ k.n → u.partOf u.cur ≠ none → backed (k.slotAt k.qwr) 128 = true →
      Memory.wf u.mem = true → k.qbase.toNat % 128 = 0 →
      ∃ v, Through (exec (.launch q p sw) o) v 4 (results [wr q]) (fun y => y.putX q (BitVec.ofNat 64 k.qwr)) ∧
        v.tiles = u.tiles ∧ (v.queue (u.partNo u.cur) x).qwr = (k.qwr + 1) % 2 ^ 32 ∧ (v.queue (u.partNo u.cur) x).qrd = k.qrd ∧
        v.readAt (k.qbase.toNat + 128 * (k.qwr % 2 ^ k.n)) 128 = b ∧
        (isHost (k.slotAt k.qwr) = false → tagGet v.tags (k.slotAt k.qwr / 16) = g ∧ tagGet v.tags (k.slotAt k.qwr / 16 + 1) = g') ∧
        ∀ y, y < k.slotAt k.qwr ∨ k.slotAt k.qwr + 128 ≤ y → Memory.get v.mem y = Memory.get u.mem y)

/-- A reply in the fabric that a core takes. -/
def replyTo (k seq : Nat) (v : Word) (r : Reply) : Bool := decide (coreOf r.name = some k ∧ r.seq = seq ∧ r.value = v)

/-- TRAP, its reply, and ERET (R299, R300, R344), not at a loop's END and with the operands ready. TRAP, once the core's stores are
done, ends its run with the pc at itself, waits for its reply and sends one message to the core and class of SVC with the next
SEQ, or hands the call to the module controller. The reply writes its 64 bits to wd and the task goes on after the TRAP. ERET sends
its reply with SYSTEM and traps with PRIVILEGE without.
The model's own choices that it rests on: log entry 26. -/
def Obligations.ServiceCalls : Prop :=
  ∀ (o s : State) (d a v h : Fin 64) (sw : Bool),
    (s = o.storesDone .system → Performed s .system → NotAtEnd s → Ready s [wr a, wr d] →
      ∃ t y, exec (.trap d a sw) o = .next t ∧ t.cur = s.cur ∧ t.mem = s.mem ∧ t.grids = s.grids ∧ (∀ j, j ≠ s.cur → t.tile j = s.tile j) ∧
        t.here = { s.here.boundary with svcseq := (s.here.svcseq + 1) % 2 ^ 16, awaiting := s.here.awaiting ++ [y], wait := t.here.wait } ∧
        t.here.wait.map (·.on) = some .reply ∧ y.seq = (s.here.svcseq + 1) % 2 ^ 16 ∧ y.call = true ∧ y.xfer = false ∧ y.wd = d.val ∧
        y.len = 4 ∧ y.report.maj = 0x3C ∧ y.report.minor = 0 ∧
        (s.toController s.cur = false → t.calls = s.calls ∧ ∃ m : Msg, t.msgs = s.msgs ++ [m] ∧ m.wake = false ∧ m.len = 3 ∧
          m.destName = s.here.svc.toNat % 2 ^ 32 ∧ m.cls = s.here.svc.toNat / 2 ^ 32 % 2 ^ 4 ∧
          m.data = [BitVec.ofNat 64 (s.nameOf s.cur + (s.here.svcseq + 1) % 2 ^ 16 * 2 ^ 32 + 2 ^ 48), s.here.getX a, s.here.pc.lo]) ∧
        (s.toController s.cur = true → t.msgs = s.msgs ∧ ∃ r, t.calls = s.calls ++ [(s.cur, r, s.here.getX a)])) ∧
    (∀ (k seq : Nat) (x : Word) (y : Awaiting), s.replies.any (replyTo k seq x) = true → (s.tile k).awaiting = [y] → y.seq = seq →
      y.call = true → (s.tile k).bound y.wd = none →
      ∃ t, exec (.serviceCallReply k seq x) s = .next t ∧ t.cur = s.cur ∧ t.mem = s.mem ∧ t.replies = s.replies.eraseP (replyTo k seq x) ∧
        (∀ j, j ≠ k → t.tile j = s.tile j) ∧
        t.tile k = (Tile.putX { s.tile k with awaiting := [] } y.wd x).withFlow (t.tile k) ∧
        (t.tile k).pc = (s.tile k).after 4 ∧ (t.tile k).wait = none) ∧
    (NotAtEnd s → Ready s [wr v, wr h] →
      (s.here.pc.has Perm.system = true → Through (exec (.eret v h sw) s)
        { s with replies := s.replies ++ [⟨(s.here.getX h).toNat % 2 ^ 32, (s.here.getX h).toNat / 2 ^ 32 % 2 ^ 16, s.here.getX v⟩] } 4 []
        (fun u => u)) ∧
      (s.here.pc.has Perm.system = false → s.here.eng = [] → Traps (exec (.eret v h sw) s) s ⟨0x04, .none, 0x3C, 1, 0, s.here.pc.addr, 0⟩ 4))

/-- The entries of a partition's TLBs that TLBI drops (R303): those of a page of an ASID or of a global page there, those of an
ASID's pages that are not global, the global ones, or all. -/
def tlbiDrops (s : State) (i : Instr) (e : TlbEntry) : Bool :=
  match i with
  | .tlbiPage a b _ => decide (e.part = s.partNo s.cur) &&
      (decide (e.asid = (s.here.getX b).toNat % 2 ^ 14) || decide (e.pte / 2 ^ 11 % 2 = 1)) &&
      decide (e.vpage = (s.here.getX a).toNat % 2 ^ 56 / (if e.big then 2 ^ 29 else 2 ^ 16))
  | .tlbiAsid b _ => decide (e.part = s.partNo s.cur ∧ e.asid = (s.here.getX b).toNat % 2 ^ 14 ∧ e.pte / 2 ^ 11 % 2 = 0)
  | .tlbiGlobal _ => decide (e.part = s.partNo s.cur ∧ e.pte / 2 ^ 11 % 2 = 1)
  | _ => decide (e.part = s.partNo s.cur)

/-- TLBI, IFENCE, TBLLD and METER (R86, R114, R115, R303 to R306), with operands ready. TLBI with SYSTEM and an ASID of the partition,
where no store of the partition waits, drops exactly the entries it names from every TLB of the partition, and traps with
PRIVILEGE without SYSTEM. IFENCE with S is through once the core's stores are done. TBLLD loads the decode table and its ordered
flag once the engine's work is done. METER of a job without an account gives 0; of one whose charges are all at least 21,000
ticks old, its nanojoules.
The model's own choices that it rests on: log entries 7, 25 and 37. -/
def Obligations.TlbTableAndMeter : Prop :=
  ∀ (o s : State) (a b d : Fin 64) (sw : Bool) (i : Instr),
    (i ∈ [.tlbiPage a b sw, .tlbiAsid b sw, .tlbiGlobal sw, .tlbiPart sw] → Ready s [wr a, wr b] →
      (s.here.pc.has Perm.system = false → s.here.eng = [] → Traps (exec i s) s ⟨0x04, .none, 0x3D, 0, 0, s.here.pc.addr, 0⟩ 4) ∧
      (s.here.pc.has Perm.system = true →
        (i = .tlbiPage a b sw ∨ i = .tlbiAsid b sw → s.asidOwned (s.partNo s.cur) ((s.here.getX b).toNat % 2 ^ 14) = true) →
        (∀ e ∈ s.tiles, s.partOf e.1 = some (s.partNo s.cur) →
          (s.tile e.1).stores = [] ∧ e.2.stores = [] ∧ (s.tile e.1).commitAll = s.tile e.1) →
        (∀ w ∈ s.rwrites, s.partOf w.writer ≠ some (s.partNo s.cur)) →
        ∃ t, Through (exec i s) t 4 [] (fun u => u) ∧ t.cur = s.cur ∧ t.mem = s.mem ∧
          (∀ k, (s.part (s.partNo s.cur)).dies.contains (dieOf k) = true → t.tile k = { s.tile k with
              itlb := (s.tile k).itlb.filter (fun e => !tlbiDrops s i e)
              dtlb := (s.tile k).dtlb.filter (fun e => !tlbiDrops s i e) }) ∧
          (∀ k, (s.part (s.partNo s.cur)).dies.contains (dieOf k) = false → t.tile k = s.tile k) ∧
          ∀ c, t.clusterTlb c = if (s.part (s.partNo s.cur)).dies.contains (c / 8)
            then (s.clusterTlb c).filter (fun e => !tlbiDrops s i e) else s.clusterTlb c)) ∧
    (s = o.storesDone .system → Performed s .system → Through (exec (.ifence true) o) s 4 [] (fun u => u)) ∧
    (∀ (t : State) (l : List Byte) (g : Bool), s = o.engineDone → s.here.eng = [] → Ready s [wr b] →
      Grants (s.here.getW b) (s.here.getW b).addr 1024 Perm.load 64 → Loads s (s.here.getW b).addr 1024 false t l g →
      ∃ tab ord, Through (exec (.tblld b sw) o) t 4 [] (fun u => { u with dectab := tab, ordered := ord }) ∧
        (∀ j : Fin 256, tab[j] = BitVec.ofNat 32 (roundIF (decodeFloat fp32 (blockNat l (4 * j.val) 4))).1) ∧
        (ord = true ↔ (∀ j : Fin 256, (lane tab[j]).isNan = false) ∧
          ∀ j : Nat, ∀ h : j + 1 < 256, (lane tab[j + 1]).lt (lane tab[j]) = false)) ∧
    (∀ (own : Bool) (c : Account), Ready s [wr d] →
      c = (if own then .own (s.partNo s.cur) else .job (s.partNo s.cur) s.here.job) →
      ((∀ x ∈ s.accounts, x.1 ≠ c) → Through (exec (.meter d own sw) s) { s with free := s.free + 1 } 4 (results [wr d])
        (fun u => u.putX d 0)) ∧
      (∀ x, s.accounts.find? (fun y => decide (y.1 = c)) = some (c, x) → (∀ e ∈ x.history, e.1 + 21000 ≤ s.refCount) →
        Through (exec (.meter d own sw) s) { s with free := s.free + 1 } 4 (results [wr d])
          (fun u => u.putX d (BitVec.ofInt 64 (x.pj / 1000)))))

/-! ### Traps, handlers, replies -/

/-- A core other than the one that enters a handler: a follower that is attached to it detaches (R165). -/
def detached (s : State) (k j : Nat) : Tile :=
  if (s.tile j).follower j = true ∧ (s.tile j).consort.map (·.leader) = some k then (s.tile j).detach else s.tile j

/-- LOCAL_TRAP (R340 to R342). With no handler running and a tagged, unsealed class-15 capability with EXEC the task enters it: HPC is
the pc, the current message is the record with KIND 2 and SEQ 0, nothing of the run is pending, a chord's runs have committed (R160),
and neither memory nor an inbox changes. Otherwise the trap is escalated: the task awaits a reply under the next SEQ and the report, with ESC set, goes to the core
and class that SVC names, or to the module controller. -/
def TrapEntry : Prop :=
  ∀ (s : State) (k : Nat) (r : TrapReport) (c : Reg), (s.tile k).task ≠ none → (s.tile k).awaiting = [] → c = (s.tile k).classes[15].cap →
    ∃ t, exec (.localTrap k r) s = .next t ∧ t.mem = s.mem ∧ t.grids = s.grids ∧ t.cur = s.cur ∧
      ((s.tile k).handler = false → c.tag = true → c.otype = 0 → c.has Perm.exec = true →
        t.msgs = s.msgs ∧ t.calls = s.calls ∧ (∀ j, j ≠ k → t.tile j = detached s k j) ∧
        ∃ m, t.tile k = { (detached s ((s.tile k).consort.map (·.leader) |>.getD k) k).boundary.commitAll with
            hpc := (s.tile k).pc, cmsg := some m, pc := { c with lo := c.lo &&& ~~~1#64 }, handler := true } ∧
          m.source = s.nameOf k ∧ m.cls = 15 ∧ m.len = 6 ∧
          m.data = [s.nameOf k + 2 * 2 ^ 48, r.word, r.addr, r.pc, r.detail,
            (s.tile k).job % 2 ^ 16 + (s.tile k).asid % 2 ^ 14 * 2 ^ 16 + s.partNo k % 2 ^ 4 * 2 ^ 32].map (BitVec.ofNat 64)) ∧
      (((s.tile k).handler = true ∨ c.tag = false ∨ c.otype ≠ 0 ∨ c.has Perm.exec = false) →
        (∀ j, j ≠ k → t.tile j = s.tile j) ∧ (t.tile k).pc = (s.tile k).pc ∧ (t.tile k).w = (s.tile k).w ∧
        (t.tile k).handler = (s.tile k).handler ∧ (t.tile k).hpc = (s.tile k).hpc ∧
        ∃ y, (t.tile k).awaiting = [y] ∧ y.call = false ∧ y.seq = ((s.tile k).svcseq + 1) % 2 ^ 16 ∧ (t.tile k).svcseq = y.seq ∧
          y.report.word = r.word ∧ y.report.detail = (if r.detail / 2 ^ 15 % 2 = 1 then r.detail else r.detail + 2 ^ 15) ∧
          (s.toController k = false → ∃ m : Msg, t.msgs = s.msgs ++ [m] ∧ m.len = 6 ∧
            m.destName = (s.tile k).svc.toNat % 2 ^ 32 ∧ m.cls = (s.tile k).svc.toNat / 2 ^ 32 % 2 ^ 4 ∧
            m.data.take 5 = [s.nameOf k + y.seq * 2 ^ 32 + 3 * 2 ^ 48, r.word, r.addr, r.pc, y.report.detail].map (BitVec.ofNat 64)) ∧
          (s.toController k = true → t.msgs = s.msgs ∧ ∃ w, t.calls = s.calls ++ [(k, y.report, w)]))

/-- HANDLER_ENTRY and DEFERRED_RESULT (R48, R195). A task at a run boundary, in no handler and awaiting no reply, enters the handler of the
deliverable class of highest PRIO, among equals the one whose head entry came first, once every engine instruction that has issued has
retired (R254): HPC takes the pc, the head entry becomes the current message, and execution continues at the class's capability, bit 0
of whose address is taken as clear. A run that has parked is released when its results are written, with no BAR of it to wait for. -/
def HandlerEntry : Prop :=
  (∀ (s u : State) (k c : Nat), (s.tile k).task ≠ none → (s.tile k).handler = false → (s.tile k).awaiting = [] →
    ((s.tile k).wait = none ∧ (s.tile k).runPos = 0 ∧ (s.tile k).parked = false ∨
      ∃ sc i b, (s.tile k).wait.map (·.on) = some (.barrier sc i b true)) → (s.tile k).nextClass = some c → u = s.engineDrain k →
    ((u.tile k).eng ≠ [] → exec (.handlerEntry k) s = .next u) ∧
    ((u.tile k).eng = [] →
      ∃ t, exec (.handlerEntry k) s = .next t ∧ t.mem = u.mem ∧ t.grids = u.grids ∧ t.msgs = u.msgs ∧ (∀ j, j ≠ k → t.tile j = detached u k j) ∧
        (t.tile k).hpc = (u.tile k).pc ∧
        (t.tile k).pc = { ((u.tile k).cls c).cap with lo := ((u.tile k).cls c).cap.lo &&& ~~~1#64 } ∧ (t.tile k).handler = true ∧
        (t.tile k).cmsg = ((u.tile k).held c).head? ∧ ((s.tile k).eng = [] → (t.tile k).cmsg ≠ none) ∧ (t.tile k).w = (u.tile k).w ∧
        (t.tile k).hold = (u.tile k).hold ∧ (t.tile k).wait = none)) ∧
  (∀ (t : Tile) (c : Nat), t.nextClass = some c → c < 16 ∧ t.deliverable c = true ∧
    ∀ j, j < 16 → t.deliverable j = true → (t.cls j).prio ≤ (t.cls c).prio ∧ ((t.cls j).prio = (t.cls c).prio → t.headPos c ≤ t.headPos j)) ∧
  (∀ (s : State) (k : Nat), (s.tile k).nextClass = none → exec (.handlerEntry k) s = .next s) ∧
  ∀ (s : State) (k : Nat),
    ((s.tile k).parked = true → (s.tile k).due = [] →
      exec (.deferredResult k) s = .next (s.setTile k { s.tile k with parked := false, pend := [], wait := none })) ∧
    ((s.tile k).parked = false → exec (.deferredResult k) s = .next s)

/-- Taking a local trap, and entering a handler for a message.
The model's own choices that it rests on: log entries 1, 39 and 46. -/
def Obligations.TrapAndHandlerEntry : Prop := TrapEntry ∧ HandlerEntry

/-- FAULT_REPLY, HANG_ABORT_REPLY and MODULE_CONTROLLER_CALL (R343, R344, R355, R383) for a task that awaits the reply to one posted
fault of its instruction flow. RETRY leaves it at its instruction, SKIP after it, LOCAL enters its trap handler with the same
cause; any other value, a SKIP of a fetch, and a LOCAL that cannot be taken abort its grid with the cause word: a grid none of whose
tasks stands has every task told to stop. A fault or call that went to the module controller is logged and ends its grid. -/
def FaultReplies : Prop :=
  (∀ (s u v : State) (k seq : Nat) (x : Word) (y : Awaiting) (r : TaskRef), s.replies.any (replyTo k seq x) = true →
    (s.tile k).awaiting = [y] → y.seq = seq → y.call = false → y.xfer = false → (s.tile k).task = some r →
    u = { s with replies := s.replies.eraseP (replyTo k seq x) } → v = u.setTile k { s.tile k with awaiting := [] } →
    (x = 0 → exec (.faultReply k seq x) s = .next v) ∧
    (x = 1 → y.report.maj ≠ 0xFF → ∃ z, exec (.faultReply k seq x) s = .next (u.setTile k z) ∧
      z = Tile.withFlow { s.tile k with awaiting := [] } z ∧ z.pc = (s.tile k).after y.len ∧ z.wait = none) ∧
    (x = 1 → y.report.maj = 0xFF → exec (.faultReply k seq x) s = .next (u.abortGrid r.grid (BitVec.ofNat 64 y.report.word))) ∧
    (x = 2 → (s.tile k).wait = none → (s.tile k).due = [] → (s.tile k).handler = false → (s.tile k).trapReady = true →
      ∃ t m, exec (.faultReply k seq x) s = .next t ∧ t.mem = s.mem ∧ t.grids = s.grids ∧ (t.tile k).handler = true ∧
        (t.tile k).hpc = (s.tile k).pc ∧ (t.tile k).pc = pcOf (s.tile k).classes[15].cap ∧ (t.tile k).cmsg = some m ∧
        m.data[0]? = some (BitVec.ofNat 64 (s.nameOf k + 2 * 2 ^ 48)) ∧ m.data[1]? = some (BitVec.ofNat 64 y.report.word)) ∧
    (x = 2 → ((s.tile k).handler = true ∨ (s.tile k).trapReady = false) →
      exec (.faultReply k seq x) s = .next (v.abortGrid r.grid (BitVec.ofNat 64 y.report.word))) ∧
    (x ≠ 0 → x ≠ 1 → x ≠ 2 → exec (.faultReply k seq x) s = .next (u.abortGrid r.grid (BitVec.ofNat 64 y.report.word)))) ∧
  (∀ (s : State) (k : Nat) (y : Awaiting) (l : List Awaiting) (r : TaskRef), (s.tile k).awaiting = y :: l → y.call = false →
    (s.tile k).task = some r → (s.hung k 4 y.start = true ∨ s.serviceGone k = true) →
    ∃ e : ErrReport, e.syndrome = y.report.word % 2 ^ 64 ∧
      exec (.hangAbortReply k) s = .next (State.abortGrid { s with errlog := s.errlog ++ [e] } r.grid (BitVec.ofNat 64 y.report.word))) ∧
  (∀ (s : State) (k : Nat) (rep : TrapReport) (x : Word) (l : List (Nat × TrapReport × Word)) (r : TaskRef), s.calls = (k, rep, x) :: l →
    (s.tile k).task = some r →
    ∃ e : ErrReport, e.syndrome = x.toNat ∧
      exec .moduleControllerCall s = .next (State.abortGrid { s with calls := l, errlog := s.errlog ++ [e] } r.grid x)) ∧
  (∀ (s : State) (n : Nat) (g : Grid) (x : Word), s.grid? n = some g → g.abort = none → (∀ k ∈ s.coresOf n, s.stands g k = false) →
    (s.abortGrid n x).grid? n = some { g with abort := some x, phase := .running, sever := none } ∧ (s.abortGrid n x).mem = s.mem ∧
    ∀ k, (s.tile k).task.map (·.grid) = some n → (s.abortGrid n x).tile k = { s.tile k with stop := some .abort })

/-- HANG_SCAN, MACHINE_CHECK and WALK_COMPLETE (R112, R345, R353, R354, R380, R392). A die none of whose waits is a hang is left as it is;
a task whose wait is one traps with LIMIT, SUB 1 and the wait's KIND, at the waiting instruction, of a run that has parked at the BAR whose
episode is open. A record that is not CORRECTED is logged and sent to the service core of its partition; a LATENT one of a memory
array makes its word uncorrectable, in the home or in one replica. A walk that succeeds fills the TLBs and changes at most one table
entry; one that fails is posted with the cause of the walk, and one whose home is busy waits.
The model's own choices that it rests on: log entry 19. -/
def HangsChecksAndWalks : Prop :=
  (∀ (s : State) (die : Nat), (∀ k w n, dieOf k = die → (s.tile k).wait = some w → w.on.kind = some n → s.hung k n w.start = false) →
    exec (.hangScan die) s = .next s) ∧
  (∀ (s : State) (k n : Nat) (w : Wait), (s.tile k).wait = some w → w.on.kind = some n →
    bf (s.part (s.partNo k)).hangctl.toNat 8 32 ≠ 0 → bf (s.part (s.partNo k)).hangctl.toNat n 1 = 1 →
    w.start + bf (s.part (s.partNo k)).hangctl.toNat 8 32 * 1024 ≤ s.timeOf k → (∀ j, j ≠ k → (s.tile j).wait = none) →
    (∀ d ∈ (s.tile k).due.head?, s.dueValue k d = none) → (s.tile k).handler = false → (s.tile k).trapReady = true →
    ∃ t m, exec (.hangScan (dieOf k)) s = .next t ∧ t.mem = s.mem ∧ (t.tile k).handler = true ∧ (t.tile k).wait = none ∧
      (t.tile k).hpc = (((s.tile k).due.head?).map (·.pc)).getD (s.tile k).pc ∧ (t.tile k).due = [] ∧ (t.tile k).pc = pcOf (s.tile k).classes[15].cap ∧ (t.tile k).cmsg = some m ∧
      m.data[1]? = some (BitVec.ofNat 64 (w.minor % 2 ^ 8 * 2 ^ 24 + w.maj % 2 ^ 8 * 2 ^ 16 + 0x26)) ∧
      m.data[4]? = some (BitVec.ofNat 64 (2 ^ 16 + n * 2 ^ 24))) ∧
  (∀ (s : State) (r : ErrReport), r.sev ≠ 0 → r.array ≠ 12 →
    ∃ t, exec (.machineCheck r) s = .next t ∧ t.mem = s.mem ∧ t.tiles = s.tiles ∧ t.grids = s.grids ∧ t.errlog = s.errlog ++ [r] ∧
      (r.sev = 1 → (r.array = 8 ∨ r.array = 9 ∨ r.array = 7 ∧ (isHbm (8 * (r.loc / 8)) = false ∨ coreOf r.name = none)) → r.loc / 8 ∈ t.bad) ∧
      (∀ k, r.sev = 1 → r.array = 7 → isHbm (8 * (r.loc / 8)) = true → coreOf r.name = some k →
        (dieOf k, r.loc / 8) ∈ t.badCopies ∧ t.bad = s.bad) ∧
      (r.sev ≠ 1 → t.bad = s.bad ∧ t.badCopies = s.badCopies) ∧
      (r.part = none → t.msgs = s.msgs) ∧
      ∀ p, r.part = some p → ∃ m : Msg, t.msgs = s.msgs ++ [m] ∧ m.len = 8 ∧
        m.destName = (s.partSvc p).toNat % 2 ^ 32 ∧ m.cls = (s.partSvc p).toNat / 2 ^ 32 % 2 ^ 4 ∧
        m.data[0]? = some (BitVec.ofNat 64 (r.name + 4 * 2 ^ 48)) ∧
        m.data[1]? = some (BitVec.ofNat 64 (r.sev + r.unit * 2 ^ 8 + r.array * 2 ^ 16 + r.count % 2 ^ 24 * 2 ^ 24)) ∧
        m.data[2]? = some (BitVec.ofNat 64 r.loc)) ∧
  ∀ (s : State) (k va : Nat) (ak : Access), (s.tile k).task ≠ none → (s.tile k).awaiting = [] → ak ≠ .none → va < Config.localBase →
    (∀ p t, s.translateAt k (decide (ak = .fetch)) va (needOf ak) = .ok (p, t) →
      exec (.walkComplete k va ak) s = .next t ∧ OnlyTables s t) ∧
    (∀ f, s.translateAt k (decide (ak = .fetch)) va (needOf ak) = .error f →
      (f.why.cause = 0 → exec (.walkComplete k va ak) s = .next f.s) ∧
      (f.why.cause ≠ 0 → ∃ t y, exec (.walkComplete k va ak) s = .next t ∧ (t.tile k).awaiting = [y] ∧ (t.tile k).pc = (s.tile k).pc ∧
        y.report.cause = f.why.cause ∧ y.report.addr = va ∧ y.call = false ∧ t.mem = f.s.mem))

/-- Replies to posted faults, and the events that report faults.
The model's own choices that it rests on: log entries 2, 31 and 41. -/
def Obligations.FaultEvents : Prop := FaultReplies ∧ HangsChecksAndWalks

/-! ### Grids -/

/-- A completion record as R36 and R348 lay it out. -/
def completionBytes (status job msgdrop start fin exitval : Nat) : List Byte :=
  leBytes 2 status ++ leBytes 2 job ++ leBytes 4 msgdrop ++ leBytes 8 start ++ leBytes 8 fin ++ leBytes 8 exitval

/-- Neither home of a slot and its completion record is busy (R126, R309). -/
def RingFree (s : State) (p q i : Nat) : Prop :=
  s.homeBusy ((s.queue p q).slotAt i) 128 = false ∧ s.homeBusy ((s.queue p q).recordAt i) 32 = false

/-- TASK_START and GRID_COMPLETE (R36, R39, R40, R343, R348). A task that has not begun gets PROG as its pc, CTX, the rank word and the
arguments in w1 to w10 and null elsewhere, and waits for its first wake-up under AWAIT_WAKE unless one was kept. A grid whose tasks
have all exited, or an aborted one whose tasks have all stopped, leaves with its completion record in the slot of its packet's
index, and no other byte of memory changes. -/
def TaskStartAndCompletion : Prop :=
  (∀ (s : State) (k : Nat) (r : TaskRef) (g : Grid), (s.tile k).task = some r → s.grid? r.grid = some g → g.unstarted.contains k = true →
    ∃ t, exec (.taskStart k) s = .next t ∧ t.mem = s.mem ∧ t.msgs = s.msgs ∧ (∀ j, j ≠ k → t.tile j = s.tile j) ∧
      t.grid? r.grid = some { g with unstarted := g.unstarted.filter (· ≠ k) } ∧
      t.tile k = { s.tile k with pc := g.prog, w := (t.tile k).w, wake := (t.tile k).wake, wait := (t.tile k).wait } ∧
      (t.tile k).getW 1 = g.ctx ∧
      (t.tile k).getW 2 = Reg.plain (BitVec.ofNat 64 (((r.band * g.teams + r.team) * g.tasks + r.rank) + r.rank * 2 ^ 16 + r.team * 2 ^ 24 +
        r.band * 2 ^ 32 + g.tasks * 2 ^ 40 + g.teams * 2 ^ 48 + g.bands * 2 ^ 56)) ∧
      (∀ i, i < 8 → (t.tile k).getW (3 + i) = Reg.plain (g.args.getD i 0)) ∧
      (∀ i, i < 64 → i = 0 ∨ 10 < i → (t.tile k).getW i = Reg.null) ∧
      (g.flags / 2 ^ 4 % 2 = 0 → (t.tile k).wait = none ∧ (t.tile k).wake = (s.tile k).wake) ∧
      (g.flags / 2 ^ 4 % 2 = 1 → (t.tile k).wake = false ∧
        ((s.tile k).wake = true → (t.tile k).wait = none) ∧
        ((s.tile k).wake = false → (t.tile k).wait.map (·.on) = some .firstWake))) ∧
  ∀ (s : State) (n a : Nat) (g : Grid), s.grid? n = some g → Memory.wf s.mem = true → s.ringOk g.part g.queue g.slot = true →
    a = (s.queue g.part g.queue).recordAt g.slot → RingFree s g.part g.queue g.slot →
    (g.abort = none → g.phase = .running → (∀ i, i < g.bands * g.teams * g.tasks → i ∈ g.exited) →
      ∃ t, exec (.gridComplete n) s = .next t ∧ t.grid? n = none ∧ t.tiles = s.tiles ∧
        t.readAt a 32 = completionBytes (if g.late then 1 else 0) g.job (g.msgdrop % 2 ^ 32) (g.started.getD 0) (s.refTime g.part)
          g.exitval.toNat ∧
        ∀ y, y < a ∨ a + 32 ≤ y → Memory.get t.mem y = Memory.get s.mem y) ∧
    (∀ x, g.abort = some x → (∀ k, (s.tile k).task.map (·.grid) ≠ some n) → (∀ e ∈ s.tiles, e.2 = s.tile e.1) →
      ∃ t, exec (.gridComplete n) s = .next t ∧ t.grid? n = none ∧ t.tiles = s.tiles ∧
        t.readAt a 32 = completionBytes (if g.late then 0x103 else 3) g.job (g.msgdrop % 2 ^ 32) (g.started.getD 0) (s.refTime g.part)
          x.toNat ∧
        ∀ y, y < a ∨ a + 32 ≤ y → Memory.get t.mem y = Memory.get s.mem y)

/-- The packet at the head of the queue that the dispatcher has chosen, with LATE as the partition's reference TIME gives it; placement
is not held. -/
def ChosenPacket (s : State) (p q i : Nat) (g : Grid) : Prop :=
  (∃ c, s.chosen p = some c ∧ c.resumed = false ∧ c.queue = q) ∧ s.holdsPlacement p = false ∧ s.ringOk p q i = true ∧
    i = (s.queue p q).qrd ∧ q < 16 ∧ RingFree s p q i ∧
    g = { s.packetAt p q i s.free with
      late := decide ((s.packetAt p q i s.free).deadline ≠ 0 ∧ (s.packetAt p q i s.free).deadline < s.refTime p) }

/-- DISPATCH (R34 to R39, R349). A chosen packet that a check fails completes MALFORMED with the check's number in its record, one that
is late and to be dropped completes EXPIRED, and both leave the queue. One that cannot be placed stays, and nothing but the
free-value counter changes where pre-emption is not enabled. One that is placed leaves the queue as a grid that has not begun, each
of its tasks on its core with the shape record at the start of its scratchpad. A placement gives every task a tile of its own: bands on
the partition's dies in order, teams on rising clusters, tasks on rising permitted idle tiles (R37). -/
def DispatchResult : Prop :=
  (∀ (s : State) (p q i a : Nat) (g : Grid), ChosenPacket s p q i g → Memory.wf s.mem = true → a = (s.queue p q).recordAt i →
    s.isBad ((s.queue p q).slotAt i) 128 = false →
    (s.packetCheck g ≠ 0 → ∃ t, exec (.dispatch p) s = .next t ∧ t.grids = s.grids ∧ t.tiles = s.tiles ∧
      (t.queue p q).qrd = (i + 1) % 2 ^ 32 ∧ t.readAt a 32 = completionBytes 4 g.job 0 0 (s.refTime p) (s.packetCheck g) ∧
      ∀ y, y < a ∨ a + 32 ≤ y → Memory.get t.mem y = Memory.get s.mem y) ∧
    (s.packetCheck g = 0 → g.late = true → g.dropIfLate = true → ∃ t, exec (.dispatch p) s = .next t ∧ t.grids = s.grids ∧
      t.tiles = s.tiles ∧ (t.queue p q).qrd = (i + 1) % 2 ^ 32 ∧ t.readAt a 32 = completionBytes 2 g.job 0 0 (s.refTime p) 0 ∧
      ∀ y, y < a ∨ a + 32 ≤ y → Memory.get t.mem y = Memory.get s.mem y) ∧
    (s.packetCheck g = 0 → (g.late = false ∨ g.dropIfLate = false) →
      (s.placement g (fun _ => true) = none → bf s.preempten.toNat p 1 = 0 → exec (.dispatch p) s = .next { s with free := s.free + 1 }) ∧
      ∀ cores b u, s.placement g (fun _ => true) = some cores → { s with free := s.free + 1 }.readShape g = .ok (b, u) →
        b.length ≤ 2 ^ 19 → cores.Nodup →
        ∃ t, exec (.dispatch p) s = .next t ∧ (t.queue p q).qrd = (i + 1) % 2 ^ 32 ∧
          t.grid? s.free = some { g with cores := cores, unstarted := cores } ∧ (∀ j, j ∉ cores → t.tile j = s.tile j) ∧
          ∀ r k, cores[r]? = some k → t.readAt (scratchAt k 0) b.length = b ∧
            t.tile k = { s.tile k with
              task := some ⟨s.free, r / (g.teams * g.tasks), r / g.tasks % g.teams, r % g.tasks⟩
              job := g.job, asid := g.asid, eclass := g.flags % 4, drowsy := []
              window := s.timeOf k / windowLen k * windowLen k })) ∧
  ∀ (s : State) (g : Grid) (cores : List Nat), s.placement g (fun _ => true) = some cores → cores.length = g.bands * g.teams * g.tasks ∧
    ∀ b j i, b < g.bands → j < g.teams → i < g.tasks → ∃ k d, cores[(b * g.teams + j) * g.tasks + i]? = some k ∧
      (s.diesOf g.part)[b]? = some d ∧ k / 128 = d ∧ s.idle k = true ∧ bf g.tilemask (k % 16) 1 = 1 ∧
      (∀ k', 0 < i → cores[(b * g.teams + j) * g.tasks + (i - 1)]? = some k' → k' < k ∧ k' / 16 = k / 16) ∧
      ∀ k', 0 < j → cores[(b * g.teams + (j - 1)) * g.tasks + i]? = some k' → k' / 16 < k / 16

/-- LAUNCH, and the dispatch and placement of a packet.
The model's own choices that it rests on: log entries 2, 23, 37 and 47. -/
def Obligations.LaunchAndDispatch : Prop := LaunchResult ∧ DispatchResult

/-- TASK_SAVE and GRID_RESUME (R55, R56, R363, R364). A task of a grid that is being saved, at its run boundary or in a wait, with its
engine work, stores and transfers done and no slot of its core FILLING, is saved once its record is written: the grid keeps its core and
its holding less what is under notice; once every task is saved the cores are empty and the grid competes again. A saved grid that is
the dispatcher's choice and whose cores are idle runs again on them; a record that cannot be restored ends it with STATUS 6, and one
whose home is busy is waited for. -/
def SaveAndResume : Prop :=
  (∀ (s u v : State) (k : Nat) (r : TaskRef) (g g' : Grid), (s.tile k).task = some r → s.grid? r.grid = some g → g.phase = .saving →
    (s.tile k).atStop = true → g.unstarted.contains k = false → g.saved.any (fun x => decide (x.core = k)) = false →
    u = (s.engineDrain k).drainStores k → u.xfersOut k = false → (u.tile k).eng = [] → u.undrained k (fun _ => true) = false →
    (∀ i : Fin 256, (u.tile k).slots[i].state ≠ .filling) → s.ringOk g.part g.queue g.slot = true → RingFree s g.part g.queue g.slot →
    ((u.withdrawWait k false).modTile k Tile.keptAside).writeRecord k (g.ctx.addr + 458752 * grankOf g r) = .ok v →
    v.grid? r.grid = some g' → g'.sever = none → g'.phase = .saving → g'.allExited = false →
    ∃ t h, exec (.taskSave k) s = .next t ∧ t.grid? r.grid = some h ∧
      (∃ x, h.saved = g'.saved ++ [x] ∧ x.core = k ∧ x.grank = grankOf g r ∧ x.written = true ∧
        x.hold = (u.tile k).hold - (u.tile k).revoke) ∧
      ((v.coresOf r.grid).all (fun j => h.saved.any (fun x => decide (x.core = j))) = true →
        h.phase = (if g'.hold then .held else .saved) ∧ ∀ j, (t.tile j).task.map (·.grid) ≠ some r.grid) ∧
      ((v.coresOf r.grid).all (fun j => h.saved.any (fun x => decide (x.core = j))) = false → h.phase = .saving ∧ t.mem = v.mem)) ∧
  ∀ (s : State) (n : Nat) (g : Grid) (cores : List Nat) (pairs : List (SavedTask × Nat)), s.grid? n = some g → g.phase = .saved →
    (∃ c, s.chosen g.part = some c ∧ c.resumed = true ∧ c.id = n) → s.holdsPlacement g.part = false →
    s.resumeCores g.saved [] = some cores → pairs = g.saved.zip cores → s.ringOk g.part g.queue g.slot = true →
    RingFree s g.part g.queue g.slot →
    (∀ v, (pairs.foldl (fun (s : State) x => s.seat g n x.1.grank x.2) s).restoreAll g pairs = .ok v →
      ∃ t h, exec (.gridResume n) s = .next t ∧ t.grid? n = some h ∧ h.phase = .running ∧ h.saved = [] ∧ h.exited = g.exited) ∧
    ((pairs.foldl (fun (s : State) x => s.seat g n x.1.grank x.2) s).restoreAll g pairs = .error none → exec (.gridResume n) s = .next s) ∧
    ∀ x : Word, (pairs.foldl (fun (s : State) x => s.seat g n x.1.grank x.2) s).restoreAll g pairs = .error (some x) → Memory.wf s.mem = true →
      ∃ t, exec (.gridResume n) s = .next t ∧ t.grid? n = none ∧
        t.readAt ((s.queue g.part g.queue).recordAt g.slot) 32 =
          completionBytes (if g.late then 0x106 else 6) g.job (g.msgdrop % 2 ^ 32) (g.started.getD 0) (s.refTime g.part) x.toNat

/-- HPRE_PREEMPT, HPRE_PREEMPT_HOLD, HPRE_RESUME and RELAUNCH (R312, R426). While BUSY a command
does nothing; one that finds no matching grid only writes the register's fields; a running grid is to be saved, and held under
command 2; a held grid competes again. RELAUNCH without a severance list for the slot, or with another packet in it, sets ERR; a
list whose packet still stands in its slot is accepted, and the grid competes again. -/
def HostCommands : Prop :=
  ∀ (s : State) (p q slot n : Nat) (g : Grid), q < 16 → slot < 2 ^ 32 →
    (2 ^ 63 ≤ (s.part p).hpre.toNat →
      exec (.hprePreempt p q slot) s = .next s ∧ exec (.hprePreemptHold p q slot) s = .next s ∧ exec (.hpreResume p q slot) s = .next s) ∧
    ((s.part p).hpre.toNat < 2 ^ 63 →
      ((∀ e ∈ s.grids, ¬ (e.2.part = p ∧ e.2.queue = q ∧ e.2.slot = slot)) → ∀ i ∈ [Instr.hprePreempt p q slot, .hprePreemptHold p q slot,
          .hpreResume p q slot],
        exec i s = .next (s.modPart p (fun x => { x with hpre := BitVec.ofNat 64 (slot + q * 2 ^ 32) }))) ∧
      (s.grids.find? (fun e => decide (e.2.part = p ∧ e.2.queue = q ∧ e.2.slot = slot)) = some (n, g) → s.grid? n = some g →
        (g.phase = .running → g.abort = none → g.allExited = false → ∀ i hold, (i, hold) ∈ [(Instr.hprePreempt p q slot, false), (.hprePreemptHold p q slot, true)] →
          ∃ t, exec i s = .next t ∧ t.mem = s.mem ∧ t.grid? n = some { g with phase := .saving, hold := hold, sever := none } ∧
            (t.part p).hpre = BitVec.ofNat 64 (slot + q * 2 ^ 32 + 2 ^ 63) ∧
            ∀ k, (s.tile k).task.map (·.grid) = some n → t.tile k = { s.tile k with stop := some .save }) ∧
        (g.phase = .held → ∃ t, exec (.hpreResume p q slot) s = .next t ∧ t.mem = s.mem ∧ t.tiles = s.tiles ∧
          t.grid? n = some { g with phase := .saved } ∧ (t.part p).hpre = BitVec.ofNat 64 (slot + q * 2 ^ 32)))) ∧
    ((∀ x ∈ s.severances, ¬ (x.part = p ∧ x.queue = q ∧ x.slot = slot)) →
      exec (.relaunch p q slot) s = .next (s.modPart p (fun x => { x with relaunch := BitVec.ofNat 64 (slot + q * 2 ^ 32 + 2 ^ 62) }))) ∧
    (s.severances.find? (fun x => decide (x.part = p ∧ x.queue = q ∧ x.slot = slot)) = some ⟨p, q, slot, n⟩ → s.grid? n = some g →
      (s.readAt ((s.queue p q).slotAt slot) 128 = g.packet →
        ∃ t, exec (.relaunch p q slot) s = .next t ∧ t.mem = s.mem ∧ t.tiles = s.tiles ∧
          t.grid? n = some { g with phase := .accepted, part := p } ∧ (t.part p).relaunch = BitVec.ofNat 64 (slot + q * 2 ^ 32) ∧
          (⟨p, q, slot, n⟩ : Severance) ∉ t.severances) ∧
      (s.readAt ((s.queue p q).slotAt slot) 128 ≠ g.packet →
        exec (.relaunch p q slot) s = .next (s.modPart p (fun x => { x with relaunch := BitVec.ofNat 64 (slot + q * 2 ^ 32 + 2 ^ 62) }))))

/-- Starting and completing tasks and grids, saving and resuming them, and the host's commands over them.
The model's own choices that it rests on: log entries 6, 15, 22 and 48. -/
def Obligations.GridLife : Prop := TaskStartAndCompletion ∧ SaveAndResume ∧ HostCommands

/-! ### What arrives -/

/-- A class message at its destination, or sent again after a refusal. -/
def classEvent (s : State) (i : Nat) (m : Msg) (e : Instr) : Prop :=
  s.msgs[i]? = some m ∧ m.wake = false ∧ s.stale m.destName = false ∧ s.leads i m = true ∧
    (m.interval = 0 ∧ e = .messageArrival i ∨ m.interval ≠ 0 ∧ e = .messageRetry i)

/-- MESSAGE_ARRIVAL and MESSAGE_RETRY (R46, R47, R279) of a class message of the current generation that no earlier message of its
source, destination and class precedes. At a core that receives, a disabled class discards and counts it; an enabled FIFO class
with a free entry and none spilled holds it last, otherwise the spill region does while it has room, and without room it is refused;
a RANKED class counts it as arrived and discards a NaN key and a pair that it holds. At any other core it is refused. A refused
message stays, to be sent again after 64 cycles, twice as many after each refusal up to 4,096.
MESSAGE_RETRY with an index beyond the messages moves a refused transfer on. -/
def ClassMessages : Prop :=
  ∀ (s : State) (i : Nat) (m : Msg) (e : Instr) (u : Tile), classEvent s i m e → u = s.tile m.dest → (∀ x ∈ u.inbox, x.arrival ≠ s.free) →
    (s.receives m.dest = true →
      ((u.cls m.cls).en = false → exec e s = .next ({ s with free := s.free + 1, msgs := s.msgs.eraseIdx i }.setTile m.dest
        (u.modCls m.cls (fun c => { c with discards := (c.discards + 1) % 2 ^ 32 })))) ∧
      ((u.cls m.cls).en = true → (u.cls m.cls).ranked = false → (∀ x ∈ u.spilled, x.cls ≠ m.cls) → u.fifoUsed < u.fifoRoom →
        exec e s = .next ({ s with free := s.free + 1, msgs := s.msgs.eraseIdx i }.setTile m.dest
          { u with inbox := u.inbox ++ [(⟨m.srcName, m.cls, m.len, m.data, s.free, []⟩ : InMsg)] })) ∧
      ((u.cls m.cls).en = true → (u.cls m.cls).ranked = false → ((∃ x ∈ u.spilled, x.cls = m.cls) ∨ u.fifoRoom ≤ u.fifoUsed) →
        (u.spilled.length < s.spillRoom m.dest → ∃ t x, exec e s = .next t ∧ t.msgs = s.msgs.eraseIdx i ∧
          t.tile m.dest = { u with spilled := u.spilled ++ [x] } ∧ x.source = m.srcName ∧ x.cls = m.cls ∧ x.len = m.len ∧ x.data = m.data ∧
          ∀ j, j ≠ m.dest → t.tile j = s.tile j) ∧
        (s.spillRoom m.dest ≤ u.spilled.length → ∃ y : Msg, exec e s = .next { s with free := s.free + 1, msgs := s.msgs.set i y } ∧
          y.interval = (if m.interval = 0 then 64 else min 4096 (2 * m.interval)))) ∧
      (∀ k, (u.cls m.cls).en = true → (u.cls m.cls).ranked = true → k = (m.data.headD 0).toNat → m.cls < 16 →
        (keyNan (k % 2 ^ 32) = true ∨ ∃ x ∈ u.held m.cls, x.key = (sieveKey (k % 2 ^ 32), k / 2 ^ 32)) →
        ∃ t, exec e s = .next t ∧ t.msgs = s.msgs.eraseIdx i ∧ (t.tile m.dest).inbox = u.inbox ∧ (t.tile m.dest).spilled = u.spilled ∧
          ((t.tile m.dest).cls m.cls).discards = ((u.cls m.cls).discards + 1) % 2 ^ 32 ∧
          ((t.tile m.dest).cls m.cls).arrivals = (u.cls m.cls).arrivals + 1 ∧ ∀ j, j ≠ m.dest → t.tile j = s.tile j)) ∧
    (s.receives m.dest = false → ∃ y : Msg, exec e s = .next { s with msgs := s.msgs.set i y } ∧
      y = { m with interval := y.interval, refusedAt := y.refusedAt, old := false } ∧
      y.interval = (if m.interval = 0 then 64 else min 4096 (2 * m.interval)) ∧
      (y.refusedAt = none ↔ (u.task ≠ none ∨ u.memberOf ≠ none ∨ s.savedOn m.dest ≠ none))) ∧
    ∀ j k x, s.refusedXfers[j]? = some (k, x) → exec (.messageRetry (s.msgs.length + j)) s = .next (s.completeXfer k x)

/-- WAKE_UP_ARRIVAL, MESSAGE_REFUSAL_DISCARD and STALE_GEN_DROP (R40, R223, R279, R357, R429). A wake-up releases a task that waits for
its first wake and otherwise sets the wake flag of the core, or of the saved task that the core's name stands for. A message that
has been refused for LIMIT × 1,024 cycles for want of a task is discarded and counted in its grid's MSGDROP, and not before. A
message or transfer with a stale name is dropped and recorded as CONSUMED by UNIT 3 with the name as its location. -/
def WakeUpsAndDrops : Prop :=
  ∀ (s : State) (i : Nat) (m : Msg) (u : Tile), s.msgs[i]? = some m → u = s.tile m.dest →
    (m.wake = true → s.stale m.destName = false → s.leads i m = true → m.dest < Config.tileSites →
      (s.receives m.dest = true → u.wait.map (·.on) = some .firstWake →
        exec (.wakeUpArrival i) s = .next ({ s with msgs := s.msgs.eraseIdx i }.setTile m.dest { u with wait := none, wake := false })) ∧
      ((s.receives m.dest = true ∧ u.wait.map (·.on) ≠ some .firstWake ∨ s.receives m.dest = false ∧ s.savedOn m.dest = none) →
        exec (.wakeUpArrival i) s = .next ({ s with msgs := s.msgs.eraseIdx i }.setTile m.dest { u with wake := true })) ∧
      ∀ n g, s.receives m.dest = false → s.savedOn m.dest = some n → s.grid? n = some g →
        ∃ t h, exec (.wakeUpArrival i) s = .next t ∧ t.msgs = s.msgs.eraseIdx i ∧ t.tiles = s.tiles ∧ t.grid? n = some h ∧
          h = { g with saved := h.saved } ∧ h.saved = g.saved.map (fun x => if x.core = m.dest then { x with wake := true } else x)) ∧
    (∀ n limit, m.refusedAt = some n → limit = bf (s.part m.part).hangctl.toNat 8 32 → s.bare m.dest = true →
      (limit = 0 ∨ (s.die m.clockDie).time < n + limit * 1024 → exec (.messageRefusalDiscard i) s = .next s) ∧
      (limit ≠ 0 → n + limit * 1024 ≤ (s.die m.clockDie).time → ∃ t, exec (.messageRefusalDiscard i) s = .next t ∧
        t.msgs = s.msgs.eraseIdx i ∧ t.tiles = s.tiles ∧ ∀ a g, m.grid = some a → s.grid? a = some g → g.phase ≠ .severed →
          t.grid? a = some { g with msgdrop := g.msgdrop + 1 })) ∧
    (s.stale m.destName = true → ∃ t r y, exec (.staleGenDrop i) s = .next t ∧ t.msgs = s.msgs.eraseIdx i ++ [y] ∧ t.errlog = s.errlog ++ [r] ∧
      r.sev = 2 ∧ r.unit = 3 ∧ r.loc = m.destName ∧ r.part = some m.part ∧ y.len = 8 ∧
      y.destName = (s.partSvc m.part).toNat % 2 ^ 32 ∧ t.tiles = s.tiles ∧
      ∀ a g, m.grid = some a → s.grid? a = some g → g.phase ≠ .severed → t.grid? a = some { g with msgdrop := g.msgdrop + 1 }) ∧
    ∀ j k n x, s.staleXfers[j]? = some (k, n) → (s.tile k).xfers[n]? = some x → ∃ t r,
      exec (.staleGenDrop (s.msgs.length + j)) s = .next t ∧ t.tiles = (s.skipXfer k n).tiles ∧
        t.errlog = (s.skipXfer k n).errlog ++ [r] ∧ r.sev = 2 ∧ r.unit = 3 ∧ r.loc = x.destName

/-- Arrival, refusal, retry and discard of class messages and wake-ups.
The model's own choices that it rests on: log entries 2, 21 and 30. -/
def Obligations.MessageEvents : Prop := ClassMessages ∧ WakeUpsAndDrops

/-- ENGINE_RETIRE, SLOT_FILL_COMPLETE, OWNERSHIP_GRANT, OWNERSHIP_TIMEOUT and COLLECTIVE_COMPLETE (R68, R126, R254, R274, R290, R390). The
oldest engine instruction retires; what fills a slot, a transfer or the engine's next instruction, is completed. A line that a
transfer has still to access is granted to it, exclusively where it has still to write it, once no other engine's grant conflicts, in
ascending order after a timeout, and one with a conflict is not; a timeout gives up every grant. A collective all of whose ranks have joined or exited gets the result of its contributions in
rank order; its one participant has the bytes at DOFF and its counter advanced. -/
def EngineAndCollectiveEvents : Prop :=
  (∀ (s : State) (k slot : Nat) (op : EngOp) (rest : List EngOp),
    ((s.tile k).eng = [] → exec (.engineRetire k) s = .next s) ∧
    ((s.tile k).eng = op :: rest → exec (.engineRetire k) s = .next (s.engineStep k)) ∧
    (((s.tile k).slot slot).state ≠ .filling → exec (.slotFillComplete k slot) s = .next s) ∧
    (((s.tile k).slot slot).state = .filling → (∀ j i, s.fillerOf k slot = some (j, i) →
        exec (.slotFillComplete k slot) s = .next (s.completeXfer j i)) ∧
      (s.fillerOf k slot = none → (s.tile k).eng = op :: rest → (((s.engineStep k).tile k).slot slot).state ≠ .filling →
        exec (.slotFillComplete k slot) s = .next (s.engineStep k)))) ∧
  (∀ (s : State) (k i line : Nat) (x : Xfer), (s.tile k).xfers[i]? = some x → x.stopped = none →
    (line ∈ s.xferLines k x.elems → x.holdsLine line = false → ∀ w : Bool, (w = true ↔ line ∈ s.xferWrites k x.elems) →
      (s.owned k x.id (64 * line) 64 (!w) = true → exec (.ownershipGrant k i line) s = .next s) ∧
      (s.owned k x.id (64 * line) 64 (!w) = false → (x.ordered = true → ∀ l ∈ s.xferLines k x.elems, x.holdsLine l = false → line ≤ l) →
        exec (.ownershipGrant k i line) s = .next (s.setTile k { s.tile k with
          xfers := (s.tile k).xfers.set i { x with grants := x.grants ++ [(line, w)] } })) ∧
      exec (.ownershipTimeout k i) s = .next (s.setTile k { s.tile k with
          xfers := (s.tile k).xfers.set i { x with grants := [], ordered := true } })) ∧
    ((∀ l ∈ s.xferLines k x.elems, x.holdsLine l = true) → exec (.ownershipTimeout k i) s = .next s)) ∧
  (∀ (s : State) (k id key n : Nat), s.owned k id key n = false → s.owned k id key n true = false) ∧
  ∀ (s : State) (i : Nat) (arrival : List Nat) (c : Coll) (g : Grid) (parts : List (Option CollPart)) (res : List Byte × List Byte),
    s.colls[i]? = some c → s.grid? c.grid = some g → c.result = none → c.parts ≠ [] →
    (∀ r ∈ instRanks g c.scope c.inst, (∃ p ∈ c.parts, p.grank = r) ∨ r ∈ g.exited) →
    parts = (instRanks g c.scope c.inst).map (fun r => c.parts.find? (fun p => decide (p.grank = r))) →
    (c.ord = .fast → (arrival.filter (fun n => decide (n < parts.length))).length = parts.length ∧ ∀ n, n < parts.length → n ∈ arrival) →
    res = credResult c.ord c.win c.count arrival parts →
    ∃ t, exec (.collectiveComplete i arrival) s = .next t ∧ t.tiles = s.tiles ∧ t.grids = s.grids ∧
      (∃ q, t.colls[i]? = some q ∧ q = { c with result := some res, takers := c.parts.map (·.grank) }) ∧
      ∀ p, c.parts = [p] → isMx c.win = false → Memory.wf s.mem = true →
        (p.ctr = none → t.readAt (scratchAt p.core p.doff) res.1.length = res.1) ∧
        ∀ o, p.ctr = some o → p.doff + res.1.length ≤ o ∨ o + 4 ≤ p.doff →
          t.readAt (scratchAt p.core p.doff) res.1.length = res.1 ∧
          t.readNat (scratchAt p.core o) 4 = (s.readNat (scratchAt p.core o) 4 + 1) % 2 ^ 32

/-- REPLICATED_WRITE, REPLICA_ACK, REPLICA_COMMIT and SEQUENCER_FAILOVER (R105, R130, R393). A store to a replicated page takes the
next stamp and goes to every copy, with memory unchanged; a copy acknowledges a stamp once it has acknowledged every earlier one; the
oldest write is performed when every copy has acknowledged it and no other engine owns its line (R126), and not before. When the sequencer is lost the standby performs
every stamped write in stamp order and goes on; when that is lost too, replicated pages are lost. Each loss is recorded. -/
def ReplicatedWrites : Prop :=
  (∀ (s : State) (k i : Nat) (x : PStore), (s.tile k).stores[i]? = some x → x.repl = true → s.seqLost = false → s.canPerform k i x = true →
    ∃ t w, exec (.replicatedWrite k i) s = .next t ∧ t.mem = s.mem ∧ t.tags = s.tags ∧ t.stamp = s.stamp + 1 ∧ t.rwrites = s.rwrites ++ [w] ∧
      w.stamp = s.stamp + 1 ∧ w.writer = k ∧ w.xfer = 0 ∧ w.key = x.key ∧ w.data = x.data ∧ w.tag = x.tag ∧ w.acks = [] ∧
      w.copies = 56 :: (s.part (s.partNo k)).dies ∧ t.tile k = { s.tile k with stores := (s.tile k).stores.eraseIdx i } ∧
      ∀ j, j ≠ k → t.tile j = s.tile j) ∧
  (∀ (s : State) (n c : Nat),
    ((∃ w ∈ s.rwrites, w.stamp < n ∧ c ∈ w.copies ∧ c ∉ w.acks) → exec (.replicaAck n c) s = .next s) ∧
    ((∀ w ∈ s.rwrites, w.stamp < n → c ∈ w.copies → c ∈ w.acks) → exec (.replicaAck n c) s = .next { s with
      rwrites := s.rwrites.map (fun w => if w.stamp = n ∧ c ∈ w.copies ∧ c ∉ w.acks then { w with acks := w.acks ++ [c] } else w) })) ∧
  (∀ (s : State) (w : RWrite) (l : List RWrite), s.rwrites = w :: l → Memory.wf s.mem = true →
    (((∃ c ∈ w.copies, c ∉ w.acks) ∨ s.seqLost = true ∨ s.owned w.writer w.xfer w.key w.data.length = true) →
      exec (.replicaCommit w.stamp) s = .next s) ∧
    ((∀ c ∈ w.copies, c ∈ w.acks) → s.seqLost = false → s.owned w.writer w.xfer w.key w.data.length = false → ∃ t, exec (.replicaCommit w.stamp) s = .next t ∧ t.rwrites = l ∧ t.tiles = s.tiles ∧
      t.readAt w.key w.data.length = w.data ∧
      ∀ y, y < w.key ∨ w.key + w.data.length ≤ y → Memory.get t.mem y = Memory.get s.mem y)) ∧
  ∀ (s : State), (s.rwrites.map (·.stamp)).Pairwise (· < ·) →
    (s.standbySeq = false → s.seqLost = false → (∀ w ∈ s.rwrites, s.owned w.writer w.xfer w.key w.data.length = false) → ∃ t r, exec .sequencerFailover s = .next t ∧ t.standbySeq = true ∧ t.rwrites = [] ∧ t.stamp = s.stamp ∧
      t.mem = s.rwrites.foldl (fun m w => Memory.write m w.key w.data) s.mem ∧ t.errlog = s.errlog ++ [r] ∧ r.sev = 3 ∧ r.unit = 10) ∧
    (s.standbySeq = true → s.seqLost = false → ∃ r, exec .sequencerFailover s = .next { s with seqLost := true, errlog := s.errlog ++ [r] } ∧
      r.sev = 4 ∧ r.unit = 10)

/-- Engine retirement, slot fills, ownership and collectives, and the sequencer's replicated writes.
The model's own choices that it rests on: log entries 32, 37, 42 and 48. -/
def Obligations.EngineAndFabricEvents : Prop := EngineAndCollectiveEvents ∧ ReplicatedWrites

/-- EXPERT_ROW_ARRIVAL, EXPERT_RELEASE, OVERFLOW_DECISION and EXPERT_BUFFER_CONFIGURATION (R52, R331, R358, R359). A row of the buffer's size
that needs no further page is written after the rows that have arrived, the counter advances, and at TRIG the owner gets the buffer's
number and the count. A row for an absent buffer is held and told of, or dropped and counted where no overflow core is set. A
release sets the counter to 0, zeroes the first page's rows and returns the pages of a buffer that is not pinned. A DROP decision
discards and counts the arrivals held for the buffer, and its dword becomes 0. Firmware configures a buffer or takes it away.
The model's own choices that it rests on: log entry 33. -/
def Obligations.ExpertBuffers : Prop :=
  (∀ (s : State) (n : Nat) (r : Row) (l : List Row), s.rows = r :: l → r.held = 0 → Memory.wf s.mem = true → r.die < 56 → r.buf < 256 →
    n = s.expertCount r.die r.buf →
    (∀ e, s.expert? r.die r.buf = some e → r.data.length = e.rowsz → 64 + (n + 1) * e.rowsz ≤ 2 ^ 16 → n + 1 < 2 ^ 32 →
      ∃ t, exec (.expertRowArrival 0) s = .next t ∧ t.rows = l ∧ t.tiles = s.tiles ∧
        t.readAt (expertAt r.die r.buf (64 + n * e.rowsz)) e.rowsz = r.data ∧ t.expertCount r.die r.buf = n + 1 ∧
        (n + 1 ≠ e.trig → t.msgs = s.msgs) ∧
        (n + 1 = e.trig → ∃ m : Msg, t.msgs = s.msgs ++ [m] ∧ m.destName = e.owner ∧ m.cls = e.cls ∧
          m.data = [BitVec.ofNat 64 r.buf, BitVec.ofNat 64 (n + 1)])) ∧
    (s.expert? r.die r.buf = none →
      ((s.die r.die).ovf.toNat % 2 ^ 32 = 0 → ∃ t, exec (.expertRowArrival 0) s = .next t ∧ t.rows = l ∧ t.msgs = s.msgs ∧
        t.readNat (expertAt r.die r.buf 24) 4 = (s.readNat (expertAt r.die r.buf 24) 4 + 1) % 2 ^ 32) ∧
      ((s.die r.die).ovf.toNat % 2 ^ 32 ≠ 0 → (∀ q ∈ l, ¬ (q.die = r.die ∧ q.buf = r.buf)) →
        ∃ t m, exec (.expertRowArrival 0) s = .next t ∧ t.mem = s.mem ∧ t.rows = l ++ [{ r with held := 1, told := true }] ∧
          t.msgs = s.msgs ++ [m] ∧ m.destName = (s.die r.die).ovf.toNat % 2 ^ 32 ∧ m.cls = (s.die r.die).ovf.toNat / 2 ^ 32 % 2 ^ 4 ∧
          m.data[0]? = some (BitVec.ofNat 64 (1 + r.buf * 2 ^ 8 + r.die * 2 ^ 16 + 2 ^ 32))))) ∧
  (∀ (s : State) (d b : Nat) (e : Expert), d < Config.dies → b < 256 → Memory.wf s.mem = true → s.expert? d b = some e →
    (∀ r ∈ s.rows, r.die = d → r.held = 0) →
    ∃ t, exec (.expertRelease d b) s = .next t ∧ t.rows = s.rows ∧ t.tiles = s.tiles ∧ t.expertCount d b = 0 ∧
      (∀ x, 64 ≤ x → x < 65536 → Memory.get t.mem (expertAt d b x) = 0) ∧
      (e.pinned = false → (t.die d).poolFree = (s.die d).poolFree + e.pages.length ∧
        t.expert? d b = some { e with pages := [], flushed := false }) ∧
      (e.pinned = true → (t.die d).poolFree = (s.die d).poolFree ∧ t.expert? d b = some { e with flushed := false })) ∧
  (∀ (s : State) (d b : Nat), d < Config.dies → b < 256 → Memory.wf s.mem = true →
    (s.readNat (expertAt d b 16) 8 = 0 → exec (.overflowDecision d b) s = .next s) ∧
    (s.readNat (expertAt d b 16) 8 = 1 → ∃ t, exec (.overflowDecision d b) s = .next t ∧ t.readNat (expertAt d b 16) 8 = 0 ∧
      t.rows = s.rows.filter (fun r => !decide (r.die = d ∧ r.buf = b ∧ r.held ≠ 0 ∧ r.held ≠ 4)) ∧ t.msgs = s.msgs ∧ t.tiles = s.tiles ∧
      t.readNat (expertAt d b 24) 4 = (s.readNat (expertAt d b 24) 4 +
        (s.rows.filter (fun r => decide (r.die = d ∧ r.buf = b ∧ r.held ≠ 0 ∧ r.held ≠ 4))).length) % 2 ^ 32)) ∧
  ∀ (s : State) (d b owner cls rowsz trig : Nat) (pinned : Bool), d < Config.dies → b < 256 → (∀ r ∈ s.rows, r.deferred = false) →
    (s.expert? d b = none →
      exec (.expertBufferConfiguration d (.buffer b owner cls rowsz trig pinned)) s = .next (s.modDie d (fun x => { x with
        experts := keySet x.experts b ⟨owner, cls % 16, rowsz, trig, pinned, [], false, 0⟩ }))) ∧
    ((∀ r ∈ s.rows, r.die = d → r.held ≠ 4) →
      exec (.expertBufferConfiguration d (.remove b)) s = .next (s.modDie d (fun x => { x with
        experts := keyDel x.experts b
        poolFree := x.poolFree + ((s.expert? d b).map (fun e => e.pages.length)).getD 0
        flushing := if x.flushing = some b then none else x.flushing }))) ∧
    (∀ n, (∀ r ∈ s.rows, r.die = d → r.held ≠ 4) → (s.die d).poolPages - (s.die d).poolFree ≤ n →
      ∃ t, exec (.expertBufferConfiguration d (.pool n)) s = .next t ∧ t.mem = s.mem ∧ t.rows = s.rows ∧ (t.die d).poolPages = n ∧
        (t.die d).poolFree = n - ((s.die d).poolPages - (s.die d).poolFree))

/-! ### Tokens, trips, clocks -/

/-- Windows bring the balances of a tile up to date (R171): at each of the `n` window starts since the last one BAL, and the gate's
shadow balance, becomes the smaller of itself plus the holding and the holding. -/
def WindowRefill : Prop :=
  ∀ (t : Tile) (k n now : Nat), now / windowLen k * windowLen k = t.window + n * windowLen k →
    (n = 0 → t.refilled k now = t) ∧
    (0 < n → t.refilled k now = { t with
      bal := min (t.bal + n * t.hold) t.hold, sbal := min (t.sbal + n * t.hold) t.hold, window := now / windowLen k * windowLen k })

/-- TOKEN_GRANT, REVOCATION_DEADLINE, ISSUE_WINDOW and PROOFER_REBUILD (R171, R174, R176, R177, R408, R409). The proofer decides its oldest
request, and a decided request never takes a task's holding and LATER together beyond its full rate. At the first window start at or
after its deadline, and not before, a victim's holding falls by REVOKE, and a requester of those tokens holds them. At its window start
a TRET's tokens leave; windows that have started refill both budgets, each from the holding in force. A rebuild keeps holdings and
pending revocations; one that fails, or a second one in a journal period, freezes the zone. -/
def ProoferEvents : Prop :=
  (∀ (s : State) (k n : Nat), ((s.die (dieOf k)).requests.head? ≠ some (k, n) → exec (.tokenGrant k n) s = .next s) ∧
    ∀ l, (s.die (dieOf k)).requests = (k, n) :: l → (s.tile k).hold + (s.tile k).later ≤ fullRate k →
      ∃ t, exec (.tokenGrant k n) s = .next t ∧ t.mem = s.mem ∧ (t.die (dieOf k)).requests = l ∧
        (t.tile k).hold + (t.tile k).later ≤ fullRate k ∧ (s.tile k).hold ≤ (t.tile k).hold ∧ (t.tile k).w = (s.tile k).w) ∧
  (∀ (s : State) (k d : Nat), d = ceilDiv (s.tile k).deadline (windowLen k) * windowLen k → (s.tile k).revoke ≠ 0 →
    (s.timeOf k < d → exec (.revocationDeadline k) s = .next s) ∧
    (d ≤ s.timeOf k → s.dueList (dieOf k) d = [(d, k, false)] →
      ((∀ o ∈ (s.die (dieOf k)).owed, o.victim ≠ k) → ∃ t, exec (.revocationDeadline k) s = .next t ∧ t.mem = s.mem ∧
        t.tile k = { (s.tile k).refilled k (d - 1) with hold := (s.tile k).hold - (s.tile k).revoke, revoke := 0, deadline := 0 } ∧
        ∀ j, j ≠ k → t.tile j = s.tile j) ∧
      ∀ r, (s.die (dieOf k)).owed = [⟨r, k, (s.tile k).revoke⟩] → r ≠ k → ∃ t, exec (.revocationDeadline k) s = .next t ∧
        t.tile k = { (s.tile k).refilled k (d - 1) with hold := (s.tile k).hold - (s.tile k).revoke, revoke := 0, deadline := 0 } ∧
        (t.tile r).hold = (s.tile r).hold + (s.tile k).revoke ∧ (t.tile r).later = (s.tile r).later - (s.tile k).revoke ∧
        (t.die (dieOf k)).owed = [] ∧ ∀ j, j ≠ k → j ≠ r → t.tile j = s.tile j)) ∧
  (∀ (s : State) (k h m : Nat), k < Config.tileSites → (s.tile k).task ≠ none →
    (s.windowDue k = false → exec (.issueWindow k) s = .next s) ∧
    (s.windowDue k = true →
      (s.dueList (dieOf k) (s.timeOf k) = [] →
        exec (.issueWindow k) s = .next (s.setTile k ((s.tile k).refilled k (s.timeOf k)))) ∧
      (s.dueList (dieOf k) (s.timeOf k) = [(m, k, true)] → m = (s.tile k).returnAt → (s.tile k).revoke = 0 →
        h = (s.tile k).hold - min (s.tile k).returns (s.tile k).hold →
        ∃ t, exec (.issueWindow k) s = .next t ∧ t.mem = s.mem ∧ (∀ j, j ≠ k → t.tile j = s.tile j) ∧
          t.tile k = Tile.refilled { (s.tile k).refilled k (m - 1) with hold := h, returns := 0, returnAt := 0, deadline := 0 } k
            (s.timeOf k)))) ∧ WindowRefill ∧
  ∀ (s : State) (d : Nat) (ok : Bool), d < Config.dies → (s.tiles.map (·.1)).Pairwise (· < ·) →
    ((s.die d).frozen = true → exec (.prooferRebuild d ok) s = .next s) ∧
    ((s.die d).frozen = false →
      ((ok = false ∨ (s.die d).rebuilds ≠ 0) → ∃ t r, exec (.prooferRebuild d ok) s = .next t ∧ t.tiles = s.tiles ∧
        (t.die d).frozen = true ∧ (t.die d).pool = (s.die d).pool ∧ t.errlog = s.errlog ++ [r] ∧ r.sev = 3 ∧ r.unit = 8) ∧
      (ok = true → (s.die d).rebuilds = 0 → ∃ t, exec (.prooferRebuild d ok) s = .next t ∧ t.mem = s.mem ∧ (t.die d).frozen = false ∧
        (t.die d).rebuilds = 1 ∧ (t.die d).tripstat.getLsbD 3 = true ∧
        ∀ k, (t.tile k).hold = (s.tile k).hold ∧ ((s.tile k).revoke ≠ 0 →
          (t.tile k).revoke = (s.tile k).revoke ∧ (t.tile k).deadline = (s.tile k).deadline)))

/-- Tokens: TREQ, TRET, TSTAT, and what the proofer does.
The model's own choices that it rests on: log entry 24. -/
def Obligations.TokenResults : Prop := TokenInstructions ∧ ProoferEvents

/-- The published entry of die `d` converts the reference count to its TIME within 2 cycles (R21). -/
def Timed (s : State) (d : Nat) : Prop :=
  timeAt (s.die d).offset (s.die d).rate s.refCount ≤ (s.die d).time + 2 ∧
    ((s.die d).time : Int) ≤ timeAt (s.die d).offset (s.die d).rate s.refCount + 2

/-- A table's copies (R24): a die whose copy shows the SEQ of the new table, or still that of the old one, shows all of its entries. -/
def TableCopies : Prop :=
  ∀ (s : State) (d : Nat) (x : Publishing),
    (s.timePub = some x → 2 ≤ s.tableSeq → s.tableSeq < 2 ^ 64 → x.old.take 8 = leBytes 8 (s.tableSeq - 2) →
      ((s.timeCopy d).take 8 = leBytes 8 s.tableSeq → s.timeCopy d = s.timeTable) ∧
      ((s.timeCopy d).take 8 = leBytes 8 (s.tableSeq - 2) → s.timeCopy d = x.old)) ∧
    (s.fretPub = some x → 2 ≤ s.fretSeq → s.fretSeq < 2 ^ 64 → x.old.take 8 = leBytes 8 (s.fretSeq - 2) →
      ((s.fretCopy d).take 8 = leBytes 8 s.fretSeq → s.fretCopy d = s.fretTable) ∧
      ((s.fretCopy d).take 8 = leBytes 8 (s.fretSeq - 2) → s.fretCopy d = x.old))

/-- CURRENT_TRIP, THERMAL_TRIP, TRIP_RECOVERY, THERMAL_CLOCK_STEP, THERMAL_CUTOFF, TIME_TABLE_PUBLISH and CLOCK_CHANGE (R10, R21, R24, R411).
A trip revokes every holding of 2 or more on the die down to 1 within 64 cycles and lets the proofer grant nothing until it has
recovered. While a thermal trip lasts the clock steps down to 0.70 GHz, and up again after it; every step and every change of the
clock publishes both tables anew, with an entry that converts within 2 cycles, and an entry that does not is never published. A die
sees one table or the other whole. The cutoff removes the die's power and loses each of its tiles in turn. -/
def TripsAndClocks : Prop :=
  TableCopies ∧ ∀ (s : State) (d : Nat), d < Config.dies →
    (∀ i (m : Nat), (i, m) ∈ [(Instr.currentTrip d, 0), (.thermalTrip d, 1)] →
      ∃ t, exec i s = .next t ∧ t.mem = s.mem ∧ (t.die d).tripped = true ∧ (t.die d).tripstat.getLsbD m = true ∧
        (i = .thermalTrip d → (t.die d).thermal = true) ∧
        (∀ k n, t.grant k n = ((0, 0), t) ∨ dieOf k ≠ d) ∧
        ∀ k, dieOf k = d → (t.tile k).hold = (s.tile k).hold ∧ (2 ≤ (s.tile k).hold →
          (t.tile k).revoke = (s.tile k).hold - 1 ∧ (t.tile k).deadline ≤ s.timeOf k + 64)) ∧
    exec (.tripRecovery d) s = .next (s.modDie d (fun x => { x with tripped := false, thermal := false })) ∧
    ((s.die d).thermal = true → 28 < (s.die d).clock - (s.die d).slow → ∃ t, exec (.thermalClockStep d) s = .next t ∧
      (t.die d).slow = (s.die d).slow + 1 ∧ t.tableSeq = s.tableSeq + 2 ∧ t.fretSeq = s.fretSeq + 2 ∧ t.tiles = s.tiles ∧
      ((s.die d).clock ≤ 42 → Timed t d)) ∧
    ((s.die d).thermal = true → (s.die d).clock - (s.die d).slow ≤ 28 → exec (.thermalClockStep d) s = .next s) ∧
    ((s.die d).thermal = false → (s.die d).slow ≠ 0 → ∃ t, exec (.thermalClockStep d) s = .next t ∧
      (t.die d).slow = (s.die d).slow - 1 ∧ t.tableSeq = s.tableSeq + 2 ∧ t.fretSeq = s.fretSeq + 2 ∧ t.tiles = s.tiles ∧
      ((s.die d).clock ≤ 42 → 28 ≤ (s.die d).clock - (s.die d).slow → Timed t d)) ∧
    ((s.die d).thermal = false → (s.die d).slow = 0 → exec (.thermalClockStep d) s = .next s) ∧
    ((s.die d).powered = true → ∃ u r, u.errlog = s.errlog ++ [r] ∧ r.sev = 3 ∧ r.unit = 8 ∧ (u.die d).powered = false ∧ u.tiles = s.tiles ∧
      exec (.thermalCutoff d) s = .next ((List.range 128).foldl (fun (s : State) i => s.loseTile (128 * d + i) 0xFF) u)) ∧
    (∀ e : TimeEntry, e.die = d → ∃ t, exec (.timeTablePublish [e]) s = .next t ∧ t.tableSeq = s.tableSeq + 2 ∧ t.tiles = s.tiles ∧
      (2 ^ 29 ≤ e.rate → e.rate < 2 ^ 31 → timeAt e.offset e.rate s.refCount ≤ (s.die d).time + 2 →
        ((s.die d).time : Int) ≤ timeAt e.offset e.rate s.refCount + 2 → (t.die d).offset = e.offset ∧ (t.die d).rate = e.rate) ∧
      ((e.rate < 2 ^ 29 ∨ 2 ^ 31 ≤ e.rate ∨ (s.die d).time + 2 < timeAt e.offset e.rate s.refCount ∨
        timeAt e.offset e.rate s.refCount + 2 < (s.die d).time) → t.die d = s.die d) ∧ ∀ j, j ≠ d → t.die j = s.die j) ∧
    ∀ (c : Nat) (es : List TimeEntry) (bs : List FretEntry),
      (28 ≤ c → c ≤ 42 → ∃ t, exec (.clockChange d c es bs) s = .next t ∧ (t.die d).clock = c ∧ t.tableSeq = s.tableSeq + 2 ∧
        t.fretSeq = s.fretSeq + 2 ∧ t.tiles = s.tiles ∧ t.mem = s.mem ∧ Timed t d) ∧
      ((c < 28 ∨ 42 < c) → exec (.clockChange d c es bs) s = .next s)

/-! ### Meters and readings -/

/-- METER_RECONCILE, JOURNAL_PERIOD and READINGS (R184, R185, R187, R189, R321, R412, R414, R415). What a task's core has counted goes to its
job. An interval has 10,500 ticks; a sound meter's charges, with what goes to module overhead, sum exactly to the energy measured. A
journal period lasts JPERIOD milliseconds of the reference count; it keeps every reading and its order; new readings
take rising SEQs; a full journal takes none; with a sound signature none stays unsigned. READINGS drops signed readings that have been
acknowledged, and returns signed ones in order, none beyond the first unsigned one. -/
def MeterAndJournal : Prop :=
  (∀ (s : State) (k p n : Nat) (r : TaskRef), s.tiles.map (·.1) = [k] → (s.die (dieOf k)).counts = [] → (s.tile k).memberOf = none →
    (s.tile k).task = some r → s.partOf k = some p →
    n = (s.tile k).slotEvents * s.coeffs.getD 0 0 + (s.tile k).latticeEvents * s.coeffs.getD 5 0 → n ≠ 0 →
    (s.gatherCounts (dieOf k)).dieCounts (dieOf k) [] = [(.job p (s.tile k).job, n)]) ∧
  (∀ (s : State) (d emeas : Nat) (uses : List EnergyUse) (others : Nat × Nat), d < 72 → ∀ counts : List (Account × Nat),
    counts = (s.gatherCounts d).dieCounts d uses →
    (∀ ok, s.refCount < (s.die d).metered + 10500 → exec (.meterReconcile d emeas uses others ok) s = .next s) ∧
    ((s.die d).metered + 10500 ≤ s.refCount →
      ((s.die d).meterFaulty = false → (s.accounts.map (·.1)).Nodup →
        ∃ t, exec (.meterReconcile d emeas uses others true) s = .next t ∧ t.mem = s.mem ∧ (t.accounts.map (·.1)).Nodup ∧
          (t.die d).metered = (s.die d).metered + 10500 ∧ (t.die d).counts = [] ∧ (∀ k, (t.tile k).w = (s.tile k).w) ∧
          (t.accounts.map (·.2.pj)).sum = (s.accounts.map (·.2.pj)).sum + emeas ∧
          (∀ (a : Account) (n : Nat) (x : Acct), a ≠ .overhead → counts = [(a, n)] → 95 * n ≤ 25600 * emeas → 25600 * emeas ≤ 105 * n →
            (a, x) ∈ s.accounts → ∃ y, (a, y) ∈ t.accounts ∧ y.pj = x.pj + (n * emeas / max n 1 : Nat) ∧ y.gap = x.gap)) ∧
      ∃ t, exec (.meterReconcile d emeas uses others false) s = .next t ∧ (t.die d).meterFaulty = true ∧ t.mem = s.mem ∧
        ∀ a n, (a, n) ∈ counts → ∃ y, (a, y) ∈ t.accounts ∧ y.gap = true)) ∧
  (∀ (s : State) (ok : Bool), s.refCount < s.journalAt + s.jperiod.toNat * 1050000 → exec (.journalPeriod ok) s = .next s) ∧
  (∀ (s : State) (ok : Bool), s.journalAt + s.jperiod.toNat * 1050000 ≤ s.refCount →
    ∃ t, exec (.journalPeriod ok) s = .next t ∧ t.mem = s.mem ∧ t.journalAt = s.refCount ∧
    (t.journal.take s.journal.length).map (fun r => (r.seq, r.body)) = s.journal.map (fun r => (r.seq, r.body)) ∧
    (∀ r ∈ t.journal.drop s.journal.length, s.seqNo < r.seq ∧ r.seq ≤ t.seqNo) ∧
    ((t.journal.drop s.journal.length).map (·.seq)).Pairwise (· < ·) ∧
    (1048576 ≤ s.journal.length → t.journal.length = s.journal.length) ∧
    (ok = true → ∀ r ∈ t.journal, r.signature ≠ none) ∧ ∀ k, (t.tile k).trips = 0) ∧
  ∀ (s : State) (a b : Nat),
    (s.boot ≠ .running ∨ s.ctlLost = true → exec (.readings a b) s = .next { s with outputs := s.outputs ++ [.refusedCommand] }) ∧
    (s.boot = .running → s.ctlLost = false → ∃ t rs, exec (.readings a b) s = .next t ∧ t.outputs = s.outputs ++ [.readings rs] ∧
      t.journal = s.journal.filter (fun r => decide (b < r.seq) || r.signature.isNone) ∧
      (∀ r ∈ rs, r.signature ≠ none ∧ a ≤ r.seq ∧ r ∈ t.journal) ∧
      ∀ pre r, t.journal = pre ++ r :: t.journal.drop (pre.length + 1) → (∀ x ∈ pre ++ [r], x.signature ≠ none) → a ≤ r.seq → r ∈ rs)

/-- From `s` to `t` one event reading with a code has been journaled (R417): PART 0xFFFF, PARTACCT and FINAL, ENERGY 0 and the code as its
CUMUL, under the next SEQ. -/
def EventReading (s t : State) (code : Nat) : Prop :=
  ∃ r, t.journal = s.journal ++ [r] ∧ t.seqNo = s.seqNo + 1 ∧ r.seq = t.seqNo ∧ r.signature = none ∧ r.body.length = 96 ∧
    blockNat r.body 2 2 = 0x18 ∧ blockNat r.body 4 2 = 0xFFFF ∧ blockNat r.body 6 2 = 0 ∧ blockNat r.body 56 8 = 0 ∧
    blockNat r.body 64 8 = code ∧ blockNat r.body 72 8 = t.seqNo % 2 ^ 64

/-- ENCLOSURE_OPEN, DEBUG_PORT_ENABLE, COEFFICIENT_TABLE_CHANGE, READING_KEY_REPLACEMENT, ALWAYS_ON_LOSS and MODULE_CONTROLLER_TAKEOVER (R183,
R189, R416 to R418): each journals its event reading. A new table or key takes effect; after a loss of the always-on contents SEQ and
RESETS go on from the next block of 1,024, only signed readings remain, and every account has GAP set; a takeover sets GAP, and the
loss of the standby too is recorded as MODULE and holds placements. -/
def JournaledEvents : Prop :=
  ∀ (s : State),
    (∃ t, exec .enclosureOpen s = .next t ∧ EventReading s t 1 ∧ t = { s with journal := t.journal, seqNo := t.seqNo }) ∧
    (∃ t, exec .debugPortEnable s = .next t ∧ EventReading s t 2 ∧ t = { s with journal := t.journal, seqNo := t.seqNo }) ∧
    (∀ l, ∃ t, exec (.coefficientTableChange l) s = .next t ∧ EventReading s t 4 ∧
      t = { s with journal := t.journal, seqNo := t.seqNo, coeffs := l }) ∧
    (∀ k, ∃ t, exec (.readingKeyReplacement k) s = .next t ∧ EventReading s t 6 ∧
      t = { s with journal := t.journal, seqNo := t.seqNo, readKey := k, readCert := Config.keyCertificate k }) ∧
    (∃ u t, exec .alwaysOnLoss s = .next t ∧ EventReading u t 5 ∧ u.journal = s.journal.filter (fun r => r.signature.isSome) ∧
      s.seqNo < u.seqNo ∧ u.seqNo % 1024 = 0 ∧ u.seqNo ≤ s.seqNo + 1024 ∧ s.resets < t.resets ∧ t.resets % 1024 = 0 ∧ t.mem = s.mem ∧
      t.accounts.map (fun a => (a.1, a.2.cumul, a.2.start, a.2.gap)) =
        s.accounts.map (fun a => (a.1, a.2.signedTo.2, a.2.signedTo.1, true))) ∧
    (s.standbyCtl = false → ∃ t r, exec .moduleControllerTakeover s = .next t ∧ EventReading s t 7 ∧ t.standbyCtl = true ∧
      t.tableSeq = s.tableSeq + 2 ∧ t.fretSeq = s.fretSeq + 2 ∧ t.errlog = s.errlog ++ [r] ∧ r.sev = 3 ∧ r.unit = 9 ∧
      (∀ a ∈ t.accounts, a.2.gap = true) ∧ t.refCount ≤ s.refCount + 2 ∧ s.refCount ≤ t.refCount + 2) ∧
    (s.standbyCtl = true → s.ctlLost = false → ∃ r, exec .moduleControllerTakeover s =
        .next { s with ctlLost := true, errlog := s.errlog ++ [r] } ∧ r.sev = 4 ∧ r.unit = 9)

/-- Meters, readings, the journal, and the events that it records.
The model's own choices that it rests on: log entries 7, 8, 25, 32 and 45. -/
def Obligations.MetersAndReadings : Prop := MeterAndJournal ∧ JournaledEvents

/-! ### Tiles, links, routes -/

/-- TILE_LOST, TILE_RETIRE, TILE_POWER_GATING, LANE_QUAD_FUSING, BANK_DROWSY, ACCUMULATOR_REFRESH and DEBUG_READ (R73, R74, R398 to R406,
R427). A lost tile is recorded as UNIT_LOST and its name becomes vacant; a task on it ends its grid with EXITVAL 0x00FF_0038. A tile
is retired once it has no task and the braid is quiet: its name goes to a fresh spare or becomes vacant, and GEN advances from 255 to
1; until then its running grid is to be saved. A core without a live lane quad is retired. Power gating, a drowsy bank, a refresh and a
debug access change no value; a debug access gives the item of a live, powered core, whose drowsy banks it wakes, and a status
otherwise.
The model's own choices that it rests on: log entries 14 and 30. -/
def Obligations.TileEvents : Prop :=
  ∀ (s : State) (k a : Nat), k < Config.tileSites →
    (k ∈ s.vacant → exec (.tileLost k a) s = .next s) ∧
    (k ∉ s.vacant → (s.tile k).memberOf = none →
      ((s.tile k).task = none → ∃ t r, exec (.tileLost k a) s = .next t ∧ t.vacant = s.vacant ++ [k] ∧ t.errlog = s.errlog ++ [r] ∧ r.sev = 3 ∧
        r.unit = 0 ∧ r.array = a ∧ r.name = s.nameOf k ∧ t.tiles = s.tiles ∧ t.mem = s.mem) ∧
      ∀ r, (s.tile k).task = some r → ∃ u v : State, u.errlog.length = s.errlog.length + 1 ∧ u.tiles = s.tiles ∧ u.grids = s.grids ∧
        v = u.abortGrid r.grid 0x00FF0038#64 ∧
        exec (.tileLost k a) s = .next (if (v.tile k).task = none then { v with vacant := v.vacant ++ [k] }
          else { v.stopTask k with vacant := (v.stopTask k).vacant ++ [k] })) ∧
    (∀ (spare : Bool), k ∉ s.retired → (s.tile k).memberOf = none →
      ((s.tile k).task = none → s.quiescent = true → ∃ t, exec (.tileRetire k spare) s = .next t ∧
        t.gen = (if s.gen = 255 then 1 else s.gen + 1) ∧ t.tile k = { Tile.idle with svc := (s.tile k).svc, idleSince := s.timeOf k } ∧
        (∀ j, j ≠ k → t.tile j = s.tile j) ∧ (spare = true → k ∉ t.vacant ∧ t.retired = s.retired ∧ ∃ x, keyFind t.remap k = some x) ∧
        (spare = false → k ∈ t.vacant ∧ k ∈ t.retired ∧ keyFind t.remap k = none) ∧ t.mem = s.mem) ∧
      ((s.tile k).task = none → s.quiescent = false → exec (.tileRetire k spare) s = .next s) ∧
      ∀ r g, (s.tile k).task = some r → s.grid? r.grid = some g → g.phase = .running → g.abort = none →
        ∃ t, exec (.tileRetire k spare) s = .next t ∧ t.gen = s.gen ∧ t.mem = s.mem ∧
          t.grid? r.grid = some { g with phase := .saving, hold := false, sever := none } ∧ (t.tile k).stop = some .save) ∧
    (s.idle k = true → (s.tile k).hold = 0 → k ∉ s.gated → exec (.tilePowerGating k) s = .next { s with gated := s.gated ++ [k] }) ∧
    ((s.idle k = false ∨ (s.tile k).hold ≠ 0) → exec (.tilePowerGating k) s = .next s) ∧
    (∀ q, (4 ≤ q → exec (.laneQuadFusing k q) s = .next s) ∧
      (q < 4 → (s.tile k).memberOf = none → (s.tile k).task = none → (k, q) ∉ s.fused →
        ((s.fused.filter (fun x => decide (x.1 = k))).length < 3 →
          exec (.laneQuadFusing k q) s = .next { s with fused := s.fused ++ [(k, q)] }) ∧
        ((s.fused.filter (fun x => decide (x.1 = k))).length = 3 → k ∉ s.retired → s.quiescent = true →
          ∃ t, exec (.laneQuadFusing k q) s = .next t ∧ k ∈ t.vacant ∧ k ∈ t.retired ∧ ∀ j, j ≠ k → t.tile j = s.tile j))) ∧
    (∀ b, s.idle k = true → (s.tile k).hold = 0 → b < 209 → b ∉ (s.tile k).drowsy →
      ((s.tile k).idleSince + 1024 ≤ s.timeOf k →
        exec (.bankDrowsy k b) s = .next (s.setTile k { s.tile k with drowsy := (s.tile k).drowsy ++ [b] })) ∧
      (s.timeOf k < (s.tile k).idleSince + 1024 → exec (.bankDrowsy k b) s = .next s)) ∧
    exec (.accumulatorRefresh k a) s = .next s ∧
    (∀ o, o + 8 ≤ Config.scratchBytes → o % 8 = 0 → itemBanks (.scratch o) = [17 + o / 8 % 192, 17 + o / 8 % 192]) ∧
    ∀ (name : BitVec 32) (i : DebugItem), ∃ st v l t, exec (.debugRead name i) s = .next t ∧
      t = (if st = 0 then State.setTile { s with outputs := s.outputs ++ [.debug st v] } l { s.tile l with
          drowsy := (s.tile l).drowsy.filter (fun b => !(itemBanks i).contains b) } else { s with outputs := s.outputs ++ [.debug st v] }) ∧
      (coreOf name.toNat = some k → l = k) ∧ (name.toNat / 2 ^ 24 ≠ s.gen → st = 4 ∧ v = none) ∧
      (name.toNat / 2 ^ 24 = s.gen → coreOf name.toNat = some k →
        (k ∈ s.retired → st = 2 ∧ v = none) ∧ (k ∉ s.retired → k ∈ s.vacant → st = 3 ∧ v = none) ∧
        (k ∉ s.retired → k ∉ s.vacant → (s.tile k).memberOf ≠ none → st = 5 ∧ v = none) ∧
        (k ∉ s.retired → k ∉ s.vacant → (s.tile k).memberOf = none → k ∈ s.gated → st = 1 ∧ v = none) ∧
        (k ∉ s.retired → k ∉ s.vacant → (s.tile k).memberOf = none → k ∉ s.gated → st = 0 ∧
          (∀ n, i = .w n → v = some ((s.tile k).w[n].hi ++ (s.tile k).w[n].lo)) ∧ (i = .pc → v = some ((s.tile k).pc.hi ++ (s.tile k).pc.lo)) ∧
          (∀ n, i = .p n → v = some ((s.tile k).p[n].setWidth 128)) ∧ (i = .vl → v = some (BitVec.ofNat 128 (s.tile k).vl)) ∧
          ∀ o, i = .scratch o → o + 8 ≤ Config.scratchBytes → v = some (BitVec.ofNat 128 (s.readNat (scratchAt k o) 8))))

/-- LINK_RETRAIN, LINK_FAIL and ROUTE_SWITCHOVER (R132, R419 to R424) on an edge with both ends. A retraining counts, sets the module's UP
and DEGRADED bits at both ends and publishes the fret entries of both directions anew, each a band of a link (R23); without a working
module, and when the link fails, both ends have failed, their entries are 0, and the loss is recorded. A switchover takes the
partition's new carriers and tables; a message on a path that they change keeps its old one, and no later message from its source to
its destination leads before it has arrived. Only where the partition is cut off do its grids stop. -/
def LinkEvents : Prop :=
  (∀ (s : State) (d k e : Nat), edgeTo d k = some e → d < 72 → k < 4 → d ≠ e → (s.link d k).state = 1 ∨ (s.link d k).state = 2 →
    (∀ (m : Nat) (o : LinkOutcome) (lo hi : Nat), m < modulesOf d k →
      (setBit (s.link d k).up m (decide (o ≠ .disabled)) ≠ 0 → (s.link e (opposite k)).state = 1 ∨ (s.link e (opposite k)).state = 2 →
        ∃ (t : State) (f : FretEntry), exec (.linkRetrain d k m o lo hi) s = .next t ∧ t.tiles = s.tiles ∧
          t.fretSeq = s.fretSeq + 2 ∧ t.link d k = { s.link d k with
            retrains := min 255 ((s.link d k).retrains + 1), up := setBit (s.link d k).up m (decide (o ≠ .disabled)),
            degraded := setBit (s.link d k).degraded m (decide (o = .degraded)), lo := f.lo, hi := f.hi } ∧
          (lo ≤ hi → 0 < hi → hi < 2 ^ 16 → f.lo = lo ∧ f.hi = hi) ∧ f.lo ≤ f.hi ∧ 0 < f.hi ∧ f.hi < 2 ^ 16 ∧
          (t.link e (opposite k)).retrains = min 255 ((s.link e (opposite k)).retrains + 1) ∧
          (t.link e (opposite k)).lo ≤ (t.link e (opposite k)).hi ∧ 0 < (t.link e (opposite k)).hi ∧
          (t.link e (opposite k)).hi < 2 ^ 16) ∧
      (setBit (s.link d k).up m (decide (o ≠ .disabled)) = 0 → ∃ t, exec (.linkRetrain d k m o lo hi) s = .next t ∧
        (t.link d k).state = 3 ∧ (t.link d k).up = 0 ∧ (t.link d k).hi = 0)) ∧
    ∃ t r, exec (.linkFail d k) s = .next t ∧ t.tiles = s.tiles ∧ t.mem = s.mem ∧ t.fretSeq = s.fretSeq + 2 ∧ t.errlog = s.errlog ++ [r] ∧
      r.sev = 3 ∧ r.unit = 4 ∧
      t.link d k = { s.link d k with state := 3, up := 0, degraded := 0, lo := 0, hi := 0 } ∧
      (t.link e (opposite k)).state = 3 ∧ (t.link e (opposite k)).lo = 0 ∧ (t.link e (opposite k)).hi = 0) ∧
  (∀ (s : State) (d k : Nat), (s.link d k).state = 3 → exec (.linkFail d k) s = .next s) ∧
  (∀ (s : State) (p : Nat) (l : List Nat) (routes : List (Nat × Nat × Nat)),
    (s.part p).live = false → exec (.routeSwitchover p ⟨l, routes⟩) s = .next s) ∧
  (∀ (s : State) (i j : Nat) (m x : Msg), s.msgs[j]? = some x → j < i → x.old = true → x.src = m.src → x.dest = m.dest →
    s.leads i m = false) ∧
  ∀ (s u : State) (p : Nat) (l : List Nat) (routes : List (Nat × Nat × Nat)) (q : Partition), (s.part p).live = true →
    q = { s.part p with carriers := l.filter (fun d => decide (d < Config.dies)), routes := routes } →
    u = { s with parts := keySet s.parts p q, msgs := s.msgs.map (fun m =>
      if m.part = p then { m with old := m.old || s.onOldPath (s.part p) q m } else m) } →
    (u.cutOff p = false → exec (.routeSwitchover p ⟨l, routes⟩) s = .next u) ∧
    (u.cutOff p = true → (∀ e ∈ s.grids, e.2.part ≠ p) → ∃ t, exec (.routeSwitchover p ⟨l, routes⟩) s = .next t ∧ t.mem = s.mem ∧
      t.grids = s.grids ∧ (t.part p).carriers = q.carriers ∧ (t.part p).routes = routes ∧
      ∀ h ∈ (t.part p).hbms, u.isolated (stackDie h) = false)

/-- Current and thermal trips, clocks and tables, links and routes.
The model's own choices that it rests on: log entries 7, 14, 24, 27, 30 and 35. -/
def Obligations.TripsClocksAndLinks : Prop := TripsAndClocks ∧ LinkEvents

/-! ### Runs of chords and consorts -/

/-- CHORD_RUN_COMMIT, CONSORT_RUN_FORWARD and FOLLOWER_BUFFER_TIMEOUT (R155, R156, R164). A chord's oldest run that has ended commits, and
with it the stores of that run and earlier ones; no later store does. A leader's oldest run, with its bytes as the leader fetches
them, goes to the buffer of every attached follower and to no one else; while some buffer is full none goes. A follower whose buffer
has been full for 256 cycles and still is, and no other, detaches. -/
def ChordAndConsortRuns : Prop :=
  (∀ (s : State) (k : Nat),
    (((s.tile k).chord = none ∨ (s.tile k).runs ≤ (s.tile k).commits ∨
      ((s.tile k).parked = true ∧ (s.tile k).commits + 1 = (s.tile k).runs)) → exec (.chordRunCommit k) s = .next s) ∧
    ((s.tile k).chord ≠ none → (s.tile k).commits < (s.tile k).runs →
      ((s.tile k).parked = false ∨ (s.tile k).commits + 1 ≠ (s.tile k).runs) → exec (.chordRunCommit k) s =
        .next (s.setTile k { s.tile k with
          commits := (s.tile k).commits + 1
          stores := (s.tile k).stores.map (fun x => { x with committed := x.committed || decide (x.run ≤ (s.tile k).commits) }) }))) ∧
  (∀ (s : State) (k : Nat), (s.tile k).consort = none → exec (.consortRunForward k) s = .next s) ∧
  (∀ (s : State) (l : Nat) (x : Forward) (r : List Forward) (c : Consort), (s.tile l).consort = some c → c.leader = l → c.runs = x :: r →
    (∀ e ∈ s.tiles, ∀ y, e.2.consort = some y → y.leader = l → y.attached = true → e.1 ≠ l → (y.runs.drop (bit y.started)).length < 16) →
    ∃ (t v : State) (f : Forward), exec (.consortRunForward l) s = .next t ∧ f.start = x.start ∧ f.jumped = x.jumped ∧
      s.codeBytes l x.start 128 = (f.bytes, v) ∧ t.mem = v.mem ∧ t.tile l = { v.tile l with consort := some { c with runs := r } } ∧
      (∀ p w, s.translateAt l true x.start needX = .ok (p, w) → x.start % 65536 + 128 ≤ 65536 → x.start + 128 ≤ Config.localBase →
        w.pendingBytes l p.key 128 = false → w.owned l noXfer p.key 128 = false → w.unreadable l p.key 128 p.repl = false →
        f.bytes = w.readAt p.key 128 ∧ v = w) ∧
      ∀ k, k ≠ l → (t.tile k).pc = (s.tile k).pc ∧
        (∀ y, (s.tile k).consort = some y → y.leader = l → y.attached = true →
          ∃ z, (t.tile k).consort = some z ∧ z.runs = y.runs ++ [f] ∧ z.attached = true ∧ z.started = y.started ∧
            z.fullSince = (if 16 ≤ (z.runs.drop (bit y.started)).length ∧ y.fullSince = none then some (s.timeOf k) else y.fullSince)) ∧
        (∀ y, (s.tile k).consort = some y → (y.leader ≠ l ∨ y.attached = false) → (t.tile k).consort = some y) ∧
        ((s.tile k).consort = none → (t.tile k).consort = none)) ∧
  (∀ (s : State) (l k : Nat) (c y : Consort), (s.tile l).consort = some c → c.leader = l →
    (k, s.tile k) ∈ s.tiles → k ≠ l → (s.tile k).consort = some y → y.leader = l → y.attached = true →
    16 ≤ (y.runs.drop (bit y.started)).length → exec (.consortRunForward l) s = .next s) ∧
  ∀ (s : State) (k n : Nat) (y : Consort), (s.tile k).consort = some y → y.leader ≠ k → y.attached = true →
    (y.fullSince = none → exec (.followerBufferTimeout k) s = .next s) ∧
    ((y.runs.drop (bit y.started)).length < 16 → exec (.followerBufferTimeout k) s = .next s) ∧
    (y.fullSince = some n → s.timeOf k < n + 256 → exec (.followerBufferTimeout k) s = .next s) ∧
    (y.fullSince = some n → n + 256 ≤ s.timeOf k → 16 ≤ (y.runs.drop (bit y.started)).length →
      exec (.followerBufferTimeout k) s = .next (s.setTile k (s.tile k).detach) ∧
      (s.tile k).detach.pc = (s.tile k).pc ∧ ∃ z, (s.tile k).detach.consort = some z ∧ z.leader = y.leader ∧ z.attached = false ∧
        z.fullSince = none)

/-- COMPOSE, DECOMPOSE, GANG and JOIN, and the runs of chords and consorts.
The model's own choices that it rests on: log entry 16. -/
def Obligations.ChordsAndConsorts : Prop := ChordInstructions ∧ ConsortInstructions ∧ ChordAndConsortRuns

/-! ### Between modules -/

/-- CINOV_DOORBELL (R314 to R316): an engine that serves takes entries in index order as far as the write index covers them, never beyond
the ring; each entry that can be read is taken, and an entry that is formed sends its request, with the local bytes of a PUT, a MSG
or a CRED, under the next sequence number of each connection. An engine that does not serve, or for which a write of CNCTL waits,
takes none. -/
def CinovDoorbell : Prop :=
  ∀ (s : State) (p : Nat) (q : Partition), q = s.part p →
    ((q.live = false ∨ q.cnEn = false ∨ q.cnPending ≠ none) → exec (.cinovDoorbell p) s = .next s) ∧
    ∀ (b : List Byte) (v : State) (n : Nat), q.live = true → q.cnEn = true → q.cnPending = none → 1 ≤ q.cnN → q.cnN ≤ 16 →
      q.cnNext < 2 ^ 32 → q.cnrd ≤ q.cnNext → s.asidRead p q.cnAsid (q.cnbase.toNat - 8) 8 = .ok (b, v) →
      n = (leNat b % 2 ^ 32 + 2 ^ 32 - q.cnNext) % 2 ^ 32 →
      (2 ^ q.cnN < n + (q.cnNext - q.cnrd) → exec (.cinovDoorbell p) s = .next v) ∧
      (n + (q.cnNext - q.cnrd) ≤ 2 ^ q.cnN →
        (∃ t l, exec (.cinovDoorbell p) s = .next t ∧ t.tiles = s.tiles ∧ (t.part p).cnTaken = q.cnTaken ++ l ∧ l.length ≤ n ∧
          l.map (·.index) = (List.range l.length).map (fun i => (q.cnNext + i) % 2 ^ 32) ∧ (∀ o ∈ l, o.done = none) ∧
          (t.part p).cnNext = (q.cnNext + l.length) % 2 ^ 32 ∧ (t.part p).cnrd = q.cnrd ∧ (t.part p).cnctl = q.cnctl) ∧
        (n = 1 → ∀ f, v.asidRead p q.cnAsid (q.cnEntry q.cnNext) 64 = .error f → exec (.cinovDoorbell p) s = .next v) ∧
        ∀ (e : List Byte) (w : State) (o : CinovOp), n = 1 → v.asidRead p q.cnAsid (q.cnEntry q.cnNext) 64 = .ok (e, w) →
          o = ⟨q.cnNext, e, w.lcapTag p q.cnAsid (q.cnEntry q.cnNext), none, none⟩ →
          ((q.formed o = false ∨ w.cinovLocal p q.cnAsid o = .error .fails) →
            ∃ t, exec (.cinovDoorbell p) s = .next t ∧ (t.part p).cnTaken = q.cnTaken ++ [o] ∧ t.outputs = s.outputs) ∧
          (q.formed o = true → w.cinovLocal p q.cnAsid o = .error .waits → exec (.cinovDoorbell p) s = .next v) ∧
          ∀ d z, q.formed o = true → w.cinovLocal p q.cnAsid o = .ok (d, z) → (q.reaches o).Nodup →
            ∃ t, exec (.cinovDoorbell p) s = .next t ∧ (t.part p).cnTaken = q.cnTaken ++ [{ o with sent := some d }] ∧
              t.outputs = s.outputs ++ (q.reaches o).map (fun x =>
                Output.cinovSend p x (q.udpOf x) (q.conn x).1 o.op (o.nat 16 8) o.len o.arg d) ∧
              ∀ x ∈ q.reaches o, (t.part p).conn x = (((q.conn x).1 + 1) % 2 ^ 32, (q.conn x).2))

/-- CINOV_COMPLETE (R315, R316, R431): the oldest open entry completes. Its status is 3 where its local side failed, 1 where its connection is
lost, 2 for a remote fault, 0 otherwise, and only a completion with status 0 writes at LCAP. The status dword is written before
the counter at CADDR is incremented; CNRD then advances over it, and a write of CNCTL that waits takes effect once no entry is open.
While a home that it needs is busy, it waits. -/
def CinovComplete : Prop :=
  (∀ (s : State) (p status : Nat) (data : List Byte), (∀ o ∈ (s.part p).cnTaken, o.done ≠ none) →
    exec (.cinovComplete p status data) s = .next s) ∧
  ∀ (s : State) (p status : Nat) (data : List Byte) (o : CinovOp) (rest : List CinovOp) (q : Partition), q = s.part p →
    q.cnTaken = o :: rest → o.done = none → (∀ x ∈ rest, x.index ≠ o.index ∧ x.done = none) →
    (s.cinovOutcome p o status data = none → exec (.cinovComplete p status data) s = .next s) ∧
    (q.formed o = true →
      (o.sent = none → s.cinovOutcome p o status data = some (3, s)) ∧
      (o.sent ≠ none →
        (((q.reaches o).any q.lostPeers.contains = true ∨ status = 1) → s.cinovOutcome p o status data = some (1, s)) ∧
        ((q.reaches o).any q.lostPeers.contains = false → status ≠ 1 →
          (status ≠ 0 → s.cinovOutcome p o status data = some (2, s)) ∧
          (status = 0 → ∀ u, u = { s with free := s.free + o.len } →
            (1 ≤ o.op → o.op ≤ 2 → u.asidWrite p q.cnAsid o.cap.addr [] = .ok u ∧ s.cinovOutcome p o 0 data = some (0, u)) ∧
            (o.op = 0 → data.length = o.len → s.cinovOutcome p o 0 data = (match u.asidWrite p q.cnAsid o.cap.addr data with
              | .error .waits => none
              | .error .fails => some (3, s)
              | .ok z => some (0, z))))))) ∧
    ∀ st v, s.cinovOutcome p o status data = some (st, v) →
      ∀ w, w = v.asidWrite p q.cnAsid (q.cnEntry o.index + 40) (leBytes 8 st) → st < 4 ∧
        (w = .error .waits → exec (.cinovComplete p status data) s = .next s) ∧
        ∀ z, (w = .ok z ∨ (w = .error .fails ∧ z = v)) →
          (z.asidRead p q.cnAsid (o.nat 32 8) 4 = .error .waits → exec (.cinovComplete p status data) s = .next s) ∧
          ∀ u, ((z.asidRead p q.cnAsid (o.nat 32 8) 4 = .error .fails ∧ u = z) ∨
              ∃ b y, z.asidRead p q.cnAsid (o.nat 32 8) 4 = .ok (b, y) ∧
                (y.asidWrite p q.cnAsid (o.nat 32 8) (leBytes 4 ((leNat b + 1) % 2 ^ 32)) = .ok u ∨
                  (y.asidWrite p q.cnAsid (o.nat 32 8) (leBytes 4 ((leNat b + 1) % 2 ^ 32)) = .error .fails ∧ u = y))) →
            ∃ t, exec (.cinovComplete p status data) s = .next t ∧ t.mem = u.mem ∧ t.tags = u.tags ∧ t.rwrites = u.rwrites ∧
              (t.part p).cnTaken = rest ∧ (t.part p).cnrd = (q.cnrd + 1) % 2 ^ 32 ∧ (t.part p).cnNext = q.cnNext ∧
              (rest = [] → (t.part p).cnctl = q.cnPending.getD q.cnctl ∧ (t.part p).cnPending = none) ∧
              (rest ≠ [] → (t.part p).cnctl = q.cnctl ∧ (t.part p).cnPending = q.cnPending)

/-- A reply to a peer goes out and its packet is accepted: the connection's next number is one higher (R314). -/
def Replied (u t : State) (p : Nat) (x : CinovIn) (status : Nat) (data : List Byte) : Prop :=
  t.outputs = u.outputs ++ [.cinovReply p x.peer x.seq status data] ∧
    (t.part p).conn x.peer = (((u.part p).conn x.peer).1, (x.seq + 1) % 2 ^ 32)

/-- CINOV_RETRANSMIT, ETHERNET_FRAME_RX and ETHERNET_PORT_FAIL (R314, R315, R430, R431). The 64th unacknowledged retransmission loses the
connection. A frame with a bad FCS is dropped, and so is a packet of a connection that is not open or one that comes before its
predecessors; one that was taken before is acknowledged and not carried out again. The next packet's PUT or GET is carried out in
memory of the partition that holds the port and answered, or fails and is recorded as CONSUMED, UNIT 7; a MSG enters the fabric. The
connections of a failed port move to another port of the partition, or are lost with its last one. -/
def EthernetEvents : Prop :=
  (∀ (s : State) (p i : Nat),
    (i ∈ (s.part p).lostPeers → ∃ t, exec (.cinovRetransmit p i) s = .next t ∧ (t.part p) = s.part p) ∧
    (i ∉ (s.part p).lostPeers →
      (keyGet 0 (s.part p).retrans i + 1 < 64 → ∃ t, exec (.cinovRetransmit p i) s = .next t ∧
        (t.part p) = { s.part p with retrans := keySet (s.part p).retrans i (keyGet 0 (s.part p).retrans i + 1) } ∧ t.mem = s.mem) ∧
      (64 ≤ keyGet 0 (s.part p).retrans i + 1 → ∃ t, exec (.cinovRetransmit p i) s = .next t ∧ t.mem = s.mem ∧
        (t.part p).lostPeers = (s.part p).lostPeers ++ [i] ∧ (t.part p).peers = (s.part p).peers))) ∧
  (∀ (s : State) (port : Nat) (x : CinovIn), exec (.ethernetFrameRx port false x) s = .next s ∧
    ((∀ e ∈ s.parts, e.2.live = true → port ∉ e.2.ethPorts) → exec (.ethernetFrameRx port true x) s = .next s) ∧
    ∀ p q e, s.parts = [(p, q)] → q.live = true → port ∈ q.ethPorts → e = tableEntry q.peers x.peer → x.seq < 2 ^ 32 →
      ((blockNat e 21 1 % 2 = 0 ∨ blockNat e 20 1 ≠ port ∨ x.peer ∈ q.lostPeers) → exec (.ethernetFrameRx port true x) s = .next s) ∧
      (blockNat e 21 1 % 2 = 1 → blockNat e 20 1 = port → x.peer ∉ q.lostPeers →
        (x.seq ≠ (q.conn x.peer).2 →
          (((q.conn x.peer).2 + 2 ^ 32 - x.seq) % 2 ^ 32 < 2 ^ 31 → exec (.ethernetFrameRx port true x) s =
            .next { s with outputs := s.outputs ++ [.cinovReply p x.peer x.seq 0 []] }) ∧
          (2 ^ 31 ≤ ((q.conn x.peer).2 + 2 ^ 32 - x.seq) % 2 ^ 32 → exec (.ethernetFrameRx port true x) s = .next s)) ∧
        (x.seq = (q.conn x.peer).2 →
          (∀ asid a d, x.op = .put p asid a d →
            (s.asidWrite p asid a d = .error .waits → exec (.ethernetFrameRx port true x) s = .next s) ∧
            (s.asidWrite p asid a d = .error .fails → ∃ t r, exec (.ethernetFrameRx port true x) s = .next t ∧ t.mem = s.mem ∧
              t.errlog = s.errlog ++ [r] ∧ r.sev = 2 ∧ r.unit = 7 ∧ r.part = some p ∧ Replied s t p x 2 []) ∧
            ∀ u, s.asidWrite p asid a d = .ok u →
              ∃ t, exec (.ethernetFrameRx port true x) s = .next t ∧ t.mem = u.mem ∧ t.tags = u.tags ∧ t.tiles = u.tiles ∧ Replied u t p x 0 []) ∧
          (∀ asid a n, x.op = .get p asid a n → ∀ b u, s.asidRead p asid a n = .ok (b, u) →
            ∃ t, exec (.ethernetFrameRx port true x) s = .next t ∧ t.mem = u.mem ∧ t.tiles = s.tiles ∧ Replied u t p x 0 b) ∧
          ∀ name c d k, x.op = .msg name c d → coreOf name = some k → s.partOf k = some p → d.length ≤ 64 → c < 16 →
            ∃ t m, exec (.ethernetFrameRx port true x) s = .next t ∧ t.mem = s.mem ∧ t.msgs = s.msgs ++ [m] ∧ m.destName = name ∧ m.cls = c ∧
              m.len = (d.length + 7) / 8 ∧ m.wake = false ∧ m.data = (List.range m.len).map (fun i => BitVec.ofNat 64 (blockNat d (8 * i) 8)) ∧
              Replied s t p x 0 []))) ∧
  ∀ (s : State) (port p : Nat), ∃ t, exec (.ethernetPortFail port) s = .next t ∧ t.mem = s.mem ∧ t.tiles = s.tiles ∧
    (port ∉ (s.part p).ethPorts → t.part p = s.part p) ∧
    (port ∈ (s.part p).ethPorts → (t.part p).ethPorts = (s.part p).ethPorts.filter (· ≠ port) ∧
      ((s.part p).ethPorts.filter (· ≠ port) = [] → (t.part p).peers = (s.part p).peers ∧
        ∀ e ∈ (s.part p).peers, blockNat e.2 20 1 = port → e.1 ∈ (t.part p).lostPeers) ∧
      ∀ n r, (s.part p).ethPorts.filter (· ≠ port) = n :: r → (t.part p).lostPeers = (s.part p).lostPeers ∧
        (t.part p).peers = (s.part p).peers.map (fun e =>
          if blockNat e.2 20 1 = port then (e.1, e.2.set 20 (BitVec.ofNat 8 n)) else e))

/-- The Cinov engine and what peers ask of this module.
The model's own choices that it rests on: log entries 2 and 28. -/
def Obligations.CinovEvents : Prop := CinovDoorbell ∧ CinovComplete ∧ EthernetEvents

/-- HOST_MEM_STORE, HOST_MEM_READ, BACK_INVALIDATE_RESPONSE, SNOOP_TIMEOUT, CXL_CACHE_RESPONSE, CXL_LINK_DOWN and CXL_CONFIG_REQUEST (R130, R134,
R308, R309, R311, R319, R380, R432 to R434). Host offset o reaches byte o mod 48 GiB of the stack of that number in ascending order. A
host's store is performed at the home unless an engine owns the line; its read gives the home's bytes and leaves it holding the lines,
or, where they are uncorrectable, no data, an AER signal and a record; it waits for bytes that the master holds pending. A snoop's
answer takes the line back, with the host's value if it comes; a timeout is an answer without data and is recorded. The host grants a
line of its memory, or gives it as it holds it. A port that goes down clears EN of its windows and of no other. Until boot has ended a
configuration request gets retry status; then BAR0 of a logical device is its register block.
The model's own choices that it rests on: log entries 26 and 29. -/
def Obligations.HostAccesses : Prop :=
  (∀ (s : State) (p off h a : Nat), (s.part p).hbms = [h] → off < Config.stackBytes → a = h * Config.stackBytes + off →
    (∀ (d : List Byte), off + d.length ≤ Config.stackBytes →
      (∀ e ∈ s.tiles, ∀ x ∈ e.2.xfers, ∀ l ∈ x.grants, a + d.length ≤ 64 * l.1 ∨ 64 * l.1 + 64 ≤ a) →
      exec (.hostMemStore p off d) s = .next (s.writeKey a d false)) ∧
    (∀ n e x l, e ∈ s.tiles → x ∈ e.2.xfers → l ∈ x.grants → 64 * l.1 < a + n → a < 64 * l.1 + 64 →
      (∀ d, d.length = n → exec (.hostMemStore p off d) s = .next s) ∧ exec (.hostMemRead p off n) s = .next s) ∧
    (∀ n w, w ∈ s.rwrites → 56 ∈ w.acks → w.key < a + n → a < w.key + w.data.length → exec (.hostMemRead p off n) s = .next s) ∧
    ∀ n, off + n ≤ Config.stackBytes → (∀ e ∈ s.tiles, ∀ x ∈ e.2.xfers, ∀ l ∈ x.grants, a + n ≤ 64 * l.1 ∨ 64 * l.1 + 64 ≤ a) →
      (∀ w ∈ s.rwrites, 56 ∉ w.acks ∨ a + n ≤ w.key ∨ w.key + w.data.length ≤ a) →
      (s.isBad a n = false → ∃ t, exec (.hostMemRead p off n) s = .next t ∧ t.outputs = s.outputs ++ [.hostData (some (s.readAt a n))] ∧
        (∀ l, l % 64 = 0 → l < a + n → a < l + 64 → 0 < n → ∃ z, (l, z) ∈ t.snoops) ∧ t = { s with outputs := t.outputs, snoops := t.snoops }) ∧
      (s.isBad a n = true → ∃ t r, exec (.hostMemRead p off n) s = .next t ∧ t.outputs = s.outputs ++ [.hostData none, .aer p] ∧
        t.errlog = s.errlog ++ [r] ∧ r.sev = 2 ∧ r.unit = 7 ∧ r.part = some p ∧ t.snoops = s.snoops ∧ t.mem = s.mem)) ∧
  (∀ (s : State) (p off : Nat), (s.part p).hbms.length * Config.stackBytes ≤ off →
    (∀ d, exec (.hostMemStore p off d) s = .next s) ∧ ∀ n, exec (.hostMemRead p off n) s = .next s) ∧
  (∀ (s : State) (i : Nat),
    (s.snoops[i]? = none → (∀ d, exec (.backInvalidateResponse i d) s = .next s) ∧ exec (.snoopTimeout i) s = .next s) ∧
    ∀ l, s.snoops[i]? = some l →
      exec (.backInvalidateResponse i none) s = .next { s with snoops := s.snoops.eraseIdx i, outputs := s.outputs ++ [.snoop l.1] } ∧
      (∀ b, b.length = 64 → ∃ t, exec (.backInvalidateResponse i (some b)) s = .next t ∧ t.snoops = s.snoops.eraseIdx i ∧
        t.mem = (s.writeKey l.1 b false).mem ∧ t.tiles = s.tiles) ∧
      ((∀ r ∈ s.recent, r.unit ≠ 7) → ∃ t r, exec (.snoopTimeout i) s = .next t ∧ t.snoops = s.snoops.eraseIdx i ∧ t.mem = s.mem ∧
        t.recent = s.recent ++ [r] ∧ r.sev = 0 ∧ r.unit = 7 ∧ r.part = some l.2)) ∧
  (∀ (s : State) (pa : Nat) (d : Option (List Byte)) (bad : Bool),
    (s.hostMapped (pa / 64 * 64) = false → exec (.cxlCacheResponse pa d bad) s = .next s) ∧
    (s.hostMapped (pa / 64 * 64) = true →
      (∀ b, d = some b → b.length = 64 → bad = false → ∃ t, exec (.cxlCacheResponse pa d bad) s = .next t ∧
        pa / 64 ∉ t.hostOwned ∧ t = { s.writeKey (pa / 64 * 64) b false with hostOwned := t.hostOwned } ∧
        ∀ l, l ≠ pa / 64 → (l ∈ t.hostOwned ↔ l ∈ s.hostOwned)) ∧
      (d = none → bad = false → ∃ t, exec (.cxlCacheResponse pa d bad) s = .next t ∧
        (∀ l, l ∈ t.hostOwned ↔ l = pa / 64 ∨ l ∈ s.hostOwned) ∧ t = { s with hostOwned := t.hostOwned }) ∧
      (bad = true → ∃ t, exec (.cxlCacheResponse pa d bad) s = .next t ∧ t.isBad (pa / 64 * 64) 64 = true ∧ t.tiles = s.tiles))) ∧
  (∀ (s : State) (port : Nat), port < 8 → ∃ t, exec (.cxlLinkDown port) s = .next t ∧ t.mem = s.mem ∧
    ∀ p (n : Fin 8), ((t.part p).windows[n]).base = ((s.part p).windows[n]).base ∧
      (bf ((s.part p).windows[n]).ctl.toNat 1 3 ≠ port → (t.part p).windows[n] = (s.part p).windows[n]) ∧
      (bf ((s.part p).windows[n]).ctl.toNat 1 3 = port → ((t.part p).windows[n]).ctl.toNat =
        ((s.part p).windows[n]).ctl.toNat / 2 * 2)) ∧
  ∀ (s : State) (port : Nat) (x : Option (Nat × Nat × Nat)),
    (s.boot ≠ .running → exec (.cxlConfigRequest ⟨port, x⟩) s = .next { s with outputs := s.outputs ++ [.configRetry] }) ∧
    (s.boot = .running → exec (.cxlConfigRequest ⟨port, none⟩) s = .next { s with outputs := s.outputs ++ [.configOk] } ∧
      ∀ p o n, x = some (p, o, n) →
        ((keyFind s.attached port = none ∨ keyFind s.attached port = some p) → exec (.cxlConfigRequest ⟨port, x⟩) s =
          .next { s with outputs := s.outputs ++ [.register (s.regRead (.bar0 p o n))] }) ∧
        ∀ q, keyFind s.attached port = some q → q ≠ p → exec (.cxlConfigRequest ⟨port, x⟩) s =
          .next { s with outputs := s.outputs ++ [.register 0] })

/-! ### Boot, reset, management -/

/-- POWER_GOOD and BOOT_TIMEOUT (R319, R421, R434, R435). Boot takes the staged or active image where it verifies, the other slot where it does
not or has failed three boots, and without one enters recovery. A boot that ends has answered the census, taken GEN on when it was
unreadable, taken the remap, set TIME to 0, ZPOOL to 180 and ZNOTICE to 512 in every zone, given both ends of a link the same working
modules, published the tables, and set up no partition whose stack is absent. One that does not end within its time is abandoned to recovery. -/
def BootResult : Prop :=
  (∀ (s : State) (b : BootData), s.boot ≠ .off → exec (.powerGood b) s = .next s) ∧
  (∀ (s : State) (b : BootData), s.boot = .off →
    (b.imageOk = (false, false) → exec (.powerGood b) s = .next { s with boot := .recovery }) ∧
    (∀ n, n < 2 → n = s.staged.getD s.activeImage → ((if n = 0 then b.imageOk.1 else b.imageOk.2) = true) →
      (s.staged ≠ none ∨ s.failedBoots < 3) → b.reachesEnd = false → ∃ t, exec (.powerGood b) s = .next t ∧ t.boot = .booting ∧
        t.activeImage = n ∧ t.staged = none ∧ (s.staged = none → t = { s with boot := .booting, failedBoots := s.failedBoots + 1 })) ∧
    (∀ n, n < 2 → n = s.activeImage → s.staged = none → 3 ≤ s.failedBoots → ((if 1 - n = 0 then b.imageOk.1 else b.imageOk.2) = true) →
      ∃ t, exec (.powerGood b) s = .next t ∧ t.activeImage = 1 - n ∧ t.staged = none) ∧
    (b.reachesEnd = true → b.imageOk = (true, true) → s.policy = [] →
      ∃ t, exec (.powerGood b) s = .next t ∧ t.boot = .running ∧ t.failedBoots = 0 ∧ t.staged = none ∧ t.mem = s.mem ∧ t.tiles = s.tiles ∧
        (∀ k, k ∈ t.vacant ↔ k ∈ b.vacant ∨ k ∈ s.retired) ∧
        (b.genReadable = true → t.gen = s.gen) ∧ (b.genReadable = false → t.gen = if s.gen = 255 then 1 else s.gen + 1) ∧
        (∀ d, d < 72 → (t.die d).time = 0) ∧ t.remap = b.remap ∧ t.tableSeq = s.tableSeq + 2 ∧ t.fretSeq = s.fretSeq + 2 ∧
        (∀ d, d < Config.dies → (s.die d).clock ≤ 42 → 28 ≤ (s.die d).clock - (s.die d).slow → Timed t d) ∧ (∀ d, d < Config.dies → (t.die d).pool = 180 ∧ (t.die d).notice = 512) ∧
        (∀ d k e up, d < 72 → k < 4 → edgeTo d k = some e →
          up = (if d ≤ e then maskFor b.linksUp d k else maskFor b.linksUp e (opposite k)) % 2 ^ modulesOf d k →
          (t.link d k).up = up ∧ (up = 0 → (t.link d k).state = 3 ∧ (t.link d k).lo = 0 ∧ (t.link d k).hi = 0) ∧
          (up ≠ 0 → (t.link d k).state = 1 ∧ (t.link d k).lo ≤ (t.link d k).hi ∧ 0 < (t.link d k).hi))) ∧
    ∀ x h, b.reachesEnd = true → b.imageOk = (true, true) → s.policy = [x] → h ∈ x.hbms → h ∈ b.absentStacks →
      ∃ t, exec (.powerGood b) s = .next t ∧ t.boot = .running ∧ t.parts = s.parts) ∧
  ∀ (s : State), (s.boot = .booting → exec .bootTimeout s = .next { s with boot := .recovery }) ∧
    (s.boot ≠ .booting → exec .bootTimeout s = .next s)

/-- MODULE_RESET (R190, R414, R416, R434): held off while a delta is unsigned, for at most 10 s. It clears none of the meters, accounts, readings,
SEQ and the reference count, nor the policy and images; RESETS increases by 1, the interval's readings will have RESET set; all else is
as after reset: no task runs, no partition is set up, memory is empty. -/
def ModuleReset : Prop :=
  ∀ (s : State) (w : Nat),
    (s.unsignedDeltas = true → w < 10 → exec (.moduleReset w) s = .next s) ∧
    ((s.unsignedDeltas = false ∨ 10 ≤ w) → ∃ t, exec (.moduleReset w) s = .next t ∧
      t.accounts = s.accounts.map (fun a => (a.1, { a.2 with reset := true })) ∧ t.seqNo = s.seqNo ∧ t.resets = s.resets + 1 ∧
      t.refCount = s.refCount ∧ t.gen = s.gen ∧ t.retired = s.retired ∧ t.fused = s.fused ∧ t.policy = s.policy ∧ t.images = s.images ∧
      t.activeImage = s.activeImage ∧ t.staged = s.staged ∧ t.errlog = s.errlog ∧
      t.journal.map (fun r => (r.seq, r.signature)) = s.journal.map (fun r => (r.seq, r.signature)) ∧
      (∀ (i : Nat) (r u : Reading), s.journal[i]? = some r → t.journal[i]? = some u →
        (r.signature ≠ none → u = r) ∧ (r.signature = none → 4 ≤ r.body.length → bf (blockNat u.body 2 2) 2 1 = 1)) ∧
      (∀ d, (t.die d).metered = (s.die d).metered) ∧ t.tiles = State.reset.tiles ∧ t.parts = State.reset.parts ∧ t.grids = State.reset.grids ∧ t.mem = State.reset.mem ∧
      t.boot = State.reset.boot)

/-- Power-on boot, its timeout, and a module reset.
The model's own choices that it rests on: log entry 26. -/
def Obligations.BootAndReset : Prop := BootResult ∧ ModuleReset

/-- Each enabled window of a list is a range of host memory, and no two of them, and none of them and a range of others, meet (R310). -/
def WindowsFit (l : List HostWin) (others : List (Nat × Nat)) : Prop :=
  ∀ r, r = windowRanges l → r.Pairwise (fun a b => a.1 + a.2 ≤ b.1 ∨ b.1 + b.2 ≤ a.1) ∧
    ∀ a ∈ r, 0 < a.2 ∧ Config.hostBase ≤ a.1 ∧ a.1 + a.2 ≤ Config.scratchKey ∧
      ∀ b ∈ others, a.1 + a.2 ≤ b.1 ∨ b.1 + b.2 ≤ a.1

/-- PARTITION, POLICY, CENSUS and FIRMWARE (R5, R29, R110, R302, R308, R310, R317, R320, R321, R409, R434). A partition whose resources no
other one holds is set up: its record, ASID entries, windows, and SVC of each of its cores, while the other registers of its block
stay as they were; it is not changed while it holds a running or saved grid. POLICY reads and writes registers, writes peer and group
entries and names the partition of a port. CENSUS returns the vacant names, the remap and GEN. FIRMWARE stages a signed image into the
inactive slot. In recovery only the last two are answered. -/
def ManagementCommands : Prop :=
  (∀ (s : State) (x : PartSetup), s.boot = .running → s.ctlLost = false → x.number < 16 →
    ((∃ g ∈ s.grids, g.2.part = x.number ∧ g.2.phase = .running) → exec (.partition x) s =
      .next { s with outputs := s.outputs ++ [.refusedCommand] }) ∧
    ((∀ g ∈ s.grids, g.2.part ≠ x.number) →
      (x.remove = false → x.dies ≠ [] → (∀ d ∈ x.dies, d < Config.dies) → (∀ h ∈ x.hbms, h < Config.stacks') → (∀ e ∈ x.ethPorts, e < 64) →
        (∀ e ∈ s.parts, e.1 ≠ x.number → e.2.live = true →
          (∀ d ∈ x.dies, d ∉ e.2.dies) ∧ (∀ h ∈ x.hbms, h ∉ e.2.hbms) ∧ ∀ n ∈ x.ethPorts, n ∉ e.2.ethPorts) →
        (∀ a ∈ x.asids, a.1 < 2 ^ 14) → WindowsFit (PartitionWindows (s.part x.number).windows x.windows).toList
          ((s.parts.filter (fun e => decide (e.1 ≠ x.number) && e.2.live)).flatMap (fun e => windowRanges e.2.windows.toList)) →
        ∃ t, exec (.partition x) s = .next t ∧ x ∈ t.policy ∧ t.part x.number = { s.part x.number with
            live := true, dies := x.dies, hbms := x.hbms, ethPorts := x.ethPorts, asids := x.asids.map (·.1), svc := x.svc
            windows := PartitionWindows (s.part x.number).windows x.windows, carriers := [], routes := [] } ∧
          (∀ i r, x.asids = [(i, r)] → t.readNat (s.asidtab.toNat + 8 * i) 8 = 1 + bf r 17 35 * 2 ^ 17 + x.number * 2 ^ 60) ∧
          (∀ p, p ≠ x.number → t.part p = s.part p) ∧
          ∀ k, (k / 128 ∈ x.dies → t.tile k = { s.tile k with svc := x.svc }) ∧ (k / 128 ∉ x.dies → t.tile k = s.tile k)) ∧
      (x.remove = false → (∃ e ∈ s.parts, e.1 ≠ x.number ∧ e.2.live = true ∧ ∃ d ∈ x.dies, d ∈ e.2.dies) →
        exec (.partition x) s = .next { s with outputs := s.outputs ++ [.refusedCommand] }) ∧
      (x.remove = false → (∃ a ∈ x.asids, 2 ^ 14 ≤ a.1) →
        exec (.partition x) s = .next { s with outputs := s.outputs ++ [.refusedCommand] }) ∧
      (x.remove = true → ∃ t, exec (.partition x) s = .next t ∧ t.part x.number = { s.part x.number with
          live := false, dies := [], hbms := [], ethPorts := [], asids := [], carriers := [], routes := [] } ∧ t.tiles = s.tiles ∧
        (∀ p, p ≠ x.number → t.part p = s.part p) ∧ ∀ y ∈ t.policy, y.number ≠ x.number))) ∧
  (∀ (s : State), s.boot = .running → s.ctlLost = false →
    (∀ r, managed r = true → exec (.policy (.read r)) s = .next { s with outputs := s.outputs ++ [.register (s.regRead r)] }) ∧
    (∀ r v, managed r = true → exec (.policy (.write r v)) s = .next (s.regWrite r v)) ∧
    (∀ p i b, (s.part p).live = true → i < 256 → b.length = 32 → ∃ t, exec (.policy (.peer p i b)) s = .next t ∧
      keyGet [] (t.part p).peers i = b ∧ i ∉ (t.part p).lostPeers ∧ (t.part p).conn i = (0, 0) ∧ (∀ j, j ≠ i → keyGet [] (t.part p).peers j = keyGet [] (s.part p).peers j) ∧
      t.mem = s.mem) ∧
    (∀ p i b, (s.part p).live = true → i < 64 → b.length = 64 → ∃ t, exec (.policy (.group p i b)) s = .next t ∧
      keyGet [] (t.part p).groups i = b ∧ (∀ j, j ≠ i → keyGet [] (t.part p).groups j = keyGet [] (s.part p).groups j) ∧ t.mem = s.mem) ∧
    (∀ port p, port < 8 → ∃ t, exec (.policy (.attach port (some p))) s = .next t ∧ keyFind t.attached port = some p ∧
      t = { s with attached := t.attached }) ∧
    ∀ d, d < Config.dies → s.grids = [] → ∃ t, exec (.policy (.resetDie d)) s = .next t ∧ t.tiles = s.tiles ∧ t.mem = s.mem ∧
      t.die d = { s.die d with frozen := false, rebuilds := 0, meterFaulty := false, badIntervals := 0 }) ∧
  (∀ (s : State), s.boot ≠ .running → (∀ c, exec (.policy c) s = .next { s with outputs := s.outputs ++ [.refusedCommand] }) ∧
    ∀ x, exec (.partition x) s = .next { s with outputs := s.outputs ++ [.refusedCommand] }) ∧
  ∀ (s : State), ((s.boot = .running ∨ s.boot = .recovery) → s.ctlLost = false →
      exec .census s = .next { s with outputs := s.outputs ++ [.census s.vacant s.remap s.gen] } ∧
      (∀ n, exec (.firmware n false) s = .next { s with outputs := s.outputs ++ [.refusedCommand] }) ∧
      ∀ n, ∃ t, exec (.firmware n true) s = .next t ∧ EventReading s t 3 ∧ t.activeImage = s.activeImage ∧
        (s.activeImage = 0 → t.images = (s.images.1, n) ∧ t.staged = some 1) ∧ (s.activeImage = 1 → t.images = (n, s.images.2) ∧ t.staged = some 0)) ∧
    ((s.boot = .off ∨ s.boot = .booting ∨ s.ctlLost = true) →
      exec .census s = .next { s with outputs := s.outputs ++ [.refusedCommand] })

/-- Register writes of the host, and the management commands.
The model's own choices that it rests on: log entry 26. -/
def Obligations.ManagementResults : Prop := RegisterWrites ∧ RegisterOffsets ∧ ManagementCommands

/-! ### What every instruction is subject to -/

/-- The cause with which checks 1 to 5 of R215 fail, the first of them that does (R371). -/
def FailedCheck (c : Reg) (a n perms align cause : Nat) : Prop :=
  (cause = 0x08 ∧ c.tag = false) ∨
  (cause = 0x09 ∧ c.tag = true ∧ c.otype ≠ 0) ∨
  (cause = 0x0A ∧ c.tag = true ∧ c.otype = 0 ∧ c.has perms = false) ∨
  (cause = 0x0B ∧ c.tag = true ∧ c.otype = 0 ∧ c.has perms = true ∧
    ((a : Int) < (capBounds c).1 ∨ (capBounds c).2 < ((a + n : Nat) : Int))) ∨
  (cause = 0x0C ∧ c.tag = true ∧ c.otype = 0 ∧ c.has perms = true ∧
    (capBounds c).1 ≤ (a : Int) ∧ ((a + n : Nat) : Int) ≤ (capBounds c).2 ∧ a % align ≠ 0) ∨
  (cause = 0x0D ∧ c.tag = true ∧ c.otype = 0 ∧ c.has perms = true ∧
    (capBounds c).1 ≤ (a : Int) ∧ ((a + n : Nat) : Int) ≤ (capBounds c).2 ∧ a % align = 0 ∧ 2 ^ 56 ≤ a)

/-- A load or a store whose access fails one of checks 1 to 5 of R215 takes a local trap with the cause of the first check that fails, and
has no effect, the base update included (R215, R371); an address in the untranslated region with nothing behind it traps too. -/
def AccessTraps : Prop :=
  ∀ (o s : State) (r : Fin 64) (z : Fin 4) (m : Mem) (sw : Bool) (c a : Nat), s = o.engineDone → Ready s (wr r :: Mem.reads m) →
    a = (s.here.ea (2 ^ z.val) z m).addr →
    (¬ (Mem.updates m = true ∧ r = Mem.rb m) → FailedCheck (s.here.ea (2 ^ z.val) z m).cap a (2 ^ z.val) Perm.load (2 ^ z.val) c →
      Traps (exec (.ld r z m sw) o) s ⟨c, .load, 0x10, 0, a, s.here.pc.addr, (Mem.rb m).val⟩ 4) ∧
    (¬ (Mem.updates m = true ∧ r = Mem.rb m) → Grants (s.here.ea (2 ^ z.val) z m).cap a (2 ^ z.val) Perm.load (2 ^ z.val) →
      locate a (2 ^ z.val) = .unbacked → Traps (exec (.ld r z m sw) o) s ⟨0x0E, .load, 0x10, 0, a, s.here.pc.addr, (Mem.rb m).val⟩ 4) ∧
    (FailedCheck (s.here.ea (2 ^ z.val) z m).cap a (2 ^ z.val) Perm.store (2 ^ z.val) c →
      Traps (exec (.st r z m sw) o) s ⟨c, .store, 0x12, 0, a, s.here.pc.addr, (Mem.rb m).val⟩ 4)

/-- An instruction that reads or writes a pending result of its own run takes RUN_HAZARD before it issues, and so does one that must carry S
without it, and a load whose destination is the base it updates (R369). -/
def RunHazards : Prop :=
  ∀ (o s : State) (d a b : Fin 64) (sw : Bool) (x : Pend), s = o.engineDone →
    (s.here.bound a = none → findPend s.here.pend (wr a) = some x →
      Traps (exec (.add d a b sw) o) s ⟨0x03, .none, 0, 0, 0, s.here.pc.addr, x.num + 2 ^ 16 + x.pos * 2 ^ 24 + File.code x.file * 2 ^ 32⟩ 4) ∧
    (s.here.bound b = none → findPend s.here.pend (wr a) = none → findPend s.here.pend (wr b) = some x →
      Traps (exec (.add d a b sw) o) s ⟨0x03, .none, 0, 0, 0, s.here.pc.addr, x.num + 2 ^ 16 + x.pos * 2 ^ 24 + File.code x.file * 2 ^ 32⟩ 4) ∧
    (findPend s.here.pend (wr a) = none → findPend s.here.pend (wr b) = none → findPend s.here.pend (wr d) = some x →
      Traps (exec (.add d a b sw) o) s ⟨0x03, .none, 0, 0, 0, s.here.pc.addr, x.num + 2 * 2 ^ 16 + x.pos * 2 ^ 24 + File.code x.file * 2 ^ 32⟩ 4) ∧
    (findPend s.here.pend (wr a) = none → findPend s.here.pend (wr d) = none →
      Traps (exec (.compose d a false) o) s ⟨0x03, .none, 0x3B, 0, 0, s.here.pc.addr, 3 * 2 ^ 16⟩ 4) ∧
    ∀ (z : Fin 4) (imm : BitVec 7), findPend s.here.pend (wr d) = none →
      Traps (exec (.ld d z (.post d imm) sw) o) s ⟨0x03, .none, 0x10, 0, 0, s.here.pc.addr, d.val + 4 * 2 ^ 16⟩ 4

/-- Local traps of an access that a capability does not grant, and of the rules of runs.
The model's own choices that it rests on: log entry 13. -/
def Obligations.InstructionTraps : Prop := AccessTraps ∧ RunHazards

/-! ### Reset, step, encoding, invariant -/

/-- After reset (R27, R58, R106, R189, R352): no memory is written and no granule tagged; no partition is set up, no grid runs and no task is
on any core; every register of every core has its value at task start; no message, reply, or collective exists; GEN is 1, JPERIOD 1,000, and
HANGCTL of every partition is 0x1000_007F.
The model's own choices that it rests on: log entry 3. -/
def Obligations.ResetState : Prop :=
  State.reset.mem = [] ∧ State.reset.tags = [] ∧ State.reset.bad = [] ∧ State.reset.msgs = [] ∧ State.reset.replies = [] ∧
  State.reset.grids = [] ∧ State.reset.colls = [] ∧ State.reset.journal = [] ∧ State.reset.gen = 1 ∧ State.reset.jperiod = 1000 ∧
  State.reset.boot = .off ∧ State.reset.Inv ∧
  (∀ p, (State.reset.part p).live = false ∧ (State.reset.part p).hangctl = 0x1000007F ∧ (State.reset.part p).cnctl = 0) ∧
  (∀ d, (State.reset.die d).time = 0 ∧ (State.reset.die d).notice = 512 ∧ (State.reset.die d).tripctl = 0x690096) ∧
  ∀ k, ∀ t, t = State.reset.tile k → t.task = none ∧ t.wait = none ∧ t.stores = [] ∧ t.pc = Reg.null ∧ t.hpc = Reg.null ∧ t.vl = 64 ∧
    t.loops = [] ∧ t.rets = [] ∧ t.rscnt = 0 ∧ t.fctl = 0 ∧ t.vstatus = 0 ∧ t.hold = 0 ∧ t.inbox = [] ∧ t.deque = [] ∧ t.wake = false ∧
    (∀ n : Fin 64, t.w[n] = Reg.null) ∧ (∀ n : Fin 8, t.p[n] = if n = 0 then BitVec.allOnes 64 else 0) ∧
    (∀ (n : Fin 32) (l : Fin 64), t.v[n][l] = 0) ∧ (∀ n : Fin 8, t.m[n] = 0) ∧ (∀ n : Fin 16, t.wcfg[n] = 0) ∧
    (∀ n : Fin 256, (t.slots[n]).state = .empty) ∧ ∀ n : Fin 16, (t.rings[n]).len = 0

/-- A step of a core that is free to run executes the instruction that its bytes decode to (R191, R366, R367). A core is free to run when no
input is pending, its task is placed and awaits no reply, no stop, no message and no wait is due, and it is in no consort. The bytes are
those that a fetch through the pc capability gives: two, or four when the first parcel says so. The step is then `exec` of that
instruction, in the state that the fetch leaves with the grid's START given, and the time that passes changes nothing but the counters.
Bytes that decode to nothing trap with their cause and bits.
The model's own choices that it rests on: log entries 1, 5 and 41. -/
def Obligations.StepRunsDecodedInstruction : Prop :=
  ∀ (s u t : State) (b c : List Byte), s.inputs = [] → s.cur < Config.tileSites → s.blocked s.cur = false → s.here.parked = false →
    s.here.stop = none → s.here.inbox = [] → s.here.spilled = [] → s.here.wait = none → s.here.consort = none →
    fetchBytes s.here.pc.addr 2 s = .ok b u →
    ((lengthOf (leNat b) = 2 ∧ c = b ∧ t = u) ∨ (lengthOf (leNat b) = 4 ∧ fetchBytes s.here.pc.addr 4 u = .ok c t)) →
    (∀ i, decode c = .ok (i, []) →
      (∀ v, exec i t.markStarted = .next v → step s = .next v.tick) ∧
      (∀ f, exec i t.markStarted = .fault f → step s = .fault f) ∧
      (∀ f, exec i t.markStarted = .refused f → step s = .refused f)) ∧
    (∀ r, decode c = .error r → step s = .next (takeTrap t t.cur (rejectReport t (leNat c) r) 0).tick) ∧
    (∀ v : State, ∃ n r ds a b, v.tick = { v with free := n, refCount := r, dies := ds, timePub := a, fretPub := b } ∧
      ∀ d, ∃ x, (v.tick.die d) = { v.die d with time := x }) ∧
    (∃ g, t.markStarted = { t with grids := g }) ∧
    ∀ y z, Fetches s s.here.pc.addr y z → b = z ∧ u = y

/-- Words of the spec's own examples decode to the instructions that its listings give for them, one or more of every family (R191, R196 to
R201). -/
def Obligations.ExampleWords : Prop :=
  decodeTableWord 32 0x00E30A03 = some (.add 5 6 7 false) ∧
  decodeTableWord 32 0x00229417 = some (.addi 10 5 1 true) ∧
  decodeTableWord 16 0xEA85 = some (.cAddi 5 29 true) ∧
  decodeTableWord 32 0x05849083 = some (.ld 8 3 (.offset 9 2) false) ∧
  decodeTableWord 32 0x43660E83 = some (.ld 7 2 (.modulo 12 1 2) false) ∧
  decodeTableWord 32 0x0063006B = some (.loop 6 3 false) ∧
  decodeTableWord 32 0x180028AF = some (.fence 20 false .grid true) ∧
  decodeTableWord 32 0xDA048CB7 = some (.amoAdd 6 9 true .grid .acqRel true) ∧
  decodeTableWord 32 0x04208CC7 = some (.vadd .f 3 1 2 2 true) ∧
  decodeTableWord 32 0x11C10547 = some (.mma 2 0 1 7 true true) ∧
  decodeTableWord 32 0x02053367 = some (.drain 1 3 .rtz true 8 false true) ∧
  decodeTableWord 32 0x51830BAF = some (.bar 5 6 3 .band .add true) ∧
  decodeTableWord 32 0x003301BB = some (.put 38 false) ∧
  decodeTableWord 32 0x002D29CF = some (.lst 20 26 true) ∧
  decodeTableWord 32 0x00580BE3 = some (.srd 5 48 false) ∧
  decodeTableWord 32 0x00028DDF = some (.compose 6 5 true)

/-- Every well-formed instruction that has an encoding reads back from its own bytes, whatever bytes follow them, with every operand at
every value that its encoding admits (R191, R196, R199, R201). -/
def Obligations.EncodedInstructionDecodes : Prop :=
  ∀ i : Instr, i.wellFormed = true → i.encoded = true → ∀ rest : List Byte, decode (encode i ++ rest) = .ok (i, rest)

/-- Every step keeps memory in its canonical form: whatever comes about, instruction or event, addresses stay strictly rising and no
cell holds what an unlisted address reads as.
The model's own choices that it rests on: log entry 3. -/
def Obligations.StepKeepsMemoryCanonical : Prop := ∀ s t : State, s.Inv → step s = .next t → t.Inv
end

