-- ==== Sys2Proof/Laws/State.lean ====
section
/-! SUPPORT. What each update of the state leaves in each field: keyed lists, tiles, registers (R202). -/

namespace Sys2Proof.Machine

@[simp] theorem keyGet_keySet_same {α : Type} (d : α) (l : List (Nat × α)) (n : Nat) (x : α) :
    keyGet d (keySet l n x) n = x := by
  induction l with
  | nil => simp [keySet, keyGet]
  | cons e r ih =>
    obtain ⟨k, v⟩ := e
    rw [keySet]
    split
    · simp [keyGet]
    · split
      · simp [keyGet]
      · rw [keyGet, if_neg (by omega), ih]

theorem keyGet_keySet_other {α : Type} (d : α) (l : List (Nat × α)) {n m : Nat} (x : α) (h : m ≠ n) :
    keyGet d (keySet l n x) m = keyGet d l m := by
  induction l with
  | nil => simp [keySet, keyGet, h.symm]
  | cons e r ih =>
    obtain ⟨k, v⟩ := e
    rw [keySet]
    split
    · rw [keyGet, if_neg (by omega)]
    · split
      · rw [keyGet, if_neg (by omega), keyGet, if_neg (by omega)]
      · rw [keyGet, ih, keyGet]

@[simp] theorem keySet_keySet {α : Type} (l : List (Nat × α)) (n : Nat) (x y : α) :
    keySet (keySet l n x) n y = keySet l n y := by
  induction l with
  | nil => simp [keySet]
  | cons e r ih =>
    obtain ⟨k, v⟩ := e
    rw [keySet, keySet]
    split
    · simp [keySet]
    · split
      · simp [keySet]
      · rw [keySet, if_neg ‹_›, if_neg ‹_›, ih]

/-! ### What each update leaves alone -/

@[simp] theorem State.setTile_inputs (s : State) (k : Nat) (t : Tile) : (s.setTile k t).inputs = s.inputs := rfl
@[simp] theorem State.setTile_cur (s : State) (k : Nat) (t : Tile) : (s.setTile k t).cur = s.cur := rfl
@[simp] theorem State.setTile_free (s : State) (k : Nat) (t : Tile) : (s.setTile k t).free = s.free := rfl
@[simp] theorem State.setTile_mem (s : State) (k : Nat) (t : Tile) : (s.setTile k t).mem = s.mem := rfl
@[simp] theorem State.setTile_tags (s : State) (k : Nat) (t : Tile) : (s.setTile k t).tags = s.tags := rfl
@[simp] theorem State.setTile_bad (s : State) (k : Nat) (t : Tile) : (s.setTile k t).bad = s.bad := rfl
@[simp] theorem State.setTile_badCopies (s : State) (k : Nat) (t : Tile) : (s.setTile k t).badCopies = s.badCopies := rfl
@[simp] theorem State.setTile_badCached (s : State) (k : Nat) (t : Tile) : (s.setTile k t).badCached = s.badCached := rfl
@[simp] theorem State.setTile_dies (s : State) (k : Nat) (t : Tile) : (s.setTile k t).dies = s.dies := rfl
@[simp] theorem State.setTile_parts (s : State) (k : Nat) (t : Tile) : (s.setTile k t).parts = s.parts := rfl
@[simp] theorem State.setTile_clusterTlbs (s : State) (k : Nat) (t : Tile) : (s.setTile k t).clusterTlbs = s.clusterTlbs := rfl
@[simp] theorem State.setTile_grids (s : State) (k : Nat) (t : Tile) : (s.setTile k t).grids = s.grids := rfl
@[simp] theorem State.setTile_colls (s : State) (k : Nat) (t : Tile) : (s.setTile k t).colls = s.colls := rfl
@[simp] theorem State.setTile_msgs (s : State) (k : Nat) (t : Tile) : (s.setTile k t).msgs = s.msgs := rfl
@[simp] theorem State.setTile_replies (s : State) (k : Nat) (t : Tile) : (s.setTile k t).replies = s.replies := rfl
@[simp] theorem State.setTile_rows (s : State) (k : Nat) (t : Tile) : (s.setTile k t).rows = s.rows := rfl
@[simp] theorem State.setTile_calls (s : State) (k : Nat) (t : Tile) : (s.setTile k t).calls = s.calls := rfl
@[simp] theorem State.setTile_rwrites (s : State) (k : Nat) (t : Tile) : (s.setTile k t).rwrites = s.rwrites := rfl
@[simp] theorem State.setTile_stamp (s : State) (k : Nat) (t : Tile) : (s.setTile k t).stamp = s.stamp := rfl
@[simp] theorem State.setTile_standbySeq (s : State) (k : Nat) (t : Tile) : (s.setTile k t).standbySeq = s.standbySeq := rfl
@[simp] theorem State.setTile_seqLost (s : State) (k : Nat) (t : Tile) : (s.setTile k t).seqLost = s.seqLost := rfl
@[simp] theorem State.setTile_snoops (s : State) (k : Nat) (t : Tile) : (s.setTile k t).snoops = s.snoops := rfl
@[simp] theorem State.setTile_hostOwned (s : State) (k : Nat) (t : Tile) : (s.setTile k t).hostOwned = s.hostOwned := rfl
@[simp] theorem State.setTile_refCount (s : State) (k : Nat) (t : Tile) : (s.setTile k t).refCount = s.refCount := rfl
@[simp] theorem State.setTile_tableSeq (s : State) (k : Nat) (t : Tile) : (s.setTile k t).tableSeq = s.tableSeq := rfl
@[simp] theorem State.setTile_fretSeq (s : State) (k : Nat) (t : Tile) : (s.setTile k t).fretSeq = s.fretSeq := rfl
@[simp] theorem State.setTile_timePub (s : State) (k : Nat) (t : Tile) : (s.setTile k t).timePub = s.timePub := rfl
@[simp] theorem State.setTile_fretPub (s : State) (k : Nat) (t : Tile) : (s.setTile k t).fretPub = s.fretPub := rfl
@[simp] theorem State.setTile_gen (s : State) (k : Nat) (t : Tile) : (s.setTile k t).gen = s.gen := rfl
@[simp] theorem State.setTile_vacant (s : State) (k : Nat) (t : Tile) : (s.setTile k t).vacant = s.vacant := rfl
@[simp] theorem State.setTile_remap (s : State) (k : Nat) (t : Tile) : (s.setTile k t).remap = s.remap := rfl
@[simp] theorem State.setTile_gated (s : State) (k : Nat) (t : Tile) : (s.setTile k t).gated = s.gated := rfl
@[simp] theorem State.setTile_retired (s : State) (k : Nat) (t : Tile) : (s.setTile k t).retired = s.retired := rfl
@[simp] theorem State.setTile_fused (s : State) (k : Nat) (t : Tile) : (s.setTile k t).fused = s.fused := rfl
@[simp] theorem State.setTile_asidtab (s : State) (k : Nat) (t : Tile) : (s.setTile k t).asidtab = s.asidtab := rfl
@[simp] theorem State.setTile_jperiod (s : State) (k : Nat) (t : Tile) : (s.setTile k t).jperiod = s.jperiod := rfl
@[simp] theorem State.setTile_preempten (s : State) (k : Nat) (t : Tile) : (s.setTile k t).preempten = s.preempten := rfl
@[simp] theorem State.setTile_attached (s : State) (k : Nat) (t : Tile) : (s.setTile k t).attached = s.attached := rfl
@[simp] theorem State.setTile_accounts (s : State) (k : Nat) (t : Tile) : (s.setTile k t).accounts = s.accounts := rfl
@[simp] theorem State.setTile_journal (s : State) (k : Nat) (t : Tile) : (s.setTile k t).journal = s.journal := rfl
@[simp] theorem State.setTile_seqNo (s : State) (k : Nat) (t : Tile) : (s.setTile k t).seqNo = s.seqNo := rfl
@[simp] theorem State.setTile_resets (s : State) (k : Nat) (t : Tile) : (s.setTile k t).resets = s.resets := rfl
@[simp] theorem State.setTile_ackSeq (s : State) (k : Nat) (t : Tile) : (s.setTile k t).ackSeq = s.ackSeq := rfl
@[simp] theorem State.setTile_readKey (s : State) (k : Nat) (t : Tile) : (s.setTile k t).readKey = s.readKey := rfl
@[simp] theorem State.setTile_readCert (s : State) (k : Nat) (t : Tile) : (s.setTile k t).readCert = s.readCert := rfl
@[simp] theorem State.setTile_journalAt (s : State) (k : Nat) (t : Tile) : (s.setTile k t).journalAt = s.journalAt := rfl
@[simp] theorem State.setTile_coeffs (s : State) (k : Nat) (t : Tile) : (s.setTile k t).coeffs = s.coeffs := rfl
@[simp] theorem State.setTile_errlog (s : State) (k : Nat) (t : Tile) : (s.setTile k t).errlog = s.errlog := rfl
@[simp] theorem State.setTile_recent (s : State) (k : Nat) (t : Tile) : (s.setTile k t).recent = s.recent := rfl
@[simp] theorem State.setTile_severances (s : State) (k : Nat) (t : Tile) : (s.setTile k t).severances = s.severances := rfl
@[simp] theorem State.setTile_policy (s : State) (k : Nat) (t : Tile) : (s.setTile k t).policy = s.policy := rfl
@[simp] theorem State.setTile_boot (s : State) (k : Nat) (t : Tile) : (s.setTile k t).boot = s.boot := rfl
@[simp] theorem State.setTile_activeImage (s : State) (k : Nat) (t : Tile) : (s.setTile k t).activeImage = s.activeImage := rfl
@[simp] theorem State.setTile_images (s : State) (k : Nat) (t : Tile) : (s.setTile k t).images = s.images := rfl
@[simp] theorem State.setTile_failedBoots (s : State) (k : Nat) (t : Tile) : (s.setTile k t).failedBoots = s.failedBoots := rfl
@[simp] theorem State.setTile_standbyCtl (s : State) (k : Nat) (t : Tile) : (s.setTile k t).standbyCtl = s.standbyCtl := rfl
@[simp] theorem State.setTile_ctlLost (s : State) (k : Nat) (t : Tile) : (s.setTile k t).ctlLost = s.ctlLost := rfl
@[simp] theorem State.setTile_staged (s : State) (k : Nat) (t : Tile) : (s.setTile k t).staged = s.staged := rfl
@[simp] theorem State.setTile_outputs (s : State) (k : Nat) (t : Tile) : (s.setTile k t).outputs = s.outputs := rfl
@[simp] theorem State.modTile_inputs (s : State) (k : Nat) (f : Tile → Tile) : (s.modTile k f).inputs = s.inputs := rfl
@[simp] theorem State.modTile_cur (s : State) (k : Nat) (f : Tile → Tile) : (s.modTile k f).cur = s.cur := rfl
@[simp] theorem State.modTile_free (s : State) (k : Nat) (f : Tile → Tile) : (s.modTile k f).free = s.free := rfl
@[simp] theorem State.modTile_mem (s : State) (k : Nat) (f : Tile → Tile) : (s.modTile k f).mem = s.mem := rfl
@[simp] theorem State.modTile_tags (s : State) (k : Nat) (f : Tile → Tile) : (s.modTile k f).tags = s.tags := rfl
@[simp] theorem State.modTile_bad (s : State) (k : Nat) (f : Tile → Tile) : (s.modTile k f).bad = s.bad := rfl
@[simp] theorem State.modTile_badCopies (s : State) (k : Nat) (f : Tile → Tile) : (s.modTile k f).badCopies = s.badCopies := rfl
@[simp] theorem State.modTile_badCached (s : State) (k : Nat) (f : Tile → Tile) : (s.modTile k f).badCached = s.badCached := rfl
@[simp] theorem State.modTile_dies (s : State) (k : Nat) (f : Tile → Tile) : (s.modTile k f).dies = s.dies := rfl
@[simp] theorem State.modTile_parts (s : State) (k : Nat) (f : Tile → Tile) : (s.modTile k f).parts = s.parts := rfl
@[simp] theorem State.modTile_clusterTlbs (s : State) (k : Nat) (f : Tile → Tile) : (s.modTile k f).clusterTlbs = s.clusterTlbs := rfl
@[simp] theorem State.modTile_grids (s : State) (k : Nat) (f : Tile → Tile) : (s.modTile k f).grids = s.grids := rfl
@[simp] theorem State.modTile_colls (s : State) (k : Nat) (f : Tile → Tile) : (s.modTile k f).colls = s.colls := rfl
@[simp] theorem State.modTile_msgs (s : State) (k : Nat) (f : Tile → Tile) : (s.modTile k f).msgs = s.msgs := rfl
@[simp] theorem State.modTile_replies (s : State) (k : Nat) (f : Tile → Tile) : (s.modTile k f).replies = s.replies := rfl
@[simp] theorem State.modTile_rows (s : State) (k : Nat) (f : Tile → Tile) : (s.modTile k f).rows = s.rows := rfl
@[simp] theorem State.modTile_calls (s : State) (k : Nat) (f : Tile → Tile) : (s.modTile k f).calls = s.calls := rfl
@[simp] theorem State.modTile_rwrites (s : State) (k : Nat) (f : Tile → Tile) : (s.modTile k f).rwrites = s.rwrites := rfl
@[simp] theorem State.modTile_stamp (s : State) (k : Nat) (f : Tile → Tile) : (s.modTile k f).stamp = s.stamp := rfl
@[simp] theorem State.modTile_standbySeq (s : State) (k : Nat) (f : Tile → Tile) : (s.modTile k f).standbySeq = s.standbySeq := rfl
@[simp] theorem State.modTile_seqLost (s : State) (k : Nat) (f : Tile → Tile) : (s.modTile k f).seqLost = s.seqLost := rfl
@[simp] theorem State.modTile_snoops (s : State) (k : Nat) (f : Tile → Tile) : (s.modTile k f).snoops = s.snoops := rfl
@[simp] theorem State.modTile_hostOwned (s : State) (k : Nat) (f : Tile → Tile) : (s.modTile k f).hostOwned = s.hostOwned := rfl
@[simp] theorem State.modTile_refCount (s : State) (k : Nat) (f : Tile → Tile) : (s.modTile k f).refCount = s.refCount := rfl
@[simp] theorem State.modTile_tableSeq (s : State) (k : Nat) (f : Tile → Tile) : (s.modTile k f).tableSeq = s.tableSeq := rfl
@[simp] theorem State.modTile_fretSeq (s : State) (k : Nat) (f : Tile → Tile) : (s.modTile k f).fretSeq = s.fretSeq := rfl
@[simp] theorem State.modTile_timePub (s : State) (k : Nat) (f : Tile → Tile) : (s.modTile k f).timePub = s.timePub := rfl
@[simp] theorem State.modTile_fretPub (s : State) (k : Nat) (f : Tile → Tile) : (s.modTile k f).fretPub = s.fretPub := rfl
@[simp] theorem State.modTile_gen (s : State) (k : Nat) (f : Tile → Tile) : (s.modTile k f).gen = s.gen := rfl
@[simp] theorem State.modTile_vacant (s : State) (k : Nat) (f : Tile → Tile) : (s.modTile k f).vacant = s.vacant := rfl
@[simp] theorem State.modTile_remap (s : State) (k : Nat) (f : Tile → Tile) : (s.modTile k f).remap = s.remap := rfl
@[simp] theorem State.modTile_gated (s : State) (k : Nat) (f : Tile → Tile) : (s.modTile k f).gated = s.gated := rfl
@[simp] theorem State.modTile_retired (s : State) (k : Nat) (f : Tile → Tile) : (s.modTile k f).retired = s.retired := rfl
@[simp] theorem State.modTile_fused (s : State) (k : Nat) (f : Tile → Tile) : (s.modTile k f).fused = s.fused := rfl
@[simp] theorem State.modTile_asidtab (s : State) (k : Nat) (f : Tile → Tile) : (s.modTile k f).asidtab = s.asidtab := rfl
@[simp] theorem State.modTile_jperiod (s : State) (k : Nat) (f : Tile → Tile) : (s.modTile k f).jperiod = s.jperiod := rfl
@[simp] theorem State.modTile_preempten (s : State) (k : Nat) (f : Tile → Tile) : (s.modTile k f).preempten = s.preempten := rfl
@[simp] theorem State.modTile_attached (s : State) (k : Nat) (f : Tile → Tile) : (s.modTile k f).attached = s.attached := rfl
@[simp] theorem State.modTile_accounts (s : State) (k : Nat) (f : Tile → Tile) : (s.modTile k f).accounts = s.accounts := rfl
@[simp] theorem State.modTile_journal (s : State) (k : Nat) (f : Tile → Tile) : (s.modTile k f).journal = s.journal := rfl
@[simp] theorem State.modTile_seqNo (s : State) (k : Nat) (f : Tile → Tile) : (s.modTile k f).seqNo = s.seqNo := rfl
@[simp] theorem State.modTile_resets (s : State) (k : Nat) (f : Tile → Tile) : (s.modTile k f).resets = s.resets := rfl
@[simp] theorem State.modTile_ackSeq (s : State) (k : Nat) (f : Tile → Tile) : (s.modTile k f).ackSeq = s.ackSeq := rfl
@[simp] theorem State.modTile_readKey (s : State) (k : Nat) (f : Tile → Tile) : (s.modTile k f).readKey = s.readKey := rfl
@[simp] theorem State.modTile_readCert (s : State) (k : Nat) (f : Tile → Tile) : (s.modTile k f).readCert = s.readCert := rfl
@[simp] theorem State.modTile_journalAt (s : State) (k : Nat) (f : Tile → Tile) : (s.modTile k f).journalAt = s.journalAt := rfl
@[simp] theorem State.modTile_coeffs (s : State) (k : Nat) (f : Tile → Tile) : (s.modTile k f).coeffs = s.coeffs := rfl
@[simp] theorem State.modTile_errlog (s : State) (k : Nat) (f : Tile → Tile) : (s.modTile k f).errlog = s.errlog := rfl
@[simp] theorem State.modTile_recent (s : State) (k : Nat) (f : Tile → Tile) : (s.modTile k f).recent = s.recent := rfl
@[simp] theorem State.modTile_severances (s : State) (k : Nat) (f : Tile → Tile) : (s.modTile k f).severances = s.severances := rfl
@[simp] theorem State.modTile_policy (s : State) (k : Nat) (f : Tile → Tile) : (s.modTile k f).policy = s.policy := rfl
@[simp] theorem State.modTile_boot (s : State) (k : Nat) (f : Tile → Tile) : (s.modTile k f).boot = s.boot := rfl
@[simp] theorem State.modTile_activeImage (s : State) (k : Nat) (f : Tile → Tile) : (s.modTile k f).activeImage = s.activeImage := rfl
@[simp] theorem State.modTile_images (s : State) (k : Nat) (f : Tile → Tile) : (s.modTile k f).images = s.images := rfl
@[simp] theorem State.modTile_failedBoots (s : State) (k : Nat) (f : Tile → Tile) : (s.modTile k f).failedBoots = s.failedBoots := rfl
@[simp] theorem State.modTile_standbyCtl (s : State) (k : Nat) (f : Tile → Tile) : (s.modTile k f).standbyCtl = s.standbyCtl := rfl
@[simp] theorem State.modTile_ctlLost (s : State) (k : Nat) (f : Tile → Tile) : (s.modTile k f).ctlLost = s.ctlLost := rfl
@[simp] theorem State.modTile_staged (s : State) (k : Nat) (f : Tile → Tile) : (s.modTile k f).staged = s.staged := rfl
@[simp] theorem State.modTile_outputs (s : State) (k : Nat) (f : Tile → Tile) : (s.modTile k f).outputs = s.outputs := rfl
@[simp] theorem State.setDie_inputs (s : State) (d : Nat) (x : Die) : (s.setDie d x).inputs = s.inputs := rfl
@[simp] theorem State.setDie_cur (s : State) (d : Nat) (x : Die) : (s.setDie d x).cur = s.cur := rfl
@[simp] theorem State.setDie_free (s : State) (d : Nat) (x : Die) : (s.setDie d x).free = s.free := rfl
@[simp] theorem State.setDie_mem (s : State) (d : Nat) (x : Die) : (s.setDie d x).mem = s.mem := rfl
@[simp] theorem State.setDie_tags (s : State) (d : Nat) (x : Die) : (s.setDie d x).tags = s.tags := rfl
@[simp] theorem State.setDie_bad (s : State) (d : Nat) (x : Die) : (s.setDie d x).bad = s.bad := rfl
@[simp] theorem State.setDie_badCopies (s : State) (d : Nat) (x : Die) : (s.setDie d x).badCopies = s.badCopies := rfl
@[simp] theorem State.setDie_badCached (s : State) (d : Nat) (x : Die) : (s.setDie d x).badCached = s.badCached := rfl
@[simp] theorem State.setDie_tiles (s : State) (d : Nat) (x : Die) : (s.setDie d x).tiles = s.tiles := rfl
@[simp] theorem State.setDie_parts (s : State) (d : Nat) (x : Die) : (s.setDie d x).parts = s.parts := rfl
@[simp] theorem State.setDie_clusterTlbs (s : State) (d : Nat) (x : Die) : (s.setDie d x).clusterTlbs = s.clusterTlbs := rfl
@[simp] theorem State.setDie_grids (s : State) (d : Nat) (x : Die) : (s.setDie d x).grids = s.grids := rfl
@[simp] theorem State.setDie_colls (s : State) (d : Nat) (x : Die) : (s.setDie d x).colls = s.colls := rfl
@[simp] theorem State.setDie_msgs (s : State) (d : Nat) (x : Die) : (s.setDie d x).msgs = s.msgs := rfl
@[simp] theorem State.setDie_replies (s : State) (d : Nat) (x : Die) : (s.setDie d x).replies = s.replies := rfl
@[simp] theorem State.setDie_rows (s : State) (d : Nat) (x : Die) : (s.setDie d x).rows = s.rows := rfl
@[simp] theorem State.setDie_calls (s : State) (d : Nat) (x : Die) : (s.setDie d x).calls = s.calls := rfl
@[simp] theorem State.setDie_rwrites (s : State) (d : Nat) (x : Die) : (s.setDie d x).rwrites = s.rwrites := rfl
@[simp] theorem State.setDie_stamp (s : State) (d : Nat) (x : Die) : (s.setDie d x).stamp = s.stamp := rfl
@[simp] theorem State.setDie_standbySeq (s : State) (d : Nat) (x : Die) : (s.setDie d x).standbySeq = s.standbySeq := rfl
@[simp] theorem State.setDie_seqLost (s : State) (d : Nat) (x : Die) : (s.setDie d x).seqLost = s.seqLost := rfl
@[simp] theorem State.setDie_snoops (s : State) (d : Nat) (x : Die) : (s.setDie d x).snoops = s.snoops := rfl
@[simp] theorem State.setDie_hostOwned (s : State) (d : Nat) (x : Die) : (s.setDie d x).hostOwned = s.hostOwned := rfl
@[simp] theorem State.setDie_refCount (s : State) (d : Nat) (x : Die) : (s.setDie d x).refCount = s.refCount := rfl
@[simp] theorem State.setDie_tableSeq (s : State) (d : Nat) (x : Die) : (s.setDie d x).tableSeq = s.tableSeq := rfl
@[simp] theorem State.setDie_fretSeq (s : State) (d : Nat) (x : Die) : (s.setDie d x).fretSeq = s.fretSeq := rfl
@[simp] theorem State.setDie_timePub (s : State) (d : Nat) (x : Die) : (s.setDie d x).timePub = s.timePub := rfl
@[simp] theorem State.setDie_fretPub (s : State) (d : Nat) (x : Die) : (s.setDie d x).fretPub = s.fretPub := rfl
@[simp] theorem State.setDie_gen (s : State) (d : Nat) (x : Die) : (s.setDie d x).gen = s.gen := rfl
@[simp] theorem State.setDie_vacant (s : State) (d : Nat) (x : Die) : (s.setDie d x).vacant = s.vacant := rfl
@[simp] theorem State.setDie_remap (s : State) (d : Nat) (x : Die) : (s.setDie d x).remap = s.remap := rfl
@[simp] theorem State.setDie_gated (s : State) (d : Nat) (x : Die) : (s.setDie d x).gated = s.gated := rfl
@[simp] theorem State.setDie_retired (s : State) (d : Nat) (x : Die) : (s.setDie d x).retired = s.retired := rfl
@[simp] theorem State.setDie_fused (s : State) (d : Nat) (x : Die) : (s.setDie d x).fused = s.fused := rfl
@[simp] theorem State.setDie_asidtab (s : State) (d : Nat) (x : Die) : (s.setDie d x).asidtab = s.asidtab := rfl
@[simp] theorem State.setDie_jperiod (s : State) (d : Nat) (x : Die) : (s.setDie d x).jperiod = s.jperiod := rfl
@[simp] theorem State.setDie_preempten (s : State) (d : Nat) (x : Die) : (s.setDie d x).preempten = s.preempten := rfl
@[simp] theorem State.setDie_attached (s : State) (d : Nat) (x : Die) : (s.setDie d x).attached = s.attached := rfl
@[simp] theorem State.setDie_accounts (s : State) (d : Nat) (x : Die) : (s.setDie d x).accounts = s.accounts := rfl
@[simp] theorem State.setDie_journal (s : State) (d : Nat) (x : Die) : (s.setDie d x).journal = s.journal := rfl
@[simp] theorem State.setDie_seqNo (s : State) (d : Nat) (x : Die) : (s.setDie d x).seqNo = s.seqNo := rfl
@[simp] theorem State.setDie_resets (s : State) (d : Nat) (x : Die) : (s.setDie d x).resets = s.resets := rfl
@[simp] theorem State.setDie_ackSeq (s : State) (d : Nat) (x : Die) : (s.setDie d x).ackSeq = s.ackSeq := rfl
@[simp] theorem State.setDie_readKey (s : State) (d : Nat) (x : Die) : (s.setDie d x).readKey = s.readKey := rfl
@[simp] theorem State.setDie_readCert (s : State) (d : Nat) (x : Die) : (s.setDie d x).readCert = s.readCert := rfl
@[simp] theorem State.setDie_journalAt (s : State) (d : Nat) (x : Die) : (s.setDie d x).journalAt = s.journalAt := rfl
@[simp] theorem State.setDie_coeffs (s : State) (d : Nat) (x : Die) : (s.setDie d x).coeffs = s.coeffs := rfl
@[simp] theorem State.setDie_errlog (s : State) (d : Nat) (x : Die) : (s.setDie d x).errlog = s.errlog := rfl
@[simp] theorem State.setDie_recent (s : State) (d : Nat) (x : Die) : (s.setDie d x).recent = s.recent := rfl
@[simp] theorem State.setDie_severances (s : State) (d : Nat) (x : Die) : (s.setDie d x).severances = s.severances := rfl
@[simp] theorem State.setDie_policy (s : State) (d : Nat) (x : Die) : (s.setDie d x).policy = s.policy := rfl
@[simp] theorem State.setDie_boot (s : State) (d : Nat) (x : Die) : (s.setDie d x).boot = s.boot := rfl
@[simp] theorem State.setDie_activeImage (s : State) (d : Nat) (x : Die) : (s.setDie d x).activeImage = s.activeImage := rfl
@[simp] theorem State.setDie_images (s : State) (d : Nat) (x : Die) : (s.setDie d x).images = s.images := rfl
@[simp] theorem State.setDie_failedBoots (s : State) (d : Nat) (x : Die) : (s.setDie d x).failedBoots = s.failedBoots := rfl
@[simp] theorem State.setDie_standbyCtl (s : State) (d : Nat) (x : Die) : (s.setDie d x).standbyCtl = s.standbyCtl := rfl
@[simp] theorem State.setDie_ctlLost (s : State) (d : Nat) (x : Die) : (s.setDie d x).ctlLost = s.ctlLost := rfl
@[simp] theorem State.setDie_staged (s : State) (d : Nat) (x : Die) : (s.setDie d x).staged = s.staged := rfl
@[simp] theorem State.setDie_outputs (s : State) (d : Nat) (x : Die) : (s.setDie d x).outputs = s.outputs := rfl
@[simp] theorem State.modDie_inputs (s : State) (d : Nat) (f : Die → Die) : (s.modDie d f).inputs = s.inputs := rfl
@[simp] theorem State.modDie_cur (s : State) (d : Nat) (f : Die → Die) : (s.modDie d f).cur = s.cur := rfl
@[simp] theorem State.modDie_free (s : State) (d : Nat) (f : Die → Die) : (s.modDie d f).free = s.free := rfl
@[simp] theorem State.modDie_mem (s : State) (d : Nat) (f : Die → Die) : (s.modDie d f).mem = s.mem := rfl
@[simp] theorem State.modDie_tags (s : State) (d : Nat) (f : Die → Die) : (s.modDie d f).tags = s.tags := rfl
@[simp] theorem State.modDie_bad (s : State) (d : Nat) (f : Die → Die) : (s.modDie d f).bad = s.bad := rfl
@[simp] theorem State.modDie_badCopies (s : State) (d : Nat) (f : Die → Die) : (s.modDie d f).badCopies = s.badCopies := rfl
@[simp] theorem State.modDie_badCached (s : State) (d : Nat) (f : Die → Die) : (s.modDie d f).badCached = s.badCached := rfl
@[simp] theorem State.modDie_tiles (s : State) (d : Nat) (f : Die → Die) : (s.modDie d f).tiles = s.tiles := rfl
@[simp] theorem State.modDie_parts (s : State) (d : Nat) (f : Die → Die) : (s.modDie d f).parts = s.parts := rfl
@[simp] theorem State.modDie_clusterTlbs (s : State) (d : Nat) (f : Die → Die) : (s.modDie d f).clusterTlbs = s.clusterTlbs := rfl
@[simp] theorem State.modDie_grids (s : State) (d : Nat) (f : Die → Die) : (s.modDie d f).grids = s.grids := rfl
@[simp] theorem State.modDie_colls (s : State) (d : Nat) (f : Die → Die) : (s.modDie d f).colls = s.colls := rfl
@[simp] theorem State.modDie_msgs (s : State) (d : Nat) (f : Die → Die) : (s.modDie d f).msgs = s.msgs := rfl
@[simp] theorem State.modDie_replies (s : State) (d : Nat) (f : Die → Die) : (s.modDie d f).replies = s.replies := rfl
@[simp] theorem State.modDie_rows (s : State) (d : Nat) (f : Die → Die) : (s.modDie d f).rows = s.rows := rfl
@[simp] theorem State.modDie_calls (s : State) (d : Nat) (f : Die → Die) : (s.modDie d f).calls = s.calls := rfl
@[simp] theorem State.modDie_rwrites (s : State) (d : Nat) (f : Die → Die) : (s.modDie d f).rwrites = s.rwrites := rfl
@[simp] theorem State.modDie_stamp (s : State) (d : Nat) (f : Die → Die) : (s.modDie d f).stamp = s.stamp := rfl
@[simp] theorem State.modDie_standbySeq (s : State) (d : Nat) (f : Die → Die) : (s.modDie d f).standbySeq = s.standbySeq := rfl
@[simp] theorem State.modDie_seqLost (s : State) (d : Nat) (f : Die → Die) : (s.modDie d f).seqLost = s.seqLost := rfl
@[simp] theorem State.modDie_snoops (s : State) (d : Nat) (f : Die → Die) : (s.modDie d f).snoops = s.snoops := rfl
@[simp] theorem State.modDie_hostOwned (s : State) (d : Nat) (f : Die → Die) : (s.modDie d f).hostOwned = s.hostOwned := rfl
@[simp] theorem State.modDie_refCount (s : State) (d : Nat) (f : Die → Die) : (s.modDie d f).refCount = s.refCount := rfl
@[simp] theorem State.modDie_tableSeq (s : State) (d : Nat) (f : Die → Die) : (s.modDie d f).tableSeq = s.tableSeq := rfl
@[simp] theorem State.modDie_fretSeq (s : State) (d : Nat) (f : Die → Die) : (s.modDie d f).fretSeq = s.fretSeq := rfl
@[simp] theorem State.modDie_timePub (s : State) (d : Nat) (f : Die → Die) : (s.modDie d f).timePub = s.timePub := rfl
@[simp] theorem State.modDie_fretPub (s : State) (d : Nat) (f : Die → Die) : (s.modDie d f).fretPub = s.fretPub := rfl
@[simp] theorem State.modDie_gen (s : State) (d : Nat) (f : Die → Die) : (s.modDie d f).gen = s.gen := rfl
@[simp] theorem State.modDie_vacant (s : State) (d : Nat) (f : Die → Die) : (s.modDie d f).vacant = s.vacant := rfl
@[simp] theorem State.modDie_remap (s : State) (d : Nat) (f : Die → Die) : (s.modDie d f).remap = s.remap := rfl
@[simp] theorem State.modDie_gated (s : State) (d : Nat) (f : Die → Die) : (s.modDie d f).gated = s.gated := rfl
@[simp] theorem State.modDie_retired (s : State) (d : Nat) (f : Die → Die) : (s.modDie d f).retired = s.retired := rfl
@[simp] theorem State.modDie_fused (s : State) (d : Nat) (f : Die → Die) : (s.modDie d f).fused = s.fused := rfl
@[simp] theorem State.modDie_asidtab (s : State) (d : Nat) (f : Die → Die) : (s.modDie d f).asidtab = s.asidtab := rfl
@[simp] theorem State.modDie_jperiod (s : State) (d : Nat) (f : Die → Die) : (s.modDie d f).jperiod = s.jperiod := rfl
@[simp] theorem State.modDie_preempten (s : State) (d : Nat) (f : Die → Die) : (s.modDie d f).preempten = s.preempten := rfl
@[simp] theorem State.modDie_attached (s : State) (d : Nat) (f : Die → Die) : (s.modDie d f).attached = s.attached := rfl
@[simp] theorem State.modDie_accounts (s : State) (d : Nat) (f : Die → Die) : (s.modDie d f).accounts = s.accounts := rfl
@[simp] theorem State.modDie_journal (s : State) (d : Nat) (f : Die → Die) : (s.modDie d f).journal = s.journal := rfl
@[simp] theorem State.modDie_seqNo (s : State) (d : Nat) (f : Die → Die) : (s.modDie d f).seqNo = s.seqNo := rfl
@[simp] theorem State.modDie_resets (s : State) (d : Nat) (f : Die → Die) : (s.modDie d f).resets = s.resets := rfl
@[simp] theorem State.modDie_ackSeq (s : State) (d : Nat) (f : Die → Die) : (s.modDie d f).ackSeq = s.ackSeq := rfl
@[simp] theorem State.modDie_readKey (s : State) (d : Nat) (f : Die → Die) : (s.modDie d f).readKey = s.readKey := rfl
@[simp] theorem State.modDie_readCert (s : State) (d : Nat) (f : Die → Die) : (s.modDie d f).readCert = s.readCert := rfl
@[simp] theorem State.modDie_journalAt (s : State) (d : Nat) (f : Die → Die) : (s.modDie d f).journalAt = s.journalAt := rfl
@[simp] theorem State.modDie_coeffs (s : State) (d : Nat) (f : Die → Die) : (s.modDie d f).coeffs = s.coeffs := rfl
@[simp] theorem State.modDie_errlog (s : State) (d : Nat) (f : Die → Die) : (s.modDie d f).errlog = s.errlog := rfl
@[simp] theorem State.modDie_recent (s : State) (d : Nat) (f : Die → Die) : (s.modDie d f).recent = s.recent := rfl
@[simp] theorem State.modDie_severances (s : State) (d : Nat) (f : Die → Die) : (s.modDie d f).severances = s.severances := rfl
@[simp] theorem State.modDie_policy (s : State) (d : Nat) (f : Die → Die) : (s.modDie d f).policy = s.policy := rfl
@[simp] theorem State.modDie_boot (s : State) (d : Nat) (f : Die → Die) : (s.modDie d f).boot = s.boot := rfl
@[simp] theorem State.modDie_activeImage (s : State) (d : Nat) (f : Die → Die) : (s.modDie d f).activeImage = s.activeImage := rfl
@[simp] theorem State.modDie_images (s : State) (d : Nat) (f : Die → Die) : (s.modDie d f).images = s.images := rfl
@[simp] theorem State.modDie_failedBoots (s : State) (d : Nat) (f : Die → Die) : (s.modDie d f).failedBoots = s.failedBoots := rfl
@[simp] theorem State.modDie_standbyCtl (s : State) (d : Nat) (f : Die → Die) : (s.modDie d f).standbyCtl = s.standbyCtl := rfl
@[simp] theorem State.modDie_ctlLost (s : State) (d : Nat) (f : Die → Die) : (s.modDie d f).ctlLost = s.ctlLost := rfl
@[simp] theorem State.modDie_staged (s : State) (d : Nat) (f : Die → Die) : (s.modDie d f).staged = s.staged := rfl
@[simp] theorem State.modDie_outputs (s : State) (d : Nat) (f : Die → Die) : (s.modDie d f).outputs = s.outputs := rfl
@[simp] theorem State.modPart_inputs (s : State) (p : Nat) (f : Partition → Partition) : (s.modPart p f).inputs = s.inputs := rfl
@[simp] theorem State.modPart_cur (s : State) (p : Nat) (f : Partition → Partition) : (s.modPart p f).cur = s.cur := rfl
@[simp] theorem State.modPart_free (s : State) (p : Nat) (f : Partition → Partition) : (s.modPart p f).free = s.free := rfl
@[simp] theorem State.modPart_mem (s : State) (p : Nat) (f : Partition → Partition) : (s.modPart p f).mem = s.mem := rfl
@[simp] theorem State.modPart_tags (s : State) (p : Nat) (f : Partition → Partition) : (s.modPart p f).tags = s.tags := rfl
@[simp] theorem State.modPart_bad (s : State) (p : Nat) (f : Partition → Partition) : (s.modPart p f).bad = s.bad := rfl
@[simp] theorem State.modPart_badCopies (s : State) (p : Nat) (f : Partition → Partition) : (s.modPart p f).badCopies = s.badCopies := rfl
@[simp] theorem State.modPart_badCached (s : State) (p : Nat) (f : Partition → Partition) : (s.modPart p f).badCached = s.badCached := rfl
@[simp] theorem State.modPart_tiles (s : State) (p : Nat) (f : Partition → Partition) : (s.modPart p f).tiles = s.tiles := rfl
@[simp] theorem State.modPart_dies (s : State) (p : Nat) (f : Partition → Partition) : (s.modPart p f).dies = s.dies := rfl
@[simp] theorem State.modPart_clusterTlbs (s : State) (p : Nat) (f : Partition → Partition) : (s.modPart p f).clusterTlbs = s.clusterTlbs := rfl
@[simp] theorem State.modPart_grids (s : State) (p : Nat) (f : Partition → Partition) : (s.modPart p f).grids = s.grids := rfl
@[simp] theorem State.modPart_colls (s : State) (p : Nat) (f : Partition → Partition) : (s.modPart p f).colls = s.colls := rfl
@[simp] theorem State.modPart_msgs (s : State) (p : Nat) (f : Partition → Partition) : (s.modPart p f).msgs = s.msgs := rfl
@[simp] theorem State.modPart_replies (s : State) (p : Nat) (f : Partition → Partition) : (s.modPart p f).replies = s.replies := rfl
@[simp] theorem State.modPart_rows (s : State) (p : Nat) (f : Partition → Partition) : (s.modPart p f).rows = s.rows := rfl
@[simp] theorem State.modPart_calls (s : State) (p : Nat) (f : Partition → Partition) : (s.modPart p f).calls = s.calls := rfl
@[simp] theorem State.modPart_rwrites (s : State) (p : Nat) (f : Partition → Partition) : (s.modPart p f).rwrites = s.rwrites := rfl
@[simp] theorem State.modPart_stamp (s : State) (p : Nat) (f : Partition → Partition) : (s.modPart p f).stamp = s.stamp := rfl
@[simp] theorem State.modPart_standbySeq (s : State) (p : Nat) (f : Partition → Partition) : (s.modPart p f).standbySeq = s.standbySeq := rfl
@[simp] theorem State.modPart_seqLost (s : State) (p : Nat) (f : Partition → Partition) : (s.modPart p f).seqLost = s.seqLost := rfl
@[simp] theorem State.modPart_snoops (s : State) (p : Nat) (f : Partition → Partition) : (s.modPart p f).snoops = s.snoops := rfl
@[simp] theorem State.modPart_hostOwned (s : State) (p : Nat) (f : Partition → Partition) : (s.modPart p f).hostOwned = s.hostOwned := rfl
@[simp] theorem State.modPart_refCount (s : State) (p : Nat) (f : Partition → Partition) : (s.modPart p f).refCount = s.refCount := rfl
@[simp] theorem State.modPart_tableSeq (s : State) (p : Nat) (f : Partition → Partition) : (s.modPart p f).tableSeq = s.tableSeq := rfl
@[simp] theorem State.modPart_fretSeq (s : State) (p : Nat) (f : Partition → Partition) : (s.modPart p f).fretSeq = s.fretSeq := rfl
@[simp] theorem State.modPart_timePub (s : State) (p : Nat) (f : Partition → Partition) : (s.modPart p f).timePub = s.timePub := rfl
@[simp] theorem State.modPart_fretPub (s : State) (p : Nat) (f : Partition → Partition) : (s.modPart p f).fretPub = s.fretPub := rfl
@[simp] theorem State.modPart_gen (s : State) (p : Nat) (f : Partition → Partition) : (s.modPart p f).gen = s.gen := rfl
@[simp] theorem State.modPart_vacant (s : State) (p : Nat) (f : Partition → Partition) : (s.modPart p f).vacant = s.vacant := rfl
@[simp] theorem State.modPart_remap (s : State) (p : Nat) (f : Partition → Partition) : (s.modPart p f).remap = s.remap := rfl
@[simp] theorem State.modPart_gated (s : State) (p : Nat) (f : Partition → Partition) : (s.modPart p f).gated = s.gated := rfl
@[simp] theorem State.modPart_retired (s : State) (p : Nat) (f : Partition → Partition) : (s.modPart p f).retired = s.retired := rfl
@[simp] theorem State.modPart_fused (s : State) (p : Nat) (f : Partition → Partition) : (s.modPart p f).fused = s.fused := rfl
@[simp] theorem State.modPart_asidtab (s : State) (p : Nat) (f : Partition → Partition) : (s.modPart p f).asidtab = s.asidtab := rfl
@[simp] theorem State.modPart_jperiod (s : State) (p : Nat) (f : Partition → Partition) : (s.modPart p f).jperiod = s.jperiod := rfl
@[simp] theorem State.modPart_preempten (s : State) (p : Nat) (f : Partition → Partition) : (s.modPart p f).preempten = s.preempten := rfl
@[simp] theorem State.modPart_attached (s : State) (p : Nat) (f : Partition → Partition) : (s.modPart p f).attached = s.attached := rfl
@[simp] theorem State.modPart_accounts (s : State) (p : Nat) (f : Partition → Partition) : (s.modPart p f).accounts = s.accounts := rfl
@[simp] theorem State.modPart_journal (s : State) (p : Nat) (f : Partition → Partition) : (s.modPart p f).journal = s.journal := rfl
@[simp] theorem State.modPart_seqNo (s : State) (p : Nat) (f : Partition → Partition) : (s.modPart p f).seqNo = s.seqNo := rfl
@[simp] theorem State.modPart_resets (s : State) (p : Nat) (f : Partition → Partition) : (s.modPart p f).resets = s.resets := rfl
@[simp] theorem State.modPart_ackSeq (s : State) (p : Nat) (f : Partition → Partition) : (s.modPart p f).ackSeq = s.ackSeq := rfl
@[simp] theorem State.modPart_readKey (s : State) (p : Nat) (f : Partition → Partition) : (s.modPart p f).readKey = s.readKey := rfl
@[simp] theorem State.modPart_readCert (s : State) (p : Nat) (f : Partition → Partition) : (s.modPart p f).readCert = s.readCert := rfl
@[simp] theorem State.modPart_journalAt (s : State) (p : Nat) (f : Partition → Partition) : (s.modPart p f).journalAt = s.journalAt := rfl
@[simp] theorem State.modPart_coeffs (s : State) (p : Nat) (f : Partition → Partition) : (s.modPart p f).coeffs = s.coeffs := rfl
@[simp] theorem State.modPart_errlog (s : State) (p : Nat) (f : Partition → Partition) : (s.modPart p f).errlog = s.errlog := rfl
@[simp] theorem State.modPart_recent (s : State) (p : Nat) (f : Partition → Partition) : (s.modPart p f).recent = s.recent := rfl
@[simp] theorem State.modPart_severances (s : State) (p : Nat) (f : Partition → Partition) : (s.modPart p f).severances = s.severances := rfl
@[simp] theorem State.modPart_policy (s : State) (p : Nat) (f : Partition → Partition) : (s.modPart p f).policy = s.policy := rfl
@[simp] theorem State.modPart_boot (s : State) (p : Nat) (f : Partition → Partition) : (s.modPart p f).boot = s.boot := rfl
@[simp] theorem State.modPart_activeImage (s : State) (p : Nat) (f : Partition → Partition) : (s.modPart p f).activeImage = s.activeImage := rfl
@[simp] theorem State.modPart_images (s : State) (p : Nat) (f : Partition → Partition) : (s.modPart p f).images = s.images := rfl
@[simp] theorem State.modPart_failedBoots (s : State) (p : Nat) (f : Partition → Partition) : (s.modPart p f).failedBoots = s.failedBoots := rfl
@[simp] theorem State.modPart_standbyCtl (s : State) (p : Nat) (f : Partition → Partition) : (s.modPart p f).standbyCtl = s.standbyCtl := rfl
@[simp] theorem State.modPart_ctlLost (s : State) (p : Nat) (f : Partition → Partition) : (s.modPart p f).ctlLost = s.ctlLost := rfl
@[simp] theorem State.modPart_staged (s : State) (p : Nat) (f : Partition → Partition) : (s.modPart p f).staged = s.staged := rfl
@[simp] theorem State.modPart_outputs (s : State) (p : Nat) (f : Partition → Partition) : (s.modPart p f).outputs = s.outputs := rfl
@[simp] theorem State.push_inputs (s : State) (m : Msg) : (s.push m).inputs = s.inputs := rfl
@[simp] theorem State.push_cur (s : State) (m : Msg) : (s.push m).cur = s.cur := rfl
@[simp] theorem State.push_free (s : State) (m : Msg) : (s.push m).free = s.free := rfl
@[simp] theorem State.push_mem (s : State) (m : Msg) : (s.push m).mem = s.mem := rfl
@[simp] theorem State.push_tags (s : State) (m : Msg) : (s.push m).tags = s.tags := rfl
@[simp] theorem State.push_bad (s : State) (m : Msg) : (s.push m).bad = s.bad := rfl
@[simp] theorem State.push_badCopies (s : State) (m : Msg) : (s.push m).badCopies = s.badCopies := rfl
@[simp] theorem State.push_badCached (s : State) (m : Msg) : (s.push m).badCached = s.badCached := rfl
@[simp] theorem State.push_tiles (s : State) (m : Msg) : (s.push m).tiles = s.tiles := rfl
@[simp] theorem State.push_dies (s : State) (m : Msg) : (s.push m).dies = s.dies := rfl
@[simp] theorem State.push_parts (s : State) (m : Msg) : (s.push m).parts = s.parts := rfl
@[simp] theorem State.push_clusterTlbs (s : State) (m : Msg) : (s.push m).clusterTlbs = s.clusterTlbs := rfl
@[simp] theorem State.push_grids (s : State) (m : Msg) : (s.push m).grids = s.grids := rfl
@[simp] theorem State.push_colls (s : State) (m : Msg) : (s.push m).colls = s.colls := rfl
@[simp] theorem State.push_replies (s : State) (m : Msg) : (s.push m).replies = s.replies := rfl
@[simp] theorem State.push_rows (s : State) (m : Msg) : (s.push m).rows = s.rows := rfl
@[simp] theorem State.push_calls (s : State) (m : Msg) : (s.push m).calls = s.calls := rfl
@[simp] theorem State.push_rwrites (s : State) (m : Msg) : (s.push m).rwrites = s.rwrites := rfl
@[simp] theorem State.push_stamp (s : State) (m : Msg) : (s.push m).stamp = s.stamp := rfl
@[simp] theorem State.push_standbySeq (s : State) (m : Msg) : (s.push m).standbySeq = s.standbySeq := rfl
@[simp] theorem State.push_seqLost (s : State) (m : Msg) : (s.push m).seqLost = s.seqLost := rfl
@[simp] theorem State.push_snoops (s : State) (m : Msg) : (s.push m).snoops = s.snoops := rfl
@[simp] theorem State.push_hostOwned (s : State) (m : Msg) : (s.push m).hostOwned = s.hostOwned := rfl
@[simp] theorem State.push_refCount (s : State) (m : Msg) : (s.push m).refCount = s.refCount := rfl
@[simp] theorem State.push_tableSeq (s : State) (m : Msg) : (s.push m).tableSeq = s.tableSeq := rfl
@[simp] theorem State.push_fretSeq (s : State) (m : Msg) : (s.push m).fretSeq = s.fretSeq := rfl
@[simp] theorem State.push_timePub (s : State) (m : Msg) : (s.push m).timePub = s.timePub := rfl
@[simp] theorem State.push_fretPub (s : State) (m : Msg) : (s.push m).fretPub = s.fretPub := rfl
@[simp] theorem State.push_gen (s : State) (m : Msg) : (s.push m).gen = s.gen := rfl
@[simp] theorem State.push_vacant (s : State) (m : Msg) : (s.push m).vacant = s.vacant := rfl
@[simp] theorem State.push_remap (s : State) (m : Msg) : (s.push m).remap = s.remap := rfl
@[simp] theorem State.push_gated (s : State) (m : Msg) : (s.push m).gated = s.gated := rfl
@[simp] theorem State.push_retired (s : State) (m : Msg) : (s.push m).retired = s.retired := rfl
@[simp] theorem State.push_fused (s : State) (m : Msg) : (s.push m).fused = s.fused := rfl
@[simp] theorem State.push_asidtab (s : State) (m : Msg) : (s.push m).asidtab = s.asidtab := rfl
@[simp] theorem State.push_jperiod (s : State) (m : Msg) : (s.push m).jperiod = s.jperiod := rfl
@[simp] theorem State.push_preempten (s : State) (m : Msg) : (s.push m).preempten = s.preempten := rfl
@[simp] theorem State.push_attached (s : State) (m : Msg) : (s.push m).attached = s.attached := rfl
@[simp] theorem State.push_accounts (s : State) (m : Msg) : (s.push m).accounts = s.accounts := rfl
@[simp] theorem State.push_journal (s : State) (m : Msg) : (s.push m).journal = s.journal := rfl
@[simp] theorem State.push_seqNo (s : State) (m : Msg) : (s.push m).seqNo = s.seqNo := rfl
@[simp] theorem State.push_resets (s : State) (m : Msg) : (s.push m).resets = s.resets := rfl
@[simp] theorem State.push_ackSeq (s : State) (m : Msg) : (s.push m).ackSeq = s.ackSeq := rfl
@[simp] theorem State.push_readKey (s : State) (m : Msg) : (s.push m).readKey = s.readKey := rfl
@[simp] theorem State.push_readCert (s : State) (m : Msg) : (s.push m).readCert = s.readCert := rfl
@[simp] theorem State.push_journalAt (s : State) (m : Msg) : (s.push m).journalAt = s.journalAt := rfl
@[simp] theorem State.push_coeffs (s : State) (m : Msg) : (s.push m).coeffs = s.coeffs := rfl
@[simp] theorem State.push_errlog (s : State) (m : Msg) : (s.push m).errlog = s.errlog := rfl
@[simp] theorem State.push_recent (s : State) (m : Msg) : (s.push m).recent = s.recent := rfl
@[simp] theorem State.push_severances (s : State) (m : Msg) : (s.push m).severances = s.severances := rfl
@[simp] theorem State.push_policy (s : State) (m : Msg) : (s.push m).policy = s.policy := rfl
@[simp] theorem State.push_boot (s : State) (m : Msg) : (s.push m).boot = s.boot := rfl
@[simp] theorem State.push_activeImage (s : State) (m : Msg) : (s.push m).activeImage = s.activeImage := rfl
@[simp] theorem State.push_images (s : State) (m : Msg) : (s.push m).images = s.images := rfl
@[simp] theorem State.push_failedBoots (s : State) (m : Msg) : (s.push m).failedBoots = s.failedBoots := rfl
@[simp] theorem State.push_standbyCtl (s : State) (m : Msg) : (s.push m).standbyCtl = s.standbyCtl := rfl
@[simp] theorem State.push_ctlLost (s : State) (m : Msg) : (s.push m).ctlLost = s.ctlLost := rfl
@[simp] theorem State.push_staged (s : State) (m : Msg) : (s.push m).staged = s.staged := rfl
@[simp] theorem State.push_outputs (s : State) (m : Msg) : (s.push m).outputs = s.outputs := rfl
@[simp] theorem State.writeKey_inputs (s : State) (key : Nat) (data : List Byte) (tag : Bool) : (s.writeKey key data tag).inputs = s.inputs := rfl
@[simp] theorem State.writeKey_cur (s : State) (key : Nat) (data : List Byte) (tag : Bool) : (s.writeKey key data tag).cur = s.cur := rfl
@[simp] theorem State.writeKey_free (s : State) (key : Nat) (data : List Byte) (tag : Bool) : (s.writeKey key data tag).free = s.free := rfl
@[simp] theorem State.writeKey_tiles (s : State) (key : Nat) (data : List Byte) (tag : Bool) : (s.writeKey key data tag).tiles = s.tiles := rfl
@[simp] theorem State.writeKey_dies (s : State) (key : Nat) (data : List Byte) (tag : Bool) : (s.writeKey key data tag).dies = s.dies := rfl
@[simp] theorem State.writeKey_parts (s : State) (key : Nat) (data : List Byte) (tag : Bool) : (s.writeKey key data tag).parts = s.parts := rfl
@[simp] theorem State.writeKey_clusterTlbs (s : State) (key : Nat) (data : List Byte) (tag : Bool) : (s.writeKey key data tag).clusterTlbs = s.clusterTlbs := rfl
@[simp] theorem State.writeKey_grids (s : State) (key : Nat) (data : List Byte) (tag : Bool) : (s.writeKey key data tag).grids = s.grids := rfl
@[simp] theorem State.writeKey_colls (s : State) (key : Nat) (data : List Byte) (tag : Bool) : (s.writeKey key data tag).colls = s.colls := rfl
@[simp] theorem State.writeKey_msgs (s : State) (key : Nat) (data : List Byte) (tag : Bool) : (s.writeKey key data tag).msgs = s.msgs := rfl
@[simp] theorem State.writeKey_replies (s : State) (key : Nat) (data : List Byte) (tag : Bool) : (s.writeKey key data tag).replies = s.replies := rfl
@[simp] theorem State.writeKey_rows (s : State) (key : Nat) (data : List Byte) (tag : Bool) : (s.writeKey key data tag).rows = s.rows := rfl
@[simp] theorem State.writeKey_calls (s : State) (key : Nat) (data : List Byte) (tag : Bool) : (s.writeKey key data tag).calls = s.calls := rfl
@[simp] theorem State.writeKey_rwrites (s : State) (key : Nat) (data : List Byte) (tag : Bool) : (s.writeKey key data tag).rwrites = s.rwrites := rfl
@[simp] theorem State.writeKey_stamp (s : State) (key : Nat) (data : List Byte) (tag : Bool) : (s.writeKey key data tag).stamp = s.stamp := rfl
@[simp] theorem State.writeKey_standbySeq (s : State) (key : Nat) (data : List Byte) (tag : Bool) : (s.writeKey key data tag).standbySeq = s.standbySeq := rfl
@[simp] theorem State.writeKey_seqLost (s : State) (key : Nat) (data : List Byte) (tag : Bool) : (s.writeKey key data tag).seqLost = s.seqLost := rfl
@[simp] theorem State.writeKey_snoops (s : State) (key : Nat) (data : List Byte) (tag : Bool) : (s.writeKey key data tag).snoops = s.snoops := rfl
@[simp] theorem State.writeKey_hostOwned (s : State) (key : Nat) (data : List Byte) (tag : Bool) : (s.writeKey key data tag).hostOwned = s.hostOwned := rfl
@[simp] theorem State.writeKey_refCount (s : State) (key : Nat) (data : List Byte) (tag : Bool) : (s.writeKey key data tag).refCount = s.refCount := rfl
@[simp] theorem State.writeKey_tableSeq (s : State) (key : Nat) (data : List Byte) (tag : Bool) : (s.writeKey key data tag).tableSeq = s.tableSeq := rfl
@[simp] theorem State.writeKey_fretSeq (s : State) (key : Nat) (data : List Byte) (tag : Bool) : (s.writeKey key data tag).fretSeq = s.fretSeq := rfl
@[simp] theorem State.writeKey_timePub (s : State) (key : Nat) (data : List Byte) (tag : Bool) : (s.writeKey key data tag).timePub = s.timePub := rfl
@[simp] theorem State.writeKey_fretPub (s : State) (key : Nat) (data : List Byte) (tag : Bool) : (s.writeKey key data tag).fretPub = s.fretPub := rfl
@[simp] theorem State.writeKey_gen (s : State) (key : Nat) (data : List Byte) (tag : Bool) : (s.writeKey key data tag).gen = s.gen := rfl
@[simp] theorem State.writeKey_vacant (s : State) (key : Nat) (data : List Byte) (tag : Bool) : (s.writeKey key data tag).vacant = s.vacant := rfl
@[simp] theorem State.writeKey_remap (s : State) (key : Nat) (data : List Byte) (tag : Bool) : (s.writeKey key data tag).remap = s.remap := rfl
@[simp] theorem State.writeKey_gated (s : State) (key : Nat) (data : List Byte) (tag : Bool) : (s.writeKey key data tag).gated = s.gated := rfl
@[simp] theorem State.writeKey_retired (s : State) (key : Nat) (data : List Byte) (tag : Bool) : (s.writeKey key data tag).retired = s.retired := rfl
@[simp] theorem State.writeKey_fused (s : State) (key : Nat) (data : List Byte) (tag : Bool) : (s.writeKey key data tag).fused = s.fused := rfl
@[simp] theorem State.writeKey_asidtab (s : State) (key : Nat) (data : List Byte) (tag : Bool) : (s.writeKey key data tag).asidtab = s.asidtab := rfl
@[simp] theorem State.writeKey_jperiod (s : State) (key : Nat) (data : List Byte) (tag : Bool) : (s.writeKey key data tag).jperiod = s.jperiod := rfl
@[simp] theorem State.writeKey_preempten (s : State) (key : Nat) (data : List Byte) (tag : Bool) : (s.writeKey key data tag).preempten = s.preempten := rfl
@[simp] theorem State.writeKey_attached (s : State) (key : Nat) (data : List Byte) (tag : Bool) : (s.writeKey key data tag).attached = s.attached := rfl
@[simp] theorem State.writeKey_accounts (s : State) (key : Nat) (data : List Byte) (tag : Bool) : (s.writeKey key data tag).accounts = s.accounts := rfl
@[simp] theorem State.writeKey_journal (s : State) (key : Nat) (data : List Byte) (tag : Bool) : (s.writeKey key data tag).journal = s.journal := rfl
@[simp] theorem State.writeKey_seqNo (s : State) (key : Nat) (data : List Byte) (tag : Bool) : (s.writeKey key data tag).seqNo = s.seqNo := rfl
@[simp] theorem State.writeKey_resets (s : State) (key : Nat) (data : List Byte) (tag : Bool) : (s.writeKey key data tag).resets = s.resets := rfl
@[simp] theorem State.writeKey_ackSeq (s : State) (key : Nat) (data : List Byte) (tag : Bool) : (s.writeKey key data tag).ackSeq = s.ackSeq := rfl
@[simp] theorem State.writeKey_readKey (s : State) (key : Nat) (data : List Byte) (tag : Bool) : (s.writeKey key data tag).readKey = s.readKey := rfl
@[simp] theorem State.writeKey_readCert (s : State) (key : Nat) (data : List Byte) (tag : Bool) : (s.writeKey key data tag).readCert = s.readCert := rfl
@[simp] theorem State.writeKey_journalAt (s : State) (key : Nat) (data : List Byte) (tag : Bool) : (s.writeKey key data tag).journalAt = s.journalAt := rfl
@[simp] theorem State.writeKey_coeffs (s : State) (key : Nat) (data : List Byte) (tag : Bool) : (s.writeKey key data tag).coeffs = s.coeffs := rfl
@[simp] theorem State.writeKey_errlog (s : State) (key : Nat) (data : List Byte) (tag : Bool) : (s.writeKey key data tag).errlog = s.errlog := rfl
@[simp] theorem State.writeKey_recent (s : State) (key : Nat) (data : List Byte) (tag : Bool) : (s.writeKey key data tag).recent = s.recent := rfl
@[simp] theorem State.writeKey_severances (s : State) (key : Nat) (data : List Byte) (tag : Bool) : (s.writeKey key data tag).severances = s.severances := rfl
@[simp] theorem State.writeKey_policy (s : State) (key : Nat) (data : List Byte) (tag : Bool) : (s.writeKey key data tag).policy = s.policy := rfl
@[simp] theorem State.writeKey_boot (s : State) (key : Nat) (data : List Byte) (tag : Bool) : (s.writeKey key data tag).boot = s.boot := rfl
@[simp] theorem State.writeKey_activeImage (s : State) (key : Nat) (data : List Byte) (tag : Bool) : (s.writeKey key data tag).activeImage = s.activeImage := rfl
@[simp] theorem State.writeKey_images (s : State) (key : Nat) (data : List Byte) (tag : Bool) : (s.writeKey key data tag).images = s.images := rfl
@[simp] theorem State.writeKey_failedBoots (s : State) (key : Nat) (data : List Byte) (tag : Bool) : (s.writeKey key data tag).failedBoots = s.failedBoots := rfl
@[simp] theorem State.writeKey_standbyCtl (s : State) (key : Nat) (data : List Byte) (tag : Bool) : (s.writeKey key data tag).standbyCtl = s.standbyCtl := rfl
@[simp] theorem State.writeKey_ctlLost (s : State) (key : Nat) (data : List Byte) (tag : Bool) : (s.writeKey key data tag).ctlLost = s.ctlLost := rfl
@[simp] theorem State.writeKey_staged (s : State) (key : Nat) (data : List Byte) (tag : Bool) : (s.writeKey key data tag).staged = s.staged := rfl
@[simp] theorem State.writeKey_outputs (s : State) (key : Nat) (data : List Byte) (tag : Bool) : (s.writeKey key data tag).outputs = s.outputs := rfl

/-! ### What each update puts in place -/

@[simp] theorem State.tile_setTile (s : State) (k : Nat) (t : Tile) : (s.setTile k t).tile k = t := keyGet_keySet_same ..
theorem State.tile_setTile_other (s : State) {k j : Nat} (t : Tile) (h : j ≠ k) : (s.setTile k t).tile j = s.tile j :=
  keyGet_keySet_other _ _ _ h
@[simp] theorem State.setTile_setTile (s : State) (k : Nat) (t u : Tile) : (s.setTile k t).setTile k u = s.setTile k u := by
  simp [State.setTile]
@[simp] theorem State.tile_modTile (s : State) (k : Nat) (f : Tile → Tile) : (s.modTile k f).tile k = f (s.tile k) :=
  State.tile_setTile ..
@[simp] theorem State.modTile_modTile (s : State) (k : Nat) (f g : Tile → Tile) :
    (s.modTile k f).modTile k g = s.modTile k (fun t => g (f t)) := by
  simp [State.modTile]
@[simp] theorem State.here_modTile (s : State) (f : Tile → Tile) : (s.modTile s.cur f).here = f s.here := by
  simp [State.here]
@[simp] theorem State.die_setDie (s : State) (d : Nat) (x : Die) : (s.setDie d x).die d = x := keyGet_keySet_same ..
@[simp] theorem State.die_modDie (s : State) (d : Nat) (f : Die → Die) : (s.modDie d f).die d = f (s.die d) :=
  State.die_setDie ..
theorem State.die_setDie_other (s : State) {d e : Nat} (x : Die) (h : e ≠ d) : (s.setDie d x).die e = s.die e :=
  keyGet_keySet_other _ _ _ h

/-! ### Registers -/

@[simp] theorem Tile.getW_zero (t : Tile) : t.getW 0 = Reg.null := rfl
@[simp] theorem Tile.putW_zero (t : Tile) (v : Reg) : t.putW 0 v = t := rfl
theorem Tile.getW_putW_same (t : Tile) {n : Nat} (v : Reg) (h : n ≠ 0) (h' : n < 64) : (t.putW n v).getW n = v := by
  simp [Tile.putW, Tile.getW, h, h']
theorem Tile.getW_putW_other (t : Tile) {n m : Nat} (v : Reg) (h : m ≠ n) : (t.putW n v).getW m = t.getW m := by
  unfold Tile.putW Tile.getW
  split
  · rfl
  · split
    · rfl
    · simp [Ne.symm h]

end Sys2Proof.Machine
end

