-- ==== Sys2Proof/Laws/Op.lean ====
section
/-! SUPPORT. How operations of a core run: the steps of an operation, what a read and a write of a register do (R202), and
what issue answers when its checks pass and its body takes effect (R366). -/

namespace Sys2Proof.Machine

/-! ### Steps of an operation -/

@[simp] theorem op_pure {α : Type} (a : α) (s : State) : (pure a : Op α) s = .ok a s := rfl
@[simp] theorem op_bind {α β : Type} (x : Op α) (f : α → Op β) (s : State) :
    (x >>= f) s = match x s with | .ok a t => f a t | .error e t => .error e t := by
  change EStateM.bind x f s = _; unfold EStateM.bind; cases x s <;> rfl
@[simp] theorem op_map {α β : Type} (f : α → β) (x : Op α) (s : State) :
    (f <$> x) s = match x s with | .ok a t => .ok (f a) t | .error e t => .error e t := by
  change EStateM.map f x s = _; unfold EStateM.map; cases x s <;> rfl
@[simp] theorem op_get (s : State) : (get : Op State) s = .ok s s := rfl
@[simp] theorem op_set (t s : State) : (set t : Op PUnit) s = .ok ⟨⟩ t := rfl
@[simp] theorem op_modify (f : State → State) (s : State) : (modify f : Op PUnit) s = .ok ⟨⟩ (f s) := rfl
@[simp] theorem op_getT (s : State) : getT s = .ok s.here s := rfl
@[simp] theorem op_modT (f : Tile → Tile) (s : State) : modT f s = .ok ⟨⟩ (s.modTile s.cur f) := rfl
@[simp] theorem op_me (s : State) : me s = .ok s.cur s := rfl
@[simp] theorem op_require_true (e : Op Unit) (s : State) : require true e s = .ok ⟨⟩ s := rfl
theorem op_require {b : Bool} (h : b = true) (e : Op Unit) (s : State) : require b e s = .ok ⟨⟩ s := by subst h; rfl
@[simp] theorem op_seqFlow (s : State) : seqFlow s = .ok .seq s := rfl

/-! ### Registers -/

theorem Tile.bound_low (t : Tile) {n : Nat} (h : n < 48) : t.bound n = none := by simp [Tile.bound, h]
@[simp] theorem Tile.bound_zero (t : Tile) : t.bound 0 = none := t.bound_low (by decide)

/-- Reading a register to which no generator is bound. -/
theorem readW_ready {s : State} {n : Nat} (h : s.here.bound n = none) : readW n s = .ok (s.here.getW n) s := by
  unfold readW Tile.getW
  split
  · rfl
  · simp [h]
theorem readX_ready {s : State} {n : Nat} (h : s.here.bound n = none) : readX n s = .ok (s.here.getX n) s := by
  simp [readX, readW_ready h, Tile.getX]
theorem readN_ready {s : State} {n : Nat} (h : s.here.bound n = none) : readN n s = .ok (s.here.getX n).toNat s := by
  simp [readN, readW_ready h, Tile.getX]

/-- `t` is `s` with the stepping core's tile changed by `f`, whether or not the core was listed. -/
def Upd (s t : State) (f : Tile → Tile) : Prop := (t = s ∧ f s.here = s.here) ∨ t = s.modTile s.cur f

theorem Upd.refl (s : State) : Upd s s (fun t => t) := .inl ⟨rfl, rfl⟩
theorem Upd.cur {s t : State} {f : Tile → Tile} (h : Upd s t f) : t.cur = s.cur := by rcases h with ⟨rfl, -⟩ | rfl <;> simp
theorem Upd.here {s t : State} {f : Tile → Tile} (h : Upd s t f) : t.here = f s.here := by
  rcases h with ⟨rfl, h⟩ | rfl
  · exact h.symm
  · simp
/-- What is done to the tile next is done on top of it. -/
theorem Upd.modTile {s t : State} {f : Tile → Tile} (h : Upd s t f) (g : Tile → Tile) :
    t.modTile t.cur g = s.modTile s.cur (fun u => g (f u)) := by
  rcases h with ⟨rfl, h⟩ | rfl
  · unfold State.modTile; rw [show t.tile t.cur = t.here from rfl]; dsimp only; rw [h]
  · simp
theorem Upd.trans {s t u : State} {f g : Tile → Tile} (h : Upd s t f) (h' : Upd t u g) : Upd s u (fun x => g (f x)) := by
  rcases h' with ⟨rfl, h'⟩ | rfl
  · rcases h with ⟨rfl, h⟩ | rfl
    · exact .inl ⟨rfl, by dsimp only; rw [h, h']⟩
    · right
      simp only [State.here_modTile] at h'
      unfold State.modTile; rw [show s.tile s.cur = s.here from rfl]; dsimp only; rw [h']
  · exact .inr (h.modTile g)

/-- Writing a register to which no generator is bound. -/
theorem writeW_ready {s : State} {n : Nat} (v : Reg) (h : s.here.bound n = none) :
    ∃ t, writeW n v s = .ok ⟨⟩ t ∧ Upd s t (·.putW n v) := by
  unfold writeW
  split
  · next hn => subst hn; exact ⟨s, rfl, .inl ⟨rfl, rfl⟩⟩
  · next hn =>
    refine ⟨s.modTile s.cur (·.putW n v), ?_, .inr rfl⟩
    simp [h, Tile.putW, hn]
theorem writeX_ready {s : State} {n : Nat} (x : Word) (h : s.here.bound n = none) :
    ∃ t, writeX n x s = .ok ⟨⟩ t ∧ Upd s t (·.putX n x) := writeW_ready _ h

/-! ### Issue -/

theorem foldl_cur {α : Type} (f : State → α → State) (hf : ∀ s a, (f s a).cur = s.cur) (l : List α) (s : State) :
    (l.foldl f s).cur = s.cur := by
  induction l generalizing s with
  | nil => rfl
  | cons a l ih => rw [List.foldl_cons, ih, hf]
@[simp] theorem State.emitRecord_cur (s : State) (r : ErrReport) : (s.emitRecord r).cur = s.cur := by
  unfold State.emitRecord; dsimp only; split <;> rfl
@[simp] theorem State.record_cur (s : State) (r : ErrReport) : (s.record r).cur = s.cur := by
  unfold State.record; dsimp only; split
  · simp
  · split <;> rfl
@[simp] theorem State.gateRefuses_cur (s : State) (k : Nat) : (s.gateRefuses k).cur = s.cur := by
  unfold State.gateRefuses; simp only [State.record_cur]; rfl
@[simp] theorem State.payOwed_cur (s : State) (k : Nat) (op : EngOp) (r : List EngOp) : (s.payOwed k op r).cur = s.cur := by
  unfold State.payOwed; dsimp only; split
  · split
    · simp
    · rfl
  · rfl
@[simp] theorem drainTo_cur (s : State) (k acc off w : Nat) (rm : Rm) (sat : Bool) : (drainTo s k acc off w rm sat).cur = s.cur := by
  unfold drainTo; dsimp only; split
  · exact State.writeKey_cur ..
  · split
    · exact foldl_cur _ (fun _ _ => (State.writeKey_cur ..).trans (State.writeKey_cur ..)) _ _
    · exact State.writeKey_cur ..
@[simp] theorem drained_cur (s : State) (k acc slot : Nat) (z : Bool) : (drained s k acc slot z).cur = s.cur := rfl
@[simp] theorem State.retire_cur (s : State) (k : Nat) (op : EngOp) : (s.retire k op).cur = s.cur := by
  cases op with
  | drain => unfold State.retire; exact (drained_cur ..).trans (drainTo_cur ..)
  | drainq => unfold State.retire; exact (drained_cur ..).trans (State.writeKey_cur ..)
  | sread => unfold State.retire; exact (State.modTile_cur ..).trans (State.writeKey_cur ..)
  | _ => unfold State.retire; exact State.modTile_cur ..
@[simp] theorem State.engineStep_cur (s : State) (k : Nat) : (s.engineStep k).cur = s.cur := by
  unfold State.engineStep
  split
  · rfl
  · split <;> simp only [State.payOwed_cur, State.retire_cur, State.modTile_cur]
/-- The engine's work leaves the core that steps. -/
@[simp] theorem engineDrain_cur (s : State) (k : Nat) : (s.engineDrain k).cur = s.cur :=
  foldl_cur _ (fun s _ => s.engineStep_cur k) _ _

theorem kinds_all (k : Nat) : 15 / 2 ^ kindOf k % 2 = 1 := by
  unfold kindOf; split <;> [skip; split <;> [skip; split]] <;> rfl

/-- What the shared checks of issue ask of an instruction (R366 steps 2 to 4). -/
structure Meta.Passes (m : Meta) (s : State) : Prop where
  kinds : m.kinds / 2 ^ kindOf s.cur % 2 = 1
  priv : m.priv = true → s.here.pc.has Perm.system = true
  regs : ∀ r ∈ m.reads ++ m.writes, findPend s.here.pend r = none
  carries : m.mustS = true → m.sw = true
  clash : m.clash = none

theorem findSome_none {α β : Type} {l : List α} {f : α → Option β} (h : ∀ a ∈ l, f a = none) : l.findSome? f = none := by
  rw [List.findSome?_eq_none_iff]; exact h

theorem precheck_passes {m : Meta} {s : State} (h : m.Passes s) : precheck m s = .ok ⟨⟩ s := by
  unfold precheck
  simp only [op_bind, op_getT, op_me]
  rw [op_require (by simp [h.kinds])]
  dsimp only
  rw [op_require (by have := h.priv; cases hp : m.priv <;> simp_all)]
  dsimp only
  generalize hx : List.findSome? (findPend s.here.pend) (List.filter _ m.reads) = o
  obtain rfl : o = none := by
    rw [← hx]
    exact findSome_none (fun r hr => h.regs r (List.mem_append_left _ (List.mem_of_mem_filter hr)))
  rw [show m.writes.findSome? (findPend s.here.pend) = none from
    findSome_none (fun r hr => h.regs r (List.mem_append_right _ hr))]
  dsimp only
  simp only [op_bind]
  rw [op_require (by have := h.carries; cases hp : m.mustS <;> simp_all), h.clash]
  rfl

/-- An instruction whose checks pass and whose body takes effect, once the work that it waits for is finished. -/
theorem issue_settled {m : Meta} {body : Op Flow} {s u t : State} {f : Flow} (hs : settle m s = u)
    (hd : unsettled m u = none) (hp : m.Passes u) (hb : body u = .ok f t) :
    issue m body s = .next (t.modTile t.cur (finish t.cur m f u.here.rep.isSome)) := by
  have h : (do precheck m; body : Op Flow) u = .ok f t := by simp [precheck_passes hp, hb]
  unfold issue
  simp only [hs, hd]
  rw [h]
  rfl
/-- An instruction that waits for nothing settles at once. -/
theorem settle_none {m : Meta} (hs : m.sync = false) (he : m.engine = false) (hd : m.drain = .none) (s : State) :
    settle m s = s := by
  simp [settle, hs, he, hd]
/-- An instruction before which the engine works. -/
theorem settle_sync {m : Meta} (hs : m.sync = true) (hd : m.drain = .none) (s : State) : settle m s = s.engineDone := by
  simp [settle, hs, hd, State.engineDone]
/-- An instruction that waits for the core's stores to a tier. -/
theorem settle_drain {m : Meta} {sc : Scope} (hs : m.sync = false) (he : m.engine = false) (hd : m.drain = .stores sc) (s : State) :
    settle m s = s.storesDone sc := by
  simp [settle, hs, he, hd, State.storesDone]; rfl
/-- An instruction that waits for both. -/
theorem settle_both {m : Meta} {sc : Scope} (hs : m.sync = true) (hd : m.drain = .stores sc) (s : State) :
    settle m s = s.settled sc := by
  simp [settle, hs, hd, State.settled, State.storesDone, State.engineDone, engineDrain_cur]; rfl
/-- Nothing is left to wait for when the instruction asks for nothing. -/
theorem unsettled_none {m : Meta} (he : m.engine = false) (hd : m.drain = .none) (s : State) : unsettled m s = none := by
  simp [unsettled, he, hd]
/-- Nothing is left to wait for when the stores to a tier have been performed. -/
theorem unsettled_performed {m : Meta} {sc : Scope} {s : State} (he : m.engine = false) (hd : m.drain = .stores sc)
    (h : Performed s sc) : unsettled m s = none := by
  unfold unsettled
  rw [if_neg (by simp [he]), if_neg]
  rw [hd]
  rintro ⟨-, h'⟩
  exact absurd (show s.undrained s.cur (fun x => inTier s.cur sc x.key) = true from h') (by simp [show _ = _ from h])

/-- An instruction that waits for nothing, whose checks pass and whose body takes effect. -/
theorem issue_ok {m : Meta} {body : Op Flow} {s t : State} {f : Flow} (hs : m.sync = false) (he : m.engine = false)
    (hd : m.drain = .none) (hp : m.Passes s) (hb : body s = .ok f t) :
    issue m body s = .next (t.modTile t.cur (finish t.cur m f s.here.rep.isSome)) :=
  issue_settled (settle_none hs he hd s) (unsettled_none he hd s) hp hb

/-- The end of a run changes nothing of a tile but its consort's runs. -/
theorem consortEnd_eq (k : Nat) (d j : Bool) (t : Tile) : consortEnd k d j t = { t with consort := (consortEnd k d j t).consort } := by
  unfold consortEnd
  split
  · rfl
  · split
    · rfl
    · split <;> rfl
/-- The end of a run changes nothing of a chord's anchor but the number of its runs. -/
theorem chordEnd_eq (t : Tile) : chordEnd t = { t with runs := (chordEnd t).runs } := by unfold chordEnd; split <;> rfl
/-- The end of a run changes nothing of a tile but the runs of its consort and its chord. -/
theorem runEnd_eq (k : Nat) (d j : Bool) (t : Tile) : chordEnd (consortEnd k d j t) =
    { t with consort := (chordEnd (consortEnd k d j t)).consort, runs := (chordEnd (consortEnd k d j t)).runs } := by
  rw [chordEnd_eq, consortEnd_eq]

/-- What follows an instruction's effect changes nothing but the core's instruction flow. -/
theorem finish_withFlow (k : Nat) (m : Meta) (f : Flow) (r : Bool) (t : Tile) :
    finish k m f r t = t.withFlow (finish k m f r t) := by
  cases f <;> (unfold finish; dsimp only; try split) <;> first | rfl | (rw [runEnd_eq]; rfl)

@[simp] theorem runEnd_pc (k : Nat) (d j : Bool) (t : Tile) : (chordEnd (consortEnd k d j t)).pc = t.pc := by rw [runEnd_eq]
theorem finish_seq_pc (k : Nat) (m : Meta) (r : Bool) (t : Tile) : (finish k m .seq r t).pc = t.after m.len := by
  unfold finish Tile.after; dsimp only; split <;> split <;> simp_all
theorem finish_jump_pc (k : Nat) (m : Meta) (c : Reg) (r : Bool) (t : Tile) : (finish k m (.jump c) r t).pc = c := by
  unfold finish; dsimp only; split <;> simp

/-- Effects on the core compose with what follows an instruction. -/
theorem effect_finish {s t : State} {f : Tile → Tile} (hu : Upd s t f) (m : Meta) (fl : Flow) (r : Bool) :
    Effect s (t.modTile t.cur (finish t.cur m fl r)) f := by
  have hc := hu.cur
  refine ⟨by simp [hc], ?_, ?_⟩
  · rw [hu.modTile]
    unfold OnlyCore
    rw [State.here_modTile]
    rfl
  · rw [State.here_modTile, hu.here]
    exact finish_withFlow ..

@[simp] theorem runEnd_pend (k : Nat) (d j : Bool) (t : Tile) : (chordEnd (consortEnd k d j t)).pend = t.pend := by rw [runEnd_eq]
/-- The pending results that an instruction adds. -/
def Meta.named (m : Meta) : List (File × Nat) := if m.deferred then results m.writes else []
/-- No register that the instruction writes is bound to a write stream, so that it appends nothing (R65). -/
def Meta.NoAppend (m : Meta) (t : Tile) : Prop := ∀ r ∈ m.writes, t.appends r = false
theorem filter_noAppend {m : Meta} {t : Tile} (h : m.NoAppend t) (q : File × Nat → Bool) :
    m.writes.filter (fun r => (m.deferred && q r) || t.appends r) = if m.deferred then m.writes.filter q else [] := by
  rw [List.filter_congr (q := fun r => m.deferred && q r) (fun r hr => by simp [h r hr])]
  cases m.deferred <;> simp
theorem finish_seq_pend (k : Nat) {m : Meta} (r : Bool) {t : Tile} (h : m.NoAppend t) :
    (finish k m .seq r t).pend = t.pend ++ m.named.map (fun r => ⟨r.1, r.2, t.runPos⟩) := by
  unfold finish Meta.named results; dsimp only; rw [filter_noAppend h]; split <;> split <;> simp
theorem finish_jump_pend (k : Nat) {m : Meta} (c : Reg) (r : Bool) {t : Tile} (h : m.NoAppend t) :
    (finish k m (.jump c) r t).pend = t.pend ++ m.named.map (fun r => ⟨r.1, r.2, t.runPos⟩) := by
  unfold finish Meta.named results; dsimp only; rw [filter_noAppend h]; split <;> split <;> simp

/-- An effect on a core's tile that leaves its instruction flow alone. -/
structure KeepsFlow (f : Tile → Tile) (t : Tile) : Prop where
  pc : (f t).pc = t.pc
  loops : (f t).loops = t.loops
  pend : (f t).pend = t.pend
  runPos : (f t).runPos = t.runPos
  ag : (f t).ag = t.ag
/-- Such an effect binds no register to a stream. -/
theorem KeepsFlow.noAppend {f : Tile → Tile} {t : Tile} (h : KeepsFlow f t) {m : Meta} (hm : m.NoAppend t) : m.NoAppend (f t) := by
  intro r hr
  have := hm r hr
  unfold Tile.appends Tile.bound at *
  rw [h.ag]; exact this

/-- An instruction whose checks pass and whose body leads to `v` and does `f` to the core there and goes on is through. -/
theorem issue_through' {m : Meta} {body : Op Flow} {s u v t : State} {f : Tile → Tile} (hs : settle m s = u)
    (hd : unsettled m u = none) (hp : m.Passes u) (hb : body u = .ok .seq t) (hu : Upd v t f)
    (hf : KeepsFlow f v.here) (ha : m.NoAppend v.here) : Through (issue m body s) v m.len m.named f :=
  ⟨_, issue_settled hs hd hp hb, effect_finish hu .., by
      rw [State.here_modTile, finish_seq_pc, hu.here]; unfold Tile.after; rw [hf.pc, hf.loops], by
      rw [State.here_modTile, finish_seq_pend _ _ (by rw [hu.here]; exact hf.noAppend ha), hu.here, hf.pend, hf.runPos]⟩

/-- The same for an instruction that waits for nothing and does `f` alone. -/
theorem issue_through {m : Meta} {body : Op Flow} {s t : State} {f : Tile → Tile} (hs : m.sync = false) (he : m.engine = false)
    (hd : m.drain = .none) (hp : m.Passes s) (hb : body s = .ok .seq t) (hu : Upd s t f) (hf : KeepsFlow f s.here)
    (ha : m.NoAppend s.here) : Through (issue m body s) s m.len m.named f :=
  issue_through' (settle_none hs he hd s) (unsettled_none he hd s) hp hb hu hf ha

/-- The same for a body that transfers control. -/
theorem issue_jumps {m : Meta} {body : Op Flow} {s t : State} {f : Tile → Tile} {c : Reg} (hs : m.sync = false)
    (he : m.engine = false) (hd : m.drain = .none) (hp : m.Passes s) (hb : body s = .ok (.jump c) t) (hu : Upd s t f)
    (hf : (f s.here).pend = s.here.pend) (hm : m.deferred = false) (ha : m.NoAppend (f s.here)) : Jumps (issue m body s) s c f :=
  ⟨_, issue_ok hs he hd hp hb, effect_finish hu .., by rw [State.here_modTile, finish_jump_pc], by
      rw [State.here_modTile, finish_jump_pend _ _ _ (by rw [hu.here]; exact ha), hu.here, hf, Meta.named, hm]; simp⟩

theorem KeepsFlow.refl (t : Tile) : KeepsFlow (fun u => u) t := ⟨rfl, rfl, rfl, rfl, rfl⟩
theorem KeepsFlow.putW (n : Nat) (v : Reg) (t : Tile) : KeepsFlow (·.putW n v) t := by
  constructor <;> (unfold Tile.putW; split <;> rfl)
theorem KeepsFlow.putX (n : Nat) (x : Word) (t : Tile) : KeepsFlow (·.putX n x) t := KeepsFlow.putW ..
theorem KeepsFlow.wp (n : Nat) (x : Word) (t : Tile) : KeepsFlow (·.wp n x) t := by
  constructor <;> (unfold Tile.wp; split <;> rfl)
theorem KeepsFlow.comp {f g : Tile → Tile} {t : Tile} (hf : KeepsFlow f t) (hg : KeepsFlow g (f t)) :
    KeepsFlow (fun u => g (f u)) t :=
  ⟨hg.pc.trans hf.pc, hg.loops.trans hf.loops, hg.pend.trans hf.pend, hg.runPos.trans hf.runPos, hg.ag.trans hf.ag⟩

@[simp] theorem Tile.after_putW (t : Tile) (n : Nat) (v : Reg) (len : Nat) : (t.putW n v).after len = t.after len := by
  unfold Tile.putW; split <;> rfl
@[simp] theorem Tile.after_putX (t : Tile) (n : Nat) (x : Word) (len : Nat) : (t.putX n x).after len = t.after len :=
  t.after_putW ..
@[simp] theorem Tile.pend_putW (t : Tile) (n : Nat) (v : Reg) : (t.putW n v).pend = t.pend := by unfold Tile.putW; split <;> rfl
@[simp] theorem Tile.bound_putW (t : Tile) (n k : Nat) (v : Reg) : (t.putW n v).bound k = t.bound k := by
  unfold Tile.putW; split <;> rfl

/-- Registers that are ready take no appends. -/
theorem Ready.noAppend {m : Meta} {s : State} (h : Ready s (m.reads ++ m.writes)) : m.NoAppend s.here := by
  intro r hr
  unfold Tile.appends
  by_cases hw : r.1 = .w
  · simp [(h r (List.mem_append_right _ hr)).2 hw]
  · simp [hw]
/-- Registers that are ready pass the run rules of an instruction that needs nothing else. -/
theorem Ready.passes {m : Meta} {s : State} (h : Ready s (m.reads ++ m.writes)) (hk : m.kinds = 15) (hp : m.priv = false)
    (hs : m.mustS = false) (hc : m.clash = none) : m.Passes s where
  kinds := by rw [hk]; exact kinds_all _
  priv := by simp [hp]
  regs := fun r hr => (h r hr).1
  carries := by simp [hs]
  clash := hc

end Sys2Proof.Machine
end

