-- ==== Sys2Proof/Laws/Integer.lean ====
section
/-! SUPPORT. What the shared operations of the integer, predicate and capability instructions do when they take effect
(R217 to R221). -/

namespace Sys2Proof.Machine

/-- An instruction that every tile kind runs in every mode and that waits for nothing (R366). -/
structure Meta.Simple (m : Meta) : Prop where
  sync : m.sync = false
  engine : m.engine = false
  drain : m.drain = .none
  kinds : m.kinds = 15
  priv : m.priv = false
  mustS : m.mustS = false
  clash : m.clash = none

/-- Such an instruction completes when its registers are ready and its body does `f`. -/
theorem Meta.Simple.through {m : Meta} (h : m.Simple) {body : Op Flow} {s t : State} {f : Tile → Tile}
    (hr : Ready s (m.reads ++ m.writes)) (hb : body s = .ok .seq t) (hu : Upd s t f) (hf : KeepsFlow f s.here) :
    Through (issue m body s) s m.len m.named f :=
  issue_through h.sync h.engine h.drain (hr.passes h.kinds h.priv h.mustS h.clash) hb hu hf hr.noAppend
/-- The effect of an instruction may be said in terms of the tile that it acts on. -/
theorem Through.of_here {o : Host.Outcome State Fault Refusal} {s : State} {len : Nat} {named : List (File × Nat)}
    {f g : Tile → Tile} (h : Through o s len named f) (hfg : f s.here = g s.here) : Through o s len named g := by
  obtain ⟨t, h1, ⟨h2, h3, h4⟩, h5, h6⟩ := h
  exact ⟨t, h1, ⟨h2, h3, h4.trans (by rw [hfg])⟩, h5, h6⟩

theorem Ready.unbound {s : State} {rs : List (File × Nat)} (h : Ready s rs) {n : Nat} (hn : (File.w, n) ∈ rs) :
    s.here.bound n = none := (h _ hn).2 rfl
theorem Ready.mono {s : State} {rs qs : List (File × Nat)} (h : Ready s rs) (hq : ∀ r ∈ qs, r ∈ rs) : Ready s qs :=
  fun r hr => h r (hq r hr)

/-- A three-register operation completes with its result in wd. -/
theorem alu_completes {m : Meta} (hm : m.Simple) {d a b : Nat} {s : State} (f : Word → Word → Word)
    (hr : Ready s [(.w, a), (.w, b), (.w, d)]) (hm1 : m.reads = [(.w, a), (.w, b)]) (hm2 : m.writes = [(.w, d)]) :
    Through (alu m d a b f s) s m.len m.named (fun u => u.putX d (f (u.getX a) (u.getX b))) := by
  obtain ⟨t, ht, hu⟩ := writeX_ready (s := s) (n := d) (f (s.here.getX a) (s.here.getX b)) (hr.unbound (by simp))
  refine hm.through (t := t) (f := fun u => u.putX d (f (s.here.getX a) (s.here.getX b)))
    (by rw [hm1, hm2]; exact hr) ?_ hu (KeepsFlow.putX ..) |>.of_here rfl
  simp [readX_ready (hr.unbound (n := a) (by simp)), readX_ready (hr.unbound (n := b) (by simp)), ht]

/-- A two-register operation completes with its result in wd. -/
theorem alu1_completes {m : Meta} (hm : m.Simple) {d a : Nat} {s : State} (f : Word → Word)
    (hr : Ready s [(.w, a), (.w, d)]) (hm1 : m.reads = [(.w, a)]) (hm2 : m.writes = [(.w, d)]) :
    Through (alu1 m d a f s) s m.len m.named (fun u => u.putX d (f (u.getX a))) := by
  obtain ⟨t, ht, hu⟩ := writeX_ready (s := s) (n := d) (f (s.here.getX a)) (hr.unbound (by simp))
  refine hm.through (t := t) (f := fun u => u.putX d (f (s.here.getX a)))
    (by rw [hm1, hm2]; exact hr) ?_ hu (KeepsFlow.putX ..) |>.of_here rfl
  simp [readX_ready (hr.unbound (n := a) (by simp)), ht]

/-- An immediate completes with its value in wd. -/
theorem loadImm_completes {m : Meta} (hm : m.Simple) {d : Nat} {s : State} (x : Word)
    (hr : Ready s [(.w, d)]) (hm1 : m.reads = []) (hm2 : m.writes = [(.w, d)]) :
    Through (loadImm m d x s) s m.len m.named (fun u => u.putX d x) := by
  obtain ⟨t, ht, hu⟩ := writeX_ready (s := s) (n := d) x (hr.unbound (by simp))
  refine hm.through (t := t) (by rw [hm1, hm2]; exact hr) ?_ hu (KeepsFlow.putX ..)
  simp [ht]

/-- A write of a predicate. -/
theorem writeP_upd (n : Nat) (x : Word) (s : State) : writeP n x s = .ok ⟨⟩ (s.modTile s.cur (·.wp n x)) := rfl
@[simp] theorem readP_ok (n : Nat) (s : State) : readP n s = .ok (s.here.rp n) s := rfl

/-- CMP completes with its predicate. -/
theorem compare_completes {minor : Nat} {sw : Bool} {p : Fin 8} {a b : Fin 64} {s : State} (f : Word → Word → Bool)
    (hr : Ready s [wr a, wr b, pr p]) :
    Through (compare minor sw p a b f s) s 4 [] (fun u => u.wp p (allOrNone (f (u.getX a) (u.getX b)))) := by
  refine Meta.Simple.through (m := metaI 0x05 minor 4 sw [wr a, wr b] [pr p]) ⟨rfl, rfl, rfl, rfl, rfl, rfl, rfl⟩ hr
    (t := s.modTile s.cur (·.wp p (allOrNone (f (s.here.getX a) (s.here.getX b))))) ?_ (.inr rfl) (KeepsFlow.wp ..)
    |>.of_here rfl
  simp [readX_ready (hr.unbound (n := a) (by simp [wr])), readX_ready (hr.unbound (n := b) (by simp [wr])), writeP_upd]

/-- Predicate logic completes with its predicate. -/
theorem predOp_completes {minor : Nat} {sw : Bool} {d a b : Fin 8} {s : State} (f : Word → Word → Word)
    (hr : Ready s [pr a, pr b, pr d]) :
    Through (predOp minor sw d a b f s) s 4 [] (fun u => u.wp d (f (u.rp a) (u.rp b))) := by
  refine Meta.Simple.through (m := metaI 0x07 minor 4 sw [pr a, pr b] [pr d]) ⟨rfl, rfl, rfl, rfl, rfl, rfl, rfl⟩ hr
    (t := s.modTile s.cur (·.wp d (f (s.here.rp a) (s.here.rp b)))) ?_ (.inr rfl) (KeepsFlow.wp ..)
    |>.of_here rfl
  simp [writeP_upd]

/-- A capability instruction with two operands completes with its result in wd. -/
theorem capOp_completes {fn : Nat} {sw : Bool} {d a b : Fin 64} {s : State} (f : Reg → Reg → Reg)
    (hr : Ready s [wr a, wr b, wr d]) :
    Through (capOp fn sw d a b f s) s 4 [] (fun u => u.putW d (f (u.getW a) (u.getW b))) := by
  obtain ⟨t, ht, hu⟩ := writeW_ready (s := s) (n := d) (f (s.here.getW a) (s.here.getW b)) (hr.unbound (by simp [wr]))
  refine Meta.Simple.through (m := metaI 0x08 fn 4 sw [wr a, wr b] [wr d]) ⟨rfl, rfl, rfl, rfl, rfl, rfl, rfl⟩ hr
    (t := t) (f := fun u => u.putW d (f (s.here.getW a) (s.here.getW b))) ?_ hu (KeepsFlow.putW ..)
    |>.of_here rfl
  simp [readW_ready (hr.unbound (n := a) (by simp [wr])), readW_ready (hr.unbound (n := b) (by simp [wr])), ht]

/-- A capability instruction with one operand completes with its result in wd. -/
theorem capOp1_completes {fn : Nat} {sw : Bool} {d a : Fin 64} {s : State} (f : Reg → Reg)
    (hr : Ready s [wr a, wr d]) :
    Through (capOp1 fn sw d a f s) s 4 [] (fun u => u.putW d (f (u.getW a))) := by
  obtain ⟨t, ht, hu⟩ := writeW_ready (s := s) (n := d) (f (s.here.getW a)) (hr.unbound (by simp [wr]))
  refine Meta.Simple.through (m := metaI 0x08 fn 4 sw [wr a] [wr d]) ⟨rfl, rfl, rfl, rfl, rfl, rfl, rfl⟩ hr
    (t := t) (f := fun u => u.putW d (f (s.here.getW a))) ?_ hu (KeepsFlow.putW ..)
    |>.of_here rfl
  simp [readW_ready (hr.unbound (n := a) (by simp [wr])), ht]

end Sys2Proof.Machine
end

