-- ==== Sys2Proof/Laws/Memory.lean ====
section
/-! SUPPORT. The one memory: every operation keeps its canonical form, a read gives what was last written, and a write leaves
every other address alone. -/

namespace Sys2Proof.Machine

theorem Memory.wfFrom_mono {m : List Host.Cell} {lo lo' : Nat} (h : Memory.wfFrom lo m = true) (hl : lo' ≤ lo) :
    Memory.wfFrom lo' m = true := by
  cases m with
  | nil => rfl
  | cons c r =>
    obtain ⟨a, b⟩ := c
    simp only [Memory.wfFrom, Bool.and_eq_true, decide_eq_true_eq] at h ⊢
    exact ⟨⟨by omega, h.1.2⟩, h.2⟩

theorem Memory.wfFrom_cons {m : List Host.Cell} {lo n : Nat} (x : Byte) (hn : lo ≤ n) (h : Memory.wfFrom (n + 1) m = true) :
    Memory.wfFrom lo (Memory.cons n x m) = true := by
  unfold Memory.cons
  split
  · exact Memory.wfFrom_mono h (by omega)
  · simp_all [Memory.wfFrom]

/-- Writing one byte keeps the canonical form. -/
theorem Memory.wfFrom_set {m : List Host.Cell} {lo : Nat} (n : Nat) (x : Byte) (h : Memory.wfFrom lo m = true) (hn : lo ≤ n) :
    Memory.wfFrom lo (Memory.set m n x) = true := by
  induction m generalizing lo with
  | nil => exact Memory.wfFrom_cons x hn rfl
  | cons c r ih =>
    obtain ⟨a, b⟩ := c
    simp only [Memory.wfFrom, Bool.and_eq_true, decide_eq_true_eq] at h
    obtain ⟨⟨ha, hb⟩, hr⟩ := h
    unfold Memory.set
    split
    · exact Memory.wfFrom_cons x hn (by simp only [Memory.wfFrom, Bool.and_eq_true, decide_eq_true_eq]; exact ⟨⟨by omega, hb⟩, hr⟩)
    · split
      · subst n; exact Memory.wfFrom_cons x hn hr
      · simp only [Memory.wfFrom, Bool.and_eq_true, decide_eq_true_eq]; exact ⟨⟨ha, hb⟩, ih hr (by omega)⟩

theorem Memory.wf_set {m : List Host.Cell} (n : Nat) (x : Byte) (h : Memory.wf m = true) : Memory.wf (Memory.set m n x) = true :=
  Memory.wfFrom_set n x h (Nat.zero_le _)

/-- Writing bytes keeps the canonical form. -/
theorem Memory.wf_write {m : List Host.Cell} (n : Nat) (d : List Byte) (h : Memory.wf m = true) :
    Memory.wf (Memory.write m n d) = true := by
  induction d generalizing m n with
  | nil => exact h
  | cons x r ih => exact ih _ (Memory.wf_set n x h)

theorem Memory.wfFrom_filter {m : List Host.Cell} {lo : Nat} (p : Host.Cell → Bool) (h : Memory.wfFrom lo m = true) :
    Memory.wfFrom lo (m.filter p) = true := by
  induction m generalizing lo with
  | nil => rfl
  | cons c r ih =>
    obtain ⟨a, b⟩ := c
    simp only [Memory.wfFrom, Bool.and_eq_true, decide_eq_true_eq] at h
    obtain ⟨⟨ha, hb⟩, hr⟩ := h
    rw [List.filter_cons]
    split
    · simp only [Memory.wfFrom, Bool.and_eq_true, decide_eq_true_eq]; exact ⟨⟨ha, hb⟩, ih hr⟩
    · exact Memory.wfFrom_mono (ih hr) (by omega)

/-- Clearing a range keeps the canonical form. -/
theorem Memory.wf_clear {m : List Host.Cell} (a n : Nat) (h : Memory.wf m = true) : Memory.wf (Memory.clear m a n) = true :=
  Memory.wfFrom_filter _ h

/-- Below its first possible address a memory reads as an unlisted address does. -/
theorem Memory.get_below {m : List Host.Cell} {lo n : Nat} (h : Memory.wfFrom lo m = true) (hn : n < lo) :
    Memory.get m n = Memory.default := by
  cases m with
  | nil => rfl
  | cons c r =>
    obtain ⟨a, b⟩ := c
    simp only [Memory.wfFrom, Bool.and_eq_true, decide_eq_true_eq] at h
    rw [Memory.get, if_pos (by omega)]

theorem Memory.get_cons {m : List Host.Cell} {n : Nat} (x : Byte) (k : Nat) (h : Memory.wfFrom (n + 1) m = true) :
    Memory.get (Memory.cons n x m) k = if k = n then x else if k < n then Memory.default else Memory.get m k := by
  unfold Memory.cons
  split
  · next hx =>
    split
    · subst k; rw [Memory.get_below h (by omega), hx]
    · split
      · exact Memory.get_below h (by omega)
      · rfl
  · rw [Memory.get]
    split
    · rw [if_neg (by omega)]
    · rfl

theorem Memory.get_set_from {m : List Host.Cell} {lo : Nat} (n : Nat) (x : Byte) (k : Nat) (h : Memory.wfFrom lo m = true) :
    Memory.get (Memory.set m n x) k = if k = n then x else Memory.get m k := by
  induction m generalizing lo with
  | nil => rw [Memory.set, Memory.get_cons x k rfl]; split <;> simp [Memory.get]
  | cons c r ih =>
    obtain ⟨a, b⟩ := c
    simp only [Memory.wfFrom, Bool.and_eq_true, decide_eq_true_eq] at h
    obtain ⟨⟨ha, hb⟩, hr⟩ := h
    rw [Memory.set]
    split
    · next hlt =>
      rw [Memory.get_cons x k (by simp only [Memory.wfFrom, Bool.and_eq_true, decide_eq_true_eq]; exact ⟨⟨by omega, hb⟩, hr⟩)]
      split
      · rfl
      · split
        · rw [Memory.get, if_pos (by omega)]
        · rfl
    · split
      · subst n
        rw [Memory.get_cons x k hr]
        split
        · rfl
        · rw [Memory.get]; simp_all
      · rw [Memory.get, ih hr, Memory.get]
        split
        · rw [if_neg (by omega)]
        · split
          · rw [if_neg (by omega)]
          · rfl

/-- A byte reads as what was last written to it. -/
theorem Memory.get_set {m : List Host.Cell} (n : Nat) (x : Byte) (k : Nat) (h : Memory.wf m = true) :
    Memory.get (Memory.set m n x) k = if k = n then x else Memory.get m k := Memory.get_set_from n x k h

/-- A write leaves every address outside its bytes alone. -/
theorem Memory.get_write_other {m : List Host.Cell} (n : Nat) (d : List Byte) (k : Nat) (h : Memory.wf m = true)
    (hk : k < n ∨ n + d.length ≤ k) : Memory.get (Memory.write m n d) k = Memory.get m k := by
  induction d generalizing m n with
  | nil => rfl
  | cons x r ih =>
    rw [List.length_cons] at hk
    rw [Memory.write, ih (n + 1) (Memory.wf_set n x h) (by omega), Memory.get_set n x k h, if_neg (by omega)]

/-- Reading what was written gives the bytes written. -/
theorem Memory.read_write {m : List Host.Cell} (n : Nat) (d : List Byte) (h : Memory.wf m = true) :
    Memory.read (Memory.write m n d) n d.length = d := by
  induction d generalizing m n with
  | nil => rfl
  | cons x r ih =>
    have hw := Memory.wf_set n x h
    rw [Memory.write, List.length_cons, Memory.read, ih (n + 1) hw,
      Memory.get_write_other (n + 1) r n hw (by omega), Memory.get_set n x n h, if_pos rfl]

theorem Memory.get_filter {m : List Host.Cell} {lo : Nat} (p : Host.Cell → Bool) (q : Nat → Bool) (k : Nat)
    (h : Memory.wfFrom lo m = true) (hp : ∀ c, p c = q c.1) :
    Memory.get (m.filter p) k = if q k then Memory.get m k else Memory.default := by
  induction m generalizing lo with
  | nil => simp [Memory.get]
  | cons c r ih =>
    obtain ⟨a, b⟩ := c
    simp only [Memory.wfFrom, Bool.and_eq_true, decide_eq_true_eq] at h
    obtain ⟨⟨ha, hb⟩, hr⟩ := h
    rw [List.filter_cons]
    split
    · next hpc =>
      rw [Memory.get, ih hr, Memory.get]
      split
      · simp
      · split
        · next hka => subst hka; rw [hp] at hpc; rw [if_pos hpc]
        · rfl
    · next hpc =>
      rw [hp] at hpc
      rw [ih hr, Memory.get]
      by_cases hk : k ≤ a
      · rw [Memory.get_below hr (by omega)]
        by_cases hka : k = a
        · rw [hka]; simp [hpc]
        · simp [show k < a by omega]
      · simp [show ¬ k < a by omega, show ¬ k = a by omega]

/-- A cleared range reads as 0 and every other address as before. -/
theorem Memory.get_clear {m : List Host.Cell} (a n k : Nat) (h : Memory.wf m = true) :
    Memory.get (Memory.clear m a n) k = if k < a ∨ a + n ≤ k then Memory.get m k else Memory.default := by
  rw [Memory.clear, Memory.get_filter _ (fun x => decide (x < a) || decide (a + n ≤ x)) k h (fun _ => rfl)]
  simp

end Sys2Proof.Machine
end

