-- ==== Sys2Proof/Laws/Access.lean ====
section
/-! SUPPORT. What translation, checked loads and checked stores do (R108 to R113, R198, R215). -/

namespace Sys2Proof.Machine

theorem keyGet_map {α : Type} (d : α) (l : List (Nat × α)) (f : Nat → α → α) (k : Nat) (hd : f k d = d) :
    keyGet d (l.map (fun e => (e.1, f e.1 e.2))) k = f k (keyGet d l k) := by
  induction l with
  | nil => simp [keyGet, hd]
  | cons e r ih =>
    obtain ⟨n, v⟩ := e
    simp only [List.map_cons, keyGet]
    split
    · next h => subst h; rfl
    · exact ih

/-- The tile with other TLBs. -/
def Tile.tlbs (t : Tile) (i d : List TlbEntry) : Tile := { t with itlb := i, dtlb := d }

/-- `t` differs from `s` in memory, its tags and codes, TLBs and the free-value counter alone. -/
structure TlbOnly (s t : State) : Prop where
  eq : ∃ (mem : List Host.Cell) (tags bad cached : List Nat) (copies : List (Nat × Nat)) (free : Nat)
      (ctl : List (Nat × List TlbEntry)) (tiles : List (Nat × Tile)),
    t = { s with mem := mem, tags := tags, bad := bad, badCached := cached, badCopies := copies, free := free, clusterTlbs := ctl,
                 tiles := tiles }
  tiles : ∀ k, ∃ i d, t.tile k = (s.tile k).tlbs i d

theorem TlbOnly.refl (s : State) : TlbOnly s s := ⟨⟨_, _, _, _, _, _, _, _, rfl⟩, fun _ => ⟨_, _, rfl⟩⟩
theorem TlbOnly.trans {s t u : State} (h : TlbOnly s t) (h' : TlbOnly t u) : TlbOnly s u := by
  obtain ⟨⟨_, _, _, _, _, _, _, _, rfl⟩, h2⟩ := h
  obtain ⟨⟨_, _, _, _, _, _, _, _, rfl⟩, h2'⟩ := h'
  refine ⟨⟨_, _, _, _, _, _, _, _, rfl⟩, fun k => ?_⟩
  obtain ⟨i, d, h⟩ := h2 k
  obtain ⟨i', d', h'⟩ := h2' k
  exact ⟨i', d', by rw [h', h]; rfl⟩

theorem tlbOnly_setPte (s : State) (a e : Nat) : TlbOnly s (s.setPte a e) := ⟨⟨_, _, _, _, _, _, _, _, rfl⟩, fun _ => ⟨_, _, rfl⟩⟩
theorem tlbOnly_fresh (s : State) : TlbOnly s s.fresh.2 := ⟨⟨_, _, _, _, _, _, _, _, rfl⟩, fun _ => ⟨_, _, rfl⟩⟩
theorem tlbOnly_dropTlb (s : State) (c : Nat) (w : TlbEntry → Bool) : TlbOnly s (s.dropTlb c w) := by
  refine ⟨⟨_, _, _, _, _, _, _, _, rfl⟩, fun k => ?_⟩
  have h := keyGet_map Tile.idle s.tiles (fun n t => if clusterOf n = c then
    t.tlbs (t.itlb.filter (fun e => !w e)) (t.dtlb.filter (fun e => !w e)) else t) k (by split <;> rfl)
  have h' : (s.dropTlb c w).tile k = (if clusterOf k = c then
      (s.tile k).tlbs ((s.tile k).itlb.filter (fun e => !w e)) ((s.tile k).dtlb.filter (fun e => !w e)) else s.tile k) := by
    refine Eq.trans ?_ h
    unfold State.dropTlb State.tile
    congr 1
    apply List.map_congr_left
    intro e _
    split <;> rfl
  rw [h']
  split
  · exact ⟨_, _, rfl⟩
  · exact ⟨_, _, rfl⟩
theorem tlbOnly_mapTlb (s : State) (f : TlbEntry → TlbEntry) : TlbOnly s (s.mapTlb f) := by
  refine ⟨⟨_, _, _, _, _, _, _, _, rfl⟩, fun k => ⟨((s.tile k).itlb).map f, ((s.tile k).dtlb).map f, ?_⟩⟩
  exact keyGet_map Tile.idle s.tiles (fun _ t => { t with itlb := t.itlb.map f, dtlb := t.dtlb.map f }) k rfl
theorem tlbOnly_ctl (s : State) (l : List (Nat × List TlbEntry)) : TlbOnly s { s with clusterTlbs := l } :=
  ⟨⟨_, _, _, _, _, _, _, _, rfl⟩, fun _ => ⟨_, _, rfl⟩⟩
theorem tlbOnly_modTile (s : State) (k : Nat) (f : Tile → Tile) (hf : ∀ t, ∃ i d, f t = t.tlbs i d) :
    TlbOnly s (s.modTile k f) := by
  refine ⟨⟨_, _, _, _, _, _, _, _, rfl⟩, fun j => ?_⟩
  by_cases h : j = k
  · subst h; rw [State.tile_modTile]; exact hf _
  · unfold State.modTile; rw [State.tile_setTile_other _ _ h]; exact ⟨_, _, rfl⟩
theorem tlbOnly_corePut (s : State) (k : Nat) (i : Bool) (e : TlbEntry) : TlbOnly s (s.corePut k i e) := by
  unfold State.corePut
  refine (tlbOnly_fresh s).trans (tlbOnly_modTile _ _ _ (fun t => ?_))
  split <;> exact ⟨_, _, rfl⟩
theorem tlbOnly_clusterPut (s : State) (c : Nat) (e : TlbEntry) : TlbOnly s (s.clusterPut c e) := by
  unfold State.clusterPut
  refine (tlbOnly_fresh s).trans ?_
  dsimp only
  split
  · exact tlbOnly_ctl ..
  · split
    · exact tlbOnly_ctl ..
    · exact (tlbOnly_dropTlb ..).trans (tlbOnly_ctl ..)
theorem tlbOnly_tlbLookup (s : State) (k : Nat) (i : Bool) (p asid va : Nat) : TlbOnly s (s.tlbLookup k i p asid va).2 := by
  unfold State.tlbLookup
  dsimp only
  split
  · exact TlbOnly.refl s
  · split
    · exact tlbOnly_corePut ..
    · exact TlbOnly.refl s
    · exact tlbOnly_dropTlb ..
  · exact tlbOnly_dropTlb ..
theorem tlbOnly_walkFill {s t : State} {k : Nat} {i : Bool} {p asid va need : Nat} {e : TlbEntry}
    (h : s.walkFill k i p asid va need = .ok (e, t)) : TlbOnly s t := by
  unfold State.walkFill at h
  split at h
  · cases h
  · cases h
    exact ((tlbOnly_setPte ..).trans (tlbOnly_clusterPut ..)).trans (tlbOnly_corePut ..)
theorem tlbOnly_setDirty {s t : State} {e e' : TlbEntry} (h : s.setDirty e = some (e', t)) : TlbOnly s t := by
  unfold State.setDirty at h
  dsimp only at h
  split at h
  · cases h; exact (tlbOnly_setPte ..).trans (tlbOnly_mapTlb ..)
  · cases h

theorem tlbOnly_fillTlb {s t : State} {k j : Nat} {i re : Bool} {va need : Nat} {e : TlbEntry}
    (h : s.fillTlb k j i va need re = .ok (e, t)) : TlbOnly s t := by
  unfold State.fillTlb at h
  split at h
  · cases h
  · next hf => cases h; exact tlbOnly_walkFill hf
theorem tlbOnly_dirtied {s t : State} {k j : Nat} {i : Bool} {va need : Nat} {e : TlbEntry} {p : Phys}
    (h : s.dirtied k j i va need e = .ok (p, t)) : TlbOnly s t := by
  unfold State.dirtied at h
  split at h
  · cases h; exact TlbOnly.refl s
  · split at h
    · next hd => cases h; exact tlbOnly_setDirty hd
    · split at h
      · cases h
      · next hf =>
        have hu := (tlbOnly_dropTlb s _ _).trans (tlbOnly_fillTlb hf)
        split at h
        · next hd => cases h; exact hu.trans (tlbOnly_setDirty hd)
        · cases h
/-- Translation changes nothing but tables and TLBs. -/
theorem tlbOnly_tableTranslate {s t : State} {k : Nat} {i : Bool} {va need : Nat} {p : Phys}
    (h : s.tableTranslate k i va need = .ok (p, t)) : TlbOnly s t := by
  unfold State.tableTranslate at h
  dsimp only at h
  have hl := tlbOnly_tlbLookup s (s.tlbCore k i va) i (s.partNo k) (s.tile k).asid va
  generalize s.tlbLookup (s.tlbCore k i va) i (s.partNo k) (s.tile k).asid va = r at h hl
  obtain ⟨hit, u⟩ := r
  dsimp only at h hl
  split at h
  · cases h
  · next e v hr =>
    have huv : TlbOnly s v := by
      split at hr
      · exact hl.trans (tlbOnly_fillTlb hr)
      · split at hr
        · cases hr; exact hl
        · exact (hl.trans (tlbOnly_dropTlb ..)).trans (tlbOnly_fillTlb hr)
    split at h
    · cases h
    · next hd =>
      split at h
      · cases h
      · cases h; exact huv.trans (tlbOnly_dirtied hd)
theorem tlbOnly_translateAt {s t : State} {k : Nat} {i : Bool} {va need : Nat} {p : Phys}
    (h : s.translateAt k i va need = .ok (p, t)) : TlbOnly s t := by
  unfold State.translateAt at h
  split at h
  · split at h
    · cases h
    · cases h; exact TlbOnly.refl s
  · cases h
  · exact tlbOnly_tableTranslate h

theorem TlbOnly.cur {s t : State} (h : TlbOnly s t) : t.cur = s.cur := by obtain ⟨⟨_, _, _, _, _, _, _, _, rfl⟩, -⟩ := h; rfl
theorem TlbOnly.seqLost {s t : State} (h : TlbOnly s t) : t.seqLost = s.seqLost := by obtain ⟨⟨_, _, _, _, _, _, _, _, rfl⟩, -⟩ := h; rfl
theorem TlbOnly.here {s t : State} (h : TlbOnly s t) : ∃ i d, t.here = s.here.tlbs i d := by
  unfold State.here; rw [h.cur]; exact h.tiles s.cur

/-! ### Checked accesses -/

/-- EA of ready registers. -/
theorem ea_ready {s : State} {m : Mem} (u lg : Nat) (h : Ready s (Mem.reads m)) : ea u lg m s = .ok (s.here.ea u lg m) s := by
  cases m with
  | offset rb imm => simp [ea, Tile.ea, readW_ready (h.unbound (n := rb) (by simp [Mem.reads, wr]))]
  | index rb wi sc =>
    simp [ea, Tile.ea, readW_ready (h.unbound (n := rb) (by simp [Mem.reads, wr])),
      readN_ready (h.unbound (n := wi) (by simp [Mem.reads, wr]))]
  | post rb imm => simp [ea, Tile.ea, readW_ready (h.unbound (n := rb) (by simp [Mem.reads, wr]))]
  | modulo rb imm mi => simp [ea, Tile.ea, readW_ready (h.unbound (n := rb) (by simp [Mem.reads, wr]))]

/-- The base update of ready registers. -/
theorem updateBase_ready {s : State} {m : Mem} (e : Ea) (h : s.here.bound (Mem.rb m) = none) :
    ∃ t, updateBase m e s = .ok ⟨⟩ t ∧ Upd s t (·.based m e) := by
  obtain ⟨c, a, n⟩ := e
  cases n with
  | none => exact ⟨s, rfl, .inl ⟨rfl, rfl⟩⟩
  | some v => exact writeW_ready v h

/-- The checks of R215 pass. -/
theorem checkCap_grants {c : Reg} {a n perms align : Nat} (h : Grants c a n perms align) (fld src : Nat) (ak : Access)
    (lane : Nat) (s : State) : checkCap fld src c a n perms align ak lane s = .ok ⟨⟩ s := by
  obtain ⟨h1, h2, h3, h4, h5, h6, h7⟩ := h
  have e2 : decide (c.otype = 0) = true := by simp [h2]
  have e4 : decide ((capBounds c).1 ≤ (a : Int) ∧ ((a + n : Nat) : Int) ≤ (capBounds c).2) = true := by simp [h4]; omega
  have e6 : decide (a % align = 0) = true := by simp [h6]
  have e7 : decide (a / 2 ^ 56 = 0) = true := decide_eq_true h7
  unfold checkCap
  simp only [op_bind, op_require h1, op_require e2, op_require h3, op_require e4, op_require e6, op_require e7]

theorem consume_readable {s : State} {key n : Nat} {repl : Bool} (ak : Access) (a : Nat)
    (he : s.engineHoldsKey key n (decide (ak = .rmw)) = false) (hm : s.mend s.cur (dieOf s.cur) key n repl = s)
    (hb : s.unreadable s.cur key n repl = false) : consume key n ak a repl s = .ok ⟨⟩ s := by
  unfold consume engineOver
  simp [he, hm, hb]
@[simp] theorem State.mend_single (s : State) (k c key n : Nat) : s.mend k c key n false = s := by simp [State.mend]
theorem consume_good {s : State} {key n : Nat} (ak : Access) (a : Nat)
    (he : s.engineHoldsKey key n (decide (ak = .rmw)) = false) (hb : s.isBad key n = false) :
    consume key n ak a false s = .ok ⟨⟩ s :=
  consume_readable ak a he (s.mend_single ..) (by simp [State.unreadable, hb])

/-- Translation of an address that translates. -/
theorem translate_ok {s t : State} {inst : Bool} {va need : Nat} {p : Phys} (h : s.translateAt s.cur inst va need = .ok (p, t))
    (ak : Access) (elem : Nat) : translate inst va need ak elem s = .ok p t := by
  unfold translate
  simp [h]

/-- A range that can be read. -/
theorem readable_ok {s : State} {p : Phys} {n : Nat} (h : Readable s p n)
    (ho : p.repl = true → s.undrained s.cur (PStore.over p.key n) = false) (ak : Access) (hk : ak ≠ .rmw) (a : Nat) :
    readable p n ak a s = .ok ⟨⟩ s := by
  obtain ⟨h1, h2, h3, h4, h5⟩ := h
  have hc := consume_readable (s := s) (repl := p.repl) ak a (by simpa [hk] using h3) h4 h5
  unfold readable performOver
  cases hr : p.repl <;> simp_all

theorem Loads.load {s t : State} {a n : Nat} {eng : Bool} {b : List Byte} {g : Bool} (h : Loads s a n eng t b g)
    (fld src : Nat) (ak : Access) (hk : ak ≠ .rmw) (elem : Nat) : loadAt fld src a n ak eng elem s = .ok (b, g) t := by
  unfold loadAt
  rcases h with ⟨w, off, hl, he, hb, rfl, rfl, rfl⟩ | ⟨off, hl, rfl, rfl, rfl⟩ | ⟨p, hl, hn, ht, ho, hr, rfl, rfl⟩
  · rw [hl]; simp [consume_good ak a (by simpa [hk] using he) hb]
  · rw [hl]; simp
  · have hc := (tlbOnly_translateAt ht).cur
    have hmin : min n (65536 - a % 65536) = n := by omega
    have ht' := translate_ok ht ak elem
    have hd := readable_ok hr (by rwa [hc]) ak hk a
    rcases hl with hl | hl <;> rw [hl] <;>
      simp [engNeed] at ht' <;> simp [ht', hc, hmin, hd, State.here]

theorem consumePart_good {s : State} {key n : Nat} {repl : Bool} (ak : Access) (a : Nat) (he : s.engineHoldsKey key n true = false)
    (hm : s.mend s.cur 56 key n repl = s) (hb : s.badPartial key n = false) : consumePart key n ak a repl s = .ok ⟨⟩ s := by
  unfold consumePart engineOver
  simp [he, hm, hb]
@[simp] theorem State.noted_cur (s : State) (key n : Nat) : (s.noted key n).cur = s.cur := by unfold State.noted; split <;> rfl
@[simp] theorem noteStore_ok (s : State) (key n : Nat) : noteStore key n s = .ok ⟨⟩ (s.noted key n) := rfl

theorem Stores.store {s t : State} {a : Nat} {d : List Byte} {gen : Option Nat} {want : Bool} (h : Stores s a d gen want t)
    (fld src : Nat) (ak : Access) (hard : Bool) (hh : hard = true → ∀ off, locate a d.length ≠ .info off) (elem : Nat) :
    storeAt fld src a d ak gen.isSome hard want elem gen s = .ok ⟨⟩ t := by
  unfold storeAt
  rcases h with ⟨w, off, hl, he, hb, rfl⟩ | ⟨off, hl, rfl⟩ | ⟨p, u, hl, ht, he, hm, hb, rfl⟩
  · simp only [hl]; simp [consumePart_good ak a he (s.mend_single ..) hb]
  · simp only [hl]
    cases hard
    · simp
    · exact absurd hl (hh rfl off)
  · have hc := (tlbOnly_translateAt ht).cur
    have ht' := translate_ok ht ak elem
    have hp := consumePart_good ak a he (by rw [hc]; exact hm) hb
    rcases hl with hl | hl <;> simp only [hl] <;>
      simp [engNeed] at ht' <;> simp [ht', hc, hp]

/-- What a load leaves of the state: tables and TLBs alone may differ. -/
theorem Loads.tlbOnly {s t : State} {a n : Nat} {eng : Bool} {b : List Byte} {g : Bool} (h : Loads s a n eng t b g) :
    TlbOnly s t := by
  rcases h with ⟨w, off, hl, he, hb, rfl, rfl, rfl⟩ | ⟨off, hl, rfl, rfl, rfl⟩ | ⟨p, hl, hn, ht, -⟩
  · exact TlbOnly.refl _
  · exact TlbOnly.refl _
  · exact tlbOnly_translateAt ht

end Sys2Proof.Machine
end

