-- ==== Sys2Proof/Laws/Reads.lean ====
section
/-! SUPPORT. Operations that leave the state as it is wherever they succeed: reading a tensor map (R42, R376), the checks of a
descriptor (R284), and what reads a lattice region (R139, R146, R273, R292). -/

namespace Sys2Proof.Machine

/-- An operation that leaves the state as it is wherever it succeeds. -/
def Still {ε σ α : Type} (x : EStateM ε σ α) : Prop := ∀ s a t, x s = .ok a t → t = s

section Steps
variable {ε σ α β : Type}

theorem Still.pure (a : α) : Still (Pure.pure a : EStateM ε σ α) := fun _ _ _ h => by injection h with _ h; exact h.symm
theorem Still.bind {x : EStateM ε σ α} {f : α → EStateM ε σ β} (hx : Still x) (hf : ∀ a, Still (f a)) : Still (x >>= f) := by
  intro s b t h
  change EStateM.bind x f s = _ at h
  unfold EStateM.bind at h
  cases e : x s with
  | error a u => rw [e] at h; cases h
  | ok a u => rw [e] at h; rw [hf a u b t h, hx s a u e]
theorem Still.get : Still (MonadState.get : EStateM ε σ σ) := fun _ _ _ h => by injection h with _ h; exact h.symm
theorem Still.throw (e : ε) : Still (MonadExcept.throw e : EStateM ε σ α) := fun _ _ _ h => by cases h
theorem Still.ite {c : Prop} [Decidable c] {x y : EStateM ε σ α} (hx : Still x) (hy : Still y) : Still (if c then x else y) := by
  split <;> assumption
theorem Still.mapM {f : α → EStateM ε σ β} (hf : ∀ a, Still (f a)) (l : List α) : Still (l.mapM f) := by
  induction l with
  | nil => exact Still.pure _
  | cons a l ih => rw [List.mapM_cons]; exact Still.bind (hf a) fun _ => Still.bind ih fun _ => Still.pure _

end Steps

/-! ### Operations of a core -/

theorem Still.require (b : Bool) (e : Op Unit) (he : Still e) : Still (require b e) := by cases b <;> first | exact he | exact Still.pure _
theorem Still.fieldOk (reg lo : Nat) (b : Bool) : Still (fieldOk reg lo b) := Still.require _ _ (Still.throw _)
theorem Still.zeroField (reg x lo hi : Nat) : Still (zeroField reg x lo hi) := Still.require _ _ (Still.throw _)
theorem Still.engineConsume (key n a : Nat) : Still (engineConsume key n a) := by
  unfold Machine.engineConsume engineOver
  refine Still.bind (Still.bind Still.get fun s => Still.ite (Still.throw _) (Still.pure _)) fun _ s b t h => ?_
  rw [op_bind, op_get] at h
  simp only [State.mend_single] at h
  split at h
  · cases h
  · injection h with _ h; exact h.symm
/-- A map that can be read leaves the state as it is. -/
theorem readMap_still (k : Nat) : Still (readMap k) := by
  unfold readMap
  refine Still.bind Still.get fun s => Still.bind (Still.engineConsume _ _ _) fun _ => ?_
  dsimp only
  repeat first
    | exact Still.fieldOk _ _ _
    | exact Still.pure _
    | refine Still.bind (Still.fieldOk _ _ _) fun _ => ?_
    | refine Still.bind (Still.bind (Still.fieldOk _ _ _) fun _ => Still.fieldOk _ _ _) fun _ => ?_
theorem Still.destCore (reg lo name : Nat) : Still (destCore reg lo name) := by
  unfold Machine.destCore
  refine Still.bind Still.get fun s => ?_
  split
  · exact Still.throw _
  · exact Still.bind (Still.require _ _ (Still.throw _)) fun _ => Still.bind (Still.require _ _ (Still.throw _)) fun _ => Still.pure _
/-- The checks of a descriptor leave the state as it is. -/
theorem descChecks_still (w : Fin 64) (b : List Byte) (d : Desc) : Still (descChecks w b d) := by
  unfold descChecks
  refine Still.bind Still.get fun s => ?_
  dsimp only
  split
  all_goals
    repeat first
      | exact Still.zeroField _ _ _ _
      | refine Still.bind (Still.bind (Still.destCore _ _ _) fun _ => Still.pure _) fun _ => ?_
      | refine Still.bind (Still.fieldOk _ _ _) fun _ => ?_
      | refine Still.bind (Still.zeroField _ _ _ _) fun _ => ?_

/-! ### Lattice regions -/

theorem Still.region : Still region := Still.bind Still.get fun _ => Still.pure _
theorem Still.sound (b : Bool) : Still (sound b) := by cases b <;> first | exact Still.throw _ | exact Still.pure _
theorem Still.latBytes (key n : Nat) : Still (latBytes key n) := Still.bind Still.get fun _ => Still.ite (Still.throw _) (Still.pure _)
theorem Still.readNode (n : Nat) : Still (readNode n) :=
  Still.bind Still.region fun _ => Still.bind (Still.sound _) fun _ => Still.bind (Still.latBytes _ _) fun _ =>
    Still.bind (Still.sound _) fun _ => Still.bind (Still.sound _) fun _ => Still.pure _
theorem Still.readKind (k n : Nat) : Still (readKind k n) :=
  Still.bind (Still.readNode _) fun _ => Still.bind (Still.sound _) fun _ => Still.pure _
theorem Still.readCell (j : Nat) : Still (readCell j) := Still.bind Still.region fun _ => Still.latBytes _ _
theorem Still.searchFrom (k : Nat) : ∀ fuel n path, Still (searchFrom k fuel n path)
  | 0, _, _ => Still.throw _
  | fuel + 1, _, _ => Still.bind (Still.readNode _) fun _ =>
      Still.ite (Still.pure _) (Still.ite (Still.searchFrom k fuel _ _) (Still.throw _))
theorem Still.search (k : Nat) : Still (search k) := Still.bind Still.region fun _ => Still.searchFrom _ _ _ _
theorem Still.lookup (k : Nat) : Still (lookup k) :=
  Still.bind Still.region fun _ => Still.ite (Still.pure _) (Still.bind (Still.search _) fun _ => Still.pure _)
/-- A load of a key changes nothing (R139). -/
theorem latLoad_still (k : Nat) : Still (latLoad k) := by
  refine Still.bind Still.region fun _ => Still.bind (Still.lookup _) fun x => ?_
  cases x
  · exact Still.pure _
  · exact Still.readCell _
theorem Still.scanLeaves (above : Nat → Bool) : ∀ fuel x, Still (scanLeaves above fuel x)
  | 0, _ => Still.throw _
  | fuel + 1, x => by
    unfold Machine.scanLeaves
    split
    · exact Still.pure _
    · exact Still.ite (Still.pure _) (Still.bind (Still.readKind _ _) fun _ => Still.scanLeaves above fuel _)
/-- A scan changes nothing (R146). -/
theorem latScan_still (started : Bool) (cursor : Nat) : Still (latScan started cursor) :=
  Still.bind Still.region fun _ => Still.ite (Still.pure _) (Still.bind (Still.search _) fun _ => Still.scanLeaves _ _ _)
theorem Still.checkBox (lo ext : List Nat) : Still (checkBox lo ext) := by
  refine Still.bind Still.region fun _ => ?_
  split
  · exact Still.throw _
  · exact Still.pure _
/-- Reading a box changes nothing (R292). -/
theorem boxElems_still (lo ext : List Nat) : Still (boxElems lo ext) :=
  Still.bind Still.region fun _ => Still.bind (Still.mapM (fun _ => Still.mapM (fun _ =>
    Still.bind (latLoad_still _) fun _ => Still.pure _) _) _) fun _ => Still.pure _
/-- Reading a window of LSPMM changes nothing (R273). -/
theorem lspmmCells_still (row0 k0 : Nat) : Still (lspmmCells row0 k0) := by
  refine Still.bind Still.region fun _ => Still.bind (Still.checkBox _ _) fun _ =>
    Still.bind (Still.mapM (fun _ => Still.mapM (fun _ => Still.bind (Still.lookup _) fun x => ?_) _) _) fun _ => Still.pure _
  cases x
  · exact Still.pure _
  · exact Still.bind (Still.readCell _) fun _ => Still.pure _

end Sys2Proof.Machine
end

