-- ==== Sys2Proof/Tests/Slice0.lean ====
section
/-! SUPPORT. Tests: ill-formed terms that WellFormed refuses, words of the spec's encodings, states that meet the
hypotheses of the obligations, and results of the spec's examples. -/

open Sys2Proof Sys2Proof.Machine

namespace Sys2Proof.Tests

set_option maxRecDepth 100000
set_option Elab.async false

/-! ### Ill-formed instructions (R197, R201, R277, R367) -/

theorem test_wellFormed_loop_short : Instr.wellFormed (.loop 6 1 false) = false := by decide
theorem test_wellFormed_vcvtDec_mx : Instr.wellFormed (.vcvtDec 1 2 0 3 false) = false := by decide
theorem test_wellFormed_vcvtDec_raw : Instr.wellFormed (.vcvtDec 1 2 0 15 false) = false := by decide
theorem test_wellFormed_vcvtDecMx_plain : Instr.wellFormed (.vcvtDecMx 1 2 3 0 1 false) = false := by decide
theorem test_wellFormed_vcvtEnc_mx : Instr.wellFormed (.vcvtEnc 1 2 false 0 8 false) = false := by decide
theorem test_wellFormed_vcvtEncMx_plain : Instr.wellFormed (.vcvtEncMx 1 2 3 0 14 false) = false := by decide
theorem test_wellFormed_vdot_float_unsigned : Instr.wellFormed (.vdot .f 1 2 3 0 true false false) = false := by decide
theorem test_wellFormed_bar_scope : Instr.wellFormed (.bar 5 6 3 .task .add true) = false := by decide
theorem test_wellFormed_barw_scope : Instr.wellFormed (.barw 5 6 3 .system .add true) = false := by decide
theorem test_wellFormed_sstep_scope : Instr.wellFormed (.sstep 5 6 3 .system .add true) = false := by decide
theorem test_wellFormed_dsteal_scope : Instr.wellFormed (.dsteal 5 .grid false) = false := by decide
theorem test_wellFormed_cred_scope : Instr.wellFormed (.cred 5 .task .fast false) = false := by decide
theorem test_wellFormed_srd_number : Instr.wellFormed (.srd 5 3 false) = false := by decide
theorem test_wellFormed_swr_number : Instr.wellFormed (.swr 5 0x105 false) = false := by decide
theorem test_wellFormed_cMov_nop : Instr.wellFormed (.cMov 0 0 false) = false := by decide

/-! ### Words of the encoding tables, and of the spec's examples (R191, R196 to R201, R277) -/

theorem test_words_add_to_max :
    ([
      (0x00E72A03, .add 21 14 7 false),
      (0x09282E07, .sub 23 16 9 true),
      (0x11693203, .and 25 18 11 false),
      (0x19AA3607, .or 27 20 13 true),
      (0x21EB3A03, .xor 29 22 15 false),
      (0x2A2C3E07, .andn 31 24 17 true),
      (0x326D4203, .shl 33 26 19 false),
      (0x3AAE4607, .shr 35 28 21 true),
      (0x42EF4A03, .shra 37 30 23 false),
      (0x4B304E07, .rot 39 32 25 true),
      (0x53715203, .min 41 34 27 false),
      (0x5BB25607, .max 43 36 29 true)] : List (Nat × Instr)).all (fun x => decide (decodeTableWord 32 x.1 = some x.2)) = true := by decide
theorem test_words_clz_to_li :
    ([
      (0x600FCC07, .clz 38 31 true),
      (0x6810D003, .popc 40 33 false),
      (0x7011D407, .mov 42 35 true),
      (0x04B6660F, .mul 51 44 37 true),
      (0x0CF76A0B, .mulh 53 46 39 false),
      (0x15386E0F, .mulhU 55 48 41 true),
      (0x1D79720B, .div 57 50 43 false),
      (0x25BA760F, .divU 59 52 45 true),
      (0x2DFB7A0B, .rem 61 54 47 false),
      (0x363C7E0F, .remU 63 56 49 true),
      (0x067D0213, .addi 1 58 51 false),
      (0x001AF81B, .li 60 53 false)] : List (Nat × Instr)).all (fun x => decide (decodeTableWord 32 x.1 = some x.2)) = true := by decide
theorem test_words_lih_to_pnot :
    ([
      (0x001BFC27, .lih 62 55 true),
      (0x07200E2F, .cmpEq 7 0 57 true),
      (0x0761122B, .cmpNe 1 2 59 false),
      (0x07A2262F, .cmpLt 3 4 61 true),
      (0x07E33A2B, .cmpGe 5 6 63 false),
      (0x00244E2F, .cmpLtu 7 8 1 true),
      (0x0065522B, .cmpGeu 1 10 3 false),
      (0x2989B433, .sel 26 19 12 5 false),
      (0x00E30A3B, .pand 5 6 7 false),
      (0x08200E3F, .por 7 0 1 true),
      (0x1061023B, .pxor 1 2 3 false),
      (0x1802883B, .pnot 4 5 false)] : List (Nat × Instr)).all (fun x => decide (decodeTableWord 32 x.1 = some x.2)) = true := by decide
theorem test_words_csetb_to_b :
    ([
      (0x01EB3A43, .csetb 29 22 15 false),
      (0x0808B043, .cgetb 24 17 false),
      (0x1009B447, .cgetl 26 19 true),
      (0x1AAE4647, .candp 35 28 21 true),
      (0x22EF4A43, .cseal 37 30 23 false),
      (0x2B304E47, .cunseal 39 32 25 true),
      (0x33715243, .cadd 41 34 27 false),
      (0x380EC843, .ctag 36 29 false),
      (0x400FCC47, .cclr 38 31 true),
      (0x4C345E47, .ceq 47 40 33 true),
      (0x54756243, .cderive 49 42 35 false),
      (0x000CB64F, .b 3 true 101 true)] : List (Nat × Instr)).all (fun x => decide (decodeTableWord 32 x.1 = some x.2)) = true := by decide
theorem test_words_j_to_ldSb :
    ([
      (0x0000CE53, .j 103 false),
      (0x0000D25F, .call 105 true),
      (0x00158063, .jr 43 false),
      (0x08168067, .callr 45 true),
      (0x10000067, .ret true),
      (0x0E3C006B, .loop 56 113 false),
      (0x00000077, .nop true),
      (0x081A8077, .exit 53 true),
      (0x10000077, .wfe true),
      (0x18000073, .lbreak false),
      (0xF7282E83, .ld 23 2 (.index 16 59 true) false),
      (0xFA05A48B, .ldSb 18 (.offset 11 125) false)] : List (Nat × Instr)).all (fun x => decide (decodeTableWord 32 x.1 = some x.2)) = true := by decide
theorem test_words_ldSh_to_ldAqB :
    ([
      (0xFEC6A88F, .ldSh 20 (.post 13 127) true),
      (0x0307AC8B, .ldSw 22 (.offset 15 1) false),
      (0x07C8B08F, .ldc 24 (.post 17 3) true),
      (0x0A6D4297, .st 33 0 (.modulo 26 5 0) true),
      (0x0E4AB89F, .stc 28 (.post 21 7) true),
      (0x128BBC9B, .ldf 30 (.offset 23 9) false),
      (0x174CC09F, .stf 32 (.post 25 11) true),
      (0x1B8D809F, .pref (.offset 27 13) true),
      (0x32CEC8A7, .repCopy 36 29 22 3 true),
      (0x1B0FCCA3, .repFill 38 31 24 1 false),
      (0x180042AB, .fence 33 false .grid false),
      (0x102E46AF, .ldAqB 35 28 .band true)] : List (Nat × Instr)).all (fun x => decide (decodeTableWord 32 x.1 = some x.2)) = true := by decide
theorem test_words_ldAqH_to_amoAnd :
    ([
      (0x184F4AAB, .ldAqH 37 30 .grid false),
      (0x08704EAF, .ldAqW 39 32 .team true),
      (0x189152AB, .ldAq 41 34 .grid false),
      (0x08B256AF, .stRlB 43 36 .team true),
      (0x10D35AAB, .stRlH 45 38 .band false),
      (0x08F45EAF, .stRlW 47 40 .team true),
      (0x191562AB, .stRl 49 42 .grid false),
      (0x0212D8AB, .sbind 44 37 false),
      (0x02204EAB, .sunbind 39 false),
      (0x0240E0AB, .sstat 48 1 false),
      (0xD2000EB3, .amoAdd 7 0 true .band .acqRel false),
      (0x602112B7, .amoAnd 9 2 false .system .acquire true)] : List (Nat × Instr)).all (fun x => decide (decodeTableWord 32 x.1 = some x.2)) = true := by decide
theorem test_words_amoOr_to_vmin :
    ([
      (0xC24216B3, .amoOr 11 4 true .task .acqRel false),
      (0x40631AB7, .amoXor 13 6 false .task .acquire true),
      (0xD2841EB3, .amoMin 15 8 true .band .acqRel false),
      (0x60A522B7, .amoMax 17 10 false .system .acquire true),
      (0xE2C626B3, .amoMinu 19 12 true .system .acqRel false),
      (0x40E72AB7, .amoMaxu 21 14 false .task .acquire true),
      (0xD3082EB3, .amoSwap 23 16 true .band .acqRel false),
      (0x616932BF, .cas 25 18 11 .system .acquire true),
      (0x0E66D2C3, .vadd .i 20 13 6 7 false),
      (0x1287D8C7, .vsub .f 22 15 8 1 true),
      (0x26A8E2C3, .vmul .i 24 17 10 3 false),
      (0x3AC9E8C7, .vmin .f 26 19 12 5 true)] : List (Nat × Instr)).all (fun x => decide (decodeTableWord 32 x.1 = some x.2)) = true := by decide
theorem test_words_vmax_to_vfma :
    ([
      (0x4EEAF2C3, .vmax .i 28 21 14 7 false),
      (0x52085EC3, .vabs .i 23 16 1 false),
      (0x660964C7, .vneg .f 25 18 3 true),
      (0x7B4D8AC3, .vand 2 27 20 5 false),
      (0x8F6E92C7, .vor 4 29 22 7 true),
      (0x938F9AC3, .vxor 6 31 24 1 false),
      (0xA7A0A2C7, .vshl 8 1 26 3 true),
      (0xBBC1AAC3, .vshr 10 3 28 5 false),
      (0xCFE2B2C7, .vshra 12 5 30 7 true),
      (0xD203BAC3, .vadds 14 7 0 1 false),
      (0xE624C2C7, .vsubs 16 9 2 3 true),
      (0x0A45C8CF, .vfma .f 18 11 4 5 true)] : List (Nat × Instr)).all (fun x => decide (decodeTableWord 32 x.1 = some x.2)) = true := by decide
theorem test_words_vfnma_to_vst :
    ([
      (0x1E66D2CB, .vfnma .i 20 13 6 7 false),
      (0x028798D7, .vcmpEq .f 6 15 8 1 true),
      (0x16A882D3, .vcmpNe .i 0 17 10 3 false),
      (0x2AC988D7, .vcmpLt .f 2 19 12 5 true),
      (0x3EEA92D3, .vcmpLe .i 4 21 14 7 false),
      (0x030BF8DB, .vsel 30 23 16 1 false),
      (0xB40C80E7, .vcvtDec 0 25 2 11 true),
      (0x39B124E7, .vcvtDecMx 9 2 27 4 3 true),
      (0xCC122EE3, .vcvtEnc 11 4 true 6 12 false),
      (0x71F336E7, .vcvtEncMx 13 6 31 0 7 true),
      (0x0C40A0EF, .vld 8 1 2 3 true),
      (0x3401A8EB, .vst 10 3 0 5 false)] : List (Nat × Instr)).all (fun x => decide (decodeTableWord 32 x.1 = some x.2)) = true := by decide
theorem test_words_vgather_to_vscanMin :
    ([
      (0x5FC2B0EF, .vgather 12 5 30 7 true),
      (0x6403B8EB, .vscatter 14 7 0 1 false),
      (0x0624C0F7, .vshuf 16 9 2 3 true),
      (0x1A45C8F7, .vbcast 18 11 4 5 true),
      (0x001F8CFF, .vsetvl 6 63 true),
      (0x080090FB, .vsplat 8 1 false),
      (0x106522FB, .vextr 17 10 3 false),
      (0x0A064F03, .vredAdd .i 19 12 5 false),
      (0x1E075507, .vredMin .f 21 14 7 true),
      (0x22085F03, .vredMax .i 23 16 1 false),
      (0x46096507, .vscanAdd .f 25 18 3 true),
      (0x5A0A6F03, .vscanMin .i 27 20 5 false)] : List (Nat × Instr)).all (fun x => decide (decodeTableWord 32 x.1 = some x.2)) = true := by decide
theorem test_words_vscanMax_to_qstat :
    ([
      (0x6E0B7507, .vscanMax .f 29 22 7 true),
      (0x020C7D0F, .vexp2 31 24 1 true),
      (0x160D050B, .vrcp 1 26 3 false),
      (0x2A0E0D0F, .vrsqrt 3 28 5 true),
      (0x2AC9EB13, .vdot .i 26 19 12 5 false true false),
      (0x02001D1F, .vcompress 7 0 1 true),
      (0x1601251B, .vexpand 9 2 3 false),
      (0x090B2347, .mma 1 2 11 36 false true),
      (0x199B474B, .bmm 3 20 13 38 true false),
      (0x2A1F6B4F, .bmmR 5 22 15 40 false true),
      (0x08C0A157, .qcfg 10 35 true),
      (0x1940C153, .qstat 12 37 false)] : List (Nat × Instr)).all (fun x => decide (decodeTableWord 32 x.1 = some x.2)) = true := by decide
theorem test_words_twait_to_speg :
    ([
      (0x29C0E157, .twait 14 39 true),
      (0x3A430153, .tstate 48 41 false),
      (0x4AC00557, .acfg 2 43 true),
      (0x50000B57, .azero 5 true),
      (0x60007D57, .amov 6 7 true),
      (0x1FC06B5F, .rowsum 5 6 63 true false true),
      (0x4E84FD67, .drain 6 15 .rne true 58 true true),
      (0x1F003563, .drainq 2 3 60 false false),
      (0x6F843567, .drainr 2 3 .rne true 62 true true),
      (0x0E400F6F, .spush 7 0 57 true),
      (0x1EC2916F, .smma 0 9 2 59 true),
      (0x2F40476F, .speg 3 4 61 true)] : List (Nat × Instr)).all (fun x => decide (decodeTableWord 32 x.1 = some x.2)) = true := by decide
theorem test_words_smerge_to_barw :
    ([
      (0x3008D96F, .smerge 4 (.slot 13) true),
      (0x4000116B, .sread 0 1 false),
      (0x00C00577, .smaxr 2 3 true),
      (0x11400973, .expt 4 5 false),
      (0x21C00B73, .rescale 5 false 7 false),
      (0x32400173, .rowdiv 0 9 false),
      (0x02C2917F, .lspmm 0 9 2 11 true),
      (0x0006A9A3, .send 20 13 false),
      (0x002001A7, .hret true),
      (0x0048B1A3, .mbox 24 17 false),
      (0xD0945FAB, .bar 47 40 1 .band .max false),
      (0x49B563AF, .barw 49 42 3 .team .add true)] : List (Nat × Instr)).all (fun x => decide (decodeTableWord 32 x.1 = some x.2)) = true := by decide
theorem test_words_sstep_to_lst :
    ([
      (0xD2D667AB, .sstep 51 44 5 .band .max false),
      (0x000CC1B3, .dpush 32 25 false),
      (0x002037B3, .dpop 27 false),
      (0x00403BB7, .dsplit 29 true),
      (0x10604DB7, .dsteal 38 .band true),
      (0x001081BF, .get 33 true),
      (0x003181BB, .put 35 false),
      (0x0052D9BB, .cwait 44 37 false),
      (0x0013DDC7, .copy 46 39 true),
      (0x503B81C7, .cred 55 .band .canon true),
      (0x0015E5CF, .lld 50 43 true),
      (0x0036E9CB, .lst 52 45 false)] : List (Nat × Instr)).all (fun x => decide (decodeTableWord 32 x.1 = some x.2)) = true := by decide
theorem test_words_ladd_to_join :
    ([
      (0x0057EDCF, .ladd 54 47 true),
      (0x0078F1CB, .lscan 56 49 false),
      (0x0099F5CF, .lcount 58 51 true),
      (0x00BAF9CB, .ldense 60 53 false),
      (0x00DBFDCF, .lgrow 62 55 true),
      (0x001C81D3, .treq 0 57 false),
      (0x003D81D3, .tret 59 false),
      (0x00407BD7, .tstat 61 true),
      (0x001F8DDF, .compose 6 63 true),
      (0x002001DB, .decompose false),
      (0x004195DF, .gang 10 3 true),
      (0x006281DF, .join 5 true)] : List (Nat × Instr)).all (fun x => decide (decodeTableWord 32 x.1 = some x.2)) = true := by decide
theorem test_words_launch_to_meter :
    ([
      (0x00839DDF, .launch 14 7 true),
      (0x0004A1E3, .trap 16 9 false),
      (0x0025A5E7, .eret 18 11 true),
      (0x3041B7E7, .srd 27 0x183 true),
      (0x30683BE3, .swr 29 0x190 false),
      (0x0008B1EB, .tlbiPage 24 17 false),
      (0x400981EB, .tlbiAsid 19 false),
      (0x800001EB, .tlbiGlobal false),
      (0xC00001EF, .tlbiPart true),
      (0x002001EB, .ifence false),
      (0x004D81EB, .tblld 27 false),
      (0x006049EB, .meter 36 false false)] : List (Nat × Instr)).all (fun x => decide (decodeTableWord 32 x.1 = some x.2)) = true := by decide
theorem test_words_cMov_to_cNop :
    ([
      (0x7B04, .cMov 6 15 true),
      (0x0C08, .cAdd 8 1 false),
      (0x1D14, .cSub 10 3 true),
      (0x2E18, .cAnd 12 5 false),
      (0x3F24, .cOr 14 7 true),
      (0x4828, .cXor 0 9 false),
      (0x5934, .cShl 2 11 true),
      (0x6A38, .cShr 4 13 false),
      (0x7840, .cJr 15 false),
      (0x084C, .cCallr 1 true),
      (0x0054, .cRet true),
      (0x0058, .cNop false)] : List (Nat × Instr)).all (fun x => decide (decodeTableWord 16 x.1 = some x.2)) = true := by decide
theorem test_words_cAddi_to_cStc :
    ([
      (0xBF05, .cAddi 14 23 true),
      (0xC809, .cLi 0 25 false),
      (0xDD91, .cB 443 false),
      (0x6A02, .cLd 4 13 false),
      (0x7B0E, .cSt 6 15 true),
      (0x0C12, .cLdW 8 1 false),
      (0x1D1E, .cStW 10 3 true),
      (0x2E22, .cLdPost 12 5 false),
      (0x3F2E, .cStPost 14 7 true),
      (0x4832, .cLdc 0 9 false),
      (0x593E, .cStc 2 11 true)] : List (Nat × Instr)).all (fun x => decide (decodeTableWord 16 x.1 = some x.2)) = true := by decide


/-! ### States to test on -/

/-- A tile with a running task. -/
def task : Tile := { Tile.idle with task := some ⟨0, 0, 0, 0⟩, pc := wholeCap 0x10000, hold := 8, bal := 8, sbal := 8 }
/-- One core of die 0 with a task, in partition 0. -/
def core (k : Nat) (t : Tile) : State :=
  { State.reset with
    tiles := [(k, t)], cur := k, boot := .running, grids := [(0, placedGrid k)]
    parts := [(0, { Partition.reset with live := true, dies := [0], hbms := [0] })] }
/-- A task whose registers hold capabilities and numbers. -/
def with' (l : List (Nat × Reg)) (t : Tile) : Tile := l.foldl (fun (t : Tile) x => t.putW x.1 x.2) t
/-- Capability of the first window of the scratchpad at an offset. -/
def local' (off : Nat) : Reg := wholeCap (Config.localBase + off)
/-- Plain data. -/
def num (n : Nat) : Reg := Reg.plain (BitVec.ofNat 64 n)
/-- A core whose task's registers are given. -/
def regs (l : List (Nat × Reg)) : State := core 10 (with' l task)
/-- Memory with the page tables of a placed program, whose one page is at 0x10000. -/
def paged (l : List (Nat × Reg)) : State :=
  { regs l with mem := (placedMemory [0x17#8, 0x94#8, 0x22#8, 0x00#8]).foldl (fun (m : List Host.Cell) c => Memory.write m c.1 c.2) [] }

/-! ### States and operands that meet the statements' hypotheses -/

theorem witness_IntegerArithmeticResults : Ready (regs []) [wr 63, wr 0, wr 62] ∧ Ready (regs []) [wr 0, wr 63] ∧ Ready (regs []) [wr 0] := by
  unfold Ready; decide
theorem witness_CompactForms : Ready (regs []) [wr (low 15), wr (low 0)] ∧
    (∃ s t b g, s = (regs [(15, local' 393200)]).engineDone ∧ Ready s [wr (low 0), wr (low 15)] ∧
      Grants (s.here.getW 15) (s.here.getW 15).addr 8 Perm.load 8 ∧ Loads s (s.here.getW 15).addr 8 false t b g ∧
      Grants (s.here.getW 15) (s.here.getW 15).addr 16 (Perm.load + Perm.store) 16) := by
  refine ⟨by unfold Ready; decide, regs [(15, local' 393200)], _, _, _, by rfl, by unfold Ready; decide, by unfold Grants; decide,
    Or.inl ⟨0, 393200, by decide, by decide, by decide, rfl, rfl, rfl⟩, by unfold Grants; decide⟩
theorem witness_PredicateResults : Ready (regs []) [wr 0, wr 63, pr 7] ∧ Ready (regs []) [wr 1, wr 2, pr 0, wr 63] ∧ Ready (regs []) [pr 0, pr 7, pr 1] := by
  unfold Ready; decide
theorem witness_CapabilityResults : Ready (regs [(5, local' 0)]) [wr 5, wr 63] ∧ Ready (regs [(5, local' 0)]) [wr 5, wr 0, wr 63] := by
  unfold Ready; decide
theorem witness_DerivedCapabilityTag : Ready (regs [(5, local' 0)]) [wr 5, wr 5, wr 63] := by unfold Ready; decide
theorem witness_SetBoundsResult : Ready (regs [(5, local' 0), (6, num (2 ^ 48))]) [wr 5, wr 6, wr 63] := by unfold Ready; decide
theorem witness_BranchesAndJumps : NotAtEnd (regs []) ∧ NotAtEnd (core 10 { task with loops := [⟨0x10000, 0x10004, 2⟩] }) ∧
    Ready (regs []) [pr 0] ∧ ((regs []).here.rp 0).getLsbD 0 = true ∧ ((regs []).here.rp 7).getLsbD 0 = false ∧
    Ready (regs [(9, wholeCap 0x20000)]) [wr 9] ∧ Target ((regs [(9, wholeCap 0x20000)]).here.getW 9) := by
  unfold NotAtEnd Ready Target; decide
theorem witness_CallsAndReturns_push : ∃ t f, NotAtEnd (regs []) ∧ Pushes (regs []) t (wholeCap 0x10004) f :=
  ⟨_, _, by unfold NotAtEnd; decide, Or.inl ⟨by decide, rfl, rfl⟩⟩
theorem witness_CallsAndReturns_spill : ∃ t f, Pushes (core 10 { task with rets := List.replicate 16 (wholeCap 0), rspill := local' 0 }) t (wholeCap 0x10004) f :=
  ⟨_, _, Or.inr ⟨wholeCap 0, List.replicate 15 (wholeCap 0), rfl, by decide, by unfold Grants; decide, by decide,
    Or.inl ⟨0, 0, by decide, by decide, by decide, rfl⟩, rfl⟩⟩
theorem witness_CallsAndReturns_pop : ∃ t f, Pops (core 10 { task with rets := [wholeCap 4] }) t (wholeCap 4) f ∧ Target (wholeCap 4) :=
  ⟨_, _, Or.inl ⟨rfl, rfl, rfl⟩, by unfold Target; decide⟩
/-- A core with a capability in its scratchpad at RSPILL. -/
def filled : State := (core 10 { task with rspill := local' 0, rscnt := 1 }).writeKey (scratchAt 10 0) (wholeCap 4).bytes true
theorem witness_CallsAndReturns_fill : ∃ t c f, Pops filled t c f ∧ Target c :=
  ⟨_, _, _, Or.inr ⟨rfl, by decide, by unfold Grants; decide, ⟨_, _, Or.inl ⟨0, 0, by decide, by decide, by decide, rfl, rfl, rfl⟩, rfl⟩, rfl⟩,
    by unfold Target; decide⟩
theorem fetches_placed : ∃ t b, Fetches (paged []) 0x10000 t b := ⟨_, _, by unfold Grants; decide, by decide, by decide, _, rfl, ⟨by decide, by decide, by decide, rfl, by decide⟩, rfl⟩

theorem witness_LoopResults : NotAtEnd (paged []) ∧ (paged []).here.loops.length < 4 ∧ Ready (regs [(6, num 1)]) [wr 6] ∧
    ((regs [(6, num 1)]).here.getX 6).toNat % 2 ^ 32 ≠ 0 ∧ ((regs [(6, num (2 ^ 32))]).here.getX 6).toNat % 2 ^ 32 = 0 := by
  unfold NotAtEnd Ready; decide
theorem witness_LoopResults_break : ∃ t b, NotAtEnd { paged [] with tiles := [(10, { task with loops := [⟨0x10000, 0x10008, 1⟩] })] } ∧
    Fetches { paged [] with tiles := [(10, { task with loops := [⟨0x10000, 0x10008, 1⟩] })] } 0x10008 t b :=
  ⟨_, _, by unfold NotAtEnd; decide, by unfold Grants; decide, by decide, by decide, _, rfl, ⟨by decide, by decide, by decide, rfl, by decide⟩, rfl⟩
theorem witness_LoadResults_scratch : ∃ s t b g, s = (regs [(9, local' 393208)]).engineDone ∧ Ready s (Mem.reads (.offset 9 0) ++ [wr 0]) ∧
    ¬ (Mem.updates (.offset 9 0) = true ∧ (0 : Fin 64) = Mem.rb (.offset 9 0)) ∧
    Grants (s.here.ea 8 3 (.offset 9 0)).cap (s.here.ea 8 3 (.offset 9 0)).addr 8 Perm.load 8 ∧
    Loads s (s.here.ea 8 3 (.offset 9 0)).addr 8 false t b g :=
  ⟨regs [(9, local' 393208)], _, _, _, by rfl, by unfold Ready; decide, by decide, by unfold Grants; decide,
    Or.inl ⟨0, 393208, by decide, by decide, by decide, rfl, rfl, rfl⟩⟩
theorem witness_LoadResults_page : ∃ s t b g, s = (paged [(9, wholeCap 0x1FFF8), (10, num 1)]).engineDone ∧ Ready s (Mem.reads (.index 9 10 true) ++ [wr 9]) ∧
    Grants (s.here.ea 4 2 (.index 9 10 true)).cap (s.here.ea 4 2 (.index 9 10 true)).addr 4 Perm.load 4 ∧
    Loads s (s.here.ea 4 2 (.index 9 10 true)).addr 4 false t b g :=
  ⟨paged [(9, wholeCap 0x1FFF8), (10, num 1)], _, _, _, by rfl, by unfold Ready; decide, by unfold Grants; decide,
    Or.inr (Or.inr ⟨_, by decide, by decide, rfl, by decide, ⟨by decide, by decide, by decide, rfl, by decide⟩, rfl, rfl⟩)⟩
theorem witness_LoadResults_update : ∃ s t b g, s = (regs [(9, local' 0)]).engineDone ∧ Ready s (Mem.reads (.modulo 9 8 7) ++ [wr 8]) ∧
    ¬ (Mem.updates (.modulo 9 8 7) = true ∧ (8 : Fin 64) = Mem.rb (.modulo 9 8 7)) ∧
    Grants (s.here.ea 16 4 (.modulo 9 8 7)).cap (s.here.ea 16 4 (.modulo 9 8 7)).addr 16 Perm.load 16 ∧
    Loads s (s.here.ea 16 4 (.modulo 9 8 7)).addr 16 false t b g :=
  ⟨regs [(9, local' 0)], _, _, _, by rfl, by unfold Ready; decide, by decide, by unfold Grants; decide,
    Or.inl ⟨0, 0, by decide, by decide, by decide, rfl, rfl, rfl⟩⟩
theorem witness_StoreResults_scratch : ∃ s t, s = (regs [(9, local' 0), (8, local' 4)]).engineDone ∧ Ready s (wr 8 :: Mem.reads (.post 9 1)) ∧
    Grants (s.here.ea 16 4 (.post 9 1)).cap (s.here.ea 16 4 (.post 9 1)).addr 16 Perm.store 16 ∧
    (s.here.getW 8).tag = true ∧ (s.here.ea 16 4 (.post 9 1)).cap.has Perm.storeCap = true ∧ (s.here.getW 8).has Perm.global = true ∧
    Stores s (s.here.ea 16 4 (.post 9 1)).addr (s.here.getW 8).bytes none (s.here.getW 8).tag t :=
  ⟨regs [(9, local' 0), (8, local' 4)], _, by rfl, by unfold Ready; decide, by unfold Grants; decide, by decide, by decide, by decide,
    Or.inl ⟨0, 0, by decide, by decide, by decide, rfl⟩⟩
theorem witness_StoreResults_page : ∃ s t, s = (paged [(9, wholeCap 0x1FFF8)]).engineDone ∧ Ready s (wr 0 :: Mem.reads (.offset 9 0)) ∧
    Grants (s.here.ea 8 3 (.offset 9 0)).cap (s.here.ea 8 3 (.offset 9 0)).addr 8 Perm.store 8 ∧
    Stores s (s.here.ea 8 3 (.offset 9 0)).addr (leBytes 8 (s.here.getX 0).toNat) none false t ∧ Memory.wf s.mem = true :=
  ⟨paged [(9, wholeCap 0x1FFF8)], _, by rfl, by unfold Ready; decide, by unfold Grants; decide,
    Or.inr (Or.inr ⟨_, _, by decide, rfl, by decide, rfl, by decide, rfl⟩), by decide⟩
theorem witness_MemoryFrame : ∃ t p, (paged []).translateAt 10 false 0x10000 needW = .ok (p, t) ∧ Memory.wf (paged []).mem = true :=
  ⟨_, _, rfl, by decide⟩
theorem witness_ElementAccesses : ∃ s t b g, s = (regs [(9, wholeCap (Config.localBase + 2 ^ 20 * 14))]).engineDone ∧
    Ready s (wr 8 :: Mem.reads (.offset 9 0)) ∧ windowAt (s.here.ea 1 0 (.offset 9 0)).addr 1 = some (14, 0) ∧ isMx 14 = false ∧
    Grants (s.here.ea 1 0 (.offset 9 0)).cap (s.here.ea 1 0 (.offset 9 0)).addr (elemBytes 14) Perm.load (elemBytes 14) ∧
    Loads s (s.here.ea 1 0 (.offset 9 0)).addr (elemBytes 14) false t b g :=
  ⟨regs [(9, wholeCap (Config.localBase + 2 ^ 20 * 14))], _, _, _, by rfl, by unfold Ready; decide, by decide, by decide,
    by unfold Grants; decide, Or.inl ⟨14, 0, by decide, by decide, by decide, rfl, rfl, rfl⟩⟩
theorem witness_ElementAccesses_mx : ∃ s t, s = (regs [(9, wholeCap (Config.localBase + 2 ^ 20 * 3))]).engineDone ∧
    windowAt (s.here.ea 1 0 (.offset 9 0)).addr 1 = some (3, 0) ∧ isMx 3 = true ∧
    scaleOff (s.here.soff 3) 3 0 0 < Config.scratchBytes ∧ s.isBad (scratchAt s.cur (scaleOff (s.here.soff 3) 3 0 0)) 1 = false ∧
    Grants (s.here.ea 1 0 (.offset 9 0)).cap (s.here.ea 1 0 (.offset 9 0)).addr (elemBytes 3) Perm.store (elemBytes 3) ∧
    Stores s (s.here.ea 1 0 (.offset 9 0)).addr (stfBytes s.here 3 0 (rmOf s.here.fctl) (s.here.getX 8)) none false t :=
  ⟨regs [(9, wholeCap (Config.localBase + 2 ^ 20 * 3))], _, by rfl, by decide, by decide, by decide, by decide, by unfold Grants; decide,
    Or.inl ⟨3, 0, by decide, by decide, by decide, rfl⟩⟩
theorem witness_ElementAccesses_pref : Ready (regs []) (Mem.reads (.post 0 0)) := by unfold Ready; decide
theorem witness_ElementAccessesComplete : ∃ s, s = regs [(9, wholeCap (Config.localBase + 2 ^ 20 * 3 + 393215))] ∧ s.here.eng = [] ∧
    Ready s (wr 8 :: Mem.reads (.offset 9 0)) ∧ windowOf (s.here.ea 1 0 (.offset 9 0)).addr = some (3, 393215) ∧ 393215 + elemBytes 3 ≤ Config.scratchBytes ∧
    scaleOff (s.here.soff 3) 3 393215 0 < Config.scratchBytes ∧ s.isBad (scratchAt s.cur (scaleOff (s.here.soff 3) 3 393215 0)) 1 = false ∧
    ¬ (Mem.updates (.offset 9 0) = true ∧ (8 : Fin 64) = Mem.rb (.offset 9 0)) ∧ s.isBad (scratchAt s.cur 393215) (elemBytes 3) = false ∧
    Grants (s.here.ea 1 0 (.offset 9 0)).cap (s.here.ea 1 0 (.offset 9 0)).addr (elemBytes 3) Perm.load (elemBytes 3) ∧
    Grants (s.here.ea 1 0 (.offset 9 0)).cap (s.here.ea 1 0 (.offset 9 0)).addr (elemBytes 3) Perm.store (elemBytes 3) ∧
    s.badPartial (scratchAt s.cur 393215) (elemBytes 3) = false ∧ s.Inv :=
  ⟨regs [(9, wholeCap (Config.localBase + 2 ^ 20 * 3 + 393215))], rfl, by decide, by unfold Ready; decide, by decide, by decide, by decide, by decide, by decide, by decide,
    by unfold Grants; decide, by unfold Grants; decide, by decide, by unfold State.Inv; decide⟩
theorem witness_RepeatedMoves : ∃ s v t b g, s = (regs [(20, local' 16), (21, local' 0), (22, num 2)]).engineDone ∧
    Ready s [wr 20, wr 21, wr 22] ∧ (s.here.getX 22).toNat ≠ 0 ∧ 2 ≤ (s.here.getX 22).toNat ∧ carries s 3 21 20 = true ∧
    Grants (s.here.getW 21) (s.here.getW 21).addr 16 Perm.load 16 ∧ Grants (s.here.getW 20) (s.here.getW 20).addr 16 Perm.store 16 ∧
    Loads s (s.here.getW 21).addr 16 false v b g ∧ Stores v (s.here.getW 20).addr b none false t :=
  ⟨regs [(20, local' 16), (21, local' 0), (22, num 2)], _, _, _, _, by rfl, by unfold Ready; decide, by decide, by decide, by decide,
    by unfold Grants; decide, by unfold Grants; decide, Or.inl ⟨0, 0, by decide, by decide, by decide, rfl, rfl, rfl⟩,
    Or.inl ⟨0, 16, by decide, by decide, by decide, rfl⟩⟩
theorem witness_RepeatedMoves_fill : ∃ s t, s = (regs [(20, local' 393215), (21, num 255), (22, num 1)]).engineDone ∧
    Ready s [wr 20, wr 21, wr 22] ∧ (s.here.getX 22).toNat = 1 ∧ carries s 0 21 20 = false ∧
    Grants (s.here.getW 20) (s.here.getW 20).addr 1 Perm.store 1 ∧ Stores s (s.here.getW 20).addr (leBytes 1 (s.here.getX 21).toNat) none false t :=
  ⟨regs [(20, local' 393215), (21, num 255), (22, num 1)], _, by rfl, by unfold Ready; decide, by decide, by decide, by unfold Grants; decide,
    Or.inl ⟨0, 393215, by decide, by decide, by decide, rfl⟩⟩
theorem witness_RepeatedMoves_none : ((regs [(22, num 0)]).here.getX 22).toNat = 0 := by decide
theorem witness_OrderingInstructions : ∃ o s t l g, s = (regs [(9, local' 0)]).settled .grid ∧ o = (regs [(9, local' 0)]).storesDone .grid ∧
    s.here.eng = [] ∧ s.xfersIn s.cur .grid = false ∧ Performed s .grid ∧ Performed o .grid ∧ Ready s [wr 0, wr 9] ∧
    Grants (s.here.getW 9) (s.here.getW 9).addr 8 (Perm.load + Perm.store) 8 ∧ Loads s (s.here.getW 9).addr 8 false t l g ∧
    ∃ u, Stores s (s.here.getW 9).addr (leBytes 8 (s.here.getX 0).toNat) none false u :=
  ⟨regs [(9, local' 0)], regs [(9, local' 0)], _, _, _, by rfl, by rfl, by decide, by decide, by unfold Performed; decide, by unfold Performed; decide,
    by unfold Ready; decide, by unfold Grants; decide,
    Or.inl ⟨0, 0, by decide, by decide, by decide, rfl, rfl, rfl⟩, _, Or.inl ⟨0, 0, by decide, by decide, by decide, rfl⟩⟩
/-- A store that waits, in page memory. -/
def waiting : PStore := { key := 0x60000, data := [1#8], tag := false, repl := false, committed := true }
/-- One in host memory. -/
def hosted : PStore := { waiting with key := Config.hostBase }
theorem witness_OrderingInstructions_store :
    Memory.wf (core 10 { task with stores := [waiting] }).mem = true ∧ ((core 10 { task with stores := [waiting] }).tile 10).stores = [waiting] ∧
    waiting.repl = false ∧ isExpert waiting.key = false ∧ waiting.committed = true ∧
    (core 10 { task with stores := [waiting] }).owned 10 noXfer waiting.key waiting.data.length = false ∧
    (∀ w ∈ (core 10 task).rwrites, w.writer ≠ 10) ∧ (core 10 { task with stores := [hosted] }).owned 10 noXfer hosted.key hosted.data.length = false ∧
    isHost hosted.key = true ∧ (core 10 task).hostGranted hosted.key hosted.data.length = false ∧
    ({ core 10 task with hostOwned := [Config.hostBase / 64] } : State).hostGranted hosted.key hosted.data.length = true := by decide
theorem witness_AtomicResults : ∃ s t, s = (if AmoOrd.acqRel = .release ∨ AmoOrd.acqRel = .acqRel then (regs [(9, local' 8)]).settled .team else
      (regs [(9, local' 8)]).engineDone) ∧ Performed s .team ∧ Ready s [wr 6, wr 9] ∧ Ready s [wr 7] ∧
    Grants (s.here.getW 9) (s.here.getW 9).addr 8 (Perm.load + Perm.store) 8 ∧ Rmw s (s.here.getW 9).addr 8 0 (some 5) t :=
  ⟨regs [(9, local' 8)], _, by rfl, by unfold Performed; decide, by unfold Ready; decide, by unfold Ready; decide, by unfold Grants; decide,
    Or.inl ⟨0, 8, by decide, by decide, by decide, by decide, rfl⟩⟩
theorem paged_atomic : (match (paged []).translateAt 10 false 0x10008 needW with
    | .ok (p, v) => !v.undrained 10 (PStore.over p.key 4) && !v.owned 10 noXfer p.key 4 && !p.repl && !v.engineHoldsKey p.key 4 true &&
        !v.isBad p.key 4 && decide (v.cur = 10) && decide (v.readNat p.key 4 = 0)
    | .error _ => false) = true := by decide
theorem witness_AtomicResults_page : ∃ t, Rmw (paged []) 0x10008 4 0 (some 5) t := by
  have h := paged_atomic
  cases e : (paged []).translateAt 10 false 0x10008 needW with
  | error f => simp [e] at h
  | ok x =>
    obtain ⟨p, v⟩ := x
    simp only [e, Bool.and_eq_true, Bool.not_eq_true', decide_eq_true_eq] at h
    obtain ⟨⟨⟨⟨⟨⟨h1, h2⟩, h3⟩, h4⟩, h5⟩, h6⟩, h7⟩ := h
    have hv : v = (if v.undrained 10 (PStore.over p.key 4) then v.drain 10 (PStore.over p.key 4) else v) := by simp [h1]
    exact ⟨_, Or.inr ⟨p, v, v, Or.inl (by decide), e, hv, h1, h2, by simp [State.mend, h3], h4, h5, Or.inl ⟨h3, h7.symm, rfl⟩⟩⟩

/-- A read stream of one double word bound to w48, and the state of a core that has it. -/
def reader (n pos : Nat) : Tile := { task with ag := Vector.replicate 8 Stream.reset |>.set 0 ⟨local' 0, false, 3, n, 1, 1, 0, 0, pos, 48, 0⟩ }
theorem witness_StreamResults_read : ∃ t b e, (core 10 (reader 2 1)).here.bound 48 = some (0, ⟨local' 0, false, 3, 2, 1, 1, 0, 0, 1, 48, 0⟩) ∧
    findPend (core 10 (reader 2 1)).here.pend (wr 48) = none ∧ Ready (core 10 (reader 2 1)) [wr 47] ∧
    Grants (local' 0) (elementAt ⟨local' 0, false, 3, 2, 1, 1, 0, 0, 1, 48, 0⟩ 1) 8 (Perm.engine + Perm.load) 8 ∧
    Loads (core 10 (reader 2 1)).engineDone (elementAt ⟨local' 0, false, 3, 2, 1, 1, 0, 0, 1, 48, 0⟩ 1) 8 true t b e ∧
    (core 10 (reader 2 1)).here.undo.length ≤ 0 ∧ 0 < (core 10 { reader 2 1 with undo := [(0, [])] }).here.undo.length :=
  ⟨_, _, _, by decide, by decide, by unfold Ready; decide, by unfold Grants; decide, Or.inl ⟨0, 8, by decide, by decide, by decide, rfl, rfl, rfl⟩,
    by decide, by decide⟩
theorem witness_StreamResults_end : (core 10 (reader 2 2)).here.bound 48 = some (0, ⟨local' 0, false, 3, 2, 1, 1, 0, 0, 2, 48, 0⟩) ∧
    (core 10 (reader 2 2)).here.eng = [] := by decide
/-- A write stream of one byte bound to w63. -/
def writer : Stream := ⟨local' 0, true, 0, 1, 1, 1, 0, 0, 0, 63, 0⟩
theorem witness_StreamResults_write : ∃ t, (core 10 { task with ag := Vector.replicate 8 Stream.reset |>.set 7 writer }).here.bound 63 = some (7, writer) ∧
    Grants writer.cap (elementAt writer 0) 1 (Perm.engine + Perm.store) 1 ∧ (∀ off, locate (elementAt writer 0) 1 ≠ .info off) ∧
    Stores (core 10 { task with ag := Vector.replicate 8 Stream.reset |>.set 7 writer }).engineDone (elementAt writer 0) [255#8] (some 7) false t :=
  ⟨_, by decide, by unfold Grants; decide, fun off => by have : locate (elementAt writer 0) 1 = .scratch 0 0 := by decide
                                                         rw [this]; exact Loc.noConfusion,
    Or.inl ⟨0, 0, by decide, by decide, by decide, rfl⟩⟩
/-- A stream descriptor in the scratchpad: two elements of 8 bytes, generator 7, for reading. -/
def described : State :=
  ((regs [(12, local' 64)]).writeKey (scratchAt 10 64) ((local' 0).bytes ++ leBytes 4 2 ++ leBytes 4 1 ++ leBytes 4 1 ++ leBytes 12 0 ++ [0x37#8]) true)
theorem witness_StreamResults_bind : ∃ t b g ctl cap, described = described.engineDone ∧ Ready described [wr 12] ∧
    Grants (described.here.getW 12) (described.here.getW 12).addr 64 Perm.load 64 ∧ Loads described (described.here.getW 12).addr 64 false t b g ∧
    ctl = blockNat b 40 1 ∧ ctl < 64 ∧ blockNat b 41 23 = 0 ∧ cap = blockCap b 0 g (described.here.getW 12) ∧ cap.tag = true ∧ cap.otype = 0 ∧
    cap.has (Perm.engine + (if ctl / 8 % 2 = 1 then Perm.store else Perm.load)) = true :=
  ⟨_, _, _, _, _, by rfl, by unfold Ready; decide, by unfold Grants; decide, Or.inl ⟨0, 64, by decide, by decide, by decide, rfl, rfl, rfl⟩,
    rfl, by decide, by decide, rfl, by decide, by decide, by decide⟩
/-- That write stream with an append that waits. -/
def appended : Tile := { task with ag := Vector.replicate 8 Stream.reset |>.set 7 writer, stores := [{ waiting with append := some 7 }] }
theorem witness_StreamResults_unbind : (core 10 appended).here.bound 63 = some (7, writer) ∧ (core 10 task).here.bound 63 = none ∧
    ((core 10 appended).drain 10 (fun x => decide (x.append = some 7))).undrained 10 (fun x => decide (x.append = some 7)) = false := by decide
/-- A tile with a message of class 3, enabled, in its inbox. -/
def mailed : Tile := { task with inbox := [⟨1, 3, 0, [], 0, []⟩], classes := Vector.replicate 16 ClassEntry.reset |>.set 3 ⟨wholeCap 0x400, 1, 0, 0, false⟩ }
theorem witness_WaitAndExit : NotAtEnd (core 10 { task with wake := true }) ∧ (core 10 { task with wake := true }).here.wake = true ∧
    (core 10 mailed).here.wake = false ∧ (core 10 mailed).here.nextClass.isSome = true ∧ (core 10 task).here.nextClass = none ∧
    core 10 task = (core 10 task).settled .system ∧ Performed (core 10 task) .system ∧ (core 10 task).here.eng = [] ∧ (core 10 task).xfersOut 10 = false ∧ Ready (core 10 task) [wr 63] ∧
    (core 10 task).here.task = some ⟨0, 0, 0, 0⟩ ∧ (core 10 task).gridOf 10 = some (placedGrid 10) ∧ (placedGrid 10).phase ≠ .saving := by
  unfold NotAtEnd Ready Performed
  refine ⟨by decide, by decide, by decide, by decide, by decide, by rfl, by decide, by decide, by decide, by decide, by decide, by decide, by decide⟩
theorem witness_VectorArithmeticResults : Ready (regs []) [vr 31, vr 0, pr 7, vlr, vr 31] ∧ Ready (regs []) [vr 0, pr 0, vlr, vr 31] := by
  unfold Ready; decide
theorem witness_VectorAccumulationAndConversion : Ready (regs []) [vr 31, vr 0, pr 7, vlr, vr 31] ∧ Ready (regs []) [vr 0] ∧
    (regs []).here.ordered = false ∧ (core 10 { task with vl := 0 }).here.lanes 0 = [] ∧ (core 10 { task with ordered := true }).here.ordered = true := by
  unfold Ready; decide
theorem witness_VectorCompareSelectAndMoves : Ready (regs []) [vr 31, vr 0, pr 7, vlr] ∧ Ready (regs []) [pr 0] ∧
    Ready (regs []) [vr 31, vr 0, pr 7, vlr, vr 1, wr 0, wr 63, wr 5] := by unfold Ready; decide
theorem witness_VectorReductionsScans : Ready (regs []) [vr 31, pr 7, vlr, vr 0] := by unfold Ready; decide
/-- One active lane, with its address in the scratchpad. -/
def lanes1 : State := core 10 { with' [(9, local' 393212)] task with vl := 1 }
theorem witness_VectorMemory : lanes1 = lanes1.engineDone ∧ Ready lanes1 [wr 9, pr 0, vlr, vr 31] ∧ Ready lanes1 [vr 0] ∧ lanes1.here.lanes 0 = [0] ∧
    LanesAt lanes1 (lanes1.here.getW 9) 0 4 (Perm.load + Perm.store) 4 (laneAddr (lanes1.here.getW 9) 2) (fun _ => scratchAt 10 393212) ∧
    LanesAt lanes1 (lanes1.here.getW 9) 0 4 (Perm.load + Perm.store) 4
      (fun i => addrAdd (lanes1.here.getW 9).addr ((4 * (lanes1.here.lane 0 i).toNat : Nat) : Int)) (fun _ => scratchAt 10 393212) ∧
    (∀ i ∈ lanes1.here.lanes 0, lanes1.isBad (scratchAt 10 393212) 4 = false ∧ lanes1.badPartial (scratchAt 10 393212) 4 = false ∧ i = 0) ∧
    LanesFree lanes1 0 4 (fun _ => scratchAt 10 393212) true := by
  refine ⟨by rfl, by unfold Ready; decide, by unfold Ready; decide, by decide, ?_, ?_, by decide, by unfold LanesFree; decide⟩ <;>
  · intro i hi
    have h : lanes1.here.lanes 0 = [0] := by decide
    rw [h, List.mem_singleton] at hi
    subst hi
    exact ⟨by unfold Grants; decide, by decide, 0, 393212, by decide, rfl⟩
theorem witness_RingsAndSlots_qcfg : ∃ s x, s = (regs [(8, num (255 + 2 ^ 8 + 2 ^ 43))]).engineDone ∧ Ready s [wr 8] ∧ x = (s.here.getX 8).toNat ∧ x < 2 ^ 56 ∧
    x % 2 ^ 8 = 255 ∧ x / 2 ^ 8 % 2 ^ 9 = 1 ∧ x / 2 ^ 17 % 2 ^ 13 = 0 ∧ x / 2 ^ 43 % 2 ^ 13 = 1 ∧ (∀ r : Fin 16, (s.here.ring r).len = 0) ∧
    ∀ k : Fin 256, (s.here.slot k).state = .empty :=
  ⟨regs [(8, num (255 + 2 ^ 8 + 2 ^ 43))], _, by rfl, by unfold Ready; decide, rfl, by decide, by decide, by decide, by decide, by decide, by decide,
    fun k => by simp [State.here, State.tile, regs, core, with', keyGet, task, Tile.slot, Tile.putW, Tile.idle, Slot.reset]⟩
/-- Rings 0 and 1 with two READY slots each, ring 2 with an EMPTY one, for elements of 16 bytes. -/
def ringed (t : Tile) : Tile := { t with
  slots := Vector.replicate 256 Slot.reset |>.set 0 ⟨.ready, some 0, 0, 65536⟩ |>.set 1 ⟨.ready, some 0, 0, 65536⟩ |>.set 2 ⟨.ready, some 1, 0, 65536⟩
    |>.set 4 ⟨.empty, some 2, 0, 65536⟩
  rings := Vector.replicate 16 Ring.reset |>.set 0 ⟨0, 2, 0, 0, 2⟩ |>.set 1 ⟨2, 2, 2, 3, 1⟩ |>.set 2 ⟨4, 1, 4, 4, 0⟩ }
theorem witness_RingsAndSlots_twait : ∃ s, s = (core 10 (with' [(7, num 2)] (ringed task))).engineDone ∧ Ready s [wr 7] ∧ (s.here.getX 7).toNat = 2 ∧
    2 ≤ (s.here.ring 0).len ∧ (s.here.ring 0).len ≠ 0 ∧ (s.here.slot ((s.here.ring 0).nth 0)).state = .ready ∧
    (s.here.slot ((s.here.ring 0).nth 1)).state = .ready ∧ 2 ≤ (s.here.ring 1).len ∧ (s.here.slot ((s.here.ring 1).nth 1)).state ≠ .ready :=
  ⟨core 10 (with' [(7, num 2)] (ringed task)), by rfl, by unfold Ready; decide, by decide, by decide, by decide, by decide, by decide, by decide, by decide⟩
theorem witness_MultiplyAccumulateResults : ∃ s x, s = (core 10 (with' [(7, num 0x66)] (ringed task))).engineDone ∧ Ready s [wr 7] ∧ kindOf s.cur = 2 ∧
    x = (s.here.getX 7).toNat ∧ x % 16 = 6 ∧ x / 16 % 16 = 6 ∧ modeOf (s.here.accOf 7).mode ≠ 2 ∧ windowOk (s.here.accOf 7).mode 6 = true ∧
    Operand s 0 (s.here.ring 0).head 6 512 ∧ Operand s 1 (s.here.ring 1).head 6 512 ∧
    Operand s 0 ((s.here.ring 0).after (s.here.ring 0).head) 6 512 ∧ Funded s :=
  ⟨core 10 (with' [(7, num 0x66)] (ringed task)), _, by rfl, by unfold Ready; decide, by decide, rfl, by decide, by decide, by decide, by decide,
    by unfold Operand; decide, by unfold Operand; decide, by unfold Operand; decide, by unfold Funded; decide⟩
/-- A tile whose accumulator 0 is a sieve of one list of depth 2. -/
def sieve (t : Tile) : Tile := { t with acc := Vector.replicate 8 Acc.reset |>.set 0 ⟨Vector.replicate 256 0, BitVec.ofNat 64 (2 + 2 ^ 24)⟩ }
theorem witness_MultiplyAccumulateResults_smma : ∃ s, s = (core 10 (with' [(7, num 0x66)] (sieve (ringed task)))).engineDone ∧
    modeOf (s.here.accOf 0).mode = 2 ∧ smmaSkips (s.here.accOf 0) (0x66 / 2 ^ 32) = false ∧ Funded s ∧
    Operand s 0 (s.here.ring 0).head 6 512 ∧ Operand s 1 (s.here.ring 1).head 6 512 :=
  ⟨core 10 (with' [(7, num 0x66)] (sieve (ringed task))), by rfl, by decide, by decide, by unfold Funded; decide, by unfold Operand; decide,
    by unfold Operand; decide⟩
theorem witness_AccumulatorAndAttention : ∃ s x, s = (regs [(10, num 1)]).engineDone ∧ s.here.eng = [] ∧ kindOf s.cur = 2 ∧ Ready s [wr 10] ∧ Ready s [vr 31] ∧
    x = s.here.getX 10 ∧ modeOf x ≠ 3 ∧ x.toNat / 2 ^ 2 % 2 ^ 14 = 0 ∧ sieveFmt x ≠ 3 ∧ x.toNat / 2 ^ 21 % 2 ^ 3 ≤ 4 ∧
    sieveDepth x ≤ 256 / sieveLists x ∧ modeOf x ≠ 2 ∧ modeOf (s.here.accOf 7).mode = 0 ∧ Funded s :=
  ⟨regs [(10, num 1)], _, by rfl, by decide, by decide, by unfold Ready; decide, by unfold Ready; decide, rfl, by decide, by decide, by decide, by decide,
    by decide, by decide, by decide, by unfold Funded; decide⟩
theorem witness_DrainResults : ∃ s, s = (core 10 (with' [(8, num 6), (9, num ((core 0 task).nameOf 11 + 6 * 2 ^ 36))] (ringed task))).engineDone ∧
    Ready s [wr 8] ∧ Ready s [wr 9] ∧ kindOf s.cur ≠ 3 ∧ Funded s ∧ modeOf (s.here.accOf 0).mode ≠ 2 ∧ TailFits s 2 6 256 ∧ (s.here.getX 8).toNat = 6 ∧
    (s.here.getX 9).toNat / 2 ^ 36 % 16 = 6 ∧ (s.here.getX 9).toNat < 2 ^ 41 ∧ isMx 6 = false ∧ coreOf ((s.here.getX 9).toNat % 2 ^ 32) = some 11 ∧
    s.partOf 11 = s.partOf s.cur ∧ (s.here.getX 9).toNat % 2 ^ 32 / 2 ^ 24 = s.gen :=
  ⟨core 10 (with' [(8, num 6), (9, num ((core 0 task).nameOf 11 + 6 * 2 ^ 36))] (ringed task)), by rfl, by unfold Ready; decide, by unfold Ready; decide,
    by decide, by unfold Funded; decide, by decide, by unfold TailFits; decide, by decide, by decide, by decide, by decide, by decide, by decide, by decide⟩
/-- DRAINQ's parameter block in the scratchpad, for window 6. -/
def quantised : State := (core 10 { with' [(10, local' 64)] (ringed task) with
  acc := Vector.replicate 8 Acc.reset |>.set 0 ⟨Vector.replicate 256 0, 1⟩ }).writeKey (scratchAt 10 64) (leBytes 193 0 ++ [6#8]) false
theorem witness_DrainResults_drainq : quantised = quantised.engineDone ∧ modeOf (quantised.here.accOf 0).mode = 1 ∧
    Grants (quantised.here.getW 10) (quantised.here.getW 10).addr 256 Perm.load 64 ∧ windowAt (quantised.here.getW 10).addr 256 = some (0, 64) ∧
    quantised.isBad (scratchAt 10 64) 256 = false ∧ blockNat (quantised.readAt (scratchAt 10 64) 256) 193 1 = 6 ∧ winInt 6 = true ∧
    blockNat (quantised.readAt (scratchAt 10 64) 256) 192 1 ≤ 63 ∧ blockNat (quantised.readAt (scratchAt 10 64) 256) 194 2 = 0 ∧
    blockNat (quantised.readAt (scratchAt 10 64) 256) 200 56 = 0 ∧ TailFits quantised 2 6 256 ∧ Funded quantised := by
  refine ⟨by rfl, by decide, by unfold Grants; decide, by decide, by decide, by decide, by decide, by decide, by decide, by decide, by unfold TailFits; decide,
    by unfold Funded; decide⟩
theorem witness_DrainResults_retire : Memory.wf (core 10 task).mem = true ∧
    ((core 10 { task with eng := [.drain 0 4 6 .rne false true] }).tile 10).eng = [.drain 0 4 6 .rne false true] ∧
    ((core 10 { task with eng := [.drain 0 4 3 .rne false true] }).tile 10).eng = [.drain 0 4 3 .rne false true] := by decide
theorem witness_SieveResults_issue : ∃ s, s = (core 10 (with' [(7, num (2 ^ 32 + 5))] (sieve (ringed task)))).engineDone ∧ kindOf s.cur ≠ 3 ∧
    modeOf (s.here.accOf 0).mode = 2 ∧ (0 : Fin 16).val < sieveLists (s.here.accOf 0).mode ∧ Ready s [wr 7] ∧ Funded s ∧
    sieveLists (s.here.accOf 0).mode = 1 ∧ sieveDepth (s.here.accOf 0).mode = 2 :=
  ⟨core 10 (with' [(7, num (2 ^ 32 + 5))] (sieve (ringed task))), by rfl, by decide, by decide, by decide, by unfold Ready; decide, by unfold Funded; decide,
    by decide, by decide⟩
theorem witness_SieveResults_slots : Operand (core 10 (sieve (ringed task))) 0 ((core 10 (sieve (ringed task))).here.ring 0).head 0 4096 ∧
    TailFits (core 10 (sieve (ringed task))) 2 0 4096 := by unfold Operand TailFits; decide
theorem witness_SieveResults_admission : [((0 : Nat), 1)].Pairwise (fun a b => ranksBefore a b = true) ∧ keyNan 0x7FC00000 = true ∧
    keyNan 0x80000000 = false ∧ keyNan 0 = false := by decide
theorem witness_SieveResults_retire : ∃ s, s = core 10 { sieve task with eng := [.spush 0 0 5 (2 ^ 40 - 1)] } ∧ Memory.wf s.mem = true ∧
    (s.tile 10).eng = [.spush 0 0 5 (2 ^ 40 - 1)] ∧ (((s.tile 10).accOf 0).list 0).length ≤ sieveDepth ((s.tile 10).accOf 0).mode ∧
    sieveLists ((s.tile 10).accOf 0).mode ≤ 16 :=
  ⟨_, rfl, by decide, by decide, by decide, by decide⟩
/-- A map of one element of window 6 in the scratchpad. -/
def oneElement : List Byte := leBytes 8 (Config.localBase + 2 ^ 20 * 6 + 128) ++ leBytes 4 1 ++ leBytes 4 1 ++ leBytes 26 0 ++ [6#8, 2#8]
/-- Maps 0 and 1 of one element each. -/
def mapped : State := ((regs [(10, wholeCap 0)]).writeKey (scratchAt 10 0) oneElement false).writeKey (scratchAt 10 64) oneElement false
/-- An operation succeeds with a result and a state that pass a test. -/
def passes {ε σ α : Type} (r : EStateM.Result ε σ α) (f : α → σ → Bool) : Bool :=
  match r with
  | .ok x u => f x u
  | .error _ _ => false
theorem passes_ok {ε σ α : Type} (r : EStateM.Result ε σ α) (f : α → σ → Bool) (h : passes r f = true) : ∃ x u, r = .ok x u ∧ f x u = true := by
  cases r <;> simp_all [passes]
/-- One that leaves the state as it is succeeds in the state that it began in. -/
theorem passes_still {ε σ α : Type} {x : EStateM ε σ α} (hx : Still x) (s : σ) (f : α → Bool) (h : passes (x s) (fun a _ => f a) = true) :
    ∃ a, x s = .ok a s ∧ f a = true := by
  obtain ⟨a, u, e, h⟩ := passes_ok _ _ h
  exact ⟨a, by rw [e, hx s a u e], h⟩
/-- The slice of either map. -/
def one : Slice := ⟨6, Config.localBase + 2 ^ 20 * 6 + 128, [1, 1, 1, 1], [0, 0, 0]⟩
theorem reads_map0 : passes (readMap 0 mapped) (fun x _ => decide (x = one)) = true := by decide +kernel
theorem reads_map1 : passes (readMap 1 mapped) (fun x _ => decide (x = one)) = true := by decide +kernel
theorem steps_map : passes (bmmStep 0 10 one one ⟨0, 1, 0, 0⟩ (min 16 (one.extent 1 - 0)) true mapped) (fun _ v => decide (v.here.bound 11 = none)) = true := by
  decide +kernel
theorem witness_BlockMultiply : ∃ v, mapped = mapped.engineDone ∧ mapped.here.eng = [] ∧ kindOf mapped.cur = 2 ∧
    Ready mapped ([wr 10, (.w, 11)]) ∧ readMap 0 mapped = .ok one mapped ∧ readMap 1 mapped = .ok one mapped ∧ BmmAccepts mapped 0 0 one one ∧
    one.extent 1 = 1 ∧ bmmStep 0 10 one one ⟨0, 1, 0, 0⟩ (min 16 (one.extent 1 - 0)) true mapped = .ok ⟨⟩ v ∧ v.here.bound 11 = none := by
  obtain ⟨x, e, h⟩ := passes_still (readMap_still _) _ _ reads_map0
  obtain ⟨y, e', h'⟩ := passes_still (readMap_still _) _ _ reads_map1
  obtain ⟨_, v, hv, hb⟩ := passes_ok _ _ steps_map
  obtain rfl := of_decide_eq_true h
  obtain rfl := of_decide_eq_true h'
  refine ⟨v, by rfl, by decide, by decide, by unfold Ready; decide, e, e', ?_, by decide, hv, of_decide_eq_true hb⟩
  refine ⟨by decide, by decide, by decide, by decide, Or.inl (by decide), by decide, by decide, by decide, ?_⟩
  intro i hi
  have h : i < 1 := hi
  obtain rfl : i = 0 := by omega
  decide
theorem witness_BlockMultiply_done : BmmAccepts mapped 0 (2 ^ 32) ⟨6, Config.localBase, [1, 1, 1, 1], [0, 0, 0]⟩ ⟨6, Config.localBase, [1, 1, 1, 1], [0, 0, 0]⟩ := by
  refine ⟨by decide, by decide, by decide, by decide, Or.inl (by decide), by decide, by decide, by decide, ?_⟩
  intro i hi
  have h : i < 1 := hi
  obtain rfl : i = 0 := by omega
  decide

/-- A SEND of w61 and w62 to class 3 of core 11. -/
def sending : State := regs [(12, num ((core 0 task).nameOf 11 + 3 * 2 ^ 32 + 2 * 2 ^ 36)), (61, num 7), (62, num 8)]
theorem witness_MessagesAndHandlers_send : ∃ s x, s = sending.storesDone .system ∧
    Performed s .system ∧ s.scopeOf 10 11 = .system ∧ Ready s [wr 12] ∧ x = (s.here.getX 12).toNat ∧ x < 2 ^ 41 ∧ x / 2 ^ 36 % 16 = 2 ∧ (62 : Fin 64).val + 2 ≤ 64 ∧
    Ready s ((List.range 2).map (fun i => (File.w, 62 + i))) ∧ coreOf (x % 2 ^ 32) = some 11 ∧ s.partOf 11 = s.partOf s.cur ∧
    x % 2 ^ 32 / 2 ^ 24 = s.gen ∧ x / 2 ^ 40 = 0 ∧ (s.msgs.filter (fun m => decide (m.src = s.cur) && m.buffered)).length < 8 :=
  ⟨_, _, rfl, by unfold Performed; decide +kernel, by decide +kernel, by unfold Ready; decide +kernel, rfl,
    by decide +kernel, by decide +kernel, by decide, by unfold Ready; decide +kernel, by decide +kernel, by decide +kernel, by decide +kernel, by decide +kernel, by decide +kernel⟩
/-- A message of core 10 in its send buffer. -/
def sentMsg : Msg := { mkMsg 10 0 0 0 [] none 0 with buffered := true }
theorem witness_MessagesAndHandlers_full :
    8 ≤ (({ core 10 task with msgs := List.replicate 8 sentMsg } : State).msgs.filter (fun m => decide (m.src = 10) && m.buffered)).length := by decide
theorem witness_MessagesAndHandlers_hret : NotAtEnd (core 10 { task with handler := true }) ∧ (core 10 { task with handler := true }).here.handler = true ∧
    (core 10 task).here.handler = false := by unfold NotAtEnd; decide
theorem witness_MessagesAndHandlers_mbox : Ready (regs [(5, num 7)]) [wr 5, wr 6] ∧ (regs [(5, num 7)]).here.getX 5 = BitVec.ofNat 64 (7 : Fin 16) ∧
    (regs [(5, num 0x1F)]).here.getX 5 = BitVec.ofNat 64 (0x10 + (15 : Fin 16)) ∧ (regs [(5, num 0x2F)]).here.getX 5 = BitVec.ofNat 64 (0x20 + (15 : Fin 16)) ∧
    (regs [(5, num 0x30)]).here.getX 5 = BitVec.ofNat 64 (0x30 + (0 : Fin 16)) ∧ (regs [(5, num 0x4F)]).here.getX 5 = BitVec.ofNat 64 (0x40 + (15 : Fin 16)) ∧
    (regs [(5, num 0x50)]).here.getX 5 = BitVec.ofNat 64 (0x50 + (0 : Fin 16)) := by unfold Ready; decide
/-- A grid of one band and one team of two tasks, on cores 10 and 11. -/
def pair : Grid := { placedGrid 10 with tasks := 2, cores := [10, 11] }
/-- Both tasks run. -/
def two (t u : Tile) (g : Grid) : State :=
  { core 10 t with tiles := [(10, t), (11, { u with task := some ⟨0, 0, 0, 1⟩ })], grids := [(0, g)] }
theorem witness_Rendezvous_waits : ∃ s b, s = (two task task pair).settled .band ∧ s.here.eng = [] ∧ Performed s .band ∧ Ready s [wr 6, wr 5] ∧ s.here.task = some ⟨0, 0, 0, 0⟩ ∧
    s.gridOf s.cur = some pair ∧ b = pair.bar .band (instOf pair .band ⟨0, 0, 0, 0⟩) 15 ∧ hasRank b.arrived (grankOf pair ⟨0, 0, 0, 0⟩) = false ∧
    hasRank b.done (grankOf pair ⟨0, 0, 0, 0⟩) = false ∧ b.arrived = [] ∧ s.xfersIn s.cur .band = false ∧
    ¬ (∀ x ∈ instRanks pair .band (instOf pair .band ⟨0, 0, 0, 0⟩), hasRank [(0, (0 : Word))] x = true ∨ pair.exited.contains x = true) :=
  ⟨two task task pair, _, by rfl, by decide, by unfold Performed; decide, by unfold Ready; decide, by decide, by decide, rfl, by decide, by decide, by decide, by decide, by decide⟩
/-- A parked run of task 0 of the pair, whose BAR at barrier 3 of the band has not got its value, or has got 9. -/
def parkedAt (done : List (Nat × Word)) : State :=
  two { task with parked := true, due := [⟨.band, 0, 3, 5, wholeCap 0x10000⟩] } task { pair with bars := [⟨.band, 0, 3, none, [], done⟩] }
theorem witness_Rendezvous_values : ((parkedAt [(0, 9)]).tile 10).parked = true ∧ ((parkedAt [(0, 9)]).tile 10).due = [⟨.band, 0, 3, 5, wholeCap 0x10000⟩] ∧
    ((parkedAt [(0, 9)]).tile 10).task = some ⟨0, 0, 0, 0⟩ ∧ ((parkedAt [(0, 9)]).gridOf 10).isSome = true ∧ ((parkedAt [(0, 9)]).tile 10).bound 5 = none ∧
    [((0 : Nat), (9 : Word))].find? (fun y => decide (y.1 = grankOf pair ⟨0, 0, 0, 0⟩)) = some (0, 9) ∧
    hasRank (({ pair with bars := [⟨.band, 0, 3, none, [], []⟩] } : Grid).bar .band 0 3).done 0 = false := by decide
theorem witness_Rendezvous_last : ∃ s b, s = (core 10 task).settled .grid ∧ s.gridOf s.cur = some (placedGrid 10) ∧
    b = (placedGrid 10).bar .grid (instOf (placedGrid 10) .grid ⟨0, 0, 0, 0⟩) 0 ∧ b.arrived = [] ∧
    (∀ x ∈ instRanks (placedGrid 10) .grid (instOf (placedGrid 10) .grid ⟨0, 0, 0, 0⟩), hasRank [(0, (0 : Word))] x = true ∨ (placedGrid 10).exited.contains x = true) :=
  ⟨core 10 task, _, by rfl, by decide, rfl, by decide, by decide⟩
theorem witness_Rendezvous_done : ∃ s b, s = two task task { pair with bars := [⟨.band, 0, 3, none, [], [(0, 9)]⟩] } ∧
    b = ({ pair with bars := [⟨.band, 0, 3, none, [], [(0, 9)]⟩] } : Grid).bar .band (instOf pair .band ⟨0, 0, 0, 0⟩) 3 ∧
    hasRank b.done (grankOf pair ⟨0, 0, 0, 0⟩) = true ∧ hasRank b.arrived 0 = false := ⟨_, _, rfl, rfl, by decide, by decide⟩
/-- A collective of both tasks with its result, which core 10 has still to take, and one that it has joined. -/
def collected (l : List Nat) : State := { two task task pair with colls := [⟨0, .band, 0, 0, .canon, 1, 0, [⟨0, 10, leBytes 8 1, [], 0, none⟩], none, l⟩] }
theorem witness_Rendezvous_cred : ∃ s q, s = (collected [0]).engineDone ∧ Ready s [wr 9] ∧ s.gridOf s.cur = some pair ∧
    s.colls.find? (fun c => c.isAt 0 .band (instOf pair .band ⟨0, 0, 0, 0⟩) (credCount s.here.creds .band)) = some q ∧
    q.takers.contains (grankOf pair ⟨0, 0, 0, 0⟩) = true := ⟨collected [0], _, by rfl, by unfold Ready; decide, by decide, rfl, by decide⟩
theorem witness_Rendezvous_cred_waits : ∃ s q, s = (collected []).engineDone ∧ Ready s [wr 9] ∧ s.gridOf s.cur = some pair ∧
    s.colls.find? (fun c => c.isAt 0 .band (instOf pair .band ⟨0, 0, 0, 0⟩) (credCount s.here.creds .band)) = some q ∧
    q.takers.contains (grankOf pair ⟨0, 0, 0, 0⟩) = false ∧ ∃ p ∈ q.parts, p.grank = grankOf pair ⟨0, 0, 0, 0⟩ :=
  ⟨collected [], _, by rfl, by unfold Ready; decide, by decide, rfl, by decide, by decide⟩
theorem witness_DequeInstructions : ∃ s, s = two task { task with deque := [(3, 5)] } pair ∧ Ready s [wr 5, wr 6] ∧ s.here.deque = [] ∧
    s.victims .team = [] ++ 11 :: [] ∧ (s.tile 11).deque = (3, 5) :: [] := ⟨_, rfl, by unfold Ready; decide, by decide, by decide, by decide⟩
theorem witness_DequeInstructions_own : (core 10 { task with deque := [(0, 2 ^ 32 - 1)] }).here.deque = [] ++ [(0, 2 ^ 32 - 1)] ∧
    (∀ k ∈ (core 10 { task with deque := [(0, 2 ^ 32 - 1)] }).victims .team, ((core 10 task).tile k).deque = []) := by decide
/-- A descriptor at the start of the scratchpad: one element of 16 bytes from offset 4096 to or from core 10's offset 8192. -/
def transfer : State := (regs [(35, local' 64)]).writeKey (scratchAt 10 64)
  (leBytes 16 0 ++ leBytes 4 ((core 0 task).nameOf 10) ++ leBytes 4 8192 ++ leBytes 4 4096 ++ leBytes 4 1 ++ leBytes 4 16 ++ leBytes 4 0 ++
    leBytes 4 0xFFFFFFFF ++ leBytes 4 0xFFFFFFFF ++ leBytes 8 0 ++ [4#8]) false
/-- The bytes of the descriptor. -/
def descriptor : List Byte := transfer.readAt (scratchAt 10 64) 64
theorem checks_put : passes (descChecks 35 descriptor (Desc.of true descriptor) transfer) (fun _ _ => true) = true := by decide +kernel
theorem checks_get : passes (descChecks 35 descriptor (Desc.of false descriptor) transfer) (fun _ _ => true) = true := by decide +kernel
theorem witness_TransferResults : ∃ d, transfer = transfer.engineDone ∧ NothingBefore transfer ∧ Ready transfer [wr 35] ∧
    Grants (transfer.here.getW 35) (transfer.here.getW 35).addr 64 Perm.load 16 ∧ Loads transfer (transfer.here.getW 35).addr 64 false transfer descriptor false ∧
    d = Desc.of true descriptor ∧ descChecks 35 descriptor d transfer = .ok ⟨⟩ transfer ∧
    descChecks 35 descriptor (Desc.of false descriptor) transfer = .ok ⟨⟩ transfer ∧
    d.lkind = 0 ∧ d.list = 0 ∧ d.rkind = 1 ∧ d.count = 1 ∧ d.elen = 16 ∧ transfer.here.copying < 16 := by
  obtain ⟨_, h, _⟩ := passes_still (descChecks_still _ _ _) _ _ checks_put
  obtain ⟨_, h', _⟩ := passes_still (descChecks_still _ _ _) _ _ checks_get
  exact ⟨_, by rfl, by unfold NothingBefore; decide, by unfold Ready; decide, by unfold Grants; decide,
    Or.inl ⟨0, 64, by decide, by decide, by decide, rfl, rfl, by decide⟩, rfl, h, h', by decide, by decide, by decide, by decide, by decide, by decide⟩
theorem witness_TransferResults_cwait : ∃ s, s = (regs [(7, num 1), (35, local' 393212)]).engineDone ∧ Ready s [wr 7, wr 35] ∧
    Grants (s.here.getW 35) (s.here.getW 35).addr 4 Perm.load 4 ∧ windowAt (s.here.getW 35).addr 4 = some (0, 393212) ∧
    s.isBad (scratchAt s.cur 393212) 4 = false ∧ s.engineHoldsKey (scratchAt s.cur 393212) 4 false = false ∧ 2 ^ 31 ≤ (s.readNat (scratchAt s.cur 393212) 4 + 2 ^ 32 - (s.here.getX 7).toNat % 2 ^ 32) % 2 ^ 32 :=
  ⟨regs [(7, num 1), (35, local' 393212)], by rfl, by unfold Ready; decide, by unfold Grants; decide, by decide, by decide, by decide, by decide⟩
/-- The maps, and the operands of a COPY by map 0 from offset 4096 of core 10 to offset 0 of its scratchpad. -/
def copied : State := { mapped with tiles := [(10, with' [(23, num (0xFFFF * 2 ^ 32 + 4096 * 2 ^ 12)), (1, local' 0)] task)] }
theorem reads_copied : passes (readMap 0 copied) (fun x _ => decide (x = one)) = true := by decide +kernel
theorem witness_TransferResults_copy : ∃ x, copied = copied.engineDone ∧ NothingBefore copied ∧
    Ready copied [wr 23, wr 1] ∧ x = (copied.here.getX 23).toNat ∧ x / 2 ^ 11 % 2 = 0 ∧ x / 2 ^ 31 % 2 = 0 ∧ x < 2 ^ 48 ∧ x / 2 ^ 32 = 0xFFFF ∧
    x % 32 = 0 ∧ readMap 0 copied = .ok one copied ∧ one.win ≠ 8 ∧ one.bytes ≤ Config.scratchBytes ∧ x / 2 ^ 6 % 2 = 0 ∧
    x / 2 ^ 12 % 2 ^ 19 + one.bytes ≤ Config.scratchBytes ∧
    (∀ a ∈ one.rows, rangeCause (copied.here.getW 1) one.rowBytes (Perm.engine + Perm.load) false a = none) := by
  obtain ⟨m, h, e⟩ := passes_still (readMap_still _) _ _ reads_copied
  obtain rfl := of_decide_eq_true e
  exact ⟨_, by rfl, by unfold NothingBefore; decide, by unfold Ready; decide, rfl, by decide, by decide, by decide, by decide, by decide, h,
    by decide, by decide, by decide, by decide, by decide⟩
/-- A transfer of four bytes within a scratchpad. -/
def inside : Xfer :=
  ⟨0, 0, 0, [⟨0, .scratch 10 0, .scratch 10 393212, 4⟩], none, false, none, none, 4, none, none, none, 0, none, 0, [], false, 0, 1⟩
theorem witness_TransferResults_moves : Memory.wf (core 10 { task with xfers := [inside] }).mem = true ∧ ((core 10 { task with xfers := [inside] }).tile 10).xfers = [inside] ∧
    inside.stopped = none ∧ inside.interval = 0 ∧ inside.remote = none ∧ inside.slot = none ∧ inside.localCtr = none ∧ inside.remoteCtr = none ∧ inside.wake = none ∧
    (core 10 { task with xfers := [inside] }).isBad (scratchAt 10 0) 4 = false ∧ (core 10 task).badPartial (scratchAt 10 393212) 4 = false ∧
    (core 10 task).rows.any (fun r => decide (r.sender = 10 ∧ r.xfer = inside.id)) = false := by decide
/-- An empty region of two dimensions, window 6, in the vault's first page, which is mapped at 0x20000. -/
def lattice (k : Nat) (l : List (Nat × Reg)) : State :=
  let s := { core k (with' l (ringed task)) with mem := (placedMemory []).foldl (fun (m : List Host.Cell) (c : Nat × List Byte) => Memory.write m c.1 c.2) [] }
  (s.writeKey 0x50010 (leBytes 8 (Config.vaultBase + 0x71F)) false).writeKey Config.vaultBase
    (leBytes 4 4096 ++ leBytes 4 1 ++ leBytes 4 8192 ++ leBytes 4 4 ++ leBytes 4 latNone ++ leBytes 8 0 ++ leBytes 4 latNone ++ leBytes 4 latNone ++
      leBytes 8 0 ++ [2#8, 6#8, 0#8, 0#8, 8#8, 8#8]) false
/-- The state once the region's page is translated. -/
def opened (s : State) (need : Nat) : State := match s.translateAt s.cur false 0x20000 need with
  | .ok (_, t) => t
  | .error _ => State.reset
/-- The page translates to the vault's first, and nothing there stops the lattice unit. -/
def opens (s : State) (need : Nat) : Bool :=
  (match s.translateAt s.cur false 0x20000 need with
  | .ok (p, _) => decide (p.key = Config.vaultBase)
  | .error _ => false) &&
  decide ((opened s need).undrained (opened s need).cur (PStore.over Config.vaultBase 128) = false ∧
    (opened s need).owned (opened s need).cur noXfer Config.vaultBase 128 = false ∧
    (∀ x ∈ regionSpans (opened s need) Config.vaultBase, (opened s need).owned (opened s need).cur noXfer x.1 x.2 = false) ∧
    (opened s need).isBad Config.vaultBase 128 = false ∧ regionForm (readRegion (opened s need) Config.vaultBase) = none)
theorem opens_region (s : State) (c : Reg) (perms need : Nat) (g : Grants c c.addr 128 (Perm.lattice + perms) 1) (a : c.addr = 0x20000)
    (h : opens s need = true) : OpensRegion s c perms need Config.vaultBase (opened s need) (readRegion (opened s need) Config.vaultBase) := by
  simp only [opens, Bool.and_eq_true, decide_eq_true_eq] at h
  obtain ⟨ht, hu, ho, hs, hb, hf⟩ := h
  refine ⟨g, by rw [a]; decide, ?_, by decide, hu, ho, hs, hb, rfl, hf⟩
  rw [a]
  cases e : s.translateAt s.cur false 0x20000 need with
  | ok x =>
    rw [e] at ht
    exact ⟨x.1, by simp only [opened, e], (of_decide_eq_true ht).symm⟩
  | error f => rw [e] at ht; exact absurd ht Bool.false_ne_true
/-- The descriptor that the page holds once it is translated. -/
def theRegion (s : State) (need : Nat) : Region := readRegion (opened s need) Config.vaultBase
/-- The key 255 and a buffer at the start of the scratchpad. -/
def lattice255 : State := lattice 10 [(5, wholeCap 0x20000), (6, num 255), (7, local' 0)]
theorem opens_255 : opens lattice255 needR = true := by decide +kernel
theorem loads_255 : passes (latLoad 255 ⟨theRegion lattice255 needR, opened lattice255 needR⟩) (fun b y => decide (y.r = theRegion lattice255 needR ∧
    y.s.badPartial (scratchAt lattice255.cur 0) b.length = false ∧ y.s.cur = lattice255.cur ∧
    y.s.engineHoldsKey (scratchAt lattice255.cur 0) b.length true = false)) = true := by decide +kernel
theorem witness_LatticeResults : ∃ t r, lattice255 = lattice255.engineDone ∧
    OpensRegion lattice255 (lattice255.here.getW 5) (Perm.load + Perm.store) needR Config.vaultBase t r ∧ Ready lattice255 [wr 6, (.w, 7), wr 5] ∧
    (lattice255.here.getX 6).toNat < 2 ^ r.keyWidth ∧ CellBuffer (lattice255.here.getW 7) r (Perm.load + Perm.store) 0 ∧
    t.isBad (scratchAt lattice255.cur 0) r.cellBytes = false ∧ t.engineHoldsKey (scratchAt lattice255.cur 0) r.cellBytes false = false ∧
    ∃ b y, latLoad 255 ⟨r, t⟩ = .ok b y ∧ y.r = r ∧ y.s.badPartial (scratchAt lattice255.cur 0) b.length = false ∧ y.s.cur = lattice255.cur ∧
      y.s.engineHoldsKey (scratchAt lattice255.cur 0) b.length true = false := by
  obtain ⟨b, y, e, h⟩ := passes_ok _ _ loads_255
  exact ⟨opened lattice255 needR, theRegion lattice255 needR, by rfl, opens_region _ _ _ _ (by unfold Grants; decide +kernel) (by decide +kernel) opens_255, by unfold Ready; decide,
    by decide +kernel, ⟨by unfold Grants; decide +kernel, 0, by decide +kernel⟩, by decide +kernel, by decide +kernel, b, y, e, of_decide_eq_true h⟩
/-- The key 0 and a buffer at the start of the scratchpad. -/
def lattice0 : State := lattice 10 [(5, wholeCap 0x20000), (6, num 0), (7, local' 0)]
theorem stores_0 : passes (latStore 0 [1] ⟨theRegion lattice0 needR, opened lattice0 needR⟩)
    (fun _ y => decide ((afterEvent (theRegion lattice0 needR) y).cur = lattice0.cur)) = true := by decide +kernel
theorem adds_0 : passes (latAdd 0 [0] ⟨theRegion lattice0 needR, opened lattice0 needR⟩)
    (fun _ y => decide ((afterEvent (theRegion lattice0 needR) y).cur = lattice0.cur)) = true := by decide +kernel
theorem witness_LatticeResults_store : ∃ t r y z, OpensRegion lattice0 (lattice0.here.getW 5) Perm.store needR Config.vaultBase t r ∧
    latStore 0 [1] ⟨r, t⟩ = .ok ⟨⟩ y ∧ (afterEvent r y).cur = lattice0.cur ∧ latAdd 0 [0] ⟨r, t⟩ = .ok ⟨⟩ z ∧ (afterEvent r z).cur = lattice0.cur := by
  obtain ⟨_, y, e, h⟩ := passes_ok _ _ stores_0
  obtain ⟨_, z, e', h'⟩ := passes_ok _ _ adds_0
  exact ⟨_, _, y, z, opens_region _ _ _ _ (by unfold Grants; decide +kernel) (by decide +kernel) (by decide +kernel), e, of_decide_eq_true h, e', of_decide_eq_true h'⟩
/-- A cursor that starts, and a buffer at the start of the scratchpad. -/
def scanning : State := lattice 10 [(5, wholeCap 0x20000), (6, num 0), (7, num 0), (8, local' 0)]
theorem scans_none : passes (latScan false 0 ⟨theRegion scanning needR, opened scanning needR⟩)
    (fun x _ => decide (x = none)) = true := by decide +kernel
theorem witness_LatticeResults_scan : ∃ t r, OpensRegion scanning (scanning.here.getW 5) Perm.load needR Config.vaultBase t r ∧
    Ready scanning [wr 6, (.w, 7), (.w, 8), wr 5] ∧ (scanning.here.getX 7).toNat < 4 ∧ latScan false 0 ⟨r, t⟩ = .ok none ⟨r, t⟩ := by
  obtain ⟨x, e, h⟩ := passes_still (latScan_still _ _) _ _ scans_none
  obtain rfl := of_decide_eq_true h
  exact ⟨_, _, opens_region _ _ _ _ (by unfold Grants; decide +kernel) (by decide +kernel) (by decide +kernel), by unfold Ready; decide, by decide, e⟩
theorem witness_LatticeResults_event : ∃ s r, s = lattice 10 [] ∧ s.isBad Config.vaultBase 128 = false ∧ r = readRegion s Config.vaultBase ∧
    regionForm r = none ∧ (∃ y, latEvent (.load 255) ⟨r, s⟩ = .ok ⟨⟩ y) ∧ ∃ e y, latEvent (.load (2 ^ 16)) ⟨r, s⟩ = .error e y :=
  ⟨_, _, rfl, by decide, rfl, by decide, ⟨_, rfl⟩, ⟨_, _, rfl⟩⟩
/-- LSPMM's region and operand ring on a tensor core. -/
def streamed : State := lattice 8 [(5, wholeCap 0x20000), (6, num 0)]
theorem cells_none : passes (lspmmCells 0 0 ⟨theRegion streamed (needR + needEng), opened streamed (needR + needEng)⟩)
    (fun x _ => decide (x = [])) = true := by decide +kernel
theorem witness_LatticeResults_lspmm : ∃ t r cells, streamed = streamed.engineDone ∧ NothingBefore streamed ∧ kindOf streamed.cur = 1 ∧ Ready streamed [wr 5, (.w, 6)] ∧
    Operand streamed 0 (streamed.here.ring 0).head 6 512 ∧ OpensRegion streamed (streamed.here.getW 5) Perm.engine (needR + needEng) Config.vaultBase t r ∧ r.dims = 2 ∧
    windowOk (streamed.here.accOf 0).mode 6 = true ∧ windowOk (streamed.here.accOf 0).mode r.cfmt = true ∧ lspmmCells 0 0 ⟨r, t⟩ = .ok cells ⟨r, t⟩ ∧ Funded streamed := by
  obtain ⟨x, e, _⟩ := passes_still (lspmmCells_still _ _) _ _ cells_none
  exact ⟨_, _, x, by rfl, by unfold NothingBefore; decide, by decide, by unfold Ready; decide, by unfold Operand; decide,
    opens_region _ _ _ _ (by unfold Grants; decide +kernel) (by decide +kernel) (by decide +kernel), by decide +kernel, by decide +kernel, by decide +kernel, e, by unfold Funded; decide⟩
/-- LDENSE's parameter block in the scratchpad: the box of one element at (255, 255). -/
def boxed : State := (lattice 10 [(5, wholeCap 0x20000), (6, local' 64)]).writeKey (scratchAt 10 64)
  ((wholeCap (Config.localBase + 2 ^ 20 * 6)).bytes ++ leBytes 4 255 ++ leBytes 4 255 ++ leBytes 8 0 ++ leBytes 4 1 ++ leBytes 4 1 ++ leBytes 4 1 ++ leBytes 4 1 ++
    leBytes 4 0xFFFFFFFF) true
/-- The bytes of the block. -/
def box : List Byte := boxed.readAt (scratchAt 10 64) 64
theorem boxes_one : passes (boxElems [255, 255, 0, 0] [1, 1, 1, 1] ⟨theRegion boxed needR, opened boxed needR⟩)
    (fun _ _ => true) = true := by decide +kernel
theorem witness_LatticeResults_ldense : ∃ g t r codes, boxed = boxed.engineDone ∧ NothingBefore boxed ∧ Ready boxed [wr 6, wr 5] ∧
    Grants (boxed.here.getW 6) (boxed.here.getW 6).addr 64 Perm.load 16 ∧ Loads boxed (boxed.here.getW 6).addr 64 false boxed box g ∧
    OpensRegion boxed (boxed.here.getW 5) Perm.load needR Config.vaultBase t r ∧ ctrOk (blockNat box 48 4) = true ∧ blockNat box 52 12 = 0 ∧
    255 + 1 ≤ 2 ^ r.width 0 ∧ 255 + 1 ≤ 2 ^ r.width 1 ∧ rangeCause (blockCap box 0 g (boxed.here.getW 6)) (elemBytes r.cfmt) (Perm.store + Perm.engine) true
      (blockCap box 0 g (boxed.here.getW 6)).addr = none ∧ t.here.copying < 16 ∧ boxElems [255, 255, 0, 0] [1, 1, 1, 1] ⟨r, t⟩ = .ok codes ⟨r, t⟩ := by
  obtain ⟨x, e, _⟩ := passes_still (boxElems_still _ _) _ _ boxes_one
  exact ⟨tagGet boxed.tags (scratchAt boxed.cur 64 / 16), _, _, x, by rfl, by unfold NothingBefore; decide, by unfold Ready; decide, by unfold Grants; decide,
    Or.inl ⟨0, 64, by decide, by decide, by decide, rfl, rfl, rfl⟩, opens_region _ _ _ _ (by unfold Grants; decide +kernel) (by decide +kernel) (by decide +kernel),
    by decide, by decide, by decide +kernel, by decide +kernel, by decide +kernel, by decide +kernel, e⟩
/-- Die 0 has a pool of tokens. -/
def pooled (n : Nat) (closed : Bool) (l : List (Nat × Reg)) : State := { regs l with dies := [(0, { Die.reset with pool := n, frozen := closed })] }
theorem witness_TokenResults : Ready (pooled 180 false [(5, num 255)]) [wr 5, wr 6] ∧ ((pooled 180 false [(5, num 255)]).here.getX 5).toNat = 255 ∧
    (((pooled 180 false [(5, num 1)]).serveAll (dieOf 10)).die (dieOf 10)).closed = false ∧ 0 < ((pooled 180 false [(5, num 1)]).serveAll (dieOf 10)).freeTokens (dieOf 10) ∧
    min 1 (fullRate 10 - (((pooled 180 false [(5, num 1)]).serveAll (dieOf 10)).tile 10).hold - (((pooled 180 false [(5, num 1)]).serveAll (dieOf 10)).tile 10).later) ≤
      ((pooled 180 false [(5, num 1)]).serveAll (dieOf 10)).freeTokens (dieOf 10) ∧
    (((pooled 180 true []).serveAll (dieOf 10)).die (dieOf 10)).closed = true ∧
    (((pooled 180 false [(5, num 1)]).serveAll (dieOf 10)).grant 10 1).2.here.bound 6 = none ∧
    (((pooled 180 false [(5, num 1)]).serveAll (dieOf 10)).grant 10 1).2.cur = 10 ∧
    ((pooled 180 false [(5, num 1)]).dueTokens (dieOf 10) ((pooled 180 false [(5, num 1)]).timeOf 10)).cur = 10 := by
  unfold Ready; decide

theorem witness_ChordsAndConsorts_compose : Ready (regs [(5, num 22)]) [wr 5, wr 6] ∧ (regs [(5, num 22)]).here.handler = false ∧
    (regs [(5, num 22)]).here.composed = false ∧ (regs [(5, num 22)]).here.consort = none ∧ ((regs [(5, num 22)]).here.getX 5).toNat = 22 ∧
    22 % 2 ^ 2 = 2 ∧ 22 / 2 ^ 2 % 2 ^ 2 = 1 ∧ 22 / 2 ^ 4 = 1 ∧ (regs [(5, num 22)]).eligible 10 (rectCores (clusterOf 10) 2 1 1) = false := by unfold Ready; decide
theorem witness_ChordsAndConsorts_eligible : (regs [(5, num (2 + 2 * 2 ^ 2 + 1 * 2 ^ 4))]).eligible 10 (rectCores 0 2 2 1) = true := by decide
/-- GANG's words of a leader, rank 1, and of its follower, rank 0. -/
def gang (l : List (Nat × Reg)) : State :=
  two (with' l task) { task with wait := some ⟨.gang 0x10000 (BitVec.ofNat 64 (7 + 2 ^ 8 + 2 ^ 32)) 6 5, 0, 0x3B, 2, 4⟩ } pair
theorem witness_ChordsAndConsorts_gang : ∃ cores, Ready (gang [(5, num (7 + 2 ^ 16))]) [wr 5, wr 6] ∧ (gang [(5, num (7 + 2 ^ 16))]).gridOf 10 = some pair ∧
    (gang [(5, num (7 + 2 ^ 16))]).here.consort = none ∧ (gang [(5, num (7 + 2 ^ 16))]).gangMatch 10 pair ⟨0, 0, 0, 0⟩ 0x10000 (7 + 2 ^ 16) = some cores ∧
    (∀ e ∈ (gang [(5, num (7 + 2 ^ 16))]).tiles, e.2.consort.map (·.leader) ≠ some (cores.headD 10)) ∧ OthersPass (gang [(5, num (7 + 2 ^ 16))]) cores :=
  ⟨[11, 10], by unfold Ready; decide, by decide, by decide, by decide, by decide, by unfold OthersPass CanPass; decide⟩
theorem witness_ChordsAndConsorts_gang_waits : (two task task pair).gangMatch 10 pair ⟨0, 0, 0, 0⟩ 0x10000 (7 + 2 ^ 16) = none ∧
    ¬ (0 ≤ bandRank pair ⟨0, 0, 0, 1⟩ ∧ bandRank pair ⟨0, 0, 0, 1⟩ < 1) := by decide
/-- A run of a leader, forwarded from an address. -/
def run (a : Nat) : Forward := ⟨a, [], false⟩
/-- A leader on core 10 with its follower on core 11, which holds `runs`, and has the wait `w`. -/
def consort (mine runs : List Forward) (since : Option Nat) (w : Option Wait) : State :=
  two { task with consort := some ⟨7, 10, true, mine, false, false, false, none, 2⟩ }
    { task with consort := some ⟨7, 10, true, runs, false, false, false, since, 2⟩, wait := w } pair
theorem witness_ChordsAndConsorts_join : Ready (consort [] [] none (some ⟨.join 0 5, 0, 0x3B, 3, 4⟩)) [wr 0] ∧
    (consort [] [] none (some ⟨.join 0 5, 0, 0x3B, 3, 4⟩)).here.consort = some ⟨7, 10, true, [], false, false, false, none, 2⟩ ∧
    (consort [] [] none (some ⟨.join 0 5, 0, 0x3B, 3, 4⟩)).tiles.all (joined 10 0) = true ∧ (consort [] [] none none).tiles.all (joined 10 0) = false ∧
    OthersPass (consort [] [] none (some ⟨.join 0 5, 0, 0x3B, 3, 4⟩)) ((consort [] [] none (some ⟨.join 0 5, 0, 0x3B, 3, 4⟩)).members 10) ∧
    (consort [] [] none none).members 10 = [10, 11] := by
  unfold Ready OthersPass CanPass; decide
theorem witness_ChordsAndConsorts_runs : ((consort [run 0x10000] [run 1, run 2] none none).tile 10).consort = some ⟨7, 10, true, [run 0x10000], false, false, false, none, 2⟩ ∧
    (∀ e ∈ (consort [run 0x10000] [run 1, run 2] none none).tiles, ∀ y ∈ e.2.consort, y.leader = 10 → e.1 ≠ 10 → (y.runs.drop (bit y.started)).length < 16) ∧
    (∃ p w, (paged []).translateAt 10 true 0x10000 needX = .ok (p, w) ∧ w.pendingBytes 10 p.key 128 = false ∧ w.owned 10 noXfer p.key 128 = false ∧
      w.unreadable 10 p.key 128 p.repl = false) := ⟨by decide, by decide, _, _, rfl, by decide, by decide, by decide⟩
/-- A follower's buffer that has been full since time 0, at a time. -/
def overfull (n : Nat) : State :=
  { consort [] (List.replicate 16 (run 1)) (some 0) none with dies := [(0, { Die.reset with time := n })] }
theorem witness_ChordsAndConsorts_full : (11, (overfull 0).tile 11) ∈ (overfull 0).tiles ∧ 16 ≤ ((List.replicate 16 (run 1)).drop (bit false)).length ∧
    ((overfull 0).tile 11).consort = some ⟨7, 10, true, List.replicate 16 (run 1), false, false, false, some 0, 2⟩ ∧ (overfull 255).timeOf 11 < 0 + 256 ∧
    0 + 256 ≤ (overfull 256).timeOf 11 := ⟨List.mem_cons_of_mem _ (List.mem_singleton.mpr rfl), by decide, by decide, by decide, by decide⟩
/-- A member's tile that anchors a chord with `n` runs, of which `m` have committed. -/
def anchor (n m : Nat) (p : Bool) : Tile := { task with chord := some ⟨2, 2, 1, [10, 11]⟩, runs := n, commits := m, parked := p }
theorem witness_ChordsAndConsorts_commit : ((core 10 (anchor 2 1 false)).tile 10).chord ≠ none ∧
    ((core 10 (anchor 2 1 false)).tile 10).commits < ((core 10 (anchor 2 1 false)).tile 10).runs ∧ ((core 10 (anchor 2 1 false)).tile 10).parked = false ∧
    ((core 10 (anchor 2 1 true)).tile 10).commits + 1 = ((core 10 (anchor 2 1 true)).tile 10).runs ∧
    ((core 10 (anchor 2 0 true)).tile 10).commits + 1 ≠ ((core 10 (anchor 2 0 true)).tile 10).runs ∧ ((core 10 task).tile 10).chord = none := by decide
theorem witness_SystemRegisters : ∃ s, s = (regs [(5, num 48)]).engineDone ∧ Ready s [wr 5] ∧ s.here.pc.has Perm.system = true ∧ s.partOf s.cur ≠ none ∧
    (s.here.modCls 15 (fun e => { e with cfg := s.here.getX 5 })).rankedTotal ≤ 48 ∧ (s.here.getX 5).toNat < 2 ^ 20 :=
  ⟨regs [(5, num 48)], by rfl, by unfold Ready; decide, by decide, by decide, by decide, by decide⟩
theorem witness_SystemRegisters_srd (s : State) : SysValue s 2 (Reg.plain (BitVec.ofNat 64 s.here.rscnt)) ∧
    SysValue s 0x5F (Reg.plain s.here.classes[15].cfg) ∧ SysBlock s 0x17C (.qrd (s.partNo s.cur) 15) := by
  refine ⟨Or.inr (Or.inr (Or.inl ⟨rfl, rfl⟩)), ?_, Or.inl ⟨15, Or.inr (Or.inr (Or.inr (Or.inr ⟨rfl, rfl⟩)))⟩⟩
  unfold SysValue
  iterate 12 apply Or.inr
  exact Or.inl ⟨15, rfl, rfl⟩
theorem witness_SystemRegisters_swr (c : Reg) : SysUpdate 0x4F c (fun u => u.modCls 15 (fun e => { e with cap := c })) := by
  unfold SysUpdate
  iterate 6 apply Or.inr
  exact Or.inl ⟨15, rfl, rfl⟩
theorem witness_SystemRegisters_unallocated (s : State) (v : Reg) : ¬ SysValue s 3 v := by
  unfold SysValue SysBlock
  simp only [not_or, not_exists, not_and]
  refine ⟨by omega, by omega, by omega, fun i h => by omega, by omega, by omega, by omega, fun i h => by omega, by omega, by omega, by omega,
    fun i h => by omega, fun i h => by omega, ?_, by omega⟩
  rintro r (⟨q, h⟩ | h | h | h | h) <;> omega
theorem witness_SystemRegisters_user : (core 10 { task with pc := Reg.mk' true (2 ^ 16) 0 40 0 (0xFFF - Perm.system) 0x10000 }).here.pc.has Perm.system = false := by decide
theorem witness_ManagementResults_zpool : (55 : Nat) < Config.dies := by decide
/-- Queue 15 has room for two packets. -/
def launcher (n : Nat) : State :=
  let q : Queue := { Queue.reset with qbase := 0x80000, qcbase := 0x90000, qctl := BitVec.ofNat 64 (1 + 2 * n) }
  let p : Partition := { Partition.reset with live := true, dies := [0], hbms := [0], queues := Vector.replicate 16 Queue.reset |>.set 15 q }
  { regs [(5, num 15), (6, local' 0)] with parts := [(0, p)] }
theorem witness_LaunchAndDispatch_launch : ∃ b g b' g' k, launcher 1 = (launcher 1).settled .system ∧ Performed (launcher 1) .system ∧ Ready (launcher 1) [wr 5, wr 6] ∧
    ((launcher 1).here.getX 5).toNat < 2 ^ 4 ∧ Grants ((launcher 1).here.getW 6) ((launcher 1).here.getW 6).addr 128 (Perm.load + Perm.loadCap) 128 ∧
    Loads (launcher 1) ((launcher 1).here.getW 6).addr 128 false (launcher 1) b g ∧
    Loads (launcher 1) (((launcher 1).here.getW 6).addr + 16) 16 false (launcher 1) b' g' ∧ (launcher 1).here.bound 5 = none ∧
    k = (launcher 1).queue ((launcher 1).partNo 10) 15 ∧ k.n ≠ 0 ∧ (k.qwr + 2 ^ 32 - k.qrd) % 2 ^ 32 ≠ 2 ^ k.n ∧ (launcher 1).partOf 10 ≠ none ∧
    backed (k.slotAt k.qwr) 128 = true ∧ Memory.wf (launcher 1).mem = true ∧ k.qbase.toNat % 128 = 0 ∧ ((launcher 0).queue 0 15).n = 0 :=
  ⟨_, _, _, _, _, by rfl, by unfold Performed; decide, by unfold Ready; decide, by decide, by unfold Grants; decide, Or.inl ⟨0, 0, by decide, by decide, by decide, rfl, rfl, rfl⟩,
    Or.inl ⟨0, 16, by decide, by decide, by decide, rfl, rfl, rfl⟩, by decide, rfl, by decide, by decide, by decide, by decide, by decide, by decide, by decide⟩
/-- A task that awaits the reply with SEQ 1 to a call or a posted fault. -/
def awaits (call : Bool) (maj : Nat) : Awaiting :=
  { seq := 1, call := call, xfer := false, wd := 5, len := 4, start := 0, report := ⟨0x10, .load, maj, 0, 0x20000, 0x10000, 0⟩ }
/-- The reply `v` to it is on its way. -/
def replied (call : Bool) (maj : Nat) (v : Word) (t : Tile) : State :=
  { core 10 { t with awaiting := [awaits call maj] } with replies := [⟨(core 0 task).nameOf 10, 1, v⟩] }
theorem witness_ServiceCalls : ∃ s, s = (regs [(5, num 9), (6, num 1)]).storesDone .system ∧ Performed s .system ∧ NotAtEnd s ∧ Ready s [wr 5, wr 6] ∧
    s.toController s.cur = true ∧ s.here.pc.has Perm.system = true :=
  ⟨regs [(5, num 9), (6, num 1)], by rfl, by unfold Performed; decide, by unfold NotAtEnd; decide, by unfold Ready; decide, by decide, by decide⟩
theorem witness_ServiceCalls_core : (core 10 { task with svc := BitVec.ofNat 64 ((core 0 task).nameOf 11) }).toController 10 = false := by decide
theorem witness_ServiceCalls_reply : (replied true 0x3C 7 task).replies.any (replyTo 10 1 7) = true ∧
    ((replied true 0x3C 7 task).tile 10).awaiting = [awaits true 0x3C] ∧ ((replied true 0x3C 7 task).tile 10).bound 5 = none := by decide
theorem witness_TlbTableAndMeter : Ready (regs []) [wr 0, wr 63] ∧ (regs []).here.pc.has Perm.system = true ∧
    (paged []).asidOwned 0 0 = true ∧
    (∀ e ∈ (regs []).tiles, ((regs []).tile e.1).stores = [] ∧ e.2.stores = [] ∧ ((regs []).tile e.1).commitAll = (regs []).tile e.1) ∧
    (∀ w ∈ (regs []).rwrites, (regs []).partOf w.writer ≠ some 0) := by
  refine ⟨by unfold Ready; decide, by decide, by decide, ?_, by decide⟩
  intro e h
  obtain rfl := List.mem_singleton.mp h
  exact ⟨by decide, by decide, rfl⟩
theorem witness_TlbTableAndMeter_ifence : regs [] = (regs []).storesDone .system ∧ Performed (regs []) .system :=
  ⟨by rfl, by unfold Performed; decide⟩
theorem witness_TlbTableAndMeter_tblld : ∃ s l g, s = (regs [(27, local' 64)]).engineDone ∧ Ready s [wr 27] ∧
    Grants (s.here.getW 27) (s.here.getW 27).addr 1024 Perm.load 64 ∧ Loads s (s.here.getW 27).addr 1024 false s l g :=
  ⟨regs [(27, local' 64)], _, _, by rfl, by unfold Ready; decide, by unfold Grants; decide,
    Or.inl ⟨0, 64, by decide, by decide +kernel, by decide +kernel, rfl, rfl, rfl⟩⟩
/-- An account of job 0 of partition 0. -/
def account : Acct := ⟨5000, 0, 0, (0, 0), false, false, false, false, [(0, 0)]⟩
theorem witness_TlbTableAndMeter_meter :
    ({ regs [] with accounts := [(.job 0 0, account)], refCount := 21000 } : State).accounts.find? (fun y => decide (y.1 = .job 0 0)) = some (.job 0 0, account) ∧
    (∀ e ∈ account.history, e.1 + 21000 ≤ 21000) ∧ (∀ x ∈ (regs []).accounts, x.1 ≠ .job 0 0) := by decide
/-- A tile whose class 15 has a handler. -/
def trapping : Tile := { task with classes := Vector.replicate 16 ClassEntry.reset |>.set 15 ⟨wholeCap 0x400, 0, 0, 0, false⟩ }
theorem witness_TrapAndHandlerEntry : ((core 10 trapping).tile 10).task ≠ none ∧ ((core 10 trapping).tile 10).awaiting = [] ∧
    ((core 10 trapping).tile 10).handler = false ∧ ((core 10 trapping).tile 10).classes[15].cap.tag = true ∧
    ((core 10 trapping).tile 10).classes[15].cap.has Perm.exec = true ∧ ((core 10 task).tile 10).classes[15].cap.tag = false ∧
    ((core 10 mailed).tile 10).nextClass = some 3 ∧ ((core 10 mailed).tile 10).wait = none ∧ ((core 10 mailed).tile 10).runPos = 0 ∧
    ((core 10 mailed).tile 10).parked = false ∧ ((core 10 task).tile 10).nextClass = none ∧ ((core 10 { task with parked := true }).tile 10).parked = true ∧
    (((core 10 mailed).engineDrain 10).tile 10).eng = [] ∧ ((core 10 { task with parked := true }).tile 10).due = [] := by decide +kernel
theorem witness_FaultEvents_reply : (replied false 0x10 1 task).replies.any (replyTo 10 1 1) = true ∧ ((replied false 0x10 1 task).tile 10).awaiting = [awaits false 0x10] ∧
    (awaits false 0x10).report.maj ≠ 0xFF ∧ (awaits false 0xFF).report.maj = 0xFF ∧ ((replied false 0x10 2 trapping).tile 10).trapReady = true ∧
    ((replied false 0x10 2 trapping).tile 10).wait = none ∧ ((replied false 0x10 2 task).tile 10).trapReady = false := by decide
theorem witness_FaultEvents_controller : (replied false 0x10 0 task).serviceGone 10 = true ∧
    ({ core 10 task with calls := [(10, (awaits true 0).report, 5)] } : State).calls = (10, (awaits true 0).report, 5) :: [] ∧
    (core 10 task).grid? 0 = some (placedGrid 10) ∧ (placedGrid 10).abort = none ∧ (∀ k ∈ (core 10 task).coresOf 0, (core 10 task).stands (placedGrid 10) k = false) := by decide +kernel
/-- A core that has waited at TWAIT for LIMIT × 1,024 cycles, with HANGCTL's LIMIT 1. -/
def hanging : State :=
  { core 10 { trapping with wait := some ⟨.slots, 0, 0x18, 2, 4⟩ } with
    dies := [(0, { Die.reset with time := 1024 })], parts := [(0, { Partition.reset with live := true, dies := [0], hangctl := 0x17F })] }
theorem witness_FaultEvents_hang : ∃ n, (hanging.tile 10).wait = some ⟨.slots, 0, 0x18, 2, 4⟩ ∧ WaitFor.kind .slots = some n ∧
    bf (hanging.part (hanging.partNo 10)).hangctl.toNat 8 32 ≠ 0 ∧ bf (hanging.part (hanging.partNo 10)).hangctl.toNat n 1 = 1 ∧
    0 + bf (hanging.part (hanging.partNo 10)).hangctl.toNat 8 32 * 1024 ≤ hanging.timeOf 10 ∧ (hanging.tile 10).handler = false ∧
    (hanging.tile 10).trapReady = true ∧ hanging.hung 10 n 0 = true ∧
    (∀ d ∈ (hanging.tile 10).due.head?, hanging.dueValue 10 d = none) :=
  ⟨_, by decide, rfl, by decide, by decide, by decide, by decide, by decide, by decide, by decide⟩
theorem witness_FaultEvents_check : (unitRecord 1 1 7 Config.vaultBase (some 0)).sev ≠ 0 ∧ (unitRecord 1 1 7 Config.vaultBase (some 0)).array ≠ 12 ∧
    (unitRecord 4 10 0xFF 0 none).part = none := by decide
theorem witness_FaultEvents_walk : ∃ p t f, (paged []).translateAt 10 false 0x1FFFF (needOf .load) = .ok (p, t) ∧
    (paged []).translateAt 10 false 0x30000 (needOf .store) = .error f ∧ f.why.cause ≠ 0 ∧ ((paged []).tile 10).task ≠ none ∧ ((paged []).tile 10).awaiting = [] :=
  ⟨_, _, _, rfl, rfl, by decide, by decide, by decide⟩

/-- The state with partition 0 set up on die 0 and changed. -/
def parted (f : Partition → Partition) (s : State) : State :=
  { s with parts := [(0, f { Partition.reset with live := true, dies := [0], hbms := [0], ethPorts := [7] })] }
/-- A queue whose slot 0 holds a packet. -/
def pending : Queue := { Queue.reset with qbase := 0x80000, qcbase := 0x90000, qctl := 3, qwr := 1 }
/-- Queue 15 with a packet of these flags and this deadline, whose PROG and CTX have these tags. -/
def queued (tags : List Nat) (deadline flags : Nat) : State :=
  let b := leBytes 16 ((wholeCap 0x10000).hi.toNat * 2 ^ 64 + 0x10000) ++ leBytes 16 ((wholeCap 0x100000).hi.toNat * 2 ^ 64 + 0x100000) ++
    leBytes 8 deadline ++ leBytes 8 0x10000 ++ [1#8, 0#8, 1#8, 1#8] ++ leBytes 4 0 ++ leBytes 4 flags ++ leBytes 4 0xFFFF ++ leBytes 64 0
  { (parted (fun p => { p with queues := p.queues.set 15 pending }) (paged [])).writeKey 0x80000 b false with tags := tags, dies := [(0, { Die.reset with time := 1000 })] }
/-- The packet as the dispatcher sees it. -/
def theGrid (s : State) : Grid :=
  { s.packetAt 0 15 0 s.free with
    late := decide ((s.packetAt 0 15 0 s.free).deadline ≠ 0 ∧ (s.packetAt 0 15 0 s.free).deadline < s.refTime 0) }
theorem witness_LaunchAndDispatch_malformed : ChosenPacket (queued [] 0 0) 0 15 0 (theGrid (queued [] 0 0)) ∧ Memory.wf (queued [] 0 0).mem = true ∧
    (queued [] 0 0).isBad (((queued [] 0 0).queue 0 15).slotAt 0) 128 = false ∧ (queued [] 0 0).packetCheck (theGrid (queued [] 0 0)) ≠ 0 :=
  ⟨⟨⟨⟨2 ^ 64, false, 15, 0⟩, by decide, by decide, by decide⟩, by decide, by decide, by decide, by decide, by unfold RingFree; decide, rfl⟩, by decide, by decide, by decide⟩
theorem witness_LaunchAndDispatch_expired : ChosenPacket (queued [0x8000, 0x8001] 1 8) 0 15 0 (theGrid (queued [0x8000, 0x8001] 1 8)) ∧
    (queued [0x8000, 0x8001] 1 8).packetCheck (theGrid (queued [0x8000, 0x8001] 1 8)) = 0 ∧
    (theGrid (queued [0x8000, 0x8001] 1 8)).late = true ∧ (theGrid (queued [0x8000, 0x8001] 1 8)).dropIfLate = true :=
  ⟨⟨⟨⟨1, false, 15, 0⟩, by decide, by decide, by decide⟩, by decide, by decide, by decide, by decide, by unfold RingFree; decide, rfl⟩, by decide, by decide, by decide⟩
theorem witness_LaunchAndDispatch_placed : ChosenPacket (queued [0x8000, 0x8001] 0 0) 0 15 0 (theGrid (queued [0x8000, 0x8001] 0 0)) ∧
    (queued [0x8000, 0x8001] 0 0).packetCheck (theGrid (queued [0x8000, 0x8001] 0 0)) = 0 ∧
    (theGrid (queued [0x8000, 0x8001] 0 0)).late = false ∧
    (queued [0x8000, 0x8001] 0 0).placement (theGrid (queued [0x8000, 0x8001] 0 0)) (fun _ => true) = some [0] ∧
    (∃ u, ({ queued [0x8000, 0x8001] 0 0 with free := (queued [0x8000, 0x8001] 0 0).free + 1 } : State).readShape (theGrid (queued [0x8000, 0x8001] 0 0)) = .ok ([], u)) ∧ [0].Nodup :=
  ⟨⟨⟨⟨2 ^ 64, false, 15, 0⟩, by decide, by decide, by decide⟩, by decide, by decide, by decide, by decide, by unfold RingFree; decide, rfl⟩, by decide, by decide,
    by decide, ⟨_, rfl⟩, by decide⟩
/-- No die of the partition has an idle tile. -/
theorem witness_LaunchAndDispatch_held : ({ queued [0x8000, 0x8001] 0 0 with vacant := List.range 128 } : State).placement
    (theGrid (queued [0x8000, 0x8001] 0 0)) (fun _ => true) = none ∧ bf (queued [] 0 0).preempten.toNat 0 1 = 0 := by decide

/-- A task that has not begun, of a grid with these flags; `w` is its kept wake-up. -/
def unbegun (flags : Nat) (w : Bool) : State :=
  { core 10 { task with wake := w } with grids := [(0, { placedGrid 10 with unstarted := [10], flags := flags })] }
theorem witness_GridLife_start : ((unbegun 16 false).tile 10).task = some ⟨0, 0, 0, 0⟩ ∧
    (unbegun 16 false).grid? 0 = some { placedGrid 10 with unstarted := [10], flags := 16 } ∧
    ({ placedGrid 10 with unstarted := [10], flags := 16 } : Grid).unstarted.contains 10 = true ∧ 16 / 2 ^ 4 % 2 = 1 ∧ 15 / 2 ^ 4 % 2 = 0 ∧
    ((unbegun 16 true).tile 10).wake = true ∧ ((unbegun 16 false).tile 10).wake = false := by decide
theorem witness_GridLife_complete : Memory.wf (core 10 task).mem = true ∧
    (parted (fun p => { p with queues := p.queues.set 0 pending }) (core 10 task)).ringOk 0 0 0 = true ∧
    RingFree (parted (fun p => { p with queues := p.queues.set 0 pending }) (core 10 task)) 0 0 0 ∧
    (placedGrid 10).abort = none ∧ (placedGrid 10).phase = .running ∧ ({ placedGrid 10 with exited := [0] } : Grid).exited = List.range 1 := by unfold RingFree; decide
theorem witness_GridLife_aborted : ({ core 10 task with tiles := [] } : State).grid? 0 = some (placedGrid 10) ∧
    ∀ k, (({ core 10 task with tiles := [] } : State).tile k).task.map (·.grid) ≠ some 0 := ⟨by decide, fun _ => (by decide : (none : Option Nat) ≠ some 0)⟩
/-- A grid whose task is to be saved, with its packet in the ring of queue 0 and its context at 0x20000, in the vault. -/
def saving : State := parted (fun p => { p with queues := p.queues.set 0 pending })
  { (paged []).writeKey 0x50010 ((List.range 7).flatMap (fun i => leBytes 8 (Config.vaultBase + i * 65536 + 0x71F))) false with tiles := [(10, { task with stop := some .save })], grids := [(0, { placedGrid 10 with phase := .saving, ctx := wholeCap 0x20000 })] }
/-- A check of a result that is not an error. -/
def succeeds {α β : Type} (r : Except α β) (f : β → Bool) : Bool :=
  match r with
  | .ok x => f x
  | .error _ => false
theorem succeeds_ok {α β : Type} (r : Except α β) (f : β → Bool) (h : succeeds r f = true) : ∃ x, r = .ok x ∧ f x = true := by
  cases r <;> simp_all [succeeds]
theorem saves : succeeds ((((saving.engineDrain 10).drainStores 10).withdrawWait 10 false |>.modTile 10 Tile.keptAside).writeRecord 10 0x20000)
    (fun v => decide (v.grid? 0 = saving.grid? 0)) = true := by decide +kernel
theorem witness_GridLife_save : ∃ u v g, u = (saving.engineDrain 10).drainStores 10 ∧ (saving.tile 10).task = some ⟨0, 0, 0, 0⟩ ∧
    saving.grid? 0 = some g ∧ g.phase = .saving ∧ (saving.tile 10).atStop = true ∧ g.unstarted.contains 10 = false ∧
    g.saved.any (fun x => decide (x.core = 10)) = false ∧ u.xfersOut 10 = false ∧ (u.tile 10).eng = [] ∧ u.undrained 10 (fun _ => true) = false ∧
    (∀ i : Fin 256, (u.tile 10).slots[i].state ≠ .filling) ∧ saving.ringOk 0 0 0 = true ∧ RingFree saving 0 0 0 ∧
    ((u.withdrawWait 10 false).modTile 10 Tile.keptAside).writeRecord 10 (g.ctx.addr + 458752 * grankOf g ⟨0, 0, 0, 0⟩) = .ok v ∧
    v.grid? 0 = some g ∧ g.sever = none ∧ g.allExited = false := by
  obtain ⟨v, e, h⟩ := succeeds_ok _ _ saves
  exact ⟨_, v, _, rfl, by decide, rfl, by decide, by decide, by decide, by decide, by decide +kernel, by decide +kernel, by decide +kernel,
    by decide +kernel, by decide, by unfold RingFree; decide, e, of_decide_eq_true h, by decide, by decide⟩
/-- A saved grid of one exited task, which competes again. -/
def saved : State :=
  parted (fun p => { p with queues := p.queues.set 0 { pending with qctl := 0 } })
    { core 10 Tile.idle with tiles := [], grids := [(0, { placedGrid 10 with phase := .saved, exited := [0] })] }
theorem witness_GridLife_resume : ∃ v, saved.grid? 0 = some { placedGrid 10 with phase := .saved, exited := [0] } ∧
    (∃ c, saved.chosen 0 = some c ∧ c.resumed = true ∧ c.id = 0) ∧ saved.holdsPlacement 0 = false ∧ saved.resumeCores [] [] = some [] ∧
    saved.ringOk 0 0 0 = true ∧ RingFree saved 0 0 0 ∧ saved.restoreAll { placedGrid 10 with phase := .saved, exited := [0] } [] = .ok v :=
  ⟨_, by decide, ⟨⟨2 ^ 64, true, 0, 0⟩, by decide⟩, by decide, by decide, by decide, by unfold RingFree; decide, by rfl⟩
theorem witness_GridLife_commands : ((core 10 task).part 0).hpre.toNat < 2 ^ 63 ∧
    (parted (fun p => { p with hpre := BitVec.ofNat 64 (2 ^ 63) }) (core 10 task)).parts.all (fun e => decide (2 ^ 63 ≤ e.2.hpre.toNat)) = true ∧
    (core 10 task).grids.find? (fun e => decide (e.2.part = 0 ∧ e.2.queue = 0 ∧ e.2.slot = 0)) = some (0, placedGrid 10) ∧
    (∀ e ∈ (core 10 task).grids, ¬ (e.2.part = 0 ∧ e.2.queue = 15 ∧ e.2.slot = 2 ^ 32 - 1)) ∧ (core 10 task).severances = [] ∧
    ({ core 10 task with severances := [⟨0, 0, 0, 0⟩] } : State).severances.find? (fun x => decide (x.part = 0 ∧ x.queue = 0 ∧ x.slot = 0)) =
      some ⟨0, 0, 0, 0⟩ ∧ (core 10 task).readAt (((core 10 task).queue 0 0).slotAt 0) 128 ≠ (placedGrid 10).packet := by decide
/-- A message for core 11, which no task of a grid has, or for core 10. -/
def mail (dest : Nat) (wake : Bool) : Msg := ⟨10, (core 10 task).nameOf 10, dest, (core 10 task).nameOf dest, 3, wake, 1, [5], 0, none, some 0, false, 0, false⟩
/-- It is on its way. -/
def mailing (m : Msg) (t : Tile) : State := { core 10 t with msgs := [m] }
/-- A RANKED class 3, which holds the pair of the key 5 and the data 0. -/
def ranked : Tile := { task with
  inbox := [⟨1, 3, 1, [5], 0, []⟩], classes := Vector.replicate 16 ClassEntry.reset |>.set 3 ⟨wholeCap 0x400, 3, 0, 0, false⟩ }
theorem witness_MessageEvents_class : classEvent (mailing (mail 10 false) mailed) 0 (mail 10 false) (.messageArrival 0) ∧
    classEvent (mailing { mail 10 false with interval := 64 } task) 0 { mail 10 false with interval := 64 } (.messageRetry 0) ∧
    (mailing (mail 10 false) mailed).receives 10 = true ∧ (task.cls 3).en = false ∧ (mailed.cls 3).en = true ∧
    (mailed.cls 3).ranked = false ∧ mailed.spilled = [] ∧ mailed.fifoUsed < mailed.fifoRoom ∧ (mailing (mail 10 false) mailed).receives 11 = false := by
  unfold classEvent; decide

theorem witness_MessageEvents_ranked : (ranked.cls 3).en = true ∧ (ranked.cls 3).ranked = true ∧
    (∃ x ∈ ranked.held 3, x.key = (sieveKey (5 % 2 ^ 32), 5 / 2 ^ 32)) ∧ keyNan (0x7FC00000 % 2 ^ 32) = true ∧
    (mailing (mail 11 false) task).bare 11 = true := by
  refine ⟨by decide, by decide, ⟨⟨1, 3, 1, [5], 0, []⟩, List.mem_singleton.mpr rfl, by decide⟩, by decide, by decide⟩
/-- A core whose INBOX_SPILL grants room for two messages in its vault, with `n` of them spilled. -/
def spilling (n : Nat) : State :=
  let s := lattice 10 []
  { s with tiles := [(10, { task with spilled := List.replicate n ⟨1, 3, 1, [5], 0, []⟩, ispill := Reg.mk' true 192 0 0 0 0xFFF 0x20000 })] }
theorem witness_MessageEvents_spill : ((spilling 1).tile 10).spilled.length < (spilling 1).spillRoom 10 ∧ (spilling 2).spillRoom 10 ≤ ((spilling 2).tile 10).spilled.length ∧
    (∃ x ∈ ((spilling 1).tile 10).spilled, x.cls = 3) := by
  refine ⟨by decide +kernel, by decide +kernel, ⟨1, 3, 1, [5], 0, []⟩, List.mem_singleton.mpr rfl, rfl⟩
theorem witness_MessageEvents_wake : (mailing (mail 10 true) task).stale (mail 10 true).destName = false ∧ (mailing (mail 10 true) task).leads 0 (mail 10 true) = true ∧
    (mailing (mail 10 true) task).receives 10 = true ∧ task.wait.map (·.on) ≠ some .firstWake ∧
    (({ task with wait := some ⟨.firstWake, 0, 0xFF, 0, 0⟩ } : Tile).wait.map (·.on)) = some .firstWake ∧
    (mailing (mail 11 true) task).receives 11 = false ∧ (mailing (mail 11 true) task).savedOn 11 = none := by decide
theorem witness_MessageEvents_saved :
    ({ mailing (mail 11 true) task with grids := [(1, { pair with phase := .saved, saved := [⟨1, 11, 8, false, Tile.idle, true⟩] })] } : State).savedOn 11 = some 1 ∧
    ({ mailing (mail 11 true) task with grids := [(1, { pair with phase := .saved, saved := [⟨1, 11, 8, false, Tile.idle, true⟩] })] } : State).receives 11 = false := by
  decide
/-- LIMIT 1 of partition 0, with the die's TIME. -/
def timed (n : Nat) (s : State) : State := { parted (fun p => { p with hangctl := 0x17F }) s with dies := [(0, { Die.reset with time := n })] }
theorem witness_MessageEvents_discard : bf ((timed 1024 (mailing (mail 11 false) task)).part 0).hangctl.toNat 8 32 = 1 ∧
    (timed 1024 (mailing (mail 11 false) task)).bare 11 = true ∧ ((timed 1024 (core 10 task)).die (mail 11 false).clockDie).time = 0 + 1 * 1024 ∧
    ((timed 1023 (core 10 task)).die (mail 11 false).clockDie).time < 0 + 1 * 1024 ∧ ((core 10 task).part 0).hangctl.toNat / 2 ^ 8 ≠ 0 := by decide
theorem witness_MessageEvents_stale : (core 10 task).stale 0x02000000 = true ∧ (core 10 task).gen = 1 ∧
    (placedGrid 10).phase ≠ .severed := by decide
/-- A transfer of 16 bytes from the scratchpad to virtual address 0x10000, refused once. -/
def moving (name : Nat) : Xfer :=
  ⟨0x10000, 0x2D, 0, [⟨0, .scratch 10 0, .scratch 10 64, 16⟩], some 0, true, some (10, none), none, 16, none, none, none, 0, none, 64, [], false, name, 1⟩
theorem witness_MessageEvents_transfer : ({ core 10 { task with xfers := [moving 0] } with msgs := [] } : State).refusedXfers[0]? = some (10, 0) ∧
    ({ core 10 { task with xfers := [moving 0] } with msgs := [] } : State).staleXfers[0]? = some (10, 0) := by decide
/-- An engine instruction is in flight, and slot 3 is filling. -/
def engined (x : List Xfer) (op : List EngOp) : Tile :=
  { task with xfers := x, eng := op, slots := Vector.replicate 256 Slot.reset |>.set 3 ⟨.filling, some 0, 0, 65536⟩ }
theorem witness_EngineAndFabricEvents : ((core 10 task).tile 10).eng = [] ∧ (task.slot 3).state ≠ .filling ∧
    ((engined [] []).slot 3).state = .filling ∧ (core 10 (engined [{ moving 0 with slot := some 3 }] [])).fillerOf 10 3 = some (10, 0) ∧
    (core 10 (engined [] [])).fillerOf 10 3 = none := by decide
theorem witness_EngineAndFabricEvents_slot : ∃ op, ((core 10 (engined [] [op])).tile 10).eng = [op] ∧
    (((core 10 (engined [] [op])).engineStep 10 |>.tile 10).slot 3).state ≠ .filling :=
  ⟨.smergeSlot 0 3, by rfl, by decide⟩

/-- The transfer has still to access the line of physical address 0x60000; `other` is another's grant. -/
def owning (other : List (Nat × Bool)) (ordered : Bool) : State :=
  { paged [] with tiles := [(10, { with' [] task with xfers := [{ moving 0 with elems := [⟨0, .virt 0x10000, .scratch 10 64, 16⟩], ordered := ordered }] }),
    (11, { Tile.idle with xfers := [{ moving 0 with grants := other }] })] }
theorem witness_EngineAndFabricEvents_lines : 0x1800 ∈ (owning [] true).xferLines 10 [⟨0, .virt 0x10000, .scratch 10 64, 16⟩] ∧
    0x1800 ∉ (owning [] true).xferWrites 10 [⟨0, .virt 0x10000, .scratch 10 64, 16⟩] ∧
    (owning [(0x1800, true)] true).owned 10 1 (64 * 0x1800) 64 true = true ∧ (owning [(0x17FF, true)] true).owned 10 1 (64 * 0x1800) 64 = false ∧
    (owning [(0x1800, false)] true).owned 10 1 (64 * 0x1800) 64 true = false ∧ ({ moving 0 with grants := [(0x1800, false)] } : Xfer).holdsLine 0x1800 = true ∧
    (owning [] true).xferLines 10 [⟨0, .virt 0x10000, .scratch 10 64, 16⟩] = [0x1800] ∧ (owning [] true).xferLines 10 [] = [] := by decide
/-- A collective that both ranks have joined, or one. -/
def joining (l : List CollPart) (exited : List Nat) : State :=
  { two task task pair with grids := [(0, { pair with exited := exited })], colls := [⟨0, .band, 0, 0, .fast, 1, 0, l, none, []⟩] }
theorem witness_EngineAndFabricEvents_collective :
    (∀ r ∈ instRanks pair .band 0, (∃ p ∈ [(⟨0, 10, leBytes 8 1, [], 0, some 8⟩ : CollPart), ⟨1, 11, leBytes 8 2, [], 0, none⟩], p.grank = r) ∨ r ∈ pair.exited) ∧
    (∀ r ∈ instRanks pair .band 0, (∃ p ∈ [(⟨0, 10, leBytes 8 1, [], 0, some 8⟩ : CollPart)], p.grank = r) ∨ r ∈ [1]) ∧
    (joining [⟨0, 10, leBytes 8 1, [], 0, some 8⟩] [1]).grid? 0 = some { pair with exited := [1] } ∧ isMx 0 = false ∧ [0, 1].length = 2 ∧
    (∀ n, n < 2 → n ∈ [0, 1]) ∧ 0 + (credResult .fast 0 1 [0, 1] [some ⟨0, 10, leBytes 8 1, [], 0, some 8⟩, none]).1.length ≤ 8 ∧
    Memory.wf (joining [] []).mem = true := by decide
/-- A store to a replicated page. -/
def replicated : PStore := ⟨0x60000, [1#8], false, true, true, 0, none⟩
/-- Two stamped writes: the first has the acknowledgement of the replica on die 0 alone. -/
def stamped : List RWrite := [⟨1, 10, 0x60000, [1#8], false, [0], [56, 0], 0⟩, ⟨2, 10, 0x60000, [2#8], false, [], [56, 0], 0⟩]
theorem witness_EngineAndFabricEvents_replicated : (core 10 { task with stores := [replicated] }).seqLost = false ∧
    (core 10 { task with stores := [replicated] }).canPerform 10 0 replicated = true ∧ (∀ w ∈ stamped, w.stamp < 2 → 0 ∈ w.copies → 0 ∈ w.acks) ∧
    (∃ w ∈ stamped, w.stamp < 2 ∧ 56 ∈ w.copies ∧ 56 ∉ w.acks) ∧ (stamped.map (·.stamp)).Pairwise (· < ·) ∧
    (∀ c ∈ [56, 0], c ∈ [0, 56]) ∧ (∀ w ∈ stamped, ({ core 10 task with rwrites := stamped } : State).owned w.writer w.xfer w.key w.data.length = false) ∧
    (core 10 task).standbySeq = false ∧ Memory.wf (core 10 task).mem = true := by decide
/-- Buffer 255 of die 0 with a page, rows of 8 bytes and TRIG 1, and a row for it. -/
def rowed (e : Option Expert) (ovf : Word) : State :=
  { core 10 task with
    rows := [⟨10, 0, 255, leBytes 8 7, 0, false, false, 0⟩]
    dies := [(0, { Die.reset with ovf := ovf, poolPages := 1, experts := match e with | some e => [(255, e)] | none => [] })] }
theorem witness_ExpertBuffers : (rowed (some ⟨(core 10 task).nameOf 10, 3, 8, 1, false, [0], false, 0⟩) 0).expert? 0 255 =
      some ⟨(core 10 task).nameOf 10, 3, 8, 1, false, [0], false, 0⟩ ∧
    (rowed none 0).expertCount 0 255 = 0 ∧ 64 + (0 + 1) * 8 ≤ 2 ^ 16 ∧ (rowed none 0).expert? 0 255 = none ∧ ((rowed none 0).die 0).ovf.toNat % 2 ^ 32 = 0 ∧
    ((rowed none 5).die 0).ovf.toNat % 2 ^ 32 ≠ 0 ∧ Memory.wf (rowed none 0).mem = true ∧ (rowed none 0).readNat (expertAt 0 255 16) 8 = 0 ∧
    ((rowed none 0).writeKey (expertAt 0 255 16) (leBytes 8 1) false).readNat (expertAt 0 255 16) 8 = 1 ∧
    ((rowed none 0).die 0).poolPages - ((rowed none 0).die 0).poolFree ≤ 1 := by decide
/-- A victim of a revocation of 3, with its deadline, on a die with the requester of those tokens. -/
def revoking (now : Nat) (owed : List Owed) : State :=
  { core 10 { task with revoke := 3, deadline := 64 } with dies := [(0, { Die.reset with time := now, owed := owed })] }
theorem witness_TokenResults_events : ((core 10 { task with hold := 1, later := 0 }).tile 10).hold ≤ fullRate 10 ∧
    ((pooled 180 false []).modDie 0 (fun d => { d with requests := [(10, 5)] }) |>.die (dieOf 10)).requests = (10, 5) :: [] ∧
    ceilDiv ((revoking 63 []).tile 10).deadline (windowLen 10) * windowLen 10 = 64 ∧ (revoking 63 []).timeOf 10 < 64 ∧
    64 ≤ (revoking 64 []).timeOf 10 ∧ (revoking 64 []).dueList (dieOf 10) 64 = [(64, 10, false)] ∧
    ((revoking 64 [⟨11, 10, 3⟩]).die (dieOf 10)).owed = [⟨11, 10, ((revoking 64 []).tile 10).revoke⟩] ∧
    ((core 10 task).tile 10).revoke = 0 ∧ ((core 10 task).die 0).frozen = false ∧ ((core 10 task).die 0).rebuilds = 0 ∧
    ((core 10 task).tiles.map (·.1)).Pairwise (· < ·) := by decide
/-- A task whose TRET of 2 tokens leaves at the window start 8, at a time. -/
def returning (now : Nat) : State := { core 10 { task with returns := 2, returnAt := 8 } with dies := [(0, { Die.reset with time := now })] }
theorem witness_TokenResults_windows : (returning 3).windowDue 10 = false ∧ (returning 7).windowDue 10 = true ∧ (returning 7).dueList (dieOf 10) ((returning 7).timeOf 10) = [] ∧
    (returning 8).windowDue 10 = true ∧ (returning 8).dueList (dieOf 10) ((returning 8).timeOf 10) = [(8, 10, true)] ∧ ((returning 8).tile 10).returnAt = 8 ∧
    ((returning 8).tile 10).revoke = 0 ∧ 7 / windowLen 10 * windowLen 10 = task.window + 1 * windowLen 10 ∧ 3 / windowLen 10 * windowLen 10 = task.window + 0 * windowLen 10 := by decide
theorem witness_TripsClocksAndLinks : (2 ≤ ((core 10 task).tile 10).hold) ∧
    (∀ d < 56, (State.reset.die d).clock ≤ 42 ∧ 28 ≤ (State.reset.die d).clock - (State.reset.die d).slow) ∧
    (28 < ({ Die.reset with thermal := true, slow := 1 } : Die).clock - ({ Die.reset with thermal := true, slow := 1 } : Die).slow) ∧
    ({ Die.reset with clock := 29, slow := 1 } : Die).clock - 1 ≤ 28 ∧ ({ core 10 task with dies := [(55, { Die.reset with powered := true })] } : State).die 55 =
      { Die.reset with powered := true } := by decide
/-- The time and fret tables with SEQ 2, whose publication is in progress. -/
def publishing : State :=
  { core 10 task with tableSeq := 2, fretSeq := 2, timePub := some ⟨leBytes 8 0 ++ leBytes 1160 1, [(0, 5)]⟩, fretPub := some ⟨leBytes 8 0 ++ leBytes 1160 1, [(0, 5)]⟩ }
theorem witness_TripsClocksAndLinks_tables : (publishing.timePub.map (fun x => x.old.take 8)) = some (leBytes 8 (publishing.tableSeq - 2)) ∧
    (publishing.fretPub.map (fun x => x.old.take 8)) = some (leBytes 8 (publishing.fretSeq - 2)) ∧ 2 ≤ publishing.tableSeq ∧ publishing.tableSeq < 2 ^ 64 := by decide
/-- An entry that converts exactly at reference count 0 and TIME 0, and entries that lie two and three cycles ahead. -/
theorem witness_TripsClocksAndLinks_entries : ∃ e : TimeEntry, e = ⟨0, 0, 2 ^ 30⟩ ∧ 2 ^ 29 ≤ e.rate ∧ e.rate < 2 ^ 31 ∧ (core 10 task).refCount = 0 ∧
    timeAt e.offset e.rate 0 ≤ ((core 10 task).die 0).time + 2 ∧ (((core 10 task).die 0).time : Int) ≤ timeAt e.offset e.rate 0 + 2 ∧
    timeAt (-2) (2 ^ 30) 0 ≤ ((core 10 task).die 0).time + 2 ∧ (((core 10 task).die 0).time : Int) + 2 < timeAt (-3) (2 ^ 30) 0 ∧
    timeAt 3 (2 ^ 30) 0 + 2 < ((core 10 task).die 0).time :=
  ⟨_, rfl, by decide, by decide, by decide, by decide, by decide, by decide, by decide, by decide⟩
/-- Dies 0 and 1 have their link up in modules `up`. -/
def linked (up st : Nat) : State :=
  { core 10 task with dies := [(0, { Die.reset with links := Die.reset.links.set 1 ⟨255, 0, up, st, 0, 0⟩ }), (1, { Die.reset with links := Die.reset.links.set 3 ⟨255, 0, up, st, 0, 0⟩ })] }
theorem witness_TripsClocksAndLinks_edge : edgeTo 0 1 = some 1 ∧ modulesOf 0 1 = 4 ∧ ((linked 15 1).link 0 1).state = 1 ∧ ((linked 15 1).link 1 (opposite 1)).state = 1 ∧
    setBit ((linked 15 1).link 0 1).up 3 (decide (LinkOutcome.degraded ≠ .disabled)) ≠ 0 ∧
    setBit ((linked 8 2).link 0 1).up 3 (decide (LinkOutcome.disabled ≠ .disabled)) = 0 ∧ edgeTo 56 2 = some 1 ∧ ((linked 0 3).link 0 1).state = 3 := by decide
theorem witness_TripsClocksAndLinks_route : ((core 10 task).part 0).live = true ∧
    ((core 10 task).modPart 0 (fun x => { x with carriers := [] })).cutOff 0 = true ∧
    ((core 10 task).modPart 0 (fun x => { x with hbms := [], carriers := [] })).cutOff 0 = false ∧
    (∀ e ∈ ({ core 10 task with grids := [] } : State).grids, e.2.part ≠ 0) ∧
    (core 10 task).onOldPath { (core 10 task).part 0 with routes := [] } { (core 10 task).part 0 with routes := [] } (mail 10 false) = false ∧
    ({ core 10 task with msgs := [{ mail 10 false with old := true }, { mail 10 false with cls := 5 }] } : State).msgs[0]? = some { mail 10 false with old := true } := by decide

/-- A signature. -/
def signed : Option (BitVec 136704) := some (BitVec.ofNat 136704 0)
theorem witness_MetersAndReadings : ((core 10 task).die 71).meterFaulty = false ∧ [Account.job 0 0].Nodup ∧ Account.job 0 0 ≠ .overhead ∧
    95 * 25600 ≤ 25600 * 96 ∧ 25600 * 96 ≤ 105 * 25600 ∧ (core 10 task).boot = .running ∧ (core 10 task).ctlLost = false ∧
    State.reset.boot ≠ .running ∧ 1048576 ≤ 1048576 := by decide
/-- A core that has counted 3 slots, with a coefficient of 256 for them, and reference count `r`. -/
def counting (r : Nat) : State := { core 10 { task with slotEvents := 3 } with coeffs := [256], refCount := r }
theorem witness_MetersAndReadings_counts : (counting 0).tiles.map (·.1) = [10] ∧ ((counting 0).die (dieOf 10)).counts = [] ∧ ((counting 0).tile 10).memberOf = none ∧
    ((counting 0).tile 10).task = some ⟨0, 0, 0, 0⟩ ∧ (counting 0).partOf 10 = some 0 ∧
    ((counting 0).tile 10).slotEvents * (counting 0).coeffs.getD 0 0 + ((counting 0).tile 10).latticeEvents * (counting 0).coeffs.getD 5 0 ≠ 0 ∧
    (counting 10499).refCount < ((counting 0).die 0).metered + 10500 ∧ ((counting 0).die 0).metered + 10500 ≤ (counting 10500).refCount ∧
    (counting 0).refCount < (counting 0).journalAt + (counting 0).jperiod.toNat * 1050000 ∧
    (counting 0).journalAt + (counting 0).jperiod.toNat * 1050000 ≤ (counting 1050000000).refCount := by decide
theorem witness_MetersAndReadings_order :
    [(⟨1, [], signed⟩ : Reading), ⟨2, [], signed⟩, ⟨3, [], none⟩] = [⟨1, [], signed⟩] ++ ⟨2, [], signed⟩ :: [(⟨1, [], signed⟩ : Reading), ⟨2, [], signed⟩, ⟨3, [], none⟩].drop 2 ∧
    ∀ x ∈ [(⟨1, [], signed⟩ : Reading)] ++ [⟨2, [], signed⟩], x.signature ≠ none := by
  refine ⟨rfl, fun x hx => ?_⟩
  rcases List.mem_cons.mp hx with rfl | h
  · exact Option.some_ne_none _
  · obtain rfl := List.mem_singleton.mp h
    exact Option.some_ne_none _
theorem witness_MetersAndReadings_standby : (core 10 task).standbyCtl = false ∧ ({ core 10 task with standbyCtl := true } : State).ctlLost = false := by decide
theorem witness_TileEvents : (7167 : Nat) < Config.tileSites ∧ 7167 ∉ (core 10 task).vacant ∧ ((core 10 task).tile 7167).memberOf = none ∧
    ((core 10 task).tile 7167).task = none ∧ (mailing (mail 10 false) task).quiescent = false ∧ (core 10 task).quiescent = true ∧ 7167 ∉ (core 10 task).retired ∧
    ((core 10 task).tile 10).task = some ⟨0, 0, 0, 0⟩ ∧ (placedGrid 10).phase = .running ∧ (placedGrid 10).abort = none ∧
    (core 10 task).idle 7167 = true ∧ ((core 10 task).tile 7167).hold = 0 ∧ (core 10 task).idle 10 = false ∧ 7167 ∉ (core 10 task).gated ∧ (7167, 3) ∉ (core 10 task).fused ∧
    (([(7167, 0), (7167, 1), (7167, 2)] : List (Nat × Nat)).filter (fun x => decide (x.1 = 7167))).length = 3 ∧
    208 ∉ ((core 10 task).tile 7167).drowsy ∧ ((core 10 task).tile 7167).idleSince + 1024 ≤ 1024 ∧
    (core 10 task).timeOf 7167 < ((core 10 task).tile 7167).idleSince + 1024 := by decide
theorem witness_TileEvents_debug : (0x01000000#32).toNat / 2 ^ 24 = (core 10 task).gen ∧ coreOf (0x01000000#32).toNat = some 0 ∧
    (0x02000000#32).toNat / 2 ^ 24 ≠ (core 10 task).gen ∧ Config.scratchBytes - 8 + 8 ≤ Config.scratchBytes ∧
    (Tile.idle.memberOf = none ∧ ({ Tile.idle with memberOf := some 10 } : Tile).memberOf ≠ none) := by decide
/-- Peer 0, reached through port 7, is enabled. -/
def peer0 : List (Nat × List Byte) := [(0, leBytes 20 0 ++ [7#8] ++ leBytes 11 1)]
/-- An entry of operation `op` and length 0, with the counter at 0x10080 and LCAP over the page at 0x10000. -/
def entryBytes (op : Nat) : List Byte := (wholeCap 0x10000).bytes ++ leBytes 14 0 ++ leBytes 2 op ++ leBytes 8 0x10080 ++ leBytes 24 0
/-- Partition 0 with a Cinov ring of two entries at 0x10040, whose write index stands at 0x10038, and in its first entry a PUT with
LCAP's tag `g`, in a page that may hold capabilities. -/
def cinov (taken : List CinovOp) (n next : Nat) (g : Bool) : State :=
  (((parted (fun p => { p with cnbase := 0x10040, cnctl := 0x101, cnTaken := taken, cnNext := next, peers := peer0 })
    ((paged []).writeKey 0x50008 (leBytes 8 0x6171F) false)).writeKey 0x60038 (leBytes 4 n) false).writeKey 0x60040 ((entryBytes 1).take 16) g).writeKey 0x60050 ((entryBytes 1).drop 16) false
/-- The index and the first entry can be read, and what it sends. -/
def doorbell (g : Bool) (f : CinovOp → State → Bool) : Bool :=
  succeeds ((cinov [] 1 0 g).asidRead 0 0 (((cinov [] 1 0 g).part 0).cnbase.toNat - 8) 8) (fun x => decide ((leNat x.1 % 2 ^ 32 + 2 ^ 32 - 0) % 2 ^ 32 = 1) &&
    succeeds (x.2.asidRead 0 0 (((cinov [] 1 0 g).part 0).cnEntry 0) 64) (fun y =>
      f ⟨0, y.1, y.2.lcapTag 0 0 (((cinov [] 1 0 g).part 0).cnEntry 0), none, none⟩ y.2))
theorem doorbell_ok (g : Bool) (f : CinovOp → State → Bool) (h : doorbell g f = true) : ∃ b v e w,
    (cinov [] 1 0 g).asidRead 0 0 (((cinov [] 1 0 g).part 0).cnbase.toNat - 8) 8 = .ok (b, v) ∧ (leNat b % 2 ^ 32 + 2 ^ 32 - 0) % 2 ^ 32 = 1 ∧
    v.asidRead 0 0 (((cinov [] 1 0 g).part 0).cnEntry 0) 64 = .ok (e, w) ∧ f ⟨0, e, w.lcapTag 0 0 (((cinov [] 1 0 g).part 0).cnEntry 0), none, none⟩ w = true := by
  obtain ⟨x, hx, h⟩ := succeeds_ok _ _ h
  simp only [Bool.and_eq_true, decide_eq_true_eq] at h
  obtain ⟨y, hy, hf⟩ := succeeds_ok _ _ h.2
  exact ⟨x.1, x.2, y.1, y.2, hx, h.1, hy, hf⟩
theorem sends : doorbell true (fun o w => ((cinov [] 1 0 true).part 0).formed o && succeeds (w.cinovLocal 0 0 o) (fun _ => true) &&
    decide (((cinov [] 1 0 true).part 0).reaches o).Nodup) = true := by decide +kernel
theorem sends_not : doorbell false (fun o w => match w.cinovLocal 0 0 o with
    | .error .fails => true
    | _ => false) = true := by decide +kernel
theorem witness_CinovEvents_doorbell : ((cinov [] 1 0 true).part 0).cnEn = true ∧ ((cinov [] 1 0 true).part 0).cnPending = none ∧ 1 ≤ ((cinov [] 1 0 true).part 0).cnN ∧
    ((cinov [] 1 0 true).part 0).cnN ≤ 16 ∧ ((cinov [] 1 0 true).part 0).live = true ∧ 1 + (0 - 0) ≤ 2 ^ ((cinov [] 1 0 true).part 0).cnN ∧ Partition.reset.cnEn = false ∧
    (∃ b v e w d z, (cinov [] 1 0 true).asidRead 0 0 (((cinov [] 1 0 true).part 0).cnbase.toNat - 8) 8 = .ok (b, v) ∧ (leNat b % 2 ^ 32 + 2 ^ 32 - 0) % 2 ^ 32 = 1 ∧
      v.asidRead 0 0 (((cinov [] 1 0 true).part 0).cnEntry 0) 64 = .ok (e, w) ∧ ∃ o : CinovOp, o = ⟨0, e, w.lcapTag 0 0 (((cinov [] 1 0 true).part 0).cnEntry 0), none, none⟩ ∧
      ((cinov [] 1 0 true).part 0).formed o = true ∧ w.cinovLocal 0 0 o = .ok (d, z) ∧ (((cinov [] 1 0 true).part 0).reaches o).Nodup) := by
  refine ⟨by decide, by decide, by decide, by decide, by decide, by decide, by decide, ?_⟩
  obtain ⟨b, v, e, w, hb, hn, he, h⟩ := doorbell_ok _ _ sends
  simp only [Bool.and_eq_true, decide_eq_true_eq] at h
  obtain ⟨⟨hf, hs⟩, hd⟩ := h
  obtain ⟨x, hx, _⟩ := succeeds_ok _ _ hs
  exact ⟨b, v, e, w, x.1, x.2, hb, hn, he, _, rfl, hf, hx, hd⟩
theorem witness_CinovEvents_untagged : ∃ b v e w, (cinov [] 1 0 false).asidRead 0 0 (((cinov [] 1 0 false).part 0).cnbase.toNat - 8) 8 = .ok (b, v) ∧
    v.asidRead 0 0 (((cinov [] 1 0 false).part 0).cnEntry 0) 64 = .ok (e, w) ∧
    w.cinovLocal 0 0 ⟨0, e, w.lcapTag 0 0 (((cinov [] 1 0 false).part 0).cnEntry 0), none, none⟩ = .error .fails := by
  obtain ⟨b, v, e, w, hb, _, he, h⟩ := doorbell_ok _ _ sends_not
  refine ⟨b, v, e, w, hb, he, ?_⟩
  revert h
  cases w.cinovLocal 0 0 _ with
  | ok x => intro h; exact absurd h Bool.false_ne_true
  | error f => cases f <;> intro h <;> first | rfl | exact absurd h Bool.false_ne_true
/-- An entry of length 0 that asks for operation `op`. -/
def entry (op : Nat) (sent : Option (List Byte)) : CinovOp := ⟨0, entryBytes op, true, sent, none⟩
/-- The ring with that entry taken, and peer 0 enabled. -/
def asked (op : Nat) (sent : Option (List Byte)) (lost : List Nat) : State :=
  parted (fun p => { p with cnbase := 0x10040, cnctl := 0x101, cnTaken := [entry op sent], cnNext := 1, lostPeers := lost, peers := peer0 }) (paged [])
/-- A GET completes with status 0: its status is written, its counter read and written. -/
def completes : Bool :=
  match (asked 0 (some []) []).cinovOutcome 0 (entry 0 (some [])) 0 [] with
  | some (0, v) => succeeds (v.asidWrite 0 0 (((asked 0 (some []) []).part 0).cnEntry 0 + 40) (leBytes 8 0)) (fun z =>
      succeeds (z.asidRead 0 0 ((entry 0 none).nat 32 8) 4) (fun x =>
        succeeds (x.2.asidWrite 0 0 ((entry 0 none).nat 32 8) (leBytes 4 ((leNat x.1 + 1) % 2 ^ 32))) (fun _ => true)))
  | _ => false
theorem completes_true : completes = true := by decide +kernel
theorem witness_CinovEvents_complete : ((asked 0 (some []) []).part 0).formed (entry 0 (some [])) = true ∧ ((asked 0 none []).part 0).formed (entry 0 none) = true ∧
    (((asked 0 (some []) []).part 0).reaches (entry 0 (some []))).any [0].contains = true ∧ (((asked 0 (some []) []).part 0).reaches (entry 0 (some []))).any [].contains = false ∧
    (entry 0 none).op = 0 ∧ (entry 0 none).len = 0 ∧ ((asked 1 (some []) []).part 0).formed (entry 1 (some [])) = true ∧
    ∃ v z b y u, (asked 0 (some []) []).cinovOutcome 0 (entry 0 (some [])) 0 [] = some (0, v) ∧
      v.asidWrite 0 0 (((asked 0 (some []) []).part 0).cnEntry 0 + 40) (leBytes 8 0) = .ok z ∧ z.asidRead 0 0 ((entry 0 none).nat 32 8) 4 = .ok (b, y) ∧
      y.asidWrite 0 0 ((entry 0 none).nat 32 8) (leBytes 4 ((leNat b + 1) % 2 ^ 32)) = .ok u := by
  refine ⟨by decide, by decide, by decide, by decide, by decide, by decide, by decide, ?_⟩
  have h := completes_true
  unfold completes at h
  split at h
  · rename_i v e
    obtain ⟨z, hz, h⟩ := succeeds_ok _ _ h
    obtain ⟨x, hx, h⟩ := succeeds_ok _ _ h
    obtain ⟨u, hu, _⟩ := succeeds_ok _ _ h
    exact ⟨v, z, x.1, x.2, u, e, hz, hx, hu⟩
  · exact absurd h Bool.false_ne_true
/-- The partition that receives packets of peer 0 through port 7, the next of them with sequence number 4. -/
def receiving : State := parted (fun p => { p with peers := peer0, conns := [(0, (0, 4))] }) (paged [])
theorem refuses : (match receiving.asidWrite 0 0 0x30000 [1#8] with
    | .error .fails => true
    | _ => false) = true := by decide +kernel
theorem witness_CinovEvents_frames : ∃ u b v, receiving.parts = [(0, receiving.part 0)] ∧ (receiving.part 0).live = true ∧ 7 ∈ (receiving.part 0).ethPorts ∧
    blockNat (tableEntry (receiving.part 0).peers 0) 21 1 % 2 = 1 ∧ blockNat (tableEntry (receiving.part 0).peers 0) 20 1 = 7 ∧ 0 ∉ (receiving.part 0).lostPeers ∧
    ((receiving.part 0).conn 0).2 = 4 ∧ (4 + 2 ^ 32 - 3) % 2 ^ 32 < 2 ^ 31 ∧ 2 ^ 31 ≤ (4 + 2 ^ 32 - 5) % 2 ^ 32 ∧
    receiving.asidWrite 0 0 0x30000 [1#8] = .error .fails ∧ receiving.asidWrite 0 0 0x10000 [1#8] = .ok u ∧
    receiving.asidRead 0 0 0x10000 4 = .ok (b, v) ∧ coreOf ((core 10 task).nameOf 10) = some 10 ∧ receiving.partOf 10 = some 0 ∧
    keyGet 0 [(5, 62)] 5 + 1 < 64 ∧ 64 ≤ keyGet 0 [(5, 63)] 5 + 1 := by
  have hw : succeeds (receiving.asidWrite 0 0 0x10000 [1#8]) (fun _ => true) = true := by decide +kernel
  have hr : succeeds (receiving.asidRead 0 0 0x10000 4) (fun _ => true) = true := by decide +kernel
  obtain ⟨u, hu, _⟩ := succeeds_ok _ _ hw
  obtain ⟨x, hx, _⟩ := succeeds_ok _ _ hr
  refine ⟨u, x.1, x.2, by decide, by decide, by decide, by decide, by decide, by decide, by decide, by decide, by decide, ?_, hu, hx, by decide, by decide, by decide, by decide⟩
  have h := refuses
  revert h
  cases receiving.asidWrite 0 0 0x30000 [1#8] with
  | ok x => intro h; exact absurd h Bool.false_ne_true
  | error f => cases f <;> intro h <;> first | rfl | exact absurd h Bool.false_ne_true

theorem witness_HostAccesses : (∀ e ∈ (core 10 task).tiles, ∀ x ∈ e.2.xfers, x.grants = []) ∧ ((core 10 task).part 0).hbms = [0] ∧
    Config.stackBytes - 1 + [(1#8 : Byte)].length ≤ Config.stackBytes ∧ (core 10 task).isBad 0 64 = false ∧
    ({ core 10 task with bad := [7] } : State).isBad (0 * Config.stackBytes + 0) 64 = true ∧ ([(0, 1)] : List (Nat × Nat))[0]? = some (0, 1) ∧
    ((core 10 task).part 0).hbms.length * Config.stackBytes ≤ Config.stackBytes ∧ (∀ r ∈ (core 10 task).recent, r.unit ≠ 7) ∧
    (core 10 task).hostMapped 0 = false := by decide
theorem witness_HostAccesses_owned : ∃ x, x = { moving 0 with grants := [(0, true)] } ∧
    (10, { task with xfers := [x] }) ∈ (core 10 { task with xfers := [x] }).tiles ∧ x ∈ ({ task with xfers := [x] } : Tile).xfers ∧ (0, true) ∈ x.grants ∧
    64 * 0 < 0 + [(1#8 : Byte)].length ∧ 0 < 64 * 0 + 64 :=
  ⟨_, rfl, List.mem_cons_self, List.mem_cons_self, List.mem_cons_self, by decide, by decide⟩
theorem witness_HostAccesses_pending : ∃ w ∈ [(⟨1, 10, 0, [1#8], false, [56], [56, 0], 0⟩ : RWrite)], 56 ∈ w.acks ∧ w.key < 0 + 8 ∧ 0 < w.key + w.data.length := by decide
theorem witness_HostAccesses_ports : keyFind ({ core 10 task with attached := [(3, 0)] } : State).attached 3 = some 0 ∧ keyFind (core 10 task).attached 3 = none ∧
    (core 10 task).boot = .running ∧ State.reset.boot ≠ .running := by decide
/-- Window 7 of partition 0, of 1 GiB at the start of host memory, through port 7. -/
def windowed : State := parted (fun p => { p with windows := p.windows.set 7 ⟨BitVec.ofNat 64 Config.hostBase, 1, 0, 15⟩ }) (core 10 task)
theorem witness_HostAccesses_window : windowed.hostMapped (Config.hostBase / 64 * 64) = true ∧ bf ((windowed.part 0).windows[7]).ctl.toNat 1 3 = 7 ∧
    bf ((windowed.part 0).windows[6]).ctl.toNat 1 3 ≠ 7 := by decide
/-- A boot that ends, with the link from die 0 to die 1 up and no other, and core 5 vacant. -/
def booted (gen : Bool) : BootData := ⟨(true, true), true, [5], [], [], [], [(0, 1, 15)], [], gen, [0]⟩
theorem witness_BootAndReset : State.reset.boot = .off ∧ State.reset.policy = [] ∧ (booted true).imageOk = (true, true) ∧
    (0 : Nat) = State.reset.staged.getD State.reset.activeImage ∧ ({ State.reset with failedBoots := 3 } : State).staged = none ∧
    ({ State.reset with activeImage := 1 } : State).activeImage < 2 ∧ (core 10 task).boot ≠ .off ∧ edgeTo 55 0 ≠ none ∧ maskFor (booted true).linksUp 55 0 = 0 ∧
    edgeTo 0 1 = some 1 ∧ maskFor (booted true).linksUp 0 1 % 2 ^ modulesOf 0 1 = 15 ∧
    (core 10 task).unsignedDeltas = false ∧ ({ core 10 task with journal := [⟨1, leBytes 96 0, none⟩] } : State).unsignedDeltas = true := by decide
/-- What sets up partition 15 on die 1, or on die 0, which partition 0 holds. -/
def setup (d : Nat) (remove : Bool) : PartSetup := ⟨15, remove, [d], [31], [63], [(16383, 0x20000)], [], 9⟩
theorem witness_ManagementResults : (core 10 task).boot = .running ∧ (core 10 task).ctlLost = false ∧ (setup 1 false).dies ≠ [] ∧
    (∀ d ∈ (setup 1 false).dies, d < Config.dies) ∧ (∀ e ∈ (core 10 task).parts, e.1 ≠ (setup 1 false).number → e.2.live = true →
      (∀ d ∈ (setup 1 false).dies, d ∉ e.2.dies) ∧ (∀ h ∈ (setup 1 false).hbms, h ∉ e.2.hbms) ∧ ∀ n ∈ (setup 1 false).ethPorts, n ∉ e.2.ethPorts) ∧
    (∃ e ∈ (core 10 task).parts, e.1 ≠ (setup 0 false).number ∧ e.2.live = true ∧ ∃ d ∈ (setup 0 false).dies, d ∈ e.2.dies) ∧
    (∀ g ∈ (core 10 task).grids, g.2.part ≠ (setup 1 true).number) ∧ (∃ g ∈ (core 10 task).grids, g.2.part = 0 ∧ g.2.phase = .running) ∧
    managed (.zpool 0) = true ∧ State.reset.boot ≠ .running ∧ (leBytes 32 0).length = 32 := by decide
theorem witness_ManagementResults_stacks : (∀ h ∈ (setup 1 false).hbms, h < Config.stacks') ∧ (∀ e ∈ (setup 1 false).ethPorts, e < 64) ∧
    ∀ a ∈ (setup 1 false).asids, a.1 < 2 ^ 14 := by decide
theorem witness_ManagementResults_windows : WindowsFit (PartitionWindows ((core 10 task).part 15).windows (setup 1 false).windows).toList
    (((core 10 task).parts.filter (fun e => decide (e.1 ≠ (setup 1 false).number) && e.2.live)).flatMap (fun e => windowRanges e.2.windows.toList)) ∧
    WindowsFit [⟨BitVec.ofNat 64 Config.hostBase, 1, 0, 1⟩, ⟨BitVec.ofNat 64 (Config.hostBase + 2 ^ 30), 1, 0, 1⟩] [(Config.hostBase + 2 ^ 31, 2 ^ 30)] := by
  refine ⟨?_, ?_⟩ <;> (rintro r rfl; decide)
theorem witness_ManagementResults_offsets : BlockOffset 15 0x3D0 (.qctl 15 15) ∧ BlockOffset 15 0x20E8 (.hwlen 15 7) ∧ BlockOffset 0 0x3010 (.cnrd 0) ∧ ¬ (8 = 8 ∧ 12 % 8 = 0) := by
  refine ⟨Or.inl ⟨15, by decide⟩, Or.inr (Or.inr ⟨7, by decide⟩), Or.inr (Or.inl (by decide)), by decide⟩
theorem witness_ManagementResults_cnctl : (∃ e ∈ ((asked 0 none []).part 0).cnTaken, e.done = none) ∧ (∀ e ∈ (receiving.part 0).cnTaken, e.done ≠ none) ∧
    (0x10001 : Word).toNat / 2 ^ 8 % 2 = 0 ∧ (0x101 : Word).toNat / 2 ^ 8 % 2 = 1 := by decide
/-- Registers: 5 untagged, 6 sealed, 7 without LOAD or STORE, 8 of 4 bytes, 9 whole. -/
def unfit (a : Nat) : List (Nat × Reg) :=
  [(5, num a), (6, Reg.mk' true (2 ^ 16) 0 40 1 0xFFF a), (7, Reg.mk' true (2 ^ 16) 0 40 0 (0xFFF - Perm.load - Perm.store) a),
   (8, Reg.mk' true 5 1 0 0 0xFFF a), (9, wholeCap a)]
theorem witness_InstructionTraps : ∃ s, s = (regs (unfit 0x10000)).engineDone ∧ (∀ n ∈ [5, 6, 7, 8, 9], Ready s [wr 10, wr n]) ∧
    FailedCheck (s.here.getW 5) 0x10000 8 Perm.load 8 8 ∧ FailedCheck (s.here.getW 6) 0x10000 8 Perm.load 8 9 ∧
    FailedCheck (s.here.getW 7) 0x10000 8 Perm.load 8 0x0A ∧ FailedCheck (s.here.getW 8) 0x10000 8 Perm.store 8 0x0B :=
  ⟨regs (unfit 0x10000), by rfl, by unfold Ready; decide, Or.inl (by decide), Or.inr (Or.inl (by decide)), Or.inr (Or.inr (Or.inl (by decide))),
    Or.inr (Or.inr (Or.inr (Or.inl (by decide))))⟩
theorem witness_InstructionTraps_align : FailedCheck ((regs (unfit 0x10001)).here.getW 9) 0x10001 2 Perm.store 2 0x0C ∧
    FailedCheck (Reg.mk' true (2 ^ 16) 0 63 0 0xFFF (2 ^ 56)) (2 ^ 56) 8 Perm.load 8 0x0D ∧
    Grants (wholeCap (Config.localBase + Config.scratchBytes)) (Config.localBase + Config.scratchBytes) 8 Perm.load 8 ∧
    locate (Config.localBase + Config.scratchBytes) 8 = .unbacked :=
  ⟨Or.inr (Or.inr (Or.inr (Or.inr (Or.inl (by decide))))), Or.inr (Or.inr (Or.inr (Or.inr (Or.inr (by decide))))), by unfold Grants; decide, by decide⟩
theorem witness_InstructionTraps_runs : ∃ s, s = (core 10 { task with pend := [⟨.w, 5, 3⟩] }).engineDone ∧
    findPend s.here.pend (wr 5) = some ⟨.w, 5, 3⟩ ∧ findPend s.here.pend (wr 6) = none ∧ s.here.bound 5 = none ∧ s.here.bound 6 = none :=
  ⟨core 10 { task with pend := [⟨.w, 5, 3⟩] }, by rfl, by decide⟩
/-- The placed ADDI w10, w5, 1. -/
def placed : State := State.reset.withFetchWord 32 0x00229417
theorem placed_fetches : (match fetchBytes placed.here.pc.addr 2 placed with
    | .ok b u => decide (lengthOf (leNat b) = 4) && (match fetchBytes placed.here.pc.addr 4 u with
      | .ok c _ => decide (decode c = .ok (.addi 10 5 1 true, []))
      | _ => false)
    | _ => false) = true := by decide
theorem witness_StepRunsDecodedInstruction : ∃ u t b c, placed.inputs = [] ∧ placed.cur < Config.tileSites ∧ placed.blocked placed.cur = false ∧
    placed.here.parked = false ∧ placed.here.stop = none ∧ placed.here.inbox = [] ∧ placed.here.spilled = [] ∧ placed.here.wait = none ∧ placed.here.consort = none ∧
    fetchBytes placed.here.pc.addr 2 placed = .ok b u ∧ lengthOf (leNat b) = 4 ∧ fetchBytes placed.here.pc.addr 4 u = .ok c t ∧
    decode c = .ok (.addi 10 5 1 true, []) := by
  have h := placed_fetches
  cases h1 : fetchBytes placed.here.pc.addr 2 placed with
  | error e u => simp [h1] at h
  | ok b u =>
    cases h2 : fetchBytes placed.here.pc.addr 4 u with
    | error e t => simp [h1, h2] at h
    | ok c t =>
      simp only [h1, h2, Bool.and_eq_true, decide_eq_true_eq] at h
      exact ⟨u, t, b, c, by decide, by decide, by decide, by decide, by decide, by decide, by decide, by decide, by decide, rfl, h.1, h2, h.2⟩
theorem witness_StepKeepsMemoryCanonical : placed.Inv ∧ (match step placed with | .next _ => true | _ => false) = true := ⟨by unfold State.Inv; decide, by decide⟩
theorem witness_EncodedInstructionDecodes : (Instr.addi 10 5 1 true).wellFormed = true ∧ (Instr.addi 10 5 1 true).encoded = true := by decide
/-- R217: ADDI adds its sign-extended immediate, and the pc goes past its four bytes. -/
theorem test_step_addi : (match step placed with
    | .next t => decide (t.here.getX 10 = 1 ∧ t.here.pc.addr = 0x10004)
    | _ => false) = true := by decide

/-! ### Results of the spec's worked examples -/

/-- What holds of the state that an instruction leads to. -/
def after (i : Instr) (s : State) (f : State → Bool) : Bool :=
  match exec i s with
  | .next t => f t
  | _ => false
/-- R217. -/
theorem test_sub_wraps : after (.sub 7 5 6 false) (regs [(5, num 0), (6, num 1)]) (fun t => decide (t.here.getX 7 = BitVec.allOnes 64)) = true := by decide
/-- R217: −7 / 2 truncates toward zero, and DIV of −2^63 by −1 gives −2^63. -/
theorem test_div : after (.div 7 5 6 false) (regs [(5, num (2 ^ 64 - 7)), (6, num 2)]) (fun t => decide (t.here.getX 7 = BitVec.ofInt 64 (-3))) = true ∧
    after (.div 7 5 6 false) (regs [(5, num (2 ^ 63)), (6, num (2 ^ 64 - 1))]) (fun t => decide (t.here.getX 7 = 2 ^ 63)) = true := by decide
/-- R217: the remainder by 0 is the dividend, and otherwise has its sign. -/
theorem test_rem : after (.rem 7 5 6 false) (regs [(5, num (2 ^ 64 - 7)), (6, num 2)]) (fun t => decide (t.here.getX 7 = BitVec.ofInt 64 (-1))) = true ∧
    after (.rem 7 5 6 false) (regs [(5, num 9), (6, num 0)]) (fun t => decide (t.here.getX 7 = 9)) = true := by decide
/-- R217: −16 >> 2 is −4. -/
theorem test_shra : after (.shra 7 5 6 false) (regs [(5, num (2 ^ 64 - 16)), (6, num 2)]) (fun t => decide (t.here.getX 7 = BitVec.ofInt 64 (-4))) = true := by decide
/-- The example under R220. -/
theorem test_csetb : after (.csetb 20 21 22 false) (regs [(21, Reg.mk' true (2 ^ 16) 0 48 0 0xFFF 0x10000003), (22, num 200000)]) (fun t =>
    decide (t.here.getW 20 = Reg.mk' true 0xC351 0 2 0 0xFFF 0x10000003 ∧ capBounds (t.here.getW 20) = (0x10000000, 0x10000000 + 200004))) = true := by decide
/-- The example under R61: a root capability grants the whole address space. -/
theorem test_root_bounds : capBounds (Reg.mk' true 0x10000 0 48 0 0xFFF 0xABCDEF) = (0, 2 ^ 64) := by decide
/-- The example under R25. -/
theorem test_core_name : nameAt 3 ((19 * 8 + 5) * 16 + 10) = 0x036AD000 := by decide
/-- The example under R43. -/
theorem test_slices : (List.range 4).map (fun i => sliceOf 40 16 1 i 4) = [(0, 16), (16, 16), (32, 8), (40, 0)] := by decide
/-- The example under R86: E4M3 0x5A is 20, and so is the binary32 0x41A00000. -/
theorem test_decode : decodeFloat e4m3 0x5A = .num false 10 1 ∧ Ext.eqv (decodeFloat e4m3 0x5A) (decodeFloat fp32 0x41A00000) = true ∧
    toIF (decodeFloat e4m3 0x5A) = decodeFloat fp32 0x41A00000 := by decide
/-- The example under R86: 460, and 470 with and without SAT and under RTZ, through W1. -/
theorem test_encode : (encodeFloat e4m3 .rne false (Ext.ofInt 460)).1 = 0x7E ∧ (encodeFloat e4m3 .rne true (Ext.ofInt 470)).1 = 0x7E ∧
    (encodeFloat e4m3 .rne false (Ext.ofInt 470)).1 = 0x7F ∧ (encodeFloat e4m3 .rtz false (Ext.ofInt 470)).1 = 0x7E := by decide
/-- The example under R87: 32 terms of 2^−69 reach the last fraction bit of 1.0. -/
theorem test_float_sum : floatSum (BitVec.ofNat 80 (0x3FFF * 2 ^ 64)) (List.replicate 32 (decodeFloat e4m3 0x38, decodeFloat e4m3 0x38, -69)) .rne =
    BitVec.ofNat 80 (0x3FFF * 2 ^ 64 + 1) := by decide
/-- The example under R88. -/
theorem test_int_sum : narrow 32 true (2147483000 + 400) = 2147483400 ∧ narrow 32 true (2147483000 + 1000) = 2147483647 ∧
    narrow 32 false (2 ^ 31) = -(2 ^ 31) := by decide
/-- The example under R96: three participants, CANON, EXACT, and FAST in two orders. -/
theorem test_collective : let x := fun (n : Nat) => some (⟨0, 0, leBytes 4 n, [], 0, none⟩ : CollPart)
    (credResult .canon 11 1 [] [x 0x4B800000, x 0x3F800000, x 0x3F800000]).1 = leBytes 4 0x4B800000 ∧
    (credResult .exact 11 1 [] [x 0x4B800000, x 0x3F800000, x 0x3F800000]).1 = leBytes 4 0x4B800001 ∧
    (credResult .fast 11 1 [0, 1, 2] [x 0x4B800000, x 0x3F800000, x 0x3F800000]).1 = leBytes 4 0x4B800000 ∧
    (credResult .fast 11 1 [1, 2, 0] [x 0x4B800000, x 0x3F800000, x 0x3F800000]).1 = leBytes 4 0x4B800001 := by decide
/-- The example under R244: the scale of 20.0 in W3, and the codes of 20 and 1 under it. -/
theorem test_vcvt : mxScale 3 [Ext.ofInt 20, Ext.ofInt 1] = 123 ∧
    (encodeFloat e4m3 .rne true (Ext.ofInt 320)).1 = 0x7A ∧ (encodeFloat e4m3 .rne true (Ext.ofInt 16)).1 = 0x58 := by decide
/-- The example under R251. -/
theorem test_vcompress : after (.vcompress 2 1 3 false)
    (core 10 { task with vl := 10, p := task.p.set 3 0x232, v := task.v.set 1 (Vector.ofFn (fun (n : Fin 64) => BitVec.ofNat 32 n.val)) })
    (fun t => decide (t.here.vl = 4 ∧ (t.here.v[2]).toList.take 4 = [1#32, 4#32, 5#32, 9#32])) = true := by decide
/-- The first rows of the example under R271: L = 1, k = 3. -/
theorem test_sieve : [(0x40000000, 105), (sieveKey 0x80000000, 101), (0x7FC00000, 102), (0x40000000, 104), (0x40000000, 104), (0, 100)].foldl
    (fun (l : List Pair) x => admitPair 3 l x) [] = [(0x40000000, 104), (0x40000000, 105), (0, 100)] := by decide
/-- The example under R370: the record of a RUN_HAZARD. -/
theorem test_run_hazard : after (.add 10 8 7 true)
    { core 10 { trapping with pend := [⟨.w, 8, 0⟩], runPos := 1, pc := wholeCap 0x400000071208 } with
      parts := [(0, { Partition.reset with live := true, dies := [0], hbms := [0] })] }
    (fun t => decide (t.here.handler = true ∧ t.here.getW 10 = Reg.null)) = true := by decide
/-- The example under R283: what is left of [0, 100) after a steal is split. -/
theorem test_deque : after (.dsplit 5 false) (core 10 { task with deque := [(50, 100)] })
    (fun t => decide (t.here.deque = [(75, 100), (50, 75)])) = true := by decide

end Sys2Proof.Tests
end

section
/-! The deque instructions DPUSH, DPOP, DSPLIT and DSTEAL (R50, R51, R283). -/

namespace Sys2Proof.Machine

/-! ### Range words and the ends of a deque -/

theorem bf_low_half (x : Word) : bf x.toNat 0 32 = x.toNat % 2 ^ 32 := by simp [bf]
theorem bf_high_half (x : Word) : bf x.toNat 32 32 = x.toNat / 2 ^ 32 := by
  unfold bf
  exact Nat.mod_eq_of_lt (by have := x.isLt; omega)
theorem rangeWord_eq {lo hi : Nat} (hlo : lo < 2 ^ 32) (hhi : hi < 2 ^ 32) : rangeWord (lo, hi) = lo + hi * 2 ^ 32 := by
  simp only [rangeWord, Nat.mod_eq_of_lt hlo, Nat.mod_eq_of_lt hhi]

@[simp] theorem popNewest_nil : popNewest [] = none := rfl
@[simp] theorem popNewest_concat (l : List (Nat × Nat)) (r : Nat × Nat) : popNewest (l ++ [r]) = some (r, l) := by
  simp [popNewest]
@[simp] theorem splitNewest_nil : splitNewest [] = none := rfl
theorem splitNewest_concat_of_splits {l : List (Nat × Nat)} {lo hi : Nat} (hL : 2 ≤ hi - lo) (hl : (l ++ [(lo, hi)]).length < 32) :
    splitNewest (l ++ [(lo, hi)]) = some (l ++ [(lo + (hi - lo + 1) / 2, hi), (lo, lo + (hi - lo + 1) / 2)]) := by
  simp only [splitNewest, popNewest_concat]
  exact if_neg (by omega)
theorem splitNewest_concat_of_refused {l : List (Nat × Nat)} {lo hi : Nat} (h : hi - lo < 2 ∨ 32 ≤ (l ++ [(lo, hi)]).length) :
    splitNewest (l ++ [(lo, hi)]) = none := by
  simp only [splitNewest, popNewest_concat]
  exact if_pos h
/-- The larger half goes to the thief, so that a single index leaves the victim nothing (R51). -/
theorem stealOldest_cons {lo hi : Nat} (h : lo < hi) (rest : List (Nat × Nat)) :
    stealOldest ((lo, hi) :: rest) = some ((lo, if hi - lo = 1 then hi else lo + (hi - lo + 1) / 2),
      if hi - lo = 1 then rest else (lo + (hi - lo + 1) / 2, hi) :: rest) := by
  unfold stealOldest
  by_cases h1 : hi - lo = 1
  · simp [h1]
  · simp [h1, show ¬ hi - lo ≤ 1 by omega]
/-- Victims with empty deques are passed over (R51). -/
theorem stealFrom_append_of_empty {s : State} {before : List Nat} (h : ∀ j ∈ before, (s.tile j).deque = []) (l : List Nat) :
    stealFrom (before ++ l) s = stealFrom l s := by
  induction before with
  | nil => rfl
  | cons j js ih =>
    have hj : stealOldest (s.tile j).deque = none := by rw [h j List.mem_cons_self]; rfl
    rw [List.cons_append, stealFrom, hj]
    exact ih fun i hi => h i (List.mem_cons_of_mem _ hi)
theorem stealFrom_eq_none {s : State} {l : List Nat} (h : ∀ j ∈ l, (s.tile j).deque = []) : stealFrom l s = none := by
  rw [← List.append_nil l, stealFrom_append_of_empty h]; rfl

/-! ### What the bodies do -/

theorem metaD_simple (maj minor : Nat) (sw : Bool) (reads writes : List (File × Nat)) : (metaD maj minor sw reads writes).Simple :=
  ⟨rfl, rfl, rfl, rfl, rfl, rfl, rfl⟩
theorem KeepsFlow.deque (g : Tile → List (Nat × Nat)) (t : Tile) : KeepsFlow (fun u => { u with deque := g u }) t :=
  ⟨rfl, rfl, rfl, rfl, rfl⟩

/-- A body that ends with an answer in a ready register and goes on. -/
theorem writeN_seqFlow {s : State} {d : Nat} (n : Nat) (h : s.here.bound d = none) :
    ∃ t, (do writeN d n; seqFlow : Op Flow) s = .ok .seq t ∧ Upd s t (·.putX d (BitVec.ofNat 64 n)) := by
  obtain ⟨t, ht, hu⟩ := writeX_ready (BitVec.ofNat 64 n) h
  exact ⟨t, by simp [writeN, ht], hu⟩

section Bodies
variable {s : State} {d : Fin 64} {minor : Nat} {sw : Bool} {reads : List (File × Nat)} {body : Op Flow} {n : Nat}

/-- A deque instruction that only answers completes with its answer. -/
theorem deque_answers (hr : Ready s (reads ++ [wr d])) (hb : body s = (do writeN d n; seqFlow : Op Flow) s) :
    Through (issue (metaD 0x36 minor sw reads [wr d]) body s) s 4 (results [wr d]) (·.putX d (BitVec.ofNat 64 n)) := by
  obtain ⟨t, ht, hu⟩ := writeN_seqFlow n (hr.unbound (n := d) (by simp [wr]))
  exact (metaD_simple ..).through hr (hb.trans ht) hu (KeepsFlow.putX ..)

/-- A deque instruction that gives the task a new deque and answers. -/
theorem deque_changes {g : Tile → List (Nat × Nat)} (hr : Ready s (reads ++ [wr d]))
    (hb : body s = (do modT (fun u => { u with deque := g u }); writeN d n; seqFlow : Op Flow) s) :
    Through (issue (metaD 0x36 minor sw reads [wr d]) body s) s 4 (results [wr d])
      (fun u => { u with deque := g u }.putX d (BitVec.ofNat 64 n)) := by
  have hd : (s.modTile s.cur fun u => { u with deque := g u }).here.bound d = none := by
    rw [State.here_modTile]
    exact hr.unbound (n := d) (by simp [wr])
  obtain ⟨t, ht, hu⟩ := writeN_seqFlow n hd
  exact (metaD_simple ..).through hr (hb.trans (by simpa using ht)) (Upd.trans (.inr rfl) hu)
    ((KeepsFlow.deque g _).comp (KeepsFlow.putX ..))

/-- A deque instruction that gives some core, perhaps its own, a new deque and answers. -/
theorem deque_takes {k : Nat} {l : List (Nat × Nat)} (hr : Ready s (reads ++ [wr d]))
    (hb : body s = (do set (s.modTile k fun u => { u with deque := l }); writeN d n; seqFlow : Op Flow) s) :
    Through (issue (metaD 0x36 minor sw reads [wr d]) body s) (s.modTile k fun u => { u with deque := l }) 4 (results [wr d])
      (·.putX d (BitVec.ofNat 64 n)) := by
  have hag : (s.modTile k fun u => { u with deque := l }).here.ag = s.here.ag := by
    by_cases hk : k = s.cur
    · subst hk; rw [State.here_modTile]
    · exact congrArg Tile.ag (State.tile_setTile_other s _ (Ne.symm hk))
  have hbound (x : Nat) : (s.modTile k fun u => { u with deque := l }).here.bound x = s.here.bound x := by
    unfold Tile.bound; rw [hag]
  obtain ⟨t, ht, hu⟩ := writeN_seqFlow n ((hbound d).trans (hr.unbound (by simp [wr])))
  have hm := metaD_simple 0x36 minor sw reads [wr d]
  refine issue_through' (settle_none hm.sync hm.engine hm.drain s) (unsettled_none hm.engine hm.drain s)
    (hr.passes hm.kinds hm.priv hm.mustS hm.clash) (hb.trans (by simpa using ht)) hu (KeepsFlow.putX ..) fun r h => ?_
  unfold Tile.appends
  rw [hbound]
  exact hr.noAppend (m := metaD 0x36 minor sw reads [wr d]) r h

end Bodies

/-! ### The instructions -/

section Instructions
variable {s : State} {d : Fin 64} {sw : Bool}

theorem dpush_completes {r : Fin 64} {lo hi : Nat} (hr : Ready s [wr r, wr d]) (hlo : lo = (s.here.getX r).toNat % 2 ^ 32)
    (hhi : hi = (s.here.getX r).toNat / 2 ^ 32) :
    CompletesDeferred (.dpush d r sw) s [wr d] (fun u =>
      if hi ≤ lo then u.putX d 1 else if 32 ≤ s.here.deque.length then u.putX d 0
      else { u with deque := s.here.deque ++ [(lo, hi)] }.putX d 1) := by
  have hread : readN r s = .ok (s.here.getX r).toNat s := readN_ready (hr.unbound (by simp [wr]))
  rw [← bf_low_half] at hlo
  rw [← bf_high_half] at hhi
  by_cases hempty : hi ≤ lo
  · simp only [hempty, if_true]
    refine deque_answers (n := 1) hr ?_
    simp [hread, ← hlo, ← hhi, hempty]
  · by_cases hfull : 32 ≤ s.here.deque.length
    · simp only [hempty, hfull, if_true, if_false]
      refine deque_answers (n := 0) hr ?_
      simp [hread, ← hlo, ← hhi, hempty, hfull]
    · simp only [hempty, hfull, if_false]
      refine (deque_changes (g := fun u => u.deque ++ [(lo, hi)]) (n := 1) hr ?_).of_here rfl
      simp [hread, ← hlo, ← hhi, hempty, hfull]

theorem dpop_completes_of_empty (hr : Ready s [wr d]) (h : s.here.deque = []) :
    CompletesDeferred (.dpop d sw) s [wr d] (·.putX d 0) :=
  deque_answers (n := 0) hr (by simp [h])

theorem dpop_completes {l : List (Nat × Nat)} {lo hi : Nat} (hr : Ready s [wr d]) (h : s.here.deque = l ++ [(lo, hi)])
    (hlo : lo < 2 ^ 32) (hhi : hi < 2 ^ 32) :
    CompletesDeferred (.dpop d sw) s [wr d] (fun u => { u with deque := l }.putX d (BitVec.ofNat 64 (lo + hi * 2 ^ 32))) :=
  deque_changes (g := fun _ => l) hr (by simp [h, rangeWord_eq hlo hhi])

theorem dsplit_completes_of_refused (hr : Ready s [wr d]) (h : splitNewest s.here.deque = none) :
    CompletesDeferred (.dsplit d sw) s [wr d] (·.putX d 0) :=
  deque_answers (n := 0) hr (by simp [h])

theorem dsplit_completes {l : List (Nat × Nat)} (hr : Ready s [wr d]) (h : splitNewest s.here.deque = some l) :
    CompletesDeferred (.dsplit d sw) s [wr d] (fun u => { u with deque := l }.putX d 1) :=
  deque_changes (g := fun _ => l) (n := 1) hr (by simp [h])

theorem dsteal_completes_of_empty {sc : Scope} (hr : Ready s [wr d]) (h : ∀ k ∈ s.victims sc, (s.tile k).deque = []) :
    CompletesDeferred (.dsteal d sc sw) s [wr d] (·.putX d 0) :=
  deque_answers (n := 0) hr (by simp [stealFrom_eq_none h])

theorem dsteal_takes {sc : Scope} {before after : List Nat} {k m lo hi : Nat} {rest : List (Nat × Nat)} (hr : Ready s [wr d])
    (hv : s.victims sc = before ++ k :: after) (hb : ∀ j ∈ before, (s.tile j).deque = []) (hk : (s.tile k).deque = (lo, hi) :: rest)
    (hlt : lo < hi) (hhi : hi < 2 ^ 32) (hm : m = if hi - lo = 1 then hi else lo + (hi - lo + 1) / 2) :
    Through (exec (.dsteal d sc sw) s) (s.modTile k (fun u => { u with deque := if hi - lo = 1 then rest else (m, hi) :: rest })) 4
      (results [wr d]) (fun u => u.putX d (BitVec.ofNat 64 (lo + m * 2 ^ 32))) := by
  have hle : m ≤ hi := by rw [hm]; split <;> omega
  have hleft : (if hi - lo = 1 then rest else (lo + (hi - lo + 1) / 2, hi) :: rest) =
      if hi - lo = 1 then rest else (m, hi) :: rest := by
    rw [hm]; split <;> rfl
  have hsteal : stealFrom (s.victims sc) s = some ((lo, m), s.modTile k fun u =>
      { u with deque := if hi - lo = 1 then rest else (m, hi) :: rest }) := by
    rw [hv, stealFrom_append_of_empty hb, stealFrom, hk, stealOldest_cons hlt, ← hm, hleft]
  refine deque_takes hr ?_
  simp [hsteal, rangeWord_eq (show lo < 2 ^ 32 by omega) (show m < 2 ^ 32 by omega)]

end Instructions

/-- Settles O33: each instruction acts on the end of the deque that R50, R51 and R283 give it, case by case. -/
theorem dequeInstructions : Obligations.DequeInstructions := by
  unfold Obligations.DequeInstructions
  rintro s d r sc sw _ lo hi hr rfl
  have hd : Ready s [wr d] := hr.mono (by simp)
  refine ⟨dpush_completes hr, fun h => ⟨dpop_completes_of_empty hd h, dsplit_completes_of_refused hd (by rw [h]; rfl)⟩,
    fun l h hlo hhi => ⟨dpop_completes hd h hlo hhi, ?_, ?_⟩, dsteal_completes_of_empty hd, ?_⟩
  · intro hL hroom
    exact dsplit_completes hd (by rw [h] at hroom ⊢; exact splitNewest_concat_of_splits hL hroom)
  · intro hno
    exact dsplit_completes_of_refused hd (by rw [h] at hno ⊢; exact splitNewest_concat_of_refused hno)
  · intro before after k rest hv hb hk hlt hhi
    exact ⟨_, rfl, dsteal_takes hd hv hb hk hlt hhi rfl⟩

end Sys2Proof.Machine
end

section
/-! The bounds of derived capabilities: CSETB and CDERIVE (R61, R220, R221). -/

namespace Sys2Proof.Machine

/-! ### Fields of a capability built from its fields (R60) -/

section Fields
variable (g : Bool) (t b e o p a : Nat)

theorem Reg.mk'_hi_toNat : (Reg.mk' g t b e o p a).hi.toNat =
    t % 2 ^ 17 * 2 ^ 47 + b % 2 ^ 17 * 2 ^ 30 + e % 64 * 2 ^ 24 + o % 256 * 2 ^ 16 + p % 2 ^ 16 := by
  simp only [Reg.mk', BitVec.toNat_ofNat]
  omega

@[simp] theorem Reg.mk'_tag : (Reg.mk' g t b e o p a).tag = g := rfl
@[simp] theorem Reg.mk'_lo : (Reg.mk' g t b e o p a).lo = BitVec.ofNat 64 a := rfl
@[simp] theorem Reg.mk'_t : (Reg.mk' g t b e o p a).t = t % 2 ^ 17 := by
  rw [Reg.t, Reg.mk'_hi_toNat, bf]; omega
@[simp] theorem Reg.mk'_b : (Reg.mk' g t b e o p a).b = b % 2 ^ 17 := by
  rw [Reg.b, Reg.mk'_hi_toNat, bf]; omega
@[simp] theorem Reg.mk'_e : (Reg.mk' g t b e o p a).e = e % 64 := by
  rw [Reg.e, Reg.mk'_hi_toNat, bf]; omega
@[simp] theorem Reg.mk'_otype : (Reg.mk' g t b e o p a).otype = o % 256 := by
  rw [Reg.otype, Reg.mk'_hi_toNat, bf]; omega
@[simp] theorem Reg.mk'_perms : (Reg.mk' g t b e o p a).perms = p % 2 ^ 16 := by
  rw [Reg.perms, Reg.mk'_hi_toNat, bf]; omega

end Fields

theorem otype_lt (c : Reg) : c.otype < 256 := Nat.mod_lt _ (by decide)
theorem perms_lt (c : Reg) : c.perms < 2 ^ 16 := Nat.mod_lt _ (by decide)
theorem Reg.isOpen_iff (c : Reg) : Reg.isOpen c = true ↔ c.otype = 0 := decide_eq_true_iff

/-! ### Outward rounding (R220) -/

@[simp] theorem roundDown_div (e lo : Nat) : roundDown e lo / 2 ^ e = lo / 2 ^ e :=
  Nat.mul_div_cancel _ (Nat.two_pow_pos e)
theorem roundDown_eq (e lo : Nat) : roundDown e lo = roundDown e lo / 2 ^ e * 2 ^ e := by rw [roundDown_div]; rfl
theorem roundUp_eq (e hi : Nat) : roundUp e hi = roundUp e hi / 2 ^ e * 2 ^ e := by
  unfold roundUp; rw [Nat.mul_div_cancel _ (Nat.two_pow_pos e)]
theorem roundDown_le (e lo : Nat) : roundDown e lo ≤ lo := Nat.div_mul_le_self ..
theorem le_roundUp (e hi : Nat) : hi ≤ roundUp e hi := by
  have h := Nat.lt_div_mul_add (a := hi + 2 ^ e - 1) (b := 2 ^ e) (Nat.two_pow_pos e)
  have : 0 < 2 ^ e := Nat.two_pow_pos e
  unfold roundUp
  omega

/-- The range from `lo` to `hi`, rounded outward to multiples of 2^e, fits in 2^(e + 16) bytes. -/
def RoundedFits (lo hi e : Nat) : Prop := roundUp e hi - roundDown e lo ≤ 2 ^ (e + 16)

/-- The rounded range fits when its mantissas lie at most 2^16 apart. -/
theorem roundedFits_iff (lo hi e : Nat) :
    RoundedFits lo hi e ↔ roundUp e hi / 2 ^ e ≤ roundDown e lo / 2 ^ e + 2 ^ 16 := by
  have hfactor : roundUp e hi - roundDown e lo = (roundUp e hi / 2 ^ e - roundDown e lo / 2 ^ e) * 2 ^ e := by
    rw [Nat.sub_mul, ← roundUp_eq, ← roundDown_eq]
  rw [RoundedFits, hfactor, Nat.pow_add', Nat.mul_le_mul_right_iff (Nat.two_pow_pos e), Nat.sub_le_iff_le_add']

theorem setbExp_succ_of_fits {lo hi fuel e : Nat} (h : RoundedFits lo hi e) : setbExp lo hi (fuel + 1) e = e :=
  if_pos (.inl h)
theorem setbExp_succ_of_not_fits {lo hi fuel e : Nat} (h : ¬ RoundedFits lo hi e) (he : e ≠ 48) :
    setbExp lo hi (fuel + 1) e = setbExp lo hi fuel (e + 1) :=
  if_neg (not_or.2 ⟨h, he⟩)

/-- The loop of CSETB leaves at the first exponent, from the one it stands at, whose rounded range fits, or at 48. -/
theorem setbExp_first {lo hi fuel e : Nat} (h : e + fuel = 48) :
    setbExp lo hi fuel e ≤ 48 ∧ (∀ e', e ≤ e' → e' < setbExp lo hi fuel e → ¬ RoundedFits lo hi e') ∧
      (setbExp lo hi fuel e < 48 → RoundedFits lo hi (setbExp lo hi fuel e)) := by
  induction fuel generalizing e with
  | zero =>
    rw [setbExp]
    exact ⟨h.le, fun e' hle hlt => absurd hle (by omega), fun hlt => absurd hlt (by omega)⟩
  | succ fuel ih =>
    by_cases hf : RoundedFits lo hi e
    · rw [setbExp_succ_of_fits hf]
      exact ⟨by omega, fun e' hle hlt => absurd hle (by omega), fun _ => hf⟩
    · rw [setbExp_succ_of_not_fits hf (by omega)]
      obtain ⟨h48, hmin, hfit⟩ := ih (e := e + 1) (by omega)
      refine ⟨h48, fun e' hle hlt => ?_, hfit⟩
      obtain rfl | hlt' := hle.eq_or_lt
      · exact hf
      · exact hmin e' hlt' hlt

/-! ### Bounds (R61) -/

/-- Mantissas at most 2^16 apart, the lower one the address's own, decode to their multiples of 2^E. -/
theorem capBounds_of_mantissas {c : Reg} {m n : Nat} (ha : c.addr / 2 ^ c.e = m) (hb : c.b = m % 2 ^ 17) (ht : c.t = n % 2 ^ 17)
    (hmn : m ≤ n) (hn : n ≤ m + 2 ^ 16) : capBounds c = (((m * 2 ^ c.e : Nat) : Int), ((n * 2 ^ c.e : Nat) : Int)) := by
  have hlow : (m : Int) - ((m % 131072 : Int) - ((c.b : Int) - 32768) % 131072) % 131072 = m - 32768 := by
    rw [hb]; push_cast; omega
  have htop : (m : Int) - 32768 + ((c.t : Int) - ((c.b : Int) - 32768) % 131072) % 131072 = n := by
    rw [hb, ht]; push_cast; omega
  simp only [capBounds, ha, hlow, htop, sub_add_cancel, Nat.cast_mul]

/-! ### CSETB -/

section Setb
variable (ca : Reg) (len : Nat)

/-- The exponent that CSETB gives (R220). -/
def setbE : Nat := setbExp ca.addr (ca.addr + len) 48 0

theorem setbE_first : setbE ca len ≤ 48 ∧ (∀ e', e' < setbE ca len → ¬ RoundedFits ca.addr (ca.addr + len) e') ∧
    (setbE ca len < 48 → RoundedFits ca.addr (ca.addr + len) (setbE ca len)) := by
  obtain ⟨h48, hmin, hfit⟩ := setbExp_first (lo := ca.addr) (hi := ca.addr + len) (fuel := 48) (e := 0) rfl
  exact ⟨h48, fun e' => hmin e' e'.zero_le, hfit⟩

theorem capSetb_eq : capSetb ca len =
    Reg.mk' (ca.tag && Reg.isOpen ca && decide ((capBounds ca).1 ≤ roundDown (setbE ca len) ca.addr ∧
        (roundUp (setbE ca len) (ca.addr + len) : Int) ≤ (capBounds ca).2 ∧ roundUp (setbE ca len) (ca.addr + len) ≤ 2 ^ 64))
      (roundUp (setbE ca len) (ca.addr + len) / 2 ^ setbE ca len) (roundDown (setbE ca len) ca.addr / 2 ^ setbE ca len)
      (setbE ca len) ca.otype ca.perms ca.addr := rfl

theorem capSetb_tag : (capSetb ca len).tag = true ↔ ca.tag = true ∧ ca.otype = 0 ∧
    (capBounds ca).1 ≤ roundDown (setbE ca len) ca.addr ∧
    (roundUp (setbE ca len) (ca.addr + len) : Int) ≤ (capBounds ca).2 ∧ roundUp (setbE ca len) (ca.addr + len) ≤ 2 ^ 64 := by
  rw [capSetb_eq, Reg.mk'_tag, Bool.and_eq_true, Bool.and_eq_true, Reg.isOpen_iff, decide_eq_true_iff, and_assoc]
@[simp] theorem capSetb_lo : (capSetb ca len).lo = ca.lo := by rw [capSetb_eq, Reg.mk'_lo, Reg.addr, BitVec.ofNat_toNat, BitVec.setWidth_eq]
@[simp] theorem capSetb_addr : (capSetb ca len).addr = ca.addr := congrArg BitVec.toNat (capSetb_lo ca len)
@[simp] theorem capSetb_otype : (capSetb ca len).otype = ca.otype := by
  rw [capSetb_eq, Reg.mk'_otype, Nat.mod_eq_of_lt (otype_lt ca)]
@[simp] theorem capSetb_perms : (capSetb ca len).perms = ca.perms := by
  rw [capSetb_eq, Reg.mk'_perms, Nat.mod_eq_of_lt (perms_lt ca)]
@[simp] theorem capSetb_e : (capSetb ca len).e = setbE ca len := by
  have h := (setbE_first ca len).1
  rw [capSetb_eq, Reg.mk'_e, Nat.mod_eq_of_lt (by omega)]
theorem capSetb_b : (capSetb ca len).b = roundDown (setbE ca len) ca.addr / 2 ^ setbE ca len % 2 ^ 17 := by
  rw [capSetb_eq, Reg.mk'_b]
theorem capSetb_t : (capSetb ca len).t = roundUp (setbE ca len) (ca.addr + len) / 2 ^ setbE ca len % 2 ^ 17 := by
  rw [capSetb_eq, Reg.mk'_t]

/-- Where the rounded range fits, the fields that CSETB gives decode to it. -/
theorem capBounds_capSetb (h : RoundedFits ca.addr (ca.addr + len) (setbE ca len)) : capBounds (capSetb ca len) =
    ((roundDown (setbE ca len) ca.addr : Int), (roundUp (setbE ca len) (ca.addr + len) : Int)) := by
  have horder : roundDown (setbE ca len) ca.addr ≤ roundUp (setbE ca len) (ca.addr + len) :=
    calc roundDown _ ca.addr ≤ ca.addr := roundDown_le ..
      _ ≤ ca.addr + len := Nat.le_add_right ..
      _ ≤ roundUp _ _ := le_roundUp ..
  have hb := capBounds_of_mantissas (c := capSetb ca len) (by simp) (capSetb_b ca len) (capSetb_t ca len)
    (Nat.div_le_div_right horder) ((roundedFits_iff ..).1 h)
  rwa [capSetb_e, ← roundDown_eq, ← roundUp_eq] at hb

end Setb

/-- Settles O5: the loop's exponent is the first whose rounded range fits, and the bounds decode to that range. -/
theorem setBoundsResult : Obligations.SetBoundsResult := by
  unfold Obligations.SetBoundsResult
  intro s d a b sw hr
  refine ⟨fun t => capSetb (t.getW a) (t.getW b).addr, capOp_completes (fun ca x => capSetb ca x.addr) hr, fun t => ?_⟩
  obtain ⟨h48, hmin, hfit⟩ := setbE_first (t.getW a) (t.getW b).addr
  exact ⟨setbE (t.getW a) (t.getW b).addr, h48, fun e' he => not_le.1 (hmin e' he), hfit, capSetb_lo .., capSetb_otype ..,
    capSetb_perms .., capSetb_e .., capSetb_b .., capSetb_t .., capSetb_tag .., capBounds_capSetb _ _⟩

/-! ### CDERIVE -/

theorem capDerives_iff (ca x : Reg) : capDerives ca x = true ↔ ca.tag = true ∧ ca.otype = 0 ∧
    x.otype = 0 ∧ x.perms / 2 ^ 12 = 0 ∧ x.e ≤ 48 ∧
    (capBounds ca).1 ≤ (capBounds x).1 ∧ (capBounds x).1 ≤ (capBounds x).2 ∧ (capBounds x).2 ≤ (capBounds ca).2 ∧
    x.perms &&& ca.perms = x.perms := by
  simp only [capDerives, Bool.and_eq_true, Reg.isOpen_iff, decide_eq_true_iff, and_assoc]

/-- Settles O4: the result is the second operand's 128 bits, and the conditions of its tag are those of R221. -/
theorem derivedCapabilityTag : Obligations.DerivedCapabilityTag := by
  unfold Obligations.DerivedCapabilityTag
  intro s d a b sw hr
  exact ⟨fun t => capDerives (t.getW a) (t.getW b), capOp_completes (fun ca x => ⟨capDerives ca x, x.hi, x.lo⟩) hr,
    fun t => capDerives_iff ..⟩

end Sys2Proof.Machine
end

section
/-! Accumulator set-up and the attention instructions: ACFG, AZERO, AMOV, SMAXR, EXPT, RESCALE, ROWDIV (R254, R261, R262, R272). -/

namespace Sys2Proof.Machine

/-! ### What the updates of an engine instruction leave alone -/

@[simp] theorem Tile.spent_zero (t : Tile) : t.spent 0 = t := by simp [Tile.spent]
theorem Tile.accOf_modAcc_same (t : Tile) {n : Nat} (f : Acc → Acc) (h : n < 8) : (t.modAcc n f).accOf n = f (t.accOf n) := by
  simp [Tile.modAcc, Tile.accOf, h]
/-- A vector register whose lanes are written with what they hold is as before. -/
theorem Tile.setLanes_self (t : Tile) (v : Nat) : t.setLanes v (fun _ y => y) = t := by
  have hv : t.v.setIfInBounds v (Vector.ofFn fun i : Fin 64 => t.lane v i.val) = t.v := by
    ext i hi j hj
    by_cases h : v = i
    · subst h; simp [Tile.lane, hi]
    · simp [h]
  rw [Tile.setLanes, hv]

theorem KeepsFlow.charged (n : Nat) (t : Tile) : KeepsFlow (·.charged n) t := ⟨rfl, rfl, rfl, rfl, rfl⟩
theorem KeepsFlow.queued (op : EngOp) (t : Tile) : KeepsFlow (·.queued op) t := ⟨rfl, rfl, rfl, rfl, rfl⟩
theorem KeepsFlow.modAcc (n : Nat) (f : Acc → Acc) (t : Tile) : KeepsFlow (·.modAcc n f) t := ⟨rfl, rfl, rfl, rfl, rfl⟩
theorem KeepsFlow.setLanes (v : Nat) (f : Nat → Lane → Lane) (t : Tile) : KeepsFlow (·.setLanes v f) t :=
  ⟨rfl, rfl, rfl, rfl, rfl⟩

/-! ### Engine instructions whose effect lies in the tile -/

/-- The engine instruction owes no slots, and its retirement does `g` to the core's tile. -/
def Retires (op : EngOp) (g : Tile → Tile) : Prop := op.owed = 0 ∧ ∀ s k, State.retire s k op = s.modTile k g

/-- A queue of one such instruction retires. -/
theorem engineDrain_of_retires {s : State} {k : Nat} {op : EngOp} {g : Tile → Tile} (hr : Retires op g)
    (h : (s.tile k).eng = [op]) : s.engineDrain k = s.modTile k (fun t => g { t with eng := [] }) := by
  obtain ⟨howed, hretire⟩ := hr
  simp [State.engineDrain, State.engineStep, h, howed, hretire]
/-- An idle engine retires at once what joins its queue. -/
theorem engineDrain_queued {s : State} {op : EngOp} {g : Tile → Tile} (hr : Retires op g) (he : s.here.eng = []) :
    (s.modTile s.cur (·.queued op)).engineDrain s.cur = s.modTile s.cur g := by
  have hq : ((s.modTile s.cur (·.queued op)).tile s.cur).eng = [op] := by
    rw [State.tile_modTile]
    exact congrArg (· ++ [op]) he
  have hidle : { s.here.queued op with eng := [] } = s.here := by
    rw [← he]; rfl
  rw [engineDrain_of_retires hr hq, State.modTile_modTile]
  exact congrArg (fun t => s.setTile s.cur (g t)) hidle

/-- An engine instruction that has its whole effect as it issues (R254). -/
theorem issueEngine_engineNow {s : State} {op : EngOp} {g : Tile → Tile} (hr : Retires op g) (he : s.here.eng = []) :
    (do issueEngine op; engineNow; seqFlow : Op Flow) s = .ok .seq (s.modTile s.cur g) := by
  simp [issueEngine, engineNow, ← engineDrain_queued hr he, Tile.queued]

/-! ### Issue of an engine instruction (R254, R366) -/

theorem settle_engine {m : Meta} (he : m.engine = true) (hd : m.drain = .none) (s : State) : settle m s = s.engineDone := by
  simp [settle, he, hd, State.engineDone]
theorem unsettled_idle {m : Meta} {s : State} (hd : m.drain = .none) (h : s.here.eng = []) : unsettled m s = none := by
  have h' : (s.tile s.cur).eng = [] := h
  simp [unsettled, hd, h']

/-- An instruction of format T completes, once the earlier engine work has retired, if the core is of a kind that executes it, its
registers are ready and its body does `f`. -/
theorem metaT_through {maj minor kinds : Nat} {sw : Bool} {i : Instr} {reads writes : List (File × Nat)} {body : Op Flow}
    {o s t : State} {f : Tile → Tile} (hs : s = o.engineDone) (he : s.here.eng = []) (hk : kinds / 2 ^ kindOf s.cur % 2 = 1)
    (hr : Ready s (reads ++ writes)) (hb : body s = .ok .seq t) (hu : Upd s t f) (hf : KeepsFlow f s.here) :
    Through (issue (metaT maj minor kinds sw i reads writes) body o) s 4 (results writes) f :=
  issue_through' ((settle_engine rfl rfl o).trans hs.symm) (unsettled_idle rfl he)
    ⟨hk, nofun, fun r h => (hr r h).1, nofun, rfl⟩ hb hu hf (Ready.noAppend (m := metaT maj minor kinds sw i reads writes) hr)

/-- The tokens of a funded core pay for an instruction. -/
theorem spend_funded {s : State} {n : Nat} (h : Funded s) : spend n s = .ok ⟨⟩ (s.modTile s.cur (·.charged n)) := by
  obtain ⟨hhold, hbal, hsbal, hdue⟩ := h
  have hgo : ¬ ((s.tile s.cur).hold = 0 ∨ (s.tile s.cur).bal < 1 ∨ s.windowDue s.cur = true) := by
    rw [hdue]
    exact fun hc => hc.elim hhold fun hc => hc.elim (not_lt.2 hbal) Bool.false_ne_true
  have hgate : ¬ (s.tile s.cur).sbal < 1 := not_lt.2 hsbal
  simp only [spend, op_bind, op_get, hgo, hgate, if_false, op_modT]
  rfl
theorem accMode_ok {s : State} {n : Nat} {ok : Nat → Bool} (h : ok (modeOf (s.here.accOf n).mode) = true) :
    accMode n ok s = .ok ⟨⟩ s := by
  simp [accMode, h]
@[simp] theorem sampleRm_ok (s : State) : sampleRm s = .ok (rmOf s.here.fctl) s := rfl
theorem fieldOk_of {s : State} {reg lo : Nat} {b : Bool} (h : b = true) : fieldOk reg lo b s = .ok ⟨⟩ s := op_require h _ s
theorem zeroField_of {s : State} {reg x lo hi : Nat} (h : bf x lo (hi - lo) = 0) : zeroField reg x lo hi s = .ok ⟨⟩ s :=
  op_require (decide_eq_true h) _ s

/-- A condition beside which a change is refused where `p` holds. -/
theorem fieldOk_unless {s : State} {reg lo : Nat} {b p q : Prop} [Decidable b] [Decidable p] [Decidable q] (hb : b)
    (h : p → ¬ q) : fieldOk reg lo (decide b && !(decide p && decide q)) s = .ok ⟨⟩ s :=
  fieldOk_of (by simpa [hb, or_iff_not_imp_left] using h)

/-! ### Accumulator set-up (R261, R262) -/

/-- Core kinds 0 to 2 hold accumulators (R253). -/
theorem accKinds_has {k : Nat} (h : kindOf k = 0 ∨ kindOf k = 1 ∨ kindOf k = 2) : accKinds / 2 ^ kindOf k % 2 = 1 := by
  rcases h with h | h | h <;> rw [h] <;> rfl

/-- An accumulator after ACFG: a change of MODE empties the accumulator (R261). -/
def Acc.configured (x : Word) (a : Acc) : Acc :=
  { elems := if modeOf a.mode = modeOf x then a.elems else Vector.replicate 256 0, mode := x }
theorem retires_acfg (n : Nat) (x : Word) : Retires (.acfg n x) (·.modAcc n (Acc.configured x)) := by
  refine ⟨rfl, fun s k => congrArg (fun f => s.modTile k (·.modAcc n f)) (funext fun a => ?_)⟩
  unfold Acc.configured
  split <;> rfl
theorem retires_azero (n : Nat) : Retires (.azero n) (·.modAcc n Acc.emptied) := ⟨rfl, fun _ _ => rfl⟩
theorem retires_amov (n m : Nat) : Retires (.amov n m) (fun t => t.modAcc n fun _ => t.accOf m) := ⟨rfl, fun _ _ => rfl⟩

/-- The mode words that ACFG takes (R261, R376): no unallocated mode or format and no reserved bit, lists that the accumulator has
room for, and, for a SIEVE accumulator that stays one, as many lists as before and no fewer entries in each. -/
structure ModeAccepted (old x : Word) : Prop where
  mode : modeOf x ≠ 3
  reserved : bf x.toNat 2 14 = 0
  fmt : sieveFmt x ≠ 3
  lists : bf x.toNat 21 3 ≤ 4
  depth : sieveDepth x ≤ 256 / sieveLists x
  kept : modeOf x = 2 → modeOf old = 2 → bf x.toNat 21 3 = bf old.toNat 21 3 ∧ sieveDepth old ≤ sieveDepth x

section SetUp
variable {o s : State} {n m : Fin 8} {w : Fin 64} {x : Word} {sw : Bool} (hs : s = o.engineDone) (he : s.here.eng = [])
  (hk : kindOf s.cur = 0 ∨ kindOf s.cur = 1 ∨ kindOf s.cur = 2)
include hs he hk

theorem acfg_completes (hr : Ready s [wr w]) (hx : x = s.here.getX w) (h : ModeAccepted (s.here.accOf n).mode x) :
    Through (exec (.acfg n w sw) o) s 4 [] (·.modAcc n (Acc.configured x)) := by
  obtain ⟨hmode, hzero, hfmt, hlists, hdepth, hkept⟩ := h
  have hread : readX w s = .ok x s := hx ▸ readX_ready (hr.unbound (by simp [wr]))
  have hsame : modeOf x = 2 ∧ modeOf (s.here.accOf n).mode = 2 → ¬ bf x.toNat 21 3 ≠ bf (s.here.accOf n).mode.toNat 21 3 :=
    fun h => not_not.2 (hkept h.1 h.2).1
  have hroom : modeOf x = 2 ∧ modeOf (s.here.accOf n).mode = 2 → ¬ sieveDepth x < sieveDepth (s.here.accOf n).mode :=
    fun h => not_lt.2 (hkept h.1 h.2).2
  refine metaT_through hs he (accKinds_has hk) hr ((?_ : _ = _).trans (issueEngine_engineNow (retires_acfg n x) he)) (.inr rfl)
    (KeepsFlow.modAcc ..)
  simp only [op_bind, op_getT, hread, fieldOk_of (decide_eq_true hmode), fieldOk_of (decide_eq_true hfmt),
    zeroField_of (hi := 16) hzero, fieldOk_unless hlists hsame, fieldOk_unless hdepth hroom]

theorem azero_completes : Through (exec (.azero n sw) o) s 4 [] (·.modAcc n Acc.emptied) :=
  metaT_through hs he (accKinds_has hk) nofun (issueEngine_engineNow (retires_azero n) he) (.inr rfl) (KeepsFlow.modAcc ..)

theorem amov_completes (hf : Funded s) :
    Through (exec (.amov n m sw) o) s 4 [] (fun u => (u.charged 1).queued (.amov n m)) := by
  refine metaT_through hs he (accKinds_has hk) nofun (t := s.modTile s.cur fun u => (u.charged 1).queued (.amov n m)) ?_ (.inr rfl)
    ((KeepsFlow.charged ..).comp (KeepsFlow.queued ..))
  simp only [op_bind, spend_funded hf, issueEngine, op_modT, op_seqFlow, State.modTile_modTile, State.modTile_cur]
  rfl

end SetUp

/-- Once a lone AMOV has retired, its destination equals its source. -/
theorem accOf_engineDone_amov {t : State} {n m : Fin 8} (h : t.here.eng = [.amov n m]) :
    t.engineDone.here.accOf n = t.here.accOf m := by
  rw [State.engineDone, engineDrain_of_retires (retires_amov n m) h, State.here_modTile, Tile.accOf_modAcc_same _ _ n.isLt]
  rfl

/-- ACFG, AZERO and AMOV (R261, R262). -/
theorem accumulatorSetUp : AccumulatorSetUp := by
  intro o s n m w x sw hs he hk
  refine ⟨fun hr hx hmode hzero hfmt hlists hdepth hkept =>
    acfg_completes hs he hk hr hx ⟨hmode, hzero, hfmt, hlists, hdepth, hkept⟩, azero_completes hs he hk, fun hf => ?_⟩
  obtain ⟨t, ht, ⟨hcur, honly, hhere⟩, hpc, -⟩ := amov_completes (n := n) (m := m) (sw := sw) hs he hk hf
  have heng : t.here.eng = [.amov n m] := by
    rw [hhere]
    exact congrArg (· ++ [_]) he
  refine ⟨t, ht, ⟨hcur, honly, hhere⟩, hpc, ?_⟩
  rw [accOf_engineDone_amov heng, hhere]
  rfl

/-! ### Attention (R272) -/

theorem retires_smaxr (n v : Nat) : Retires (.smaxr n v) (smaxrTile · n v) := ⟨rfl, fun _ _ => rfl⟩
theorem retires_expt (n v : Nat) (rm : Rm) : Retires (.expt n v rm) (exptTile · n v rm) := ⟨rfl, fun _ _ => rfl⟩
theorem retires_rescale (n v : Nat) (l : Bool) (rm : Rm) : Retires (.rescale n v l rm) (rescaleTile · n v l rm) :=
  ⟨rfl, fun _ _ => rfl⟩
theorem retires_rowdiv (n v : Nat) (rm : Rm) : Retires (.rowdiv n v rm) (rowdivTile · n v rm) := ⟨rfl, fun _ _ => rfl⟩

/-- An attention instruction spends a slot and has its whole effect before it completes. -/
theorem attnOp_through {minor : Nat} {sw : Bool} {i : Instr} {n : Fin 8} {v : Fin 32} {writes : List (File × Nat)}
    {op : Rm → EngOp} {o s : State} {f g : Tile → Tile} (hs : s = o.engineDone) (he : s.here.eng = []) (hk : kindOf s.cur = 2)
    (hr : Ready s (vr v :: writes)) (hm : modeOf (s.here.accOf n).mode = 0) (hf : Funded s)
    (hop : Retires (op (rmOf s.here.fctl)) g) (hfg : g (s.here.charged 1) = f s.here) (hflow : KeepsFlow f s.here) :
    Through (attnOp (metaT 0x2E minor 4 sw i [vr v] writes) n op o) s 4 (results writes) f := by
  have hu : Upd s ((s.modTile s.cur (·.charged 1)).modTile s.cur g) f := by
    right
    rw [State.modTile_modTile]
    exact congrArg (s.setTile s.cur) hfg
  have hidle : (s.modTile s.cur (·.charged 1)).here.eng = [] := by rw [State.here_modTile]; exact he
  have hfctl : (s.modTile s.cur (·.charged 1)).here.fctl = s.here.fctl := by rw [State.here_modTile]; rfl
  refine metaT_through hs he (by rw [hk]; rfl) hr ((?_ : _ = _).trans (issueEngine_engineNow hop hidle)) hu hflow
  simp only [op_bind, accMode_ok (ok := (· = 0)) (decide_eq_true hm), spend_funded hf, sampleRm_ok, hfctl]

/-- Lane `i` of the register that SMAXR leaves: the new maxima, then those before. -/
def smaxrLane (t : Tile) (n v i : Nat) (y : Lane) : Lane :=
  if i < 16 then rneLane (extMax (lane (t.lane v i)) (lane (rneLane (((t.accOf n).row i).foldl extMax (.inf true)))))
  else if i < 32 then t.lane v (i - 16) else y
theorem smaxrTile_eq (t : Tile) (n v : Nat) : smaxrTile t n v = t.setLanes v (smaxrLane t n v) := rfl

/-- What EXPT gives element `j` of row `i` of an accumulator, before it is rounded to the element. -/
def exptVal (t : Tile) (n v i j : Nat) : Ext :=
  if lane (t.lane v i) == .inf true then Ext.zero
  else exp2Val (extSub (decodeFA ((t.accOf n).elems[16 * i + j]?.getD 0)) (lane (t.lane v i)))
/-- The accumulator that EXPT leaves. -/
def exptAcc (t : Tile) (n v : Nat) (rm : Rm) (a : Acc) : Acc :=
  { a with elems := Vector.ofFn (fun (k : Fin 256) => roundFA rm (exptVal t n v (k.val / 16) (k.val % 16))) }
/-- Lane `i` of the register that EXPT leaves: the row sums grow. -/
def exptLane (t : Tile) (n v i : Nat) (y : Lane) : Lane :=
  if 32 ≤ i ∧ i < 48 then
    rneLane (sumExt (lane y) ((List.finRange 16).map (fun j => (exptVal t n v (i - 32) j.val, Ext.num false 1 0, 0))) .rne)
  else y
theorem exptTile_eq (t : Tile) (n v : Nat) (rm : Rm) :
    exptTile t n v rm = (t.modAcc n (exptAcc t n v rm)).setLanes v (exptLane t n v) := by
  have hnew (k : Nat) : (if lane (t.lane v (k / 16)) == .inf true then Ext.zero
      else exp2Val (extSub (decodeFA ((t.accOf n).elems[k]?.getD 0)) (lane (t.lane v (k / 16))))) =
      exptVal t n v (k / 16) (k % 16) := by
    rw [exptVal, Nat.div_add_mod]
  have hval (i : Nat) (j : Fin 16) : exptVal t n v ((16 * i + j) / 16) ((16 * i + j) % 16) = exptVal t n v i j := by
    rw [Nat.mul_add_div (by decide), Nat.div_eq_of_lt j.isLt, Nat.add_zero, Nat.mul_add_mod, Nat.mod_eq_of_lt j.isLt]
  have hrange (f : Nat → Ext × Ext × Int) : (List.range 16).map f = (List.finRange 16).map (fun j => f j.val) := by
    rw [← List.map_coe_finRange_eq_range, List.map_map]; rfl
  unfold exptTile
  simp only [hnew, hrange, hval]
  rfl

/-- Lane `i` of the register that RESCALE leaves: with `l` the row sums take their row's factor. -/
def rescaleLane (t : Tile) (v : Nat) (l : Bool) (i : Nat) (y : Lane) : Lane :=
  if l = true ∧ 32 ≤ i ∧ i < 48 then rneLane (Ext.mul (lane y) (rescaleF t v (i - 32))) else y
/-- The accumulator that RESCALE leaves. -/
def rescaleAcc (t : Tile) (v : Nat) (rm : Rm) (a : Acc) : Acc :=
  { a with elems := Vector.ofFn (fun (k : Fin 256) => roundFA rm (Ext.mul (decodeFA a.elems[k]) (rescaleF t v (k.val / 16)))) }
theorem rescaleTile_eq (t : Tile) (n v : Nat) (l : Bool) (rm : Rm) :
    rescaleTile t n v l rm = (t.modAcc n (rescaleAcc t v rm)).setLanes v (rescaleLane t v l) := by
  cases l with
  | false =>
    have hid : rescaleLane t v false = fun _ y => y := by
      funext i y
      simp [rescaleLane]
    rw [hid, Tile.setLanes_self]
    rfl
  | true =>
    have hlane : rescaleLane t v true = fun i y =>
        if 32 ≤ i ∧ i < 48 then rneLane (Ext.mul (lane y) (rescaleF t v (i - 32))) else y := by
      funext i y
      simp [rescaleLane]
    rw [hlane]
    rfl

/-- The accumulator that ROWDIV leaves. -/
def rowdivAcc (t : Tile) (v : Nat) (rm : Rm) (a : Acc) : Acc :=
  { a with elems := Vector.ofFn (fun (k : Fin 256) => divFA rm (decodeFA a.elems[k]) (lane (t.lane v (32 + k.val / 16)))) }
theorem rowdivTile_eq (t : Tile) (n v : Nat) (rm : Rm) : rowdivTile t n v rm = t.modAcc n (rowdivAcc t v rm) := rfl

section Attention
variable {o s : State} {n : Fin 8} {v : Fin 32} {sw : Bool} (hs : s = o.engineDone) (he : s.here.eng = [])
  (hk : kindOf s.cur = 2) (hr : Ready s [vr v]) (hm : modeOf (s.here.accOf n).mode = 0) (hf : Funded s)
include hs he hk hr hm hf

theorem smaxr_completes : CompletesAfter (.smaxr n v sw) o s [vr v] (fun u => (u.charged 1).setLanes v (smaxrLane s.here n v)) :=
  attnOp_through hs he hk (hr.mono (by simp)) hm hf (retires_smaxr n v) (smaxrTile_eq (s.here.charged 1) n v)
    ((KeepsFlow.charged ..).comp (KeepsFlow.setLanes ..))

theorem expt_completes : CompletesAfter (.expt n v sw) o s [vr v] (fun u =>
    ((u.charged 1).modAcc n (exptAcc s.here n v (rmOf s.here.fctl))).setLanes v (exptLane s.here n v)) :=
  attnOp_through hs he hk (hr.mono (by simp)) hm hf (retires_expt n v _) (exptTile_eq (s.here.charged 1) n v _)
    (((KeepsFlow.charged ..).comp (KeepsFlow.modAcc ..)).comp (KeepsFlow.setLanes ..))

theorem rescale_completes (l : Bool) : CompletesAfter (.rescale n l v sw) o s [vr v] (fun u =>
    ((u.charged 1).modAcc n (rescaleAcc s.here v (rmOf s.here.fctl))).setLanes v (rescaleLane s.here v l)) :=
  attnOp_through hs he hk (hr.mono (by simp)) hm hf (retires_rescale n v l _) (rescaleTile_eq (s.here.charged 1) n v l _)
    (((KeepsFlow.charged ..).comp (KeepsFlow.modAcc ..)).comp (KeepsFlow.setLanes ..))

theorem rowdiv_completes : CompletesAfter (.rowdiv n v sw) o s [] (fun u =>
    (u.charged 1).modAcc n (rowdivAcc s.here v (rmOf s.here.fctl))) :=
  attnOp_through hs he hk hr hm hf (retires_rowdiv n v _) (rowdivTile_eq (s.here.charged 1) n v _)
    ((KeepsFlow.charged ..).comp (KeepsFlow.modAcc ..))

end Attention

/-- SMAXR, EXPT, RESCALE and ROWDIV (R272). -/
theorem attentionResults : AttentionResults := by
  intro o s n v l sw hs he hk hr hm hf
  refine ⟨⟨smaxrLane s.here n v, smaxr_completes hs he hk hr hm hf, fun i y => rfl⟩,
    ⟨fun i j => exptVal s.here n v i j, exptLane s.here n v, expt_completes hs he hk hr hm hf, fun i j => rfl, fun i y => ?_⟩,
    ⟨rescaleLane s.here v l, rescale_completes hs he hk hr hm hf l, fun i y => rfl⟩,
    rowdiv_completes hs he hk hr hm hf⟩
  unfold exptLane
  split <;> rfl

/-- Settles O27: set-up works by what retirement does to the accumulator, attention by the accumulator and the lanes that it writes. -/
theorem accumulatorAndAttention : Obligations.AccumulatorAndAttention := ⟨accumulatorSetUp, attentionResults⟩

end Sys2Proof.Machine
end
section
/-! Every encoding reads back (R191, R196, R199, R201). -/

namespace Sys2Proof.Laws

/-- Every instruction has the round trip of its constructor; what comes about without an encoding has none to read back. -/
theorem roundTrip (i : Instr) : RoundTrip.Statement i := by
  cases i with
  | add => apply RoundTrip.add
  | sub => apply RoundTrip.sub
  | and => apply RoundTrip.and
  | or => apply RoundTrip.or
  | xor => apply RoundTrip.xor
  | andn => apply RoundTrip.andn
  | shl => apply RoundTrip.shl
  | shr => apply RoundTrip.shr
  | shra => apply RoundTrip.shra
  | rot => apply RoundTrip.rot
  | min => apply RoundTrip.min
  | max => apply RoundTrip.max
  | clz => apply RoundTrip.clz
  | popc => apply RoundTrip.popc
  | mov => apply RoundTrip.mov
  | mul => apply RoundTrip.mul
  | mulh => apply RoundTrip.mulh
  | mulhU => apply RoundTrip.mulhU
  | div => apply RoundTrip.div
  | divU => apply RoundTrip.divU
  | rem => apply RoundTrip.rem
  | remU => apply RoundTrip.remU
  | addi => apply RoundTrip.addi
  | li => apply RoundTrip.li
  | lih => apply RoundTrip.lih
  | cmpEq => apply RoundTrip.cmpEq
  | cmpNe => apply RoundTrip.cmpNe
  | cmpLt => apply RoundTrip.cmpLt
  | cmpGe => apply RoundTrip.cmpGe
  | cmpLtu => apply RoundTrip.cmpLtu
  | cmpGeu => apply RoundTrip.cmpGeu
  | sel => apply RoundTrip.sel
  | pand => apply RoundTrip.pand
  | por => apply RoundTrip.por
  | pxor => apply RoundTrip.pxor
  | pnot => apply RoundTrip.pnot
  | csetb => apply RoundTrip.csetb
  | cgetb => apply RoundTrip.cgetb
  | cgetl => apply RoundTrip.cgetl
  | candp => apply RoundTrip.candp
  | cseal => apply RoundTrip.cseal
  | cunseal => apply RoundTrip.cunseal
  | cadd => apply RoundTrip.cadd
  | ctag => apply RoundTrip.ctag
  | cclr => apply RoundTrip.cclr
  | ceq => apply RoundTrip.ceq
  | cderive => apply RoundTrip.cderive
  | b => apply RoundTrip.b
  | j => apply RoundTrip.j
  | call => apply RoundTrip.call
  | jr => apply RoundTrip.jr
  | callr => apply RoundTrip.callr
  | ret => apply RoundTrip.ret
  | loop => apply RoundTrip.loop
  | nop => apply RoundTrip.nop
  | exit => apply RoundTrip.exit
  | wfe => apply RoundTrip.wfe
  | lbreak => apply RoundTrip.lbreak
  | ld => apply RoundTrip.ld
  | ldSb => apply RoundTrip.ldSb
  | ldSh => apply RoundTrip.ldSh
  | ldSw => apply RoundTrip.ldSw
  | ldc => apply RoundTrip.ldc
  | st => apply RoundTrip.st
  | stc => apply RoundTrip.stc
  | ldf => apply RoundTrip.ldf
  | stf => apply RoundTrip.stf
  | pref => apply RoundTrip.pref
  | repCopy => apply RoundTrip.repCopy
  | repFill => apply RoundTrip.repFill
  | fence => apply RoundTrip.fence
  | ldAqB => apply RoundTrip.ldAqB
  | ldAqH => apply RoundTrip.ldAqH
  | ldAqW => apply RoundTrip.ldAqW
  | ldAq => apply RoundTrip.ldAq
  | stRlB => apply RoundTrip.stRlB
  | stRlH => apply RoundTrip.stRlH
  | stRlW => apply RoundTrip.stRlW
  | stRl => apply RoundTrip.stRl
  | sbind => apply RoundTrip.sbind
  | sunbind => apply RoundTrip.sunbind
  | sstat => apply RoundTrip.sstat
  | amoAdd => apply RoundTrip.amoAdd
  | amoAnd => apply RoundTrip.amoAnd
  | amoOr => apply RoundTrip.amoOr
  | amoXor => apply RoundTrip.amoXor
  | amoMin => apply RoundTrip.amoMin
  | amoMax => apply RoundTrip.amoMax
  | amoMinu => apply RoundTrip.amoMinu
  | amoMaxu => apply RoundTrip.amoMaxu
  | amoSwap => apply RoundTrip.amoSwap
  | cas => apply RoundTrip.cas
  | vadd => apply RoundTrip.vadd
  | vsub => apply RoundTrip.vsub
  | vmul => apply RoundTrip.vmul
  | vmin => apply RoundTrip.vmin
  | vmax => apply RoundTrip.vmax
  | vabs => apply RoundTrip.vabs
  | vneg => apply RoundTrip.vneg
  | vand => apply RoundTrip.vand
  | vor => apply RoundTrip.vor
  | vxor => apply RoundTrip.vxor
  | vshl => apply RoundTrip.vshl
  | vshr => apply RoundTrip.vshr
  | vshra => apply RoundTrip.vshra
  | vadds => apply RoundTrip.vadds
  | vsubs => apply RoundTrip.vsubs
  | vfma => apply RoundTrip.vfma
  | vfnma => apply RoundTrip.vfnma
  | vcmpEq => apply RoundTrip.vcmpEq
  | vcmpNe => apply RoundTrip.vcmpNe
  | vcmpLt => apply RoundTrip.vcmpLt
  | vcmpLe => apply RoundTrip.vcmpLe
  | vsel => apply RoundTrip.vsel
  | vcvtDec => apply RoundTrip.vcvtDec
  | vcvtDecMx => apply RoundTrip.vcvtDecMx
  | vcvtEnc => apply RoundTrip.vcvtEnc
  | vcvtEncMx => apply RoundTrip.vcvtEncMx
  | vld => apply RoundTrip.vld
  | vst => apply RoundTrip.vst
  | vgather => apply RoundTrip.vgather
  | vscatter => apply RoundTrip.vscatter
  | vshuf => apply RoundTrip.vshuf
  | vbcast => apply RoundTrip.vbcast
  | vsetvl => apply RoundTrip.vsetvl
  | vsplat => apply RoundTrip.vsplat
  | vextr => apply RoundTrip.vextr
  | vredAdd => apply RoundTrip.vredAdd
  | vredMin => apply RoundTrip.vredMin
  | vredMax => apply RoundTrip.vredMax
  | vscanAdd => apply RoundTrip.vscanAdd
  | vscanMin => apply RoundTrip.vscanMin
  | vscanMax => apply RoundTrip.vscanMax
  | vexp2 => apply RoundTrip.vexp2
  | vrcp => apply RoundTrip.vrcp
  | vrsqrt => apply RoundTrip.vrsqrt
  | vdot => apply RoundTrip.vdot
  | vcompress => apply RoundTrip.vcompress
  | vexpand => apply RoundTrip.vexpand
  | mma => apply RoundTrip.mma
  | bmm => apply RoundTrip.bmm
  | bmmR => apply RoundTrip.bmmR
  | qcfg => apply RoundTrip.qcfg
  | qstat => apply RoundTrip.qstat
  | twait => apply RoundTrip.twait
  | tstate => apply RoundTrip.tstate
  | acfg => apply RoundTrip.acfg
  | azero => apply RoundTrip.azero
  | amov => apply RoundTrip.amov
  | rowsum => apply RoundTrip.rowsum
  | drain => apply RoundTrip.drain
  | drainq => apply RoundTrip.drainq
  | drainr => apply RoundTrip.drainr
  | spush => apply RoundTrip.spush
  | smma => apply RoundTrip.smma
  | speg => apply RoundTrip.speg
  | smerge => apply RoundTrip.smerge
  | sread => apply RoundTrip.sread
  | smaxr => apply RoundTrip.smaxr
  | expt => apply RoundTrip.expt
  | rescale => apply RoundTrip.rescale
  | rowdiv => apply RoundTrip.rowdiv
  | lspmm => apply RoundTrip.lspmm
  | send => apply RoundTrip.send
  | hret => apply RoundTrip.hret
  | mbox => apply RoundTrip.mbox
  | bar => apply RoundTrip.bar
  | barw => apply RoundTrip.barw
  | sstep => apply RoundTrip.sstep
  | dpush => apply RoundTrip.dpush
  | dpop => apply RoundTrip.dpop
  | dsplit => apply RoundTrip.dsplit
  | dsteal => apply RoundTrip.dsteal
  | get => apply RoundTrip.get
  | put => apply RoundTrip.put
  | cwait => apply RoundTrip.cwait
  | copy => apply RoundTrip.copy
  | cred => apply RoundTrip.cred
  | lld => apply RoundTrip.lld
  | lst => apply RoundTrip.lst
  | ladd => apply RoundTrip.ladd
  | lscan => apply RoundTrip.lscan
  | lcount => apply RoundTrip.lcount
  | ldense => apply RoundTrip.ldense
  | lgrow => apply RoundTrip.lgrow
  | treq => apply RoundTrip.treq
  | tret => apply RoundTrip.tret
  | tstat => apply RoundTrip.tstat
  | compose => apply RoundTrip.compose
  | decompose => apply RoundTrip.decompose
  | gang => apply RoundTrip.gang
  | join => apply RoundTrip.join
  | launch => apply RoundTrip.launch
  | trap => apply RoundTrip.trap
  | eret => apply RoundTrip.eret
  | srd => apply RoundTrip.srd
  | swr => apply RoundTrip.swr
  | tlbiPage => apply RoundTrip.tlbiPage
  | tlbiAsid => apply RoundTrip.tlbiAsid
  | tlbiGlobal => apply RoundTrip.tlbiGlobal
  | tlbiPart => apply RoundTrip.tlbiPart
  | ifence => apply RoundTrip.ifence
  | tblld => apply RoundTrip.tblld
  | meter => apply RoundTrip.meter
  | cMov => apply RoundTrip.cMov
  | cAdd => apply RoundTrip.cAdd
  | cSub => apply RoundTrip.cSub
  | cAnd => apply RoundTrip.cAnd
  | cOr => apply RoundTrip.cOr
  | cXor => apply RoundTrip.cXor
  | cShl => apply RoundTrip.cShl
  | cShr => apply RoundTrip.cShr
  | cJr => apply RoundTrip.cJr
  | cCallr => apply RoundTrip.cCallr
  | cRet => apply RoundTrip.cRet
  | cNop => apply RoundTrip.cNop
  | cAddi => apply RoundTrip.cAddi
  | cLi => apply RoundTrip.cLi
  | cB => apply RoundTrip.cB
  | cLd => apply RoundTrip.cLd
  | cSt => apply RoundTrip.cSt
  | cLdW => apply RoundTrip.cLdW
  | cStW => apply RoundTrip.cStW
  | cLdPost => apply RoundTrip.cLdPost
  | cStPost => apply RoundTrip.cStPost
  | cLdc => apply RoundTrip.cLdc
  | cStc => apply RoundTrip.cStc
  | _ => exact fun _ he => absurd he Bool.false_ne_true

/-- Settles O59, by the round trip of each constructor. -/
theorem encodedInstructionDecodes : Obligations.EncodedInstructionDecodes := roundTrip

end Sys2Proof.Laws
end

section
/-! Integer arithmetic, predicates and capabilities (R217 to R219). -/

namespace Sys2Proof.Machine

/-! ### Instructions that wait for nothing -/

theorem metaI_simple (maj minor len : Nat) (sw : Bool) (reads writes : List (File × Nat)) :
    (metaI maj minor len sw reads writes).Simple := ⟨rfl, rfl, rfl, rfl, rfl, rfl, rfl⟩

section Alu
variable {s : State} {minor len : Nat} {sw : Bool} {d a b : Fin 64} {f g : Word → Word → Word}

/-- A three-register instruction of immediate class gives `g` where its operation does. -/
theorem metaAlu_completes (hr : Ready s [wr a, wr b, wr d]) (hfg : ∀ x y, f x y = g x y) :
    Through (alu (metaAlu minor len sw d a b) d a b f s) s len [] (fun t => t.putX d (g (t.getX a) (t.getX b))) :=
  (alu_completes (metaI_simple ..) f hr rfl rfl).of_here (by rw [hfg])

/-- A three-register instruction of deferred class gives `g` where its operation does. -/
theorem metaMul_completes (hr : Ready s [wr a, wr b, wr d]) (hfg : ∀ x y, f x y = g x y) :
    Through (alu (metaMul minor sw d a b) d a b f s) s 4 (results [wr d]) (fun t => t.putX d (g (t.getX a) (t.getX b))) :=
  (alu_completes (metaD_simple ..) f hr rfl rfl).of_here (by rw [hfg])

end Alu

/-- A two-register instruction of immediate class. -/
theorem metaI_alu1_completes {s : State} {maj minor len : Nat} {sw : Bool} {d a : Fin 64} {f g : Word → Word}
    (hr : Ready s [wr a, wr d]) (hfg : ∀ x, f x = g x) :
    Through (alu1 (metaI maj minor len sw [wr a] [wr d]) d a f s) s len [] (fun t => t.putX d (g (t.getX a))) :=
  (alu1_completes (metaI_simple ..) f hr rfl rfl).of_here (by rw [hfg])
theorem metaI_loadImm_completes {s : State} {maj minor len : Nat} {sw : Bool} {d : Fin 64} (x : Word) (hr : Ready s [wr d]) :
    Through (loadImm (metaI maj minor len sw [] [wr d]) d x s) s len [] (fun t => t.putX d x) :=
  loadImm_completes (metaI_simple ..) x hr rfl rfl

/-! ### The table of R217 -/

theorem aluMin_eq (x y : Word) : aluMin x y = if y.toInt < x.toInt then y else x := by simp [aluMin, BitVec.slt]
theorem aluMax_eq (x y : Word) : aluMax x y = if x.toInt < y.toInt then y else x := by simp [aluMax, BitVec.slt]
theorem aluPopc_eq (x : Word) : aluPopc x = BitVec.ofNat 64 ((List.range 64).filter (fun i => x.getLsbD i)).length := by
  rw [aluPopc, List.countP_eq_length_filter]
theorem aluLih_eq (x : Word) (imm : BitVec 16) : x <<< 16 ||| imm.setWidth 64 = x.setWidth 48 ++ imm := by
  have hshift : x.toNat * 2 ^ 16 % 2 ^ 64 = x.toNat % 2 ^ 48 * 2 ^ 16 := by omega
  have happend := BitVec.toNat_append (x.setWidth 48) imm
  apply BitVec.eq_of_toNat_eq
  rw [happend]
  simp only [BitVec.toNat_or, BitVec.toNat_shiftLeft, BitVec.toNat_setWidth, Nat.shiftLeft_eq, hshift]
  rw [Nat.mod_eq_of_lt (a := imm.toNat) (by omega)]

/-- The number of leading zeros of a word. -/
def leadingZeros (x : Word) : Nat := if x.toNat = 0 then 64 else 63 - Nat.log2 x.toNat
theorem aluClz_eq (x : Word) : aluClz x = BitVec.ofNat 64 (leadingZeros x) := by
  unfold aluClz leadingZeros
  split <;> rfl
theorem leadingZeros_spec (x : Word) : leadingZeros x ≤ 64 ∧ x.toNat < 2 ^ (64 - leadingZeros x) ∧
    (leadingZeros x < 64 → 2 ^ (63 - leadingZeros x) ≤ x.toNat) := by
  unfold leadingZeros
  by_cases h : x.toNat = 0
  · simp [h]
  · have hlog : Nat.log2 x.toNat < 64 := (Nat.log2_lt h).2 x.isLt
    rw [if_neg h, show 64 - (63 - Nat.log2 x.toNat) = Nat.log2 x.toNat + 1 by omega,
      show 63 - (63 - Nat.log2 x.toNat) = Nat.log2 x.toNat by omega]
    exact ⟨by omega, Nat.lt_log2_self, fun _ => Nat.log2_self_le h⟩

/-- Settles O1: each form is one of the shared operations with the table's function. -/
theorem integerArithmeticResults : Obligations.IntegerArithmeticResults := by
  unfold Obligations.IntegerArithmeticResults
  intro s d a b sw
  refine ⟨fun hr => ⟨metaAlu_completes hr fun _ _ => rfl, metaAlu_completes hr fun _ _ => rfl,
    metaAlu_completes hr fun _ _ => rfl, metaAlu_completes hr fun _ _ => rfl, metaAlu_completes hr fun _ _ => rfl,
    metaAlu_completes hr fun _ _ => rfl, metaAlu_completes hr fun _ _ => rfl, metaAlu_completes hr fun _ _ => rfl,
    metaAlu_completes hr fun _ _ => rfl, metaAlu_completes hr fun _ _ => rfl, metaAlu_completes hr aluMin_eq,
    metaAlu_completes hr aluMax_eq, metaMul_completes hr fun _ _ => rfl, metaMul_completes hr fun _ _ => rfl,
    metaMul_completes hr fun _ _ => rfl, metaMul_completes hr fun _ _ => rfl, metaMul_completes hr fun _ _ => rfl,
    metaMul_completes hr fun _ _ => rfl, metaMul_completes hr fun _ _ => rfl⟩, fun hr => ⟨?_, ?_, ?_, ?_⟩,
    fun hr => ⟨fun imm => metaI_loadImm_completes _ hr, fun imm => ?_⟩⟩
  · exact ⟨fun t => leadingZeros (t.getX a), metaI_alu1_completes hr aluClz_eq, fun t => leadingZeros_spec _⟩
  · exact metaI_alu1_completes hr aluPopc_eq
  · exact metaI_alu1_completes hr fun _ => rfl
  · exact fun imm => metaI_alu1_completes hr fun _ => rfl
  · exact metaI_alu1_completes (hr.mono (by simp)) fun x => aluLih_eq x imm

/-- Each compact integer form is its long form on w0 to w15, in two bytes. -/
theorem compactIntegerForms : CompactIntegerForms := by
  intro s d a imm sw
  refine ⟨fun hr => ?_, fun hr => ⟨metaI_alu1_completes (hr.mono (by simp)) fun _ => rfl, metaI_loadImm_completes _ hr⟩⟩
  have h3 : Ready s [wr (low d), wr (low a), wr (low d)] := hr.mono (by simp)
  exact ⟨metaAlu_completes h3 fun _ _ => rfl, metaAlu_completes h3 fun _ _ => rfl, metaAlu_completes h3 fun _ _ => rfl,
    metaAlu_completes h3 fun _ _ => rfl, metaAlu_completes h3 fun _ _ => rfl, metaAlu_completes h3 fun _ _ => rfl,
    metaAlu_completes h3 fun _ _ => rfl, metaI_alu1_completes (hr.mono (by simp)) fun _ => rfl⟩

/-! ### Predicates (R218) -/

/-- A comparison gives all ones where its condition holds. -/
theorem compare_gives {minor : Nat} {sw : Bool} {p : Fin 8} {a b : Fin 64} {s : State} {f : Word → Word → Bool}
    (c : Word → Word → Prop) [DecidableRel c] (hr : Ready s [wr a, wr b, pr p]) (hf : ∀ x y, f x y = true ↔ c x y) :
    Through (compare minor sw p a b f s) s 4 [] (fun u => u.wp p (if c (u.getX a) (u.getX b) then BitVec.allOnes 64 else 0)) :=
  (compare_completes f hr).of_here (congrArg (s.here.wp p) (if_congr (hf ..) rfl rfl))

theorem sel_completes {s : State} {d a b : Fin 64} {k : Fin 8} {sw : Bool} (hr : Ready s [wr a, wr b, pr k, wr d]) :
    Completes (.sel d a b k sw) s 4 (fun t => t.putX d (if (t.rp k).getLsbD 0 then t.getX a else t.getX b)) := by
  obtain ⟨t, ht, hu⟩ := writeX_ready (s := s) (n := d) (if (s.here.rp k).getLsbD 0 then s.here.getX a else s.here.getX b)
    (hr.unbound (by simp [wr]))
  refine Through.of_here ((metaI_simple 0x06 0 4 sw [wr a, wr b, pr k] [wr d]).through (t := t) hr ?_ hu (KeepsFlow.putX ..)) rfl
  simp only [op_bind, readX_ready (hr.unbound (n := a) (by simp [wr])), readX_ready (hr.unbound (n := b) (by simp [wr])), readP_ok,
    ht, op_seqFlow]

/-- Settles O2: comparisons by what their condition means, SEL by its one write, predicate logic by its shared operation. -/
theorem predicateResults : Obligations.PredicateResults := by
  unfold Obligations.PredicateResults
  refine fun s sw => ⟨fun p a b hr => ⟨?_, ?_, ?_, ?_, ?_, ?_⟩, fun d a b k hr => sel_completes hr, fun d a b hr =>
    ⟨predOp_completes _ hr, predOp_completes _ hr, predOp_completes _ hr, predOp_completes _ (hr.mono (by simp))⟩⟩
  · exact compare_gives (fun x y => x = y) hr fun x y => by simp
  · refine (compare_gives (fun x y => ¬ x = y) hr fun x y => by simp).of_here ?_
    rw [ite_not]
  · exact compare_gives (fun x y => x.toInt < y.toInt) hr fun x y => by simp [BitVec.slt]
  · exact compare_gives (fun x y => y.toInt ≤ x.toInt) hr fun x y => by simp [BitVec.slt]
  · exact compare_gives (fun x y => x.toNat < y.toNat) hr fun x y => by simp [BitVec.ult]
  · exact compare_gives (fun x y => y.toNat ≤ x.toNat) hr fun x y => by simp [BitVec.ult]

end Sys2Proof.Machine
end

section
/-! Capability reads, seals and moves (R61, R219). -/

namespace Sys2Proof.Machine

theorem Reg.t_lt (c : Reg) : c.t < 2 ^ 17 := Nat.mod_lt _ (by decide)
theorem Reg.b_lt (c : Reg) : c.b < 2 ^ 17 := Nat.mod_lt _ (by decide)
theorem Reg.e_lt (c : Reg) : c.e < 64 := Nat.mod_lt _ (by decide)

/-! ### Permissions as bits -/

theorem Reg.has_two_pow (c : Reg) (i : Nat) : c.has (2 ^ i) = c.perms.testBit i := by
  unfold Reg.has
  rw [Nat.and_two_pow]
  cases c.perms.testBit i <;> simp [(Nat.two_pow_pos i).ne]
theorem testBit_sub_and_global {a i : Nat} (h : i ≠ 8) (hi : i < 16) : (a - (a &&& Perm.global)).testBit i = a.testBit i := by
  have hand : a &&& Perm.global = a / 256 % 2 * 256 := by
    rw [show Perm.global = 2 ^ 8 from rfl, Nat.and_two_pow, Nat.toNat_testBit]; rfl
  rw [hand, Nat.testBit_eq_decide_div_mod_eq, Nat.testBit_eq_decide_div_mod_eq]
  congr 2
  interval_cases i <;> omega
theorem testBit_sub_and_global_same (a : Nat) : (a - (a &&& Perm.global)).testBit 8 = false := by
  have hand : a &&& Perm.global = a / 256 % 2 * 256 := by
    rw [show Perm.global = 2 ^ 8 from rfl, Nat.and_two_pow, Nat.toNat_testBit]; rfl
  rw [hand, Nat.testBit_eq_decide_div_mod_eq]
  simp only [decide_eq_false_iff_not]
  omega

/-! ### A capability with another tag, OTYPE and PERMS -/

section With
variable (c : Reg) (g : Bool) (o p : Nat)

theorem capWith_sameRange : SameRange (capWith c g o p) c := by
  have ht := Reg.t_lt c
  have hb := Reg.b_lt c
  have he := Reg.e_lt c
  refine ⟨?_, ?_, ?_, ?_⟩
  · rw [capWith, Reg.mk'_lo, Reg.addr, BitVec.ofNat_toNat, BitVec.setWidth_eq]
  · rw [capWith, Reg.mk'_t, Nat.mod_eq_of_lt ht]
  · rw [capWith, Reg.mk'_b, Nat.mod_eq_of_lt hb]
  · rw [capWith, Reg.mk'_e, Nat.mod_eq_of_lt he]
@[simp] theorem capWith_tag : (capWith c g o p).tag = g := rfl
@[simp] theorem capWith_otype : (capWith c g o p).otype = o % 256 := by rw [capWith, Reg.mk'_otype]
@[simp] theorem capWith_perms : (capWith c g o p).perms = p % 2 ^ 16 := by rw [capWith, Reg.mk'_perms]
theorem capWith_has {i : Nat} (hi : i < 16) : (capWith c g o p).has (2 ^ i) = p.testBit i := by
  rw [Reg.has_two_pow, capWith_perms, Nat.testBit_mod_two_pow, decide_eq_true hi, Bool.true_and]

end With

/-! ### Seals (R219) -/

theorem capAuthority_iff (c : Reg) (perm : Nat) : capAuthority c perm = true ↔ c.tag = true ∧ c.otype = 0 ∧ c.has perm = true ∧
    (capBounds c).1 ≤ (c.addr : Int) ∧ (c.addr : Int) < (capBounds c).2 := by
  simp only [capAuthority, Bool.and_eq_true, Reg.isOpen_iff, decide_eq_true_iff, and_assoc]
theorem capSeal_tag (ca ct : Reg) : (capSeal ca ct).tag = true ↔ ca.tag = true ∧ ca.otype = 0 ∧ ct.tag = true ∧ ct.otype = 0 ∧
    ct.has Perm.sealing = true ∧ (capBounds ct).1 ≤ (ct.addr : Int) ∧ (ct.addr : Int) < (capBounds ct).2 ∧ 1 ≤ ct.addr ∧
    ct.addr ≤ 255 := by
  simp only [capSeal, capWith_tag, Bool.and_eq_true, capAuthority_iff, Reg.isOpen_iff, decide_eq_true_iff, and_assoc]
theorem capUnseal_tag (ca ct : Reg) : (capUnseal ca ct).tag = true ↔ ca.tag = true ∧ ca.otype ≠ 0 ∧ ct.tag = true ∧ ct.otype = 0 ∧
    ct.has Perm.unsealing = true ∧ (capBounds ct).1 ≤ (ct.addr : Int) ∧ (ct.addr : Int) < (capBounds ct).2 ∧
    ct.addr = ca.otype := by
  simp only [capUnseal, capWith_tag, Bool.and_eq_true, capAuthority_iff, Bool.not_eq_true', ← Bool.not_eq_true, Reg.isOpen_iff,
    decide_eq_true_iff, and_assoc, ne_eq]
/-- CUNSEAL keeps every permission but GLOBAL. -/
theorem capUnseal_has (ca ct : Reg) {i : Nat} (h : i ≠ 8) (hi : i < 16) : (capUnseal ca ct).has (2 ^ i) = ca.has (2 ^ i) := by
  rw [capUnseal, capWith_has _ _ _ _ hi, Reg.has_two_pow]
  split
  · rfl
  · exact testBit_sub_and_global h hi
/-- CUNSEAL keeps GLOBAL where both capabilities hold it. -/
theorem capUnseal_global (ca ct : Reg) : (capUnseal ca ct).has Perm.global = true ↔
    ca.has Perm.global = true ∧ ct.has Perm.global = true := by
  rw [show Perm.global = 2 ^ 8 from rfl, capUnseal, capWith_has _ _ _ _ (by decide), Reg.has_two_pow ca]
  split
  · next h => exact (and_iff_left h).symm
  · next h => rw [testBit_sub_and_global_same]; exact iff_of_false Bool.false_ne_true fun hc => h hc.2

/-! ### CADD -/

theorem wordSum_toNat (x y : Word) : (((x.toNat : Int) + y.toNat) % (2 ^ 64 : Nat)).toNat = (x + y).toNat := by
  rw [BitVec.toNat_add]
  omega
theorem capAdd_word_lo (c : Reg) (x : Word) : (capAdd c x.toNat).lo = c.lo + x := by
  simp only [capAdd, capMove, Reg.addr, wordSum_toNat, BitVec.ofNat_toNat, BitVec.setWidth_eq]
theorem capAdd_word_tag (c : Reg) (x : Word) : (capAdd c x.toNat).tag = true ↔ c.tag = true ∧ (x = 0 ∨ c.otype = 0 ∧
    (capBounds c).1 - 2 ^ (c.e + 15) ≤ (c.lo + x).toNat ∧
    ((c.lo + x).toNat : Int) < (capBounds c).1 + 2 ^ (c.e + 16) + 2 ^ (c.e + 15)) := by
  have hzero : ((x.toNat : Int) = 0) ↔ x = 0 := by
    rw [Int.natCast_eq_zero]; exact BitVec.toNat_inj (y := 0)
  simp only [capAdd, capMove, Reg.addr, wordSum_toNat, Nat.mod_eq_of_lt (c.lo + x).isLt, Bool.and_eq_true, Bool.or_eq_true,
    decide_eq_true_iff, hzero]
  simp only [capRepresents, decide_eq_true_iff, Nat.cast_pow, Nat.cast_ofNat]

/-- CTAG's word is that of its three fields. -/
theorem capTag_eq (c : Reg) : capTag c = BitVec.ofNat 64 (c.tag.toNat + c.perms * 2 ^ 8 + c.otype * 2 ^ 24) := by
  unfold capTag bit
  cases c.tag <;> rfl

/-- Settles O3: the shared operations give the results, and the lemmas on seals and moves the fields and tags of R219. -/
theorem capabilityResults : Obligations.CapabilityResults := by
  unfold Obligations.CapabilityResults
  intro s d a b sw
  refine ⟨fun hr => ⟨capOp1_completes _ hr, capOp1_completes _ hr, (capOp1_completes _ hr).of_here ?_, capOp1_completes _ hr⟩,
    fun hr => ⟨⟨_, capOp_completes _ hr, fun t => ⟨capWith_sameRange .., ?_, ?_, ?_⟩⟩,
      ⟨_, capOp_completes _ hr, fun t => ⟨capWith_sameRange .., ?_, ?_, capSeal_tag ..⟩⟩,
      ⟨_, capOp_completes _ hr, fun t => ⟨capWith_sameRange .., capWith_otype .., ?_, capUnseal_global .., capUnseal_tag ..⟩⟩,
      ⟨_, capOp_completes _ hr, fun t => ⟨rfl, capAdd_word_lo .., capAdd_word_tag ..⟩⟩, capOp_completes _ hr⟩⟩
  · rw [capTag_eq]; rfl
  · rw [capWith_otype, Nat.mod_eq_of_lt (otype_lt _)]
  · rw [capWith_perms, Nat.mod_eq_of_lt]
    · rfl
    · exact lt_of_le_of_lt Nat.and_le_left (perms_lt _)
  · rw [capWith_tag, Bool.and_eq_true, Reg.isOpen_iff]
  · rw [capSeal, capWith_otype, Nat.mod_mod]; rfl
  · rw [capSeal, capWith_perms, Nat.mod_eq_of_lt (perms_lt _)]
  · rintro _ hne ⟨i, rfl⟩
    exact capUnseal_has _ _ (fun h => hne (by rw [h]; rfl)) i.isLt

end Sys2Proof.Machine
end

section
/-! What the engine, a store and a control instruction leave of the stepping core's tile (R67, R122, R222, R254). -/

namespace Sys2Proof.Machine

/-! ### The engine's part of a tile -/

/-- `t` with what the engine may change taken from `u`: vector registers, slots, rings, accumulators, balances and its queue. -/
def Tile.withEngine (t u : Tile) : Tile :=
  { t with v := u.v, slots := u.slots, rings := u.rings, acc := u.acc, bal := u.bal, sbal := u.sbal, trips := u.trips,
           slotEvents := u.slotEvents, eng := u.eng }
/-- From `t` to `u` nothing has changed but what the engine may change. -/
def EngineOnly (t u : Tile) : Prop := u = t.withEngine u

theorem EngineOnly.refl (t : Tile) : EngineOnly t t := rfl
theorem EngineOnly.trans {t u w : Tile} (h : EngineOnly t u) (h' : EngineOnly u w) : EngineOnly t w := by
  refine Eq.trans h' ?_
  rw [h]; rfl
theorem EngineOnly.foldl {α : Type} {f : Tile → α → Tile} (hf : ∀ t a, EngineOnly t (f t a)) (l : List α) (t : Tile) :
    EngineOnly t (l.foldl f t) := by
  induction l generalizing t with
  | nil => exact EngineOnly.refl t
  | cons a l ih => exact (hf t a).trans (ih _)

theorem engineOnly_modAcc (t : Tile) (n : Nat) (f : Acc → Acc) : EngineOnly t (t.modAcc n f) := rfl
theorem engineOnly_modSlot (t : Tile) (i : Nat) (f : Slot → Slot) : EngineOnly t (t.modSlot i f) := rfl
theorem engineOnly_ready (t : Tile) (i : Nat) : EngineOnly t (t.ready i) := rfl
theorem engineOnly_setLanes (t : Tile) (v : Nat) (f : Nat → Lane → Lane) : EngineOnly t (t.setLanes v f) := rfl
theorem engineOnly_spent (t : Tile) (n : Nat) (l : List EngOp) : EngineOnly t { t.spent n with eng := l } := rfl
theorem engineOnly_empty (t : Tile) (i : Nat) : EngineOnly t (t.empty i) := by
  unfold Tile.empty
  dsimp only
  split <;> rfl

/-! ### Changes of one core's tile -/

/-- From `s` to `t` the engine of core `k` has worked: no other core's tile has changed. -/
structure EngineAt (k : Nat) (s t : State) : Prop where
  here : EngineOnly (s.tile k) (t.tile k)
  other : ∀ j, j ≠ k → t.tile j = s.tile j

theorem EngineAt.refl (k : Nat) (s : State) : EngineAt k s s := ⟨EngineOnly.refl _, fun _ _ => rfl⟩
theorem EngineAt.trans {k : Nat} {s t u : State} (h : EngineAt k s t) (h' : EngineAt k t u) : EngineAt k s u :=
  ⟨h.here.trans h'.here, fun j hj => (h'.other j hj).trans (h.other j hj)⟩
theorem EngineAt.of_tiles {k : Nat} {s t : State} (h : t.tiles = s.tiles) : EngineAt k s t := by
  have hj (j : Nat) : t.tile j = s.tile j := congrArg (keyGet Tile.idle · j) h
  exact ⟨by rw [hj]; exact EngineOnly.refl _, fun j _ => hj j⟩
theorem engineAt_modTile {k : Nat} (s : State) {f : Tile → Tile} (hf : ∀ t, EngineOnly t (f t)) : EngineAt k s (s.modTile k f) :=
  ⟨by rw [State.tile_modTile]; exact hf _, fun _ hj => State.tile_setTile_other s _ hj⟩
theorem EngineAt.foldl {k : Nat} {α : Type} {f : State → α → State} (hf : ∀ s a, EngineAt k s (f s a)) (l : List α) (s : State) :
    EngineAt k s (l.foldl f s) := by
  induction l generalizing s with
  | nil => exact EngineAt.refl k s
  | cons a l ih => exact (hf s a).trans (ih _)

@[simp] theorem State.emitRecord_tiles (s : State) (r : ErrReport) : (s.emitRecord r).tiles = s.tiles := by
  unfold State.emitRecord; dsimp only; split <;> rfl
@[simp] theorem State.record_tiles (s : State) (r : ErrReport) : (s.record r).tiles = s.tiles := by
  unfold State.record; dsimp only; split
  · simp
  · split <;> rfl
theorem engineAt_gateRefuses (s : State) (k : Nat) : EngineAt k s (s.gateRefuses k) := by
  refine (engineAt_modTile s (f := fun t => { t with bal := t.sbal, trips := t.trips + 1 }) fun _ => rfl).trans (.of_tiles ?_)
  unfold State.gateRefuses; rw [State.record_tiles]; rfl
theorem engineAt_payOwed (s : State) (k : Nat) (op : EngOp) (r : List EngOp) : EngineAt k s (s.payOwed k op r) := by
  unfold State.payOwed
  dsimp only
  split
  · split
    · exact engineAt_gateRefuses s k
    · exact EngineAt.refl k s
  · exact engineAt_modTile s fun _ => engineOnly_spent ..
theorem drainTo_tiles (s : State) (k acc off w : Nat) (rm : Rm) (sat : Bool) : (drainTo s k acc off w rm sat).tiles = s.tiles := by
  have hfold {α : Type} (f : State → α → State) (hf : ∀ s a, (f s a).tiles = s.tiles) (l : List α) (s : State) :
      (l.foldl f s).tiles = s.tiles := by
    induction l generalizing s with
    | nil => rfl
    | cons a l ih => rw [List.foldl_cons, ih, hf]
  unfold drainTo; dsimp only; split
  · exact State.writeKey_tiles ..
  · split
    · exact hfold _ (fun _ _ => (State.writeKey_tiles ..).trans (State.writeKey_tiles ..)) _ _
    · exact State.writeKey_tiles ..
theorem engineAt_drained (s : State) (k acc slot : Nat) (z : Bool) : EngineAt k s (drained s k acc slot z) :=
  engineAt_modTile s fun t => by dsimp only; split <;> rfl
/-- Retirement changes the engine's part of the core's tile. -/
theorem engineAt_retire (s : State) (k : Nat) (op : EngOp) : EngineAt k s (s.retire k op) := by
  unfold State.retire
  cases op with
  | drain => exact (EngineAt.of_tiles (drainTo_tiles ..)).trans (engineAt_drained ..)
  | drainq => exact (EngineAt.of_tiles (State.writeKey_tiles ..)).trans (engineAt_drained ..)
  | sread => exact (EngineAt.of_tiles (State.writeKey_tiles ..)).trans (engineAt_modTile _ fun t => engineOnly_ready t _)
  | mma => exact engineAt_modTile s fun t => ((engineOnly_modAcc t _ _).trans (engineOnly_empty ..)).trans (engineOnly_empty ..)
  | smma => exact engineAt_modTile s fun t => ((engineOnly_modAcc t _ _).trans (engineOnly_empty ..)).trans (engineOnly_empty ..)
  | smergeSlot => exact engineAt_modTile s fun t => (engineOnly_modAcc t _ _).trans (engineOnly_empty ..)
  | lspmm => exact engineAt_modTile s fun t => (engineOnly_modAcc t _ _).trans (engineOnly_empty ..)
  | bmmStep => exact engineAt_modTile s fun t => EngineOnly.foldl (fun u _ => engineOnly_modAcc u _ _) _ t
  | rowsum =>
    refine engineAt_modTile s fun t => ?_
    dsimp only
    split
    · exact engineOnly_modAcc ..
    · exact (engineOnly_modAcc t _ _).trans (engineOnly_empty ..)
  | expt => exact engineAt_modTile s fun t => by rw [exptTile_eq]; exact (engineOnly_modAcc t _ _).trans (engineOnly_setLanes ..)
  | smaxr => exact engineAt_modTile s fun t => by rw [smaxrTile_eq]; exact engineOnly_setLanes ..
  | rescale => exact engineAt_modTile s fun t => by rw [rescaleTile_eq]; exact (engineOnly_modAcc t _ _).trans (engineOnly_setLanes ..)
  | _ => exact engineAt_modTile s fun t => engineOnly_modAcc ..
theorem engineAt_engineStep (s : State) (k : Nat) : EngineAt k s (s.engineStep k) := by
  unfold State.engineStep
  split
  · exact EngineAt.refl k s
  · split
    · exact engineAt_payOwed ..
    · exact (engineAt_modTile s fun _ => engineOnly_spent ..).trans (engineAt_retire ..)
/-- What the engine of a core has done by the time it lacks work or tokens. -/
theorem engineAt_engineDrain (s : State) (k : Nat) : EngineAt k s (s.engineDrain k) :=
  EngineAt.foldl (fun s _ => engineAt_engineStep s k) _ s
/-- What the engine has done by the time its work is finished leaves the rest of the core's tile. -/
theorem engineDone_here (s : State) : EngineOnly s.here s.engineDone.here := by
  unfold State.here State.engineDone
  rw [engineDrain_cur]
  exact (engineAt_engineDrain s s.cur).here

/-! ### What a store changes of the core's tile -/

theorem noted_here (s : State) (key n : Nat) : ∃ u, (s.noted key n).here = { s.here with undo := u } := by
  unfold State.noted
  split
  · exact ⟨_, State.here_modTile ..⟩
  · exact ⟨_, rfl⟩
/-- `t` after stores and translations: another store buffer, other bytes kept for its generators, other TLBs. -/
def Tile.stored (t : Tile) (u : List (Nat × List Byte)) (st : List PStore) (i d : List TlbEntry) : Tile :=
  { t with undo := u, stores := st, itlb := i, dtlb := d }
/-- A store changes the core's store buffer, what it keeps for its generators, and its TLBs. -/
theorem Stores.here {s t : State} {a : Nat} {d : List Byte} {gen : Option Nat} {want : Bool} (h : Stores s a d gen want t) :
    t.cur = s.cur ∧ ∃ u st i dt, t.here = s.here.stored u st i dt := by
  rcases h with ⟨w, off, -, -, -, rfl⟩ | ⟨off, -, rfl⟩ | ⟨p, v, -, ht, -, -, -, rfl⟩
  · obtain ⟨u, hu⟩ := noted_here s (scratchAt s.cur off) d.length
    exact ⟨State.noted_cur .., u, _, _, _, hu⟩
  · exact ⟨rfl, _, _, _, _, rfl⟩
  · obtain ⟨u, hu⟩ := noted_here v p.key d.length
    obtain ⟨i, dt, hi⟩ := (tlbOnly_translateAt ht).here
    have hk : (v.noted p.key d.length).cur = s.cur := by rw [State.noted_cur, (tlbOnly_translateAt ht).cur]
    rw [hi] at hu
    rw [← hk, State.here_modTile, hu]
    exact ⟨rfl, u, _, i, dt, rfl⟩
theorem Loads.here {s t : State} {a n : Nat} {eng : Bool} {b : List Byte} {g : Bool} (h : Loads s a n eng t b g) :
    t.cur = s.cur ∧ ∃ i d, t.here = s.here.tlbs i d := ⟨h.tlbOnly.cur, h.tlbOnly.here⟩

/-! ### Control instructions -/

theorem metaC_simple (maj minor len : Nat) (sw : Bool) (reads : List (File × Nat)) (b : Bool) :
    ({ metaC maj minor len sw reads with diverges := b } : Meta).Simple := ⟨rfl, rfl, rfl, rfl, rfl, rfl, rfl⟩
theorem metaC_plain (maj minor len : Nat) (sw : Bool) (reads : List (File × Nat)) : (metaC maj minor len sw reads).Simple :=
  ⟨rfl, rfl, rfl, rfl, rfl, rfl, rfl⟩

theorem endRule_ok {s : State} (h : NotAtEnd s) : endRule s = .ok ⟨⟩ s := by
  unfold NotAtEnd at h
  unfold endRule
  simp only [op_bind, op_getT]
  cases hl : s.here.loops with
  | nil => rfl
  | cons l r => exact op_require (by simpa using fun hc => h l (by rw [hl]; rfl) hc.symm) _ s
@[simp] theorem branchTarget_ok (off : Int) (s : State) : branchTarget off s = .ok (capAdd s.here.pc off) s := rfl
@[simp] theorem jumpTo_ok (c : Reg) (s : State) : jumpTo c s = .ok (.jump c) s := rfl
theorem checkTarget_ok {c : Reg} (h : Target c) (reg src : Nat) (s : State) : checkTarget reg src c s = .ok ⟨⟩ s := by
  obtain ⟨htag, hopen, hexec, heven⟩ := h
  simp only [checkTarget, op_bind, op_require htag, op_require (decide_eq_true hopen), op_require hexec,
    op_require (decide_eq_true heven)]

/-- A control instruction that writes no register: its body leads to `v`, does `f` to the core there and transfers control. -/
theorem Meta.Simple.jumps {m : Meta} (h : m.Simple) {body : Op Flow} {s v t : State} {f : Tile → Tile} {c : Reg}
    (hw : m.writes = []) (hr : Ready s m.reads) (hb : body s = .ok (.jump c) t) (hu : Upd v t f)
    (hf : (f v.here).pend = v.here.pend) : Jumps (issue m body s) v c f := by
  have hp : m.Passes s := Ready.passes (by rw [hw, List.append_nil]; exact hr) h.kinds h.priv h.mustS h.clash
  have hn (u : Tile) : m.NoAppend u := fun r hr => by rw [hw] at hr; cases hr
  have hnamed : m.named = [] := by unfold Meta.named; rw [hw]; split <;> rfl
  refine ⟨_, issue_ok h.sync h.engine h.drain hp hb, effect_finish hu .., ?_, ?_⟩
  · rw [State.here_modTile, finish_jump_pc]
  · rw [State.here_modTile, finish_jump_pend _ _ _ (hn _), hu.here, hf, hnamed, List.map_nil, List.append_nil]
/-- An instruction that does nothing but go on. -/
theorem Meta.Simple.goesOn {m : Meta} (h : m.Simple) {body : Op Flow} {s : State} (hr : Ready s (m.reads ++ m.writes))
    (hb : body s = .ok .seq s) : Through (issue m body s) s m.len m.named (fun t => t) :=
  h.through hr hb (Upd.refl s) (KeepsFlow.refl _)

section Branches
variable {s : State} {len : Nat} {sw : Bool}

theorem branchOp_jumps {k : Fin 8} {n : Bool} {off : Int} (he : NotAtEnd s) (hr : Ready s [pr k])
    (h : (s.here.rp k).getLsbD 0 ≠ n) : Jumps (branchOp len k n off sw s) s (capAdd s.here.pc (2 * off)) (fun t => t) := by
  refine (metaC_simple 0x09 0 len sw [pr k] true).jumps rfl hr (t := s) ?_ (Upd.refl s) rfl
  simp only [op_bind, endRule_ok he, readP_ok]
  rw [if_pos (by simpa using h)]
  rfl
theorem branchOp_falls {k : Fin 8} {n : Bool} {off : Int} (he : NotAtEnd s) (hr : Ready s [pr k])
    (h : (s.here.rp k).getLsbD 0 = n) : Through (branchOp len k n off sw s) s len [] (fun t => t) := by
  refine (metaC_simple 0x09 0 len sw [pr k] true).goesOn hr ?_
  simp only [op_bind, endRule_ok he, readP_ok]
  rw [if_neg (by simpa using h)]
  rfl
theorem jumpReg_jumps {a : Fin 64} (he : NotAtEnd s) (hr : Ready s [wr a]) (ht : Target (s.here.getW a)) :
    Jumps (jumpReg len a sw s) s (s.here.getW a) (fun t => t) := by
  refine (metaC_simple 0x0C 0 len sw [wr a] true).jumps rfl hr (t := s) ?_ (Upd.refl s) rfl
  simp only [op_bind, endRule_ok he, readW_ready (hr.unbound (n := a) (by simp [wr])), checkTarget_ok ht, jumpTo_ok]
theorem j_jumps {off : BitVec 23} (he : NotAtEnd s) :
    Jumps (exec (.j off sw) s) s (capAdd s.here.pc (2 * off.toInt)) (fun t => t) := by
  refine (metaC_plain 0x0A 0 4 sw []).jumps rfl nofun (t := s) ?_ (Upd.refl s) rfl
  simp only [op_bind, endRule_ok he, branchTarget_ok, jumpTo_ok]
theorem nopOp_completes : Through (nopOp len sw s) s len [] (fun t => t) := (metaI_simple 0x0E 0 len sw [] []).goesOn nofun rfl

end Branches

@[simp] theorem Tile.rp_zero (t : Tile) : t.rp 0 = BitVec.allOnes 64 := rfl

/-- Settles O6: a branch takes the side that its predicate names, a jump its target, NOP neither. -/
theorem branchesAndJumps : Obligations.BranchesAndJumps := by
  unfold Obligations.BranchesAndJumps
  refine fun s sw => ⟨fun he => ⟨fun k n off hr => ⟨fun h => branchOp_jumps he hr h, fun h => branchOp_falls he hr h⟩,
    fun off hr => branchOp_jumps he hr ?_, fun off => j_jumps he, fun a hr ht => jumpReg_jumps he hr ht,
    fun a hr ht => jumpReg_jumps he hr ht⟩, nopOp_completes, nopOp_completes⟩
  simp

end Sys2Proof.Machine
end

section
/-! Calls, returns and hardware loops (R66, R67, R222, R224 to R226). -/

namespace Sys2Proof.Machine

/-- A change of the core's tile may be said by what it makes of the tile that is there. -/
theorem Upd.of_modTile {s : State} {f g : Tile → Tile} (h : g s.here = f s.here) : Upd s (s.modTile s.cur g) f :=
  .inr (congrArg (s.setTile s.cur) h)

/-! ### The return store (R67) -/

@[simp] theorem engineFirst_ok (s : State) : engineFirst s = .ok ⟨⟩ s.engineDone := rfl
@[simp] theorem State.engineDone_cur (s : State) : s.engineDone.cur = s.cur := engineDrain_cur ..

/-- A push of the return address leads to the state that `Pushes` names, and leaves the pc. -/
theorem pushReturn_ok {s t : State} {len : Nat} {f : Tile → Tile} (h : Pushes s t (capAdd s.here.pc len) f) :
    ∃ u, pushReturn len s = .ok ⟨⟩ u ∧ Upd t u f ∧ u.here.pc = s.here.pc ∧ (f t.here).pend = t.here.pend := by
  unfold pushReturn
  simp only [op_bind, op_getT]
  rcases h with ⟨hroom, rfl, rfl⟩ | ⟨o, rest, hrets, hfull, hgrants, hlocal, hstores, rfl⟩
  · cases hrets : t.here.rets with
    | nil => exact ⟨_, rfl, .of_modTile (by rw [hrets]; rfl), by rw [State.here_modTile], rfl⟩
    | cons o rest =>
      rw [hrets] at hroom
      dsimp only
      rw [if_pos hroom]
      exact ⟨_, rfl, .inr rfl, by rw [State.here_modTile], rfl⟩
  · have hno : ¬ s.here.rets.length < 16 := not_lt.2 hfull
    have htag : (!o.tag || o.has Perm.global || s.here.rspill.has Perm.storeLocal) = true := by
      cases ho : o.tag with
      | false => rfl
      | true => simpa [ho] using hlocal ho
    obtain ⟨hcur, u, st, i, d, ht⟩ := hstores.here
    have heng := engineDone_here s
    rw [heng] at ht
    have hstore := hstores.store 0 2 .store false nofun 0
    rw [Option.isSome_none] at hstore
    rw [hrets] at hno ⊢
    refine ⟨t.modTile t.cur fun u => { u with rets := rest ++ [capAdd s.here.pc len], rscnt := (u.rscnt + 1) % 2 ^ 32 }, ?_,
      .of_modTile (by rw [ht]; rfl), by rw [State.here_modTile, ht]; rfl, rfl⟩
    simp only [if_neg hno, op_bind, checkCap_grants hgrants, op_require htag, engineFirst_ok, hstore, op_modT]
/-- A pop gives the entry that `Pops` names. -/
theorem popReturn_ok {s t : State} {c : Reg} {f : Tile → Tile} (h : Pops s t c f) :
    (!s.here.rets.isEmpty || decide (s.here.rscnt ≠ 0)) = true ∧
    ∃ src u, popReturn s = .ok (c, src) u ∧ Upd t u f ∧ (f t.here).pend = t.here.pend := by
  unfold popReturn
  simp only [op_bind, op_getT]
  rcases h with ⟨hlast, rfl, rfl⟩ | ⟨hrets, hcnt, hgrants, ⟨b, g, hloads, rfl⟩, rfl⟩
  · refine ⟨?_, 0, _, ?_, .inr rfl, rfl⟩
    · cases hr : t.here.rets with
      | nil => rw [hr] at hlast; cases hlast
      | cons => rfl
    · rw [hlast]
      rfl
  · obtain ⟨hcur, i, d, ht⟩ := hloads.here
    have heng := engineDone_here s
    rw [heng] at ht
    refine ⟨by simp [hcnt], 2, t.modTile t.cur (fun u => { u with rscnt := u.rscnt - 1 }), ?_, .of_modTile (by rw [ht]; rfl), rfl⟩
    rw [hrets]
    simp only [List.getLast?_nil, op_bind, checkCap_grants hgrants, engineFirst_ok, hloads.load 0 2 .load nofun 0, op_modT, op_pure]

section Calls
variable {s t : State} {len : Nat} {sw : Bool} {f : Tile → Tile} (he : NotAtEnd s)
include he

theorem call_jumps {off : BitVec 23} (h : Pushes s t (capAdd s.here.pc 4) f) :
    Jumps (exec (.call off sw) s) t (capAdd s.here.pc (2 * off.toInt)) f := by
  obtain ⟨u, hpush, hu, hpc, hpend⟩ := pushReturn_ok (len := 4) h
  refine (metaC_plain 0x0B 0 4 sw []).jumps rfl nofun (t := u) ?_ hu hpend
  simp only [op_bind, endRule_ok he, hpush, branchTarget_ok, jumpTo_ok, hpc]
theorem callReg_jumps {a : Fin 64} (h : Pushes s t (capAdd s.here.pc len) f) (hr : Ready s [wr a]) (ht : Target (s.here.getW a)) :
    Jumps (callReg len a sw s) t (s.here.getW a) f := by
  obtain ⟨u, hpush, hu, -, hpend⟩ := pushReturn_ok h
  refine (metaC_simple 0x0C 1 len sw [wr a] true).jumps rfl hr (t := u) ?_ hu hpend
  simp only [op_bind, endRule_ok he, readW_ready (hr.unbound (n := a) (by simp [wr])), checkTarget_ok ht, hpush, jumpTo_ok]
theorem returnOp_jumps {c : Reg} (h : Pops s t c f) (ht : Target c) : Jumps (returnOp len sw s) t c f := by
  obtain ⟨hsome, src, u, hpop, hu, hpend⟩ := popReturn_ok h
  refine (metaC_simple 0x0C 2 len sw [] true).jumps rfl nofun (t := u) ?_ hu hpend
  simp only [op_bind, op_getT, op_require hsome, endRule_ok he, hpop, checkTarget_ok ht, jumpTo_ok]

end Calls

/-- Settles O7: a call pushes and jumps, RET jumps where its pop leads. -/
theorem callsAndReturns : Obligations.CallsAndReturns := by
  unfold Obligations.CallsAndReturns
  exact fun s t sw f he => ⟨fun h => ⟨fun off => call_jumps he h, fun a hr ht => callReg_jumps he h hr ht⟩,
    fun h a hr ht => callReg_jumps he h hr ht, fun c h ht => ⟨returnOp_jumps he h ht, returnOp_jumps he h ht⟩⟩

/-! ### Loops -/

/-- Code bytes in one page can be fetched (R191, R366 step 1). -/
theorem fetchBytes_ok {s t : State} {a n : Nat} {p : Phys} (hg : Grants s.here.pc a n Perm.exec 1) (hlocal : a + n ≤ Config.localBase)
    (hpage : a % 65536 + n ≤ 65536) (ht : s.translateAt s.cur true a needX = .ok (p, t)) (hr : Readable t p n) :
    fetchBytes a n s = .ok (t.readAt p.key n) t := by
  obtain ⟨hpend, howned, heng, hmend, hgood⟩ := hr
  have hmin : min n (65536 - a % 65536) = n := by omega
  have hconsume := consume_readable .fetch a (by simpa using heng) hmend hgood
  unfold fetchBytes fetchable
  simp [checkCap_grants hg, op_require (decide_eq_true hlocal), hmin, translate_ok ht, hpend, howned, hconsume]
/-- The length that a first parcel gives. -/
theorem parcelLength_ok {s t : State} {a : Nat} {b : List Byte} (h : Fetches s a t b) :
    parcelLength a s = .ok (if leNat b % 4 = 3 then 4 else 2) t := by
  obtain ⟨hg, hlocal, hpage, p, ht, hr, rfl⟩ := h
  simp [parcelLength, fetchBytes_ok hg hlocal hpage ht hr]
theorem Fetches.tlbOnly {s t : State} {a : Nat} {b : List Byte} (h : Fetches s a t b) : TlbOnly s t := by
  obtain ⟨-, -, -, p, ht, -, -⟩ := h
  exact tlbOnly_translateAt ht

theorem finish_seq_loops (k : Nat) (m : Meta) (r : Bool) (t : Tile) :
    (finish k m .seq r t).loops = (turnBack t.pc.addr t.loops).1 := by
  unfold finish; dsimp only; split <;> [rw [runEnd_eq]; rfl]
theorem finish_jump_loops (k : Nat) (m : Meta) (c : Reg) (r : Bool) (t : Tile) : (finish k m (.jump c) r t).loops = t.loops := by
  unfold finish; dsimp only; split <;> [rw [runEnd_eq]; rfl]
/-- A turn-back ends its run. -/
theorem finish_seq_runPos_of_back (k : Nat) (m : Meta) (r : Bool) {t : Tile} (h : (turnBack t.pc.addr t.loops).2.isSome = true) :
    (finish k m .seq r t).runPos = 0 := by
  unfold finish
  dsimp only
  rw [h, Bool.or_true, Bool.true_or, if_pos rfl, runEnd_eq]
  rfl
theorem turnBack_other {a : Nat} {l : LoopLevel} {r : List LoopLevel} (h : l.stop ≠ a) : turnBack a (l :: r) = (l :: r, none) :=
  if_pos h
theorem turnBack_again {a : Nat} {l : LoopLevel} {r : List LoopLevel} (h : l.stop = a) (hc : 1 < l.count) :
    turnBack a (l :: r) = ({ l with count := l.count - 1 } :: r, some l.start) :=
  (if_neg (not_not.2 h)).trans (if_pos hc)
theorem turnBack_through {a : Nat} {l : LoopLevel} {r : List LoopLevel} (h : l.stop = a) (hc : l.count ≤ 1) :
    turnBack a (l :: r) = turnBack a r :=
  (if_neg (not_not.2 h)).trans (if_neg (not_lt.2 hc))
theorem Tile.after_of_turnBack_none {t : Tile} {len : Nat} (h : (turnBack t.pc.addr t.loops).2 = none) :
    t.after len = capAdd t.pc len := by unfold Tile.after; rw [h]

theorem capAdd_addr (c : Reg) (n : Nat) : (capAdd c n).addr = (c.addr + n) % 2 ^ 64 := by
  simp only [capAdd, capMove, Reg.addr, BitVec.toNat_ofNat]
  omega

section Loops
variable {s t : State} {sw : Bool} {b : List Byte} (he : NotAtEnd s)
include he

theorem loop_pushes {a : Fin 64} {imm : BitVec 11} (hr : Ready s [wr a]) (hroom : s.here.loops.length < 4) (himm : 2 ≤ imm.toNat)
    (hcount : (s.here.getX a).toNat % 2 ^ 32 ≠ 0) :
    ∃ u, exec (.loop a imm sw) s = .next u ∧ OnlyCore s u ∧ u.here.pc.addr = (s.here.pc.addr + 4) % 2 ^ 64 ∧
      u.here.loops = ⟨s.here.pc.addr + 4, s.here.pc.addr + 2 * imm.toNat, (s.here.getX a).toNat % 2 ^ 32⟩ :: s.here.loops ∧
      u.here = s.here.withFlow u.here := by
  let level : LoopLevel := ⟨s.here.pc.addr + 4, s.here.pc.addr + 2 * imm.toNat, (s.here.getX a).toNat % 2 ^ 32⟩
  let push : Tile → Tile := fun u => { u with loops := level :: u.loops }
  have hpush : Upd s (s.modTile s.cur push) push := .inr rfl
  have hback : turnBack s.here.pc.addr (level :: s.here.loops) = (level :: s.here.loops, none) :=
    turnBack_other (show s.here.pc.addr + 2 * imm.toNat ≠ s.here.pc.addr by omega)
  have hm := metaI_simple 0x0D 0 4 sw [wr a] []
  obtain ⟨hcur, honly, hhere⟩ := effect_finish hpush (metaI 0x0D 0 4 sw [wr a] []) .seq s.here.rep.isSome
  refine ⟨_, issue_ok (t := s.modTile s.cur push) hm.sync hm.engine hm.drain
    (Ready.passes hr hm.kinds hm.priv hm.mustS hm.clash) ?_, honly, ?_, ?_, hhere⟩
  · simp only [op_bind, op_getT, op_require (decide_eq_true hroom), endRule_ok he,
      readN_ready (hr.unbound (n := a) (by simp [wr])), if_neg hcount, op_modT, op_seqFlow]
    rfl
  · rw [State.here_modTile, finish_seq_pc, State.here_modTile, Tile.after_of_turnBack_none (congrArg Prod.snd hback)]
    exact capAdd_addr ..
  · rw [State.here_modTile, finish_seq_loops, State.here_modTile]
    exact congrArg Prod.fst hback

theorem loop_skips {a : Fin 64} {imm : BitVec 11} (hr : Ready s [wr a]) (hroom : s.here.loops.length < 4)
    (hcount : (s.here.getX a).toNat % 2 ^ 32 = 0) (hf : Fetches s (s.here.pc.addr + 2 * imm.toNat) t b) :
    Jumps (exec (.loop a imm sw) s) t
      (capAdd s.here.pc ((2 * imm.toNat + (if leNat b % 4 = 3 then 4 else 2) : Nat) : Int)) (fun x => x) := by
  obtain ⟨i, d, ht⟩ := hf.tlbOnly.here
  have hpc : t.here.pc = s.here.pc := by rw [ht]; rfl
  refine (metaI_simple 0x0D 0 4 sw [wr a] []).jumps rfl hr (t := t) ?_ (Upd.refl t) rfl
  simp only [op_bind, op_getT, op_require (decide_eq_true hroom), endRule_ok he, readN_ready (hr.unbound (n := a) (by simp [wr])),
    if_pos hcount, parcelLength_ok hf, branchTarget_ok, jumpTo_ok, hpc]

theorem lbreak_pops {l : LoopLevel} {r : List LoopLevel} (hl : s.here.loops = l :: r) (hf : Fetches s l.stop t b) :
    ∃ u, exec (.lbreak sw) s = .next u ∧ OnlyCore t u ∧ u.here.loops = r ∧
      u.here.pc = capAdd s.here.pc ((l.stop : Int) + ((if leNat b % 4 = 3 then 4 else 2 : Nat) : Int) - s.here.pc.addr) ∧
      u.here = t.here.withFlow u.here := by
  obtain ⟨i, d, ht⟩ := hf.tlbOnly.here
  have hpc : t.here.pc = s.here.pc := by rw [ht]; rfl
  have hm := metaC_plain 0x0E 3 4 sw []
  let c := capAdd s.here.pc ((l.stop : Int) + ((if leNat b % 4 = 3 then 4 else 2 : Nat) : Int) - s.here.pc.addr)
  have hpop : Upd t (t.modTile t.cur fun u => { u with loops := r }) (fun u => { u with loops := r }) := .inr rfl
  obtain ⟨hcur, honly, hhere⟩ := effect_finish hpop (metaC 0x0E 3 4 sw []) (.jump c) s.here.rep.isSome
  refine ⟨_, issue_ok (t := t.modTile t.cur fun u => { u with loops := r }) (f := .jump c) hm.sync hm.engine hm.drain
    (Ready.passes nofun hm.kinds hm.priv hm.mustS hm.clash) ?_, honly, ?_, ?_, hhere⟩
  · simp only [op_bind, op_getT, hl, endRule_ok he, parcelLength_ok hf, op_modT, branchTarget_ok, jumpTo_ok, State.here_modTile, hpc]
    rfl
  · rw [State.here_modTile, finish_jump_loops, State.here_modTile]
  · rw [State.here_modTile, finish_jump_pc]

end Loops

theorem loopInstructions : LoopInstructions := fun _ _ _ _ he =>
  ⟨fun _ _ hr hroom himm => ⟨loop_pushes he hr hroom himm, loop_skips he hr hroom⟩, fun _ _ hl hf => lbreak_pops he hl hf⟩

/-- NOP leaves what its finish leaves. -/
theorem nop_next (s : State) (sw : Bool) :
    exec (.nop sw) s = .next (s.modTile s.cur (finish s.cur (metaI 0x0E 0 4 sw [] []) .seq s.here.rep.isSome)) :=
  have hm := metaI_simple 0x0E 0 4 sw [] []
  issue_ok hm.sync hm.engine hm.drain (Ready.passes nofun hm.kinds hm.priv hm.mustS hm.clash) rfl

theorem loopTurnBack : LoopTurnBack := by
  intro s l r sw hl
  refine ⟨_, nop_next s sw, fun hstop => ?_, fun hstop hc => ?_, fun hstop hc => ⟨_, nop_next _ sw, ?_⟩⟩
  · have hback : turnBack s.here.pc.addr s.here.loops = (l :: r, none) := by rw [hl]; exact turnBack_other hstop
    rw [State.here_modTile, finish_seq_loops, finish_seq_pc, Tile.after_of_turnBack_none (congrArg Prod.snd hback), hback]
    exact ⟨rfl, rfl⟩
  · have hback : turnBack s.here.pc.addr s.here.loops = ({ l with count := l.count - 1 } :: r, some l.start) := by
      rw [hl]; exact turnBack_again hstop hc
    rw [State.here_modTile, finish_seq_loops, finish_seq_pc, Tile.after, hback]
    exact ⟨rfl, rfl, finish_seq_runPos_of_back _ _ _ (by rw [hback]; rfl)⟩
  · have hback : turnBack s.here.pc.addr s.here.loops = turnBack s.here.pc.addr r := by rw [hl]; exact turnBack_through hstop hc
    have hu : (s.setTile s.cur { s.here with loops := r }).here = { s.here with loops := r } := State.tile_setTile ..
    have hu' := State.here_modTile (s.setTile s.cur { s.here with loops := r })
      (finish s.cur (metaI 0x0E 0 4 sw [] []) .seq (s.setTile s.cur { s.here with loops := r }).here.rep.isSome)
    rw [State.here_modTile]
    refine ⟨Eq.trans ?_ (congrArg Tile.loops hu'.symm), Eq.trans ?_ (congrArg Tile.pc hu'.symm)⟩
    · rw [finish_seq_loops, finish_seq_loops, hu, hback]
    · rw [finish_seq_pc, finish_seq_pc, hu, Tile.after, hback]
      rfl

/-- Settles O8: a level is pushed, popped, skipped and turned back as R66 and R224 to R226 say. -/
theorem loopResults : Obligations.LoopResults := ⟨loopInstructions, loopTurnBack⟩

end Sys2Proof.Machine
end

section
/-! Loads and stores of format M, and their compact forms (R198, R199, R227, R228). -/

namespace Sys2Proof.Machine

/-! ### What an access leaves of the registers' bindings -/

theorem Tile.bound_congr {t u : Tile} (h : t.ag = u.ag) (n : Nat) : t.bound n = u.bound n := by unfold Tile.bound; rw [h]
theorem Meta.NoAppend.congr {m : Meta} {t u : Tile} (h : m.NoAppend u) (hag : t.ag = u.ag) : m.NoAppend t := by
  intro r hr
  have := h r hr
  unfold Tile.appends at this ⊢
  rwa [Tile.bound_congr hag]
theorem Loads.ag {s t : State} {a n : Nat} {eng : Bool} {b : List Byte} {g : Bool} (h : Loads s a n eng t b g) :
    t.here.ag = s.here.ag := by
  obtain ⟨-, i, d, ht⟩ := h.here
  rw [ht]; rfl
theorem Stores.ag {s t : State} {a : Nat} {d : List Byte} {gen : Option Nat} {want : Bool} (h : Stores s a d gen want t) :
    t.here.ag = s.here.ag := by
  obtain ⟨-, u, st, i, dt, ht⟩ := h.here
  rw [ht]; rfl

@[simp] theorem Tile.bound_based (t : Tile) (m : Mem) (e : Ea) (n : Nat) : (t.based m e).bound n = t.bound n := by
  unfold Tile.based
  split
  · rfl
  · exact Tile.bound_putW ..
theorem KeepsFlow.based (m : Mem) (e : Ea) (t : Tile) : KeepsFlow (·.based m e) t := by
  unfold Tile.based
  split
  · exact KeepsFlow.refl t
  · exact KeepsFlow.putW ..

/-- The end of a load: the base update, then the value in its register. -/
theorem baseThenWrite_ok {t : State} {m : Mem} {d : Nat} (e : Ea) (v : Reg) (hb : t.here.bound (Mem.rb m) = none)
    (hd : t.here.bound d = none) : ∃ u, (do updateBase m e; writeW d v; seqFlow : Op Flow) t = .ok .seq u ∧
      Upd t u (fun x => (x.based m e).putW d v) := by
  obtain ⟨u, hu, hupd⟩ := updateBase_ready e hb
  obtain ⟨w, hw, hwupd⟩ := writeW_ready v (show u.here.bound d = none by rw [hupd.here, Tile.bound_based, hd])
  exact ⟨w, by simp [hu, hw], hupd.trans hwupd⟩
/-- The end of a store: the base update. -/
theorem baseThenSeq_ok {t : State} {m : Mem} (e : Ea) (hb : t.here.bound (Mem.rb m) = none) :
    ∃ u, (do updateBase m e; seqFlow : Op Flow) t = .ok .seq u ∧ Upd t u (fun x => x.based m e) := by
  obtain ⟨u, hu, hupd⟩ := updateBase_ready e hb
  exact ⟨u, by simp [hu], hupd⟩

theorem Mem.rb_mem_reads (m : Mem) : wr (Mem.rb m) ∈ Mem.reads m := by cases m <;> simp [Mem.reads, Mem.rb]
theorem Ready.base {s : State} {m : Mem} {rs : List (File × Nat)} (h : Ready s rs) (hm : ∀ r ∈ Mem.reads m, r ∈ rs) :
    s.here.bound (Mem.rb m) = none := h.unbound (n := Mem.rb m) (hm _ (Mem.rb_mem_reads m))

/-! ### Issue of a load or a store -/

section Issue
variable {maj minor len : Nat} {sw : Bool} {r : Fin 64} {m : Mem} {body : Op Flow} {o s t u : State} {f : Tile → Tile}

/-- A load of format M is through once the engine's work is done, its registers are ready and its body does `f`. -/
theorem metaM_load_through (hs : s = o.engineDone) (hr : Ready s (Mem.reads m ++ [wr r]))
    (hbase : ¬ (Mem.updates m = true ∧ r = Mem.rb m)) (hb : body s = .ok .seq u) (hu : Upd t u f) (hf : KeepsFlow f t.here)
    (hag : t.here.ag = s.here.ag) : Through (issue (metaM maj minor len sw true r m) body o) t len (results [wr r]) f := by
  have hclash : (metaM maj minor len sw true r m).clash = none := by
    refine if_neg ?_
    simp only [Bool.true_and, Bool.and_eq_true, decide_eq_true_iff]
    exact hbase
  exact issue_through' ((settle_sync rfl rfl o).trans hs.symm) (unsettled_none rfl rfl s) (Ready.passes hr rfl rfl rfl hclash)
    hb hu hf ((Ready.noAppend (m := metaM maj minor len sw true r m) hr).congr hag)
/-- So is a store. -/
theorem metaM_store_through (hs : s = o.engineDone) (hr : Ready s (wr r :: Mem.reads m)) (hb : body s = .ok .seq u)
    (hu : Upd t u f) (hf : KeepsFlow f t.here) : Through (issue (metaM maj minor len sw false r m) body o) t len [] f :=
  issue_through' ((settle_sync rfl rfl o).trans hs.symm) (unsettled_none rfl rfl s)
    (Ready.passes (by simpa [metaM] using hr) rfl rfl rfl rfl) hb hu hf nofun

end Issue

/-! ### Loads (R227, R228) -/

section Loads
variable {maj minor len : Nat} {sw : Bool} {d : Fin 64} {m : Mem} {o s t : State} {b : List Byte} {g : Bool}
  (hs : s = o.engineDone) (hr : Ready s (Mem.reads m ++ [wr d])) (hbase : ¬ (Mem.updates m = true ∧ d = Mem.rb m))
include hs hr hbase

theorem loadOp_completes {lg : Nat} {signed : Bool}
    (hg : Grants (s.here.ea (2 ^ lg) lg m).cap (s.here.ea (2 ^ lg) lg m).addr (2 ^ lg) Perm.load (2 ^ lg))
    (hl : Loads s (s.here.ea (2 ^ lg) lg m).addr (2 ^ lg) false t b g) :
    Through (loadOp (metaM maj minor len sw true d m) d lg signed m o) t len (results [wr d])
      (fun u => (u.based m (s.here.ea (2 ^ lg) lg m)).putX d
        (if signed then wordOf (sext (leNat b) (8 * 2 ^ lg)) else BitVec.ofNat 64 (leNat b))) := by
  obtain ⟨u, hu, hupd⟩ := baseThenWrite_ok (t := t) (m := m) (d := d) (s.here.ea (2 ^ lg) lg m)
    (Reg.plain (if signed then wordOf (sext (leNat b) (8 * 2 ^ lg)) else BitVec.ofNat 64 (leNat b)))
    ((Tile.bound_congr hl.ag _).trans (hr.base fun r hr => List.mem_append_left _ hr))
    ((Tile.bound_congr hl.ag _).trans (hr.unbound (by simp [wr])))
  refine metaM_load_through hs hr hbase ?_ hupd ((KeepsFlow.based ..).comp (KeepsFlow.putX ..)) hl.ag
  rw [← hu]
  simp only [load, op_bind, ea_ready _ _ (hr.mono fun r hr => List.mem_append_left _ hr), checkCap_grants hg,
    hl.load (Mem.rb m) 0 .load nofun 0]
  rfl

theorem loadCapOp_completes (hg : Grants (s.here.ea 16 4 m).cap (s.here.ea 16 4 m).addr 16 Perm.load 16)
    (hl : Loads s (s.here.ea 16 4 m).addr 16 false t b g) :
    Through (loadCapOp (metaM maj minor len sw true d m) d m o) t len (results [wr d])
      (fun u => (u.based m (s.here.ea 16 4 m)).putW d (Reg.ofBytes (g && (s.here.ea 16 4 m).cap.has Perm.loadCap) b)) := by
  obtain ⟨u, hu, hupd⟩ := baseThenWrite_ok (t := t) (m := m) (d := d) (s.here.ea 16 4 m)
    (Reg.ofBytes (g && (s.here.ea 16 4 m).cap.has Perm.loadCap) b)
    ((Tile.bound_congr hl.ag _).trans (hr.base fun r hr => List.mem_append_left _ hr))
    ((Tile.bound_congr hl.ag _).trans (hr.unbound (by simp [wr])))
  refine metaM_load_through hs hr hbase ?_ hupd ((KeepsFlow.based ..).comp (KeepsFlow.putW ..)) hl.ag
  rw [← hu]
  simp only [load, op_bind, ea_ready _ _ (hr.mono fun r hr => List.mem_append_left _ hr), checkCap_grants hg,
    hl.load (Mem.rb m) 0 .load nofun 0]

end Loads

/-- Reading a field as two's complement is sign extension. -/
theorem wordOf_sext {n : Nat} (hn : 0 < n) (x : Nat) : wordOf (sext x n) = (BitVec.ofNat n x).signExtend 64 := by
  have hpow : 2 ^ n = 2 * 2 ^ (n - 1) := by rw [← Nat.pow_succ', Nat.succ_eq_add_one, Nat.sub_add_cancel hn]
  have htoInt : (BitVec.ofNat n x).toInt = sext x n := by
    rw [BitVec.toInt_eq_toNat_cond, BitVec.toNat_ofNat, sext]
    refine if_congr ?_ rfl rfl
    omega
  rw [BitVec.signExtend, htoInt]
  rfl

/-- Settles O9: each load is the shared one at its size, and its value the bytes extended. -/
theorem loadResults : Obligations.LoadResults := by
  unfold Obligations.LoadResults
  intro o s t d m sw b g hs hr hbase
  refine ⟨fun z hg hl => loadOp_completes hs hr hbase hg hl, fun hg hl => ?_, fun hg hl => ?_, fun hg hl => ?_,
    fun hg hl => loadCapOp_completes hs hr hbase hg hl⟩
  · rw [← wordOf_sext (by decide)]
    exact loadOp_completes (lg := 0) hs hr hbase hg hl
  · rw [← wordOf_sext (by decide)]
    exact loadOp_completes (lg := 1) hs hr hbase hg hl
  · rw [← wordOf_sext (by decide)]
    exact loadOp_completes (lg := 2) hs hr hbase hg hl

/-! ### Stores (R227, R228) -/

@[simp] theorem leBytes_length (n x : Nat) : (leBytes n x).length = n := by
  induction n generalizing x with
  | zero => rfl
  | succ n ih => rw [leBytes, List.length_cons, ih]
@[simp] theorem Reg.bytes_length (c : Reg) : c.bytes.length = 16 := by
  rw [Reg.bytes, List.length_append, leBytes_length, leBytes_length]

section Stores
variable {maj minor len : Nat} {sw : Bool} {r : Fin 64} {m : Mem} {o s t : State}
  (hs : s = o.engineDone) (hr : Ready s (wr r :: Mem.reads m))
include hs hr

theorem storeOp_completes {lg : Nat}
    (hg : Grants (s.here.ea (2 ^ lg) lg m).cap (s.here.ea (2 ^ lg) lg m).addr (2 ^ lg) Perm.store (2 ^ lg))
    (hst : Stores s (s.here.ea (2 ^ lg) lg m).addr (leBytes (2 ^ lg) (s.here.getX r).toNat) none false t) :
    Through (storeOp (metaM maj minor len sw false r m) r lg m o) t len [] (fun u => u.based m (s.here.ea (2 ^ lg) lg m)) := by
  obtain ⟨u, hu, hupd⟩ := baseThenSeq_ok (t := t) (m := m) (s.here.ea (2 ^ lg) lg m)
    ((Tile.bound_congr hst.ag _).trans (hr.base fun r hr => List.mem_cons_of_mem _ hr))
  refine metaM_store_through hs hr ?_ hupd (KeepsFlow.based ..)
  have hstore := hst.store (Mem.rb m) 0 .store false nofun 0
  rw [Option.isSome_none] at hstore
  rw [← hu]
  simp only [store, op_bind, readN_ready (hr.unbound (n := r) (by simp [wr])), leBytes_length,
    ea_ready _ _ (hr.mono fun r hr => List.mem_cons_of_mem _ hr), checkCap_grants hg, hstore]

theorem storeCapOp_completes (hg : Grants (s.here.ea 16 4 m).cap (s.here.ea 16 4 m).addr 16 Perm.store 16)
    (htag : (s.here.getW r).tag = true → (s.here.ea 16 4 m).cap.has Perm.storeCap = true ∧
      ((s.here.getW r).has Perm.global = true ∨ (s.here.ea 16 4 m).cap.has Perm.storeLocal = true))
    (hst : Stores s (s.here.ea 16 4 m).addr (s.here.getW r).bytes none (s.here.getW r).tag t) :
    Through (storeCapOp (metaM maj minor len sw false r m) r m o) t len [] (fun u => u.based m (s.here.ea 16 4 m)) := by
  obtain ⟨u, hu, hupd⟩ := baseThenSeq_ok (t := t) (m := m) (s.here.ea 16 4 m)
    ((Tile.bound_congr hst.ag _).trans (hr.base fun r hr => List.mem_cons_of_mem _ hr))
  refine metaM_store_through hs hr ?_ hupd (KeepsFlow.based ..)
  have hmay : (!(s.here.getW r).tag || mayStoreCap (s.here.ea 16 4 m).cap (s.here.getW r)) = true := by
    cases ht : (s.here.getW r).tag with
    | false => rfl
    | true => simpa [mayStoreCap] using htag ht
  have hstore := hst.store (Mem.rb m) 0 .store false nofun 0
  rw [Option.isSome_none] at hstore
  rw [← hu]
  simp only [op_bind, readW_ready (hr.unbound (n := r) (by simp [wr])),
    ea_ready _ _ (hr.mono fun r hr => List.mem_cons_of_mem _ hr), checkCap_grants hg, op_require hmay, hstore]

end Stores

/-- Settles O10: each store is the shared one at its size, or the store of a capability. -/
theorem storeResults : Obligations.StoreResults := by
  unfold Obligations.StoreResults
  exact fun o s t r m sw hs hr => ⟨fun z hg hst => storeOp_completes hs hr hg hst,
    fun hg htag hst => storeCapOp_completes hs hr hg htag hst⟩

/-! ### Compact forms (R199) -/

section Compact
variable {s : State} {rb : Fin 16}

/-- [rb + 0] in any unit is the base capability at its address. -/
theorem ea_plainMem (t : Tile) (u lg : Nat) : t.ea u lg (plainMem rb) = ⟨t.getW rb, (t.getW rb).addr, none⟩ := by
  have hlt := (t.getW rb).lo.isLt
  have haddr : addrAdd (t.getW rb).addr ((0 : BitVec 7).toInt * u) = (t.getW rb).addr := by
    simp only [BitVec.ofNat_eq_ofNat, BitVec.toInt_zero, zero_mul, addrAdd, Reg.addr]
    omega
  unfold plainMem Tile.ea
  dsimp only
  rw [show ((low rb : Fin 64) : Nat) = rb from rfl, haddr]
/-- [rb]+=8 is the base capability at its address, moved by 8. -/
theorem ea_postMem (t : Tile) : t.ea 8 3 (postMem rb) =
    ⟨t.getW rb, (t.getW rb).addr, some (baseTo (t.getW rb) (addrAdd (t.getW rb).addr 8))⟩ := rfl

end Compact

theorem compactLoadStoreForms : CompactLoadStoreForms := by
  intro o s t r rb sw b g hs hr
  have hload : Ready s (Mem.reads (plainMem rb) ++ [wr (low r)]) := hr.mono (by simp [plainMem, Mem.reads])
  have hpost : Ready s (Mem.reads (postMem rb) ++ [wr (low r)]) := hr.mono (by simp [postMem, Mem.reads])
  have hstore : Ready s (wr (low r) :: Mem.reads (plainMem rb)) := hr
  have hstorePost : Ready s (wr (low r) :: Mem.reads (postMem rb)) := hr
  have hfixed : ¬ (Mem.updates (plainMem rb) = true ∧ low r = Mem.rb (plainMem rb)) := fun h => Bool.false_ne_true h.1
  have hea (u lg : Nat) := ea_plainMem (rb := rb) s.here u lg
  refine ⟨fun hg hl => ⟨?_, fun hne => ?_⟩, fun hg hl => ?_, fun hg hl => ?_, fun hg hst => ⟨?_, ?_⟩, fun hg hst => ?_,
    fun hg htag hst => ?_⟩
  · have h := loadOp_completes (maj := 0x10) (minor := 0) (len := 2) (sw := sw) (lg := 3) (signed := false) (b := b) (g := g) (t := t)
      hs hload hfixed
    rw [hea] at h
    exact h hg hl
  · have hdiff : ¬ (Mem.updates (postMem rb) = true ∧ low r = Mem.rb (postMem rb)) := fun h =>
      hne (Fin.ext (congrArg (fun x : Fin 64 => x.val) h.2))
    obtain ⟨-, i, d, ht⟩ := hl.here
    have h := loadOp_completes (maj := 0x10) (minor := 0) (len := 2) (sw := sw) (lg := 3) (signed := false) (b := b) (g := g) (t := t)
      hs hpost hdiff hg hl
    refine h.of_here ?_
    rw [ht]
    rfl
  · have h := loadOp_completes (maj := 0x10) (minor := 0) (len := 2) (sw := sw) (lg := 2) (signed := false) (b := b) (g := g) (t := t)
      hs hload hfixed
    rw [hea] at h
    exact h hg hl
  · have h := loadCapOp_completes (maj := 0x11) (minor := 3) (len := 2) (sw := sw) (b := b) (g := g) (t := t) hs hload hfixed
    rw [hea] at h
    exact h hg hl
  · have h := storeOp_completes (maj := 0x12) (minor := 0) (len := 2) (sw := sw) (lg := 3) (t := t) hs hstore
    rw [hea] at h
    exact h hg hst
  · obtain ⟨-, u, st, i, d, ht⟩ := hst.here
    have h := storeOp_completes (maj := 0x12) (minor := 0) (len := 2) (sw := sw) (lg := 3) (t := t) hs hstorePost hg hst
    refine h.of_here ?_
    rw [ht]
    rfl
  · have h := storeOp_completes (maj := 0x12) (minor := 0) (len := 2) (sw := sw) (lg := 2) (t := t) hs hstore
    rw [hea] at h
    exact h hg hst
  · have h := storeCapOp_completes (maj := 0x13) (minor := 0) (len := 2) (sw := sw) (t := t) hs hstore
    rw [hea] at h
    exact h hg htag hst

/-- Settles O11: the compact forms run the shared operations of their long forms. -/
theorem compactForms : Obligations.CompactForms := ⟨compactIntegerForms, compactLoadStoreForms⟩

end Sys2Proof.Machine
end

section
/-! Repeated moves: REP.COPY and REP.FILL (R231, R232, R374). -/

namespace Sys2Proof.Machine

/-- Two effects on the core that differ in its instruction flow alone are one. -/
theorem Effect.of_withFlow {s t : State} {f g : Tile → Tile} (h : Effect s t g)
    (hfg : ∀ u, (g s.here).withFlow u = (f s.here).withFlow u) : Effect s t f :=
  ⟨h.1, h.2.1, h.2.2.trans (hfg _)⟩

theorem finish_seq_rep (k : Nat) (m : Meta) (r : Bool) (t : Tile) : (finish k m .seq r t).rep = none := by
  unfold finish; dsimp only; split <;> [rw [runEnd_eq]; rfl]

/-- The meta of a REP. -/
def repMeta (copy : Bool) (d a c : Fin 64) (sw : Bool) : Meta :=
  { metaD 0x14 (bit (!copy)) sw [wr d, wr a, wr c] ([wr d] ++ (if copy then [wr a] else []) ++ [wr c]) with
    mustS := true, sync := true }

section Rep
variable {copy : Bool} {d a c : Fin 64} {o s t : State}

theorem repMeta_ready (hr : Ready s [wr d, wr a, wr c]) (sw : Bool) :
    Ready s ((repMeta copy d a c sw).reads ++ (repMeta copy d a c sw).writes) := by
  refine hr.mono fun r h => ?_
  cases copy <;> simp [repMeta, metaD] at h ⊢ <;> tauto
theorem repMeta_passes (hr : Ready s [wr d, wr a, wr c]) : (repMeta copy d a c true).Passes s :=
  ⟨kinds_all _, nofun, fun r h => (repMeta_ready hr true r h).1, fun _ => rfl, rfl⟩

/-- The pointers and the count after `moved` elements of `n` bytes. -/
def repStep (copy : Bool) (d a c : Fin 64) (wd ws : Reg) (cnt moved n : Nat) (x : Tile) : Tile :=
  (if copy then (x.putW d (capAdd wd ((n * moved : Nat) : Int))).putW a (capAdd ws ((n * moved : Nat) : Int))
    else x.putW d (capAdd wd ((n * moved : Nat) : Int))).putX c (BitVec.ofNat 64 (cnt - moved))
theorem KeepsFlow.repStep (wd ws : Reg) (cnt moved n : Nat) (x : Tile) : KeepsFlow (repStep copy d a c wd ws cnt moved n) x := by
  unfold Machine.repStep
  cases copy
  · exact (KeepsFlow.putW ..).comp (KeepsFlow.putX ..)
  · exact ((KeepsFlow.putW d (capAdd wd ((n * moved : Nat) : Int)) x).comp (KeepsFlow.putW ..)).comp (KeepsFlow.putX ..)

/-- What a REP does to its registers after an element. -/
theorem repNext_registers (wd ws : Reg) (cnt moved n : Nat) (hd : t.here.bound d = none) (ha : t.here.bound a = none)
    (hc : t.here.bound c = none) : ∃ u, Upd t u (repStep copy d a c wd ws cnt moved n) ∧ ∀ e carry,
      repNext d a c copy wd ws cnt moved e carry n t =
        if cnt = moved then .ok .seq u else .ok .again (u.modTile u.cur fun x => { x with rep := some (e + moved, carry) }) := by
  obtain ⟨u, hu, hud⟩ := writeW_ready (capAdd wd ((n * moved : Nat) : Int)) hd
  unfold Machine.repStep repNext
  cases copy
  · obtain ⟨w, hw, hwc⟩ := writeX_ready (BitVec.ofNat 64 (cnt - moved))
      (show u.here.bound c = none by rw [hud.here, Tile.bound_putW, hc])
    refine ⟨w, hud.trans hwc, fun e carry => ?_⟩
    simp only [op_bind, hu, writeN, hw, Bool.false_eq_true, if_false]
    by_cases hcm : cnt = moved
    · simp only [if_pos hcm]
      rfl
    · simp only [if_neg hcm]
      rfl
  · obtain ⟨v, hv, hva⟩ := writeW_ready (capAdd ws ((n * moved : Nat) : Int))
      (show u.here.bound a = none by rw [hud.here, Tile.bound_putW, ha])
    obtain ⟨w, hw, hwc⟩ := writeX_ready (BitVec.ofNat 64 (cnt - moved))
      (show v.here.bound c = none by rw [hva.here, hud.here, Tile.bound_putW, Tile.bound_putW, hc])
    refine ⟨w, (hud.trans hva).trans hwc, fun e carry => ?_⟩
    simp only [op_bind, hu, hv, writeN, hw, if_true]
    by_cases hcm : cnt = moved
    · simp only [if_pos hcm]
      rfl
    · simp only [if_neg hcm]
      rfl

/-- A REP whose element has been moved, from `s` to `t`, goes on after itself or again at itself. -/
theorem rep_goesOn {body : Op Flow} {wd ws : Reg} {cnt moved e n : Nat} {carry : Bool} (hs : s = o.engineDone)
    (hr : Ready s [wr d, wr a, wr c]) (hag : t.here.ag = s.here.ag) (hpc : t.here.pc = s.here.pc)
    (hb : body s = repNext d a c copy wd ws cnt moved e carry n t) :
    ∃ u, issue (repMeta copy d a c true) body o = .next u ∧ Effect t u (repStep copy d a c wd ws cnt moved n) ∧
      (cnt = moved → u.here.pc = t.here.after 4 ∧ u.here.rep = none) ∧
      (cnt ≠ moved → u.here.pc = s.here.pc ∧ u.here.rep.isSome = true ∧ u.here.runPos = 0) := by
  have hbound {n : Fin 64} (hn : wr n ∈ [wr d, wr a, wr c]) : t.here.bound n = none :=
    (Tile.bound_congr hag _).trans (hr.unbound hn)
  obtain ⟨u, hu, hnext⟩ := repNext_registers (copy := copy) (d := d) (a := a) (c := c) wd ws cnt moved n
    (hbound (by simp)) (hbound (by simp)) (hbound (by simp))
  have hflow := KeepsFlow.repStep (copy := copy) (d := d) (a := a) (c := c) wd ws cnt moved n t.here
  have hsettle := (settle_sync (m := repMeta copy d a c true) rfl rfl o).trans hs.symm
  have hissue {f : Flow} {v : State} (hv : body s = .ok f v) :=
    issue_settled hsettle (unsettled_none (m := repMeta copy d a c true) rfl rfl s) (repMeta_passes hr) hv
  by_cases h : cnt = moved
  · rw [hnext, if_pos h] at hb
    refine ⟨_, hissue hb, effect_finish hu .., fun _ => ⟨?_, ?_⟩, fun hne => absurd h hne⟩
    · rw [State.here_modTile, finish_seq_pc, hu.here]
      unfold Tile.after
      rw [hflow.pc, hflow.loops]
      rfl
    · rw [State.here_modTile, finish_seq_rep]
  · rw [hnext, if_neg h] at hb
    have hmore := hu.trans (Upd.refl u |>.trans (.inr rfl) : Upd u
      (u.modTile u.cur fun x => { x with rep := some (e + moved, carry) }) fun x => { x with rep := some (e + moved, carry) })
    refine ⟨_, hissue hb, (effect_finish hmore ..).of_withFlow fun _ => rfl, fun heq => absurd heq h, fun _ => ⟨?_, ?_, ?_⟩⟩
    · rw [State.here_modTile, State.here_modTile, hu.here]
      exact hflow.pc.trans hpc
    · rw [State.here_modTile, State.here_modTile]
      rfl
    · rw [State.here_modTile]
      rfl

end Rep

/-! ### The checks of an element -/

theorem addrAdd_of_lt {a n : Nat} (h : a + n < 2 ^ 64) : addrAdd a (n : Int) = a + n := by
  unfold addrAdd
  omega
/-- A capability that grants a range grants the aligned ranges in it. -/
theorem Grants.part {c : Reg} {a n perms align off len al : Nat} (h : Grants c a n perms align) (hn : off + len ≤ n)
    (hal : (a + off) % al = 0) (hpage : (a + off) / 2 ^ 56 = 0) : Grants c (a + off) len perms al := by
  obtain ⟨h1, h2, h3, h4, h5, h6, h7⟩ := h
  exact ⟨h1, h2, h3, by omega, by omega, hal, hpage⟩
theorem Grants.addr_lt {c : Reg} {a n perms align : Nat} (h : Grants c a n perms align) : a < 2 ^ 56 := by
  obtain ⟨-, -, -, -, -, -, h7⟩ := h
  omega

theorem repCheck_copy {d a : Fin 64} {wd ws : Reg} {off n : Nat} {s : State}
    (hs : Grants ws (addrAdd ws.addr (off : Nat)) n Perm.load n) (hd : Grants wd (addrAdd wd.addr (off : Nat)) n Perm.store n) :
    repCheck d a true wd ws off n s = .ok ⟨⟩ s := by
  simp only [repCheck, op_bind, if_true, checkCap_grants hs, checkCap_grants hd]
theorem repCheck_fill {d a : Fin 64} {wd ws : Reg} {off n : Nat} {s : State}
    (hd : Grants wd (addrAdd wd.addr (off : Nat)) n Perm.store n) : repCheck d a false wd ws off n s = .ok ⟨⟩ s := by
  simp only [repCheck, Bool.false_eq_true, if_false, op_bind, op_pure, checkCap_grants hd]
theorem addrAdd_zero {c : Reg} : addrAdd c.addr ((0 : Nat) : Int) = c.addr := by
  have := c.lo.isLt
  unfold addrAdd Reg.addr
  omega
/-- An element of a tag-carrying copy is checked in two halves. -/
theorem Grants.halves {c : Reg} {perms : Nat} (h : Grants c c.addr 16 perms 16) :
    Grants c (addrAdd c.addr ((0 : Nat) : Int)) 8 perms 8 ∧ Grants c (addrAdd c.addr ((8 : Nat) : Int)) 8 perms 8 := by
  have hlt := h.addr_lt
  have halign : c.addr % 16 = 0 := by obtain ⟨-, -, -, -, -, h6, -⟩ := h; exact h6
  rw [addrAdd_of_lt (by omega), addrAdd_of_lt (by omega)]
  exact ⟨h.part (by omega) (by omega) (by omega), h.part (by omega) (by omega) (by omega)⟩

/-- The fields of a REP with distinct registers. -/
theorem repFields_ok {d a c : Fin 64} {copy : Bool} {s : State} (hdc : d ≠ c) (had : copy = true → a ≠ d)
    (hac : copy = true → a ≠ c) : repFields d a c copy s = .ok ⟨⟩ s := by
  have h1 : (!(copy && decide (d = a))) = true := by
    cases copy with
    | false => rfl
    | true => simpa using (had rfl).symm
  have h2 : (!(decide (d = c) || (copy && decide (a = c)))) = true := by
    cases copy with
    | false => simpa using hdc
    | true => simpa using ⟨hdc, hac rfl⟩
  simp only [repFields, op_bind, op_require h1, op_require h2]

/-! ### The body of a REP -/

/-- Elements done before this one, and whether the REP carries tags, as its body reads them. -/
def repState (s : State) (copy : Bool) (z : Nat) (a d : Fin 64) : Nat × Bool :=
  match s.here.rep with
  | some (e, g) => (e, copy && g)
  | none => (0, copy && decide (z = 3) && decide ((s.here.getW d).addr % 16 = 0) && decide ((s.here.getW a).addr % 16 = 0))
theorem repState_copy (s : State) (z : Fin 4) (a d : Fin 64) : (repState s true z a d).2 = carries s z a d := by
  unfold repState carries
  cases s.here.rep with
  | some x => rfl
  | none => simp [Fin.ext_iff, Bool.and_left_comm, Bool.and_comm]
theorem repState_fill (s : State) (z : Nat) (a d : Fin 64) : (repState s false z a d).2 = false := by
  unfold repState
  split <;> rfl

/-- What a REP does once its registers are read. -/
def repBody (copy : Bool) (d a c : Fin 64) (z : Nat) (wd ws : Reg) (cnt e : Nat) (carry : Bool) : Op Flow :=
  if cnt = 0 then seqFlow
  else if carry && decide (2 ≤ cnt) then do
    repCheck d a copy wd ws 0 8
    repCheck d a copy wd ws 8 8
    let (b, g) ← loadAt a 0 ws.addr 16 .load false e
    let v := Reg.ofBytes (g && ws.has Perm.loadCap) b
    storeAt d 0 wd.addr b .store false false (v.tag && mayStoreCap wd v) e
    repNext d a c copy wd ws cnt 2 e carry (2 ^ z)
  else do
    repCheck d a copy wd ws 0 (2 ^ z)
    let b ← (if copy then do
        let (b, _) ← loadAt a 0 ws.addr (2 ^ z) .load false e
        pure b
      else pure (leBytes (2 ^ z) ws.lo.toNat))
    storeAt d 0 wd.addr b .store false false false e
    repNext d a c copy wd ws cnt 1 e carry (2 ^ z)

section Body
variable {copy : Bool} {d a c : Fin 64} {z : Nat} {o s : State} (hdc : d ≠ c) (had : copy = true → a ≠ d)
  (hac : copy = true → a ≠ c) (hr : Ready s [wr d, wr a, wr c])
include hdc had hac hr

/-- A REP with distinct ready registers is the rest of its body. -/
theorem repOp_body (hs : s = o.engineDone) : ∃ body : Op Flow, repOp copy d a c z true o = issue (repMeta copy d a c true) body o ∧
    body s = repBody copy d a c z (s.here.getW d) (s.here.getW a) (s.here.getX c).toNat (repState s copy z a d).1
      (repState s copy z a d).2 s := by
  refine ⟨_, rfl, ?_⟩
  simp only [op_bind, repFields_ok hdc had hac, readW_ready (hr.unbound (n := d) (by simp [wr])),
    readW_ready (hr.unbound (n := a) (by simp [wr])), readN_ready (hr.unbound (n := c) (by simp [wr])), op_getT]
  unfold repState
  cases s.here.rep <;> rfl

theorem repOp_through_of_zero (hs : s = o.engineDone) (hcnt : (s.here.getX c).toNat = 0) :
    Through (repOp copy d a c z true o) s 4 (results ([wr d] ++ (if copy then [wr a] else []) ++ [wr c])) (fun u => u) := by
  obtain ⟨body, hop, hbody⟩ := repOp_body hdc had hac hr (z := z) hs
  rw [repBody, if_pos hcnt] at hbody
  rw [hop]
  exact issue_through' ((settle_sync rfl rfl o).trans hs.symm) (unsettled_none rfl rfl s) (repMeta_passes hr) hbody (Upd.refl s)
    (KeepsFlow.refl _) (repMeta_ready hr true).noAppend

end Body

section Elements
variable {d a c : Fin 64} {z : Fin 4} {n k : Nat} {o s t : State} (hs : s = o.engineDone) (hr : Ready s [wr d, wr a, wr c])
  (hdc : d ≠ c) (hcnt : (s.here.getX c).toNat ≠ 0) (hk : k ≤ (s.here.getX c).toNat)
include hs hr hdc hcnt hk

omit hs hr hdc hcnt in
theorem ofNat_sub_count : BitVec.ofNat 64 ((s.here.getX c).toNat - k) = s.here.getX c - BitVec.ofNat 64 k := by
  have := (s.here.getX c).isLt
  apply BitVec.eq_of_toNat_eq
  rw [BitVec.toNat_ofNat, BitVec.toNat_sub, BitVec.toNat_ofNat]
  omega

theorem repCopy_moves {v : State} {b : List Byte} {g : Bool} (had : a ≠ d) (hac : a ≠ c)
    (hpair : carries s z a d = true → 2 ≤ (s.here.getX c).toNat → k = 2 ∧ n = 16)
    (hsingle : carries s z a d = false ∨ (s.here.getX c).toNat = 1 → k = 1 ∧ n = 2 ^ z.val)
    (hga : Grants (s.here.getW a) (s.here.getW a).addr n Perm.load n)
    (hgd : Grants (s.here.getW d) (s.here.getW d).addr n Perm.store n) (hl : Loads s (s.here.getW a).addr n false v b g)
    (hst : Stores v (s.here.getW d).addr b none
      (decide (k = 2) && g && (s.here.getW a).has Perm.loadCap &&
        mayStoreCap (s.here.getW d) (Reg.ofBytes (g && (s.here.getW a).has Perm.loadCap) b)) t) :
    ∃ u, exec (.repCopy d a c z true) o = .next u ∧
      Effect t u (fun x => ((x.putW d (capAdd (s.here.getW d) (k * 2 ^ z.val : Nat))).putW a
        (capAdd (s.here.getW a) (k * 2 ^ z.val : Nat))).putX c (s.here.getX c - BitVec.ofNat 64 k)) ∧
      ((s.here.getX c).toNat = k → u.here.pc = t.here.after 4 ∧ u.here.rep = none) ∧
      ((s.here.getX c).toNat ≠ k → u.here.pc = s.here.pc ∧ u.here.rep.isSome = true ∧ u.here.runPos = 0) := by
  obtain ⟨-, i, dt, hv⟩ := hl.here
  obtain ⟨-, un, st, i', dt', ht⟩ := hst.here
  rw [hv] at ht
  obtain ⟨body, hop, hbody⟩ := repOp_body (copy := true) hdc (fun _ => had) (fun _ => hac) hr (z := z) hs
  rw [repBody, if_neg hcnt, repState_copy] at hbody
  have hmoved : body s = repNext d a c true (s.here.getW d) (s.here.getW a) (s.here.getX c).toNat k
      (repState s true z a d).1 (carries s z a d) (2 ^ z.val) t := by
    rw [hbody]
    by_cases hc : carries s z a d = true ∧ 2 ≤ (s.here.getX c).toNat
    · obtain ⟨rfl, rfl⟩ := hpair hc.1 hc.2
      have hload := hl.load a 0 .load nofun (repState s true z a d).1
      rw [decide_eq_true rfl, Bool.true_and] at hst
      have hstore := hst.store d 0 .store false nofun (repState s true z a d).1
      rw [Option.isSome_none] at hstore
      have htag : ((Reg.ofBytes (g && (s.here.getW a).has Perm.loadCap) b).tag) = (g && (s.here.getW a).has Perm.loadCap) := rfl
      rw [if_pos (by simpa using hc)]
      simp only [op_bind, repCheck_copy hga.halves.1 hgd.halves.1, repCheck_copy hga.halves.2 hgd.halves.2, hload]
      rw [htag, hstore]
    · obtain ⟨rfl, rfl⟩ := hsingle (by
        by_cases h : carries s z a d = true
        · exact .inr (by have hle : ¬ 2 ≤ (s.here.getX c).toNat := fun h2 => hc ⟨h, h2⟩; omega)
        · exact .inl (by simpa using h))
      have hload := hl.load a 0 .load nofun (repState s true z a d).1
      have hstore := hst.store d 0 .store false nofun (repState s true z a d).1
      rw [Option.isSome_none, decide_eq_false (by decide : ¬ 1 = 2), Bool.false_and, Bool.false_and, Bool.false_and] at hstore
      have hchk := repCheck_copy (d := d) (a := a) (s := s) (off := 0) (by rw [addrAdd_zero]; exact hga) (by rw [addrAdd_zero]; exact hgd)
      rw [if_neg (by simpa using hc)]
      simp only [op_bind, hchk, if_true, hload, op_pure, hstore]
  obtain ⟨u, hu, heff, hlast, hmore⟩ := rep_goesOn hs hr (by rw [ht]; rfl) (by rw [ht]; rfl) hmoved
  refine ⟨u, hop.trans hu, ?_, hlast, hmore⟩
  rw [← ofNat_sub_count hk, Nat.mul_comm]
  exact heff

theorem repFill_moves (hk1 : k = 1) (hn : n = 2 ^ z.val) (hgd : Grants (s.here.getW d) (s.here.getW d).addr n Perm.store n)
    (hst : Stores s (s.here.getW d).addr (leBytes n (s.here.getX a).toNat) none false t) :
    ∃ u, exec (.repFill d a c z true) o = .next u ∧
      Effect t u (fun x => (x.putW d (capAdd (s.here.getW d) n)).putX c (s.here.getX c - 1)) ∧
      ((s.here.getX c).toNat = 1 → u.here.pc = t.here.after 4 ∧ u.here.rep = none) ∧
      ((s.here.getX c).toNat ≠ 1 → u.here.pc = s.here.pc ∧ u.here.rep.isSome = true ∧ u.here.runPos = 0) := by
  subst hk1 hn
  obtain ⟨-, un, st, i', dt', ht⟩ := hst.here
  obtain ⟨body, hop, hbody⟩ := repOp_body (copy := false) hdc nofun nofun hr (z := z) hs
  rw [repBody, if_neg hcnt, repState_fill, if_neg (by simp)] at hbody
  have hstore := hst.store d 0 .store false nofun (repState s false z a d).1
  rw [Option.isSome_none] at hstore
  have hchk := repCheck_fill (d := d) (a := a) (ws := s.here.getW a) (s := s) (off := 0) (by rw [addrAdd_zero]; exact hgd)
  have hmoved : body s = repNext d a c false (s.here.getW d) (s.here.getW a) (s.here.getX c).toNat 1
      (repState s false z a d).1 false (2 ^ z.val) t := by
    rw [hbody]
    have hstore' : storeAt d 0 (s.here.getW d).addr (leBytes (2 ^ z.val) (s.here.getW a).lo.toNat)   .store false false false
      (repState s false z a d).1 none s = .ok ⟨⟩ t := hstore
    simp only [op_bind, hchk, Bool.false_eq_true, if_false, op_pure, hstore']
  obtain ⟨u, hu, heff, hlast, hmore⟩ := rep_goesOn hs hr (by rw [ht]; rfl) (by rw [ht]; rfl) hmoved
  refine ⟨u, hop.trans hu, ?_, hlast, hmore⟩
  have hone := ofNat_sub_count hk
  rw [show (1 : Word) = BitVec.ofNat 64 1 from rfl, ← hone, ← Nat.mul_one (2 ^ z.val)]
  exact heff

end Elements

/-- Settles O15: with count 0 the body is through; otherwise one element is moved and the REP goes on as its count says. -/
theorem repeatedMoves : Obligations.RepeatedMoves := by
  unfold Obligations.RepeatedMoves
  rintro o s t d a c z n k _ hs hr rfl hdc
  refine ⟨fun hcnt => ⟨fun had hac => ?_, ?_⟩, fun hcnt hk => ⟨fun v b g had hac hpair hsingle hga hgd hl hst =>
    repCopy_moves hs hr hdc hcnt hk had hac hpair hsingle hga hgd hl hst, fun hk1 hn hgd hst =>
    repFill_moves hs hr hdc hcnt hk hk1 hn hgd hst⟩⟩
  · exact repOp_through_of_zero (copy := true) hdc (fun _ => had) (fun _ => hac) hr hs hcnt
  · exact repOp_through_of_zero (copy := false) hdc nofun nofun hr hs hcnt

end Sys2Proof.Machine
end

section
/-! The spec's example words, the reset state and the step of a free core. -/

namespace Sys2Proof.Machine

/-- Settles O58: each word is decoded by evaluation. -/
theorem exampleWords : Obligations.ExampleWords := by
  unfold Obligations.ExampleWords
  refine ⟨?_, ?_, ?_, ?_, ?_, ?_, ?_, ?_, ?_, ?_, ?_, ?_, ?_, ?_, ?_, ?_⟩ <;> rfl

/-- Predicate register 0 of an idle tile is all ones and the others are 0. -/
theorem idle_p (n : Fin 8) : Tile.idle.p[n] = if n = 0 then BitVec.allOnes 64 else 0 := by
  revert n
  decide

/-- Settles O56: every field of the reset state is read off its definition. -/
theorem resetState : Obligations.ResetState := by
  unfold Obligations.ResetState
  refine ⟨rfl, rfl, rfl, rfl, rfl, rfl, rfl, rfl, rfl, rfl, rfl, rfl, fun p => ⟨rfl, rfl, rfl⟩, fun d => ⟨rfl, rfl, rfl⟩, ?_⟩
  rintro k t rfl
  refine ⟨rfl, rfl, rfl, rfl, rfl, rfl, rfl, rfl, rfl, rfl, rfl, rfl, rfl, rfl, rfl, fun n => ?_, idle_p, fun n l => ?_, fun n => ?_,
    fun n => ?_, fun n => ?_, fun n => ?_⟩ <;>
  simp [State.reset, State.tile, keyGet, Tile.idle, Slot.reset, Ring.reset]

/-! ### The step of a free core -/

/-- `t` has the stepping core of `s`, in the same consort. -/
def SameConsort (s t : State) : Prop := t.cur = s.cur ∧ t.here.consort = s.here.consort

theorem SameConsort.refl (s : State) : SameConsort s s := ⟨rfl, rfl⟩
theorem SameConsort.trans {s t u : State} (h : SameConsort s t) (h' : SameConsort t u) : SameConsort s u :=
  ⟨h'.1.trans h.1, h'.2.trans h.2⟩
theorem SameConsort.of_tiles {s t : State} (hc : t.cur = s.cur) (ht : t.tiles = s.tiles) : SameConsort s t :=
  ⟨hc, by unfold State.here State.tile; rw [hc, ht]⟩

theorem sameConsort_record (s : State) (r : ErrReport) : SameConsort s (s.record r) := .of_tiles (s.record_cur r) (s.record_tiles r)
theorem sameConsort_mendCopy (s : State) (k c w : Nat) : SameConsort s (s.mendCopy k c w) := by
  unfold State.mendCopy
  dsimp only
  split <;> exact SameConsort.trans (.of_tiles rfl rfl) (sameConsort_record ..)
theorem sameConsort_mendWord (s : State) (k c w : Nat) : SameConsort s (s.mendWord k c w) := by
  have hcopy (u : State) (x : Nat) : SameConsort u (if u.copyBad x w then u.mendCopy k x w else u) := by
    split
    · exact sameConsort_mendCopy ..
    · exact SameConsort.refl u
  unfold State.mendWord
  split
  · exact SameConsort.refl s
  · exact (hcopy s 56).trans (hcopy _ c)
theorem sameConsort_mend (s : State) (k c key n : Nat) (repl : Bool) : SameConsort s (s.mend k c key n repl) := by
  unfold State.mend
  split
  · generalize (s.bad ++ s.badCopies.map (·.2)).filter _ = l
    induction l generalizing s with
    | nil => exact SameConsort.refl s
    | cons w l ih => exact (sameConsort_mendWord s k c w).trans (ih _)
  · exact SameConsort.refl s

/-- What an operation that takes effect has done in order. -/
theorem bind_eq_ok {α β : Type} {x : Op α} {f : α → Op β} {b : β} {s u : State} (h : (x >>= f) s = .ok b u) :
    ∃ a t, x s = .ok a t ∧ f a t = .ok b u := by
  rw [op_bind] at h
  cases hx : x s with
  | ok a t => exact ⟨a, t, rfl, by rwa [hx] at h⟩
  | error e t => rw [hx] at h; cases h
theorem require_eq_ok {c : Bool} {e : Exn} {s t : State} {x : Unit} (h : require c (throw e) s = .ok x t) : t = s := by
  cases c <;> cases h
  rfl

theorem checkCap_eq_ok {fld src a n perms align lane : Nat} {c : Reg} {ak : Access} {s t : State} {x : Unit}
    (h : checkCap fld src c a n perms align ak lane s = .ok x t) : t = s := by
  unfold checkCap at h
  obtain ⟨_, _, h1, h⟩ := bind_eq_ok h
  obtain ⟨_, _, h2, h⟩ := bind_eq_ok h
  obtain ⟨_, _, h3, h⟩ := bind_eq_ok h
  obtain ⟨_, _, h4, h⟩ := bind_eq_ok h
  obtain ⟨_, _, h5, h⟩ := bind_eq_ok h
  rw [require_eq_ok h, require_eq_ok h5, require_eq_ok h4, require_eq_ok h3, require_eq_ok h2, require_eq_ok h1]
theorem engineOver_eq_ok {key n : Nat} {write : Bool} {s t : State} {x : Unit} (h : engineOver key n write s = .ok x t) : t = s := by
  unfold engineOver at h
  obtain ⟨_, _, hget, h⟩ := bind_eq_ok h
  cases hget
  split at h <;> cases h
  rfl
theorem consume_eq_ok {key n a : Nat} {ak : Access} {repl : Bool} {s t : State} {x : Unit}
    (h : consume key n ak a repl s = .ok x t) : SameConsort s t := by
  unfold consume at h
  obtain ⟨_, _, hover, h⟩ := bind_eq_ok h
  rw [engineOver_eq_ok hover] at h
  obtain ⟨_, _, hget, h⟩ := bind_eq_ok h
  cases hget
  dsimp only at h
  split at h <;> cases h
  exact sameConsort_mend ..
theorem translate_eq_ok {inst : Bool} {va need elem : Nat} {ak : Access} {s t : State} {p : Phys}
    (h : translate inst va need ak elem s = .ok p t) : SameConsort s t := by
  unfold translate at h
  simp only [op_bind, op_get] at h
  cases htr : s.translateAt s.cur inst va need with
  | error f =>
    rw [htr] at h
    unfold failTranslation at h
    dsimp only at h
    split at h <;> cases h
  | ok x =>
    rw [htr] at h
    cases h
    have htlb := tlbOnly_translateAt htr
    obtain ⟨i, d, hhere⟩ := htlb.here
    exact ⟨htlb.cur, by rw [hhere]; rfl⟩
theorem fetchable_eq_ok {p : Phys} {n a : Nat} {s t : State} {x : Unit} (h : fetchable p n a s = .ok x t) : SameConsort s t := by
  unfold fetchable at h
  obtain ⟨_, _, hget, h⟩ := bind_eq_ok h
  cases hget
  split at h
  · cases h
  · exact consume_eq_ok h
/-- A fetch leaves the core's consort alone. -/
theorem fetchBytes_eq_ok {a n : Nat} {s t : State} {b : List Byte} (h : fetchBytes a n s = .ok b t) : SameConsort s t := by
  unfold fetchBytes at h
  obtain ⟨_, _, hget, h⟩ := bind_eq_ok h
  cases hget
  obtain ⟨_, _, hchk, h⟩ := bind_eq_ok h
  obtain ⟨_, _, hreq, h⟩ := bind_eq_ok h
  rw [require_eq_ok hreq, checkCap_eq_ok hchk] at h
  obtain ⟨p, s1, htr, h⟩ := bind_eq_ok h
  obtain ⟨_, s2, hf, h⟩ := bind_eq_ok h
  have hfirst := (translate_eq_ok htr).trans (fetchable_eq_ok hf)
  obtain ⟨_, _, hget, h⟩ := bind_eq_ok h
  cases hget
  split at h
  · cases h
    exact hfirst
  · obtain ⟨q, s3, htr', h⟩ := bind_eq_ok h
    obtain ⟨_, s4, hf', h⟩ := bind_eq_ok h
    cases h
    exact hfirst.trans ((translate_eq_ok htr').trans (fetchable_eq_ok hf'))

/-- Outside a consort code bytes are fetched. -/
theorem codeAt_eq_fetchBytes {s : State} (h : s.here.consort = none) (a n : Nat) : codeAt a n s = fetchBytes a n s := by
  have hin : (s.tile s.cur).inForwarded s.cur = none := by
    rw [show s.tile s.cur = s.here from rfl]
    unfold Tile.inForwarded
    rw [h]
  unfold codeAt
  simp only [op_bind, op_get, hin]

/-- The bytes at the pc of a core in no consort, and what they decode to. -/
theorem fetchInstr_eq_ok {s u t : State} {b c : List Byte} (hc : s.here.consort = none)
    (hb : fetchBytes s.here.pc.addr 2 s = .ok b u)
    (h : (lengthOf (leNat b) = 2 ∧ c = b ∧ t = u) ∨ (lengthOf (leNat b) = 4 ∧ fetchBytes s.here.pc.addr 4 u = .ok c t)) :
    fetchInstr s = .ok ⟨leNat c, (decode c).map (·.1)⟩ t := by
  have hsame := fetchBytes_eq_ok hb
  unfold fetchInstr
  simp only [op_bind, op_getT, codeAt_eq_fetchBytes hc, hb]
  obtain ⟨hl, rfl, rfl⟩ | ⟨hl, hb'⟩ := h
  · rw [if_neg (by omega)]
    rfl
  · rw [if_pos hl, op_bind, codeAt_eq_fetchBytes (hsame.2.trans hc), hb']
    rfl

/-- A core that is free to run runs the instruction at its pc. -/
theorem step_of_free {s : State} (hin : s.inputs = []) (hk : s.cur < Config.tileSites) (hb : s.blocked s.cur = false)
    (hp : s.here.parked = false) (hstop : s.here.stop = none) (hbox : s.here.inbox = []) (hspill : s.here.spilled = [])
    (hw : s.here.wait = none) (hc : s.here.consort = none) : stepInput s = runCore s := by
  have hback : s.here.spillBack = none := by unfold Tile.spillBack; rw [hbox]; rfl
  have hmail : s.here.hasMail = false := by unfold Tile.hasMail; rw [hbox, hspill]; rfl
  have hholds : s.here.consortHolds s.cur = false := by unfold Tile.consortHolds; rw [hc]
  unfold stepInput coreStep taskStep flowStep
  rw [hin]
  simp only [show s.tile s.cur = s.here from rfl, Nat.not_le.mpr hk, if_false, hb, Bool.false_eq_true, hback, hp, Bool.false_and, hstop,
    hmail, hw, hholds, hc, reduceCtorEq, false_and, Option.isSome_none]

/-- Time changes nothing of a die but its TIME. -/
theorem die_tick (s : State) (d : Nat) : ∃ x, s.tick.die d = { s.die d with time := x } := by
  have hmap (l : List (Nat × Die)) (e r : Nat) : ∃ x, keyGet Die.reset (l.map fun d => (d.1, d.2.tick s.free d.1 e r)) d =
      { keyGet Die.reset l d with time := x } := by
    induction l with
    | nil => exact ⟨_, rfl⟩
    | cons y l ih =>
      unfold keyGet List.map
      dsimp only
      split
      · exact ⟨_, rfl⟩
      · exact ih
  unfold State.tick State.die
  dsimp only
  split
  · exact ⟨_, rfl⟩
  · exact hmap ..

theorem markStarted_grids (s : State) : ∃ g, s.markStarted = { s with grids := g } := by
  unfold State.markStarted State.modGrid
  split
  · exact ⟨_, rfl⟩
  · split <;> exact ⟨_, rfl⟩

/-- Settles O57: a free core runs what its fetch gives. -/
theorem stepRunsDecodedInstruction : Obligations.StepRunsDecodedInstruction := by
  unfold Obligations.StepRunsDecodedInstruction
  intro s u t b c hin hk hb hp hstop hbox hspill hw hc hfetch hlen
  have hrun : step s = stepModule s := rfl
  rw [hrun]
  unfold stepModule
  rw [step_of_free hin hk hb hp hstop hbox hspill hw hc]
  unfold runCore
  rw [fetchInstr_eq_ok hc hfetch hlen]
  refine ⟨fun i hi => ?_, fun r hr => ?_, fun v => ?_, markStarted_grids t, fun y z hf => ?_⟩
  · rw [hi]
    exact ⟨fun v hv => by simp only [Except.map, hv], fun f hv => by simp only [Except.map, hv], fun f hv => by simp only [Except.map, hv]⟩
  · rw [hr]
    rfl
  · exact ⟨_, _, _, _, _, rfl, die_tick v⟩
  · obtain ⟨hg, hlocal, hpage, p, ht, hr, rfl⟩ := hf
    have h := hfetch.symm.trans (fetchBytes_ok hg hlocal hpage ht hr)
    injection h with h1 h2
    exact ⟨h1, h2⟩

end Sys2Proof.Machine
end

section
/-! Canonical memory (O60): what keeps it. A function of states either leaves memory as it is (`_mem`) or leaves it canonical (`_wf`); an
operation keeps `State.Inv` whether it takes effect or fails (`_keeps`); an outcome is `OutWf`. One lemma for each function of the model, in the
order of the model, so that later ones follow from those of the functions they call. -/

namespace Sys2Proof.Machine

@[simp] theorem mem_foldl {α : Type} {f : State → α → State} (l : List α) {s : State} (hf : ∀ s a, (f s a).mem = s.mem) :
    (l.foldl f s).mem = s.mem := by
  induction l generalizing s with
  | nil => rfl
  | cons a l ih => exact ih.trans (hf s a)
@[simp] theorem mem_ite {c : Prop} [Decidable c] {s t : State} : (if c then s else t).mem = if c then s.mem else t.mem := apply_ite ..
@[simp] theorem wf_foldl {α : Type} {f : State → α → State} (l : List α) {s : State}
    (hf : ∀ s a, Memory.wf s.mem = true → Memory.wf (f s a).mem = true)
    (h : Memory.wf s.mem = true) : Memory.wf (l.foldl f s).mem = true := by
  induction l generalizing s with
  | nil => exact h
  | cons a l ih => exact ih (hf s a h)
@[simp] theorem wf_ite {c : Prop} [Decidable c] {m n : List Host.Cell} :
    Memory.wf (if c then m else n) = if c then Memory.wf m else Memory.wf n := apply_ite ..
@[simp] theorem State.fresh_eq (s : State) : s.fresh = (s.free, { s with free := s.free + 1 }) := rfl
@[simp] theorem wf_written {m : List Host.Cell} (n : Nat) (d : List Byte) (h : Memory.wf m = true) :
    Memory.wf (Memory.write m n d) = true := Memory.wf_write n d h
@[simp] theorem wf_cleared {m : List Host.Cell} (a n : Nat) (h : Memory.wf m = true) : Memory.wf (Memory.clear m a n) = true :=
  Memory.wf_clear a n h
@[simp] theorem State.modGrid_mem (s : State) (g : Nat) (f : Grid → Grid) : (State.modGrid s g f).mem = s.mem := by
  unfold State.modGrid
  split <;> simp
@[simp] theorem State.renew_mem (s : State) (key n : Nat) : (State.renew s key n).mem = s.mem := rfl
@[simp] theorem State.writeKey_wf (s : State) (key : Nat) (data : List Byte) (tag : Bool) (h : Memory.wf s.mem = true) :
    Memory.wf (State.writeKey s key data tag).mem = true := by
  unfold State.writeKey
  simp +contextual [h]
@[simp] theorem State.zero_wf (s : State) (key n : Nat) (h : Memory.wf s.mem = true) :
    Memory.wf (State.zero s key n).mem = true := by
  unfold State.zero
  simp +contextual [h]
@[simp] theorem State.writeNat_wf (s : State) (key n x : Nat) (h : Memory.wf s.mem = true) :
    Memory.wf (State.writeNat s key n x).mem = true := by
  unfold State.writeNat
  simp +contextual [h]
@[simp] theorem State.zeroScratch_wf (s : State) (k : Nat) (h : Memory.wf s.mem = true) :
    Memory.wf (State.zeroScratch s k).mem = true := by
  unfold State.zeroScratch
  simp +contextual [h]
@[simp] theorem State.bump_wf (s : State) (k off : Nat) (h : Memory.wf s.mem = true) :
    Memory.wf (State.bump s k off).mem = true := by
  unfold State.bump
  simp +contextual [h]
@[simp] theorem State.bump?_wf (s : State) (c : Option (Nat × Nat)) (h : Memory.wf s.mem = true) :
    Memory.wf (State.bump? s c).mem = true := by
  unfold State.bump?
  split <;> simp +contextual [h]
@[simp] theorem State.emitRecord_mem (s : State) (r : ErrReport) : (State.emitRecord s r).mem = s.mem := by
  unfold State.emitRecord
  split <;> simp
@[simp] theorem State.record_mem (s : State) (r : ErrReport) : (State.record s r).mem = s.mem := by
  unfold State.record
  simp
@[simp] theorem State.modExpert_mem (s : State) (d b : Nat) (f : Expert → Expert) : (State.modExpert s d b f).mem = s.mem := by
  unfold State.modExpert
  split <;> simp
@[simp] theorem State.dropRow_wf (s : State) (d b : Nat) (h : Memory.wf s.mem = true) :
    Memory.wf (State.dropRow s d b).mem = true := by
  unfold State.dropRow
  simp +contextual [h]
@[simp] theorem State.poolMsg_mem (s : State) (d owner cls : Nat) (data : List Word) : (State.poolMsg s d owner cls data).mem = s.mem := rfl
@[simp] theorem State.flush_mem (s : State) (d : Nat) : (State.flush s d).mem = s.mem := by
  unfold State.flush
  dsimp only
  split
  · simp
  · split <;> simp
@[simp] theorem State.overflowMsg_mem (s : State) (d b why : Nat) : (State.overflowMsg s d b why).mem = s.mem := rfl
@[simp] theorem State.holdRow_wf (s : State) (r : Row) (why : Nat) (h : Memory.wf s.mem = true) :
    Memory.wf (State.holdRow s r why).mem = true := by
  unfold State.holdRow
  simp +contextual [h]
@[simp] theorem State.arriveRow_wf (s : State) (r : Row) (h : Memory.wf s.mem = true) :
    Memory.wf (State.arriveRow s r).mem = true := by
  unfold State.arriveRow
  split <;> simp +contextual [h]
@[simp] theorem State.retryRows_wf (s : State) (which : Row → Bool) (h : Memory.wf s.mem = true) :
    Memory.wf (s.retryRows which).mem = true :=
  wf_foldl _ (fun s _ h => s.arriveRow_wf _ h) h
@[simp] theorem State.releaseExpert_wf (s : State) (d b : Nat) (h : Memory.wf s.mem = true) :
    Memory.wf (s.releaseExpert d b).mem = true := by
  unfold State.releaseExpert
  dsimp only
  refine State.retryRows_wf _ _ ?_
  rw [State.modDie_mem]
  have hzero : Memory.wf ((s.writeNat (expertAt d b 0) 4 0).zero (expertAt d b 64) (65536 - 64)).mem = true := by simp [h]
  split
  · exact hzero
  · split
    · simp [hzero]
    · simp [wf_foldl _ (fun s p h => s.zero_wf (expertAt d b (p * 65536)) 65536 h) hzero]
@[simp] theorem State.decideOverflow_wf (s : State) (d b : Nat) (h : Memory.wf s.mem = true) :
    Memory.wf (s.decideOverflow d b).mem = true := by
  have hw : Memory.wf (s.writeNat (expertAt d b 16) 8 0).mem = true := by simp [h]
  unfold State.decideOverflow
  dsimp only
  split
  · exact h
  · split
    · exact hw
    · split
      · exact wf_foldl _ (fun s _ h => s.dropRow_wf _ _ h) hw
      · exact wf_foldl _ (fun s _ h => s.arriveRow_wf _ h) hw
      · exact hw
      · exact hw
@[simp] theorem State.performAt_wf (s : State) (key : Nat) (data : List Byte) (tag : Bool) (h : Memory.wf s.mem = true) :
    Memory.wf (s.performAt key data tag).mem = true := by
  unfold State.performAt
  dsimp only
  split
  · simp [h]
  · generalize hu : (if _ < 4 then _ else s.writeKey key data false) = u
    have hwu : Memory.wf u.mem = true := by
      rw [← hu]
      split <;> simp [h]
    simp [hwu]
@[simp] theorem State.mendCopy_mem (s : State) (k c w : Nat) : (State.mendCopy s k c w).mem = s.mem := by
  unfold State.mendCopy
  simp
@[simp] theorem State.mendWord_mem (s : State) (k c w : Nat) : (State.mendWord s k c w).mem = s.mem := by
  unfold State.mendWord
  simp
@[simp] theorem State.mend_mem (s : State) (k c key n : Nat) (repl : Bool) : (State.mend s k c key n repl).mem = s.mem := by
  unfold State.mend
  simp
@[simp] theorem State.stampWrite_mem (s : State) (k key : Nat) (data : List Byte) (tag : Bool) (id : Nat) :
    (State.stampWrite s k key data tag id).mem = s.mem := rfl
@[simp] theorem State.ackWrite_mem (s : State) (n copy : Nat) : (State.ackWrite s n copy).mem = s.mem := by
  unfold State.ackWrite
  simp
@[simp] theorem State.commitWrite_wf (s : State) (n : Nat) (h : Memory.wf s.mem = true) :
    Memory.wf (State.commitWrite s n).mem = true := by
  unfold State.commitWrite
  split <;> simp +contextual [h]
@[simp] theorem State.settleWrite_wf (s : State) (h : Memory.wf s.mem = true) :
    Memory.wf (State.settleWrite s).mem = true := by
  unfold State.settleWrite
  split <;> simp +contextual [h]
@[simp] theorem State.settleWrites_wf (s : State) (h : Memory.wf s.mem = true) :
    Memory.wf (State.settleWrites s).mem = true := by
  unfold State.settleWrites
  simp +contextual [h]
@[simp] theorem State.hostTake_mem (s : State) (key n : Nat) : (State.hostTake s key n).mem = s.mem := by
  unfold State.hostTake
  simp
@[simp] theorem State.sendHost_mem (s : State) (key : Nat) (data : List Byte) : (State.sendHost s key data).mem = s.mem := by
  unfold State.sendHost
  split
  · simp
  · split <;> simp
@[simp] theorem State.performStore_wf (s : State) (k : Nat) (st : PStore) (id : Nat) (h : Memory.wf s.mem = true) :
    Memory.wf (s.performStore k st id).mem = true := by
  unfold State.performStore
  split
  · simp [h]
  · simp [h]
@[simp] theorem performChosen_wf (k : Nat) (l : List (Bool × PStore)) {s : State} (h : Memory.wf s.mem = true) :
    Memory.wf (performChosen k l s).2.mem = true := by
  induction l generalizing s with
  | nil => exact h
  | cons x l ih =>
    unfold performChosen
    split
    · exact h
    · split
      · exact ih (State.performStore_wf _ _ _ _ h)
      · exact ih h
@[simp] theorem State.settleOf_wf (s : State) (k : Nat) (h : Memory.wf s.mem = true) :
    Memory.wf (State.settleOf s k).mem = true := by
  unfold State.settleOf
  simp +contextual [h]
@[simp] theorem State.drain_wf (s : State) (k : Nat) (want : PStore → Bool) (h : Memory.wf s.mem = true) :
    Memory.wf (State.drain s k want).mem = true := by
  unfold State.drain
  simp +contextual [h]
@[simp] theorem State.drainStores_wf (s : State) (k : Nat) (h : Memory.wf s.mem = true) :
    Memory.wf (State.drainStores s k).mem = true := by
  unfold State.drainStores
  simp +contextual [h]
/-- An operation keeps a property of its state, whether it takes effect or fails. -/
structure Keeps {ε σ α : Type} (P : σ → Prop) (x : EStateM ε σ α) : Prop where
  run : ∀ s, P s → (∀ a t, x s = .ok a t → P t) ∧ ∀ e t, x s = .error e t → P t
/-- An outcome leaves memory canonical. -/
def OutWf : Host.Outcome State Fault Refusal → Prop
  | .next t => Memory.wf t.mem = true
  | _ => True
@[simp] theorem outWf_next (t : State) : OutWf (.next t) ↔ Memory.wf t.mem = true := Iff.rfl
@[simp] theorem outWf_fault (f : Fault) : OutWf (.fault f) := trivial
@[simp] theorem outWf_refused (f : Refusal) : OutWf (.refused f) := trivial
@[simp] theorem outWf_ite {c : Prop} [Decidable c] (x y : Host.Outcome State Fault Refusal) :
    OutWf (if c then x else y) ↔ if c then OutWf x else OutWf y := iff_of_eq (apply_ite ..)

section
variable {ε σ α β : Type} {P : σ → Prop}

theorem keeps_of_ok {x : EStateM ε σ α} {f : σ → α} {g : σ → σ} (hx : ∀ s, x s = .ok (f s) (g s))
    (hg : ∀ s, P s → P (g s)) : Keeps P x := by
  refine ⟨fun s hs => ⟨fun a t h => ?_, fun e t h => ?_⟩⟩
  · rw [hx] at h
    cases h
    exact hg s hs
  · rw [hx] at h
    cases h
@[simp] theorem keeps_pure (a : α) : Keeps P (pure a : EStateM ε σ α) := keeps_of_ok (fun _ => rfl) fun _ h => h
@[simp] theorem keeps_throw (e : ε) : Keeps P (throw e : EStateM ε σ α) := by
  refine ⟨fun s hs => ⟨fun a t h => ?_, fun e t h => ?_⟩⟩
  · cases h
  · cases h
    exact hs
theorem keeps_bind {x : EStateM ε σ α} {f : α → EStateM ε σ β} (hx : Keeps P x) (hf : ∀ a, Keeps P (f a)) : Keeps P (x >>= f) := by
  refine ⟨fun s hs => ?_⟩
  obtain ⟨hok, herr⟩ := hx.run s hs
  change (∀ b t, EStateM.bind x f s = .ok b t → P t) ∧ ∀ e t, EStateM.bind x f s = .error e t → P t
  unfold EStateM.bind
  cases h : x s with
  | ok a t => exact (hf a).run t (hok a t h)
  | error e t => exact ⟨nofun, fun e' t' h' => by cases h'; exact herr e t h⟩
@[simp] theorem keeps_ite {c : Prop} [Decidable c] (x y : EStateM ε σ α) :
    Keeps P (if c then x else y) ↔ if c then Keeps P x else Keeps P y :=
  iff_of_eq (apply_ite ..)
theorem keeps_forM {x : α → EStateM ε σ PUnit} (hx : ∀ a, Keeps P (x a)) (l : List α) : Keeps P (l.forM x) := by
  induction l with
  | nil => exact keeps_pure _
  | cons a l ih => exact keeps_bind (hx a) fun _ => ih
theorem keeps_mapM {x : α → EStateM ε σ β} (hx : ∀ a, Keeps P (x a)) (l : List α) : Keeps P (l.mapM x) := by
  induction l with
  | nil => exact keeps_pure _
  | cons a l ih =>
    rw [List.mapM_cons]
    exact keeps_bind (hx a) fun _ => keeps_bind ih fun _ => keeps_pure _
end

/-- What is done with the state that an operation has read rests on that state's memory being canonical. -/
theorem keeps_get {β : Type} {f : State → Op β} (hf : ∀ s, Memory.wf s.mem = true → Keeps State.Inv (f s)) : Keeps State.Inv (get >>= f) :=
  ⟨fun s hs => (hf s hs).run s hs⟩
@[simp] theorem keeps_get' : Keeps State.Inv (get : Op State) := keeps_of_ok (fun _ => rfl) fun _ h => h
@[simp] theorem keeps_set {t : State} (h : Memory.wf t.mem = true) :
    Keeps State.Inv (set t : Op PUnit) := keeps_of_ok (fun _ => rfl) fun _ _ => h
@[simp] theorem keeps_modify {f : State → State} (h : ∀ s, Memory.wf s.mem = true → Memory.wf (f s).mem = true) :
    Keeps State.Inv (modify f : Op PUnit) := keeps_of_ok (fun _ => rfl) h

@[simp] theorem trap_keeps {α : Type} (cause : Nat) (ak : Access) (a d : Nat) : Keeps State.Inv (trap cause ak a d : Op α) := keeps_throw _
@[simp] theorem post_keeps {α : Type} (cause : Nat) (ak : Access) (a d : Nat) : Keeps State.Inv (post cause ak a d : Op α) := keeps_throw _
@[simp] theorem waitFor_keeps {α : Type} (w : WaitFor) : Keeps State.Inv (waitFor w : Op α) := keeps_throw _
@[simp] theorem limit_keeps {α : Type} (reg field : Nat) : Keeps State.Inv (limit reg field : Op α) := keeps_throw _
@[simp] theorem limitField_keeps {α : Type} (reg bitPos : Nat) : Keeps State.Inv (limitField reg bitPos : Op α) := keeps_throw _
@[simp] theorem require_keeps (b : Bool) {e : Op Unit} (he : Keeps State.Inv e) : Keeps State.Inv (require b e) := by
  unfold require
  simp [he]
@[simp] theorem getT_keeps : Keeps State.Inv getT := keeps_of_ok op_getT fun _ h => h
@[simp] theorem modT_keeps (f : Tile → Tile) : Keeps State.Inv (modT f) := keeps_of_ok (op_modT f) fun _ h => h
@[simp] theorem me_keeps : Keeps State.Inv me := keeps_of_ok op_me fun _ h => h
@[simp] theorem freshWord_keeps : Keeps State.Inv freshWord := keeps_of_ok (fun _ => rfl) fun s h => h

end Sys2Proof.Machine
end

section
/-! Canonical memory: the engine, translation, faults, issue and the operations on memory. -/

namespace Sys2Proof.Machine

@[simp] theorem drainTo_wf (s : State) (k acc off w : Nat) (rm : Rm) (sat : Bool) (h : Memory.wf s.mem = true) :
    Memory.wf (drainTo s k acc off w rm sat).mem = true := by
  unfold drainTo
  dsimp only
  split
  · simp [h]
  · split
    · exact wf_foldl _ (fun s b h => by simp [h]) h
    · simp [h]
@[simp] theorem drained_wf (s : State) (k acc slot : Nat) (zero : Bool) (h : Memory.wf s.mem = true) :
    Memory.wf (drained s k acc slot zero).mem = true := by
  unfold drained
  simp +contextual [h]
@[simp] theorem State.gateRefuses_mem (s : State) (k : Nat) : (State.gateRefuses s k).mem = s.mem := by
  unfold State.gateRefuses
  simp
@[simp] theorem State.payOwed_mem (s : State) (k : Nat) (op : EngOp) (rest : List EngOp) : (State.payOwed s k op rest).mem = s.mem := by
  unfold State.payOwed
  simp
@[simp] theorem State.retire_wf (s : State) (k : Nat) (op : EngOp) (h : Memory.wf s.mem = true) :
    Memory.wf (s.retire k op).mem = true := by
  unfold State.retire
  split <;> simp [h]
@[simp] theorem State.engineStep_wf (s : State) (k : Nat) (h : Memory.wf s.mem = true) :
    Memory.wf (State.engineStep s k).mem = true := by
  unfold State.engineStep
  split <;> simp +contextual [h]
@[simp] theorem State.engineDrain_wf (s : State) (k : Nat) (h : Memory.wf s.mem = true) :
    Memory.wf (State.engineDrain s k).mem = true := by
  unfold State.engineDrain
  simp +contextual [h]
@[simp] theorem State.detachAll_mem (s : State) (leader : Nat) : (State.detachAll s leader).mem = s.mem := rfl
@[simp] theorem postFault_mem (s : State) (k : Nat) (r : TrapReport) (xfer : Bool) (len : Nat) :
    (postFault s k r xfer len).mem = s.mem := by
  unfold postFault
  simp
@[simp] theorem takeTrap_mem (s : State) (k : Nat) (r : TrapReport) (len : Nat) : (takeTrap s k r len).mem = s.mem := by
  unfold takeTrap
  simp
@[simp] theorem State.setPte_wf (s : State) (a e : Nat) (h : Memory.wf s.mem = true) :
    Memory.wf (State.setPte s a e).mem = true := by
  unfold State.setPte
  simp +contextual [h]
@[simp] theorem State.dropTlb_mem (s : State) (c : Nat) (which : TlbEntry → Bool) : (State.dropTlb s c which).mem = s.mem := rfl
@[simp] theorem State.mapTlb_mem (s : State) (f : TlbEntry → TlbEntry) : (State.mapTlb s f).mem = s.mem := rfl
@[simp] theorem State.clusterPut_mem (s : State) (c : Nat) (e : TlbEntry) : (State.clusterPut s c e).mem = s.mem := by
  unfold State.clusterPut
  dsimp only
  split
  · simp
  · split <;> simp
@[simp] theorem State.corePut_mem (s : State) (k : Nat) (inst : Bool) (e : TlbEntry) : (State.corePut s k inst e).mem = s.mem := rfl
@[simp] theorem State.tlbLookup_mem (s : State) (k : Nat) (inst : Bool) (p asid va : Nat) :
    (s.tlbLookup k inst p asid va).2.mem = s.mem := by
  unfold State.tlbLookup
  dsimp only
  generalize List.filter _ (if inst = true then _ else _) = near
  generalize List.filter _ (s.clusterTlb _) = far
  cases near with
  | nil =>
    cases far with
    | nil => rfl
    | cons e l => cases l <;> simp
  | cons e l => cases l <;> simp
theorem State.walkFill_wf {s t : State} {k p asid va need : Nat} {inst : Bool} {e : TlbEntry} (h : Memory.wf s.mem = true)
    (hw : s.walkFill k inst p asid va need = .ok (e, t)) : Memory.wf t.mem = true := by
  unfold State.walkFill at hw
  split at hw
  · cases hw
  · cases hw
    simp [h]
theorem State.setDirty_wf {s t : State} {e e' : TlbEntry} (h : Memory.wf s.mem = true) (hd : s.setDirty e = some (e', t)) :
    Memory.wf t.mem = true := by
  unfold State.setDirty at hd
  dsimp only at hd
  split at hd
  · cases hd
    simp [h]
  · cases hd
/-- A translation leaves memory canonical, whether it succeeds or fails. -/
def TransWf {α : Type} : Except TransFail (α × State) → Prop
  | .ok x => Memory.wf x.2.mem = true
  | .error f => Memory.wf f.s.mem = true
theorem State.fillTlb_wf (s : State) (k j : Nat) (inst : Bool) (va need : Nat) (re : Bool) (h : Memory.wf s.mem = true) :
    TransWf (s.fillTlb k j inst va need re) := by
  unfold State.fillTlb
  split
  · exact h
  · rename_i x hw
    exact State.walkFill_wf h hw
theorem State.dirtied_wf (s : State) (k j : Nat) (inst : Bool) (va need : Nat) (e : TlbEntry) (h : Memory.wf s.mem = true) :
    TransWf (s.dirtied k j inst va need e) := by
  unfold State.dirtied
  split
  · exact h
  · split
    · rename_i hd
      exact State.setDirty_wf h hd
    · have hfill := State.fillTlb_wf (s.dropTlb (clusterOf j) fun x => x.hits (s.partNo k) (s.tile k).asid va) k j inst va need false
        (by simpa using h)
      split
      · rename_i hf
        rwa [hf] at hfill
      · rename_i hf
        rw [hf] at hfill
        split
        · rename_i hd
          exact State.setDirty_wf hfill hd
        · exact hfill
theorem State.tableTranslate_wf (s : State) (k : Nat) (inst : Bool) (va need : Nat) (h : Memory.wf s.mem = true) :
    TransWf (s.tableTranslate k inst va need) := by
  have hlook : Memory.wf (s.tlbLookup (s.tlbCore k inst va) inst (s.partNo k) (s.tile k).asid va).2.mem = true := by simpa using h
  unfold State.tableTranslate
  dsimp only
  generalize s.tlbLookup (s.tlbCore k inst va) inst (s.partNo k) (s.tile k).asid va = look at hlook
  have hentry : TransWf (match look.1 with
      | none => look.2.fillTlb k (s.tlbCore k inst va) inst va need false
      | some e => if permits e.pte need then .ok (e, look.2)
        else State.fillTlb (look.2.dropTlb (clusterOf (s.tlbCore k inst va)) (fun x => x.hits (s.partNo k) (s.tile k).asid va))
          k (s.tlbCore k inst va) inst va need true) := by
    split
    · exact State.fillTlb_wf _ _ _ _ _ _ _ hlook
    · split
      · exact hlook
      · exact State.fillTlb_wf _ _ _ _ _ _ _ (by simpa using hlook)
  split
  · rename_i f hf
    exact (congrArg TransWf hf).mp hentry
  · rename_i e t ht
    have hd := State.dirtied_wf t k (s.tlbCore k inst va) inst va need e ((congrArg TransWf ht).mp hentry)
    split
    · rename_i hf
      rwa [hf] at hd
    · rename_i hf
      rw [hf] at hd
      split <;> exact hd
theorem State.translateAt_wf (s : State) (k : Nat) (inst : Bool) (va need : Nat) (h : Memory.wf s.mem = true) :
    TransWf (s.translateAt k inst va need) := by
  unfold State.translateAt
  split
  · split <;> exact h
  · exact h
  · exact State.tableTranslate_wf s k inst va need h
@[simp] theorem failTranslation_keeps {α : Type} {f : TransFail} (va : Nat) (ak : Access) (elem : Nat) (h : Memory.wf f.s.mem = true) :
    Keeps State.Inv (failTranslation f va ak elem : Op α) := by
  unfold failTranslation
  dsimp only
  split
  · exact keeps_bind (keeps_set h) fun _ => waitFor_keeps _
  · refine keeps_bind (keeps_set ?_) fun _ => post_keeps ..
    simp [h]
@[simp] theorem translate_keeps (inst : Bool) (va need : Nat) (ak : Access) (elem : Nat) :
    Keeps State.Inv (translate inst va need ak elem) := by
  unfold translate
  refine keeps_get fun s hs => ?_
  have htr := State.translateAt_wf s s.cur inst va need hs
  split
  · rename_i ht
    rw [ht] at htr
    exact keeps_bind (keeps_set htr) fun _ => keeps_pure _
  · rename_i ht
    rw [ht] at htr
    exact failTranslation_keeps va ak elem htr
@[simp] theorem checkCap_keeps (fld src : Nat) (c : Reg) (a n perms align : Nat) (ak : Access) (lane : Nat) :
    Keeps State.Inv (checkCap fld src c a n perms align ak lane) := by
  unfold checkCap
  repeat' with_reducible refine keeps_bind ?_ fun _ => ?_
  all_goals simp
@[simp] theorem State.consumed_mem (s : State) (key n : Nat) : (State.consumed s key n).mem = s.mem := rfl
@[simp] theorem engineOver_keeps (key n : Nat) (write : Bool) : Keeps State.Inv (engineOver key n write) := by
  unfold engineOver
  repeat' with_reducible refine keeps_bind ?_ fun _ => ?_
  all_goals simp
@[simp] theorem consume_keeps (key n : Nat) (ak : Access) (a : Nat) (repl : Bool) : Keeps State.Inv (consume key n ak a repl) := by
  unfold consume
  refine keeps_bind (engineOver_keeps ..) fun _ => keeps_get fun s hs => ?_
  dsimp only
  split
  · refine keeps_bind (keeps_set ?_) fun _ => trap_keeps ..
    simp [hs]
  · refine keeps_set ?_
    simp [hs]
@[simp] theorem consumePart_keeps (key n : Nat) (ak : Access) (a : Nat) (repl : Bool) : Keeps State.Inv (consumePart key n ak a repl) := by
  unfold consumePart
  refine keeps_bind (engineOver_keeps ..) fun _ => keeps_get fun s hs => ?_
  dsimp only
  split
  · refine keeps_bind (keeps_set ?_) fun _ => trap_keeps ..
    simp [hs]
  · refine keeps_set ?_
    simp [hs]
@[simp] theorem performFirst_keeps (want : PStore → Bool) : Keeps State.Inv (performFirst want) := by
  unfold performFirst
  repeat' first | with_reducible refine keeps_get fun s hs => ?_ | with_reducible refine keeps_bind ?_ fun _ => ?_
  all_goals simp [*]
@[simp] theorem performOver_keeps (key n : Nat) : Keeps State.Inv (performOver key n) := by
  unfold performOver
  repeat' with_reducible refine keeps_bind ?_ fun _ => ?_
  all_goals simp
@[simp] theorem readable_keeps (p : Phys) (n : Nat) (ak : Access) (a : Nat) : Keeps State.Inv (readable p n ak a) := by
  unfold readable
  repeat' first | with_reducible refine keeps_get fun s hs => ?_ | with_reducible refine keeps_bind ?_ fun _ => ?_ | split
  all_goals simp
@[simp] theorem loadAt_keeps (fld src a n : Nat) (ak : Access) (eng : Bool) (elem : Nat) :
    Keeps State.Inv (loadAt fld src a n ak eng elem) := by
  unfold loadAt
  repeat' first | with_reducible refine keeps_get fun s hs => ?_ | with_reducible refine keeps_bind ?_ fun _ => ?_ | split
  all_goals simp
@[simp] theorem State.noted_mem (s : State) (key n : Nat) : (State.noted s key n).mem = s.mem := by
  unfold State.noted
  simp
@[simp] theorem noteStore_keeps (key n : Nat) : Keeps State.Inv (noteStore key n) := by
  unfold noteStore
  simp
@[simp] theorem storeAt_keeps (fld src a : Nat) (data : List Byte) (ak : Access) (eng hard want : Bool) (elem : Nat) (gen : Option Nat) :
    Keeps State.Inv (storeAt fld src a data ak eng hard want elem gen) := by
  unfold storeAt
  dsimp only
  split
  · exact trap_keeps ..
  · simp
  · refine keeps_bind me_keeps fun k => keeps_bind (consumePart_keeps ..) fun _ => keeps_bind (noteStore_keeps ..) fun _ => ?_
    exact keeps_modify fun s h => State.writeKey_wf _ _ _ _ h
  · refine keeps_bind (translate_keeps ..) fun p => keeps_bind (consumePart_keeps ..) fun _ => keeps_bind (noteStore_keeps ..) fun _ => ?_
    exact modT_keeps _
@[simp] theorem load_keeps (fld src : Nat) (c : Reg) (a n perms align : Nat) (ak : Access) :
    Keeps State.Inv (load fld src c a n perms align ak) := by
  unfold load
  repeat' with_reducible refine keeps_bind ?_ fun _ => ?_
  all_goals simp
@[simp] theorem store_keeps (fld src : Nat) (c : Reg) (a : Nat) (data : List Byte) (perms align : Nat) (ak : Access) (want : Bool) :
    Keeps State.Inv (store fld src c a data perms align ak want) := by
  unfold store
  repeat' with_reducible refine keeps_bind ?_ fun _ => ?_
  all_goals simp
@[simp] theorem checkStream_keeps (n k : Nat) (g : Stream) : Keeps State.Inv (checkStream n k g) := by
  unfold checkStream
  simp
@[simp] theorem advance_keeps (k : Nat) : Keeps State.Inv (advance k) := by
  unfold advance
  simp
@[simp] theorem engineFirst_keeps : Keeps State.Inv engineFirst := by
  unfold engineFirst
  simp +contextual
@[simp] theorem readAhead_keeps (a n : Nat) (g : Stream) (b : List Byte) : Keeps State.Inv (readAhead a n g b) := by
  unfold readAhead
  refine keeps_get fun s hs => ?_
  dsimp only
  split
  · exact keeps_pure b
  · exact keeps_bind (keeps_set hs) fun _ => keeps_pure _
@[simp] theorem popStream_keeps (n k : Nat) (g : Stream) : Keeps State.Inv (popStream n k g) := by
  unfold popStream
  repeat' with_reducible refine keeps_bind ?_ fun _ => ?_
  all_goals simp
@[simp] theorem readW_keeps (n : Nat) : Keeps State.Inv (readW n) := by
  unfold readW
  repeat' first | with_reducible refine keeps_get fun s hs => ?_ | with_reducible refine keeps_bind ?_ fun _ => ?_ | split
  all_goals simp
@[simp] theorem readX_keeps (n : Nat) : Keeps State.Inv (readX n) := by
  unfold readX
  repeat' with_reducible refine keeps_bind ?_ fun _ => ?_
  all_goals simp
@[simp] theorem readN_keeps (n : Nat) : Keeps State.Inv (readN n) := by
  unfold readN
  repeat' with_reducible refine keeps_bind ?_ fun _ => ?_
  all_goals simp
@[simp] theorem writeW_keeps (n : Nat) (v : Reg) : Keeps State.Inv (writeW n v) := by
  unfold writeW
  repeat' first | with_reducible refine keeps_get fun s hs => ?_ | with_reducible refine keeps_bind ?_ fun _ => ?_ | split
  all_goals simp
@[simp] theorem writeX_keeps (n : Nat) (x : Word) : Keeps State.Inv (writeX n x) := by
  unfold writeX
  simp
@[simp] theorem writeN_keeps (n x : Nat) : Keeps State.Inv (writeN n x) := by
  unfold writeN
  simp
@[simp] theorem readP_keeps (n : Nat) : Keeps State.Inv (readP n) := by
  unfold readP
  repeat' with_reducible refine keeps_bind ?_ fun _ => ?_
  all_goals simp
@[simp] theorem writeP_keeps (n : Nat) (x : Word) : Keeps State.Inv (writeP n x) := by
  unfold writeP
  simp
@[simp] theorem hazard_keeps {α : Type} (reg hsub pos : Nat) (f : File) : Keeps State.Inv (hazard reg hsub pos f : Op α) := by
  unfold hazard
  simp
@[simp] theorem precheck_keeps (m : Meta) : Keeps State.Inv (precheck m) := by
  unfold precheck
  dsimp only
  repeat' first | with_reducible refine keeps_bind ?_ fun _ => ?_ | split
  all_goals simp
@[simp] theorem endRule_keeps : Keeps State.Inv endRule := by
  unfold endRule
  repeat' first | with_reducible refine keeps_get fun s hs => ?_ | with_reducible refine keeps_bind ?_ fun _ => ?_ | split
  all_goals simp
@[simp] theorem State.markLeaves_wf (s : State) (old new : List (Nat × List TlbEntry)) (h : Memory.wf s.mem = true) :
    Memory.wf (State.markLeaves s old new).mem = true := by
  unfold State.markLeaves
  simp +contextual [h]
@[simp] theorem rollback_wf (s t : State) (h : Memory.wf s.mem = true) : Memory.wf (rollback s t).mem = true := by
  unfold rollback
  simp [h]
@[simp] theorem settle_wf (m : Meta) (s : State) (h : Memory.wf s.mem = true) : Memory.wf (settle m s).mem = true := by
  have hdrain : Memory.wf (if m.sync || m.engine then s.engineDrain s.cur else s).mem = true := by simp [h]
  unfold settle
  dsimp only
  split
  · exact hdrain
  · exact State.drain_wf _ _ _ hdrain
/-- An instruction keeps memory canonical when its own operation does. -/
theorem issue_wf {m : Meta} {body : Op Flow} (hb : Keeps State.Inv body) {s : State} (h : Memory.wf s.mem = true) :
    OutWf (issue m body s) := by
  have hs := settle_wf m s h
  unfold issue
  dsimp only
  split
  · exact hs
  · obtain ⟨hok, herr⟩ := (keeps_bind (precheck_keeps m) fun _ => hb).run (settle m s) hs
    have hkept {t : State} (keep : Bool) (ht : Memory.wf t.mem = true) :
        Memory.wf (if keep then t else rollback (settle m s) t).mem = true := by simp [hs, ht]
    cases hx : (do precheck m; body : Op Flow) (settle m s) with
    | ok f t => exact hok f t hx
    | error e t =>
      have ht := herr e t hx
      cases e with
      | trap c ak a d keep =>
        have hu := State.engineDrain_wf _ (settle m s).cur (hkept keep ht)
        simp only [outWf_next, mem_ite (s := takeTrap ..), takeTrap_mem, State.modTile_mem, ite_self]
        exact hu
      | post c ak a d keep =>
        simp only [outWf_next, postFault_mem]
        exact hkept keep ht
      | wait w keep => exact hkept keep ht
      | fault f => trivial
@[simp] theorem fetchable_keeps (p : Phys) (n a : Nat) : Keeps State.Inv (fetchable p n a) := by
  unfold fetchable
  repeat' first | with_reducible refine keeps_get fun s hs => ?_ | with_reducible refine keeps_bind ?_ fun _ => ?_ | split
  all_goals simp
@[simp] theorem fetchBytes_keeps (a n : Nat) : Keeps State.Inv (fetchBytes a n) := by
  unfold fetchBytes
  repeat' first | with_reducible refine keeps_get fun s hs => ?_ | with_reducible refine keeps_bind ?_ fun _ => ?_ | split
  all_goals simp
@[simp] theorem parcelLength_keeps (a : Nat) : Keeps State.Inv (parcelLength a) := by
  unfold parcelLength
  repeat' with_reducible refine keeps_bind ?_ fun _ => ?_
  all_goals simp

end Sys2Proof.Machine
end

section
/-! Canonical memory: operands, lattice regions and tensor maps. -/

namespace Sys2Proof.Machine

/-- A lattice event's memory is canonical. -/
def LatInv (l : LatSt) : Prop := Memory.wf l.s.mem = true
theorem keeps_latGet {β : Type} {f : LatSt → Lat β} (hf : ∀ l, Keeps LatInv (f l)) : Keeps LatInv (get >>= f) :=
  ⟨fun l hl => (hf l).run l hl⟩
@[simp] theorem keeps_latGet' : Keeps LatInv (get : Lat LatSt) := keeps_of_ok (fun _ => rfl) fun _ h => h
@[simp] theorem keeps_latModify {f : LatSt → LatSt} (h : ∀ l, Memory.wf l.s.mem = true → Memory.wf (f l).s.mem = true) :
    Keeps LatInv (modify f : Lat PUnit) := keeps_of_ok (fun _ => rfl) h
@[simp] theorem badRegion_keeps {α : Type} (dsub : Nat) : Keeps LatInv (badRegion dsub : Lat α) := by
  unfold badRegion
  simp
@[simp] theorem sound_keeps (b : Bool) : Keeps LatInv (sound b) := by
  unfold sound
  simp
@[simp] theorem region_keeps : Keeps LatInv region := by
  unfold region
  repeat' with_reducible refine keeps_bind ?_ fun _ => ?_
  all_goals simp
@[simp] theorem modRegion_keeps (f : Region → Region) : Keeps LatInv (modRegion f) := by
  unfold modRegion
  simp
@[simp] theorem writeRegion_wf (s : State) (r : Region) (h : Memory.wf s.mem = true) : Memory.wf (writeRegion s r).mem = true :=
  State.writeNat_wf _ _ _ _ (wf_foldl _ (fun s _ h => State.writeNat_wf s _ _ _ h) h)
@[simp] theorem latBytes_keeps (key n : Nat) : Keeps LatInv (latBytes key n) := by
  unfold latBytes
  repeat' with_reducible refine keeps_bind ?_ fun _ => ?_
  all_goals simp
@[simp] theorem readNode_keeps (n : Nat) : Keeps LatInv (readNode n) := by
  unfold readNode
  repeat' with_reducible refine keeps_bind ?_ fun _ => ?_
  all_goals simp
@[simp] theorem readKind_keeps (k n : Nat) : Keeps LatInv (readKind k n) := by
  unfold readKind
  repeat' with_reducible refine keeps_bind ?_ fun _ => ?_
  all_goals simp
@[simp] theorem writeNode_keeps (n : Nat) (x : Node) : Keeps LatInv (writeNode n x) := by
  unfold writeNode
  simp +contextual
@[simp] theorem readCell_keeps (j : Nat) : Keeps LatInv (readCell j) := by
  unfold readCell
  repeat' with_reducible refine keeps_bind ?_ fun _ => ?_
  all_goals simp
@[simp] theorem writeCell_keeps (j : Nat) (b : List Byte) : Keeps LatInv (writeCell j b) := by
  unfold writeCell
  simp +contextual
@[simp] theorem freeNode_keeps (n : Nat) : Keeps LatInv (freeNode n) := by
  unfold freeNode
  repeat' with_reducible refine keeps_bind ?_ fun _ => ?_
  all_goals simp
@[simp] theorem searchFrom_keeps (k fuel n : Nat) (path : List (Nat × Nat)) : Keeps LatInv (searchFrom k fuel n path) := by
  induction fuel generalizing n path with
  | zero => exact badRegion_keeps _
  | succ fuel ih =>
    unfold searchFrom
    refine keeps_bind (readNode_keeps n) fun x => ?_
    split
    · exact keeps_pure _
    · split
      · exact ih ..
      · exact badRegion_keeps _
@[simp] theorem search_keeps (k : Nat) : Keeps LatInv (search k) := by
  unfold search
  repeat' with_reducible refine keeps_bind ?_ fun _ => ?_
  all_goals simp
@[simp] theorem lookup_keeps (k : Nat) : Keeps LatInv (lookup k) := by
  unfold lookup
  repeat' first | with_reducible refine keeps_get fun s hs => ?_ | with_reducible refine keeps_bind ?_ fun _ => ?_ | split
  all_goals simp
@[simp] theorem latLoad_keeps (k : Nat) : Keeps LatInv (latLoad k) := by
  unfold latLoad
  repeat' first | with_reducible refine keeps_get fun s hs => ?_ | with_reducible refine keeps_bind ?_ fun _ => ?_ | split
  all_goals simp
@[simp] theorem freeNodes_keeps (n h : Nat) : Keeps LatInv (freeNodes n h) := by
  induction n generalizing h with
  | zero => exact keeps_pure _
  | succ n ih =>
    unfold freeNodes
    split
    · exact keeps_pure _
    · exact keeps_bind (readKind_keeps ..) fun x => keeps_bind (ih _) fun l => keeps_bind (sound_keeps _) fun _ => keeps_pure _
@[simp] theorem fullNodes_keeps (path : List (Nat × Nat)) : Keeps LatInv (fullNodes path) := by
  induction path with
  | nil => exact keeps_pure _
  | cons p up ih =>
    unfold fullNodes
    refine keeps_bind (readKind_keeps ..) fun x => ?_
    split
    · exact keeps_pure _
    · exact keeps_bind ih fun _ => keeps_pure _
@[simp] theorem insertUp_keeps (path : List (Nat × Nat)) (alloc : List Nat) (sep right : Nat) :
    Keeps LatInv (insertUp path alloc sep right) := by
  induction path generalizing alloc sep right with
  | nil => exact keeps_bind region_keeps fun _ => keeps_bind (writeNode_keeps ..) fun _ => modRegion_keeps _
  | cons p up ih =>
    unfold insertUp
    refine keeps_bind (readKind_keeps ..) fun x => ?_
    dsimp only
    split
    · exact writeNode_keeps ..
    · exact keeps_bind (writeNode_keeps ..) fun _ => keeps_bind (writeNode_keeps ..) fun _ => keeps_bind (modRegion_keeps _) fun _ => ih ..
@[simp] theorem takeCell_keeps : Keeps LatInv takeCell := by
  unfold takeCell
  repeat' first | with_reducible refine keeps_get fun s hs => ?_ | with_reducible refine keeps_bind ?_ fun _ => ?_ | split
  all_goals simp
@[simp] theorem findPlace_keeps (k : Nat) : Keeps LatInv (findPlace k) := by
  unfold findPlace
  repeat' first | with_reducible refine keeps_get fun s hs => ?_ | with_reducible refine keeps_bind ?_ fun _ => ?_ | split
  all_goals simp
@[simp] theorem nodesNeeded_keeps (p : Found) : Keeps LatInv (nodesNeeded p) := by
  unfold nodesNeeded
  split
  · exact keeps_pure _
  · split
    · exact keeps_bind (fullNodes_keeps _) fun _ => keeps_pure _
    · exact keeps_pure _
@[simp] theorem insertReads_keeps (p : Found) : Keeps LatInv (insertReads p) := by
  unfold insertReads
  repeat' first | with_reducible refine keeps_get fun s hs => ?_ | with_reducible refine keeps_bind ?_ fun _ => ?_ | split
  all_goals simp
@[simp] theorem insertLeaf_keeps (k j : Nat) (path : List (Nat × Nat)) (leaf : Nat) (x : Node) (alloc : List Nat) :
    Keeps LatInv (insertLeaf k j path leaf x alloc) := by
  have hend (n sep : Nat) : Keeps LatInv (do
      modRegion (fun r => { r with splits := r.splits + 1 })
      insertUp path alloc.tail sep n) := keeps_bind (modRegion_keeps _) fun _ => insertUp_keeps ..
  unfold insertLeaf
  dsimp only
  split
  · exact writeNode_keeps ..
  · refine keeps_bind (writeNode_keeps ..) fun _ => keeps_bind (writeNode_keeps ..) fun _ => ?_
    split
    · exact keeps_bind (readKind_keeps ..) fun _ => keeps_bind (writeNode_keeps ..) fun _ => hend ..
    · exact hend ..
@[simp] theorem latInsert_keeps (k : Nat) (cell : List Byte) : Keeps LatInv (latInsert k cell) := by
  unfold latInsert
  refine keeps_bind region_keeps fun r => keeps_bind (findPlace_keeps _) fun found => keeps_bind (nodesNeeded_keeps _) fun need =>
    keeps_bind (insertReads_keeps _) fun _ => keeps_bind (freeNodes_keeps ..) fun x => ?_
  dsimp only
  split
  · exact keeps_throw _
  · refine keeps_bind takeCell_keeps fun j => keeps_bind (writeCell_keeps ..) fun _ => keeps_bind (modRegion_keeps _) fun _ => ?_
    split
    · exact keeps_bind (writeNode_keeps ..) fun _ => modRegion_keeps _
    · exact insertLeaf_keeps ..
@[simp] theorem dropChild_keeps (path : List (Nat × Nat)) : Keeps LatInv (dropChild path) := by
  induction path with
  | nil => exact modRegion_keeps _
  | cons p up ih =>
    unfold dropChild
    refine keeps_bind (readKind_keeps ..) fun x => ?_
    dsimp only
    split
    · exact keeps_bind (freeNode_keeps _) fun _ => ih
    · exact writeNode_keeps ..
@[simp] theorem lowerRoot_keeps (fuel : Nat) : Keeps LatInv (lowerRoot fuel) := by
  induction fuel with
  | zero => exact keeps_pure _
  | succ fuel ih =>
    unfold lowerRoot
    refine keeps_bind region_keeps fun r => ?_
    split
    · exact keeps_pure _
    · refine keeps_bind (readNode_keeps _) fun x => ?_
      split
      · exact keeps_bind (freeNode_keeps _) fun _ => keeps_bind (modRegion_keeps _) fun _ => ih
      · exact keeps_pure _
@[simp] theorem latDelete_keeps (k : Nat) : Keeps LatInv (latDelete k) := by
  unfold latDelete
  refine keeps_bind (search_keeps _) fun x => keeps_bind region_keeps fun r => keeps_bind (keeps_latModify fun l h => ?_) fun _ =>
    keeps_bind (modRegion_keeps _) fun _ => ?_
  · exact State.writeNat_wf _ _ _ _ h
  · have hlower : Keeps LatInv (do
        freeNode x.2.1
        dropChild x.1
        lowerRoot maxHeight) :=
      keeps_bind (freeNode_keeps _) fun _ => keeps_bind (dropChild_keeps _) fun _ => lowerRoot_keeps _
    dsimp only
    repeat' first | with_reducible refine keeps_bind (readKind_keeps ..) fun _ => keeps_bind (writeNode_keeps ..) fun _ => ?_ | split
    all_goals first | exact hlower | exact writeNode_keeps ..
@[simp] theorem latStore_keeps (k : Nat) (l : List Nat) : Keeps LatInv (latStore k l) := by
  unfold latStore
  repeat' first | with_reducible refine keeps_get fun s hs => ?_ | with_reducible refine keeps_bind ?_ fun _ => ?_ | split
  all_goals simp
@[simp] theorem latAdd_keeps (k : Nat) (addend : List Nat) : Keeps LatInv (latAdd k addend) := by
  unfold latAdd
  repeat' with_reducible refine keeps_bind ?_ fun _ => ?_
  all_goals simp
@[simp] theorem scanLeaves_keeps (above : Nat → Bool) (fuel : Nat) (x : Node) : Keeps LatInv (scanLeaves above fuel x) := by
  induction fuel generalizing x with
  | zero => exact badRegion_keeps _
  | succ fuel ih =>
    unfold scanLeaves
    split
    · exact keeps_pure _
    · split
      · exact keeps_pure _
      · exact keeps_bind (readKind_keeps ..) fun y => ih y
@[simp] theorem latScan_keeps (started : Bool) (cursor : Nat) : Keeps LatInv (latScan started cursor) := by
  unfold latScan
  repeat' first | with_reducible refine keeps_get fun s hs => ?_ | with_reducible refine keeps_bind ?_ fun _ => ?_ | split
  all_goals simp
@[simp] theorem badKey_keeps {α : Type} (dim : Nat) (box : Bool) : Keeps LatInv (badKey dim box : Lat α) := by
  unfold badKey
  simp
@[simp] theorem checkKey_keeps (k : Nat) : Keeps LatInv (checkKey k) := by
  unfold checkKey
  repeat' with_reducible refine keeps_bind ?_ fun _ => ?_
  all_goals simp
@[simp] theorem checkBox_keeps (lo ext : List Nat) : Keeps LatInv (checkBox lo ext) := by
  unfold checkBox
  repeat' first | with_reducible refine keeps_get fun s hs => ?_ | with_reducible refine keeps_bind ?_ fun _ => ?_ | split
  all_goals simp
@[simp] theorem boxElems_keeps (lo ext : List Nat) : Keeps LatInv (boxElems lo ext) := by
  unfold boxElems
  refine keeps_bind region_keeps fun r => keeps_bind (keeps_mapM (fun x => keeps_mapM (fun i => ?_) _) _) fun _ => keeps_pure _
  exact keeps_bind (latLoad_keeps _) fun _ => keeps_pure _
theorem runLattice_wf {α : Type} {s t : State} {key : Nat} {op : Lat α} {a : α} (hop : Keeps LatInv op) (h : Memory.wf s.mem = true)
    (hr : runLattice s key op = .ok (a, t)) : Memory.wf t.mem = true := by
  unfold runLattice at hr
  split at hr
  · cases hr
  · dsimp only at hr
    split at hr
    · cases hr
    · split at hr
      · rename_i l hl
        have hw : Memory.wf l.s.mem = true := (hop.run ⟨readRegion s key, s⟩ h).1 _ _ hl
        cases hr
        simp [hw]
      · cases hr
@[simp] theorem latGrow_keeps (ncap ccap : Nat) : Keeps LatInv (latGrow ncap ccap) := by
  unfold latGrow
  repeat' with_reducible refine keeps_bind ?_ fun _ => ?_
  all_goals simp
@[simp] theorem seqFlow_keeps : Keeps State.Inv seqFlow := by
  unfold seqFlow
  simp
@[simp] theorem ea_keeps (u lg : Nat) (m : Mem) : Keeps State.Inv (ea u lg m) := by
  unfold ea
  repeat' first | with_reducible refine keeps_get fun s hs => ?_ | with_reducible refine keeps_bind ?_ fun _ => ?_ | split
  all_goals simp
@[simp] theorem updateBase_keeps (m : Mem) (e : Ea) : Keeps State.Inv (updateBase m e) := by
  unfold updateBase
  repeat' first | with_reducible refine keeps_get fun s hs => ?_ | with_reducible refine keeps_bind ?_ fun _ => ?_ | split
  all_goals simp
@[simp] theorem zeroField_keeps (reg x lo hi : Nat) : Keeps State.Inv (zeroField reg x lo hi) := by
  unfold zeroField
  simp
@[simp] theorem fieldOk_keeps (reg lo : Nat) (b : Bool) : Keeps State.Inv (fieldOk reg lo b) := by
  unfold fieldOk
  simp
@[simp] theorem readBlock_keeps (reg : Nat) (c : Reg) (n perms align : Nat) (ak : Access) :
    Keeps State.Inv (readBlock reg c n perms align ak) := by
  unfold readBlock
  repeat' with_reducible refine keeps_bind ?_ fun _ => ?_
  all_goals simp
@[simp] theorem noWindow_keeps {α : Type} (reg a : Nat) (ak : Access) (lane : Nat) : Keeps State.Inv (noWindow reg a ak lane : Op α) := by
  unfold noWindow
  simp
@[simp] theorem inWindow_keeps (reg a n : Nat) (ak : Access) : Keeps State.Inv (inWindow reg a n ak) := by
  unfold inWindow
  repeat' first | with_reducible refine keeps_get fun s hs => ?_ | with_reducible refine keeps_bind ?_ fun _ => ?_ | split
  all_goals simp
@[simp] theorem engineConsume_keeps (key n a : Nat) (repl : Bool) : Keeps State.Inv (engineConsume key n a repl) := by
  unfold engineConsume
  refine keeps_bind (engineOver_keeps ..) fun _ => keeps_get fun s hs => ?_
  dsimp only
  split
  · refine keeps_bind (keeps_set ?_) fun _ => post_keeps ..
    simp [hs]
  · refine keeps_set ?_
    simp [hs]
@[simp] theorem readMap_keeps (k : Nat) : Keeps State.Inv (readMap k) := by
  unfold readMap
  refine keeps_get fun s hs => keeps_bind (engineConsume_keeps ..) fun _ => ?_
  dsimp only
  repeat' with_reducible refine keeps_bind ?_ fun _ => ?_
  all_goals simp
/-- Translated pieces leave memory canonical, whether they are found or not. -/
def PiecesWf {α : Type} : Except (Nat × TransFail) (α × State) → Prop
  | .ok x => Memory.wf x.2.mem = true
  | .error f => Memory.wf f.2.s.mem = true
theorem State.pieces_wf (k need fuel va n : Nat) {s : State} (h : Memory.wf s.mem = true) : PiecesWf (s.pieces k need fuel va n) := by
  induction fuel generalizing s va n with
  | zero => exact h
  | succ fuel ih =>
    unfold State.pieces
    split
    · exact h
    · have htr := State.translateAt_wf s k false va need h
      dsimp only
      split
      · rename_i ht
        rwa [ht] at htr
      · rename_i p s' ht
        rw [ht] at htr
        have hp := ih (va + min n (65536 - va % 65536)) (n - min n (65536 - va % 65536)) htr
        split
        · rename_i hl
          rwa [hl] at hp
        · rename_i hl
          rwa [hl] at hp
@[simp] theorem engineRead_keeps (reg a n : Nat) : Keeps State.Inv (engineRead reg a n) := by
  unfold engineRead
  split
  · exact trap_keeps ..
  · exact keeps_bind me_keeps fun k => keeps_bind (engineConsume_keeps ..) fun _ => keeps_get fun s _ => keeps_pure _
  · exact keeps_get fun s _ => keeps_pure _
  · refine keeps_get fun s hs => ?_
    have hp := State.pieces_wf s.cur (needR + needEng) (pagesOf n) a n hs
    split
    · rename_i hl
      rw [hl] at hp
      exact failTranslation_keeps _ _ _ hp
    · rename_i hl
      rw [hl] at hp
      refine keeps_bind (keeps_set hp) fun _ => keeps_bind (keeps_forM (fun p => performOver_keeps ..) _) fun _ => keeps_get fun t _ => ?_
      have hread {l : List Piece} : Keeps State.Inv (do
          l.forM (fun p => engineConsume p.key p.len p.va p.repl)
          let s ← get
          pure (l.flatMap (fun p => s.readAt p.key p.len)) : Op (List Byte)) :=
        keeps_bind (keeps_forM (fun p => engineConsume_keeps ..) _) fun _ => keeps_get fun s _ => keeps_pure _
      split
      · exact keeps_bind (waitFor_keeps _) fun _ => hread
      · exact hread
@[simp] theorem xferId_keeps : Keeps State.Inv xferId := by
  unfold xferId
  repeat' first | with_reducible refine keeps_get fun s hs => ?_ | with_reducible refine keeps_bind ?_ fun _ => ?_
  all_goals simp [*]
@[simp] theorem ringTrap_keeps {α : Type} (q reason : Nat) : Keeps State.Inv (ringTrap q reason : Op α) := by
  unfold ringTrap
  simp
@[simp] theorem ringUsed_keeps (q : Nat) : Keeps State.Inv (ringUsed q) := by
  unfold ringUsed
  repeat' with_reducible refine keeps_bind ?_ fun _ => ?_
  all_goals simp
@[simp] theorem slotHolds_keeps (q slot n : Nat) : Keeps State.Inv (slotHolds q slot n) := by
  unfold slotHolds
  repeat' with_reducible refine keeps_bind ?_ fun _ => ?_
  all_goals simp
@[simp] theorem accMode_keeps (n : Nat) (ok : Nat → Bool) : Keeps State.Inv (accMode n ok) := by
  unfold accMode
  repeat' with_reducible refine keeps_bind ?_ fun _ => ?_
  all_goals simp
@[simp] theorem windowTrap_keeps {α : Type} (reg w : Nat) : Keeps State.Inv (windowTrap reg w : Op α) := by
  unfold windowTrap
  simp
@[simp] theorem windowsOk_keeps (reg n : Nat) (ws : List Nat) : Keeps State.Inv (windowsOk reg n ws) := by
  unfold windowsOk
  repeat' first | with_reducible refine keeps_get fun s hs => ?_ | with_reducible refine keeps_bind ?_ fun _ => ?_ | split
  all_goals simp
@[simp] theorem scalesOk_keeps (reg w off n : Nat) : Keeps State.Inv (scalesOk reg w off n) := by
  unfold scalesOk
  repeat' with_reducible refine keeps_bind ?_ fun _ => ?_
  all_goals simp
@[simp] theorem slotReady_keeps (slot : Nat) : Keeps State.Inv (slotReady slot) := by
  unfold slotReady
  repeat' with_reducible refine keeps_bind ?_ fun _ => ?_
  all_goals simp
@[simp] theorem slotEmpty_keeps (slot : Nat) : Keeps State.Inv (slotEmpty slot) := by
  unfold slotEmpty
  repeat' with_reducible refine keeps_bind ?_ fun _ => ?_
  all_goals simp
@[simp] theorem slotSound_keeps (slot w n : Nat) : Keeps State.Inv (slotSound slot w n) := by
  unfold slotSound
  repeat' with_reducible refine keeps_bind ?_ fun _ => ?_
  all_goals simp
@[simp] theorem spend_keeps (n : Nat) : Keeps State.Inv (spend n) := by
  unfold spend
  repeat' first | with_reducible refine keeps_get fun s hs => ?_ | with_reducible refine keeps_bind ?_ fun _ => ?_ | split | dsimp only
  all_goals simp
@[simp] theorem issueEngine_keeps (op : EngOp) : Keeps State.Inv (issueEngine op) := by
  unfold issueEngine
  simp
@[simp] theorem sampleRm_keeps : Keeps State.Inv sampleRm := by
  unfold sampleRm
  repeat' with_reducible refine keeps_bind ?_ fun _ => ?_
  all_goals simp
@[simp] theorem destCore_keeps (reg lo name : Nat) : Keeps State.Inv (destCore reg lo name) := by
  unfold destCore
  repeat' first | with_reducible refine keeps_get fun s hs => ?_ | with_reducible refine keeps_bind ?_ fun _ => ?_ | split
  all_goals simp
@[simp] theorem postLattice_keeps {α : Type} (xa xb a : Nat) (ak : Access) (e : LatFail) :
    Keeps State.Inv (postLattice xa xb a ak e : Op α) := by
  unfold postLattice
  repeat' first | with_reducible refine keeps_get fun s hs => ?_ | with_reducible refine keeps_bind ?_ fun _ => ?_ | split
  all_goals simp
@[simp] theorem regionKey_keeps (xa xb a : Nat) (ak : Access) (need : Nat) : Keeps State.Inv (regionKey xa xb a ak need) := by
  unfold regionKey
  repeat' first | with_reducible refine keeps_get fun s hs => ?_ | with_reducible refine keeps_bind ?_ fun _ => ?_ | split
  all_goals simp
theorem coreLattice_keeps {α : Type} (xa xb a : Nat) (ak : Access) (key : Nat) {op : Lat α} (hop : Keeps LatInv op) :
    Keeps State.Inv (coreLattice xa xb a ak key op) := by
  have hend {s : State} (hs : Memory.wf s.mem = true) {r : Except LatFail (α × State)} (hr : runLattice s key op = r) :
      Keeps State.Inv (match r with
        | .error e => postLattice xa xb a ak e
        | .ok (x, s') => do
          set s'
          pure x) := by
    cases r with
    | error e => exact postLattice_keeps ..
    | ok x => exact keeps_bind (keeps_set (runLattice_wf hop hs hr)) fun _ => keeps_pure _
  unfold coreLattice
  refine keeps_bind (performOver_keeps ..) fun _ => keeps_get fun s hs => ?_
  dsimp only
  split
  · exact keeps_bind (waitFor_keeps _) fun _ => hend hs rfl
  · exact hend hs rfl
@[simp] theorem latticeDone_keeps : Keeps State.Inv latticeDone := by
  unfold latticeDone
  simp

end Sys2Proof.Machine
end

section
/-! Canonical memory: transfers, synchronisation, barriers, chords and tokens. -/

namespace Sys2Proof.Machine

theorem State.places_wf {s : State} (k need va n : Nat) (h : Memory.wf s.mem = true) : PiecesWf (s.places k need va n) := by
  unfold State.places
  split
  · exact h
  · exact State.pieces_wf k need _ va n h
theorem State.places_ok_wf {s t : State} {k need va n : Nat} {l : List Piece} (h : Memory.wf s.mem = true)
    (hl : s.places k need va n = .ok (l, t)) : Memory.wf t.mem = true := (congrArg PiecesWf hl).mp (State.places_wf k need va n h)
@[simp] theorem State.mendPieces_mem (s : State) (k c : Nat) (l : List Piece) : (State.mendPieces s k c l).mem = s.mem := by
  unfold State.mendPieces
  simp
theorem State.fetchPlace_wf {s t : State} {k id : Nat} {e : XElem} {b : List Byte} (h : Memory.wf s.mem = true)
    (hf : s.fetchPlace k id e = .ok (b, t)) : Memory.wf t.mem = true := by
  unfold State.fetchPlace at hf
  split at hf
  · cases hf
    exact h
  · split at hf <;> cases hf
    exact h
  · split at hf
    · cases hf
    · rename_i l u hl
      have hu : Memory.wf (u.mendPieces k (dieOf k) l).mem = true := by simp [State.places_ok_wf h hl]
      dsimp only at hf
      split at hf
      · cases hf
      · split at hf <;> cases hf
        exact hu
  · cases hf
    exact h
@[simp] theorem State.writePieces_wf (s : State) (k id : Nat) (l : List Piece) (b : List Byte) (h : Memory.wf s.mem = true) :
    Memory.wf (s.writePieces k id l b).mem = true := by
  induction l generalizing s b with
  | nil => exact h
  | cons p l ih => exact ih _ _ (State.performStore_wf _ _ _ _ h)
theorem State.putVirt_wf {s t : State} {k id index va need : Nat} {b : List Byte} (h : Memory.wf s.mem = true)
    (hp : s.putVirt k id index va need b = .ok t) : Memory.wf t.mem = true := by
  unfold State.putVirt at hp
  split at hp
  · cases hp
  · rename_i l u hl
    have hu : Memory.wf (u.mendPieces k 56 l).mem = true := by simp [State.places_ok_wf h hl]
    dsimp only at hp
    split at hp
    · cases hp
    · split at hp <;> cases hp
      exact State.writePieces_wf _ _ _ _ _ hu
theorem State.moveElem_wf {s t : State} {k : Nat} {x : Xfer} {e : XElem} (h : Memory.wf s.mem = true)
    (hm : s.moveElem k x e = .ok t) : Memory.wf t.mem = true := by
  unfold State.moveElem at hm
  split at hm
  · cases hm
  · rename_i b u hb
    have hu := State.fetchPlace_wf h hb
    dsimp only at hm
    split at hm
    · split at hm <;> cases hm
      exact State.writeKey_wf _ _ _ _ hu
    · exact State.putVirt_wf hu hm
    · split at hm
      · cases hm
      · rename_i l v hl
        have hv : Memory.wf (v.mendPieces k 56 l).mem = true := by simp [State.places_ok_wf hu hl]
        split at hm
        · cases hm
        · split at hm
          · cases hm
          · split at hm
            · split at hm
              · cases hm
              · rename_i w hw
                cases hm
                exact State.writePieces_wf _ _ _ _ _ (State.putVirt_wf hv hw)
            · cases hm
              exact State.writePieces_wf _ _ _ _ _ hv
    · split at hm <;> cases hm
      exact State.writeKey_wf _ _ _ _ hu
    · split at hm <;> cases hm
      exact hu
    · cases hm
      exact hu
@[simp] theorem State.modXfer_mem (s : State) (k i : Nat) (f : Xfer → Xfer) : (State.modXfer s k i f).mem = s.mem := rfl
@[simp] theorem State.refuseXfer_mem (s : State) (k i : Nat) : (State.refuseXfer s k i).mem = s.mem := rfl
@[simp] theorem State.endXfer_wf (s : State) (k i : Nat) (x : Xfer) (h : Memory.wf s.mem = true) :
    Memory.wf (State.endXfer s k i x).mem = true := by
  unfold State.endXfer
  repeat' split
  all_goals simp +contextual [h]
@[simp] theorem State.stopXfer_mem (s : State) (k i : Nat) (x : Xfer) (cause : Nat) (ak : Access) (addr detail : Nat) :
    (State.stopXfer s k i x cause ak addr detail).mem = s.mem := by
  unfold State.stopXfer
  simp
@[simp] theorem State.moveAll_wf (s : State) (k i : Nat) (x : Xfer) (l : List XElem) (h : Memory.wf s.mem = true) :
    Memory.wf (s.moveAll k i x l).mem = true := by
  induction l generalizing s with
  | nil =>
    unfold State.moveAll
    simp [h]
  | cons e l ih =>
    unfold State.moveAll
    split
    · rename_i t ht
      exact ih t (State.moveElem_wf h ht)
    · simpa using h
    · simpa using h
@[simp] theorem xferFirst_keeps (x : Xfer) : Keeps State.Inv (xferFirst x) := by
  unfold xferFirst
  repeat' first | with_reducible refine keeps_get fun s hs => ?_ | with_reducible refine keeps_bind ?_ fun _ => ?_ | split | dsimp only
  all_goals simp
theorem State.openLocal_mem {s t : State} {k : Nat} {x : Xfer} (h : s.openLocal k x = some t) : t.mem = s.mem := by
  unfold State.openLocal at h
  split at h
  · cases h
    rfl
  · dsimp only at h
    split at h
    · cases h
      rfl
    · split at h <;> cases h
      rfl
theorem State.openRemote_mem {s t : State} {c q n sl : Nat} (h : s.openRemote c q n = some (sl, t)) : t.mem = s.mem := by
  unfold State.openRemote at h
  dsimp only at h
  split at h <;> cases h
  rfl
@[simp] theorem State.runXfer_wf (s : State) (k i : Nat) (x : Xfer) (h : Memory.wf s.mem = true) :
    Memory.wf (s.runXfer k i x).mem = true := by
  unfold State.runXfer
  split
  · simp [h]
  · split
    · simp [h]
    · split
      · split
        · simp [h]
        · rename_i hr
          have hm := State.openRemote_mem hr
          simp [hm, h]
      · simp [h]
@[simp] theorem State.completeXfer_wf (s : State) (k i : Nat) (h : Memory.wf s.mem = true) :
    Memory.wf (s.completeXfer k i).mem = true := by
  unfold State.completeXfer
  split
  · exact h
  · split
    · exact h
    · split
      · exact h
      · rename_i hl
        have hm := State.openLocal_mem hl
        simp [hm, h]
@[simp] theorem State.skipXfer_wf (s : State) (k i : Nat) (h : Memory.wf s.mem = true) :
    Memory.wf (State.skipXfer s k i).mem = true := by
  unfold State.skipXfer
  split <;> simp +contextual [h]
@[simp] theorem execFence_wf (kinds : BitVec 6) (w : Bool) (scope : Scope) (sw : Bool) (s : State) (h : Memory.wf s.mem = true) :
    OutWf (execFence kinds w scope sw s) := by
  unfold execFence
  refine issue_wf ?_ h
  repeat' first | with_reducible refine keeps_get fun s hs => ?_ | with_reducible refine keeps_bind ?_ fun _ => ?_ | split
  all_goals simp
@[simp] theorem acquireOp_wf (minor lg : Nat) (d b : Fin 64) (sw : Bool) (s : State) (h : Memory.wf s.mem = true) :
    OutWf (acquireOp minor lg d b sw s) := by
  unfold acquireOp
  refine issue_wf ?_ h
  repeat' with_reducible refine keeps_bind ?_ fun _ => ?_
  all_goals simp
@[simp] theorem releaseOp_wf (minor lg : Nat) (t b : Fin 64) (scope : Scope) (sw : Bool) (s : State) (h : Memory.wf s.mem = true) :
    OutWf (releaseOp minor lg t b scope sw s) := by
  unfold releaseOp
  refine issue_wf ?_ h
  repeat' with_reducible refine keeps_bind ?_ fun _ => ?_
  all_goals simp
@[simp] theorem execLdAqB_wf (d b : Fin 64) (_scope : Scope) (sw : Bool) (s : State) (h : Memory.wf s.mem = true) :
    OutWf (execLdAqB d b _scope sw s) := by
  unfold execLdAqB
  simp +contextual [h]
@[simp] theorem execLdAqH_wf (d b : Fin 64) (_scope : Scope) (sw : Bool) (s : State) (h : Memory.wf s.mem = true) :
    OutWf (execLdAqH d b _scope sw s) := by
  unfold execLdAqH
  simp +contextual [h]
@[simp] theorem execLdAqW_wf (d b : Fin 64) (_scope : Scope) (sw : Bool) (s : State) (h : Memory.wf s.mem = true) :
    OutWf (execLdAqW d b _scope sw s) := by
  unfold execLdAqW
  simp +contextual [h]
@[simp] theorem execLdAq_wf (d b : Fin 64) (_scope : Scope) (sw : Bool) (s : State) (h : Memory.wf s.mem = true) :
    OutWf (execLdAq d b _scope sw s) := by
  unfold execLdAq
  simp +contextual [h]
@[simp] theorem execStRlB_wf (t b : Fin 64) (scope : Scope) (sw : Bool) (s : State) (h : Memory.wf s.mem = true) :
    OutWf (execStRlB t b scope sw s) := by
  unfold execStRlB
  simp +contextual [h]
@[simp] theorem execStRlH_wf (t b : Fin 64) (scope : Scope) (sw : Bool) (s : State) (h : Memory.wf s.mem = true) :
    OutWf (execStRlH t b scope sw s) := by
  unfold execStRlH
  simp +contextual [h]
@[simp] theorem execStRlW_wf (t b : Fin 64) (scope : Scope) (sw : Bool) (s : State) (h : Memory.wf s.mem = true) :
    OutWf (execStRlW t b scope sw s) := by
  unfold execStRlW
  simp +contextual [h]
@[simp] theorem execStRl_wf (t b : Fin 64) (scope : Scope) (sw : Bool) (s : State) (h : Memory.wf s.mem = true) :
    OutWf (execStRl t b scope sw s) := by
  unfold execStRl
  simp +contextual [h]
@[simp] theorem rmwAt_keeps (reg a n : Nat) (f : Nat → Option Nat) : Keeps State.Inv (rmwAt reg a n f) := by
  unfold rmwAt
  split
  · exact trap_keeps ..
  · exact trap_keeps ..
  · refine keeps_bind me_keeps fun k => keeps_bind (consume_keeps ..) fun _ => keeps_get fun s hs => ?_
    dsimp only
    split
    · refine keeps_bind (noteStore_keeps ..) fun _ => keeps_bind (keeps_modify fun t ht => ?_) fun _ => keeps_pure _
      exact State.writeNat_wf _ _ _ _ ht
    · exact keeps_pure _
  · refine keeps_bind (translate_keeps ..) fun p => keeps_bind (performOver_keeps ..) fun _ => keeps_get fun s hs => ?_
    have hset : Keeps State.Inv (set (s.mend s.cur 56 p.key n p.repl) : Op PUnit) := keeps_set (by simp [hs])
    repeat' first
      | with_reducible refine keeps_get fun t ht => ?_
      | with_reducible refine keeps_bind ?_ fun _ => ?_
      | split
      | dsimp only
    all_goals first
      | exact hset
      | simp only [waitFor_keeps, consume_keeps, noteStore_keeps, keeps_pure]
      | refine keeps_set ?_; simp [*]
@[simp] theorem amoOp_wf (minor : Nat) (d b : Fin 64) (z : Bool) (scope : Scope) (ord : AmoOrd) (sw : Bool)
    (f : (w : Nat) → BitVec w → BitVec w → BitVec w) (s : State) (h : Memory.wf s.mem = true) :
    OutWf (amoOp minor d b z scope ord sw f s) := by
  unfold amoOp
  refine issue_wf ?_ h
  repeat' with_reducible refine keeps_bind ?_ fun _ => ?_
  all_goals simp
@[simp] theorem execAmoAdd_wf (d b : Fin 64) (z : Bool) (scope : Scope) (ord : AmoOrd) (sw : Bool) (s : State) (h : Memory.wf s.mem = true) :
    OutWf (execAmoAdd d b z scope ord sw s) := by
  unfold execAmoAdd
  simp +contextual [h]
@[simp] theorem execAmoAnd_wf (d b : Fin 64) (z : Bool) (scope : Scope) (ord : AmoOrd) (sw : Bool) (s : State) (h : Memory.wf s.mem = true) :
    OutWf (execAmoAnd d b z scope ord sw s) := by
  unfold execAmoAnd
  simp +contextual [h]
@[simp] theorem execAmoOr_wf (d b : Fin 64) (z : Bool) (scope : Scope) (ord : AmoOrd) (sw : Bool) (s : State) (h : Memory.wf s.mem = true) :
    OutWf (execAmoOr d b z scope ord sw s) := by
  unfold execAmoOr
  simp +contextual [h]
@[simp] theorem execAmoXor_wf (d b : Fin 64) (z : Bool) (scope : Scope) (ord : AmoOrd) (sw : Bool) (s : State) (h : Memory.wf s.mem = true) :
    OutWf (execAmoXor d b z scope ord sw s) := by
  unfold execAmoXor
  simp +contextual [h]
@[simp] theorem execAmoMin_wf (d b : Fin 64) (z : Bool) (scope : Scope) (ord : AmoOrd) (sw : Bool) (s : State) (h : Memory.wf s.mem = true) :
    OutWf (execAmoMin d b z scope ord sw s) := by
  unfold execAmoMin
  simp +contextual [h]
@[simp] theorem execAmoMax_wf (d b : Fin 64) (z : Bool) (scope : Scope) (ord : AmoOrd) (sw : Bool) (s : State) (h : Memory.wf s.mem = true) :
    OutWf (execAmoMax d b z scope ord sw s) := by
  unfold execAmoMax
  simp +contextual [h]
@[simp] theorem execAmoMinu_wf (d b : Fin 64) (z : Bool) (scope : Scope) (ord : AmoOrd) (sw : Bool) (s : State)
    (h : Memory.wf s.mem = true) : OutWf (execAmoMinu d b z scope ord sw s) := by
  unfold execAmoMinu
  simp +contextual [h]
@[simp] theorem execAmoMaxu_wf (d b : Fin 64) (z : Bool) (scope : Scope) (ord : AmoOrd) (sw : Bool) (s : State)
    (h : Memory.wf s.mem = true) : OutWf (execAmoMaxu d b z scope ord sw s) := by
  unfold execAmoMaxu
  simp +contextual [h]
@[simp] theorem execAmoSwap_wf (d b : Fin 64) (z : Bool) (scope : Scope) (ord : AmoOrd) (sw : Bool) (s : State)
    (h : Memory.wf s.mem = true) : OutWf (execAmoSwap d b z scope ord sw s) := by
  unfold execAmoSwap
  simp +contextual [h]
@[simp] theorem execCas_wf (d b n : Fin 64) (scope : Scope) (ord : AmoOrd) (sw : Bool) (s : State) (h : Memory.wf s.mem = true) :
    OutWf (execCas d b n scope ord sw s) := by
  unfold execCas
  refine issue_wf ?_ h
  repeat' with_reducible refine keeps_bind ?_ fun _ => ?_
  all_goals simp
@[simp] theorem execSbind_wf (n d : Fin 64) (sw : Bool) (s : State) (h : Memory.wf s.mem = true) : OutWf (execSbind n d sw s) := by
  unfold execSbind
  refine issue_wf ?_ h
  repeat' with_reducible refine keeps_bind ?_ fun _ => ?_
  all_goals simp
@[simp] theorem execSunbind_wf (n : Fin 64) (sw : Bool) (s : State) (h : Memory.wf s.mem = true) : OutWf (execSunbind n sw s) := by
  unfold execSunbind
  refine issue_wf ?_ h
  repeat' first | with_reducible refine keeps_get fun s hs => ?_ | with_reducible refine keeps_bind ?_ fun _ => ?_ | split
  all_goals simp
@[simp] theorem execSstat_wf (d : Fin 64) (k : Fin 8) (sw : Bool) (s : State) (h : Memory.wf s.mem = true) :
    OutWf (execSstat d k sw s) := by
  unfold execSstat
  refine issue_wf ?_ h
  repeat' with_reducible refine keeps_bind ?_ fun _ => ?_
  all_goals simp
@[simp] theorem takeLatched_keeps (g : Grid) (gid : Nat) (b : Barrier) (rank : Nat) (d : Fin 64) :
    Keeps State.Inv (takeLatched g gid b rank d) := by
  unfold takeLatched
  repeat' with_reducible refine keeps_bind ?_ fun _ => ?_
  all_goals simp
@[simp] theorem arriveOp_keeps (kind : BarKind) (d v : Fin 64) (id : Nat) (scope : Scope) (red : Red) (gid : Nat) (g : Grid) (r : TaskRef) :
    Keeps State.Inv (arriveOp kind d v id scope red gid g r) := by
  unfold arriveOp
  repeat' first | with_reducible refine keeps_get fun s hs => ?_ | with_reducible refine keeps_bind ?_ fun _ => ?_ | split | dsimp only
  all_goals simp [*]
@[simp] theorem barrierBody_keeps (kind : BarKind) (d v : Fin 64) (id : Nat) (scope : Scope) (red : Red) (gid : Nat) (g : Grid)
    (r : TaskRef) : Keeps State.Inv (barrierBody kind d v id scope red gid g r) := by
  unfold barrierBody
  repeat' with_reducible refine keeps_bind ?_ fun _ => ?_
  all_goals simp
@[simp] theorem barrierOp_wf (kind : BarKind) (d v : Fin 64) (id : Nat) (scope : Scope) (red : Red) (sw : Bool) (s : State)
    (h : Memory.wf s.mem = true) : OutWf (barrierOp kind d v id scope red sw s) := by
  unfold barrierOp
  refine issue_wf ?_ h
  repeat' first | with_reducible refine keeps_get fun s hs => ?_ | with_reducible refine keeps_bind ?_ fun _ => ?_ | split
  all_goals simp
/-- A result leaves memory canonical. -/
def ResWf {α : Type} : EStateM.Result Exn State α → Prop
  | .ok _ t => Memory.wf t.mem = true
  | .error _ t => Memory.wf t.mem = true
theorem Keeps.resWf {α : Type} {x : Op α} (hx : Keeps State.Inv x) {s : State} (h : Memory.wf s.mem = true) : ResWf (x s) := by
  obtain ⟨hok, herr⟩ := hx.run s h
  cases hr : x s with
  | ok a t => exact hok a t hr
  | error e t => exact herr e t hr
theorem State.takeDue_wf (s : State) (k : Nat) (d : Due) (x : Word) (h : Memory.wf s.mem = true) : ResWf (s.takeDue k d x) := by
  unfold State.takeDue
  split
  · rename_i r g _ _
    have hu (b : Barrier) : Memory.wf (s.modGrid r.grid (fun _ => g.setBar b)).mem = true := by simp [h]
    dsimp only
    split
    · rename_i t ht
      exact (congrArg ResWf ht).mp ((writeX_keeps d.wd x).resWf (hu _))
    · rename_i t ht
      exact (congrArg ResWf ht).mp ((writeX_keeps d.wd x).resWf (hu _))
  · exact h
@[simp] theorem State.dueFails_mem (s : State) (k : Nat) (d : Due) (e : Exn) : (State.dueFails s k d e).mem = s.mem := by
  unfold State.dueFails
  split <;> simp
@[simp] theorem State.releaseRun_wf (k : Nat) (l : List Due) (s : State) (h : Memory.wf s.mem = true) :
    Memory.wf (State.releaseRun k l s).mem = true := by
  induction l generalizing s with
  | nil => exact h
  | cons d l ih =>
    unfold State.releaseRun
    split
    · exact h
    · split
      · rename_i ht
        exact ih _ ((congrArg ResWf ht).mp (State.takeDue_wf s k d _ h))
      · simp [h]
@[simp] theorem State.leaveDue_wf (k : Nat) (l : List Due) (s : State) (h : Memory.wf s.mem = true) :
    Memory.wf (State.leaveDue k l s).mem = true := by
  induction l generalizing s with
  | nil => exact h
  | cons d l ih =>
    unfold State.leaveDue
    split
    · split
      · rename_i ht
        exact ih _ ((congrArg ResWf ht).mp (State.takeDue_wf s k d _ h))
      · exact ih s h
    · dsimp only
      split <;> simp [h]
@[simp] theorem execBar_wf (d v : Fin 64) (i : Fin 16) (scope : Scope) (red : Red) (sw : Bool) (s : State) (h : Memory.wf s.mem = true) :
    OutWf (execBar d v i scope red sw s) := by
  unfold execBar
  simp +contextual [h]
@[simp] theorem execBarw_wf (d v : Fin 64) (i : Fin 16) (scope : Scope) (red : Red) (sw : Bool) (s : State) (h : Memory.wf s.mem = true) :
    OutWf (execBarw d v i scope red sw s) := by
  unfold execBarw
  simp +contextual [h]
@[simp] theorem execSstep_wf (d v : Fin 64) (i : Fin 16) (scope : Scope) (red : Red) (sw : Bool) (s : State) (h : Memory.wf s.mem = true) :
    OutWf (execSstep d v i scope red sw s) := by
  unfold execSstep
  simp +contextual [h]
@[simp] theorem credChecks_keeps (b : Fin 64) (x : Nat) : Keeps State.Inv (credChecks b x) := by
  unfold credChecks
  repeat' with_reducible refine keeps_bind ?_ fun _ => ?_
  all_goals simp
@[simp] theorem credPart_keeps (rank x : Nat) : Keeps State.Inv (credPart rank x) := by
  unfold credPart
  repeat' with_reducible refine keeps_bind ?_ fun _ => ?_
  all_goals simp
@[simp] theorem credJoin_keeps (b : Fin 64) (sc : Scope) (ord : CredOrd) (gid inst k rank : Nat) :
    Keeps State.Inv (credJoin b sc ord gid inst k rank) := by
  unfold credJoin
  repeat' with_reducible refine keeps_bind ?_ fun _ => ?_
  all_goals simp
@[simp] theorem execCred_wf (b : Fin 64) (scope : Scope) (ord : CredOrd) (sw : Bool) (s : State) (h : Memory.wf s.mem = true) :
    OutWf (execCred b scope ord sw s) := by
  unfold execCred
  refine issue_wf ?_ h
  repeat' first | with_reducible refine keeps_get fun s hs => ?_ | with_reducible refine keeps_bind ?_ fun _ => ?_ | split | dsimp only
  all_goals simp
@[simp] theorem State.finishColl_wf (s : State) (c : Coll) (res : List Byte × List Byte) (h : Memory.wf s.mem = true) :
    Memory.wf (s.finishColl c res).mem = true := by
  unfold State.finishColl
  refine wf_foldl _ (fun s p h => State.bump?_wf _ _ ?_) h
  simp [h]
@[simp] theorem misuse_keeps {α : Type} (reason : Nat) : Keeps State.Inv (misuse reason : Op α) := by
  unfold misuse
  simp
@[simp] theorem State.formChord_mem (s : State) (k x0 y0 shape : Nat) (rect : List Nat) :
    (s.formChord k x0 y0 shape rect).mem = s.mem := by
  unfold State.formChord
  rw [State.modTile_mem]
  exact mem_foldl _ fun s c => rfl
@[simp] theorem State.dropChord_mem (s : State) (k : Nat) : (s.dropChord k).mem = s.mem := by
  unfold State.dropChord
  split
  · rfl
  · rw [State.modTile_mem]
    exact mem_foldl _ fun s c => rfl
@[simp] theorem execCompose_wf (d r : Fin 64) (sw : Bool) (s : State) (h : Memory.wf s.mem = true) : OutWf (execCompose d r sw s) := by
  unfold execCompose
  refine issue_wf ?_ h
  repeat' first | with_reducible refine keeps_get fun s hs => ?_ | with_reducible refine keeps_bind ?_ fun _ => ?_ | split | dsimp only
  all_goals simp [*]
@[simp] theorem execDecompose_wf (sw : Bool) (s : State) (h : Memory.wf s.mem = true) : OutWf (execDecompose sw s) := by
  unfold execDecompose
  refine issue_wf ?_ h
  repeat' with_reducible refine keeps_bind ?_ fun _ => ?_
  all_goals simp
@[simp] theorem execChordRunCommit_wf (core : Nat) (s : State) (h : Memory.wf s.mem = true) : OutWf (execChordRunCommit core s) := by
  unfold execChordRunCommit
  simp +contextual [h]
@[simp] theorem gangFields_keeps (r : Fin 64) (x rank : Nat) : Keeps State.Inv (gangFields r x rank) := by
  unfold gangFields
  repeat' first | with_reducible refine keeps_get fun s hs => ?_ | with_reducible refine keeps_bind ?_ fun _ => ?_ | split
  all_goals simp
theorem State.passWait_wf (s : State) (k : Nat) (m : Meta) {body : Op Unit} (hb : Keeps State.Inv body) (h : Memory.wf s.mem = true) :
    Memory.wf (s.passWait k m body).mem = true := by
  have hi := issue_wf (m := m) (keeps_bind hb fun _ => seqFlow_keeps) (s := { s with cur := k }) h
  unfold State.passWait
  split
  · rename_i t ht
    exact (congrArg OutWf ht).mp hi
  · exact h
@[simp] theorem State.passGang_wf (s : State) (k : Nat) (h : Memory.wf s.mem = true) : Memory.wf (s.passGang k).mem = true := by
  unfold State.passGang
  split
  · exact State.passWait_wf _ _ _ (keeps_bind (readX_keeps _) fun _ => writeN_keeps _ _) h
  · exact h
@[simp] theorem State.passGangs_wf (s : State) (h : Memory.wf s.mem = true) :
    Memory.wf (State.passGangs s).mem = true := by
  unfold State.passGangs
  split <;> simp +contextual [h]
@[simp] theorem execGang_wf (d r : Fin 64) (sw : Bool) (s : State) (h : Memory.wf s.mem = true) : OutWf (execGang d r sw s) := by
  unfold execGang
  have hi {body : Op Flow} (hb : Keeps State.Inv body) : OutWf (match issue (metaGang d r sw) body s with
      | .next t => .next t.passGangs
      | o => o) := by
    have hw := issue_wf (m := metaGang d r sw) hb h
    split
    · rename_i t ht
      rw [ht] at hw
      exact State.passGangs_wf t hw
    · exact hw
  refine hi (keeps_bind (readX_keeps _) fun x => keeps_get fun s hs => ?_)
  dsimp only
  split
  · refine keeps_bind (gangFields_keeps ..) fun _ => keeps_bind (require_keeps _ (misuse_keeps _)) fun _ =>
      keeps_bind (require_keeps _ (misuse_keeps _)) fun _ => ?_
    split
    · exact waitFor_keeps _
    · exact keeps_bind (keeps_set (wf_foldl _ (fun s k h => h) hs)) fun _ => keeps_bind (writeN_keeps ..) fun _ => seqFlow_keeps
  · exact waitFor_keeps _
@[simp] theorem State.forwardRun_mem (s : State) (leader : Nat) (run : Forward) : (State.forwardRun s leader run).mem = s.mem := rfl
@[simp] theorem State.codePart_wf (s : State) (k a n : Nat) (h : Memory.wf s.mem = true) : Memory.wf (s.codePart k a n).2.mem = true := by
  have htr := State.translateAt_wf s k true a needX h
  unfold State.codePart
  split
  · rename_i ht
    rwa [ht] at htr
  · rename_i ht
    rw [ht] at htr
    split <;> exact htr
@[simp] theorem State.codeBytes_wf (s : State) (k a n : Nat) (h : Memory.wf s.mem = true) : Memory.wf (s.codeBytes k a n).2.mem = true := by
  unfold State.codeBytes
  dsimp only
  split <;> simp [h]
@[simp] theorem State.passJoin_wf (s : State) (k : Nat) (h : Memory.wf s.mem = true) : Memory.wf (s.passJoin k).mem = true := by
  unfold State.passJoin
  split
  · exact State.passWait_wf _ _ _ (keeps_bind (readX_keeps _) fun _ => keeps_pure _) h
  · exact h
@[simp] theorem State.completeJoin_wf (s : State) (leader key : Nat) (h : Memory.wf s.mem = true) :
    Memory.wf (State.completeJoin s leader key).mem = true := by
  unfold State.completeJoin
  simp +contextual [h]
@[simp] theorem execJoin_wf (k : Fin 64) (sw : Bool) (s : State) (h : Memory.wf s.mem = true) : OutWf (execJoin k sw s) := by
  unfold execJoin
  refine issue_wf ?_ h
  repeat' first | with_reducible refine keeps_get fun s hs => ?_ | with_reducible refine keeps_bind ?_ fun _ => ?_ | split
  all_goals simp [*]
@[simp] theorem State.leaveConsort_mem (s : State) (k : Nat) : (State.leaveConsort s k).mem = s.mem := rfl
@[simp] theorem execConsortRunForward_wf (leader : Nat) (s : State) (h : Memory.wf s.mem = true) :
    OutWf (execConsortRunForward leader s) := by
  unfold execConsortRunForward
  dsimp only
  split
  · exact h
  · split
    · exact h
    · split
      · exact h
      · split
        · exact h
        · simp [h]
@[simp] theorem execFollowerBufferTimeout_wf (core : Nat) (s : State) (h : Memory.wf s.mem = true) :
    OutWf (execFollowerBufferTimeout core s) := by
  unfold execFollowerBufferTimeout
  dsimp only
  split
  · simp +contextual [h]
  · split <;> simp +contextual [h]
@[simp] theorem State.setHold_mem (s : State) (k n m : Nat) : (State.setHold s k n m).mem = s.mem := rfl
@[simp] theorem State.revoke_mem (s : State) (v k : Nat) (requester : Option Nat) : (State.revoke s v k requester).mem = s.mem := by
  unfold State.revoke
  split <;> simp
@[simp] theorem revokeFrom_mem (r : Option Nat) (l : List Nat) (need : Nat) (s : State) : (revokeFrom r l need s).2.mem = s.mem := by
  induction l generalizing need s with
  | nil => rfl
  | cons v l ih =>
    unfold revokeFrom
    dsimp only
    split
    · rfl
    · exact (ih _ _).trans (State.revoke_mem ..)
@[simp] theorem passOwed_mem (v m : Nat) (l : List Owed) (n : Nat) (s : State) : (passOwed v m l n s).2.mem = s.mem := by
  induction l generalizing n s with
  | nil => rfl
  | cons o l ih =>
    unfold passOwed
    split
    · exact ih n s
    · exact (ih _ _).trans (State.setHold_mem ..)
@[simp] theorem State.passTokens_mem (s : State) (v n m : Nat) : (State.passTokens s v n m).mem = s.mem := by
  unfold State.passTokens
  simp
@[simp] theorem State.revocationDue_mem (s : State) (k : Nat) : (State.revocationDue s k).mem = s.mem := by
  unfold State.revocationDue
  simp
@[simp] theorem State.applyReturns_mem (s : State) (k : Nat) : (State.applyReturns s k).mem = s.mem := by
  unfold State.applyReturns
  simp
@[simp] theorem State.releaseTokens_mem (s : State) (k : Nat) : (State.releaseTokens s k).mem = s.mem := by
  unfold State.releaseTokens
  simp
@[simp] theorem State.lendTokens_mem (s : State) (lender borrower n : Nat) : (State.lendTokens s lender borrower n).mem = s.mem := rfl
@[simp] theorem State.repayTokens_mem (s : State) (lender borrower n : Nat) : (State.repayTokens s lender borrower n).mem = s.mem := rfl
@[simp] theorem State.askNeighbour_mem (s : State) (d k : Nat) : (State.askNeighbour s d k).mem = s.mem := by
  unfold State.askNeighbour
  split <;> simp
@[simp] theorem State.repayNeighbour_mem (s : State) (d k : Nat) : (State.repayNeighbour s d k).mem = s.mem := by
  unfold State.repayNeighbour
  split <;> simp
@[simp] theorem State.payRecalled_mem (s : State) (d : Nat) : (s.payRecalled d).mem = s.mem := by
  unfold State.payRecalled
  refine mem_foldl _ fun s x => ?_
  simp
@[simp] theorem State.balanceZone_mem (s : State) (d : Nat) : (State.balanceZone s d).mem = s.mem := by
  unfold State.balanceZone
  simp
@[simp] theorem State.recallLoans_mem (s : State) (d : Nat) : (s.recallLoans d).mem = s.mem := by
  unfold State.recallLoans
  refine mem_foldl _ fun s x => ?_
  simp
@[simp] theorem State.applyDue_mem (s : State) (d upto : Nat) : (State.applyDue s d upto).mem = s.mem := by
  unfold State.applyDue
  split <;> simp
@[simp] theorem State.dueTokens_mem (s : State) (d upto : Nat) : (State.dueTokens s d upto).mem = s.mem := by
  unfold State.dueTokens
  simp
@[simp] theorem State.grant_mem (s : State) (k r : Nat) : (s.grant k r).2.mem = s.mem := by
  unfold State.grant
  dsimp only
  split
  · rfl
  · simp
@[simp] theorem State.serveRequest_mem (s : State) (d : Nat) : (State.serveRequest s d).mem = s.mem := by
  unfold State.serveRequest
  split <;> simp
@[simp] theorem State.serveAll_mem (s : State) (d : Nat) : (State.serveAll s d).mem = s.mem := by
  unfold State.serveAll
  simp
@[simp] theorem State.shed_mem (s : State) (d : Nat) : (s.shed d).mem = s.mem := revokeFrom_mem ..
@[simp] theorem State.takeEvents_mem (s : State) (k : Nat) : (State.takeEvents s k).mem = s.mem := by
  unfold State.takeEvents
  simp
@[simp] theorem tokenOperand_keeps (r : Fin 64) : Keeps State.Inv (tokenOperand r) := by
  unfold tokenOperand
  repeat' with_reducible refine keeps_bind ?_ fun _ => ?_
  all_goals simp
@[simp] theorem execTreq_wf (d r : Fin 64) (sw : Bool) (s : State) (h : Memory.wf s.mem = true) : OutWf (execTreq d r sw s) := by
  unfold execTreq
  refine issue_wf ?_ h
  repeat' first | with_reducible refine keeps_get fun s hs => ?_ | with_reducible refine keeps_bind ?_ fun _ => ?_
  all_goals simp [*]
@[simp] theorem execTret_wf (c : Fin 64) (sw : Bool) (s : State) (h : Memory.wf s.mem = true) : OutWf (execTret c sw s) := by
  unfold execTret
  refine issue_wf ?_ h
  repeat' with_reducible refine keeps_bind ?_ fun _ => ?_
  all_goals simp
@[simp] theorem execTstat_wf (d : Fin 64) (sw : Bool) (s : State) (h : Memory.wf s.mem = true) : OutWf (execTstat d sw s) := by
  unfold execTstat
  refine issue_wf ?_ h
  repeat' with_reducible refine keeps_bind ?_ fun _ => ?_
  all_goals simp
@[simp] theorem execTokenGrant_wf (core r : Nat) (s : State) (h : Memory.wf s.mem = true) : OutWf (execTokenGrant core r s) := by
  unfold execTokenGrant
  simp +contextual [h]
@[simp] theorem execRevocationDeadline_wf (core : Nat) (s : State) (h : Memory.wf s.mem = true) :
    OutWf (execRevocationDeadline core s) := by
  unfold execRevocationDeadline
  simp +contextual [h]
@[simp] theorem execIssueWindow_wf (core : Nat) (s : State) (h : Memory.wf s.mem = true) : OutWf (execIssueWindow core s) := by
  unfold execIssueWindow
  simp +contextual [h]
@[simp] theorem State.setPool_wf (s : State) (d x : Nat) (h : Memory.wf s.mem = true) :
    Memory.wf (State.setPool s d x).mem = true := by
  unfold State.setPool
  simp +contextual [h]
@[simp] theorem execZpool_wf (die : Nat) (value : BitVec 64) (s : State) (h : Memory.wf s.mem = true) : OutWf (execZpool die value s) := by
  unfold execZpool
  simp +contextual [h]
@[simp] theorem cancelLater_mem (l : List Nat) (n : Nat) (s : State) : (cancelLater l n s).mem = s.mem := by
  induction l generalizing n s with
  | nil => rfl
  | cons k l ih => exact ih _ _
@[simp] theorem State.rebuildProofer_mem (s : State) (d : Nat) : (s.rebuildProofer d).mem = s.mem := by
  unfold State.rebuildProofer
  dsimp only
  rw [State.shed_mem, State.modDie_mem, cancelLater_mem]
@[simp] theorem State.zoneRecord_mem (s : State) (d sev : Nat) : (State.zoneRecord s d sev).mem = s.mem := by
  unfold State.zoneRecord
  simp
@[simp] theorem execProoferRebuild_wf (die : Nat) (succeeds : Bool) (s : State) (h : Memory.wf s.mem = true) :
    OutWf (execProoferRebuild die succeeds s) := by
  unfold execProoferRebuild
  simp +contextual [h]
@[simp] theorem State.emergency_mem (s : State) (d : Nat) : (s.emergency d).mem = s.mem :=
  mem_foldl _ fun _ _ => rfl
@[simp] theorem execCurrentTrip_wf (die : Nat) (s : State) (h : Memory.wf s.mem = true) : OutWf (execCurrentTrip die s) := by
  unfold execCurrentTrip
  simp +contextual [h]
@[simp] theorem execThermalTrip_wf (die : Nat) (s : State) (h : Memory.wf s.mem = true) : OutWf (execThermalTrip die s) := by
  unfold execThermalTrip
  simp +contextual [h]
@[simp] theorem execTripRecovery_wf (die : Nat) (s : State) (h : Memory.wf s.mem = true) : OutWf (execTripRecovery die s) := by
  unfold execTripRecovery
  simp +contextual [h]
theorem State.recordPlaces_wf {s t : State} {k need va : Nat} {l : List Piece} (h : Memory.wf s.mem = true)
    (hp : s.recordPlaces k need va = .ok (l, t)) : Memory.wf t.mem = true := by
  have hw := State.pieces_wf k need (pagesOf recordBytes) va recordBytes h
  unfold State.recordPlaces at hp
  split at hp
  · split at hp
    · cases hp
    · rename_i hl
      rw [hl] at hw
      split at hp <;> cases hp
      exact hw
  · cases hp
@[simp] theorem State.recordTag_mem (s : State) (va : Nat) (l : List Piece) (granules : List Nat) :
    (s.recordTag va l granules).mem = s.mem := by
  unfold State.recordTag
  refine mem_foldl _ fun s g => ?_
  split
  · split <;> rfl
  · rfl
theorem State.writeRecord_wf {s t : State} {k va : Nat} (h : Memory.wf s.mem = true) (hr : s.writeRecord k va = .ok t) :
    Memory.wf t.mem = true := by
  unfold State.writeRecord at hr
  split at hr
  · cases hr
  · split at hr
    · cases hr
    · rename_i l u hl
      cases hr
      rw [State.recordTag_mem]
      have hu : Memory.wf u.mem = true := State.recordPlaces_wf h hl
      exact wf_foldl _ (fun v p hv => State.performStore_wf _ _ _ _ (by simp [hv])) hu
theorem State.readRecord_wf {s t : State} {k va : Nat} {r : Record} (h : Memory.wf s.mem = true) (hr : s.readRecord k va = .ok (r, t)) :
    Memory.wf t.mem = true := by
  unfold State.readRecord at hr
  split at hr
  · cases hr
  · rename_i l u hl
    have hu : Memory.wf (l.foldl (fun (s : State) p => s.mend k (dieOf k) p.key p.len p.repl) u).mem = true :=
      wf_foldl _ (fun v p hv => by simp [hv]) (State.recordPlaces_wf h hl)
    dsimp only at hr
    split at hr <;> cases hr
    exact hu
@[simp] theorem State.restoreScratch_wf (s : State) (k : Nat) (r : Record) (h : Memory.wf s.mem = true) :
    Memory.wf (State.restoreScratch s k r).mem = true := by
  unfold State.restoreScratch
  simp +contextual [h]

end Sys2Proof.Machine
end

section
/-! Canonical memory: contexts, grids, registers, faults, delivery and the wafer. -/

namespace Sys2Proof.Machine

@[simp] theorem State.modQueue_mem (s : State) (p q : Nat) (f : Queue → Queue) : (State.modQueue s p q f).mem = s.mem := rfl
@[simp] theorem State.writeQwr_mem (s : State) (p q x : Nat) : (State.writeQwr s p q x).mem = s.mem := by
  unfold State.writeQwr
  simp
theorem State.withRing_wf {s t : State} (p q i : Nat) (h : Memory.wf s.mem = true) (ht : Memory.wf t.mem = true) :
    OutWf (s.withRing p q i t) := by
  unfold State.withRing
  simp [h, ht]
theorem walkRead_wf {p asid fuel va n : Nat} {s t : State} {b : List Byte} (h : Memory.wf s.mem = true)
    (hr : walkRead p asid fuel va n s = .ok (b, t)) : Memory.wf t.mem = true := by
  induction fuel generalizing va n s t b with
  | zero =>
    cases hr
    exact h
  | succ fuel ih =>
    unfold walkRead at hr
    split at hr
    · cases hr
      exact h
    · dsimp only at hr
      split at hr
      · cases hr
      · rename_i x _
        have hm :
    Memory.wf (s.mend (128 * s.refDie p) (dieOf (128 * s.refDie p)) x.key (min n (65536 - va % 65536)) x.repl).mem = true := by
          simp [h]
        split at hr
        · cases hr
        · split at hr
          · cases hr
          · rename_i hl
            cases hr
            exact ih hm hl
theorem State.readShape_wf {s t : State} {g : Grid} {b : List Byte} (h : Memory.wf s.mem = true) (hr : s.readShape g = .ok (b, t)) :
    Memory.wf t.mem = true := by
  unfold State.readShape at hr
  split at hr
  · cases hr
  · rename_i hw
    split at hr <;> cases hr
    exact walkRead_wf h hw
@[simp] theorem State.writeCompletion_wf (s : State) (p q slot status job msgdrop start fin exitval : Nat) (h : Memory.wf s.mem = true) :
    Memory.wf (State.writeCompletion s p q slot status job msgdrop start fin exitval).mem = true := by
  unfold State.writeCompletion
  simp +contextual [h]
@[simp] theorem State.hpreDone_mem (s : State) (g : Grid) : (State.hpreDone s g).mem = s.mem := rfl
@[simp] theorem State.completeGrid_wf (s : State) (gid code exitval : Nat) (keep : Bool) (h : Memory.wf s.mem = true) :
    Memory.wf (State.completeGrid s gid code exitval keep).mem = true := by
  unfold State.completeGrid
  split <;> simp +contextual [h]
@[simp] theorem State.seat_mem (s : State) (g : Grid) (gid r k : Nat) : (State.seat s g gid r k).mem = s.mem := rfl
@[simp] theorem State.clearTask_wf (s : State) (k : Nat) (h : Memory.wf s.mem = true) :
    Memory.wf (State.clearTask s k).mem = true := by
  unfold State.clearTask
  simp +contextual [h]
@[simp] theorem State.startTask_mem (s : State) (k : Nat) (gid : Nat) (g : Grid) (r : TaskRef) :
    (State.startTask s k gid g r).mem = s.mem := by
  unfold State.startTask
  simp
@[simp] theorem execTaskStart_wf (core : Nat) (s : State) (h : Memory.wf s.mem = true) : OutWf (execTaskStart core s) := by
  unfold execTaskStart
  split
  · simp +contextual [h]
  · split <;> simp +contextual [h]
@[simp] theorem State.withdrawWait_wf (s : State) (k : Nat) (hang : Bool) (h : Memory.wf s.mem = true) :
    Memory.wf (State.withdrawWait s k hang).mem = true := by
  unfold State.withdrawWait
  repeat' split
  all_goals simp +contextual [h]
@[simp] theorem State.endXfers_wf (s : State) (k : Nat) (h : Memory.wf s.mem = true) : Memory.wf (s.endXfers k).mem = true := by
  unfold State.endXfers
  refine wf_foldl _ (fun s _ h => ?_) h
  have hc : Memory.wf (s.completeXfer k 0).mem = true := by simp [h]
  dsimp only
  split
  · exact hc
  · simp [hc]
@[simp] theorem State.stopTask_wf (s : State) (k : Nat) (h : Memory.wf s.mem = true) : Memory.wf (s.stopTask k).mem = true := by
  have hx : Memory.wf ((s.engineDrain k).endXfers k).mem = true := by simp [h]
  have hw : Memory.wf ((((s.engineDrain k).endXfers k).drainStores k).withdrawWait k false).mem = true := by simp [hx]
  unfold State.stopTask
  dsimp only
  split <;> simp [hw]
@[simp] theorem State.abortGrid_wf (s : State) (gid : Nat) (word : Word) (h : Memory.wf s.mem = true) :
    Memory.wf (State.abortGrid s gid word).mem = true := by
  unfold State.abortGrid
  split <;> simp +contextual [h]
@[simp] theorem execGridComplete_wf (grid : Nat) (s : State) (h : Memory.wf s.mem = true) : OutWf (execGridComplete grid s) := by
  unfold execGridComplete
  split
  · exact h
  · split
    · split
      · exact State.withRing_wf _ _ _ h (by simp [h])
      · exact h
    · split
      · exact State.withRing_wf _ _ _ h (by simp [h])
      · exact h
@[simp] theorem State.beginSave_mem (s : State) (gid : Nat) (hold : Bool) (sever : Option (Nat × Nat)) :
    (s.beginSave gid hold sever).mem = s.mem :=
  (mem_foldl _ fun _ _ => State.modTile_mem ..).trans (State.modGrid_mem ..)
@[simp] theorem State.completeSevered_wf (s : State) (gid : Nat) (g : Grid) (h : Memory.wf s.mem = true) :
    Memory.wf (State.completeSevered s gid g).mem = true := by
  unfold State.completeSevered
  simp +contextual [h]
@[simp] theorem State.finishSave_wf (s : State) (gid : Nat) (h : Memory.wf s.mem = true) : Memory.wf (s.finishSave gid).mem = true := by
  have hclear (l : List Nat) (t : State) (ht : Memory.wf t.mem = true) :
      Memory.wf (l.foldl (fun (s : State) k => s.clearTask k) t).mem = true := wf_foldl l (fun s k h => s.clearTask_wf k h) ht
  unfold State.finishSave
  split
  · exact h
  · rename_i g _
    have hc := hclear ((s.modGrid gid (fun x => { x with consorts := s.gridConsorts gid g })).coresOf gid) _
      (show Memory.wf (s.modGrid gid (fun x => { x with consorts := s.gridConsorts gid g })).mem = true by simp [h])
    dsimp only
    split
    · split
      · exact hc
      · exact State.completeSevered_wf _ _ _ hc
    · simp [hc]
@[simp] theorem State.checkSaved_wf (s : State) (gid : Nat) (h : Memory.wf s.mem = true) :
    Memory.wf (State.checkSaved s gid).mem = true := by
  unfold State.checkSaved
  split <;> simp +contextual [h]
@[simp] theorem State.abandonSave_mem (s : State) (gid k : Nat) (f : RecordFail) : (s.abandonSave gid k f).mem = s.mem := by
  unfold State.abandonSave
  split
  · rfl
  · simp only [State.record_mem, State.hpreDone_mem, State.modGrid_mem]
    exact mem_foldl _ fun _ _ => rfl
@[simp] theorem State.saveTask_wf (now : State) (k gid : Nat) (g : Grid) (r : TaskRef) (h : Memory.wf now.mem = true) :
    Memory.wf (now.saveTask k gid g r).mem = true := by
  have hs : Memory.wf ((now.withdrawWait k false).modTile k Tile.keptAside).mem = true := by simp [h]
  unfold State.saveTask
  dsimp only
  split
  · rename_i t ht
    have hw := State.writeRecord_wf hs ht
    simp [hw]
  · split
    · exact h
    · split
      · exact State.checkSaved_wf _ _ (by simp [h])
      · simp [h]
@[simp] theorem execTaskSave_wf (core : Nat) (s : State) (h : Memory.wf s.mem = true) : OutWf (execTaskSave core s) := by
  have ht : Memory.wf ((s.engineDrain core).drainStores core).mem = true := by simp [h]
  unfold execTaskSave
  split
  · exact h
  · split
    · exact h
    · split
      · exact h
      · dsimp only
        split
        · exact h
        · exact State.withRing_wf _ _ _ h (State.saveTask_wf _ _ _ _ _ ht)
@[simp] theorem State.popPacket_mem (s : State) (p q : Nat) : (State.popPacket s p q).mem = s.mem := rfl
@[simp] theorem State.preemptFor_mem (s : State) (p : Nat) (g : Grid) : (State.preemptFor s p g).mem = s.mem := by
  unfold State.preemptFor
  split
  · simp
  · split <;> simp
@[simp] theorem State.noteJob_mem (s : State) (p job : Nat) : (State.noteJob s p job).mem = s.mem := rfl
@[simp] theorem State.rejectPacket_wf (s : State) (g : Grid) (code exitval : Nat) (h : Memory.wf s.mem = true) :
    Memory.wf (State.rejectPacket s g code exitval).mem = true := by
  unfold State.rejectPacket
  simp +contextual [h]
@[simp] theorem State.seatGrid_wf (s : State) (g : Grid) (gid : Nat) (cores : List Nat) (shape : List Byte)
    (h : Memory.wf s.mem = true) : Memory.wf (s.seatGrid g gid cores shape).mem = true :=
  wf_foldl _ (fun s c h => State.writeKey_wf _ _ _ _ (by simp [h])) (by simp [h])
@[simp] theorem State.decidePacket_wf (s : State) (p q : Nat) (h : Memory.wf s.mem = true) : Memory.wf (s.decidePacket p q).mem = true := by
  have hfresh : Memory.wf s.fresh.2.mem = true := h
  unfold State.decidePacket
  dsimp only
  repeat' split
  · exact State.rejectPacket_wf _ _ _ _ hfresh
  · exact State.rejectPacket_wf _ _ _ _ hfresh
  · exact State.rejectPacket_wf _ _ _ _ hfresh
  · simpa using h
  · exact State.rejectPacket_wf _ _ _ _ hfresh
  · rename_i hr
    have ht := State.readShape_wf hfresh hr
    simp [ht]
@[simp] theorem execDispatch_wf (part : Nat) (s : State) (h : Memory.wf s.mem = true) : OutWf (execDispatch part s) := by
  unfold execDispatch
  split
  · exact h
  · split
    · exact h
    · exact State.withRing_wf _ _ _ h (by simp [h])
theorem State.restoreTask_wf {s t : State} {g : Grid} {x : SavedTask} {k : Nat} (h : Memory.wf s.mem = true)
    (hr : s.restoreTask g x k = .ok t) : Memory.wf t.mem = true := by
  unfold State.restoreTask at hr
  split at hr
  · cases hr
  · rename_i r u hu
    have hw := State.readRecord_wf h hu
    split at hr
    · cases hr
    · cases hr
      exact State.restoreScratch_wf _ _ _ hw
theorem State.restoreAll_wf {s t : State} {g : Grid} {l : List (SavedTask × Nat)} (h : Memory.wf s.mem = true)
    (hr : s.restoreAll g l = .ok t) : Memory.wf t.mem = true := by
  induction l generalizing s with
  | nil =>
    cases hr
    exact h
  | cons x l ih =>
    unfold State.restoreAll at hr
    split at hr
    · cases hr
    · rename_i u hu
      exact ih (State.restoreTask_wf h hu) hr
@[simp] theorem State.recompose_mem (s : State) (k : Nat) (c : Option Chord) : (State.recompose s k c).mem = s.mem := by
  unfold State.recompose
  split
  · simp
  · split <;> simp
@[simp] theorem State.reconsort_mem (s : State) (g : Grid) : (State.reconsort s g).mem = s.mem := by
  unfold State.reconsort
  simp
@[simp] theorem State.askTokens_mem (s : State) (k n : Nat) : (State.askTokens s k n).mem = s.mem := by
  unfold State.askTokens
  simp
@[simp] theorem State.resumeOn_wf (s : State) (gid : Nat) (g : Grid) (pairs : List (SavedTask × Nat)) (h : Memory.wf s.mem = true) :
    Memory.wf (s.resumeOn gid g pairs).mem = true := by
  have hseat : Memory.wf (pairs.foldl (fun (s : State) x => s.seat g gid x.1.grank x.2) s).mem = true :=
    wf_foldl _ (fun s x h => by simp [h]) h
  unfold State.resumeOn
  dsimp only
  split
  · exact h
  · simp [h]
  · rename_i t ht
    have hw := State.restoreAll_wf hseat ht
    refine wf_foldl _ (fun s x h => by simp [h]) ?_
    rw [State.reconsort_mem]
    exact wf_foldl _ (fun s x h => by simp [h]) hw
@[simp] theorem execGridResume_wf (grid : Nat) (s : State) (h : Memory.wf s.mem = true) : OutWf (execGridResume grid s) := by
  have hring {t : State} (p q i : Nat) (ht : Memory.wf t.mem = true) : OutWf (s.withRing p q i t) := State.withRing_wf p q i h ht
  unfold execGridResume
  split
  · exact h
  · dsimp only
    repeat' split
    all_goals first | exact h | exact hring _ _ _ (State.completeGrid_wf _ _ _ _ _ h) | exact hring _ _ _ (State.resumeOn_wf _ _ _ _ h)
@[simp] theorem State.hpreSave_mem (s : State) (p q slot : Nat) (hold : Bool) : (State.hpreSave s p q slot hold).mem = s.mem := by
  unfold State.hpreSave
  split <;> simp
@[simp] theorem State.hpreRelease_mem (s : State) (p q slot : Nat) : (State.hpreRelease s p q slot).mem = s.mem := by
  unfold State.hpreRelease
  split <;> simp
@[simp] theorem State.writeHpre_mem (s : State) (p q slot cmd : Nat) : (State.writeHpre s p q slot cmd).mem = s.mem := by
  unfold State.writeHpre
  split
  · simp
  · split <;> simp
@[simp] theorem execHprePreempt_wf (part q slot : Nat) (s : State) (h : Memory.wf s.mem = true) :
    OutWf (execHprePreempt part q slot s) := by
  unfold execHprePreempt
  simp +contextual [h]
@[simp] theorem execHprePreemptHold_wf (part q slot : Nat) (s : State) (h : Memory.wf s.mem = true) :
    OutWf (execHprePreemptHold part q slot s) := by
  unfold execHprePreemptHold
  simp +contextual [h]
@[simp] theorem execHpreResume_wf (part q slot : Nat) (s : State) (h : Memory.wf s.mem = true) : OutWf (execHpreResume part q slot s) := by
  unfold execHpreResume
  simp +contextual [h]
@[simp] theorem State.writeRelaunch_mem (s : State) (p q slot : Nat) (cmd : Bool) : (State.writeRelaunch s p q slot cmd).mem = s.mem := by
  unfold State.writeRelaunch
  split
  · simp
  · split
    · simp
    · split <;> simp
@[simp] theorem execRelaunch_wf (part q slot : Nat) (s : State) (h : Memory.wf s.mem = true) : OutWf (execRelaunch part q slot s) := by
  unfold execRelaunch
  simp +contextual [h]
@[simp] theorem State.exitTask_wf (s : State) (k : Nat) (x : Word) (h : Memory.wf s.mem = true) :
    Memory.wf (State.exitTask s k x).mem = true := by
  unfold State.exitTask
  split <;> simp +contextual [h]
@[simp] theorem execExit_wf (a : Fin 64) (sw : Bool) (s : State) (h : Memory.wf s.mem = true) : OutWf (execExit a sw s) := by
  unfold execExit
  refine issue_wf ?_ h
  repeat' first | with_reducible refine keeps_get fun s hs => ?_ | with_reducible refine keeps_bind ?_ fun _ => ?_ | split
  all_goals simp +contextual [*]
@[simp] theorem State.modWindow_mem (s : State) (p n : Nat) (f : HostWin → HostWin) : (State.modWindow s p n f).mem = s.mem := rfl
@[simp] theorem State.writeCnctl_mem (s : State) (p : Nat) (v : Word) : (State.writeCnctl s p v).mem = s.mem := by
  unfold State.writeCnctl
  simp
@[simp] theorem State.writeOvf_wf (s : State) (d : Nat) (v : Word) (h : Memory.wf s.mem = true) :
    Memory.wf (State.writeOvf s d v).mem = true := by
  unfold State.writeOvf
  simp +contextual [h]
@[simp] theorem State.namedWrite_wf (s : State) (r : MReg) (v : Word) (h : Memory.wf s.mem = true) :
    Memory.wf (s.namedWrite r v).mem = true := by
  have hpool (d x : Nat) : Memory.wf (if d < Config.dies then (s.setPool d x).balanceZone d else s).mem = true := by simp [h]
  have hlend (d : Nat) (f : Die → Die) : Memory.wf ((s.modDie d f).balanceZone d).mem = true := by simp [h]
  cases r with
  | qwr p q => simpa [State.namedWrite] using h
  | hpre p => simpa [State.namedWrite] using h
  | relaunch p => simpa [State.namedWrite] using h
  | cnctl p => simpa [State.namedWrite] using h
  | ovf d => exact State.writeOvf_wf _ _ _ h
  | zpool d => exact hpool ..
  | zlend d => exact hlend ..
  | _ => exact h
@[simp] theorem State.regWrite_wf (s : State) (r : MReg) (v : Word) (h : Memory.wf s.mem = true) :
    Memory.wf (State.regWrite s r v).mem = true := by
  unfold State.regWrite
  split <;> simp +contextual [h]
@[simp] theorem execRegisterWrite_wf (reg : MReg) (value : BitVec 64) (s : State) (h : Memory.wf s.mem = true) :
    OutWf (execRegisterWrite reg value s) := by
  unfold execRegisterWrite
  simp +contextual [h]
@[simp] theorem execQwr_wf (part q : Nat) (value : BitVec 64) (s : State) (h : Memory.wf s.mem = true) :
    OutWf (execQwr part q value s) := by
  unfold execQwr
  simp +contextual [h]
@[simp] theorem execQctl_wf (part q : Nat) (value : BitVec 64) (s : State) (h : Memory.wf s.mem = true) :
    OutWf (execQctl part q value s) := by
  unfold execQctl
  simp +contextual [h]
@[simp] theorem execCnctl_wf (part : Nat) (value : BitVec 64) (s : State) (h : Memory.wf s.mem = true) :
    OutWf (execCnctl part value s) := by
  unfold execCnctl
  simp +contextual [h]
@[simp] theorem sysWrite_keeps (v : Fin 64) (r : Sys) (c : Reg) : Keeps State.Inv (sysWrite v r c) := by
  unfold sysWrite
  cases r with
  | classCfg n =>
    exact keeps_bind getT_keeps fun t => keeps_bind (fieldOk_keeps ..) fun _ => keeps_bind (zeroField_keeps ..) fun _ => modT_keeps _
  | svc => exact keeps_bind (zeroField_keeps ..) fun _ => modT_keeps _
  | block f =>
    refine keeps_modify fun s h => ?_
    split <;> simp [h]
  | zone f => exact keeps_modify fun s h => by simp [h]
  | _ => simp
@[simp] theorem noSrn_keeps {α : Type} (i : Instr) : Keeps State.Inv (noSrn i : Op α) := by
  unfold noSrn
  simp
@[simp] theorem execSrd_wf (d : Fin 64) (srn : Fin 2048) (sw : Bool) (s : State) (h : Memory.wf s.mem = true) :
    OutWf (execSrd d srn sw s) := by
  unfold execSrd
  refine issue_wf ?_ h
  repeat' first | with_reducible refine keeps_get fun s hs => ?_ | with_reducible refine keeps_bind ?_ fun _ => ?_ | split
  all_goals simp
@[simp] theorem execSwr_wf (v : Fin 64) (srn : Fin 2048) (sw : Bool) (s : State) (h : Memory.wf s.mem = true) :
    OutWf (execSwr v srn sw s) := by
  unfold execSwr
  refine issue_wf ?_ h
  repeat' first | with_reducible refine keeps_get fun s hs => ?_ | with_reducible refine keeps_bind ?_ fun _ => ?_ | split
  all_goals simp
@[simp] theorem State.enqueue_wf (s : State) (p q : Nat) (b : List Byte) (t0 t1 : Bool) (h : Memory.wf s.mem = true) :
    Memory.wf (State.enqueue s p q b t0 t1).mem = true := by
  unfold State.enqueue
  simp +contextual [h]
@[simp] theorem execLaunch_wf (q p : Fin 64) (sw : Bool) (s : State) (h : Memory.wf s.mem = true) : OutWf (execLaunch q p sw s) := by
  unfold execLaunch
  refine issue_wf ?_ h
  repeat' first | with_reducible refine keeps_get fun s hs => ?_ | with_reducible refine keeps_bind ?_ fun _ => ?_ | split | dsimp only
  all_goals simp +contextual [*]
@[simp] theorem State.sendCall_mem (s : State) (k wd : Nat) (x : Word) : (State.sendCall s k wd x).mem = s.mem := by
  unfold State.sendCall
  simp
@[simp] theorem execTrap_wf (d a : Fin 64) (sw : Bool) (s : State) (h : Memory.wf s.mem = true) : OutWf (execTrap d a sw s) := by
  unfold execTrap
  refine issue_wf ?_ h
  repeat' with_reducible refine keeps_bind ?_ fun _ => ?_
  all_goals simp
@[simp] theorem execEret_wf (v h : Fin 64) (sw : Bool) (s : State) (hm : Memory.wf s.mem = true) : OutWf (execEret v h sw s) := by
  unfold execEret
  refine issue_wf ?_ hm
  repeat' with_reducible refine keeps_bind ?_ fun _ => ?_
  all_goals simp
@[simp] theorem State.dropPart_mem (s : State) (p : Nat) (which : TlbEntry → Bool) : (State.dropPart s p which).mem = s.mem := rfl
@[simp] theorem State.drainPart_wf (s : State) (p : Nat) (h : Memory.wf s.mem = true) :
    Memory.wf (State.drainPart s p).mem = true := by
  unfold State.drainPart
  simp +contextual [h]
@[simp] theorem tlbiOp_keeps (which : Nat → TlbEntry → Bool) : Keeps State.Inv (tlbiOp which) := by
  unfold tlbiOp
  repeat' first | with_reducible refine keeps_get fun s hs => ?_ | with_reducible refine keeps_bind ?_ fun _ => ?_ | split
  all_goals simp +contextual [*]
@[simp] theorem tlbiAsid_keeps (b : Fin 64) : Keeps State.Inv (tlbiAsid b) := by
  unfold tlbiAsid
  repeat' with_reducible refine keeps_bind ?_ fun _ => ?_
  all_goals simp
@[simp] theorem execTlbiPage_wf (a b : Fin 64) (sw : Bool) (s : State) (h : Memory.wf s.mem = true) : OutWf (execTlbiPage a b sw s) := by
  unfold execTlbiPage
  refine issue_wf ?_ h
  repeat' with_reducible refine keeps_bind ?_ fun _ => ?_
  all_goals simp
@[simp] theorem execTlbiAsid_wf (b : Fin 64) (sw : Bool) (s : State) (h : Memory.wf s.mem = true) : OutWf (execTlbiAsid b sw s) := by
  unfold execTlbiAsid
  refine issue_wf ?_ h
  repeat' with_reducible refine keeps_bind ?_ fun _ => ?_
  all_goals simp
@[simp] theorem execTlbiGlobal_wf (sw : Bool) (s : State) (h : Memory.wf s.mem = true) : OutWf (execTlbiGlobal sw s) := by
  unfold execTlbiGlobal
  refine issue_wf ?_ h
  simp
@[simp] theorem execTlbiPart_wf (sw : Bool) (s : State) (h : Memory.wf s.mem = true) : OutWf (execTlbiPart sw s) := by
  unfold execTlbiPart
  refine issue_wf ?_ h
  simp
@[simp] theorem execIfence_wf (sw : Bool) (s : State) (h : Memory.wf s.mem = true) : OutWf (execIfence sw s) := by
  unfold execIfence
  refine issue_wf ?_ h
  simp
@[simp] theorem execTblld_wf (b : Fin 64) (sw : Bool) (s : State) (h : Memory.wf s.mem = true) : OutWf (execTblld b sw s) := by
  unfold execTblld
  refine issue_wf ?_ h
  repeat' with_reducible refine keeps_bind ?_ fun _ => ?_
  all_goals simp
@[simp] theorem execMeter_wf (d : Fin 64) (e : Bool) (sw : Bool) (s : State) (h : Memory.wf s.mem = true) : OutWf (execMeter d e sw s) := by
  unfold execMeter
  refine issue_wf ?_ h
  repeat' first | with_reducible refine keeps_get fun s hs => ?_ | with_reducible refine keeps_bind ?_ fun _ => ?_ | split | dsimp only
  all_goals simp [*]
@[simp] theorem State.startDueWait_mem (s : State) (k : Nat) : (State.startDueWait s k).mem = s.mem := by
  unfold State.startDueWait
  split <;> simp
@[simp] theorem execDeferredResult_wf (core : Nat) (s : State) (h : Memory.wf s.mem = true) : OutWf (execDeferredResult core s) := by
  unfold execDeferredResult
  simp +contextual [h]
@[simp] theorem State.enterHandler_mem (s : State) (k c : Nat) : (State.enterHandler s k c).mem = s.mem := rfl
@[simp] theorem execHandlerEntry_wf (core : Nat) (s : State) (h : Memory.wf s.mem = true) : OutWf (execHandlerEntry core s) := by
  unfold execHandlerEntry
  split
  · split <;> simp +contextual [h]
  · simp +contextual [h]
@[simp] theorem State.readSpilled_wf (s : State) (k : Nat) (m : InMsg) (h : Memory.wf s.mem = true) :
    Memory.wf (State.readSpilled s k m).mem = true := by
  unfold State.readSpilled
  split <;> simp +contextual [h]
@[simp] theorem execLocalTrap_wf (core : Nat) (report : TrapReport) (s : State) (h : Memory.wf s.mem = true) :
    OutWf (execLocalTrap core report s) := by
  unfold execLocalTrap
  simp +contextual [h]
@[simp] theorem execWalkComplete_wf (core va : Nat) (kind : Access) (s : State) (h : Memory.wf s.mem = true) :
    OutWf (execWalkComplete core va kind s) := by
  have htr := State.translateAt_wf s core (decide (kind = .fetch)) va (needOf kind) h
  unfold execWalkComplete
  split
  · exact h
  · split
    · rename_i ht
      rwa [ht] at htr
    · rename_i f hf
      rw [hf] at htr
      have hw : Memory.wf f.s.mem = true := htr
      simp [hw]
theorem State.takeReply_mem {s t : State} {core seq : Nat} {value : Word} (h : s.takeReply core seq value = some t) : t.mem = s.mem := by
  unfold State.takeReply at h
  dsimp only at h
  split at h <;> cases h
  rfl
@[simp] theorem State.abortCore_wf (s : State) (k : Nat) (word : Word) (h : Memory.wf s.mem = true) :
    Memory.wf (State.abortCore s k word).mem = true := by
  unfold State.abortCore
  split <;> simp +contextual [h]
@[simp] theorem State.retryReply_mem (s : State) (k : Nat) (a : Awaiting) : (State.retryReply s k a).mem = s.mem := rfl
@[simp] theorem State.skipReply_wf (s : State) (k : Nat) (a : Awaiting) (h : Memory.wf s.mem = true) :
    Memory.wf (State.skipReply s k a).mem = true := by
  unfold State.skipReply
  dsimp only
  split
  · split <;> simp +contextual [h]
  · simp +contextual [h]
@[simp] theorem State.localReply_wf (s : State) (k : Nat) (a : Awaiting) (h : Memory.wf s.mem = true) :
    Memory.wf (State.localReply s k a).mem = true := by
  unfold State.localReply
  simp +contextual [h]
@[simp] theorem State.applyReply_wf (s : State) (k : Nat) (a : Awaiting) (value : Word) (h : Memory.wf s.mem = true) :
    Memory.wf (State.applyReply s k a value).mem = true := by
  unfold State.applyReply
  split <;> simp +contextual [h]
@[simp] theorem execFaultReply_wf (core seq : Nat) (value : BitVec 64) (s : State) (h : Memory.wf s.mem = true) :
    OutWf (execFaultReply core seq value s) := by
  unfold execFaultReply
  split
  · exact h
  · rename_i t ht
    have hw : Memory.wf t.mem = true := by rw [State.takeReply_mem ht, h]
    split
    · split
      · exact h
      · exact State.applyReply_wf _ _ _ _ hw
    · exact h
    · split
      · exact h
      · exact hw
@[simp] theorem State.callReply_wf (s : State) (k : Nat) (a : Awaiting) (value : Word) (h : Memory.wf s.mem = true) :
    OutWf (s.callReply k a value) := by
  have hi := issue_wf (m := metaC 0x3C 0 4 true []) (keeps_bind (writeX_keeps a.wd value) fun _ => seqFlow_keeps)
    (s := { (s.modTile k (fun t => { t.answered a.seq with wait := none })) with cur := k }) h
  unfold State.callReply
  dsimp only
  split
  · rename_i t ht
    exact (congrArg OutWf ht).mp hi
  · trivial
  · trivial
@[simp] theorem execServiceCallReply_wf (core seq : Nat) (value : BitVec 64) (s : State) (h : Memory.wf s.mem = true) :
    OutWf (execServiceCallReply core seq value s) := by
  unfold execServiceCallReply
  split
  · rename_i t a ht _
    exact State.callReply_wf _ _ _ _ (by rw [State.takeReply_mem ht, h])
  · exact h
@[simp] theorem execModuleControllerCall_wf (s : State) (h : Memory.wf s.mem = true) : OutWf (execModuleControllerCall s) := by
  unfold execModuleControllerCall
  split <;> simp +contextual [h]
@[simp] theorem State.hangTrap_wf (s : State) (k kind : Nat) (w : Wait) (h : Memory.wf s.mem = true) :
    Memory.wf (State.hangTrap s k kind w).mem = true := by
  unfold State.hangTrap
  simp +contextual [h]
@[simp] theorem State.scanCore_wf (s : State) (k : Nat) (h : Memory.wf s.mem = true) :
    Memory.wf (State.scanCore s k).mem = true := by
  unfold State.scanCore
  split
  · simp +contextual [h]
  · split <;> simp +contextual [h]
@[simp] theorem execHangScan_wf (die : Nat) (s : State) (h : Memory.wf s.mem = true) : OutWf (execHangScan die s) := by
  unfold execHangScan
  simp +contextual [h]
@[simp] theorem execHangAbortReply_wf (core : Nat) (s : State) (h : Memory.wf s.mem = true) : OutWf (execHangAbortReply core s) := by
  unfold execHangAbortReply
  split <;> simp +contextual [h]
@[simp] theorem State.latentWord_mem (s : State) (array w : Nat) : (State.latentWord s array w).mem = s.mem := by
  unfold State.latentWord
  simp
@[simp] theorem State.latent_mem (s : State) (r : ErrReport) (w : Nat) : (State.latent s r w).mem = s.mem := by
  unfold State.latent
  split <;> simp
@[simp] theorem execMachineCheck_wf (report : ErrReport) (s : State) (h : Memory.wf s.mem = true) : OutWf (execMachineCheck report s) := by
  unfold execMachineCheck
  split <;> simp +contextual [h]
@[simp] theorem State.dropMsg_mem (s : State) (i : Nat) : (State.dropMsg s i).mem = s.mem := rfl
@[simp] theorem State.refuseMsg_mem (s : State) (i : Nat) (m : Msg) : (State.refuseMsg s i m).mem = s.mem := rfl
@[simp] theorem State.spillWrite_wf (s : State) (l : List (Nat × Nat × Nat)) (h : Memory.wf s.mem = true) :
    Memory.wf (State.spillWrite s l).mem = true := by
  unfold State.spillWrite
  simp +contextual [h]
@[simp] theorem State.deliver_wf (s : State) (i : Nat) (m : Msg) (h : Memory.wf s.mem = true) :
    Memory.wf (State.deliver s i m).mem = true := by
  unfold State.deliver
  dsimp only
  repeat' split
  all_goals simp +contextual [h]
@[simp] theorem execMessageArrival_wf (index : Nat) (s : State) (h : Memory.wf s.mem = true) : OutWf (execMessageArrival index s) := by
  unfold execMessageArrival
  split <;> simp +contextual [h]
@[simp] theorem State.wakeCore_mem (s : State) (k : Nat) : (State.wakeCore s k).mem = s.mem := by
  unfold State.wakeCore
  split
  · simp
  · split <;> simp
@[simp] theorem execWakeUpArrival_wf (index : Nat) (s : State) (h : Memory.wf s.mem = true) : OutWf (execWakeUpArrival index s) := by
  unfold execWakeUpArrival
  split <;> simp +contextual [h]
@[simp] theorem execMessageRetry_wf (index : Nat) (s : State) (h : Memory.wf s.mem = true) : OutWf (execMessageRetry index s) := by
  unfold execMessageRetry
  split
  · simp +contextual [h]
  · split <;> simp +contextual [h]
@[simp] theorem State.countDrop_mem (s : State) (m : Msg) : (State.countDrop s m).mem = s.mem := by
  unfold State.countDrop
  split <;> simp
@[simp] theorem execMessageRefusalDiscard_wf (index : Nat) (s : State) (h : Memory.wf s.mem = true) :
    OutWf (execMessageRefusalDiscard index s) := by
  unfold execMessageRefusalDiscard
  split
  · simp +contextual [h]
  · split <;> simp +contextual [h]
@[simp] theorem State.staleRecord_mem (s : State) (name part : Nat) : (State.staleRecord s name part).mem = s.mem := rfl
@[simp] theorem execStaleGenDrop_wf (index : Nat) (s : State) (h : Memory.wf s.mem = true) : OutWf (execStaleGenDrop index s) := by
  unfold execStaleGenDrop
  split
  · simp +contextual [h]
  · split <;> simp +contextual [h]
@[simp] theorem execTransferComplete_wf (core index : Nat) (s : State) (h : Memory.wf s.mem = true) :
    OutWf (execTransferComplete core index s) := by
  unfold execTransferComplete
  split <;> simp +contextual [h]
@[simp] theorem State.fillByEngine_wf (s : State) (k slot : Nat) (h : Memory.wf s.mem = true) :
    Memory.wf (State.fillByEngine s k slot).mem = true := by
  unfold State.fillByEngine
  simp +contextual [h]
@[simp] theorem execSlotFillComplete_wf (core slot : Nat) (s : State) (h : Memory.wf s.mem = true) :
    OutWf (execSlotFillComplete core slot s) := by
  unfold execSlotFillComplete
  split
  · simp +contextual [h]
  · split <;> simp +contextual [h]
@[simp] theorem execEngineRetire_wf (core : Nat) (s : State) (h : Memory.wf s.mem = true) : OutWf (execEngineRetire core s) := by
  unfold execEngineRetire
  simp +contextual [h]
@[simp] theorem execOwnershipGrant_wf (core index line : Nat) (s : State) (h : Memory.wf s.mem = true) :
    OutWf (execOwnershipGrant core index line s) := by
  unfold execOwnershipGrant
  split <;> simp +contextual [h]
@[simp] theorem execOwnershipTimeout_wf (core index : Nat) (s : State) (h : Memory.wf s.mem = true) :
    OutWf (execOwnershipTimeout core index s) := by
  unfold execOwnershipTimeout
  split <;> simp +contextual [h]
@[simp] theorem execCollectiveComplete_wf (index : Nat) (arrival : List Nat) (s : State) (h : Memory.wf s.mem = true) :
    OutWf (execCollectiveComplete index arrival s) := by
  unfold execCollectiveComplete
  split
  · simp +contextual [h]
  · split <;> simp +contextual [h]
@[simp] theorem State.dropStore_mem (s : State) (k i : Nat) : (State.dropStore s k i).mem = s.mem := rfl
@[simp] theorem execStorePerformed_wf (core index : Nat) (s : State) (h : Memory.wf s.mem = true) :
    OutWf (execStorePerformed core index s) := by
  unfold execStorePerformed
  split <;> simp +contextual [h]
@[simp] theorem execReplicatedWrite_wf (core index : Nat) (s : State) (h : Memory.wf s.mem = true) :
    OutWf (execReplicatedWrite core index s) := by
  unfold execReplicatedWrite
  split <;> simp +contextual [h]
@[simp] theorem execReplicaAck_wf (stamp die : Nat) (s : State) (h : Memory.wf s.mem = true) : OutWf (execReplicaAck stamp die s) := by
  unfold execReplicaAck
  simp +contextual [h]
@[simp] theorem execReplicaCommit_wf (stamp : Nat) (s : State) (h : Memory.wf s.mem = true) : OutWf (execReplicaCommit stamp s) := by
  unfold execReplicaCommit
  simp +contextual [h]
@[simp] theorem execSequencerFailover_wf (s : State) (h : Memory.wf s.mem = true) : OutWf (execSequencerFailover s) := by
  unfold execSequencerFailover
  simp +contextual [h]
@[simp] theorem execExpertRowArrival_wf (index : Nat) (s : State) (h : Memory.wf s.mem = true) : OutWf (execExpertRowArrival index s) := by
  unfold execExpertRowArrival
  split <;> simp +contextual [h]
@[simp] theorem execExpertRelease_wf (die buf : Nat) (s : State) (h : Memory.wf s.mem = true) : OutWf (execExpertRelease die buf s) := by
  unfold execExpertRelease
  simp +contextual [h]
@[simp] theorem execOverflowDecision_wf (die buf : Nat) (s : State) (h : Memory.wf s.mem = true) :
    OutWf (execOverflowDecision die buf s) := by
  unfold execOverflowDecision
  simp +contextual [h]
@[simp] theorem State.tellAgain_mem (s : State) (d b : Nat) : (State.tellAgain s d b).mem = s.mem := by
  unfold State.tellAgain
  split <;> simp
@[simp] theorem execExpertBufferConfiguration_wf (die : Nat) (cfg : ExpertCfg) (s : State) (h : Memory.wf s.mem = true) :
    OutWf (execExpertBufferConfiguration die cfg s) := by
  unfold execExpertBufferConfiguration
  split
  · simp +contextual [h]
  · split <;> simp +contextual [h]
@[simp] theorem State.modLink_mem (s : State) (d k : Nat) (f : Link → Link) : (State.modLink s d k f).mem = s.mem := rfl
@[simp] theorem State.modEdge_mem (s : State) (d k : Nat) (f : Link → Link) : (State.modEdge s d k f).mem = s.mem := by
  unfold State.modEdge
  split <;> simp
@[simp] theorem State.edgeRecord_mem (s : State) (d k sev : Nat) : (State.edgeRecord s d k sev).mem = s.mem := by
  unfold State.edgeRecord
  simp
@[simp] theorem State.publishTimes_mem (s : State) (l : List TimeEntry) : (State.publishTimes s l).mem = s.mem := by
  unfold State.publishTimes
  simp
@[simp] theorem State.publishBands_mem (s : State) (l : List FretEntry) : (State.publishBands s l).mem = s.mem := by
  unfold State.publishBands
  simp
@[simp] theorem State.retime_mem (s : State) (d : Nat) (times : List TimeEntry) (bands : List FretEntry) :
    (State.retime s d times bands).mem = s.mem := by
  unfold State.retime
  simp
@[simp] theorem execTimeTablePublish_wf (entries : List TimeEntry) (s : State) (h : Memory.wf s.mem = true) :
    OutWf (execTimeTablePublish entries s) := by
  unfold execTimeTablePublish
  simp +contextual [h]
@[simp] theorem execClockChange_wf (die clock : Nat) (entries : List TimeEntry) (bands : List FretEntry) (s : State)
    (h : Memory.wf s.mem = true) : OutWf (execClockChange die clock entries bands s) := by
  unfold execClockChange
  simp +contextual [h]
@[simp] theorem execThermalClockStep_wf (die : Nat) (s : State) (h : Memory.wf s.mem = true) : OutWf (execThermalClockStep die s) := by
  unfold execThermalClockStep
  simp +contextual [h]
@[simp] theorem State.lostRecord_mem (s : State) (k array : Nat) : (State.lostRecord s k array).mem = s.mem := by
  unfold State.lostRecord
  simp
@[simp] theorem State.loseMember_mem (s : State) (k : Nat) : (State.loseMember s k).mem = s.mem := by
  unfold State.loseMember
  split <;> simp
@[simp] theorem State.loseTask_wf (s : State) (k : Nat) (h : Memory.wf s.mem = true) :
    Memory.wf (State.loseTask s k).mem = true := by
  unfold State.loseTask
  split <;> simp +contextual [h]
@[simp] theorem State.loseTile_wf (s : State) (k array : Nat) (h : Memory.wf s.mem = true) :
    Memory.wf (State.loseTile s k array).mem = true := by
  unfold State.loseTile
  simp +contextual [h]
@[simp] theorem execTileLost_wf (core : Nat) (array : Nat) (s : State) (h : Memory.wf s.mem = true) :
    OutWf (execTileLost core array s) := by
  unfold execTileLost
  simp +contextual [h]
@[simp] theorem execThermalCutoff_wf (die : Nat) (s : State) (h : Memory.wf s.mem = true) : OutWf (execThermalCutoff die s) := by
  unfold execThermalCutoff
  simp +contextual [h]
@[simp] theorem State.saveGridOf_mem (s : State) (k : Nat) : (State.saveGridOf s k).mem = s.mem := by
  unfold State.saveGridOf
  split
  · simp
  · split <;> simp
@[simp] theorem State.rebind_mem (s : State) (k : Nat) (spare : Bool) : (State.rebind s k spare).mem = s.mem := by
  unfold State.rebind
  simp
@[simp] theorem State.retireTile_mem (s : State) (k : Nat) (spare : Bool) : (State.retireTile s k spare).mem = s.mem := by
  unfold State.retireTile
  simp
@[simp] theorem execTileRetire_wf (core : Nat) (spare : Bool) (s : State) (h : Memory.wf s.mem = true) :
    OutWf (execTileRetire core spare s) := by
  unfold execTileRetire
  simp +contextual [h]
@[simp] theorem execTilePowerGating_wf (core : Nat) (s : State) (h : Memory.wf s.mem = true) : OutWf (execTilePowerGating core s) := by
  unfold execTilePowerGating
  simp +contextual [h]
@[simp] theorem execLaneQuadFusing_wf (core quad : Nat) (s : State) (h : Memory.wf s.mem = true) :
    OutWf (execLaneQuadFusing core quad s) := by
  unfold execLaneQuadFusing
  simp +contextual [h]
@[simp] theorem execBankDrowsy_wf (core bank : Nat) (s : State) (h : Memory.wf s.mem = true) : OutWf (execBankDrowsy core bank s) := by
  unfold execBankDrowsy
  simp +contextual [h]
@[simp] theorem execAccumulatorRefresh_wf (_core _acc : Nat) (s : State) (h : Memory.wf s.mem = true) :
    OutWf (execAccumulatorRefresh _core _acc s) := by
  unfold execAccumulatorRefresh
  simp +contextual [h]
@[simp] theorem execDebugRead_wf (name : BitVec 32) (item : DebugItem) (s : State) (h : Memory.wf s.mem = true) :
    OutWf (execDebugRead name item s) := by
  unfold execDebugRead
  split <;> simp +contextual [h]
@[simp] theorem State.failEdge_mem (s : State) (d k : Nat) : (State.failEdge s d k).mem = s.mem := by
  unfold State.failEdge
  simp
@[simp] theorem execLinkRetrain_wf (die dir link : Nat) (outcome : LinkOutcome) (lo hi : Nat) (s : State) (h : Memory.wf s.mem = true) :
    OutWf (execLinkRetrain die dir link outcome lo hi s) := by
  unfold execLinkRetrain
  simp +contextual [h]
@[simp] theorem execLinkFail_wf (die dir : Nat) (s : State) (h : Memory.wf s.mem = true) : OutWf (execLinkFail die dir s) := by
  unfold execLinkFail
  simp +contextual [h]
@[simp] theorem State.severGrid_wf (s : State) (gid : Nat) (edge : Nat × Nat) (h : Memory.wf s.mem = true) :
    Memory.wf (State.severGrid s gid edge).mem = true := by
  unfold State.severGrid
  split <;> simp +contextual [h]
@[simp] theorem State.portDown_mem (s : State) (port : Nat) : (State.portDown s port).mem = s.mem := rfl
@[simp] theorem State.dropRims_mem (s : State) (p : Nat) : (State.dropRims s p).mem = s.mem := rfl
@[simp] theorem State.dropPorts_mem (s : State) : (State.dropPorts s).mem = s.mem :=
  mem_foldl _ fun s n => by split <;> rfl
@[simp] theorem State.installRoutes_mem (s : State) (p : Nat) (tables : RouteTables) : (State.installRoutes s p tables).mem = s.mem := rfl
@[simp] theorem execRouteSwitchover_wf (part : Nat) (tables : RouteTables) (s : State) (h : Memory.wf s.mem = true) :
    OutWf (execRouteSwitchover part tables s) := by
  unfold execRouteSwitchover
  simp +contextual [h]

end Sys2Proof.Machine
end

section
/-! Canonical memory: meters, Cinov, host accesses, boot and reset. -/

namespace Sys2Proof.Machine

@[simp] theorem State.modAccount_mem (s : State) (a : Account) (f : Acct → Acct) : (State.modAccount s a f).mem = s.mem := by
  unfold State.modAccount
  simp
@[simp] theorem State.charge_mem (s : State) (a : Account) (pj : Int) (gap : Bool) : (State.charge s a pj gap).mem = s.mem := by
  unfold State.charge
  simp
@[simp] theorem State.chargeAll_mem (s : State) (num den : Nat) (gap : Bool) (l : List (Account × Nat)) :
    (s.chargeAll num den gap l).1.mem = s.mem := by
  induction l generalizing s with
  | nil => rfl
  | cons a l ih => exact (ih _).trans (by simp)
@[simp] theorem State.reconcile_mem (s : State) (d emeas : Nat) (counts : List (Account × Nat)) (others : Nat × Nat) (sensorOk : Bool) :
    (s.reconcile d emeas counts others sensorOk).mem = s.mem := by
  unfold State.reconcile
  rw [State.fresh_eq]
  dsimp only
  have hc (num den) := State.chargeAll_mem { s with free := s.free + 1 } num den ((s.die d).meterFaulty || !sensorOk) counts
  rw [mem_ite, mem_ite]
  simp only [State.modDie_mem, mem_ite, State.zoneRecord_mem, ite_self, hc, State.charge_mem]
@[simp] theorem State.gatherCounts_mem (s : State) (d : Nat) : (State.gatherCounts s d).mem = s.mem := by
  unfold State.gatherCounts
  simp
@[simp] theorem execMeterReconcile_wf (die emeas : Nat) (uses : List EnergyUse) (others : Nat × Nat) (sensorOk : Bool) (s : State)
    (h : Memory.wf s.mem = true) : OutWf (execMeterReconcile die emeas uses others sensorOk s) := by
  unfold execMeterReconcile
  simp +contextual [h]
@[simp] theorem State.journalReading_mem (s : State) (flags part job start energy cumul acc : Nat) :
    (State.journalReading s flags part job start energy cumul acc).mem = s.mem := rfl
@[simp] theorem State.eventReading_mem (s : State) (code : Nat) : (State.eventReading s code).mem = s.mem := rfl
@[simp] theorem State.journalAccount_mem (s : State) (a : Account) (x : Acct) : (s.journalAccount a x).1.mem = s.mem := by
  unfold State.journalAccount
  split <;> rfl
@[simp] theorem State.journalAll_mem (s : State) (l : List (Account × Acct)) : (s.journalAll l).1.mem = s.mem := by
  induction l generalizing s with
  | nil => rfl
  | cons a l ih => exact (ih _).trans (s.journalAccount_mem a.1 a.2)
@[simp] theorem State.journalAccounts_mem (s : State) : s.journalAccounts.mem = s.mem := by
  simp [State.journalAccounts]
@[simp] theorem State.shareOverhead_mem (s : State) : (State.shareOverhead s).mem = s.mem := by
  unfold State.shareOverhead
  split <;> simp
@[simp] theorem State.signJournal_mem (s : State) : (State.signJournal s).mem = s.mem := rfl
@[simp] theorem State.endPeriod_mem (s : State) : (State.endPeriod s).mem = s.mem := by
  unfold State.endPeriod
  simp
@[simp] theorem State.endJournal_mem (s : State) (signatureOk : Bool) : (State.endJournal s signatureOk).mem = s.mem := by
  unfold State.endJournal
  simp
@[simp] theorem execJournalPeriod_wf (signatureOk : Bool) (s : State) (h : Memory.wf s.mem = true) :
    OutWf (execJournalPeriod signatureOk s) := by
  unfold execJournalPeriod
  simp +contextual [h]
@[simp] theorem execReadings_wf (fromSeq ackSeq : Nat) (s : State) (h : Memory.wf s.mem = true) :
    OutWf (execReadings fromSeq ackSeq s) := by
  unfold execReadings
  simp +contextual [h]
@[simp] theorem execEnclosureOpen_wf (s : State) (h : Memory.wf s.mem = true) : OutWf (execEnclosureOpen s) := by
  unfold execEnclosureOpen
  simp +contextual [h]
@[simp] theorem execDebugPortEnable_wf (s : State) (h : Memory.wf s.mem = true) : OutWf (execDebugPortEnable s) := by
  unfold execDebugPortEnable
  simp +contextual [h]
@[simp] theorem execCoefficientTableChange_wf (table : List Nat) (s : State) (h : Memory.wf s.mem = true) :
    OutWf (execCoefficientTableChange table s) := by
  unfold execCoefficientTableChange
  simp +contextual [h]
@[simp] theorem execReadingKeyReplacement_wf (key : Nat) (s : State) (h : Memory.wf s.mem = true) :
    OutWf (execReadingKeyReplacement key s) := by
  unfold execReadingKeyReplacement
  simp +contextual [h]
@[simp] theorem State.moveRef_mem (s : State) (r : Nat) : (State.moveRef s r).mem = s.mem := rfl
@[simp] theorem execAlwaysOnLoss_wf (s : State) (h : Memory.wf s.mem = true) : OutWf (execAlwaysOnLoss s) := by
  unfold execAlwaysOnLoss
  simp +contextual [h]
@[simp] theorem execModuleControllerTakeover_wf (s : State) (h : Memory.wf s.mem = true) : OutWf (execModuleControllerTakeover s) := by
  unfold execModuleControllerTakeover
  simp +contextual [h]
theorem State.asidPage_wf {s t : State} {p asid need va n : Nat} {x : Piece} (h : Memory.wf s.mem = true)
    (ht : s.asidPage p asid need va n = .ok (x, t)) : Memory.wf t.mem = true := by
  unfold State.asidPage at ht
  split at ht
  · split at ht <;> cases ht
    simp [h]
  · split at ht <;> cases ht
    exact h
  · cases ht
theorem State.asidPieces_wf {s t : State} {p asid need fuel va n : Nat} {l : List Piece} (h : Memory.wf s.mem = true)
    (ht : s.asidPieces p asid need fuel va n = .ok (l, t)) : Memory.wf t.mem = true := by
  induction fuel generalizing s va n l with
  | zero =>
    cases ht
    exact h
  | succ fuel ih =>
    unfold State.asidPieces at ht
    split at ht
    · cases ht
      exact h
    · dsimp only at ht
      split at ht
      · cases ht
      · rename_i hp
        split at ht <;> cases ht
        rename_i hl
        exact ih (State.asidPage_wf h hp) hl
theorem State.asidRead_wf {s t : State} {p asid va n : Nat} {b : List Byte} (h : Memory.wf s.mem = true)
    (ht : s.asidRead p asid va n = .ok (b, t)) : Memory.wf t.mem = true := by
  unfold State.asidRead at ht
  split at ht
  · cases ht
  · rename_i hl
    have hw := State.asidPieces_wf h hl
    dsimp only at ht
    split at ht
    · cases ht
    · split at ht <;> cases ht
      simp [hw]
theorem State.asidWrite_wf {s t : State} {p asid va : Nat} {b : List Byte} (h : Memory.wf s.mem = true)
    (ht : s.asidWrite p asid va b = .ok t) : Memory.wf t.mem = true := by
  unfold State.asidWrite at ht
  split at ht
  · cases ht
  · rename_i hl
    have hw := State.asidPieces_wf h hl
    dsimp only at ht
    split at ht
    · cases ht
    · split at ht <;> cases ht
      exact State.writePieces_wf _ _ _ _ _ (by simp [hw])
theorem State.cinovLocal_wf {s t : State} {p asid : Nat} {o : CinovOp} {b : List Byte} (h : Memory.wf s.mem = true)
    (ht : s.cinovLocal p asid o = .ok (b, t)) : Memory.wf t.mem = true := by
  unfold State.cinovLocal at ht
  split at ht
  · cases ht
  · split at ht
    · cases ht
      exact h
    · exact State.asidRead_wf h ht
@[simp] theorem State.cinovPacket_mem (s : State) (p : Nat) (o : CinovOp) (d : List Byte) (n : Nat) :
    (State.cinovPacket s p o d n).mem = s.mem := rfl
theorem State.takeEntry_wf {s t : State} {p i : Nat} (h : Memory.wf s.mem = true) (ht : s.takeEntry p i = some t) :
    Memory.wf t.mem = true := by
  unfold State.takeEntry at ht
  dsimp only at ht
  split at ht
  · cases ht
  · rename_i hr
    have hw := State.asidRead_wf h hr
    split at ht
    · cases ht
      exact hw
    · split at ht
      · cases ht
      · cases ht
        exact hw
      · rename_i hl
        cases ht
        rw [State.modPart_mem, mem_foldl _ fun _ _ => State.cinovPacket_mem ..]
        exact State.cinovLocal_wf hw hl
@[simp] theorem State.takeEntries_wf (s : State) (p n : Nat) (h : Memory.wf s.mem = true) :
    Memory.wf (s.takeEntries p n).mem = true := by
  induction n generalizing s with
  | zero => exact h
  | succ n ih =>
    unfold State.takeEntries
    split
    · exact h
    · rename_i ht
      exact ih _ (State.takeEntry_wf h ht)
@[simp] theorem execCinovDoorbell_wf (part : Nat) (s : State) (h : Memory.wf s.mem = true) : OutWf (execCinovDoorbell part s) := by
  unfold execCinovDoorbell
  dsimp only
  split
  · exact h
  · split
    · exact h
    · rename_i hr
      have hw := State.asidRead_wf h hr
      simp [hw]
theorem State.cinovOutcome_wf {s t : State} {p status st : Nat} {o : CinovOp} {data : List Byte} (h : Memory.wf s.mem = true)
    (ht : s.cinovOutcome p o status data = some (st, t)) : Memory.wf t.mem = true := by
  unfold State.cinovOutcome at ht
  dsimp only at ht
  split at ht
  · cases ht
    exact h
  · split at ht
    · cases ht
      exact h
    · split at ht
      · cases ht
        exact h
      · split at ht
        · cases ht
          exact h
        · split at ht <;> cases ht
          · exact h
          · rename_i hw
            exact State.asidWrite_wf (s := { s with free := s.free + o.len }) h hw
theorem State.reportWrite_wf {s t : State} {p va : Nat} {b : List Byte} (h : Memory.wf s.mem = true)
    (ht : s.reportWrite p va b = some t) : Memory.wf t.mem = true := by
  unfold State.reportWrite at ht
  split at ht <;> cases ht
  · exact h
  · rename_i hw
    exact State.asidWrite_wf h hw
theorem State.cinovCount_wf {s t : State} {p : Nat} {o : CinovOp} (h : Memory.wf s.mem = true)
    (ht : s.cinovCount p o = some t) : Memory.wf t.mem = true := by
  unfold State.cinovCount at ht
  split at ht
  · cases ht
  · cases ht
    exact h
  · rename_i hr
    exact State.reportWrite_wf (State.asidRead_wf h hr) ht
theorem State.cinovReport_wf {s t : State} {p status : Nat} {o : CinovOp} (h : Memory.wf s.mem = true)
    (ht : s.cinovReport p o status = some t) : Memory.wf t.mem = true := by
  unfold State.cinovReport at ht
  obtain ⟨u, hu, ht⟩ := Option.bind_eq_some_iff.mp ht
  exact State.cinovCount_wf (State.reportWrite_wf h hu) ht
@[simp] theorem execCinovComplete_wf (part status : Nat) (data : List (BitVec 8)) (s : State) (h : Memory.wf s.mem = true) :
    OutWf (execCinovComplete part status data s) := by
  unfold execCinovComplete
  split
  · exact h
  · split
    · exact h
    · rename_i ho
      split
      · exact h
      · rename_i hr
        have hw := State.cinovReport_wf (State.cinovOutcome_wf h ho) hr
        exact hw
@[simp] theorem execCinovRetransmit_wf (part peer : Nat) (s : State) (h : Memory.wf s.mem = true) :
    OutWf (execCinovRetransmit part peer s) := by
  unfold execCinovRetransmit
  simp +contextual [h]
@[simp] theorem State.cinovAnswer_mem (s : State) (a : Answer) (status : Nat) (data : List Byte) :
    (State.cinovAnswer s a status data).mem = s.mem := by
  unfold State.cinovAnswer
  simp
@[simp] theorem State.cinovMessage_mem (s : State) (a : Answer) (name cls : Nat) (data : List Byte) :
    (State.cinovMessage s a name cls data).mem = s.mem := by
  unfold State.cinovMessage
  split <;> simp
@[simp] theorem State.cinovServe_wf (s : State) (a : Answer) (op : CinovReq) (h : Memory.wf s.mem = true) :
    Memory.wf (State.cinovServe s a op).mem = true := by
  unfold State.cinovServe
  cases op with
  | put part asid addr data =>
    dsimp only
    split
    · exact h
    · split
      · exact h
      · simp [h]
      · rename_i hw
        simp [State.asidWrite_wf h hw]
  | get part asid addr len =>
    dsimp only
    split
    · exact h
    · split
      · exact h
      · simp [h]
      · rename_i hr
        simp [State.asidRead_wf h hr]
  | msg name cls data => simp [h]
@[simp] theorem State.cinovAccept_wf (s : State) (port : Nat) (x : CinovIn) (h : Memory.wf s.mem = true) :
    Memory.wf (State.cinovAccept s port x).mem = true := by
  unfold State.cinovAccept
  split <;> simp +contextual [h]
@[simp] theorem execEthernetFrameRx_wf (port : Nat) (fcsOk : Bool) (op : CinovIn) (s : State) (h : Memory.wf s.mem = true) :
    OutWf (execEthernetFrameRx port fcsOk op s) := by
  unfold execEthernetFrameRx
  simp +contextual [h]
@[simp] theorem execEthernetPortFail_wf (port : Nat) (s : State) (h : Memory.wf s.mem = true) : OutWf (execEthernetPortFail port s) := by
  unfold execEthernetPortFail
  simp +contextual [h]
@[simp] theorem execHostMemStore_wf (part offset : Nat) (data : List (BitVec 8)) (s : State) (h : Memory.wf s.mem = true) :
    OutWf (execHostMemStore part offset data s) := by
  unfold execHostMemStore
  split <;> simp +contextual [h]
@[simp] theorem State.hostHolds_mem (s : State) (p a n : Nat) : (State.hostHolds s p a n).mem = s.mem := rfl
@[simp] theorem execHostMemRead_wf (part offset len : Nat) (s : State) (h : Memory.wf s.mem = true) :
    OutWf (execHostMemRead part offset len s) := by
  unfold execHostMemRead
  split <;> simp +contextual [h]
@[simp] theorem State.answerSnoop_wf (s : State) (i : Nat) (l : Nat × Nat) (data : Option (List Byte)) (h : Memory.wf s.mem = true) :
    Memory.wf (State.answerSnoop s i l data).mem = true := by
  unfold State.answerSnoop
  split <;> simp +contextual [h]
@[simp] theorem execBackInvalidateResponse_wf (index : Nat) (data : Option (List (BitVec 8))) (s : State) (h : Memory.wf s.mem = true) :
    OutWf (execBackInvalidateResponse index data s) := by
  unfold execBackInvalidateResponse
  split <;> simp +contextual [h]
@[simp] theorem execSnoopTimeout_wf (index : Nat) (s : State) (h : Memory.wf s.mem = true) : OutWf (execSnoopTimeout index s) := by
  unfold execSnoopTimeout
  split <;> simp +contextual [h]
@[simp] theorem State.hostGiveBack_mem (s : State) (a : Nat) : (State.hostGiveBack s a).mem = s.mem := rfl
@[simp] theorem execCxlCacheResponse_wf (pa : Nat) (data : Option (List (BitVec 8))) (poisoned : Bool) (s : State)
    (h : Memory.wf s.mem = true) : OutWf (execCxlCacheResponse pa data poisoned s) := by
  unfold execCxlCacheResponse
  split <;> simp +contextual [h]
@[simp] theorem execCxlLinkDown_wf (port : Nat) (s : State) (h : Memory.wf s.mem = true) : OutWf (execCxlLinkDown port s) := by
  unfold execCxlLinkDown
  simp +contextual [h]
@[simp] theorem State.writeAsid_wf (s : State) (asid table p : Nat) (h : Memory.wf s.mem = true) :
    Memory.wf (State.writeAsid s asid table p).mem = true := by
  unfold State.writeAsid
  simp +contextual [h]
@[simp] theorem State.setUp_wf (s : State) (x : PartSetup) (h : Memory.wf s.mem = true) : Memory.wf (s.setUp x).mem = true := by
  unfold State.setUp
  dsimp only
  rw [mem_foldl _ fun _ _ => State.modTile_mem .., State.modPart_mem]
  exact wf_foldl _ (fun t a ht => State.writeAsid_wf t a.1 a.2 x.number ht) h
@[simp] theorem State.tearDown_wf (s : State) (p : Nat) (h : Memory.wf s.mem = true) :
    Memory.wf (State.tearDown s p).mem = true := by
  unfold State.tearDown
  simp +contextual [h]
@[simp] theorem State.refuseCommand_mem (s : State) : (State.refuseCommand s).mem = s.mem := rfl
@[simp] theorem execPartition_wf (setup : PartSetup) (s : State) (h : Memory.wf s.mem = true) : OutWf (execPartition setup s) := by
  unfold execPartition
  simp +contextual [h]
@[simp] theorem State.resetDie_wf (s : State) (d : Nat) (h : Memory.wf s.mem = true) :
    Memory.wf (State.resetDie s d).mem = true := by
  unfold State.resetDie
  simp +contextual [h]
@[simp] theorem execPolicy_wf (cmd : PolicyCmd) (s : State) (h : Memory.wf s.mem = true) : OutWf (execPolicy cmd s) := by
  unfold execPolicy
  repeat' split
  all_goals simp +contextual [h]
@[simp] theorem execCensus_wf (s : State) (h : Memory.wf s.mem = true) : OutWf (execCensus s) := by
  unfold execCensus
  simp +contextual [h]
@[simp] theorem execFirmware_wf (image : Nat) (signed : Bool) (s : State) (h : Memory.wf s.mem = true) :
    OutWf (execFirmware image signed s) := by
  unfold execFirmware
  simp +contextual [h]
@[simp] theorem State.bootLinks_mem (s : State) (b : BootData) : (s.bootLinks b).mem = s.mem :=
  mem_foldl _ fun _ _ => rfl
/-- A change of every die of a list leaves memory as it is. -/
theorem foldl_modDie_mem (l : List Nat) (s : State) (f : Die → Die) :
    (l.foldl (fun (s : State) d => s.modDie d f) s).mem = s.mem := mem_foldl l fun _ _ => rfl
@[simp] theorem State.bootTables_mem (s : State) (b : BootData) : (s.bootTables b).mem = s.mem := by
  unfold State.bootTables
  dsimp only
  rw [foldl_modDie_mem, State.publishBands_mem, State.publishTimes_mem]
  dsimp only
  rw [foldl_modDie_mem]
@[simp] theorem State.bootPartitions_wf (s : State) (b : BootData) (h : Memory.wf s.mem = true) :
    Memory.wf (State.bootPartitions s b).mem = true := by
  unfold State.bootPartitions
  simp +contextual [h]
@[simp] theorem State.activate_mem (s : State) (slot : Nat) : (State.activate s slot).mem = s.mem := by
  unfold State.activate
  simp
@[simp] theorem execPowerGood_wf (boot : BootData) (s : State) (h : Memory.wf s.mem = true) : OutWf (execPowerGood boot s) := by
  unfold execPowerGood
  split
  · simp +contextual [h]
  · split <;> simp +contextual [h]
@[simp] theorem execBootTimeout_wf (s : State) (h : Memory.wf s.mem = true) : OutWf (execBootTimeout s) := by
  unfold execBootTimeout
  simp +contextual [h]
@[simp] theorem execCxlConfigRequest_wf (request : ConfigRequest) (s : State) (h : Memory.wf s.mem = true) :
    OutWf (execCxlConfigRequest request s) := by
  unfold execCxlConfigRequest
  simp +contextual [h]
@[simp] theorem State.afterReset_wf (s : State) : Memory.wf s.afterReset.mem = true := rfl
@[simp] theorem execModuleReset_wf (waited : Nat) (s : State) (h : Memory.wf s.mem = true) : OutWf (execModuleReset waited s) := by
  unfold execModuleReset
  simp +contextual [h]

end Sys2Proof.Machine
end

section
/-! Canonical memory: integer, control, capability, lattice, load and store instructions. -/

namespace Sys2Proof.Machine

@[simp] theorem compare_wf (minor : Nat) (sw : Bool) (p : Fin 8) (a b : Fin 64) (f : Word → Word → Bool) (s : State)
    (h : Memory.wf s.mem = true) : OutWf (compare minor sw p a b f s) := by
  unfold compare
  refine issue_wf ?_ h
  repeat' with_reducible refine keeps_bind ?_ fun _ => ?_
  all_goals simp
@[simp] theorem predOp_wf (minor : Nat) (sw : Bool) (d a b : Fin 8) (f : Word → Word → Word) (s : State) (h : Memory.wf s.mem = true) :
    OutWf (predOp minor sw d a b f s) := by
  unfold predOp
  refine issue_wf ?_ h
  repeat' with_reducible refine keeps_bind ?_ fun _ => ?_
  all_goals simp
@[simp] theorem execCmpEq_wf (p : Fin 8) (a b : Fin 64) (sw : Bool) (s : State) (h : Memory.wf s.mem = true) :
    OutWf (execCmpEq p a b sw s) := by
  unfold execCmpEq
  simp +contextual [h]
@[simp] theorem execCmpNe_wf (p : Fin 8) (a b : Fin 64) (sw : Bool) (s : State) (h : Memory.wf s.mem = true) :
    OutWf (execCmpNe p a b sw s) := by
  unfold execCmpNe
  simp +contextual [h]
@[simp] theorem execCmpLt_wf (p : Fin 8) (a b : Fin 64) (sw : Bool) (s : State) (h : Memory.wf s.mem = true) :
    OutWf (execCmpLt p a b sw s) := by
  unfold execCmpLt
  simp +contextual [h]
@[simp] theorem execCmpGe_wf (p : Fin 8) (a b : Fin 64) (sw : Bool) (s : State) (h : Memory.wf s.mem = true) :
    OutWf (execCmpGe p a b sw s) := by
  unfold execCmpGe
  simp +contextual [h]
@[simp] theorem execCmpLtu_wf (p : Fin 8) (a b : Fin 64) (sw : Bool) (s : State) (h : Memory.wf s.mem = true) :
    OutWf (execCmpLtu p a b sw s) := by
  unfold execCmpLtu
  simp +contextual [h]
@[simp] theorem execCmpGeu_wf (p : Fin 8) (a b : Fin 64) (sw : Bool) (s : State) (h : Memory.wf s.mem = true) :
    OutWf (execCmpGeu p a b sw s) := by
  unfold execCmpGeu
  simp +contextual [h]
@[simp] theorem execSel_wf (d a b : Fin 64) (k : Fin 8) (sw : Bool) (s : State) (h : Memory.wf s.mem = true) :
    OutWf (execSel d a b k sw s) := by
  unfold execSel
  refine issue_wf ?_ h
  repeat' with_reducible refine keeps_bind ?_ fun _ => ?_
  all_goals simp
@[simp] theorem execPand_wf (d a b : Fin 8) (sw : Bool) (s : State) (h : Memory.wf s.mem = true) : OutWf (execPand d a b sw s) := by
  unfold execPand
  simp +contextual [h]
@[simp] theorem execPor_wf (d a b : Fin 8) (sw : Bool) (s : State) (h : Memory.wf s.mem = true) : OutWf (execPor d a b sw s) := by
  unfold execPor
  simp +contextual [h]
@[simp] theorem execPxor_wf (d a b : Fin 8) (sw : Bool) (s : State) (h : Memory.wf s.mem = true) : OutWf (execPxor d a b sw s) := by
  unfold execPxor
  simp +contextual [h]
@[simp] theorem execPnot_wf (d a : Fin 8) (sw : Bool) (s : State) (h : Memory.wf s.mem = true) : OutWf (execPnot d a sw s) := by
  unfold execPnot
  simp +contextual [h]
@[simp] theorem capOp_wf (fn : Nat) (sw : Bool) (d a b : Fin 64) (f : Reg → Reg → Reg) (s : State) (h : Memory.wf s.mem = true) :
    OutWf (capOp fn sw d a b f s) := by
  unfold capOp
  refine issue_wf ?_ h
  repeat' with_reducible refine keeps_bind ?_ fun _ => ?_
  all_goals simp
@[simp] theorem capOp1_wf (fn : Nat) (sw : Bool) (d a : Fin 64) (f : Reg → Reg) (s : State) (h : Memory.wf s.mem = true) :
    OutWf (capOp1 fn sw d a f s) := by
  unfold capOp1
  refine issue_wf ?_ h
  repeat' with_reducible refine keeps_bind ?_ fun _ => ?_
  all_goals simp
@[simp] theorem execCsetb_wf (d a b : Fin 64) (sw : Bool) (s : State) (h : Memory.wf s.mem = true) : OutWf (execCsetb d a b sw s) := by
  unfold execCsetb
  simp +contextual [h]
@[simp] theorem execCgetb_wf (d a : Fin 64) (sw : Bool) (s : State) (h : Memory.wf s.mem = true) : OutWf (execCgetb d a sw s) := by
  unfold execCgetb
  simp +contextual [h]
@[simp] theorem execCgetl_wf (d a : Fin 64) (sw : Bool) (s : State) (h : Memory.wf s.mem = true) : OutWf (execCgetl d a sw s) := by
  unfold execCgetl
  simp +contextual [h]
@[simp] theorem execCandp_wf (d a b : Fin 64) (sw : Bool) (s : State) (h : Memory.wf s.mem = true) : OutWf (execCandp d a b sw s) := by
  unfold execCandp
  simp +contextual [h]
@[simp] theorem execCseal_wf (d a b : Fin 64) (sw : Bool) (s : State) (h : Memory.wf s.mem = true) : OutWf (execCseal d a b sw s) := by
  unfold execCseal
  simp +contextual [h]
@[simp] theorem execCunseal_wf (d a b : Fin 64) (sw : Bool) (s : State) (h : Memory.wf s.mem = true) : OutWf (execCunseal d a b sw s) := by
  unfold execCunseal
  simp +contextual [h]
@[simp] theorem execCadd_wf (d a b : Fin 64) (sw : Bool) (s : State) (h : Memory.wf s.mem = true) : OutWf (execCadd d a b sw s) := by
  unfold execCadd
  simp +contextual [h]
@[simp] theorem execCtag_wf (d a : Fin 64) (sw : Bool) (s : State) (h : Memory.wf s.mem = true) : OutWf (execCtag d a sw s) := by
  unfold execCtag
  simp +contextual [h]
@[simp] theorem execCclr_wf (d a : Fin 64) (sw : Bool) (s : State) (h : Memory.wf s.mem = true) : OutWf (execCclr d a sw s) := by
  unfold execCclr
  simp +contextual [h]
@[simp] theorem execCeq_wf (d a b : Fin 64) (sw : Bool) (s : State) (h : Memory.wf s.mem = true) : OutWf (execCeq d a b sw s) := by
  unfold execCeq
  simp +contextual [h]
@[simp] theorem execCderive_wf (d a b : Fin 64) (sw : Bool) (s : State) (h : Memory.wf s.mem = true) : OutWf (execCderive d a b sw s) := by
  unfold execCderive
  simp +contextual [h]
@[simp] theorem jumpTo_keeps (c : Reg) : Keeps State.Inv (jumpTo c) := by
  unfold jumpTo
  simp
@[simp] theorem branchTarget_keeps (off : Int) : Keeps State.Inv (branchTarget off) := by
  unfold branchTarget
  repeat' with_reducible refine keeps_bind ?_ fun _ => ?_
  all_goals simp
@[simp] theorem checkTarget_keeps (reg src : Nat) (c : Reg) : Keeps State.Inv (checkTarget reg src c) := by
  unfold checkTarget
  repeat' with_reducible refine keeps_bind ?_ fun _ => ?_
  all_goals simp
@[simp] theorem pushReturn_keeps (len : Nat) : Keeps State.Inv (pushReturn len) := by
  unfold pushReturn
  repeat' first | with_reducible refine keeps_get fun s hs => ?_ | with_reducible refine keeps_bind ?_ fun _ => ?_ | split
  all_goals simp
@[simp] theorem popReturn_keeps : Keeps State.Inv popReturn := by
  unfold popReturn
  repeat' first | with_reducible refine keeps_get fun s hs => ?_ | with_reducible refine keeps_bind ?_ fun _ => ?_ | split
  all_goals simp
@[simp] theorem branchOp_wf (len : Nat) (k : Fin 8) (neg : Bool) (off : Int) (sw : Bool) (s : State) (h : Memory.wf s.mem = true) :
    OutWf (branchOp len k neg off sw s) := by
  unfold branchOp
  refine issue_wf ?_ h
  repeat' first | with_reducible refine keeps_get fun s hs => ?_ | with_reducible refine keeps_bind ?_ fun _ => ?_ | split
  all_goals simp
@[simp] theorem jumpReg_wf (len : Nat) (a : Fin 64) (sw : Bool) (s : State) (h : Memory.wf s.mem = true) : OutWf (jumpReg len a sw s) := by
  unfold jumpReg
  refine issue_wf ?_ h
  repeat' with_reducible refine keeps_bind ?_ fun _ => ?_
  all_goals simp
@[simp] theorem callReg_wf (len : Nat) (a : Fin 64) (sw : Bool) (s : State) (h : Memory.wf s.mem = true) : OutWf (callReg len a sw s) := by
  unfold callReg
  refine issue_wf ?_ h
  repeat' with_reducible refine keeps_bind ?_ fun _ => ?_
  all_goals simp
@[simp] theorem returnOp_wf (len : Nat) (sw : Bool) (s : State) (h : Memory.wf s.mem = true) : OutWf (returnOp len sw s) := by
  unfold returnOp
  refine issue_wf ?_ h
  repeat' with_reducible refine keeps_bind ?_ fun _ => ?_
  all_goals simp
@[simp] theorem nopOp_wf (len : Nat) (sw : Bool) (s : State) (h : Memory.wf s.mem = true) : OutWf (nopOp len sw s) := by
  unfold nopOp
  refine issue_wf ?_ h
  simp
@[simp] theorem execB_wf (k : Fin 8) (n : Bool) (off : BitVec 19) (sw : Bool) (s : State) (h : Memory.wf s.mem = true) :
    OutWf (execB k n off sw s) := by
  unfold execB
  simp +contextual [h]
@[simp] theorem execJ_wf (off : BitVec 23) (sw : Bool) (s : State) (h : Memory.wf s.mem = true) : OutWf (execJ off sw s) := by
  unfold execJ
  refine issue_wf ?_ h
  repeat' with_reducible refine keeps_bind ?_ fun _ => ?_
  all_goals simp
@[simp] theorem execCall_wf (off : BitVec 23) (sw : Bool) (s : State) (h : Memory.wf s.mem = true) : OutWf (execCall off sw s) := by
  unfold execCall
  refine issue_wf ?_ h
  repeat' with_reducible refine keeps_bind ?_ fun _ => ?_
  all_goals simp
@[simp] theorem execJr_wf (a : Fin 64) (sw : Bool) (s : State) (h : Memory.wf s.mem = true) : OutWf (execJr a sw s) := by
  unfold execJr
  simp +contextual [h]
@[simp] theorem execCallr_wf (a : Fin 64) (sw : Bool) (s : State) (h : Memory.wf s.mem = true) : OutWf (execCallr a sw s) := by
  unfold execCallr
  simp +contextual [h]
@[simp] theorem execRet_wf (sw : Bool) (s : State) (h : Memory.wf s.mem = true) : OutWf (execRet sw s) := by
  unfold execRet
  simp +contextual [h]
@[simp] theorem execNop_wf (sw : Bool) (s : State) (h : Memory.wf s.mem = true) : OutWf (execNop sw s) := by
  unfold execNop
  simp +contextual [h]
@[simp] theorem execLoop_wf (a : Fin 64) (imm : BitVec 11) (sw : Bool) (s : State) (h : Memory.wf s.mem = true) :
    OutWf (execLoop a imm sw s) := by
  unfold execLoop
  refine issue_wf ?_ h
  repeat' first | with_reducible refine keeps_get fun s hs => ?_ | with_reducible refine keeps_bind ?_ fun _ => ?_ | split | dsimp only
  all_goals simp
@[simp] theorem execLbreak_wf (sw : Bool) (s : State) (h : Memory.wf s.mem = true) : OutWf (execLbreak sw s) := by
  unfold execLbreak
  refine issue_wf ?_ h
  repeat' first | with_reducible refine keeps_get fun s hs => ?_ | with_reducible refine keeps_bind ?_ fun _ => ?_ | split
  all_goals simp
@[simp] theorem execWfe_wf (sw : Bool) (s : State) (h : Memory.wf s.mem = true) : OutWf (execWfe sw s) := by
  unfold execWfe
  refine issue_wf ?_ h
  repeat' first | with_reducible refine keeps_get fun s hs => ?_ | with_reducible refine keeps_bind ?_ fun _ => ?_ | split
  all_goals simp
@[simp] theorem execCJr_wf (a : Fin 16) (sw : Bool) (s : State) (h : Memory.wf s.mem = true) : OutWf (execCJr a sw s) := by
  unfold execCJr
  simp +contextual [h]
@[simp] theorem execCCallr_wf (a : Fin 16) (sw : Bool) (s : State) (h : Memory.wf s.mem = true) : OutWf (execCCallr a sw s) := by
  unfold execCCallr
  simp +contextual [h]
@[simp] theorem execCRet_wf (sw : Bool) (s : State) (h : Memory.wf s.mem = true) : OutWf (execCRet sw s) := by
  unfold execCRet
  simp +contextual [h]
@[simp] theorem execCNop_wf (sw : Bool) (s : State) (h : Memory.wf s.mem = true) : OutWf (execCNop sw s) := by
  unfold execCNop
  simp +contextual [h]
@[simp] theorem execCB_wf (off : BitVec 9) (sw : Bool) (s : State) (h : Memory.wf s.mem = true) : OutWf (execCB off sw s) := by
  unfold execCB
  simp +contextual [h]
@[simp] theorem alu_wf (m : Meta) (d a b : Nat) (f : Word → Word → Word) (s : State) (h : Memory.wf s.mem = true) :
    OutWf (alu m d a b f s) := by
  unfold alu
  refine issue_wf ?_ h
  repeat' with_reducible refine keeps_bind ?_ fun _ => ?_
  all_goals simp
@[simp] theorem alu1_wf (m : Meta) (d a : Nat) (f : Word → Word) (s : State) (h : Memory.wf s.mem = true) : OutWf (alu1 m d a f s) := by
  unfold alu1
  refine issue_wf ?_ h
  repeat' with_reducible refine keeps_bind ?_ fun _ => ?_
  all_goals simp
@[simp] theorem execAdd_wf (d a b : Fin 64) (sw : Bool) (s : State) (h : Memory.wf s.mem = true) : OutWf (execAdd d a b sw s) := by
  unfold execAdd
  simp +contextual [h]
@[simp] theorem execSub_wf (d a b : Fin 64) (sw : Bool) (s : State) (h : Memory.wf s.mem = true) : OutWf (execSub d a b sw s) := by
  unfold execSub
  simp +contextual [h]
@[simp] theorem execAnd_wf (d a b : Fin 64) (sw : Bool) (s : State) (h : Memory.wf s.mem = true) : OutWf (execAnd d a b sw s) := by
  unfold execAnd
  simp +contextual [h]
@[simp] theorem execOr_wf (d a b : Fin 64) (sw : Bool) (s : State) (h : Memory.wf s.mem = true) : OutWf (execOr d a b sw s) := by
  unfold execOr
  simp +contextual [h]
@[simp] theorem execXor_wf (d a b : Fin 64) (sw : Bool) (s : State) (h : Memory.wf s.mem = true) : OutWf (execXor d a b sw s) := by
  unfold execXor
  simp +contextual [h]
@[simp] theorem execAndn_wf (d a b : Fin 64) (sw : Bool) (s : State) (h : Memory.wf s.mem = true) : OutWf (execAndn d a b sw s) := by
  unfold execAndn
  simp +contextual [h]
@[simp] theorem execShl_wf (d a b : Fin 64) (sw : Bool) (s : State) (h : Memory.wf s.mem = true) : OutWf (execShl d a b sw s) := by
  unfold execShl
  simp +contextual [h]
@[simp] theorem execShr_wf (d a b : Fin 64) (sw : Bool) (s : State) (h : Memory.wf s.mem = true) : OutWf (execShr d a b sw s) := by
  unfold execShr
  simp +contextual [h]
@[simp] theorem execShra_wf (d a b : Fin 64) (sw : Bool) (s : State) (h : Memory.wf s.mem = true) : OutWf (execShra d a b sw s) := by
  unfold execShra
  simp +contextual [h]
@[simp] theorem execRot_wf (d a b : Fin 64) (sw : Bool) (s : State) (h : Memory.wf s.mem = true) : OutWf (execRot d a b sw s) := by
  unfold execRot
  simp +contextual [h]
@[simp] theorem execMin_wf (d a b : Fin 64) (sw : Bool) (s : State) (h : Memory.wf s.mem = true) : OutWf (execMin d a b sw s) := by
  unfold execMin
  simp +contextual [h]
@[simp] theorem execMax_wf (d a b : Fin 64) (sw : Bool) (s : State) (h : Memory.wf s.mem = true) : OutWf (execMax d a b sw s) := by
  unfold execMax
  simp +contextual [h]
@[simp] theorem execClz_wf (d a : Fin 64) (sw : Bool) (s : State) (h : Memory.wf s.mem = true) : OutWf (execClz d a sw s) := by
  unfold execClz
  simp +contextual [h]
@[simp] theorem execPopc_wf (d a : Fin 64) (sw : Bool) (s : State) (h : Memory.wf s.mem = true) : OutWf (execPopc d a sw s) := by
  unfold execPopc
  simp +contextual [h]
@[simp] theorem execMov_wf (d a : Fin 64) (sw : Bool) (s : State) (h : Memory.wf s.mem = true) : OutWf (execMov d a sw s) := by
  unfold execMov
  simp +contextual [h]
@[simp] theorem execMul_wf (d a b : Fin 64) (sw : Bool) (s : State) (h : Memory.wf s.mem = true) : OutWf (execMul d a b sw s) := by
  unfold execMul
  simp +contextual [h]
@[simp] theorem execMulh_wf (d a b : Fin 64) (sw : Bool) (s : State) (h : Memory.wf s.mem = true) : OutWf (execMulh d a b sw s) := by
  unfold execMulh
  simp +contextual [h]
@[simp] theorem execMulhU_wf (d a b : Fin 64) (sw : Bool) (s : State) (h : Memory.wf s.mem = true) : OutWf (execMulhU d a b sw s) := by
  unfold execMulhU
  simp +contextual [h]
@[simp] theorem execDiv_wf (d a b : Fin 64) (sw : Bool) (s : State) (h : Memory.wf s.mem = true) : OutWf (execDiv d a b sw s) := by
  unfold execDiv
  simp +contextual [h]
@[simp] theorem execDivU_wf (d a b : Fin 64) (sw : Bool) (s : State) (h : Memory.wf s.mem = true) : OutWf (execDivU d a b sw s) := by
  unfold execDivU
  simp +contextual [h]
@[simp] theorem execRem_wf (d a b : Fin 64) (sw : Bool) (s : State) (h : Memory.wf s.mem = true) : OutWf (execRem d a b sw s) := by
  unfold execRem
  simp +contextual [h]
@[simp] theorem execRemU_wf (d a b : Fin 64) (sw : Bool) (s : State) (h : Memory.wf s.mem = true) : OutWf (execRemU d a b sw s) := by
  unfold execRemU
  simp +contextual [h]
@[simp] theorem execAddi_wf (d a : Fin 64) (imm : BitVec 11) (sw : Bool) (s : State) (h : Memory.wf s.mem = true) :
    OutWf (execAddi d a imm sw s) := by
  unfold execAddi
  simp +contextual [h]
@[simp] theorem loadImm_wf (m : Meta) (d : Nat) (x : Word) (s : State) (h : Memory.wf s.mem = true) : OutWf (loadImm m d x s) := by
  unfold loadImm
  refine issue_wf ?_ h
  repeat' with_reducible refine keeps_bind ?_ fun _ => ?_
  all_goals simp
@[simp] theorem execLi_wf (d : Fin 64) (imm : BitVec 17) (sw : Bool) (s : State) (h : Memory.wf s.mem = true) :
    OutWf (execLi d imm sw s) := by
  unfold execLi
  simp +contextual [h]
@[simp] theorem execLih_wf (d : Fin 64) (imm : BitVec 16) (sw : Bool) (s : State) (h : Memory.wf s.mem = true) :
    OutWf (execLih d imm sw s) := by
  unfold execLih
  simp +contextual [h]
@[simp] theorem execCAdd_wf (d a : Fin 16) (sw : Bool) (s : State) (h : Memory.wf s.mem = true) : OutWf (execCAdd d a sw s) := by
  unfold execCAdd
  simp +contextual [h]
@[simp] theorem execCSub_wf (d a : Fin 16) (sw : Bool) (s : State) (h : Memory.wf s.mem = true) : OutWf (execCSub d a sw s) := by
  unfold execCSub
  simp +contextual [h]
@[simp] theorem execCAnd_wf (d a : Fin 16) (sw : Bool) (s : State) (h : Memory.wf s.mem = true) : OutWf (execCAnd d a sw s) := by
  unfold execCAnd
  simp +contextual [h]
@[simp] theorem execCOr_wf (d a : Fin 16) (sw : Bool) (s : State) (h : Memory.wf s.mem = true) : OutWf (execCOr d a sw s) := by
  unfold execCOr
  simp +contextual [h]
@[simp] theorem execCXor_wf (d a : Fin 16) (sw : Bool) (s : State) (h : Memory.wf s.mem = true) : OutWf (execCXor d a sw s) := by
  unfold execCXor
  simp +contextual [h]
@[simp] theorem execCShl_wf (d a : Fin 16) (sw : Bool) (s : State) (h : Memory.wf s.mem = true) : OutWf (execCShl d a sw s) := by
  unfold execCShl
  simp +contextual [h]
@[simp] theorem execCShr_wf (d a : Fin 16) (sw : Bool) (s : State) (h : Memory.wf s.mem = true) : OutWf (execCShr d a sw s) := by
  unfold execCShr
  simp +contextual [h]
@[simp] theorem execCMov_wf (d a : Fin 16) (sw : Bool) (s : State) (h : Memory.wf s.mem = true) : OutWf (execCMov d a sw s) := by
  unfold execCMov
  simp +contextual [h]
@[simp] theorem execCAddi_wf (d : Fin 16) (imm : BitVec 5) (sw : Bool) (s : State) (h : Memory.wf s.mem = true) :
    OutWf (execCAddi d imm sw s) := by
  unfold execCAddi
  simp +contextual [h]
@[simp] theorem execCLi_wf (d : Fin 16) (imm : BitVec 5) (sw : Bool) (s : State) (h : Memory.wf s.mem = true) :
    OutWf (execCLi d imm sw s) := by
  unfold execCLi
  simp +contextual [h]
@[simp] theorem copyRoom_keeps : Keeps State.Inv copyRoom := by
  unfold copyRoom
  repeat' with_reducible refine keeps_bind ?_ fun _ => ?_
  all_goals simp
@[simp] theorem checkRanges_keeps (reg src : Nat) (c : Reg) (n perms : Nat) (write : Bool) (l : List Nat) :
    Keeps State.Inv (checkRanges reg src c n perms write l) := by
  unfold checkRanges
  repeat' first | with_reducible refine keeps_get fun s hs => ?_ | with_reducible refine keeps_bind ?_ fun _ => ?_ | split
  all_goals simp
@[simp] theorem takeSlot_keeps (q : Nat) (fill : Bool) : Keeps State.Inv (takeSlot q fill) := by
  unfold takeSlot
  repeat' first | with_reducible refine keeps_get fun s hs => ?_ | with_reducible refine keeps_bind ?_ fun _ => ?_ | split
  all_goals simp
@[simp] theorem descChecks_keeps (w : Fin 64) (b : List Byte) (d : Desc) : Keeps State.Inv (descChecks w b d) := by
  unfold descChecks
  repeat' first | with_reducible refine keeps_get fun s hs => ?_ | with_reducible refine keeps_bind ?_ fun _ => ?_ | split
  all_goals simp
@[simp] theorem moveOp_wf (put : Bool) (w : Fin 64) (sw : Bool) (s : State) (h : Memory.wf s.mem = true) : OutWf (moveOp put w sw s) := by
  unfold moveOp
  refine issue_wf ?_ h
  repeat' first | with_reducible refine keeps_get fun s hs => ?_ | with_reducible refine keeps_bind ?_ fun _ => ?_ | split
  all_goals simp
@[simp] theorem execGet_wf (b : Fin 64) (sw : Bool) (s : State) (h : Memory.wf s.mem = true) : OutWf (execGet b sw s) := by
  unfold execGet
  simp +contextual [h]
@[simp] theorem execPut_wf (b : Fin 64) (sw : Bool) (s : State) (h : Memory.wf s.mem = true) : OutWf (execPut b sw s) := by
  unfold execPut
  simp +contextual [h]
@[simp] theorem execCwait_wf (d c : Fin 64) (sw : Bool) (s : State) (h : Memory.wf s.mem = true) : OutWf (execCwait d c sw s) := by
  unfold execCwait
  refine issue_wf ?_ h
  repeat' first | with_reducible refine keeps_get fun s hs => ?_ | with_reducible refine keeps_bind ?_ fun _ => ?_ | split | dsimp only
  all_goals simp
@[simp] theorem execCopy_wf (p c : Fin 64) (sw : Bool) (s : State) (h : Memory.wf s.mem = true) : OutWf (execCopy p c sw s) := by
  unfold execCopy
  refine issue_wf ?_ h
  repeat' first | with_reducible refine keeps_get fun s hs => ?_ | with_reducible refine keeps_bind ?_ fun _ => ?_ | split
  all_goals simp
@[simp] theorem xaRange_keeps (p : Fin 64) (n : Nat) : Keeps State.Inv (xaRange p n) := by
  unfold xaRange
  simp
@[simp] theorem openRegion_keeps (p l : Fin 64) (c : Reg) (perm : Nat) (ak : Access) : Keeps State.Inv (openRegion p l c perm ak) := by
  unfold openRegion
  repeat' with_reducible refine keeps_bind ?_ fun _ => ?_
  all_goals simp
@[simp] theorem cellBuffer_keeps (reg : Nat) (c : Reg) (r : Region) (perm : Nat) (ak : Access) :
    Keeps State.Inv (cellBuffer reg c r perm ak) := by
  unfold cellBuffer
  repeat' with_reducible refine keeps_bind ?_ fun _ => ?_
  all_goals simp
@[simp] theorem readBuffer_keeps (r : Region) (a off : Nat) : Keeps State.Inv (readBuffer r a off) := by
  unfold readBuffer
  repeat' with_reducible refine keeps_bind ?_ fun _ => ?_
  all_goals simp
@[simp] theorem writeBuffer_keeps (a off : Nat) (b : List Byte) : Keeps State.Inv (writeBuffer a off b) := by
  unfold writeBuffer
  repeat' first | with_reducible refine keeps_get fun s hs => ?_ | with_reducible refine keeps_bind ?_ fun _ => ?_ | split
  all_goals simp +contextual [*]
@[simp] theorem execLld_wf (p l : Fin 64) (sw : Bool) (s : State) (h : Memory.wf s.mem = true) : OutWf (execLld p l sw s) := by
  unfold execLld
  refine issue_wf ?_ h
  repeat' first | with_reducible refine keeps_bind ?_ fun _ => ?_ | with_reducible refine coreLattice_keeps _ _ _ _ _ ?_
  all_goals simp
theorem cellOp_wf (minor : Nat) (ak : Access) {op : Nat → List Nat → Lat Unit} (p l : Fin 64) (sw : Bool) (s : State)
    (hop : ∀ key x, Keeps LatInv (op key x)) (h : Memory.wf s.mem = true) : OutWf (cellOp minor ak op p l sw s) := by
  unfold cellOp
  refine issue_wf ?_ h
  repeat' first
    | with_reducible refine keeps_bind ?_ fun _ => ?_
    | with_reducible refine coreLattice_keeps _ _ _ _ _ ?_
  all_goals simp [hop]
@[simp] theorem execLst_wf (p l : Fin 64) (sw : Bool) (s : State) (h : Memory.wf s.mem = true) : OutWf (execLst p l sw s) :=
  cellOp_wf _ _ _ _ _ _ latStore_keeps h
@[simp] theorem execLadd_wf (p l : Fin 64) (sw : Bool) (s : State) (h : Memory.wf s.mem = true) : OutWf (execLadd p l sw s) :=
  cellOp_wf _ _ _ _ _ _ latAdd_keeps h
@[simp] theorem execLscan_wf (p l : Fin 64) (sw : Bool) (s : State) (h : Memory.wf s.mem = true) : OutWf (execLscan p l sw s) := by
  unfold execLscan
  refine issue_wf ?_ h
  repeat' first | with_reducible refine keeps_get fun s hs => ?_ | with_reducible refine keeps_bind ?_ fun _ => ?_ | with_reducible refine coreLattice_keeps _ _ _ _ _ ?_ | split
  all_goals simp
@[simp] theorem execLcount_wf (d l : Fin 64) (sw : Bool) (s : State) (h : Memory.wf s.mem = true) : OutWf (execLcount d l sw s) := by
  unfold execLcount
  refine issue_wf ?_ h
  repeat' first | with_reducible refine keeps_bind ?_ fun _ => ?_ | with_reducible refine coreLattice_keeps _ _ _ _ _ ?_
  all_goals simp
@[simp] theorem execLgrow_wf (n l : Fin 64) (sw : Bool) (s : State) (h : Memory.wf s.mem = true) : OutWf (execLgrow n l sw s) := by
  unfold execLgrow
  refine issue_wf ?_ h
  repeat' first | with_reducible refine keeps_bind ?_ fun _ => ?_ | with_reducible refine coreLattice_keeps _ _ _ _ _ ?_
  all_goals simp
@[simp] theorem denseRange_keeps (b : Fin 64) (dst : Reg) (esize n : Nat) : Keeps State.Inv (denseRange b dst esize n) := by
  unfold denseRange
  repeat' first | with_reducible refine keeps_get fun s hs => ?_ | with_reducible refine keeps_bind ?_ fun _ => ?_ | split | dsimp only
  all_goals simp
@[simp] theorem execLdense_wf (b l : Fin 64) (sw : Bool) (s : State) (h : Memory.wf s.mem = true) : OutWf (execLdense b l sw s) := by
  unfold execLdense
  refine issue_wf ?_ h
  repeat' first | with_reducible refine keeps_get fun s hs => ?_ | with_reducible refine keeps_bind ?_ fun _ => ?_ | with_reducible refine coreLattice_keeps _ _ _ _ _ ?_ | split
  all_goals simp
@[simp] theorem latEvent_keeps (op : LatOp) : Keeps LatInv (latEvent op) := by
  unfold latEvent
  repeat' first | with_reducible refine keeps_get fun s hs => ?_ | with_reducible refine keeps_bind ?_ fun _ => ?_ | split
  all_goals simp
@[simp] theorem execLatticeEvent_wf (desc : Nat) (op : LatOp) (s : State) (h : Memory.wf s.mem = true) :
    OutWf (execLatticeEvent desc op s) := by
  unfold execLatticeEvent
  split
  · rename_i ht
    exact runLattice_wf (latEvent_keeps op) h ht
  · exact h
@[simp] theorem loadOp_wf (m : Meta) (t : Fin 64) (lg : Nat) (signed : Bool) (mem : Mem) (s : State) (h : Memory.wf s.mem = true) :
    OutWf (loadOp m t lg signed mem s) := by
  unfold loadOp
  refine issue_wf ?_ h
  repeat' with_reducible refine keeps_bind ?_ fun _ => ?_
  all_goals simp
@[simp] theorem storeOp_wf (m : Meta) (t : Fin 64) (lg : Nat) (mem : Mem) (s : State) (h : Memory.wf s.mem = true) :
    OutWf (storeOp m t lg mem s) := by
  unfold storeOp
  refine issue_wf ?_ h
  repeat' with_reducible refine keeps_bind ?_ fun _ => ?_
  all_goals simp
@[simp] theorem loadCapOp_wf (m : Meta) (t : Fin 64) (mem : Mem) (s : State) (h : Memory.wf s.mem = true) :
    OutWf (loadCapOp m t mem s) := by
  unfold loadCapOp
  refine issue_wf ?_ h
  repeat' with_reducible refine keeps_bind ?_ fun _ => ?_
  all_goals simp
@[simp] theorem storeCapOp_wf (m : Meta) (t : Fin 64) (mem : Mem) (s : State) (h : Memory.wf s.mem = true) :
    OutWf (storeCapOp m t mem s) := by
  unfold storeCapOp
  refine issue_wf ?_ h
  repeat' with_reducible refine keeps_bind ?_ fun _ => ?_
  all_goals simp
@[simp] theorem execLd_wf (t : Fin 64) (z : Fin 4) (mem : Mem) (sw : Bool) (s : State) (h : Memory.wf s.mem = true) :
    OutWf (execLd t z mem sw s) := by
  unfold execLd
  simp +contextual [h]
@[simp] theorem execLdSb_wf (t : Fin 64) (mem : Mem) (sw : Bool) (s : State) (h : Memory.wf s.mem = true) :
    OutWf (execLdSb t mem sw s) := by
  unfold execLdSb
  simp +contextual [h]
@[simp] theorem execLdSh_wf (t : Fin 64) (mem : Mem) (sw : Bool) (s : State) (h : Memory.wf s.mem = true) :
    OutWf (execLdSh t mem sw s) := by
  unfold execLdSh
  simp +contextual [h]
@[simp] theorem execLdSw_wf (t : Fin 64) (mem : Mem) (sw : Bool) (s : State) (h : Memory.wf s.mem = true) :
    OutWf (execLdSw t mem sw s) := by
  unfold execLdSw
  simp +contextual [h]
@[simp] theorem execLdc_wf (t : Fin 64) (mem : Mem) (sw : Bool) (s : State) (h : Memory.wf s.mem = true) : OutWf (execLdc t mem sw s) := by
  unfold execLdc
  simp +contextual [h]
@[simp] theorem execSt_wf (t : Fin 64) (z : Fin 4) (mem : Mem) (sw : Bool) (s : State) (h : Memory.wf s.mem = true) :
    OutWf (execSt t z mem sw s) := by
  unfold execSt
  simp +contextual [h]
@[simp] theorem execStc_wf (t : Fin 64) (mem : Mem) (sw : Bool) (s : State) (h : Memory.wf s.mem = true) : OutWf (execStc t mem sw s) := by
  unfold execStc
  simp +contextual [h]
@[simp] theorem windowChecks_keeps (reg : Nat) (c : Reg) (a perms : Nat) (ak : Access) :
    Keeps State.Inv (windowChecks reg c a perms ak) := by
  unfold windowChecks
  repeat' first | with_reducible refine keeps_get fun s hs => ?_ | with_reducible refine keeps_bind ?_ fun _ => ?_ | split
  all_goals simp
@[simp] theorem readScale_keeps (w so : Nat) (ak : Access) (a : Nat) : Keeps State.Inv (readScale w so ak a) := by
  unfold readScale
  repeat' first | with_reducible refine keeps_get fun s hs => ?_ | with_reducible refine keeps_bind ?_ fun _ => ?_ | split
  all_goals simp
@[simp] theorem execLdf_wf (t : Fin 64) (mem : Mem) (sw : Bool) (s : State) (h : Memory.wf s.mem = true) : OutWf (execLdf t mem sw s) := by
  unfold execLdf
  refine issue_wf ?_ h
  repeat' with_reducible refine keeps_bind ?_ fun _ => ?_
  all_goals simp
@[simp] theorem execStf_wf (t : Fin 64) (mem : Mem) (sw : Bool) (s : State) (h : Memory.wf s.mem = true) : OutWf (execStf t mem sw s) := by
  unfold execStf
  refine issue_wf ?_ h
  repeat' with_reducible refine keeps_bind ?_ fun _ => ?_
  all_goals simp
@[simp] theorem execPref_wf (mem : Mem) (sw : Bool) (s : State) (h : Memory.wf s.mem = true) : OutWf (execPref mem sw s) := by
  unfold execPref
  refine issue_wf ?_ h
  refine keeps_bind (ea_keeps ..) fun e => keeps_bind (updateBase_keeps ..) fun _ => keeps_get fun s hs => ?_
  rw [State.fresh_eq]
  refine keeps_bind (keeps_set hs) fun _ => ?_
  dsimp only
  have htr := State.translateAt_wf { s with free := s.free + 1 } s.cur false e.addr needR hs
  split
  · split
    · rename_i ht
      rw [ht] at htr
      split
      · exact keeps_bind (keeps_set htr) fun _ => seqFlow_keeps
      · exact seqFlow_keeps
    · exact seqFlow_keeps
  · exact seqFlow_keeps
@[simp] theorem repNext_keeps (d a c : Fin 64) (copy : Bool) (wd ws : Reg) (cnt moved e : Nat) (carry : Bool) (n : Nat) :
    Keeps State.Inv (repNext d a c copy wd ws cnt moved e carry n) := by
  unfold repNext
  repeat' first | with_reducible refine keeps_get fun s hs => ?_ | with_reducible refine keeps_bind ?_ fun _ => ?_ | split
  all_goals simp
@[simp] theorem repCheck_keeps (d a : Fin 64) (copy : Bool) (wd ws : Reg) (off n : Nat) :
    Keeps State.Inv (repCheck d a copy wd ws off n) := by
  unfold repCheck
  repeat' first | with_reducible refine keeps_get fun s hs => ?_ | with_reducible refine keeps_bind ?_ fun _ => ?_ | split
  all_goals simp
@[simp] theorem repFields_keeps (d a c : Fin 64) (copy : Bool) : Keeps State.Inv (repFields d a c copy) := by
  unfold repFields
  repeat' with_reducible refine keeps_bind ?_ fun _ => ?_
  all_goals simp
@[simp] theorem repOp_wf (copy : Bool) (d a c : Fin 64) (z : Nat) (sw : Bool) (s : State) (h : Memory.wf s.mem = true) :
    OutWf (repOp copy d a c z sw s) := by
  unfold repOp
  refine issue_wf ?_ h
  repeat' first | with_reducible refine keeps_get fun s hs => ?_ | with_reducible refine keeps_bind ?_ fun _ => ?_ | split
  all_goals simp
@[simp] theorem execRepCopy_wf (d a b : Fin 64) (z : Fin 4) (sw : Bool) (s : State) (h : Memory.wf s.mem = true) :
    OutWf (execRepCopy d a b z sw s) := by
  unfold execRepCopy
  simp +contextual [h]
@[simp] theorem execRepFill_wf (d a b : Fin 64) (z : Fin 4) (sw : Bool) (s : State) (h : Memory.wf s.mem = true) :
    OutWf (execRepFill d a b z sw s) := by
  unfold execRepFill
  simp +contextual [h]
@[simp] theorem execCLd_wf (t b : Fin 16) (sw : Bool) (s : State) (h : Memory.wf s.mem = true) : OutWf (execCLd t b sw s) := by
  unfold execCLd
  simp +contextual [h]
@[simp] theorem execCSt_wf (t b : Fin 16) (sw : Bool) (s : State) (h : Memory.wf s.mem = true) : OutWf (execCSt t b sw s) := by
  unfold execCSt
  simp +contextual [h]
@[simp] theorem execCLdW_wf (t b : Fin 16) (sw : Bool) (s : State) (h : Memory.wf s.mem = true) : OutWf (execCLdW t b sw s) := by
  unfold execCLdW
  simp +contextual [h]
@[simp] theorem execCStW_wf (t b : Fin 16) (sw : Bool) (s : State) (h : Memory.wf s.mem = true) : OutWf (execCStW t b sw s) := by
  unfold execCStW
  simp +contextual [h]
@[simp] theorem execCLdPost_wf (t b : Fin 16) (sw : Bool) (s : State) (h : Memory.wf s.mem = true) : OutWf (execCLdPost t b sw s) := by
  unfold execCLdPost
  simp +contextual [h]
@[simp] theorem execCStPost_wf (t b : Fin 16) (sw : Bool) (s : State) (h : Memory.wf s.mem = true) : OutWf (execCStPost t b sw s) := by
  unfold execCStPost
  simp +contextual [h]
@[simp] theorem execCLdc_wf (t b : Fin 16) (sw : Bool) (s : State) (h : Memory.wf s.mem = true) : OutWf (execCLdc t b sw s) := by
  unfold execCLdc
  simp +contextual [h]
@[simp] theorem execCStc_wf (t b : Fin 16) (sw : Bool) (s : State) (h : Memory.wf s.mem = true) : OutWf (execCStc t b sw s) := by
  unfold execCStc
  simp +contextual [h]

end Sys2Proof.Machine
end

section
/-! Canonical memory: message, tensor and vector instructions. -/

namespace Sys2Proof.Machine

@[simp] theorem sendHeader_keeps (h b : Fin 64) (x : Nat) : Keeps State.Inv (sendHeader h b x) := by
  unfold sendHeader
  repeat' with_reducible refine keeps_bind ?_ fun _ => ?_
  all_goals simp
@[simp] theorem sendHazard_keeps (b : Fin 64) (x : Nat) : Keeps State.Inv (sendHazard b x) := by
  unfold sendHazard
  repeat' first | with_reducible refine keeps_get fun s hs => ?_ | with_reducible refine keeps_bind ?_ fun _ => ?_ | split
  all_goals simp
@[simp] theorem execSend_wf (h b : Fin 64) (sw : Bool) (s : State) (hm : Memory.wf s.mem = true) : OutWf (execSend h b sw s) := by
  unfold execSend
  refine issue_wf ?_ hm
  have hregs (l : List Nat) : Keeps State.Inv (l.mapM readX) := keeps_mapM readX_keeps l
  refine keeps_bind (readN_keeps _) fun x => keeps_bind (sendHazard_keeps ..) fun _ => keeps_bind (sendHeader_keeps ..) fun _ =>
    keeps_get fun s hs => ?_
  have hsend : Keeps State.Inv (do
      performFirst (fun y => inTier s.cur (s.scopeOf s.cur ((coreOf (x % 2 ^ 32)).getD s.cur)) y.key)
      let data ← (sendRegs b x).mapM readX
      let s ← get
      let m := mkMsg s.cur (s.nameOf s.cur) (x % 2 ^ 32) (bf x 32 4) data (((s.tile s.cur).task).map (·.grid)) (s.partNo s.cur)
      set (s.push { m with wake := decide (bf x 40 1 = 1), buffered := true })
      seqFlow) :=
    keeps_bind (performFirst_keeps _) fun _ => keeps_bind (hregs _) fun _ => keeps_get fun _ hs => keeps_bind (keeps_set hs) fun _ =>
      seqFlow_keeps
  simp only [keeps_ite]
  split
  · exact keeps_bind (waitFor_keeps _) fun _ => hsend
  · exact hsend
@[simp] theorem execHret_wf (sw : Bool) (s : State) (h : Memory.wf s.mem = true) : OutWf (execHret sw s) := by
  unfold execHret
  refine issue_wf ?_ h
  repeat' with_reducible refine keeps_bind ?_ fun _ => ?_
  all_goals simp
@[simp] theorem execMbox_wf (d o : Fin 64) (sw : Bool) (s : State) (h : Memory.wf s.mem = true) : OutWf (execMbox d o sw s) := by
  unfold execMbox
  refine issue_wf ?_ h
  repeat' with_reducible refine keeps_bind ?_ fun _ => ?_
  all_goals simp
@[simp] theorem execDpush_wf (d r : Fin 64) (sw : Bool) (s : State) (h : Memory.wf s.mem = true) : OutWf (execDpush d r sw s) := by
  unfold execDpush
  refine issue_wf ?_ h
  repeat' first | with_reducible refine keeps_get fun s hs => ?_ | with_reducible refine keeps_bind ?_ fun _ => ?_ | split
  all_goals simp
@[simp] theorem execDpop_wf (d : Fin 64) (sw : Bool) (s : State) (h : Memory.wf s.mem = true) : OutWf (execDpop d sw s) := by
  unfold execDpop
  refine issue_wf ?_ h
  repeat' first | with_reducible refine keeps_get fun s hs => ?_ | with_reducible refine keeps_bind ?_ fun _ => ?_ | split
  all_goals simp
@[simp] theorem execDsplit_wf (d : Fin 64) (sw : Bool) (s : State) (h : Memory.wf s.mem = true) : OutWf (execDsplit d sw s) := by
  unfold execDsplit
  refine issue_wf ?_ h
  repeat' first | with_reducible refine keeps_get fun s hs => ?_ | with_reducible refine keeps_bind ?_ fun _ => ?_ | split
  all_goals simp
theorem stealFrom_mem {l : List Nat} {s t : State} {r : Nat × Nat} (h : stealFrom l s = some (r, t)) : t.mem = s.mem := by
  induction l with
  | nil => cases h
  | cons k l ih =>
    unfold stealFrom at h
    split at h
    · exact ih h
    · cases h
      rfl
@[simp] theorem execDsteal_wf (d : Fin 64) (scope : Scope) (sw : Bool) (s : State) (h : Memory.wf s.mem = true) :
    OutWf (execDsteal d scope sw s) := by
  unfold execDsteal
  refine issue_wf (keeps_get fun s hs => ?_) h
  split
  · simp [keeps_bind]
  · rename_i ht
    have hw := stealFrom_mem ht
    exact keeps_bind (keeps_set (hw ▸ hs)) fun _ => keeps_bind (writeN_keeps ..) fun _ => seqFlow_keeps
@[simp] theorem engineNow_keeps : Keeps State.Inv engineNow := by
  unfold engineNow
  simp +contextual
@[simp] theorem execQcfg_wf (q : Fin 16) (w : Fin 64) (sw : Bool) (s : State) (h : Memory.wf s.mem = true) : OutWf (execQcfg q w sw s) := by
  unfold execQcfg
  refine issue_wf ?_ h
  repeat' first | with_reducible refine keeps_get fun s hs => ?_ | with_reducible refine keeps_bind ?_ fun _ => ?_ | split | dsimp only
  all_goals simp
@[simp] theorem execQstat_wf (q : Fin 16) (w : Fin 64) (sw : Bool) (s : State) (h : Memory.wf s.mem = true) :
    OutWf (execQstat q w sw s) := by
  unfold execQstat
  refine issue_wf ?_ h
  repeat' with_reducible refine keeps_bind ?_ fun _ => ?_
  all_goals simp
@[simp] theorem execTwait_wf (q : Fin 16) (w : Fin 64) (sw : Bool) (s : State) (h : Memory.wf s.mem = true) :
    OutWf (execTwait q w sw s) := by
  unfold execTwait
  refine issue_wf ?_ h
  repeat' with_reducible refine keeps_bind ?_ fun _ => ?_
  all_goals simp
@[simp] theorem execTstate_wf (t : Fin 256) (w : Fin 64) (sw : Bool) (s : State) (h : Memory.wf s.mem = true) :
    OutWf (execTstate t w sw s) := by
  unfold execTstate
  refine issue_wf ?_ h
  repeat' with_reducible refine keeps_bind ?_ fun _ => ?_
  all_goals simp
@[simp] theorem execAcfg_wf (n : Fin 8) (w : Fin 64) (sw : Bool) (s : State) (h : Memory.wf s.mem = true) : OutWf (execAcfg n w sw s) := by
  unfold execAcfg
  refine issue_wf ?_ h
  repeat' with_reducible refine keeps_bind ?_ fun _ => ?_
  all_goals simp
@[simp] theorem execAzero_wf (n : Fin 8) (sw : Bool) (s : State) (h : Memory.wf s.mem = true) : OutWf (execAzero n sw s) := by
  unfold execAzero
  refine issue_wf ?_ h
  repeat' with_reducible refine keeps_bind ?_ fun _ => ?_
  all_goals simp
@[simp] theorem execAmov_wf (n m : Fin 8) (sw : Bool) (s : State) (h : Memory.wf s.mem = true) : OutWf (execAmov n m sw s) := by
  unfold execAmov
  refine issue_wf ?_ h
  repeat' with_reducible refine keeps_bind ?_ fun _ => ?_
  all_goals simp
@[simp] theorem mmaSlots_keeps (a b : Fin 16) (wa wb : Nat) : Keeps State.Inv (mmaSlots a b wa wb) := by
  unfold mmaSlots
  repeat' with_reducible refine keeps_bind ?_ fun _ => ?_
  all_goals simp
@[simp] theorem mmaScales_keeps (reg sa sb wa wb : Nat) : Keeps State.Inv (mmaScales reg sa sb wa wb) := by
  unfold mmaScales
  repeat' with_reducible refine keeps_bind ?_ fun _ => ?_
  all_goals simp
@[simp] theorem mmaReady_keeps (sa sb wa wb : Nat) : Keeps State.Inv (mmaReady sa sb wa wb) := by
  unfold mmaReady
  repeat' with_reducible refine keeps_bind ?_ fun _ => ?_
  all_goals simp
@[simp] theorem execMma_wf (n : Fin 8) (a b : Fin 16) (w : Fin 64) (c : Bool) (sw : Bool) (s : State) (h : Memory.wf s.mem = true) :
    OutWf (execMma n a b w c sw s) := by
  unfold execMma
  refine issue_wf ?_ h
  repeat' with_reducible refine keeps_bind ?_ fun _ => ?_
  all_goals simp
@[simp] theorem execRowsum_wf (n : Fin 8) (a : Fin 16) (w : Fin 64) (o k : Bool) (sw : Bool) (s : State) (h : Memory.wf s.mem = true) :
    OutWf (execRowsum n a w o k sw s) := by
  unfold execRowsum
  refine issue_wf ?_ h
  repeat' with_reducible refine keeps_bind ?_ fun _ => ?_
  all_goals simp
@[simp] theorem sliceLine_keeps (reg : Nat) (c : Reg) (m : Slice) (r k0 n : Nat) : Keeps State.Inv (sliceLine reg c m r k0 n) := by
  unfold sliceLine
  refine keeps_mapM (fun i => ?_) _
  repeat' first
    | with_reducible refine keeps_bind ?_ fun _ => ?_
    | split
  all_goals simp
@[simp] theorem bmmChecks_keeps (n : Fin 8) (w : Fin 64) (x : Nat) (a b : Slice) : Keeps State.Inv (bmmChecks n w x a b) := by
  unfold bmmChecks
  iterate 7 refine keeps_bind (by simp) fun _ => ?_
  exact keeps_bind (keeps_forM (fun _ => accMode_keeps ..) _) fun _ => keeps_forM (fun _ => windowsOk_keeps ..) _
@[simp] theorem bmmLive_keeps (ragged : Bool) (w : Fin 64) (m : Nat) : Keeps State.Inv (bmmLive ragged w m) := by
  unfold bmmLive
  repeat' first | with_reducible refine keeps_get fun s hs => ?_ | with_reducible refine keeps_bind ?_ fun _ => ?_ | split
  all_goals simp
@[simp] theorem bmmStep_keeps (n : Fin 8) (w : Fin 64) (a b : Slice) (p : Progress) (nc : Nat) (clear : Bool) :
    Keeps State.Inv (bmmStep n w a b p nc clear) := by
  unfold bmmStep
  refine keeps_bind sampleRm_keeps fun rm => ?_
  split
  · split
    · exact issueEngine_keeps _
    · exact keeps_pure _
  · exact keeps_bind (readW_keeps _) fun c => keeps_bind (keeps_mapM (fun _ => sliceLine_keeps ..) _) fun _ =>
      keeps_bind (keeps_mapM (fun _ => sliceLine_keeps ..) _) fun _ => keeps_bind (spend_keeps _) fun _ => issueEngine_keeps _
@[simp] theorem bmmOp_wf (ragged : Bool) (i : Instr) (n : Fin 8) (a b : Fin 32) (w : Fin 64) (clear sw : Bool) (s : State)
    (h : Memory.wf s.mem = true) : OutWf (bmmOp ragged i n a b w clear sw s) := by
  unfold bmmOp
  refine issue_wf ?_ h
  repeat' first | with_reducible refine keeps_get fun s hs => ?_ | with_reducible refine keeps_bind ?_ fun _ => ?_ | split
  all_goals simp
@[simp] theorem execBmm_wf (n : Fin 8) (a b : Fin 32) (w : Fin 64) (c : Bool) (sw : Bool) (s : State) (h : Memory.wf s.mem = true) :
    OutWf (execBmm n a b w c sw s) := by
  unfold execBmm
  simp +contextual [h]
@[simp] theorem execBmmR_wf (n : Fin 8) (a b : Fin 32) (w : Fin 64) (c : Bool) (sw : Bool) (s : State) (h : Memory.wf s.mem = true) :
    OutWf (execBmmR n a b w c sw s) := by
  unfold execBmmR
  simp +contextual [h]
@[simp] theorem drainChecks_keeps (n : Fin 8) (q : Fin 16) (w : Fin 64) (win : Nat) (mxOk : Bool) :
    Keeps State.Inv (drainChecks n q w win mxOk) := by
  unfold drainChecks
  repeat' with_reducible refine keeps_bind ?_ fun _ => ?_
  all_goals simp
@[simp] theorem drainIssue_keeps (q : Fin 16) (slot : Nat) (op : EngOp) : Keeps State.Inv (drainIssue q slot op) := by
  unfold drainIssue
  repeat' with_reducible refine keeps_bind ?_ fun _ => ?_
  all_goals simp
@[simp] theorem execDrain_wf (n : Fin 8) (q : Fin 16) (rm : Rm) (t : Bool) (w : Fin 64) (z : Bool) (sw : Bool) (s : State)
    (h : Memory.wf s.mem = true) : OutWf (execDrain n q rm t w z sw s) := by
  unfold execDrain
  refine issue_wf ?_ h
  repeat' with_reducible refine keeps_bind ?_ fun _ => ?_
  all_goals simp
@[simp] theorem execDrainq_wf (n : Fin 8) (q : Fin 16) (w : Fin 64) (z : Bool) (sw : Bool) (s : State) (h : Memory.wf s.mem = true) :
    OutWf (execDrainq n q w z sw s) := by
  unfold execDrainq
  refine issue_wf ?_ h
  repeat' with_reducible refine keeps_bind ?_ fun _ => ?_
  all_goals simp
@[simp] theorem execDrainr_wf (n : Fin 8) (q : Fin 16) (rm : Rm) (t : Bool) (w : Fin 64) (z : Bool) (sw : Bool) (s : State)
    (h : Memory.wf s.mem = true) : OutWf (execDrainr n q rm t w z sw s) := by
  unfold execDrainr
  refine issue_wf ?_ h
  repeat' with_reducible refine keeps_bind ?_ fun _ => ?_
  all_goals simp
@[simp] theorem listOk_keeps (n j : Nat) : Keeps State.Inv (listOk n j) := by
  unfold listOk
  repeat' with_reducible refine keeps_bind ?_ fun _ => ?_
  all_goals simp
@[simp] theorem execSpush_wf (n : Fin 8) (j : Fin 16) (w : Fin 64) (sw : Bool) (s : State) (h : Memory.wf s.mem = true) :
    OutWf (execSpush n j w sw s) := by
  unfold execSpush
  refine issue_wf ?_ h
  repeat' with_reducible refine keeps_bind ?_ fun _ => ?_
  all_goals simp
@[simp] theorem execSmma_wf (n : Fin 8) (a b : Fin 16) (w : Fin 64) (sw : Bool) (s : State) (h : Memory.wf s.mem = true) :
    OutWf (execSmma n a b w sw s) := by
  unfold execSmma
  refine issue_wf ?_ h
  repeat' first | with_reducible refine keeps_get fun s hs => ?_ | with_reducible refine keeps_bind ?_ fun _ => ?_ | split
  all_goals simp
@[simp] theorem execSpeg_wf (n : Fin 8) (j : Fin 16) (w : Fin 64) (sw : Bool) (s : State) (h : Memory.wf s.mem = true) :
    OutWf (execSpeg n j w sw s) := by
  unfold execSpeg
  refine issue_wf ?_ h
  repeat' with_reducible refine keeps_bind ?_ fun _ => ?_
  all_goals simp
@[simp] theorem execSmerge_wf (n : Fin 8) (src : MergeSrc) (sw : Bool) (s : State) (h : Memory.wf s.mem = true) :
    OutWf (execSmerge n src sw s) := by
  unfold execSmerge
  refine issue_wf ?_ h
  repeat' first | with_reducible refine keeps_get fun s hs => ?_ | with_reducible refine keeps_bind ?_ fun _ => ?_ | split
  all_goals simp
@[simp] theorem execSread_wf (n : Fin 8) (q : Fin 16) (sw : Bool) (s : State) (h : Memory.wf s.mem = true) :
    OutWf (execSread n q sw s) := by
  unfold execSread
  refine issue_wf ?_ h
  repeat' with_reducible refine keeps_bind ?_ fun _ => ?_
  all_goals simp
@[simp] theorem attnOp_wf (m : Meta) (n : Fin 8) (op : Rm → EngOp) (s : State) (h : Memory.wf s.mem = true) : OutWf (attnOp m n op s) := by
  unfold attnOp
  refine issue_wf ?_ h
  repeat' with_reducible refine keeps_bind ?_ fun _ => ?_
  all_goals simp
@[simp] theorem execSmaxr_wf (n : Fin 8) (v : Fin 32) (sw : Bool) (s : State) (h : Memory.wf s.mem = true) :
    OutWf (execSmaxr n v sw s) := by
  unfold execSmaxr
  simp +contextual [h]
@[simp] theorem execExpt_wf (n : Fin 8) (v : Fin 32) (sw : Bool) (s : State) (h : Memory.wf s.mem = true) : OutWf (execExpt n v sw s) := by
  unfold execExpt
  simp +contextual [h]
@[simp] theorem execRescale_wf (n : Fin 8) (l : Bool) (v : Fin 32) (sw : Bool) (s : State) (h : Memory.wf s.mem = true) :
    OutWf (execRescale n l v sw s) := by
  unfold execRescale
  simp +contextual [h]
@[simp] theorem execRowdiv_wf (n : Fin 8) (v : Fin 32) (sw : Bool) (s : State) (h : Memory.wf s.mem = true) :
    OutWf (execRowdiv n v sw s) := by
  unfold execRowdiv
  simp +contextual [h]
@[simp] theorem lspmmCells_keeps (row0 k0 : Nat) : Keeps LatInv (lspmmCells row0 k0) := by
  unfold lspmmCells
  refine keeps_bind region_keeps fun r => keeps_bind (checkBox_keeps ..) fun _ => keeps_bind
    (keeps_mapM (fun i => keeps_mapM (fun k => keeps_bind (lookup_keeps _) fun j => ?_) _) _) fun _ => keeps_pure _
  cases j with
  | none => exact keeps_pure _
  | some j => exact keeps_bind (readCell_keeps j) fun _ => keeps_pure _
@[simp] theorem execLspmm_wf (n : Fin 8) (k b : Fin 16) (w : Fin 64) (sw : Bool) (s : State) (h : Memory.wf s.mem = true) :
    OutWf (execLspmm n k b w sw s) := by
  unfold execLspmm
  refine issue_wf ?_ h
  repeat' first | with_reducible refine keeps_bind ?_ fun _ => ?_ | with_reducible refine coreLattice_keeps _ _ _ _ _ ?_
  all_goals simp
@[simp] theorem writeLanes_keeps (d g : Nat) (f : Nat → Lane × Nat) : Keeps State.Inv (writeLanes d g f) := by
  unfold writeLanes
  simp
@[simp] theorem laneOp_wf (m : Meta) (d a b g : Nat) (f : Rm → Lane → Lane → Lane → Lane × Nat) (s : State) (h : Memory.wf s.mem = true) :
    OutWf (laneOp m d a b g f s) := by
  unfold laneOp
  refine issue_wf ?_ h
  repeat' with_reducible refine keeps_bind ?_ fun _ => ?_
  all_goals simp
@[simp] theorem v18_wf (minor : Nat) (d a b : Fin 32) (g : Fin 8) (sw : Bool) (f : Rm → Lane → Lane → Lane → Lane × Nat) (s : State)
    (h : Memory.wf s.mem = true) : OutWf (v18 minor d a b g sw f s) := by
  unfold v18
  simp +contextual [h]
@[simp] theorem execVadd_wf (ty : LaneTy) (d a b : Fin 32) (g : Fin 8) (sw : Bool) (s : State) (h : Memory.wf s.mem = true) :
    OutWf (execVadd ty d a b g sw s) := by
  unfold execVadd
  simp +contextual [h]
@[simp] theorem execVsub_wf (ty : LaneTy) (d a b : Fin 32) (g : Fin 8) (sw : Bool) (s : State) (h : Memory.wf s.mem = true) :
    OutWf (execVsub ty d a b g sw s) := by
  unfold execVsub
  simp +contextual [h]
@[simp] theorem execVmul_wf (ty : LaneTy) (d a b : Fin 32) (g : Fin 8) (sw : Bool) (s : State) (h : Memory.wf s.mem = true) :
    OutWf (execVmul ty d a b g sw s) := by
  unfold execVmul
  simp +contextual [h]
@[simp] theorem execVmin_wf (ty : LaneTy) (d a b : Fin 32) (g : Fin 8) (sw : Bool) (s : State) (h : Memory.wf s.mem = true) :
    OutWf (execVmin ty d a b g sw s) := by
  unfold execVmin
  simp +contextual [h]
@[simp] theorem execVmax_wf (ty : LaneTy) (d a b : Fin 32) (g : Fin 8) (sw : Bool) (s : State) (h : Memory.wf s.mem = true) :
    OutWf (execVmax ty d a b g sw s) := by
  unfold execVmax
  simp +contextual [h]
@[simp] theorem execVabs_wf (ty : LaneTy) (d a : Fin 32) (g : Fin 8) (sw : Bool) (s : State) (h : Memory.wf s.mem = true) :
    OutWf (execVabs ty d a g sw s) := by
  unfold execVabs
  simp +contextual [h]
@[simp] theorem execVneg_wf (ty : LaneTy) (d a : Fin 32) (g : Fin 8) (sw : Bool) (s : State) (h : Memory.wf s.mem = true) :
    OutWf (execVneg ty d a g sw s) := by
  unfold execVneg
  simp +contextual [h]
@[simp] theorem execVand_wf (d a b : Fin 32) (g : Fin 8) (sw : Bool) (s : State) (h : Memory.wf s.mem = true) :
    OutWf (execVand d a b g sw s) := by
  unfold execVand
  simp +contextual [h]
@[simp] theorem execVor_wf (d a b : Fin 32) (g : Fin 8) (sw : Bool) (s : State) (h : Memory.wf s.mem = true) :
    OutWf (execVor d a b g sw s) := by
  unfold execVor
  simp +contextual [h]
@[simp] theorem execVxor_wf (d a b : Fin 32) (g : Fin 8) (sw : Bool) (s : State) (h : Memory.wf s.mem = true) :
    OutWf (execVxor d a b g sw s) := by
  unfold execVxor
  simp +contextual [h]
@[simp] theorem execVshl_wf (d a b : Fin 32) (g : Fin 8) (sw : Bool) (s : State) (h : Memory.wf s.mem = true) :
    OutWf (execVshl d a b g sw s) := by
  unfold execVshl
  simp +contextual [h]
@[simp] theorem execVshr_wf (d a b : Fin 32) (g : Fin 8) (sw : Bool) (s : State) (h : Memory.wf s.mem = true) :
    OutWf (execVshr d a b g sw s) := by
  unfold execVshr
  simp +contextual [h]
@[simp] theorem execVshra_wf (d a b : Fin 32) (g : Fin 8) (sw : Bool) (s : State) (h : Memory.wf s.mem = true) :
    OutWf (execVshra d a b g sw s) := by
  unfold execVshra
  simp +contextual [h]
@[simp] theorem execVadds_wf (d a b : Fin 32) (g : Fin 8) (sw : Bool) (s : State) (h : Memory.wf s.mem = true) :
    OutWf (execVadds d a b g sw s) := by
  unfold execVadds
  simp +contextual [h]
@[simp] theorem execVsubs_wf (d a b : Fin 32) (g : Fin 8) (sw : Bool) (s : State) (h : Memory.wf s.mem = true) :
    OutWf (execVsubs d a b g sw s) := by
  unfold execVsubs
  simp +contextual [h]
@[simp] theorem fmaOp_wf (minor : Nat) (minus : Bool) (ty : LaneTy) (d a b : Fin 32) (g : Fin 8) (sw : Bool) (s : State)
    (h : Memory.wf s.mem = true) : OutWf (fmaOp minor minus ty d a b g sw s) := by
  unfold fmaOp
  refine issue_wf ?_ h
  repeat' first | with_reducible refine keeps_get fun s hs => ?_ | with_reducible refine keeps_bind ?_ fun _ => ?_
  all_goals simp [*]
@[simp] theorem execVfma_wf (ty : LaneTy) (d a b : Fin 32) (g : Fin 8) (sw : Bool) (s : State) (h : Memory.wf s.mem = true) :
    OutWf (execVfma ty d a b g sw s) := by
  unfold execVfma
  simp +contextual [h]
@[simp] theorem execVfnma_wf (ty : LaneTy) (d a b : Fin 32) (g : Fin 8) (sw : Bool) (s : State) (h : Memory.wf s.mem = true) :
    OutWf (execVfnma ty d a b g sw s) := by
  unfold execVfnma
  simp +contextual [h]
@[simp] theorem vcmpOp_wf (minor : Nat) (loud : Bool) (ty : LaneTy) (p : Fin 8) (a b : Fin 32) (g : Fin 8) (sw : Bool)
    (f : Ext → Ext → Bool) (h : Lane → Lane → Bool) (s : State) (hm : Memory.wf s.mem = true) :
    OutWf (vcmpOp minor loud ty p a b g sw f h s) := by
  unfold vcmpOp
  refine issue_wf ?_ hm
  repeat' with_reducible refine keeps_bind ?_ fun _ => ?_
  all_goals simp
@[simp] theorem execVcmpEq_wf (ty : LaneTy) (p : Fin 8) (a b : Fin 32) (g : Fin 8) (sw : Bool) (s : State) (h : Memory.wf s.mem = true) :
    OutWf (execVcmpEq ty p a b g sw s) := by
  unfold execVcmpEq
  simp +contextual [h]
@[simp] theorem execVcmpNe_wf (ty : LaneTy) (p : Fin 8) (a b : Fin 32) (g : Fin 8) (sw : Bool) (s : State) (h : Memory.wf s.mem = true) :
    OutWf (execVcmpNe ty p a b g sw s) := by
  unfold execVcmpNe
  simp +contextual [h]
@[simp] theorem execVcmpLt_wf (ty : LaneTy) (p : Fin 8) (a b : Fin 32) (g : Fin 8) (sw : Bool) (s : State) (h : Memory.wf s.mem = true) :
    OutWf (execVcmpLt ty p a b g sw s) := by
  unfold execVcmpLt
  simp +contextual [h]
@[simp] theorem execVcmpLe_wf (ty : LaneTy) (p : Fin 8) (a b : Fin 32) (g : Fin 8) (sw : Bool) (s : State) (h : Memory.wf s.mem = true) :
    OutWf (execVcmpLe ty p a b g sw s) := by
  unfold execVcmpLe
  simp +contextual [h]
@[simp] theorem execVsel_wf (d a b : Fin 32) (k : Fin 8) (sw : Bool) (s : State) (h : Memory.wf s.mem = true) :
    OutWf (execVsel d a b k sw s) := by
  unfold execVsel
  refine issue_wf ?_ h
  repeat' with_reducible refine keeps_bind ?_ fun _ => ?_
  all_goals simp
@[simp] theorem vdecode_wf (m : Meta) (d a g w : Nat) (scale : Tile → Nat → Nat) (s : State) (h : Memory.wf s.mem = true) :
    OutWf (vdecode m d a g w scale s) := by
  unfold vdecode
  refine issue_wf ?_ h
  repeat' with_reducible refine keeps_bind ?_ fun _ => ?_
  all_goals simp
@[simp] theorem execVcvtDec_wf (d a : Fin 32) (g : Fin 8) (w : Fin 16) (sw : Bool) (s : State) (h : Memory.wf s.mem = true) :
    OutWf (execVcvtDec d a g w sw s) := by
  unfold execVcvtDec
  simp +contextual [h]
@[simp] theorem execVcvtDecMx_wf (d a c : Fin 32) (g : Fin 8) (w : Fin 16) (sw : Bool) (s : State) (h : Memory.wf s.mem = true) :
    OutWf (execVcvtDecMx d a c g w sw s) := by
  unfold execVcvtDecMx
  simp +contextual [h]
@[simp] theorem execVcvtEnc_wf (d a : Fin 32) (t : Bool) (g : Fin 8) (w : Fin 16) (sw : Bool) (s : State) (h : Memory.wf s.mem = true) :
    OutWf (execVcvtEnc d a t g w sw s) := by
  unfold execVcvtEnc
  refine issue_wf ?_ h
  repeat' with_reducible refine keeps_bind ?_ fun _ => ?_
  all_goals simp
@[simp] theorem execVcvtEncMx_wf (d a c : Fin 32) (g : Fin 8) (w : Fin 16) (sw : Bool) (s : State) (h : Memory.wf s.mem = true) :
    OutWf (execVcvtEncMx d a c g w sw s) := by
  unfold execVcvtEncMx
  refine issue_wf ?_ h
  repeat' with_reducible refine keeps_bind ?_ fun _ => ?_
  all_goals simp
@[simp] theorem checkLanes_keeps (reg : Nat) (c : Reg) (perms n align : Nat) (ak : Access) (addr : Nat → Nat) (l : List Nat) :
    Keeps State.Inv (checkLanes reg c perms n align ak addr l) := by
  induction l with
  | nil => exact keeps_pure _
  | cons i l ih =>
    unfold checkLanes
    refine keeps_bind (checkCap_keeps ..) fun _ => keeps_bind (by simp) fun _ => ?_
    split
    · simp
    · exact keeps_bind (by simp) fun _ => keeps_bind me_keeps fun _ => keeps_bind ih fun _ => keeps_pure _
@[simp] theorem consumeLanes_keeps (n : Nat) (addr : Nat → Nat) (l : List (Nat × Nat)) : Keeps State.Inv (consumeLanes n addr l) := by
  induction l with
  | nil => exact keeps_pure _
  | cons x l ih => exact keeps_bind (consume_keeps ..) fun _ => ih
@[simp] theorem loadLanes_keeps (d g n : Nat) (nib : Bool) (keys : List (Nat × Nat)) : Keeps State.Inv (loadLanes d g n nib keys) := by
  unfold loadLanes
  repeat' with_reducible refine keeps_bind ?_ fun _ => ?_
  all_goals simp
@[simp] theorem storeLane_wf (n : Nat) (nib : Bool) (i key x : Nat) (s : State) (h : Memory.wf s.mem = true) :
    Memory.wf (storeLane n nib i key x s).mem = true := by
  unfold storeLane
  simp +contextual [h]
@[simp] theorem consumePartLanes_keeps (n : Nat) (addr : Nat → Nat) (l : List (Nat × Nat)) :
    Keeps State.Inv (consumePartLanes n addr l) := by
  induction l with
  | nil => exact keeps_pure _
  | cons x l ih => exact keeps_bind (consumePart_keeps ..) fun _ => keeps_bind (noteStore_keeps ..) fun _ => ih
@[simp] theorem storeLanes_keeps (v n : Nat) (nib : Bool) (addr : Nat → Nat) (keys : List (Nat × Nat)) :
    Keeps State.Inv (storeLanes v n nib addr keys) :=
  keeps_bind (consumePartLanes_keeps ..) fun _ => keeps_bind getT_keeps fun _ =>
    keeps_modify fun _ hs => wf_foldl _ (fun _ _ ht => storeLane_wf _ _ _ _ _ _ ht) hs
@[simp] theorem execVld_wf (d : Fin 32) (b : Fin 64) (e : Fin 4) (g : Fin 8) (sw : Bool) (s : State) (h : Memory.wf s.mem = true) :
    OutWf (execVld d b e g sw s) := by
  unfold execVld
  refine issue_wf ?_ h
  repeat' with_reducible refine keeps_bind ?_ fun _ => ?_
  all_goals simp
@[simp] theorem execVst_wf (d : Fin 32) (b : Fin 64) (e : Fin 4) (g : Fin 8) (sw : Bool) (s : State) (h : Memory.wf s.mem = true) :
    OutWf (execVst d b e g sw s) := by
  unfold execVst
  refine issue_wf ?_ h
  repeat' with_reducible refine keeps_bind ?_ fun _ => ?_
  all_goals simp
@[simp] theorem execVgather_wf (d : Fin 32) (b : Fin 64) (i : Fin 32) (g : Fin 8) (sw : Bool) (s : State) (h : Memory.wf s.mem = true) :
    OutWf (execVgather d b i g sw s) := by
  unfold execVgather
  refine issue_wf ?_ h
  repeat' with_reducible refine keeps_bind ?_ fun _ => ?_
  all_goals simp
@[simp] theorem execVscatter_wf (d : Fin 32) (b : Fin 64) (i : Fin 32) (g : Fin 8) (sw : Bool) (s : State) (h : Memory.wf s.mem = true) :
    OutWf (execVscatter d b i g sw s) := by
  unfold execVscatter
  refine issue_wf ?_ h
  repeat' with_reducible refine keeps_bind ?_ fun _ => ?_
  all_goals simp
@[simp] theorem execVshuf_wf (d a b : Fin 32) (g : Fin 8) (sw : Bool) (s : State) (h : Memory.wf s.mem = true) :
    OutWf (execVshuf d a b g sw s) := by
  unfold execVshuf
  refine issue_wf ?_ h
  repeat' with_reducible refine keeps_bind ?_ fun _ => ?_
  all_goals simp
@[simp] theorem execVbcast_wf (d a : Fin 32) (lane : Fin 64) (g : Fin 8) (sw : Bool) (s : State) (h : Memory.wf s.mem = true) :
    OutWf (execVbcast d a lane g sw s) := by
  unfold execVbcast
  refine issue_wf ?_ h
  repeat' with_reducible refine keeps_bind ?_ fun _ => ?_
  all_goals simp
@[simp] theorem execVsetvl_wf (d a : Fin 64) (sw : Bool) (s : State) (h : Memory.wf s.mem = true) : OutWf (execVsetvl d a sw s) := by
  unfold execVsetvl
  refine issue_wf ?_ h
  repeat' with_reducible refine keeps_bind ?_ fun _ => ?_
  all_goals simp
@[simp] theorem execVsplat_wf (d : Fin 32) (a : Fin 64) (sw : Bool) (s : State) (h : Memory.wf s.mem = true) :
    OutWf (execVsplat d a sw s) := by
  unfold execVsplat
  refine issue_wf ?_ h
  repeat' with_reducible refine keeps_bind ?_ fun _ => ?_
  all_goals simp
@[simp] theorem execVextr_wf (d : Fin 64) (a : Fin 32) (b : Fin 64) (sw : Bool) (s : State) (h : Memory.wf s.mem = true) :
    OutWf (execVextr d a b sw s) := by
  unfold execVextr
  refine issue_wf ?_ h
  repeat' with_reducible refine keeps_bind ?_ fun _ => ?_
  all_goals simp
@[simp] theorem execVcompress_wf (d a : Fin 32) (g : Fin 8) (sw : Bool) (s : State) (h : Memory.wf s.mem = true) :
    OutWf (execVcompress d a g sw s) := by
  unfold execVcompress
  refine issue_wf ?_ h
  repeat' with_reducible refine keeps_bind ?_ fun _ => ?_
  all_goals simp
@[simp] theorem execVexpand_wf (d a : Fin 32) (g : Fin 8) (sw : Bool) (s : State) (h : Memory.wf s.mem = true) :
    OutWf (execVexpand d a g sw s) := by
  unfold execVexpand
  refine issue_wf ?_ h
  repeat' with_reducible refine keeps_bind ?_ fun _ => ?_
  all_goals simp
@[simp] theorem vredOp_wf (minor : Nat) (o : RedOp) (d a : Fin 32) (g : Fin 8) (sw : Bool) (s : State) (h : Memory.wf s.mem = true) :
    OutWf (vredOp minor o d a g sw s) := by
  unfold vredOp
  refine issue_wf ?_ h
  repeat' with_reducible refine keeps_bind ?_ fun _ => ?_
  all_goals simp
@[simp] theorem vscanOp_wf (minor : Nat) (o : RedOp) (d a : Fin 32) (g : Fin 8) (sw : Bool) (s : State) (h : Memory.wf s.mem = true) :
    OutWf (vscanOp minor o d a g sw s) := by
  unfold vscanOp
  refine issue_wf ?_ h
  repeat' with_reducible refine keeps_bind ?_ fun _ => ?_
  all_goals simp
@[simp] theorem execVredAdd_wf (ty : LaneTy) (d a : Fin 32) (g : Fin 8) (sw : Bool) (s : State) (h : Memory.wf s.mem = true) :
    OutWf (execVredAdd ty d a g sw s) := by
  unfold execVredAdd
  simp +contextual [h]
@[simp] theorem execVscanAdd_wf (ty : LaneTy) (d a : Fin 32) (g : Fin 8) (sw : Bool) (s : State) (h : Memory.wf s.mem = true) :
    OutWf (execVscanAdd ty d a g sw s) := by
  unfold execVscanAdd
  simp +contextual [h]
@[simp] theorem execVredMin_wf (ty : LaneTy) (d a : Fin 32) (g : Fin 8) (sw : Bool) (s : State) (h : Memory.wf s.mem = true) :
    OutWf (execVredMin ty d a g sw s) := by
  unfold execVredMin
  simp +contextual [h]
@[simp] theorem execVscanMin_wf (ty : LaneTy) (d a : Fin 32) (g : Fin 8) (sw : Bool) (s : State) (h : Memory.wf s.mem = true) :
    OutWf (execVscanMin ty d a g sw s) := by
  unfold execVscanMin
  simp +contextual [h]
@[simp] theorem execVredMax_wf (ty : LaneTy) (d a : Fin 32) (g : Fin 8) (sw : Bool) (s : State) (h : Memory.wf s.mem = true) :
    OutWf (execVredMax ty d a g sw s) := by
  unfold execVredMax
  simp +contextual [h]
@[simp] theorem execVscanMax_wf (ty : LaneTy) (d a : Fin 32) (g : Fin 8) (sw : Bool) (s : State) (h : Memory.wf s.mem = true) :
    OutWf (execVscanMax ty d a g sw s) := by
  unfold execVscanMax
  simp +contextual [h]
@[simp] theorem transOp_wf (minor : Nat) (f : Ext → Nat × Nat) (d a : Fin 32) (g : Fin 8) (sw : Bool) (s : State)
    (h : Memory.wf s.mem = true) : OutWf (transOp minor f d a g sw s) := by
  unfold transOp
  refine issue_wf ?_ h
  repeat' with_reducible refine keeps_bind ?_ fun _ => ?_
  all_goals simp
@[simp] theorem execVexp2_wf (d a : Fin 32) (g : Fin 8) (sw : Bool) (s : State) (h : Memory.wf s.mem = true) :
    OutWf (execVexp2 d a g sw s) := by
  unfold execVexp2
  simp +contextual [h]
@[simp] theorem execVrcp_wf (d a : Fin 32) (g : Fin 8) (sw : Bool) (s : State) (h : Memory.wf s.mem = true) :
    OutWf (execVrcp d a g sw s) := by
  unfold execVrcp
  simp +contextual [h]
@[simp] theorem execVrsqrt_wf (d a : Fin 32) (g : Fin 8) (sw : Bool) (s : State) (h : Memory.wf s.mem = true) :
    OutWf (execVrsqrt d a g sw s) := by
  unfold execVrsqrt
  simp +contextual [h]
@[simp] theorem execVdot_wf (ty : LaneTy) (d a b : Fin 32) (g : Fin 8) (u q : Bool) (sw : Bool) (s : State) (h : Memory.wf s.mem = true) :
    OutWf (execVdot ty d a b g u q sw s) := by
  unfold execVdot
  simp +contextual [h]

end Sys2Proof.Machine
end

section
/-! Canonical memory (O60): fetch, the events that come about by themselves, and one step. -/

namespace Sys2Proof.Machine

/-- Every instruction and every event leaves memory canonical. -/
theorem exec_wf (i : Instr) (s : State) (h : Memory.wf s.mem = true) : OutWf (exec i s) := by
  cases i <;> simp [exec, h]

/-! ### Fetch -/

@[simp] theorem followBytes_keeps (f : Forward) (leader a n : Nat) : Keeps State.Inv (followBytes f leader a n) := by
  unfold followBytes
  refine keeps_bind getT_keeps fun t => keeps_bind (checkCap_keeps ..) fun _ => keeps_bind (by simp) fun _ => ?_
  split
  · exact keeps_pure _
  · refine keeps_get fun s hs => ?_
    have hw := State.codeBytes_wf s leader a n hs
    dsimp only
    split
    · exact keeps_bind (keeps_set hw) fun _ => keeps_pure _
    · exact waitFor_keeps _
@[simp] theorem codeAt_keeps (a n : Nat) : Keeps State.Inv (codeAt a n) := by
  unfold codeAt
  refine keeps_bind keeps_get' fun s => ?_
  split
  · exact followBytes_keeps ..
  · exact fetchBytes_keeps ..
@[simp] theorem fetchInstr_keeps : Keeps State.Inv fetchInstr := by
  unfold fetchInstr
  refine keeps_bind getT_keeps fun t => keeps_bind (codeAt_keeps ..) fun b => ?_
  split
  · exact keeps_bind (codeAt_keeps ..) fun _ => keeps_pure _
  · exact keeps_pure _
theorem fetchFails_wf (s t : State) (e : Exn) (h : Memory.wf t.mem = true) : OutWf (fetchFails s t e) := by
  unfold fetchFails
  cases e <;> simp [h]
@[simp] theorem State.markStarted_mem (s : State) : s.markStarted.mem = s.mem := by
  unfold State.markStarted
  split <;> simp
theorem runCore_wf (s : State) (h : Memory.wf s.mem = true) : OutWf (runCore s) := by
  unfold runCore
  obtain ⟨hok, herr⟩ := fetchInstr_keeps.run s h
  split
  · rename_i ht
    exact fetchFails_wf _ _ _ (herr _ _ ht)
  · rename_i ht
    have hw : Memory.wf _ = true := hok _ _ ht
    split
    · exact exec_wf _ _ (by simpa using hw)
    · simpa using hw

/-! ### Events that come about by themselves -/

/-- An event that leaves memory canonical. -/
def EventWf (e : Event) : Prop := ∀ s, Memory.wf s.mem = true → OutWf (e s)
/-- Events that each leave memory canonical. -/
def EventsWf (l : List Event) : Prop := ∀ e ∈ l, EventWf e

theorem eventsWf_append {l m : List Event} (hl : EventsWf l) (hm : EventsWf m) : EventsWf (l ++ m) := by
  intro e he
  rcases List.mem_append.mp he with he | he
  · exact hl e he
  · exact hm e he
theorem eventsWf_map {α : Type} {f : α → Event} (l : List α) (hf : ∀ a, EventWf (f a)) : EventsWf (l.map f) := by
  intro e he
  obtain ⟨a, -, rfl⟩ := List.mem_map.mp he
  exact hf a
theorem eventsWf_flatMap {α : Type} {f : α → List Event} (l : List α) (hf : ∀ a, EventsWf (f a)) : EventsWf (l.flatMap f) := by
  intro e he
  obtain ⟨a, -, he⟩ := List.mem_flatMap.mp he
  exact hf a e he
theorem eventsWf_nil : EventsWf [] := nofun
theorem eventsWf_if (c : Bool) {e : Event} (he : EventWf e) : EventsWf (eventIf c e) := by
  unfold eventIf
  split
  · exact List.forall_mem_singleton.mpr he
  · exact eventsWf_nil
theorem replyEvent_wf (s : State) (r : Reply) : EventWf (s.replyEvent r) := by
  unfold State.replyEvent
  split
  · exact execFaultReply_wf _ _ _
  · split
    · exact execServiceCallReply_wf _ _ _
    · exact execFaultReply_wf _ _ _
theorem msgEvent_wf (s : State) (i : Nat) (m : Msg) : EventWf (s.msgEvent i m) := by
  unfold State.msgEvent
  split
  · exact execStaleGenDrop_wf i
  · split
    · exact execWakeUpArrival_wf i
    · exact execMessageArrival_wf i
theorem consortEvents_wf (k : Nat) (c : Consort) : EventsWf (consortEvents k c) :=
  eventsWf_append (eventsWf_if _ (execConsortRunForward_wf k)) (eventsWf_if _ (execFollowerBufferTimeout_wf k))
theorem hostEvents_wf (s : State) (key n : Nat) : EventsWf (s.hostEvents key n) := by
  unfold State.hostEvents
  split
  · exact eventsWf_nil
  · exact eventsWf_map _ fun l => execCxlCacheResponse_wf (64 * l) none false
theorem xferHostEvents_wf (s : State) (k : Nat) (x : Xfer) : EventsWf (s.xferHostEvents k x) := by
  unfold State.xferHostEvents
  split
  · split
    · exact eventsWf_flatMap _ fun p => hostEvents_wf s p.key p.len
    · exact eventsWf_nil
  · exact eventsWf_nil
theorem coreEvents_wf (s : State) (e : Nat × Tile) : EventsWf (s.coreEvents e) := by
  obtain ⟨k, t⟩ := e
  have hconsort : EventsWf ((t.consort.map (consortEvents k)).getD []) := by
    cases t.consort with
    | none => exact eventsWf_nil
    | some c => exact consortEvents_wf k c
  unfold State.coreEvents
  refine eventsWf_append (eventsWf_append (eventsWf_append (eventsWf_append (eventsWf_append (eventsWf_append (eventsWf_append
    (eventsWf_append (eventsWf_append (eventsWf_append ?save ?lost) ?retire) ?xfers) ?commit) ?hostStores) ?hostXfers) ?stores)
    hconsort) ?slots) ?revoke
  case save => exact eventsWf_if _ (execTaskSave_wf k)
  case lost => exact eventsWf_if _ (execTileLost_wf k 0xFF)
  case retire => exact eventsWf_if _ (execEngineRetire_wf k)
  case xfers => exact eventsWf_map _ fun i => execTransferComplete_wf k i
  case commit => exact eventsWf_if _ (execChordRunCommit_wf k)
  case hostStores => exact eventsWf_flatMap _ fun x => hostEvents_wf s x.key x.data.length
  case hostXfers => exact eventsWf_flatMap _ fun x => xferHostEvents_wf s k x
  case stores => exact eventsWf_map _ fun i => execStorePerformed_wf k i
  case slots => exact eventsWf_if _ (execIssueWindow_wf k)
  case revoke => exact eventsWf_if _ (execRevocationDeadline_wf k)
theorem events_wf (s : State) : EventsWf s.events := by
  unfold State.events
  refine eventsWf_append (eventsWf_append (eventsWf_append (eventsWf_append (eventsWf_append (eventsWf_append (eventsWf_append
    (eventsWf_append (eventsWf_append (eventsWf_append (eventsWf_append (eventsWf_append (eventsWf_append ?start ?replies) ?calls)
    ?msgs) ?cores) ?grants) ?rows) ?rwrites) ?snoops) ?colls) ?done) ?resume) ?dispatch) ?retry
  case start => exact eventsWf_flatMap _ fun g => eventsWf_map _ fun k => execTaskStart_wf k
  case replies => exact eventsWf_map _ fun r => replyEvent_wf s r
  case calls => exact eventsWf_if _ execModuleControllerCall_wf
  case msgs => exact eventsWf_map _ fun m => msgEvent_wf s m.2 m.1
  case cores => exact eventsWf_flatMap _ fun e => coreEvents_wf s e
  case grants => exact eventsWf_flatMap _ fun d => eventsWf_map _ fun r => execTokenGrant_wf r.1 r.2
  case rows => exact eventsWf_map _ fun i => execExpertRowArrival_wf i
  case rwrites =>
    exact eventsWf_flatMap _ fun w => eventsWf_append (eventsWf_map _ fun c => execReplicaAck_wf w.stamp c)
      (List.forall_mem_singleton.mpr (execReplicaCommit_wf w.stamp))
  case snoops => exact eventsWf_map _ fun i => execBackInvalidateResponse_wf i none
  case colls => exact eventsWf_map _ fun c => execCollectiveComplete_wf c.2 _
  case done => exact eventsWf_map _ fun g => execGridComplete_wf g.1
  case resume => exact eventsWf_map _ fun g => execGridResume_wf g.1
  case dispatch => exact eventsWf_map _ fun p => execDispatch_wf p.1
  case retry => exact eventsWf_map _ fun i => execMessageRetry_wf i
theorem firstEvent_wf (s : State) (l : List Event) (hl : EventsWf l) (h : Memory.wf s.mem = true) : OutWf (firstEvent s l) := by
  induction l with
  | nil => exact h
  | cons e l ih =>
    have he := hl e List.mem_cons_self s h
    have hrest := ih fun x hx => hl x (List.mem_cons_of_mem e hx)
    unfold firstEvent
    split
    · rename_i ht
      rw [ht] at he
      split
      · exact hrest
      · exact he
    · exact he
theorem background_wf (s : State) (h : Memory.wf s.mem = true) : OutWf (background s) := firstEvent_wf s _ (events_wf s) h

/-! ### What the core does next -/

theorem handlerStep_wf (s : State) (h : Memory.wf s.mem = true) : OutWf (handlerStep s) := by
  unfold handlerStep
  split
  · exact execHandlerEntry_wf s.cur s h
  · exact background_wf s h
theorem retryWait_wf (s : State) (h : Memory.wf s.mem = true) : OutWf (retryWait s) := by
  have hb := background_wf s h
  unfold retryWait
  split
  · rename_i ht
    rw [ht] at hb
    split
    · exact runCore_wf _ hb
    · exact hb
  · exact hb
theorem flowStep_wf (s : State) (h : Memory.wf s.mem = true) : OutWf (flowStep s) := by
  unfold flowStep
  dsimp only
  split
  · split
    · exact background_wf s h
    · exact retryWait_wf s h
  · split
    · exact background_wf s h
    · refine runCore_wf _ ?_
      split <;> exact h
theorem taskStep_wf (s : State) (h : Memory.wf s.mem = true) : OutWf (taskStep s) := by
  unfold taskStep
  dsimp only
  split
  · exact State.readSpilled_wf s _ _ h
  · split
    · exact execDeferredResult_wf s.cur s h
    · split
      · exact State.stopTask_wf s _ h
      · split
        · exact background_wf s h
        · split
          · exact handlerStep_wf s h
          · split
            · exact background_wf s h
            · exact flowStep_wf s h
theorem coreStep_wf (s : State) (h : Memory.wf s.mem = true) : OutWf (coreStep s) := by
  unfold coreStep
  split
  · trivial
  · split
    · exact background_wf s h
    · exact taskStep_wf s h
theorem eventStep_wf (i : Instr) (s : State) (h : Memory.wf s.mem = true) : OutWf (eventStep i s) := by
  unfold eventStep
  split
  · exact h
  · exact exec_wf i s h
theorem stepInput_wf (s : State) (h : Memory.wf s.mem = true) : OutWf (stepInput s) := by
  unfold stepInput
  split
  · exact coreStep_wf s h
  · exact coreStep_wf _ h
  · exact eventStep_wf _ _ h

/-- Settles O60: every function of the model that gives a state leaves memory canonical, down to `Memory.set` and `Memory.clear`. -/
theorem stepKeepsMemoryCanonical : Obligations.StepKeepsMemoryCanonical := by
  unfold Obligations.StepKeepsMemoryCanonical
  intro s t h ht
  have hw := stepInput_wf s h
  unfold step stepModule at ht
  split at ht
  · rename_i hu
    cases ht
    rw [hu] at hw
    exact hw
  · cases ht
  · cases ht

end Sys2Proof.Machine
end

section
/-! What is done at a home leaves every core as it is, and which core steps; draining a core's store buffer changes its stores and what
of a chord has committed. -/

namespace Sys2Proof.Machine

@[simp] theorem tiles_foldl {α : Type} {f : State → α → State} (l : List α) {s : State} (hf : ∀ s a, (f s a).tiles = s.tiles) :
    (l.foldl f s).tiles = s.tiles := by
  induction l generalizing s with
  | nil => rfl
  | cons a l ih => exact ih.trans (hf s a)
@[simp] theorem cur_foldl {α : Type} {f : State → α → State} (l : List α) {s : State} (hf : ∀ s a, (f s a).cur = s.cur) :
    (l.foldl f s).cur = s.cur := foldl_cur f hf l s
@[simp] theorem tiles_ite {c : Prop} [Decidable c] {s t : State} : (if c then s else t).tiles = if c then s.tiles else t.tiles := apply_ite ..
@[simp] theorem cur_ite {c : Prop} [Decidable c] {s t : State} : (if c then s else t).cur = if c then s.cur else t.cur := apply_ite ..
@[simp] theorem State.zero_tiles (s : State) (key n : Nat) : (s.zero key n).tiles = s.tiles := rfl
@[simp] theorem State.writeNat_tiles (s : State) (key n x : Nat) : (s.writeNat key n x).tiles = s.tiles := rfl
@[simp] theorem State.modExpert_tiles (s : State) (d b : Nat) (f : Expert → Expert) : (s.modExpert d b f).tiles = s.tiles := by
  unfold State.modExpert
  split <;> simp
@[simp] theorem State.dropRow_tiles (s : State) (d b : Nat) : (s.dropRow d b).tiles = s.tiles := rfl
@[simp] theorem State.poolMsg_tiles (s : State) (d owner cls : Nat) (data : List Word) : (s.poolMsg d owner cls data).tiles = s.tiles := rfl
@[simp] theorem State.flush_tiles (s : State) (d : Nat) : (s.flush d).tiles = s.tiles := by
  unfold State.flush
  dsimp only
  split
  · simp
  · split <;> simp
@[simp] theorem State.overflowMsg_tiles (s : State) (d b why : Nat) : (s.overflowMsg d b why).tiles = s.tiles := rfl
@[simp] theorem State.holdRow_tiles (s : State) (r : Row) (why : Nat) : (s.holdRow r why).tiles = s.tiles := by
  unfold State.holdRow
  simp
@[simp] theorem State.arriveRow_tiles (s : State) (r : Row) : (s.arriveRow r).tiles = s.tiles := by
  unfold State.arriveRow
  split <;> simp
@[simp] theorem State.retryRows_tiles (s : State) (which : Row → Bool) : (s.retryRows which).tiles = s.tiles := by
  unfold State.retryRows
  simp
@[simp] theorem State.releaseExpert_tiles (s : State) (d b : Nat) : (s.releaseExpert d b).tiles = s.tiles := by
  unfold State.releaseExpert
  dsimp only
  rw [State.retryRows_tiles, State.modDie_tiles]
  split
  · simp
  · split
    · simp
    · rw [State.modDie_tiles, State.modExpert_tiles, tiles_foldl _ fun _ _ => State.zero_tiles ..]
      simp
@[simp] theorem State.decideOverflow_tiles (s : State) (d b : Nat) : (s.decideOverflow d b).tiles = s.tiles := by
  unfold State.decideOverflow
  dsimp only
  split
  · rfl
  · split
    · simp
    · split
      · exact (tiles_foldl _ fun _ _ => State.dropRow_tiles ..).trans (by simp)
      · exact (tiles_foldl _ fun _ _ => State.arriveRow_tiles ..).trans (by simp)
      · simp
      · simp
@[simp] theorem State.performAt_tiles (s : State) (key : Nat) (data : List Byte) (tag : Bool) : (s.performAt key data tag).tiles = s.tiles := by
  unfold State.performAt
  simp
@[simp] theorem State.mendCopy_tiles (s : State) (k c w : Nat) : (s.mendCopy k c w).tiles = s.tiles := by
  unfold State.mendCopy
  simp
@[simp] theorem State.mendWord_tiles (s : State) (k c w : Nat) : (s.mendWord k c w).tiles = s.tiles := by
  unfold State.mendWord
  simp
@[simp] theorem State.mend_tiles (s : State) (k c key n : Nat) (repl : Bool) : (s.mend k c key n repl).tiles = s.tiles := by
  unfold State.mend
  simp
@[simp] theorem State.stampWrite_tiles (s : State) (k key : Nat) (data : List Byte) (tag : Bool) (id : Nat) : (s.stampWrite k key data tag id).tiles = s.tiles := rfl
@[simp] theorem State.ackWrite_tiles (s : State) (n copy : Nat) : (s.ackWrite n copy).tiles = s.tiles := by
  unfold State.ackWrite
  simp
@[simp] theorem State.commitWrite_tiles (s : State) (n : Nat) : (s.commitWrite n).tiles = s.tiles := by
  unfold State.commitWrite
  split <;> simp
@[simp] theorem State.settleWrite_tiles (s : State) : (s.settleWrite).tiles = s.tiles := by
  unfold State.settleWrite
  split <;> simp
@[simp] theorem State.settleWrites_tiles (s : State) : (s.settleWrites).tiles = s.tiles := by
  unfold State.settleWrites
  simp
@[simp] theorem State.hostTake_tiles (s : State) (key n : Nat) : (s.hostTake key n).tiles = s.tiles := by
  unfold State.hostTake
  simp
@[simp] theorem State.sendHost_tiles (s : State) (key : Nat) (data : List Byte) : (s.sendHost key data).tiles = s.tiles := by
  unfold State.sendHost
  split
  · rfl
  · split <;> rfl
@[simp] theorem State.performStore_tiles (s : State) (k : Nat) (st : PStore) (id : Nat) : (s.performStore k st id).tiles = s.tiles := by
  unfold State.performStore
  simp
@[simp] theorem State.zero_cur (s : State) (key n : Nat) : (s.zero key n).cur = s.cur := rfl
@[simp] theorem State.writeNat_cur (s : State) (key n x : Nat) : (s.writeNat key n x).cur = s.cur := rfl
@[simp] theorem State.modExpert_cur (s : State) (d b : Nat) (f : Expert → Expert) : (s.modExpert d b f).cur = s.cur := by
  unfold State.modExpert
  split <;> simp
@[simp] theorem State.dropRow_cur (s : State) (d b : Nat) : (s.dropRow d b).cur = s.cur := rfl
@[simp] theorem State.poolMsg_cur (s : State) (d owner cls : Nat) (data : List Word) : (s.poolMsg d owner cls data).cur = s.cur := rfl
@[simp] theorem State.flush_cur (s : State) (d : Nat) : (s.flush d).cur = s.cur := by
  unfold State.flush
  dsimp only
  split
  · simp
  · split <;> simp
@[simp] theorem State.overflowMsg_cur (s : State) (d b why : Nat) : (s.overflowMsg d b why).cur = s.cur := rfl
@[simp] theorem State.holdRow_cur (s : State) (r : Row) (why : Nat) : (s.holdRow r why).cur = s.cur := by
  unfold State.holdRow
  simp
@[simp] theorem State.arriveRow_cur (s : State) (r : Row) : (s.arriveRow r).cur = s.cur := by
  unfold State.arriveRow
  split <;> simp
@[simp] theorem State.retryRows_cur (s : State) (which : Row → Bool) : (s.retryRows which).cur = s.cur := by
  unfold State.retryRows
  simp
@[simp] theorem State.releaseExpert_cur (s : State) (d b : Nat) : (s.releaseExpert d b).cur = s.cur := by
  unfold State.releaseExpert
  dsimp only
  rw [State.retryRows_cur, State.modDie_cur]
  split
  · simp
  · split
    · simp
    · rw [State.modDie_cur, State.modExpert_cur, cur_foldl _ fun _ _ => State.zero_cur ..]
      simp
@[simp] theorem State.decideOverflow_cur (s : State) (d b : Nat) : (s.decideOverflow d b).cur = s.cur := by
  unfold State.decideOverflow
  dsimp only
  split
  · rfl
  · split
    · simp
    · split
      · exact (cur_foldl _ fun _ _ => State.dropRow_cur ..).trans (by simp)
      · exact (cur_foldl _ fun _ _ => State.arriveRow_cur ..).trans (by simp)
      · simp
      · simp
@[simp] theorem State.performAt_cur (s : State) (key : Nat) (data : List Byte) (tag : Bool) : (s.performAt key data tag).cur = s.cur := by
  unfold State.performAt
  simp
@[simp] theorem State.mendCopy_cur (s : State) (k c w : Nat) : (s.mendCopy k c w).cur = s.cur := by
  unfold State.mendCopy
  simp
@[simp] theorem State.mendWord_cur (s : State) (k c w : Nat) : (s.mendWord k c w).cur = s.cur := by
  unfold State.mendWord
  simp
@[simp] theorem State.mend_cur (s : State) (k c key n : Nat) (repl : Bool) : (s.mend k c key n repl).cur = s.cur := by
  unfold State.mend
  simp
@[simp] theorem State.stampWrite_cur (s : State) (k key : Nat) (data : List Byte) (tag : Bool) (id : Nat) : (s.stampWrite k key data tag id).cur = s.cur := rfl
@[simp] theorem State.ackWrite_cur (s : State) (n copy : Nat) : (s.ackWrite n copy).cur = s.cur := by
  unfold State.ackWrite
  simp
@[simp] theorem State.commitWrite_cur (s : State) (n : Nat) : (s.commitWrite n).cur = s.cur := by
  unfold State.commitWrite
  split <;> simp
@[simp] theorem State.settleWrite_cur (s : State) : (s.settleWrite).cur = s.cur := by
  unfold State.settleWrite
  split <;> simp
@[simp] theorem State.settleWrites_cur (s : State) : (s.settleWrites).cur = s.cur := by
  unfold State.settleWrites
  simp
@[simp] theorem State.hostTake_cur (s : State) (key n : Nat) : (s.hostTake key n).cur = s.cur := by
  unfold State.hostTake
  simp
@[simp] theorem State.sendHost_cur (s : State) (key : Nat) (data : List Byte) : (s.sendHost key data).cur = s.cur := by
  unfold State.sendHost
  split
  · rfl
  · split <;> rfl
@[simp] theorem State.performStore_cur (s : State) (k : Nat) (st : PStore) (id : Nat) : (s.performStore k st id).cur = s.cur := by
  unfold State.performStore
  simp

/-! ### Draining the store buffer -/

@[simp] theorem performChosen_tiles (k : Nat) (l : List (Bool × PStore)) (s : State) : (performChosen k l s).2.tiles = s.tiles := by
  induction l generalizing s with
  | nil => rfl
  | cons x l ih =>
    unfold performChosen
    split
    · rfl
    · split
      · exact (ih _).trans (State.performStore_tiles ..)
      · exact ih s
@[simp] theorem performChosen_cur (k : Nat) (l : List (Bool × PStore)) (s : State) : (performChosen k l s).2.cur = s.cur := by
  induction l generalizing s with
  | nil => rfl
  | cons x l ih =>
    unfold performChosen
    split
    · rfl
    · split
      · exact (ih _).trans (State.performStore_cur ..)
      · exact ih s
@[simp] theorem State.settleOf_tiles (s : State) (k : Nat) : (s.settleOf k).tiles = s.tiles := by
  unfold State.settleOf
  split <;> simp
@[simp] theorem State.settleOf_cur (s : State) (k : Nat) : (s.settleOf k).cur = s.cur := by
  unfold State.settleOf
  split <;> simp
theorem State.tile_of_tiles {s t : State} (h : t.tiles = s.tiles) (k : Nat) : t.tile k = s.tile k := by
  unfold State.tile
  rw [h]
@[simp] theorem State.drain_cur (s : State) (k : Nat) (want : PStore → Bool) : (s.drain k want).cur = s.cur := by
  simp [State.drain]
/-- A core whose buffer drains commits its chord's runs and keeps the stores that cannot be performed yet. -/
theorem State.drain_tile (s : State) (k : Nat) (want : PStore → Bool) :
    ∃ rest, (s.drain k want).tile k = { (s.tile k).commitAll with stores := rest } := by
  refine ⟨(performChosen k (choose want (s.tile k).commitAll.stores) s).1, ?_⟩
  unfold State.drain
  dsimp only
  rw [State.tile_of_tiles (State.settleOf_tiles _ k), State.tile_modTile, State.tile_of_tiles (performChosen_tiles ..)]
theorem Tile.commitAll_eq (t : Tile) : ∃ c st, t.commitAll = { t with commits := c, stores := st } := by
  unfold Tile.commitAll
  split
  · exact ⟨_, _, rfl⟩
  · exact ⟨_, _, rfl⟩
@[simp] theorem State.drain_ag (s : State) (k : Nat) (want : PStore → Bool) : ((s.drain k want).tile k).ag = (s.tile k).ag := by
  obtain ⟨rest, hr⟩ := s.drain_tile k want
  obtain ⟨c, st, hc⟩ := (s.tile k).commitAll_eq
  rw [hr, hc]

end Sys2Proof.Machine
end

section
/-! Atomics (O17): one atomic event at the home of its bytes, then the instructions that perform one. -/

namespace Sys2Proof.Machine

theorem State.noted_ag (s : State) (key n : Nat) : (s.noted key n).here.ag = s.here.ag := by
  unfold State.noted
  split
  · rw [State.here_modTile]
  · rfl

/-- Stores of the core to a range that have to be performed first, and can be. -/
theorem performOver_ok {v u : State} {key n : Nat}
    (hu : u = if v.undrained v.cur (PStore.over key n) then v.drain v.cur (PStore.over key n) else v)
    (h : u.undrained v.cur (PStore.over key n) = false) : performOver key n v = .ok ⟨⟩ u := by
  subst hu
  unfold performOver
  simp only [op_bind, op_get]
  split at h
  · next hv =>
    rw [if_pos hv, if_pos hv]
    unfold performFirst
    simp [h]
  · next hv => rw [if_neg hv, if_neg hv, op_pure]

@[simp] theorem State.noted_readNat (s : State) (key n a m : Nat) : (s.noted key n).readNat a m = s.readNat a m := by
  unfold State.readNat State.readAt
  rw [State.noted_mem]

section Rmw
variable {s t : State} {a n old : Nat}

/-- An atomic event leaves the generators bound, and the core that steps. -/
theorem Rmw.ag {new : Option Nat} (h : Rmw s a n old new t) : t.cur = s.cur ∧ t.here.ag = s.here.ag := by
  have hmem {u v : State} (hc : v.cur = u.cur) (ht : v.tiles = u.tiles) (hu : u.cur = s.cur ∧ u.here.ag = s.here.ag) :
      v.cur = s.cur ∧ v.here.ag = s.here.ag := by
    refine ⟨hc.trans hu.1, ?_⟩
    rw [← hu.2, State.here, State.here, hc, State.tile_of_tiles ht]
  have hnoted {u : State} (key m : Nat) (hu : u.cur = s.cur ∧ u.here.ag = s.here.ag) :
      (u.noted key m).cur = s.cur ∧ (u.noted key m).here.ag = s.here.ag :=
    ⟨(State.noted_cur ..).trans hu.1, (State.noted_ag ..).trans hu.2⟩
  rcases h with ⟨w, off, -, -, -, -, rfl⟩ | ⟨p, v, u, -, htr, hu, -, -, -, -, -, ht⟩
  · cases new with
    | none => exact ⟨rfl, rfl⟩
    | some x => exact hmem (by simp) (by simp) (hnoted (scratchAt s.cur off) n ⟨rfl, rfl⟩)
  · have hv : v.cur = s.cur ∧ v.here.ag = s.here.ag := by
      obtain ⟨i, d, hd⟩ := (tlbOnly_translateAt htr).here
      exact ⟨(tlbOnly_translateAt htr).cur, by rw [hd]; rfl⟩
    have hu' : u.cur = s.cur ∧ u.here.ag = s.here.ag := by
      rw [hu]
      split
      · refine ⟨(State.drain_cur ..).trans hv.1, ?_⟩
        rw [State.here, State.drain_cur, ← hv.1, State.drain_ag, ← hv.2, State.here]
      · exact hv
    rcases ht with ⟨-, -, rfl⟩ | ⟨-, -, rfl⟩
    · cases new with
      | none => exact hnoted p.key n hu'
      | some x => exact hmem (by simp) (by simp) (hnoted p.key n hu')
    · cases new with
      | none => exact hmem (by simp) (by simp) (hnoted p.key n hu')
      | some x => exact hmem (by simp) (by simp) (hnoted p.key n hu')

/-- The operation performs the event that is described. -/
theorem Rmw.rmwAt {f : Nat → Option Nat} (h : Rmw s a n old (f old) t) (reg : Nat) : rmwAt reg a n f s = .ok old t := by
  unfold Machine.rmwAt
  rcases h with ⟨w, off, hloc, he, hb, hold, ht⟩ | ⟨p, v, u, hloc, htr, hu, hund, hown, hmend, he, hb, ht⟩
  · rw [hloc]
    simp only [op_bind, op_me, consume_good .rmw a he hb, op_get, ← hold]
    cases hf : f old with
    | none =>
      rw [hf] at ht
      rw [ht]
      rfl
    | some x =>
      rw [hf] at ht
      rw [ht]
      rfl
  · have hv := (tlbOnly_translateAt htr).cur
    rw [← hv] at hu hund hown hmend
    have huc : u.cur = v.cur := by
      rw [hu]
      split <;> simp
    rw [← huc] at hown hmend
    have hover := performOver_ok hu hund
    have hconsume := consume_good .rmw a he hb
    rcases hloc with hloc | hloc <;>
      (rw [hloc]
       simp only [op_bind, translate_ok htr, hover, op_get, hown, Bool.false_eq_true, if_false, op_set, hmend, hconsume, noteStore_ok]
       rcases ht with ⟨hr, hold, rfl⟩ | ⟨hr, hold, rfl⟩ <;>
         (simp only [hr, Bool.false_eq_true, if_false, if_true, ← hold, State.noted_readNat, State.settleWrites_cur, State.noted_cur, huc, hv]
          cases f old <;> rfl))
end Rmw

/-! ### The values -/

theorem leNat_lt (l : List Byte) : leNat l < 2 ^ (8 * l.length) := by
  induction l with
  | nil => decide
  | cons b l ih =>
    have hb := b.isLt
    rw [List.length_cons, Nat.mul_add, Nat.pow_add]
    unfold leNat
    omega
@[simp] theorem Memory.read_length (m : List Host.Cell) (a n : Nat) : (Memory.read m a n).length = n := by
  induction n generalizing a with
  | zero => rfl
  | succ n ih => exact congrArg Nat.succ (ih (a + 1))
theorem State.readNat_lt (s : State) (key n : Nat) : s.readNat key n < 2 ^ (8 * n) := by
  have h := leNat_lt (s.readAt key n)
  rwa [State.readAt, Memory.read_length] at h
theorem Rmw.old_lt {s t : State} {a n old : Nat} {new : Option Nat} (h : Rmw s a n old new t) : old < 2 ^ (8 * n) := by
  rcases h with ⟨_, _, -, -, -, rfl, -⟩ | ⟨_, _, _, -, -, -, -, -, -, -, -, ⟨-, rfl, -⟩ | ⟨-, rfl, -⟩⟩ <;> exact State.readNat_lt ..
theorem toInt_ofNat_eq_sext {n : Nat} (hn : 0 < n) (x : Nat) : (BitVec.ofNat n x).toInt = sext x n := by
  have hpow : 2 ^ n = 2 * 2 ^ (n - 1) := by rw [← Nat.pow_succ', Nat.succ_eq_add_one, Nat.sub_add_cancel hn]
  rw [BitVec.toInt_eq_toNat_cond, BitVec.toNat_ofNat, sext]
  refine if_congr ?_ rfl rfl
  omega

/-! ### The instructions -/

/-- What issue knows of an atomic. -/
def atomicMeta (maj minor : Nat) (reads : List (File × Nat)) (d : Fin 64) (sc : Scope) (ord : AmoOrd) (sw : Bool) : Meta :=
  { metaD maj minor sw reads [wr d] with sync := true, drain := orderDrain ord sc }

section Atomics
variable {maj minor : Nat} {reads : List (File × Nat)} {d : Fin 64} {sc : Scope} {ord : AmoOrd} {sw : Bool} {o s t : State}
  (hs : s = if ord = .release ∨ ord = .acqRel then o.settled sc else o.engineDone)
  (hp : ord = .release ∨ ord = .acqRel → Performed s sc)
include hs

theorem atomicMeta_settle : settle (atomicMeta maj minor reads d sc ord sw) o = s := by
  subst hs
  split
  · next h => exact settle_both rfl (by rcases h with rfl | rfl <;> rfl) o
  · next h => exact settle_sync rfl (by cases ord <;> simp_all [atomicMeta, orderDrain]) o
omit hs in
include hp in
theorem atomicMeta_unsettled : unsettled (atomicMeta maj minor reads d sc ord sw) s = none := by
  by_cases h : ord = .release ∨ ord = .acqRel
  · exact unsettled_performed (sc := sc) rfl (by rcases h with rfl | rfl <;> rfl) (hp h)
  · exact unsettled_none rfl (by cases ord <;> simp_all [atomicMeta, orderDrain]) s
include hp

/-- An atomic whose body performs its event and writes the old value is through. -/
theorem atomic_through {a n old : Nat} {new : Option Nat} {body : Op Flow} (hr : Ready s (reads ++ [wr d])) (hm : Rmw s a n old new t)
    (hb : body s = (do writeN d old; seqFlow : Op Flow) t) :
    Through (issue (atomicMeta maj minor reads d sc ord sw) body o) t 4 (results [wr d]) (fun u => u.putX d (BitVec.ofNat 64 old)) := by
  obtain ⟨-, hag⟩ := hm.ag
  have hbound : t.here.bound d = none := by
    rw [Tile.bound_congr hag]
    exact hr.unbound (n := d) (List.mem_append_right _ (List.mem_singleton_self _))
  obtain ⟨u, hu, hupd⟩ := writeN_seqFlow old hbound
  exact issue_through' (atomicMeta_settle hs) (atomicMeta_unsettled hp) (Ready.passes hr rfl rfl rfl rfl) (hb.trans hu) hupd (KeepsFlow.putX ..)
    ((Ready.noAppend (m := atomicMeta maj minor reads d sc ord sw) hr).congr hag)

theorem amoOp_completes {b : Fin 64} {z : Bool} {n old : Nat} {f : (w : Nat) → BitVec w → BitVec w → BitVec w}
    (hn : n = if z then 8 else 4) (hr : Ready s [wr d, wr b])
    (hg : Grants (s.here.getW b) (s.here.getW b).addr n (Perm.load + Perm.store) n)
    (hm : Rmw s (s.here.getW b).addr n old (some (f (8 * n) (BitVec.ofNat _ old) (BitVec.ofNat _ (s.here.getX d).toNat)).toNat) t) :
    Through (amoOp minor d b z sc ord sw f o) t 4 (results [wr d]) (fun u => u.putX d (BitVec.ofNat 64 old)) := by
  have hd := hr.unbound (n := d) (by simp [wr])
  have hb := hr.unbound (n := b) (by simp [wr])
  refine atomic_through hs hp (hr.mono (by simp [wr])) hm ?_
  subst hn
  simp only [op_bind, readN_ready hd, readW_ready hb, checkCap_grants hg,
    hm.rmwAt (f := fun o => some (f _ (BitVec.ofNat _ o) (BitVec.ofNat _ (s.here.getX d).toNat)).toNat)]

theorem cas_completes {b e : Fin 64} {old : Nat} (hr : Ready s [wr d, wr b]) (he : Ready s [wr e])
    (hg : Grants (s.here.getW b) (s.here.getW b).addr 8 (Perm.load + Perm.store) 8)
    (hm : Rmw s (s.here.getW b).addr 8 old (if old = (s.here.getX d).toNat then some (s.here.getX e).toNat else none) t) :
    Through (exec (.cas d b e sc ord sw) o) t 4 (results [wr d]) (fun u => u.putX d (BitVec.ofNat 64 old)) := by
  have hrs : Ready s ([wr d, wr b, wr e] ++ [wr d]) := by
    intro r hr'
    simp only [List.cons_append, List.nil_append, List.mem_cons, List.not_mem_nil, or_false] at hr'
    rcases hr' with rfl | rfl | rfl | rfl
    · exact hr _ (by simp)
    · exact hr _ (by simp)
    · exact he _ (by simp)
    · exact hr _ (by simp)
  refine atomic_through hs hp hrs hm ?_
  simp only [op_bind, readN_ready (hr.unbound (n := d) (by simp [wr])), readW_ready (hr.unbound (n := b) (by simp [wr])),
    readN_ready (he.unbound (n := e) (by simp [wr])), checkCap_grants hg,
    hm.rmwAt (f := fun o => if o = (s.here.getX d).toNat then some (s.here.getX e).toNat else none)]

end Atomics

/-- Settles O17: an atomic performs the one event at its location and takes the old value; what each writes is its operation on the
location's bits. -/
theorem atomicResults : Obligations.AtomicResults := by
  unfold Obligations.AtomicResults
  intro o s t d b e z sc ord sw n x old hs hp hr
  refine ⟨fun hn hx hg i new hi hm => ?_, fun he hg hm => cas_completes hs hp hr he hg hm⟩
  have hold := hm.old_lt
  have hw : 0 < 8 * n := by subst hn; split <;> decide
  have hdone (minor : Nat) (f : (w : Nat) → BitVec w → BitVec w → BitVec w)
      (hf : (f (8 * n) (BitVec.ofNat _ old) (BitVec.ofNat _ (s.here.getX d).toNat)).toNat = new) :
      Through (amoOp minor d b z sc ord sw f o) t 4 (results [wr d]) (fun u => u.putX d (BitVec.ofNat 64 old)) :=
    amoOp_completes hs hp hn hr hg (by rw [hf]; exact hm)
  have hox : BitVec.ofNat (8 * n) (s.here.getX d).toNat = BitVec.ofNat (8 * n) x := by
    apply BitVec.eq_of_toNat_eq
    simp [hx]
  have hxlt : x < 2 ^ (8 * n) := hx ▸ Nat.mod_lt _ (Nat.two_pow_pos _)
  rw [hox] at hdone
  simp only [List.mem_cons, List.not_mem_nil, or_false, Prod.mk.injEq] at hi
  rcases hi with ⟨rfl, rfl⟩ | ⟨rfl, rfl⟩ | ⟨rfl, rfl⟩ | ⟨rfl, rfl⟩ | ⟨rfl, rfl⟩ | ⟨rfl, rfl⟩ | ⟨rfl, rfl⟩ | ⟨rfl, rfl⟩ | ⟨rfl, rfl⟩
  · refine hdone 0 (fun _ o x => o + x) ?_
    simp
  · refine hdone 1 (fun _ o x => o &&& x) ?_
    simp [Nat.mod_eq_of_lt, hold, hxlt]
  · refine hdone 2 (fun _ o x => o ||| x) ?_
    simp [Nat.mod_eq_of_lt, hold, hxlt]
  · refine hdone 3 (fun _ o x => o ^^^ x) ?_
    simp [Nat.mod_eq_of_lt, hold, hxlt]
  · refine hdone 4 (fun _ o x => if x.slt o then x else o) ?_
    simp only [BitVec.slt, toInt_ofNat_eq_sext hw, decide_eq_true_iff]
    split <;> simp [Nat.mod_eq_of_lt, hold, hxlt]
  · refine hdone 5 (fun _ o x => if o.slt x then x else o) ?_
    simp only [BitVec.slt, toInt_ofNat_eq_sext hw, decide_eq_true_iff]
    split <;> simp [Nat.mod_eq_of_lt, hold, hxlt]
  · refine hdone 6 (fun _ o x => if x.ult o then x else o) ?_
    simp only [BitVec.ult, BitVec.toNat_ofNat, Nat.mod_eq_of_lt hold, Nat.mod_eq_of_lt hxlt, decide_eq_true_iff]
    split <;> simp [Nat.mod_eq_of_lt, hold, hxlt] <;> omega
  · refine hdone 7 (fun _ o x => if o.ult x then x else o) ?_
    simp only [BitVec.ult, BitVec.toNat_ofNat, Nat.mod_eq_of_lt hold, Nat.mod_eq_of_lt hxlt, decide_eq_true_iff]
    split <;> simp [Nat.mod_eq_of_lt, hold, hxlt] <;> omega
  · refine hdone 8 (fun _ _ x => x) ?_
    simp [Nat.mod_eq_of_lt, hxlt]

end Sys2Proof.Machine
end

section
/-! Ordering (O16): fences, acquire loads, release stores, and when a buffered store is performed. -/

namespace Sys2Proof.Machine

/-! ### Fences (R124) -/

section Fence
variable {o s u : State} {sc : Scope} {sw : Bool} {kinds : BitVec 6} {w : Bool}

/-- What issue knows of a fence. -/
def fenceMeta (kinds : BitVec 6) (w : Bool) (sc : Scope) (sw : Bool) : Meta :=
  { metaD 0x15 0 sw [] [] with engine := kinds.getLsbD 4, drain := fenceDrain kinds w sc }

theorem fenceMeta_settle (hu : u = if kinds.getLsbD 4 then o.engineDone else o)
    (hs : s = if kinds.getLsbD 2 || kinds.getLsbD 3 || w then u.storesDone sc
      else if kinds.getLsbD 5 then u.drain u.cur (fun x => x.append.isSome && inTier u.cur sc x.key) else u) :
    settle (fenceMeta kinds w sc sw) o = s := by
  have hengine : (if (fenceMeta kinds w sc sw).sync || (fenceMeta kinds w sc sw).engine then o.engineDrain o.cur else o) = u := hu.symm
  unfold settle
  rw [hengine, hs]
  by_cases h : (kinds.getLsbD 2 || kinds.getLsbD 3 || w) = true
  · rw [if_pos h, show (fenceMeta kinds w sc sw).drain = .stores sc from if_pos h]
    rfl
  · rw [if_neg h]
    by_cases h5 : kinds.getLsbD 5 = true
    · rw [if_pos h5, show (fenceMeta kinds w sc sw).drain = .appends sc from (if_neg h).trans (if_pos h5)]
      rfl
    · rw [if_neg h5, show (fenceMeta kinds w sc sw).drain = .none from (if_neg h).trans (if_neg h5)]
theorem fenceMeta_unsettled (heng : kinds.getLsbD 4 = true → s.here.eng = [])
    (hstores : (kinds.getLsbD 2 || kinds.getLsbD 3 || w) = true → Performed s sc)
    (happends : kinds.getLsbD 5 = true → s.undrained s.cur (fun x => x.append.isSome && inTier s.cur sc x.key) = false) :
    unsettled (fenceMeta kinds w sc sw) s = none := by
  have hengine : ((fenceMeta kinds w sc sw).engine && !(s.tile s.cur).eng.isEmpty) = false := by
    cases h4 : kinds.getLsbD 4 with
    | false => rw [show (fenceMeta kinds w sc sw).engine = false from h4, Bool.false_and]
    | true => rw [show (s.tile s.cur).eng = [] from heng h4]; simp
  unfold unsettled
  rw [hengine, if_neg (by decide)]
  refine if_neg ?_
  rintro ⟨hne, hundrained⟩
  by_cases h : (kinds.getLsbD 2 || kinds.getLsbD 3 || w) = true
  · rw [show (fenceMeta kinds w sc sw).drain = .stores sc from if_pos h] at hundrained
    exact absurd (hundrained.symm.trans (hstores h)) (by decide)
  · by_cases h5 : kinds.getLsbD 5 = true
    · rw [show (fenceMeta kinds w sc sw).drain = .appends sc from (if_neg h).trans (if_pos h5)] at hundrained
      exact absurd (hundrained.symm.trans (happends h5)) (by decide)
    · exact hne ((if_neg h).trans (if_neg h5))

theorem fence_completes (hu : u = if kinds.getLsbD 4 then o.engineDone else o)
    (hs : s = if kinds.getLsbD 2 || kinds.getLsbD 3 || w then u.storesDone sc
      else if kinds.getLsbD 5 then u.drain u.cur (fun x => x.append.isSome && inTier u.cur sc x.key) else u)
    (heng : kinds.getLsbD 4 = true → s.here.eng = [] ∧ s.xfersIn s.cur sc = false)
    (hstores : (kinds.getLsbD 2 || kinds.getLsbD 3 || w) = true → Performed s sc)
    (happends : kinds.getLsbD 5 = true → s.undrained s.cur (fun x => x.append.isSome && inTier s.cur sc x.key) = false) :
    Through (exec (.fence kinds w sc sw) o) s 4 [] (fun x => x) := by
  have hwait : (kinds.getLsbD 4 && s.xfersIn s.cur sc) = false := by
    cases h4 : kinds.getLsbD 4 with
    | false => rfl
    | true => exact (heng h4).2
  refine issue_through' (m := fenceMeta kinds w sc sw) (fenceMeta_settle hu hs)
    (fenceMeta_unsettled (fun h => (heng h).1) hstores happends)
    ⟨kinds_all _, nofun, nofun, nofun, rfl⟩ ?_ (Upd.refl s) (KeepsFlow.refl _) nofun
  simp only [op_bind, op_get, hwait]
  rfl
end Fence

/-! ### Acquire loads and release stores (R233) -/

section AcquireRelease
variable {o s t : State} {sc : Scope} {sw : Bool} {minor lg : Nat} {b : Fin 64}

theorem acquireOp_completes {d : Fin 64} {l : List Byte} {g : Bool} (hs : s = o.engineDone) (hr : Ready s [wr b, wr d])
    (hg : Grants (s.here.getW b) (s.here.getW b).addr (2 ^ lg) Perm.load (2 ^ lg))
    (hl : Loads s (s.here.getW b).addr (2 ^ lg) false t l g) :
    Through (acquireOp minor lg d b sw o) t 4 (results [wr d]) (fun u => u.putX d (BitVec.ofNat 64 (leNat l))) := by
  have hbound : t.here.bound d = none := by
    rw [Tile.bound_congr hl.ag]
    exact hr.unbound (n := d) (by simp [wr])
  obtain ⟨u, hu, hupd⟩ := writeN_seqFlow (leNat l) hbound
  refine issue_through' (m := { metaD 0x15 minor sw [wr b] [wr d] with sync := true }) ((settle_sync rfl rfl o).trans hs.symm)
    (unsettled_none rfl rfl s) (Ready.passes hr rfl rfl rfl rfl) ?_ hupd (KeepsFlow.putX ..)
    ((Ready.noAppend (m := metaD 0x15 minor sw [wr b] [wr d]) hr).congr hl.ag)
  simp only [op_bind, readW_ready (hr.unbound (n := b) (by simp [wr])), load, checkCap_grants hg, hl.load b 0 .load (by decide) 0]
  exact (op_bind ..).symm.trans hu

theorem releaseOp_completes {r : Fin 64} (hs : s = o.settled sc) (hp : Performed s sc) (hr : Ready s [wr r, wr b])
    (hg : Grants (s.here.getW b) (s.here.getW b).addr (2 ^ lg) Perm.store (2 ^ lg))
    (hst : Stores s (s.here.getW b).addr (leBytes (2 ^ lg) (s.here.getX r).toNat) none false t) :
    Through (releaseOp minor lg r b sc sw o) t 4 [] (fun u => u) := by
  refine issue_through' (m := { metaD 0x15 minor sw [wr r, wr b] [] with sync := true, drain := .stores sc })
    ((settle_both rfl rfl o).trans hs.symm) (unsettled_performed rfl rfl hp) (Ready.passes hr rfl rfl rfl rfl) ?_ (Upd.refl t)
    (KeepsFlow.refl _) nofun
  have hstore := hst.store b 0 .store false nofun 0
  rw [Option.isSome_none] at hstore
  simp only [op_bind, readN_ready (hr.unbound (n := r) (by simp [wr])), readW_ready (hr.unbound (n := b) (by simp [wr])), store, leBytes_length, checkCap_grants hg, hstore]
  rfl
end AcquireRelease

theorem exec_acquireOf (z : Fin 4) (d b : Fin 64) (sc : Scope) (sw : Bool) (o : State) :
    exec (acquireOf z d b sc sw) o = acquireOp (1 + z.val) z.val d b sw o := by
  match z with
  | 0 => rfl
  | 1 => rfl
  | 2 => rfl
  | 3 => rfl
theorem exec_releaseOf (z : Fin 4) (r b : Fin 64) (sc : Scope) (sw : Bool) (o : State) :
    exec (releaseOf z r b sc sw) o = releaseOp (5 + z.val) z.val r b sc sw o := by
  match z with
  | 0 => rfl
  | 1 => rfl
  | 2 => rfl
  | 3 => rfl
theorem fencesAcquiresReleases : FencesAcquiresReleases := by
  intro o s t sc sw
  refine ⟨fun kinds w u hu hs heng hstores happends => fence_completes hu hs heng hstores happends,
    fun z d b l g hs hr hg hl => ?_, fun z r b hs hp hr hg hst => ?_⟩
  · rw [exec_acquireOf]
    exact acquireOp_completes hs hr hg hl
  · rw [exec_releaseOf]
    exact releaseOp_completes hs hp hr hg hst

/-! ### When a buffered store is performed (R118, R155) -/

section Performed
variable {s : State} {k : Nat} {x : PStore}

/-- A plain store outside the expert window is performed by a write at its home. -/
theorem performStore_plain (hr : x.repl = false) (he : isExpert x.key = false) :
    s.performStore k x = (s.writeKey x.key x.data x.tag).sendHost x.key x.data := by
  simp [State.performStore, State.performAt, hr, he]
@[simp] theorem State.sendHost_rwrites (s : State) (key : Nat) (data : List Byte) : (s.sendHost key data).rwrites = s.rwrites := by
  unfold State.sendHost
  split
  · rfl
  · split <;> rfl
theorem performStore_mem (hr : x.repl = false) (he : isExpert x.key = false) :
    (s.performStore k x).mem = Memory.write s.mem x.key x.data := by
  rw [performStore_plain hr he, State.sendHost_mem]
  rfl
theorem not_stuck (hc : x.committed = true) (hr : x.repl = false) (ho : s.owned k noXfer x.key x.data.length = false)
    (hh : isHost x.key = true → s.hostGranted x.key x.data.length = true) : s.stuck k x = false := by
  cases hx : isHost x.key with
  | false => simp [State.stuck, hc, hr, ho, hx]
  | true => simp [State.stuck, hc, hr, ho, hh hx]

/-- Draining a buffer of one store, which nothing holds back, performs it. -/
theorem drainStores_single (hst : (s.tile k).stores = [x]) (hr : x.repl = false) (hc : x.committed = true ∨ (s.tile k).chord.isSome = true)
    (ho : s.owned k noXfer x.key x.data.length = false) (hh : isHost x.key = true → s.hostGranted x.key x.data.length = true)
    (hw : ∀ w ∈ s.rwrites, w.writer ≠ k) (he : isExpert x.key = false) :
    s.drainStores k = (s.performStore k { x with committed := true }).modTile k (fun t => { t.commitAll with stores := [] }) := by
  have hstores : (s.tile k).commitAll.stores = [{ x with committed := true }] := by
    unfold Tile.commitAll
    split
    · simp [Tile.commitRuns, hst]
    · next hn =>
      have hx : x.committed = true := by simpa [hn] using hc
      rw [hst, ← hx]
  have hchosen : performChosen k [(true, { x with committed := true })] s = ([], s.performStore k { x with committed := true }) := by
    simp [performChosen, not_stuck (x := { x with committed := true }) rfl hr ho hh]
  have hsettle (u : State) (hu : u.rwrites = s.rwrites) : u.settleOf k = u := by
    unfold State.settleOf
    rw [hu]
    refine if_neg ?_
    simpa using hw
  unfold State.drainStores State.drain
  rw [hstores, show choose (fun _ => true) [{ x with committed := true }] = [(true, { x with committed := true })] from rfl, hchosen]
  exact hsettle _ (by rw [State.modTile_rwrites, performStore_plain (x := { x with committed := true }) hr he, State.sendHost_rwrites,
    State.writeKey_rwrites])

theorem bufferedStorePerformed : BufferedStorePerformed := by
  refine ⟨fun s k x hwf hst hr he hc ho hh hw => ?_, fun s k i x hx => ⟨fun hheld => ?_, fun hwf hc hr he hearlier ho hh => ?_⟩⟩
  · have hd := drainStores_single hst hr hc ho hh hw he
    have hmem : (s.drainStores k).mem = Memory.write s.mem x.key x.data := by
      rw [hd, State.modTile_mem, performStore_mem (x := { x with committed := true }) hr he]
    refine ⟨by rw [hd, State.tile_modTile], ?_, fun a ha => ?_, ?_⟩
    · rw [State.readAt, hmem, Memory.read_write _ _ hwf]
    · rw [hmem, Memory.get_write_other _ _ _ hwf ha]
    · rw [hmem]
      exact Memory.wf_write _ _ hwf
  · have hstuck : s.stuck k x = true := by
      rcases hheld with h | h | ⟨h, h'⟩ | ⟨h, h'⟩ <;> simp_all [State.stuck]
    change execStorePerformed k i s = .next s
    simp [execStorePerformed, hx, State.canPerform, hstuck]
  · have hcan : s.canPerform k i x = true := by
      simp only [State.canPerform, not_stuck hc hr ho hh, Bool.not_false, Bool.true_and, Bool.not_eq_true', List.any_eq_false, meets,
        decide_eq_true_iff]
      intro y hy
      have := hearlier y hy
      omega
    refine ⟨(s.dropStore k i).performStore k x, ?_, ?_, fun a ha => ?_, ?_, fun j hj => ?_⟩
    · change execStorePerformed k i s = _
      simp [execStorePerformed, hx, hcan]
    · rw [State.readAt, performStore_mem hr he]
      exact Memory.read_write _ _ hwf
    · rw [performStore_mem hr he]
      exact Memory.get_write_other _ _ _ hwf ha
    · rw [State.tile_of_tiles (State.performStore_tiles ..)]
      exact State.tile_modTile ..
    · rw [State.tile_of_tiles (State.performStore_tiles ..)]
      exact State.tile_setTile_other _ _ hj
end Performed

/-- Settles O16: fences, acquires and releases by what they wait for, a performed store by the bytes it leaves at its home. -/
theorem orderingInstructions : Obligations.OrderingInstructions := ⟨fencesAcquiresReleases, bufferedStorePerformed⟩

end Sys2Proof.Machine
end

section
/-! LDF, STF and PREF at a scratchpad element (O14). -/

namespace Sys2Proof.Machine

/-! ### Elements of windows (R98) -/

/-- An element that a window holds and that is backed stands in the scratchpad. -/
theorem locate_of_windowOf {a n w off : Nat} (h : windowOf a = some (w, off)) (hn : off + n ≤ Config.scratchBytes) :
    locate a n = .scratch w off := by
  unfold windowOf at h
  split at h
  · next ha =>
    simp only [Option.some.injEq, Prod.mk.injEq] at h
    obtain ⟨rfl, rfl⟩ := h
    obtain ⟨hlo, hhi⟩ := ha
    have h1 : Config.expertBase ≤ Config.localBase := by decide
    have h2 : 0x00FE_000E_0000_0000 ≤ Config.localBase := by decide
    have h3 : 0x00FE_0400_0000_0000 ≤ Config.localBase := by decide
    unfold locate
    rw [if_neg fun h => by omega, if_neg (by omega), if_neg (by omega), if_neg (by omega), if_neg (by omega), if_pos hhi, if_pos hn]
  · cases h
theorem stfBytes_length (t : Tile) (w scale : Nat) (rm : Rm) (x : Word) : (stfBytes t w scale rm x).length = elemBytes w := by
  unfold stfBytes
  dsimp only
  split
  · next h =>
    rw [leBytes_length]
    unfold winKind at h
    split at h <;> cases h
    unfold elemBytes winNibbles
    split <;> simp_all
  · rw [leBytes_length]
  · split
    · next h => rw [leBytes_length, h]; rfl
    · rw [leBytes_length]

/-! ### Running an operation -/

/-- A step that succeeds goes on with its answer. -/
theorem bind_of_ok {ε σ α β : Type} {x : EStateM ε σ α} {f : α → EStateM ε σ β} {s t : σ} {a : α} (h : x s = .ok a t) :
    (x >>= f) s = f a t :=
  show EStateM.bind x f s = _ by rw [EStateM.bind, h]

/-! ### No engine instruction under way -/

theorem engineDone_of_idle {s : State} (h : s.here.eng = []) : s.engineDone = s := by
  unfold State.engineDone State.engineDrain
  rw [show (s.tile s.cur).eng = [] from h]
  rfl
theorem engineHoldsKey_of_idle {s : State} (h : s.here.eng = []) (key n : Nat) (write : Bool) : s.engineHoldsKey key n write = false := by
  unfold State.engineHoldsKey Tile.engineHolds
  rw [show (s.tile s.cur).eng = [] from h]
  exact Bool.and_false _

section Elements
variable {s : State} {r : Fin 64} {m : Mem} {sw : Bool} {w off so q : Nat}

/-- The checks of LDF and STF pass at a backed element whose capability grants it and whose scale byte is backed. -/
theorem windowChecks_ok {c : Reg} {a perms : Nat} (reg : Nat) (ak : Access) (hw : windowOf a = some (w, off))
    (hback : off + elemBytes w ≤ Config.scratchBytes) (hso : so = scaleOff (s.here.soff w) w off 0)
    (hmx : isMx w = true → so < Config.scratchBytes) (hg : Grants c a (elemBytes w) perms (elemBytes w)) :
    windowChecks reg c a perms ak s = .ok (w, off, so) s := by
  unfold windowChecks
  simp only [hw, op_bind, checkCap_grants hg]
  rw [op_require (by simpa using hback)]
  dsimp only
  rw [op_getT]
  dsimp only
  rw [op_require (by cases hx : isMx w <;> simp_all)]
  subst hso
  rfl
theorem readScale_ok (he : s.here.eng = []) {ak : Access} (hmx : isMx w = true → s.isBad (scratchAt s.cur so) 1 = false)
    (hq : q = if isMx w then s.readNat (scratchAt s.cur so) 1 else 127) (a : Nat) : readScale w so ak a s = .ok q s := by
  subst hq
  unfold readScale
  split
  · next hx => rw [bind_of_ok (op_me s), bind_of_ok (consume_good ak a (engineHoldsKey_of_idle he ..) (hmx hx)), bind_of_ok (op_get s), op_pure]
  · rfl

/-- The core holds in its tile what an element's value rests on besides its base registers. -/
theorem based_table (t : Tile) (m : Mem) (e : Ea) : (t.based m e).table = t.table := by
  unfold Tile.based
  split
  · rfl
  · unfold Tile.putW
    split <;> rfl
theorem ldfValue_congr {t u : Tile} (h : t.table = u.table) (w bits scale : Nat) : ldfValue t w bits scale = ldfValue u w bits scale := by
  unfold ldfValue valueOf
  rw [h]

section
variable (he : s.here.eng = []) (hw : windowOf (s.here.ea 1 0 m).addr = some (w, off)) (hback : off + elemBytes w ≤ Config.scratchBytes)
  (hso : so = scaleOff (s.here.soff w) w off 0)
  (hmx : isMx w = true → so < Config.scratchBytes ∧ s.isBad (scratchAt s.cur so) 1 = false)
  (hq : q = if isMx w then s.readNat (scratchAt s.cur so) 1 else 127)
include he hw hback hso hmx hq

theorem ldf_through (hr : Ready s (wr r :: Mem.reads m)) (hbase : ¬ (Mem.updates m = true ∧ r = Mem.rb m))
    (hgood : s.isBad (scratchAt s.cur off) (elemBytes w) = false)
    (hg : Grants (s.here.ea 1 0 m).cap (s.here.ea 1 0 m).addr (elemBytes w) Perm.load (elemBytes w)) :
    Through (exec (.ldf r m sw) s) s 4 (results [wr r]) (fun u => (u.based m (s.here.ea 1 0 m)).putX r
      (ldfValue s.here w (s.readNat (scratchAt s.cur off) (elemBytes w)) q)) := by
  have hreads : ∀ x ∈ Mem.reads m, x ∈ wr r :: Mem.reads m := fun _ hx => List.mem_cons_of_mem _ hx
  have hl : Loads s (s.here.ea 1 0 m).addr (elemBytes w) false s (s.readAt (scratchAt s.cur off) (elemBytes w))
      (tagGet s.tags (scratchAt s.cur off / 16)) :=
    .inl ⟨w, off, locate_of_windowOf hw hback, engineHoldsKey_of_idle he .., hgood, rfl, rfl, rfl⟩
  obtain ⟨v, hv, hupd⟩ := updateBase_ready (s.here.ea 1 0 m) (hr.base hreads)
  obtain ⟨u, hu, hupd'⟩ := writeX_ready (s := v) (n := r) (ldfValue s.here w (s.readNat (scratchAt s.cur off) (elemBytes w)) q) (by
    rw [hupd.here, Tile.bound_based]
    exact hr.unbound (n := r) List.mem_cons_self)
  refine metaM_load_through (engineDone_of_idle he).symm (hr.mono ?_) hbase ?_ (hupd.trans hupd')
    ((KeepsFlow.based ..).comp (KeepsFlow.putX ..)) rfl
  · intro x hx
    rcases List.mem_append.mp hx with hx | hx
    · exact hreads x hx
    · rw [List.mem_singleton.mp hx]
      exact List.mem_cons_self
  · have hvalue : ldfValue v.here w (leNat (s.readAt (scratchAt s.cur off) (elemBytes w))) q =
        ldfValue s.here w (s.readNat (scratchAt s.cur off) (elemBytes w)) q := by
      rw [hupd.here]
      exact ldfValue_congr (based_table ..) ..
    simp only [op_bind, ea_ready _ _ (hr.mono hreads), windowChecks_ok _ .load hw hback hso (fun h => (hmx h).1) hg,
      hl.load (Mem.rb m) 0 .load (by decide) 0, readScale_ok he (fun h => (hmx h).2) hq, hv, op_getT]
    rw [hvalue, hu]
    rfl

theorem stf_through (hr : Ready s (wr r :: Mem.reads m))
    (hg : Grants (s.here.ea 1 0 m).cap (s.here.ea 1 0 m).addr (elemBytes w) Perm.store (elemBytes w))
    (hord : w = 12 → s.here.ordered = true) (hgood : s.badPartial (scratchAt s.cur off) (elemBytes w) = false) :
    Through (exec (.stf r m sw) s) ((s.noted (scratchAt s.cur off) (elemBytes w)).writeKey (scratchAt s.cur off)
      (stfBytes s.here w q (rmOf s.here.fctl) (s.here.getX r)) false) 4 [] (fun u => u.based m (s.here.ea 1 0 m)) := by
  have hreads : ∀ x ∈ Mem.reads m, x ∈ wr r :: Mem.reads m := fun _ hx => List.mem_cons_of_mem _ hx
  have hst : Stores s (s.here.ea 1 0 m).addr (stfBytes s.here w q (rmOf s.here.fctl) (s.here.getX r)) none false
      ((s.noted (scratchAt s.cur off) (elemBytes w)).writeKey (scratchAt s.cur off)
        (stfBytes s.here w q (rmOf s.here.fctl) (s.here.getX r)) false) := by
    refine .inl ⟨w, off, ?_, engineHoldsKey_of_idle he .., ?_, ?_⟩
    · rw [stfBytes_length]
      exact locate_of_windowOf hw hback
    · rw [stfBytes_length]
      exact hgood
    · rw [stfBytes_length]
      rfl
  have hordered : (s.here.ordered || decide ((windowOf (s.here.ea 1 0 m).addr).map (·.1) ≠ some 12)) = true := by
    by_cases h : w = 12
    · rw [hord h, Bool.true_or]
    · simp [hw, h]
  obtain ⟨u, hu, hupd⟩ := baseThenSeq_ok (m := m) (s.here.ea 1 0 m) ((Tile.bound_congr hst.ag _).trans (hr.base hreads))
  have hstore := hst.store (Mem.rb m) 0 .store false nofun 0
  rw [Option.isSome_none] at hstore
  refine metaM_store_through (engineDone_of_idle he).symm hr ?_ hupd (KeepsFlow.based ..)
  simp only [op_bind, readX_ready (hr.unbound (n := r) List.mem_cons_self), ea_ready _ _ (hr.mono hreads), op_getT]
  rw [op_require hordered]
  dsimp only
  simp only [windowChecks_ok _ .store hw hback hso (fun h => (hmx h).1) hg, readScale_ok he (fun h => (hmx h).2) hq, hstore]
  exact (op_bind ..).symm.trans hu
end

/-- Beyond its base update a PREF changes the core's TLBs alone. -/
theorem pref_next (hr : Ready s (Mem.reads m)) : ∃ (v : State) (i d : List TlbEntry), exec (.pref m sw) s =
      .next (v.modTile v.cur (finish v.cur (metaI 0x13 3 4 sw (Mem.reads m) []) .seq s.here.rep.isSome)) ∧
    v.cur = s.cur ∧ v.here = (s.here.based m (s.here.ea 1 0 m)).tlbs i d := by
  obtain ⟨u, hu, hupd⟩ := updateBase_ready (s.here.ea 1 0 m) (hr.base fun _ h => h)
  have hend {body : Op Flow} (hb : ∃ (v : State) (i d : List TlbEntry), body s = .ok .seq v ∧ v.cur = u.cur ∧ v.here = u.here.tlbs i d) :
      ∃ (v : State) (i d : List TlbEntry), issue (metaI 0x13 3 4 sw (Mem.reads m) []) body s =
        .next (v.modTile v.cur (finish v.cur (metaI 0x13 3 4 sw (Mem.reads m) []) .seq s.here.rep.isSome)) ∧
      v.cur = s.cur ∧ v.here = (s.here.based m (s.here.ea 1 0 m)).tlbs i d := by
    obtain ⟨v, i, d, hb, hc, hh⟩ := hb
    exact ⟨v, i, d, issue_ok rfl rfl rfl (Ready.passes (m := metaI 0x13 3 4 sw (Mem.reads m) []) (by simpa [metaI] using hr) rfl rfl rfl rfl) hb,
      hc.trans hupd.cur, by rw [hh, hupd.here]⟩
  refine hend ?_
  simp only [op_bind, ea_ready _ _ hr, hu, op_get, State.fresh, op_set]
  split
  · cases htr : ({ u with free := u.free + 1 } : State).translateAt u.cur false (s.here.ea 1 0 m).addr needR with
    | ok r =>
      obtain ⟨p, v⟩ := r
      have htlb := tlbOnly_translateAt htr
      obtain ⟨i, d, hh⟩ := htlb.here
      dsimp only
      split
      · exact ⟨_, i, d, rfl, htlb.cur, hh⟩
      · exact ⟨_, u.here.itlb, u.here.dtlb, rfl, rfl, rfl⟩
    | error e =>
      exact ⟨_, u.here.itlb, u.here.dtlb, rfl, rfl, rfl⟩
  · exact ⟨_, u.here.itlb, u.here.dtlb, rfl, rfl, rfl⟩

end Elements

/-- Settles O14: the checks of a backed element pass, so LDF gives its value, STF stores its bytes and PREF goes on. -/
theorem elementAccessesComplete : Obligations.ElementAccessesComplete := by
  unfold Obligations.ElementAccessesComplete
  intro s r m sw w off so q he
  refine ⟨fun hr => ?_, fun hr hw hback hso hmx hq => ⟨fun hbase hgood hg => ?_, fun hg hord hgood => ?_⟩⟩
  · obtain ⟨v, i, d, hv, -, hh⟩ := pref_next (sw := sw) hr
    refine ⟨_, hv, ?_, fun n => ?_⟩
    · rw [State.here_modTile, finish_seq_pc, hh]
      unfold Tile.after
      rw [show ((s.here.based m (s.here.ea 1 0 m)).tlbs i d).pc = s.here.pc from (KeepsFlow.based ..).pc,
        show ((s.here.based m (s.here.ea 1 0 m)).tlbs i d).loops = s.here.loops from (KeepsFlow.based ..).loops]
      rfl
    · rw [State.here_modTile, finish_withFlow, hh]
      rfl
  · obtain ⟨t, ht, ⟨-, -, hhere⟩, hpc, -⟩ := ldf_through (sw := sw) he hw hback hso hmx hq hr hbase hgood hg
    refine ⟨t, ht, hpc, ?_⟩
    rw [hhere]
    by_cases h0 : r = 0
    · rw [if_pos h0, h0]
      rfl
    · rw [if_neg h0]
      change (((s.here.based m (s.here.ea 1 0 m)).putX r _).getW r).lo = _
      rw [Tile.putX, Tile.getW_putW_same _ _ (fun h => h0 (Fin.ext h)) r.isLt]
      rfl
  · obtain ⟨t, ht, ⟨-, honly, -⟩, hpc, -⟩ := stf_through (sw := sw) he hw hback hso hmx hq hr hg hord hgood
    obtain ⟨undo, hundo⟩ := noted_here s (scratchAt s.cur off) (elemBytes w)
    refine ⟨t, ht, hpc.trans ?_, fun hwf => ?_⟩
    · change (s.noted (scratchAt s.cur off) (elemBytes w)).here.after 4 = _
      rw [hundo]
      rfl
    · rw [honly]
      have hread := Memory.read_write (scratchAt s.cur off) (stfBytes s.here w q (rmOf s.here.fctl) (s.here.getX r))
        (m := (s.noted (scratchAt s.cur off) (elemBytes w)).mem) (by rw [State.noted_mem]; exact hwf)
      rw [stfBytes_length] at hread
      exact hread

end Sys2Proof.Machine
end

section
/-! PROOF. Statement O55 fails: a trap enters its handler only once every engine instruction has retired (R254), and the statement says
nothing of an instruction in the queue that still owes slots which the core cannot spend. -/

namespace Sys2Proof.Machine

/-- A map over a keyed list that keeps the keys and some view of the values keeps that view of every entry. -/
theorem keyGet_map_view {α β : Type} (view : α → β) (g : Nat × α → Nat × α) (d : α) (l : List (Nat × α)) (n : Nat)
    (hg : ∀ e, (g e).1 = e.1 ∧ view (g e).2 = view e.2) : view (keyGet d (l.map g) n) = view (keyGet d l n) := by
  induction l with
  | nil => rfl
  | cons e r ih =>
    obtain ⟨hkey, hview⟩ := hg e
    rw [List.map_cons, keyGet, keyGet, hkey]
    split
    · exact hview
    · exact ih

theorem State.tile_detachAll_wait (s : State) (l k : Nat) : ((s.detachAll l).tile k).wait = (s.tile k).wait :=
  keyGet_map_view Tile.wait _ _ s.tiles k (fun e => by split <;> exact ⟨rfl, rfl⟩)

theorem Tile.boundary_commitAll_wait (t : Tile) : t.boundary.commitAll.wait = none := by
  unfold Tile.commitAll
  split <;> rfl

theorem postFault_wait (s : State) (k : Nat) (r : TrapReport) (len : Nat) :
    ((postFault s k r false len).tile k).wait = none := by
  have here : ∀ t : Tile, ((s.setTile k t).tile k).wait = t.wait := fun t => by rw [State.tile_setTile]
  simp only [postFault, Bool.false_eq_true, if_false]
  split
  · exact (here _).trans (s.tile k).boundary_commitAll_wait
  · exact (here _).trans (s.tile k).boundary_commitAll_wait

/-- A trap that has been taken leaves its core waiting for nothing (R340, R343). -/
theorem takeTrap_wait (s : State) (k : Nat) (r : TrapReport) (len : Nat) : ((takeTrap s k r len).tile k).wait = none := by
  simp only [takeTrap]
  generalize (if (s.tile k).follower k = true then (s.tile k).detach else s.tile k) = t
  split
  · exact postFault_wait _ _ _ _
  · rw [State.tile_detachAll_wait, State.tile_setTile]
    exact t.boundary_commitAll_wait

/-- The outcome leaves a core at a wait. -/
def waitsAfter (o : Host.Outcome State Fault Refusal) (k : Nat) : Bool :=
  match o with
  | .next t => (t.tile k).wait.isSome
  | _ => false

theorem waitsAfter_of_traps {o : Host.Outcome State Fault Refusal} {s : State} {r : TrapReport} {len : Nat} (h : Traps o s r len) :
    waitsAfter o s.cur = false := by
  obtain ⟨u, -, -, -, rfl⟩ := h
  simp [waitsAfter, takeTrap_wait]

/-- A core without tokens whose engine queue holds an LSPMM that owes one slot (R171, R273). -/
def owingState : State := State.reset.modTile 0 (fun t => { t with eng := [.lspmm 0 0 0 0 [] .rne 1] })

/-- COMPOSE without S waits there for tokens, since its trap waits for the engine. -/
theorem compose_waits_of_owing : waitsAfter (exec (.compose 0 0 false) owingState) owingState.cur = true := by rfl

/-- Refutes O55: a COMPOSE without S on a core whose engine still owes a slot that it cannot spend waits for tokens and takes no
RUN_HAZARD yet. -/
theorem not_instructionTraps : ¬ Obligations.InstructionTraps := by
  unfold Obligations.InstructionTraps
  rintro ⟨-, hazards⟩
  have traps := (hazards owingState owingState 0 0 0 false ⟨.w, 0, 0⟩ (by rfl)).2.2.2.1 (by rfl) (by rfl)
  exact absurd compose_waits_of_owing (by rw [waitsAfter_of_traps traps]; decide)

end Sys2Proof.Machine
end

section
/-! PROOF. Statements that fail for one reason: they have an instruction wait or trap "with nothing else changed" in a state of any shape, and
nothing there says that the list of tiles names a core once. An instruction that takes no effect writes the TLBs of every entry of that
list anew, from the entry that is in force for its core (R111, R379), so that an entry that a second one hides changes. -/

namespace Sys2Proof.Machine

open Sys2Proof.Tests (task local' num with')

/-- A module whose core 10 runs a task, and whose list of tiles has two entries for core 11. The second is hidden by the first; it alone
has a TLB entry. -/
def hidingState (t : Tile) : State :=
  { Tests.core 10 t with tiles := [(10, t), (11, Tile.idle), (11, { Tile.idle with itlb := [⟨0, 0, false, 0, 0, 0⟩] })] }

/-- The last entry of the list of tiles has its TLB entry still. -/
def State.hiddenKept (s : State) : Bool := (s.tiles.getLast?).any (fun e => !e.2.itlb.isEmpty)
/-- It has in the state that an outcome leads to. -/
def hiddenKeptAfter (o : Host.Outcome State Fault Refusal) : Bool :=
  match o with
  | .next t => t.hiddenKept
  | _ => true

theorem OnlyCore.hiddenKept {t : Tile} {u : State} (h : OnlyCore (hidingState t) u) : u.hiddenKept = true := by
  rw [h]
  rfl

/-- A wait that leaves all else as it was keeps the hidden entry. -/
theorem Waits.hiddenKept {t : Tile} {o : Host.Outcome State Fault Refusal} {w : WaitFor} (h : Waits o (hidingState t) w) :
    hiddenKeptAfter o = true := by
  obtain ⟨u, rfl, -, only, -⟩ := h
  exact only.hiddenKept

/-- A trap that leaves all else as it was is taken in the very state that the instruction was issued in. -/
theorem Traps.hiding {t : Tile} {o : Host.Outcome State Fault Refusal} {r : TrapReport} {len : Nat} (h : Traps o (hidingState t) r len) :
    o = .next (takeTrap (hidingState t) 10 r len) := by
  obtain ⟨u, -, only, here, ho⟩ := h
  have unchanged : u = hidingState t := by
    rw [only, here]
    rfl
  rw [ho, unchanged]
  rfl

/-- Refutes O19: where the list of tiles hides an entry of a core behind another, a WFE that waits changes the hidden one. -/
theorem not_waitAndExit : ¬ Obligations.WaitAndExit := by
  unfold Obligations.WaitAndExit
  intro h
  have waits := (h (hidingState task) (hidingState task) 0 false (by unfold NotAtEnd; decide)).2.2.1 (by rfl) (by rfl)
  exact Bool.noConfusion (waits.hiddenKept.symm.trans (by rfl))

/-- Refutes O31: where the list of tiles hides an entry of a core behind another, an HRET outside a handler changes the hidden one before
it traps. -/
theorem not_messagesAndHandlers : ¬ Obligations.MessagesAndHandlers := by
  unfold Obligations.MessagesAndHandlers
  rintro ⟨-, inbox⟩
  have traps := (inbox (hidingState task) 0 0 true 0).2.1 (by unfold NotAtEnd; decide) (by rfl) (by rfl)
  have kept : hiddenKeptAfter (exec (.hret true) (hidingState task)) = true := by
    rw [traps.hiding]
    rfl
  exact Bool.noConfusion (kept.symm.trans (by rfl))

/-- A task whose pc capability lacks SYSTEM. -/
def userTask : Tile := { task with pc := Reg.null }

/-- Refutes O36: where the list of tiles hides an entry of a core behind another, an SWR of SVC without SYSTEM changes the hidden one before
it traps. -/
theorem not_systemRegisters : ¬ Obligations.SystemRegisters := by
  unfold Obligations.SystemRegisters
  intro h
  have traps := ((h (hidingState userTask) (hidingState userTask) 0 0 0x190 false 0 (by rfl)).2 (by unfold Ready; decide) (by rfl)).2.2.2.1
    (by rfl) (Or.inr (by rfl)) (by rfl)
  have kept : hiddenKeptAfter (exec (.swr 0 0x190 false) (hidingState userTask)) = true := by
    rw [traps.hiding]
    rfl
  exact Bool.noConfusion (kept.symm.trans (by rfl))

/-- Refutes O37: where the list of tiles hides an entry of a core behind another, an ERET without SYSTEM changes the hidden one before it
traps. -/
theorem not_serviceCalls : ¬ Obligations.ServiceCalls := by
  unfold Obligations.ServiceCalls
  intro h
  have traps := ((h (hidingState userTask) (hidingState userTask) 0 0 0 0 false).2.2 (by unfold NotAtEnd; decide)
    (by unfold Ready; decide)).2 (by rfl) (by rfl)
  have kept : hiddenKeptAfter (exec (.eret 0 0 false) (hidingState userTask)) = true := by
    rw [traps.hiding]
    rfl
  exact Bool.noConfusion (kept.symm.trans (by rfl))

/-- Refutes O38: where the list of tiles hides an entry of a core behind another, a TLBI without SYSTEM changes the hidden one before it
traps. -/
theorem not_tlbTableAndMeter : ¬ Obligations.TlbTableAndMeter := by
  unfold Obligations.TlbTableAndMeter
  intro h
  have traps := ((h (hidingState userTask) (hidingState userTask) 0 0 0 false (.tlbiPart false)).1 (by simp)
    (by unfold Ready; decide)).1 (by rfl) (by rfl)
  have kept : hiddenKeptAfter (exec (.tlbiPart false) (hidingState userTask)) = true := by
    rw [traps.hiding]
    rfl
  exact Bool.noConfusion (kept.symm.trans (by rfl))

/-- A task with a ring of one slot that nothing has filled. -/
def ringTask : Tile := { with' [(1, num 1)] task with rings := (Vector.replicate 16 Ring.reset).set 0 ⟨0, 1, 0, 0, 0⟩ }

/-- Refutes O25: where the list of tiles hides an entry of a core behind another, a TWAIT that waits changes the hidden one. -/
theorem not_ringsAndSlots : ¬ Obligations.RingsAndSlots := by
  unfold Obligations.RingsAndSlots
  intro h
  have waits := ((h (hidingState ringTask) (hidingState ringTask) 0 1 0 false).2.2 1 (by rfl) (by rfl) (by unfold Ready; decide) (by rfl)
    (by decide) (by decide) (by decide)).2 (fun ready => absurd (ready 0 (by decide)) (by decide))
  exact Bool.noConfusion (waits.hiddenKept.symm.trans (by rfl))

/-- A task in a consort that another core leads. -/
def memberTask : Tile := { task with consort := some ⟨0, 12, false, [], false, false, false, none, 2⟩ }

/-- Refutes O50: where the list of tiles hides an entry of a core behind another, a JOIN that waits changes the hidden one. -/
theorem not_chordsAndConsorts : ¬ Obligations.ChordsAndConsorts := by
  unfold Obligations.ChordsAndConsorts
  rintro ⟨-, consorts, -⟩
  have waits := (((consorts (hidingState memberTask) 0 0 0 ⟨0, 0, 0, 0⟩ (placedGrid 10) (by rfl) (by rfl)).2 (by unfold Ready; decide)
    (by decide)).2 _ rfl).1 (Or.inl (by decide))
  exact Bool.noConfusion (waits.hiddenKept.symm.trans (by rfl))

/-- A task with a generator that has nothing left to append. -/
def exhaustedTask : Tile := { task with ag := (Vector.replicate 8 Stream.reset).set 0 { Stream.reset with dir := true, reg := 48 } }

/-- Refutes O18: where the list of tiles hides an entry of a core behind another, an LI to an exhausted stream changes the hidden one before
it traps. -/
theorem not_streamResults : ¬ Obligations.StreamResults := by
  unfold Obligations.StreamResults
  rintro ⟨-, operands⟩
  have traps := ((operands (hidingState exhaustedTask) (hidingState exhaustedTask) 0 48 0 _ 0 false (by rfl) (by rfl)).2 (by rfl)).2
    (by decide) (by rfl)
  have kept : hiddenKeptAfter (exec (.li 48 0 false) (hidingState exhaustedTask)) = true := by
    rw [traps.hiding]
    rfl
  exact Bool.noConfusion (kept.symm.trans (by rfl))

/-- Refutes O34: where the list of tiles hides an entry of a core behind another, a CWAIT that waits changes the hidden one. -/
theorem not_transferResults : ¬ Obligations.TransferResults := by
  unfold Obligations.TransferResults
  rintro ⟨-, counters, -⟩
  have waits := ((counters (hidingState (with' [(1, num 1), (2, local' 0)] task)) (hidingState (with' [(1, num 1), (2, local' 0)] task))
    1 2 0 false).1 0 0 0 (by rfl) (by unfold Ready; decide) (by unfold Grants; decide) (by decide) (by decide) (by decide) (by decide)).2
    (by decide)
  exact Bool.noConfusion (waits.hiddenKept.symm.trans (by rfl))

/-- A module whose core 10 has joined a collective of its grid that has no result. -/
def joinedState : State :=
  { hidingState task with colls := [⟨0, .grid, 0, 0, .canon, 1, 0, [⟨0, 10, [], [], 0, none⟩], none, []⟩] }

/-- Refutes O32: where the list of tiles hides an entry of a core behind another, a CRED that waits changes the hidden one. -/
theorem not_rendezvous : ¬ Obligations.Rendezvous := by
  unfold Obligations.Rendezvous
  rintro ⟨-, -, collectives⟩
  obtain ⟨u, hu, -, only, -⟩ := (collectives joinedState joinedState 0 .grid .canon false ⟨0, 0, 0, 0⟩ (placedGrid 10) _
    (by rfl) (by unfold Ready; decide) (by rfl) (by rfl) (by rfl)).2.1 (by decide) ⟨_, List.mem_singleton.2 rfl, by decide⟩
  have kept : hiddenKeptAfter (exec (.cred 0 .grid .canon false) joinedState) = true := by
    rw [hu, only]
    rfl
  exact Bool.noConfusion (kept.symm.trans (by rfl))

end Sys2Proof.Machine
end

section
/-! PROOF. Statement O24: a lane-wise vector instruction writes the active lanes of its destination and its sticky flags, and nothing else. -/

namespace Sys2Proof.Machine

section Lanes
variable {s : State} {maj minor : Nat} {sw : Bool} {reads writes : List (File × Nat)} {body : Op Flow}

/-- A vector instruction whose registers are ready and whose body does `f` to the core's tile completes. -/
theorem metaV_through {f : Tile → Tile} {t : State} (hr : Ready s (reads ++ [vlr] ++ writes)) (hb : body s = .ok .seq t) (hu : Upd s t f)
    (hf : KeepsFlow f s.here) : Through (issue (metaV maj minor sw reads writes) body s) s 4 (results writes) f :=
  (metaD_simple ..).through hr hb hu hf

theorem KeepsFlow.putLanes (d g : Nat) (f : Tile → Nat → Lane × Nat) (t : Tile) : KeepsFlow (fun u => u.putLanes d g (f u)) t :=
  ⟨rfl, rfl, rfl, rfl, rfl⟩

/-- One whose body writes lanes by a function of the tile writes them and their flags. -/
theorem writeLanes_through {d : Fin 32} {g : Nat} (f : Tile → Nat → Lane × Nat) (hr : Ready s (reads ++ [vlr] ++ [vr d]))
    (hb : body s = (do writeLanes d g (f s.here); seqFlow : Op Flow) s) :
    Through (issue (metaV maj minor sw reads [vr d]) body s) s 4 (results [vr d]) (fun u => u.putLanes d g (f u)) :=
  metaV_through hr (hb.trans rfl) (Upd.of_modTile rfl) (KeepsFlow.putLanes ..)

end Lanes

section Arithmetic
variable {s : State} {minor : Nat} {d a b : Fin 32} {g : Fin 8} {sw : Bool} {F : Rm → Lane → Lane → Lane → Lane × Nat}
  {f h : Rm → Lane → Lane → Lane × Nat} {i : Instr} {x : Host.Outcome State Fault Refusal}

/-- An operation of major 0x18 on two sources writes the value of its lane function. -/
theorem v18_completes (hr : Ready s [vr a, vr b, pr g, vlr, vr d]) (hi : exec i s = x) (hx : x = v18 minor d a b g sw F s) (hf : f = h)
    (hF : ∀ rm x y z, F rm x y z = h rm x y) :
    CompletesDeferred i s [vr d] (fun u => u.putLanes d g (fun k => f (rmOf u.fctl) (u.lane a k) (u.lane b k))) := by
  obtain rfl : F = fun rm x y _ => f rm x y := by funext rm x y z; rw [hf]; exact hF rm x y z
  unfold CompletesDeferred
  rw [hi, hx]
  exact writeLanes_through (fun u k => f (rmOf u.fctl) (u.lane a k) (u.lane b k)) (hr.mono (by simp)) rfl

/-- One on a single source, which it reads twice, does too. -/
theorem v18_unary_completes (hr : Ready s [vr a, vr b, pr g, vlr, vr d]) (hi : exec i s = x) (hx : x = v18 minor d a a g sw F s) (hf : f = h)
    (hF : ∀ rm x y z, F rm x x z = h rm x y) :
    CompletesDeferred i s [vr d] (fun u => u.putLanes d g (fun k => f (rmOf u.fctl) (u.lane a k) (u.lane b k))) := by
  unfold CompletesDeferred
  rw [hi, hx, hf]
  refine writeLanes_through (fun u k => h (rmOf u.fctl) (u.lane a k) (u.lane b k)) (hr.mono (by simp)) ?_
  exact congrArg (fun l => (do writeLanes d g l; seqFlow : Op Flow) s) (funext fun k => hF _ _ _ _)

end Arithmetic

theorem iMin_eq (x y : Lane) : iMin x y = if y.toInt < x.toInt then y else x := by simp [iMin, BitVec.slt]
theorem iMax_eq (x y : Lane) : iMax x y = if x.toInt < y.toInt then y else x := by simp [iMax, BitVec.slt]
/-- The magnitude of a lane modulo 2^32 (R242). -/
theorem abs_eq_natAbs (x : Lane) : (if x.msb then -x else x) = BitVec.ofNat 32 x.toInt.natAbs := by
  apply BitVec.eq_of_toNat_eq
  rw [BitVec.msb_eq_decide]
  rw [BitVec.toInt_eq_toNat_cond]
  split <;> split <;> simp_all <;> omega

theorem clampLane_eq (x : Int) : clampLane x = BitVec.ofInt 32 (max (-2147483648) (min 2147483647 x)) := by
  simp [clampLane]

theorem plainLane_eq (x : Lane) : plainLane x = still x := rfl
theorem byType_float (f : Rm → Lane → Lane → Lane × Nat) (i : Lane → Lane → Lane) (rm : Rm) (x y z : Lane) :
    byType .f f i rm x y z = f rm x y := rfl
theorem byType_int (f : Rm → Lane → Lane → Lane × Nat) (i : Lane → Lane → Lane) (rm : Rm) (x y z : Lane) :
    byType .i f i rm x y z = still (i x y) := rfl

theorem vectorArithmetic : VectorArithmetic := by
  intro s d a b g sw hr i f hi
  simp only [List.mem_cons, List.not_mem_nil, or_false, Prod.mk.injEq] at hi
  rcases hi with ⟨rfl, hf⟩ | ⟨rfl, hf⟩ | ⟨rfl, hf⟩ | ⟨rfl, hf⟩ | ⟨rfl, hf⟩ | ⟨rfl, hf⟩ | ⟨rfl, hf⟩ | ⟨rfl, hf⟩ | ⟨rfl, hf⟩ | ⟨rfl, hf⟩ | ⟨rfl, hf⟩ |
    ⟨rfl, hf⟩ | ⟨rfl, hf⟩ | ⟨rfl, hf⟩ | ⟨rfl, hf⟩ | ⟨rfl, hf⟩ | ⟨rfl, hf⟩ | ⟨rfl, hf⟩ | ⟨rfl, hf⟩ | ⟨rfl, hf⟩ | ⟨rfl, hf⟩ | ⟨rfl, hf⟩
  · refine v18_completes hr (x := execVadd .f d a b g sw s) rfl rfl hf ?_
    exact byType_float _ _
  · refine v18_completes hr (x := execVsub .f d a b g sw s) rfl rfl hf ?_
    exact byType_float _ _
  · refine v18_completes hr (x := execVmul .f d a b g sw s) rfl rfl hf ?_
    exact byType_float _ _
  · refine v18_completes hr (x := execVmin .f d a b g sw s) rfl rfl hf ?_
    exact byType_float _ _
  · refine v18_completes hr (x := execVmax .f d a b g sw s) rfl rfl hf ?_
    exact byType_float _ _
  · refine v18_unary_completes hr (x := execVabs .f d a g sw s) rfl rfl hf ?_
    exact fun _ _ _ _ => byType_float ..
  · refine v18_unary_completes hr (x := execVneg .f d a g sw s) rfl rfl hf ?_
    exact fun _ _ _ _ => byType_float ..
  · refine v18_completes hr (x := execVadd .i d a b g sw s) rfl rfl hf ?_
    exact byType_int _ _
  · refine v18_completes hr (x := execVsub .i d a b g sw s) rfl rfl hf ?_
    exact byType_int _ _
  · refine v18_completes hr (x := execVmul .i d a b g sw s) rfl rfl hf ?_
    exact byType_int _ _
  · refine v18_completes hr (x := execVmin .i d a b g sw s) rfl rfl hf ?_
    exact fun _ x y _ => (byType_int ..).trans (congrArg still (iMin_eq x y))
  · refine v18_completes hr (x := execVmax .i d a b g sw s) rfl rfl hf ?_
    exact fun _ x y _ => (byType_int ..).trans (congrArg still (iMax_eq x y))
  · refine v18_unary_completes hr (x := execVabs .i d a g sw s) rfl rfl hf ?_
    exact fun _ x _ _ => (byType_int ..).trans (congrArg still (abs_eq_natAbs x))
  · refine v18_unary_completes hr (x := execVneg .i d a g sw s) rfl rfl hf ?_
    exact fun _ _ _ _ => byType_int ..
  · refine v18_completes hr (x := execVand d a b g sw s) rfl rfl hf ?_
    exact fun _ _ _ _ => rfl
  · refine v18_completes hr (x := execVor d a b g sw s) rfl rfl hf ?_
    exact fun _ _ _ _ => rfl
  · refine v18_completes hr (x := execVxor d a b g sw s) rfl rfl hf ?_
    exact fun _ _ _ _ => rfl
  · refine v18_completes hr (x := execVshl d a b g sw s) rfl rfl hf ?_
    exact fun _ _ _ _ => rfl
  · refine v18_completes hr (x := execVshr d a b g sw s) rfl rfl hf ?_
    exact fun _ _ _ _ => rfl
  · refine v18_completes hr (x := execVshra d a b g sw s) rfl rfl hf ?_
    exact fun _ _ _ _ => rfl
  · refine v18_completes hr (x := execVadds d a b g sw s) rfl rfl hf ?_
    exact fun _ _ _ _ => (plainLane_eq _).trans (congrArg still (clampLane_eq _))
  · refine v18_completes hr (x := execVsubs d a b g sw s) rfl rfl hf ?_
    exact fun _ _ _ _ => (plainLane_eq _).trans (congrArg still (clampLane_eq _))

theorem vectorTranscendentals : VectorTranscendentals := by
  intro s d a g sw hr i f hi
  have trans : ∀ {minor : Nat}, Through (transOp minor f d a g sw s) s 4 (results [vr d]) (fun u => u.putLanes d g (fun k =>
      (BitVec.ofNat 32 (f (lane (u.lane a k))).1, (f (lane (u.lane a k))).2 ||| snanFlag [u.lane a k]))) :=
    writeLanes_through (fun u k => (BitVec.ofNat 32 (f (lane (u.lane a k))).1, (f (lane (u.lane a k))).2 ||| snanFlag [u.lane a k]))
      (hr.mono (by simp)) rfl
  simp only [List.mem_cons, List.not_mem_nil, or_false, Prod.mk.injEq] at hi
  rcases hi with ⟨rfl, rfl⟩ | ⟨rfl, rfl⟩ | ⟨rfl, rfl⟩ <;> exact trans

/-- Settles O24: each instruction is one write of lanes by the function of its table. -/
theorem vectorArithmeticResults : Obligations.VectorArithmeticResults := ⟨vectorArithmetic, vectorTranscendentals⟩

end Sys2Proof.Machine
end

section
/-! PROOF. Statement O22: vector compares write their predicate and flags, selection and movement write lanes, VSETVL and VCOMPRESS also VL. -/

namespace Sys2Proof.Machine

/-! ### Compares -/

/-- The value of a lane compare. -/
def cmpHolds (ty : LaneTy) (f : Ext → Ext → Bool) (h : Lane → Lane → Bool) (x y : Lane) : Bool :=
  match ty with
  | .f => f (lane x) (lane y)
  | .i => h x y
/-- The flags of a lane compare. -/
def cmpFlags (ty : LaneTy) (loud : Bool) (x y : Lane) : Nat :=
  match ty with
  | .f => if loud && ((lane x).isNan || (lane y).isNan) then flNV else snanFlag [x, y]
  | .i => 0

theorem Tile.flag_zero (t : Tile) : t.flag 0 = t := by simp [Tile.flag]
theorem orFlags_zero {α : Type} (l : List α) : orFlags (l.map (fun _ => 0)) = 0 := by
  induction l with
  | nil => rfl
  | cons x l ih => simpa [orFlags] using ih

theorem KeepsFlow.wpFlag (p : Nat) (x : Word) (n : Nat) (t : Tile) : KeepsFlow (fun u => (u.wp p x).flag n) t :=
  (KeepsFlow.wp p x t).comp (g := (·.flag n)) ⟨rfl, rfl, rfl, rfl, rfl⟩

section Compares
variable {s : State} {minor : Nat} {loud : Bool} {ty : LaneTy} {p : Fin 8} {a b : Fin 32} {g : Fin 8} {sw : Bool} {f : Ext → Ext → Bool}
  {h : Lane → Lane → Bool}

theorem vcmpOp_through (hr : Ready s [vr a, vr b, pr g, vlr, pr p]) :
    Through (vcmpOp minor loud ty p a b g sw f h s) s 4 (results [pr p]) (fun u =>
      (u.wp p (compared u p g (fun k => cmpHolds ty f h (u.lane a k) (u.lane b k)))).flag
        (orFlags ((u.lanes g).map (fun k => cmpFlags ty loud (u.lane a k) (u.lane b k))))) := by
  refine Through.of_here (metaV_through (t := (s.modTile s.cur (·.wp p (compared s.here p g (fun k =>
      cmpHolds ty f h (s.here.lane a k) (s.here.lane b k))))).modTile s.cur (·.flag (orFlags ((s.here.lanes g).map (fun k =>
      cmpFlags ty loud (s.here.lane a k) (s.here.lane b k)))))) (hr.mono (by simp)) ?_ ?_ (KeepsFlow.wpFlag ..)) rfl
  · rfl
  · rw [State.modTile_modTile]
    exact Upd.of_modTile rfl

/-- A compare of FP32 lanes. -/
theorem vcmp_float_through (hr : Ready s [vr a, vr b, pr g, vlr, pr p]) :
    Through (vcmpOp minor loud .f p a b g sw f h s) s 4 (results [pr p]) (fun u =>
      (u.wp p (compared u p g (fun k => f (lane (u.lane a k)) (lane (u.lane b k))))).flag
        (orFlags ((u.lanes g).map (fun k =>
          if loud && ((lane (u.lane a k)).isNan || (lane (u.lane b k)).isNan) then flNV else snanFlag [u.lane a k, u.lane b k])))) :=
  vcmpOp_through hr

/-- A compare of integer lanes raises no flag. -/
theorem vcmp_int_through {c : Lane → Lane → Bool} (hr : Ready s [vr a, vr b, pr g, vlr, pr p]) (hc : ∀ x y, h x y = c x y) :
    Through (vcmpOp minor loud .i p a b g sw f h s) s 4 (results [pr p])
      (fun u => u.wp p (compared u p g (fun k => c (u.lane a k) (u.lane b k)))) := by
  refine (vcmpOp_through hr).of_here ?_
  obtain rfl : h = c := by funext x y; exact hc x y
  exact (congrArg (Tile.flag _) (orFlags_zero _)).trans (Tile.flag_zero _)

end Compares

theorem Ready.append {s : State} {rs qs : List (File × Nat)} (hr : Ready s rs) (hq : Ready s qs) : Ready s (rs ++ qs) :=
  fun r h => (List.mem_append.1 h).elim (hr r) (hq r)

theorem vectorCompareSelect : VectorCompareSelect := by
  intro s p d a b g sw hr
  refine ⟨fun hp => ⟨fun i f loud hi => ?_, fun i h hi => ?_⟩, fun hd => ?_⟩
  · have regs : Ready s [vr a, vr b, pr g, vlr, pr p] := hr.append hp
    simp only [List.mem_cons, List.not_mem_nil, or_false, Prod.mk.injEq] at hi
    rcases hi with ⟨rfl, rfl, rfl⟩ | ⟨rfl, rfl, rfl⟩ | ⟨rfl, rfl, rfl⟩ | ⟨rfl, rfl, rfl⟩
    · exact (vcmp_float_through regs : Through (execVcmpEq .f p a b g sw s) _ _ _ _)
    · exact (vcmp_float_through regs : Through (execVcmpNe .f p a b g sw s) _ _ _ _)
    · exact (vcmp_float_through regs : Through (execVcmpLt .f p a b g sw s) _ _ _ _)
    · exact (vcmp_float_through regs : Through (execVcmpLe .f p a b g sw s) _ _ _ _)
  · have regs : Ready s [vr a, vr b, pr g, vlr, pr p] := hr.append hp
    simp only [List.mem_cons, List.not_mem_nil, or_false, Prod.mk.injEq] at hi
    rcases hi with ⟨rfl, rfl⟩ | ⟨rfl, rfl⟩ | ⟨rfl, rfl⟩ | ⟨rfl, rfl⟩
    · show Through (execVcmpEq .i p a b g sw s) _ _ _ _
      exact vcmp_int_through (c := fun x y => decide (x = y)) regs (fun x y => by simp [beq_eq_decide])
    · show Through (execVcmpNe .i p a b g sw s) _ _ _ _
      exact vcmp_int_through (c := fun x y => decide (x ≠ y)) regs (fun x y => by simp [bne, beq_eq_decide])
    · show Through (execVcmpLt .i p a b g sw s) _ _ _ _
      exact vcmp_int_through (c := fun x y => decide (x.toInt < y.toInt)) regs (fun x y => by simp [BitVec.slt])
    · show Through (execVcmpLe .i p a b g sw s) _ _ _ _
      refine vcmp_int_through (c := fun x y => decide (x.toInt ≤ y.toInt)) regs (fun x y => ?_)
      rw [Bool.eq_iff_iff]
      simp [BitVec.slt]
  · exact (writeLanes_through (fun u k => still (if (u.rp g).getLsbD k then u.lane a k else u.lane b k)) (g := 0) (hr.append hd) rfl :
      Through (execVsel d a b g sw s) _ _ _ _)

/-! ### Moves -/

/-- The active lanes below a lane, counted along the register or along the list of active lanes. -/
theorem countP_lanes_lt (t : Tile) (g : Nat) {k : Nat} (hk : k ≤ 64) :
    (t.lanes g).countP (· < k) = ((List.range k).filter (t.active g)).length := by
  rw [Tile.lanes, List.countP_filter, ← List.countP_eq_length_filter, show 64 = k + (64 - k) by omega, List.range_add, List.countP_append]
  have above : ((List.range (64 - k)).map (k + ·)).countP (fun i => decide (i < k) && t.active g i) = 0 := by
    simp [List.countP_eq_zero]
  have below : (List.range k).countP (fun i => decide (i < k) && t.active g i) = (List.range k).countP (t.active g) :=
    List.countP_congr (fun i hi => by simp [List.mem_range.1 hi])
  rw [above, below, Nat.add_zero]

/-- Only the lanes that a register has count. -/
theorem Tile.setLanes_congr {t : Tile} {v : Nat} {f h : Nat → Lane → Lane} (hfh : ∀ k < 64, ∀ x, f k x = h k x) :
    t.setLanes v f = t.setLanes v h := by
  have same : Vector.ofFn (fun i : Fin 64 => f i.val (t.lane v i.val)) = Vector.ofFn (fun i : Fin 64 => h i.val (t.lane v i.val)) :=
    congrArg Vector.ofFn (funext fun i => hfh i.val i.isLt _)
  unfold Tile.setLanes
  rw [same]
theorem Tile.putLanes_congr {t : Tile} {d g : Nat} {f h : Nat → Lane × Nat} (hfh : ∀ k < 64, f k = h k) :
    t.putLanes d g f = t.putLanes d g h := by
  have flags : (t.lanes g).map (fun i => (f i).2) = (t.lanes g).map (fun i => (h i).2) :=
    List.map_congr_left (fun i hi => by
      rw [hfh i]
      exact List.mem_range.1 (List.mem_filter.1 hi).1)
  unfold Tile.putLanes
  rw [flags, Tile.setLanes_congr (h := fun i x => if t.active g i then (h i).1 else x) (fun k hk x => by rw [hfh k hk])]

theorem KeepsFlow.setVl (n : Nat) (t : Tile) : KeepsFlow (fun u => { u with vl := n }) t := ⟨rfl, rfl, rfl, rfl, rfl⟩

section Moves
variable {s : State} {d a : Fin 32} {n r : Fin 64} {g : Fin 8} {sw : Bool}

theorem vsplat_completes (hr : Ready s [wr n, vlr, vr d]) :
    CompletesDeferred (.vsplat d n sw) s [vr d] (fun u => u.putLanes d 0 (fun _ => still ((u.getX n).setWidth 32))) := by
  refine (writeLanes_through (fun u _ => still ((u.getX n).setWidth 32)) hr ?_ : Through (execVsplat d n sw s) _ _ _ _)
  rw [op_bind, readX_ready (hr.unbound (n := n) (by simp [wr]))]
  rfl

theorem vextr_completes (hr : Ready s [vr a, wr n, vlr, wr r]) :
    CompletesDeferred (.vextr r a n sw) s [wr r] (fun u => u.putX r ((u.lane a ((u.getX n).toNat % 64)).setWidth 64)) := by
  obtain ⟨t, ht, hu⟩ := writeN_seqFlow (s.here.lane a ((s.here.getX n).toNat % 64)).toNat (hr.unbound (n := r) (by simp [wr]))
  refine Through.of_here (f := fun u => u.putX r (BitVec.ofNat 64 (s.here.lane a ((s.here.getX n).toNat % 64)).toNat))
    (metaV_through (t := t) hr ?_ hu (KeepsFlow.putX ..) : Through (execVextr r a n sw s) _ _ _ _) ?_
  · rw [op_bind, readN_ready (hr.unbound (n := n) (by simp [wr]))]
    exact ht
  · rw [BitVec.ofNat_toNat]

/-- VSETVL's two writes: VL and its register. -/
theorem vsetvl_completes (hr : Ready s [wr n, vlr, wr r]) : CompletesDeferred (.vsetvl r n sw) s [wr r, vlr]
    (fun u => { u with vl := min (u.getX n).toNat 64 }.putX r (BitVec.ofNat 64 (min (u.getX n).toNat 64))) := by
  generalize hm : min (s.here.getX n).toNat 64 = m
  have hu : Upd s (s.modTile s.cur (fun u => { u with vl := m })) (fun u => { u with vl := m }) := Upd.of_modTile rfl
  have unbound : (s.modTile s.cur (fun u => { u with vl := m })).here.bound r = none := by
    rw [hu.here]
    exact hr.unbound (n := r) (by simp [wr])
  obtain ⟨t, ht, hw⟩ := writeN_seqFlow m unbound
  have through : Through (execVsetvl r n sw s) s 4 (results [wr r, vlr]) (fun u => { u with vl := m }.putX r (BitVec.ofNat 64 m)) := by
    refine metaV_through (t := t) (hr.mono (by simp)) ?_ (hu.trans hw) ((KeepsFlow.setVl m _).comp (KeepsFlow.putX r _ _))
    rw [op_bind, readN_ready (hr.unbound (n := n) (by simp [wr]))]
    dsimp only
    rw [hm]
    exact ht
  exact through.of_here (by rw [hm])

theorem vcompress_completes (hr : Ready s [vr a, pr g, vlr, vr d]) : CompletesDeferred (.vcompress d a g sw) s [vr d, vlr] (fun u =>
    { u.setLanes d (fun k x => if k < (u.lanes g).length then u.lane a ((u.lanes g).getD k 0) else x) with vl := (u.lanes g).length }) := by
  have through : Through (execVcompress d a g sw s) s 4 (results [vr d, vlr]) (fun u =>
      { u.setLanes d (fun i x => match (u.lanes g)[i]? with | some j => u.lane a j | none => x) with vl := (u.lanes g).length }) :=
    metaV_through (hr.mono (by simp)) rfl (Upd.of_modTile rfl) ⟨rfl, rfl, rfl, rfl, rfl⟩
  refine through.of_here ?_
  have lanes : s.here.setLanes d (fun i x => match (s.here.lanes g)[i]? with | some j => s.here.lane a j | none => x) =
      s.here.setLanes d (fun k x => if k < (s.here.lanes g).length then s.here.lane a ((s.here.lanes g).getD k 0) else x) :=
    Tile.setLanes_congr (fun k _ x => by
      by_cases hk : k < (s.here.lanes g).length
      · simp [hk]
      · simp [hk])
  exact congrArg (fun u : Tile => { u with vl := (s.here.lanes g).length }) lanes

theorem vexpand_completes (hr : Ready s [vr a, pr g, vlr, vr d]) : CompletesDeferred (.vexpand d a g sw) s [vr d]
    (fun u => u.putLanes d g (fun k => still (u.lane a ((List.range k).filter (u.active g)).length))) :=
  Through.of_here (writeLanes_through (fun u k => still (u.lane a ((u.lanes g).countP (· < k)))) hr rfl : Through (execVexpand d a g sw s) _ _ _ _)
    (Tile.putLanes_congr (fun k hk => by rw [countP_lanes_lt _ _ hk.le]))

end Moves

theorem vectorLaneMoves : VectorLaneMoves := by
  intro s d a b n r q g sw hr
  refine ⟨?_, ?_, vsplat_completes (hr.mono (by simp)), vextr_completes (hr.mono (by simp)), vsetvl_completes (hr.mono (by simp)),
    vcompress_completes (hr.mono (by simp)), vexpand_completes (hr.mono (by simp))⟩
  · exact (writeLanes_through (fun u k => still (u.lane a ((u.lane b k).toNat % 64))) (hr.mono (by simp)) rfl :
      Through (execVshuf d a b g sw s) _ _ _ _)
  · exact (writeLanes_through (fun u _ => still (u.lane a n)) (hr.mono (by simp)) rfl : Through (execVbcast d a n g sw s) _ _ _ _)

/-- Settles O22: every form is a write of lanes, of a predicate, or of VL and a register. -/
theorem vectorCompareSelectAndMoves : Obligations.VectorCompareSelectAndMoves := ⟨vectorCompareSelect, vectorLaneMoves⟩

end Sys2Proof.Machine
end

section
/-! PROOF. Statement O23: the tree of VRED and the running values of VSCAN, with the flags left aside. -/

namespace Sys2Proof.Machine

/-! ### The tree -/

theorem pairUp_cons (f : Lane → Lane → Lane) (x y : Lane) (l : List Lane) : pairUp f (x :: y :: l) = f x y :: pairUp f l := by
  have half : (x :: y :: l).length / 2 = l.length / 2 + 1 := by simp only [List.length_cons]; omega
  rw [pairUp, half, List.range_succ_eq_map, List.map_cons, List.map_map]
  rfl
theorem length_pairUp (f : Lane → Lane → Lane) (l : List Lane) : (pairUp f l).length = l.length / 2 := by simp [pairUp]

/-- A level of the tree over an even number of lanes. -/
theorem redLevel_fst (o : RedOp) (rm : Rm) : ∀ (n : Nat) (l : List Lane) (fl : Nat), l.length = 2 * n →
    (redLevel o rm l fl).1 = pairUp (fun x y => (o.op rm x y).1) l
  | 0, [], _, _ => rfl
  | n + 1, x :: y :: l, fl, h => by
    rw [pairUp_cons, ← redLevel_fst o rm n l (fl ||| (o.op rm x y).2) (by simp only [List.length_cons] at h; omega)]
    rfl
theorem redTree_succ (o : RedOp) (rm : Rm) (n : Nat) {m : Nat} {l : List Lane} (fl : Nat) (h : l.length = 2 * m) :
    ∃ fl', redTree o rm (n + 1) l fl = redTree o rm n (pairUp (fun x y => (o.op rm x y).1) l) fl' ∧
      (pairUp (fun x y => (o.op rm x y).1) l).length = m := by
  refine ⟨(redLevel o rm l fl).2, ?_, by rw [length_pairUp, h]; omega⟩
  rw [← redLevel_fst o rm m l fl h]
  rfl
/-- The tree over the 64 lanes. -/
theorem redTree_six (o : RedOp) (rm : Rm) {l : List Lane} (fl : Nat) (f : Lane → Lane → Lane) (hf : ∀ x y, (o.op rm x y).1 = f x y)
    (h : l.length = 64) : (redTree o rm 6 l fl).1 = pairUp f (pairUp f (pairUp f (pairUp f (pairUp f (pairUp f l))))) := by
  obtain rfl : (fun x y => (o.op rm x y).1) = f := by funext x y; exact hf x y
  obtain ⟨fl₁, h₁, l₁⟩ := redTree_succ o rm 5 (m := 32) fl h
  obtain ⟨fl₂, h₂, l₂⟩ := redTree_succ o rm 4 (m := 16) fl₁ l₁
  obtain ⟨fl₃, h₃, l₃⟩ := redTree_succ o rm 3 (m := 8) fl₂ l₂
  obtain ⟨fl₄, h₄, l₄⟩ := redTree_succ o rm 2 (m := 4) fl₃ l₃
  obtain ⟨fl₅, h₅, l₅⟩ := redTree_succ o rm 1 (m := 2) fl₄ l₄
  obtain ⟨fl₆, h₆, -⟩ := redTree_succ o rm 0 (m := 1) fl₅ l₅
  rw [h₁, h₂, h₃, h₄, h₅, h₆]
  rfl

/-! ### The scan -/

theorem scanList_some (o : RedOp) (rm : Rm) : ∀ (l : List Lane) (p : Lane) (i : Nat), i < l.length →
    ((scanList o rm (some p) l)[i]?.getD (0, 0)).1 = (l.take (i + 1)).foldl (fun x y => (o.op rm x y).1) p
  | x :: l, p, 0, _ => rfl
  | x :: l, p, i + 1, h => by
    rw [List.take_succ_cons, List.foldl_cons, ← scanList_some o rm l _ i (by simpa using h)]
    rfl
theorem scanList_none (o : RedOp) (rm : Rm) {l : List Lane} {i : Nat} (h : i < l.length) :
    ((scanList o rm none l)[i]?.getD (0, 0)).1 = (l.take (i + 1)).tail.foldl (fun x y => (o.op rm x y).1) (l.getD 0 0) := by
  match l, i, h with
  | x :: l, 0, _ => rfl
  | x :: l, i + 1, h =>
    rw [List.take_succ_cons, List.tail_cons, List.getD_cons_zero, ← scanList_some o rm l x i (by simpa using h)]
    rfl

/-! ### The instructions -/

theorem length_redInput (t : Tile) (a g : Nat) (o : RedOp) : (redInput t a g o).length = 64 := by simp [redInput]

theorem KeepsFlow.setLanesFlag (d : Nat) (f : Nat → Lane → Lane) (n : Nat) (t : Tile) : KeepsFlow (fun u => (u.setLanes d f).flag n) t :=
  ⟨rfl, rfl, rfl, rfl, rfl⟩

section Instructions
variable {s : State} {d a : Fin 32} {g : Fin 8} {sw : Bool} {minor : Nat} {o : RedOp} {f : Lane → Lane → Lane} {l : List Lane}

theorem vredOp_through (hr : Ready s [vr a, pr g, vlr, vr d]) (hf : ∀ x y, (o.op (rmOf s.here.fctl) x y).1 = f x y)
    (hl : l = redInput s.here a g o) : ∃ fl, Through (vredOp minor o d a g sw s) s 4 (results [vr d]) (fun u =>
      (u.setLanes d (fun k x => if k = 0 then ((pairUp f (pairUp f (pairUp f (pairUp f (pairUp f (pairUp f l)))))).getD 0 0) else x)).flag fl) := by
  refine ⟨if (s.here.lanes g).isEmpty then 0 else (redTree o (rmOf s.here.fctl) 6 (redInput s.here a g o) 0).2,
    metaV_through hr rfl (Upd.of_modTile ?_) (KeepsFlow.setLanesFlag ..)⟩
  rw [← redTree_six o (rmOf s.here.fctl) 0 f hf (by rw [hl, length_redInput]), hl]
  dsimp only
  congr 2

theorem vscanOp_through (hr : Ready s [vr a, pr g, vlr, vr d]) (hf : ∀ x y, (o.op (rmOf s.here.fctl) x y).1 = f x y)
    (hl : l = redInput s.here a g o) : ∃ fl, Through (vscanOp minor o d a g sw s) s 4 (results [vr d]) (fun u =>
      (u.setLanes d (fun k x => if u.active g k then (l.take (k + 1)).tail.foldl f (l.getD 0 0) else x)).flag fl) := by
  obtain rfl : (fun x y => (o.op (rmOf s.here.fctl) x y).1) = f := by funext x y; exact hf x y
  refine ⟨if (s.here.lanes g).isEmpty then 0 else orFlags ((scanList o (rmOf s.here.fctl) none (redInput s.here a g o)).map (·.2)),
    metaV_through hr rfl (Upd.of_modTile ?_) ⟨rfl, rfl, rfl, rfl, rfl⟩⟩
  refine congrArg (Tile.flag · _) (Tile.setLanes_congr (fun k hk x => ?_))
  rw [hl, scanList_none o _ (by rw [length_redInput]; exact hk)]

end Instructions

/-- Settles O23: each operation by its tree and its scan. -/
theorem vectorReductionsScans : Obligations.VectorReductionsScans := by
  unfold Obligations.VectorReductionsScans
  intro s d a g sw hr i j e f hi
  have both : ∀ {m n : Nat} (o : RedOp), (∀ x y, (o.op (rmOf s.here.fctl) x y).1 = f x y) → exec i s = vredOp m o d a g sw s →
      exec j s = vscanOp n o d a g sw s → o.ident = e → ∃ l fl fl',
        l = (List.range 64).map (fun k => if s.here.active g k then s.here.lane a k else e) ∧
        CompletesDeferred i s [vr d] (fun u =>
          (u.setLanes d (fun k x => if k = 0 then ((pairUp f (pairUp f (pairUp f (pairUp f (pairUp f (pairUp f l)))))).getD 0 0) else x)).flag fl) ∧
        CompletesDeferred j s [vr d] (fun u =>
          (u.setLanes d (fun k x => if u.active g k then (l.take (k + 1)).tail.foldl f (l.getD 0 0) else x)).flag fl') := by
    intro m n o hf hred hscan hident
    obtain ⟨fl, red⟩ := vredOp_through (sw := sw) (minor := m) hr hf rfl
    obtain ⟨fl', scan⟩ := vscanOp_through (sw := sw) (minor := n) hr hf rfl
    exact ⟨redInput s.here a g o, fl, fl', by rw [redInput, hident], by rw [CompletesDeferred, hred]; exact red,
      by rw [CompletesDeferred, hscan]; exact scan⟩
  simp only [List.mem_cons, List.not_mem_nil, or_false, Prod.mk.injEq] at hi
  rcases hi with ⟨rfl, rfl, rfl, hf⟩ | ⟨rfl, rfl, rfl, hf⟩ | ⟨rfl, rfl, rfl, hf⟩ | ⟨rfl, rfl, rfl, hf⟩ | ⟨rfl, rfl, rfl, hf⟩ |
    ⟨rfl, rfl, rfl, hf⟩
  · exact both (redAdd .i) (fun _ _ => by rw [hf]; rfl) rfl rfl rfl
  · exact both (redMin .i) (fun x y => by rw [hf]; exact iMin_eq x y) rfl rfl rfl
  · exact both (redMax .i) (fun x y => by rw [hf]; exact iMax_eq x y) rfl rfl rfl
  · exact both (redAdd .f) (fun _ _ => by rw [hf]; rfl) rfl rfl rfl
  · exact both (redMin .f) (fun _ _ => by rw [hf]; rfl) rfl rfl rfl
  · exact both (redMax .f) (fun _ _ => by rw [hf]; rfl) rfl rfl rfl

end Sys2Proof.Machine
end

section
/-! PROOF. Statement O20: fused and dot-product accumulation, and the conversions of VCVT. -/

namespace Sys2Proof.Machine

theorem results_vr (d : Fin 32) : results [vr d] = [vr d] := by simp [results, vr]

/-! ### Accumulation -/

section Accumulation
variable {s : State} {d a b : Fin 32} {g : Fin 8} {sw : Bool}

/-- A multiply-add draws one free value and writes lanes. -/
theorem fmaOp_through {minor : Nat} {minus : Bool} {ty : LaneTy} {f : Tile → Nat → Lane × Nat} (hr : Ready s [vr a, vr b, pr g, vlr, vr d])
    (hf : ∀ t : Tile, f t = fun i => match ty with
      | .f => fFma (rmOf t.fctl) minus (decide (Config.freeChoice s.free % 2 = 1)) (t.lane a i) (t.lane b i) (t.lane d i)
      | .i => plainLane (if minus then t.lane d i - t.lane a i * t.lane b i else t.lane d i + t.lane a i * t.lane b i)) :
    Through (fmaOp minor minus ty d a b g sw s) { s with free := s.free + 1 } 4 [vr d] (fun u => u.putLanes d g (f u)) := by
  have simple := metaD_simple 0x19 minor sw ([vr d, vr a, vr b, pr g] ++ [vlr]) [vr d]
  have regs : Ready s (([vr d, vr a, vr b, pr g] ++ [vlr]) ++ [vr d]) := hr.mono (by simp)
  rw [← results_vr d]
  refine issue_through' (m := metaV 0x19 minor sw [vr d, vr a, vr b, pr g] [vr d]) (v := { s with free := s.free + 1 })
    (settle_none simple.sync simple.engine simple.drain s) (unsettled_none simple.engine simple.drain s)
    (Ready.passes regs simple.kinds simple.priv simple.mustS simple.clash) rfl
    (Upd.of_modTile ?_) (KeepsFlow.putLanes d g f s.here) (Ready.noAppend (s := s) (m := metaV 0x19 minor sw [vr d, vr a, vr b, pr g] [vr d]) regs)
  dsimp only
  rw [hf]
  rfl

/-- A lane-wise operation on two sources and the destination's prior value. -/
theorem laneOp_through {maj minor : Nat} {F : Rm → Lane → Lane → Lane → Lane × Nat} (hr : Ready s [vr a, vr b, pr g, vlr, vr d]) :
    Through (laneOp (metaV maj minor sw [vr d, vr a, vr b, pr g] [vr d]) d a b g F s) s 4 (results [vr d])
      (fun u => u.putLanes d g (fun k => F (rmOf u.fctl) (u.lane a k) (u.lane b k) (u.lane d k))) :=
  writeLanes_through (fun u k => F (rmOf u.fctl) (u.lane a k) (u.lane b k) (u.lane d k)) (hr.mono (by simp)) rfl

end Accumulation

/-- An 8-bit element of a lane, signed or unsigned. -/
def laneByte (u : Bool) (x : Lane) (j : Fin 4) : Int :=
  if u then ((x.extractLsb' (8 * j.val) 8).toNat : Int) else (x.extractLsb' (8 * j.val) 8).toInt
theorem laneByte_eq (u : Bool) (x : Lane) (j : Fin 4) :
    laneByte u x j = if u then ((x.toNat / 2 ^ (8 * j.val) % 256 : Nat) : Int) else sext (x.toNat / 2 ^ (8 * j.val)) 8 := by
  have byte : x.extractLsb' (8 * j.val) 8 = BitVec.ofNat 8 (x.toNat / 2 ^ (8 * j.val)) := by
    rw [BitVec.extractLsb', Nat.shiftRight_eq_div_pow]
  rw [laneByte, byte, toInt_ofNat_eq_sext (by decide)]
  simp
/-- The dot product of four bytes in machine arithmetic. -/
theorem dotBytes_eq (ua ub : Bool) (x y z : Lane) : dotBytes ua ub x y z = z + BitVec.ofInt 32
    (laneByte ua x 0 * laneByte ub y 0 + laneByte ua x 1 * laneByte ub y 1 + laneByte ua x 2 * laneByte ub y 2 + laneByte ua x 3 * laneByte ub y 3) := by
  simp only [laneByte_eq]
  rw [dotBytes, BitVec.ofInt_add, BitVec.ofInt_toInt]
  simp only [List.range_succ, List.range_zero, List.nil_append, List.map_append, List.map_cons, List.map_nil, List.sum_append, List.sum_cons,
    List.sum_nil, Int.add_zero]
  rfl

theorem vectorAccumulation : VectorAccumulation := by
  intro s d a b g sw hr
  refine ⟨⟨decide (Config.freeChoice s.free % 2 = 1), ?_, ?_⟩, ?_, ?_, fun ua ub => ⟨?_, dotBytes ua ub, ?_, fun x y z => ?_⟩⟩
  · exact (fmaOp_through hr (fun _ => rfl) : Through (execVfma .f d a b g sw s) _ _ _ _)
  · exact (fmaOp_through hr (fun _ => rfl) : Through (execVfnma .f d a b g sw s) _ _ _ _)
  · exact (fmaOp_through (f := fun u k => still (u.lane d k + u.lane a k * u.lane b k)) hr (fun _ => rfl) :
      Through (execVfma .i d a b g sw s) _ _ _ _)
  · exact (fmaOp_through (f := fun u k => still (u.lane d k - u.lane a k * u.lane b k)) hr (fun _ => rfl) :
      Through (execVfnma .i d a b g sw s) _ _ _ _)
  · exact (laneOp_through hr : Through (execVdot .f d a b g ua ub sw s) _ _ _ _)
  · exact (laneOp_through hr : Through (execVdot .i d a b g ua ub sw s) _ _ _ _)
  · exact ⟨laneByte ua x, laneByte ub y, fun _ => rfl, fun _ => rfl, dotBytes_eq ..⟩

/-! ### Conversions -/

section Lanes

theorem Tile.setLanes_v_same (t : Tile) (d : Fin 32) (f : Nat → Lane → Lane) (k : Fin 64) :
    (t.setLanes d f).v[d][k] = f k (t.lane d k) := by
  simp [Tile.setLanes]
theorem Tile.setLanes_v_other (t : Tile) {d r : Fin 32} (f : Nat → Lane → Lane) (h : r ≠ d) : (t.setLanes d f).v[r] = t.v[r] := by
  have hval : d.val ≠ r.val := fun e => h (Fin.ext e.symm)
  simp [Tile.setLanes, hval]
theorem Tile.lane_eq (t : Tile) (r : Fin 32) (k : Fin 64) : t.lane r k = t.v[r][k] := by simp [Tile.lane]

end Lanes

/-- Finding a key among those of a list that stand beside values. -/
theorem keyFind_zip {α : Type} {i : Nat} : ∀ {l : List Nat} (m : List α), i ∈ l → keyFind (l.zip m) i = m[l.idxOf i]?
  | j :: l, [], _ => by simp [keyFind]
  | j :: l, x :: m, h => by
    rw [List.zip_cons_cons, keyFind, List.idxOf_cons]
    by_cases hj : j = i
    · rw [if_pos hj]
      simp [hj]
    · rw [if_neg hj, keyFind_zip m ((List.mem_cons.1 h).resolve_left (Ne.symm hj))]
      simp [beq_false_of_ne hj]
/-- Keys that do not stand in the first part are looked up in the second. -/
theorem keyFind_append {α : Type} {i : Nat} (m : List (Nat × α)) : ∀ {l : List (Nat × α)}, (∀ e ∈ l, e.1 ≠ i) →
    keyFind (l ++ m) i = keyFind m i
  | [], _ => rfl
  | e :: l, h => by
    rw [List.cons_append, keyFind, if_neg (h e List.mem_cons_self), keyFind_append m (fun e he => h e (List.mem_cons_of_mem _ he))]
theorem keyFind_append_some {α : Type} {i : Nat} {x : α} (m : List (Nat × α)) : ∀ {l : List (Nat × α)}, keyFind l i = some x →
    keyFind (l ++ m) i = some x
  | e :: l, h => by
    rw [List.cons_append, keyFind]
    rw [keyFind] at h
    split at h
    · rw [if_pos ‹_›]; exact h
    · rw [if_neg ‹_›]; exact keyFind_append_some m h

section Conversions
variable {s : State} {d a c : Fin 32} {g : Fin 8} {w : Fin 16} {sw : Bool}

theorem vdecode_through {reads : List (File × Nat)} {scale : Tile → Nat → Nat} (hr : Ready s (reads ++ [vlr] ++ [vr d])) :
    Through (vdecode (metaV 0x1C 0 sw reads [vr d]) d a g w scale s) s 4 (results [vr d]) (fun u => u.putLanes d g (fun k =>
      toLane (rmOf u.fctl) (valueOf u w ((u.lane a k).toNat % 2 ^ (4 * winNibbles w)) (scale u k)))) :=
  writeLanes_through (fun u k => toLane (rmOf u.fctl) (valueOf u w ((u.lane a k).toNat % 2 ^ (4 * winNibbles w)) (scale u k))) hr rfl

/-- What an encode gives a lane: the element and its flags. -/
def encoded (t : Bool) (a : Fin 32) (w : Fin 16) (u : Tile) (k : Nat) : Lane × Nat :=
  (BitVec.ofNat 32 (encodeWin u.table w (rmOf u.fctl) t (lane (u.lane a k))).1,
    encodeFlags (u.lane a k) (encodeWin u.table w (rmOf u.fctl) t (lane (u.lane a k))).2)

theorem vcvtEnc_completes {t : Bool} (hr : Ready s [vr a, pr g, vlr, vr d]) (ho : s.here.ordered = true ∨ w ≠ 12 ∨ s.here.lanes g = []) :
    CompletesDeferred (.vcvtEnc d a t g w sw) s [vr d] (fun u => u.putLanes d g (encoded t a w u)) := by
  have passes : (s.here.ordered || decide (w.val ≠ 12) || (s.here.lanes g).isEmpty) = true := by
    rcases ho with h | h | h
    · simp [h]
    · have : w.val ≠ 12 := fun e => h (Fin.ext e)
      simp [this]
    · simp [h]
  refine (writeLanes_through (encoded t a w) hr ?_ : Through (execVcvtEnc d a t g w sw s) _ _ _ _)
  simp only [op_bind, op_getT]
  rw [op_require passes]
  rfl

/-- The active lanes of a half of a register. -/
def halfLanes (t : Tile) (g h : Nat) : List Nat := (t.lanes g).filter (fun i => decide (i / 32 = h))
/-- Its lanes' values. -/
def halfVals (t : Tile) (a g h : Nat) : List Ext := (halfLanes t g h).map (fun i => lane (t.lane a i))
/-- The elements of a block with their flags. -/
def halfCodes (t : Tile) (a g : Nat) (w : Fin 16) (h : Nat) : List (Nat × Nat) :=
  mxEncode t.table w (rmOf t.fctl) (mxScale w (halfVals t a g h)) (halfVals t a g h)
/-- The scales of the two blocks. -/
def mxScales (t : Tile) (a g : Nat) (w : Fin 16) : List Nat := (List.range 2).map (fun h => mxScale w (halfVals t a g h))
/-- The element of a lane with its flags, as the MX encode looks it up. -/
def mxCode (t : Tile) (a g : Nat) (w : Fin 16) (i : Nat) : Nat × Nat :=
  (keyFind ((List.range 2).flatMap (fun h => (halfLanes t g h).zip
    (mxEncode t.table w (rmOf t.fctl) ((mxScales t a g w).getD h 0) (halfVals t a g h)))) i).getD (0, 0)
theorem mxScales_getD (t : Tile) (a g : Nat) (w : Fin 16) {h : Nat} (hh : h < 2) :
    (mxScales t a g w).getD h 0 = mxScale w (halfVals t a g h) := by
  simp [mxScales, hh]
theorem mxCode_append (t : Tile) (a g : Nat) (w : Fin 16) (i : Nat) : mxCode t a g w i =
    (keyFind ((halfLanes t g 0).zip (halfCodes t a g w 0) ++ (halfLanes t g 1).zip (halfCodes t a g w 1)) i).getD (0, 0) := by
  rw [mxCode, show List.range 2 = [0, 1] from rfl, List.flatMap_cons, List.flatMap_singleton, mxScales_getD t a g w (by decide),
    mxScales_getD t a g w (by decide)]
  rfl

theorem mem_halfLanes {t : Tile} {g h i : Nat} : i ∈ halfLanes t g h ↔ (i < 64 ∧ t.active g i = true) ∧ i / 32 = h := by
  simp only [halfLanes, Tile.lanes, List.mem_filter, List.mem_range, decide_eq_true_eq]
theorem length_halfCodes (t : Tile) (a g : Nat) (w : Fin 16) (h : Nat) : (halfCodes t a g w h).length = (halfLanes t g h).length := by
  unfold halfCodes mxEncode
  split <;> simp [halfVals]

theorem mxCode_eq {t : Tile} {a g : Nat} {w : Fin 16} {i : Nat} (hi : i < 64) (ha : t.active g i = true) :
    mxCode t a g w i = (halfCodes t a g w (i / 32)).getD ((halfLanes t g (i / 32)).idxOf i) (0, 0) := by
  have found : ∀ h, i / 32 = h → keyFind ((halfLanes t g h).zip (halfCodes t a g w h)) i =
      some ((halfCodes t a g w h).getD ((halfLanes t g h).idxOf i) (0, 0)) := by
    intro h hh
    have mem : i ∈ halfLanes t g h := mem_halfLanes.2 ⟨⟨hi, ha⟩, hh⟩
    have inside : (halfLanes t g h).idxOf i < (halfCodes t a g w h).length := by
      rw [length_halfCodes]
      exact List.idxOf_lt_length_of_mem mem
    rw [keyFind_zip _ mem, List.getD_eq_getElem?_getD, List.getElem?_eq_getElem inside, Option.getD_some]
  obtain hlow | hhigh : i / 32 = 0 ∨ i / 32 = 1 := by omega
  · rw [mxCode_append, keyFind_append_some _ (found 0 hlow), hlow, Option.getD_some]
  · have absent : ∀ e ∈ (halfLanes t g 0).zip (halfCodes t a g w 0), e.1 ≠ i := by
      rintro ⟨j, x⟩ he rfl
      have := (mem_halfLanes.1 (List.of_mem_zip he).1).2
      omega
    rw [mxCode_append, keyFind_append _ absent, found 1 hhigh, hhigh, Option.getD_some]

/-- The elements that an MX encode of the lanes of `t` writes to a tile, and the scale bytes. -/
def putCodes (d a : Fin 32) (g : Fin 8) (w : Fin 16) (t u : Tile) : Tile :=
  u.putLanes d g (fun i => (BitVec.ofNat 32 (mxCode t a g w i).1, encodeFlags (t.lane a i) (mxCode t a g w i).2))
def putScales (c a : Fin 32) (g : Fin 8) (w : Fin 16) (t u : Tile) : Tile :=
  u.putLanes c g (fun i => still (BitVec.ofNat 32 ((mxScales t a g w).getD (i / 32) 0)))

theorem vcvtEncMx_through (hr : Ready s [vr a, pr g, vlr, vr d]) (hc : Ready s [vr c]) (hdc : d ≠ c) :
    CompletesDeferred (.vcvtEncMx d a c g w sw) s [vr d, vr c] (fun u => putScales c a g w s.here (putCodes d a g w s.here u)) := by
  have regs : Ready s ([vr a, pr g] ++ [vlr] ++ [vr d, vr c]) := (hr.append hc).mono (by simp)
  have passes := regs.passes (m := { metaV 0x1C 0 sw [vr a, pr g] [vr d, vr c] with clash := if d = c then some (vr d) else none })
    rfl rfl rfl (if_neg hdc)
  have codes : Upd s (s.modTile s.cur (putCodes d a g w s.here)) (putCodes d a g w s.here) := Upd.of_modTile rfl
  have scales : Upd (s.modTile s.cur (putCodes d a g w s.here))
      ((s.modTile s.cur (putCodes d a g w s.here)).modTile s.cur (putScales c a g w s.here)) (putScales c a g w s.here) := Upd.of_modTile rfl
  exact (issue_through rfl rfl rfl passes rfl (codes.trans scales) ⟨rfl, rfl, rfl, rfl, rfl⟩ regs.noAppend :
    Through (execVcvtEncMx d a c g w sw s) _ _ _ _)

end Conversions

theorem Tile.putLanes_v_same (t : Tile) (d : Fin 32) (g : Nat) (f : Nat → Lane × Nat) (k : Fin 64) :
    (t.putLanes d g f).v[d][k] = if t.active g k then (f k).1 else t.lane d k :=
  t.setLanes_v_same d (fun i x => if t.active g i then (f i).1 else x) k
theorem Tile.putLanes_v_other (t : Tile) {d r : Fin 32} (g : Nat) (f : Nat → Lane × Nat) (h : r ≠ d) : (t.putLanes d g f).v[r] = t.v[r] :=
  t.setLanes_v_other (fun i x => if t.active g i then (f i).1 else x) h

section Encoded
variable (t : Tile) {d c : Fin 32} (a : Fin 32) (g : Fin 8) (w : Fin 16)

/-- The elements of an MX encode after it. -/
theorem encoded_codes (h : d ≠ c) (k : Fin 64) : (putScales c a g w t (putCodes d a g w t t)).v[d][k] =
    if t.active g k then BitVec.ofNat 32 (mxCode t a g w k).1 else t.lane d k := by
  rw [putScales, Tile.putLanes_v_other _ _ _ h, putCodes, Tile.putLanes_v_same]
/-- Its scale bytes. -/
theorem encoded_scales (h : d ≠ c) (k : Fin 64) : (putScales c a g w t (putCodes d a g w t t)).v[c][k] =
    if t.active g k then BitVec.ofNat 32 (mxScale w (halfVals t a g (k.val / 32))) else t.lane c k := by
  have scale : (mxScales t a g w).getD (k.val / 32) 0 = mxScale w (halfVals t a g (k.val / 32)) := mxScales_getD t a g w (by omega)
  have old : (putCodes d a g w t t).lane c k = t.lane c k := by
    rw [Tile.lane_eq, putCodes, Tile.putLanes_v_other _ _ _ h.symm, Tile.lane_eq]
  rw [putScales, Tile.putLanes_v_same, scale, old]
  rfl

end Encoded

theorem vectorConversions : VectorConversions := by
  intro s d a c g w t sw hr
  refine ⟨?_, fun ho => ⟨encoded t a w, vcvtEnc_completes hr ho, fun _ _ => rfl⟩, fun hc => ⟨?_, fun hdc => ?_⟩⟩
  · exact (vdecode_through hr : Through (execVcvtDec d a g w sw s) _ _ _ _)
  · exact (vdecode_through (hr.append hc |>.mono (by simp)) : Through (execVcvtDecMx d a c g w sw s) _ _ _ _)
  · refine ⟨(putScales c a g w s.here (putCodes d a g w s.here s.here)).v, (putScales c a g w s.here (putCodes d a g w s.here s.here)).vstatus,
      (vcvtEncMx_through hr hc hdc).of_here rfl, fun r hrd hrc => ?_, fun k => ⟨fun idle => ⟨?_, ?_⟩, fun active => ?_⟩⟩
    · rw [putScales, Tile.putLanes_v_other _ _ _ hrc, putCodes, Tile.putLanes_v_other _ _ _ hrd]
    · rw [encoded_codes _ _ _ _ hdc, idle, if_neg Bool.false_ne_true]
    · rw [encoded_scales _ _ _ _ hdc, idle, if_neg Bool.false_ne_true]
    · refine ⟨halfLanes s.here g (k.val / 32), halfCodes s.here a g w (k.val / 32), rfl, ?_, rfl, ?_⟩
      · rw [encoded_scales _ _ _ _ hdc, if_pos active]
        rfl
      · rw [encoded_codes _ _ _ _ hdc, if_pos active, mxCode_eq k.isLt active]

/-- Settles O20: multiply-adds, dot products and conversions are writes of lanes. -/
theorem vectorAccumulationAndConversion : Obligations.VectorAccumulationAndConversion := ⟨vectorAccumulation, vectorConversions⟩

end Sys2Proof.Machine
end

section
/-! PROOF. Statement O21: the active lanes of a vector access are checked, then read or noted, and then moved, lowest first. -/

namespace Sys2Proof.Machine

/-! ### Places of the lanes -/

/-- A range through a window lies in it and is backed. -/
theorem windowOf_of_windowAt {a n w off : Nat} (h : windowAt a n = some (w, off)) : windowOf a = some (w, off) ∧ off + n ≤ Config.scratchBytes := by
  have hbase : Config.expertBase ≤ Config.localBase := by decide
  have hhole : 0x00FE_0400_0000_0000 ≤ Config.localBase := by decide
  unfold windowAt at h
  split at h
  · next w' off' hl =>
    obtain ⟨rfl, rfl⟩ : w' = w ∧ off' = off := by simpa using h
    unfold locate at hl
    split at hl
    · cases hl
    split at hl
    · cases hl
    split at hl
    · cases hl
    split at hl
    · cases hl
    split at hl
    · cases hl
    split at hl
    · split at hl
      · cases hl
        exact ⟨by unfold windowOf; rw [if_pos ⟨by omega, by omega⟩], by assumption⟩
      · cases hl
    split at hl
    · cases hl
    · cases hl
  · cases h

/-- The lanes with the places of their elements. -/
def keyed (l : List Nat) (key : Nat → Nat) : List (Nat × Nat) := l.map (fun i => (i, key i))
theorem keyFind_keyed {key : Nat → Nat} {i : Nat} : ∀ {l : List Nat}, i ∈ l → keyFind (keyed l key) i = some (key i)
  | j :: l, h => by
    rw [keyed, List.map_cons, keyFind]
    split
    · next hj => rw [hj]
    · next hj => exact keyFind_keyed ((List.mem_cons.1 h).resolve_left (Ne.symm hj))

section Checks
variable {s : State} {c : Reg} {n perms align : Nat} {addr key : Nat → Nat}

theorem checkLanes_ok (reg : Nat) (ak : Access) : ∀ l : List Nat, (∀ i ∈ l, Grants c (addr i) n perms align ∧ (windowAt c.addr 1).isSome = true ∧
      ∃ w off, windowAt (addr i) n = some (w, off) ∧ key i = scratchAt s.cur off) →
    checkLanes reg c perms n align ak addr l s = .ok (keyed l key) s
  | [], _ => rfl
  | i :: l, h => by
    obtain ⟨grants, window, w, off, hw, hkey⟩ := h i List.mem_cons_self
    obtain ⟨⟨w₀, off₀⟩, hbase⟩ := Option.isSome_iff_exists.1 window
    obtain ⟨hof, hback⟩ := windowOf_of_windowAt hw
    have rest := checkLanes_ok reg ak l (fun j hj => h j (List.mem_cons_of_mem _ hj))
    rw [checkLanes]
    simp only [op_bind, checkCap_grants grants]
    rw [op_require (by rw [(windowOf_of_windowAt hbase).1]; rfl)]
    simp only [hof, op_bind]
    rw [op_require (by simpa using hback)]
    simp only [op_me, rest, op_pure]
    rw [keyed, keyed, List.map_cons, hkey]

theorem consumeLanes_ok (addr : Nat → Nat) : ∀ l : List Nat, (∀ i ∈ l, s.isBad (key i) n = false) → (∀ i ∈ l, s.engineHoldsKey (key i) n false = false) →
    consumeLanes n addr (keyed l key) s = .ok ⟨⟩ s
  | [], _, _ => rfl
  | i :: l, hb, he => by
    have rest := consumeLanes_ok addr l (fun j hj => hb j (List.mem_cons_of_mem _ hj)) (fun j hj => he j (List.mem_cons_of_mem _ hj))
    rw [keyed, List.map_cons, consumeLanes, op_bind, consume_good .load (addr i) (he i List.mem_cons_self) (hb i List.mem_cons_self)]
    exact rest

end Checks

/-! ### What is kept for generators -/

/-- Keeping bytes for generators changes nothing but what is kept. -/
theorem State.noted_eq (s : State) (key n : Nat) : ∃ u, s.noted key n = s.modTile s.cur (fun t => { t with undo := u }) ∨ s.noted key n = s := by
  unfold State.noted
  split
  · exact ⟨_, .inl rfl⟩
  · exact ⟨[], .inr rfl⟩
theorem State.noted_engineHoldsKey (s : State) (key n a m : Nat) (w : Bool) : (s.noted key n).engineHoldsKey a m w = s.engineHoldsKey a m w := by
  unfold State.engineHoldsKey
  rw [State.noted_cur]
  obtain ⟨u, h | h⟩ := s.noted_eq key n
  · rw [h, State.tile_modTile]
    rfl
  · rw [h]
theorem State.noted_badPartial (s : State) (key n a m : Nat) : (s.noted key n).badPartial a m = s.badPartial a m := by
  unfold State.badPartial
  obtain ⟨u, h | h⟩ := s.noted_eq key n
  · rw [h]
    rfl
  · rw [h]

/-- The lanes' bytes are kept, lowest lane first. -/
def notedOver (n : Nat) (key : Nat → Nat) (l : List Nat) (s : State) : State := l.foldl (fun u i => u.noted (key i) n) s
theorem notedOver_cur (n : Nat) (key : Nat → Nat) (l : List Nat) (s : State) : (notedOver n key l s).cur = s.cur := by
  induction l generalizing s with
  | nil => rfl
  | cons i l ih => exact (ih _).trans (s.noted_cur ..)
theorem notedOver_here (n : Nat) (key : Nat → Nat) (l : List Nat) (s : State) : ∃ u, (notedOver n key l s).here = { s.here with undo := u } := by
  induction l generalizing s with
  | nil => exact ⟨_, rfl⟩
  | cons i l ih =>
    obtain ⟨u, hu⟩ := ih (s.noted (key i) n)
    obtain ⟨u', hu'⟩ := noted_here s (key i) n
    exact ⟨u, hu.trans (by rw [hu'])⟩

theorem consumePartLanes_ok {n : Nat} {key : Nat → Nat} (addr : Nat → Nat) : ∀ (l : List Nat) (s : State),
    (∀ i ∈ l, s.badPartial (key i) n = false) → (∀ i ∈ l, s.engineHoldsKey (key i) n true = false) →
    consumePartLanes n addr (keyed l key) s = .ok ⟨⟩ (notedOver n key l s)
  | [], _, _, _ => rfl
  | i :: l, s, hb, he => by
    have rest := consumePartLanes_ok addr l (s.noted (key i) n)
      (fun j hj => (s.noted_badPartial ..).trans (hb j (List.mem_cons_of_mem _ hj)))
      (fun j hj => (s.noted_engineHoldsKey ..).trans (he j (List.mem_cons_of_mem _ hj)))
    rw [keyed, List.map_cons, consumePartLanes, op_bind,
      consumePart_good .store (addr i) (he i List.mem_cons_self) (s.mend_single ..) (hb i List.mem_cons_self)]
    dsimp only
    rw [op_bind, noteStore_ok]
    exact rest

/-! ### Loads -/

/-- Lanes that are written agree where they are active. -/
theorem Tile.putLanes_congr_active {t : Tile} {d g : Nat} {f h : Nat → Lane × Nat} (hfh : ∀ k ∈ t.lanes g, f k = h k) :
    t.putLanes d g f = t.putLanes d g h := by
  have flags : (t.lanes g).map (fun i => (f i).2) = (t.lanes g).map (fun i => (h i).2) :=
    List.map_congr_left (fun i hi => by rw [hfh i hi])
  have values : t.setLanes d (fun i x => if t.active g i then (f i).1 else x) = t.setLanes d (fun i x => if t.active g i then (h i).1 else x) :=
    Tile.setLanes_congr (fun k hk x => by
      by_cases ha : t.active g k = true
      · rw [if_pos ha, if_pos ha, hfh k (List.mem_filter.2 ⟨List.mem_range.2 hk, ha⟩)]
      · rw [if_neg ha, if_neg ha])
  unfold Tile.putLanes
  rw [flags, values]

section Instructions
variable {o s v t : State} {minor : Nat} {sw : Bool} {reads writes : List (File × Nat)} {body : Op Flow} {f : Tile → Tile}
  {d : Fin 32} {b : Fin 64} {g : Fin 8} {n align : Nat} {addr : Tile → Reg → Nat → Nat} {key : Nat → Nat}

/-- A vector access whose body leads to `v` and does `f` to the core there completes. -/
theorem metaVM_through (hs : s = o.engineDone) (hr : Ready s (reads ++ [vlr] ++ writes)) (hb : body s = .ok .seq t) (hu : Upd v t f)
    (hf : KeepsFlow f v.here) (hag : v.here.ag = s.here.ag) :
    Through (issue (metaVM minor sw reads writes) body o) v 4 (results writes) f :=
  issue_through' ((settle_sync rfl rfl o).trans hs.symm) (unsettled_none rfl rfl s) (Ready.passes hr rfl rfl rfl rfl) hb hu hf
    (Meta.NoAppend.congr (Ready.noAppend (s := s) (m := metaVM minor sw reads writes) hr) hag)

/-- The body of a load of lanes. -/
def lanesLoad (d : Fin 32) (b : Fin 64) (g : Fin 8) (n align : Nat) (nib : Bool) (addr : Tile → Reg → Nat → Nat) : Op Flow := do
  let c ← readW b
  let t ← getT
  let keys ← checkLanes b c Perm.load n align .load (addr t c) (t.lanes g)
  consumeLanes n (addr t c) keys
  loadLanes d g n nib keys
  seqFlow
/-- The value that a load gives the lane whose element is at a key. -/
def loadedLane (s : State) (n : Nat) (nib : Bool) (i key : Nat) : Lane :=
  BitVec.ofNat 32 (if nib then (if i % 2 = 0 then s.readNat key n % 16 else s.readNat key n / 16) else s.readNat key n)
/-- The tile with the loaded lanes. -/
def Tile.putLoaded (d g n : Nat) (nib : Bool) (keys : List (Nat × Nat)) (s : State) (u : Tile) : Tile :=
  u.putLanes d g (fun i => still (loadedLane s n nib i ((keyFind keys i).getD 0)))
theorem loadLanes_ok (d g n : Nat) (nib : Bool) (keys : List (Nat × Nat)) (s : State) :
    loadLanes d g n nib keys s = .ok ⟨⟩ (s.modTile s.cur (Tile.putLoaded d g n nib keys s)) := rfl

/-- The checks of a vector access, whose base and lanes are read first. -/
theorem lanesChecked {perms : Nat} {ak : Access} {rest : Reg → Tile → List (Nat × Nat) → Op Flow} (hb : s.here.bound b = none)
    (hl : LanesAt s (s.here.getW b) g n perms align (addr s.here (s.here.getW b)) key) :
    (do let c ← readW b
        let t ← getT
        let keys ← checkLanes b c perms n align ak (addr t c) (t.lanes g)
        rest c t keys : Op Flow) s = rest (s.here.getW b) s.here (keyed (s.here.lanes g) key) s := by
  rw [op_bind, readW_ready hb]
  dsimp only
  rw [op_bind, op_getT]
  dsimp only
  rw [op_bind, checkLanes_ok b ak (s.here.lanes g) hl]

theorem lanesLoad_through {nib : Bool} {h : Nat → Lane} (hs : s = o.engineDone) (hr : Ready s (reads ++ [vlr] ++ [vr d])) (hbase : wr b ∈ reads)
    (hl : LanesAt s (s.here.getW b) g n Perm.load align (addr s.here (s.here.getW b)) key)
    (hbad : ∀ i ∈ s.here.lanes g, s.isBad (key i) n = false) (hfree : LanesFree s g n key false)
    (hh : ∀ i ∈ s.here.lanes g, loadedLane s n nib i (key i) = h i) :
    Through (issue (metaVM minor sw reads [vr d]) (lanesLoad d b g n align nib addr) o) s 4 [vr d] (fun u => u.putLanes d g (fun i => still (h i))) := by
  have unbound : s.here.bound b = none := hr.unbound (n := b) (by simp [hbase, show (File.w, b.val) = wr b from rfl])
  have values : Tile.putLoaded d g n nib (keyed (s.here.lanes g) key) s s.here = s.here.putLanes d g (fun i => still (h i)) :=
    Tile.putLanes_congr_active (fun i hi => by rw [keyFind_keyed hi, Option.getD_some, hh i hi])
  have effect : Upd s (s.modTile s.cur (Tile.putLoaded d g n nib (keyed (s.here.lanes g) key) s)) (fun u => u.putLanes d g (fun i => still (h i))) :=
    Upd.of_modTile values
  have loads : lanesLoad d b g n align nib addr s = .ok .seq (s.modTile s.cur (Tile.putLoaded d g n nib (keyed (s.here.lanes g) key) s)) := by
    rw [lanesLoad, lanesChecked unbound hl, op_bind, consumeLanes_ok _ _ hbad hfree]
    dsimp only
    rw [op_bind, loadLanes_ok]
    rfl
  have through := metaVM_through (minor := minor) (sw := sw) hs hr loads effect (KeepsFlow.putLanes d g (fun _ i => still (h i)) _) rfl
  rwa [results_vr] at through

/-- The body of a store of lanes. -/
def lanesStore (d : Fin 32) (b : Fin 64) (g : Fin 8) (n align : Nat) (nib : Bool) (addr : Tile → Reg → Nat → Nat) : Op Flow := do
  let c ← readW b
  let t ← getT
  let keys ← checkLanes b c Perm.store n align .store (addr t c) (t.lanes g)
  storeLanes d n nib (addr t c) keys
  seqFlow

/-- The lanes' elements are stored, lowest lane first. -/
def storedOver (n : Nat) (nib : Bool) (key x : Nat → Nat) (l : List Nat) (s : State) : State :=
  l.foldl (fun u i => storeLane n nib i (key i) (x i) u) s
theorem storedOver_tiles (n : Nat) (nib : Bool) (key x : Nat → Nat) (l : List Nat) (s : State) :
    (storedOver n nib key x l s).tiles = s.tiles ∧ (storedOver n nib key x l s).cur = s.cur := by
  induction l generalizing s with
  | nil => exact ⟨rfl, rfl⟩
  | cons i l ih =>
    have one : (storeLane n nib i (key i) (x i) s).tiles = s.tiles ∧ (storeLane n nib i (key i) (x i) s).cur = s.cur := by
      unfold storeLane
      split <;> exact ⟨rfl, rfl⟩
    exact ⟨(ih _).1.trans one.1, (ih _).2.trans one.2⟩

theorem lanesStore_through {nib : Bool} (hs : s = o.engineDone) (hr : Ready s (reads ++ [vlr] ++ [])) (hbase : wr b ∈ reads)
    (hl : LanesAt s (s.here.getW b) g n Perm.store align (addr s.here (s.here.getW b)) key)
    (hbad : ∀ i ∈ s.here.lanes g, s.badPartial (key i) n = false) (hfree : LanesFree s g n key true)
    (ht : t = storedOver n nib key (fun i => (s.here.lane d i).toNat) (s.here.lanes g) (notedOver n key (s.here.lanes g) s)) :
    Through (issue (metaVM minor sw reads []) (lanesStore d b g n align nib addr) o) t 4 [] (fun u => u) := by
  have unbound : s.here.bound b = none := hr.unbound (n := b) (by simp [hbase, show (File.w, b.val) = wr b from rfl])
  obtain ⟨undo, hnoted⟩ := notedOver_here n key (s.here.lanes g) s
  obtain ⟨htiles, hcur⟩ := storedOver_tiles n nib key (fun i => (s.here.lane d i).toNat) (s.here.lanes g) (notedOver n key (s.here.lanes g) s)
  have hag : t.here.ag = s.here.ag := by
    rw [ht, State.here, hcur, State.tile_of_tiles htiles]
    change (notedOver n key (s.here.lanes g) s).here.ag = _
    rw [hnoted]
  refine metaVM_through hs hr (t := t) ?_ (Upd.refl t) (KeepsFlow.refl _) hag
  rw [lanesStore, lanesChecked unbound hl, storeLanes, op_bind, op_bind, consumePartLanes_ok _ _ _ hbad hfree]
  dsimp only
  rw [op_bind, op_getT, hnoted]
  dsimp only
  rw [ht, storedOver, keyed]
  simp only [op_modify, List.foldl_map]
  rfl

end Instructions

/-- The nibble of a byte for a lane (R245). -/
theorem nibbleLane {i key : Nat} {s : State} (h : s.readNat key 1 < 2 ^ (8 * 1)) :
    loadedLane s 1 true i key = BitVec.ofNat 32 (s.readNat key 1 / 16 ^ (i % 2) % 16) := by
  unfold loadedLane
  rw [if_pos rfl]
  obtain hi | hi : i % 2 = 0 ∨ i % 2 = 1 := by omega
  · simp [hi]
  · rw [if_neg (by omega), hi, Nat.pow_one, Nat.mod_eq_of_lt (by omega)]

/-- Settles O21: each form is the checks of its lanes followed by a load or a store of them. -/
theorem vectorMemory : Obligations.VectorMemory := by
  unfold Obligations.VectorMemory
  intro o s t d x b e g sw key hs hr
  refine ⟨fun hl hbad hfree => ?_, fun hl hbad hfree ht => ?_, fun hx => ⟨fun hl hbad hfree => ?_, fun hl hbad hfree ht => ?_⟩⟩
  · refine (lanesLoad_through (addr := fun _ c => laneAddr c e) hs (hr.mono (by simp)) (by simp) hl hbad hfree (fun i hi => ?_) :
      Through (execVld d b e g sw o) _ _ _ _)
    by_cases he : e = 3
    · rw [if_pos he]
      subst he
      exact nibbleLane (s.readNat_lt _ _)
    · have : e.val ≠ 3 := fun h => he (Fin.ext h)
      rw [if_neg he, loadedLane, eszBytes, if_neg this, decide_eq_false this]
      rfl
  · refine (lanesStore_through (addr := fun _ c => laneAddr c e) hs (hr.mono (by simp)) (by simp) hl hbad hfree (ht.trans ?_) :
      Through (execVst d b e g sw o) _ _ _ _)
    by_cases he : e = 3
    · simp only [if_pos he]
      subst he
      rfl
    · have : e.val ≠ 3 := fun h => he (Fin.ext h)
      simp only [if_neg he, storedOver, storeLane, eszBytes, if_neg this, decide_eq_false this]
      rfl
  · exact (lanesLoad_through (addr := fun t c => indexAddr t c x) hs (hr.append hx |>.mono (by simp)) (by simp) hl hbad hfree (fun i hi => rfl) :
      Through (execVgather d b x g sw o) _ _ _ _)
  · exact (lanesStore_through (addr := fun t c => indexAddr t c x) hs (hr.append hx |>.mono (by simp)) (by simp) hl hbad hfree ht :
      Through (execVscatter d b x g sw o) _ _ _ _)

end Sys2Proof.Machine
end

section
/-! PROOF. A partition's ASID table entry reads back as it was written only where memory is in its canonical form: a list of cells that
names an address twice hides the second cell behind the first, and writing a byte 0 there takes the first one away. -/

namespace Sys2Proof.Machine

/-- A module that has booted, whose memory is not in canonical form: it has two cells for address 1. -/
def doubledState : State := { State.reset with boot := .running, mem := [(1, 1), (1, 2)] }
/-- A set-up of partition 0 on die 0, with ASID 0. -/
def plainSetup : PartSetup :=
  { number := 0, remove := false, dies := [0], hbms := [], ethPorts := [], asids := [(0, 0)], windows := [], svc := 0 }

/-- The low two bytes of the entry of ASID 0 after the set-up: the second byte is that of the cell that was hidden. -/
def asidEntryAfter (o : Host.Outcome State Fault Refusal) : Nat :=
  match o with
  | .next t => t.readNat 0 2
  | _ => 0

/-- Refutes O54: with two cells for address 1 in memory, the entry of ASID 0 that a set-up writes does not read back, because its
second byte, which is 0, leaves the hidden cell in sight. -/
theorem not_managementResults : ¬ Obligations.ManagementResults := by
  unfold Obligations.ManagementResults
  rintro ⟨-, -, partitions, -⟩
  obtain ⟨-, free⟩ := partitions doubledState plainSetup rfl rfl (by decide)
  obtain ⟨setUp, -⟩ := free (by intro g hg; cases hg)
  obtain ⟨t, ht, -, -, entries, -⟩ := setUp rfl (by decide) (by decide) (by decide) (by decide) (by intro e he; cases he) (by decide)
    (by
      intro r hr
      have none : r = [] := hr.trans (by rfl)
      subst none
      exact ⟨List.Pairwise.nil, by intro a ha; cases ha⟩)
  have entry : t.readNat 0 8 = 1 := (entries 0 0 rfl).trans (by decide)
  have after : asidEntryAfter (exec (.partition plainSetup) doubledState) = 513 := by rfl
  rw [ht] at after
  have low : t.readNat 0 2 = t.readNat 0 8 % 2 ^ 16 := by
    simp only [State.readNat, State.readAt, Memory.read, leNat]
    omega
  have both : t.readNat 0 2 = 513 := after
  omega

end Sys2Proof.Machine
end

section
/-! PROOF. What an error record changes (R345): the log and the messages in the fabric, or the events that a journal period gathers;
the tables of partitions, dies, cores and grids as keyed lists; and what memory holds after a write. -/

namespace Sys2Proof.Machine

/-- A record that goes out at once is logged, and may put a message into the fabric. -/
theorem State.emitRecord_eq (s : State) (r : ErrReport) :
    ∃ l, s.emitRecord r = { s with errlog := s.errlog ++ [r], msgs := s.msgs ++ l } := by
  unfold State.emitRecord
  cases r.part with
  | none => exact ⟨[], by simp⟩
  | some p => exact ⟨[_], rfl⟩

theorem State.record_severe (s : State) {r : ErrReport} (h : r.sev ≠ 0) :
    ∃ l, s.record r = { s with errlog := s.errlog ++ [r], msgs := s.msgs ++ l } := by
  obtain ⟨l, hl⟩ := s.emitRecord_eq r
  exact ⟨l, by rw [State.record, if_pos h, hl]⟩

/-- A record of a partition sends one message of 8 words to the service core that its SVC names. -/
theorem State.record_severe_part (s : State) {r : ErrReport} {p : Nat} (h : r.sev ≠ 0) (hp : r.part = some p) :
    ∃ m, s.record r = { s with errlog := s.errlog ++ [r], msgs := s.msgs ++ [m] } ∧ m.len = 8 ∧
      m.destName = (s.partSvc p).toNat % 2 ^ 32 := by
  rw [State.record, if_pos h]
  unfold State.emitRecord
  rw [hp]
  exact ⟨_, rfl, rfl, rfl⟩

theorem State.record_severe_none (s : State) {r : ErrReport} (h : r.sev ≠ 0) (hp : r.part = none) :
    s.record r = { s with errlog := s.errlog ++ [r] } := by
  rw [State.record, if_pos h]
  simp only [State.emitRecord, hp]

/-- A corrected event is gathered. -/
theorem State.record_gathered (s : State) {r : ErrReport} (h : r.sev = 0) : ∃ l, s.record r = { s with recent := l } := by
  simp only [State.record, h, ne_eq, not_true_eq_false, if_false]
  split
  · exact ⟨_, rfl⟩
  · exact ⟨_, rfl⟩

/-- The first corrected event of its place and unit is gathered as it comes. -/
theorem State.record_first (s : State) {r : ErrReport} (h : r.sev = 0) (hf : ∀ q ∈ s.recent, q.unit ≠ r.unit) :
    s.record r = { s with recent := s.recent ++ [r] } := by
  have none : s.recent.any (fun q => decide (q.unit = r.unit ∧ q.array = r.array ∧ q.loc = r.loc ∧ q.name = r.name)) = false := by
    simp only [List.any_eq_false, decide_eq_true_eq]
    exact fun q hq same => hf q hq same.1
  simp only [State.record, h, ne_eq, not_true_eq_false, if_false, none]
  rfl

/-- Whatever is recorded, the rest of the state is as it was. -/
theorem State.record_eq (s : State) (r : ErrReport) :
    ∃ l m q, s.record r = { s with errlog := s.errlog ++ l, msgs := s.msgs ++ m, recent := q } := by
  by_cases h : r.sev = 0
  · obtain ⟨q, hq⟩ := s.record_gathered h
    exact ⟨[], [], q, by rw [hq]; simp⟩
  · obtain ⟨m, hm⟩ := s.record_severe h
    exact ⟨[r], m, s.recent, by rw [hm]⟩

@[simp] theorem State.record_parts (s : State) (r : ErrReport) : (s.record r).parts = s.parts := by
  obtain ⟨l, m, q, h⟩ := s.record_eq r
  rw [h]
@[simp] theorem State.record_dies (s : State) (r : ErrReport) : (s.record r).dies = s.dies := by
  obtain ⟨l, m, q, h⟩ := s.record_eq r
  rw [h]
@[simp] theorem State.record_grids (s : State) (r : ErrReport) : (s.record r).grids = s.grids := by
  obtain ⟨l, m, q, h⟩ := s.record_eq r
  rw [h]
@[simp] theorem State.record_outputs (s : State) (r : ErrReport) : (s.record r).outputs = s.outputs := by
  obtain ⟨l, m, q, h⟩ := s.record_eq r
  rw [h]
@[simp] theorem State.record_free (s : State) (r : ErrReport) : (s.record r).free = s.free := by
  obtain ⟨l, m, q, h⟩ := s.record_eq r
  rw [h]

/-! ### Keyed lists, and the tables that are kept in them -/

@[simp] theorem keyFind_keySet_same {α : Type} (l : List (Nat × α)) (n : Nat) (x : α) : keyFind (keySet l n x) n = some x := by
  induction l with
  | nil => simp [keySet, keyFind]
  | cons e r ih =>
    obtain ⟨k, v⟩ := e
    rw [keySet]
    split
    · simp [keyFind]
    · split
      · simp [keyFind]
      · rw [keyFind, if_neg (by omega), ih]

theorem keyFind_keySet_other {α : Type} (l : List (Nat × α)) {n m : Nat} (x : α) (h : m ≠ n) :
    keyFind (keySet l n x) m = keyFind l m := by
  induction l with
  | nil => simp [keySet, keyFind, h.symm]
  | cons e r ih =>
    obtain ⟨k, v⟩ := e
    rw [keySet]
    split
    · rw [keyFind, if_neg (by omega)]
    · split
      · rw [keyFind, if_neg (by omega), keyFind, if_neg (by omega)]
      · rw [keyFind, ih, keyFind]

@[simp] theorem keyFind_keyDel_same {α : Type} (l : List (Nat × α)) (n : Nat) : keyFind (keyDel l n) n = none := by
  induction l with
  | nil => rfl
  | cons e r ih =>
    obtain ⟨k, v⟩ := e
    by_cases h : k = n
    · simpa [keyDel, h] using ih
    · simpa [keyDel, h, keyFind] using ih

theorem keyFind_some_mem {α : Type} {l : List (Nat × α)} {n : Nat} {x : α} (h : keyFind l n = some x) : (n, x) ∈ l := by
  induction l with
  | nil => cases h
  | cons e r ih =>
    obtain ⟨k, v⟩ := e
    rw [keyFind] at h
    split at h
    · next same =>
      cases h
      exact same ▸ List.mem_cons_self
    · exact List.mem_cons_of_mem _ (ih h)

@[simp] theorem State.part_modPart (s : State) (p : Nat) (f : Partition → Partition) : (s.modPart p f).part p = f (s.part p) :=
  keyGet_keySet_same ..
theorem State.part_modPart_other (s : State) {p q : Nat} (f : Partition → Partition) (h : q ≠ p) : (s.modPart p f).part q = s.part q :=
  keyGet_keySet_other _ _ _ h
theorem State.die_modDie_other (s : State) {d e : Nat} (f : Die → Die) (h : e ≠ d) : (s.modDie d f).die e = s.die e :=
  s.die_setDie_other _ h
theorem State.tile_modTile_other (s : State) {k j : Nat} (f : Tile → Tile) (h : j ≠ k) : (s.modTile k f).tile j = s.tile j :=
  s.tile_setTile_other _ h

/-- A change of a grid that is there. -/
theorem State.modGrid_some {s : State} {n : Nat} {g : Grid} (h : s.grid? n = some g) (f : Grid → Grid) :
    s.modGrid n f = { s with grids := keySet s.grids n (f g) } := by
  have found : keyFind s.grids n = some g := h
  simp only [State.modGrid, found]
theorem State.grid?_modGrid {s : State} {n : Nat} {g : Grid} (h : s.grid? n = some g) (f : Grid → Grid) :
    (s.modGrid n f).grid? n = some (f g) := by
  rw [State.modGrid_some h]
  exact keyFind_keySet_same ..
/-- A change of a grid changes nothing but the grids. -/
theorem State.modGrid_eq (s : State) (n : Nat) (f : Grid → Grid) : s.modGrid n f = { s with grids := (s.modGrid n f).grids } := by
  unfold State.modGrid
  split <;> rfl

/-! ### Bytes and values in memory (R4) -/

theorem Memory.read_congr {m m' : List Host.Cell} (a n : Nat) (h : ∀ i, a ≤ i → i < a + n → Memory.get m i = Memory.get m' i) :
    Memory.read m a n = Memory.read m' a n := by
  induction n generalizing a with
  | zero => rfl
  | succ n ih => rw [Memory.read, Memory.read, h a (by omega) (by omega), ih (a + 1) fun i hi hi' => h i (by omega) (by omega)]

@[simp] theorem leNat_leBytes (n x : Nat) : leNat (leBytes n x) = x % 2 ^ (8 * n) := by
  induction n generalizing x with
  | zero => rw [leBytes, leNat, Nat.mul_zero, Nat.pow_zero, Nat.mod_one]
  | succ n ih =>
    have digit : x % 2 ^ (8 * (n + 1)) = x % 256 + 256 * (x / 256 % 2 ^ (8 * n)) := by
      rw [Nat.mul_add, Nat.mul_one, Nat.pow_add, Nat.mul_comm (2 ^ (8 * n)), Nat.mod_mul]
    rw [leBytes, leNat, ih, digit, BitVec.toNat_ofNat]

section
variable {s : State} (canonical : Memory.wf s.mem = true)
include canonical

theorem State.readAt_writeKey (key : Nat) (d : List Byte) (tag : Bool) : (s.writeKey key d tag).readAt key d.length = d :=
  Memory.read_write key d canonical

theorem State.readAt_writeKey_other {key n a : Nat} {d : List Byte} (tag : Bool) (apart : a + n ≤ key ∨ key + d.length ≤ a) :
    (s.writeKey key d tag).readAt a n = s.readAt a n :=
  Memory.read_congr a n fun i hi hi' => Memory.get_write_other key d i canonical (by omega)

theorem State.readNat_writeNat (key n x : Nat) : (s.writeNat key n x).readNat key n = x % 2 ^ (8 * n) := by
  have written := State.readAt_writeKey canonical key (leBytes n x) false
  rw [leBytes_length] at written
  rw [State.readNat, State.writeNat, written, leNat_leBytes]

theorem State.readNat_writeNat_other {key n x a m : Nat} (apart : a + m ≤ key ∨ key + n ≤ a) :
    (s.writeNat key n x).readNat a m = s.readNat a m :=
  congrArg leNat (State.readAt_writeKey_other canonical false (by rwa [leBytes_length]))

end

end Sys2Proof.Machine
end

section
/-! PROOF. Hosts: their loads and stores of device memory, the lines that they hold, and the ports that they come through (R134,
R308 to R311, R432 to R434). -/

namespace Sys2Proof.Machine

/-! ### Places of host offsets (R309) -/

theorem insertBy_length {α : Type} (f : α → α → Bool) (x : α) (l : List α) : (insertBy f x l).length = l.length + 1 := by
  induction l with
  | nil => rfl
  | cons y r ih =>
    rw [insertBy]
    split
    · rfl
    · simp [ih]

theorem foldl_insertBy_length {α : Type} (f : α → α → Bool) (l r : List α) :
    (l.foldl (fun r x => insertBy f x r) r).length = r.length + l.length := by
  induction l generalizing r with
  | nil => rfl
  | cons x l ih =>
    rw [List.foldl_cons, ih, insertBy_length, List.length_cons]
    omega

@[simp] theorem orderBy_length {α : Type} (f : α → α → Bool) (l : List α) : (orderBy f l).length = l.length := by
  rw [orderBy, foldl_insertBy_length, List.length_nil, Nat.zero_add]

theorem State.hdmAddr_single {s : State} {p off h : Nat} (hh : (s.part p).hbms = [h]) (ho : off < Config.stackBytes) :
    s.hdmAddr p off = some (h * Config.stackBytes + off) := by
  have first : off / Config.stackBytes = 0 := Nat.div_eq_of_lt ho
  simp only [State.hdmAddr, hh, first, Nat.mod_eq_of_lt ho]
  rfl

theorem State.hdmAddr_beyond {s : State} {p off : Nat} (h : (s.part p).hbms.length * Config.stackBytes ≤ off) : s.hdmAddr p off = none := by
  have beyond : (orderBy (fun (a b : Nat) => decide (a < b)) (s.part p).hbms).length ≤ off / Config.stackBytes := by
    rw [orderBy_length]
    exact (Nat.le_div_iff_mul_le (by decide)).mpr h
  rw [State.hdmAddr, List.getElem?_eq_none beyond]
  rfl

/-! ### Grants to engines, and lines that hosts hold (R126, R309) -/

theorem State.granted_iff (s : State) (a n : Nat) : s.granted a n = true ↔
    ∃ e ∈ s.tiles, ∃ x ∈ e.2.xfers, ∃ l ∈ x.grants, 64 * l.1 < a + n ∧ a < 64 * l.1 + 64 := by
  simp [State.granted, meets]

theorem State.granted_eq_false {s : State} {a n : Nat}
    (h : ∀ e ∈ s.tiles, ∀ x ∈ e.2.xfers, ∀ l ∈ x.grants, a + n ≤ 64 * l.1 ∨ 64 * l.1 + 64 ≤ a) : s.granted a n = false := by
  rw [Bool.eq_false_iff, ne_eq, State.granted_iff]
  rintro ⟨e, he, x, hx, l, hl, below, above⟩
  have apart := h e he x hx l hl
  omega

theorem mem_lineStarts {a n l : Nat} (hl : l % 64 = 0) (below : l < a + n) (above : a < l + 64) : l ∈ lineStarts a n := by
  have index : (a / 64 + (l / 64 - a / 64)) * 64 = l := by omega
  simp only [lineStarts, List.mem_filter, List.mem_map, List.mem_range, decide_eq_true_eq]
  exact ⟨⟨l / 64 - a / 64, by omega, index⟩, below⟩

/-- After a host has read a range it may hold every line of it. -/
theorem State.hostHolds_line (s : State) (p : Nat) {a n l : Nat} (h : l ∈ lineStarts a n) : ∃ z, (l, z) ∈ (s.hostHolds p a n).snoops := by
  by_cases held : ∃ x ∈ s.snoops, x.1 = l
  · obtain ⟨x, hx, rfl⟩ := held
    exact ⟨x.2, List.mem_append_left _ hx⟩
  · refine ⟨p, List.mem_append_right _ (List.mem_map.mpr ⟨l, List.mem_filter.mpr ⟨h, ?_⟩, rfl⟩)⟩
    have none : s.snoops.any (fun x => decide (x.1 = l)) = false := by
      simp only [List.any_eq_false, decide_eq_true_eq]
      exact fun x hx same => held ⟨x, hx, same⟩
    rw [none]
    rfl

/-! ### Loads and stores of a host -/

section
variable {s : State} {p off h : Nat} (hh : (s.part p).hbms = [h]) (ho : off < Config.stackBytes)
include hh ho

theorem hostMemStore_performed {d : List Byte} (fits : off + d.length ≤ Config.stackBytes)
    (free : s.granted (h * Config.stackBytes + off) d.length = false) :
    exec (.hostMemStore p off d) s = .next (s.writeKey (h * Config.stackBytes + off) d false) := by
  show execHostMemStore p off d s = _
  rw [execHostMemStore, State.hdmAddr_single hh ho]
  simp only [free, Nat.mod_eq_of_lt ho, Nat.not_lt.mpr fits, Bool.false_eq_true, or_self, if_false]

theorem hostMemStore_granted {d : List Byte} (taken : s.granted (h * Config.stackBytes + off) d.length = true) :
    exec (.hostMemStore p off d) s = .next s := by
  show execHostMemStore p off d s = _
  rw [execHostMemStore, State.hdmAddr_single hh ho]
  simp only [taken, or_true, if_true]

theorem hostMemRead_granted {n : Nat} (taken : s.granted (h * Config.stackBytes + off) n = true) :
    exec (.hostMemRead p off n) s = .next s := by
  show execHostMemRead p off n s = _
  rw [execHostMemRead, State.hdmAddr_single hh ho]
  simp only [taken, true_or, or_true, if_true]

theorem hostMemRead_pending {n : Nat} {w : RWrite} (hw : w ∈ s.rwrites) (acked : 56 ∈ w.acks)
    (below : w.key < h * Config.stackBytes + off + n) (above : h * Config.stackBytes + off < w.key + w.data.length) :
    exec (.hostMemRead p off n) s = .next s := by
  have pending : s.rwrites.any (fun w => meets (h * Config.stackBytes + off) n w.key w.data.length && w.acks.contains 56) = true :=
    List.any_eq_true.mpr ⟨w, hw, by simp [meets, above, below, acked]⟩
  show execHostMemRead p off n s = _
  rw [execHostMemRead, State.hdmAddr_single hh ho]
  simp only [pending, or_true, if_true]

/-- A read that nothing holds back: data of the home where it is sound, and no data otherwise. -/
theorem hostMemRead_served {n : Nat} (fits : off + n ≤ Config.stackBytes) (free : s.granted (h * Config.stackBytes + off) n = false)
    (settled : ∀ w ∈ s.rwrites, 56 ∉ w.acks ∨ h * Config.stackBytes + off + n ≤ w.key ∨ w.key + w.data.length ≤ h * Config.stackBytes + off) :
    exec (.hostMemRead p off n) s = .next (if s.isBad (h * Config.stackBytes + off) n then
      State.record { s with outputs := s.outputs ++ [.hostData none, .aer p] }
        (unitRecord 2 7 (s.arrayAt (h * Config.stackBytes + off) n) (h * Config.stackBytes + off) (some p))
      else State.hostHolds { s with outputs := s.outputs ++ [.hostData (some (s.readAt (h * Config.stackBytes + off) n))] } p
        (h * Config.stackBytes + off) n) := by
  have none : s.rwrites.any (fun w => meets (h * Config.stackBytes + off) n w.key w.data.length && w.acks.contains 56) = false := by
    simp only [List.any_eq_false, meets, Bool.and_eq_true, decide_eq_true_eq, List.contains_iff_mem]
    rintro w hw ⟨⟨below, above⟩, acked⟩
    rcases settled w hw with unacked | apart
    · exact unacked acked
    · omega
  show execHostMemRead p off n s = _
  rw [execHostMemRead, State.hdmAddr_single hh ho]
  simp only [free, none, Nat.mod_eq_of_lt ho, Nat.not_lt.mpr fits, Bool.false_eq_true, or_self, if_false]
  split <;> rfl

end

/-! ### Snoops (R309, R432) -/

theorem State.answerSnoop_none (s : State) (i : Nat) (l : Nat × Nat) :
    s.answerSnoop i l none = { s with snoops := s.snoops.eraseIdx i, outputs := s.outputs ++ [.snoop l.1] } := rfl

theorem backInvalidateResponse_ok {s : State} {i : Nat} {l : Nat × Nat} (h : s.snoops[i]? = some l) (d : Option (List Byte)) :
    exec (.backInvalidateResponse i d) s = .next (s.answerSnoop i l d) := by
  show execBackInvalidateResponse i d s = _
  rw [execBackInvalidateResponse, h]

theorem snoopTimeout_ok {s : State} {i : Nat} {l : Nat × Nat} (h : s.snoops[i]? = some l) :
    exec (.snoopTimeout i) s = .next ((s.answerSnoop i l none).record (unitRecord 0 7 0xFF l.1 (some l.2))) := by
  show execSnoopTimeout i s = _
  rw [execSnoopTimeout, h]

theorem snoop_absent {s : State} {i : Nat} (h : s.snoops[i]? = none) (d : Option (List Byte)) :
    exec (.backInvalidateResponse i d) s = .next s ∧ exec (.snoopTimeout i) s = .next s := by
  constructor
  · show execBackInvalidateResponse i d s = _
    rw [execBackInvalidateResponse, h]
  · show execSnoopTimeout i s = _
    rw [execSnoopTimeout, h]

/-! ### Lines of host memory (R134, R433) -/

theorem linesOf_line (n : Nat) : linesOf (n * 64) 64 = [n] := by
  have one : (n * 64 + 64 + 63) / 64 - n * 64 / 64 = 1 := by omega
  have start : n * 64 / 64 = n := by omega
  rw [linesOf, one, start]
  simp

theorem cxlCacheResponse_mapped {s : State} {pa : Nat} (h : s.hostMapped (pa / 64 * 64) = true) (d : Option (List Byte)) (bad : Bool) :
    ∃ u : State, u.tiles = s.tiles ∧
      (u = match d with
        | none => s.hostTake (pa / 64 * 64) 64
        | some b => if b.length = 64 then (s.writeKey (pa / 64 * 64) b false).hostGiveBack (pa / 64 * 64) else s) ∧
      exec (.cxlCacheResponse pa d bad) s = .next (if bad then
        { u with bad := u.bad ++ ((List.range 8).map (fun i => pa / 64 * 64 / 8 + i)).filter (fun w => !u.bad.contains w) } else u) := by
  refine ⟨_, ?_, rfl, ?_⟩
  · cases d with
    | none =>
      simp only [State.hostTake]
      split <;> rfl
    | some b =>
      dsimp only
      split <;> rfl
  · show execCxlCacheResponse pa d bad s = _
    simp only [execCxlCacheResponse, h, Bool.not_true, Bool.false_eq_true, if_false]
    rfl

/-- The line of a mapped address lies in host memory. -/
theorem State.hostMapped_isHost {s : State} {a : Nat} (h : s.hostMapped a = true) : isHost a = true := by
  simp only [State.hostMapped, Bool.and_eq_true] at h
  exact h.1

theorem mem_hostTake {s : State} {n : Nat} (h : isHost (n * 64) = true) (l : Nat) :
    l ∈ (s.hostTake (n * 64) 64).hostOwned ↔ l = n ∨ l ∈ s.hostOwned := by
  simp only [State.hostTake, h, Bool.not_true, Bool.false_eq_true, if_false, linesOf_line, List.mem_append, List.mem_filter,
    List.mem_singleton, Bool.not_eq_true', List.contains_eq_mem, decide_eq_false_iff_not]
  constructor
  · rintro (held | ⟨rfl, -⟩)
    · exact .inr held
    · exact .inl rfl
  · rintro (rfl | held)
    · by_cases held : l ∈ s.hostOwned
      · exact .inl held
      · exact .inr ⟨rfl, held⟩
    · exact .inl held

/-- A word of a poisoned line is uncorrectable. -/
theorem isBad_poisoned (u : State) (n : Nat) :
    State.isBad { u with bad := u.bad ++ ((List.range 8).map (fun i => n * 64 / 8 + i)).filter (fun w => !u.bad.contains w) } (n * 64) 64 = true := by
  rw [State.isBad, List.any_eq_true]
  refine ⟨n * 64 / 8, ?_, by simp only [decide_eq_true_eq]; omega⟩
  by_cases bad : n * 64 / 8 ∈ u.bad
  · exact List.mem_append_left _ bad
  · refine List.mem_append_right _ (List.mem_filter.mpr ⟨List.mem_map.mpr ⟨0, by decide, by omega⟩, ?_⟩)
    simpa using bad

/-! ### Ports (R432) -/

/-- A host window once the port has gone down: disabled where it is on that port. -/
def HostWin.afterDown (port : Nat) (w : HostWin) : HostWin :=
  if bf w.ctl.toNat 1 3 = port then { w with ctl := BitVec.ofNat 64 (w.ctl.toNat - w.ctl.toNat % 2) } else w

theorem keyGet_map_value {α : Type} (f : α → α) (d : α) (hd : f d = d) (l : List (Nat × α)) (n : Nat) :
    keyGet d (l.map (fun e => (e.1, f e.2))) n = f (keyGet d l n) := by
  induction l with
  | nil => exact hd.symm
  | cons e r ih =>
    rw [List.map_cons, keyGet, keyGet, ih]
    split <;> rfl

theorem HostWin.afterDown_reset (port : Nat) : HostWin.reset.afterDown port = HostWin.reset := by
  unfold HostWin.afterDown
  split <;> rfl

theorem State.portDown_window (s : State) (port p : Nat) (n : Fin 8) :
    ((s.portDown port).part p).windows[n] = (((s.part p).windows[n]).afterDown port) := by
  have parts : (s.portDown port).parts =
      s.parts.map (fun e => (e.1, { e.2 with windows := e.2.windows.map (HostWin.afterDown port) })) := by
    simp only [State.portDown, decide_eq_true_eq]
    rfl
  have reset : ({ Partition.reset with windows := Partition.reset.windows.map (HostWin.afterDown port) } : Partition) = Partition.reset := by
    have windows : Partition.reset.windows.map (HostWin.afterDown port) = Partition.reset.windows := by
      refine Vector.ext fun i hi => ?_
      simp only [Vector.getElem_map]
      show (HostWin.afterDown port (Vector.replicate 8 HostWin.reset)[i]) = (Vector.replicate 8 HostWin.reset)[i]
      rw [Vector.getElem_replicate, HostWin.afterDown_reset]
    rw [windows]
  rw [State.part, parts, keyGet_map_value (fun q : Partition => { q with windows := q.windows.map (HostWin.afterDown port) }) _ reset]
  simp only [Fin.getElem_fin, Vector.getElem_map]
  rfl

/-- Settles O52: each access is that of its one home, and each answer of a host changes the lines and windows that it names. -/
theorem hostAccesses : Obligations.HostAccesses := by
  unfold Obligations.HostAccesses
  refine ⟨?_, ?_, ?_, ?_, ?_, ?_⟩
  · rintro s p off h a hh ho rfl
    refine ⟨fun d fits apart => hostMemStore_performed hh ho fits (State.granted_eq_false apart), ?_, ?_, ?_⟩
    · intro n e x l he hx hl below above
      have taken : s.granted (h * Config.stackBytes + off) n = true := (State.granted_iff ..).mpr ⟨e, he, x, hx, l, hl, below, above⟩
      exact ⟨fun d hd => hostMemStore_granted hh ho (hd ▸ taken), hostMemRead_granted hh ho taken⟩
    · exact fun n w hw acked below above => hostMemRead_pending hh ho hw acked below above
    · intro n fits apart settled
      have served := hostMemRead_served hh ho fits (State.granted_eq_false apart) settled
      constructor
      · intro sound
        rw [sound] at served
        exact ⟨_, served, rfl, fun l aligned below above _ => State.hostHolds_line _ p (mem_lineStarts aligned below above), rfl⟩
      · intro bad
        rw [bad] at served
        obtain ⟨l, hl⟩ := State.record_severe { s with outputs := s.outputs ++ [.hostData none, .aer p] }
          (r := unitRecord 2 7 (s.arrayAt (h * Config.stackBytes + off) n) (h * Config.stackBytes + off) (some p)) (by show 2 ≠ 0; decide)
        rw [if_pos rfl, hl] at served
        exact ⟨_, _, served, rfl, rfl, rfl, rfl, rfl, rfl, rfl⟩
  · intro s p off beyond
    have none := State.hdmAddr_beyond beyond
    constructor
    · intro d
      show execHostMemStore p off d s = _
      rw [execHostMemStore, none]
    · intro n
      show execHostMemRead p off n s = _
      rw [execHostMemRead, none]
  · intro s i
    refine ⟨fun absent => ⟨fun d => (snoop_absent absent d).1, (snoop_absent absent none).2⟩, fun l hl => ⟨?_, ?_, ?_⟩⟩
    · rw [backInvalidateResponse_ok hl, State.answerSnoop_none]
    · intro b hb
      refine ⟨_, backInvalidateResponse_ok hl _, ?_, ?_, ?_⟩ <;> simp only [State.answerSnoop, hb, if_true] <;> rfl
    · intro others
      refine ⟨_, _, (snoopTimeout_ok hl).trans (congrArg _ (State.record_first _ rfl others)), rfl, rfl, rfl, rfl, rfl, rfl⟩
  · intro s pa d bad
    constructor
    · intro unmapped
      show execCxlCacheResponse pa d bad s = _
      simp only [execCxlCacheResponse, unmapped, Bool.not_false, if_true]
    · intro mapped
      obtain ⟨u, tiles, hu, he⟩ := cxlCacheResponse_mapped mapped d bad
      refine ⟨?_, ?_, ?_⟩
      · rintro b rfl hb rfl
        have line : pa / 64 * 64 / 64 = pa / 64 := by omega
        simp only [hb, if_true] at hu
        refine ⟨u, he, ?_, ?_, fun l other => ?_⟩
        · rw [hu]
          simp [State.hostGiveBack, line]
        · rw [hu]
          rfl
        · rw [hu]
          simp [State.hostGiveBack, line, other]
      · rintro rfl rfl
        refine ⟨u, he, fun l => ?_, ?_⟩
        · rw [hu]
          exact mem_hostTake (State.hostMapped_isHost mapped) l
        · rw [hu]
          simp only [State.hostTake]
          split <;> rfl
      · rintro rfl
        exact ⟨_, he, isBad_poisoned u (pa / 64), tiles⟩
  · intro s port hp
    refine ⟨s.portDown port, ?_, rfl, fun p n => ?_⟩
    · show execCxlLinkDown port s = _
      rw [execCxlLinkDown, if_pos hp]
    · rw [State.portDown_window, HostWin.afterDown]
      refine ⟨by split <;> rfl, fun other => if_neg other, fun same => ?_⟩
      have fits := ((s.part p).windows[n]).ctl.isLt
      rw [if_pos same, BitVec.toNat_ofNat, Nat.mod_eq_of_lt (by omega)]
      omega
  · intro s port x
    constructor
    · intro off
      show execCxlConfigRequest ⟨port, x⟩ s = _
      simp only [execCxlConfigRequest, State.configAnswer, ne_eq, off, not_false_eq_true, if_true]
    · intro running
      refine ⟨?_, ?_⟩
      · show execCxlConfigRequest ⟨port, none⟩ s = _
        simp only [execCxlConfigRequest, State.configAnswer, ne_eq, running, not_true_eq_false, if_false]
      · rintro p o n rfl
        constructor
        · intro presented
          have shown : s.presents port p = true := by
            rcases presented with h | h <;> simp [State.presents, h]
          show execCxlConfigRequest ⟨port, some (p, o, n)⟩ s = _
          simp only [execCxlConfigRequest, State.configAnswer, ne_eq, running, not_true_eq_false, if_false, shown, if_true]
        · intro q attached other
          have hidden : s.presents port p = false := by simp [State.presents, attached, other]
          show execCxlConfigRequest ⟨port, some (p, o, n)⟩ s = _
          simp only [execCxlConfigRequest, State.configAnswer, ne_eq, running, not_true_eq_false, if_false, hidden,
            Bool.false_eq_true]

end Sys2Proof.Machine
end

section
/-! PROOF. Messages at their destinations: what is admitted, what is refused, and what is dropped (R46, R47, R279, R356, R357, R429). -/

namespace Sys2Proof.Machine

/-! ### Admission (R46, R47) -/

theorem Tile.cls_modCls (t : Tile) {c : Nat} (f : ClassEntry → ClassEntry) (h : c < 16) : (t.modCls c f).cls c = f (t.cls c) := by
  simp [Tile.modCls, Tile.cls, h]

theorem Tile.accept_disabled {t : Tile} {m : InMsg} (h : (t.cls m.cls).en = false) (room : Nat) :
    t.accept m room = some (t.discard m.cls 1) := by
  simp only [Tile.accept, h, Bool.not_false, if_true]

section
variable {t : Tile} {m : InMsg} (en : (t.cls m.cls).en = true)
include en

theorem Tile.accept_fifo (fifo : (t.cls m.cls).ranked = false) (room : Nat) : t.accept m room = t.acceptFifo m room := by
  simp only [Tile.accept, en, fifo, Bool.not_true, Bool.false_eq_true, if_false]

theorem Tile.accept_hardware (fifo : (t.cls m.cls).ranked = false) (none : ∀ x ∈ t.spilled, x.cls ≠ m.cls) (free : t.fifoUsed < t.fifoRoom)
    (room : Nat) : t.accept m room = some { t with inbox := t.inbox ++ [m] } := by
  have unspilled : t.spilled.any (fun x => decide (x.cls = m.cls)) = false := by simpa using none
  rw [Tile.accept_fifo en fifo, Tile.acceptFifo]
  simp only [unspilled, free, Bool.not_false, decide_true, Bool.and_self, if_true]

/-- An arrival that the hardware entries do not take: the spill region takes it while it has room. -/
theorem Tile.accept_spill (fifo : (t.cls m.cls).ranked = false) (full : (∃ x ∈ t.spilled, x.cls = m.cls) ∨ t.fifoRoom ≤ t.fifoUsed)
    (room : Nat) : t.accept m room = if t.spilled.length < room then some { t with spilled := t.spilled ++ [m] } else none := by
  have taken : (!t.spilled.any (fun x => decide (x.cls = m.cls)) && decide (t.fifoUsed < t.fifoRoom)) = false := by
    rcases full with held | full
    · have spilled : t.spilled.any (fun x => decide (x.cls = m.cls)) = true := by simpa using held
      rw [spilled]
      rfl
    · simp [full]
  rw [Tile.accept_fifo en fifo, Tile.acceptFifo]
  simp only [taken, Bool.false_eq_true, if_false]

/-- A NaN key and a pair that is held are counted as an arrival and discarded. -/
theorem Tile.accept_ranked (ranked : (t.cls m.cls).ranked = true)
    (h : keyNan ((m.data.headD 0).toNat % 2 ^ 32) = true ∨ ∃ x ∈ t.held m.cls, x.key = m.key) (room : Nat) :
    t.accept m room = some ((t.countArrival m.cls).discard m.cls 1) := by
  have rejected : (keyNan ((m.data.headD 0).toNat % 2 ^ 32) || ((t.countArrival m.cls).held m.cls).any (fun x => decide (x.key = m.key))) = true := by
    rcases h with nan | ⟨x, hx, same⟩
    · rw [nan, Bool.true_or]
    · rw [Bool.or_eq_true]
      exact .inr (List.any_eq_true.mpr ⟨x, hx, decide_eq_true same⟩)
  simp only [Tile.accept, en, ranked, Bool.not_true, Bool.false_eq_true, if_false, if_true, Tile.acceptRanked, rejected]

end

/-! ### Delivery (R279) -/

/-- Entries of an inbox without a number keep their places when an entry of that number loses its own. -/
theorem map_place_of_ne {l : List InMsg} {n : Nat} (h : ∀ x ∈ l, x.arrival ≠ n) :
    l.map (fun x => if x.arrival = n then { x with place := [] } else x) = l := by
  conv_rhs => rw [← List.map_id l]
  exact List.map_congr_left fun x hx => if_neg (h x hx)

theorem classEvent_delivers {s : State} {i : Nat} {m : Msg} {e : Instr} (h : classEvent s i m e) : exec e s = .next (s.deliver i m) := by
  obtain ⟨hm, class', current, leads, ⟨fresh, rfl⟩ | ⟨refused, rfl⟩⟩ := h
  · show execMessageArrival i s = _
    simp [execMessageArrival, hm, class', current, leads, fresh]
  · show execMessageRetry i s = _
    simp [execMessageRetry, hm, class', current, leads, refused]

theorem State.deliver_refused {s : State} {m : Msg} (h : s.receives m.dest = false) (i : Nat) : s.deliver i m = s.refuseMsg i m := by
  simp only [State.deliver, h, Bool.not_false, if_true]

/-- The entry that a message makes at its destination: number `s.free`, with a place in the spill region. -/
def State.arrivalOf (s : State) (m : Msg) : InMsg :=
  { m.entry s.free with place := State.spillPlace { s with free := s.free + 1 } m.dest }

section
variable {s : State} {m : Msg} (receives : s.receives m.dest = true)
include receives

/-- An entry that is admitted to the hardware, or discarded. -/
theorem State.deliver_admitted {t : Tile} (i : Nat) (h : (s.tile m.dest).accept (s.arrivalOf m) (s.spillRoom m.dest) = some t)
    (spilled : t.spilled = (s.tile m.dest).spilled) :
    s.deliver i m = State.setTile { s with free := s.free + 1, msgs := s.msgs.eraseIdx i } m.dest
      { t with inbox := t.inbox.map (fun x => if x.arrival = s.free then { x with place := [] } else x) } := by
  have accepted : (State.tile { s with free := s.free + 1 } m.dest).accept
      { m.entry s.free with place := State.spillPlace { s with free := s.free + 1 } m.dest }
      (State.spillRoom { s with free := s.free + 1 } m.dest) = some t := h
  have same : t.spilled.length = (State.tile { s with free := s.free + 1 } m.dest).spilled.length := congrArg List.length spilled
  simp only [State.deliver, receives, Bool.not_true, Bool.false_eq_true, if_false, State.fresh, accepted, same, if_true]
  rfl

/-- An entry that is admitted to the spill region. -/
theorem State.deliver_spilled {t : Tile} (i : Nat) (h : (s.tile m.dest).accept (s.arrivalOf m) (s.spillRoom m.dest) = some t)
    (spilled : t.spilled.length ≠ (s.tile m.dest).spilled.length) :
    s.deliver i m = ((State.setTile { s with free := s.free + 1 } m.dest t).spillWrite (s.arrivalOf m).place).dropMsg i := by
  have accepted : (State.tile { s with free := s.free + 1 } m.dest).accept
      { m.entry s.free with place := State.spillPlace { s with free := s.free + 1 } m.dest }
      (State.spillRoom { s with free := s.free + 1 } m.dest) = some t := h
  have longer : t.spilled.length ≠ (State.tile { s with free := s.free + 1 } m.dest).spilled.length := spilled
  simp only [State.deliver, receives, Bool.not_true, Bool.false_eq_true, if_false, State.fresh, accepted, longer]
  rfl

theorem State.deliver_full (i : Nat) (h : (s.tile m.dest).accept (s.arrivalOf m) (s.spillRoom m.dest) = none) :
    s.deliver i m = State.refuseMsg { s with free := s.free + 1 } i m := by
  have accepted : (State.tile { s with free := s.free + 1 } m.dest).accept
      { m.entry s.free with place := State.spillPlace { s with free := s.free + 1 } m.dest }
      (State.spillRoom { s with free := s.free + 1 } m.dest) = none := h
  simp only [State.deliver, receives, Bool.not_true, Bool.false_eq_true, if_false, State.fresh, accepted]

end

/-- What a spilled entry's bytes change: memory, and the counter of free values. -/
theorem State.spillWrite_eq (s : State) (l : List (Nat × Nat × Nat)) :
    (s.spillWrite l).tiles = s.tiles ∧ (s.spillWrite l).msgs = s.msgs := by
  induction l generalizing s with
  | nil => exact ⟨rfl, rfl⟩
  | cons p l ih =>
    obtain ⟨tiles, msgs⟩ := ih (State.writeKey { s with free := s.free + p.2.2 } p.2.1
      ((List.range p.2.2).map (fun i => Config.freeByte (s.free + i))) false)
    exact ⟨tiles, msgs⟩

theorem State.bare_eq_false_iff (s : State) (k : Nat) :
    s.bare k = false ↔ (s.tile k).task ≠ none ∨ (s.tile k).memberOf ≠ none ∨ s.savedOn k ≠ none := by
  rw [State.bare]
  cases (s.tile k).task <;> cases (s.tile k).memberOf <;> cases s.savedOn k <;> simp

theorem nextInterval_eq (n : Nat) : nextInterval n = if n = 0 then 64 else min 4096 (2 * n) := rfl

/-- A class message at its destination. -/
theorem classMessages : ClassMessages := by
  rintro s i m e u he rfl fresh
  have delivers := classEvent_delivers he
  refine ⟨fun receives => ⟨fun disabled => ?_, fun en fifo none free => ?_, fun en fifo full => ⟨fun room => ?_, fun room => ?_⟩,
    fun k en ranked hk hc rejected => ?_⟩, fun away => ⟨_, delivers.trans (congrArg _ (State.deliver_refused away i)), rfl, rfl, ?_⟩, ?_⟩
  · have accepted := Tile.accept_disabled (m := s.arrivalOf m) disabled (s.spillRoom m.dest)
    rw [delivers, State.deliver_admitted receives i accepted rfl]
    exact congrArg (fun l => Host.Outcome.next (State.setTile _ m.dest { (s.tile m.dest).discard m.cls 1 with inbox := l }))
      (map_place_of_ne fresh)
  · have accepted := Tile.accept_hardware (m := s.arrivalOf m) en fifo none free (s.spillRoom m.dest)
    rw [delivers, State.deliver_admitted receives i accepted rfl]
    have last : [s.arrivalOf m].map (fun x => if x.arrival = s.free then { x with place := [] } else x) =
        [(⟨m.srcName, m.cls, m.len, m.data, s.free, []⟩ : InMsg)] := by
      simp [State.arrivalOf, Msg.entry]
    simp only [List.map_append, map_place_of_ne fresh, last]
  · have accepted := Tile.accept_spill (m := s.arrivalOf m) en fifo full (s.spillRoom m.dest)
    rw [if_pos room] at accepted
    obtain ⟨tiles, msgs⟩ := ((State.setTile { s with free := s.free + 1 } m.dest
      { s.tile m.dest with spilled := (s.tile m.dest).spilled ++ [s.arrivalOf m] }).spillWrite_eq (s.arrivalOf m).place)
    refine ⟨_, s.arrivalOf m, delivers.trans (congrArg _ (State.deliver_spilled receives i accepted (by simp))), ?_, ?_, rfl, rfl, rfl, rfl,
      fun j other => ?_⟩
    · exact congrArg (List.eraseIdx · i) msgs
    · exact (State.tile_of_tiles tiles _).trans (State.tile_setTile ..)
    · exact (State.tile_of_tiles tiles _).trans (State.tile_setTile_other _ _ other)
  · have accepted := Tile.accept_spill (m := s.arrivalOf m) en fifo full (s.spillRoom m.dest)
    rw [if_neg (by omega)] at accepted
    exact ⟨_, delivers.trans (congrArg _ (State.deliver_full receives i accepted)), rfl⟩
  · subst hk
    have accepted := Tile.accept_ranked (m := s.arrivalOf m) en ranked rejected (s.spillRoom m.dest)
    refine ⟨_, delivers.trans (congrArg _ (State.deliver_admitted receives i accepted rfl)), rfl, ?_, ?_, ?_, ?_, fun j other => ?_⟩
    · rw [State.tile_setTile]
      exact map_place_of_ne fresh
    · rw [State.tile_setTile]
      rfl
    · rw [State.tile_setTile]
      show ((((s.tile m.dest).countArrival m.cls).discard m.cls 1).cls m.cls).discards = _
      rw [Tile.discard, Tile.cls_modCls _ _ hc, Tile.countArrival, Tile.cls_modCls _ _ hc]
    · rw [State.tile_setTile]
      show ((((s.tile m.dest).countArrival m.cls).discard m.cls 1).cls m.cls).arrivals = _
      rw [Tile.discard, Tile.cls_modCls _ _ hc, Tile.countArrival, Tile.cls_modCls _ _ hc]
    · exact State.tile_setTile_other _ _ other
  · rw [← State.bare_eq_false_iff]
    cases s.bare m.dest <;> simp
  · intro j k x hx
    show execMessageRetry (s.msgs.length + j) s = _
    rw [execMessageRetry, List.getElem?_eq_none (by omega), Nat.add_sub_cancel_left, hx]

/-! ### Wake-ups and drops (R223, R357, R429) -/

section
variable {s : State} {k : Nat}

theorem State.wakeCore_first (receives : s.receives k = true) (first : (s.tile k).wait.map (·.on) = some .firstWake) :
    s.wakeCore k = s.setTile k { s.tile k with wait := none, wake := false } := by
  rw [State.wakeCore, if_pos receives, if_pos first]
  rfl

theorem State.wakeCore_flag (h : s.receives k = true ∧ (s.tile k).wait.map (·.on) ≠ some .firstWake ∨
    s.receives k = false ∧ s.savedOn k = none) : s.wakeCore k = s.setTile k { s.tile k with wake := true } := by
  rcases h with ⟨receives, later⟩ | ⟨away, unsaved⟩
  · rw [State.wakeCore, if_pos receives, if_neg later]
    rfl
  · rw [State.wakeCore, if_neg (by rw [away]; exact Bool.false_ne_true), unsaved]
    rfl

theorem State.wakeCore_saved {n : Nat} (away : s.receives k = false) (saved : s.savedOn k = some n) :
    s.wakeCore k = s.modGrid n (fun g => { g with saved := g.saved.map (fun x => if x.core = k then { x with wake := true } else x) }) := by
  rw [State.wakeCore, if_neg (by rw [away]; exact Bool.false_ne_true), saved]

end

theorem wakeUpArrival_ok {s : State} {i : Nat} {m : Msg} (hm : s.msgs[i]? = some m) (wake : m.wake = true) (current : s.stale m.destName = false)
    (leads : s.leads i m = true) (site : m.dest < Config.tileSites) : exec (.wakeUpArrival i) s = .next ((s.dropMsg i).wakeCore m.dest) := by
  show execWakeUpArrival i s = _
  simp [execWakeUpArrival, hm, wake, current, leads, Nat.not_le.mpr site]

/-- A discarded message is counted, and nothing but grids changes. -/
theorem State.countDrop_eq (s : State) (m : Msg) : s.countDrop m = { s with grids := (s.countDrop m).grids } := by
  unfold State.countDrop
  split
  · rfl
  · exact s.modGrid_eq ..

theorem State.countDrop_grid {s : State} {m : Msg} {a : Nat} {g : Grid} (hm : m.grid = some a) (hg : s.grid? a = some g)
    (open' : g.phase ≠ .severed) : (s.countDrop m).grid? a = some { g with msgdrop := g.msgdrop + 1 } := by
  rw [State.countDrop, hm]
  exact (State.grid?_modGrid hg _).trans (by rw [if_neg open'])

/-- Wake-ups, and messages that are dropped. -/
theorem wakeUpsAndDrops : WakeUpsAndDrops := by
  rintro s i m u hm rfl
  refine ⟨fun wake current leads site => ?_, fun n limit refused hl bare => ⟨fun early => ?_, fun set late => ?_⟩, fun stale => ?_,
    fun j k n x hs hx => ?_⟩
  · have arrives := wakeUpArrival_ok hm wake current leads site
    refine ⟨fun receives first => ?_, fun flag => ?_, fun n g away saved hg => ?_⟩
    · rw [arrives, State.wakeCore_first (s := s.dropMsg i) receives first]
      rfl
    · rw [arrives, State.wakeCore_flag (s := s.dropMsg i) flag]
      rfl
    · rw [State.wakeCore_saved (s := s.dropMsg i) away saved] at arrives
      have found : (s.dropMsg i).grid? n = some g := hg
      refine ⟨_, _, arrives, ?_, ?_, State.grid?_modGrid found _, rfl, rfl⟩
      · rw [State.modGrid_some found]
        rfl
      · rw [State.modGrid_some found]
        rfl
  · subst hl
    show execMessageRefusalDiscard i s = _
    rw [execMessageRefusalDiscard, hm]
    simp only [refused, Bool.not_eq_true']
    rw [if_pos (by tauto)]
  · subst hl
    have discards : exec (.messageRefusalDiscard i) s = .next ((s.dropMsg i).countDrop m) := by
      show execMessageRefusalDiscard i s = _
      rw [execMessageRefusalDiscard, hm]
      simp only [refused, bare, set, Nat.not_lt.mpr late, Bool.not_true, Bool.false_eq_true, or_self, if_false]
    refine ⟨_, discards, ?_, ?_, fun a g ha hg open' => State.countDrop_grid (s := s.dropMsg i) ha hg open'⟩
    · rw [State.countDrop_eq]
      rfl
    · rw [State.countDrop_eq]
      rfl
  · have drops : exec (.staleGenDrop i) s = .next (((s.dropMsg i).countDrop m).staleRecord m.destName m.part) := by
      show execStaleGenDrop i s = _
      rw [execStaleGenDrop, hm]
      simp only [stale, if_true]
    obtain ⟨y, hy, len, name⟩ := State.record_severe_part ((s.dropMsg i).countDrop m) (r := unitRecord 2 3 0xFF m.destName (some m.part))
      (by show 2 ≠ 0; decide) rfl
    have service : ((s.dropMsg i).countDrop m).partSvc m.part = s.partSvc m.part := by
      rw [State.countDrop_eq]
      rfl
    refine ⟨_, unitRecord 2 3 0xFF m.destName (some m.part), y, drops.trans (congrArg _ hy), ?_, ?_, rfl, rfl, rfl, rfl, len, name.trans (by rw [service]), ?_, fun a g ha hg open' => ?_⟩
    · rw [State.countDrop_eq]
      rfl
    · rw [State.countDrop_eq]
      rfl
    · rw [State.countDrop_eq]
      rfl
    · exact State.countDrop_grid (s := s.dropMsg i) ha hg open'
  · have drops : exec (.staleGenDrop (s.msgs.length + j)) s = .next ((s.skipXfer k n).staleRecord x.destName (s.partNo k)) := by
      show execStaleGenDrop (s.msgs.length + j) s = _
      rw [execStaleGenDrop, List.getElem?_eq_none (by omega), Nat.add_sub_cancel_left, hs]
      simp only [hx]
      rfl
    obtain ⟨l, hl⟩ := State.record_severe (s.skipXfer k n) (r := unitRecord 2 3 0xFF x.destName (some (s.partNo k))) (by show 2 ≠ 0; decide)
    exact ⟨_, _, drops.trans (congrArg _ hl), rfl, rfl, rfl, rfl, rfl⟩

/-- Settles O43: an admission is decided by the class's kind and room, a refusal by what the core holds, and a drop is counted. -/
theorem messageEvents : Obligations.MessageEvents := ⟨classMessages, wakeUpsAndDrops⟩

end Sys2Proof.Machine
end

section
/-! PROOF. Engines and the fabric: retirement, fills, ownership of lines, collectives, and writes of replicated pages (R68, R105, R126,
R130, R254, R274, R290, R390, R393). -/

namespace Sys2Proof.Machine

/-! ### Engine instructions and fills (R68, R274) -/

theorem engineRetire_idle {s : State} {k : Nat} (h : (s.tile k).eng = []) : exec (.engineRetire k) s = .next s := by
  show execEngineRetire k s = _
  simp [execEngineRetire, h]

theorem engineRetire_step {s : State} {k : Nat} {op : EngOp} {rest : List EngOp} (h : (s.tile k).eng = op :: rest) :
    exec (.engineRetire k) s = .next (s.engineStep k) := by
  show execEngineRetire k s = _
  simp [execEngineRetire, h]

/-- Once a slot is filled, no further engine instruction retires for it. -/
theorem fillByEngine_filled {s : State} {k slot : Nat} (h : ((s.tile k).slot slot).state ≠ .filling) (l : List EngOp) :
    l.foldl (fun (s : State) _ => if ((s.tile k).slot slot).state = .filling then s.engineStep k else s) s = s := by
  induction l with
  | nil => rfl
  | cons x l ih => rw [List.foldl_cons, if_neg h, ih]

theorem slotFillComplete_idle {s : State} {k slot : Nat} (h : ((s.tile k).slot slot).state ≠ .filling) :
    exec (.slotFillComplete k slot) s = .next s := by
  show execSlotFillComplete k slot s = _
  rw [execSlotFillComplete, if_pos h]

section
variable {s : State} {k slot : Nat} (filling : ((s.tile k).slot slot).state = .filling)
include filling

theorem slotFillComplete_transfer {j i : Nat} (h : s.fillerOf k slot = some (j, i)) :
    exec (.slotFillComplete k slot) s = .next (s.completeXfer j i) := by
  show execSlotFillComplete k slot s = _
  rw [execSlotFillComplete, if_neg (not_not.mpr filling), h]

theorem slotFillComplete_engine {op : EngOp} {rest : List EngOp} (h : s.fillerOf k slot = none) (eng : (s.tile k).eng = op :: rest)
    (filled : (((s.engineStep k).tile k).slot slot).state ≠ .filling) : exec (.slotFillComplete k slot) s = .next (s.engineStep k) := by
  show execSlotFillComplete k slot s = _
  rw [execSlotFillComplete, if_neg (not_not.mpr filling), h]
  simp only [State.fillByEngine, eng, List.foldl_cons, filling, if_true]
  rw [fillByEngine_filled filled]

end

/-! ### Ownership of lines (R126, R390) -/

theorem State.modXfer_eq {s : State} {k i : Nat} {x : Xfer} (h : (s.tile k).xfers[i]? = some x) (f : Xfer → Xfer) :
    s.modXfer k i f = s.setTile k { s.tile k with xfers := (s.tile k).xfers.set i (f x) } := by
  have modified : (s.tile k).xfers.modify i f = (s.tile k).xfers.set i (f x) := by
    rw [List.modify_eq_set_getElem?, h]
    rfl
  rw [State.modXfer, State.modTile, modified]

theorem foldl_min_eq (l : List Nat) (n : Nat) (h : ∀ x ∈ l, n ≤ x) : l.foldl min n = n := by
  induction l with
  | nil => rfl
  | cons x l ih =>
    rw [List.foldl_cons, Nat.min_eq_left (h x List.mem_cons_self)]
    exact ih fun y hy => h y (List.mem_cons_of_mem _ hy)

section
variable {s : State} {k i line : Nat} {x : Xfer} (hx : (s.tile k).xfers[i]? = some x)
include hx

theorem ownershipGrant_waits {w : Bool} (hw : w = true ↔ line ∈ s.xferWrites k x.elems) (h : s.owned k x.id (64 * line) 64 (!w) = true) :
    exec (.ownershipGrant k i line) s = .next s := by
  have alone : (s.xferWrites k x.elems).contains line = w := by
    rw [Bool.eq_iff_iff, hw]
    simp
  show execOwnershipGrant k i line s = _
  rw [execOwnershipGrant, hx]
  simp only [alone, h, true_or, or_true, if_true]

theorem ownershipGrant_granted {w : Bool} (going : x.stopped = none) (mem : line ∈ s.xferLines k x.elems) (held : x.holdsLine line = false)
    (hw : w = true ↔ line ∈ s.xferWrites k x.elems) (free : s.owned k x.id (64 * line) 64 (!w) = false)
    (first : x.ordered = true → ∀ l ∈ s.xferLines k x.elems, x.holdsLine l = false → line ≤ l) :
    exec (.ownershipGrant k i line) s = .next (s.setTile k { s.tile k with
      xfers := (s.tile k).xfers.set i { x with grants := x.grants ++ [(line, w)] } }) := by
  have alone : (s.xferWrites k x.elems).contains line = w := by
    rw [Bool.eq_iff_iff, hw]
    simp
  have open' : ((s.xferLines k x.elems).filter (fun l => !x.holdsLine l)).contains line = true := by
    simp [mem, held]
  have lowest : ¬ (x.ordered = true ∧ ((s.xferLines k x.elems).filter (fun l => !x.holdsLine l)).foldl min line ≠ line) := by
    rintro ⟨ordered, lower⟩
    refine lower (foldl_min_eq _ _ fun l hl => ?_)
    obtain ⟨inside, outside⟩ := List.mem_filter.mp hl
    exact first ordered l inside (by simpa using outside)
  show execOwnershipGrant k i line s = _
  rw [execOwnershipGrant, hx]
  dsimp only
  rw [alone, if_neg (by simp only [going, open', free, lowest, Option.isSome_none, Bool.not_true, Bool.false_eq_true, or_self,
    not_false_eq_true]), State.modXfer_eq hx]

theorem ownershipTimeout_releases (going : x.stopped = none) (mem : line ∈ s.xferLines k x.elems) (held : x.holdsLine line = false) :
    exec (.ownershipTimeout k i) s = .next (s.setTile k { s.tile k with
      xfers := (s.tile k).xfers.set i { x with grants := [], ordered := true } }) := by
  have waits : (s.xferLines k x.elems).any (fun l => !x.holdsLine l) = true := List.any_eq_true.mpr ⟨line, mem, by rw [held]; rfl⟩
  show execOwnershipTimeout k i s = _
  rw [execOwnershipTimeout, hx]
  dsimp only
  rw [if_neg (by simp only [going, waits, Option.isSome_none, Bool.not_true, Bool.false_eq_true, or_self, not_false_eq_true]),
    State.modXfer_eq hx]

theorem ownershipTimeout_idle (all : ∀ l ∈ s.xferLines k x.elems, x.holdsLine l = true) : exec (.ownershipTimeout k i) s = .next s := by
  have none : (s.xferLines k x.elems).any (fun l => !x.holdsLine l) = false := by
    simp only [List.any_eq_false, Bool.not_eq_true, Bool.not_eq_false']
    exact all
  show execOwnershipTimeout k i s = _
  rw [execOwnershipTimeout, hx]
  simp only [none, Bool.not_false, or_true, if_true]

end

/-- A grant that does not hold back an exclusive access does not hold back a shared one. -/
theorem State.owned_sharing {s : State} {k id key n : Nat} (h : s.owned k id key n = false) : s.owned k id key n true = false := by
  simp only [State.owned, Bool.or_eq_false_iff, List.any_eq_false, Bool.and_eq_true, Bool.not_eq_true, not_and] at h ⊢
  obtain ⟨snoops, grants⟩ := h
  exact ⟨snoops, fun e he x hx other l hl _ => grants e he x hx other l hl rfl⟩

/-! ### Collectives (R290) -/

/-- What one participant of a collective gets: the result at its place, and its counter advanced. -/
def State.handOver (s : State) (win : Nat) (res : List Byte × List Byte) (p : CollPart) : State :=
  let s := s.writeKey (scratchAt p.core p.doff) res.1 false
  let s := if isMx win then s.writeKey (scratchAt p.core (scaleOff ((s.tile p.core).soff win) win p.doff 0)) res.2 false else s
  s.bump? (p.ctr.map (fun o => (p.core, o)))

/-- A participant's bytes and counter are memory. -/
theorem State.handOver_keeps (s : State) (win : Nat) (res : List Byte × List Byte) (p : CollPart) :
    (s.handOver win res p).tiles = s.tiles ∧ (s.handOver win res p).grids = s.grids ∧ (s.handOver win res p).colls = s.colls := by
  unfold State.handOver
  cases p.ctr <;> split <;> exact ⟨rfl, rfl, rfl⟩

theorem State.handOver_all (l : List CollPart) (s : State) (win : Nat) (res : List Byte × List Byte) :
    (l.foldl (fun (s : State) p => s.handOver win res p) s).tiles = s.tiles ∧
      (l.foldl (fun (s : State) p => s.handOver win res p) s).grids = s.grids ∧
      (l.foldl (fun (s : State) p => s.handOver win res p) s).colls = s.colls := by
  induction l generalizing s with
  | nil => exact ⟨rfl, rfl, rfl⟩
  | cons p l ih =>
    obtain ⟨tiles, grids, colls⟩ := s.handOver_keeps win res p
    obtain ⟨tiles', grids', colls'⟩ := ih (s.handOver win res p)
    exact ⟨tiles'.trans tiles, grids'.trans grids, colls'.trans colls⟩

/-- A collective that has its result, which each of those that joined may take. -/
def Coll.finished (c : Coll) (res : List Byte × List Byte) : Coll := { c with result := some res, takers := c.parts.map (·.grank) }

theorem State.finishColl_eq (s : State) (c : Coll) (res : List Byte × List Byte) :
    s.finishColl c res = c.parts.foldl (fun (s : State) p => s.handOver c.win res p)
      { s with colls := s.colls.map (fun q => if q.isAt c.grid c.scope c.inst c.k then
        { q with result := some res, takers := c.parts.map (·.grank) } else q) } := rfl

theorem State.finishColl_result {s : State} {i : Nat} {c : Coll} (h : s.colls[i]? = some c) (res : List Byte × List Byte) :
    (s.finishColl c res).colls[i]? = some (c.finished res) := by
  have here : c.isAt c.grid c.scope c.inst c.k = true := by simp [Coll.isAt]
  rw [State.finishColl_eq, (State.handOver_all ..).2.2]
  simp only [List.getElem?_map, h, Option.map_some, here, if_true]
  rfl

theorem State.handOver_plain (s : State) {win : Nat} (res : List Byte × List Byte) (p : CollPart) (mx : isMx win = false) :
    s.handOver win res p = (s.writeKey (scratchAt p.core p.doff) res.1 false).bump? (p.ctr.map (fun o => (p.core, o))) := by
  simp only [State.handOver, mx, Bool.false_eq_true, if_false]

/-- The result stands at the place of a participant. -/
theorem State.handOver_data (s : State) {win : Nat} (res : List Byte × List Byte) {p : CollPart} (mx : isMx win = false)
    (canonical : Memory.wf s.mem = true) (apart : ∀ o, p.ctr = some o → p.doff + res.1.length ≤ o ∨ o + 4 ≤ p.doff) :
    (s.handOver win res p).readAt (scratchAt p.core p.doff) res.1.length = res.1 := by
  have data := State.readAt_writeKey canonical (scratchAt p.core p.doff) res.1 false
  rw [State.handOver_plain s res p mx]
  cases hc : p.ctr with
  | none => exact data
  | some o =>
    have places := apart o hc
    refine (State.readAt_writeKey_other (Memory.wf_write _ _ canonical) false ?_).trans data
    rw [leBytes_length]
    simp only [scratchAt]
    omega

theorem State.handOver_counter (s : State) {win : Nat} (res : List Byte × List Byte) {p : CollPart} {o : Nat} (mx : isMx win = false)
    (canonical : Memory.wf s.mem = true) (hc : p.ctr = some o) (apart : p.doff + res.1.length ≤ o ∨ o + 4 ≤ p.doff) :
    (s.handOver win res p).readNat (scratchAt p.core o) 4 = (s.readNat (scratchAt p.core o) 4 + 1) % 2 ^ 32 := by
  have canonical' := Memory.wf_write (scratchAt p.core p.doff) res.1 canonical
  have before : State.readNat (s.writeKey (scratchAt p.core p.doff) res.1 false) (scratchAt p.core o) 4 = s.readNat (scratchAt p.core o) 4 := by
    refine congrArg leNat (State.readAt_writeKey_other canonical false ?_)
    simp only [scratchAt]
    omega
  rw [State.handOver_plain s res p mx, hc]
  show State.readNat (State.bump _ p.core o) (scratchAt p.core o) 4 = _
  rw [State.bump, State.readNat_writeNat canonical', before]
  exact Nat.mod_eq_of_lt (Nat.mod_lt _ (by decide))

/-- A collective of one participant hands its result to that one. -/
theorem State.finishColl_single (s : State) {c : Coll} {p : CollPart} (res : List Byte × List Byte) (alone : c.parts = [p]) :
    ∃ u : State, u.mem = s.mem ∧ s.finishColl c res = u.handOver c.win res p := by
  have one : ∀ u : State, c.parts.foldl (fun (s : State) p => s.handOver c.win res p) u = u.handOver c.win res p := by
    rw [alone]
    exact fun u => rfl
  refine ⟨{ s with colls := s.colls.map (fun q => if q.isAt c.grid c.scope c.inst c.k then
    { q with result := some res, takers := c.parts.map (·.grank) } else q) }, rfl, ?_⟩
  rw [State.finishColl_eq, one]

theorem collectiveComplete_finishes {s : State} {i : Nat} {arrival : List Nat} {c : Coll} {g : Grid} (hc : s.colls[i]? = some c)
    (hg : s.grid? c.grid = some g) (open' : c.result = none) (joined : c.parts ≠ [])
    (all : ∀ r ∈ instRanks g c.scope c.inst, (∃ p ∈ c.parts, p.grank = r) ∨ r ∈ g.exited)
    (order : c.ord = .fast → (arrival.filter (fun n => decide (n < (c.ranked g).length))).length = (c.ranked g).length ∧
      ∀ n, n < (c.ranked g).length → n ∈ arrival) :
    exec (.collectiveComplete i arrival) s = .next (s.finishColl c (credResult c.ord c.win c.count arrival (c.ranked g))) := by
  have ready : c.ready g = true := by
    simp only [Coll.ready, open', Option.isNone_none, Bool.true_and, Bool.and_eq_true, Bool.not_eq_true', List.isEmpty_eq_false_iff,
      List.all_eq_true, Bool.or_eq_true, List.any_eq_true, decide_eq_true_eq, List.contains_iff_mem]
    exact ⟨joined, all⟩
  have ordered : ¬ (c.ord = .fast ∧ (!isOrder arrival (c.ranked g).length) = true) := by
    rintro ⟨fast, unordered⟩
    obtain ⟨length, every⟩ := order fast
    rw [isOrder, decide_eq_true length, Bool.true_and, Bool.not_eq_true', List.all_eq_false] at unordered
    obtain ⟨n, hn, missing⟩ := unordered
    exact missing (by simpa using every n (List.mem_range.mp hn))
  show execCollectiveComplete i arrival s = _
  rw [execCollectiveComplete, hc]
  dsimp only
  rw [hg]
  dsimp only
  rw [if_neg (by rw [ready]; simpa using ordered)]

/-- Engine instructions, fills, ownership and collectives. -/
theorem engineAndCollectiveEvents : EngineAndCollectiveEvents := by
  refine ⟨fun s k slot op rest => ⟨engineRetire_idle, engineRetire_step, slotFillComplete_idle, fun filling =>
      ⟨fun j i h => slotFillComplete_transfer filling h, slotFillComplete_engine filling⟩⟩,
    fun s k i line x hx going => ⟨fun mem held w hw => ⟨ownershipGrant_waits hx hw, ownershipGrant_granted hx going mem held hw,
      ownershipTimeout_releases hx going mem held⟩, ownershipTimeout_idle hx⟩,
    fun s k id key n => State.owned_sharing, ?_⟩
  rintro s i arrival c g _ _ hc hg open' joined all rfl order rfl
  have finishes := collectiveComplete_finishes hc hg open' joined all order
  obtain ⟨tiles, grids, -⟩ := State.handOver_all c.parts { s with colls := s.colls.map (fun q => if q.isAt c.grid c.scope c.inst c.k then
    { q with result := some (credResult c.ord c.win c.count arrival (c.ranked g)), takers := c.parts.map (·.grank) } else q) }
    c.win (credResult c.ord c.win c.count arrival (c.ranked g))
  refine ⟨_, finishes, tiles, grids, ⟨_, State.finishColl_result hc _, rfl⟩, fun p alone mx canonical => ?_⟩
  obtain ⟨u, mem, single⟩ := State.finishColl_single s (credResult c.ord c.win c.count arrival (c.ranked g)) alone
  have canonical' : Memory.wf u.mem = true := by rw [mem, canonical]
  have value : ∀ a, u.readNat a 4 = s.readNat a 4 := fun a => by rw [State.readNat, State.readAt, mem]; rfl
  rw [single]
  refine ⟨fun uncounted => State.handOver_data _ _ mx canonical' fun o hp => ?_, fun o hp apart => ⟨?_, ?_⟩⟩
  · cases uncounted.symm.trans hp
  · refine State.handOver_data _ _ mx canonical' fun o' hp' => ?_
    cases hp.symm.trans hp'
    exact apart
  · rw [← value]
    exact State.handOver_counter _ _ mx canonical' hp apart

/-! ### Writes of replicated pages (R105, R130, R393) -/

theorem replicatedWrite_stamps {s : State} {k i : Nat} {x : PStore} (hx : (s.tile k).stores[i]? = some x) (repl : x.repl = true)
    (sequencer : s.seqLost = false) (free : s.canPerform k i x = true) :
    exec (.replicatedWrite k i) s = .next ((s.dropStore k i).stampWrite k x.key x.data x.tag) := by
  show execReplicatedWrite k i s = _
  rw [execReplicatedWrite, hx]
  simp only [repl, sequencer, free, Bool.not_false, Bool.and_self, if_true]

/-- A copy that has still to acknowledge an earlier write does not acknowledge a later one. -/
theorem State.ackWrite_behind {s : State} {n c : Nat} (h : ∃ w ∈ s.rwrites, w.stamp < n ∧ c ∈ w.copies ∧ c ∉ w.acks) : s.ackWrite n c = s := by
  obtain ⟨w, hw, earlier, copy, silent⟩ := h
  rw [State.ackWrite, if_pos (List.any_eq_true.mpr ⟨w, hw, by simp [earlier, copy, silent]⟩)]

theorem State.ackWrite_next {s : State} {n c : Nat} (h : ∀ w ∈ s.rwrites, w.stamp < n → c ∈ w.copies → c ∈ w.acks) :
    s.ackWrite n c = { s with rwrites := s.rwrites.map (fun w =>
      if w.stamp = n ∧ c ∈ w.copies ∧ c ∉ w.acks then { w with acks := w.acks ++ [c] } else w) } := by
  have none : s.rwrites.any (fun w => decide (w.stamp < n) && w.copies.contains c && !w.acks.contains c) = false := by
    simp only [List.any_eq_false, Bool.and_eq_true, decide_eq_true_eq, List.contains_iff_mem, Bool.not_eq_true', not_and,
      Bool.not_eq_false]
    exact fun w hw ⟨earlier, copy⟩ => h w hw earlier copy
  rw [State.ackWrite, none, if_neg Bool.false_ne_true]
  simp only [List.contains_iff_mem]

theorem State.commitWrite_waits {s : State} {w : RWrite} {l : List RWrite} (hw : s.rwrites = w :: l)
    (h : (∃ c ∈ w.copies, c ∉ w.acks) ∨ s.seqLost = true ∨ s.owned w.writer w.xfer w.key w.data.length = true) : s.commitWrite w.stamp = s := by
  rw [State.commitWrite, hw]
  dsimp only
  refine if_neg ?_
  rintro ⟨-, acked, sequencer, free⟩
  rcases h with ⟨c, copy, silent⟩ | lost | owned
  · exact silent (by simpa using List.all_eq_true.mp acked c copy)
  · exact absurd (lost.symm.trans sequencer) (by decide)
  · exact absurd (owned.symm.trans free) (by decide)

theorem State.commitWrite_performs {s : State} {w : RWrite} {l : List RWrite} (hw : s.rwrites = w :: l) (acked : ∀ c ∈ w.copies, c ∈ w.acks)
    (sequencer : s.seqLost = false) (free : s.owned w.writer w.xfer w.key w.data.length = false) :
    s.commitWrite w.stamp = State.writeKey { s with rwrites := l } w.key w.data w.tag := by
  rw [State.commitWrite, hw]
  dsimp only
  exact if_pos ⟨rfl, by simpa using acked, sequencer, free⟩

/-- The copies of the oldest write acknowledge it, one after another; later writes stay as they were. -/
theorem State.ackWrites_oldest (cs : List Nat) {s : State} {w : RWrite} {l : List RWrite} (hw : s.rwrites = w :: l)
    (later : ∀ x ∈ l, w.stamp < x.stamp) :
    ∃ acks, cs.foldl (fun s c => s.ackWrite w.stamp c) s = { s with rwrites := { w with acks := acks } :: l } ∧
      (∀ c ∈ w.acks, c ∈ acks) ∧ ∀ c ∈ cs, c ∈ w.copies → c ∈ acks := by
  induction cs generalizing s w with
  | nil => exact ⟨w.acks, by rw [List.foldl_nil, ← hw], fun c hc => hc, fun c hc => by cases hc⟩
  | cons c cs ih =>
    have kept : l.map (fun x => if x.stamp = w.stamp ∧ c ∈ x.copies ∧ c ∉ x.acks then { x with acks := x.acks ++ [c] } else x) = l := by
      conv_rhs => rw [← List.map_id l]
      exact List.map_congr_left fun x hx => if_neg fun h => absurd h.1 (by have := later x hx; omega)
    have acknowledged := State.ackWrite_next (s := s) (n := w.stamp) (c := c) (by
      rw [hw]
      rintro x hx earlier
      rcases List.mem_cons.mp hx with rfl | hx
      · omega
      · have := later x hx
        omega)
    rw [hw, List.map_cons, kept] at acknowledged
    by_cases new : c ∈ w.copies ∧ c ∉ w.acks
    · rw [if_pos ⟨rfl, new⟩] at acknowledged
      obtain ⟨acks, done, old, these⟩ := ih (s := s.ackWrite w.stamp c) (w := { w with acks := w.acks ++ [c] }) (by rw [acknowledged]) later
      refine ⟨acks, done.trans (by rw [acknowledged]), fun x hx => old x (List.mem_append_left _ hx), fun x hx copy => ?_⟩
      rcases List.mem_cons.mp hx with rfl | hx
      · exact old x (List.mem_append_right _ (List.mem_singleton_self x))
      · exact these x hx copy
    · rw [if_neg fun h => new h.2] at acknowledged
      obtain ⟨acks, done, old, these⟩ := ih (s := s.ackWrite w.stamp c) (w := w) (by rw [acknowledged]) later
      refine ⟨acks, done.trans (by rw [acknowledged]), old, fun x hx copy => ?_⟩
      rcases List.mem_cons.mp hx with rfl | hx
      · exact old x (by by_contra silent; exact new ⟨copy, fun held => silent held⟩)
      · exact these x hx copy

theorem State.settleWrite_performs {s : State} {w : RWrite} {l : List RWrite} (hw : s.rwrites = w :: l) (later : ∀ x ∈ l, w.stamp < x.stamp)
    (sequencer : s.seqLost = false) (free : s.owned w.writer w.xfer w.key w.data.length = false) :
    s.settleWrite = State.writeKey { s with rwrites := l } w.key w.data w.tag := by
  obtain ⟨acks, done, -, all⟩ := State.ackWrites_oldest w.copies hw later
  rw [State.settleWrite, hw]
  dsimp only
  rw [done]
  exact State.commitWrite_performs (w := { w with acks := acks }) rfl (fun c hc => all c hc hc) sequencer free

/-- With nothing in the way every stamped write is performed, in the order of the stamps. -/
theorem State.settleWrites_performs (l : List RWrite) (s : State) (hl : s.rwrites = l) (rising : (l.map (·.stamp)).Pairwise (· < ·))
    (sequencer : s.seqLost = false) (free : ∀ w ∈ l, s.owned w.writer w.xfer w.key w.data.length = false) :
    (l.foldl (fun (s : State) _ => s.settleWrite) s).rwrites = [] ∧
      (l.foldl (fun (s : State) _ => s.settleWrite) s).stamp = s.stamp ∧
      (l.foldl (fun (s : State) _ => s.settleWrite) s).errlog = s.errlog ∧
      (l.foldl (fun (s : State) _ => s.settleWrite) s).mem = l.foldl (fun m w => Memory.write m w.key w.data) s.mem := by
  induction l generalizing s with
  | nil => exact ⟨hl, rfl, rfl, rfl⟩
  | cons w l ih =>
    rw [List.map_cons, List.pairwise_cons] at rising
    have first := State.settleWrite_performs hl (fun x hx => rising.1 _ (List.mem_map_of_mem hx)) sequencer (free w List.mem_cons_self)
    rw [List.foldl_cons, List.foldl_cons, first]
    exact ih (State.writeKey { s with rwrites := l } w.key w.data w.tag) rfl rising.2 sequencer
      fun x hx => free x (List.mem_cons_of_mem _ hx)

/-- Writes of replicated pages, and the loss of the sequencers. -/
theorem replicatedWrites : ReplicatedWrites := by
  refine ⟨fun s k i x hx repl sequencer free => ?_, fun s n c => ⟨fun behind => ?_, fun next => ?_⟩, fun s w l hw canonical =>
    ⟨fun waits => ?_, fun acked sequencer free => ?_⟩, fun s rising => ⟨fun standby sequencer free => ?_, fun standby sequencer => ?_⟩⟩
  · refine ⟨_, _, replicatedWrite_stamps hx repl sequencer free, rfl, rfl, rfl, rfl, rfl, rfl, rfl, rfl, rfl, rfl, rfl, rfl, ?_,
      fun j other => ?_⟩
    · show (s.dropStore k i).tile k = _
      exact State.tile_modTile s k _
    · show (s.dropStore k i).tile j = _
      exact State.tile_modTile_other s _ other
  · exact congrArg Host.Outcome.next (State.ackWrite_behind behind)
  · exact congrArg Host.Outcome.next (State.ackWrite_next next)
  · exact congrArg Host.Outcome.next (State.commitWrite_waits hw waits)
  · refine ⟨_, congrArg Host.Outcome.next (State.commitWrite_performs hw acked sequencer free), rfl, rfl, ?_, fun y apart => ?_⟩
    · exact State.readAt_writeKey (s := { s with rwrites := l }) canonical _ _ _
    · exact Memory.get_write_other _ _ _ canonical apart
  · obtain ⟨empty, stamp, errlog, mem⟩ := State.settleWrites_performs s.rwrites s rfl rising sequencer free
    have fails : exec .sequencerFailover s = .next { s.settleWrites with
        standbySeq := true, errlog := s.settleWrites.errlog ++ [unitRecord 3 10 0xFF 0 none] } := by
      show execSequencerFailover s = _
      rw [execSequencerFailover, standby]
      exact congrArg Host.Outcome.next (State.record_severe_none { s.settleWrites with standbySeq := true } (r := unitRecord 3 10 0xFF 0 none) (by show 3 ≠ 0; decide) rfl)
    exact ⟨_, _, fails, rfl, empty, stamp, mem, congrArg (· ++ _) errlog, rfl, rfl⟩
  · refine ⟨unitRecord 4 10 0xFF 1 none, ?_, rfl, rfl⟩
    show execSequencerFailover s = _
    rw [execSequencerFailover, if_neg (by simp [standby]), if_pos (by simp [sequencer])]
    exact congrArg Host.Outcome.next (State.record_severe_none { s with seqLost := true } (r := unitRecord 4 10 0xFF 1 none) (by show 4 ≠ 0; decide) rfl)

/-- Settles O44: engines, grants and collectives event by event; stamped writes by induction over the sequencer's list. -/
theorem engineAndFabricEvents : Obligations.EngineAndFabricEvents := ⟨engineAndCollectiveEvents, replicatedWrites⟩

end Sys2Proof.Machine
end

section
/-! PROOF. Expert buffers: rows, releases, decisions and their configuration (R52, R331, R358, R359). -/

namespace Sys2Proof.Machine

/-! ### A buffer's configuration and its span -/

theorem State.modExpert_some {s : State} {d b : Nat} {e : Expert} (h : s.expert? d b = some e) (f : Expert → Expert) :
    s.modExpert d b f = s.modDie d (fun x => { x with experts := keySet x.experts b (f e) }) := by
  rw [State.modExpert, h]

/-- A change of a buffer's configuration and of its pool changes nothing but the dies. -/
theorem State.modExpert_modDie (s : State) (d b : Nat) (f : Expert → Expert) (g : Die → Die) :
    ∃ ds, (s.modExpert d b f).modDie d g = { s with dies := ds } := by
  unfold State.modExpert
  split
  · exact ⟨_, rfl⟩
  · exact ⟨_, rfl⟩

/-- Rows that no test selects stay as they are. -/
theorem State.retryRows_none {s : State} {which : Row → Bool} (h : ∀ r ∈ s.rows, which r = false) : s.retryRows which = s := by
  have kept : s.rows.filter (fun r => !which r) = s.rows := List.filter_eq_self.mpr fun r hr => by rw [h r hr, Bool.not_false]
  have again : s.rows.filter which = [] := List.filter_eq_nil_iff.mpr fun r hr => by rw [h r hr]; exact Bool.false_ne_true
  simp only [State.retryRows, kept, again, List.foldl_nil]

/-! ### A row arrives (R52, R331, R358) -/

theorem expertRowArrival_first {s : State} {r : Row} {l : List Row} (hr : s.rows = r :: l) (held : r.held = 0) :
    exec (.expertRowArrival 0) s = .next (State.arriveRow { s with rows := l } r) := by
  show execExpertRowArrival 0 s = _
  simp only [execExpertRowArrival, hr, List.getElem?_cons_zero, held, List.take_zero, List.any_nil, ne_eq, not_true_eq_false,
    Bool.false_eq_true, or_self, if_false, List.eraseIdx_zero, List.tail_cons]

/-- A row that ends in the first page of its span touches no other page. -/
theorem rowPages_first {rowsz c : Nat} (h : 64 + (c + 1) * rowsz ≤ 2 ^ 16) : rowPages rowsz c = [] := by
  have before : c * rowsz ≤ (c + 1) * rowsz := Nat.mul_le_mul_right _ (Nat.le_succ c)
  have last : (64 + (c + 1) * rowsz - 1) / 65536 = 0 := Nat.div_eq_of_lt (by omega)
  rw [rowPages, last]
  refine List.filter_eq_nil_iff.mpr fun p hp => ?_
  obtain ⟨i, hi, rfl⟩ := List.mem_map.mp hp
  have := List.mem_range.mp hi
  simp only [ne_eq, decide_eq_true_eq, not_not]
  have low : (64 + c * rowsz) / 65536 ≤ 0 + 1 := by omega
  omega

/-- The state once row `n` of a buffer is written and counted. -/
def State.placeRow (s : State) (r : Row) (n : Nat) (ds : List (Nat × Die)) : State :=
  State.writeNat { s.writeKey (expertAt r.die r.buf (64 + n * r.data.length)) r.data false with free := s.free + 1, dies := ds }
    (expertAt r.die r.buf 0) 4 ((n + 1) % 2 ^ 32)

/-- A row that lands in the first page: its bytes, the counter, and at TRIG a message to the owner. -/
theorem State.arriveRow_lands {s : State} {r : Row} {e : Expert} {n : Nat} (he : s.expert? r.die r.buf = some e)
    (hn : s.expertCount r.die r.buf = n) (size : r.data.length = e.rowsz) (fits : 64 + (n + 1) * e.rowsz ≤ 2 ^ 16) :
    ∃ ds, s.arriveRow r = if n + 1 = e.trig then
        (s.placeRow r n ds).poolMsg r.die e.owner e.cls [BitVec.ofNat 64 r.buf, BitVec.ofNat 64 (n + 1)] else s.placeRow r n ds := by
  obtain ⟨ds, changed⟩ := State.modExpert_modDie { s.writeKey (expertAt r.die r.buf (64 + n * e.rowsz)) r.data false with free := s.free + 1 }
    r.die r.buf (fun e => { e with pages := e.pages ++ [], first := if n = 0 then s.free else e.first })
    (fun x => { x with poolFree := x.poolFree - 0 })
  refine ⟨ds, ?_⟩
  rw [State.arriveRow, he]
  dsimp only
  rw [hn, if_neg (by omega), if_neg (by omega), rowPages_first fits, List.filter_nil, List.length_nil, if_neg (by omega)]
  simp only [State.fresh]
  rw [show (s.writeKey (expertAt r.die r.buf (64 + n * e.rowsz)) r.data false).free = s.free from rfl, changed, ← size]
  rfl

section
variable {s : State} {r : Row} {n : Nat} (ds : List (Nat × Die)) (canonical : Memory.wf s.mem = true)
include canonical

theorem State.placeRow_data : (s.placeRow r n ds).readAt (expertAt r.die r.buf (64 + n * r.data.length)) r.data.length = r.data := by
  refine (State.readAt_writeKey_other (Memory.wf_write _ _ canonical) false ?_).trans (State.readAt_writeKey canonical _ _ false)
  simp only [expertAt, leBytes_length]
  omega

theorem State.placeRow_count (small : n + 1 < 2 ^ 32) : (s.placeRow r n ds).expertCount r.die r.buf = n + 1 := by
  refine (State.readNat_writeNat (Memory.wf_write _ _ canonical) _ _ _).trans ?_
  rw [Nat.mod_mod, Nat.mod_eq_of_lt small]

end

/-- A row for an absent buffer with no overflow core. -/
theorem State.arriveRow_dropped {s : State} {r : Row} (he : s.expert? r.die r.buf = none) (core : (s.die r.die).ovf.toNat % 2 ^ 32 = 0) :
    s.arriveRow r = s.dropRow r.die r.buf := by
  rw [State.arriveRow, he]
  dsimp only
  rw [State.holdRow, if_neg (by decide), if_pos core]

/-- A row for an absent buffer, the first that is held for it. -/
theorem State.arriveRow_held {s : State} {r : Row} (he : s.expert? r.die r.buf = none) (core : (s.die r.die).ovf.toNat % 2 ^ 32 ≠ 0)
    (first : ∀ q ∈ s.rows, ¬ (q.die = r.die ∧ q.buf = r.buf)) :
    s.arriveRow r = State.overflowMsg { s with rows := s.rows ++ [{ r with held := 1, told := true }] } r.die r.buf 1 := by
  have untold : s.rows.any (fun q => decide (q.die = r.die ∧ q.buf = r.buf ∧ q.told = true)) = false := by
    simp only [List.any_eq_false, decide_eq_true_eq]
    exact fun q hq ⟨die, buf, _⟩ => first q hq ⟨die, buf⟩
  rw [State.arriveRow, he]
  dsimp only
  rw [State.holdRow, if_neg (by decide), if_neg core]
  simp only [untold, Bool.false_eq_true, if_false]

/-- The rows held for a buffer, when the last of all rows is the only one. -/
theorem heldRows_last {l : List Row} {r : Row} (first : ∀ q ∈ l, ¬ (q.die = r.die ∧ q.buf = r.buf)) (held : r.held ≠ 0) :
    (l ++ [r]).filter (fun q => decide (q.die = r.die ∧ q.buf = r.buf ∧ q.held ≠ 0)) = [r] := by
  rw [List.filter_append, List.filter_eq_nil_iff.mpr fun q hq => by
    simp only [decide_eq_true_eq]
    exact fun ⟨die, buf, _⟩ => first q hq ⟨die, buf⟩]
  simp [held]

/-- EXPERT_ROW_ARRIVAL of the first row. -/
theorem expertRowArrival_lands {s : State} {n : Nat} {r : Row} {l : List Row} {e : Expert} (hr : s.rows = r :: l) (held : r.held = 0)
    (canonical : Memory.wf s.mem = true) (hn : n = s.expertCount r.die r.buf) (he : s.expert? r.die r.buf = some e)
    (size : r.data.length = e.rowsz) (fits : 64 + (n + 1) * e.rowsz ≤ 2 ^ 16) (small : n + 1 < 2 ^ 32) :
    ∃ t, exec (.expertRowArrival 0) s = .next t ∧ t.rows = l ∧ t.tiles = s.tiles ∧
      t.readAt (expertAt r.die r.buf (64 + n * e.rowsz)) e.rowsz = r.data ∧ t.expertCount r.die r.buf = n + 1 ∧
      (n + 1 ≠ e.trig → t.msgs = s.msgs) ∧
      (n + 1 = e.trig → ∃ m : Msg, t.msgs = s.msgs ++ [m] ∧ m.destName = e.owner ∧ m.cls = e.cls ∧
        m.data = [BitVec.ofNat 64 r.buf, BitVec.ofNat 64 (n + 1)]) := by
  obtain ⟨ds, lands⟩ := State.arriveRow_lands (s := { s with rows := l }) he hn.symm size fits
  have data := State.placeRow_data (s := { s with rows := l }) (r := r) (n := n) ds canonical
  have count := State.placeRow_count (s := { s with rows := l }) (r := r) (n := n) ds canonical small
  rw [size] at data
  rw [expertRowArrival_first hr held, lands]
  by_cases trig : n + 1 = e.trig
  · rw [if_pos trig]
    exact ⟨_, rfl, rfl, rfl, data, count, fun h => absurd trig h, fun _ => ⟨_, rfl, rfl, rfl, rfl⟩⟩
  · rw [if_neg trig]
    exact ⟨_, rfl, rfl, rfl, data, count, fun _ => rfl, fun h => absurd h trig⟩

/-- EXPERT_ROW_ARRIVAL for an absent buffer, where no overflow core is set. -/
theorem expertRowArrival_dropped {s : State} {r : Row} {l : List Row} (hr : s.rows = r :: l) (held : r.held = 0)
    (canonical : Memory.wf s.mem = true) (he : s.expert? r.die r.buf = none) (core : (s.die r.die).ovf.toNat % 2 ^ 32 = 0) :
    ∃ t, exec (.expertRowArrival 0) s = .next t ∧ t.rows = l ∧ t.msgs = s.msgs ∧
      t.readNat (expertAt r.die r.buf 24) 4 = (s.readNat (expertAt r.die r.buf 24) 4 + 1) % 2 ^ 32 := by
  have dropped := State.arriveRow_dropped (s := { s with rows := l }) he core
  have counted := State.readNat_writeNat (s := { s with rows := l }) canonical (expertAt r.die r.buf 24) 4
    ((s.readNat (expertAt r.die r.buf 24) 4 + 1) % 2 ^ 32)
  rw [Nat.mod_eq_of_lt (Nat.mod_lt _ (by decide))] at counted
  rw [expertRowArrival_first hr held, dropped]
  exact ⟨_, rfl, rfl, rfl, counted⟩

/-- The message about held rows (R358): to the overflow core, with the reason, the buffer, the die and the number of rows. -/
theorem State.overflowMsg_eq (s : State) (d b why : Nat) : ∃ m, s.overflowMsg d b why = s.push m ∧
    m.destName = (s.die d).ovf.toNat % 2 ^ 32 ∧ m.cls = (s.die d).ovf.toNat / 2 ^ 32 % 2 ^ 4 ∧
    m.data[0]? = some (BitVec.ofNat 64 (why + b * 2 ^ 8 + d * 2 ^ 16 +
      (s.rows.filter (fun r => decide (r.die = d ∧ r.buf = b ∧ r.held ≠ 0))).length * 2 ^ 32)) :=
  ⟨_, rfl, rfl, rfl, rfl⟩

/-- EXPERT_ROW_ARRIVAL for an absent buffer, the first row that is held for it. -/
theorem expertRowArrival_held {s : State} {r : Row} {l : List Row} (hr : s.rows = r :: l) (held : r.held = 0)
    (he : s.expert? r.die r.buf = none) (core : (s.die r.die).ovf.toNat % 2 ^ 32 ≠ 0) (first : ∀ q ∈ l, ¬ (q.die = r.die ∧ q.buf = r.buf)) :
    ∃ t m, exec (.expertRowArrival 0) s = .next t ∧ t.mem = s.mem ∧ t.rows = l ++ [{ r with held := 1, told := true }] ∧
      t.msgs = s.msgs ++ [m] ∧ m.destName = (s.die r.die).ovf.toNat % 2 ^ 32 ∧ m.cls = (s.die r.die).ovf.toNat / 2 ^ 32 % 2 ^ 4 ∧
      m.data[0]? = some (BitVec.ofNat 64 (1 + r.buf * 2 ^ 8 + r.die * 2 ^ 16 + 2 ^ 32)) := by
  have kept := State.arriveRow_held (s := { s with rows := l }) he core first
  have one := heldRows_last (r := { r with held := 1, told := true }) first Nat.one_ne_zero
  obtain ⟨m, sent, dest, cls, data⟩ := State.overflowMsg_eq
    { { s with rows := l } with rows := l ++ [{ r with held := 1, told := true }] } r.die r.buf 1
  rw [expertRowArrival_first hr held, kept]
  refine ⟨_, m, rfl, (congrArg State.mem sent :), (congrArg State.rows sent :), (congrArg State.msgs sent :), dest, cls, data.trans ?_⟩
  show some (BitVec.ofNat 64 (_ + List.length (List.filter _ (l ++ [_])) * 2 ^ 32)) = _
  rw [one, List.length_singleton, Nat.one_mul]

/-! ### A release (R52) -/

/-- The place of a word at the start of a buffer's span. -/
theorem expertAt_place {d b off : Nat} (hb : b < 256) (ho : off < 64) : isExpert (expertAt d b off) = true ∧
    (expertAt d b off - Config.expertKey) % 2 ^ 22 = off ∧ (expertAt d b off - Config.expertKey) / 2 ^ 22 % 256 = b ∧
    (expertAt d b off - Config.expertKey) / 2 ^ 30 = d := by
  have inside : expertAt d b off - Config.expertKey = d * 2 ^ 30 + b * 2 ^ 22 + off := by
    simp only [expertAt, Nat.add_assoc, Nat.add_sub_cancel_left]
  rw [inside]
  refine ⟨?_, by omega, by omega, by omega⟩
  simp only [isExpert, decide_eq_true_eq, expertAt, Nat.add_assoc]
  exact Nat.le_add_right _ _

/-- A release word that becomes 0 releases its buffer. -/
theorem State.performAt_release {s : State} {d b : Nat} (hb : b < 256) (canonical : Memory.wf s.mem = true) :
    s.performAt (expertAt d b 8) (leBytes 8 0) false = (s.writeNat (expertAt d b 8) 8 0).releaseExpert d b := by
  obtain ⟨span, off, buf, die⟩ := expertAt_place (d := d) (off := 8) hb (by omega)
  have zero : (s.writeKey (expertAt d b 8) (leBytes 8 0) false).readNat (expertAt d b 8) 8 = 0 :=
    State.readNat_writeNat canonical (expertAt d b 8) 8 0
  rw [State.performAt, if_neg (by rw [span]; decide)]
  dsimp only
  rw [off, buf, die, if_neg (c := 8 < 4) (by decide), zero, leBytes_length, if_neg (c := decide _ = true) (by decide), if_pos (by decide)]
  rfl

/-- The span of a buffer as a release leaves it: the counter and the rows of the first page are 0, and so are the pool's pages. -/
def State.emptied (s : State) (d b : Nat) (pages : List Nat) : State :=
  pages.foldl (fun (s : State) p => s.zero (expertAt d b (p * 65536)) 65536)
    ((s.writeNat (expertAt d b 0) 4 0).zero (expertAt d b 64) (65536 - 64))

theorem State.zeroPages_keeps (l : List Nat) (a : Nat → Nat) (n : Nat) (s : State) :
    (l.foldl (fun (s : State) p => s.zero (a p) n) s).rows = s.rows ∧ (l.foldl (fun (s : State) p => s.zero (a p) n) s).tiles = s.tiles ∧
      (l.foldl (fun (s : State) p => s.zero (a p) n) s).dies = s.dies := by
  induction l generalizing s with
  | nil => exact ⟨rfl, rfl, rfl⟩
  | cons p l ih => exact ih (s.zero (a p) n)

/-- What was 0 stays 0. -/
theorem State.zeroPages_zero (l : List Nat) (a : Nat → Nat) (n : Nat) {s : State} (canonical : Memory.wf s.mem = true) {x : Nat}
    (h : Memory.get s.mem x = 0) : Memory.get (l.foldl (fun (s : State) p => s.zero (a p) n) s).mem x = 0 := by
  induction l generalizing s with
  | nil => exact h
  | cons p l ih =>
    refine ih (s := s.zero (a p) n) (Memory.wf_clear (a p) n canonical) ?_
    refine (Memory.get_clear (a p) n x canonical).trans ?_
    split
    · exact h
    · rfl

theorem State.emptied_keeps (s : State) (d b : Nat) (pages : List Nat) : (s.emptied d b pages).rows = s.rows ∧
    (s.emptied d b pages).tiles = s.tiles ∧ (s.emptied d b pages).dies = s.dies :=
  State.zeroPages_keeps pages (fun p => expertAt d b (p * 65536)) 65536 _

/-- A little-endian value is 0 exactly when each of its bytes is. -/
theorem Memory.leNat_read_zero (m : List Host.Cell) (a n : Nat) :
    leNat (Memory.read m a n) = 0 ↔ ∀ i, a ≤ i → i < a + n → Memory.get m i = 0 := by
  induction n generalizing a with
  | zero => exact ⟨fun _ i low high => absurd high (by omega), fun _ => rfl⟩
  | succ n ih =>
    rw [Memory.read, leNat, Nat.add_eq_zero_iff, Nat.mul_eq_zero, ih]
    constructor
    · rintro ⟨first, rest⟩ i low high
      rcases Nat.eq_or_lt_of_le low with rfl | above
      · exact BitVec.eq_of_toNat_eq first
      · exact rest.resolve_left (by decide) i above (by omega)
    · intro h
      exact ⟨by rw [h a (Nat.le_refl a) (by omega)]; rfl, .inr fun i low high => h i (by omega) (by omega)⟩

section
variable {s : State} {d b : Nat} (pages : List Nat) (canonical : Memory.wf s.mem = true)
include canonical

theorem State.emptied_rows {x : Nat} (low : 64 ≤ x) (high : x < 65536) : Memory.get (s.emptied d b pages).mem (expertAt d b x) = 0 := by
  refine State.zeroPages_zero pages (fun p => expertAt d b (p * 65536)) 65536 (Memory.wf_clear _ _ (Memory.wf_write _ _ canonical)) ?_
  refine (Memory.get_clear _ _ _ (Memory.wf_write _ _ canonical)).trans (if_neg ?_)
  simp only [expertAt]
  omega

theorem State.emptied_count : (s.emptied d b pages).expertCount d b = 0 := by
  have written : State.readNat (s.writeNat (expertAt d b 0) 4 0) (expertAt d b 0) 4 = 0 := State.readNat_writeNat canonical _ 4 0
  refine (Memory.leNat_read_zero _ _ _).mpr fun x low high => ?_
  refine State.zeroPages_zero pages (fun p => expertAt d b (p * 65536)) 65536 (Memory.wf_clear _ _ (Memory.wf_write _ _ canonical)) ?_
  refine (Memory.get_clear _ _ _ (Memory.wf_write _ _ canonical)).trans ?_
  split
  · exact (Memory.leNat_read_zero _ _ _).mp written x low high
  · rfl

end

/-- The rows that a release lets arrive: none, where the die holds none. -/
theorem State.releaseExpert_eq {s : State} {d b : Nat} {e : Expert} (he : s.expert? d b = some e)
    (quiet : ∀ r ∈ s.rows, r.die = d → r.held = 0) :
    s.releaseExpert d b = State.modDie (if e.pinned then
        (s.emptied d b []).modDie d (fun x => { x with experts := keySet x.experts b { e with flushed := false } })
      else ((s.emptied d b e.pages).modDie d (fun x => { x with experts := keySet x.experts b { e with pages := [], flushed := false } })).modDie
        d (fun x => { x with poolFree := x.poolFree + e.pages.length })) d
      (fun x => { x with flushing := if x.flushing = some b then none else x.flushing }) := by
  have found : ∀ pages, (s.emptied d b pages).expert? d b = some e := fun pages => by
    rw [State.expert?, State.die, (s.emptied_keeps d b pages).2.2]
    exact he
  have kept : ((s.writeNat (expertAt d b 0) 4 0).zero (expertAt d b 64) (65536 - 64)).expert? d b = some e := he
  have still : ∀ u : State, u.rows = s.rows →
      u.retryRows (fun r => decide (r.die = d ∧ r.held ≠ 0 ∧ (r.buf = b ∨ r.held = 4 ∨ r.deferred))) = u := fun u hu =>
    State.retryRows_none fun r hr => decide_eq_false fun ⟨die, held, _⟩ => held (quiet r (hu ▸ hr) die)
  simp only [State.releaseExpert, kept]
  by_cases pinned : e.pinned = true
  · rw [if_pos pinned, if_pos pinned, State.modExpert_some kept]
    refine still _ ?_
    exact (s.emptied_keeps d b []).1
  · rw [if_neg pinned, if_neg pinned, State.modExpert_some (s := List.foldl _ _ _) (found e.pages)]
    refine still _ ?_
    exact (s.emptied_keeps d b e.pages).1

/-- EXPERT_RELEASE. -/
theorem expertRelease_empties {s : State} {d b : Nat} {e : Expert} (hd : d < Config.dies) (hb : b < 256)
    (canonical : Memory.wf s.mem = true) (he : s.expert? d b = some e) (quiet : ∀ r ∈ s.rows, r.die = d → r.held = 0) :
    ∃ t, exec (.expertRelease d b) s = .next t ∧ t.rows = s.rows ∧ t.tiles = s.tiles ∧ t.expertCount d b = 0 ∧
      (∀ x, 64 ≤ x → x < 65536 → Memory.get t.mem (expertAt d b x) = 0) ∧
      (e.pinned = false → (t.die d).poolFree = (s.die d).poolFree + e.pages.length ∧
        t.expert? d b = some { e with pages := [], flushed := false }) ∧
      (e.pinned = true → (t.die d).poolFree = (s.die d).poolFree ∧ t.expert? d b = some { e with flushed := false }) := by
  have canonical' : Memory.wf (s.writeNat (expertAt d b 8) 8 0).mem = true := Memory.wf_write _ _ canonical
  have released : exec (.expertRelease d b) s = .next ((s.writeNat (expertAt d b 8) 8 0).releaseExpert d b) := by
    show execExpertRelease d b s = _
    rw [execExpertRelease, if_pos ⟨hd, hb⟩, State.performAt_release hb canonical]
  rw [released, State.releaseExpert_eq (s := s.writeNat (expertAt d b 8) 8 0) he quiet]
  have kept := fun pages => (s.writeNat (expertAt d b 8) 8 0).emptied_keeps d b pages
  have die : ∀ pages, ((s.writeNat (expertAt d b 8) 8 0).emptied d b pages).die d = s.die d := fun pages => by
    rw [State.die, (kept pages).2.2]
    rfl
  have count := fun pages => State.emptied_count (d := d) (b := b) pages canonical'
  have rows := fun pages x low high => State.emptied_rows (d := d) (b := b) pages canonical' (x := x) low high
  cases pinned : e.pinned
  · rw [if_neg (by decide)]
    obtain ⟨sameRows, sameTiles, sameDies⟩ := kept e.pages
    refine ⟨_, rfl, sameRows, sameTiles, count e.pages, rows e.pages, fun _ => ?_, nofun⟩
    simp only [State.expert?, State.die_modDie, die, keyFind_keySet_same, true_and]
  · rw [if_pos rfl]
    obtain ⟨sameRows, sameTiles, sameDies⟩ := kept []
    refine ⟨_, rfl, sameRows, sameTiles, count [], rows [], nofun, fun _ => ?_⟩
    simp only [State.expert?, State.die_modDie, die, keyFind_keySet_same]
    simp

/-! ### The overflow decision (R359) -/

theorem overflowDecision_eq {s : State} {d b : Nat} (hd : d < Config.dies) (hb : b < 256) :
    exec (.overflowDecision d b) s = .next (s.decideOverflow d b) := by
  show execOverflowDecision d b s = _
  rw [execOverflowDecision, if_pos ⟨hd, hb⟩]

/-- Dropping rows counts them, and changes nothing else. -/
theorem State.dropRows_count (l : List Row) {s : State} (d b : Nat) (canonical : Memory.wf s.mem = true) :
    (l.foldl (fun (s : State) _ => s.dropRow d b) s).rows = s.rows ∧ (l.foldl (fun (s : State) _ => s.dropRow d b) s).msgs = s.msgs ∧
      (l.foldl (fun (s : State) _ => s.dropRow d b) s).tiles = s.tiles ∧
      (l.foldl (fun (s : State) _ => s.dropRow d b) s).readNat (expertAt d b 16) 8 = s.readNat (expertAt d b 16) 8 ∧
      (l.foldl (fun (s : State) _ => s.dropRow d b) s).readNat (expertAt d b 24) 4 =
        (s.readNat (expertAt d b 24) 4 + l.length) % 2 ^ 32 := by
  induction l generalizing s with
  | nil => exact ⟨rfl, rfl, rfl, rfl, (Nat.mod_eq_of_lt (State.readNat_lt s (expertAt d b 24) 4)).symm⟩
  | cons r l ih =>
    obtain ⟨rows, msgs, tiles, word, count⟩ := ih (s := s.dropRow d b) (Memory.wf_write _ _ canonical)
    have other : (s.dropRow d b).readNat (expertAt d b 16) 8 = s.readNat (expertAt d b 16) 8 :=
      State.readNat_writeNat_other canonical (by simp only [expertAt]; omega)
    have counted : (s.dropRow d b).readNat (expertAt d b 24) 4 = (s.readNat (expertAt d b 24) 4 + 1) % 2 ^ 32 % 2 ^ 32 :=
      State.readNat_writeNat canonical _ 4 _
    refine ⟨rows, msgs, tiles, word.trans other, ?_⟩
    rw [List.foldl_cons, count, counted, List.length_cons]
    omega

/-- A decision to drop. -/
theorem State.decideOverflow_drops {s : State} {d b : Nat} (drop : s.readNat (expertAt d b 16) 8 = 1) :
    s.decideOverflow d b = (s.rows.filter (fun r => decide (r.die = d ∧ r.buf = b ∧ r.held ≠ 0 ∧ r.held ≠ 4))).foldl
      (fun (s : State) _ => s.dropRow d b) { s.writeNat (expertAt d b 16) 8 0 with
        rows := s.rows.filter (fun r => !decide (r.die = d ∧ r.buf = b ∧ r.held ≠ 0 ∧ r.held ≠ 4)) } := by
  rw [State.decideOverflow, drop]
  rfl

/-- OVERFLOW_DECISION of a dword 1. -/
theorem overflowDecision_drops {s : State} {d b : Nat} (hd : d < Config.dies) (hb : b < 256) (canonical : Memory.wf s.mem = true)
    (drop : s.readNat (expertAt d b 16) 8 = 1) :
    ∃ t, exec (.overflowDecision d b) s = .next t ∧ t.readNat (expertAt d b 16) 8 = 0 ∧
      t.rows = s.rows.filter (fun r => !decide (r.die = d ∧ r.buf = b ∧ r.held ≠ 0 ∧ r.held ≠ 4)) ∧ t.msgs = s.msgs ∧ t.tiles = s.tiles ∧
      t.readNat (expertAt d b 24) 4 = (s.readNat (expertAt d b 24) 4 +
        (s.rows.filter (fun r => decide (r.die = d ∧ r.buf = b ∧ r.held ≠ 0 ∧ r.held ≠ 4))).length) % 2 ^ 32 := by
  obtain ⟨rows, msgs, tiles, word, count⟩ := State.dropRows_count
    (s.rows.filter (fun r => decide (r.die = d ∧ r.buf = b ∧ r.held ≠ 0 ∧ r.held ≠ 4))) (s := { s.writeNat (expertAt d b 16) 8 0 with
      rows := s.rows.filter (fun r => !decide (r.die = d ∧ r.buf = b ∧ r.held ≠ 0 ∧ r.held ≠ 4)) }) d b (Memory.wf_write _ _ canonical)
  have cleared : (s.writeNat (expertAt d b 16) 8 0).readNat (expertAt d b 16) 8 = 0 := State.readNat_writeNat canonical _ 8 0
  have other : (s.writeNat (expertAt d b 16) 8 0).readNat (expertAt d b 24) 4 = s.readNat (expertAt d b 24) 4 :=
    State.readNat_writeNat_other canonical (by simp only [expertAt]; omega)
  rw [overflowDecision_eq hd hb, State.decideOverflow_drops drop]
  exact ⟨_, rfl, word.trans cleared, rows, msgs, tiles, count.trans (by rw [← other]; rfl)⟩

/-! ### Configuration (R52, R359) -/

section
variable {s : State} {d : Nat}

theorem expertBufferConfiguration_new {b : Nat} (owner cls rowsz trig : Nat) (pinned : Bool) (hd : d < Config.dies) (hb : b < 256)
    (told : ∀ r ∈ s.rows, r.deferred = false) (absent : s.expert? d b = none) :
    exec (.expertBufferConfiguration d (.buffer b owner cls rowsz trig pinned)) s = .next (s.modDie d (fun x => { x with
      experts := keySet x.experts b ⟨owner, cls % 16, rowsz, trig, pinned, [], false, 0⟩ })) := by
  have untold : s.rows.find? (fun r => decide (r.die = d ∧ r.buf = b ∧ r.held ≠ 0) && r.deferred) = none :=
    List.find?_eq_none.mpr fun r hr => by simp [told r hr]
  show execExpertBufferConfiguration d (.buffer b owner cls rowsz trig pinned) s = _
  rw [execExpertBufferConfiguration, if_neg (by omega)]
  dsimp only
  rw [if_neg (by omega), absent]
  refine congrArg Host.Outcome.next ?_
  rw [State.tellAgain, State.modDie_rows, untold]
  rfl

variable (settled : ∀ r ∈ s.rows, r.die = d → r.held ≠ 4)
include settled

/-- Without a row that waits for a page, none arrives again. -/
theorem State.retryRows_settled (f : Die → Die) : (s.modDie d f).retryRows (fun r => decide (r.die = d ∧ r.held = 4)) = s.modDie d f :=
  State.retryRows_none fun r hr => decide_eq_false fun ⟨die, held⟩ => settled r hr die held

theorem expertBufferConfiguration_remove (b : Nat) (hd : d < Config.dies) :
    exec (.expertBufferConfiguration d (.remove b)) s = .next (s.modDie d (fun x => { x with
      experts := keyDel x.experts b
      poolFree := x.poolFree + ((s.expert? d b).map (fun e => e.pages.length)).getD 0
      flushing := if x.flushing = some b then none else x.flushing })) := by
  show execExpertBufferConfiguration d (.remove b) s = _
  rw [execExpertBufferConfiguration, if_neg (by omega)]
  exact congrArg Host.Outcome.next (State.retryRows_settled settled _)

theorem expertBufferConfiguration_pool {n : Nat} (hd : d < Config.dies) (room : (s.die d).poolPages - (s.die d).poolFree ≤ n) :
    ∃ t, exec (.expertBufferConfiguration d (.pool n)) s = .next t ∧ t.mem = s.mem ∧ t.rows = s.rows ∧ (t.die d).poolPages = n ∧
      (t.die d).poolFree = n - ((s.die d).poolPages - (s.die d).poolFree) := by
  have sized : exec (.expertBufferConfiguration d (.pool n)) s = .next (s.modDie d (fun x => { x with
      poolPages := max n ((s.die d).poolPages - (s.die d).poolFree), poolFree := n - ((s.die d).poolPages - (s.die d).poolFree) })) := by
    show execExpertBufferConfiguration d (.pool n) s = _
    rw [execExpertBufferConfiguration, if_neg (by omega)]
    exact congrArg Host.Outcome.next (State.retryRows_settled settled _)
  refine ⟨_, sized, rfl, rfl, ?_, ?_⟩
  · rw [State.die_modDie]
    exact Nat.max_eq_left room
  · rw [State.die_modDie]

end

/-- Settles O45: rows, releases, decisions and configurations one by one; dropped rows by induction over the rows that are held. -/
theorem expertBuffers : Obligations.ExpertBuffers :=
  ⟨fun _ _ _ _ hr held canonical _ _ hn => ⟨fun _ => expertRowArrival_lands hr held canonical hn,
      fun absent => ⟨expertRowArrival_dropped hr held canonical absent, expertRowArrival_held hr held absent⟩⟩,
    fun _ _ _ _ hd hb canonical he quiet => expertRelease_empties hd hb canonical he quiet,
    fun s _ _ hd hb canonical => ⟨fun zero => (overflowDecision_eq hd hb).trans (by rw [State.decideOverflow, zero]; rfl),
      overflowDecision_drops hd hb canonical⟩,
    fun _ _ b owner cls rowsz trig pinned hd hb told => ⟨expertBufferConfiguration_new owner cls rowsz trig pinned hd hb told,
      fun settled => expertBufferConfiguration_remove settled b hd, fun _ settled => expertBufferConfiguration_pool settled hd⟩⟩

end Sys2Proof.Machine
end

section
/-! PROOF. Power tokens: TREQ, TRET and TSTAT, and the proofer's grants, revocations, windows and rebuilds (R171, R174 to R178, R294,
R408, R409). -/

namespace Sys2Proof.Machine

/-! ### What moving loans and giving notice change -/

@[simp] theorem State.tile_modDie (s : State) (d : Nat) (f : Die → Die) (k : Nat) : (s.modDie d f).tile k = s.tile k := rfl

/-- A relation that each step of a fold keeps. -/
theorem foldl_keeps {α : Type} {R : State → State → Prop} (refl : ∀ s, R s s) (trans : ∀ {s t u}, R s t → R t u → R s u)
    {f : State → α → State} (step : ∀ s a, R s (f s a)) (l : List α) (s : State) : R s (l.foldl f s) := by
  induction l generalizing s with
  | nil => exact refl s
  | cons a l ih => exact trans (step s a) (ih (f s a))

/-- `t` is `s` with loans between zones moved or recalled. -/
structure Rebalanced (s t : State) : Prop where
  state : t = { s with dies := t.dies }
  die : ∀ d, t.die d = { s.die d with lent := (t.die d).lent, borrowed := (t.die d).borrowed, recalled := (t.die d).recalled }

theorem Rebalanced.refl (s : State) : Rebalanced s s := ⟨rfl, fun _ => rfl⟩
theorem Rebalanced.trans {s t u : State} (h : Rebalanced s t) (g : Rebalanced t u) : Rebalanced s u :=
  ⟨g.state.trans (by rw [h.state]), fun d => (g.die d).trans (by rw [h.die d])⟩
theorem Rebalanced.modDie (s : State) (e : Nat) {f : Die → Die}
    (hf : ∀ x, f x = { x with lent := (f x).lent, borrowed := (f x).borrowed, recalled := (f x).recalled }) : Rebalanced s (s.modDie e f) := by
  refine ⟨rfl, fun d => ?_⟩
  by_cases h : d = e
  · subst h
    rw [State.die_modDie]
    exact hf _
  · rw [State.die_modDie_other s f h]
theorem Rebalanced.tile {s t : State} (h : Rebalanced s t) (k : Nat) : t.tile k = s.tile k := by rw [h.state]; rfl
theorem Rebalanced.time {s t : State} (h : Rebalanced s t) (k : Nat) : t.timeOf k = s.timeOf k := by
  rw [State.timeOf, h.die]
  rfl

theorem State.lendTokens_rebalanced (s : State) (l b n : Nat) : Rebalanced s (s.lendTokens l b n) := by
  unfold State.lendTokens
  exact (Rebalanced.modDie s l fun _ => rfl).trans (Rebalanced.modDie _ b fun _ => rfl)
theorem State.repayTokens_rebalanced (s : State) (l b n : Nat) : Rebalanced s (s.repayTokens l b n) := by
  unfold State.repayTokens
  exact (Rebalanced.modDie s l fun _ => rfl).trans (Rebalanced.modDie _ b fun _ => rfl)

theorem State.askNeighbour_rebalanced (s : State) (d k : Nat) : Rebalanced s (s.askNeighbour d k) := by
  unfold State.askNeighbour
  split
  · exact .refl s
  · dsimp only
    split
    · exact .refl s
    · exact s.lendTokens_rebalanced ..

theorem State.repayNeighbour_rebalanced (s : State) (d k : Nat) : Rebalanced s (s.repayNeighbour d k) := by
  unfold State.repayNeighbour
  split
  · exact .refl s
  · dsimp only
    split
    · exact .refl s
    · exact s.repayTokens_rebalanced ..

theorem State.payRecalled_rebalanced (s : State) (d : Nat) : Rebalanced s (s.payRecalled d) :=
  foldl_keeps .refl .trans (fun s _ => (s.repayTokens_rebalanced ..).trans (.modDie _ d fun _ => rfl)) _ s

theorem State.balanceZone_rebalanced (s : State) (d : Nat) : Rebalanced s (s.balanceZone d) :=
  ((s.payRecalled_rebalanced d).trans (foldl_keeps .refl .trans (fun s k => s.repayNeighbour_rebalanced d k) _ _)).trans
    (foldl_keeps .refl .trans (fun s k => s.askNeighbour_rebalanced d k) _ _)

/-- `t` is `s` with notice given for some tokens, and loans moved or recalled. -/
structure Noticed (s t : State) : Prop where
  state : t = { s with tiles := t.tiles, dies := t.dies }
  die : ∀ d, t.die d = { s.die d with
    owed := (t.die d).owed, lent := (t.die d).lent, borrowed := (t.die d).borrowed, recalled := (t.die d).recalled }
  tile : ∀ k, t.tile k = { s.tile k with
    revoke := (t.tile k).revoke, deadline := (t.tile k).deadline, noticed := (t.tile k).noticed }

theorem Noticed.refl (s : State) : Noticed s s := ⟨rfl, fun _ => rfl, fun _ => rfl⟩
theorem Noticed.trans {s t u : State} (h : Noticed s t) (g : Noticed t u) : Noticed s u :=
  ⟨g.state.trans (by rw [h.state]), fun d => (g.die d).trans (by rw [h.die d]), fun k => (g.tile k).trans (by rw [h.tile k])⟩
theorem Rebalanced.noticed {s t : State} (h : Rebalanced s t) : Noticed s t :=
  ⟨h.state.trans (by rw [h.state]), fun d => (h.die d).trans (by rw [h.die d]), fun k => by rw [h.tile k]⟩

theorem Noticed.modTile (s : State) (v : Nat) {f : Tile → Tile}
    (hf : ∀ x, f x = { x with revoke := (f x).revoke, deadline := (f x).deadline, noticed := (f x).noticed }) :
    Noticed s (s.modTile v f) := by
  refine ⟨rfl, fun _ => rfl, fun j => ?_⟩
  by_cases h : j = v
  · subst h
    rw [State.tile_modTile]
    exact hf _
  · rw [State.tile_modTile_other s f h]
theorem Noticed.modDie (s : State) (e : Nat) {f : Die → Die}
    (hf : ∀ x, f x = { x with owed := (f x).owed, lent := (f x).lent, borrowed := (f x).borrowed, recalled := (f x).recalled }) :
    Noticed s (s.modDie e f) := by
  refine ⟨rfl, fun d => ?_, fun _ => rfl⟩
  by_cases h : d = e
  · subst h
    rw [State.die_modDie]
    exact hf _
  · rw [State.die_modDie_other s f h]

theorem State.revoke_noticed (s : State) (v k : Nat) (r : Option Nat) : Noticed s (s.revoke v k r) := by
  unfold State.revoke
  cases r with
  | none => exact .modTile s v fun _ => rfl
  | some r => exact (Noticed.modTile s v fun _ => rfl).trans (.modDie _ _ fun _ => rfl)

/-- Notice is given to victims alone. -/
theorem State.revoke_other (s : State) {v j : Nat} (k : Nat) (r : Option Nat) (h : j ≠ v) : (s.revoke v k r).tile j = s.tile j := by
  unfold State.revoke
  cases r with
  | none => exact State.tile_modTile_other s _ h
  | some r =>
    exact (State.tile_modDie ..).trans (State.tile_modTile_other s _ h)

theorem revokeFrom_noticed (r : Option Nat) (l : List Nat) (need : Nat) (s : State) : Noticed s (revokeFrom r l need s).2 := by
  induction l generalizing need s with
  | nil => exact .refl s
  | cons v l ih =>
    rw [revokeFrom]
    dsimp only
    split
    · exact .refl s
    · exact (s.revoke_noticed v _ r).trans (ih _ _)

theorem revokeFrom_other (r : Option Nat) (l : List Nat) (need : Nat) (s : State) {j : Nat} (h : j ∉ l) :
    (revokeFrom r l need s).2.tile j = s.tile j := by
  induction l generalizing need s with
  | nil => rfl
  | cons v l ih =>
    obtain ⟨first, rest⟩ := not_or.mp fun e => h (List.mem_cons.mpr e)
    rw [revokeFrom]
    dsimp only
    split
    · rfl
    · exact (ih _ _ rest).trans (s.revoke_other _ r first)

theorem revokeFrom_le (r : Option Nat) (l : List Nat) (need : Nat) (s : State) : (revokeFrom r l need s).1 ≤ need := by
  induction l generalizing need s with
  | nil => exact Nat.zero_le need
  | cons v l ih =>
    rw [revokeFrom]
    dsimp only
    split
    · exact Nat.zero_le need
    · have := ih (need - min need ((s.tile v).hold - 1)) (s.revoke v (min need ((s.tile v).hold - 1)) r)
      dsimp only
      omega

/-- With nothing needed no notice is given. -/
theorem revokeFrom_zero (r : Option Nat) (l : List Nat) (s : State) : revokeFrom r l 0 s = (0, s) := by
  cases l with
  | nil => rfl
  | cons v l =>
    rw [revokeFrom]
    simp only [Nat.zero_min, if_true]

theorem State.recallLoans_noticed (s : State) (d : Nat) : Noticed s (s.recallLoans d) := by
  refine foldl_keeps .refl .trans (fun s x => ?_) _ s
  exact ((s.repayTokens_rebalanced d x.1 _).noticed.trans (revokeFrom_noticed ..)).trans (Rebalanced.modDie _ x.1 fun _ => rfl).noticed

/-! ### Grants (R174) -/

theorem State.grant_closed {s : State} {k : Nat} (r : Nat) (h : (s.die (dieOf k)).closed = true) : s.grant k r = ((0, 0), s) := by
  simp only [State.grant, h, or_true, if_true]

theorem State.grant_ample {s : State} {k r : Nat} (opened : (s.die (dieOf k)).closed = false) (free : 0 < s.freeTokens (dieOf k))
    (enough : min r (fullRate k - (s.tile k).hold - (s.tile k).later) ≤ s.freeTokens (dieOf k)) :
    (s.grant k r).1 = (min r (fullRate k - (s.tile k).hold - (s.tile k).later), 0) := by
  simp only [State.grant, opened, Bool.false_eq_true, or_false, if_neg (Nat.pos_iff_ne_zero.mp free), Nat.min_eq_left enough,
    Nat.sub_self, revokeFrom_zero]
  split
  · next zero => rw [zero]
  · rfl

/-- Whatever is granted, the holding and LATER stay within the full rate. -/
theorem State.grant_bounds {s : State} {k : Nat} (r : Nat) (within : (s.tile k).hold + (s.tile k).later ≤ fullRate k) :
    (s.grant k r).2.mem = s.mem ∧ ((s.grant k r).2.die (dieOf k)).requests = (s.die (dieOf k)).requests ∧
      ((s.grant k r).2.tile k).hold + ((s.grant k r).2.tile k).later ≤ fullRate k ∧ (s.tile k).hold ≤ ((s.grant k r).2.tile k).hold ∧
      ((s.grant k r).2.tile k).w = (s.tile k).w := by
  rw [State.grant]
  dsimp only
  split
  · exact ⟨rfl, rfl, within, Nat.le_refl _, rfl⟩
  · have recalled : Noticed s (if s.freeTokens (dieOf k) = 0 then s.recallLoans (dieOf k) else s) := by
      split
      · exact s.recallLoans_noticed _
      · exact .refl s
    generalize (if s.freeTokens (dieOf k) = 0 then s.recallLoans (dieOf k) else s) = u at recalled ⊢
    generalize asked : min r (fullRate k - (s.tile k).hold - (s.tile k).later) = q
    generalize given : min q (u.freeTokens (dieOf k)) = now
    have holds : (u.setHold k ((s.tile k).hold + now) (u.timeOf k)).tile k = _ := State.tile_modTile u k _
    have count := revokeFrom_le (some k) ((u.setHold k ((s.tile k).hold + now) (u.timeOf k)).victims' (dieOf k) (s.tile k).eclass) (q - now)
      (u.setHold k ((s.tile k).hold + now) (u.timeOf k))
    have noticed := revokeFrom_noticed (some k) ((u.setHold k ((s.tile k).hold + now) (u.timeOf k)).victims' (dieOf k) (s.tile k).eclass)
      (q - now) (u.setHold k ((s.tile k).hold + now) (u.timeOf k))
    generalize revokeFrom (some k) ((u.setHold k ((s.tile k).hold + now) (u.timeOf k)).victims' (dieOf k) (s.tile k).eclass) (q - now)
      (u.setHold k ((s.tile k).hold + now) (u.timeOf k)) = p at count noticed ⊢
    have balanced := State.balanceZone_rebalanced (p.2.modTile k (fun t => { t with later := t.later + p.1 })) (dieOf k)
    have final := (balanced.tile k).trans (State.tile_modTile p.2 k _)
    rw [noticed.tile k, holds, recalled.tile k] at final
    refine ⟨?_, ?_, ?_, ?_, ?_⟩
    · rw [balanced.state]
      show p.2.mem = s.mem
      rw [noticed.state]
      show u.mem = s.mem
      rw [recalled.state]
    · rw [balanced.die]
      show (p.2.die (dieOf k)).requests = _
      rw [noticed.die]
      show (u.die (dieOf k)).requests = _
      rw [recalled.die]
    · rw [final]
      show (s.tile k).hold + now + ((s.tile k).later + p.1) ≤ fullRate k
      omega
    · rw [final]
      exact Nat.le_add_right _ _
    · rw [final]
      rfl

theorem State.serveRequest_first {s : State} {d k r : Nat} {l : List (Nat × Nat)} (h : (s.die d).requests = (k, r) :: l) :
    s.serveRequest d = ((s.modDie d (fun x => { x with requests := l })).grant k r).2 := by
  rw [State.serveRequest, h]

/-- TOKEN_GRANT of the oldest request. -/
theorem tokenGrant_bounds {s : State} {k n : Nat} {l : List (Nat × Nat)} (first : (s.die (dieOf k)).requests = (k, n) :: l)
    (within : (s.tile k).hold + (s.tile k).later ≤ fullRate k) :
    ∃ t, exec (.tokenGrant k n) s = .next t ∧ t.mem = s.mem ∧ (t.die (dieOf k)).requests = l ∧
      (t.tile k).hold + (t.tile k).later ≤ fullRate k ∧ (s.tile k).hold ≤ (t.tile k).hold ∧ (t.tile k).w = (s.tile k).w := by
  obtain ⟨mem, requests, bound, grows, w⟩ := State.grant_bounds (s := s.modDie (dieOf k) (fun x => { x with requests := l })) n within
  rw [State.die_modDie] at requests
  refine ⟨_, ?_, mem, requests, bound, grows, w⟩
  show execTokenGrant k n s = _
  rw [execTokenGrant, if_pos (by rw [first]; rfl), State.serveRequest_first first]

theorem tokenGrant_other {s : State} {k n : Nat} (h : (s.die (dieOf k)).requests.head? ≠ some (k, n)) :
    exec (.tokenGrant k n) s = .next s := by
  show execTokenGrant k n s = _
  rw [execTokenGrant, if_neg h]

/-! ### What falls due (R176, R177) -/

/-- One thing that is due comes about, and the zone balances. -/
theorem State.dueTokens_single {s : State} {d upto m k : Nat} {ret : Bool} (h : s.dueList d upto = [(m, k, ret)]) :
    s.dueTokens d upto = (if ret then s.applyReturns k else s.revocationDue k).balanceZone d := by
  rw [State.dueTokens, h]
  simp only [List.foldl_cons, List.foldl_nil, State.applyDue, h, orderBy, insertBy]

/-- No requester waits for tokens of `v`, or none pass. -/
theorem passOwed_none {v m : Nat} (l : List Owed) {n : Nat} (s : State) (h : n = 0 ∨ ∀ o ∈ l, o.victim ≠ v) : passOwed v m l n s = (l, s) := by
  induction l with
  | nil => rfl
  | cons o l ih =>
    have other : o.victim ≠ v ∨ n = 0 := h.elim .inr fun h => .inl (h o List.mem_cons_self)
    rw [passOwed, if_pos other, ih (h.imp_right fun h x hx => h x (List.mem_cons_of_mem _ hx))]

theorem State.passTokens_none {v n m : Nat} (s : State) (h : n = 0 ∨ ∀ o ∈ (s.die (dieOf v)).owed, o.victim ≠ v) :
    s.passTokens v n m = s.modDie (dieOf v) (fun d => { d with owed := (s.die (dieOf v)).owed }) := by
  rw [State.passTokens, passOwed_none _ s h]

/-- One requester waits for all the tokens of `v`. -/
theorem State.passTokens_one {v n m r : Nat} (s : State) (h : (s.die (dieOf v)).owed = [⟨r, v, n⟩]) (hn : n ≠ 0) :
    s.passTokens v n m = (State.setHold (s.modTile r (fun t => { t with later := t.later - n })) r
      (((s.modTile r (fun t => { t with later := t.later - n })).tile r).hold + n) m).modDie (dieOf v) (fun d => { d with owed := [] }) := by
  simp only [State.passTokens, h, passOwed, ne_eq, not_true_eq_false, hn, or_self, if_false, Nat.min_self, Nat.sub_self, if_true]

theorem State.tile_setHold (s : State) (k n m : Nat) : (s.setHold k n m).tile k = { (s.tile k).refilled k (m - 1) with
    hold := n, loanStart := if (s.tile k).hold = 0 ∧ 0 < n then m else (s.tile k).loanStart } := State.tile_modTile s k _
theorem State.tile_setHold_other (s : State) {k j : Nat} (n m : Nat) (h : j ≠ k) : (s.setHold k n m).tile j = s.tile j :=
  State.tile_modTile_other s _ h
/-- A holding that falls does not start a loan. -/
theorem State.tile_setHold_less (s : State) (k c m : Nat) : (s.setHold k ((s.tile k).hold - c) m).tile k =
    { (s.tile k).refilled k (m - 1) with hold := (s.tile k).hold - c } := by
  rw [State.tile_setHold, if_neg (by omega)]
  rfl

/-- The state in which core `k`'s revocation has come about at cycle `d`, before its tokens pass on. -/
def State.revoked (s : State) (k d : Nat) : State :=
  (s.setHold k ((s.tile k).hold - (s.tile k).revoke) d).modTile k (fun t => { t with revoke := 0, deadline := 0 })

theorem State.tile_revoked (s : State) (k d : Nat) : (s.revoked k d).tile k = { (s.tile k).refilled k (d - 1) with
    hold := (s.tile k).hold - (s.tile k).revoke, revoke := 0, deadline := 0 } := by
  rw [State.revoked, State.tile_modTile, State.tile_setHold_less]
theorem State.tile_revoked_other (s : State) {k j : Nat} (d : Nat) (h : j ≠ k) : (s.revoked k d).tile j = s.tile j :=
  (State.tile_modTile_other _ _ h).trans (s.tile_setHold_other _ _ h)

section
variable {s : State} {k d : Nat}

theorem revocationDeadline_early (hd : d = ceilDiv (s.tile k).deadline (windowLen k) * windowLen k) (early : s.timeOf k < d) :
    exec (.revocationDeadline k) s = .next s := by
  show execRevocationDeadline k s = _
  rw [execRevocationDeadline, windowStart, ← hd, if_neg (by omega)]

variable (hd : d = ceilDiv (s.tile k).deadline (windowLen k) * windowLen k) (noticed : (s.tile k).revoke ≠ 0) (due : d ≤ s.timeOf k)
  (alone : s.dueList (dieOf k) d = [(d, k, false)])
include hd noticed due alone

theorem revocationDeadline_due : exec (.revocationDeadline k) s =
    .next (((s.revoked k d).passTokens k (s.tile k).revoke d).balanceZone (dieOf k)) := by
  show execRevocationDeadline k s = _
  rw [execRevocationDeadline, windowStart, ← hd, if_pos ⟨noticed, due⟩, State.dueTokens_single alone]
  simp only [Bool.false_eq_true, if_false, State.revocationDue, windowStart, ← hd]
  rfl

theorem revocationDeadline_free (unowed : ∀ o ∈ (s.die (dieOf k)).owed, o.victim ≠ k) :
    ∃ t, exec (.revocationDeadline k) s = .next t ∧ t.mem = s.mem ∧
      t.tile k = { (s.tile k).refilled k (d - 1) with hold := (s.tile k).hold - (s.tile k).revoke, revoke := 0, deadline := 0 } ∧
      ∀ j, j ≠ k → t.tile j = s.tile j := by
  have passed := State.passTokens_none (v := k) (n := (s.tile k).revoke) (m := d) (s.revoked k d) (.inr unowed)
  have balanced := State.balanceZone_rebalanced ((s.revoked k d).passTokens k (s.tile k).revoke d) (dieOf k)
  have tile : ∀ j, (((s.revoked k d).passTokens k (s.tile k).revoke d).balanceZone (dieOf k)).tile j = (s.revoked k d).tile j :=
    fun j => (balanced.tile j).trans (by rw [passed]; rfl)
  refine ⟨_, revocationDeadline_due hd noticed due alone, ?_, (tile k).trans (s.tile_revoked k d),
    fun j h => (tile j).trans (s.tile_revoked_other d h)⟩
  rw [balanced.state]
  show State.mem (State.passTokens _ _ _ _) = _
  rw [passed]
  rfl

theorem revocationDeadline_owed {r : Nat} (owed : (s.die (dieOf k)).owed = [⟨r, k, (s.tile k).revoke⟩]) (other : r ≠ k) :
    ∃ t, exec (.revocationDeadline k) s = .next t ∧
      t.tile k = { (s.tile k).refilled k (d - 1) with hold := (s.tile k).hold - (s.tile k).revoke, revoke := 0, deadline := 0 } ∧
      (t.tile r).hold = (s.tile r).hold + (s.tile k).revoke ∧ (t.tile r).later = (s.tile r).later - (s.tile k).revoke ∧
      (t.die (dieOf k)).owed = [] ∧ ∀ j, j ≠ k → j ≠ r → t.tile j = s.tile j := by
  have passed := State.passTokens_one (m := d) (s.revoked k d) owed noticed
  have balanced := State.balanceZone_rebalanced ((s.revoked k d).passTokens k (s.tile k).revoke d) (dieOf k)
  have less := State.tile_modTile (s.revoked k d) r (fun t => { t with later := t.later - (s.tile k).revoke })
  have requester := ((balanced.tile r).trans (congrArg (fun u => State.tile u r) passed)).trans
    ((State.tile_modDie ..).trans (State.tile_setHold _ r _ d))
  have kept : ∀ j, j ≠ r → (((s.revoked k d).passTokens k (s.tile k).revoke d).balanceZone (dieOf k)).tile j = (s.revoked k d).tile j := by
    intro j h
    rw [balanced.tile, passed]
    exact (State.tile_setHold_other _ _ _ h).trans (State.tile_modTile_other _ _ h)
  rw [less, State.tile_revoked_other s d other] at requester
  refine ⟨_, revocationDeadline_due hd noticed due alone, (kept k other.symm).trans (s.tile_revoked k d), congrArg Tile.hold requester,
    congrArg Tile.later requester, ?_, fun j hk hr => (kept j hr).trans (s.tile_revoked_other d hk)⟩
  rw [balanced.die, passed, State.die_modDie]

end

/-! ### Windows (R171, R177) -/

theorem windowLen_pos (k : Nat) : 0 < windowLen k := by
  unfold windowLen
  split <;> decide

theorem Tile.refilled_starts {t : Tile} {k n now : Nat} (h : now / windowLen k * windowLen k = t.window + n * windowLen k) :
    (n = 0 → t.refilled k now = t) ∧ (0 < n → t.refilled k now = { t with
      bal := min (t.bal + n * t.hold) t.hold, sbal := min (t.sbal + n * t.hold) t.hold, window := now / windowLen k * windowLen k }) := by
  have count : (lastStart k now - t.window) / windowLen k = n := by
    rw [lastStart, h, Nat.add_sub_cancel_left, Nat.mul_div_cancel n (windowLen_pos k)]
  have start : max t.window (lastStart k now) = lastStart k now := Nat.max_eq_right (by rw [lastStart, h]; exact Nat.le_add_right _ _)
  constructor
  · rintro rfl
    have same : lastStart k now = t.window := by rw [lastStart, h, Nat.zero_mul, Nat.add_zero]
    unfold Tile.refilled refillMany
    rw [start, count, same]
    rfl
  · intro some
    unfold Tile.refilled refillMany
    rw [start, count]
    dsimp only
    rw [if_neg (Nat.pos_iff_ne_zero.mp some), if_neg (Nat.pos_iff_ne_zero.mp some)]
    rfl

section
variable {s : State} {k : Nat}

theorem issueWindow_early (idle : s.windowDue k = false) : exec (.issueWindow k) s = .next s := by
  show execIssueWindow k s = _
  rw [execIssueWindow, if_pos (.inr (.inr (by rw [idle]; rfl)))]

variable (hk : k < Config.tileSites) (task : (s.tile k).task ≠ none) (starts : s.windowDue k = true)
include hk task starts

theorem issueWindow_starts : exec (.issueWindow k) s = .next ((s.dueTokens (dieOf k) (s.timeOf k)).modTile k
    (fun t => t.refilled k ((s.dueTokens (dieOf k) (s.timeOf k)).timeOf k))) := by
  have going : ¬ (Config.tileSites ≤ k ∨ (s.tile k).task.isNone = true ∨ (!s.windowDue k) = true) := by
    rw [starts, Option.isNone_iff_eq_none]
    rintro (far | empty | no)
    · omega
    · exact task empty
    · cases no
  show execIssueWindow k s = _
  rw [execIssueWindow, if_neg going]

theorem issueWindow_refills (none : s.dueList (dieOf k) (s.timeOf k) = []) :
    exec (.issueWindow k) s = .next (s.setTile k ((s.tile k).refilled k (s.timeOf k))) := by
  rw [issueWindow_starts hk task starts, State.dueTokens, none]
  rfl

theorem issueWindow_returns {h m : Nat} (alone : s.dueList (dieOf k) (s.timeOf k) = [(m, k, true)]) (hm : m = (s.tile k).returnAt)
    (unnoticed : (s.tile k).revoke = 0) (hh : h = (s.tile k).hold - min (s.tile k).returns (s.tile k).hold) :
    ∃ t, exec (.issueWindow k) s = .next t ∧ t.mem = s.mem ∧ (∀ j, j ≠ k → t.tile j = s.tile j) ∧
      t.tile k = Tile.refilled { (s.tile k).refilled k (m - 1) with hold := h, returns := 0, returnAt := 0, deadline := 0 } k
        (s.timeOf k) := by
  have applied : s.applyReturns k = State.modDie ((s.setHold k h m).modTile k (fun t => { t with
      returns := 0, returnAt := 0, revoke := t.revoke - 0, deadline := if t.revoke - 0 = 0 then 0 else t.deadline })) (dieOf k)
        (fun d => { d with owed := (s.die (dieOf k)).owed }) := by
    simp only [State.applyReturns, unnoticed, Nat.min_zero, ← hh, ← hm]
    exact State.passTokens_none _ (.inl rfl)
  have balanced := State.balanceZone_rebalanced (s.applyReturns k) (dieOf k)
  have given : ((s.applyReturns k).balanceZone (dieOf k)).tile k =
      { (s.tile k).refilled k (m - 1) with hold := h, returns := 0, returnAt := 0, deadline := 0 } := by
    rw [balanced.tile, applied, State.tile_modDie, State.tile_modTile, hh, State.tile_setHold_less]
    simp only [Tile.refilled, unnoticed, Nat.sub_zero, if_true]
  rw [issueWindow_starts hk task starts, State.dueTokens_single alone, if_pos rfl]
  refine ⟨_, rfl, ?_, fun j other => ?_, ?_⟩
  · rw [State.modTile_mem, balanced.state]
    show State.mem (s.applyReturns k) = _
    rw [applied]
    rfl
  · rw [State.tile_modTile_other _ _ other, balanced.tile, applied, State.tile_modDie]
    exact (State.tile_modTile_other _ _ other).trans (s.tile_setHold_other _ _ other)
  · rw [State.tile_modTile, given, balanced.time, applied, State.timeOf, State.die_modDie]
    rfl

end

/-! ### A rebuild (R408, R409) -/

theorem keySet_sorted {α : Type} {l : List (Nat × α)} (h : (l.map (·.1)).Pairwise (· < ·)) (n : Nat) (x : α) :
    ((keySet l n x).map (·.1)).Pairwise (· < ·) ∧ ∀ e ∈ keySet l n x, e.1 = n ∨ e ∈ l := by
  induction l with
  | nil => exact ⟨List.pairwise_singleton _ _, fun e he => .inl (by rw [List.mem_singleton.mp he])⟩
  | cons e l ih =>
    obtain ⟨k, v⟩ := e
    rw [List.map_cons, List.pairwise_cons] at h
    obtain ⟨sorted, inside⟩ := ih h.2
    rw [keySet]
    split
    · next below =>
      refine ⟨?_, fun e he => (List.mem_cons.mp he).imp (congrArg Prod.fst) id⟩
      rw [List.map_cons, List.map_cons, List.pairwise_cons, List.pairwise_cons]
      refine ⟨fun m hm => ?_, h⟩
      rcases List.mem_cons.mp hm with rfl | hm
      · exact below
      · exact Nat.lt_trans below (h.1 m hm)
    · split
      · next same =>
        subst same
        refine ⟨?_, fun e he => (List.mem_cons.mp he).imp (congrArg Prod.fst) (List.mem_cons_of_mem _)⟩
        rw [List.map_cons, List.pairwise_cons]
        exact h
      · next above other =>
        refine ⟨?_, fun e he => ?_⟩
        · rw [List.map_cons, List.pairwise_cons]
          refine ⟨fun m hm => ?_, sorted⟩
          obtain ⟨e, he, rfl⟩ := List.mem_map.mp hm
          rcases inside e he with same | old
          · show k < e.1
            omega
          · exact h.1 _ (List.mem_map_of_mem old)
        · rcases List.mem_cons.mp he with rfl | he
          · exact .inr List.mem_cons_self
          · exact (inside e he).imp_right (List.mem_cons_of_mem _)

/-- In a list of rising keys an entry is what its key gives. -/
theorem keyGet_of_mem {α : Type} (x : α) {l : List (Nat × α)} (h : (l.map (·.1)).Pairwise (· < ·)) {e : Nat × α} (he : e ∈ l) :
    keyGet x l e.1 = e.2 := by
  induction l with
  | nil => cases he
  | cons f l ih =>
    rw [List.map_cons, List.pairwise_cons] at h
    rcases List.mem_cons.mp he with rfl | inside
    · simp [keyGet]
    · have above := h.1 _ (List.mem_map_of_mem inside)
      obtain ⟨k, v⟩ := f
      rw [keyGet, if_neg (by have : k < e.1 := above; omega)]
      exact ih h.2 inside

theorem mem_insertBy {α : Type} (f : α → α → Bool) (x y : α) (l : List α) : y ∈ insertBy f x l ↔ y = x ∨ y ∈ l := by
  induction l with
  | nil => simp [insertBy]
  | cons z l ih =>
    rw [insertBy]
    split
    · simp
    · simp only [List.mem_cons, ih]
      tauto

theorem mem_orderBy {α : Type} (f : α → α → Bool) (l : List α) {y : α} (h : y ∈ orderBy f l) : y ∈ l := by
  have all : ∀ (l r : List α), y ∈ l.foldl (fun r x => insertBy f x r) r → y ∈ l ∨ y ∈ r := by
    intro l
    induction l with
    | nil => exact fun r h => .inr h
    | cons x l ih =>
      intro r h
      rcases ih _ h with inside | rest
      · exact .inl (List.mem_cons_of_mem _ inside)
      · rcases (mem_insertBy f x y r).mp rest with rfl | rest
        · exact .inl List.mem_cons_self
        · exact .inr rest
  exact (all l [] h).resolve_right (fun h => nomatch h)

/-- A victim is not under notice. -/
theorem State.victims_unnoticed {s : State} (sorted : (s.tiles.map (·.1)).Pairwise (· < ·)) {d c k : Nat} (h : k ∈ s.victims' d c) :
    (s.tile k).revoke = 0 := by
  obtain ⟨e, he, rfl⟩ := List.mem_map.mp h
  obtain ⟨inside, chosen⟩ := List.mem_filter.mp (mem_orderBy _ _ he)
  simp only [Bool.and_eq_true, decide_eq_true_eq] at chosen
  obtain ⟨-, -, -, unnoticed⟩ := chosen
  rw [State.tile, keyGet_of_mem _ sorted inside, unnoticed]

/-- Cancelling LATER counts changes nothing else. -/
theorem cancelLater_keeps (l : List Nat) (n : Nat) (s : State) : (cancelLater l n s).mem = s.mem ∧ (cancelLater l n s).dies = s.dies ∧
    ((s.tiles.map (·.1)).Pairwise (· < ·) → ((cancelLater l n s).tiles.map (·.1)).Pairwise (· < ·)) ∧
    ∀ k, (cancelLater l n s).tile k = { s.tile k with later := ((cancelLater l n s).tile k).later } := by
  induction l generalizing n s with
  | nil => exact ⟨rfl, rfl, id, fun _ => rfl⟩
  | cons v l ih =>
    obtain ⟨mem, dies, sorted, tile⟩ := ih (n - min n (s.tile v).later) (s.modTile v (fun t => { t with later := t.later - min n (s.tile v).later }))
    refine ⟨mem, dies, fun h => sorted (keySet_sorted h v _).1, fun k => (tile k).trans ?_⟩
    by_cases h : k = v
    · subst h
      rw [State.tile_modTile]
      rfl
    · rw [State.tile_modTile_other s _ h]
      rfl

theorem State.shed_noticed (s : State) (d : Nat) : Noticed s (s.shed d) := revokeFrom_noticed ..

theorem State.shed_other {s : State} (sorted : (s.tiles.map (·.1)).Pairwise (· < ·)) {k : Nat} (d : Nat) (h : (s.tile k).revoke ≠ 0) :
    (s.shed d).tile k = s.tile k :=
  revokeFrom_other _ _ _ s fun victim => h (State.victims_unnoticed sorted victim)

/-- A rebuild changes no holding, no revocation that is pending, and of the die only what the proofer keeps. -/
theorem State.rebuildProofer_keeps {s : State} (d : Nat) (sorted : (s.tiles.map (·.1)).Pairwise (· < ·)) :
    (s.rebuildProofer d).mem = s.mem ∧ ((s.rebuildProofer d).die d).frozen = (s.die d).frozen ∧
      ((s.rebuildProofer d).die d).rebuilds = (s.die d).rebuilds ∧
      ∀ k, ((s.rebuildProofer d).tile k).hold = (s.tile k).hold ∧ ((s.tile k).revoke ≠ 0 →
        ((s.rebuildProofer d).tile k).revoke = (s.tile k).revoke ∧ ((s.rebuildProofer d).tile k).deadline = (s.tile k).deadline) := by
  rw [State.rebuildProofer]
  generalize List.map _ (orderBy _ (List.filter (fun e : Nat × Tile => decide (0 < e.2.later)) _)) = order
  generalize List.sum (α := Nat) _ - List.sum (α := Nat) _ = surplus
  obtain ⟨mem, dies, kept, tile⟩ := cancelLater_keeps order surplus s
  generalize cancelLater order surplus s = u at mem dies kept tile ⊢
  generalize pairOwed _ _ _ = owed
  have shed := (u.modDie d (fun x => { x with owed := owed })).shed_noticed d
  have die : ∀ x, u.die x = s.die x := fun x => by rw [State.die, dies]; rfl
  have hold : ∀ k, (u.tile k).hold = (s.tile k).hold := fun k => (congrArg Tile.hold (tile k) :)
  have revoke : ∀ k, (u.tile k).revoke = (s.tile k).revoke := fun k => (congrArg Tile.revoke (tile k) :)
  have deadline : ∀ k, (u.tile k).deadline = (s.tile k).deadline := fun k => (congrArg Tile.deadline (tile k) :)
  refine ⟨?_, ?_, ?_, fun k => ⟨?_, fun noticed => ?_⟩⟩
  · rw [shed.state]
    exact mem
  · rw [shed.die, State.die_modDie, die]
  · rw [shed.die, State.die_modDie, die]
  · rw [shed.tile, State.tile_modDie]
    exact hold k
  · have other := State.shed_other (s := u.modDie d (fun x => { x with owed := owed })) (kept sorted) d (k := k)
      (by rw [State.tile_modDie, revoke]; exact noticed)
    rw [other, State.tile_modDie]
    exact ⟨revoke k, deadline k⟩

section
variable {s : State} {d : Nat} {ok : Bool}

theorem prooferRebuild_frozen (h : (s.die d).frozen = true) : exec (.prooferRebuild d ok) s = .next s := by
  show execProoferRebuild d ok s = _
  rw [execProoferRebuild, if_pos (.inr h)]

variable (hd : d < Config.dies) (running : (s.die d).frozen = false)
include hd running

theorem prooferRebuild_fails (h : ok = false ∨ (s.die d).rebuilds ≠ 0) : ∃ t r, exec (.prooferRebuild d ok) s = .next t ∧
    t.tiles = s.tiles ∧ (t.die d).frozen = true ∧ (t.die d).pool = (s.die d).pool ∧ t.errlog = s.errlog ++ [r] ∧ r.sev = 3 ∧
    r.unit = 8 := by
  have fails : exec (.prooferRebuild d ok) s =
      .next ((s.modDie d (fun x => { x with frozen := true, rebuilds := x.rebuilds + 1 })).zoneRecord d 3) := by
    show execProoferRebuild d ok s = _
    rw [execProoferRebuild, if_neg (by rw [running]; rintro (far | no); omega; cases no), if_pos (by simpa using h)]
  obtain ⟨l, recorded⟩ := State.record_severe (s.modDie d (fun x => { x with frozen := true, rebuilds := x.rebuilds + 1 }))
    (r := unitRecord 3 8 0xFF d ((s.modDie d (fun x => { x with frozen := true, rebuilds := x.rebuilds + 1 })).partOfDie d))
    (by show 3 ≠ 0; decide)
  refine ⟨_, unitRecord 3 8 0xFF d ((s.modDie d (fun x => { x with frozen := true, rebuilds := x.rebuilds + 1 })).partOfDie d), fails, ?_⟩
  have die : State.die (s.modDie d (fun x => { x with frozen := true, rebuilds := x.rebuilds + 1 })) d = _ := State.die_modDie ..
  rw [State.zoneRecord, recorded]
  exact ⟨rfl, (congrArg Die.frozen die :), (congrArg Die.pool die :), rfl, rfl, rfl⟩

theorem prooferRebuild_succeeds (sorted : (s.tiles.map (·.1)).Pairwise (· < ·)) (first : (s.die d).rebuilds = 0) :
    ∃ t, exec (.prooferRebuild d true) s = .next t ∧ t.mem = s.mem ∧ (t.die d).frozen = false ∧ (t.die d).rebuilds = 1 ∧
      (t.die d).tripstat.getLsbD 3 = true ∧ ∀ k, (t.tile k).hold = (s.tile k).hold ∧ ((s.tile k).revoke ≠ 0 →
        (t.tile k).revoke = (s.tile k).revoke ∧ (t.tile k).deadline = (s.tile k).deadline) := by
  obtain ⟨mem, frozen, rebuilds, tiles⟩ := State.rebuildProofer_keeps d sorted
  refine ⟨((s.rebuildProofer d).modDie d (fun x => { x with rebuilds := x.rebuilds + 1, tripstat := x.tripstat ||| 8 })).zoneRecord d 0,
    ?_, ?_, ?_, ?_, ?_, fun k => ?_⟩
  · show execProoferRebuild d true s = _
    rw [execProoferRebuild, if_neg (by rw [running]; rintro (far | no); omega; cases no), if_neg (by simp [first])]
  · rw [State.zoneRecord, State.record_mem]
    exact mem
  · rw [State.zoneRecord, State.die, State.record_dies, ← State.die, State.die_modDie]
    exact frozen.trans running
  · rw [State.zoneRecord, State.die, State.record_dies, ← State.die, State.die_modDie]
    show ((s.rebuildProofer d).die d).rebuilds + 1 = 1
    rw [rebuilds, first]
  · rw [State.zoneRecord, State.die, State.record_dies, ← State.die, State.die_modDie]
    show (((s.rebuildProofer d).die d).tripstat ||| 8).getLsbD 3 = true
    rw [BitVec.getLsbD_or]
    simp
  · rw [State.zoneRecord, State.tile, State.record_tiles, ← State.tile]
    exact tiles k

end

/-! ### TREQ, TRET, TSTAT (R177, R178, R294) -/

section
variable {s : State} {d r : Fin 64} {sw : Bool} {n : Nat}

theorem tokenOperand_ok (hr : s.here.bound r = none) (hn : n = (s.here.getX r).toNat) (small : n < 2 ^ 8) :
    tokenOperand r s = .ok n s := by
  have zero : bf n 8 (64 - 8) = 0 := by
    rw [bf, Nat.div_eq_of_lt small, Nat.zero_mod]
  simp only [tokenOperand, op_bind, readN_ready hr, ← hn, zeroField_of zero, op_pure]
  rw [Nat.mod_eq_of_lt (b := 256) small]

/-- An instruction that waits for nothing, and whose body leads to `v` and does `f` to the core there. -/
theorem Meta.Simple.leadsTo {m : Meta} (h : m.Simple) {body : Op Flow} {s v t : State} {f : Tile → Tile}
    (hr : Ready s (m.reads ++ m.writes)) (hb : body s = .ok .seq t) (hu : Upd v t f) (hf : KeepsFlow f v.here)
    (ha : m.NoAppend v.here) : Through (issue m body s) v m.len m.named f :=
  issue_through' (settle_none h.sync h.engine h.drain s) (unsettled_none h.engine h.drain s)
    (hr.passes h.kinds h.priv h.mustS h.clash) hb hu hf ha

/-- A register that no generator is bound to is not appended to. -/
theorem Tile.appends_unbound {t : Tile} {n : Nat} (h : t.bound n = none) : t.appends (.w, n) = false := by
  simp [Tile.appends, h]

theorem treq_grants {v : State} (hr : Ready s [wr r, wr d]) (hn : n = (s.here.getX r).toNat) (small : n < 2 ^ 8)
    (hv : v = s.serveAll (dieOf s.cur)) (free : (v.grant s.cur n).2.here.bound d = none) :
    Through (exec (.treq d r sw) s) (v.grant s.cur n).2 4 (results [wr d])
      (fun u => u.putX d (BitVec.ofNat 64 ((v.grant s.cur n).1.1 + (v.grant s.cur n).1.2 * 2 ^ 8))) := by
  obtain ⟨t, body, upd⟩ := writeN_seqFlow ((v.grant s.cur n).1.1 + (v.grant s.cur n).1.2 * 256) free
  refine (metaD_simple 0x3A 0 sw [wr r] [wr d]).leadsTo (t := t) hr ?_ upd (KeepsFlow.putX ..) fun w hw => ?_
  · simp only [op_bind, tokenOperand_ok (hr.unbound (n := r) (by simp [wr])) hn small, op_get, op_set, ← hv]
    rw [op_bind] at body
    exact body
  · rw [List.mem_singleton.mp hw]
    exact Tile.appends_unbound free

theorem ceilDiv_succ (n L : Nat) : ceilDiv (n + 1) L = (n + L) / L := by
  rw [ceilDiv]
  congr 1
  omega

theorem tret_marks {v : State} (hr : Ready s [wr r, wr d]) (hn : n = (s.here.getX r).toNat) (small : n < 2 ^ 8)
    (hv : v = s.dueTokens (dieOf s.cur) (s.timeOf s.cur)) (cur : v.cur = s.cur) :
    Through (exec (.tret r sw) s) v 4 [] (fun u => { u with
      returns := min (u.returns + min n u.hold) u.hold
      returnAt := (v.timeOf s.cur + windowLen s.cur) / windowLen s.cur * windowLen s.cur }) := by
  refine (metaD_simple 0x3A 1 sw [wr r] []).leadsTo (t := v.modTile v.cur _) (hr.mono fun q hq => ?_) ?_ (.inr rfl) ⟨rfl, rfl, rfl, rfl, rfl⟩
    fun w hw => nomatch hw
  · rw [List.mem_singleton.mp hq]
    exact List.mem_cons_self
  · simp only [op_bind, tokenOperand_ok (hr.unbound (n := r) (by simp [wr])) hn small, op_modify, op_get, ← hv, op_modT, op_seqFlow,
      windowStart, cur, ceilDiv_succ]

theorem tstat_answers (hr : Ready s [wr d]) : CompletesDeferred (.tstat d sw) s [wr d] (fun u => u.putX d (BitVec.ofNat 64
    (u.hold % 2 ^ 8 + (if u.revoke ≠ 0 ∧ u.noticed ≤ s.timeOf s.cur then u.revoke % 2 ^ 8 * 2 ^ 8 + u.deadline % 2 ^ 32 * 2 ^ 32 else 0) +
      u.later % 2 ^ 8 * 2 ^ 16))) := by
  obtain ⟨t, body, upd⟩ := writeN_seqFlow (s := s) (s.here.tokenWord (s.timeOf s.cur)) (hr.unbound (n := d) (by simp [wr]))
  have answered : Through (exec (.tstat d sw) s) s 4 (results [wr d])
      (fun u => u.putX d (BitVec.ofNat 64 (s.here.tokenWord (s.timeOf s.cur)))) :=
    (metaD_simple 0x3A 2 sw [] [wr d]).through (t := t) hr (by rw [op_bind, op_get]; exact body) upd (KeepsFlow.putX ..)
  refine answered.of_here ?_
  simp only [Tile.tokenWord, decide_eq_true_eq]
  rfl

end

/-- TREQ, TRET and TSTAT. -/
theorem tokenInstructions : TokenInstructions := fun s v d r sw n hr hn small =>
  ⟨fun hv free _ => treq_grants hr hn small hv free, State.grant_closed n, State.grant_ample, fun hv cur => tret_marks hr hn small hv cur,
    tstat_answers (hr.mono fun q hq => List.mem_cons_of_mem _ hq)⟩

/-- The proofer's events. -/
theorem prooferEvents : ProoferEvents :=
  ⟨fun s k n => ⟨tokenGrant_other, fun l => tokenGrant_bounds⟩,
    fun s k d hd noticed => ⟨revocationDeadline_early hd, fun due alone => ⟨revocationDeadline_free hd noticed due alone,
      fun r => revocationDeadline_owed hd noticed due alone⟩⟩,
    fun s k h m hk task => ⟨issueWindow_early, fun starts => ⟨issueWindow_refills hk task starts, issueWindow_returns hk task starts⟩⟩,
    fun t k n now => Tile.refilled_starts,
    fun s d ok hd sorted => ⟨prooferRebuild_frozen, fun running => ⟨prooferRebuild_fails hd running, fun hok =>
      hok ▸ prooferRebuild_succeeds hd running sorted⟩⟩⟩

/-- Settles O46: token instructions by their bodies; the proofer's events by what moving loans and giving notice may change. -/
theorem tokenResults : Obligations.TokenResults := ⟨tokenInstructions, prooferEvents⟩

end Sys2Proof.Machine
end

section
/-! PROOF. Tiles: loss, retirement, gating, fusing, drowsy banks, refresh and the debug port (R73, R74, R398 to R406, R427). -/

namespace Sys2Proof.Machine

/-! ### A lost tile (R398, R400) -/

theorem State.live_of {s : State} {k : Nat} (hk : k < Config.tileSites) (h : k ∉ s.vacant) : s.live k = true := by
  simp [State.live, hk, h]
theorem State.not_live_of {s : State} {k : Nat} (h : k ∈ s.vacant) : s.live k = false := by
  simp [State.live, h]

theorem tileLost_vacant {s : State} {k : Nat} (a : Nat) (h : k ∈ s.vacant) : exec (.tileLost k a) s = .next s := by
  show execTileLost k a s = _
  rw [execTileLost, State.loseTile, State.not_live_of h]
  rfl

/-- The record of a lost tile. -/
def State.lossReport (s : State) (k a : Nat) : ErrReport := { unitRecord 3 0 a (s.nameOf k) (s.partOf k) with name := s.nameOf k }

theorem State.lostRecord_eq (s : State) (k a : Nat) :
    ∃ l, s.lostRecord k a = { s with errlog := s.errlog ++ [s.lossReport k a], msgs := s.msgs ++ l } :=
  State.record_severe s (r := s.lossReport k a) (by show 3 ≠ 0; decide)

theorem State.lostRecord_tile (s : State) (k a : Nat) {j : Nat} : (s.lostRecord k a).tile j = s.tile j :=
  State.tile_of_tiles (State.record_tiles s _) j

section
variable {s : State} {k : Nat} (a : Nat) (hk : k < Config.tileSites) (live : k ∉ s.vacant) (alone : (s.tile k).memberOf = none)
include hk live alone

/-- A lost tile that is no member of a chord. -/
theorem tileLost_alone : exec (.tileLost k a) s =
    .next { (s.lostRecord k a).loseTask k with vacant := ((s.lostRecord k a).loseTask k).vacant ++ [k] } := by
  have member : (s.lostRecord k a).loseMember k = s.lostRecord k a := by
    rw [State.loseMember, s.lostRecord_tile k a, alone]
  show execTileLost k a s = _
  rw [execTileLost, State.loseTile, if_neg (by rw [State.live_of hk live]; decide), member]

theorem tileLost_idle (idle : (s.tile k).task = none) : ∃ t r, exec (.tileLost k a) s = .next t ∧ t.vacant = s.vacant ++ [k] ∧
    t.errlog = s.errlog ++ [r] ∧ r.sev = 3 ∧ r.unit = 0 ∧ r.array = a ∧ r.name = s.nameOf k ∧ t.tiles = s.tiles ∧ t.mem = s.mem := by
  have task : (s.lostRecord k a).loseTask k = s.lostRecord k a := by
    rw [State.loseTask, s.lostRecord_tile k a, idle]
  obtain ⟨l, recorded⟩ := s.lostRecord_eq k a
  rw [tileLost_alone a hk live alone, task, recorded]
  exact ⟨_, s.lossReport k a, rfl, rfl, rfl, rfl, rfl, rfl, rfl, rfl, rfl⟩

theorem tileLost_task {r : TaskRef} (task : (s.tile k).task = some r) : ∃ u v : State, u.errlog.length = s.errlog.length + 1 ∧
    u.tiles = s.tiles ∧ u.grids = s.grids ∧ v = u.abortGrid r.grid 0x00FF0038#64 ∧
    exec (.tileLost k a) s = .next (if (v.tile k).task = none then { v with vacant := v.vacant ++ [k] }
      else { v.stopTask k with vacant := (v.stopTask k).vacant ++ [k] }) := by
  obtain ⟨l, recorded⟩ := s.lostRecord_eq k a
  refine ⟨s.lostRecord k a, _, ?_, ?_, ?_, rfl, ?_⟩
  · rw [recorded]
    exact List.length_append ..
  · rw [recorded]
  · rw [recorded]
  · have ends : (s.lostRecord k a).loseTask k =
        if (((s.lostRecord k a).abortGrid r.grid 0x00FF0038#64).tile k).task.isSome then
          ((s.lostRecord k a).abortGrid r.grid 0x00FF0038#64).stopTask k else (s.lostRecord k a).abortGrid r.grid 0x00FF0038#64 := by
      rw [State.loseTask, s.lostRecord_tile k a, task]
      rfl
    rw [tileLost_alone a hk live alone, ends]
    cases (((s.lostRecord k a).abortGrid r.grid 0x00FF0038#64).tile k).task with
    | none => rfl
    | some q => rfl

end

/-! ### A retired tile (R403, R427) -/

theorem State.takeEvents_tile (s : State) (k : Nat) :
    (s.takeEvents k).tile k = { s.tile k with slotEvents := 0, latticeEvents := 0 } := by
  unfold State.takeEvents
  dsimp only
  split
  · exact State.tile_modTile ..
  · exact State.tile_modTile ..
theorem State.takeEvents_other (s : State) {k j : Nat} (h : j ≠ k) : (s.takeEvents k).tile j = s.tile j := by
  unfold State.takeEvents
  dsimp only
  split
  · exact State.tile_modTile_other _ _ h
  · exact (State.tile_modTile_other _ _ h).trans (State.tile_modDie ..)
@[simp] theorem State.timeOf_modTile (s : State) (k : Nat) (f : Tile → Tile) (j : Nat) : (s.modTile k f).timeOf j = s.timeOf j := rfl
theorem State.timeOf_modDie (s : State) (d : Nat) {f : Die → Die} (h : ∀ x, (f x).time = x.time) (j : Nat) :
    (s.modDie d f).timeOf j = s.timeOf j := by
  unfold State.timeOf
  by_cases same : dieOf j = d
  · rw [same, State.die_modDie, h]
  · rw [State.die_modDie_other s f same]
theorem State.takeEvents_time (s : State) (k j : Nat) : (s.takeEvents k).timeOf j = s.timeOf j := by
  unfold State.takeEvents
  dsimp only
  split
  · rfl
  · rw [State.timeOf_modTile]
    refine State.timeOf_modDie _ _ ?_ j
    exact fun _ => rfl
/-- What is counted lies in the dies and the tile. -/
theorem State.takeEvents_eq (s : State) (k : Nat) :
    s.takeEvents k = { s with dies := (s.takeEvents k).dies, tiles := (s.takeEvents k).tiles } := by
  unfold State.takeEvents
  dsimp only
  split <;> rfl

theorem nextGen_eq (g : Nat) : nextGen g = if g = 255 then 1 else g + 1 := rfl

/-- A name that is bound to a spare, or made vacant. -/
theorem State.rebind_keeps (s : State) (k : Nat) (spare : Bool) : (s.rebind k spare).gen = (if s.gen = 255 then 1 else s.gen + 1) ∧
    (s.rebind k spare).tile k = { Tile.idle with svc := (s.tile k).svc, idleSince := s.timeOf k } ∧
    (∀ j, j ≠ k → (s.rebind k spare).tile j = s.tile j) ∧
    (spare = true → k ∉ (s.rebind k spare).vacant ∧ (s.rebind k spare).retired = s.retired ∧
      ∃ x, keyFind (s.rebind k spare).remap k = some x) ∧
    (spare = false → k ∈ (s.rebind k spare).vacant ∧ k ∈ (s.rebind k spare).retired ∧ keyFind (s.rebind k spare).remap k = none) ∧
    (s.rebind k spare).mem = s.mem := by
  have counted := s.takeEvents_eq k
  have tile : ∀ j, (s.rebind k spare).tile j = ((s.takeEvents k).modTile k (fun t => { Tile.idle with
      svc := t.svc, idleSince := (s.takeEvents k).timeOf k })).tile j := State.tile_of_tiles rfl
  refine ⟨?_, ?_, fun j h => ?_, ?_, ?_, ?_⟩
  · show nextGen (s.takeEvents k).gen = _
    rw [counted, nextGen_eq]
  · rw [tile, State.tile_modTile, s.takeEvents_tile, s.takeEvents_time]
  · rw [tile, State.tile_modTile_other _ _ h, s.takeEvents_other h]
  · rintro rfl
    refine ⟨?_, ?_, ?_⟩
    · show k ∉ (s.takeEvents k).vacant.filter (· ≠ k)
      simp
    · show (s.takeEvents k).retired = _
      rw [counted]
    · exact ⟨_, keyFind_keySet_same ..⟩
  · rintro rfl
    exact ⟨List.mem_append_right _ (List.mem_singleton_self k), List.mem_append_right _ (List.mem_singleton_self k), keyFind_keyDel_same ..⟩
  · exact s.takeEvents_mem k

section
variable {s : State} {k : Nat} (spare : Bool) (hk : k < Config.tileSites) (held : k ∉ s.retired) (alone : (s.tile k).memberOf = none)
include hk held alone

theorem State.retireTile_task (task : (s.tile k).task ≠ none) : s.retireTile k spare = s.saveGridOf k := by
  have holder : s.holderOf k = k := by rw [State.holderOf, alone]; rfl
  rw [State.retireTile, if_neg (by simp [hk, held]), holder, if_pos (Option.isSome_iff_ne_none.mpr task)]

theorem State.retireTile_free (idle : (s.tile k).task = none) :
    s.retireTile k spare = if s.quiescent then s.rebind k spare else s := by
  have holder : s.holderOf k = k := by rw [State.holderOf, alone]; rfl
  rw [State.retireTile, if_neg (by simp [hk, held]), holder, idle]
  rfl

end

/-- An entry whose value differs from the default is in its list. -/
theorem mem_of_keyGet {α : Type} {x : α} {l : List (Nat × α)} {k : Nat} (h : keyGet x l k ≠ x) : (k, keyGet x l k) ∈ l := by
  induction l with
  | nil => exact absurd rfl h
  | cons e l ih =>
    obtain ⟨n, v⟩ := e
    rw [keyGet] at h ⊢
    split
    · next same => exact same ▸ List.mem_cons_self
    · next other =>
      rw [if_neg other] at h
      exact List.mem_cons_of_mem _ (ih h)

/-- A core with a task is among the cores of its grid. -/
theorem State.mem_coresOf {s : State} {k : Nat} {r : TaskRef} (h : (s.tile k).task = some r) : k ∈ s.coresOf r.grid := by
  have listed : (k, s.tile k) ∈ s.tiles := mem_of_keyGet fun idle => by
    have none : (s.tile k).task = none := by rw [State.tile, idle]; rfl
    rw [none] at h
    cases h
  refine List.mem_map.mpr ⟨_, List.mem_filter.mpr ⟨listed, ?_⟩, rfl⟩
  simp [h]

/-- Every core of a list is to stop, and nothing else changes. -/
theorem State.stopAll_keeps (w : StopReq) (l : List Nat) (s : State) :
    (l.foldl (fun (s : State) k => s.modTile k (fun t => { t with stop := some w })) s) =
      { s with tiles := (l.foldl (fun (s : State) k => s.modTile k (fun t => { t with stop := some w })) s).tiles } ∧
    ∀ k, (k ∈ l ∨ (s.tile k).stop = some w) →
      ((l.foldl (fun (s : State) k => s.modTile k (fun t => { t with stop := some w })) s).tile k).stop = some w := by
  induction l generalizing s with
  | nil => exact ⟨rfl, fun k h => h.resolve_left (fun h => nomatch h)⟩
  | cons x l ih =>
    obtain ⟨same, stops⟩ := ih (s.modTile x (fun t => { t with stop := some w }))
    refine ⟨same, fun k h => stops k ?_⟩
    by_cases here : k = x
    · subst here
      exact .inr (by rw [State.tile_modTile])
    · rw [State.tile_modTile_other s _ here]
      exact h.imp_left fun h => (List.mem_cons.mp h).resolve_left here

theorem State.beginSave_running {s : State} {k : Nat} {r : TaskRef} {g : Grid} (task : (s.tile k).task = some r)
    (hg : s.grid? r.grid = some g) (hold : Bool) (sever : Option (Nat × Nat)) :
    (s.beginSave r.grid hold sever).gen = s.gen ∧ (s.beginSave r.grid hold sever).mem = s.mem ∧
      (s.beginSave r.grid hold sever).grid? r.grid = some { g with phase := .saving, hold := hold, sever := sever } ∧
      ((s.beginSave r.grid hold sever).tile k).stop = some .save := by
  have modified := State.modGrid_eq s r.grid (fun g => { g with phase := .saving, hold := hold, sever := sever })
  have found := State.grid?_modGrid hg (fun g => { g with phase := .saving, hold := hold, sever := sever })
  have core : k ∈ (s.modGrid r.grid (fun g => { g with phase := .saving, hold := hold, sever := sever })).coresOf r.grid := by
    rw [modified]
    exact State.mem_coresOf task
  obtain ⟨same, stops⟩ := State.stopAll_keeps .save ((s.modGrid r.grid (fun g => { g with phase := .saving, hold := hold, sever := sever })).coresOf
    r.grid) (s.modGrid r.grid (fun g => { g with phase := .saving, hold := hold, sever := sever }))
  refine ⟨(congrArg State.gen same).trans ?_, (congrArg State.mem same).trans ?_, (congrArg (fun u => State.grid? u r.grid) same).trans found,
    stops k (.inl core)⟩
  · rw [modified]
  · rw [modified]

section
variable {s : State} {k : Nat} (spare : Bool) (hk : k < Config.tileSites) (held : k ∉ s.retired) (alone : (s.tile k).memberOf = none)
include hk held alone

theorem tileRetire_quiet (idle : (s.tile k).task = none) (quiet : s.quiescent = true) : ∃ t, exec (.tileRetire k spare) s = .next t ∧
    t.gen = (if s.gen = 255 then 1 else s.gen + 1) ∧ t.tile k = { Tile.idle with svc := (s.tile k).svc, idleSince := s.timeOf k } ∧
    (∀ j, j ≠ k → t.tile j = s.tile j) ∧ (spare = true → k ∉ t.vacant ∧ t.retired = s.retired ∧ ∃ x, keyFind t.remap k = some x) ∧
    (spare = false → k ∈ t.vacant ∧ k ∈ t.retired ∧ keyFind t.remap k = none) ∧ t.mem = s.mem := by
  refine ⟨s.rebind k spare, ?_, s.rebind_keeps k spare⟩
  show execTileRetire k spare s = _
  rw [execTileRetire, State.retireTile_free spare hk held alone idle, quiet]
  rfl

theorem tileRetire_busy (idle : (s.tile k).task = none) (busy : s.quiescent = false) : exec (.tileRetire k spare) s = .next s := by
  show execTileRetire k spare s = _
  rw [execTileRetire, State.retireTile_free spare hk held alone idle, busy]
  rfl

theorem tileRetire_running {r : TaskRef} {g : Grid} (task : (s.tile k).task = some r) (hg : s.grid? r.grid = some g)
    (running : g.phase = .running) (whole : g.abort = none) : ∃ t, exec (.tileRetire k spare) s = .next t ∧ t.gen = s.gen ∧ t.mem = s.mem ∧
      t.grid? r.grid = some { g with phase := .saving, hold := false, sever := none } ∧ (t.tile k).stop = some .save := by
  refine ⟨s.beginSave r.grid false none, ?_, State.beginSave_running task hg false none⟩
  have holder : s.holderOf k = k := by rw [State.holderOf, alone]; rfl
  have saved : s.saveGridOf k = s.beginSave r.grid false none := by
    rw [State.saveGridOf, holder, task]
    dsimp only
    rw [hg]
    exact if_pos ⟨running, whole⟩
  show execTileRetire k spare s = _
  rw [execTileRetire, State.retireTile_task spare hk held alone (by rw [task]; exact Option.some_ne_none r), saved]

end

/-! ### Power gating, fusing, drowsy banks (R73, R404, R406) -/

theorem tilePowerGating_off {s : State} {k : Nat} (idle : s.idle k = true) (hold : (s.tile k).hold = 0) (on : k ∉ s.gated) :
    exec (.tilePowerGating k) s = .next { s with gated := s.gated ++ [k] } := by
  show execTilePowerGating k s = _
  rw [execTilePowerGating, if_pos (by simp [idle, hold, on])]

theorem tilePowerGating_keeps {s : State} {k : Nat} (h : s.idle k = false ∨ (s.tile k).hold ≠ 0) : exec (.tilePowerGating k) s = .next s := by
  show execTilePowerGating k s = _
  rw [execTilePowerGating, if_neg]
  rcases h with busy | holds
  · simp [busy]
  · simp [holds]

theorem laneQuadFusing_beyond {s : State} {k q : Nat} (h : 4 ≤ q) : exec (.laneQuadFusing k q) s = .next s := by
  show execLaneQuadFusing k q s = _
  rw [execLaneQuadFusing, if_pos (.inr h)]

section
variable {s : State} {k q : Nat} (hk : k < Config.tileSites) (hq : q < 4) (alone : (s.tile k).memberOf = none)
  (idle : (s.tile k).task = none) (live : (k, q) ∉ s.fused)
include hk hq alone idle live

/-- One more lane quad of a free core is fused. -/
theorem laneQuadFusing_fused : exec (.laneQuadFusing k q) s =
    .next (if 4 ≤ (s.fused.filter (fun x => decide (x.1 = k))).length + 1 then
      State.retireTile { s with fused := s.fused ++ [(k, q)] } k false else { s with fused := s.fused ++ [(k, q)] }) := by
  have holder : s.holderOf k = k := by rw [State.holderOf, alone]; rfl
  have count : ((s.fused ++ [(k, q)]).filter (fun x => decide (x.1 = k))).length =
      (s.fused.filter (fun x => decide (x.1 = k))).length + 1 := by
    rw [List.filter_append, List.length_append]
    simp
  have new : s.fused.contains (k, q) = false := by simpa using live
  show execLaneQuadFusing k q s = _
  rw [execLaneQuadFusing, if_neg (by simp only [laneQuads]; omega), if_neg (by rw [holder, idle]; decide), new]
  simp only [Bool.false_eq_true, if_false, count]
  rfl

theorem laneQuadFusing_some (few : (s.fused.filter (fun x => decide (x.1 = k))).length < 3) :
    exec (.laneQuadFusing k q) s = .next { s with fused := s.fused ++ [(k, q)] } := by
  rw [laneQuadFusing_fused hk hq alone idle live, if_neg (by omega)]

theorem laneQuadFusing_last (three : (s.fused.filter (fun x => decide (x.1 = k))).length = 3) (held : k ∉ s.retired)
    (quiet : s.quiescent = true) : ∃ t, exec (.laneQuadFusing k q) s = .next t ∧ k ∈ t.vacant ∧ k ∈ t.retired ∧
      ∀ j, j ≠ k → t.tile j = s.tile j := by
  obtain ⟨-, -, other, -, gone, -⟩ := State.rebind_keeps { s with fused := s.fused ++ [(k, q)] } k false
  obtain ⟨vacant, retired, -⟩ := gone rfl
  refine ⟨_, ?_, vacant, retired, other⟩
  rw [laneQuadFusing_fused hk hq alone idle live, if_pos (by omega),
    State.retireTile_free (s := { s with fused := s.fused ++ [(k, q)] }) false hk held alone idle]
  exact congrArg Host.Outcome.next (if_pos quiet)

end

section
variable {s : State} {k b : Nat}

theorem bankDrowsy_late (idle : s.idle k = true) (hold : (s.tile k).hold = 0) (hb : b < 209) (awake : b ∉ (s.tile k).drowsy)
    (late : (s.tile k).idleSince + 1024 ≤ s.timeOf k) :
    exec (.bankDrowsy k b) s = .next (s.setTile k { s.tile k with drowsy := (s.tile k).drowsy ++ [b] }) := by
  show execBankDrowsy k b s = _
  simp only [execBankDrowsy]
  rw [if_pos]
  simp only [idle, hold, late, hb, banks, awake, List.contains_eq_mem, decide_true, decide_false, Bool.and_self, Bool.not_false, and_self]

theorem bankDrowsy_early (early : s.timeOf k < (s.tile k).idleSince + 1024) : exec (.bankDrowsy k b) s = .next s := by
  have no : ¬ ((s.tile k).hold = 0 ∧ (s.tile k).idleSince + 1024 ≤ s.timeOf k ∧ b < banks) := by omega
  show execBankDrowsy k b s = _
  simp only [execBankDrowsy]
  rw [decide_eq_false no, if_neg (by simp)]

end

/-- A dword of the scratchpad lies in one bank. -/
theorem itemBanks_scratch {o : Nat} (h : o % 8 = 0) : itemBanks (.scratch o) = [17 + o / 8 % 192, 17 + o / 8 % 192] := by
  have same : (o + 7) / 8 = o / 8 := by omega
  rw [itemBanks, bankOf, bankOf, same]

/-! ### The debug port (R405) -/

theorem debugWord_pair (hi lo : Word) : debugWord (hi.toNat * 2 ^ 64 + lo.toNat) = hi ++ lo := by
  have or := Nat.shiftLeft_add_eq_or_of_lt lo.isLt hi.toNat
  have low := lo.isLt
  have high := hi.isLt
  refine BitVec.eq_of_toNat_eq ?_
  rw [BitVec.toNat_append, ← or, debugWord, BitVec.toNat_ofNat, Nat.shiftLeft_eq]
  exact Nat.mod_eq_of_lt (by omega)

/-- The status of an access, by what its name stands for. -/
theorem State.debugStatus_of {s : State} {name k : Nat} (here : s.stale name = false) (core : coreOf name = some k) :
    s.debugStatus name = if k ∈ s.retired then 2 else if s.live k = false then 3 else if (s.tile k).memberOf ≠ none then 5
      else if k ∈ s.gated then 1 else 0 := by
  simp only [State.debugStatus, here, core, Bool.false_eq_true, if_false, List.contains_iff_mem, Bool.not_eq_true', ne_eq,
    ← Option.not_isSome_iff_eq_none, not_not]

theorem State.debugStatus_stale {s : State} {name : Nat} (h : s.stale name = true) : s.debugStatus name = 4 := by
  rw [State.debugStatus, if_pos h]
theorem State.debugStatus_nameless {s : State} {name : Nat} (h : coreOf name = none) : s.debugStatus name ≠ 0 := by
  rw [State.debugStatus, h]
  split
  · decide
  · show 3 ≠ 0
    decide

/-- A debug access answers with a status and, where that is 0, with the item, whose bank wakes. -/
theorem debugRead_answers (s : State) (name : BitVec 32) (i : DebugItem) {k : Nat} (core : coreOf name.toNat = some k) :
    exec (.debugRead name i) s = .next (if s.debugStatus name.toNat = 0 then
      State.setTile { s with outputs := s.outputs ++ [.debug (s.debugStatus name.toNat) (s.debugItem k i)] } k { s.tile k with
        drowsy := (s.tile k).drowsy.filter (fun b => !(itemBanks i).contains b) }
      else { s with outputs := s.outputs ++ [.debug (s.debugStatus name.toNat) none] }) := by
  show execDebugRead name i s = _
  rw [execDebugRead, core]
  dsimp only
  by_cases ok : s.debugStatus name.toNat = 0
  · rw [if_neg (not_not.mpr ok), if_pos ok]
    rfl
  · rw [if_pos ok, if_neg ok]

theorem debugRead_nameless (s : State) (name : BitVec 32) (i : DebugItem) (core : coreOf name.toNat = none) :
    exec (.debugRead name i) s = .next { s with outputs := s.outputs ++ [.debug (s.debugStatus name.toNat) none] } := by
  show execDebugRead name i s = _
  rw [execDebugRead, core]

theorem State.stale_iff (s : State) (name : BitVec 32) : s.stale name.toNat = true ↔ name.toNat / 2 ^ 24 ≠ s.gen := by
  have small : name.toNat / 2 ^ 24 % 2 ^ 8 = name.toNat / 2 ^ 24 := Nat.mod_eq_of_lt (by have := name.isLt; omega)
  rw [State.stale, bf, small, decide_eq_true_eq]

/-- What the debug port returns of an item. -/
theorem State.debugItem_values (s : State) (k : Nat) (i : DebugItem) :
    (∀ n, i = .w n → s.debugItem k i = some ((s.tile k).w[n].hi ++ (s.tile k).w[n].lo)) ∧
      (i = .pc → s.debugItem k i = some ((s.tile k).pc.hi ++ (s.tile k).pc.lo)) ∧
      (∀ n, i = .p n → s.debugItem k i = some ((s.tile k).p[n].setWidth 128)) ∧
      (i = .vl → s.debugItem k i = some (BitVec.ofNat 128 (s.tile k).vl)) ∧
      ∀ o, i = .scratch o → o + 8 ≤ Config.scratchBytes →
        s.debugItem k i = some (BitVec.ofNat 128 (s.readNat (scratchAt k o) 8)) := by
  refine ⟨?_, ?_, ?_, ?_, ?_⟩
  · rintro n rfl
    exact congrArg some (debugWord_pair _ _)
  · rintro rfl
    exact congrArg some (debugWord_pair _ _)
  · rintro n rfl
    exact congrArg some (BitVec.ofNat_toNat ..)
  · rintro rfl
    rfl
  · rintro o rfl inside
    exact if_pos inside

/-- The status and the value of an access to a core. -/
theorem debugRead_status {s : State} {name : BitVec 32} {i : DebugItem} {k : Nat} (hk : k < Config.tileSites)
    (here : name.toNat / 2 ^ 24 = s.gen) (core : coreOf name.toNat = some k) :
    (k ∈ s.retired → s.debugStatus name.toNat = 2) ∧ (k ∉ s.retired → k ∈ s.vacant → s.debugStatus name.toNat = 3) ∧
      (k ∉ s.retired → k ∉ s.vacant → (s.tile k).memberOf ≠ none → s.debugStatus name.toNat = 5) ∧
      (k ∉ s.retired → k ∉ s.vacant → (s.tile k).memberOf = none → k ∈ s.gated → s.debugStatus name.toNat = 1) ∧
      (k ∉ s.retired → k ∉ s.vacant → (s.tile k).memberOf = none → k ∉ s.gated → s.debugStatus name.toNat = 0) := by
  have current : s.stale name.toNat = false := Bool.eq_false_iff.mpr fun h => (s.stale_iff name).mp h here
  rw [State.debugStatus_of current core]
  refine ⟨fun retired => if_pos retired, fun held gone => ?_, fun held live member => ?_, fun held live alone gated => ?_,
    fun held live alone on => ?_⟩
  · rw [if_neg held, if_pos (State.not_live_of gone)]
  · rw [if_neg held, State.live_of hk live, if_neg (by decide), if_pos member]
  · rw [if_neg held, State.live_of hk live, if_neg (by decide), if_neg (not_not.mpr alone), if_pos gated]
  · rw [if_neg held, State.live_of hk live, if_neg (by decide), if_neg (not_not.mpr alone), if_neg on]

/-- DEBUG_READ. -/
theorem debugRead_result (s : State) {k : Nat} (hk : k < Config.tileSites) (name : BitVec 32) (i : DebugItem) :
    ∃ st v l t, exec (.debugRead name i) s = .next t ∧
      t = (if st = 0 then State.setTile { s with outputs := s.outputs ++ [.debug st v] } l { s.tile l with
          drowsy := (s.tile l).drowsy.filter (fun b => !(itemBanks i).contains b) } else { s with outputs := s.outputs ++ [.debug st v] }) ∧
      (coreOf name.toNat = some k → l = k) ∧ (name.toNat / 2 ^ 24 ≠ s.gen → st = 4 ∧ v = none) ∧
      (name.toNat / 2 ^ 24 = s.gen → coreOf name.toNat = some k →
        (k ∈ s.retired → st = 2 ∧ v = none) ∧ (k ∉ s.retired → k ∈ s.vacant → st = 3 ∧ v = none) ∧
        (k ∉ s.retired → k ∉ s.vacant → (s.tile k).memberOf ≠ none → st = 5 ∧ v = none) ∧
        (k ∉ s.retired → k ∉ s.vacant → (s.tile k).memberOf = none → k ∈ s.gated → st = 1 ∧ v = none) ∧
        (k ∉ s.retired → k ∉ s.vacant → (s.tile k).memberOf = none → k ∉ s.gated → st = 0 ∧
          (∀ n, i = .w n → v = some ((s.tile k).w[n].hi ++ (s.tile k).w[n].lo)) ∧ (i = .pc → v = some ((s.tile k).pc.hi ++ (s.tile k).pc.lo)) ∧
          (∀ n, i = .p n → v = some ((s.tile k).p[n].setWidth 128)) ∧ (i = .vl → v = some (BitVec.ofNat 128 (s.tile k).vl)) ∧
          ∀ o, i = .scratch o → o + 8 ≤ Config.scratchBytes → v = some (BitVec.ofNat 128 (s.readNat (scratchAt k o) 8)))) := by
  cases core : coreOf name.toNat with
  | none =>
    refine ⟨s.debugStatus name.toNat, none, 0, _, debugRead_nameless s name i core, (if_neg (State.debugStatus_nameless core)).symm, nofun,
      fun old => ⟨State.debugStatus_stale ((s.stale_iff name).mpr old), rfl⟩, nofun⟩
  | some l =>
    refine ⟨s.debugStatus name.toNat, if s.debugStatus name.toNat = 0 then s.debugItem l i else none, l, _, debugRead_answers s name i core, ?_,
      fun same => Option.some.inj same, fun old => ?_, fun here same => ?_⟩
    · by_cases ok : s.debugStatus name.toNat = 0
      · rw [if_pos ok, if_pos ok, if_pos ok]
      · rw [if_neg ok, if_neg ok, if_neg ok]
    · rw [State.debugStatus_stale ((s.stale_iff name).mpr old)]
      exact ⟨rfl, rfl⟩
    · cases same
      obtain ⟨retired, vacant, member, gated, ok⟩ := debugRead_status (i := i) hk here core
      have empty : ∀ {n}, s.debugStatus name.toNat = n + 1 → s.debugStatus name.toNat = n + 1 ∧
          (if s.debugStatus name.toNat = 0 then s.debugItem k i else none) = none := fun h => ⟨h, by rw [h]; rfl⟩
      refine ⟨fun h => empty (retired h), fun h h' => empty (vacant h h'), fun h h' m => empty (member h h' m),
        fun h h' m g => empty (gated h h' m g), fun h h' m g => ⟨ok h h' m g, ?_⟩⟩
      rw [if_pos (ok h h' m g)]
      exact s.debugItem_values k i

/-- Settles O48: each event by what its tile is; a save by induction over the cores of the grid. -/
theorem tileEvents : Obligations.TileEvents := fun s k a hk =>
  ⟨tileLost_vacant a, fun live alone => ⟨tileLost_idle a hk live alone, fun r => tileLost_task a hk live alone⟩,
    fun spare held alone => ⟨tileRetire_quiet spare hk held alone, tileRetire_busy spare hk held alone,
      fun r g => tileRetire_running spare hk held alone⟩,
    tilePowerGating_off, tilePowerGating_keeps,
    fun q => ⟨laneQuadFusing_beyond, fun hq alone idle live => ⟨laneQuadFusing_some hk hq alone idle live,
      laneQuadFusing_last hk hq alone idle live⟩⟩,
    fun b idle hold hb awake => ⟨bankDrowsy_late idle hold hb awake, bankDrowsy_early⟩, rfl, fun o _ => itemBanks_scratch,
    debugRead_result s hk⟩

end Sys2Proof.Machine
end

section
/-! PROOF. Trips, clocks and the published tables; links and routes (R10, R21 to R24, R132, R411, R419 to R424). -/

namespace Sys2Proof.Machine

/-! ### A table's copies (R24) -/

theorem leBytes_inj {n x y : Nat} (hx : x < 2 ^ (8 * n)) (hy : y < 2 ^ (8 * n)) (h : leBytes n x = leBytes n y) : x = y := by
  have same := congrArg leNat h
  rwa [leNat_leBytes, leNat_leBytes, Nat.mod_eq_of_lt hx, Nat.mod_eq_of_lt hy] at same

/-- A copy that shows the SEQ of one of the two tables is that table. -/
theorem Publishing.copy_whole {x : Publishing} {d e seq : Nat} {new rest : List Byte} (hnew : new = leBytes 8 seq ++ rest)
    (low : 2 ≤ seq) (high : seq < 2 ^ 64) (hold : x.old.take 8 = leBytes 8 (seq - 2)) :
    ((x.copy d e seq new).take 8 = leBytes 8 seq → x.copy d e seq new = new) ∧
      ((x.copy d e seq new).take 8 = leBytes 8 (seq - 2) → x.copy d e seq new = x.old) := by
  have first : ∀ (y : Nat) (l : List Byte), (leBytes 8 y ++ l).take 8 = leBytes 8 y := fun y l => List.take_left' (leBytes_length 8 y)
  have differ : ∀ {y z : Nat}, y < 2 ^ 64 → z < 2 ^ 64 → y ≠ z → leBytes 8 y ≠ leBytes 8 z := fun hy hz ne same => ne (leBytes_inj hy hz same)
  unfold Publishing.copy
  split
  · rw [hnew, first]
    exact ⟨fun _ => rfl, fun same => absurd same (differ high (by omega) (by omega))⟩
  · rw [hold]
    exact ⟨fun same => absurd same (differ (by omega) high (by omega)), fun _ => rfl⟩
  · rw [List.append_assoc, List.append_assoc, first]
    exact ⟨fun same => absurd same (differ (by omega) high (by omega)), fun same => absurd same (differ (by omega) (by omega) (by omega))⟩

theorem tableCopies : TableCopies := by
  refine fun s d x => ⟨fun pub low high old => ?_, fun pub low high old => ?_⟩
  · have whole := Publishing.copy_whole (x := x) (d := d) (e := 16) (new := s.timeTable) (List.append_assoc ..) low high old
    simpa only [State.timeCopy, pub] using whole
  · have whole := Publishing.copy_whole (x := x) (d := d) (e := 4) (new := s.fretTable) (List.append_assoc ..) low high old
    simpa only [State.fretCopy, pub] using whole

/-! ### Trips (R411) -/

/-- A tile of a die with an emergency: what it holds beyond 1 is to be given up within 64 cycles. -/
def Tile.curtailed (t : Tile) (now : Nat) : Tile :=
  if 2 ≤ t.hold then { t with
    revoke := t.hold - 1, deadline := if t.revoke = 0 then now + 64 else min t.deadline (now + 64),
    noticed := if t.revoke = 0 then now + 4 else t.noticed } else t

/-- LATER counts that are cancelled. -/
def State.cancelOwed (s : State) (l : List Owed) : State :=
  l.foldl (fun (s : State) o => s.modTile o.requester (fun t => { t with later := t.later - o.tokens })) s

theorem State.cancelOwed_keeps (l : List Owed) (s : State) : (s.cancelOwed l).mem = s.mem ∧ (s.cancelOwed l).dies = s.dies ∧
    ∀ k, (s.cancelOwed l).tile k = { s.tile k with later := ((s.cancelOwed l).tile k).later } := by
  induction l generalizing s with
  | nil => exact ⟨rfl, rfl, fun _ => rfl⟩
  | cons o l ih =>
    obtain ⟨mem, dies, tile⟩ := ih (s.modTile o.requester (fun t => { t with later := t.later - o.tokens }))
    refine ⟨mem, dies, fun k => (tile k).trans ?_⟩
    by_cases h : k = o.requester
    · subst h
      rw [State.tile_modTile]
      rfl
    · rw [State.tile_modTile_other s _ h]
      rfl

theorem State.emergency_die (s : State) (d : Nat) : (s.emergency d).die d = { s.die d with owed := [], tripped := true } := by
  have cancelled : (s.cancelOwed (s.die d).owed).die d = s.die d := by
    rw [State.die, (s.cancelOwed_keeps (s.die d).owed).2.1]
    rfl
  exact (State.die_modDie (s.cancelOwed (s.die d).owed) d (fun x => { x with owed := [], tripped := true })).trans (by rw [cancelled])

theorem State.emergency_tiles (s : State) (d : Nat) : (s.emergency d).tiles =
    (s.cancelOwed (s.die d).owed).tiles.map (fun e => (e.1, if onDie d e.1 then e.2.curtailed (s.die d).time else e.2)) := by
  have time : ((s.emergency d).die d).time = (s.die d).time := by rw [s.emergency_die]
  refine List.map_congr_left fun e _ => ?_
  dsimp only
  rw [← time]
  cases onDie d e.1 with
  | false => rfl
  | true =>
    unfold Tile.curtailed
    by_cases many : 2 ≤ e.2.hold
    · rw [decide_eq_true many, Bool.and_self, if_pos rfl, if_pos rfl, if_pos many]
      rfl
    · rw [decide_eq_false many, Bool.and_false, if_neg Bool.false_ne_true, if_pos rfl, if_neg many]

/-- In an emergency each tile of the die keeps its holding, and gives up what is beyond 1. -/
theorem State.emergency_tile (s : State) {d k : Nat} (h : dieOf k = d) : ((s.emergency d).tile k).hold = (s.tile k).hold ∧
    (2 ≤ (s.tile k).hold → ((s.emergency d).tile k).revoke = (s.tile k).hold - 1 ∧
      ((s.emergency d).tile k).deadline ≤ s.timeOf k + 64) := by
  have idle : (if onDie d k then Tile.idle.curtailed (s.die d).time else Tile.idle) = Tile.idle := by
    split <;> rfl
  have tile : (s.emergency d).tile k = ((s.cancelOwed (s.die d).owed).tile k).curtailed (s.die d).time := by
    rw [State.tile, s.emergency_tiles, keyGet_map Tile.idle _ (fun n t => if onDie d n then t.curtailed (s.die d).time else t) k idle]
    exact if_pos (decide_eq_true h)
  have hold : ((s.cancelOwed (s.die d).owed).tile k).hold = (s.tile k).hold :=
    (congrArg Tile.hold ((s.cancelOwed_keeps (s.die d).owed).2.2 k) :)
  rw [tile, State.timeOf, h, ← hold]
  unfold Tile.curtailed
  by_cases many : 2 ≤ ((s.cancelOwed (s.die d).owed).tile k).hold
  · rw [if_pos many]
    refine ⟨rfl, fun _ => ⟨rfl, ?_⟩⟩
    dsimp only
    split
    · exact Nat.le_refl _
    · exact Nat.min_le_right _ _
  · rw [if_neg many]
    exact ⟨rfl, fun h => absurd h many⟩

/-- What a trip of a die leaves, where `f` sets its status. -/
theorem State.tripped_result (s : State) (d : Nat) {f : Die → Die} (same : ∀ x, (f x).tripped = x.tripped) :
    ((s.emergency d).modDie d f).mem = s.mem ∧ (((s.emergency d).modDie d f).die d).tripped = true ∧
      (∀ k n, ((s.emergency d).modDie d f).grant k n = ((0, 0), (s.emergency d).modDie d f) ∨ dieOf k ≠ d) ∧
      ∀ k, dieOf k = d → (((s.emergency d).modDie d f).tile k).hold = (s.tile k).hold ∧ (2 ≤ (s.tile k).hold →
        (((s.emergency d).modDie d f).tile k).revoke = (s.tile k).hold - 1 ∧
        (((s.emergency d).modDie d f).tile k).deadline ≤ s.timeOf k + 64) := by
  have tripped : (((s.emergency d).modDie d f).die d).tripped = true := by
    rw [State.die_modDie, same, s.emergency_die]
  refine ⟨(s.cancelOwed_keeps (s.die d).owed).1, tripped, fun k n => ?_, fun k h => s.emergency_tile h⟩
  by_cases h : dieOf k = d
  · refine .inl (State.grant_closed n ?_)
    rw [h, Die.closed, tripped, Bool.or_true]
  · exact .inr h

theorem trips_curtail {s : State} {d : Nat} (hd : d < Config.dies) {i : Instr} {m : Nat}
    (h : (i, m) ∈ [(Instr.currentTrip d, 0), (.thermalTrip d, 1)]) :
    ∃ t, exec i s = .next t ∧ t.mem = s.mem ∧ (t.die d).tripped = true ∧ (t.die d).tripstat.getLsbD m = true ∧
      (i = .thermalTrip d → (t.die d).thermal = true) ∧ (∀ k n, t.grant k n = ((0, 0), t) ∨ dieOf k ≠ d) ∧
      ∀ k, dieOf k = d → (t.tile k).hold = (s.tile k).hold ∧ (2 ≤ (s.tile k).hold →
        (t.tile k).revoke = (s.tile k).hold - 1 ∧ (t.tile k).deadline ≤ s.timeOf k + 64) := by
  simp only [List.mem_cons, Prod.mk.injEq, List.not_mem_nil, or_false] at h
  rcases h with ⟨rfl, rfl⟩ | ⟨rfl, rfl⟩
  · obtain ⟨mem, tripped, grants, tiles⟩ := s.tripped_result d (f := fun x => { x with tripstat := x.tripstat ||| 1 }) fun _ => rfl
    refine ⟨_, ?_, mem, tripped, ?_, nofun, grants, tiles⟩
    · show execCurrentTrip d s = _
      rw [execCurrentTrip, if_pos hd]
    · rw [State.die_modDie]
      simp
  · obtain ⟨mem, tripped, grants, tiles⟩ := s.tripped_result d (f := fun x => { x with thermal := true, tripstat := x.tripstat ||| 2 })
      fun _ => rfl
    refine ⟨_, ?_, mem, tripped, ?_, fun _ => ?_, grants, tiles⟩
    · show execThermalTrip d s = _
      rw [execThermalTrip, if_pos hd]
    · rw [State.die_modDie]
      simp
    · rw [State.die_modDie]

/-! ### The time table (R21) -/

/-- An entry that is accurate is written, any other is not. -/
def State.putTime (s : State) (e : TimeEntry) : State :=
  if s.accurate e then s.modDie e.die (fun d => { d with offset := e.offset, rate := if e.die < Config.dies then e.rate else d.rate }) else s
/-- An entry of the fret table is written where its edge works. -/
def State.putBand (s : State) (e : FretEntry) : State :=
  if goodBand e ∧ e.die < 72 ∧ ((s.link e.die e.dir).state = 1 ∨ (s.link e.die e.dir).state = 2) then
    s.modLink e.die e.dir (fun x => { x with lo := e.lo, hi := e.hi }) else s

theorem State.publishTimes_eq (s : State) (l : List TimeEntry) : s.publishTimes l =
    l.foldl State.putTime { s with tableSeq := s.tableSeq + 2, timePub := some (Publishing.begin' s.timeTable) } := rfl
theorem State.publishBands_eq (s : State) (l : List FretEntry) : s.publishBands l =
    l.foldl State.putBand { s with fretSeq := s.fretSeq + 2, fretPub := some (Publishing.begin' s.fretTable) } := rfl

/-- `t` is `s` with time entries of dies changed. -/
structure Retimed (s t : State) : Prop where
  state : t = { s with dies := t.dies }
  die : ∀ d, t.die d = { s.die d with offset := (t.die d).offset, rate := (t.die d).rate }
theorem Retimed.refl (s : State) : Retimed s s := ⟨rfl, fun _ => rfl⟩
theorem Retimed.trans {s t u : State} (h : Retimed s t) (g : Retimed t u) : Retimed s u :=
  ⟨g.state.trans (by rw [h.state]), fun d => (g.die d).trans (by rw [h.die d])⟩
theorem State.putTime_retimed (s : State) (e : TimeEntry) : Retimed s (s.putTime e) := by
  unfold State.putTime
  split
  · refine ⟨rfl, fun d => ?_⟩
    by_cases h : d = e.die
    · subst h
      rw [State.die_modDie]
    · rw [State.die_modDie_other s _ h]
  · exact .refl s
theorem State.putTimes_retimed (l : List TimeEntry) (s : State) : Retimed s (l.foldl State.putTime s) :=
  foldl_keeps .refl .trans State.putTime_retimed l s

theorem State.putTime_other (s : State) {e : TimeEntry} {d : Nat} (h : d ≠ e.die) : (s.putTime e).die d = s.die d := by
  unfold State.putTime
  split
  · exact State.die_modDie_other s _ h
  · rfl
theorem State.putTime_accurate {s : State} {e : TimeEntry} (h : s.accurate e = true) (hd : e.die < Config.dies) :
    (s.putTime e).die e.die = { s.die e.die with offset := e.offset, rate := e.rate } := by
  rw [State.putTime, if_pos h, State.die_modDie, if_pos hd]
theorem State.putTime_inaccurate {s : State} {e : TimeEntry} (h : s.accurate e = false) : s.putTime e = s := by
  rw [State.putTime, if_neg (by rw [h]; decide)]

/-- Accuracy is about the die's TIME and the reference count. -/
theorem State.accurate_congr {s t : State} {e : TimeEntry} (time : (t.die e.die).time = (s.die e.die).time) (ref : t.refCount = s.refCount) :
    t.accurate e = s.accurate e := by
  rw [State.accurate, State.accurate, time, ref]

theorem State.accurate_iff (s : State) (e : TimeEntry) : s.accurate e = true ↔ e.die < 72 ∧ 2 ^ 29 ≤ e.rate ∧ e.rate < 2 ^ 31 ∧
    timeAt e.offset e.rate s.refCount ≤ (s.die e.die).time + 2 ∧ ((s.die e.die).time : Int) ≤ timeAt e.offset e.rate s.refCount + 2 := by
  simp only [State.accurate, decide_eq_true_eq]

/-- A rate of a clock from 0.70 to 1.05 GHz. -/
theorem rateOf_bounds {c : Nat} (low : 28 ≤ c) (high : c ≤ 42) : 2 ^ 30 ≤ rateOf c ∧ rateOf c < 2 ^ 31 := by
  unfold rateOf
  constructor
  · rw [Nat.le_div_iff_mul_le (by omega)]
    omega
  · rw [Nat.div_lt_iff_lt_mul (by omega)]
    omega

/-- The OFFSET that goes on from a die's TIME converts to it within 2 cycles. -/
theorem timeAt_onward {time rate : Nat} (ref : Nat) {f : Nat} (hf : f < 3) (hr : 2 ^ 30 ≤ rate) :
    timeAt ((ref : Int) - (time * rate / 2 ^ 30 : Nat) + (f : Nat) - 1) rate ref ≤ time + 2 ∧
      (time : Int) ≤ timeAt ((ref : Int) - (time * rate / 2 ^ 30 : Nat) + (f : Nat) - 1) rate ref + 2 := by
  have ticks := Nat.div_add_mod (time * rate) (2 ^ 30)
  have rest := Nat.mod_lt (time * rate) (y := 2 ^ 30) (by decide)
  generalize hq : time * rate / 2 ^ 30 = q at *
  generalize time * rate % 2 ^ 30 = m at *
  have product : (time : Int) * rate = 2 ^ 30 * q + m := by exact_mod_cast ticks.symm
  have since : (ref : Int) - ((ref : Int) - q + f - 1) = q - f + 1 := by ring
  have positive : (0 : Int) < rate := by omega
  rw [timeAt, since]
  constructor
  · refine Int.le_of_lt_add_one ((Int.ediv_lt_iff_lt_mul positive).mpr ?_)
    have expand : ((time : Int) + 2 + 1) * rate = time * rate + 3 * rate := by ring
    rw [expand, product]
    omega
  · have lower : (time : Int) - 2 ≤ ((q : Int) - f + 1) * (2 ^ 30 : Nat) / rate := by
      rw [Int.le_ediv_iff_mul_le positive]
      have expand : ((time : Int) - 2) * rate = time * rate - 2 * rate := by ring
      rw [expand, product]
      omega
    omega

theorem State.entryOf_accurate (s : State) (l : List TimeEntry) {d c : Nat} (n : Nat) (hd : d < 72) (low : 28 ≤ c) (high : c ≤ 42) :
    (s.entryOf l d c n).die = d ∧ s.accurate (s.entryOf l d c n) = true := by
  unfold State.entryOf
  split
  · next e found =>
    have chosen := List.find?_some found
    simp only [Bool.and_eq_true, decide_eq_true_eq] at chosen
    exact chosen
  · obtain ⟨above, below⟩ := rateOf_bounds low high
    obtain ⟨late, early⟩ := timeAt_onward (time := (s.die d).time) s.refCount (Nat.mod_lt (Config.freeChoice n) (y := 3) (by decide)) above
    exact ⟨rfl, (State.accurate_iff ..).mpr ⟨hd, by dsimp only; omega, below, late, early⟩⟩

/-! ### The fret table, and both anew (R23) -/

/-- `t` is `s` with bands and masks of links changed. -/
structure Relinked (s t : State) : Prop where
  state : t = { s with dies := t.dies }
  die : ∀ d, t.die d = { s.die d with links := (t.die d).links }
theorem Relinked.refl (s : State) : Relinked s s := ⟨rfl, fun _ => rfl⟩
theorem Relinked.trans {s t u : State} (h : Relinked s t) (g : Relinked t u) : Relinked s u :=
  ⟨g.state.trans (by rw [h.state]), fun d => (g.die d).trans (by rw [h.die d])⟩
theorem State.modLink_relinked (s : State) (d k : Nat) (f : Link → Link) : Relinked s (s.modLink d k f) := by
  refine ⟨rfl, fun e => ?_⟩
  unfold State.modLink
  by_cases h : e = d
  · subst h
    rw [State.die_modDie]
  · rw [State.die_modDie_other s _ h]
theorem State.putBand_relinked (s : State) (e : FretEntry) : Relinked s (s.putBand e) := by
  unfold State.putBand
  split
  · exact s.modLink_relinked ..
  · exact .refl s
theorem State.putBands_relinked (l : List FretEntry) (s : State) : Relinked s (l.foldl State.putBand s) :=
  foldl_keeps .refl .trans State.putBand_relinked l s

/-- A die that no entry is for keeps its own. -/
theorem State.putTimes_other (l : List TimeEntry) (s : State) {d : Nat} (h : ∀ e ∈ l, e.die ≠ d) :
    (l.foldl State.putTime s).die d = s.die d := by
  induction l generalizing s with
  | nil => rfl
  | cons e l ih =>
    exact (ih _ fun x hx => h x (List.mem_cons_of_mem _ hx)).trans (s.putTime_other (h e List.mem_cons_self).symm)

theorem State.publishTimes_retimed (s : State) (l : List TimeEntry) :
    ∃ p, Retimed { s with tableSeq := s.tableSeq + 2, timePub := p } (s.publishTimes l) := ⟨_, State.putTimes_retimed l _⟩
theorem State.publishBands_relinked (s : State) (l : List FretEntry) :
    ∃ p, Relinked { s with fretSeq := s.fretSeq + 2, fretPub := p } (s.publishBands l) := ⟨_, State.putBands_relinked l _⟩

/-- The last entry, the only one for its die, is published if it is accurate. -/
theorem State.publishTimes_last {s : State} {l : List TimeEntry} {e : TimeEntry} (others : ∀ x ∈ l, x.die ≠ e.die)
    (accurate : s.accurate e = true) (hd : e.die < Config.dies) :
    (s.publishTimes (l ++ [e])).die e.die = { s.die e.die with offset := e.offset, rate := e.rate } := by
  rw [State.publishTimes_eq, List.foldl_append, List.foldl_cons, List.foldl_nil]
  have before := State.putTimes_other l { s with tableSeq := s.tableSeq + 2, timePub := some (Publishing.begin' s.timeTable) } others
  have timed := State.putTimes_retimed l { s with tableSeq := s.tableSeq + 2, timePub := some (Publishing.begin' s.timeTable) }
  generalize l.foldl State.putTime _ = u at before timed ⊢
  have still : u.accurate e = true := (State.accurate_congr (congrArg Die.time before) (by rw [timed.state])).trans accurate
  rw [State.putTime_accurate still hd, before]
  rfl

section
variable (s : State) (d : Nat) (times : List TimeEntry) (bands : List FretEntry)

/-- Both tables are published anew, and of the dies only their entries change. -/
theorem State.retime_keeps : (s.retime d times bands).tableSeq = s.tableSeq + 2 ∧ (s.retime d times bands).fretSeq = s.fretSeq + 2 ∧
    (s.retime d times bands).tiles = s.tiles ∧ (s.retime d times bands).mem = s.mem ∧
    (s.retime d times bands).refCount = s.refCount ∧ ∀ e, (s.retime d times bands).die e = { s.die e with
      offset := ((s.retime d times bands).die e).offset, rate := ((s.retime d times bands).die e).rate,
      links := ((s.retime d times bands).die e).links } := by
  unfold State.retime
  dsimp only
  generalize times.filter _ ++ _ = es
  generalize edgeBands bands d _ = bs
  obtain ⟨p, timed⟩ := State.publishTimes_retimed { s with free := s.free + 17 } es
  generalize State.publishTimes _ es = u at timed ⊢
  obtain ⟨q, linked⟩ := u.publishBands_relinked bs
  generalize u.publishBands bs = t at linked ⊢
  refine ⟨?_, ?_, ?_, ?_, ?_, fun e => ?_⟩
  · rw [linked.state, timed.state]
  · rw [linked.state, timed.state]
  · rw [linked.state, timed.state]
  · rw [linked.state, timed.state]
  · rw [linked.state, timed.state]
  · have offset : (t.die e).offset = (u.die e).offset := (congrArg Die.offset (linked.die e) :)
    have rate : (t.die e).rate = (u.die e).rate := (congrArg Die.rate (linked.die e) :)
    refine (linked.die e).trans ?_
    rw [offset, rate]
    show { u.die e with links := (t.die e).links } = _
    rw [timed.die e]
    rfl

/-- The entry published for the die itself converts within 2 cycles. -/
theorem State.retime_timed {s : State} {d : Nat} (hd : d < Config.dies) (low : 28 ≤ (s.die d).clock - (s.die d).slow)
    (high : (s.die d).clock - (s.die d).slow ≤ 42) : Timed (s.retime d times bands) d := by
  obtain ⟨-, -, -, -, ref, keeps⟩ := s.retime_keeps d times bands
  have time : ((s.retime d times bands).die d).time = (s.die d).time := (congrArg Die.time (keeps d) :)
  obtain ⟨own, accurate⟩ := s.entryOf_accurate times s.free (Nat.lt_trans hd (by decide)) low high
  rw [Timed, ref, time]
  unfold State.retime
  dsimp only
  generalize edgeBands bands d _ = bs
  generalize he : s.entryOf times d ((s.die d).clock - (s.die d).slow) s.free = e at own accurate ⊢
  have published := State.publishTimes_last (s := { s with free := s.free + 17 }) (l := times.filter (fun e => decide (e.die ≠ d))) (e := e)
    (fun x hx => by simpa [own] using (List.mem_filter.mp hx).2) accurate (own ▸ hd)
  rw [own] at published
  generalize State.publishTimes _ _ = u at published ⊢
  obtain ⟨q, linked⟩ := u.publishBands_relinked bs
  rw [linked.die]
  show timeAt (u.die d).offset (u.die d).rate s.refCount ≤ _ ∧ _ ≤ timeAt (u.die d).offset (u.die d).rate s.refCount + 2
  rw [published]
  obtain ⟨-, -, -, late, early⟩ := (State.accurate_iff ..).mp accurate
  rw [own] at late early
  exact ⟨late, early⟩

end

/-! ### Clocks (R10, R411) -/

theorem thermalClockStep_still {s : State} {d : Nat} (h : (s.die d).nextSlow = (s.die d).slow) : exec (.thermalClockStep d) s = .next s := by
  show execThermalClockStep d s = _
  rw [execThermalClockStep]
  exact if_pos (.inr h)

section
variable {s : State} {d : Nat} (hd : d < Config.dies)
include hd

/-- A thermal step. -/
theorem thermalClockStep_steps {n : Nat} (h : (s.die d).nextSlow = n) (moved : n ≠ (s.die d).slow) :
    ∃ t, exec (.thermalClockStep d) s = .next t ∧ (t.die d).slow = n ∧ t.tableSeq = s.tableSeq + 2 ∧ t.fretSeq = s.fretSeq + 2 ∧
      t.tiles = s.tiles ∧ (28 ≤ (s.die d).clock - n → (s.die d).clock - n ≤ 42 → Timed t d) := by
  have die : (s.modDie d (fun x => { x with slow := n })).die d = { s.die d with slow := n } := State.die_modDie ..
  obtain ⟨times, frets, tiles, -, -, keeps⟩ := (s.modDie d (fun x => { x with slow := n })).retime_keeps d [] []
  refine ⟨(s.modDie d (fun x => { x with slow := n })).retime d [] [], ?_, ?_, times, frets, tiles, fun low high => ?_⟩
  · show execThermalClockStep d s = _
    rw [execThermalClockStep, h, if_neg (by omega)]
  · rw [keeps d, die]
  · exact State.retime_timed [] [] hd (by rw [die]; exact low) (by rw [die]; exact high)

theorem clockChange_changes {c : Nat} (es : List TimeEntry) (bs : List FretEntry) (low : 28 ≤ c) (high : c ≤ 42) :
    ∃ t, exec (.clockChange d c es bs) s = .next t ∧ (t.die d).clock = c ∧ t.tableSeq = s.tableSeq + 2 ∧ t.fretSeq = s.fretSeq + 2 ∧
      t.tiles = s.tiles ∧ t.mem = s.mem ∧ Timed t d := by
  have die : (s.modDie d (fun x => { x with clock := c, slow := min x.slow (c - 28) })).die d =
      { s.die d with clock := c, slow := min (s.die d).slow (c - 28) } := State.die_modDie ..
  obtain ⟨times, frets, tiles, mem, -, keeps⟩ :=
    (s.modDie d (fun x => { x with clock := c, slow := min x.slow (c - 28) })).retime_keeps d es bs
  refine ⟨(s.modDie d (fun x => { x with clock := c, slow := min x.slow (c - 28) })).retime d es bs, ?_, ?_, times, frets, tiles, mem, ?_⟩
  · show execClockChange d c es bs s = _
    rw [execClockChange, if_neg (by omega)]
  · rw [keeps d, die]
  · refine State.retime_timed es bs hd ?_ ?_
    · rw [die]
      show 28 ≤ c - min (s.die d).slow (c - 28)
      omega
    · rw [die]
      show c - min (s.die d).slow (c - 28) ≤ 42
      omega

theorem thermalCutoff_loses (powered : (s.die d).powered = true) : ∃ u r, u.errlog = s.errlog ++ [r] ∧ r.sev = 3 ∧ r.unit = 8 ∧
    (u.die d).powered = false ∧ u.tiles = s.tiles ∧
    exec (.thermalCutoff d) s = .next ((List.range 128).foldl (fun (s : State) i => s.loseTile (128 * d + i) 0xFF) u) := by
  obtain ⟨l, recorded⟩ := State.record_severe (s.modDie d (fun x => { x with powered := false }))
    (r := unitRecord 3 8 0xFF d ((s.modDie d (fun x => { x with powered := false })).partOfDie d)) (by show 3 ≠ 0; decide)
  refine ⟨(s.modDie d (fun x => { x with powered := false })).zoneRecord d 3,
    unitRecord 3 8 0xFF d ((s.modDie d (fun x => { x with powered := false })).partOfDie d), ?_, rfl, rfl, ?_, ?_, ?_⟩
  · rw [State.zoneRecord, recorded]
    rfl
  · rw [State.zoneRecord, State.die, State.record_dies, ← State.die, State.die_modDie]
  · rw [State.zoneRecord, State.record_tiles]
    rfl
  · show execThermalCutoff d s = _
    rw [execThermalCutoff, if_neg (by rw [powered]; rintro (far | off); omega; cases off)]

end

theorem clockChange_beyond {s : State} {c : Nat} (d : Nat) (es : List TimeEntry) (bs : List FretEntry) (h : c < 28 ∨ 42 < c) :
    exec (.clockChange d c es bs) s = .next s := by
  show execClockChange d c es bs s = _
  rw [execClockChange, if_pos (.inr h)]

/-- TIME_TABLE_PUBLISH of one entry. -/
theorem timeTablePublish_single {s : State} {d : Nat} (hd : d < Config.dies) {e : TimeEntry} (he : e.die = d) :
    ∃ t, exec (.timeTablePublish [e]) s = .next t ∧ t.tableSeq = s.tableSeq + 2 ∧ t.tiles = s.tiles ∧
      (2 ^ 29 ≤ e.rate → e.rate < 2 ^ 31 → timeAt e.offset e.rate s.refCount ≤ (s.die d).time + 2 →
        ((s.die d).time : Int) ≤ timeAt e.offset e.rate s.refCount + 2 → (t.die d).offset = e.offset ∧ (t.die d).rate = e.rate) ∧
      ((e.rate < 2 ^ 29 ∨ 2 ^ 31 ≤ e.rate ∨ (s.die d).time + 2 < timeAt e.offset e.rate s.refCount ∨
        timeAt e.offset e.rate s.refCount + 2 < (s.die d).time) → t.die d = s.die d) ∧ ∀ j, j ≠ d → t.die j = s.die j := by
  subst he
  obtain ⟨p, timed⟩ := s.publishTimes_retimed [e]
  refine ⟨s.publishTimes [e], rfl, by rw [timed.state], by rw [timed.state], fun low high late early => ?_, fun wrong => ?_, fun j other => ?_⟩
  · have accurate : s.accurate e = true := (State.accurate_iff ..).mpr ⟨Nat.lt_trans hd (by decide), low, high, late, early⟩
    have published : (s.publishTimes [e]).die e.die = _ := State.publishTimes_last (l := []) (fun x hx => nomatch hx) accurate hd
    rw [published]
    exact ⟨rfl, rfl⟩
  · have inaccurate : s.accurate e = false := Bool.eq_false_iff.mpr fun h => by
      obtain ⟨-, low, high, late, early⟩ := (State.accurate_iff ..).mp h
      omega
    rw [State.publishTimes_eq, List.foldl_cons, List.foldl_nil, State.putTime_inaccurate
      (s := { s with tableSeq := s.tableSeq + 2, timePub := some (Publishing.begin' s.timeTable) }) inaccurate]
    rfl
  · exact State.putTimes_other [e] _ fun x hx => by rw [List.mem_singleton.mp hx]; exact other.symm

/-- Trips, clocks and tables. -/
theorem tripsAndClocks : TripsAndClocks := by
  refine ⟨tableCopies, fun s d hd => ⟨fun i m h => trips_curtail hd h, ?_, fun thermal slower => ?_, fun thermal slow => ?_, fun cool some => ?_,
    fun cool none => ?_, thermalCutoff_loses hd, fun e he => timeTablePublish_single hd he,
    fun c es bs => ⟨fun low high => clockChange_changes hd es bs low high, clockChange_beyond d es bs⟩⟩⟩
  · show execTripRecovery d s = _
    rw [execTripRecovery, if_pos hd]
  · have next : (s.die d).nextSlow = (s.die d).slow + 1 := by rw [Die.nextSlow, if_pos thermal, if_pos slower]
    obtain ⟨t, steps, slow, times, frets, tiles, timed⟩ := thermalClockStep_steps hd next (Nat.succ_ne_self _)
    exact ⟨t, steps, slow, times, frets, tiles, fun fast => timed (by omega) (by omega)⟩
  · exact thermalClockStep_still (by rw [Die.nextSlow, if_pos thermal, if_neg (by omega)])
  · have next : (s.die d).nextSlow = (s.die d).slow - 1 := by rw [Die.nextSlow, if_neg (by rw [cool]; decide)]
    obtain ⟨t, steps, slow, times, frets, tiles, timed⟩ := thermalClockStep_steps hd next (by omega)
    exact ⟨t, steps, slow, times, frets, tiles, fun fast low => timed (by omega) (by omega)⟩
  · exact thermalClockStep_still (by rw [Die.nextSlow, if_neg (by rw [cool]; decide), none])

end Sys2Proof.Machine
end

section
/-! PROOF. Links and routes (R132, R419 to R424). -/

namespace Sys2Proof.Machine

/-! ### The ends of an edge -/

theorem opposite_lt (k : Nat) : opposite k < 4 := Nat.mod_lt _ (by decide)

/-- The other end of an edge is a die. -/
theorem edgeTo_lt {d k e : Nat} (hd : d < 72) (hk : k < 4) (edge : edgeTo d k = some e) : e < 72 := by
  have all : ∀ d ∈ List.range 72, ∀ k ∈ List.range 4, (edgeTo d k).all (fun e => decide (e < 72)) = true := by decide +revert
  have here := all d (List.mem_range.mpr hd) k (List.mem_range.mpr hk)
  rw [edge] at here
  simpa using here

theorem State.link_modLink (s : State) (d : Nat) {k : Nat} (hk : k < 4) (f : Link → Link) : (s.modLink d k f).link d k = f (s.link d k) := by
  rw [State.link, State.modLink, State.die_modDie]
  simp [hk]
theorem State.link_modLink_other (s : State) {d e : Nat} (k : Nat) (f : Link → Link) (h : e ≠ d) (j : Nat) :
    (s.modLink d k f).link e j = s.link e j := by
  rw [State.link, State.modLink, State.die_modDie_other s _ h, State.link]

theorem State.modEdge_relinked (s : State) (d k : Nat) (f : Link → Link) : Relinked s (s.modEdge d k f) := by
  unfold State.modEdge
  split
  · exact .refl s
  · exact (s.modLink_relinked ..).trans (State.modLink_relinked ..)

section
variable {d k e : Nat} (edge : edgeTo d k = some e) (apart : d ≠ e)
include edge apart

theorem State.link_modEdge (hk : k < 4) (s : State) (f : Link → Link) : (s.modEdge d k f).link d k = f (s.link d k) := by
  rw [State.modEdge, edge]
  exact (State.link_modLink_other _ _ _ apart k).trans (s.link_modLink d hk f)
theorem State.link_modEdge_far (s : State) (f : Link → Link) : (s.modEdge d k f).link e (opposite k) = f (s.link e (opposite k)) := by
  rw [State.modEdge, edge]
  exact (State.link_modLink _ e (opposite_lt k) f).trans (by rw [s.link_modLink_other k f apart.symm])

end

theorem State.link_of_dies {s t : State} (h : t.dies = s.dies) (d k : Nat) : t.link d k = s.link d k := by
  rw [State.link, State.die, h]
  rfl
theorem State.edgeRecord_link (s : State) (d k sev e j : Nat) : (s.edgeRecord d k sev).link e j = s.link e j :=
  State.link_of_dies (State.record_dies ..) e j

theorem State.edgeRecord_lost (s : State) (d k : Nat) : ∃ r l, s.edgeRecord d k 3 =
    { s with errlog := s.errlog ++ [r], msgs := s.msgs ++ l } ∧ r.sev = 3 ∧ r.unit = 4 := by
  obtain ⟨l, recorded⟩ := State.record_severe s (r := unitRecord 3 4 0xFF (4 * d + k) (s.partOfDie d)) (by show 3 ≠ 0; decide)
  exact ⟨_, l, recorded, rfl, rfl⟩

theorem modulesOf_pos {d k e : Nat} (edge : edgeTo d k = some e) : modulesOf d k ≠ 0 := by
  rw [modulesOf, edge]
  dsimp only
  split
  · decide
  · decide

/-! ### A link that fails (R421) -/

/-- A link that has failed. -/
def Link.failed (l : Link) : Link := { l with state := 3, up := 0, degraded := 0, lo := 0, hi := 0 }

theorem State.failEdge_keeps (s : State) {d k e : Nat} (edge : edgeTo d k = some e) (hk : k < 4) (apart : d ≠ e)
    (working : (s.link d k).state ≠ 3) : ∃ r, (s.failEdge d k).tiles = s.tiles ∧ (s.failEdge d k).mem = s.mem ∧
      (s.failEdge d k).fretSeq = s.fretSeq + 2 ∧ (s.failEdge d k).errlog = s.errlog ++ [r] ∧ r.sev = 3 ∧ r.unit = 4 ∧
      (s.failEdge d k).link d k = (s.link d k).failed ∧ (s.failEdge d k).link e (opposite k) = (s.link e (opposite k)).failed := by
  have relinked := s.modEdge_relinked d k Link.failed
  have near := State.link_modEdge edge apart hk s Link.failed
  have far := State.link_modEdge_far edge apart s Link.failed
  have failed : s.failEdge d k = State.edgeRecord { s.modEdge d k Link.failed with
      fretSeq := (s.modEdge d k Link.failed).fretSeq + 2, fretPub := some (Publishing.begin' s.fretTable) } d k 3 := by
    rw [State.failEdge, if_neg working]
    rfl
  generalize s.modEdge d k Link.failed = u at relinked near far failed
  have links : ∀ d' k', (s.failEdge d k).link d' k' = u.link d' k' := fun d' k' => by
    rw [failed, State.edgeRecord_link]
    rfl
  obtain ⟨r, l, recorded, sev, unit⟩ := State.edgeRecord_lost { u with
    fretSeq := u.fretSeq + 2, fretPub := some (Publishing.begin' s.fretTable) } d k
  rw [links, links, failed, recorded]
  refine ⟨r, ?_, ?_, ?_, ?_, sev, unit, near, far⟩
  · rw [relinked.state]
  · rw [relinked.state]
  · rw [relinked.state]
  · rw [relinked.state]

theorem linkFail_failed {s : State} {d k : Nat} (h : (s.link d k).state = 3) : exec (.linkFail d k) s = .next s := by
  show execLinkFail d k s = _
  rw [execLinkFail, State.failEdge, if_pos h, ite_self]

theorem linkFail_fails {s : State} {d k e : Nat} (edge : edgeTo d k = some e) (hk : k < 4) (apart : d ≠ e)
    (working : (s.link d k).state = 1 ∨ (s.link d k).state = 2) : ∃ t r, exec (.linkFail d k) s = .next t ∧ t.tiles = s.tiles ∧
      t.mem = s.mem ∧ t.fretSeq = s.fretSeq + 2 ∧ t.errlog = s.errlog ++ [r] ∧ r.sev = 3 ∧ r.unit = 4 ∧
      t.link d k = { s.link d k with state := 3, up := 0, degraded := 0, lo := 0, hi := 0 } ∧
      (t.link e (opposite k)).state = 3 ∧ (t.link e (opposite k)).lo = 0 ∧ (t.link e (opposite k)).hi = 0 := by
  obtain ⟨r, tiles, mem, seq, errlog, sev, unit, near, far⟩ := s.failEdge_keeps edge hk apart (by omega)
  refine ⟨s.failEdge d k, r, ?_, tiles, mem, seq, errlog, sev, unit, near, ?_, ?_, ?_⟩
  · show execLinkFail d k s = _
    rw [execLinkFail, if_neg]
    rintro (none | absent)
    · exact modulesOf_pos edge none
    · omega
  · rw [far]
    rfl
  · rw [far]
    rfl
  · rw [far]
    rfl

/-! ### A retraining (R419) -/

theorem bandOf_entry (l : List FretEntry) (d k n : Nat) : goodBand (bandOf l d k n) = true ∧ (bandOf l d k n).die = d ∧
    (bandOf l d k n).dir = k := by
  unfold bandOf
  split
  · next e found =>
    have chosen := List.find?_some found
    simp only [Bool.and_eq_true, decide_eq_true_eq] at chosen
    exact ⟨chosen.2, chosen.1⟩
  · refine ⟨?_, rfl, rfl⟩
    have low := Nat.mod_lt (Config.freeChoice (n + 1)) (y := Config.freeChoice n % 65535 + 1 + 1) (Nat.succ_pos _)
    have high := Nat.mod_lt (Config.freeChoice n) (y := 65535) (by decide)
    simp only [goodBand, decide_eq_true_eq]
    omega

/-- A band that has been timed and is one of a link is published as it is. -/
theorem bandOf_timed {d k lo hi : Nat} (n : Nat) (order : lo ≤ hi) (some : 0 < hi) (small : hi < 2 ^ 16) :
    bandOf [⟨d, k, lo, hi⟩] d k n = ⟨d, k, lo, hi⟩ := by
  have good : goodBand ⟨d, k, lo, hi⟩ = true := decide_eq_true ⟨order, some, small⟩
  simp [bandOf, good]

theorem State.link_putBand {s : State} {e : FretEntry} (good : goodBand e = true) (hd : e.die < 72) (hk : e.dir < 4)
    (working : (s.link e.die e.dir).state = 1 ∨ (s.link e.die e.dir).state = 2) :
    (s.putBand e).link e.die e.dir = { s.link e.die e.dir with lo := e.lo, hi := e.hi } := by
  rw [State.putBand, if_pos ⟨good, hd, working⟩, State.link_modLink _ _ hk]
theorem State.link_putBand_other (s : State) {e : FretEntry} {d : Nat} (h : d ≠ e.die) (k : Nat) : (s.putBand e).link d k = s.link d k := by
  unfold State.putBand
  split
  · exact State.link_modLink_other s _ _ h k
  · rfl

/-- Both entries of a working edge are published. -/
theorem State.publishBands_pair {s : State} {a b : FretEntry} (goodA : goodBand a = true) (goodB : goodBand b = true) (hda : a.die < 72)
    (hdb : b.die < 72) (hka : a.dir < 4) (hkb : b.dir < 4) (apart : a.die ≠ b.die)
    (workA : (s.link a.die a.dir).state = 1 ∨ (s.link a.die a.dir).state = 2)
    (workB : (s.link b.die b.dir).state = 1 ∨ (s.link b.die b.dir).state = 2) :
    (s.publishBands [a, b]).link a.die a.dir = { s.link a.die a.dir with lo := a.lo, hi := a.hi } ∧
      (s.publishBands [a, b]).link b.die b.dir = { s.link b.die b.dir with lo := b.lo, hi := b.hi } := by
  rw [State.publishBands_eq, List.foldl_cons, List.foldl_cons, List.foldl_nil]
  have first := State.link_putBand (s := { s with fretSeq := s.fretSeq + 2, fretPub := some (Publishing.begin' s.fretTable) }) goodA hda hka workA
  have before := State.link_putBand_other { s with fretSeq := s.fretSeq + 2, fretPub := some (Publishing.begin' s.fretTable) } apart.symm b.dir
  constructor
  · exact (State.link_putBand_other _ apart a.dir).trans first
  · refine (State.link_putBand goodB hdb hkb (by rw [before]; exact workB)).trans ?_
    rw [before]
    rfl

theorem linkRetrain_retrained {s : State} {d k m : Nat} (o : LinkOutcome) (lo hi : Nat)
    (working : (s.link d k).state = 1 ∨ (s.link d k).state = 2) (hm : m < modulesOf d k) : exec (.linkRetrain d k m o lo hi) s =
    (let u := s.modEdge d k (fun l => l.retrained m o)
     if (u.link d k).up = 0 then .next (u.failEdge d k)
     else .next ((State.publishBands { u with free := u.free + 4 } (edgePair [⟨d, k, lo, hi⟩] d k u.free)).edgeRecord d k 0)) := by
  show execLinkRetrain d k m o lo hi s = _
  rw [execLinkRetrain, if_neg (by omega)]

section
variable {s : State} {d k e : Nat} (edge : edgeTo d k = some e) (hd : d < 72) (hk : k < 4) (apart : d ≠ e)
  (working : (s.link d k).state = 1 ∨ (s.link d k).state = 2) {m : Nat} (o : LinkOutcome) (lo hi : Nat) (hm : m < modulesOf d k)
include edge hk apart working hm

theorem linkRetrain_disabled (none : setBit (s.link d k).up m (decide (o ≠ .disabled)) = 0) :
    ∃ t, exec (.linkRetrain d k m o lo hi) s = .next t ∧ (t.link d k).state = 3 ∧ (t.link d k).up = 0 ∧ (t.link d k).hi = 0 := by
  have near := State.link_modEdge edge apart hk s (fun l => l.retrained m o)
  obtain ⟨r, -, -, -, -, -, -, failed, -⟩ := (s.modEdge d k (fun l => l.retrained m o)).failEdge_keeps edge hk apart
    (by rw [near]; show (s.link d k).state ≠ 3; omega)
  refine ⟨(s.modEdge d k (fun l => l.retrained m o)).failEdge d k, ?_, ?_⟩
  · rw [linkRetrain_retrained o lo hi working hm]
    exact if_pos (by rw [near]; exact none)
  · rw [failed]
    exact ⟨rfl, rfl, rfl⟩

include hd in
theorem linkRetrain_works (some : setBit (s.link d k).up m (decide (o ≠ .disabled)) ≠ 0)
    (farWorks : (s.link e (opposite k)).state = 1 ∨ (s.link e (opposite k)).state = 2) :
    ∃ (t : State) (f : FretEntry), exec (.linkRetrain d k m o lo hi) s = .next t ∧ t.tiles = s.tiles ∧
      t.fretSeq = s.fretSeq + 2 ∧ t.link d k = { s.link d k with
        retrains := min 255 ((s.link d k).retrains + 1), up := setBit (s.link d k).up m (decide (o ≠ .disabled)),
        degraded := setBit (s.link d k).degraded m (decide (o = .degraded)), lo := f.lo, hi := f.hi } ∧
      (lo ≤ hi → 0 < hi → hi < 2 ^ 16 → f.lo = lo ∧ f.hi = hi) ∧ f.lo ≤ f.hi ∧ 0 < f.hi ∧ f.hi < 2 ^ 16 ∧
      (t.link e (opposite k)).retrains = min 255 ((s.link e (opposite k)).retrains + 1) ∧
      (t.link e (opposite k)).lo ≤ (t.link e (opposite k)).hi ∧ 0 < (t.link e (opposite k)).hi ∧
      (t.link e (opposite k)).hi < 2 ^ 16 := by
  have relinked := s.modEdge_relinked d k (fun l => l.retrained m o)
  have near := State.link_modEdge edge apart hk s (fun l => l.retrained m o)
  have far := State.link_modEdge_far edge apart s (fun l => l.retrained m o)
  have retrained := linkRetrain_retrained o lo hi working hm
  dsimp only at retrained
  rw [if_neg (by rw [near]; exact some), edgePair, edge] at retrained
  dsimp only at retrained
  generalize s.modEdge d k (fun l => l.retrained m o) = u at relinked near far retrained
  obtain ⟨goodA, dieA, dirA⟩ := bandOf_entry [⟨d, k, lo, hi⟩] d k u.free
  obtain ⟨goodB, dieB, dirB⟩ := bandOf_entry [⟨d, k, lo, hi⟩] e (opposite k) (u.free + 2)
  have timed := fun a b c => bandOf_timed (d := d) (k := k) (lo := lo) (hi := hi) u.free a b c
  generalize bandOf [⟨d, k, lo, hi⟩] d k u.free = a at goodA dieA dirA timed retrained
  generalize bandOf [⟨d, k, lo, hi⟩] e (opposite k) (u.free + 2) = b at goodB dieB dirB retrained
  have bandA := of_decide_eq_true goodA
  have bandB := of_decide_eq_true goodB
  have workA : (State.link { u with free := u.free + 4 } a.die a.dir).state = 1 ∨ (State.link { u with free := u.free + 4 } a.die a.dir).state = 2 := by
    rw [dieA, dirA]
    show (u.link d k).state = 1 ∨ (u.link d k).state = 2
    rw [near]
    exact working
  have workB : (State.link { u with free := u.free + 4 } b.die b.dir).state = 1 ∨ (State.link { u with free := u.free + 4 } b.die b.dir).state = 2 := by
    rw [dieB, dirB]
    show (u.link e (opposite k)).state = 1 ∨ (u.link e (opposite k)).state = 2
    rw [far]
    exact farWorks
  obtain ⟨linkA, linkB⟩ := State.publishBands_pair goodA goodB (dieA ▸ hd) (dieB ▸ edgeTo_lt hd hk edge) (dirA ▸ hk) (dirB ▸ opposite_lt k)
    (by rw [dieA, dieB]; exact apart) workA workB
  rw [dieA, dirA] at linkA
  rw [dieB, dirB] at linkB
  obtain ⟨p, published⟩ := State.publishBands_relinked { u with free := u.free + 4 } [a, b]
  refine ⟨_, a, retrained, ?_, ?_, ?_, fun x y z => ?_, bandA.1, bandA.2.1, bandA.2.2, ?_⟩
  · rw [State.edgeRecord, State.record_tiles, published.state, relinked.state]
  · obtain ⟨l, x, q, recorded⟩ := State.record_eq (State.publishBands { u with free := u.free + 4 } [a, b])
      (unitRecord 0 4 0xFF (4 * d + k) (State.partOfDie (State.publishBands { u with free := u.free + 4 } [a, b]) d))
    rw [State.edgeRecord, recorded, published.state, relinked.state]
  · rw [State.edgeRecord_link, linkA]
    show { u.link d k with lo := a.lo, hi := a.hi } = _
    rw [near]
    rfl
  · rw [timed x y z]
    exact ⟨rfl, rfl⟩
  · rw [State.edgeRecord_link, linkB]
    show (u.link e (opposite k)).retrains = _ ∧ b.lo ≤ b.hi ∧ 0 < b.hi ∧ b.hi < 2 ^ 16
    rw [far]
    exact ⟨rfl, bandB⟩

end

/-! ### Routes (R132, R422 to R424) -/

theorem routeSwitchover_absent {s : State} {p : Nat} (tables : RouteTables) (h : (s.part p).live = false) :
    exec (.routeSwitchover p tables) s = .next s := by
  show execRouteSwitchover p tables s = _
  rw [execRouteSwitchover, if_pos (by rw [h]; rfl)]

/-- A message behind one on an old path does not lead. -/
theorem State.leads_behind {s : State} {i j : Nat} {m x : Msg} (hx : s.msgs[j]? = some x) (before : j < i) (old : x.old = true)
    (src : x.src = m.src) (dest : x.dest = m.dest) : s.leads i m = false := by
  have inside : x ∈ s.msgs.take i := List.mem_of_getElem? (by rw [List.getElem?_take, if_pos before]; exact hx)
  have behind : (s.msgs.take i).any (fun x => x.sameLane m || (x.old && decide (x.src = m.src ∧ x.dest = m.dest))) = true :=
    List.any_eq_true.mpr ⟨x, inside, by simp [old, src, dest]⟩
  rw [State.leads, behind]
  rfl

/-- The loss of a port leaves the slice of a partition as it was. -/
theorem State.portDown_part (s : State) (port p : Nat) : ((s.portDown port).part p).carriers = (s.part p).carriers ∧
    ((s.portDown port).part p).routes = (s.part p).routes ∧ ((s.portDown port).part p).hbms = (s.part p).hbms := by
  have view : ∀ {β : Type} (view : Partition → β), (∀ (q : Partition) w, view { q with windows := w } = view q) →
      view ((s.portDown port).part p) = view (s.part p) :=
    fun view same => keyGet_map_view view _ _ s.parts p fun e => ⟨rfl, same _ _⟩
  exact ⟨view Partition.carriers fun _ _ => rfl, view Partition.routes fun _ _ => rfl, view Partition.hbms fun _ _ => rfl⟩

/-- `t` is `s` with host windows off: memory, grids and slices are as they were. -/
structure PortsDown (s t : State) : Prop where
  mem : t.mem = s.mem
  grids : t.grids = s.grids
  part : ∀ p, (t.part p).carriers = (s.part p).carriers ∧ (t.part p).routes = (s.part p).routes ∧ (t.part p).hbms = (s.part p).hbms
theorem PortsDown.refl (s : State) : PortsDown s s := ⟨rfl, rfl, fun _ => ⟨rfl, rfl, rfl⟩⟩
theorem PortsDown.trans {s t u : State} (h : PortsDown s t) (g : PortsDown t u) : PortsDown s u := by
  refine ⟨g.mem.trans h.mem, g.grids.trans h.grids, fun p => ?_⟩
  obtain ⟨c, r, b⟩ := h.part p
  obtain ⟨c', r', b'⟩ := g.part p
  exact ⟨c'.trans c, r'.trans r, b'.trans b⟩
theorem State.dropPorts_down (s : State) : PortsDown s s.dropPorts := by
  refine foldl_keeps .refl .trans (fun s n => ?_) _ s
  split
  · exact ⟨rfl, rfl, s.portDown_part _⟩
  · exact .refl s

section
variable {s u : State} {p : Nat} {l : List Nat} {routes : List (Nat × Nat × Nat)} {q : Partition} (live : (s.part p).live = true)
  (hq : q = { s.part p with carriers := l.filter (fun d => decide (d < Config.dies)), routes := routes })
  (hu : u = { s with parts := keySet s.parts p q, msgs := s.msgs.map (fun m =>
    if m.part = p then { m with old := m.old || s.onOldPath (s.part p) q m } else m) })
include live hq hu

/-- The state with the new tables installed, before it is known what they cut off. -/
theorem routeSwitchover_installs : exec (.routeSwitchover p ⟨l, routes⟩) s = .next (if u.cutOff p then
    (((u.activeGrids p).foldl (fun (s : State) gid => s.severGrid gid (u.failedEdge p)) u).dropRims p).dropPorts else u) := by
  have installed : s.installRoutes p ⟨l, routes⟩ = u := by
    rw [hu, hq, State.installRoutes, State.part_modPart]
    rfl
  show execRouteSwitchover p ⟨l, routes⟩ s = _
  rw [execRouteSwitchover, if_neg (by rw [live]; decide)]
  dsimp only
  rw [installed]
  split
  · rfl
  · rfl

theorem routeSwitchover_whole (whole : u.cutOff p = false) : exec (.routeSwitchover p ⟨l, routes⟩) s = .next u := by
  rw [routeSwitchover_installs live hq hu, whole]
  rfl

theorem routeSwitchover_cut (cut : u.cutOff p = true) (free : ∀ e ∈ s.grids, e.2.part ≠ p) :
    ∃ t, exec (.routeSwitchover p ⟨l, routes⟩) s = .next t ∧ t.mem = s.mem ∧ t.grids = s.grids ∧ (t.part p).carriers = q.carriers ∧
      (t.part p).routes = routes ∧ ∀ h ∈ (t.part p).hbms, u.isolated (stackDie h) = false := by
  have none : u.activeGrids p = [] := by
    rw [State.activeGrids, List.filter_eq_nil_iff.mpr, List.map_nil]
    rintro e he active
    rw [hu] at he
    simp only [Bool.and_eq_true, decide_eq_true_eq] at active
    exact free e he active.1.1
  have part : u.part p = q := by
    rw [hu]
    exact keyGet_keySet_same ..
  have rims : (u.dropRims p).part p = { q with
      hbms := q.hbms.filter (fun h => !u.isolated (stackDie h)), ethPorts := q.ethPorts.filter (fun e => !u.isolated (Config.dies + e / 4)) } := by
    rw [State.dropRims, State.part_modPart, part]
  obtain ⟨mem, grids, kept⟩ := (u.dropRims p).dropPorts_down
  obtain ⟨carriers, rest, hbms⟩ := kept p
  refine ⟨(u.dropRims p).dropPorts, ?_, mem.trans (by rw [hu]; rfl), grids.trans (by rw [hu]; rfl), carriers.trans (by rw [rims]),
    rest.trans (by rw [rims, hq]), fun h hh => ?_⟩
  · rw [routeSwitchover_installs live hq hu, cut, none]
    rfl
  · rw [hbms, rims] at hh
    simpa using (List.mem_filter.mp hh).2

end

/-- Links and routes. -/
theorem linkEvents : LinkEvents :=
  ⟨fun _ _ _ _ edge hd hk apart working => ⟨fun _ o lo hi hm => ⟨linkRetrain_works edge hd hk apart working o lo hi hm,
      linkRetrain_disabled edge hk apart working o lo hi hm⟩, linkFail_fails edge hk apart working⟩,
    fun _ _ _ => linkFail_failed, fun _ _ _ _ => routeSwitchover_absent _, fun _ _ _ _ _ => State.leads_behind,
    fun _ _ _ _ _ _ live hq hu => ⟨routeSwitchover_whole live hq hu, routeSwitchover_cut live hq hu⟩⟩

/-- Settles O49: tables by the SEQ that each copy shows, clocks by the accuracy of the entry that goes on from TIME, links end by end. -/
theorem tripsClocksAndLinks : Obligations.TripsClocksAndLinks := ⟨tripsAndClocks, linkEvents⟩

end Sys2Proof.Machine
end

section
/-! PROOF. Power-on boot, its timeout, and a module reset (R190, R319, R414, R416, R421, R434, R435). -/

namespace Sys2Proof.Machine

/-! ### The image that boots (R319, R434) -/

theorem powerGood_on {s : State} (b : BootData) (h : s.boot ≠ .off) : exec (.powerGood b) s = .next s := by
  show execPowerGood b s = _
  rw [execPowerGood, if_pos h]

section
variable {s : State} {b : BootData} (off : s.boot = .off)
include off

theorem powerGood_imageless (h : s.bootSlot b = none) : exec (.powerGood b) s = .next { s with boot := .recovery } := by
  show execPowerGood b s = _
  rw [execPowerGood, if_neg (not_not.mpr off), h]

theorem powerGood_short {n : Nat} (h : s.bootSlot b = some n) (short : b.reachesEnd = false) : exec (.powerGood b) s =
    .next { s.activate n with boot := .booting, failedBoots := (s.activate n).failedBoots + 1 } := by
  show execPowerGood b s = _
  rw [execPowerGood, if_neg (not_not.mpr off), h]
  dsimp only
  rw [short, if_neg Bool.false_ne_true]

theorem powerGood_whole {n : Nat} (h : s.bootSlot b = some n) (whole : b.reachesEnd = true) : exec (.powerGood b) s =
    .next { (((s.activate n).bootLinks b).bootTables b).bootPartitions b with boot := .running, failedBoots := 0 } := by
  show execPowerGood b s = _
  rw [execPowerGood, if_neg (not_not.mpr off), h]
  dsimp only
  rw [if_pos whole]

end

theorem State.bootSlot_none {s : State} {b : BootData} (h : b.imageOk = (false, false)) : s.bootSlot b = none := by
  have bad : ∀ n, slotOk b n = false := fun n => by
    rw [slotOk, h]
    split <;> rfl
  simp only [State.bootSlot, bad, Bool.false_and, Bool.false_eq_true, if_false]

theorem State.bootSlot_first {s : State} {b : BootData} {n : Nat} (hn : n = s.staged.getD s.activeImage) (ok : slotOk b n = true)
    (fresh : s.staged ≠ none ∨ s.failedBoots < 3) : s.bootSlot b = some n := by
  have worn : (s.staged.isNone && decide (3 ≤ s.failedBoots)) = false := by
    rcases fresh with staged | few
    · rw [Option.isNone_eq_false_iff.mpr (Option.isSome_iff_ne_none.mpr staged), Bool.false_and]
    · rw [decide_eq_false (by omega), Bool.and_false]
  rw [State.bootSlot, ← hn]
  rw [ok, worn]
  rfl

theorem State.bootSlot_worn {s : State} {b : BootData} {n : Nat} (hn : n = s.activeImage) (unstaged : s.staged = none)
    (worn : 3 ≤ s.failedBoots) (ok : slotOk b (1 - n) = true) : s.bootSlot b = some (1 - n) := by
  rw [State.bootSlot, unstaged, Option.getD_none, ← hn]
  rw [decide_eq_true worn, ok]
  simp

/-- With both images good, one of them boots. -/
theorem State.bootSlot_some (s : State) {b : BootData} (h : b.imageOk = (true, true)) : ∃ n, s.bootSlot b = some n := by
  have good : ∀ n, slotOk b n = true := fun n => by
    rw [slotOk, h]
    split <;> rfl
  simp only [State.bootSlot, good, Bool.true_and, if_true]
  split
  · exact ⟨_, rfl⟩
  · exact ⟨_, rfl⟩

/-- Activating an image changes the slots, and the journal where it was staged. -/
theorem State.activate_eq (s : State) (n : Nat) : ∃ journal seq, s.activate n = { s with
    activeImage := n, staged := none, failedBoots := if n = s.activeImage then s.failedBoots else 0, journal := journal, seqNo := seq } := by
  unfold State.activate
  dsimp only
  split
  · exact ⟨_, _, rfl⟩
  · exact ⟨s.journal, s.seqNo, rfl⟩

/-- The active image stays as it was. -/
theorem State.activate_same {s : State} (h : s.staged = none) : s.activate s.activeImage = s := by
  unfold State.activate
  dsimp only
  rw [if_neg (by rw [h]; exact nofun), if_pos rfl, ← h]

/-! ### Dies changed one after another -/

theorem State.modDies_keeps (l : List Nat) (g : Nat → Die → Die) (s : State) :
    l.foldl (fun (s : State) d => s.modDie d (g d)) s =
      { s with dies := (l.foldl (fun (s : State) d => s.modDie d (g d)) s).dies } := by
  induction l generalizing s with
  | nil => rfl
  | cons d l ih => exact ih (s.modDie d (g d))

theorem State.modDies_other (l : List Nat) (g : Nat → Die → Die) (s : State) {d : Nat} (h : d ∉ l) :
    (l.foldl (fun (s : State) d => s.modDie d (g d)) s).die d = s.die d := by
  induction l generalizing s with
  | nil => rfl
  | cons e l ih =>
    obtain ⟨here, rest⟩ := not_or.mp fun m => h (List.mem_cons.mpr m)
    exact (ih _ rest).trans (State.die_modDie_other s _ here)

theorem State.modDies_mem {l : List Nat} (g : Nat → Die → Die) (s : State) {d : Nat} (h : d ∈ l) (once : l.Nodup) :
    (l.foldl (fun (s : State) d => s.modDie d (g d)) s).die d = g d (s.die d) := by
  induction l generalizing s with
  | nil => cases h
  | cons e l ih =>
    obtain ⟨new, once⟩ := List.nodup_cons.mp once
    by_cases here : d = e
    · subst here
      exact (State.modDies_other l g _ new).trans (State.die_modDie ..)
    · refine (ih _ ((List.mem_cons.mp h).resolve_left here) once).trans ?_
      rw [State.die_modDie_other s _ here]

/-! ### The tables that boot publishes (R319, R421) -/

/-- Where every die has one entry, an accurate one is published. -/
theorem State.putTimes_mem {l : List TimeEntry} {s : State} {e : TimeEntry} (h : e ∈ l) (once : (l.map (·.die)).Nodup)
    (accurate : s.accurate e = true) (hd : e.die < Config.dies) :
    (l.foldl State.putTime s).die e.die = { s.die e.die with offset := e.offset, rate := e.rate } := by
  induction l generalizing s with
  | nil => cases h
  | cons f l ih =>
    obtain ⟨new, once⟩ := List.nodup_cons.mp once
    rcases List.mem_cons.mp h with rfl | inside
    · refine (State.putTimes_other l _ fun x hx same => new (List.mem_map.mpr ⟨x, hx, same⟩)).trans ?_
      exact State.putTime_accurate accurate hd
    · have apart : e.die ≠ f.die := fun same => new (List.mem_map.mpr ⟨e, inside, same⟩)
      have before := s.putTime_other apart
      have still : (s.putTime f).accurate e = true := by
        rw [State.accurate_congr (congrArg Die.time before) (by rw [(s.putTime_retimed f).state])]
        exact accurate
      refine (ih inside once still).trans ?_
      rw [before]

theorem State.publishTimes_entry {l : List TimeEntry} {s : State} {e : TimeEntry} (h : e ∈ l) (once : (l.map (·.die)).Nodup)
    (accurate : s.accurate e = true) (hd : e.die < Config.dies) :
    (s.publishTimes l).die e.die = { s.die e.die with offset := e.offset, rate := e.rate } :=
  State.putTimes_mem (s := { s with tableSeq := s.tableSeq + 2, timePub := some (Publishing.begin' s.timeTable) }) h once accurate hd

theorem State.link_modLink_dir (s : State) (d : Nat) {k j : Nat} (f : Link → Link) (h : j ≠ k) :
    (s.modLink d k f).link d j = s.link d j := by
  rw [State.link, State.modLink, State.die_modDie]
  dsimp only
  rw [Vector.getElem?_setIfInBounds_ne h.symm]
  rfl

/-- A link either keeps its band or takes a good one, which it does where the entry is for it and it works. -/
theorem State.putBand_link (s : State) (e : FretEntry) (d : Nat) {k : Nat} (hk : k < 4) :
    ((s.putBand e).link d k = s.link d k ∧ ¬ (goodBand e = true ∧ e.die = d ∧ e.dir = k ∧ d < 72 ∧
        ((s.link d k).state = 1 ∨ (s.link d k).state = 2))) ∨
      ((s.putBand e).link d k = { s.link d k with lo := e.lo, hi := e.hi } ∧ goodBand e = true ∧
        ((s.link d k).state = 1 ∨ (s.link d k).state = 2)) := by
  by_cases put : goodBand e ∧ e.die < 72 ∧ ((s.link e.die e.dir).state = 1 ∨ (s.link e.die e.dir).state = 2)
  · rw [State.putBand, if_pos put]
    obtain ⟨good, -, working⟩ := put
    by_cases die : d = e.die
    · subst die
      by_cases dir : k = e.dir
      · subst dir
        exact .inr ⟨s.link_modLink _ hk _, good, working⟩
      · exact .inl ⟨s.link_modLink_dir _ _ dir, fun ⟨_, _, same, _⟩ => dir same.symm⟩
    · exact .inl ⟨s.link_modLink_other _ _ die k, fun ⟨_, same, _⟩ => die same.symm⟩
  · rw [State.putBand, if_neg put]
    refine .inl ⟨rfl, ?_⟩
    rintro ⟨good, rfl, rfl, hd, working⟩
    exact put ⟨good, hd, working⟩

/-- The band of a link once entries have been published. -/
theorem State.putBands_link (l : List FretEntry) (s : State) {d k : Nat} (hd : d < 72) (hk : k < 4) : ∃ lo hi,
    (l.foldl State.putBand s).link d k = { s.link d k with lo := lo, hi := hi } ∧
    (¬ ((s.link d k).state = 1 ∨ (s.link d k).state = 2) → lo = (s.link d k).lo ∧ hi = (s.link d k).hi) ∧
    ((s.link d k).state = 1 ∨ (s.link d k).state = 2 → ((s.link d k).lo ≤ (s.link d k).hi ∧ 0 < (s.link d k).hi ∨
      ∃ e ∈ l, goodBand e = true ∧ e.die = d ∧ e.dir = k) → lo ≤ hi ∧ 0 < hi) := by
  induction l generalizing s with
  | nil => exact ⟨_, _, rfl, fun _ => ⟨rfl, rfl⟩, fun _ h => h.resolve_right (fun ⟨_, h, _⟩ => nomatch h)⟩
  | cons e l ih =>
    obtain ⟨lo, hi, link, idle, good⟩ := ih (s.putBand e)
    rcases s.putBand_link e d hk with ⟨same, other⟩ | ⟨put, band, working⟩
    · rw [same] at link idle good
      refine ⟨lo, hi, link, idle, fun working h => good working (h.imp_right ?_)⟩
      rintro ⟨x, hx, band, die, dir⟩
      rcases List.mem_cons.mp hx with rfl | hx
      · exact absurd ⟨band, die, dir, hd, working⟩ other
      · exact ⟨x, hx, band, die, dir⟩
    · rw [put] at link good
      have bounds := of_decide_eq_true band
      exact ⟨lo, hi, link, fun idle => absurd working idle, fun _ _ => good working (.inl ⟨bounds.1, bounds.2.1⟩)⟩

theorem State.entryOf_die (s : State) (l : List TimeEntry) (d c n : Nat) : (s.entryOf l d c n).die = d := by
  unfold State.entryOf
  split
  · next e found =>
    have chosen := List.find?_some found
    simp only [Bool.and_eq_true, decide_eq_true_eq] at chosen
    exact chosen.1
  · rfl

/-- Boot publishes one entry of the time table for every die. -/
theorem State.bootEntries_once (s : State) (b : BootData) : ((s.bootEntries b).1.map (·.die)).Nodup := by
  have dies : (s.bootEntries b).1.map (·.die) = List.range 72 := by
    show ((List.range 72).map fun d => s.entryOf b.times d ((s.die d).clock - (s.die d).slow) (s.free + d)).map (·.die) = _
    rw [List.map_map]
    conv_rhs => rw [← List.map_id (List.range 72)]
    exact List.map_congr_left fun d _ => s.entryOf_die ..
  rw [dies]
  exact List.nodup_range

/-- Boot publishes a band for every direction of every die. -/
theorem State.bootEntries_band (s : State) (b : BootData) {d k e : Nat} (hd : d < 72) (hk : k < 4) (edge : edgeTo d k = some e) :
    ∃ x ∈ (s.bootEntries b).2, goodBand x = true ∧ x.die = d ∧ x.dir = k := by
  refine ⟨bandOf b.bands d k (s.free + 72 + 16 * d + 4 * k), ?_, bandOf_entry ..⟩
  refine List.mem_flatMap.mpr ⟨d, List.mem_range.mpr hd, List.mem_flatMap.mpr ⟨k, List.mem_range.mpr hk, ?_⟩⟩
  rw [edgePair, edge]
  exact List.mem_cons_self

/-- The state after the census, with every die's TIME at 0. -/
def State.atZero (s : State) (b : BootData) : State :=
  (List.range 72).foldl (fun (s : State) d => s.modDie d (fun x => { x with time := 0 })) { s with
    vacant := b.vacant ++ s.retired.filter (fun k => !b.vacant.contains k)
    remap := b.remap, gen := if b.genReadable then s.gen else nextGen s.gen }

theorem State.atZero_die (s : State) (b : BootData) {d : Nat} (hd : d < 72) : (s.atZero b).die d = { s.die d with time := 0 } :=
  State.modDies_mem (fun _ x => { x with time := 0 }) _ (List.mem_range.mpr hd) List.nodup_range

/-- Both tables published, before the pools are set. -/
def State.tabled (s : State) (b : BootData) : State :=
  (State.publishTimes { s.atZero b with free := (s.atZero b).free + 1224 } ((s.atZero b).bootEntries b).1).publishBands
    ((s.atZero b).bootEntries b).2

theorem State.bootTables_eq (s : State) (b : BootData) : s.bootTables b =
    (List.range Config.dies).foldl (fun (s : State) d => s.modDie d (fun x => { x with pool := 180, notice := 512 })) (s.tabled b) := rfl

theorem State.tabled_keeps (s : State) (b : BootData) : ∃ p q ds, s.tabled b = { s with
    vacant := b.vacant ++ s.retired.filter (fun k => !b.vacant.contains k), remap := b.remap
    gen := if b.genReadable then s.gen else nextGen s.gen, free := s.free + 1224, tableSeq := s.tableSeq + 2, fretSeq := s.fretSeq + 2
    timePub := p, fretPub := q, dies := ds } := by
  have zero := State.modDies_keeps (List.range 72) (fun _ x => { x with time := 0 }) { s with
    vacant := b.vacant ++ s.retired.filter (fun k => !b.vacant.contains k)
    remap := b.remap, gen := if b.genReadable then s.gen else nextGen s.gen }
  change s.atZero b = { { s with
    vacant := b.vacant ++ s.retired.filter (fun k => !b.vacant.contains k)
    remap := b.remap, gen := if b.genReadable then s.gen else nextGen s.gen } with dies := (s.atZero b).dies } at zero
  unfold State.tabled
  generalize s.atZero b = z at zero ⊢
  obtain ⟨p, timed⟩ := State.publishTimes_retimed { z with free := z.free + 1224 } (z.bootEntries b).1
  generalize State.publishTimes _ _ = y at timed ⊢
  obtain ⟨q, linked⟩ := State.publishBands_relinked y (z.bootEntries b).2
  generalize y.publishBands _ = t at linked ⊢
  exact ⟨p, q, t.dies, linked.state.trans (by rw [timed.state, zero])⟩

/-- What the tables of a die hold once they are published. -/
theorem State.tabled_die (s : State) (b : BootData) {d : Nat} (hd : d < 72) : ((s.tabled b).die d).time = 0 ∧
    (d < Config.dies → (s.die d).clock ≤ 42 → 28 ≤ (s.die d).clock - (s.die d).slow → Timed (s.tabled b) d) ∧
    ∀ k, k < 4 → ∃ lo hi, (s.tabled b).link d k = { s.link d k with lo := lo, hi := hi } ∧
      (¬ ((s.link d k).state = 1 ∨ (s.link d k).state = 2) → lo = (s.link d k).lo ∧ hi = (s.link d k).hi) ∧
      ((s.link d k).state = 1 ∨ (s.link d k).state = 2 → edgeTo d k ≠ none → lo ≤ hi ∧ 0 < hi) := by
  have zero := s.atZero_die b hd
  unfold State.tabled
  generalize s.atZero b = z at zero ⊢
  have once := z.bootEntries_once b
  have bands := fun k e => z.bootEntries_band b (d := d) (k := k) (e := e) hd
  have entry : z.entryOf b.times d ((z.die d).clock - (z.die d).slow) (z.free + d) ∈ (z.bootEntries b).1 :=
    List.mem_map.mpr ⟨d, List.mem_range.mpr hd, rfl⟩
  have own := fun low high => (z.entryOf_accurate b.times (z.free + d) hd (c := (z.die d).clock - (z.die d).slow) low high).2
  have itsDie := z.entryOf_die b.times d ((z.die d).clock - (z.die d).slow) (z.free + d)
  generalize z.entryOf b.times d _ _ = e at entry own itsDie
  generalize (z.bootEntries b).1 = times at entry once ⊢
  generalize (z.bootEntries b).2 = frets at bands ⊢
  obtain ⟨p, timed⟩ := State.publishTimes_retimed { z with free := z.free + 1224 } times
  have published : ∀ low high small, _ := fun low high small =>
    State.publishTimes_entry (s := { z with free := z.free + 1224 }) entry once (own low high) small
  generalize State.publishTimes _ times = y at timed published ⊢
  obtain ⟨q, linked⟩ := State.publishBands_relinked y frets
  have links : ∀ k, k < 4 → _ := fun k hk => State.putBands_link frets
    { y with fretSeq := y.fretSeq + 2, fretPub := some (Publishing.begin' y.fretTable) } hd hk
  change ∀ k, k < 4 → ∃ lo hi, (y.publishBands frets).link d k = { y.link d k with lo := lo, hi := hi } ∧
    (¬ ((y.link d k).state = 1 ∨ (y.link d k).state = 2) → lo = (y.link d k).lo ∧ hi = (y.link d k).hi) ∧
    ((y.link d k).state = 1 ∨ (y.link d k).state = 2 → ((y.link d k).lo ≤ (y.link d k).hi ∧ 0 < (y.link d k).hi ∨
      ∃ e ∈ frets, goodBand e = true ∧ e.die = d ∧ e.dir = k) → lo ≤ hi ∧ 0 < hi) at links
  generalize y.publishBands frets = t at linked links ⊢
  have time : (y.die d).time = 0 := by
    rw [timed.die]
    exact congrArg Die.time zero
  have same : ∀ k, y.link d k = s.link d k := fun k => by
    rw [State.link, timed.die]
    show ((z.die d).links[k]?).getD Link.reset = _
    rw [zero, State.link]
  refine ⟨by rw [linked.die]; exact time, fun small high low => ?_, fun k hk => ?_⟩
  · replace high := Nat.le_trans (Nat.sub_le _ (s.die d).slow) high
    rw [zero] at own
    rw [itsDie] at published
    rw [Timed, linked.die, linked.state]
    show timeAt (y.die d).offset (y.die d).rate y.refCount ≤ (y.die d).time + 2 ∧
      ((y.die d).time : Int) ≤ timeAt (y.die d).offset (y.die d).rate y.refCount + 2
    rw [published (by rw [zero]; exact low) (by rw [zero]; exact high) small, timed.state]
    obtain ⟨-, -, -, late, early⟩ := (State.accurate_iff ..).mp (own low high)
    rw [itsDie] at late early
    exact ⟨late, early⟩
  · obtain ⟨lo, hi, link, idle, good⟩ := links k hk
    rw [same] at link idle good
    refine ⟨lo, hi, link, idle, fun working edge => good working (.inr ?_)⟩
    obtain ⟨e, he⟩ := Option.ne_none_iff_exists'.mp edge
    exact bands k e hk he

/-- What boot's tables leave of a die. -/
theorem State.bootTables_die (s : State) (b : BootData) {d : Nat} (hd : d < 72) : ((s.bootTables b).die d).time = 0 ∧
    (d < Config.dies → (s.die d).clock ≤ 42 → 28 ≤ (s.die d).clock - (s.die d).slow → Timed (s.bootTables b) d) ∧
    (d < Config.dies → ((s.bootTables b).die d).pool = 180 ∧ ((s.bootTables b).die d).notice = 512) ∧
    ∀ k, k < 4 → ∃ lo hi, (s.bootTables b).link d k = { s.link d k with lo := lo, hi := hi } ∧
      (¬ ((s.link d k).state = 1 ∨ (s.link d k).state = 2) → lo = (s.link d k).lo ∧ hi = (s.link d k).hi) ∧
      ((s.link d k).state = 1 ∨ (s.link d k).state = 2 → edgeTo d k ≠ none → lo ≤ hi ∧ 0 < hi) := by
  obtain ⟨time, timed, links⟩ := s.tabled_die b hd
  have state := State.modDies_keeps (List.range Config.dies) (fun _ x => { x with pool := 180, notice := 512 }) (s.tabled b)
  have inside := fun small => State.modDies_mem (l := List.range Config.dies) (fun _ x => { x with pool := 180, notice := 512 }) (s.tabled b)
    (d := d) (List.mem_range.mpr small) List.nodup_range
  have outside := fun (large : ¬ d < Config.dies) => State.modDies_other (List.range Config.dies) (fun _ x => { x with pool := 180, notice := 512 }) (s.tabled b)
    (d := d) (fun h => large (List.mem_range.mp h))
  rw [← State.bootTables_eq] at state
  simp only [← State.bootTables_eq] at inside outside
  generalize s.bootTables b = t at state inside outside ⊢
  generalize s.tabled b = z at *
  by_cases small : d < Config.dies
  · have here := inside small
    refine ⟨by rw [here]; exact time, fun _ high low => ?_, fun _ => by rw [here]; exact ⟨rfl, rfl⟩, ?_⟩
    · rw [Timed, here, state]
      exact timed small high low
    · simp only [State.link, here] at links ⊢
      exact links
  · have here := outside small
    refine ⟨by rw [here]; exact time, fun h => absurd h small, fun h => absurd h small, ?_⟩
    simp only [State.link, here] at links ⊢
    exact links

theorem State.bootTables_keeps (s : State) (b : BootData) : ∃ p q ds, s.bootTables b = { s with
    vacant := b.vacant ++ s.retired.filter (fun k => !b.vacant.contains k), remap := b.remap
    gen := if b.genReadable then s.gen else nextGen s.gen, free := s.free + 1224, tableSeq := s.tableSeq + 2, fretSeq := s.fretSeq + 2
    timePub := p, fretPub := q, dies := ds } := by
  obtain ⟨p, q, ds, tabled⟩ := s.tabled_keeps b
  have state := State.modDies_keeps (List.range Config.dies) (fun _ x => { x with pool := 180, notice := 512 }) (s.tabled b)
  rw [← State.bootTables_eq] at state
  exact ⟨p, q, (s.bootTables b).dies, state.trans (by rw [tabled])⟩

/-! ### Links (R318, R420, R421) -/

theorem State.bootLinks_keeps (s : State) (b : BootData) : s.bootLinks b = { s with dies := (s.bootLinks b).dies } :=
  State.modDies_keeps (List.range 72) (fun d x => { x with links := Vector.ofFn (fun (k : Fin 4) => bootLink b d k.val) }) s

theorem State.bootLinks_die (s : State) (b : BootData) {d : Nat} (hd : d < 72) :
    (s.bootLinks b).die d = { s.die d with links := Vector.ofFn (fun (k : Fin 4) => bootLink b d k.val) } :=
  State.modDies_mem (fun d x => { x with links := Vector.ofFn (fun (k : Fin 4) => bootLink b d k.val) }) s (List.mem_range.mpr hd)
    List.nodup_range

theorem State.bootLinks_link (s : State) (b : BootData) {d k : Nat} (hd : d < 72) (hk : k < 4) :
    (s.bootLinks b).link d k = bootLink b d k := by
  rw [State.link, s.bootLinks_die b hd]
  simp [hk]

/-- A link as boot leaves it: failed without a working module, else up. -/
theorem bootLink_edge (b : BootData) {d k e : Nat} (edge : edgeTo d k = some e) : (bootLink b d k).up = edgeMask b.linksUp d k e ∧
    (bootLink b d k).lo = 0 ∧ (bootLink b d k).hi = 0 ∧ (bootLink b d k).state = if edgeMask b.linksUp d k e = 0 then 3 else 1 := by
  rw [bootLink, edge]
  exact ⟨rfl, rfl, rfl, rfl⟩

/-! ### The whole of boot -/

/-- The state that a boot to the end comes to, partitions aside. -/
def State.booted (s : State) (n : Nat) (b : BootData) : State := ((s.activate n).bootLinks b).bootTables b

theorem State.booted_keeps (s : State) (n : Nat) (b : BootData) : (s.booted n b).mem = s.mem ∧ (s.booted n b).tiles = s.tiles ∧
    (s.booted n b).parts = s.parts ∧ (s.booted n b).policy = s.policy ∧ (s.booted n b).activeImage = n ∧ (s.booted n b).staged = none ∧
    (s.booted n b).remap = b.remap ∧ (s.booted n b).tableSeq = s.tableSeq + 2 ∧ (s.booted n b).fretSeq = s.fretSeq + 2 ∧
    (s.booted n b).vacant = b.vacant ++ s.retired.filter (fun k => !b.vacant.contains k) ∧
    (s.booted n b).gen = if b.genReadable then s.gen else nextGen s.gen := by
  obtain ⟨journal, seq, active⟩ := s.activate_eq n
  have links := (s.activate n).bootLinks_keeps b
  obtain ⟨p, q, ds, tables⟩ := ((s.activate n).bootLinks b).bootTables_keeps b
  unfold State.booted
  rw [tables, links, active]
  exact ⟨rfl, rfl, rfl, rfl, rfl, rfl, rfl, rfl, rfl, rfl, rfl⟩

theorem State.booted_die (s : State) (n : Nat) (b : BootData) {d : Nat} (hd : d < 72) : ((s.booted n b).die d).time = 0 ∧
    (d < Config.dies → (s.die d).clock ≤ 42 → 28 ≤ (s.die d).clock - (s.die d).slow → Timed (s.booted n b) d) ∧
    (d < Config.dies → ((s.booted n b).die d).pool = 180 ∧ ((s.booted n b).die d).notice = 512) ∧
    ∀ k, k < 4 → ∃ lo hi, (s.booted n b).link d k = { bootLink b d k with lo := lo, hi := hi } ∧
      (¬ ((bootLink b d k).state = 1 ∨ (bootLink b d k).state = 2) → lo = (bootLink b d k).lo ∧ hi = (bootLink b d k).hi) ∧
      ((bootLink b d k).state = 1 ∨ (bootLink b d k).state = 2 → edgeTo d k ≠ none → lo ≤ hi ∧ 0 < hi) := by
  have links := (s.activate n).bootLinks_die b hd
  have die : (s.activate n).die d = s.die d := by
    obtain ⟨journal, seq, active⟩ := s.activate_eq n
    rw [active]
    rfl
  obtain ⟨time, timed, pool, bands⟩ := ((s.activate n).bootLinks b).bootTables_die b hd
  rw [links, die] at timed
  refine ⟨time, timed, pool, fun k hk => ?_⟩
  have band := bands k hk
  rw [State.bootLinks_link _ b hd hk] at band
  exact band

/-- A boot to the end, with its images good and no stored policy. -/
theorem powerGood_boots {s : State} {b : BootData} (off : s.boot = .off) (whole : b.reachesEnd = true) (good : b.imageOk = (true, true)) :
    ∃ n, exec (.powerGood b) s = .next { (s.booted n b).bootPartitions b with boot := .running, failedBoots := 0 } := by
  obtain ⟨n, slot⟩ := s.bootSlot_some good
  exact ⟨n, powerGood_whole off slot whole⟩

theorem State.bootPartitions_none {s : State} (b : BootData) (h : s.policy = []) : s.bootPartitions b = s := by
  rw [State.bootPartitions, h]
  rfl

/-- A partition with an absent stack is not set up. -/
theorem State.bootPartitions_absent {s : State} {b : BootData} {x : PartSetup} {h : Nat} (policy : s.policy = [x]) (hh : h ∈ x.hbms)
    (absent : h ∈ b.absentStacks) : s.bootPartitions b = s := by
  have missing : x.hbms.all (fun h => !s.absentStack b h) = false := by
    refine List.all_eq_false.mpr ⟨h, hh, ?_⟩
    simp [State.absentStack, absent]
  simp only [State.bootPartitions, policy, List.foldl_cons, List.foldl_nil, missing, Bool.and_false, Bool.false_and, Bool.false_eq_true,
    if_false]

theorem powerGood_result {s : State} {b : BootData} (off : s.boot = .off) (whole : b.reachesEnd = true) (good : b.imageOk = (true, true))
    (policy : s.policy = []) :
    ∃ t, exec (.powerGood b) s = .next t ∧ t.boot = .running ∧ t.failedBoots = 0 ∧ t.staged = none ∧ t.mem = s.mem ∧ t.tiles = s.tiles ∧
      (∀ k, k ∈ t.vacant ↔ k ∈ b.vacant ∨ k ∈ s.retired) ∧
      (b.genReadable = true → t.gen = s.gen) ∧ (b.genReadable = false → t.gen = if s.gen = 255 then 1 else s.gen + 1) ∧
      (∀ d, d < 72 → (t.die d).time = 0) ∧ t.remap = b.remap ∧ t.tableSeq = s.tableSeq + 2 ∧ t.fretSeq = s.fretSeq + 2 ∧
      (∀ d, d < Config.dies → (s.die d).clock ≤ 42 → 28 ≤ (s.die d).clock - (s.die d).slow → Timed t d) ∧
      (∀ d, d < Config.dies → (t.die d).pool = 180 ∧ (t.die d).notice = 512) ∧
      (∀ d k e up, d < 72 → k < 4 → edgeTo d k = some e →
        up = (if d ≤ e then maskFor b.linksUp d k else maskFor b.linksUp e (opposite k)) % 2 ^ modulesOf d k →
        (t.link d k).up = up ∧ (up = 0 → (t.link d k).state = 3 ∧ (t.link d k).lo = 0 ∧ (t.link d k).hi = 0) ∧
        (up ≠ 0 → (t.link d k).state = 1 ∧ (t.link d k).lo ≤ (t.link d k).hi ∧ 0 < (t.link d k).hi)) := by
  obtain ⟨n, boots⟩ := powerGood_boots off whole good
  obtain ⟨mem, tiles, -, kept, -, staged, remap, times, frets, vacant, gen⟩ := s.booted_keeps n b
  rw [State.bootPartitions_none b (kept.trans policy)] at boots
  have die := fun d => s.booted_die n b (d := d)
  generalize s.booted n b = u at boots mem tiles staged remap times frets vacant gen die
  refine ⟨_, boots, rfl, rfl, staged, mem, tiles, fun k => ?_, fun readable => ?_, fun lost => ?_, fun d hd => (die d hd).1, remap, times,
    frets, fun d hd high low => (die d (Nat.lt_trans hd (by decide))).2.1 hd high low,
    fun d hd => (die d (Nat.lt_trans hd (by decide))).2.2.1 hd, fun d k e up hd hk edge hup => ?_⟩
  · show k ∈ u.vacant ↔ _
    rw [vacant]
    rw [List.mem_append, List.mem_filter]
    by_cases absent : k ∈ b.vacant
    · simp only [absent, true_or]
    · simp [absent]
  · exact gen.trans (if_pos readable)
  · refine gen.trans (if_neg ?_)
    rw [lost]
    decide
  · obtain ⟨-, -, -, bands⟩ := die d hd
    obtain ⟨lo, hi, link, idle, works⟩ := bands k hk
    obtain ⟨mask, zeroLo, zeroHi, state⟩ := bootLink_edge b edge
    change up = edgeMask b.linksUp d k e at hup
    rw [← hup] at mask state
    show (u.link d k).up = up ∧ (up = 0 → (u.link d k).state = 3 ∧ (u.link d k).lo = 0 ∧
      (u.link d k).hi = 0) ∧ (up ≠ 0 → (u.link d k).state = 1 ∧
      (u.link d k).lo ≤ (u.link d k).hi ∧ 0 < (u.link d k).hi)
    rw [link]
    refine ⟨mask, fun none => ?_, fun some => ?_⟩
    · rw [if_pos none] at state
      obtain ⟨sameLo, sameHi⟩ := idle (by rw [state]; decide)
      exact ⟨state, sameLo.trans zeroLo, sameHi.trans zeroHi⟩
    · rw [if_neg some] at state
      exact ⟨state, works (.inl state) (by rw [edge]; exact Option.some_ne_none e)⟩

theorem bootTimeout_ends {s : State} (h : s.boot = .booting) : exec .bootTimeout s = .next { s with boot := .recovery } := by
  show execBootTimeout s = _
  rw [execBootTimeout, if_pos h]
theorem bootTimeout_other {s : State} (h : s.boot ≠ .booting) : exec .bootTimeout s = .next s := by
  show execBootTimeout s = _
  rw [execBootTimeout, if_neg h]

/-- A boot that stops before its end. -/
theorem powerGood_stops {s : State} {b : BootData} {n : Nat} (off : s.boot = .off) (hn : n = s.staged.getD s.activeImage)
    (ok : slotOk b n = true) (fresh : s.staged ≠ none ∨ s.failedBoots < 3) (short : b.reachesEnd = false) :
    ∃ t, exec (.powerGood b) s = .next t ∧ t.boot = .booting ∧ t.activeImage = n ∧ t.staged = none ∧
      (s.staged = none → t = { s with boot := .booting, failedBoots := s.failedBoots + 1 }) := by
  have boots := powerGood_short off (State.bootSlot_first hn ok fresh) short
  obtain ⟨journal, seq, active⟩ := s.activate_eq n
  refine ⟨_, boots, rfl, ?_, ?_, fun unstaged => ?_⟩
  · show (s.activate n).activeImage = n
    rw [active]
  · show (s.activate n).staged = none
    rw [active]
  · rw [unstaged, Option.getD_none] at hn
    rw [hn, State.activate_same unstaged]

theorem view_foldl {α β : Type} (view : State → β) {f : State → α → State} (l : List α) {s : State} (h : ∀ s a, view (f s a) = view s) :
    view (l.foldl f s) = view s := by
  induction l generalizing s with
  | nil => rfl
  | cons a l ih => exact ih.trans (h s a)

/-- Setting a partition up leaves the image slots alone. -/
theorem State.setUp_image (s : State) (x : PartSetup) : (s.setUp x).activeImage = s.activeImage ∧ (s.setUp x).staged = s.staged := by
  unfold State.setUp
  constructor
  · refine (view_foldl State.activeImage _ ?_).trans (view_foldl State.activeImage x.asids (s := s) ?_)
    · exact fun _ _ => rfl
    · exact fun _ _ => rfl
  · refine (view_foldl State.staged _ ?_).trans (view_foldl State.staged x.asids (s := s) ?_)
    · exact fun _ _ => rfl
    · exact fun _ _ => rfl

theorem State.bootPartitions_image (s : State) (b : BootData) :
    (s.bootPartitions b).activeImage = s.activeImage ∧ (s.bootPartitions b).staged = s.staged := by
  refine foldl_keeps (R := fun s t => t.activeImage = s.activeImage ∧ t.staged = s.staged) (fun _ => ⟨rfl, rfl⟩)
    (fun h g => ⟨g.1.trans h.1, g.2.trans h.2⟩) (fun s x => ?_) s.policy s
  split
  · exact s.setUp_image x
  · exact ⟨rfl, rfl⟩

theorem powerGood_absent {s : State} {b : BootData} {x : PartSetup} {h : Nat} (off : s.boot = .off) (whole : b.reachesEnd = true)
    (good : b.imageOk = (true, true)) (policy : s.policy = [x]) (hh : h ∈ x.hbms) (absent : h ∈ b.absentStacks) :
    ∃ t, exec (.powerGood b) s = .next t ∧ t.boot = .running ∧ t.parts = s.parts := by
  obtain ⟨n, boots⟩ := powerGood_boots off whole good
  obtain ⟨-, -, parts, kept, -⟩ := s.booted_keeps n b
  rw [State.bootPartitions_absent (kept.trans policy) hh absent] at boots
  generalize s.booted n b = u at boots parts
  exact ⟨_, boots, rfl, parts⟩

/-- A boot from the other slot, after three that failed. -/
theorem powerGood_switches {s : State} {b : BootData} {n : Nat} (off : s.boot = .off) (hn : n = s.activeImage) (unstaged : s.staged = none)
    (worn : 3 ≤ s.failedBoots) (ok : slotOk b (1 - n) = true) :
    ∃ t, exec (.powerGood b) s = .next t ∧ t.activeImage = 1 - n ∧ t.staged = none := by
  have slot := State.bootSlot_worn hn unstaged worn ok
  cases whole : b.reachesEnd with
  | false =>
    obtain ⟨journal, seq, active⟩ := s.activate_eq (1 - n)
    refine ⟨_, powerGood_short off slot whole, ?_, ?_⟩
    · show (s.activate (1 - n)).activeImage = 1 - n
      rw [active]
    · show (s.activate (1 - n)).staged = none
      rw [active]
  | true =>
    have boots := powerGood_whole off slot whole
    obtain ⟨-, -, -, -, active, staged, -⟩ := s.booted_keeps (1 - n) b
    obtain ⟨image, none⟩ := State.bootPartitions_image (s.booted (1 - n) b) b
    change exec (.powerGood b) s = .next { (s.booted (1 - n) b).bootPartitions b with boot := .running, failedBoots := 0 } at boots
    generalize s.booted (1 - n) b = u at boots active staged image none
    generalize u.bootPartitions b = t at boots image none
    exact ⟨_, boots, image.trans active, none.trans staged⟩

theorem bootResult : BootResult :=
  ⟨fun _ b on => powerGood_on b on, fun s b off => ⟨fun bad => powerGood_imageless off (State.bootSlot_none bad),
      fun _ _ hn ok fresh short => powerGood_stops off hn ok fresh short, fun _ _ hn unstaged worn ok => powerGood_switches off hn unstaged worn ok,
      powerGood_result off, fun _ _ whole good policy hh absent => powerGood_absent off whole good policy hh absent⟩,
    fun _ => ⟨bootTimeout_ends, bootTimeout_other⟩⟩

/-! ### A module reset (R190, R414, R416) -/

theorem moduleReset_waits {s : State} {w : Nat} (unsigned : s.unsignedDeltas = true) (hw : w < 10) : exec (.moduleReset w) s = .next s := by
  show execModuleReset w s = _
  rw [execModuleReset, unsigned, decide_eq_true hw]
  rfl

theorem moduleReset_resets {s : State} {w : Nat} (h : s.unsignedDeltas = false ∨ 10 ≤ w) : exec (.moduleReset w) s = .next s.afterReset := by
  show execModuleReset w s = _
  rw [execModuleReset, if_neg]
  rcases h with signed | late
  · simp [signed]
  · simp [Nat.not_lt.mpr late]

theorem State.die_modDie_view {β : Type} (view : Die → β) (s : State) (e : Nat) {f : Die → Die} (h : ∀ x, view (f x) = view x) (d : Nat) :
    view ((s.modDie e f).die d) = view (s.die d) := by
  by_cases same : d = e
  · subst same
    rw [State.die_modDie, h]
  · rw [State.die_modDie_other s f same]

/-- `t` is `s` with what tiles have counted gone to their dies, whose meters stay where they were. -/
structure Counted (s t : State) : Prop where
  state : t = { s with dies := t.dies, tiles := t.tiles }
  metered : ∀ d, (t.die d).metered = (s.die d).metered
theorem Counted.refl (s : State) : Counted s s := ⟨rfl, fun _ => rfl⟩
theorem Counted.trans {s t u : State} (h : Counted s t) (g : Counted t u) : Counted s u :=
  ⟨g.state.trans (by rw [h.state]), fun d => (g.metered d).trans (h.metered d)⟩
theorem State.takeEvents_counted (s : State) (k : Nat) : Counted s (s.takeEvents k) := by
  refine ⟨s.takeEvents_eq k, fun d => ?_⟩
  unfold State.takeEvents
  dsimp only
  split
  · rfl
  · show Die.metered (State.die (State.modDie s (dieOf k) (fun d => { d with counts := addCount d.counts (s.accountOf k) (s.tileCount k) })) d) = _
    refine State.die_modDie_view Die.metered s (dieOf k) ?_ d
    exact fun _ => rfl

theorem Reading.spansReset_names (r : Reading) : (r.spansReset.seq, r.spansReset.signature) = (r.seq, r.signature) := by
  unfold Reading.spansReset
  split <;> rfl

theorem Reading.spansReset_signed {r : Reading} (h : r.signature ≠ none) : r.spansReset = r := by
  rw [Reading.spansReset, if_pos (Option.isSome_iff_ne_none.mpr h)]

/-- RESET is bit 2 of an unsigned reading's FLAGS. -/
theorem Reading.spansReset_flag {r : Reading} (h : r.signature = none) (long : 4 ≤ r.body.length) :
    bf (blockNat r.spansReset.body 2 2) 2 1 = 1 := by
  have flags : blockNat r.body 2 2 < 2 ^ 16 := by
    have short : ((r.body.drop 2).take 2).length = 2 := by simp; omega
    have bound := leNat_lt ((r.body.drop 2).take 2)
    rw [short] at bound
    exact bound
  have two : (r.body.take 2).length = 2 := by simp; omega
  have body : r.spansReset.body = r.body.take 2 ++ leBytes 2 (blockNat r.body 2 2 - bf (blockNat r.body 2 2) 2 1 * 4 + 4) ++ r.body.drop 4 := by
    rw [Reading.spansReset, if_neg (by rw [h]; decide)]
  have value : blockNat r.spansReset.body 2 2 = (blockNat r.body 2 2 - bf (blockNat r.body 2 2) 2 1 * 4 + 4) % 2 ^ 16 := by
    rw [body, blockNat, List.append_assoc, List.drop_left' two, List.take_left' (leBytes_length 2 _), leNat_leBytes]
  rw [value]
  simp only [bf]
  omega

theorem moduleReset : ModuleReset := by
  refine fun s w => ⟨moduleReset_waits, fun h => ⟨s.afterReset, moduleReset_resets h, ?_⟩⟩
  have counted : Counted s (s.tiles.foldl (fun (s : State) e => s.takeEvents e.1) s) :=
    foldl_keeps .refl .trans (fun s e => s.takeEvents_counted e.1) s.tiles s
  unfold State.afterReset
  generalize s.tiles.foldl (fun (s : State) e => s.takeEvents e.1) s = u at counted ⊢
  have journal : u.journal = s.journal := by rw [counted.state]
  have meters : ∀ d, (keyGet Die.reset (u.dies.map (fun e => (e.1, { Die.reset with metered := e.2.metered, counts := e.2.counts }))) d).metered =
      (s.die d).metered := fun d => by
    rw [keyGet_map_value (fun x : Die => { Die.reset with metered := x.metered, counts := x.counts }) Die.reset rfl, ← counted.metered d]
    rfl
  refine ⟨?_, ?_, ?_, ?_, ?_, ?_, ?_, ?_, ?_, ?_, ?_, ?_, ?_, fun i r x hr hx => ?_, meters, rfl, rfl, rfl, rfl, rfl⟩
  case refine_13 =>
    show (u.journal.map Reading.spansReset).map (fun r => (r.seq, r.signature)) = _
    rw [journal, List.map_map]
    exact List.map_congr_left fun r _ => r.spansReset_names
  case refine_14 =>
    change (u.journal.map Reading.spansReset)[i]? = some x at hx
    rw [List.getElem?_map, journal, hr] at hx
    cases hx
    exact ⟨Reading.spansReset_signed, Reading.spansReset_flag⟩
  all_goals rw [counted.state]

/-- Settles O53: boot die by die and link by link, from what each table keeps; a reset field by field. -/
theorem bootAndReset : Obligations.BootAndReset := ⟨bootResult, moduleReset⟩

end Sys2Proof.Machine
end

section
/-! PROOF. What an access of memory may change: reading mends copies and marks pages, and performing a store may set the pool managers,
the sequencer and the host to work; nothing else of the module changes. -/

namespace Sys2Proof.Machine

/-- `t` is `s` with memory read: pages are marked as accessed, and bad copies mended and recorded. -/
structure MemRead (s t : State) : Prop where
  state : t = { s with
    mem := t.mem, tags := t.tags, bad := t.bad, badCopies := t.badCopies, badCached := t.badCached
    errlog := t.errlog, msgs := t.msgs, recent := t.recent }

theorem MemRead.refl (s : State) : MemRead s s := ⟨rfl⟩
theorem MemRead.trans {s t u : State} (h : MemRead s t) (g : MemRead t u) : MemRead s u := ⟨g.state.trans (by rw [h.state])⟩
theorem MemRead.parts {s t : State} (h : MemRead s t) : t.parts = s.parts := by rw [h.state]
theorem MemRead.part {s t : State} (h : MemRead s t) (p : Nat) : t.part p = s.part p := by rw [h.state]; rfl
theorem MemRead.tiles {s t : State} (h : MemRead s t) : t.tiles = s.tiles := by rw [h.state]
theorem MemRead.outputs {s t : State} (h : MemRead s t) : t.outputs = s.outputs := by rw [h.state]
theorem MemRead.ite {c : Prop} [Decidable c] {s t u : State} (ht : MemRead s t) (hu : MemRead s u) : MemRead s (if c then t else u) := by
  split
  · exact ht
  · exact hu
theorem MemRead.writeNat (s : State) (key n x : Nat) : MemRead s (s.writeNat key n x) := ⟨rfl⟩
theorem MemRead.record (s : State) (r : ErrReport) : MemRead s (s.record r) := by
  obtain ⟨l, m, q, h⟩ := s.record_eq r
  rw [h]
  exact ⟨rfl⟩

theorem State.mendCopy_memRead (s : State) (k c w : Nat) : MemRead s (s.mendCopy k c w) := by
  unfold State.mendCopy
  split
  · exact .trans ⟨rfl⟩ (.record ..)
  · exact .trans ⟨rfl⟩ (.record ..)
theorem State.mendWord_memRead (s : State) (k c w : Nat) : MemRead s (s.mendWord k c w) := by
  unfold State.mendWord
  have first : MemRead s (if s.copyBad 56 w then s.mendCopy k 56 w else s) := .ite (s.mendCopy_memRead ..) (.refl s)
  exact .ite (.refl s) (.ite (first.trans (State.mendCopy_memRead ..)) first)
theorem State.mendPieces_memRead (s : State) (k c : Nat) (l : List Piece) : MemRead s (s.mendPieces k c l) := by
  refine foldl_keeps .refl .trans (fun s p => ?_) l s
  unfold State.mend
  split
  · exact foldl_keeps .refl .trans (fun s w => s.mendWord_memRead ..) _ s
  · exact .refl s

theorem State.asidPage_memRead {s t : State} {p asid need va n : Nat} {x : Piece} (h : s.asidPage p asid need va n = .ok (x, t)) :
    MemRead s t := by
  unfold State.asidPage at h
  split at h
  · split at h
    · cases h
    · cases h
      exact .writeNat ..
  · split at h
    · cases h
    · cases h
      exact .refl s
  · cases h
theorem State.asidPieces_memRead {s t : State} {p asid need fuel va n : Nat} {l : List Piece}
    (h : s.asidPieces p asid need fuel va n = .ok (l, t)) : MemRead s t := by
  induction fuel generalizing s t va n l with
  | zero =>
    cases h
    exact .refl s
  | succ fuel ih =>
    unfold State.asidPieces at h
    split at h
    · cases h
      exact .refl s
    · dsimp only at h
      split at h
      · cases h
      · next page =>
        split at h
        · cases h
        · next rest =>
          cases h
          exact (State.asidPage_memRead page).trans (ih rest)
theorem State.asidRead_memRead {s t : State} {p asid va n : Nat} {b : List Byte} (h : s.asidRead p asid va n = .ok (b, t)) :
    MemRead s t := by
  unfold State.asidRead at h
  split at h
  · cases h
  · next pieces =>
    dsimp only at h
    split at h
    · cases h
    · split at h
      · cases h
      · cases h
        exact (State.asidPieces_memRead pieces).trans (State.mendPieces_memRead ..)

/-- `t` is `s` with stores performed at their homes: the pool managers, the sequencer and the host's ports may have acted. -/
structure AtHomes (s t : State) : Prop where
  state : t = { s with
    mem := t.mem, tags := t.tags, bad := t.bad, badCopies := t.badCopies, badCached := t.badCached
    errlog := t.errlog, msgs := t.msgs, recent := t.recent, dies := t.dies, rows := t.rows, free := t.free
    rwrites := t.rwrites, stamp := t.stamp, outputs := t.outputs }

theorem AtHomes.refl (s : State) : AtHomes s s := ⟨rfl⟩
theorem AtHomes.trans {s t u : State} (h : AtHomes s t) (g : AtHomes t u) : AtHomes s u := ⟨g.state.trans (by rw [h.state])⟩
theorem AtHomes.parts {s t : State} (h : AtHomes s t) : t.parts = s.parts := by rw [h.state]
theorem AtHomes.part {s t : State} (h : AtHomes s t) (p : Nat) : t.part p = s.part p := by rw [h.state]; rfl
theorem MemRead.atHomes {s t : State} (h : MemRead s t) : AtHomes s t := ⟨h.state.trans (by rw [h.state])⟩
theorem AtHomes.ite {c : Prop} [Decidable c] {s t u : State} (ht : AtHomes s t) (hu : AtHomes s u) : AtHomes s (if c then t else u) := by
  split
  · exact ht
  · exact hu
theorem AtHomes.modDie (s : State) (d : Nat) (f : Die → Die) : AtHomes s (s.modDie d f) := ⟨rfl⟩
theorem AtHomes.writeKey (s : State) (key : Nat) (data : List Byte) (tag : Bool) : AtHomes s (s.writeKey key data tag) := ⟨rfl⟩
theorem AtHomes.writeNat (s : State) (key n x : Nat) : AtHomes s (s.writeNat key n x) := ⟨rfl⟩
theorem AtHomes.ofRows (s : State) (l : List Row) : AtHomes s { s with rows := l } := ⟨rfl⟩
theorem AtHomes.fresh (s : State) : AtHomes s s.fresh.2 := ⟨rfl⟩
theorem AtHomes.zero (s : State) (key n : Nat) : AtHomes s (s.zero key n) := ⟨rfl⟩
theorem AtHomes.push (s : State) (m : Msg) : AtHomes s (s.push m) := ⟨rfl⟩

theorem State.modExpert_atHomes (s : State) (d b : Nat) (f : Expert → Expert) : AtHomes s (s.modExpert d b f) := by
  unfold State.modExpert
  split
  · exact .refl s
  · exact .modDie ..
theorem State.flush_atHomes (s : State) (d : Nat) : AtHomes s (s.flush d) := by
  unfold State.flush
  dsimp only
  split
  · exact .refl s
  · split
    · exact .refl s
    · exact .trans (.trans ⟨rfl⟩ (State.modExpert_atHomes ..)) (.modDie ..)
theorem State.holdRow_atHomes (s : State) (r : Row) (why : Nat) : AtHomes s (s.holdRow r why) := by
  unfold State.holdRow
  dsimp only
  split
  · exact .trans ⟨rfl⟩ (State.flush_atHomes ..)
  · split
    · exact .writeKey ..
    · split
      · exact ⟨rfl⟩
      · exact .trans ⟨rfl⟩ (.push ..)
theorem State.arriveRow_atHomes (s : State) (r : Row) : AtHomes s (s.arriveRow r) := by
  unfold State.arriveRow
  dsimp only
  split
  · exact s.holdRow_atHomes ..
  · split
    · exact .writeKey ..
    · split
      · exact s.holdRow_atHomes ..
      · split
        · exact s.holdRow_atHomes ..
        · refine .trans ?_ (.ite (.push ..) (.refl _))
          refine .trans (.trans (.trans (.trans ?_ (.fresh _)) (State.modExpert_atHomes ..)) (.modDie ..)) (.writeNat ..)
          exact .writeKey ..
theorem State.retryRows_atHomes (s : State) (which : Row → Bool) : AtHomes s (s.retryRows which) :=
  .trans (.ofRows s _) (foldl_keeps .refl .trans (fun s _ => s.arriveRow_atHomes _) _ _)
theorem State.releaseExpert_atHomes (s : State) (d b : Nat) : AtHomes s (s.releaseExpert d b) := by
  unfold State.releaseExpert
  dsimp only
  have cleared : AtHomes s ((s.writeNat (expertAt d b 0) 4 0).zero (expertAt d b 64) (65536 - 64)) := .trans (.writeNat ..) (.zero ..)
  refine .trans (.trans (cleared.trans ?_) (.modDie ..)) (State.retryRows_atHomes ..)
  split
  · exact .refl _
  · split
    · exact State.modExpert_atHomes ..
    · exact .trans (.trans (foldl_keeps .refl .trans (fun s _ => .zero s ..) _ _) (State.modExpert_atHomes ..)) (.modDie ..)
theorem State.decideOverflow_atHomes (s : State) (d b : Nat) : AtHomes s (s.decideOverflow d b) := by
  unfold State.decideOverflow
  dsimp only
  split
  · exact .refl s
  · refine .trans (.writeNat s (expertAt d b 16) 8 0) ?_
    split
    · exact .refl _
    · split
      · exact .trans (.ofRows _ _) (foldl_keeps .refl .trans (fun s _ => .writeNat s ..) _ _)
      · exact .trans (.ofRows _ _) (foldl_keeps .refl .trans (fun s _ => s.arriveRow_atHomes _) _ _)
      · exact ⟨rfl⟩
      · exact .refl _
theorem State.performAt_atHomes (s : State) (key : Nat) (data : List Byte) (tag : Bool) : AtHomes s (s.performAt key data tag) := by
  unfold State.performAt
  dsimp only
  split
  · exact .writeKey ..
  · refine .trans (.trans ?_ (.ite (State.releaseExpert_atHomes ..) (.refl _))) (.ite (State.decideOverflow_atHomes ..) (.refl _))
    exact .ite ⟨rfl⟩ (.writeKey ..)

theorem State.ackWrite_atHomes (s : State) (n copy : Nat) : AtHomes s (s.ackWrite n copy) := .ite (.refl s) ⟨rfl⟩
theorem State.commitWrite_atHomes (s : State) (n : Nat) : AtHomes s (s.commitWrite n) := by
  unfold State.commitWrite
  split
  · exact .refl s
  · exact .ite (.trans ⟨rfl⟩ (.writeKey ..)) (.refl s)
theorem State.settleWrites_atHomes (s : State) : AtHomes s s.settleWrites := by
  refine foldl_keeps .refl .trans (fun s _ => ?_) s.rwrites s
  unfold State.settleWrite
  split
  · exact .refl s
  · exact .trans (foldl_keeps .refl .trans (fun s _ => s.ackWrite_atHomes ..) _ _) (State.commitWrite_atHomes ..)
theorem State.sendHost_atHomes (s : State) (key : Nat) (data : List Byte) : AtHomes s (s.sendHost key data) := by
  unfold State.sendHost
  split
  · exact .refl s
  · split
    · exact .refl s
    · exact ⟨rfl⟩
theorem State.performStore_atHomes (s : State) (k : Nat) (st : PStore) (id : Nat) : AtHomes s (s.performStore k st id) := by
  unfold State.performStore
  exact .ite (.trans (.trans s.settleWrites_atHomes ⟨rfl⟩) (State.settleWrites_atHomes ..))
    ((s.performAt_atHomes ..).trans (State.sendHost_atHomes ..))
theorem State.writePieces_atHomes (s : State) (k id : Nat) (l : List Piece) (b : List Byte) : AtHomes s (s.writePieces k id l b) := by
  induction l generalizing s b with
  | nil => exact .refl s
  | cons p l ih => exact (s.performStore_atHomes ..).trans (ih ..)
theorem State.asidWrite_atHomes {s t : State} {p asid va : Nat} {b : List Byte} (h : s.asidWrite p asid va b = .ok t) : AtHomes s t := by
  unfold State.asidWrite at h
  split at h
  · cases h
  · next pieces =>
    dsimp only at h
    split at h
    · cases h
    · split at h
      · cases h
      · cases h
        exact ((State.asidPieces_memRead pieces).trans (State.mendPieces_memRead ..)).atHomes.trans (State.writePieces_atHomes ..)
/-- A write of no bytes changes nothing. -/
theorem State.asidWrite_nil (s : State) (p asid va : Nat) : s.asidWrite p asid va [] = .ok s := rfl

end Sys2Proof.Machine
end

section
/-! PROOF. The Cinov ring: what the doorbell takes, and what a completion reports (R314 to R316, R431). -/

namespace Sys2Proof.Machine

/-! ### The doorbell (R314, R315) -/

/-- `t` is `s` but that the connections of partition `p` have moved on. -/
structure Connected (p : Nat) (s t : State) : Prop where
  tiles : t.tiles = s.tiles
  part : t.part p = { s.part p with conns := (t.part p).conns }

theorem Connected.refl (p : Nat) (s : State) : Connected p s s := ⟨rfl, rfl⟩
theorem Connected.trans {p : Nat} {s t u : State} (h : Connected p s t) (g : Connected p t u) : Connected p s u :=
  ⟨g.tiles.trans h.tiles, g.part.trans (by rw [h.part])⟩
theorem MemRead.connected {s t : State} (h : MemRead s t) (p : Nat) : Connected p s t := ⟨h.tiles, by rw [h.part p]⟩

section
variable (p : Nat) (o : CinovOp) (d : List Byte)

theorem State.cinovPacket_connected (s : State) (n : Nat) : Connected p s (s.cinovPacket p o d n) :=
  ⟨rfl, by rw [State.cinovPacket, State.part_modPart]; rfl⟩

theorem State.cinovPacket_conn_same (s : State) (n : Nat) :
    ((s.cinovPacket p o d n).part p).conn n = ((((s.part p).conn n).1 + 1) % 2 ^ 32, ((s.part p).conn n).2) := by
  rw [State.cinovPacket, State.part_modPart]
  exact keyGet_keySet_same ..

theorem State.cinovPacket_conn_other (s : State) {n m : Nat} (h : m ≠ n) :
    ((s.cinovPacket p o d n).part p).conn m = (s.part p).conn m := by
  rw [State.cinovPacket, State.part_modPart]
  exact keyGet_keySet_other _ _ _ h

theorem State.cinovPacket_udpOf (s : State) (n m : Nat) : ((s.cinovPacket p o d n).part p).udpOf m = (s.part p).udpOf m := by
  rw [(s.cinovPacket_connected p o d n).part]
  rfl

theorem State.cinovPackets_conn_other (l : List Nat) (s : State) {m : Nat} (h : m ∉ l) :
    ((l.foldl (fun s n => s.cinovPacket p o d n) s).part p).conn m = (s.part p).conn m := by
  induction l generalizing s with
  | nil => rfl
  | cons n l ih =>
    obtain ⟨first, later⟩ := not_or.mp fun x => h (List.mem_cons.mpr x)
    exact (ih _ later).trans (s.cinovPacket_conn_other p o d first)

/-- Each peer is sent the next packet of its connection. -/
theorem State.cinovPackets_conn (l : List Nat) (s : State) (once : l.Nodup) {m : Nat} (h : m ∈ l) :
    ((l.foldl (fun s n => s.cinovPacket p o d n) s).part p).conn m = ((((s.part p).conn m).1 + 1) % 2 ^ 32, ((s.part p).conn m).2) := by
  induction l generalizing s with
  | nil => cases h
  | cons n l ih =>
    obtain ⟨alone, once⟩ := List.nodup_cons.mp once
    by_cases same : m = n
    · subst same
      exact (State.cinovPackets_conn_other p o d l _ alone).trans (s.cinovPacket_conn_same p o d m)
    · refine (ih _ once ((List.mem_cons.mp h).resolve_left same)).trans ?_
      rw [s.cinovPacket_conn_other p o d same]

/-- What an entry sends to one peer. -/
def Partition.packet (q : Partition) (x : Nat) : Output :=
  Output.cinovSend p x (q.udpOf x) (q.conn x).1 o.op (o.nat 16 8) o.len o.arg d

theorem State.cinovPackets_outputs (l : List Nat) (s : State) (once : l.Nodup) :
    (l.foldl (fun s n => s.cinovPacket p o d n) s).outputs = s.outputs ++ l.map ((s.part p).packet p o d) := by
  induction l generalizing s with
  | nil => exact (List.append_nil _).symm
  | cons n l ih =>
    obtain ⟨alone, once⟩ := List.nodup_cons.mp once
    have rest : l.map (((s.cinovPacket p o d n).part p).packet p o d) = l.map ((s.part p).packet p o d) :=
      List.map_congr_left fun m hm => by
        rw [Partition.packet, Partition.packet, s.cinovPacket_udpOf, s.cinovPacket_conn_other p o d (ne_of_mem_of_not_mem hm alone)]
    refine (ih _ once).trans ?_
    rw [rest]
    exact List.append_assoc _ [_] _
end

theorem State.cinovLocal_memRead {s t : State} {p asid : Nat} {o : CinovOp} {d : List Byte} (h : s.cinovLocal p asid o = .ok (d, t)) :
    MemRead s t := by
  unfold State.cinovLocal at h
  split at h
  · cases h
  · split at h
    · cases h
      exact .refl s
    · exact State.asidRead_memRead h

/-- Entry `o` of index `i` is taken. -/
def State.took (s : State) (p i : Nat) (o : CinovOp) : State :=
  s.modPart p (fun x => { x with cnTaken := x.cnTaken ++ [o], cnNext := (i + 1) % 2 ^ 32 })

section
variable {s w : State} {q : Partition} {p i : Nat} {e : List Byte} {o : CinovOp} (hq : s.part p = q)
include hq

theorem State.takeEntry_unread {f : Denied} (h : s.asidRead p q.cnAsid (q.cnEntry i) 64 = .error f) : s.takeEntry p i = none := by
  rw [State.takeEntry, hq, h]

variable (read : s.asidRead p q.cnAsid (q.cnEntry i) 64 = .ok (e, w)) (ho : o = ⟨i, e, w.lcapTag p q.cnAsid (q.cnEntry i), none, none⟩)
include read ho

theorem State.takeEntry_unformed (h : q.formed o = false) : s.takeEntry p i = some (w.took p i o) := by
  subst ho
  rw [State.takeEntry, hq, read]
  dsimp only
  rw [h]
  rfl

theorem State.takeEntry_local (h : q.formed o = true) : s.takeEntry p i =
    (match w.cinovLocal p q.cnAsid o with
      | .error .waits => none
      | .error .fails => some (w.took p i o)
      | .ok (d, z) => some (((q.reaches o).foldl (fun s n => s.cinovPacket p o d n) z).took p i { o with sent := some d })) := by
  subst ho
  rw [State.takeEntry, hq, read]
  dsimp only
  rw [h]
  rfl
end

theorem State.took_part (s : State) (p i : Nat) (o : CinovOp) :
    (s.took p i o).part p = { s.part p with cnTaken := (s.part p).cnTaken ++ [o], cnNext := (i + 1) % 2 ^ 32 } := s.part_modPart ..

/-- An entry that is taken is the last of the open ones, and nothing else of the ring changes. -/
theorem State.takeEntry_took {s t : State} {p i : Nat} (h : s.takeEntry p i = some t) :
    ∃ (o : CinovOp) (u : State), t = u.took p i o ∧ Connected p s u ∧ o.index = i ∧ o.done = none := by
  cases read : s.asidRead p (s.part p).cnAsid ((s.part p).cnEntry i) 64 with
  | error f =>
    rw [State.takeEntry_unread rfl read] at h
    cases h
  | ok r =>
    obtain ⟨e, w⟩ := r
    have hw := (State.asidRead_memRead read).connected p
    by_cases formed : (s.part p).formed ⟨i, e, w.lcapTag p (s.part p).cnAsid ((s.part p).cnEntry i), none, none⟩ = true
    · rw [State.takeEntry_local rfl read rfl formed] at h
      split at h
      · cases h
      · cases h
        exact ⟨_, w, rfl, hw, rfl, rfl⟩
      · next local' =>
        cases h
        exact ⟨_, _, rfl, (hw.trans ((State.cinovLocal_memRead local').connected p)).trans
          (foldl_keeps (.refl p) .trans (fun s n => s.cinovPacket_connected p _ _ n) _ _), rfl, rfl⟩
    · rw [State.takeEntry_unformed rfl read rfl (Bool.eq_false_iff.mpr formed)] at h
      cases h
      exact ⟨_, w, rfl, hw, rfl, rfl⟩

/-- The engine takes entries in index order, up to one that it cannot read yet. -/
theorem State.takeEntries_took (p n : Nat) (s : State) (h : (s.part p).cnNext < 2 ^ 32) :
    ∃ l : List CinovOp, (s.takeEntries p n).tiles = s.tiles ∧ ((s.takeEntries p n).part p).cnTaken = (s.part p).cnTaken ++ l ∧ l.length ≤ n ∧
      l.map (·.index) = (List.range l.length).map (fun i => ((s.part p).cnNext + i) % 2 ^ 32) ∧ (∀ o ∈ l, o.done = none) ∧
      ((s.takeEntries p n).part p).cnNext = ((s.part p).cnNext + l.length) % 2 ^ 32 ∧
      ((s.takeEntries p n).part p).cnrd = (s.part p).cnrd ∧ ((s.takeEntries p n).part p).cnctl = (s.part p).cnctl := by
  have stay : ((s.part p).cnNext + 0) % 2 ^ 32 = (s.part p).cnNext := Nat.mod_eq_of_lt h
  induction n generalizing s with
  | zero => exact ⟨[], rfl, (List.append_nil _).symm, Nat.le_refl 0, rfl, nofun, stay.symm, rfl, rfl⟩
  | succ n ih =>
    rw [State.takeEntries]
    cases he : s.takeEntry p (s.part p).cnNext with
    | none => exact ⟨[], rfl, (List.append_nil _).symm, Nat.zero_le _, rfl, nofun, stay.symm, rfl, rfl⟩
    | some t =>
      obtain ⟨o, u, rfl, hu, index, isOpen⟩ := State.takeEntry_took he
      have part : (u.took p (s.part p).cnNext o).part p = { s.part p with
          conns := (u.part p).conns, cnTaken := (s.part p).cnTaken ++ [o], cnNext := ((s.part p).cnNext + 1) % 2 ^ 32 } := by
        rw [State.took_part, hu.part]
      have next : ((u.took p (s.part p).cnNext o).part p).cnNext = ((s.part p).cnNext + 1) % 2 ^ 32 := by rw [part]
      have inRange : ((u.took p (s.part p).cnNext o).part p).cnNext < 2 ^ 32 := by
        rw [next]
        exact Nat.mod_lt _ (by decide)
      obtain ⟨l, tiles, taken, short, indexes, allOpen, cnNext, cnrd, cnctl⟩ := ih _ inRange (Nat.mod_eq_of_lt inRange)
      refine ⟨o :: l, tiles.trans hu.tiles, ?_, Nat.succ_le_succ short, ?_, List.forall_mem_cons.mpr ⟨isOpen, allOpen⟩, ?_, ?_, ?_⟩
      · rw [taken, part]
        exact List.append_assoc ..
      · rw [List.map_cons, indexes, next, index, List.length_cons, List.range_succ_eq_map, List.map_cons, stay, List.map_map]
        refine congrArg _ (List.map_congr_left fun i _ => ?_)
        show _ = ((s.part p).cnNext + (i + 1)) % 2 ^ 32
        omega
      · rw [cnNext, next, List.length_cons]
        omega
      · rw [cnrd, part]
      · rw [cnctl, part]

theorem State.takeEntries_one {s : State} {p : Nat} : s.takeEntries p 1 = (s.takeEntry p (s.part p).cnNext).getD s := by
  rw [State.takeEntries]
  split
  · next h => rw [h]; rfl
  · next h => rw [h]; rfl

theorem cinovDoorbell_idle {s : State} {p : Nat} (h : (s.part p).live = false ∨ (s.part p).cnEn = false ∨ (s.part p).cnPending ≠ none) :
    exec (.cinovDoorbell p) s = .next s := by
  show execCinovDoorbell p s = _
  refine if_pos ?_
  rcases h with h | h | h
  · exact .inl (by rw [h]; rfl)
  · exact .inr (.inl (by rw [h]; rfl))
  · exact .inr (.inr (.inl (Option.isSome_iff_ne_none.mpr h)))

theorem cinovDoorbell_reads {s v : State} {p n : Nat} {b : List Byte} (live : (s.part p).live = true) (en : (s.part p).cnEn = true)
    (settled : (s.part p).cnPending = none) (low : 1 ≤ (s.part p).cnN) (high : (s.part p).cnN ≤ 16)
    (next : (s.part p).cnNext < 2 ^ 32) (rd : (s.part p).cnrd ≤ (s.part p).cnNext)
    (read : s.asidRead p (s.part p).cnAsid ((s.part p).cnbase.toNat - 8) 8 = .ok (b, v))
    (hn : n = (leNat b % 2 ^ 32 + 2 ^ 32 - (s.part p).cnNext) % 2 ^ 32) :
    exec (.cinovDoorbell p) s =
      .next (if n + ((s.part p).cnNext - (s.part p).cnrd) ≤ 2 ^ (s.part p).cnN then v.takeEntries p n else v) := by
  have serves : ¬ ((!(s.part p).live) = true ∨ (!(s.part p).cnEn) = true ∨ (s.part p).cnPending.isSome = true ∨ (s.part p).cnN = 0 ∨ 16 < (s.part p).cnN) := by
    rw [live, en, settled]
    simp only [Bool.not_true, Bool.false_eq_true, Option.isSome_none, false_or, not_or]
    omega
  have out : ((s.part p).cnNext + 2 ^ 32 - (s.part p).cnrd) % 2 ^ 32 = (s.part p).cnNext - (s.part p).cnrd := by omega
  show execCinovDoorbell p s = _
  rw [execCinovDoorbell, if_neg serves, read]
  dsimp only
  rw [← hn, out]
  refine congrArg Host.Outcome.next ?_
  by_cases fits : n + ((s.part p).cnNext - (s.part p).cnrd) ≤ 2 ^ (s.part p).cnN
  · rw [if_pos fits, if_pos (by omega)]
  · rw [if_neg fits]
    split
    · have zero : n = 0 := by omega
      rw [zero]
      rfl
    · rfl

theorem cinovDoorbell : CinovDoorbell := by
  rintro s p q rfl
  refine ⟨cinovDoorbell_idle, fun b v n live en settled low high next rd read hn => ?_⟩
  have whole := cinovDoorbell_reads live en settled low high next rd read hn
  have hv := State.asidRead_memRead read
  have part := hv.part p
  refine ⟨fun h => by rw [whole, if_neg (by omega)], fun fits => ?_⟩
  rw [if_pos fits] at whole
  refine ⟨?_, fun one f unread => ?_, fun e w o one readEntry ho => ?_⟩
  · obtain ⟨l, h⟩ := v.takeEntries_took p n (by rw [part]; exact next)
    rw [hv.tiles, part] at h
    exact ⟨_, l, whole, h⟩
  · rw [one, State.takeEntries_one, part, State.takeEntry_unread part unread] at whole
    exact whole
  · rw [one, State.takeEntries_one, part] at whole
    have hw := State.asidRead_memRead readEntry
    have partw := (hw.part p).trans part
    refine ⟨fun h => ⟨w.took p (s.part p).cnNext o, ?_, ?_, hw.outputs.trans hv.outputs⟩, fun formed waits => ?_, fun d z formed sends once => ?_⟩
    · rcases h with unformed | fails
      · rwa [State.takeEntry_unformed part readEntry ho unformed] at whole
      · by_cases formed : (s.part p).formed o = true
        · rwa [State.takeEntry_local part readEntry ho formed, fails] at whole
        · rwa [State.takeEntry_unformed part readEntry ho (Bool.eq_false_iff.mpr formed)] at whole
    · rw [State.took_part, partw]
    · rwa [State.takeEntry_local part readEntry ho formed, waits] at whole
    · rw [State.takeEntry_local part readEntry ho formed, sends] at whole
      have hz := State.cinovLocal_memRead sends
      have partz := (hz.part p).trans partw
      have sent := foldl_keeps (.refl p) .trans (fun s n => s.cinovPacket_connected p o d n) ((s.part p).reaches o) z
      refine ⟨_, whole, ?_, ?_, fun x hx => ?_⟩
      · rw [Option.getD_some, State.took_part, sent.part, partz]
      · refine (State.cinovPackets_outputs p o d _ z once).trans ?_
        rw [partz, hz.outputs, hw.outputs, hv.outputs]
        rfl
      · rw [Option.getD_some, State.took_part]
        refine (State.cinovPackets_conn p o d _ z once hx).trans ?_
        rw [partz]

end Sys2Proof.Machine
end

section
/-! PROOF. What a Cinov completion reports, and what peers ask of this module (R314 to R316, R430, R431). -/

namespace Sys2Proof.Machine

/-! ### A completion (R316, R431) -/

section
variable {s : State} {p status : Nat} {data : List Byte} {o : CinovOp}

theorem State.cinovOutcome_unformed (h : (s.part p).formed o = false) : s.cinovOutcome p o status data = some (status % 4, s) := by
  simp only [State.cinovOutcome, h, Bool.not_false, if_true]

variable (formed : (s.part p).formed o = true)
include formed

theorem State.cinovOutcome_unsent (h : o.sent = none) : s.cinovOutcome p o status data = some (3, s) := by
  simp only [State.cinovOutcome, formed, h, Bool.not_true, Bool.false_eq_true, if_false, Option.isNone_none, if_true]

variable (sent : o.sent ≠ none)
include sent

theorem State.cinovOutcome_lost (h : ((s.part p).reaches o).any (s.part p).lostPeers.contains = true ∨ status = 1) :
    s.cinovOutcome p o status data = some (1, s) := by
  simp only [State.cinovOutcome, formed, Option.isNone_eq_false_iff.mpr (Option.isSome_iff_ne_none.mpr sent), h, Bool.not_true,
    Bool.false_eq_true, if_false, if_true]

variable (kept : ((s.part p).reaches o).any (s.part p).lostPeers.contains = false)
include kept

theorem State.cinovOutcome_remote (one : status ≠ 1) (zero : status ≠ 0) : s.cinovOutcome p o status data = some (2, s) := by
  simp only [State.cinovOutcome, formed, Option.isNone_eq_false_iff.mpr (Option.isSome_iff_ne_none.mpr sent), kept, one, Bool.not_true,
    Bool.false_eq_true, or_self, if_false, zero, ne_eq, not_false_eq_true, if_true]

theorem State.cinovOutcome_ok : s.cinovOutcome p o 0 data =
    (match State.asidWrite { s with free := s.free + o.len } p (s.part p).cnAsid o.cap.addr ((s.part p).cinovWrites o data s.free) with
      | .error .waits => none
      | .error .fails => some (3, s)
      | .ok z => some (0, z)) := by
  simp only [State.cinovOutcome, formed, Option.isNone_eq_false_iff.mpr (Option.isSome_iff_ne_none.mpr sent), kept, Bool.not_true,
    Bool.false_eq_true, false_or, if_false, Nat.zero_ne_one, ne_eq, not_true_eq_false] <;> rfl
end

theorem Partition.cinovWrites_get (q : Partition) {o : CinovOp} {data : List Byte} (n : Nat) (h : o.op = 0) (hl : data.length = o.len) :
    q.cinovWrites o data n = data := by
  rw [Partition.cinovWrites, if_pos h, ← hl, List.take_left]
theorem Partition.cinovWrites_put (q : Partition) {o : CinovOp} (data : List Byte) (n : Nat) (low : 1 ≤ o.op) (high : o.op ≤ 2) :
    q.cinovWrites o data n = [] := by
  rw [Partition.cinovWrites, if_neg (by omega), if_pos (by omega)]

/-- Whatever the status, the partitions are as they were. -/
theorem State.cinovOutcome_parts {s v : State} {p status st : Nat} {data : List Byte} {o : CinovOp}
    (h : s.cinovOutcome p o status data = some (st, v)) : v.parts = s.parts ∧ st < 4 := by
  unfold State.cinovOutcome at h
  dsimp only at h
  split at h
  · cases h
    exact ⟨rfl, Nat.mod_lt _ (by decide)⟩
  · split at h
    · cases h
      exact ⟨rfl, by decide⟩
    · split at h
      · cases h
        exact ⟨rfl, by decide⟩
      · split at h
        · cases h
          exact ⟨rfl, by decide⟩
        · split at h
          · cases h
          · cases h
            exact ⟨rfl, by decide⟩
          · next wrote =>
            cases h
            exact ⟨(State.asidWrite_atHomes wrote).parts, by decide⟩

/-- The oldest open entry is over: CNRD passes it, and only it while the next one is open. -/
theorem Partition.cnDone_oldest {q : Partition} {o : CinovOp} {rest : List CinovOp} (st : Nat) (taken : q.cnTaken = o :: rest)
    (hrest : ∀ x ∈ rest, x.index ≠ o.index ∧ x.done = none) :
    (q.cnDone o st).cnTaken = rest ∧ (q.cnDone o st).cnrd = (q.cnrd + 1) % 2 ^ 32 ∧ (q.cnDone o st).cnNext = q.cnNext ∧
      (rest = [] → (q.cnDone o st).cnctl = q.cnPending.getD q.cnctl ∧ (q.cnDone o st).cnPending = none) ∧
      (rest ≠ [] → (q.cnDone o st).cnctl = q.cnctl ∧ (q.cnDone o st).cnPending = q.cnPending) := by
  have others : rest.map (fun x => if x.index = o.index then { x with done := some st } else x) = rest :=
    (List.map_congr_left fun x hx => if_neg (hrest x hx).1).trans (List.map_id _)
  have marked : (o :: rest).map (fun x => if x.index = o.index then { x with done := some st } else x) = { o with done := some st } :: rest := by
    rw [List.map_cons, others, if_pos rfl]
  have passes : (({ o with done := some st } :: rest).takeWhile (fun x => x.done.isSome)).length = 1 := by
    cases rest with
    | nil => rfl
    | cons x l =>
      have isOpen := (hrest x List.mem_cons_self).2
      simp [List.takeWhile, isOpen]
  have settled : (!rest.any (fun x => x.done.isNone)) = decide (rest = []) := by
    cases rest with
    | nil => rfl
    | cons x l =>
      have isOpen := (hrest x List.mem_cons_self).2
      simp [isOpen]
  unfold Partition.cnDone Partition.cnAdvance
  dsimp only
  rw [taken, marked, passes]
  refine ⟨rfl, rfl, rfl, fun h => ?_, fun h => ?_⟩
  · subst h
    exact ⟨rfl, rfl⟩
  · simp only [List.drop, settled, h, decide_false, Bool.false_eq_true, if_false, and_self]

section
variable {s v w z u y : State} {p st : Nat} {o : CinovOp} {q : Partition}

theorem State.reportWrite_ok {va : Nat} {b : List Byte} (h : v.asidWrite p (v.part p).cnAsid va b = .ok z ∨
    (v.asidWrite p (v.part p).cnAsid va b = .error .fails ∧ z = v)) : v.reportWrite p va b = some z := by
  rcases h with h | ⟨h, rfl⟩
  · rw [State.reportWrite, h]
  · rw [State.reportWrite, h]

theorem State.reportWrite_parts {va : Nat} {b : List Byte} (h : v.reportWrite p va b = some z) : z.parts = v.parts := by
  unfold State.reportWrite at h
  split at h
  · cases h
  · cases h
    rfl
  · next wrote =>
    cases h
    exact (State.asidWrite_atHomes wrote).parts

variable (hq : z.part p = q)
include hq

theorem State.cinovCount_waits (h : z.asidRead p q.cnAsid (o.nat 32 8) 4 = .error .waits) : z.cinovCount p o = none := by
  rw [State.cinovCount, hq, h]

/-- The counter at CADDR is one higher, unless its page fails. -/
theorem State.cinovCount_ok (h : (z.asidRead p q.cnAsid (o.nat 32 8) 4 = .error .fails ∧ u = z) ∨
    ∃ b y, z.asidRead p q.cnAsid (o.nat 32 8) 4 = .ok (b, y) ∧
      (y.asidWrite p q.cnAsid (o.nat 32 8) (leBytes 4 ((leNat b + 1) % 2 ^ 32)) = .ok u ∨
        (y.asidWrite p q.cnAsid (o.nat 32 8) (leBytes 4 ((leNat b + 1) % 2 ^ 32)) = .error .fails ∧ u = y))) :
    z.cinovCount p o = some u ∧ u.part p = q := by
  rcases h with ⟨read, rfl⟩ | ⟨b, y, read, wrote⟩
  · exact ⟨by rw [State.cinovCount, hq, read], hq⟩
  · have part := ((State.asidRead_memRead read).part p).trans hq
    rw [← part] at wrote
    have counted := State.reportWrite_ok wrote
    exact ⟨by rw [State.cinovCount, hq, read]; exact counted,
      (congrArg (keyGet Partition.reset · p) (State.reportWrite_parts counted)).trans part⟩
end

theorem cinovComplete_idle {s : State} {p status : Nat} {data : List Byte} (h : ∀ o ∈ (s.part p).cnTaken, o.done ≠ none) :
    exec (.cinovComplete p status data) s = .next s := by
  have none' : (s.part p).cnTaken.find? (fun o => o.done.isNone) = none :=
    List.find?_eq_none.mpr fun o ho => by rw [Option.isNone_iff_eq_none]; exact h o ho
  show execCinovComplete p status data s = _
  rw [execCinovComplete, none']

/-- The oldest open entry completes with its outcome, once its report can be written. -/
theorem cinovComplete_oldest {s : State} {p status : Nat} {data : List Byte} {o : CinovOp} {rest : List CinovOp}
    (taken : (s.part p).cnTaken = o :: rest) (isOpen : o.done = none) : exec (.cinovComplete p status data) s =
      .next (((s.cinovOutcome p o status data).bind fun r => (r.2.cinovReport p o r.1).map fun t =>
        t.modPart p fun q => q.cnDone o r.1).getD s) := by
  have first : (s.part p).cnTaken.find? (fun o => o.done.isNone) = some o := by
    rw [taken, List.find?_cons_of_pos (by rw [isOpen]; rfl)]
  show execCinovComplete p status data s = _
  rw [execCinovComplete, first]
  dsimp only
  cases s.cinovOutcome p o status data with
  | none => rfl
  | some r =>
    obtain ⟨st, t⟩ := r
    dsimp only [Option.bind]
    cases t.cinovReport p o st with
    | none => rfl
    | some u => rfl

theorem cinovComplete : CinovComplete := by
  refine ⟨fun s p status data h => cinovComplete_idle h, ?_⟩
  rintro s p status data o rest q rfl taken isOpen hrest
  have whole := cinovComplete_oldest (status := status) (data := data) taken isOpen
  refine ⟨fun h => by rw [whole, h]; rfl, fun formed => ⟨State.cinovOutcome_unsent formed, fun sent => ⟨State.cinovOutcome_lost formed sent,
    fun kept one => ⟨State.cinovOutcome_remote formed sent kept one, ?_⟩⟩⟩, fun st v outcome w hw => ?_⟩
  · rintro - u rfl
    refine ⟨fun low high => ⟨State.asidWrite_nil .., ?_⟩, fun get full => ?_⟩
    · rw [State.cinovOutcome_ok formed sent kept, Partition.cinovWrites_put _ _ _ low high, State.asidWrite_nil]
    · rw [State.cinovOutcome_ok formed sent kept, Partition.cinovWrites_get _ _ get full] <;> rfl
  · subst hw
    rw [outcome] at whole
    dsimp only [Option.bind] at whole
    obtain ⟨parts, small⟩ := State.cinovOutcome_parts outcome
    have part : v.part p = s.part p := congrArg (keyGet Partition.reset · p) parts
    refine ⟨small, fun waits => ?_, fun z hz => ?_⟩
    · rw [whole, State.cinovReport, State.reportWrite, part, waits]
      rfl
    · rw [← part] at hz
      have wrote := State.reportWrite_ok hz
      have partz : z.part p = s.part p := (congrArg (keyGet Partition.reset · p) (State.reportWrite_parts wrote)).trans part
      rw [State.cinovReport, part] at whole
      rw [part] at wrote
      rw [wrote] at whole
      dsimp only [Option.bind] at whole
      refine ⟨fun waits => by rw [whole, State.cinovCount_waits partz waits]; rfl, fun u hu => ?_⟩
      obtain ⟨counted, partu⟩ := State.cinovCount_ok partz hu
      rw [counted] at whole
      refine ⟨_, whole, rfl, rfl, rfl, ?_⟩
      rw [Option.map_some, Option.getD_some, State.part_modPart, partu]
      exact Partition.cnDone_oldest st taken hrest

/-! ### Retransmission, frames and ports (R314, R315, R430, R431) -/

theorem cinovRetransmit_lost {s : State} {p i : Nat} (h : i ∈ (s.part p).lostPeers) :
    ∃ t, exec (.cinovRetransmit p i) s = .next t ∧ t.part p = s.part p := by
  refine ⟨_, rfl, ?_⟩
  rw [State.part_modPart]
  exact if_pos (List.contains_iff_mem.mpr h)

theorem cinovRetransmit_again {s : State} {p i : Nat} (h : i ∉ (s.part p).lostPeers) (few : keyGet 0 (s.part p).retrans i + 1 < 64) :
    ∃ t, exec (.cinovRetransmit p i) s = .next t ∧
      t.part p = { s.part p with retrans := keySet (s.part p).retrans i (keyGet 0 (s.part p).retrans i + 1) } ∧ t.mem = s.mem := by
  refine ⟨_, rfl, ?_, rfl⟩
  rw [State.part_modPart]
  dsimp only
  rw [if_neg (mt List.contains_iff_mem.mp h), if_neg (Nat.not_le.mpr few)]

theorem cinovRetransmit_last {s : State} {p i : Nat} (h : i ∉ (s.part p).lostPeers) (many : 64 ≤ keyGet 0 (s.part p).retrans i + 1) :
    ∃ t, exec (.cinovRetransmit p i) s = .next t ∧ t.mem = s.mem ∧ (t.part p).lostPeers = (s.part p).lostPeers ++ [i] ∧
      (t.part p).peers = (s.part p).peers := by
  refine ⟨_, rfl, rfl, ?_⟩
  rw [State.part_modPart]
  dsimp only
  rw [if_neg (mt List.contains_iff_mem.mp h), if_pos many]
  exact ⟨rfl, rfl⟩

/-- A reply leaves memory, tags and cores as they are. -/
theorem State.cinovAnswer_ok (s : State) (p port : Nat) (x : CinovIn) (b : List Byte) :
    (s.cinovAnswer ⟨p, port, x.peer, x.seq⟩ 0 b).mem = s.mem ∧ (s.cinovAnswer ⟨p, port, x.peer, x.seq⟩ 0 b).tags = s.tags ∧
      (s.cinovAnswer ⟨p, port, x.peer, x.seq⟩ 0 b).tiles = s.tiles ∧ (s.cinovAnswer ⟨p, port, x.peer, x.seq⟩ 0 b).msgs = s.msgs ∧
      Replied s (s.cinovAnswer ⟨p, port, x.peer, x.seq⟩ 0 b) p x 0 b := by
  refine ⟨rfl, rfl, rfl, rfl, rfl, ?_⟩
  rw [State.cinovAnswer, State.part_modPart]
  exact keyGet_keySet_same ..

/-- A remote fault is recorded for the partition. -/
theorem State.cinovAnswer_fault (s : State) (p port : Nat) (x : CinovIn) :
    ∃ r, (s.cinovAnswer ⟨p, port, x.peer, x.seq⟩ 2 []).mem = s.mem ∧
      (s.cinovAnswer ⟨p, port, x.peer, x.seq⟩ 2 []).errlog = s.errlog ++ [r] ∧ r.sev = 2 ∧ r.unit = 7 ∧ r.part = some p ∧
      Replied s (s.cinovAnswer ⟨p, port, x.peer, x.seq⟩ 2 []) p x 2 [] := by
  obtain ⟨l, hl⟩ := s.record_severe (r := unitRecord 2 7 0xFF port (some p)) (by show 2 ≠ 0; decide)
  have answer : s.cinovAnswer ⟨p, port, x.peer, x.seq⟩ 2 [] =
      State.modPart { s with
        errlog := s.errlog ++ [unitRecord 2 7 0xFF port (some p)], msgs := s.msgs ++ l
        outputs := s.outputs ++ [.cinovReply p x.peer x.seq 2 []] } p
        (fun q => { q with conns := keySet q.conns x.peer ((q.conn x.peer).1, (x.seq + 1) % 2 ^ 32) }) := by
    rw [State.cinovAnswer, if_neg (by decide), hl]
  rw [answer]
  refine ⟨_, rfl, rfl, rfl, rfl, rfl, rfl, ?_⟩
  rw [State.part_modPart]
  exact keyGet_keySet_same ..

section
variable {s : State} {port p : Nat} {q : Partition} {x : CinovIn}

theorem ethernetFrameRx_elsewhere (h : ∀ e ∈ s.parts, e.2.live = true → port ∉ e.2.ethPorts) :
    exec (.ethernetFrameRx port true x) s = .next s := by
  have none' : s.parts.find? (fun e => e.2.live && e.2.ethPorts.contains port) = none :=
    List.find?_eq_none.mpr fun e he => by
      rw [Bool.and_eq_true, List.contains_iff_mem]
      exact fun both => h e he both.1 both.2
  show Host.Outcome.next (s.cinovAccept port x) = _
  rw [State.cinovAccept, none']

variable (parts : s.parts = [(p, q)]) (live : q.live = true) (holds : port ∈ q.ethPorts)
include parts live holds

theorem ethernetFrameRx_taken : exec (.ethernetFrameRx port true x) s =
    .next (if !q.open' port x.peer ∨ 2 ^ 32 ≤ x.seq then s
      else if x.seq = (q.conn x.peer).2 then s.cinovServe ⟨p, port, x.peer, x.seq⟩ x.op
      else if ((q.conn x.peer).2 + 2 ^ 32 - x.seq) % 2 ^ 32 < 2 ^ 31 then { s with outputs := s.outputs ++ [.cinovReply p x.peer x.seq 0 []] }
      else s) := by
  have found : s.parts.find? (fun e => e.2.live && e.2.ethPorts.contains port) = some (p, q) := by
    rw [parts]
    exact List.find?_cons_of_pos (by rw [Bool.and_eq_true, List.contains_iff_mem]; exact ⟨live, holds⟩)
  show Host.Outcome.next (s.cinovAccept port x) = _
  rw [State.cinovAccept, found]

theorem ethernetFrameRx_closed (h : blockNat (tableEntry q.peers x.peer) 21 1 % 2 = 0 ∨ blockNat (tableEntry q.peers x.peer) 20 1 ≠ port ∨
    x.peer ∈ q.lostPeers) : exec (.ethernetFrameRx port true x) s = .next s := by
  have closed : (!q.open' port x.peer) = true := by
    rw [Partition.open', Bool.not_eq_true', Bool.and_eq_false_iff, decide_eq_false_iff_not, Bool.not_eq_false', List.contains_iff_mem]
    rcases h with h | h | h
    · exact .inl fun c => by omega
    · exact .inl fun c => h c.2
    · exact .inr h
  rw [ethernetFrameRx_taken parts live holds, if_pos (.inl closed)]

variable (enabled : blockNat (tableEntry q.peers x.peer) 21 1 % 2 = 1) (carries : blockNat (tableEntry q.peers x.peer) 20 1 = port)
  (kept : x.peer ∉ q.lostPeers) (seq : x.seq < 2 ^ 32)
include enabled carries kept seq

theorem ethernetFrameRx_open : exec (.ethernetFrameRx port true x) s =
    .next (if x.seq = (q.conn x.peer).2 then s.cinovServe ⟨p, port, x.peer, x.seq⟩ x.op
      else if ((q.conn x.peer).2 + 2 ^ 32 - x.seq) % 2 ^ 32 < 2 ^ 31 then { s with outputs := s.outputs ++ [.cinovReply p x.peer x.seq 0 []] }
      else s) := by
  have isOpen : ¬ ((!q.open' port x.peer) = true ∨ 2 ^ 32 ≤ x.seq) := by
    rw [Partition.open', decide_eq_true ⟨enabled, carries⟩, Bool.true_and, Bool.not_not, List.contains_iff_mem]
    exact not_or.mpr ⟨kept, Nat.not_le.mpr seq⟩
  rw [ethernetFrameRx_taken parts live holds, if_neg isOpen]
end

theorem State.cinovServe_put {s : State} {a : Answer} (asid addr : Nat) (d : List Byte) : s.cinovServe a (.put a.part asid addr d) =
    (match s.asidWrite a.part asid addr d with
      | .error .waits => s
      | .error .fails => s.cinovAnswer a 2 []
      | .ok t => t.cinovAnswer a 0 []) := by
  rw [State.cinovServe, if_neg (fun h => h rfl)] <;> rfl
theorem State.cinovServe_get {s u : State} {a : Answer} {asid addr n : Nat} {b : List Byte} (h : s.asidRead a.part asid addr n = .ok (b, u)) :
    s.cinovServe a (.get a.part asid addr n) = u.cinovAnswer a 0 b := by
  rw [State.cinovServe, if_neg (fun h => h rfl), h]

/-- A peer's message enters the fabric. -/
theorem State.cinovServe_msg {s : State} {a : Answer} {name c k : Nat} {d : List Byte} (hk : coreOf name = some k)
    (here : s.partOf k = some a.part) (short : d.length ≤ 64) (cls : c < 16) :
    ∃ m : Msg, s.cinovServe a (.msg name c d) = (State.push { s with free := s.free + 1 } m).cinovAnswer a 0 [] ∧
      m.destName = name ∧ m.cls = c ∧ m.len = (d.length + 7) / 8 ∧ m.wake = false ∧
      m.data = (List.range m.len).map (fun i => BitVec.ofNat 64 (blockNat d (8 * i) 8)) := by
  have allowed : ¬ (s.partOf k ≠ some a.part ∨ 64 < d.length ∨ 16 ≤ c) := by
    rw [here]
    simp only [ne_eq, not_true_eq_false, false_or]
    omega
  rw [State.cinovServe, State.cinovMessage, hk]
  dsimp only
  rw [if_neg allowed]
  have len : ((List.range ((d.length + 7) / 8)).map (fun i => BitVec.ofNat 64 (blockNat d (8 * i) 8))).length = (d.length + 7) / 8 := by
    rw [List.length_map, List.length_range]
  refine ⟨_, rfl, rfl, rfl, len, rfl, ?_⟩
  exact congrArg (fun n => (List.range n).map (fun i => BitVec.ofNat 64 (blockNat d (8 * i) 8))) len.symm

/-- What the failure of a port does to a partition that may hold it. -/
def Partition.portFailed (p : Partition) (port : Nat) : Partition := if p.ethPorts.contains port then p.movePort port else p

theorem State.part_portFail (s : State) (port p : Nat) :
    State.part { s with parts := s.parts.map (fun e => if e.2.ethPorts.contains port then (e.1, e.2.movePort port) else e) } p =
      (s.part p).portFailed port := by
  have each : (fun e : Nat × Partition => if e.2.ethPorts.contains port then (e.1, e.2.movePort port) else e) =
      fun e => (e.1, e.2.portFailed port) := by
    funext e
    rw [Partition.portFailed]
    split
    · rfl
    · rfl
  rw [each]
  exact keyGet_map_value (fun q => q.portFailed port) Partition.reset rfl s.parts p

theorem Partition.movePort_last {q : Partition} {port : Nat} (h : q.ethPorts.filter (· ≠ port) = []) :
    (q.movePort port).ethPorts = [] ∧ (q.movePort port).peers = q.peers ∧
      ∀ e ∈ q.peers, blockNat e.2 20 1 = port → e.1 ∈ (q.movePort port).lostPeers := by
  unfold Partition.movePort
  dsimp only
  rw [h]
  refine ⟨rfl, rfl, fun e he on => ?_⟩
  by_cases lost : e.1 ∈ q.lostPeers
  · exact List.mem_append_left _ lost
  · refine List.mem_append_right _ (List.mem_filter.mpr ⟨List.mem_map.mpr ⟨e, List.mem_filter.mpr ⟨he, decide_eq_true on⟩, rfl⟩, ?_⟩)
    rw [Bool.not_eq_true', ← Bool.not_eq_true, List.contains_iff_mem]
    exact lost

theorem Partition.movePort_moves {q : Partition} {port n : Nat} {r : List Nat} (h : q.ethPorts.filter (· ≠ port) = n :: r) :
    (q.movePort port).ethPorts = n :: r ∧ (q.movePort port).lostPeers = q.lostPeers ∧
      (q.movePort port).peers = q.peers.map (fun e => if blockNat e.2 20 1 = port then (e.1, e.2.set 20 (BitVec.ofNat 8 n)) else e) := by
  unfold Partition.movePort
  dsimp only
  rw [h]
  refine ⟨rfl, rfl, List.map_congr_left fun e _ => ?_⟩
  simp only [decide_eq_true_eq]

theorem ethernetPortFail (s : State) (port p : Nat) : ∃ t, exec (.ethernetPortFail port) s = .next t ∧ t.mem = s.mem ∧ t.tiles = s.tiles ∧
    (port ∉ (s.part p).ethPorts → t.part p = s.part p) ∧
    (port ∈ (s.part p).ethPorts → (t.part p).ethPorts = (s.part p).ethPorts.filter (· ≠ port) ∧
      ((s.part p).ethPorts.filter (· ≠ port) = [] → (t.part p).peers = (s.part p).peers ∧
        ∀ e ∈ (s.part p).peers, blockNat e.2 20 1 = port → e.1 ∈ (t.part p).lostPeers) ∧
      ∀ n r, (s.part p).ethPorts.filter (· ≠ port) = n :: r → (t.part p).lostPeers = (s.part p).lostPeers ∧
        (t.part p).peers = (s.part p).peers.map (fun e =>
          if blockNat e.2 20 1 = port then (e.1, e.2.set 20 (BitVec.ofNat 8 n)) else e)) := by
  refine ⟨_, rfl, rfl, rfl, fun h => ?_, fun h => ?_⟩
  · rw [State.part_portFail]
    exact if_neg (mt List.contains_iff_mem.mp h)
  · rw [State.part_portFail, Partition.portFailed, if_pos (List.contains_iff_mem.mpr h)]
    refine ⟨?_, fun last => (Partition.movePort_last last).2, fun n r more => (Partition.movePort_moves more).2⟩
    cases left : (s.part p).ethPorts.filter (· ≠ port) with
    | nil => exact (Partition.movePort_last left).1
    | cons n r => exact (Partition.movePort_moves left).1

theorem ethernetEvents : EthernetEvents := by
  refine ⟨fun s p i => ⟨cinovRetransmit_lost, fun h => ⟨cinovRetransmit_again h, cinovRetransmit_last h⟩⟩,
    fun s port x => ⟨rfl, ethernetFrameRx_elsewhere, ?_⟩, ethernetPortFail⟩
  rintro p q e parts live holds rfl seq
  refine ⟨ethernetFrameRx_closed parts live holds, fun enabled carries kept => ?_⟩
  have whole := ethernetFrameRx_open parts live holds enabled carries kept seq
  refine ⟨fun other => ?_, fun next => ?_⟩
  · rw [if_neg other] at whole
    exact ⟨fun before => by rw [whole, if_pos before], fun early => by rw [whole, if_neg (Nat.not_lt.mpr early)]⟩
  · rw [if_pos next] at whole
    refine ⟨fun asid a d put => ?_, fun asid a n get b u read => ?_, fun name c d k msg hk here short cls => ?_⟩
    · rw [put, State.cinovServe_put (a := ⟨p, port, x.peer, x.seq⟩)] at whole
      refine ⟨fun waits => by rw [whole, waits], fun fails => ?_, fun u wrote => ?_⟩
      · rw [fails] at whole
        obtain ⟨r, mem, log, rest⟩ := s.cinovAnswer_fault p port x
        exact ⟨_, r, whole, mem, log, rest⟩
      · rw [wrote] at whole
        obtain ⟨mem, tags, tiles, _, replied⟩ := u.cinovAnswer_ok p port x []
        exact ⟨_, whole, mem, tags, tiles, replied⟩
    · rw [get, State.cinovServe_get (a := ⟨p, port, x.peer, x.seq⟩) read] at whole
      obtain ⟨mem, _, tiles, _, replied⟩ := u.cinovAnswer_ok p port x b
      exact ⟨_, whole, mem, tiles.trans (State.asidRead_memRead read).tiles, replied⟩
    · obtain ⟨m, serve, dest, cls, len, wake, words⟩ := State.cinovServe_msg (a := ⟨p, port, x.peer, x.seq⟩) hk here short cls
      rw [msg, serve] at whole
      obtain ⟨mem, _, tiles, msgs, replied⟩ := (State.push { s with free := s.free + 1 } m).cinovAnswer_ok p port x []
      exact ⟨_, m, whole, mem, msgs, dest, cls, len, wake, words, replied⟩

/-- Settles O51: the doorbell by induction on the entries it takes; a completion by the chain of its report's writes, none of which
changes the partition's registers. -/
theorem cinovEvents : Obligations.CinovEvents := ⟨cinovDoorbell, cinovComplete, ethernetEvents⟩

end Sys2Proof.Machine
end

section
/-! PROOF. Taking a local trap, and entering a handler (R48, R165, R195, R340 to R342). -/

namespace Sys2Proof.Machine

/-! ### The followers of a leader (R165) -/

theorem State.tile_detachAll (s : State) (k j : Nat) : (s.detachAll k).tile j = detached s k j := by
  have each : (fun e : Nat × Tile => if e.2.follower e.1 && decide (e.2.consort.map (·.leader) = some k) then (e.1, e.2.detach) else e) =
      fun e => (e.1, if e.2.follower e.1 && decide (e.2.consort.map (·.leader) = some k) then e.2.detach else e.2) := by
    funext e
    split
    · rfl
    · rfl
  refine (congrArg (fun f => keyGet Tile.idle (s.tiles.map f) j) each).trans ?_
  refine (keyGet_map Tile.idle s.tiles (fun n t => if t.follower n && decide (t.consort.map (·.leader) = some k) then t.detach else t) j rfl).trans ?_
  simp only [Bool.and_eq_true, decide_eq_true_eq]
  rfl

theorem detached_of_tile {s t : State} {j : Nat} (h : s.tile j = t.tile j) (k : Nat) : detached s k j = detached t k j := by
  rw [detached, detached, h]

/-- No core follows itself. -/
theorem detached_self {s : State} {k : Nat} (h : (s.tile k).follower k = false) (l : Nat) : detached s l k = s.tile k := by
  rw [detached, h]
  exact if_neg fun c => Bool.false_ne_true c.1

/-- The core's own tile, detached where it follows. -/
def Tile.onItsOwn (t : Tile) (k : Nat) : Tile := if t.follower k then t.detach else t

theorem Tile.detach_follower (t : Tile) (k : Nat) : t.detach.follower k = false := by
  unfold Tile.detach Tile.follower
  cases t.consort with
  | none => rfl
  | some c => rfl
theorem Tile.onItsOwn_follower (t : Tile) (k : Nat) : (t.onItsOwn k).follower k = false := by
  unfold Tile.onItsOwn
  split
  · exact t.detach_follower k
  · next h => exact Bool.eq_false_iff.mpr h
theorem Tile.onItsOwn_eq (t : Tile) (k : Nat) : t.onItsOwn k = { t with consort := (t.onItsOwn k).consort } := by
  unfold Tile.onItsOwn
  split
  · rfl
  · rfl
theorem detached_ownLeader (s : State) (k : Nat) :
    detached s ((s.tile k).consort.map (·.leader) |>.getD k) k = (s.tile k).onItsOwn k := by
  unfold detached Tile.onItsOwn
  by_cases f : (s.tile k).follower k = true
  · have leader : (s.tile k).consort.map (·.leader) = some ((s.tile k).consort.map (·.leader) |>.getD k) := by
      cases h : (s.tile k).consort with
      | none =>
        rw [Tile.follower, h] at f
        cases f
      | some c => rfl
    rw [if_pos f, if_pos ⟨f, leader⟩]
  · rw [if_neg f, if_neg fun c => f c.1]
theorem Tile.commitAll_consort (t : Tile) : t.boundary.commitAll.consort = t.consort := by
  obtain ⟨c, st, h⟩ := t.boundary.commitAll_eq
  rw [h]
  rfl
theorem Tile.follower_congr {t u : Tile} (h : t.consort = u.consort) (k : Nat) : t.follower k = u.follower k := by
  rw [Tile.follower, h, ← Tile.follower]

/-- A core that goes its own way takes its new tile, and those that follow it detach. -/
theorem State.tile_leave (s : State) {k : Nat} {t : Tile} (h : t.follower k = false) :
    ((s.setTile k t).detachAll k).tile k = t ∧ ∀ j, j ≠ k → ((s.setTile k t).detachAll k).tile j = detached s k j := by
  have here := s.tile_setTile k t
  refine ⟨?_, fun j hj => ?_⟩
  · rw [State.tile_detachAll, detached_self (by rw [here]; exact h), here]
  · rw [State.tile_detachAll]
    exact detached_of_tile (s.tile_setTile_other _ hj) k

/-! ### A trap (R340 to R342) -/

/-- An escalated trap reports itself as such (R340). -/
def escalated (r : TrapReport) : TrapReport := { r with detail := r.detail + (if bf r.detail 15 1 = 1 then 0 else 2 ^ 15) }

theorem escalated_detail (r : TrapReport) :
    (escalated r).detail = if r.detail / 2 ^ 15 % 2 = 1 then r.detail else r.detail + 2 ^ 15 := by
  show r.detail + (if r.detail / 2 ^ 15 % 2 ^ 1 = 1 then 0 else 2 ^ 15) = _
  rw [Nat.pow_one]
  split
  · rfl
  · rfl

theorem localTrap_taken {s : State} {k : Nat} (r : TrapReport) (task : (s.tile k).task ≠ none) (idle : (s.tile k).awaiting = []) :
    exec (.localTrap k r) s = .next (takeTrap s k r 4) := by
  show execLocalTrap k r s = _
  rw [execLocalTrap, if_pos]
  rw [idle, List.isEmpty_nil, Bool.and_true]
  exact Option.isSome_iff_ne_none.mpr task

theorem Tile.trapReady_iff {t : Tile} : t.trapReady = true ↔
    t.classes[15].cap.tag = true ∧ t.classes[15].cap.otype = 0 ∧ t.classes[15].cap.has Perm.exec = true := by
  simp only [Tile.trapReady, Bool.and_eq_true, decide_eq_true_eq, and_assoc]

section
variable {s : State} {k : Nat} (r : TrapReport) (len : Nat)

/-- The trap enters the handler of class 15. -/
theorem takeTrap_enters (handler : (s.tile k).handler = false) (ready : (s.tile k).trapReady = true) :
    takeTrap s k r len = (s.setTile k { ((s.tile k).onItsOwn k).boundary.commitAll with
      hpc := (s.tile k).pc, cmsg := some ⟨s.nameOf k, 15, 6, reportData s k 2 0 r, 0, []⟩
      pc := pcOf (s.tile k).classes[15].cap, handler := true }).detachAll k := by
  have own : (if (s.tile k).follower k then (s.tile k).detach else s.tile k) = (s.tile k).onItsOwn k := rfl
  rw [takeTrap, own]
  generalize ht : (s.tile k).onItsOwn k = t
  rw [Tile.onItsOwn_eq] at ht
  have enters : (t.handler || !t.trapReady) = false := by
    rw [← ht]
    show ((s.tile k).handler || !(s.tile k).trapReady) = false
    rw [handler, ready]
    rfl
  rw [enters, if_neg Bool.false_ne_true]
  subst ht
  rfl

/-- The trap is escalated. -/
theorem takeTrap_escalates (h : (s.tile k).handler = true ∨ (s.tile k).trapReady = false) : takeTrap s k r len =
    postFault (s.setTile k ((s.tile k).onItsOwn k)) k (escalated r) false len := by
  have own : (if (s.tile k).follower k then (s.tile k).detach else s.tile k) = (s.tile k).onItsOwn k := rfl
  rw [takeTrap, own]
  refine if_pos ?_
  rw [Tile.onItsOwn_eq]
  show ((s.tile k).handler || !(s.tile k).trapReady) = true
  rcases h with h | h
  · rw [h, Bool.true_or]
  · rw [h, Bool.not_false, Bool.or_true]

/-- The task that a fault of the flow is posted for. -/
def State.posted (s : State) (k : Nat) (r : TrapReport) (len : Nat) : Tile :=
  { (s.tile k).boundary.commitAll with
    svcseq := ((s.tile k).svcseq + 1) % 2 ^ 16
    awaiting := (s.tile k).awaiting ++
      [{ seq := ((s.tile k).svcseq + 1) % 2 ^ 16, call := false, report := r, xfer := false, wd := 0, len := len, start := s.timeOf k }] }

theorem State.toController_congr {s t : State} (svc : (s.tile k).svc = (t.tile k).svc) (parts : s.parts = t.parts)
    (gen : s.gen = t.gen) (vacant : s.vacant = t.vacant) : s.toController k = t.toController k := by
  have part : ∀ c, s.partOf c = t.partOf c := fun c => by rw [State.partOf, State.partOf, State.partOfDie, State.partOfDie, parts]
  have live : ∀ c, s.live c = t.live c := fun c => by rw [State.live, State.live, vacant]
  simp only [State.toController, svc, part, live, gen]

/-- The message that reports a fault to the service core. -/
def State.faultMsg (s : State) (k : Nat) (r : TrapReport) : Msg :=
  mkMsg k (s.nameOf k) ((s.tile k).svc.toNat % 2 ^ 32) (bf (s.tile k).svc.toNat 32 4) (reportData s k 3 (((s.tile k).svcseq + 1) % 2 ^ 16) r)
    (((s.tile k).task).map (·.grid)) (s.partNo k)

/-- A fault of the flow is posted to the module controller, or goes to the service core. -/
theorem postFault_flow : postFault s k r false len =
    if s.toController k then { s.setTile k (s.posted k r len) with calls := s.calls ++ [(k, r, BitVec.ofNat 64 r.word)] }
    else (s.setTile k (s.posted k r len)).push (s.faultMsg k r) := by
  have own := s.tile_setTile k (s.posted k r len)
  obtain ⟨c, st, hc⟩ := (s.tile k).boundary.commitAll_eq
  have posted : s.posted k r len = { (s.tile k).boundary with
      commits := c, stores := st, svcseq := (s.posted k r len).svcseq, awaiting := (s.posted k r len).awaiting } := by
    rw [State.posted, hc]
  have kept : (s.setTile k (s.posted k r len)).toController k = s.toController k :=
    State.toController_congr (by rw [own, posted]; rfl) rfl rfl rfl
  have data : reportData (s.setTile k (s.posted k r len)) k 3 (((s.tile k).svcseq + 1) % 2 ^ 16) r =
      reportData s k 3 (((s.tile k).svcseq + 1) % 2 ^ 16) r := by
    have job : (s.setTile k (s.posted k r len)).jobDword k = s.jobDword k := by
      rw [State.jobDword, own, posted]
      rfl
    rw [reportData, job]
    rfl
  rw [← kept, State.faultMsg, ← data]
  rfl
end

theorem State.posted_eq (s : State) (k : Nat) (r : TrapReport) (len : Nat) : ∃ c st, s.posted k r len = { (s.tile k).boundary with
    commits := c, stores := st, svcseq := (s.posted k r len).svcseq, awaiting := (s.posted k r len).awaiting } := by
  obtain ⟨c, st, hc⟩ := (s.tile k).boundary.commitAll_eq
  exact ⟨c, st, by rw [State.posted, hc]⟩

theorem postFault_tile (s : State) (k : Nat) (r : TrapReport) (len : Nat) : (postFault s k r false len).tile k = s.posted k r len ∧
    ∀ j, j ≠ k → (postFault s k r false len).tile j = s.tile j := by
  rw [postFault_flow]
  split
  · exact ⟨s.tile_setTile k _, fun j hj => s.tile_setTile_other _ hj⟩
  · exact ⟨s.tile_setTile k _, fun j hj => s.tile_setTile_other _ hj⟩

/-- A trap changes no grid, and not which core steps. -/
theorem takeTrap_keeps (s : State) (k : Nat) (r : TrapReport) (len : Nat) :
    (takeTrap s k r len).grids = s.grids ∧ (takeTrap s k r len).cur = s.cur := by
  unfold takeTrap
  dsimp only
  generalize (if (s.tile k).follower k = true then (s.tile k).detach else s.tile k) = t
  split
  · rw [postFault_flow]
    split
    · exact ⟨rfl, rfl⟩
    · exact ⟨rfl, rfl⟩
  · exact ⟨rfl, rfl⟩

theorem trapEntry : TrapEntry := by
  rintro s k r c task idle rfl
  have whole := localTrap_taken r task idle
  obtain ⟨grids, cur⟩ := takeTrap_keeps s k r 4
  refine ⟨takeTrap s k r 4, whole, takeTrap_mem .., grids, cur, fun handler tag otype exec' => ?_, fun refused => ?_⟩
  · have enter := takeTrap_enters r 4 handler (Tile.trapReady_iff.mpr ⟨tag, otype, exec'⟩)
    generalize hm : (⟨s.nameOf k, 15, 6, reportData s k 2 0 r, 0, []⟩ : InMsg) = m at enter
    obtain ⟨tile, others⟩ := s.tile_leave (k := k) (t := { ((s.tile k).onItsOwn k).boundary.commitAll with
      hpc := (s.tile k).pc, cmsg := some m, pc := pcOf (s.tile k).classes[15].cap, handler := true })
      ((Tile.follower_congr (Tile.commitAll_consort _) k).trans (Tile.onItsOwn_follower _ k))
    rw [enter]
    refine ⟨rfl, rfl, others, m, ?_, ?_⟩
    · rw [tile, detached_ownLeader]
      rfl
    · rw [← hm]
      refine ⟨rfl, rfl, rfl, ?_⟩
      show reportData s k 2 0 r = _
      simp only [reportData, State.jobDword, Nat.zero_mod, Nat.zero_mul, Nat.add_zero, show 2 ^ 4 = 16 from rfl]
  · have escalates : (s.tile k).handler = true ∨ (s.tile k).trapReady = false := by
      rw [← Bool.not_eq_true (Tile.trapReady _), Tile.trapReady_iff]
      by_cases h : (s.tile k).handler = true
      · exact .inl h
      · refine .inr fun ready => ?_
        obtain ⟨tag, otype, exec'⟩ := ready
        rcases refused with c | c | c | c
        · exact h c
        · rw [tag] at c; cases c
        · exact c otype
        · rw [exec'] at c; cases c
    rw [takeTrap_escalates r 4 escalates]
    have own := s.tile_setTile k ((s.tile k).onItsOwn k)
    have others : ∀ j, j ≠ k → (s.setTile k ((s.tile k).onItsOwn k)).tile j = s.tile j := fun j hj => s.tile_setTile_other _ hj
    rw [Tile.onItsOwn_eq] at own others ⊢
    generalize hu : s.setTile k { s.tile k with consort := ((s.tile k).onItsOwn k).consort } = u at own others ⊢
    obtain ⟨tile, rest⟩ := postFault_tile u k (escalated r) 4
    obtain ⟨b, st, posted⟩ := u.posted_eq k (escalated r) 4
    have name : u.nameOf k = s.nameOf k := by rw [← hu]; rfl
    have msgs : u.msgs = s.msgs := by rw [← hu]; rfl
    have calls : u.calls = s.calls := by rw [← hu]; rfl
    have svcseq : (u.tile k).svcseq = (s.tile k).svcseq := by rw [own]
    have svc : (u.tile k).svc = (s.tile k).svc := by rw [own]
    have controller : u.toController k = s.toController k :=
      State.toController_congr svc (by rw [← hu]; rfl) (by rw [← hu]; rfl) (by rw [← hu]; rfl)
    refine ⟨fun j hj => (rest j hj).trans (others j hj), ?_, ?_, ?_, ?_, ?_⟩
    · rw [tile, posted, own]; rfl
    · rw [tile, posted, own]; rfl
    · rw [tile, posted, own]; rfl
    · rw [tile, posted, own]; rfl
    · have none' : (u.tile k).awaiting = [] := by rw [own]; exact idle
      rw [tile]
      refine ⟨⟨((u.tile k).svcseq + 1) % 2 ^ 16, false, escalated r, false, 0, 4, u.timeOf k⟩, ?_, rfl, ?_, rfl, rfl, escalated_detail r,
        fun service => ?_, fun controls => ?_⟩
      · rw [State.posted, none']
        rfl
      · rw [← svcseq]
      · rw [postFault_flow, if_neg (by rw [controller, service]; exact Bool.false_ne_true)]
        refine ⟨u.faultMsg k (escalated r), ?_, rfl, ?_, ?_, ?_⟩
        · rw [← msgs]; rfl
        · rw [← svc]; rfl
        · rw [← svc]; rfl
        · rw [← name]
          show (reportData u k 3 (((u.tile k).svcseq + 1) % 2 ^ 16) (escalated r)).take 5 = _
          rw [reportData, Nat.mod_mod]
          rfl
      · rw [postFault_flow, if_pos (by rw [controller, controls])]
        exact ⟨msgs, _, by rw [← calls]⟩

/-! ### Entering a handler, and the results of a run (R48, R195) -/

/-- Class `c` goes before class `b` or with it: by PRIO, then by where its head entry stands. -/
def Tile.ahead (t : Tile) (c b : Nat) : Prop :=
  (t.cls b).prio ≤ (t.cls c).prio ∧ ((t.cls b).prio = (t.cls c).prio → t.headPos c ≤ t.headPos b)

theorem Tile.ahead_refl (t : Tile) (c : Nat) : t.ahead c c := ⟨Nat.le_refl _, fun _ => Nat.le_refl _⟩
theorem Tile.ahead_trans {t : Tile} {a b c : Nat} (h : t.ahead a b) (g : t.ahead b c) : t.ahead a c := by
  obtain ⟨h, h'⟩ := h
  obtain ⟨g, g'⟩ := g
  refine ⟨g.trans h, fun e => ?_⟩
  have same : (t.cls b).prio = (t.cls a).prio := by omega
  exact (h' same).trans (g' (e.trans same.symm))

/-- The better of a class and the best before it. -/
def Tile.better (t : Tile) (best : Option Nat) (c : Nat) : Option Nat :=
  match best with
  | none => some c
  | some b => if (t.cls c).prio > (t.cls b).prio ∨ ((t.cls c).prio = (t.cls b).prio ∧ t.headPos c < t.headPos b) then some c else some b

theorem Tile.better_ahead (t : Tile) (b c : Nat) :
    ∃ x, t.better (some b) c = some x ∧ (x = b ∨ x = c) ∧ t.ahead x b ∧ t.ahead x c := by
  rw [Tile.better]
  split
  · next h => exact ⟨c, rfl, .inr rfl, ⟨by omega, by omega⟩, t.ahead_refl c⟩
  · next h => exact ⟨b, rfl, .inl rfl, t.ahead_refl b, ⟨by omega, by omega⟩⟩

theorem Tile.foldl_better (t : Tile) (l : List Nat) (b : Nat) :
    ∃ x, l.foldl t.better (some b) = some x ∧ (x = b ∨ x ∈ l) ∧ t.ahead x b ∧ ∀ j ∈ l, t.ahead x j := by
  induction l generalizing b with
  | nil => exact ⟨b, rfl, .inl rfl, t.ahead_refl b, nofun⟩
  | cons c l ih =>
    obtain ⟨y, hy, which, yb, yc⟩ := t.better_ahead b c
    obtain ⟨x, hx, from', xy, all⟩ := ih y
    refine ⟨x, by rw [List.foldl_cons, hy, hx], ?_, Tile.ahead_trans xy yb, List.forall_mem_cons.mpr ⟨Tile.ahead_trans xy yc, all⟩⟩
    rcases from' with rfl | there
    · exact which.imp_right (List.mem_cons.mpr ∘ .inl)
    · exact .inr (List.mem_cons_of_mem _ there)

/-- The class whose handler is next is deliverable, and goes before every other that is. -/
theorem Tile.nextClass_some {t : Tile} {c : Nat} (h : t.nextClass = some c) :
    c < 16 ∧ t.deliverable c = true ∧ ∀ j, j < 16 → t.deliverable j = true → t.ahead c j := by
  have fold : ((List.range 16).filter t.deliverable).foldl t.better none = some c := h
  have best : c ∈ (List.range 16).filter t.deliverable ∧ ∀ j ∈ (List.range 16).filter t.deliverable, t.ahead c j := by
    cases hl : (List.range 16).filter t.deliverable with
    | nil =>
      rw [hl] at fold
      cases fold
    | cons b l =>
      obtain ⟨x, hx, from', xb, all⟩ := t.foldl_better l b
      rw [hl, List.foldl_cons] at fold
      cases Option.some.inj (hx.symm.trans fold)
      exact ⟨List.mem_cons.mpr from', List.forall_mem_cons.mpr ⟨xb, all⟩⟩
  obtain ⟨mem, all⟩ := best
  obtain ⟨range, deliverable⟩ := List.mem_filter.mp mem
  exact ⟨List.mem_range.mp range, deliverable, fun j hj d => all j (List.mem_filter.mpr ⟨List.mem_range.mpr hj, d⟩)⟩

theorem Tile.held_of_deliverable {t : Tile} {c : Nat} (h : t.deliverable c = true) : (t.held c).head? ≠ none := by
  rw [Tile.deliverable, Bool.and_eq_true, Bool.and_eq_true] at h
  intro empty
  rw [List.head?_eq_none_iff] at empty
  rw [empty] at h
  cases h.1.1

theorem handlerEntry_canEnter {s : State} {k c : Nat} (enters : (s.tile k).canEnter = true) (next : (s.tile k).nextClass = some c) :
    exec (.handlerEntry k) s =
      .next (if ((s.engineDrain k).tile k).eng.isEmpty then (s.engineDrain k).enterHandler k c else s.engineDrain k) := by
  show execHandlerEntry k s = _
  rw [execHandlerEntry, if_pos enters, next]

theorem handlerEntry_none {s : State} {k : Nat} (next : (s.tile k).nextClass = none) : exec (.handlerEntry k) s = .next s := by
  show execHandlerEntry k s = _
  rw [execHandlerEntry, next]
  split
  · rfl
  · rfl

theorem Tile.canEnter_of {t : Tile} (task : t.task ≠ none) (handler : t.handler = false) (idle : t.awaiting = [])
    (h : t.wait = none ∧ t.runPos = 0 ∧ t.parked = false ∨ ∃ sc i b, t.wait.map (·.on) = some (.barrier sc i b true)) :
    t.canEnter = true := by
  have isOpen : t.openWait = true := by
    unfold Tile.openWait
    rcases h with ⟨wait, run, parked⟩ | ⟨sc, i, b, on⟩
    · rw [wait, run, parked]
      rfl
    · cases hw : t.wait with
      | none =>
        rw [hw] at on
        cases on
      | some w =>
        rw [hw] at on
        have on' : w.on = .barrier sc i b true := Option.some.inj on
        dsimp only
        rw [on']
  rw [Tile.canEnter, Option.isSome_iff_ne_none.mpr task, handler, idle, isOpen]
  rfl

/-- Taking a head entry out of the inbox changes the inbox alone. -/
theorem Tile.takeHead_eq (t : Tile) (c : Nat) : t.takeHead c = { t with
    inbox := (t.takeHead c).inbox, spilled := (t.takeHead c).spilled, classes := (t.takeHead c).classes } := by
  unfold Tile.takeHead
  dsimp only
  split
  · split
    · rfl
    · rfl
  · split
    · rfl
    · rfl

/-- The tile that enters the handler of a class. -/
def Tile.entered (t : Tile) (c : Nat) : Tile :=
  { (t.takeHead c).boundary.commitAll with hpc := t.pc, cmsg := (t.held c).head?, pc := pcOf (t.cls c).cap, handler := true }

theorem Tile.entered_eq (t : Tile) (c : Nat) : ∃ b st, t.entered c = { t.boundary with
    inbox := (t.takeHead c).inbox, spilled := (t.takeHead c).spilled, classes := (t.takeHead c).classes, commits := b, stores := st
    hpc := t.pc, cmsg := (t.held c).head?, pc := pcOf (t.cls c).cap, handler := true } := by
  obtain ⟨b, st, h⟩ := (t.takeHead c).boundary.commitAll_eq
  refine ⟨b, st, ?_⟩
  rw [Tile.entered, h, Tile.takeHead_eq]
  rfl
theorem Tile.entered_follower {t : Tile} {k : Nat} (h : t.follower k = false) (c : Nat) : (t.entered c).follower k = false := by
  obtain ⟨b, st, e⟩ := t.entered_eq c
  rw [e]
  exact h

theorem deferredResult_released {s : State} {k : Nat} (parked : (s.tile k).parked = true) (due : (s.tile k).due = []) :
    exec (.deferredResult k) s = .next (s.setTile k { s.tile k with parked := false, pend := [], wait := none }) := by
  have ready : s.dueWaiting k = false := by rw [State.dueWaiting, due, List.any_nil, Bool.and_false]
  have tile : ∀ t : Tile, t.due = [] → { t with parked := false, pend := [], due := [], wait := none } =
      { t with parked := false, pend := [], wait := none } := by
    intro t h
    cases t
    cases h
    rfl
  show execDeferredResult k s = _
  rw [execDeferredResult, parked, ready, due]
  exact congrArg (fun t => Host.Outcome.next (s.setTile k t)) (tile _ due)

theorem handlerEntry : HandlerEntry := by
  refine ⟨?_, fun t c h => Tile.nextClass_some h, fun s k => handlerEntry_none, fun s k => ⟨deferredResult_released, fun h => ?_⟩⟩
  · rintro s u k c task handler idle boundary next rfl
    have whole := handlerEntry_canEnter (Tile.canEnter_of task handler idle boundary) next
    refine ⟨fun busy => by rw [whole, if_neg (mt List.isEmpty_iff.mp busy)], fun retired => ?_⟩
    rw [if_pos (List.isEmpty_iff.mpr retired)] at whole
    have first : (s.tile k).eng = [] → s.engineDrain k = s := fun h => by rw [State.engineDrain, h]; rfl
    generalize s.engineDrain k = u at whole retired first
    obtain ⟨tile, others⟩ := u.tile_leave (Tile.entered_follower (Tile.onItsOwn_follower (u.tile k) k) c)
    obtain ⟨b, st, entered⟩ := ((u.tile k).onItsOwn k).entered_eq c
    have cmsg : (s.tile k).eng = [] → ((u.tile k).held c).head? ≠ none := fun h => by
      rw [first h]
      exact Tile.held_of_deliverable (Tile.nextClass_some next).2.1
    have enter : u.enterHandler k c = (u.setTile k (((u.tile k).onItsOwn k).entered c)).detachAll k := rfl
    rw [enter] at whole
    generalize ((u.tile k).onItsOwn k).entered c = t at whole tile others entered
    refine ⟨(u.setTile k t).detachAll k, whole, rfl, rfl, rfl, others, ?_⟩
    rw [tile, entered, Tile.onItsOwn_eq]
    exact ⟨rfl, rfl, rfl, rfl, cmsg, rfl, rfl, rfl⟩
  · show execDeferredResult k s = _
    rw [execDeferredResult, h]
    rfl

/-- Settles O39: a core that takes a trap or enters a handler leaves its leader, and the cores that follow it detach; the class that is
next is the best of a fold over the classes. -/
theorem trapAndHandlerEntry : Obligations.TrapAndHandlerEntry := ⟨trapEntry, handlerEntry⟩

end Sys2Proof.Machine
end

section
/-! PROOF. What the checks of an engine instruction's rings, slots, windows and tokens come to where they pass (R254, R376). -/

namespace Sys2Proof.Machine

theorem ringUsed_ok {s : State} {q : Nat} (h : (s.here.ring q).len ≠ 0) : ringUsed q s = .ok (s.here.ring q) s := by
  simp only [ringUsed, op_bind, op_getT, op_require (decide_eq_true h), op_pure]
theorem slotHolds_ok {s : State} {q slot n : Nat} (h : n ≤ (s.here.slot slot).len) : slotHolds q slot n s = .ok ⟨⟩ s := by
  simp only [slotHolds, op_bind, op_getT, op_require (decide_eq_true h)]
theorem slotReady_ok {s : State} {slot : Nat} (h : (s.here.slot slot).state = .ready) : slotReady slot s = .ok ⟨⟩ s := by
  simp only [slotReady, op_bind, op_getT, h, if_true, op_pure]
theorem slotEmpty_ok {s : State} {slot : Nat} (h : (s.here.slot slot).state = .empty) : slotEmpty slot s = .ok ⟨⟩ s := by
  simp only [slotEmpty, op_bind, op_getT, h, if_true, op_pure]
theorem scalesOk_ok {s : State} {w off n : Nat} (reg : Nat) (h : isMx w = true → scaleOff (s.here.soff w) w off (n - 1) < Config.scratchBytes) :
    scalesOk reg w off n s = .ok ⟨⟩ s := by
  have fits : (!isMx w || decide (scaleOff (s.here.soff w) w off (n - 1) < Config.scratchBytes)) = true := by
    cases hm : isMx w with
    | false => rfl
    | true => exact decide_eq_true (h hm)
  simp only [scalesOk, op_bind, op_getT, op_require fits]
theorem engineConsume_ok {s : State} {key n : Nat} (a : Nat) (idle : s.here.eng = []) (h : s.isBad key n = false) :
    engineConsume key n a false s = .ok ⟨⟩ s := by
  unfold engineConsume engineOver
  simp [engineHoldsKey_of_idle idle, State.unreadable, h]
theorem slotSound_ok {s : State} {q slot w n : Nat} (idle : s.here.eng = []) (h : Operand s q slot w n) : slotSound slot w n s = .ok ⟨⟩ s := by
  obtain ⟨_, _, _, sound, scales⟩ := h
  unfold slotSound
  rw [bind_of_ok (op_getT s), bind_of_ok (op_me s), bind_of_ok (engineConsume_ok _ idle sound)]
  split
  · next mx => rw [engineConsume_ok _ idle (scales mx).2]
  · rfl

theorem windowsOk_ok {s : State} {n : Nat} {ws : List Nat} (reg : Nat) (h : ∀ w ∈ ws, windowOk (s.here.accOf n).mode w = true) :
    windowsOk reg n ws s = .ok ⟨⟩ s := by
  have all : ws.find? (fun w => !windowOk (s.here.accOf n).mode w) = none :=
    List.find?_eq_none.mpr fun w hw => by rw [h w hw]; exact Bool.false_ne_true
  simp only [windowsOk, op_bind, op_getT, all, op_pure]

/-- An engine instruction that spends its slots joins the queue. -/
theorem spend_issueEngine {s : State} {n : Nat} (op : EngOp) (h : Funded s) :
    (do spend n; issueEngine op; seqFlow : Op Flow) s = .ok .seq (s.modTile s.cur fun u => (u.charged n).queued op) := by
  simp only [op_bind, spend_funded h, issueEngine, op_modT, op_seqFlow, State.modTile_modTile, State.modTile_cur]
  rfl
/-- The same with the rounding mode as its issue reads it. -/
theorem spend_sampleRm_issueEngine {s : State} {n : Nat} (op : Rm → EngOp) (h : Funded s) :
    (do spend n; let rm ← sampleRm; issueEngine (op rm); seqFlow : Op Flow) s =
      .ok .seq (s.modTile s.cur fun u => (u.charged n).queued (op (rmOf u.fctl))) := by
  simp only [op_bind, spend_funded h, sampleRm_ok, issueEngine, op_modT, op_seqFlow, State.modTile_modTile, State.modTile_cur, State.here_modTile]
  rfl
theorem KeepsFlow.charged_queued (n : Nat) (op : Tile → EngOp) (t : Tile) : KeepsFlow (fun u => (u.charged n).queued (op u)) t :=
  ⟨rfl, rfl, rfl, rfl, rfl⟩
theorem KeepsFlow.charged_fillTail_queued (n : Nat) (q : Nat) (op : Tile → EngOp) (t : Tile) :
    KeepsFlow (fun u => ((u.charged n).fillTail q).queued (op u)) t := ⟨rfl, rfl, rfl, rfl, rfl⟩

/-- Core kinds 0 and 2 multiply (R253). -/
theorem mmaKinds_has {k : Nat} (h : kindOf k = 0 ∨ kindOf k = 2) : mmaKinds / 2 ^ kindOf k % 2 = 1 := by
  rcases h with h | h
  · rw [h]; rfl
  · rw [h]; rfl
theorem accKinds_of_ne {k : Nat} (h : kindOf k ≠ 3) : accKinds / 2 ^ kindOf k % 2 = 1 := by
  have : kindOf k < 4 := by
    unfold kindOf
    split
    · decide
    · split
      · decide
      · split
        · decide
        · decide
  exact accKinds_has (by omega)

end Sys2Proof.Machine
end

section
/-! PROOF. MMA, ROWSUM and SMMA: issue, and what the accumulator holds when they retire (R87, R88, R263, R266, R271). -/

namespace Sys2Proof.Machine

/-! ### Issue -/

section Issue
variable {o s : State} {n : Fin 8} {a b : Fin 16} {w : Fin 64} {c k sw : Bool} {x wa wb sa sb : Nat}

theorem mmaSlots_ok (hsa : sa = (s.here.ring a).head)
    (hsb : sb = if a = b then (s.here.ring a).after (s.here.ring a).head else (s.here.ring b).head)
    (two : a = b → (s.here.ring a).len ≠ 1) (opA : Operand s a sa wa 512) (opB : Operand s b sb wb 512) :
    mmaSlots a b wa wb s = .ok (sa, sb) s := by
  subst hsa hsb
  obtain ⟨usedA, _, longA, _⟩ := opA
  obtain ⟨usedB, _, longB, _⟩ := opB
  have room : (!(decide (a = b) && decide ((s.here.ring a).len = 1))) = true := by
    by_cases h : a = b
    · simp [h, h ▸ two h]
    · simp [h]
  unfold mmaSlots
  rw [op_bind, ringUsed_ok usedA]
  dsimp only
  rw [op_bind, ringUsed_ok usedB]
  dsimp only
  rw [op_bind, slotHolds_ok longA]
  dsimp only
  rw [op_bind, slotHolds_ok longB]
  dsimp only
  rw [op_bind, op_require room]
  rfl

theorem mmaScales_ok (reg : Nat) (opA : Operand s a sa wa 512) (opB : Operand s b sb wb 512) : mmaScales reg sa sb wa wb s = .ok ⟨⟩ s := by
  obtain ⟨_, _, _, _, scalesA⟩ := opA
  obtain ⟨_, _, _, _, scalesB⟩ := opB
  simp only [mmaScales, op_bind, op_getT, scalesOk_ok reg fun h => (scalesA h).1, scalesOk_ok reg fun h => (scalesB h).1]

theorem mmaReady_ok (idle : s.here.eng = []) (opA : Operand s a sa wa 512) (opB : Operand s b sb wb 512) :
    mmaReady sa sb wa wb s = .ok ⟨⟩ s := by
  have readyA := opA.2.1
  have readyB := opB.2.1
  rw [mmaReady, bind_of_ok (slotReady_ok readyA), bind_of_ok (slotReady_ok readyB), bind_of_ok (slotSound_ok idle opA), slotSound_ok idle opB]

variable (hs : s = o.engineDone) (idle : s.here.eng = []) (ready : Ready s [wr w]) (kind : kindOf s.cur = 0 ∨ kindOf s.cur = 2)
  (hx : x = (s.here.getX w).toNat)
include hs idle ready kind hx

theorem mma_through (hwa : wa = x % 16) (hwb : wb = x / 16 % 16) (hsa : sa = (s.here.ring a).head)
    (hsb : sb = if a = b then (s.here.ring a).after (s.here.ring a).head else (s.here.ring b).head)
    (two : a = b → (s.here.ring a).len ≠ 1) (mode : modeOf (s.here.accOf n).mode ≠ 2) (okA : windowOk (s.here.accOf n).mode wa = true)
    (okB : windowOk (s.here.accOf n).mode wb = true) (opA : Operand s a sa wa 512) (opB : Operand s b sb wb 512) (funded : Funded s) :
    Through (exec (.mma n a b w c sw) o) s 4 [] (fun u =>
      (u.charged (max (winSlots wa) (winSlots wb))).queued (.mma n sa sb wa wb c (rmOf u.fctl))) := by
  have read : readN w s = .ok x s := hx ▸ readN_ready (ready.unbound (by simp [wr]))
  have windows : windowsOk w n [wa, wb] s = .ok ⟨⟩ s := windowsOk_ok w (List.forall_mem_cons.mpr ⟨okA, List.forall_mem_singleton.mpr okB⟩)
  refine metaT_through hs idle (mmaKinds_has kind) ready ?_ (.inr rfl) (KeepsFlow.charged_queued _ _ _)
  rw [← spend_sampleRm_issueEngine (fun rm => .mma n sa sb wa wb c rm) funded]
  simp only [op_bind, read, ← hwa, ← hwb, mmaSlots_ok hsa hsb two opA opB, accMode_ok (ok := (· ≠ 2)) (decide_eq_true mode),
    windows, mmaScales_ok w opA opB, mmaReady_ok idle opA opB]

theorem smma_through (hwa : wa = x % 16) (hwb : wb = x / 16 % 16) (hsa : sa = (s.here.ring a).head)
    (hsb : sb = if a = b then (s.here.ring a).after (s.here.ring a).head else (s.here.ring b).head)
    (two : a = b → (s.here.ring a).len ≠ 1) (mode : modeOf (s.here.accOf n).mode = 2) (lowA : 1 ≤ wa) (highA : wa ≤ 14)
    (lowB : 1 ≤ wb) (highB : wb ≤ 14) (opA : Operand s a sa wa 512) (opB : Operand s b sb wb 512) :
    (smmaSkips (s.here.accOf n) (x / 2 ^ 32) = true →
      Through (exec (.smma n a b w sw) o) s 4 [] (fun u => u.queued (.smma n sa sb wa wb (x / 2 ^ 32)))) ∧
    (smmaSkips (s.here.accOf n) (x / 2 ^ 32) = false → Funded s →
      Through (exec (.smma n a b w sw) o) s 4 [] (fun u =>
        (u.charged (max (winSlots wa) (winSlots wb))).queued (.smma n sa sb wa wb (x / 2 ^ 32)))) := by
  have read : readN w s = .ok x s := hx ▸ readN_ready (ready.unbound (by simp [wr]))
  have high : bf x 32 32 = x / 2 ^ 32 := hx ▸ bf_high_half _
  have windows : [wa, wb].find? (fun v => decide (v = 0 ∨ v = 15)) = none := by
    rw [List.find?_eq_none]
    intro v hv
    rw [decide_eq_true_eq]
    rcases List.mem_cons.mp hv with rfl | hv
    · omega
    · rw [List.mem_singleton.mp hv]
      omega
  refine ⟨fun skips => ?_, fun full funded => ?_⟩
  · refine metaT_through hs idle (mmaKinds_has kind) ready (t := s.modTile s.cur fun u => u.queued (.smma n sa sb wa wb (x / 2 ^ 32)))
      ?_ (.inr rfl) (KeepsFlow.queued ..)
    simp only [op_bind, read, ← hwa, ← hwb, mmaSlots_ok hsa hsb two opA opB, windows, accMode_ok (ok := (· = 2)) (decide_eq_true mode),
      mmaScales_ok w opA opB, op_getT, high, skips, if_true, slotReady_ok opA.2.1, slotReady_ok opB.2.1, issueEngine, op_modT, op_seqFlow]
    rfl
  · refine metaT_through hs idle (mmaKinds_has kind) ready ?_ (.inr rfl) (KeepsFlow.charged_queued _ _ _)
    rw [← spend_issueEngine (.smma n sa sb wa wb (x / 2 ^ 32)) funded]
    simp only [op_bind, read, ← hwa, ← hwb, mmaSlots_ok hsa hsb two opA opB, windows, accMode_ok (ok := (· = 2)) (decide_eq_true mode),
      mmaScales_ok w opA opB, op_getT, high, full, Bool.false_eq_true, if_false, mmaReady_ok idle opA opB]

theorem rowsum_through (hwa : wa = x / 2 ^ 32 % 16) (hsa : sa = (s.here.ring a).head) (small : x < 2 ^ 36)
    (mode : modeOf (s.here.accOf n).mode ≠ 2) (okA : windowOk (s.here.accOf n).mode wa = true) (opA : Operand s a sa wa 512) (funded : Funded s) :
    Through (exec (.rowsum n a w c k sw) o) s 4 [] (fun u => (u.charged 1).queued (.rowsum n sa wa (x % 2 ^ 32) c k (rmOf u.fctl))) := by
  have read : readN w s = .ok x s := hx ▸ readN_ready (ready.unbound (by simp [wr]))
  have win : bf x 32 4 = wa := hwa.symm
  have zero : bf x 36 (64 - 36) = 0 := by
    unfold bf
    omega
  obtain ⟨used, isReady, long, _, scales⟩ := id opA
  have windows : windowsOk w n [wa] s = .ok ⟨⟩ s := windowsOk_ok w (List.forall_mem_singleton.mpr okA)
  refine metaT_through hs idle (mmaKinds_has kind) ready ?_ (.inr rfl) (KeepsFlow.charged_queued _ _ _)
  rw [← spend_sampleRm_issueEngine (fun rm => .rowsum n sa wa (x % 2 ^ 32) c k rm) funded]
  simp only [bind_of_ok (op_getT s), bind_of_ok read, win, bind_of_ok (ringUsed_ok used), ← hsa, bind_of_ok (slotHolds_ok long),
    bind_of_ok (accMode_ok (ok := (· ≠ 2)) (decide_eq_true mode)), bind_of_ok windows, bind_of_ok (scalesOk_ok w fun h => (scales h).1),
    bind_of_ok (zeroField_of (hi := 64) zero), bind_of_ok (slotReady_ok isReady), bind_of_ok (slotSound_ok idle opA)]

end Issue

theorem multiplyAccumulateIssue : MultiplyAccumulateIssue := fun _ _ _ _ _ _ _ _ _ _ _ _ _ _ hs idle ready kind hx =>
  ⟨fun hwa hwb hsa hsb two =>
    ⟨fun mode okA okB opA opB funded => mma_through hs idle ready kind hx hwa hwb hsa hsb two mode okA okB opA opB funded,
      fun mode lowA highA lowB highB opA opB =>
        smma_through hs idle ready kind hx hwa hwb hsa hsb two mode lowA highA lowB highB opA opB⟩,
    fun hwa hsa small mode okA opA funded => rowsum_through hs idle ready kind hx hwa hsa small mode okA opA funded⟩

end Sys2Proof.Machine
end

section
/-! PROOF. What a retirement changes of slots and accumulators, and the products of MMA and ROWSUM (R68, R87, R88, R263, R266). -/

namespace Sys2Proof.Machine

/-! ### Slots and accumulators -/

theorem Tile.slot_modSlot_same (t : Tile) {i : Nat} (f : Slot → Slot) (h : i < 256) : (t.modSlot i f).slot i = f (t.slot i) := by
  simp [Tile.modSlot, Tile.slot, h]
theorem Tile.slot_modSlot_other (t : Tile) {i j : Nat} (f : Slot → Slot) (h : i ≠ j) : (t.modSlot j f).slot i = t.slot i := by
  simp [Tile.modSlot, Tile.slot, h.symm]
theorem Tile.accOf_modAcc_other (t : Tile) {i j : Nat} (f : Acc → Acc) (h : i ≠ j) : (t.modAcc j f).accOf i = t.accOf i := by
  simp [Tile.modAcc, Tile.accOf, h.symm]

/-- Emptying a slot changes the tile table alone. -/
theorem Tile.empty_eq (t : Tile) (i : Nat) : t.empty i = { t with slots := (t.empty i).slots, rings := (t.empty i).rings } := by
  unfold Tile.empty
  dsimp only
  split
  · rfl
  · rfl
theorem Tile.empty_slots (t : Tile) (i : Nat) : (t.empty i).slots = (t.modSlot i fun x => { x with state := .empty }).slots := by
  unfold Tile.empty
  dsimp only
  split
  · rfl
  · rfl
theorem Tile.empty_slot_same (t : Tile) {i : Nat} (h : i < 256) : (t.empty i).slot i = { t.slot i with state := .empty } := by
  rw [Tile.slot, Tile.empty_slots]
  exact t.slot_modSlot_same _ h
/-- A slot that is EMPTY stays so when another is emptied. -/
theorem Tile.empty_slot_of_empty {t : Tile} {i : Nat} (j : Nat) (hi : i < 256) (h : (t.slot i).state = .empty) :
    ((t.empty j).slot i).state = .empty := by
  by_cases same : i = j
  · subst same
    rw [t.empty_slot_same hi]
  · rw [Tile.slot, Tile.empty_slots]
    exact (congrArg Slot.state (t.slot_modSlot_other _ same)).trans h
theorem Tile.accOf_empty (t : Tile) (i n : Nat) : (t.empty i).accOf n = t.accOf n := by
  rw [Tile.empty_eq]
  rfl
theorem Tile.eng_empty (t : Tile) (i : Nat) : (t.empty i).eng = t.eng := by rw [Tile.empty_eq]

/-! ### The oldest engine instruction retires -/

/-- The state in which the oldest engine instruction of a core has left the queue. -/
def State.popped (s : State) (k : Nat) (rest : List EngOp) : State := s.modTile k (fun t => { t with eng := rest })

theorem State.engineStep_retires {s : State} {k : Nat} {op : EngOp} {rest : List EngOp} (h : (s.tile k).eng = op :: rest)
    (owed : op.owed = 0) : s.engineStep k = (s.popped k rest).retire k op := by
  simp [State.engineStep, State.popped, h, owed]

@[simp] theorem State.popped_tile (s : State) (k : Nat) (rest : List EngOp) : (s.popped k rest).tile k = { s.tile k with eng := rest } :=
  s.tile_modTile ..

theorem slotLine_popped (s : State) (k : Nat) (rest : List EngOp) (w slot r : Nat) : slotLine (s.popped k rest) k w slot r = slotLine s k w slot r := by
  rw [slotLine, State.popped_tile]
  rfl

/-- The sixteen rows or columns of a slot. -/
def slotLines (s : State) (k w slot : Nat) : List (List (Nat × Nat)) := (List.range 16).map (slotLine s k w slot)

theorem slotLines_getD (s : State) (k w slot : Nat) (i : Fin 16) : (slotLines s k w slot).getD i.val [] = slotLine s k w slot i := by
  simp [slotLines]

theorem slotLines_popped (s : State) (k : Nat) (rest : List EngOp) (w slot : Nat) :
    slotLines (s.popped k rest) k w slot = slotLines s k w slot :=
  List.map_congr_left fun r _ => slotLine_popped s k rest w slot r

theorem div_row (i j : Fin 16) : (16 * i.val + j.val) / 16 = i.val := by omega
theorem mod_row (i j : Fin 16) : (16 * i.val + j.val) % 16 = j.val := by omega

/-- Element `16 i + j` of an accumulator's new elements. -/
theorem ofFn_elem {f : Fin 256 → Elem} (i j : Fin 16) : (Vector.ofFn f)[16 * i.val + j.val]? = some (f ⟨16 * i.val + j.val, by omega⟩) := by
  have h : 16 * i.val + j.val < 256 := by omega
  simp [h]
theorem elem_getD (a : Acc) (i j : Fin 16) (h : 16 * i.val + j.val < 256) : a.elems[(⟨16 * i.val + j.val, h⟩ : Fin 256)] = (a.elems[16 * i.val + j.val]?).getD 0 := by
  simp [h]

theorem mmaAcc_mode (t : Tile) (a : Acc) (wa wb : Nat) (c : Bool) (rm : Rm) (rows cols : List (List (Nat × Nat))) :
    (mmaAcc t a wa wb c rm rows cols).mode = a.mode := by rw [mmaAcc]
theorem mmaAcc_elem (t : Tile) (a : Acc) (wa wb : Nat) (c : Bool) (rm : Rm) (rows cols : List (List (Nat × Nat))) (i j : Fin 16) :
    (mmaAcc t a wa wb c rm rows cols).elems[16 * i.val + j.val]? =
      some (macElem t a.mode wa wb c rm (rows.getD i []) (cols.getD j []) ((a.elems[16 * i.val + j.val]?).getD 0)) := by
  rw [mmaAcc, ofFn_elem]
  dsimp only
  rw [div_row, mod_row, elem_getD]

theorem macElem_int {t : Tile} {mode : Word} (wa wb : Nat) (c : Bool) (rm : Rm) (x y : List (Nat × Nat)) (e : Elem) (h : modeOf mode = 1) :
    macElem t mode wa wb c rm x y e =
      BitVec.ofInt 80 (narrow (accBits mode) (accSat mode) ((if c then 0 else e.toInt) + intProducts t wa wb x y)) := by
  rw [macElem, if_pos h]
  rfl
theorem macElem_float {t : Tile} {mode : Word} (wa wb : Nat) (c : Bool) (rm : Rm) (x y : List (Nat × Nat)) (e : Elem) (h : modeOf mode = 0) :
    macElem t mode wa wb c rm x y e = floatSum (if c then faNegZero else e) (products t wa wb x y) rm := by
  rw [macElem, if_neg (by omega)]

section Mma
variable {s : State} {k n sa sb wa wb : Nat} {c : Bool} {rm : Rm} {rest : List EngOp}

theorem engineStep_mma (h : (s.tile k).eng = .mma n sa sb wa wb c rm :: rest) : s.engineStep k =
    (s.popped k rest).modTile k (fun t =>
      ((t.modAcc n (fun a => mmaAcc { s.tile k with eng := rest } a wa wb c rm (slotLines s k wa sa) (slotLines s k wb sb))).empty sa).empty sb) := by
  rw [State.engineStep_retires h rfl, ← slotLines_popped s k rest, ← slotLines_popped s k rest, ← s.popped_tile]
  exact congrArg ((s.popped k rest).setTile k) rfl

theorem mma_retires (h : (s.tile k).eng = .mma n sa sb wa wb c rm :: rest) (hn : n < 8) :
    (s.engineStep k).mem = s.mem ∧ ((s.engineStep k).tile k).eng = rest ∧
      (sa < 256 → (((s.engineStep k).tile k).slot sa).state = .empty) ∧ (sb < 256 → (((s.engineStep k).tile k).slot sb).state = .empty) ∧
      ((s.engineStep k).tile k).accOf n =
        mmaAcc { s.tile k with eng := rest } ((s.tile k).accOf n) wa wb c rm (slotLines s k wa sa) (slotLines s k wb sb) := by
  rw [engineStep_mma h, State.tile_modTile, State.popped_tile]
  refine ⟨rfl, ?_, fun hsa => ?_, fun hsb => ?_, ?_⟩
  · exact (Tile.eng_empty ..).trans (Tile.eng_empty ..)
  · exact Tile.empty_slot_of_empty sb hsa (by rw [Tile.empty_slot_same _ hsa])
  · rw [Tile.empty_slot_same _ hsb]
  · exact (Tile.accOf_empty ..).trans ((Tile.accOf_empty ..).trans (Tile.accOf_modAcc_same _ _ hn))

end Mma

/-! ### ROWSUM -/

theorem sum_of_foldl {α : Type} (f : α → Int) (l : List α) (a : Int) : l.foldl (fun a x => a + f x) a = a + (l.map f).sum := by
  induction l generalizing a with
  | nil => exact (Int.add_zero a).symm
  | cons x l ih => rw [List.foldl_cons, ih, List.map_cons, List.sum_cons, Int.add_assoc]

/-- An accumulator to which the sums of rows or columns have been added. -/
def rowsumAcc (t : Tile) (a : Acc) (win z : Nat) (col : Bool) (rm : Rm) (lines : List (List (Nat × Nat))) : Acc :=
  { a with elems := Vector.ofFn (fun (n : Fin 256) =>
      rowsumElem a.mode t win z rm (lines.getD (if col then n.val % 16 else n.val / 16) []) a.elems[n]) }

theorem rowsumAcc_mode (t : Tile) (a : Acc) (win z : Nat) (col : Bool) (rm : Rm) (lines : List (List (Nat × Nat))) :
    (rowsumAcc t a win z col rm lines).mode = a.mode := by rw [rowsumAcc]
theorem rowsumAcc_elem (t : Tile) (a : Acc) (win z : Nat) (col : Bool) (rm : Rm) (lines : List (List (Nat × Nat))) (i j : Fin 16) :
    (rowsumAcc t a win z col rm lines).elems[16 * i.val + j.val]? =
      some (rowsumElem a.mode t win z rm (lines.getD (if col then j else i) []) ((a.elems[16 * i.val + j.val]?).getD 0)) := by
  rw [rowsumAcc, ofFn_elem]
  dsimp only
  rw [div_row, mod_row, elem_getD]

theorem rowsumElem_int {mode : Word} (t : Tile) (win z : Nat) (rm : Rm) (line : List (Nat × Nat)) (e : Elem) (h : modeOf mode = 1) :
    rowsumElem mode t win z rm line e = BitVec.ofInt 80 (narrow (accBits mode) (accSat mode)
      (e.toInt + sext z 32 * (line.map (fun x => (decodeWin t.table win x.1).dy.n)).sum)) := by
  rw [rowsumElem, if_pos h, sum_of_foldl, Int.zero_add]
  rfl

section Rowsum
variable {s : State} {k n sa win z : Nat} {col keep : Bool} {rm : Rm} {rest : List EngOp}

theorem engineStep_rowsum (h : (s.tile k).eng = .rowsum n sa win z col keep rm :: rest) : s.engineStep k =
    (s.popped k rest).modTile k (fun t =>
      if keep then t.modAcc n (fun a => rowsumAcc t a win z col rm (slotLines s k win sa))
      else (t.modAcc n (fun a => rowsumAcc t a win z col rm (slotLines s k win sa))).empty sa) := by
  rw [State.engineStep_retires h rfl, ← slotLines_popped s k rest]
  rfl

theorem rowsum_retires (h : (s.tile k).eng = .rowsum n sa win z col keep rm :: rest) (hn : n < 8) :
    (s.engineStep k).mem = s.mem ∧ ((s.engineStep k).tile k).eng = rest ∧
      (sa < 256 → (((s.engineStep k).tile k).slot sa).state = if keep then ((s.tile k).slot sa).state else .empty) ∧
      ((s.engineStep k).tile k).accOf n =
        rowsumAcc { s.tile k with eng := rest } ((s.tile k).accOf n) win z col rm (slotLines s k win sa) := by
  rw [engineStep_rowsum h, State.tile_modTile, State.popped_tile]
  cases keep with
  | false =>
    refine ⟨rfl, ?_, fun hsa => ?_, ?_⟩
    · exact Tile.eng_empty ..
    · exact congrArg Slot.state (Tile.empty_slot_same _ hsa)
    · exact (Tile.accOf_empty ..).trans (Tile.accOf_modAcc_same _ _ hn)
  | true =>
    refine ⟨rfl, rfl, fun _ => rfl, ?_⟩
    rw [if_pos rfl]
    exact Tile.accOf_modAcc_same _ _ hn

end Rowsum

theorem multiplyAccumulateResult : MultiplyAccumulateResult := by
  rintro s k n sa sb wa wb z c col keep rm rest i j a a' hn rfl
  refine ⟨fun h ha => ?_, fun h ha => ?_⟩
  · obtain ⟨mem, eng, slotA, slotB, acc⟩ := mma_retires h hn
    rw [acc] at ha
    subst ha
    refine ⟨mmaAcc_mode .., mem, eng, slotA, slotB, fun int => ?_, fun float => ?_⟩
    · rw [mmaAcc_elem, macElem_int _ _ _ _ _ _ _ int, slotLines_getD, slotLines_getD]
      rfl
    · rw [mmaAcc_elem, macElem_float _ _ _ _ _ _ _ float, slotLines_getD, slotLines_getD]
      rfl
  · obtain ⟨mem, eng, slotA, acc⟩ := rowsum_retires h hn
    rw [acc] at ha
    subst ha
    refine ⟨rowsumAcc_mode .., mem, eng, slotA, fun int => ?_⟩
    rw [rowsumAcc_elem, rowsumElem_int _ _ _ _ _ _ int]
    cases col with
    | false =>
      rw [if_neg Bool.false_ne_true, slotLines_getD]
      rfl
    | true =>
      rw [if_pos rfl, slotLines_getD]
      rfl

/-- Settles O26: issue by the rule of each of its checks; retirement by what it does to the accumulator and to the head slots. -/
theorem multiplyAccumulateResults : Obligations.MultiplyAccumulateResults := ⟨multiplyAccumulateIssue, multiplyAccumulateResult⟩

end Sys2Proof.Machine
end

section
/-! PROOF. The bytes that memory holds after writes, and elements packed into them (R81, R82, R106). -/

namespace Sys2Proof.Machine

/-! ### Bytes that memory holds -/

/-- Memory holds the bytes from a key on. -/
def State.Holds (s : State) (key : Nat) (b : List Byte) : Prop := ∀ i, (h : i < b.length) → Memory.get s.mem (key + i) = b[i]

theorem Memory.read_eq (m : List Host.Cell) (a n : Nat) : Memory.read m a n = (List.range n).map (fun i => Memory.get m (a + i)) := by
  induction n generalizing a with
  | zero => rfl
  | succ n ih =>
    rw [Memory.read, ih, List.range_succ_eq_map, List.map_cons, List.map_map]
    refine congrArg _ (List.map_congr_left fun i _ => ?_)
    exact congrArg (Memory.get m) (by show a + 1 + i = a + (i + 1); omega)

theorem State.holds_writeKey {s : State} (key : Nat) (b : List Byte) (tag : Bool) (h : Memory.wf s.mem = true) : (s.writeKey key b tag).Holds key b := by
  intro i hi
  have read := Memory.read_write (m := s.mem) key b h
  rw [Memory.read_eq] at read
  have each := congrArg (fun l => l[i]?) read
  simp only [List.getElem?_map, List.getElem?_range hi, Option.map_some, List.getElem?_eq_getElem hi, Option.some.injEq] at each
  exact each

theorem State.Holds.writeKey {s : State} {a : Nat} {b : List Byte} (holds : s.Holds a b) (key : Nat) (d : List Byte) (tag : Bool)
    (h : Memory.wf s.mem = true) (apart : a + b.length ≤ key ∨ key + d.length ≤ a) : (s.writeKey key d tag).Holds a b := fun i hi =>
  (Memory.get_write_other key d (a + i) h (by omega)).trans (holds i hi)

/-- Part of the bytes that memory holds. -/
theorem State.Holds.readAt {s : State} {key : Nat} {b : List Byte} (holds : s.Holds key b) (i n : Nat) (h : i + n ≤ b.length) :
    s.readAt (key + i) n = (b.drop i).take n := by
  rw [State.readAt, Memory.read_eq]
  refine List.ext_getElem? fun j => ?_
  by_cases hj : j < n
  · rw [List.getElem?_map, List.getElem?_range hj, List.getElem?_take_of_lt hj, List.getElem?_drop, List.getElem?_eq_getElem (by omega)]
    exact congrArg some ((congrArg (Memory.get s.mem) (Nat.add_assoc ..)).trans (holds (i + j) (by omega)))
  · rw [List.getElem?_eq_none (by simp; omega), List.getElem?_eq_none (by simp; omega)]

/-- What one step of a fold makes, and every other step keeps, holds after it. -/
theorem foldl_of_step {α : Type} {P Q : State → Prop} {f : State → α → State} {l : List α} {b : α} (hb : b ∈ l)
    (wf : ∀ s, ∀ a ∈ l, Q s → Q (f s a)) (made : ∀ s, Q s → P (f s b)) (kept : ∀ s, ∀ c ∈ l, c ≠ b → Q s → P s → P (f s c))
    {s : State} (h : Q s) : P (l.foldl f s) := by
  have rest : ∀ r : List α, (∀ c ∈ r, c ∈ l) → ∀ s, Q s → P s → P (r.foldl f s) := by
    intro r
    induction r with
    | nil => exact fun _ s _ p => p
    | cons c r ih =>
      intro sub s q p
      have hc := sub c List.mem_cons_self
      refine ih (fun x hx => sub x (List.mem_cons_of_mem _ hx)) _ (wf s c hc q) ?_
      by_cases same : c = b
      · exact same ▸ made s q
      · exact kept s c hc same q p
  have all : ∀ r : List α, (∀ c ∈ r, c ∈ l) → b ∈ r → ∀ s, Q s → P (r.foldl f s) := by
    intro r
    induction r with
    | nil => exact fun _ h => nomatch h
    | cons c r ih =>
      intro sub hb s q
      have tail : ∀ x ∈ r, x ∈ l := fun x hx => sub x (List.mem_cons_of_mem _ hx)
      rcases List.mem_cons.mp hb with rfl | hb
      · exact rest r tail _ (wf s b (sub b List.mem_cons_self) q) (made s q)
      · exact ih tail hb _ (wf s c (sub c List.mem_cons_self) q)
  exact all l (fun _ h => h) hb s h

/-! ### Packed elements -/

theorem flatMap_block {α β : Type} {f : α → List β} {c : Nat} (hf : ∀ x, (f x).length = c) (l : List α) (i : Nat) (h : i < l.length) :
    ((l.flatMap f).drop (c * i)).take c = f l[i] := by
  induction l generalizing i with
  | nil => cases h
  | cons x l ih =>
    rw [List.flatMap_cons]
    cases i with
    | zero =>
      rw [Nat.mul_zero, List.drop_zero, ← hf x, List.take_left]
      rfl
    | succ i =>
      rw [show c * (i + 1) = (f x).length + c * i by rw [hf, Nat.mul_succ, Nat.add_comm], ← List.drop_drop, List.drop_left]
      exact ih i (Nat.lt_of_succ_lt_succ h)
theorem flatMap_length {α β : Type} {f : α → List β} {c : Nat} (hf : ∀ x, (f x).length = c) (l : List α) : (l.flatMap f).length = c * l.length := by
  induction l with
  | nil => rfl
  | cons x l ih => rw [List.flatMap_cons, List.length_append, ih, hf, List.length_cons, Nat.mul_succ, Nat.add_comm]

/-- Elements of whole bytes stand one after the other. -/
theorem packElems_bytes {w : Nat} (hw : w ≠ 8) (l : List Nat) : packElems w l = l.flatMap (leBytes (elemBytes w)) := by
  match l with
  | [] => rfl
  | [a] =>
    rw [packElems, if_neg hw, List.flatMap_cons]
    exact (List.append_nil _).symm
  | a :: b :: r =>
    rw [packElems, if_neg hw, packElems_bytes hw (b :: r)]
    exact List.flatMap_cons.symm

/-- Two elements of half a byte share one. -/
theorem packElems_nibbles (l : List Nat) : (packElems 8 l).length = (l.length + 1) / 2 ∧
    ∀ i, (h : i < l.length) → ∃ y : Byte, (packElems 8 l)[i / 2]? = some y ∧
      (if i % 2 = 0 then y.toNat % 16 else y.toNat / 16) = l[i] % 16 := by
  match l with
  | [] => exact ⟨rfl, nofun⟩
  | [a] =>
    rw [packElems, if_pos rfl]
    refine ⟨by simp, fun i hi => ?_⟩
    have zero : i = 0 := Nat.lt_one_iff.mp hi
    subst zero
    refine ⟨_, rfl, ?_⟩
    rw [if_pos rfl, BitVec.toNat_ofNat]
    show a % 2 ^ 8 % 16 = a % 16
    omega
  | a :: b :: r =>
    obtain ⟨length, elems⟩ := packElems_nibbles r
    rw [packElems, if_pos rfl]
    refine ⟨by rw [List.length_cons, length, List.length_cons, List.length_cons]; omega, fun i hi => ?_⟩
    match i with
    | 0 =>
      refine ⟨_, rfl, ?_⟩
      rw [if_pos rfl, BitVec.toNat_ofNat]
      show (a % 16 + b % 16 * 16) % 2 ^ 8 % 16 = a % 16
      omega
    | 1 =>
      refine ⟨_, rfl, ?_⟩
      rw [if_neg (by decide), BitVec.toNat_ofNat]
      show (a % 16 + b % 16 * 16) % 2 ^ 8 / 16 = b % 16
      omega
    | i + 2 =>
      obtain ⟨y, at', nibble⟩ := elems i (by simpa using hi)
      refine ⟨y, ?_, ?_⟩
      · rw [Nat.add_div_right i (by decide), List.getElem?_cons_succ]
        exact at'
      · rw [Nat.add_mod_right]
        exact nibble

/-! ### Elements as a window reads them (R81, R82) -/

theorem scratchAt_add (k off i : Nat) : scratchAt k (off + i) = scratchAt k off + i := (Nat.add_assoc ..).symm

/-- An element of whole bytes reads as the code that was packed. -/
theorem elemBits_bytes {s : State} {k w base : Nat} {codes : List Nat} (hw : w ≠ 8) (hw' : w ≠ 15)
    (holds : s.Holds (scratchAt k base) (packElems w codes)) (i : Nat) (h : i < codes.length) :
    elemBits s k w base i = codes[i] % 2 ^ (8 * elemBytes w) := by
  have size : ∀ x, (leBytes (elemBytes w) x).length = elemBytes w := leBytes_length _
  rw [packElems_bytes hw] at holds
  have fits : i * elemBytes w + elemBytes w ≤ (codes.flatMap (leBytes (elemBytes w))).length := by
    rw [flatMap_length size, Nat.mul_comm, ← Nat.mul_succ]
    exact Nat.mul_le_mul_left _ h
  rw [elemBits, if_neg hw, if_neg hw', State.readNat, scratchAt_add, holds.readAt _ _ fits, Nat.mul_comm, flatMap_block size codes i h, leNat_leBytes]

/-- An element of half a byte reads as the code that was packed. -/
theorem elemBits_nibbles {s : State} {k base : Nat} {codes : List Nat} (holds : s.Holds (scratchAt k base) (packElems 8 codes)) (i : Nat)
    (h : i < codes.length) : elemBits s k 8 base i = codes[i] % 16 := by
  obtain ⟨length, elems⟩ := packElems_nibbles codes
  obtain ⟨y, at', nibble⟩ := elems i h
  have inside : i / 2 < (packElems 8 codes).length := by omega
  rw [List.getElem?_eq_getElem inside, Option.some.injEq] at at'
  rw [elemBits, if_pos rfl, scratchAt_add, holds (i / 2) inside, at']
  exact nibble

end Sys2Proof.Machine
end

section
/-! PROOF. DRAIN, DRAINQ and DRAINR: issue (R267 to R269). -/

namespace Sys2Proof.Machine

theorem inWindow_ok {s : State} {a n w off : Nat} (reg : Nat) (ak : Access) (h : windowAt a n = some (w, off)) :
    inWindow reg a n ak s = .ok off s := by
  obtain ⟨window, fits⟩ := windowOf_of_windowAt h
  have small : off + n ≤ 2 ^ 20 := fits.trans (by decide)
  simp only [inWindow, window, op_bind, op_require (decide_eq_true small), op_require (decide_eq_true fits), op_pure]

theorem destCore_ok {s : State} {name c : Nat} (reg lo : Nat) (hc : coreOf name = some c) (site : c < Config.tileSites)
    (part : s.partOf c = s.partOf s.cur) (gen : name / 2 ^ 24 = s.gen) : destCore reg lo name s = .ok c s := by
  simp only [destCore, op_bind, op_get, hc, op_require (decide_eq_true (And.intro site part)), op_require (decide_eq_true gen), op_pure]

/-- A tail slot is taken for an engine instruction of one slot that joins the queue. -/
def Tile.takesTail (t : Tile) (q : Nat) (op : EngOp) : Tile := ((t.charged 1).fillTail q).queued op

theorem KeepsFlow.takesTail (q : Nat) (op : EngOp) (t : Tile) : KeepsFlow (·.takesTail q op) t := ⟨rfl, rfl, rfl, rfl, rfl⟩
theorem KeepsFlow.takesTail_xfers (q : Nat) (op : EngOp) (f : Xfer) (t : Tile) :
    KeepsFlow (fun u => { u.takesTail q op with xfers := u.xfers ++ [f] }) t := ⟨rfl, rfl, rfl, rfl, rfl⟩

/-- The transfer that follows the drain of DRAINR (R269), of core `k` with tile `u`. -/
def Tile.drainrXfer (u : Tile) (k slot win x dest id : Nat) : Xfer :=
  { pc := u.pc.addr, maj := 0x2C, minor := 2, elems := [⟨0, .scratch k (u.slot slot).off, .remoteSlot 0, winBytes win 256⟩]
    slot := some slot, fill := false, remote := some (dest, some (bf x 32 4)), remoteSlot := none, bytes := winBytes win 256
    localCtr := none, remoteCtr := none, wake := if bf x 40 1 = 1 then some dest else none, job := u.job, stopped := none
    interval := 0, grants := [], ordered := false, destName := x % 2 ^ 32, id := id }

theorem State.modTile_free_modTile (s : State) (k n : Nat) (g h : Tile → Tile) :
    State.modTile { s.modTile k g with free := n } k h = State.modTile { s with free := n } k (fun u => h (g u)) :=
  State.modTile_modTile { s with free := n } k g h

/-- An instruction of format T that leads to a state of its own completes there. -/
theorem metaT_leadsTo {maj minor kinds : Nat} {sw : Bool} {i : Instr} {reads writes : List (File × Nat)} {body : Op Flow}
    {o s v t : State} {f : Tile → Tile} (hs : s = o.engineDone) (he : s.here.eng = []) (hk : kinds / 2 ^ kindOf s.cur % 2 = 1)
    (hr : Ready s (reads ++ writes)) (hb : body s = .ok .seq t) (hu : Upd v t f) (hf : KeepsFlow f v.here) (hv : v.here = s.here) :
    Through (issue (metaT maj minor kinds sw i reads writes) body o) v 4 (results writes) f :=
  issue_through' ((settle_engine rfl rfl o).trans hs.symm) (unsettled_idle rfl he)
    ⟨hk, nofun, fun r h => (hr r h).1, nofun, rfl⟩ hb hu hf (by rw [hv]; exact Ready.noAppend (m := metaT maj minor kinds sw i reads writes) hr)

section
variable {o s : State} {n : Fin 8} {q : Fin 16} {rm : Rm} {w : Fin 64} {sat z sw : Bool} {x win slot : Nat}

/-- A drain takes its tail slot, spends a slot and joins the queue. -/
theorem drainIssue_ok (op : EngOp) (hslot : slot = (s.here.ring q).tail) (empty : (s.here.slot slot).state = .empty) (funded : Funded s) :
    drainIssue q slot op s = .ok ⟨⟩ (s.modTile s.cur (·.takesTail q op)) := by
  simp only [drainIssue, op_bind, slotEmpty_ok empty, spend_funded funded, issueEngine, op_modT, State.modTile_modTile, State.modTile_cur]
  rfl

theorem drainChecks_ok {mxOk : Bool} (hslot : slot = (s.here.ring q).tail) (mode : modeOf (s.here.accOf n).mode ≠ 2) (used : win ≠ 0)
    (table : win = 12 → s.here.ordered = true) (fits : TailFits s q win 256) (mx : mxOk = true ∨ isMx win = false) :
    drainChecks n q w win mxOk s = .ok slot s := by
  subst hslot
  obtain ⟨ring, _, long, scales⟩ := fits
  have class' : (decide (win ≠ 0) && (mxOk || !isMx win)) = true := by
    rw [decide_eq_true used, Bool.true_and]
    rcases mx with h | h
    · rw [h, Bool.true_or]
    · rw [h, Bool.not_false, Bool.or_true]
  have ordered : (decide (win ≠ 12) || s.here.ordered) = true := by
    by_cases h : win = 12
    · rw [table h, Bool.or_true]
    · rw [decide_eq_true h, Bool.true_or]
  simp only [drainChecks, op_bind, op_getT, ringUsed_ok ring, slotHolds_ok long, scalesOk_ok w scales,
    accMode_ok (ok := (· ≠ 2)) (decide_eq_true mode), op_require class', op_require ordered, op_pure]

variable (hs : s = o.engineDone) (idle : s.here.eng = []) (ready : Ready s [wr w]) (kind : kindOf s.cur ≠ 3)
  (hslot : slot = (s.here.ring q).tail) (funded : Funded s) (fits : TailFits s q win 256)
include hs idle ready kind hslot funded fits

theorem drain_through (hx : x = (s.here.getX w).toNat) (mode : modeOf (s.here.accOf n).mode ≠ 2) (used : win ≠ 0)
    (table : win = 12 → s.here.ordered = true) (hwin : win = x) (small : x < 16) :
    Through (exec (.drain n q rm sat w z sw) o) s 4 [] (fun u =>
      ((u.charged 1).fillTail q).queued (.drain n slot win rm sat z)) := by
  have read : readN w s = .ok x s := hx ▸ readN_ready (ready.unbound (by simp [wr]))
  have low : x % 16 = win := by rw [hwin, Nat.mod_eq_of_lt small]
  have zero : bf x 4 (64 - 4) = 0 := by
    unfold bf
    omega
  have empty : (s.here.slot slot).state = .empty := hslot ▸ fits.2.1
  refine metaT_through hs idle (accKinds_of_ne kind) ready
    (t := s.modTile s.cur (·.takesTail q (.drain n slot win rm sat z))) ?_ (.inr rfl) (KeepsFlow.takesTail ..)
  simp only [op_bind, read, low, drainChecks_ok hslot mode used table fits (.inl rfl), zeroField_of (hi := 64) zero,
    drainIssue_ok _ hslot empty funded, op_seqFlow]

theorem drainr_through {c : Nat} (hx : x = (s.here.getX w).toNat) (mode : modeOf (s.here.accOf n).mode ≠ 2) (used : win ≠ 0)
    (table : win = 12 → s.here.ordered = true) (hwin : win = x / 2 ^ 36 % 16) (small : x < 2 ^ 41) (plain : isMx win = false)
    (dest : coreOf (x % 2 ^ 32) = some c) (site : c < Config.tileSites) (part : s.partOf c = s.partOf s.cur)
    (gen : x % 2 ^ 32 / 2 ^ 24 = s.gen) :
    ∃ f : Xfer, Through (exec (.drainr n q rm sat w z sw) o) { s with free := s.free + 1 } 4 [] (fun u =>
        { ((u.charged 1).fillTail q).queued (.drain n slot win rm sat z) with xfers := u.xfers ++ [f] }) ∧
      f.slot = some slot ∧ f.fill = false ∧ f.remote = some (c, some (x / 2 ^ 32 % 16)) ∧ f.bytes = winBytes win 256 ∧
      f.wake = (if x / 2 ^ 40 % 2 = 1 then some c else none) ∧ f.stopped = none ∧ f.elems.map (·.len) = [winBytes win 256] := by
  have read : readN w s = .ok x s := hx ▸ readN_ready (ready.unbound (by simp [wr]))
  have field : bf x 36 4 = win := hwin.symm
  have zero : bf x 41 (64 - 41) = 0 := by
    unfold bf
    omega
  have empty : (s.here.slot slot).state = .empty := hslot ▸ fits.2.1
  have run := drainIssue_ok (.drain n slot win rm sat z) hslot empty funded
  generalize hf : (s.here.takesTail q (.drain n slot win rm sat z)).drainrXfer s.cur slot win x c (s.free + 1) = f
  refine ⟨f, metaT_leadsTo (f := fun u => { u.takesTail q (.drain n slot win rm sat z) with xfers := u.xfers ++ [f] }) hs idle
    (accKinds_of_ne kind) ready ?_ (.inr rfl) (KeepsFlow.takesTail_xfers ..) rfl, ?_⟩
  · simp only [op_bind, read, field, drainChecks_ok (mxOk := false) hslot mode used table fits (.inr plain), destCore_ok w 0 dest site part gen,
      zeroField_of (hi := 64) zero, run, op_me, op_getT, xferId, op_get, op_set, op_pure, op_modT, op_seqFlow, State.here_modTile]
    refine congrArg (EStateM.Result.ok Flow.seq) ((State.modTile_free_modTile s s.cur (s.free + 1) (·.takesTail q (.drain n slot win rm sat z))
      (fun t => { t with xfers := t.xfers ++ [_] })).trans ?_)
    rw [← hf]
    rfl
  · rw [← hf]
    exact ⟨rfl, rfl, rfl, rfl, rfl, rfl, rfl⟩

/-- DRAINQ queues what its parameter block gives (R268). -/
def drainqOp (n slot win : Nat) (b : List Byte) (z : Bool) : EngOp :=
  .drainq n slot win ((List.range 16).map (fun i => sext (blockNat b (8 * i) 8) 64))
    ((List.range 16).map (fun i => sext (blockNat b (128 + 4 * i) 4) 32)) (decide (blockNat b 193 1 / 16 % 2 = 1))
    (blockNat b 192 1) (sext (blockNat b 196 4) 32) z

theorem drainq_through {off : Nat} {b : List Byte} (mode : modeOf (s.here.accOf n).mode = 1)
    (grants : Grants (s.here.getW w) (s.here.getW w).addr 256 Perm.load 64)
    (place : ∃ v, windowAt (s.here.getW w).addr 256 = some (v, off)) (sound : s.isBad (scratchAt s.cur off) 256 = false)
    (hb : b = s.readAt (scratchAt s.cur off) 256) (hwin : win = blockNat b 193 1 % 16) (int : winInt win = true)
    (ctl : blockNat b 193 1 < 32) (shift : blockNat b 192 1 ≤ 63) (res1 : blockNat b 194 2 = 0) (res2 : blockNat b 200 56 = 0) :
    Through (exec (.drainq n q w z sw) o) s 4 [] (fun u => ((u.charged 1).fillTail q).queued (drainqOp n slot win b z)) := by
  have read : readW w s = .ok (s.here.getW w) s := readW_ready (ready.unbound (by simp [wr]))
  obtain ⟨v, place⟩ := place
  have empty : (s.here.slot slot).state = .empty := hslot ▸ fits.2.1
  have run := drainIssue_ok (drainqOp n slot win b z) hslot empty funded
  obtain ⟨ring, _, long, _⟩ := fits
  have high : blockNat b 193 1 / 32 = 0 := Nat.div_eq_of_lt ctl
  refine metaT_through hs idle (accKinds_of_ne kind) ready (t := s.modTile s.cur (·.takesTail q (drainqOp n slot win b z))) ?_ (.inr rfl)
    (KeepsFlow.takesTail ..)
  simp only [bind_of_ok read, bind_of_ok (ringUsed_ok ring), bind_of_ok (accMode_ok (ok := (· = 1)) (decide_eq_true mode)),
    bind_of_ok (checkCap_grants grants ..), bind_of_ok (inWindow_ok w .load place), bind_of_ok (op_me s), bind_of_ok (engineConsume_ok _ idle sound),
    bind_of_ok (op_get s), ← hb, ← hwin, bind_of_ok (fieldOk_of (decide_eq_true shift)), bind_of_ok (op_require int _ s),
    bind_of_ok (fieldOk_of (decide_eq_true high)), bind_of_ok (fieldOk_of (decide_eq_true res1)), bind_of_ok (fieldOk_of (decide_eq_true res2)),
    ← hslot]
  rw [hslot, bind_of_ok (slotHolds_ok long), ← hslot]
  rw [show EngOp.drainq n slot win _ _ _ _ _ z = drainqOp n slot win b z from rfl, bind_of_ok run]
  rfl

end

theorem drainsIssue : DrainIssue := by
  intro o s n q rm w sat z sw x win slot hs idle ready kind hx hslot funded
  refine ⟨fun mode used table fits => ⟨fun hwin small => drain_through hs idle ready kind hslot funded fits hx mode used table hwin small,
    fun c hwin small plain dest site part gen =>
      drainr_through hs idle ready kind hslot funded fits hx mode used table hwin small plain dest site part gen⟩,
    fun off b mode grants place sound hb hwin int ctl shift res1 res2 fits =>
      drainq_through hs idle ready kind hslot funded fits mode grants place sound hb hwin int ctl shift res1 res2⟩

end Sys2Proof.Machine
end

section
/-! PROOF. What a slot holds when its drain retires (R267, R268). -/

namespace Sys2Proof.Machine

/-! ### The slot and the accumulator -/

theorem Tile.accOf_ready (t : Tile) (i n : Nat) : (t.ready i).accOf n = t.accOf n := rfl

/-- A drain that has retired leaves its slot READY and, with ZERO, its accumulator empty. -/
theorem drained_leaves {u : State} {t : Tile} {k n slot : Nat} (z : Bool) (h : u.tile k = t) (hn : n < 8) (hs : slot < 256) :
    (((drained u k n slot z).tile k).slot slot).state = .ready ∧ ((drained u k n slot z).tile k).eng = t.eng ∧
      ((drained u k n slot z).tile k).accOf n =
        (if z then { t.accOf n with elems := Vector.replicate 256 0 } else t.accOf n) := by
  have tile : (drained u k n slot z).tile k = if z then (t.ready slot).modAcc n Acc.emptied else t.ready slot := by
    rw [← h]
    exact u.tile_modTile ..
  have ready : ((t.ready slot).slot slot).state = .ready := congrArg Slot.state (t.slot_modSlot_same _ hs)
  rw [tile]
  cases z with
  | false => exact ⟨ready, rfl, rfl⟩
  | true => exact ⟨ready, rfl, Tile.accOf_modAcc_same (t.ready slot) Acc.emptied hn⟩

/-! ### The bytes of the slot -/

section
variable {s : State} {k n off win : Nat} {rm : Rm} {sat : Bool} (canonical : Memory.wf s.mem = true) (i : Fin 256)
include canonical

/-- W15 takes the elements raw. -/
theorem drainTo_raw : (drainTo s k n off 15 rm sat).readNat (scratchAt k (off + 16 * i.val)) 16 =
    (((s.tile k).accOf n).elems[i]).toNat := by
  have holds := State.holds_writeKey (scratchAt k off) (((s.tile k).accOf n).elems.toList.flatMap (fun x => leBytes 16 x.toNat)) false canonical
  have size : ∀ x : Elem, (leBytes 16 x.toNat).length = 16 := fun x => leBytes_length ..
  have inside : i.val < ((s.tile k).accOf n).elems.toList.length := by simp
  have elem : ((s.tile k).accOf n).elems.toList[i.val] = ((s.tile k).accOf n).elems[i] := by simp
  have small := (((s.tile k).accOf n).elems[i]).isLt
  rw [drainTo, if_pos rfl, State.readNat, scratchAt_add, holds.readAt _ _ (by rw [flatMap_length size]; simp; omega),
    flatMap_block size _ _ inside, leNat_leBytes, elem]
  omega

/-- Elements of other windows are encoded. -/
theorem drainTo_encoded (h15 : win ≠ 15) (mx : isMx win = false) : elemBits (drainTo s k n off win rm sat) k win off i.val =
    (encodeWin (s.tile k).table win rm sat (elemExt ((s.tile k).accOf n).mode ((s.tile k).accOf n).elems[i])).1 % 2 ^ (8 * elemBytes win) := by
  have h8 : win ≠ 8 := by
    rintro rfl
    exact absurd mx (by decide)
  rw [drainTo, if_neg h15, mx, if_neg Bool.false_ne_true]
  rw [elemBits_bytes h8 h15 (State.holds_writeKey _ _ false canonical) i.val (by simp)]
  simp

/-- Codes of an integer window are taken as they are. -/
theorem elemBits_written_codes {codes : List Nat} (h15 : win ≠ 15) (h8 : win ≠ 8) (tag : Bool) (h : i.val < codes.length) :
    elemBits (s.writeKey (scratchAt k off) (packElems win codes) tag) k win off i.val = codes[i.val] % 2 ^ (8 * elemBytes win) :=
  elemBits_bytes h8 h15 (State.holds_writeKey _ _ tag canonical) i.val h
end

/-! ### Block-scaled windows (R85) -/

/-- The values of a block of 32 elements. -/
def blockVals (a : Acc) (b : Nat) : List Ext := ((a.elems.toList.drop (32 * b)).take 32).map (elemExt a.mode)
/-- The codes of a block. -/
def blockCodes (t : Tile) (a : Acc) (win : Nat) (rm : Rm) (b : Nat) : List Nat :=
  (mxEncode t.table win rm (mxScale win (blockVals a b)) (blockVals a b)).map (·.1)
/-- A block is written, and its scale byte. -/
def drainBlock (t : Tile) (a : Acc) (k off win : Nat) (rm : Rm) (s : State) (b : Nat) : State :=
  (s.writeKey (scratchAt k (off + winBytes win (32 * b))) (packElems win (blockCodes t a win rm b)) false).writeKey
    (scratchAt k (scaleOff (t.soff win) win off (32 * b))) [BitVec.ofNat 8 (mxScale win (blockVals a b))] false

theorem drainTo_blocks (s : State) (k n off : Nat) {win : Nat} (rm : Rm) (sat : Bool) (mx : isMx win = true) :
    drainTo s k n off win rm sat = (List.range 8).foldl (drainBlock (s.tile k) ((s.tile k).accOf n) k off win rm) s := by
  have h15 : win ≠ 15 := by
    rintro rfl
    exact absurd mx (by decide)
  rw [drainTo, if_neg h15, if_pos mx]
  rfl

theorem mxEncode_length (tab : Nat → Lane) (win : Nat) (rm : Rm) (q : Nat) (l : List Ext) : (mxEncode tab win rm q l).length = l.length := by
  unfold mxEncode
  split
  · exact List.length_map ..
  · exact List.length_map ..
theorem blockVals_length (a : Acc) {b : Nat} (h : b < 8) : (blockVals a b).length = 32 := by
  simp [blockVals]
  omega
theorem blockCodes_length (t : Tile) (a : Acc) (win : Nat) (rm : Rm) {b : Nat} (h : b < 8) : (blockCodes t a win rm b).length = 32 := by
  rw [blockCodes, List.length_map, mxEncode_length, blockVals_length a h]

/-- Bytes of a block of 32 elements. -/
def blockBytes (win : Nat) : Nat := if win = 8 then 16 else 32

theorem isMx_cases {win : Nat} (mx : isMx win = true) : win = 8 ∨ (win ≠ 8 ∧ win ≠ 15 ∧ elemBytes win = 1 ∧ winNibbles win = 2) := by
  rcases of_decide_eq_true mx with rfl | rfl | rfl | rfl
  · exact .inr (by decide)
  · exact .inr (by decide)
  · exact .inr (by decide)
  · exact .inl rfl

/-- Element `r` of block `b` has the scale byte of its block. -/
theorem scaleOff_block {win off : Nat} (aligned : off % 64 = 0) (soff b : Nat) {r : Nat} (hr : r < 32) :
    scaleOff soff win off (32 * b + r) = scaleOff soff win off 0 + b := by
  unfold scaleOff
  split
  · omega
  · omega

section
variable {win : Nat} (mx : isMx win = true)
include mx

theorem winBytes_block (b : Nat) : winBytes win (32 * b) = blockBytes win * b := by
  rcases isMx_cases mx with rfl | ⟨h8, _, _, nibbles⟩
  · show (32 * b * 1 + 1) / 2 = 16 * b
    omega
  · rw [winBytes, nibbles, blockBytes, if_neg h8]
    omega

theorem packElems_block_length {codes : List Nat} (h : codes.length = 32) : (packElems win codes).length = blockBytes win := by
  rcases isMx_cases mx with rfl | ⟨h8, _, bytes, _⟩
  · rw [(packElems_nibbles codes).1, h]
    rfl
  · rw [packElems_bytes h8, bytes, flatMap_length (leBytes_length 1), h, blockBytes, if_neg h8]

/-- Element `r` of block `b`, as the window reads it. -/
theorem elemBits_block (s : State) (k off b r : Nat) :
    elemBits s k win off (32 * b + r) = elemBits s k win (off + winBytes win (32 * b)) r := by
  rw [winBytes_block mx]
  rcases isMx_cases mx with rfl | ⟨h8, h15, bytes, _⟩
  · have at' : off + (32 * b + r) / 2 = off + blockBytes 8 * b + r / 2 := by
      rw [blockBytes, if_pos rfl]
      omega
    have parity : (32 * b + r) % 2 = r % 2 := by omega
    rw [elemBits, elemBits, if_pos rfl, if_pos rfl, at', parity]
  · have at' : off + (32 * b + r) * 1 = off + blockBytes win * b + r * 1 := by
      rw [blockBytes, if_neg h8]
      omega
    rw [elemBits, elemBits, if_neg h8, if_neg h8, if_neg h15, if_neg h15, bytes, at']

theorem elemBits_code {s : State} {k base : Nat} {codes : List Nat} (holds : s.Holds (scratchAt k base) (packElems win codes)) (r : Nat)
    (h : r < codes.length) : elemBits s k win base r = codes[r] % 2 ^ (if win = 8 then 4 else 8) := by
  rcases isMx_cases mx with rfl | ⟨h8, h15, bytes, _⟩
  · exact elemBits_nibbles holds r h
  · rw [elemBits_bytes h8 h15 holds r h, bytes, if_neg h8]
end

theorem mxScale_lt (win : Nat) (l : List Ext) : mxScale win l < 256 := by
  unfold mxScale
  split
  · decide
  · dsimp only
    split
    · decide
    · omega

section
variable {t : Tile} {a : Acc} {k off win b : Nat} {rm : Rm} (mx : isMx win = true) (hb : b < 8) (aligned : off % 64 = 0)
  (apart : scaleOff (t.soff win) win off 0 + 7 < off ∨ off + 8 * blockBytes win ≤ scaleOff (t.soff win) win off 0)
include mx hb aligned apart

/-- After all blocks have been written, block `b` and its scale byte stand in the slot. -/
theorem drainBlocks_hold {s : State} (canonical : Memory.wf s.mem = true) :
    ((List.range 8).foldl (drainBlock t a k off win rm) s).Holds (scratchAt k (off + winBytes win (32 * b)))
        (packElems win (blockCodes t a win rm b)) ∧
      ((List.range 8).foldl (drainBlock t a k off win rm) s).Holds (scratchAt k (scaleOff (t.soff win) win off 0 + b))
        [BitVec.ofNat 8 (mxScale win (blockVals a b))] := by
  have length : ∀ c, c < 8 → (packElems win (blockCodes t a win rm c)).length = blockBytes win :=
    fun c hc => packElems_block_length mx (blockCodes_length t a win rm hc)
  have scale : ∀ c, scaleOff (t.soff win) win off (32 * c) = scaleOff (t.soff win) win off 0 + c :=
    fun c => scaleOff_block aligned (t.soff win) c (r := 0) (by decide)
  have bytes : ∀ c, winBytes win (32 * c) = blockBytes win * c := winBytes_block mx
  have wf : ∀ (u : State) (c : Nat), Memory.wf u.mem = true →
      Memory.wf (u.writeKey (scratchAt k (off + winBytes win (32 * c))) (packElems win (blockCodes t a win rm c)) false).mem = true :=
    fun u c h => Memory.wf_write _ _ h
  have place : ∀ x, scratchAt k x = scratchAt k 0 + x := fun x => by rw [← scratchAt_add, Nat.zero_add]
  have size : blockBytes win = 16 ∨ blockBytes win = 32 := by
    unfold blockBytes
    split
    · exact .inl rfl
    · exact .inr rfl
  refine foldl_of_step (Q := fun u => Memory.wf u.mem = true)
    (P := fun u => u.Holds (scratchAt k (off + winBytes win (32 * b))) (packElems win (blockCodes t a win rm b)) ∧
      u.Holds (scratchAt k (scaleOff (t.soff win) win off 0 + b)) [BitVec.ofNat 8 (mxScale win (blockVals a b))])
    (List.mem_range.mpr hb) (fun u c _ h => Memory.wf_write _ _ (wf u c h)) (fun u h => ?_) (fun u c hc other h held => ?_) canonical
  · rw [drainBlock, scale]
    refine ⟨(State.holds_writeKey _ _ false h).writeKey _ _ _ (wf u b h) ?_, State.holds_writeKey _ _ false (wf u b h)⟩
    rw [length b hb, bytes, place, place (scaleOff (t.soff win) win off 0 + b), List.length_singleton]
    rcases size with e | e
    · rw [e] at apart ⊢
      omega
    · rw [e] at apart ⊢
      omega
  · have hc := List.mem_range.mp hc
    obtain ⟨codes, scales⟩ := held
    rw [drainBlock, scale]
    refine ⟨(codes.writeKey _ _ _ h ?_).writeKey _ _ _ (wf u c h) ?_, (scales.writeKey _ _ _ h ?_).writeKey _ _ _ (wf u c h) ?_⟩
    · rw [length b hb, length c hc, bytes, bytes, place, place (off + blockBytes win * c)]
      rcases size with e | e
      · rw [e]
        omega
      · rw [e]
        omega
    · rw [length b hb, bytes, place, place (scaleOff (t.soff win) win off 0 + c), List.length_singleton]
      rcases size with e | e
      · rw [e] at apart ⊢
        omega
      · rw [e] at apart ⊢
        omega
    · rw [length c hc, bytes, place, place (off + blockBytes win * c), List.length_singleton]
      rcases size with e | e
      · rw [e] at apart ⊢
        omega
      · rw [e] at apart ⊢
        omega
    · rw [place, place (scaleOff (t.soff win) win off 0 + c), List.length_singleton, List.length_singleton]
      omega

/-- Element `r` of block `b` and its scale byte, as the window reads them. -/
theorem drainBlocks_elem {s : State} (canonical : Memory.wf s.mem = true) {r : Nat} (hr : r < 32) :
    scaleByte ((List.range 8).foldl (drainBlock t a k off win rm) s) k (t.soff win) win off (32 * b + r) = mxScale win (blockVals a b) ∧
      elemBits ((List.range 8).foldl (drainBlock t a k off win rm) s) k win off (32 * b + r) =
        ((mxEncode t.table win rm (mxScale win (blockVals a b)) (blockVals a b)).getD r (0, 0)).1 % 2 ^ (if win = 8 then 4 else 8) := by
  obtain ⟨codes, scales⟩ := drainBlocks_hold (rm := rm) mx hb aligned apart canonical
  have inside : r < (blockCodes t a win rm b).length := by rw [blockCodes_length t a win rm hb]; exact hr
  have code : (blockCodes t a win rm b)[r] = ((mxEncode t.table win rm (mxScale win (blockVals a b)) (blockVals a b)).getD r (0, 0)).1 := by
    have there : r < (mxEncode t.table win rm (mxScale win (blockVals a b)) (blockVals a b)).length := by
      rw [mxEncode_length, blockVals_length a hb]
      exact hr
    simp [blockCodes, there]
  refine ⟨?_, ?_⟩
  · have byte := scales 0 Nat.zero_lt_one
    rw [Nat.add_zero] at byte
    rw [scaleByte, if_pos mx, scaleOff_block aligned _ _ hr, byte]
    exact (BitVec.toNat_ofNat ..).trans (Nat.mod_eq_of_lt (mxScale_lt win _))
  · rw [elemBits_block mx, elemBits_code mx codes r inside, code]
end

/-! ### The drains retire -/

section
variable {s : State} {k n slot win : Nat} {rm : Rm} {sat z : Bool} {rest : List EngOp}

theorem engineStep_drain (h : (s.tile k).eng = .drain n slot win rm sat z :: rest) : s.engineStep k =
    drained (drainTo (s.popped k rest) k n ((s.tile k).slot slot).off win rm sat) k n slot z := by
  rw [State.engineStep_retires h rfl, State.retire, State.popped_tile]
  rfl

theorem drainTo_popped_tile (off : Nat) : (drainTo (s.popped k rest) k n off win rm sat).tile k = { s.tile k with eng := rest } :=
  (State.tile_of_tiles (drainTo_tiles ..) k).trans (s.popped_tile k rest)

/-- The code that DRAINQ gives element `i`. -/
def requantCode (a : Acc) (corr mult : List Int) (csel : Bool) (shift : Nat) (zout : Int) (bits : Nat) (sg : Bool) (i : Nat) : Nat :=
  ((requant (elemInt (a.elems[i]?.getD 0)) (corr.getD (if csel then i % 16 else i / 16) 0) (mult.getD (i % 16) 0) shift zout
    (intLo bits sg) (intHi bits sg)) % (2 ^ bits : Nat)).toNat

theorem engineStep_drainq {corr mult : List Int} {csel : Bool} {shift : Nat} {zout : Int} {bits : Nat} {sg : Bool}
    (h : (s.tile k).eng = .drainq n slot win corr mult csel shift zout z :: rest) (kind : winKind win = .int bits sg) : s.engineStep k =
    drained ((s.popped k rest).writeKey (scratchAt k ((s.tile k).slot slot).off) (packElems win ((List.range 256).map fun i =>
      requantCode ((s.tile k).accOf n) corr mult csel shift zout bits sg i)) false) k n slot z := by
  rw [State.engineStep_retires h rfl, State.retire, State.popped_tile, kind]
  rfl

theorem drain_retires (h : (s.tile k).eng = .drain n slot win rm sat z :: rest) (hn : n < 8) (hs : slot < 256) :
    (((s.engineStep k).tile k).slot slot).state = .ready ∧ ((s.engineStep k).tile k).eng = rest ∧
      ((s.engineStep k).tile k).accOf n =
        (if z then { (s.tile k).accOf n with elems := Vector.replicate 256 0 } else (s.tile k).accOf n) := by
  rw [engineStep_drain h]
  exact drained_leaves z (drainTo_popped_tile _) hn hs

theorem engineStep_drain_mem (h : (s.tile k).eng = .drain n slot win rm sat z :: rest) :
    (s.engineStep k).mem = (drainTo (s.popped k rest) k n ((s.tile k).slot slot).off win rm sat).mem := by
  rw [engineStep_drain h]
  rfl
end

theorem elemBits_of_mem {s t : State} (h : t.mem = s.mem) (k w base i : Nat) : elemBits t k w base i = elemBits s k w base i := by
  rw [elemBits, elemBits, State.readNat, State.readNat, State.readAt, State.readAt, h]
  rfl
theorem scaleByte_of_mem {s t : State} (h : t.mem = s.mem) (k soff w base i : Nat) : scaleByte t k soff w base i = scaleByte s k soff w base i := by
  rw [scaleByte, scaleByte, h]
theorem readNat_of_mem {s t : State} (h : t.mem = s.mem) (key n : Nat) : t.readNat key n = s.readNat key n := by
  rw [State.readNat, State.readNat, State.readAt, State.readAt, h]

theorem winKind_int {win bits : Nat} {sg : Bool} (h : winKind win = .int bits sg) : win ≠ 8 ∧ win ≠ 15 ∧ 8 * elemBytes win = bits := by
  unfold winKind at h
  split at h <;> cases h
  all_goals decide

theorem drainResult : DrainResult := by
  rintro s t k n slot win rm sat z rest a off i canonical hn hslot rfl rfl rfl
  have wf : Memory.wf (s.popped k rest).mem = true := canonical
  refine ⟨fun h low high => ?_, fun corr mult csel shift zout bits sg h kind => ?_⟩
  · obtain ⟨ready, eng, acc⟩ := drain_retires h hn hslot
    have mem := engineStep_drain_mem h
    have tile := s.popped_tile k rest
    refine ⟨ready, eng, acc, fun raw => ?_, fun h15 plain => ?_, fun mx aligned apart => ?_⟩
    · subst raw
      rw [readNat_of_mem mem, drainTo_raw wf i, tile]
      rfl
    · rw [elemBits_of_mem mem, drainTo_encoded wf i h15 plain, tile]
      rfl
    · rw [drainTo_blocks _ _ _ _ _ _ mx, tile] at mem
      have last : scaleOff ((s.tile k).soff win) win ((s.tile k).slot slot).off 255 =
          scaleOff ((s.tile k).soff win) win ((s.tile k).slot slot).off 0 + 7 := scaleOff_block (b := 7) (r := 31) aligned _ (by decide)
      have whole : winBytes win 256 = 8 * blockBytes win := (winBytes_block mx 8).trans (Nat.mul_comm ..)
      rw [last, whole] at apart
      have block : i.val / 32 < 8 := by omega
      have place : 32 * (i.val / 32) + i.val % 32 = i.val := Nat.div_add_mod ..
      obtain ⟨scale, elem⟩ := drainBlocks_elem (t := { s.tile k with eng := rest }) (a := (s.tile k).accOf n) (rm := rm) mx block aligned apart wf
        (Nat.mod_lt i.val (by decide))
      rw [place] at scale elem
      refine ⟨blockVals ((s.tile k).accOf n) (i.val / 32), _, ?_, rfl, ?_, ?_⟩
      · rw [blockVals, Nat.mul_comm]
      · rw [scaleByte_of_mem mem]
        exact scale
      · rw [elemBits_of_mem mem]
        exact elem
  · obtain ⟨h8, h15, size⟩ := winKind_int kind
    have code := elemBits_written_codes wf i (k := k) (off := ((s.tile k).slot slot).off) (codes := (List.range 256).map fun i =>
      requantCode ((s.tile k).accOf n) corr mult csel shift zout bits sg i) h15 h8 false (by simp)
    have tile := s.popped_tile k rest
    rw [engineStep_drainq h kind]
    generalize hu : (s.popped k rest).writeKey (scratchAt k ((s.tile k).slot slot).off) (packElems win
      ((List.range 256).map fun i => requantCode ((s.tile k).accOf n) corr mult csel shift zout bits sg i)) false = u at code ⊢
    have tileu : u.tile k = { s.tile k with eng := rest } := by
      rw [← hu]
      exact tile
    obtain ⟨ready, _, acc⟩ := drained_leaves z tileu hn hslot
    have mem : (drained u k n slot z).mem = u.mem := rfl
    refine ⟨ready, acc, ?_⟩
    rw [elemBits_of_mem mem, code, size, List.getElem_map, List.getElem_range, requantCode]
    have elem : ((s.tile k).accOf n).elems[i.val]?.getD 0 = ((s.tile k).accOf n).elems[i] := by simp
    rw [elem]
    refine Nat.mod_eq_of_lt ?_
    have pos : (0 : Int) < (2 ^ bits : Nat) := by exact_mod_cast Nat.two_pow_pos bits
    have low := Int.emod_nonneg (requant (elemInt ((s.tile k).accOf n).elems[i]) (corr.getD (if csel = true then i.val % 16 else i.val / 16) 0)
      (mult.getD (i.val % 16) 0) shift zout (intLo bits sg) (intHi bits sg)) pos.ne'
    have high := Int.emod_lt_of_pos (requant (elemInt ((s.tile k).accOf n).elems[i]) (corr.getD (if csel = true then i.val % 16 else i.val / 16) 0)
      (mult.getD (i.val % 16) 0) shift zout (intLo bits sg) (intHi bits sg)) pos
    exact (Int.toNat_lt low).mpr high

/-- Settles O28: issue by the rule of each of its checks; retirement by the bytes that its writes leave, block by block in an MX window,
where each later write lies elsewhere. -/
theorem drainResults : Obligations.DrainResults := ⟨drainsIssue, drainResult⟩

end Sys2Proof.Machine
end

section
/-! PROOF. The rank order of sieve keys, and admission to a list (R93): FP32 keys compare as their sign and magnitude do. -/

namespace Sys2Proof.Machine

/-! ### Exact comparison -/

theorem Dy.lt_of_exponents (a b c : Int) (k l : Nat) : Dy.lt ⟨a, c + k⟩ ⟨b, c + l⟩ = decide (a * 2 ^ k < b * 2 ^ l) := by
  unfold Dy.lt Dy.add
  dsimp only
  rw [decide_eq_decide]
  rcases Nat.le_total k l with h | h
  · have low : min (c + k) (c + l) = c + k := by omega
    have first : (c + k - (c + k : Int)).toNat = 0 := by omega
    have second : (c + l - (c + k : Int)).toNat = l - k := by omega
    have split' : (2 : Int) ^ l = 2 ^ (l - k) * 2 ^ k := by rw [← pow_add]; congr 1; omega
    have pos : (0 : Int) < 2 ^ k := by positivity
    rw [low, first, second, split', ← mul_assoc, mul_lt_mul_iff_of_pos_right pos]
    push_cast
    constructor
    · intro; nlinarith
    · intro; nlinarith
  · have low : min (c + k) (c + l) = c + l := by omega
    have first : (c + k - (c + l : Int)).toNat = k - l := by omega
    have second : (c + l - (c + l : Int)).toNat = 0 := by omega
    have split' : (2 : Int) ^ k = 2 ^ (k - l) * 2 ^ l := by rw [← pow_add]; congr 1; omega
    have pos : (0 : Int) < 2 ^ l := by positivity
    rw [low, first, second, split', ← mul_assoc, mul_lt_mul_iff_of_pos_right pos]
    push_cast
    constructor
    · intro; linarith
    · intro; linarith

/-! ### Keys as sign and magnitude (R78) -/

/-- The magnitude of a key: exponent and fraction as one number. -/
def keyMag (x : Nat) : Nat := x % 2 ^ 31
/-- The key is negative. -/
def keyNeg (x : Nat) : Bool := decide (x / 2 ^ 31 % 2 = 1)
/-- The magnitude of infinity. -/
def infMag : Nat := 0x7F800000
/-- What a magnitude stands for, in units of the smallest subnormal. -/
def magVal (m : Nat) : Nat := if m / 2 ^ 23 = 0 then m % 2 ^ 23 else (2 ^ 23 + m % 2 ^ 23) * 2 ^ (m / 2 ^ 23 - 1)
/-- The rank of a key among all keys. -/
def keyRank (x : Nat) : Int := if keyNeg x then -(keyMag x : Int) else keyMag x

theorem magVal_lt_succ (m : Nat) : magVal m < magVal (m + 1) := by
  unfold magVal
  by_cases full : m % 2 ^ 23 = 2 ^ 23 - 1
  · have next : (m + 1) / 2 ^ 23 = m / 2 ^ 23 + 1 := by omega
    have zero : (m + 1) % 2 ^ 23 = 0 := by omega
    rw [next, zero, full, if_neg (Nat.succ_ne_zero _), Nat.add_sub_cancel, Nat.add_zero]
    split
    · next h => rw [h]; decide
    · next h =>
      obtain ⟨e, he⟩ := Nat.exists_eq_succ_of_ne_zero h
      have pos := Nat.two_pow_pos e
      rw [he, Nat.succ_sub_one, Nat.succ_eq_add_one, Nat.pow_succ]
      omega
  · have next : (m + 1) / 2 ^ 23 = m / 2 ^ 23 := by omega
    have more : (m + 1) % 2 ^ 23 = m % 2 ^ 23 + 1 := by omega
    rw [next, more]
    split
    · omega
    · exact Nat.mul_lt_mul_of_pos_right (by omega) (Nat.two_pow_pos _)

theorem magVal_strictMono : StrictMono magVal := strictMono_nat_of_lt_succ magVal_lt_succ
theorem magVal_zero : magVal 0 = 0 := rfl

/-- A key's exact value with its sign. -/
def signed (neg : Bool) (m : Nat) : Int := if neg then -(m : Int) else m

theorem signed_magVal_lt (n n' : Bool) (m m' : Nat) : signed n (magVal m) < signed n' (magVal m') ↔ signed n m < signed n' m' := by
  have lt := magVal_strictMono.lt_iff_lt (a := m) (b := m')
  have gt := magVal_strictMono.lt_iff_lt (a := m') (b := m)
  have zero := magVal_strictMono.lt_iff_lt (a := 0) (b := m)
  have zero' := magVal_strictMono.lt_iff_lt (a := 0) (b := m')
  rw [magVal_zero] at zero zero'
  unfold signed
  cases n with
  | false =>
    cases n' with
    | false => simpa using lt
    | true => simp only [Bool.false_eq_true, if_false, if_true]; omega
  | true =>
    cases n' with
    | false => simp only [Bool.false_eq_true, if_false, if_true]; omega
    | true => simpa using gt

/-- A finite key decodes to its sign and value. -/
theorem decode_finite {x : Nat} (h : keyMag x < infMag) : ∃ m k : Nat, decodeFloat fp32 x = .num (keyNeg x) m (fp32.minExp + (k : Int)) ∧
    m * 2 ^ k = magVal (keyMag x) := by
  have exponent : x / 2 ^ 23 % 2 ^ 8 = keyMag x / 2 ^ 23 := by unfold keyMag; omega
  have fraction : x % 2 ^ 23 = keyMag x % 2 ^ 23 := by unfold keyMag; omega
  have ordinary : ¬ x / 2 ^ 23 % 2 ^ 8 = 2 ^ 8 - 1 := by unfold keyMag infMag at *; omega
  have decoded : decodeFloat fp32 x = if x / 2 ^ 23 % 2 ^ 8 = 0 then .num (keyNeg x) (x % 2 ^ 23) fp32.minExp
      else .num (keyNeg x) (2 ^ 23 + x % 2 ^ 23) (fp32.minExp + (x / 2 ^ 23 % 2 ^ 8 - 1 : Nat)) :=
    (if_neg fun h => ordinary (of_decide_eq_true h)).trans rfl
  rw [exponent, fraction] at decoded
  rw [decoded, magVal]
  split
  · exact ⟨_, 0, by rw [Int.natCast_zero, Int.add_zero], by rw [Nat.pow_zero, Nat.mul_one]⟩
  · exact ⟨_, _, rfl, rfl⟩

theorem decode_special {x : Nat} (h : infMag ≤ keyMag x) : decodeFloat fp32 x = if keyMag x = infMag then .inf (keyNeg x) else .nan := by
  have exponent : x / 2 ^ 23 % 2 ^ 8 = 2 ^ 8 - 1 := by unfold keyMag infMag at h; omega
  have fraction : (x % 2 ^ 23 = 0) ↔ keyMag x = infMag := by unfold keyMag infMag at *; omega
  have decoded : decodeFloat fp32 x = if FmtKind.ieee = .ieee ∧ x % 2 ^ 23 = 0 then .inf (keyNeg x) else .nan :=
    (if_pos (decide_eq_true exponent)).trans rfl
  rw [decoded]
  simp only [true_and, fraction]

theorem keyNan_iff (x : Nat) : keyNan x = true ↔ infMag < keyMag x := by
  rw [keyNan]
  by_cases h : keyMag x < infMag
  · obtain ⟨m, k, decoded, _⟩ := decode_finite h
    rw [decoded]
    simp only [Ext.isNan, Bool.false_eq_true, false_iff]
    omega
  · rw [decode_special (Nat.not_lt.mp h)]
    split
    · simp only [Ext.isNan, Bool.false_eq_true, false_iff]
      omega
    · simp only [Ext.isNan, true_iff]
      omega

theorem lt_num_of_inf (n n' : Bool) (m : Nat) (e : Int) : Ext.lt (.inf n) (.num n' m e) = n := by
  cases n with
  | false => rfl
  | true => rfl
theorem lt_inf_of_num (n n' : Bool) (m : Nat) (e : Int) : Ext.lt (.num n m e) (.inf n') = !n' := rfl
theorem signed_inf_lt {n n' : Bool} {m : Nat} (h : m < infMag) : n = true ↔ signed n infMag < signed n' m := by
  unfold signed
  cases n with
  | false =>
    cases n' with
    | false => simp only [Bool.false_eq_true, if_false, false_iff]; omega
    | true => simp only [Bool.false_eq_true, if_false, if_true, false_iff]; omega
  | true =>
    cases n' with
    | false => simp only [Bool.false_eq_true, if_false, if_true, true_iff]; omega
    | true => simp only [if_true, true_iff]; omega
theorem lt_signed_inf {n n' : Bool} {m : Nat} (h : m < infMag) : (!n') = true ↔ signed n m < signed n' infMag := by
  unfold signed
  cases n' with
  | false =>
    cases n with
    | false => simp only [Bool.not_false, Bool.false_eq_true, if_false, true_iff]; omega
    | true => simp only [Bool.not_false, Bool.false_eq_true, if_false, if_true, true_iff]; omega
  | true =>
    cases n with
    | false => simp only [Bool.not_true, Bool.false_eq_true, if_false, if_true, false_iff]; omega
    | true => simp only [Bool.not_true, Bool.false_eq_true, if_true, false_iff]; omega

/-- Keys that are no NaN compare as their ranks do. -/
theorem keyAbove_iff {x y : Nat} (hx : keyNan x = false) (hy : keyNan y = false) : keyAbove x y = true ↔ keyRank y < keyRank x := by
  have boundX : keyMag x ≤ infMag := Nat.not_lt.mp (mt (keyNan_iff x).mpr (by rw [hx]; exact Bool.false_ne_true))
  have boundY : keyMag y ≤ infMag := Nat.not_lt.mp (mt (keyNan_iff y).mpr (by rw [hy]; exact Bool.false_ne_true))
  have rank : ∀ z, keyRank z = signed (keyNeg z) (keyMag z) := fun _ => rfl
  have inf : 0 < infMag := by decide
  rw [keyAbove, rank, rank]
  by_cases finiteX : keyMag x < infMag
  · obtain ⟨m, k, decodedX, valueX⟩ := decode_finite finiteX
    by_cases finiteY : keyMag y < infMag
    · obtain ⟨m', k', decodedY, valueY⟩ := decode_finite finiteY
      have exact' : ∀ (n : Bool) (m k : Nat), (if n then -(m : Int) else m) * 2 ^ k = signed n (m * 2 ^ k) := by
        intro n m k
        cases n with
        | false => simp [signed]
        | true => simp [signed]
      rw [decodedX, decodedY, ← signed_magVal_lt, ← valueX, ← valueY, ← exact', ← exact']
      show Dy.lt ⟨_, _⟩ ⟨_, _⟩ = true ↔ _
      rw [Dy.lt_of_exponents, decide_eq_true_eq]
    · have top : keyMag y = infMag := by omega
      rw [decodedX, decode_special (Nat.not_lt.mp finiteY), if_pos top, top, lt_num_of_inf]
      exact signed_inf_lt finiteX
  · have top : keyMag x = infMag := by omega
    rw [decode_special (Nat.not_lt.mp finiteX), if_pos top, top]
    by_cases finiteY : keyMag y < infMag
    · obtain ⟨m', k', decodedY, _⟩ := decode_finite finiteY
      rw [decodedY, lt_inf_of_num]
      exact lt_signed_inf finiteY
    · have topY : keyMag y = infMag := by omega
      rw [decode_special (Nat.not_lt.mp finiteY), if_pos topY, topY]
      cases keyNeg y with
      | false => cases keyNeg x with
        | false => decide
        | true => decide
      | true => cases keyNeg x with
        | false => decide
        | true => decide

/-! ### Ranked pairs -/

/-- Keys as a list keeps them: no NaN and no −0. -/
def Ranked (x : Nat) : Prop := x < 2 ^ 32 ∧ keyNan x = false ∧ x ≠ 0x80000000

theorem keyRank_inj {x y : Nat} (hx : Ranked x) (hy : Ranked y) (h : keyRank x = keyRank y) : x = y := by
  obtain ⟨smallX, _, zeroX⟩ := hx
  obtain ⟨smallY, _, zeroY⟩ := hy
  unfold keyRank keyNeg keyMag at h
  by_cases nx : x / 2 ^ 31 % 2 = 1
  · by_cases ny : y / 2 ^ 31 % 2 = 1
    · rw [decide_eq_true nx, decide_eq_true ny, if_pos rfl, if_pos rfl] at h
      omega
    · rw [decide_eq_true nx, decide_eq_false ny, if_pos rfl, if_neg Bool.false_ne_true] at h
      omega
  · by_cases ny : y / 2 ^ 31 % 2 = 1
    · rw [decide_eq_false nx, decide_eq_true ny, if_pos rfl, if_neg Bool.false_ne_true] at h
      omega
    · rw [decide_eq_false nx, decide_eq_false ny, if_neg Bool.false_ne_true, if_neg Bool.false_ne_true] at h
      omega

theorem sieveKey_ranked {x : Nat} (h : x < 2 ^ 32) (nan : keyNan x = false) : Ranked (sieveKey x) := by
  unfold sieveKey
  split
  · exact ⟨by decide, by decide, by decide⟩
  · next other => exact ⟨h, nan, other⟩

/-- One pair ranks before another by key, then by index. -/
theorem ranksBefore_iff {a b : Pair} (ha : Ranked a.1) (hb : Ranked b.1) :
    ranksBefore a b = true ↔ keyRank b.1 < keyRank a.1 ∨ (a.1 = b.1 ∧ a.2 < b.2) := by
  rw [ranksBefore, Bool.or_eq_true, Bool.and_eq_true, decide_eq_true_eq, decide_eq_true_eq, keyAbove_iff ha.2.1 hb.2.1]

theorem ranksBefore_trans {a b c : Pair} (ha : Ranked a.1) (hb : Ranked b.1) (hc : Ranked c.1) (h : ranksBefore a b = true)
    (g : ranksBefore b c = true) : ranksBefore a c = true := by
  rw [ranksBefore_iff ha hb] at h
  rw [ranksBefore_iff hb hc] at g
  rw [ranksBefore_iff ha hc]
  rcases h with h | ⟨key, index⟩
  · rcases g with g | ⟨key', _⟩
    · exact .inl (g.trans h)
    · exact .inl (key' ▸ h)
  · rcases g with g | ⟨key', index'⟩
    · exact .inl (key ▸ g)
    · exact .inr ⟨key.trans key', index.trans index'⟩

theorem ranksBefore_total {a b : Pair} (ha : Ranked a.1) (hb : Ranked b.1) (ne : a ≠ b) (h : ranksBefore a b = false) :
    ranksBefore b a = true := by
  rw [ranksBefore_iff hb ha]
  rw [← Bool.not_eq_true, ranksBefore_iff ha hb, not_or] at h
  obtain ⟨key, index⟩ := h
  rcases lt_or_eq_of_le (not_lt.mp key) with lt | eq
  · exact .inl lt
  · have same := keyRank_inj ha hb eq
    refine .inr ⟨same.symm, ?_⟩
    rcases Nat.lt_trichotomy a.2 b.2 with lt | eq' | gt
    · exact absurd ⟨same, lt⟩ index
    · exact absurd (Prod.ext same eq') ne
    · exact gt

theorem mem_rankInsert {l : List Pair} {x y : Pair} : y ∈ rankInsert l x ↔ y ∈ l ∨ y = x := by
  induction l with
  | nil => simp [rankInsert]
  | cons z l ih =>
    rw [rankInsert]
    split
    · next same =>
      subst same
      simp only [List.mem_cons]
      tauto
    · split
      · simp only [List.mem_cons]
        tauto
      · rw [List.mem_cons, ih, List.mem_cons]
        tauto

/-- A ranked list stays ranked as a pair is put into it. -/
theorem rankInsert_pairwise {l : List Pair} {x : Pair} (ranked : l.Pairwise (fun a b => ranksBefore a b = true)) (hl : ∀ y ∈ l, Ranked y.1)
    (hx : Ranked x.1) : (rankInsert l x).Pairwise (fun a b => ranksBefore a b = true) := by
  induction l with
  | nil => exact List.pairwise_singleton ..
  | cons y l ih =>
    obtain ⟨first, ranked⟩ := List.pairwise_cons.mp ranked
    obtain ⟨hy, hl⟩ := List.forall_mem_cons.mp hl
    rw [rankInsert]
    split
    · exact List.pairwise_cons.mpr ⟨first, ranked⟩
    · next ne =>
      split
      · next before =>
        exact List.pairwise_cons.mpr ⟨List.forall_mem_cons.mpr ⟨before, fun z hz => ranksBefore_trans hx hy (hl z hz) before (first z hz)⟩,
          List.pairwise_cons.mpr ⟨first, ranked⟩⟩
      · next after =>
        refine List.pairwise_cons.mpr ⟨fun z hz => ?_, ih ranked hl⟩
        rcases mem_rankInsert.mp hz with hz | rfl
        · exact first z hz
        · exact ranksBefore_total hx hy ne (Bool.eq_false_iff.mpr after)

/-! ### Admission (R93) -/

theorem sieveAdmission : SieveAdmission := by
  intro k l x ranked short small keys
  refine ⟨fun nan => by rw [admitPair, if_pos nan], fun number => ?_⟩
  have admitted : admitPair k l x = (rankInsert l (sieveKey x.1, x.2)).take k := by rw [admitPair, number, if_neg Bool.false_ne_true]
  have whole : (rankInsert l (sieveKey x.1, x.2)).Pairwise (fun a b => ranksBefore a b = true) :=
    rankInsert_pairwise ranked keys (sieveKey_ranked small number)
  have both := List.take_append_drop k (rankInsert l (sieveKey x.1, x.2))
  rw [admitted]
  refine ⟨whole.sublist (List.take_sublist ..), List.length_take_le .., fun y hy => mem_rankInsert.mp (List.mem_of_mem_take hy), fun y hy out => ?_⟩
  have dropped : y ∈ (rankInsert l (sieveKey x.1, x.2)).drop k := by
    have there := mem_rankInsert.mpr hy
    rw [← both, List.mem_append] at there
    exact there.resolve_left out
  rw [← both, List.pairwise_append] at whole
  refine ⟨?_, fun v hv => whole.2.2 v hv y dropped⟩
  have more := List.length_pos_of_mem dropped
  rw [List.length_drop] at more
  rw [List.length_take]
  omega

end Sys2Proof.Machine
end

section
/-! PROOF. The sieve instructions at issue, and what the lists of an accumulator take as they retire (R93, R270, R271). -/

namespace Sys2Proof.Machine

/-! ### Issue (R270) -/

theorem listOk_ok {s : State} {n j : Nat} (h : j < sieveLists (s.here.accOf n).mode) : listOk n j s = .ok ⟨⟩ s := by
  simp only [listOk, op_bind, op_getT, op_require (decide_eq_true h)]

section Issue
variable {o s : State} {n m : Fin 8} {j q : Fin 16} {w : Fin 64} {sw : Bool} {x : Nat} (hs : s = o.engineDone) (idle : s.here.eng = [])
  (kind : kindOf s.cur ≠ 3) (mode : modeOf (s.here.accOf n).mode = 2)
include hs idle kind mode

theorem speg_through (list : j.val < sieveLists (s.here.accOf n).mode) (ready : Ready s [wr w]) :
    Through (exec (.speg n j w sw) o) s 4 (results [wr w]) (fun u => u.putX w (BitVec.ofNat 64
      ((s.here.accOf n).peg j + ((s.here.accOf n).list j).length * 2 ^ 32))) := by
  obtain ⟨t, ht, upd⟩ := writeN_seqFlow (s := s) (d := w) ((s.here.accOf n).peg j + ((s.here.accOf n).list j).length * 2 ^ 32)
    (ready.unbound (by simp [wr]))
  refine metaT_through hs idle (accKinds_of_ne kind) (reads := []) ready ?_ upd (KeepsFlow.putX ..)
  rw [← ht]
  simp only [op_bind, accMode_ok (ok := (· = 2)) (decide_eq_true mode), listOk_ok list, op_getT]

theorem spush_through (list : j.val < sieveLists (s.here.accOf n).mode) (ready : Ready s [wr w]) (hx : x = (s.here.getX w).toNat)
    (funded : Funded s) : Through (exec (.spush n j w sw) o) s 4 [] (fun u => (u.charged 1).queued
      (.spush n j (widenKey (sieveFmt (s.here.accOf n).mode) (x % 2 ^ 32)) (sieveBase (s.here.accOf n).mode + x / 2 ^ 32))) := by
  have read : readN w s = .ok x s := hx ▸ readN_ready (ready.unbound (by simp [wr]))
  have high : bf x 32 32 = x / 2 ^ 32 := hx ▸ bf_high_half _
  refine metaT_through hs idle (accKinds_of_ne kind) ready ?_ (.inr rfl) (KeepsFlow.charged_queued _ _ _)
  rw [← spend_issueEngine _ funded]
  simp only [op_bind, read, accMode_ok (ok := (· = 2)) (decide_eq_true mode), listOk_ok list, op_getT, high]

theorem smergeAcc_through (funded : Funded s) (mode' : modeOf (s.here.accOf m).mode = 2)
    (same : sieveLists (s.here.accOf m).mode = sieveLists (s.here.accOf n).mode) :
    Through (exec (.smerge n (.acc m) sw) o) s 4 [] (fun u => (u.charged 1).queued (.smergeAcc n m)) := by
  refine metaT_through hs idle (accKinds_of_ne kind) nofun ?_ (.inr rfl) (KeepsFlow.charged_queued _ _ _)
  rw [← spend_issueEngine _ funded]
  have both : decide (modeOf (s.here.accOf m).mode = 2 ∧ sieveLists (s.here.accOf m).mode = sieveLists (s.here.accOf n).mode) = true :=
    decide_eq_true ⟨mode', same⟩
  simp only [op_bind, accMode_ok (ok := (· = 2)) (decide_eq_true mode), op_getT,
    accMode_ok (ok := fun x => decide (x = 2 ∧ sieveLists (s.here.accOf m).mode = sieveLists (s.here.accOf n).mode)) both]

theorem smergeSlot_through (funded : Funded s) (operand : Operand s q (s.here.ring q).head 0 4096) :
    Through (exec (.smerge n (.slot q) sw) o) s 4 [] (fun u => (u.charged 1).queued (.smergeSlot n (s.here.ring q).head)) := by
  obtain ⟨used, ready, long, _⟩ := id operand
  have long' : 4096 ≤ (s.here.slot (s.here.ring q).head).len := long
  refine metaT_through hs idle (accKinds_of_ne kind) nofun ?_ (.inr rfl) (KeepsFlow.charged_queued _ _ _)
  rw [← spend_issueEngine _ funded]
  simp only [bind_of_ok (ringUsed_ok used), bind_of_ok (slotHolds_ok long'), bind_of_ok (accMode_ok (ok := (· = 2)) (decide_eq_true mode)),
    bind_of_ok (slotReady_ok ready), bind_of_ok (slotSound_ok idle operand)]

theorem sread_through (funded : Funded s) (fits : TailFits s q 0 4096) :
    Through (exec (.sread n q sw) o) s 4 [] (fun u => ((u.charged 1).fillTail q).queued (.sread n (s.here.ring q).tail)) := by
  obtain ⟨used, empty, long, _⟩ := fits
  have long' : 4096 ≤ (s.here.slot (s.here.ring q).tail).len := long
  refine metaT_through hs idle (accKinds_of_ne kind) nofun (t := s.modTile s.cur (·.takesTail q (.sread n (s.here.ring q).tail))) ?_ (.inr rfl)
    (KeepsFlow.takesTail ..)
  simp only [op_bind, ringUsed_ok used, slotHolds_ok long', accMode_ok (ok := (· = 2)) (decide_eq_true mode),
    drainIssue_ok _ rfl empty funded, op_seqFlow]

end Issue

theorem sieveIssue : SieveIssue := fun _ _ _ _ _ _ _ _ _ hs idle kind mode =>
  ⟨fun list ready => ⟨speg_through hs idle kind mode list ready, fun hx funded => spush_through hs idle kind mode list ready hx funded⟩,
    fun funded => ⟨fun mode' same => smergeAcc_through hs idle kind mode funded mode' same,
      fun operand => smergeSlot_through hs idle kind mode funded operand, fun fits => sread_through hs idle kind mode funded fits⟩⟩

/-! ### Lists in an accumulator (R71) -/

/-- A pair fits an entry. -/
def Fits (x : Pair) : Prop := x.1 < 2 ^ 32 ∧ x.2 < 2 ^ 40
/-- The entry that an element holds, if it is valid. -/
def entryOf (x : Nat) : Option Pair := if x / 2 ^ 7 % 2 = 1 then some (x / 2 ^ 48 % 2 ^ 32, x / 2 ^ 8 % 2 ^ 40) else none

theorem entryOf_pairElem {x : Pair} (h : Fits x) : entryOf (pairElem x).toNat = some x := by
  obtain ⟨key, index⟩ := x
  obtain ⟨hk, hi⟩ := h
  dsimp only at hk hi
  rw [entryOf, pairElem, BitVec.toNat_ofNat, if_pos (by omega)]
  exact congrArg some (Prod.ext (by dsimp only; omega) (by dsimp only; omega))
theorem entryOf_zero : entryOf (0 : Elem).toNat = none := by decide
theorem entryOf_fits {n : Nat} {x : Pair} (h : entryOf n = some x) : Fits x := by
  unfold entryOf at h
  split at h
  · cases h
    exact ⟨Nat.mod_lt _ (by decide), Nat.mod_lt _ (by decide)⟩
  · cases h

theorem Acc.list_eq (a : Acc) (j : Nat) : a.list j =
    ((List.range (256 / sieveLists a.mode)).map (fun i => (a.elems[j * (256 / sieveLists a.mode) + i]?.getD 0).toNat)).filterMap entryOf := rfl
theorem Acc.list_fits (a : Acc) (j : Nat) : ∀ x ∈ a.list j, Fits x := by
  intro x hx
  rw [Acc.list_eq, List.mem_filterMap] at hx
  obtain ⟨n, _, hn⟩ := hx
  exact entryOf_fits hn

theorem Acc.setList_mode (a : Acc) (j : Nat) (l : List Pair) : (a.setList j l).mode = a.mode := by rw [Acc.setList]

/-- As many elements as lists have room for. -/
theorem lists_room {m : Word} (h : sieveLists m ≤ 16) : 0 < 256 / sieveLists m ∧ sieveLists m * (256 / sieveLists m) = 256 := by
  unfold sieveLists at *
  have small : bf m.toNat 21 3 ≤ 4 := by
    by_contra c
    have : 2 ^ 5 ≤ 2 ^ bf m.toNat 21 3 := Nat.pow_le_pow_right (by decide) (by omega)
    omega
  interval_cases bf m.toNat 21 3
  all_goals decide

/-- The element that stands for an entry of a list, or for none. -/
def slotElem (x : Option Pair) : Elem := match x with | some x => pairElem x | none => 0

theorem filterMap_padded (l : List Pair) (hl : ∀ x ∈ l, Fits x) (c : Nat) (h : l.length ≤ c) :
    ((List.range c).map (fun i => (slotElem l[i]?).toNat)).filterMap entryOf = l := by
  induction l generalizing c with
  | nil =>
    rw [List.filterMap_eq_nil_iff]
    intro n hn
    obtain ⟨i, _, rfl⟩ := List.mem_map.mp hn
    exact entryOf_zero
  | cons x l ih =>
    obtain ⟨hx, hl⟩ := List.forall_mem_cons.mp hl
    obtain ⟨c, rfl⟩ := Nat.exists_eq_succ_of_ne_zero (Nat.ne_of_gt (Nat.lt_of_lt_of_le (Nat.succ_pos _) h))
    rw [List.range_succ_eq_map, List.map_cons, List.map_map, List.filterMap_cons]
    have first : entryOf (slotElem (x :: l)[0]?).toNat = some x := entryOf_pairElem hx
    rw [first]
    exact congrArg _ (ih hl c (Nat.le_of_succ_le_succ h))

section
variable {a : Acc} {j : Nat} {l : List Pair} (room : sieveLists a.mode ≤ 16) (hj : j < sieveLists a.mode)
include room hj

theorem list_index {r : Nat} (hr : r < 256 / sieveLists a.mode) : j * (256 / sieveLists a.mode) + r < 256 := by
  obtain ⟨pos, whole⟩ := lists_room room
  have := Nat.mul_le_mul_right (256 / sieveLists a.mode) (Nat.succ_le_of_lt hj)
  rw [Nat.succ_mul, whole] at this
  omega

theorem Acc.setList_elem {r : Nat} (i : Nat) (hr : r < 256 / sieveLists a.mode) :
    (a.setList i l).elems[j * (256 / sieveLists a.mode) + r]? =
      some (if j = i then slotElem l[r]? else (a.elems[j * (256 / sieveLists a.mode) + r]?).getD 0) := by
  have inside := list_index room hj hr
  obtain ⟨pos, _⟩ := lists_room room
  have quot : (j * (256 / sieveLists a.mode) + r) / (256 / sieveLists a.mode) = j := by
    rw [Nat.mul_comm, Nat.mul_add_div pos, Nat.div_eq_of_lt hr, Nat.add_zero]
  have rem : (j * (256 / sieveLists a.mode) + r) % (256 / sieveLists a.mode) = r := by
    rw [Nat.mul_comm, Nat.mul_add_mod, Nat.mod_eq_of_lt hr]
  rw [Acc.setList, Vector.getElem?_ofFn, dif_pos inside]
  dsimp only
  rw [quot, rem]
  split
  · rfl
  · simp [inside]

theorem Acc.list_setList_same (hl : ∀ x ∈ l, Fits x) (short : l.length ≤ 256 / sieveLists a.mode) : (a.setList j l).list j = l := by
  rw [Acc.list_eq, Acc.setList_mode]
  refine Eq.trans (congrArg _ (List.map_congr_left fun r hr => ?_)) (filterMap_padded l hl _ short)
  rw [Acc.setList_elem room hj j (List.mem_range.mp hr), if_pos rfl]
  rfl

theorem Acc.list_setList_other {i : Nat} (other : j ≠ i) : (a.setList i l).list j = a.list j := by
  rw [Acc.list_eq, Acc.list_eq, Acc.setList_mode]
  refine congrArg _ (List.map_congr_left fun r hr => ?_)
  rw [Acc.setList_elem room hj i (List.mem_range.mp hr), if_neg other]
  rfl
end

/-! ### Pushing pairs -/

theorem Acc.push_mode (a : Acc) (j : Nat) (x : Pair) : (a.push j x).mode = a.mode := Acc.setList_mode ..

theorem admitPair_length {k : Nat} {l : List Pair} (x : Pair) (h : l.length ≤ k) : (admitPair k l x).length ≤ k := by
  unfold admitPair
  split
  · exact h
  · exact List.length_take_le ..
theorem foldl_admitPair_length {k : Nat} (l xs : List Pair) (h : xs.length ≤ k) : (l.foldl (admitPair k) xs).length ≤ k := by
  induction l generalizing xs with
  | nil => exact h
  | cons x l ih => exact ih _ (admitPair_length x h)
theorem sieveKey_lt {x : Nat} (h : x < 2 ^ 32) : sieveKey x < 2 ^ 32 := by
  unfold sieveKey
  split
  · decide
  · exact h
theorem admitPair_fits {k : Nat} {l : List Pair} {x : Pair} (hl : ∀ y ∈ l, Fits y) (hx : Fits x) : ∀ y ∈ admitPair k l x, Fits y := by
  unfold admitPair
  split
  · exact hl
  · intro y hy
    rcases mem_rankInsert.mp (List.mem_of_mem_take hy) with hy | rfl
    · exact hl y hy
    · exact ⟨sieveKey_lt hx.1, hx.2⟩

/-- The lists of an accumulator hold no more than its depth. -/
def Acc.Shallow (a : Acc) : Prop :=
  sieveLists a.mode ≤ 16 ∧ sieveDepth a.mode ≤ 256 / sieveLists a.mode

section
variable {a : Acc} {j : Nat} (shallow : a.Shallow) (hj : j < sieveLists a.mode)
include shallow hj

theorem Acc.list_push_same {x : Pair} (hx : Fits x) (short : (a.list j).length ≤ sieveDepth a.mode) :
    (a.push j x).list j = admitPair (sieveDepth a.mode) (a.list j) x :=
  Acc.list_setList_same shallow.1 hj (admitPair_fits (a.list_fits j) hx) ((admitPair_length x short).trans shallow.2)

theorem Acc.list_push_other {i : Nat} (x : Pair) (other : j ≠ i) : (a.push i x).list j = a.list j :=
  Acc.list_setList_other shallow.1 hj other

/-- A list takes pairs one after the other, and no other list changes. -/
theorem Acc.list_pushes {l : List Pair} (hl : ∀ x ∈ l, Fits x) (short : (a.list j).length ≤ sieveDepth a.mode) :
    (l.foldl (fun a x => a.push j x) a).mode = a.mode ∧
      (l.foldl (fun a x => a.push j x) a).list j = l.foldl (admitPair (sieveDepth a.mode)) (a.list j) ∧
      ∀ i, i < sieveLists a.mode → i ≠ j → (l.foldl (fun a x => a.push j x) a).list i = a.list i := by
  induction l generalizing a with
  | nil => exact ⟨rfl, rfl, fun _ _ _ => rfl⟩
  | cons x l ih =>
    obtain ⟨hx, hl⟩ := List.forall_mem_cons.mp hl
    have mode := a.push_mode j x
    have same := Acc.list_push_same shallow hj hx short
    have short' : ((a.push j x).list j).length ≤ sieveDepth (a.push j x).mode := by
      rw [same, mode]
      exact admitPair_length x short
    obtain ⟨mode', list, others⟩ := ih (a := a.push j x) (by rw [Acc.Shallow, mode]; exact shallow) (by rw [mode]; exact hj) hl short'
    rw [mode] at mode' list others
    rw [List.foldl_cons, List.foldl_cons, ← same]
    refine ⟨mode', list, fun i hi other => ?_⟩
    exact (others i hi other).trans (Acc.list_push_other shallow hi x other)
end

/-- The accumulator to which the pairs of another have been merged, list by list. -/
def Acc.merge (a src : Acc) (js : List Nat) : Acc := js.foldl (fun a j => (src.list j).foldl (fun a x => a.push j x) a) a

theorem Acc.merge_lists {a : Acc} (src : Acc) {js : List Nat} (shallow : a.Shallow) (once : js.Nodup) (hjs : ∀ j ∈ js, j < sieveLists a.mode)
    (short : ∀ j, j < sieveLists a.mode → (a.list j).length ≤ sieveDepth a.mode) :
    (a.merge src js).mode = a.mode ∧
      (∀ j ∈ js, (a.merge src js).list j = (src.list j).foldl (admitPair (sieveDepth a.mode)) (a.list j)) ∧
      ∀ i, i < sieveLists a.mode → i ∉ js → (a.merge src js).list i = a.list i := by
  induction js generalizing a with
  | nil => exact ⟨rfl, nofun, fun _ _ _ => rfl⟩
  | cons j js ih =>
    obtain ⟨alone, once⟩ := List.nodup_cons.mp once
    obtain ⟨hj, hjs⟩ := List.forall_mem_cons.mp hjs
    obtain ⟨mode, list, others⟩ := Acc.list_pushes shallow hj (src.list_fits j) (short j hj)
    have first : (a.merge src (j :: js)) = Acc.merge ((src.list j).foldl (fun a x => a.push j x) a) src js := List.foldl_cons ..
    rw [first]
    generalize (src.list j).foldl (fun a x => a.push j x) a = b at mode list others
    have short' : ∀ i, i < sieveLists b.mode → (b.list i).length ≤ sieveDepth b.mode := by
      intro i hi
      rw [mode] at hi ⊢
      by_cases same : i = j
      · subst same
        rw [list]
        exact foldl_admitPair_length _ _ (short i hi)
      · rw [others i hi same]
        exact short i hi
    obtain ⟨mode', lists, rest⟩ := ih (a := b) (by rw [Acc.Shallow, mode]; exact shallow) once (by rw [mode]; exact hjs) short'
    rw [mode] at mode' lists rest
    refine ⟨mode', List.forall_mem_cons.mpr ⟨(rest j hj alone).trans list, fun i hi => ?_⟩, fun i hi out => ?_⟩
    · rw [lists i hi, others i (hjs i hi) (ne_of_mem_of_not_mem hi alone)]
    · obtain ⟨other, out⟩ := not_or.mp fun m => out (List.mem_cons.mpr m)
      exact (rest i hi out).trans (others i hi other)

end Sys2Proof.Machine
end

section
/-! PROOF. What SPUSH, SMERGE, SREAD and SMMA do when they retire (R270, R271). -/

namespace Sys2Proof.Machine

section
variable {s : State} {k n : Nat} {rest : List EngOp}

theorem spush_retires {j key idx : Nat} (h : (s.tile k).eng = .spush n j key idx :: rest) (hn : n < 8) :
    ((s.engineStep k).tile k).accOf n = ((s.tile k).accOf n).push j (key, idx) := by
  rw [State.engineStep_retires h rfl, State.retire]
  rw [State.tile_modTile, State.popped_tile]
  exact Tile.accOf_modAcc_same _ _ hn

theorem smergeAcc_retires {src : Nat} (h : (s.tile k).eng = .smergeAcc n src :: rest) (hn : n < 8) (other : src ≠ n) :
    ((s.engineStep k).tile k).accOf src = (s.tile k).accOf src ∧ ((s.engineStep k).tile k).accOf n =
      ((s.tile k).accOf n).merge ((s.tile k).accOf src) (List.range (sieveLists ((s.tile k).accOf n).mode)) := by
  rw [State.engineStep_retires h rfl, State.retire]
  rw [State.tile_modTile, State.popped_tile]
  exact ⟨Tile.accOf_modAcc_other _ _ other, Tile.accOf_modAcc_same _ _ hn⟩

theorem smergeSlot_retires {slot : Nat} (h : (s.tile k).eng = .smergeSlot n slot :: rest) (hs : slot < 256) :
    (((s.engineStep k).tile k).slot slot).state = .empty := by
  rw [State.engineStep_retires h rfl, State.retire, State.tile_modTile]
  exact congrArg Slot.state (Tile.empty_slot_same _ hs)

/-- An element as SREAD writes it. -/
def sreadBytes (x : Elem) : List Byte :=
  if x.toNat / 2 ^ 7 % 2 = 1 then leBytes 4 (x.toNat / 2 ^ 48) ++ leBytes 5 (x.toNat / 2 ^ 8) ++ leBytes 7 1 else leBytes 16 0

theorem engineStep_sread {slot : Nat} (h : (s.tile k).eng = .sread n slot :: rest) : s.engineStep k =
    ((s.popped k rest).writeKey (scratchAt k ((s.tile k).slot slot).off) (((s.tile k).accOf n).elems.toList.flatMap sreadBytes) false).modTile k
      (fun t => t.ready slot) := by
  rw [State.engineStep_retires h rfl, State.retire, State.popped_tile]
  rfl

theorem leNat_append (l r : List Byte) : leNat (l ++ r) = leNat l + 2 ^ (8 * l.length) * leNat r := by
  induction l with
  | nil => simp [leNat]
  | cons x l ih =>
    rw [List.cons_append, leNat, leNat, ih, List.length_cons, Nat.mul_succ, Nat.pow_add]
    ring

theorem sreadBytes_length (x : Elem) : (sreadBytes x).length = 16 := by
  unfold sreadBytes
  split
  · rw [List.length_append, List.length_append, leBytes_length, leBytes_length, leBytes_length]
  · exact leBytes_length ..
theorem sreadBytes_value (x : Elem) : leNat (sreadBytes x) =
    if x.getLsbD 7 then x.toNat / 2 ^ 48 + x.toNat / 2 ^ 8 % 2 ^ 40 * 2 ^ 32 + 2 ^ 72 else 0 := by
  have valid : x.getLsbD 7 = decide (x.toNat / 2 ^ 7 % 2 = 1) := by
    rw [BitVec.getLsbD, Nat.testBit_eq_decide_div_mod_eq]
  have small := x.isLt
  rw [valid, sreadBytes]
  by_cases h : x.toNat / 2 ^ 7 % 2 = 1
  · rw [if_pos h, if_pos (decide_eq_true h), leNat_append, leNat_append, leNat_leBytes, leNat_leBytes, leNat_leBytes, List.length_append,
      leBytes_length, leBytes_length]
    omega
  · rw [if_neg h, if_neg (by rw [decide_eq_false h]; exact Bool.false_ne_true), leNat_leBytes]
    rfl

theorem sread_retires {slot : Nat} (h : (s.tile k).eng = .sread n slot :: rest) (hs : slot < 256) (canonical : Memory.wf s.mem = true)
    (i : Fin 256) : (((s.engineStep k).tile k).slot slot).state = .ready ∧ ((s.engineStep k).tile k).accOf n = (s.tile k).accOf n ∧
      (s.engineStep k).readNat (scratchAt k (((s.tile k).slot slot).off + 16 * i.val)) 16 =
        if (((s.tile k).accOf n).elems[i]).getLsbD 7 then (((s.tile k).accOf n).elems[i]).toNat / 2 ^ 48 +
          (((s.tile k).accOf n).elems[i]).toNat / 2 ^ 8 % 2 ^ 40 * 2 ^ 32 + 2 ^ 72 else 0 := by
  have wf : Memory.wf (s.popped k rest).mem = true := canonical
  have holds := State.holds_writeKey (scratchAt k ((s.tile k).slot slot).off) (((s.tile k).accOf n).elems.toList.flatMap sreadBytes) false wf
  have tile := s.popped_tile k rest
  rw [engineStep_sread h]
  generalize hu : (s.popped k rest).writeKey (scratchAt k ((s.tile k).slot slot).off) (((s.tile k).accOf n).elems.toList.flatMap sreadBytes)
    false = u at holds ⊢
  have tileu : u.tile k = { s.tile k with eng := rest } := by
    rw [← hu]
    exact tile
  have inside : i.val < ((s.tile k).accOf n).elems.toList.length := by simp
  have elem : ((s.tile k).accOf n).elems.toList[i.val] = ((s.tile k).accOf n).elems[i] := by simp
  have read : (u.modTile k fun t => t.ready slot).readNat (scratchAt k (((s.tile k).slot slot).off + 16 * i.val)) 16 =
      u.readNat (scratchAt k (((s.tile k).slot slot).off + 16 * i.val)) 16 := readNat_of_mem rfl _ _
  rw [State.tile_modTile, tileu, read]
  refine ⟨congrArg Slot.state (Tile.slot_modSlot_same _ _ hs), rfl, ?_⟩
  rw [State.readNat, scratchAt_add, holds.readAt _ _ (by rw [flatMap_length sreadBytes_length]; simp; omega),
    flatMap_block sreadBytes_length _ _ inside, sreadBytes_value, elem]

/-! ### SMMA -/

theorem foldl_mode {α : Type} {f : Acc → α → Acc} (hf : ∀ a x, (f a x).mode = a.mode) (l : List α) (a : Acc) : (l.foldl f a).mode = a.mode := by
  induction l generalizing a with
  | nil => rfl
  | cons x l ih => exact (ih _).trans (hf a x)
theorem smmaAcc_mode (t : Tile) (a : Acc) (wa wb : Nat) (rows cols : List (List (Nat × Nat))) : (smmaAcc t a wa wb rows cols).mode = a.mode := by
  rw [smmaAcc]
  exact foldl_mode (fun a _ => a.push_mode _ _) _ a

theorem nextBase_mode (a : Acc) : a.nextBase.mode.toNat =
    a.mode.toNat % 2 ^ 32 + (sieveBase a.mode + 256 / sieveLists a.mode) % 2 ^ 32 * 2 ^ 32 := by
  rw [Acc.nextBase, BitVec.toNat_ofNat]
  omega
theorem nextBase_fields (a : Acc) : sieveBase a.nextBase.mode = (sieveBase a.mode + 256 / sieveLists a.mode) % 2 ^ 32 ∧
    a.nextBase.mode.toNat % 2 ^ 32 = a.mode.toNat % 2 ^ 32 := by
  refine ⟨?_, ?_⟩
  · rw [sieveBase, bf, nextBase_mode]
    omega
  · rw [nextBase_mode]
    omega

theorem smma_retires {sa sb wa wb bound : Nat} (h : (s.tile k).eng = .smma n sa sb wa wb bound :: rest) (hn : n < 8) (ha : sa < 256) (hb : sb < 256) :
    (((s.engineStep k).tile k).slot sa).state = .empty ∧ (((s.engineStep k).tile k).slot sb).state = .empty ∧
      ∃ rows cols, ((s.engineStep k).tile k).accOf n = Acc.nextBase (if smmaSkips ((s.tile k).accOf n) bound then (s.tile k).accOf n
        else smmaAcc { s.tile k with eng := rest } ((s.tile k).accOf n) wa wb rows cols) := by
  rw [State.engineStep_retires h rfl, State.retire]
  dsimp only
  rw [State.tile_modTile, State.popped_tile]
  refine ⟨?_, ?_, _, _, (Tile.accOf_empty ..).trans ((Tile.accOf_empty ..).trans (Tile.accOf_modAcc_same _ _ hn))⟩
  · exact Tile.empty_slot_of_empty sb ha (by rw [Tile.empty_slot_same _ ha])
  · rw [Tile.empty_slot_same _ hb]
end

theorem sieveResult : SieveResult := by
  rintro s t k n rest a a' canonical hn rfl rfl rfl lists depth
  have shallow : Acc.Shallow ((s.tile k).accOf n) := ⟨lists, depth⟩
  refine ⟨fun j key idx h hj hkey hidx short => ?_, fun src h hsrc other same short => ?_, fun slot h hs => smergeSlot_retires h hs,
    fun slot i h hs => sread_retires h hs canonical i, fun sa sb wa wb bound h ha hb => ?_⟩
  · rw [spush_retires h hn]
    exact ⟨Acc.push_mode .., Acc.list_push_same shallow hj ⟨hkey, hidx⟩ short, fun i hi other => Acc.list_push_other shallow hi _ other⟩
  · obtain ⟨kept, merged⟩ := smergeAcc_retires h hn other
    obtain ⟨_, each, _⟩ := Acc.merge_lists ((s.tile k).accOf src) shallow List.nodup_range (fun j hj => List.mem_range.mp hj) short
    rw [merged]
    exact ⟨kept, fun j hj => each j (List.mem_range.mpr hj)⟩
  · obtain ⟨slotA, slotB, rows, cols, acc⟩ := smma_retires h hn ha hb
    rw [acc]
    have mode : (if smmaSkips ((s.tile k).accOf n) bound then (s.tile k).accOf n
        else smmaAcc { s.tile k with eng := rest } ((s.tile k).accOf n) wa wb rows cols).mode = ((s.tile k).accOf n).mode := by
      split
      · rfl
      · exact smmaAcc_mode ..
    obtain ⟨base, low⟩ := nextBase_fields (if smmaSkips ((s.tile k).accOf n) bound then (s.tile k).accOf n
        else smmaAcc { s.tile k with eng := rest } ((s.tile k).accOf n) wa wb rows cols)
    rw [mode] at base low
    refine ⟨slotA, slotB, base, low, fun skips => ?_⟩
    rw [if_pos skips, Acc.nextBase]

/-- Settles O29: the lists by what a push does to one list and leaves of the others; admission by the order of keys as sign and magnitude. -/
theorem sieveResults : Obligations.SieveResults := ⟨sieveIssue, sieveAdmission, sieveResult⟩

end Sys2Proof.Machine
end

section
/-! PROOF. The lattice instructions on a region that opens, and the lattice unit's own event (R142, R291, R293). -/

namespace Sys2Proof.Machine

/-! ### Opening a region (R291, R394) -/

theorem afterEvent_self (r : Region) (t : State) : afterEvent r ⟨r, t⟩ = t := if_pos rfl

theorem runLattice_ok {α : Type} {s : State} {pa : Nat} {r : Region} {op : Lat α} {a : α} {y : LatSt} (good : s.isBad pa 128 = false)
    (hr : r = readRegion s pa) (form : regionForm r = none) (h : op ⟨r, s⟩ = .ok a y) : runLattice s pa op = .ok (a, afterEvent r y) := by
  subst hr
  unfold runLattice
  rw [if_neg (by rw [good]; exact Bool.false_ne_true)]
  dsimp only
  rw [form]
  dsimp only
  rw [h]
  rfl

end Sys2Proof.Machine

section
open Sys2Proof Sys2Proof.Machine
variable {s t : State} {c : Reg} {perms need pa : Nat} {r : Region}

theorem OpensRegion.tlbOnly (h : OpensRegion s c perms need pa t r) : TlbOnly s t := by
  obtain ⟨_, _, ⟨_, ht, _⟩, _⟩ := h
  exact tlbOnly_translateAt ht
theorem OpensRegion.checkCap (h : OpensRegion s c perms need pa t r) (reg : Nat) (ak : Access) :
    Machine.checkCap reg 0 c c.addr 128 (Perm.lattice + perms) 1 ak 0 s = .ok ⟨⟩ s := checkCap_grants h.1 ..
theorem OpensRegion.regionKey (h : OpensRegion s c perms need pa t r) (xa xb : Nat) (ak : Access) :
    regionKey xa xb c.addr ak need s = .ok pa t := by
  obtain ⟨_, virt, ⟨p, ht, rfl⟩, plain, _⟩ := h
  rw [Machine.regionKey, virt]
  simp only [op_bind, translate_ok ht, plain]
  rfl
theorem OpensRegion.openRegion {p l : Fin 64} (h : OpensRegion s c perms needR pa t r) (ak : Access) :
    openRegion p l c perms ak s = .ok pa t := by
  simp only [Machine.openRegion, op_bind, h.checkCap, h.regionKey]
/-- An operation of the lattice unit acts at once: nothing of the core is waiting before it, and no engine owns a line. -/
theorem OpensRegion.lattice {α : Type} {op : Lat α} {a : α} {y : LatSt} (h : OpensRegion s c perms need pa t r) (hop : op ⟨r, t⟩ = .ok a y)
    (xa xb adr : Nat) (ak : Access) : coreLattice xa xb adr ak pa op t = .ok a (afterEvent r y) := by
  obtain ⟨_, _, _, _, drained, free, spans, good, hr, form⟩ := h
  have clear : (t.owned t.cur noXfer pa 128 || (regionSpans t pa).any (fun x => t.owned t.cur noXfer x.1 x.2)) = false := by
    rw [free, Bool.false_or, List.any_eq_false]
    exact fun x hx => by rw [spans x hx]; exact Bool.false_ne_true
  have first : performOver pa 128 t = .ok ⟨⟩ t := performOver_ok (by rw [drained]; rfl) drained
  simp only [coreLattice, op_bind, first, op_get, clear, runLattice_ok good hr form hop]
  rfl
/-- One that leaves the region and memory as they are leaves the state as it is. -/
theorem OpensRegion.reads {α : Type} {op : Lat α} {a : α} (h : OpensRegion s c perms need pa t r) (hop : op ⟨r, t⟩ = .ok a ⟨r, t⟩)
    (xa xb adr : Nat) (ak : Access) : coreLattice xa xb adr ak pa op t = .ok a t := by
  rw [h.lattice hop, afterEvent_self]
theorem OpensRegion.region (h : OpensRegion s c perms need pa t r) (xa xb adr : Nat) (ak : Access) :
    coreLattice xa xb adr ak pa region t = .ok r t := h.reads (op := Machine.region) rfl ..

theorem OpensRegion.ag (h : OpensRegion s c perms need pa t r) : t.here.ag = s.here.ag := by
  obtain ⟨i, d, ht⟩ := h.tlbOnly.here
  rw [ht]
  rfl
theorem OpensRegion.bound (h : OpensRegion s c perms need pa t r) {n : Nat} (hn : s.here.bound n = none) : t.here.bound n = none := by
  rw [Tile.bound_congr h.ag, hn]
theorem OpensRegion.cur (h : OpensRegion s c perms need pa t r) : t.cur = s.cur := h.tlbOnly.cur
end

namespace Sys2Proof.Machine

theorem checkKey_ok {r : Region} {s : State} {key : Nat} (h : key < 2 ^ r.keyWidth) : checkKey key ⟨r, s⟩ = .ok ⟨⟩ ⟨r, s⟩ :=
  (bind_of_ok (x := region) rfl).trans (congrFun (if_pos h) _)

/-- An operation on a key of the region. -/
theorem checked_ok {α : Type} {r : Region} {s : State} {key : Nat} {op : Lat α} (h : key < 2 ^ r.keyWidth) :
    (do checkKey key; op : Lat α) ⟨r, s⟩ = op ⟨r, s⟩ := by
  rw [bind_of_ok (checkKey_ok h)]

theorem cellBuffer_ok {s : State} {reg perms off : Nat} {c : Reg} {r : Region} (ak : Access) (h : CellBuffer c r perms off) :
    cellBuffer reg c r perms ak s = .ok off s := by
  obtain ⟨grants, w, place⟩ := h
  simp only [cellBuffer, op_bind, checkCap_grants grants, inWindow_ok reg ak place]

theorem readBuffer_ok {s : State} {r : Region} {a off : Nat} (good : s.isBad (scratchAt s.cur off) r.cellBytes = false)
    (idle : s.engineHoldsKey (scratchAt s.cur off) r.cellBytes false = false) :
    readBuffer r a off s = .ok (r.elems (s.readAt (scratchAt s.cur off) r.cellBytes)) s := by
  rw [readBuffer, bind_of_ok (op_me s), bind_of_ok (consume_good .load a idle good), bind_of_ok (op_get s), op_pure]

theorem writeBuffer_ok {s : State} {a off : Nat} {b : List Byte} (good : s.badPartial (scratchAt s.cur off) b.length = false)
    (idle : s.engineHoldsKey (scratchAt s.cur off) b.length true = false) :
    writeBuffer a off b s = .ok ⟨⟩ ((s.noted (scratchAt s.cur off) b.length).writeKey (scratchAt s.cur off) b false) := by
  rw [writeBuffer, bind_of_ok (op_me s), bind_of_ok (consumePart_good .store a idle (s.mend_single ..) good), bind_of_ok (noteStore_ok ..), op_modify]

theorem latticeDone_ok (s : State) : latticeDone s = .ok ⟨⟩ (s.modTile s.cur Tile.counted) := op_modT ..
theorem KeepsFlow.counted (t : Tile) : KeepsFlow Tile.counted t := ⟨rfl, rfl, rfl, rfl, rfl⟩

theorem State.noted_counted (s : State) (key n : Nat) :
    (s.modTile s.cur Tile.counted).noted key n = (s.noted key n).modTile s.cur Tile.counted := by
  unfold State.noted
  rw [State.modTile_cur, State.tile_modTile]
  have ahead : (Tile.counted (s.tile s.cur)).readsAhead = (s.tile s.cur).readsAhead := rfl
  rw [ahead]
  split
  · rw [State.modTile_modTile, State.modTile_modTile]
    have seen : (s.modTile s.cur Tile.counted).seen s.cur key n = s.seen s.cur key n := by
      unfold State.seen
      rw [State.tile_modTile]
      rfl
    rw [seen]
    rfl
  · rfl

/-! ### Issue -/

theorem metaL_through {minor n : Nat} {sw : Bool} {p l : Fin 64} {writes : List (File × Nat)} {body : Op Flow} {o s v t : State} {f : Tile → Tile}
    (hs : s = o.engineDone) (hr : Ready s ((List.range n).map (fun i => (File.w, p.val + i)) ++ [wr l] ++ writes)) (hb : body s = .ok .seq t)
    (hu : Upd v t f) (hf : KeepsFlow f v.here) (hv : v.here.ag = s.here.ag) :
    Through (issue (metaL minor n sw p l writes) body o) v 4 (results writes) f :=
  issue_through' ((settle_sync rfl rfl o).trans hs.symm) (unsettled_none rfl rfl s) (hr.passes (m := metaL minor n sw p l writes) rfl rfl rfl rfl) hb hu
    hf ((Ready.noAppend (m := metaL minor n sw p l writes) hr).congr hv)
/-- An instruction that leaves no result may lead to any state. -/
theorem metaL_leadsTo {minor n : Nat} {sw : Bool} {p l : Fin 64} {body : Op Flow} {o s v t : State} {f : Tile → Tile}
    (hs : s = o.engineDone) (hr : Ready s ((List.range n).map (fun i => (File.w, p.val + i)) ++ [wr l])) (hb : body s = .ok .seq t)
    (hu : Upd v t f) (hf : KeepsFlow f v.here) : Through (issue (metaL minor n sw p l []) body o) v 4 [] f :=
  issue_through' ((settle_sync rfl rfl o).trans hs.symm) (unsettled_none rfl rfl s)
    (Ready.passes (m := metaL minor n sw p l []) (show Ready s (_ ++ []) by rwa [List.append_nil]) rfl rfl rfl rfl) hb hu hf nofun

section
variable {o s t : State} {p l d : Fin 64} {sw : Bool} {pa off key : Nat} {r : Region}

theorem xaRange_ok {n : Nat} (h : p.val + n ≤ 64) (s : State) : xaRange p n s = .ok ⟨⟩ s := op_require (decide_eq_true h) _ s

theorem lld_through (hs : s = o.engineDone) (opens : OpensRegion s (s.here.getW l) Perm.load needR pa t r) (hp : p.val ≤ 62)
    (ready : Ready s [wr p, (.w, p.val + 1), wr l]) (hkey : key = (s.here.getX p).toNat) (small : key < 2 ^ r.keyWidth)
    (buffer : CellBuffer (s.here.getW (p.val + 1)) r Perm.store off) {b : List Byte} (load : latLoad key ⟨r, t⟩ = .ok b ⟨r, t⟩)
    (good : t.badPartial (scratchAt s.cur off) b.length = false) (idle : t.engineHoldsKey (scratchAt s.cur off) b.length true = false) :
    Through (exec (.lld p l sw) o) ((t.noted (scratchAt s.cur off) b.length).writeKey (scratchAt s.cur off) b false) 4 [] Tile.counted := by
  subst hkey
  rw [← opens.cur] at good idle ⊢
  have readKey := readN_ready (ready.unbound (n := p) (by simp [wr]))
  have readBuf := readW_ready (ready.unbound (n := p.val + 1) (by simp [wr]))
  have readReg := readW_ready (ready.unbound (n := l) (by simp [wr]))
  show Through (execLld p l sw o) _ _ _ _
  rw [execLld]
  refine metaL_leadsTo hs (ready.mono (by simp [wr, List.range_succ])) ?_ (.inr rfl) (KeepsFlow.counted _)
  simp only [bind_of_ok (xaRange_ok (show p.val + 2 ≤ 64 by omega) s), bind_of_ok readKey, bind_of_ok readBuf, bind_of_ok readReg,
    bind_of_ok (opens.openRegion .load), bind_of_ok (opens.region ..), bind_of_ok (cellBuffer_ok .store buffer),
    bind_of_ok (opens.reads ((checked_ok small).trans load) ..), bind_of_ok (writeBuffer_ok good idle), bind_of_ok (latticeDone_ok _), op_seqFlow]

theorem cellOp_through {minor : Nat} {ak : Access} {op : Nat → List Nat → Lat Unit} {y : LatSt} (hs : s = o.engineDone)
    (opens : OpensRegion s (s.here.getW l) Perm.store needR pa t r) (hp : p.val ≤ 62)
    (ready : Ready s [wr p, (.w, p.val + 1), wr l]) (hkey : key = (s.here.getX p).toNat) (small : key < 2 ^ r.keyWidth)
    (buffer : CellBuffer (s.here.getW (p.val + 1)) r Perm.load off) (good : t.isBad (scratchAt s.cur off) r.cellBytes = false)
    (idle : t.engineHoldsKey (scratchAt s.cur off) r.cellBytes false = false)
    (acts : op key (r.elems (t.readAt (scratchAt s.cur off) r.cellBytes)) ⟨r, t⟩ = .ok ⟨⟩ y) :
    Through (cellOp minor ak op p l sw o) (afterEvent r y) 4 [] Tile.counted := by
  subst hkey
  rw [← opens.cur] at good idle acts
  have readKey := readN_ready (ready.unbound (n := p) (by simp [wr]))
  have readBuf := readW_ready (ready.unbound (n := p.val + 1) (by simp [wr]))
  have readReg := readW_ready (ready.unbound (n := l) (by simp [wr]))
  rw [cellOp]
  refine metaL_leadsTo hs (ready.mono (by simp [wr, List.range_succ])) ?_ (.inr rfl) (KeepsFlow.counted _)
  simp only [bind_of_ok (xaRange_ok (show p.val + 2 ≤ 64 by omega) s), bind_of_ok readKey, bind_of_ok readBuf, bind_of_ok readReg,
    bind_of_ok (opens.openRegion ak), bind_of_ok (opens.region ..), bind_of_ok (cellBuffer_ok .load buffer), bind_of_ok (readBuffer_ok good idle),
    bind_of_ok (opens.lattice ((checked_ok small).trans acts) ..), bind_of_ok (latticeDone_ok _), op_seqFlow]

theorem lgrow_through {r' : Region} {ncap ccap : Nat} (hs : s = o.engineDone) (opens : OpensRegion s (s.here.getW l) Perm.store needR pa t r)
    (ready : Ready s [wr p, wr l]) (hn : ncap = (s.here.getX p).toNat % 2 ^ 32) (hc : ccap = (s.here.getX p).toNat / 2 ^ 32)
    (nodes : ncap = 0 ∨ r.ncap ≤ ncap) (cells : ccap = 0 ∨ r.ccap ≤ ccap)
    (hr' : r' = { r with ncap := if ncap = 0 then r.ncap else ncap, ccap := if ccap = 0 then r.ccap else ccap })
    (fits : r'.npool + 256 * r'.ncap ≤ Config.vaultBytes ∧ r'.cpool + r'.slotBytes * r'.ccap ≤ Config.vaultBytes) :
    Through (exec (.lgrow p l sw) o) (afterEvent r ⟨r', t⟩) 4 [] Tile.counted := by
  have readCaps := readN_ready (ready.unbound (n := p) (by simp [wr]))
  have readReg := readW_ready (ready.unbound (n := l) (by simp [wr]))
  have low : bf (s.here.getX p).toNat 0 32 = ncap := by rw [hn, bf, Nat.pow_zero, Nat.div_one]
  have high : bf (s.here.getX p).toNat 32 32 = ccap := by rw [hc]; exact bf_high_half _
  have grow : latGrow ncap ccap ⟨r, t⟩ = .ok ⟨⟩ ⟨r', t⟩ := by
    subst hr'
    exact (bind_of_ok (x := region) rfl).trans (congrFun (if_pos fits) _)
  show Through (execLgrow p l sw o) _ _ _ _
  rw [execLgrow]
  refine metaL_leadsTo hs (ready.mono (by simp [wr])) ?_ (.inr rfl) (KeepsFlow.counted _)
  simp only [op_bind, readCaps, readReg, opens.openRegion, opens.region, low, high, fieldOk_of (decide_eq_true nodes),
    fieldOk_of (decide_eq_true cells), opens.lattice grow, latticeDone_ok, op_seqFlow]

theorem lcount_through (hs : s = o.engineDone) (opens : OpensRegion s (s.here.getW l) Perm.load needR pa t r) (ready : Ready s [wr l, wr d]) :
    Through (exec (.lcount d l sw) o) t 4 (results [wr d]) (fun u => u.counted.putX d (BitVec.ofNat 64 (r.cused + r.nused * 2 ^ 32))) := by
  have readReg := readW_ready (ready.unbound (n := l) (by simp [wr]))
  have free : (t.modTile t.cur Tile.counted).here.bound d = none := by
    rw [State.here_modTile]
    exact opens.bound (ready.unbound (n := d) (by simp [wr]))
  obtain ⟨u, hu, upd⟩ := writeN_seqFlow (r.cused + r.nused * 2 ^ 32) free
  show Through (execLcount d l sw o) _ _ _ _
  rw [execLcount]
  refine metaL_through hs (ready.mono (by simp [wr])) ?_ (Upd.trans (.inr rfl) upd) ((KeepsFlow.counted _).comp (KeepsFlow.putX ..)) opens.ag
  rw [← hu]
  simp only [op_bind, readReg, opens.openRegion, opens.region, latticeDone_ok]

/-! ### LSCAN -/

/-- One step of a scan with the cell that it finds. -/
def scanFound (started : Bool) (key : Nat) : Lat (Option (Nat × List Byte)) := do
  match ← latScan started key with
  | none => pure none
  | some (k, j) => do
    let b ← readCell j
    pure (some (k, b))
theorem scanFound_none {l : LatSt} {started : Bool} {key : Nat} (h : latScan started key l = .ok none l) :
    scanFound started key l = .ok none l := bind_of_ok h
theorem scanFound_some {l : LatSt} {started : Bool} {key k j : Nat} {b : List Byte} (h : latScan started key l = .ok (some (k, j)) l)
    (cell : readCell j l = .ok b l) : scanFound started key l = .ok (some (k, b)) l := (bind_of_ok h).trans (bind_of_ok cell)
/-- What LSCAN leaves of a scan: the next key with its cell, or END. -/
def scanAnswer (p : Fin 64) (st a off : Nat) : Option (Nat × List Byte) → Op Flow
  | none => do
    writeN (p.val + 1) (st % 2 + 2)
    seqFlow
  | some (k, b) => do
    writeBuffer a off b
    writeN p k
    writeN (p.val + 1) 1
    seqFlow

section Scan
variable {st : Nat} (hs : s = o.engineDone) (opens : OpensRegion s (s.here.getW l) Perm.load needR pa t r) (hp : p.val ≤ 61)
  (ready : Ready s [wr p, (.w, p.val + 1), (.w, p.val + 2), wr l]) (hkey : key = (s.here.getX p).toNat)
  (hst : st = (s.here.getX (p.val + 1)).toNat) (small : st < 4) (buffer : CellBuffer (s.here.getW (p.val + 2)) r Perm.store off)
include hs opens hp ready hkey hst small buffer

/-- A scan whose search gives `found` goes on from there. -/
theorem lscan_through {found : Option (Nat × List Byte)} {v w : State} {f : Tile → Tile}
    (scan : scanFound (decide (st % 2 = 1)) key ⟨r, t⟩ = .ok found ⟨r, t⟩)
    (rest : scanAnswer p st (s.here.getW (p.val + 2)).addr off found (t.modTile t.cur Tile.counted) = .ok .seq w)
    (hu : Upd v w f) (hf : KeepsFlow f v.here) (hv : v.here.ag = s.here.ag) :
    Through (exec (.lscan p l sw) o) v 4 (results [wr p, (.w, p.val + 1)]) f := by
  subst hkey hst
  have readKey := readN_ready (ready.unbound (n := p) (by simp [wr]))
  have readState := readN_ready (ready.unbound (n := p.val + 1) (by simp [wr]))
  have readBuf := readW_ready (ready.unbound (n := p.val + 2) (by simp [wr]))
  have readReg := readW_ready (ready.unbound (n := l) (by simp [wr]))
  have high : bf (s.here.getX (p.val + 1)).toNat 2 (64 - 2) = 0 := by rw [bf]; omega
  show Through (execLscan p l sw o) _ _ _ _
  rw [execLscan]
  refine metaL_through hs (ready.mono (by simp [wr, List.range_succ])) ?_ hu hf hv
  rw [← rest, bind_of_ok (xaRange_ok (show p.val + 3 ≤ 64 by omega) s), bind_of_ok readKey, bind_of_ok readState, bind_of_ok readBuf,
    bind_of_ok (zeroField_of high), bind_of_ok readReg, bind_of_ok (opens.openRegion .load), bind_of_ok (opens.region ..),
    bind_of_ok (cellBuffer_ok .store buffer)]
  exact (bind_of_ok (opens.reads scan ..)).trans (bind_of_ok (latticeDone_ok t))

theorem lscan_none (scan : latScan (decide (st % 2 = 1)) key ⟨r, t⟩ = .ok none ⟨r, t⟩) :
    Through (exec (.lscan p l sw) o) t 4 (results [wr p, (.w, p.val + 1)]) (fun u =>
      u.counted.putX (p.val + 1) (BitVec.ofNat 64 (st % 2 + 2))) := by
  have free : (t.modTile t.cur Tile.counted).here.bound (p.val + 1) = none := by
    rw [State.here_modTile]
    exact opens.bound (ready.unbound (n := p.val + 1) (by simp [wr]))
  obtain ⟨u, hu, upd⟩ := writeN_seqFlow (st % 2 + 2) free
  refine lscan_through (found := none) hs opens hp ready hkey hst small buffer (scanFound_none scan) hu (Upd.trans (.inr rfl) upd)
    ((KeepsFlow.counted _).comp (KeepsFlow.putX ..)) opens.ag

theorem lscan_some {k j : Nat} {b : List Byte} (scan : latScan (decide (st % 2 = 1)) key ⟨r, t⟩ = .ok (some (k, j)) ⟨r, t⟩)
    (cell : readCell j ⟨r, t⟩ = .ok b ⟨r, t⟩) (good : t.badPartial (scratchAt s.cur off) b.length = false)
    (idle : t.engineHoldsKey (scratchAt s.cur off) b.length true = false) :
    Through (exec (.lscan p l sw) o) ((t.noted (scratchAt s.cur off) b.length).writeKey (scratchAt s.cur off) b false) 4
      (results [wr p, (.w, p.val + 1)]) (fun u => (u.counted.putX p (BitVec.ofNat 64 k)).putX (p.val + 1) 1) := by
  rw [← opens.cur] at good idle ⊢
  have goodC : (t.modTile t.cur Tile.counted).badPartial (scratchAt (t.modTile t.cur Tile.counted).cur off) b.length = false := good
  have idleC : (t.modTile t.cur Tile.counted).engineHoldsKey (scratchAt (t.modTile t.cur Tile.counted).cur off) b.length true = false := by
    rw [← idle, State.engineHoldsKey, State.modTile_cur, State.tile_modTile]
    rfl
  have write := writeBuffer_ok (a := (s.here.getW (p.val + 2)).addr) goodC idleC
  rw [State.modTile_cur, State.noted_counted] at write
  have agV : ((t.noted (scratchAt t.cur off) b.length).writeKey (scratchAt t.cur off) b false).here.ag = s.here.ag :=
    (State.noted_ag ..).trans opens.ag
  have curV : ((t.noted (scratchAt t.cur off) b.length).writeKey (scratchAt t.cur off) b false).cur = t.cur := State.noted_cur ..
  have step : ((t.noted (scratchAt t.cur off) b.length).modTile t.cur Tile.counted).writeKey (scratchAt t.cur off) b false =
      ((t.noted (scratchAt t.cur off) b.length).writeKey (scratchAt t.cur off) b false).modTile t.cur Tile.counted := rfl
  rw [step] at write
  generalize (t.noted (scratchAt t.cur off) b.length).writeKey (scratchAt t.cur off) b false = v at write agV curV ⊢
  have written : writeBuffer (s.here.getW (p.val + 2)).addr off b (t.modTile t.cur Tile.counted) = .ok ⟨⟩ (v.modTile v.cur Tile.counted) := by
    rw [curV, write]
  have bound : ∀ n, s.here.bound n = none → (v.modTile v.cur Tile.counted).here.bound n = none := fun n hn => by
    rw [State.here_modTile, Tile.bound_congr (show (Tile.counted v.here).ag = s.here.ag from agV), hn]
  obtain ⟨u1, h1, upd1⟩ := writeX_ready (BitVec.ofNat 64 k) (bound p (ready.unbound (n := p) (by simp [wr])))
  have free : u1.here.bound (p.val + 1) = none := by
    rw [upd1.here, Tile.putX, Tile.bound_putW]
    exact bound _ (ready.unbound (n := p.val + 1) (by simp [wr]))
  obtain ⟨u2, h2, upd2⟩ := writeN_seqFlow 1 free
  refine lscan_through (found := some (k, b)) (w := u2) hs opens hp ready hkey hst small buffer (scanFound_some scan cell) ?_ (Upd.trans (Upd.trans (.inr rfl) upd1) upd2)
    (((KeepsFlow.counted _).comp (KeepsFlow.putX ..)).comp (KeepsFlow.putX ..)) agV
  rw [scanAnswer, bind_of_ok written, bind_of_ok (show writeN p k _ = _ from h1), h2]
end Scan
end

theorem latticeInstructions : LatticeInstructions := by
  intro o s t p l d sw pa off key r hs
  refine ⟨fun opens => ⟨?_, ?_, fun ready => lcount_through hs opens ready⟩, fun opens => ⟨?_, ?_⟩, ?_⟩
  · intro hp ready hkey small buffer b y load _ good _ idle
    obtain rfl := latLoad_still key _ _ _ load
    exact lld_through hs opens hp ready hkey small buffer load good idle
  · intro hp ready hkey small buffer
    exact ⟨fun scan => lscan_none hs opens hp ready hkey rfl small buffer scan,
      fun k j b scan cell good idle => lscan_some hs opens hp ready hkey rfl small buffer scan cell good idle⟩
  · intro hp ready hkey small buffer good idle y
    exact ⟨fun acts _ => cellOp_through hs opens hp ready hkey small buffer good idle acts,
      fun acts _ => cellOp_through hs opens hp ready hkey small buffer good idle acts⟩
  · intro ready ncap ccap r' hn hc nodes cells hr' fitsN fitsC
    exact lgrow_through hs opens ready hn hc nodes cells hr' ⟨fitsN, fitsC⟩
  · intro op good hr form
    refine ⟨fun y acts => ?_, fun e y fails => ?_⟩
    · show execLatticeEvent pa op s = _
      rw [execLatticeEvent, runLattice_ok good hr form acts]
    · show execLatticeEvent pa op s = _
      subst hr
      rw [execLatticeEvent, runLattice, if_neg (by rw [good]; exact Bool.false_ne_true)]
      dsimp only
      rw [form]
      dsimp only
      rw [fails]

end Sys2Proof.Machine
end

section
/-! PROOF. LDENSE and LSPMM (R273, R292). -/

namespace Sys2Proof.Machine

/-! ### Translation makes no word uncorrectable (R388) -/

/-- Every word that is uncorrectable in `t` is so in `s`. -/
structure BadWithin (s t : State) : Prop where
  mem : ∀ w ∈ t.bad, w ∈ s.bad

theorem BadWithin.of_eq {s t : State} (h : t.bad = s.bad) : BadWithin s t := ⟨fun _ hw => h ▸ hw⟩
theorem BadWithin.trans {s t u : State} (h : BadWithin s t) (h' : BadWithin t u) : BadWithin s u := ⟨fun w hw => h.mem w (h'.mem w hw)⟩
theorem BadWithin.isBad {s t : State} (h : BadWithin s t) {key n : Nat} (good : s.isBad key n = false) : t.isBad key n = false := by
  rw [State.isBad, List.any_eq_false] at good ⊢
  exact fun w hw => good w (h.mem w hw)

theorem badWithin_writeKey (s : State) (key : Nat) (data : List Byte) (tag : Bool) : BadWithin s (s.writeKey key data tag) :=
  ⟨fun _ hw => List.mem_of_mem_filter hw⟩
theorem badWithin_corePut (s : State) (k : Nat) (i : Bool) (e : TlbEntry) : BadWithin s (s.corePut k i e) := .of_eq rfl
theorem badWithin_clusterPut (s : State) (c : Nat) (e : TlbEntry) : BadWithin s (s.clusterPut c e) := by
  unfold State.clusterPut
  dsimp only
  split
  · exact .of_eq rfl
  · split <;> exact .of_eq rfl
theorem badWithin_tlbLookup (s : State) (k : Nat) (i : Bool) (p asid va : Nat) : BadWithin s (s.tlbLookup k i p asid va).2 := by
  unfold State.tlbLookup
  dsimp only
  split
  · exact .of_eq rfl
  · split <;> exact .of_eq rfl
  · exact .of_eq rfl
theorem badWithin_walkFill {s t : State} {k : Nat} {i : Bool} {p asid va need : Nat} {e : TlbEntry}
    (h : s.walkFill k i p asid va need = .ok (e, t)) : BadWithin s t := by
  unfold State.walkFill at h
  split at h
  · cases h
  · cases h
    exact ((badWithin_writeKey ..).trans (badWithin_clusterPut ..)).trans (badWithin_corePut ..)
theorem badWithin_setDirty {s t : State} {e e' : TlbEntry} (h : s.setDirty e = some (e', t)) : BadWithin s t := by
  unfold State.setDirty at h
  dsimp only at h
  split at h
  · cases h
    exact (badWithin_writeKey s ..).trans (.of_eq rfl)
  · cases h
theorem badWithin_fillTlb {s t : State} {k j : Nat} {i re : Bool} {va need : Nat} {e : TlbEntry}
    (h : s.fillTlb k j i va need re = .ok (e, t)) : BadWithin s t := by
  unfold State.fillTlb at h
  split at h
  · cases h
  · next walked =>
    cases h
    exact badWithin_walkFill walked
theorem badWithin_dropTlb (s : State) (c : Nat) (which : TlbEntry → Bool) : BadWithin s (s.dropTlb c which) := .of_eq rfl
theorem badWithin_dirtied {s t : State} {k j : Nat} {i : Bool} {va need : Nat} {e : TlbEntry} {p : Phys}
    (h : s.dirtied k j i va need e = .ok (p, t)) : BadWithin s t := by
  unfold State.dirtied at h
  split at h
  · cases h
    exact .of_eq rfl
  · split at h
    · next set =>
      cases h
      exact badWithin_setDirty set
    · split at h
      · cases h
      · next filled =>
        have back := (badWithin_dropTlb s _ _).trans (badWithin_fillTlb filled)
        split at h
        · next set =>
          cases h
          exact back.trans (badWithin_setDirty set)
        · cases h
theorem badWithin_tableTranslate {s t : State} {k : Nat} {i : Bool} {va need : Nat} {p : Phys}
    (h : s.tableTranslate k i va need = .ok (p, t)) : BadWithin s t := by
  unfold State.tableTranslate at h
  dsimp only at h
  have looked := badWithin_tlbLookup s (s.tlbCore k i va) i (s.partNo k) (s.tile k).asid va
  generalize s.tlbLookup (s.tlbCore k i va) i (s.partNo k) (s.tile k).asid va = r at h looked
  obtain ⟨hit, u⟩ := r
  dsimp only at h looked
  split at h
  · cases h
  · next e v entry =>
    have back : BadWithin s v := by
      split at entry
      · exact looked.trans (badWithin_fillTlb entry)
      · split at entry
        · cases entry
          exact looked
        · exact (looked.trans (badWithin_dropTlb ..)).trans (badWithin_fillTlb entry)
    split at h
    · cases h
    · next set =>
      split at h
      · cases h
      · cases h
        exact back.trans (badWithin_dirtied set)
theorem badWithin_translateAt {s t : State} {k : Nat} {i : Bool} {va need : Nat} {p : Phys}
    (h : s.translateAt k i va need = .ok (p, t)) : BadWithin s t := by
  unfold State.translateAt at h
  split at h
  · split at h
    · cases h
    · cases h
      exact .of_eq rfl
  · cases h
  · exact badWithin_tableTranslate h

/-! ### What translation leaves of the core -/

theorem TlbOnly.undrained {s t : State} (h : TlbOnly s t) (want : PStore → Bool) : t.undrained t.cur want = s.undrained s.cur want := by
  obtain ⟨i, d, tile⟩ := h.here
  have stores : (t.tile t.cur).stores = (s.tile s.cur).stores := by
    have same := congrArg Tile.stores tile
    exact same
  obtain ⟨⟨_, _, _, _, _, _, _, _, rfl⟩, _⟩ := h
  rw [State.undrained, stores]
  rfl
theorem TlbOnly.funded {s t : State} (h : TlbOnly s t) (funded : Funded s) : Funded t := by
  obtain ⟨hold, bal, sbal, due⟩ := funded
  obtain ⟨i, d, tile⟩ := h.here
  have window : (t.tile t.cur).window = (s.tile s.cur).window := by
    have same := congrArg Tile.window tile
    exact same
  have time : t.windowDue t.cur = s.windowDue s.cur := by
    obtain ⟨⟨_, _, _, _, _, _, _, _, rfl⟩, _⟩ := h
    rw [State.windowDue, window]
    rfl
  unfold Funded
  rw [tile, time]
  exact ⟨hold, bal, sbal, due⟩
theorem TlbOnly.operand {s t : State} (h : TlbOnly s t) (within : BadWithin s t) {q slot w n : Nat} (operand : Operand s q slot w n) :
    Operand t q slot w n := by
  obtain ⟨ring, ready, long, sound, scales⟩ := operand
  obtain ⟨i, d, tile⟩ := h.here
  unfold Operand
  rw [tile, h.cur]
  exact ⟨ring, ready, long, within.isBad sound, fun mx => ⟨(scales mx).1, within.isBad (scales mx).2⟩⟩

theorem undrained_mono {s : State} {k : Nat} (h : s.undrained k (fun _ => true) = false) (want : PStore → Bool) : s.undrained k want = false := by
  rw [State.undrained, Bool.or_eq_false_iff, List.any_eq_false, List.any_eq_false] at h ⊢
  obtain ⟨stores, writes⟩ := h
  refine ⟨fun x hx => absurd rfl (stores x hx), fun x hx both => writes x hx ?_⟩
  rw [Bool.and_true]
  exact (Bool.and_eq_true_iff.mp both).1

/-- Nothing of the task stands before a transfer. -/
theorem xferFirst_ok {s : State} (idle : s.here.eng = []) (drained : ∀ want, s.undrained s.cur want = false) (x : Xfer) :
    xferFirst x s = .ok ⟨⟩ s := by
  have free : ∀ (l : List (Nat × Nat)) (write : Bool), l.any (fun p => s.engineHoldsKey p.1 p.2 write) = false := fun l write =>
    List.any_eq_false.mpr fun p _ => by rw [engineHoldsKey_of_idle idle]; exact Bool.false_ne_true
  simp only [xferFirst, op_bind, op_get, free, drained, Bool.or_false, Bool.false_eq_true, if_false, op_pure]

theorem copyRoom_ok {s : State} (h : s.here.copying < 16) : copyRoom s = .ok ⟨⟩ s := by
  simp only [copyRoom, op_bind, op_getT, if_neg (Nat.not_le.mpr h), op_pure]

/-! ### LDENSE (R292) -/

theorem checkBox_ok {lo ext : List Nat} {r : Region} {s : State} (h : ∀ d, d < 4 → lo.getD d 0 + ext.getD d 0 ≤ 2 ^ r.width d) :
    checkBox lo ext ⟨r, s⟩ = .ok ⟨⟩ ⟨r, s⟩ := by
  have none_over : (List.range 4).find? (fun d => decide (lo.getD d 0 + ext.getD d 0 > 2 ^ r.width d)) = none :=
    List.find?_eq_none.mpr fun d hd => by rw [decide_eq_true_eq]; exact Nat.not_lt.mpr (h d (List.mem_range.mp hd))
  refine (bind_of_ok (x := region) rfl).trans ?_
  rw [none_over]
  rfl

theorem denseRange_ok {dst : Reg} {esize n : Nat} (b : Fin 64) (s : State)
    (h : ∀ i, i < n → rangeCause dst esize (Perm.store + Perm.engine) true (addrAdd dst.addr ((i * esize : Nat) : Int)) = none) :
    denseRange b dst esize n s = .ok ⟨⟩ s := by
  have fits : ((List.range n).map (fun i => addrAdd dst.addr ((i * esize : Nat) : Int))).find?
      (fun a => (rangeCause dst esize (Perm.store + Perm.engine) true a).isSome) = none := by
    refine List.find?_eq_none.mpr fun a ha => ?_
    obtain ⟨i, hi, rfl⟩ := List.mem_map.mp ha
    rw [h i (List.mem_range.mp hi)]
    exact Bool.false_ne_true
  rw [denseRange, fits]
  rfl

/-- The elements that LDENSE has the copy engine write. -/
def denseElems (s : State) (k : Nat) (dst : Reg) (esize : Nat) (codes : List Nat) : List XElem :=
  codes.zipIdx.map (fun (x, i) => ⟨i, .bytes (leBytes esize x), memPlace s k (addrAdd dst.addr ((i * esize : Nat) : Int)) esize, esize⟩)
/-- The transfer that LDENSE gives to the copy engine of a core with tile `u`. -/
def Tile.denseXfer (u : Tile) (elems : List XElem) (bytes ctr id : Nat) : Xfer :=
  { pc := u.pc.addr, maj := 0x39, minor := 5, elems := elems, slot := none, fill := false, remote := none
    remoteSlot := none, bytes := bytes, localCtr := ctrOf ctr, remoteCtr := none
    wake := none, job := u.job, stopped := none, interval := 0, grants := [], ordered := false, destName := 0, id := id }

section
variable {o s t u : State} {w l : Fin 64} {sw : Bool} {pa : Nat} {r : Region}

theorem KeepsFlow.dense (f : Xfer) (t : Tile) : KeepsFlow (fun x => { x.counted with xfers := x.xfers ++ [f] }) t := ⟨rfl, rfl, rfl, rfl, rfl⟩

theorem ldense_through {b : List Byte} {g : Bool} {lo ext codes : List Nat} {dst : Reg} (hs : s = o.engineDone) (before : NothingBefore s)
    (ready : Ready s [wr w, wr l]) (grants : Grants (s.here.getW w) (s.here.getW w).addr 64 Perm.load 16)
    (loads : Loads s (s.here.getW w).addr 64 false u b g) (capl : Grants (s.here.getW l) (s.here.getW l).addr 128 (Perm.lattice + Perm.load) 1)
    (opens : OpensRegion u (s.here.getW l) Perm.load needR pa t r)
    (hlo : lo = (List.range 4).map (fun i => blockNat b (16 + 4 * i) 4)) (hext : ext = (List.range 4).map (fun i => blockNat b (32 + 4 * i) 4))
    (hdst : dst = blockCap b 0 g (s.here.getW w)) (ctr : ctrOk (blockNat b 48 4) = true) (clear : blockNat b 52 12 = 0)
    (box : ∀ d, d < 4 → lo.getD d 0 + ext.getD d 0 ≤ 2 ^ r.width d)
    (range : ∀ i, i < ext.foldl (· * ·) 1 → rangeCause dst (elemBytes r.cfmt) (Perm.store + Perm.engine) true
      (addrAdd dst.addr ((i * elemBytes r.cfmt : Nat) : Int)) = none)
    (room : t.here.copying < 16)
    (read : if ext.foldl (· * ·) 1 = 0 then codes = [] else boxElems lo ext ⟨r, t⟩ = .ok codes ⟨r, t⟩) :
    ∃ id, Through (exec (.ldense w l sw) o) { t with free := t.free + 1 } 4 [] (fun x => { x.counted with xfers := x.xfers ++
      [t.here.denseXfer (denseElems { t with free := t.free + 1 } t.cur dst (elemBytes r.cfmt) codes) (ext.foldl (· * ·) 1 * elemBytes r.cfmt)
        (blockNat b 48 4) id] }) := by
  obtain ⟨idle, drained⟩ := before
  have tlb : TlbOnly s t := loads.tlbOnly.trans opens.tlbOnly
  have idleT : State.here { t with free := t.free + 1 } = t.here := rfl
  obtain ⟨i, d, tile⟩ := tlb.here
  have first : ∀ x, xferFirst x { t with free := t.free + 1 } = .ok ⟨⟩ { t with free := t.free + 1 } := fun x => by
    refine xferFirst_ok ?_ (fun want => ?_) x
    · rw [idleT, tile]
      exact idle
    · exact (tlb.undrained want).trans (undrained_mono drained want)
  have readBlock := readW_ready (ready.unbound (n := w) (by simp [wr]))
  have readReg := readW_ready (ready.unbound (n := l) (by simp [wr]))
  have codesOk : ∀ rest : List Nat → Op Flow, (if ext.foldl (· * ·) 1 = 0 then pure [] >>= rest
      else coreLattice w l (s.here.getW l).addr .load pa (boxElems lo ext) >>= rest) t = rest codes t := fun rest => by
    split at read
    · next empty =>
      rw [if_pos empty, read]
      rfl
    · next filled =>
      rw [if_neg filled, bind_of_ok (opens.reads read ..)]
  subst hlo hext hdst
  refine ⟨t.free + 1, ?_⟩
  show Through (execLdense w l sw o) _ _ _ _
  rw [execLdense]
  refine metaL_leadsTo hs (ready.mono (by simp [wr])) ?_ (.inr rfl) (KeepsFlow.dense _ _)
  rw [bind_of_ok readBlock, bind_of_ok readReg, bind_of_ok (checkCap_grants grants ..), bind_of_ok (checkCap_grants capl ..),
    bind_of_ok (loads.load w 0 .load nofun 0)]
  dsimp only
  rw [bind_of_ok (opens.regionKey ..), bind_of_ok (opens.region ..), bind_of_ok (fieldOk_of ctr), bind_of_ok (fieldOk_of (decide_eq_true clear)),
    bind_of_ok (opens.reads (checkBox_ok box) ..), bind_of_ok (denseRange_ok w t range), bind_of_ok (copyRoom_ok room)]
  refine (codesOk _).trans ?_
  rw [bind_of_ok (show xferId t = .ok (t.free + 1) { t with free := t.free + 1 } from rfl)]
  simp only [op_bind, op_me, op_get, op_getT, first, latticeDone_ok, op_modT, op_seqFlow, State.modTile_modTile, State.modTile_cur]
  rfl

/-! ### LSPMM (R273) -/

theorem KeepsFlow.lspmm (op : Tile → EngOp) (t : Tile) : KeepsFlow (fun u => ((u.charged 1).counted).queued (op u)) t :=
  ⟨rfl, rfl, rfl, rfl, rfl⟩

theorem lspmm_through {n : Fin 8} {k q : Fin 16} {cells : List (Nat × Nat × Nat)} {x : Nat} (hs : s = o.engineDone) (before : NothingBefore s)
    (hw : w.val ≤ 62) (ready : Ready s [wr w, (.w, w.val + 1)]) (kind : kindOf s.cur = 1) (hx : x = (s.here.getX (w.val + 1)).toNat)
    (aligned : x / 2 ^ 32 % 32 = 0) (operand : Operand s q (s.here.ring q).head k 512)
    (opens : OpensRegion s (s.here.getW w) Perm.engine (needR + needEng) pa t r) (dims : r.dims = 2)
    (winK : windowOk (s.here.accOf n).mode k = true) (winC : windowOk (s.here.accOf n).mode r.cfmt = true)
    (read : lspmmCells (x % 2 ^ 32) (x / 2 ^ 32) ⟨r, t⟩ = .ok cells ⟨r, t⟩) (funded : Funded s) :
    Through (exec (.lspmm n k q w sw) o) t 4 [] (fun u =>
      ((u.charged 1).counted).queued (.lspmm n (s.here.ring q).head k r.cfmt cells (rmOf u.fctl) ((cells.length + 63) / 64 - 1))) := by
  obtain ⟨idle, _⟩ := before
  obtain ⟨i, d, tile⟩ := opens.tlbOnly.here
  have idleT : t.here.eng = [] := by
    rw [tile]
    exact idle
  have operandT : Operand t q (s.here.ring q).head k 512 := by
    obtain ⟨_, _, ⟨p, ht, _⟩, _⟩ := opens
    exact (tlbOnly_translateAt ht).operand (badWithin_translateAt ht) operand
  have fundedT : Funded t := opens.tlbOnly.funded funded
  have soundT := slotSound_ok idleT operandT
  have readyT : (t.here.slot (s.here.ring q).head).state = .ready := operandT.2.1
  obtain ⟨ring, _, long, _, scales⟩ := operand
  have readWord := readN_ready (ready.unbound (n := w.val + 1) (by simp [wr]))
  have readReg := readW_ready (ready.unbound (n := w) (by simp [wr]))
  have high : bf x 32 32 = x / 2 ^ 32 := by rw [hx]; exact bf_high_half _
  have plane : (do
      let g ← region
      if g.dims = 2 then pure g.cfmt else badRegion 5 : Lat Nat) ⟨r, t⟩ = .ok r.cfmt ⟨r, t⟩ :=
    (bind_of_ok (x := region) rfl).trans (congrFun (if_pos dims) _)
  have class' : lspmmClass (s.here.accOf n).mode k r.cfmt = true := by
    rw [lspmmClass, winK, winC]
    rfl
  rw [← hx] at readWord
  rw [← high] at aligned read
  show Through (execLspmm n k q w sw o) _ _ _ _
  rw [execLspmm]
  refine issue_through' ((settle_engine rfl rfl o).trans hs.symm) (unsettled_idle rfl idle)
    ⟨by rw [kind]; show 2 / 2 ^ 1 % 2 = 1; rfl, nofun, fun r h => (ready r (by simpa [metaT, metaD] using h)).1, nofun, rfl⟩ ?_ (.inr rfl) (KeepsFlow.lspmm _ _) nofun
  rw [bind_of_ok (ringUsed_ok ring), bind_of_ok (slotHolds_ok long), bind_of_ok (op_getT s),
    bind_of_ok (scalesOk_ok w fun mx => (scales mx).1), bind_of_ok (op_require (decide_eq_true hw) _ s), bind_of_ok readWord,
    bind_of_ok (fieldOk_of (decide_eq_true aligned)), bind_of_ok readReg, bind_of_ok (opens.checkCap ..), bind_of_ok (opens.regionKey ..),
    bind_of_ok (opens.reads plane ..), bind_of_ok (op_require class' _ t), bind_of_ok (opens.reads read ..), bind_of_ok (slotReady_ok readyT),
    bind_of_ok soundT, bind_of_ok (spend_funded fundedT)]
  simp only [op_bind, latticeDone_ok, sampleRm_ok, issueEngine, op_modT, op_seqFlow, State.modTile_modTile, State.modTile_cur, State.here_modTile]
  rfl
end

theorem latticeStreams : LatticeStreams := by
  intro o s t w l n k q sw pa r hs before
  refine ⟨?_, ?_⟩
  · intro u b g lo ext codes dst ready grants loads opens hlo hext hdst ctr clear box range room read
    obtain ⟨id, through⟩ := ldense_through (sw := sw) hs before ready grants loads opens.1 opens hlo hext hdst ctr clear box range room read
    refine ⟨_, through, rfl, rfl, ?_, fun i c hc => ?_⟩
    · simp [Tile.denseXfer, denseElems]
    · exact ⟨_, by rw [Tile.denseXfer, denseElems, List.getElem?_map, List.getElem?_zipIdx, hc]; rfl, rfl⟩
  · intro cells x hw ready kind hx aligned operand opens dims winK winC read funded
    exact lspmm_through hs before hw ready kind hx aligned operand opens dims winK winC read funded

/-- Settles O35: opening a region gives the state in which every operation of its unit acts; what only reads leaves that state. -/
theorem latticeResults : Obligations.LatticeResults := ⟨latticeInstructions, latticeStreams⟩

end Sys2Proof.Machine
end

section
/-! PROOF. The start of a task, the completion record of a grid, and the host's commands over grids (R36, R39, R40, R312, R426). -/

namespace Sys2Proof.Machine

/-! ### Task start (R39, R40) -/

section
variable {s : State} {k : Nat} {r : TaskRef} {g : Grid}

/-- A core's tile as its task begins. -/
def Tile.started (t : Tile) (g : Grid) (r : TaskRef) (now : Nat) : Tile :=
  { t with
    pc := g.prog, w := g.startRegs r, wake := t.wake && !g.awaitsWake
    wait := if g.awaitsWake && !t.wake then some ⟨.firstWake, now, 0xFF, 0, 0⟩ else none }

theorem Grid.startRegs_get (g : Grid) (r : TaskRef) (t : Tile) (h : t.w = g.startRegs r) {i : Nat} (hi : i < 64) :
    t.getW i = if i = 0 then Reg.null else if i = 1 then g.ctx else if i = 2 then Reg.plain (BitVec.ofNat 64 (g.rankWord r))
      else if 3 ≤ i ∧ i ≤ 10 then Reg.plain (g.args.getD (i - 3) 0) else Reg.null := by
  rw [Tile.getW, h, Grid.startRegs, Vector.getElem?_eq_getElem hi, Vector.getElem_ofFn]
  rfl

theorem taskStart_starts (task : (s.tile k).task = some r) (hg : s.grid? r.grid = some g) (fresh : g.unstarted.contains k = true) :
    exec (.taskStart k) s = .next ((s.modGrid r.grid (fun g => { g with unstarted := g.unstarted.filter (· ≠ k) })).modTile k
      (fun t => t.started g r (s.timeOf k))) := by
  show execTaskStart k s = _
  rw [execTaskStart, task]
  dsimp only
  rw [hg]
  dsimp only
  rw [if_pos fresh, State.startTask, State.modGrid_some hg]
  rfl

theorem taskStart_result (task : (s.tile k).task = some r) (hg : s.grid? r.grid = some g) (fresh : g.unstarted.contains k = true) :
    ∃ t, exec (.taskStart k) s = .next t ∧ t.mem = s.mem ∧ t.msgs = s.msgs ∧ (∀ j, j ≠ k → t.tile j = s.tile j) ∧
      t.grid? r.grid = some { g with unstarted := g.unstarted.filter (· ≠ k) } ∧ t.tile k = (s.tile k).started g r (s.timeOf k) := by
  refine ⟨_, taskStart_starts task hg fresh, ?_⟩
  have found := State.grid?_modGrid hg (fun g => { g with unstarted := g.unstarted.filter (· ≠ k) })
  rw [State.modGrid_some hg] at found ⊢
  exact ⟨rfl, rfl, fun j hj => State.tile_modTile_other _ _ hj, found, State.tile_modTile ..⟩
end

/-! ### Completion records (R36, R348) -/

/-- Bytes that the module writes at a physical address, host memory included. -/
theorem State.placed_keeps (s : State) (a n : Nat) (b : List Byte) :
    (State.sendHost ((s.hostTake a n).writeKey a b false) a b).tiles = s.tiles ∧
      (State.sendHost ((s.hostTake a n).writeKey a b false) a b).grids = s.grids ∧
      (State.sendHost ((s.hostTake a n).writeKey a b false) a b).parts = s.parts ∧
      (State.sendHost ((s.hostTake a n).writeKey a b false) a b).mem = Memory.write s.mem a b := by
  have taken : (s.hostTake a n).grids = s.grids ∧ (s.hostTake a n).parts = s.parts := by
    unfold State.hostTake
    split <;> exact ⟨rfl, rfl⟩
  have mem := s.hostTake_mem a n
  have tiles := s.hostTake_tiles a n
  generalize s.hostTake a n = u at taken mem tiles ⊢
  have sent := ((u.writeKey a b false).sendHost_atHomes a b).state
  refine ⟨?_, (congrArg State.grids sent).trans taken.1, (congrArg State.parts sent).trans taken.2, ?_⟩
  · rw [State.sendHost_tiles, State.writeKey_tiles, tiles]
  · rw [State.sendHost_mem, ← mem]
    rfl

section
variable {s : State} {p q slot status job msgdrop start fin exitval : Nat}

theorem State.writeCompletion_keeps : (s.writeCompletion p q slot status job msgdrop start fin exitval).tiles = s.tiles ∧
    (s.writeCompletion p q slot status job msgdrop start fin exitval).grids = s.grids ∧
    (s.writeCompletion p q slot status job msgdrop start fin exitval).parts = s.parts ∧
    (s.writeCompletion p q slot status job msgdrop start fin exitval).mem =
      Memory.write s.mem ((s.queue p q).recordAt slot) (completionBytes status job msgdrop start fin exitval) :=
  s.placed_keeps ..

theorem completionBytes_length : (completionBytes status job msgdrop start fin exitval).length = 32 := by
  simp [completionBytes, leBytes_length]

/-- A record is written where its slot says, and no other byte changes. -/
theorem mem_completed {m : List Host.Cell} {a : Nat} (canonical : Memory.wf m = true) {t : State}
    (h : t.mem = Memory.write m a (completionBytes status job msgdrop start fin exitval)) :
    t.readAt a 32 = completionBytes status job msgdrop start fin exitval ∧
      ∀ y, y < a ∨ a + 32 ≤ y → Memory.get t.mem y = Memory.get m y := by
  have read := Memory.read_write a (completionBytes status job msgdrop start fin exitval) canonical
  rw [completionBytes_length] at read
  refine ⟨?_, fun y hy => ?_⟩
  · rw [State.readAt, h, read]
  · rw [h]
    exact Memory.get_write_other a _ y canonical (by rw [completionBytes_length]; exact hy)
end

section
variable {s : State} {n code exitval : Nat} {g : Grid} (hg : s.grid? n = some g)
include hg

theorem State.completeGrid_eq : ∃ u colls, u = s.writeCompletion g.part g.queue g.slot
      (code + (if g.late ∧ (code = 3 ∨ code = 5 ∨ code = 6) then 2 ^ 8 else 0)) g.job (g.msgdrop % 2 ^ 32) (g.started.getD 0) (s.refTime g.part) exitval ∧
    s.completeGrid n code exitval false = { u.hpreDone g with grids := keyDel u.grids n, colls := colls } := by
  refine ⟨_, (s.completeGrid n code exitval false).colls, rfl, ?_⟩
  rw [State.completeGrid, hg]
  rfl

theorem State.completeGrid_result (canonical : Memory.wf s.mem = true) :
    (s.completeGrid n code exitval false).grid? n = none ∧ (s.completeGrid n code exitval false).tiles = s.tiles ∧
      (s.completeGrid n code exitval false).readAt ((s.queue g.part g.queue).recordAt g.slot) 32 =
        completionBytes (code + (if g.late ∧ (code = 3 ∨ code = 5 ∨ code = 6) then 2 ^ 8 else 0)) g.job (g.msgdrop % 2 ^ 32)
          (g.started.getD 0) (s.refTime g.part) exitval ∧
      ∀ y, y < (s.queue g.part g.queue).recordAt g.slot ∨ (s.queue g.part g.queue).recordAt g.slot + 32 ≤ y →
        Memory.get (s.completeGrid n code exitval false).mem y = Memory.get s.mem y := by
  obtain ⟨u, colls, hu, eq⟩ := State.completeGrid_eq (code := code) (exitval := exitval) hg
  obtain ⟨tiles, _, _, mem⟩ := State.writeCompletion_keeps (s := s) (p := g.part) (q := g.queue) (slot := g.slot)
    (status := code + (if g.late ∧ (code = 3 ∨ code = 5 ∨ code = 6) then 2 ^ 8 else 0)) (job := g.job) (msgdrop := g.msgdrop % 2 ^ 32)
    (start := g.started.getD 0) (fin := s.refTime g.part) (exitval := exitval)
  rw [← hu] at tiles mem
  rw [eq]
  exact ⟨keyFind_keyDel_same .., tiles, mem_completed canonical mem⟩
end

theorem State.withRing_next {s t : State} {p q i : Nat} (ok : s.ringOk p q i = true) (free : RingFree s p q i) : s.withRing p q i t = .next t := by
  obtain ⟨slot, record⟩ := free
  rw [State.withRing, ok, slot, record]
  rfl

section
variable {s : State} {n : Nat} {g : Grid} (hg : s.grid? n = some g) (ok : s.ringOk g.part g.queue g.slot = true)
  (free : RingFree s g.part g.queue g.slot)
include hg ok free

theorem gridComplete_exited (whole : g.abort = none) (running : g.phase = .running) (all : ∀ i, i < g.bands * g.teams * g.tasks → i ∈ g.exited) :
    exec (.gridComplete n) s = .next (s.completeGrid n (bit g.late) g.exitval.toNat false) := by
  have exited : g.allExited = true := List.all_eq_true.mpr fun i hi => List.contains_iff_mem.mpr (all i (List.mem_range.mp hi))
  show execGridComplete n s = _
  rw [execGridComplete, hg]
  dsimp only
  rw [whole]
  dsimp only
  rw [if_pos ⟨running, exited⟩, State.withRing_next ok free]

theorem gridComplete_aborted {x : Word} (abort : g.abort = some x) (gone : s.coresOf n = []) :
    exec (.gridComplete n) s = .next (s.completeGrid n 3 x.toNat false) := by
  show execGridComplete n s = _
  rw [execGridComplete, hg]
  dsimp only
  rw [abort]
  dsimp only
  rw [gone, State.withRing_next ok free]
  rfl
end

theorem taskStartAndCompletion : TaskStartAndCompletion := by
  refine ⟨fun s k r g task hg fresh => ?_, fun s n a g hg canonical ok ha free => ⟨?_, ?_⟩⟩
  · obtain ⟨t, step, mem, msgs, others, grid, tile⟩ := taskStart_result task hg fresh
    have regs : ∀ {i : Nat}, i < 64 → (t.tile k).getW i = _ := fun hi => Grid.startRegs_get g r (t.tile k) (by rw [tile]; rfl) hi
    refine ⟨t, step, mem, msgs, others, grid, by rw [tile]; rfl, regs (by decide), regs (by decide), fun i hi => ?_, fun i hi rest => ?_,
      fun off => ?_, fun on => ?_⟩
    · have arg : 3 ≤ 3 + i ∧ 3 + i ≤ 10 := by omega
      rw [regs (by omega), if_neg (by omega), if_neg (by omega), if_neg (by omega), if_pos arg, Nat.add_sub_cancel_left]
    · rw [regs hi]
      rcases rest with rfl | above
      · rfl
      · rw [if_neg (by omega), if_neg (by omega), if_neg (by omega), if_neg (by omega)]
    · have awaits : g.awaitsWake = false := decide_eq_false (by rw [bf]; omega)
      rw [tile, Tile.started, awaits]
      exact ⟨rfl, Bool.and_true _⟩
    · have awaits : g.awaitsWake = true := decide_eq_true (by rw [bf]; omega)
      rw [tile, Tile.started, awaits]
      refine ⟨Bool.and_false _, fun kept => ?_, fun asleep => ?_⟩
      · rw [kept]
        rfl
      · rw [asleep]
        rfl
  · intro whole running all
    obtain ⟨gone, tiles, record, others⟩ := State.completeGrid_result (code := bit g.late) (exitval := g.exitval.toNat) hg canonical
    refine ⟨_, gridComplete_exited hg ok free whole running all, gone, tiles, ?_, by rwa [ha]⟩
    have status : bit g.late + (if g.late = true ∧ (bit g.late = 3 ∨ bit g.late = 5 ∨ bit g.late = 6) then 2 ^ 8 else 0) = if g.late then 1 else 0 := by
      cases g.late <;> rfl
    rw [ha, record, status]
  · intro x abort gone listed
    have empty : s.coresOf n = [] := by
      rw [State.coresOf, List.map_eq_nil_iff, List.filter_eq_nil_iff]
      intro e he
      rw [listed e he, decide_eq_true_eq]
      exact gone e.1
    obtain ⟨left, tiles, record, others⟩ := State.completeGrid_result (code := 3) (exitval := x.toNat) hg canonical
    refine ⟨_, gridComplete_aborted hg ok free abort empty, left, tiles, ?_, by rwa [ha]⟩
    have status : 3 + (if g.late = true ∧ (3 = 3 ∨ 3 = 5 ∨ 3 = 6) then 2 ^ 8 else 0) = if g.late then 0x103 else 3 := by
      cases g.late <;> rfl
    rw [ha, record, status]

/-! ### The host's commands (R312, R426) -/

section
variable {s : State} {p q slot n : Nat} {g : Grid}

theorem find?_and_of_find? {α : Type} {l : List α} {f h : α → Bool} {x : α} (found : l.find? f = some x) (hx : h x = true) :
    l.find? (fun e => f e && h e) = some x := by
  rw [List.find?_eq_some_iff_append] at found ⊢
  obtain ⟨match_, before, after, parts, none_before⟩ := found
  refine ⟨by rw [match_, hx]; rfl, before, after, parts, fun y hy => ?_⟩
  have miss : f y = false := by simpa using none_before y hy
  rw [miss]
  rfl

theorem State.gridFrom_some {f : Grid → Bool} (found : s.grids.find? (fun e => decide (e.2.part = p ∧ e.2.queue = q ∧ e.2.slot = slot)) = some (n, g))
    (hf : f g = true) : s.gridFrom p q slot f = some n := by
  rw [State.gridFrom, find?_and_of_find? (h := fun e => f e.2) found hf]
  rfl
theorem State.gridFrom_none (f : Grid → Bool) (h : ∀ e ∈ s.grids, ¬ (e.2.part = p ∧ e.2.queue = q ∧ e.2.slot = slot)) :
    s.gridFrom p q slot f = none := by
  have miss : s.grids.find? (fun e => decide (e.2.part = p ∧ e.2.queue = q ∧ e.2.slot = slot) && f e.2) = none :=
    List.find?_eq_none.mpr fun e he => by rw [decide_eq_false (h e he)]; exact Bool.false_ne_true
  rw [State.gridFrom, miss]
  rfl

theorem State.writeHpre_busy {cmd : Nat} (busy : 2 ^ 63 ≤ (s.part p).hpre.toNat) : s.writeHpre p q slot cmd = s := if_pos busy

/-- The fields of HPRE as a command that it takes leaves them. -/
def State.hpreFields (s : State) (p q slot : Nat) : State := s.modPart p (fun x => { x with hpre := BitVec.ofNat 64 (slot + q * 2 ^ 32) })

theorem State.writeHpre_idle {cmd : Nat} (idle : (s.part p).hpre.toNat < 2 ^ 63) (hq : q < 16) (hslot : slot < 2 ^ 32) :
    s.writeHpre p q slot cmd = match cmd with
      | 1 => (s.hpreFields p q slot).hpreSave p q slot false
      | 2 => (s.hpreFields p q slot).hpreSave p q slot true
      | 3 => (s.hpreFields p q slot).hpreRelease p q slot
      | _ => s.hpreFields p q slot := by
  rw [State.writeHpre, if_neg (Nat.not_le.mpr (show _ < hpreBusy from idle)), Nat.mod_eq_of_lt hslot, Nat.mod_eq_of_lt hq]
  rfl

/-- What the cores of a grid that is to be saved have of it: each is to stop. -/
theorem State.stopAll_tile (w : StopReq) (l : List Nat) (s : State) (k : Nat) :
    (l.foldl (fun (s : State) k => s.modTile k (fun t => { t with stop := some w })) s).tile k =
      if k ∈ l then { s.tile k with stop := some w } else s.tile k := by
  induction l generalizing s with
  | nil => rfl
  | cons x l ih =>
    rw [List.foldl_cons, ih]
    by_cases here : k = x
    · subst here
      rw [State.tile_modTile, if_pos List.mem_cons_self]
      split <;> rfl
    · rw [State.tile_modTile_other s _ here]
      have same : k ∈ x :: l ↔ k ∈ l := by simp [here]
      simp only [same]

theorem State.hpreSave_running (hold : Bool) (hq : q < 16) (hslot : slot < 2 ^ 32)
    (found : s.grids.find? (fun e => decide (e.2.part = p ∧ e.2.queue = q ∧ e.2.slot = slot)) = some (n, g)) (hg : s.grid? n = some g)
    (running : g.phase = .running) (whole : g.abort = none) (left : g.allExited = false) :
    ((s.hpreFields p q slot).hpreSave p q slot hold).mem = s.mem ∧
      ((s.hpreFields p q slot).hpreSave p q slot hold).grid? n = some { g with phase := .saving, hold := hold, sever := none } ∧
      (((s.hpreFields p q slot).hpreSave p q slot hold).part p).hpre = BitVec.ofNat 64 (slot + q * 2 ^ 32 + 2 ^ 63) ∧
      ∀ k, (s.tile k).task.map (·.grid) = some n →
        ((s.hpreFields p q slot).hpreSave p q slot hold).tile k = { s.tile k with stop := some .save } := by
  have select : (s.hpreFields p q slot).gridFrom p q slot (fun g => decide (g.phase = .running ∧ g.abort = none) && !g.allExited) = some n :=
    State.gridFrom_some (s := s.hpreFields p q slot) found (by rw [decide_eq_true ⟨running, whole⟩, left]; rfl)
  have field : ((s.hpreFields p q slot).part p).hpre = BitVec.ofNat 64 (slot + q * 2 ^ 32) := congrArg Partition.hpre (s.part_modPart p _)
  have hg' : (s.hpreFields p q slot).grid? n = some g := hg
  rw [State.hpreSave, select]
  dsimp only
  rw [State.beginSave, State.modGrid_some hg']
  generalize hu : ({ s.hpreFields p q slot with
    grids := keySet (s.hpreFields p q slot).grids n { g with phase := .saving, hold := hold, sever := none } } : State) = u
  have tiles : ∀ k, u.tile k = s.tile k := fun k => by
    rw [← hu]
    rfl
  obtain ⟨same, _⟩ := State.stopAll_keeps .save (u.coresOf n) u
  refine ⟨?_, ?_, ?_, fun k task => ?_⟩
  · refine (congrArg State.mem same).trans ?_
    rw [← hu]
    rfl
  · refine (congrArg (fun v => keyFind (State.grids v) n) same).trans ?_
    rw [← hu]
    exact keyFind_keySet_same ..
  · refine (congrArg Partition.hpre (State.part_modPart ..)).trans ?_
    have parts : ((u.coresOf n).foldl (fun (s : State) k => s.modTile k (fun t => { t with stop := some .save })) u).part p = (s.hpreFields p q slot).part p := by
      refine (congrArg (fun v => keyGet Partition.reset (State.parts v) p) same).trans ?_
      rw [← hu]
      rfl
    dsimp only
    rw [parts, field, BitVec.toNat_ofNat, Nat.mod_eq_of_lt (show slot + q * 2 ^ 32 < 2 ^ 64 by omega),
      Nat.mod_eq_of_lt (show slot + q * 2 ^ 32 < hpreBusy by rw [hpreBusy]; omega)]
    rfl
  · obtain ⟨r, hr, rfl⟩ := Option.map_eq_some_iff.mp task
    have core : k ∈ u.coresOf r.grid := State.mem_coresOf (by rw [tiles]; exact hr)
    refine (State.stopAll_tile .save (u.coresOf r.grid) u k).trans ?_
    rw [if_pos core, tiles]

theorem State.hpreRelease_held
    (found : s.grids.find? (fun e => decide (e.2.part = p ∧ e.2.queue = q ∧ e.2.slot = slot)) = some (n, g)) (hg : s.grid? n = some g)
    (held : g.phase = .held) : (s.hpreFields p q slot).hpreRelease p q slot =
      { s.hpreFields p q slot with grids := keySet s.grids n { g with phase := .saved } } := by
  have select : (s.hpreFields p q slot).gridFrom p q slot (fun g => decide (g.phase = .held)) = some n :=
    State.gridFrom_some (s := s.hpreFields p q slot) found (decide_eq_true held)
  have hg' : (s.hpreFields p q slot).grid? n = some g := hg
  rw [State.hpreRelease, select]
  dsimp only
  rw [State.modGrid_some hg']
  rfl
end

section
variable {s : State} {p q slot n : Nat} {g : Grid} (hq : q < 16) (hslot : slot < 2 ^ 32)
include hq hslot

/-- RELAUNCH as a write leaves its fields. -/
theorem State.relaunchFields (err : Bool) (s : State) :
    s.modPart p (fun x => { x with relaunch := BitVec.ofNat 64 (slot % 2 ^ 32 + q % 16 * 2 ^ 32 + bit err * 2 ^ 62) }) =
      s.modPart p (fun x => { x with relaunch := BitVec.ofNat 64 (slot + q * 2 ^ 32 + if err then 2 ^ 62 else 0) }) := by
  have flag : bit err * 2 ^ 62 = if err then 2 ^ 62 else 0 := by cases err <;> rfl
  rw [Nat.mod_eq_of_lt hslot, Nat.mod_eq_of_lt hq, flag]

theorem relaunch_unlisted (h : ∀ x ∈ s.severances, ¬ (x.part = p ∧ x.queue = q ∧ x.slot = slot)) :
    exec (.relaunch p q slot) s = .next (s.modPart p (fun x => { x with relaunch := BitVec.ofNat 64 (slot + q * 2 ^ 32 + 2 ^ 62) })) := by
  have miss : s.severances.find? (fun x => decide (x.part = p ∧ x.queue = q ∧ x.slot = slot)) = none :=
    List.find?_eq_none.mpr fun x hx => by rw [decide_eq_true_eq]; exact h x hx
  refine congrArg Host.Outcome.next (?_ : s.writeRelaunch p q slot true = _)
  rw [State.writeRelaunch, if_neg (by decide), miss]
  exact (State.relaunchFields hq hslot true s).trans (by rw [if_pos rfl])

variable (listed : s.severances.find? (fun x => decide (x.part = p ∧ x.queue = q ∧ x.slot = slot)) = some ⟨p, q, slot, n⟩)
  (hg : s.grid? n = some g)
include listed hg

theorem relaunch_changed (other : s.readAt ((s.queue p q).slotAt slot) 128 ≠ g.packet) :
    exec (.relaunch p q slot) s = .next (s.modPart p (fun x => { x with relaunch := BitVec.ofNat 64 (slot + q * 2 ^ 32 + 2 ^ 62) })) := by
  refine congrArg Host.Outcome.next (?_ : s.writeRelaunch p q slot true = _)
  rw [State.writeRelaunch, if_neg (by decide), listed]
  dsimp only
  rw [hg]
  dsimp only
  rw [if_neg other]
  exact (State.relaunchFields hq hslot true s).trans (by rw [if_pos rfl])

theorem relaunch_accepted (same : s.readAt ((s.queue p q).slotAt slot) 128 = g.packet) :
    ∃ t, exec (.relaunch p q slot) s = .next t ∧ t.mem = s.mem ∧ t.tiles = s.tiles ∧
      t.grid? n = some { g with phase := .accepted, part := p } ∧ (t.part p).relaunch = BitVec.ofNat 64 (slot + q * 2 ^ 32) ∧
      (⟨p, q, slot, n⟩ : Severance) ∉ t.severances := by
  have hg' : State.grid? { s with severances := s.severances.filter (fun y => !decide (y = ⟨p, q, slot, n⟩)) } n = some g := hg
  refine ⟨State.modPart { s with
    severances := s.severances.filter (fun y => !decide (y = ⟨p, q, slot, n⟩))
    grids := keySet s.grids n { g with phase := .accepted, part := p } } p
      (fun x => { x with relaunch := BitVec.ofNat 64 (slot + q * 2 ^ 32) }),
    congrArg Host.Outcome.next (?_ : s.writeRelaunch p q slot true = _), ?_⟩
  · rw [State.writeRelaunch, if_neg (by decide), listed]
    dsimp only
    rw [hg]
    dsimp only
    rw [if_pos same, State.modGrid_some hg']
    refine (State.relaunchFields hq hslot false _).trans ?_
    rw [if_neg Bool.false_ne_true, Nat.add_zero]
  · refine ⟨rfl, rfl, keyFind_keySet_same .., congrArg Partition.relaunch (State.part_modPart ..), fun mem => ?_⟩
    have kept := (List.mem_filter.mp mem).2
    rw [decide_eq_true rfl] at kept
    exact Bool.false_ne_true kept
end

theorem hostCommands : HostCommands := by
  intro s p q slot n g hq hslot
  refine ⟨fun busy => ⟨congrArg _ (State.writeHpre_busy busy), congrArg _ (State.writeHpre_busy busy), congrArg _ (State.writeHpre_busy busy)⟩,
    fun idle => ⟨fun miss i hi => ?_, fun found hg => ⟨fun running whole left i hold hi => ?_, fun held => ?_⟩⟩, relaunch_unlisted hq hslot,
    fun listed hg => ⟨relaunch_accepted hq hslot listed hg, relaunch_changed hq hslot listed hg⟩⟩
  · have missed : ∀ e ∈ (s.hpreFields p q slot).grids, ¬ (e.2.part = p ∧ e.2.queue = q ∧ e.2.slot = slot) := miss
    have saves : ∀ hold, (s.hpreFields p q slot).hpreSave p q slot hold = s.hpreFields p q slot := fun hold => by
      rw [State.hpreSave, State.gridFrom_none _ missed]
    have releases : (s.hpreFields p q slot).hpreRelease p q slot = s.hpreFields p q slot := by
      rw [State.hpreRelease, State.gridFrom_none _ missed]
    simp only [List.mem_cons, List.not_mem_nil, or_false] at hi
    rcases hi with rfl | rfl | rfl
    · exact congrArg Host.Outcome.next ((State.writeHpre_idle idle hq hslot).trans (saves false))
    · exact congrArg Host.Outcome.next ((State.writeHpre_idle idle hq hslot).trans (saves true))
    · exact congrArg Host.Outcome.next ((State.writeHpre_idle idle hq hslot).trans releases)
  · have result := fun hold => State.hpreSave_running hold hq hslot found hg running whole left
    simp only [List.mem_cons, List.not_mem_nil, or_false, Prod.mk.injEq] at hi
    rcases hi with ⟨rfl, rfl⟩ | ⟨rfl, rfl⟩
    · exact ⟨_, congrArg Host.Outcome.next (State.writeHpre_idle idle hq hslot), result false⟩
    · exact ⟨_, congrArg Host.Outcome.next (State.writeHpre_idle idle hq hslot), result true⟩
  · refine ⟨_, congrArg Host.Outcome.next ((State.writeHpre_idle idle hq hslot).trans (State.hpreRelease_held found hg held)), rfl, rfl,
      keyFind_keySet_same .., ?_⟩
    show ((s.hpreFields p q slot).part p).hpre = _
    exact congrArg Partition.hpre (s.part_modPart p _)

end Sys2Proof.Machine
end

section
/-! PROOF. What the withdrawal of a wait and the end of a task leave of the holdings and the tasks of cores (R39, R55, R179, R282). -/

namespace Sys2Proof.Machine

/-! ### Holdings -/

/-- Every core holds what it held, and as much of it is under notice. -/
structure SameTokens (s t : State) : Prop where
  hold : ∀ j, (t.tile j).hold = (s.tile j).hold
  revoke : ∀ j, (t.tile j).revoke = (s.tile j).revoke

theorem SameTokens.of_each {s t : State} (h : ∀ j, (t.tile j).hold = (s.tile j).hold ∧ (t.tile j).revoke = (s.tile j).revoke) : SameTokens s t :=
  ⟨fun j => (h j).1, fun j => (h j).2⟩
theorem SameTokens.refl (s : State) : SameTokens s s := ⟨fun _ => rfl, fun _ => rfl⟩
theorem SameTokens.trans {s t u : State} (h : SameTokens s t) (g : SameTokens t u) : SameTokens s u :=
  ⟨fun j => (g.hold j).trans (h.hold j), fun j => (g.revoke j).trans (h.revoke j)⟩
theorem SameTokens.of_tiles {s t : State} (h : t.tiles = s.tiles) : SameTokens s t := .of_each fun j => by
  rw [State.tile_of_tiles h]
  exact ⟨rfl, rfl⟩
theorem SameTokens.modTile (s : State) (k : Nat) {f : Tile → Tile} (hf : ∀ x, (f x).hold = x.hold ∧ (f x).revoke = x.revoke) :
    SameTokens s (s.modTile k f) := .of_each fun j => by
  by_cases h : j = k
  · subst h
    rw [State.tile_modTile]
    exact hf _
  · rw [State.tile_modTile_other s f h]
    exact ⟨rfl, rfl⟩
@[simp] theorem State.modGrid_tiles (s : State) (n : Nat) (f : Grid → Grid) : (s.modGrid n f).tiles = s.tiles := by rw [State.modGrid_eq]
theorem SameTokens.modGrid (s : State) (n : Nat) (f : Grid → Grid) : SameTokens s (s.modGrid n f) := .of_tiles (s.modGrid_tiles n f)
theorem SameTokens.ite {c : Prop} [Decidable c] {s t u : State} (ht : SameTokens s t) (hu : SameTokens s u) : SameTokens s (if c then t else u) := by
  split
  · exact ht
  · exact hu
theorem TlbOnly.sameTokens {s t : State} (h : TlbOnly s t) : SameTokens s t := .of_each fun j => by
  obtain ⟨i, d, tile⟩ := h.tiles j
  rw [tile]
  exact ⟨rfl, rfl⟩
theorem EngineAt.sameTokens {k : Nat} {s t : State} (h : EngineAt k s t) : SameTokens s t := .of_each fun j => by
  by_cases same : j = k
  · subst same
    rw [h.here]
    exact ⟨rfl, rfl⟩
  · rw [h.other j same]
    exact ⟨rfl, rfl⟩

/-- An operation that leaves every holding as it is wherever it succeeds. -/
structure Steady {α : Type} (x : Op α) : Prop where
  run : ∀ s a t, x s = .ok a t → SameTokens s t

section
variable {α β : Type}

theorem Steady.of_still {x : Op α} (h : Still x) : Steady x := ⟨fun s a t ok => by
  rw [h s a t ok]
  exact .refl s⟩
theorem Steady.pure (a : α) : Steady (Pure.pure a : Op α) := .of_still (Still.pure a)
theorem Steady.throw (e : Exn) : Steady (MonadExcept.throw e : Op α) := .of_still (Still.throw e)
theorem Steady.bind {x : Op α} {f : α → Op β} (hx : Steady x) (hf : ∀ a, Steady (f a)) : Steady (x >>= f) := ⟨fun s b u ok => by
  obtain ⟨a, t, first, rest⟩ := bind_eq_ok ok
  exact (hx.run s a t first).trans ((hf a).run t b u rest)⟩
theorem Steady.get {f : State → Op β} (hf : ∀ s b u, f s s = .ok b u → SameTokens s u) : Steady (MonadState.get >>= f) :=
  ⟨fun s b u ok => hf s b u ok⟩
theorem Steady.changes {f : State → State} (hf : ∀ s, SameTokens s (f s)) : Steady (modify f : Op Unit) := ⟨fun s _ _ ok => by
  cases ok
  exact hf s⟩
theorem Steady.modT {f : Tile → Tile} (hf : ∀ x, (f x).hold = x.hold ∧ (f x).revoke = x.revoke) : Steady (Machine.modT f) := ⟨fun s _ t ok => by
  rw [op_modT] at ok
  cases ok
  exact .modTile s _ hf⟩
end

/-! ### Writing a register (R65, R202) -/

theorem failTranslation_fails {α : Type} {f : TransFail} {va elem : Nat} {ak : Access} {s t : State} {a : α} :
    failTranslation f va ak elem s ≠ .ok a t := fun ok => by
  unfold failTranslation at ok
  dsimp only at ok
  split at ok
  · cases ok
  · cases ok

theorem translate_steady (inst : Bool) (va need : Nat) (ak : Access) (elem : Nat) : Steady (translate inst va need ak elem) := by
  refine Steady.get fun s p t ok => ?_
  cases found : s.translateAt s.cur inst va need with
  | ok x =>
    rw [found] at ok
    cases ok
    exact (tlbOnly_translateAt found).sameTokens
  | error f =>
    rw [found] at ok
    exact absurd ok failTranslation_fails

theorem engineOver_steady (key n : Nat) (write : Bool) : Steady (engineOver key n write) :=
  .of_still (Still.bind Still.get fun _ => Still.ite (Still.throw _) (Still.pure _))

theorem consumePart_steady (key n : Nat) (ak : Access) (a : Nat) (repl : Bool) : Steady (consumePart key n ak a repl) := by
  refine Steady.bind (engineOver_steady ..) fun _ => Steady.get fun s b t ok => ?_
  split at ok
  · cases ok
  · cases ok
    exact .of_tiles (State.mend_tiles ..)

theorem noted_sameTokens (s : State) (key n : Nat) : SameTokens s (s.noted key n) := by
  obtain ⟨u, h | h⟩ := s.noted_eq key n
  · rw [h]
    exact .modTile s _ fun _ => ⟨rfl, rfl⟩
  · rw [h]
    exact .refl s

theorem storeAt_steady (fld src a : Nat) (data : List Byte) (ak : Access) (eng hard want : Bool) (elem : Nat) (gen : Option Nat) :
    Steady (storeAt fld src a data ak eng hard want elem gen) := by
  have note : ∀ key n, Steady (noteStore key n) := fun key n => .changes fun s => noted_sameTokens s key n
  have place : ∀ (p : Phys), Steady (modT (fun t => { t with stores := t.stores ++ [
      { key := p.key, data := data, tag := want && p.capst && !isHost p.key, repl := p.repl, committed := t.chord.isNone,
        run := t.runs, append := gen }] })) := fun p => .modT fun _ => ⟨rfl, rfl⟩
  unfold storeAt
  dsimp only
  split
  · exact .throw _
  · split
    · exact .throw _
    · exact .pure _
  · exact .bind (.get fun s _ _ ok => by cases ok; exact .refl s) fun k => .bind (consumePart_steady ..) fun _ =>
      .bind (note ..) fun _ => .changes fun s => .of_tiles (State.writeKey_tiles ..)
  · exact .bind (translate_steady ..) fun p => .bind (consumePart_steady ..) fun _ => .bind (note ..) fun _ => place p

theorem writeW_steady (n : Nat) (v : Reg) : Steady (writeW n v) := by
  have grants : ∀ (fld src : Nat) (c : Reg) (a n perms align : Nat) (ak : Access), Steady (checkCap fld src c a n perms align ak) :=
    fun fld src c a n perms align ak => .of_still (by
      unfold checkCap
      repeat refine Still.bind (Still.require _ _ (Still.throw _)) fun _ => ?_
      exact Still.require _ _ (Still.throw _))
  unfold writeW
  split
  · exact .pure _
  · refine .bind (.get fun s _ _ ok => by cases ok; exact .refl s) fun t => ?_
    split
    · split
      · exact .bind (.of_still (Still.require _ _ (Still.throw _))) fun _ => .bind (grants ..) fun _ =>
          .bind (.changes fun s => (engineAt_engineDrain s s.cur).sameTokens) fun _ => .bind (storeAt_steady ..) fun _ => .modT fun _ => ⟨rfl, rfl⟩
      · exact .pure _
    · exact .modT fun _ => ⟨rfl, rfl⟩

/-! ### Withdrawing a wait (R55, R282) -/

theorem takeDue_sameTokens {s t : State} {k : Nat} {d : Due} {x : Word} (h : s.takeDue k d x = .ok ⟨⟩ t) : SameTokens s t := by
  unfold State.takeDue at h
  split at h
  · next r g _ _ =>
    dsimp only at h
    split at h
    · next u ok =>
      cases h
      have wrote := (writeW_steady d.wd (Reg.plain x)).run _ _ u ok
      refine .trans (.of_tiles ?_) (wrote.trans (.of_tiles ?_))
      · exact State.modGrid_tiles ..
      · rfl
    · cases h
  · cases h
    exact .refl s

theorem leaveDue_sameTokens (k : Nat) (l : List Due) (s : State) : SameTokens s (State.leaveDue k l s) := by
  induction l generalizing s with
  | nil => exact .refl s
  | cons d l ih =>
    rw [State.leaveDue]
    split
    · split
      · next took => exact (takeDue_sameTokens took).trans (ih _)
      · exact ih s
    · dsimp only
      refine .trans ?_ (.modTile _ k fun _ => ⟨rfl, rfl⟩)
      split
      · exact foldl_keeps .refl .trans (fun s d => .modGrid s ..) _ s
      · exact .refl s

theorem withdrawWait_sameTokens (s : State) (k : Nat) (hang : Bool) : SameTokens s (s.withdrawWait k hang) := by
  unfold State.withdrawWait
  refine .ite (leaveDue_sameTokens ..) ?_
  split
  · split
    · exact .ite (.refl s) (.modGrid ..)
    · exact .of_tiles rfl
    · exact .refl s
  · exact .refl s

/-! ### A task leaves its core (R39, R179) -/

/-- The grids stand as they did, and every core has the task that it had. -/
structure SameTasks (s t : State) : Prop where
  grids : t.grids = s.grids
  task : ∀ j, (t.tile j).task = (s.tile j).task

theorem SameTasks.refl (s : State) : SameTasks s s := ⟨rfl, fun _ => rfl⟩
theorem SameTasks.trans {s t u : State} (h : SameTasks s t) (g : SameTasks t u) : SameTasks s u :=
  ⟨g.grids.trans h.grids, fun j => (g.task j).trans (h.task j)⟩
theorem SameTasks.modTile (s : State) (k : Nat) {f : Tile → Tile} (hf : ∀ x, (f x).task = x.task) : SameTasks s (s.modTile k f) := by
  refine ⟨rfl, fun j => ?_⟩
  by_cases h : j = k
  · subst h
    rw [State.tile_modTile]
    exact hf _
  · rw [State.tile_modTile_other s f h]
theorem SameTasks.modDie (s : State) (d : Nat) (f : Die → Die) : SameTasks s (s.modDie d f) := ⟨rfl, fun _ => rfl⟩
theorem Rebalanced.sameTasks {s t : State} (h : Rebalanced s t) : SameTasks s t := ⟨by rw [h.state], fun j => by rw [h.tile]⟩

theorem takeEvents_sameTasks (s : State) (k : Nat) : SameTasks s (s.takeEvents k) := by
  refine ⟨by rw [State.takeEvents_eq], fun j => ?_⟩
  by_cases h : j = k
  · subst h
    rw [State.takeEvents_tile]
  · rw [State.takeEvents_other s h]
theorem dropChord_sameTasks (s : State) (k : Nat) : SameTasks s (s.dropChord k) := by
  unfold State.dropChord
  split
  · exact .refl s
  · exact .trans (foldl_keeps .refl .trans (fun s m => .modTile s m fun _ => rfl) _ s) (.modTile _ k fun t => by
      have committed : t.commitRuns.task = t.task := rfl
      exact committed)
theorem leaveConsort_sameTasks (s : State) (k : Nat) : SameTasks s (s.leaveConsort k) := by
  refine .trans (.modTile s k (f := fun t => { t with consort := none }) fun _ => rfl) ⟨rfl, fun j => ?_⟩
  have each : (fun e : Nat × Tile => if e.2.consort.map (·.leader) = some k then (e.1, { e.2 with consort := none }) else e) =
      fun e => (e.1, if e.2.consort.map (·.leader) = some k then { e.2 with consort := none } else e.2) := by
    funext e
    split <;> rfl
  refine congrArg Tile.task (((congrArg (fun f => keyGet Tile.idle ((s.modTile k fun t => { t with consort := none }).tiles.map f) j) each)).trans
    (keyGet_map_value (fun t : Tile => if t.consort.map (·.leader) = some k then { t with consort := none } else t) Tile.idle rfl _ j)) |>.trans ?_
  split <;> rfl
theorem passOwed_sameTasks (v m : Nat) (l : List Owed) (n : Nat) (s : State) : SameTasks s (passOwed v m l n s).2 := by
  induction l generalizing n s with
  | nil => exact .refl s
  | cons o l ih =>
    unfold passOwed
    split
    · exact ih n s
    · dsimp only
      refine .trans (.trans (.modTile s o.requester ?_) (.modTile _ o.requester ?_)) (ih ..)
      · exact fun _ => rfl
      · exact fun _ => rfl
theorem releaseTokens_sameTasks (s : State) (k : Nat) : SameTasks s (s.releaseTokens k) := by
  unfold State.releaseTokens State.passTokens
  dsimp only
  refine .trans (.trans (.modDie s ..) (.trans (passOwed_sameTasks ..) (.modDie ..))) (.modTile _ k ?_)
  exact fun _ => rfl

/-- A core that its task leaves has none; every other core keeps its own, and the grids stand as they did. -/
theorem State.clearTask_tasks (s : State) (k : Nat) : (s.clearTask k).grids = s.grids ∧
    ∀ j, ((s.clearTask k).tile j).task = if j = k then none else (s.tile j).task := by
  have left : SameTasks s ((((s.takeEvents k).dropChord k).leaveConsort k).releaseTokens k) :=
    .trans (.trans (.trans (takeEvents_sameTasks s k) (dropChord_sameTasks _ k)) (leaveConsort_sameTasks _ k)) (releaseTokens_sameTasks _ k)
  unfold State.clearTask
  dsimp only
  generalize (((s.takeEvents k).dropChord k).leaveConsort k).releaseTokens k = u at left ⊢
  have balanced := (((u.zeroScratch k).modTile k (fun t => t.vacated (u.timeOf k))).balanceZone_rebalanced (dieOf k)).sameTasks
  refine ⟨balanced.grids.trans left.grids, fun j => (balanced.task j).trans ?_⟩
  by_cases h : j = k
  · subst h
    rw [State.tile_modTile, if_pos rfl]
    rfl
  · rw [State.tile_modTile_other _ _ h, if_neg h]
    exact left.task j

/-- The tasks of a list of cores leave them. -/
theorem State.clearTasks_tasks (l : List Nat) (s : State) : (l.foldl (fun (s : State) k => s.clearTask k) s).grids = s.grids ∧
    ∀ j, ((l.foldl (fun (s : State) k => s.clearTask k) s).tile j).task = if j ∈ l then none else (s.tile j).task := by
  induction l generalizing s with
  | nil => exact ⟨rfl, fun _ => rfl⟩
  | cons k l ih =>
    obtain ⟨grids, tasks⟩ := ih (s.clearTask k)
    obtain ⟨same, each⟩ := s.clearTask_tasks k
    refine ⟨grids.trans same, fun j => (tasks j).trans ?_⟩
    rw [each]
    by_cases h : j = k
    · subst h
      rw [if_pos rfl, if_pos List.mem_cons_self, ite_self]
    · have same : j ∈ k :: l ↔ j ∈ l := by simp [h]
      rw [if_neg h]
      simp only [same]

end Sys2Proof.Machine
end

section
/-! PROOF. Saving a task and a grid, and resuming a saved grid (R55, R56, R363, R364). -/

namespace Sys2Proof.Machine

/-! ### The save of a grid (R55, R363) -/

section
variable {w : State} {n : Nat} {h : Grid} (hg : w.grid? n = some h) (whole : h.sever = none)
include hg whole

theorem State.finishSave_result : ∃ h', (w.finishSave n).grid? n = some h' ∧ h'.saved = h.saved ∧ h'.phase = (if h.hold then .held else .saved) ∧
    ∀ j, ((w.finishSave n).tile j).task.map (·.grid) ≠ some n := by
  rw [State.finishSave, hg]
  dsimp only
  have found := State.grid?_modGrid hg (fun x => { x with consorts := w.gridConsorts n h })
  have tiles := w.modGrid_tiles n (fun x => { x with consorts := w.gridConsorts n h })
  generalize w.modGrid n (fun x => { x with consorts := w.gridConsorts n h }) = u at found tiles ⊢
  obtain ⟨grids, tasks⟩ := State.clearTasks_tasks (u.coresOf n) u
  generalize (u.coresOf n).foldl (fun (s : State) k => s.clearTask k) u = v at grids tasks ⊢
  have kept : State.grid? { v with accounts := v.accounts.map (fun a => if a.1 = .job h.part h.job then (a.1, { a.2 with preempted := true }) else a) } n =
      some { h with consorts := w.gridConsorts n h } := (congrArg (fun l => keyFind l n) grids).trans found
  rw [if_neg (by rw [whole]; exact Bool.false_ne_true), State.modGrid_some kept]
  refine ⟨_, keyFind_keySet_same .., rfl, rfl, fun j => ?_⟩
  show ((v.tile j).task).map (·.grid) ≠ some n
  rw [tasks]
  split
  · exact nofun
  · next away =>
    intro mine
    obtain ⟨r, hr, rfl⟩ := Option.map_eq_some_iff.mp mine
    exact away (State.mem_coresOf hr)

theorem State.checkSaved_result (saving : h.phase = .saving) (left : h.allExited = false) :
    ∃ h', (w.checkSaved n).grid? n = some h' ∧ h'.saved = h.saved ∧
      ((w.coresOf n).all (fun j => h.saved.any (fun x => decide (x.core = j))) = true →
        h'.phase = (if h.hold then .held else .saved) ∧ ∀ j, ((w.checkSaved n).tile j).task.map (·.grid) ≠ some n) ∧
      ((w.coresOf n).all (fun j => h.saved.any (fun x => decide (x.core = j))) = false → h'.phase = .saving ∧ (w.checkSaved n).mem = w.mem) := by
  have step : w.checkSaved n = if (w.coresOf n).all (fun j => h.saved.any (fun x => decide (x.core = j))) then w.finishSave n else w := by
    rw [State.checkSaved, hg]
    dsimp only
    rw [if_neg (by rw [saving]; exact fun no => no rfl), left]
    rfl
  rw [step]
  cases (w.coresOf n).all (fun j => h.saved.any (fun x => decide (x.core = j))) with
  | true =>
    obtain ⟨h', found, saved, phase, tasks⟩ := State.finishSave_result hg whole
    exact ⟨h', found, saved, fun _ => ⟨phase, tasks⟩, nofun⟩
  | false => exact ⟨h, hg, rfl, nofun, fun _ => ⟨saving, rfl⟩⟩
end

/-! ### TASK_SAVE (R55) -/

/-- What is kept of a task of rank `rank` once its record is written, of its core's tile `x`. -/
def savedEntry (k rank : Nat) (x : Tile) : SavedTask :=
  { grank := rank, core := k, hold := x.hold - x.revoke, wake := false, aside := x, written := true }

section
variable {s u v : State} {k : Nat} {r : TaskRef} {g : Grid}

theorem taskSave_writes (task : (s.tile k).task = some r) (hg : s.grid? r.grid = some g) (saving : g.phase = .saving)
    (stands : (s.tile k).atStop = true) (begun : g.unstarted.contains k = false) (unsaved : g.saved.any (fun x => decide (x.core = k)) = false)
    (hu : u = (s.engineDrain k).drainStores k) (moved : u.xfersOut k = false) (idle : (u.tile k).eng = [])
    (drained : u.undrained k (fun _ => true) = false) (filled : ∀ i : Fin 256, (u.tile k).slots[i].state ≠ .filling)
    (ok : s.ringOk g.part g.queue g.slot = true) (free : RingFree s g.part g.queue g.slot) :
    exec (.taskSave k) s = .next (u.saveTask k r.grid g r) := by
  have none_filling : (u.tile k).slots.toList.any (fun x => decide (x.state = .filling)) = false := by
    rw [List.any_eq_false]
    intro x hx
    obtain ⟨i, hi, rfl⟩ := List.mem_iff_getElem.mp hx
    rw [decide_eq_true_eq]
    exact filled ⟨i, by simpa using hi⟩
  have ready : (u.xfersOut k || !(u.tile k).eng.isEmpty || u.undrained k (fun _ => true) ||
      (u.tile k).slots.toList.any (fun x => decide (x.state = .filling))) = false := by
    rw [moved, idle, drained, none_filling]
    rfl
  show execTaskSave k s = _
  rw [execTaskSave, task]
  dsimp only
  rw [hg]
  dsimp only
  rw [if_neg (by rw [saving, stands, begun, unsaved]; simp), ← hu, if_neg (by rw [ready]; exact Bool.false_ne_true), State.withRing_next ok free]

theorem State.saveTask_written
    (written : ((u.withdrawWait k false).modTile k Tile.keptAside).writeRecord k (g.ctx.addr + 458752 * grankOf g r) = .ok v) :
    u.saveTask k r.grid g r = (v.modGrid r.grid (fun g' => { g' with saved := g'.saved ++
      [savedEntry k (grankOf g r) (((u.withdrawWait k false).modTile k Tile.keptAside).tile k)] })).checkSaved r.grid := by
  have record : ((u.withdrawWait k false).modTile k Tile.keptAside).writeRecord k (g.ctx.addr + recordBytes * grankOf g r) = .ok v := written
  rw [State.saveTask]
  dsimp only
  rw [record]
  rfl

theorem savedEntry_hold (u : State) (k rank : Nat) :
    (savedEntry k rank (((u.withdrawWait k false).modTile k Tile.keptAside).tile k)).hold = (u.tile k).hold - (u.tile k).revoke := by
  have same := withdrawWait_sameTokens u k false
  rw [State.tile_modTile]
  show ((u.withdrawWait k false).tile k).hold - ((u.withdrawWait k false).tile k).revoke = _
  rw [same.hold, same.revoke]
end

/-! ### GRID_RESUME (R56, R364) -/

section
variable {s : State} {n : Nat} {g : Grid} {cores : List Nat} {pairs : List (SavedTask × Nat)}

/-- The tasks of a saved grid, put on their cores. -/
def State.seated (s : State) (g : Grid) (n : Nat) (pairs : List (SavedTask × Nat)) : State :=
  pairs.foldl (fun (s : State) x => s.seat g n x.1.grank x.2) s

theorem gridResume_resumes (hg : s.grid? n = some g) (saved : g.phase = .saved)
    (chosen : ∃ c, s.chosen g.part = some c ∧ c.resumed = true ∧ c.id = n) (free : s.holdsPlacement g.part = false)
    (found : s.resumeCores g.saved [] = some cores) (hp : pairs = g.saved.zip cores) (ok : s.ringOk g.part g.queue g.slot = true)
    (ring : RingFree s g.part g.queue g.slot) : exec (.gridResume n) s = .next (s.resumeOn n g pairs) := by
  obtain ⟨c, choice, resumed, rfl⟩ := chosen
  have mine : (c.resumed && decide (c.id = c.id)) = true := by rw [resumed, decide_eq_true rfl]; rfl
  show execGridResume c.id s = _
  rw [execGridResume, hg]
  dsimp only
  rw [choice]
  dsimp only
  rw [if_neg (by rw [mine, free]; decide), if_neg (by rw [saved]; decide), found]
  dsimp only
  rw [State.withRing_next ok ring, hp]

/-- The grids stand as they did. -/
structure SameGrids (s t : State) : Prop where
  grids : t.grids = s.grids
theorem SameGrids.refl (s : State) : SameGrids s s := ⟨rfl⟩
theorem SameGrids.trans {s t u : State} (h : SameGrids s t) (h' : SameGrids t u) : SameGrids s u := ⟨h'.grids.trans h.grids⟩

theorem reconsort_sameGrids (s : State) (g : Grid) : SameGrids s (s.reconsort g) := by
  refine foldl_keeps .refl .trans (fun s c => foldl_keeps .refl .trans (fun s r => ?_) _ s) _ s
  split
  · exact .refl s
  · exact ⟨rfl⟩
theorem askTokens_sameGrids (s : State) (k m : Nat) : SameGrids s (s.askTokens k m) := by
  unfold State.askTokens
  split
  · exact .refl s
  · exact ⟨rfl⟩

theorem resumeOn_runs {v : State} (restored : (s.seated g n pairs).restoreAll g pairs = .ok v) :
    ∃ h, (s.resumeOn n g pairs).grid? n = some h ∧ h.phase = .running ∧ h.saved = [] ∧ h.exited = g.exited := by
  rw [State.seated] at restored
  rw [State.resumeOn, restored]
  dsimp only
  generalize pairs.foldl (fun (s : State) x => s.recompose x.2 x.1.aside.chord) v = u
  refine ⟨_, (congrArg (fun l => keyFind l n) (SameGrids.trans (reconsort_sameGrids _ _)
    (foldl_keeps .refl .trans (fun s r => askTokens_sameGrids s ..) _ _)).grids).trans (keyFind_keySet_same ..), rfl, rfl, rfl⟩

theorem resumeOn_waits (busy : (s.seated g n pairs).restoreAll g pairs = .error none) : s.resumeOn n g pairs = s := by
  rw [State.seated] at busy
  rw [State.resumeOn, busy]
theorem resumeOn_ends {x : Word} (lost : (s.seated g n pairs).restoreAll g pairs = .error (some x)) :
    s.resumeOn n g pairs = s.completeGrid n 6 x.toNat false := by
  rw [State.seated] at lost
  rw [State.resumeOn, lost]
end

theorem saveAndResume : SaveAndResume := by
  refine ⟨?_, ?_⟩
  · intro s u v k r g g' task hg saving stands begun unsaved hu moved idle drained filled ok free written hg' whole saving' left
    have step := taskSave_writes task hg saving stands begun unsaved hu moved idle drained filled ok free
    rw [State.saveTask_written written] at step
    have hold := savedEntry_hold u k (grankOf g r)
    generalize ((u.withdrawWait k false).modTile k Tile.keptAside).tile k = x at step hold
    have added := State.grid?_modGrid hg' (fun g' => { g' with saved := g'.saved ++ [savedEntry k (grankOf g r) x] })
    obtain ⟨h, found, saved, all, some_left⟩ := State.checkSaved_result added whole saving' left
    have tiles := v.modGrid_tiles r.grid (fun g' => { g' with saved := g'.saved ++ [savedEntry k (grankOf g r) x] })
    have cores : State.coresOf (v.modGrid r.grid fun g' => { g' with saved := g'.saved ++ [savedEntry k (grankOf g r) x] }) r.grid = v.coresOf r.grid := by
      rw [State.coresOf, State.coresOf, tiles]
    have mem : (v.modGrid r.grid fun g' => { g' with saved := g'.saved ++ [savedEntry k (grankOf g r) x] }).mem = v.mem := by rw [State.modGrid_eq]
    rw [cores] at all some_left
    refine ⟨_, h, step, found, ⟨_, saved, rfl, rfl, rfl, hold⟩, ?_, ?_⟩
    · rw [saved]
      exact all
    · rw [saved]
      exact fun no => ⟨(some_left no).1, (some_left no).2.trans mem⟩
  · intro s n g cores pairs hg saved chosen free found hp ok ring
    have step := gridResume_resumes hg saved chosen free found hp ok ring
    refine ⟨fun v restored => ?_, fun busy => ?_, fun x lost canonical => ?_⟩
    · obtain ⟨h, running⟩ := resumeOn_runs restored
      exact ⟨_, h, step, running⟩
    · rw [step, resumeOn_waits busy]
    · rw [resumeOn_ends lost] at step
      obtain ⟨gone, _, record, _⟩ := State.completeGrid_result (code := 6) (exitval := x.toNat) hg canonical
      refine ⟨_, step, gone, record.trans ?_⟩
      have status : 6 + (if g.late = true ∧ (6 = 3 ∨ 6 = 5 ∨ 6 = 6) then 2 ^ 8 else 0) = if g.late then 0x106 else 6 := by
        cases g.late <;> rfl
      rw [status]

/-- Settles O42: a record lies where its slot says; a save keeps the grid until its last task is saved; the host's commands select by slot. -/
theorem gridLife : Obligations.GridLife := ⟨taskStartAndCompletion, saveAndResume, hostCommands⟩

end Sys2Proof.Machine
end

section
/-! PROOF. LAUNCH (R297). -/

namespace Sys2Proof.Machine

/-! ### Tags of granules (R106) -/

theorem mem_tagIns (l : List Nat) (g x : Nat) : x ∈ tagIns l g ↔ x = g ∨ x ∈ l := by
  induction l with
  | nil => simp [tagIns]
  | cons y l ih =>
    rw [tagIns]
    split
    · exact List.mem_cons
    · split
      · next same =>
        subst same
        simp
      · rw [List.mem_cons, ih, List.mem_cons]
        exact or_left_comm
theorem tagGet_tagIns_same (l : List Nat) (g : Nat) : tagGet (tagIns l g) g = true :=
  List.contains_iff_mem.mpr ((mem_tagIns ..).mpr (.inl rfl))
theorem tagGet_tagIns_other (l : List Nat) {g x : Nat} (h : x ≠ g) : tagGet (tagIns l g) x = tagGet l x :=
  Bool.eq_iff_iff.mpr (by rw [tagGet, tagGet, List.contains_iff_mem, List.contains_iff_mem, mem_tagIns, or_iff_right h])
/-- A granule that a cleared range touches has no tag. -/
theorem tagGet_tagClear (l : List Nat) {a n g : Nat} (h : a < 16 * g + 16 ∧ 16 * g < a + n) : tagGet (tagClear l a n) g = false := by
  rw [tagGet, List.contains_eq_mem, decide_eq_false_iff_not, tagClear, List.mem_filter]
  rintro ⟨_, apart⟩
  simp only [Bool.or_eq_true, decide_eq_true_eq] at apart
  omega

/-- Tags of two granules put into a list that has neither. -/
theorem tags_put {l : List Nat} {n : Nat} (low : tagGet l n = false) (high : tagGet l (n + 1) = false) (t0 t1 : Bool) (l' : List Nat)
    (h : l' = (if t1 then tagIns (if t0 then tagIns l n else l) (n + 1) else if t0 then tagIns l n else l)) :
    tagGet l' n = t0 ∧ tagGet l' (n + 1) = t1 := by
  subst h
  have apart : n ≠ n + 1 := by omega
  cases t0 <;> cases t1
  · exact ⟨low, high⟩
  · exact ⟨(tagGet_tagIns_other _ apart).trans low, tagGet_tagIns_same ..⟩
  · exact ⟨tagGet_tagIns_same .., (tagGet_tagIns_other _ apart.symm).trans high⟩
  · exact ⟨(tagGet_tagIns_other _ apart).trans (tagGet_tagIns_same ..), tagGet_tagIns_same ..⟩

/-! ### Queues (R31) -/

theorem State.queue_modQueue (s : State) (p : Nat) {q : Nat} (hq : q < 16) (f : Queue → Queue) : (s.modQueue p q f).queue p q = f (s.queue p q) := by
  rw [State.queue, State.modQueue, State.part_modPart]
  simp [hq]

theorem Loads.length {s t : State} {a n : Nat} {eng : Bool} {b : List Byte} {g : Bool} (h : Loads s a n eng t b g) : b.length = n := by
  rcases h with ⟨w, off, _, _, _, _, rfl, _⟩ | ⟨off, _, _, rfl, _⟩ | ⟨p, _, _, _, _, _, rfl, _⟩
  · exact Memory.read_length ..
  · rw [State.infoBytes, List.length_map, List.length_range]
  · rw [State.seen, List.length_map, List.length_range]

/-! ### A packet is enqueued (R297) -/

section
variable {u : State} {p x : Nat} {b : List Byte} {g g' : Bool} {k : Queue} (hk : k = u.queue p x) (hx : x < 16)
include hk

theorem State.enqueue_mem : (u.enqueue p x b g g').mem = Memory.write u.mem (k.slotAt k.qwr) b := by subst hk; rfl
theorem State.enqueue_tags : (u.enqueue p x b g g').tags =
    (if g' && !isHost (k.slotAt k.qwr) then tagIns (if g && !isHost (k.slotAt k.qwr) then tagIns (tagClear u.tags (k.slotAt k.qwr) b.length)
        (k.slotAt k.qwr / 16) else tagClear u.tags (k.slotAt k.qwr) b.length) (k.slotAt k.qwr / 16 + 1)
      else if g && !isHost (k.slotAt k.qwr) then tagIns (tagClear u.tags (k.slotAt k.qwr) b.length) (k.slotAt k.qwr / 16)
      else tagClear u.tags (k.slotAt k.qwr) b.length) := by
  subst hk
  rfl
include hx
theorem State.enqueue_queue : (u.enqueue p x b g g').queue p x = { k with qwr := (k.qwr + 1) % 2 ^ 32 } := by
  subst hk
  exact State.queue_modQueue _ _ hx _
end

/-! ### The instruction -/

section
variable {o s t u v w : State} {q p : Fin 64} {sw : Bool} {x a : Nat} {b b' : List Byte} {g g' : Bool} {k : Queue}
  (hs : s = o.settled .system) (performed : Performed s .system) (ready : Ready s [wr q, wr p]) (hx : x = (s.here.getX q).toNat) (small : x < 16)
  (ha : a = (s.here.getW p).addr) (grants : Grants (s.here.getW p) a 128 (Perm.load + Perm.loadCap) 128)
  (first : Loads s a 128 false t b g) (second : Loads t (a + 16) 16 false u b' g')
include hs performed ready hx small ha grants first second

/-- What LAUNCH does once it has read its packet. -/
theorem launch_through {f : Tile → Tile} (rest : (if (u.queue (u.partNo u.cur) x).full || (u.partOf u.cur).isNone then do
        writeX q (BitVec.allOnes 64)
        seqFlow
      else do
        require (backed ((u.queue (u.partNo u.cur) x).slotAt (u.queue (u.partNo u.cur) x).qwr) 128) (throw (.fault .noSuchAddress))
        modify (fun s => s.enqueue (u.partNo u.cur) x b g g')
        writeN q (u.queue (u.partNo u.cur) x).qwr
        seqFlow : Op Flow) u = .ok .seq w)
    (hu : Upd v w f) (hf : KeepsFlow f v.here) (hv : v.here.ag = s.here.ag) :
    Through (exec (.launch q p sw) o) v 4 (results [wr q]) f := by
  subst hx ha
  have readQ := readN_ready (ready.unbound (n := q) (by simp [wr]))
  have readP := readW_ready (ready.unbound (n := p) (by simp [wr]))
  have high : bf (s.here.getX q).toNat 4 (64 - 4) = 0 := by rw [bf]; omega
  have allReady : Ready s ([wr q, wr p] ++ [wr q]) := ready.mono (by simp [wr])
  show Through (execLaunch q p sw o) _ _ _ _
  rw [execLaunch]
  refine issue_through' (s := o) (u := s) ((settle_both rfl rfl o).trans hs.symm) (unsettled_performed rfl rfl performed)
    (Ready.passes (by exact allReady) rfl rfl rfl rfl) ?_ hu hf ((Ready.noAppend (m := { metaD 0x3B 4 sw [wr q, wr p] [wr q] with
      sync := true, drain := .stores .system }) allReady).congr hv)
  rw [← rest, bind_of_ok readQ, bind_of_ok (zeroField_of high), bind_of_ok readP, bind_of_ok (checkCap_grants grants ..),
    bind_of_ok (first.load p 0 .load nofun 0)]
  dsimp only
  rw [bind_of_ok (second.load p 0 .load nofun 0)]
  dsimp only
  rw [bind_of_ok (op_get u), Nat.mod_eq_of_lt small]

theorem launch_refused (free : u.here.bound q = none) (hk : k = u.queue (u.partNo u.cur) x)
    (h : k.n = 0 ∨ (k.qwr + 2 ^ 32 - k.qrd) % 2 ^ 32 = 2 ^ k.n ∨ u.partOf u.cur = none) :
    Through (exec (.launch q p sw) o) u 4 (results [wr q]) (fun y => y.putX q (BitVec.allOnes 64)) := by
  have refused : (k.full || (u.partOf u.cur).isNone) = true := by
    rw [Bool.or_eq_true, Queue.full, decide_eq_true_eq, Option.isNone_iff_eq_none]
    exact or_assoc.mpr h
  obtain ⟨w, hw, upd⟩ := writeX_ready (BitVec.allOnes 64) free
  refine launch_through hs performed ready hx small ha grants first second ?_ upd (KeepsFlow.putX ..) (second.ag.trans first.ag)
  rw [← hk, if_pos refused, bind_of_ok hw, op_seqFlow]

theorem launch_enqueues (free : u.here.bound q = none) (hk : k = u.queue (u.partNo u.cur) x) (sized : k.n ≠ 0)
    (room : (k.qwr + 2 ^ 32 - k.qrd) % 2 ^ 32 ≠ 2 ^ k.n) (part : u.partOf u.cur ≠ none) (back : backed (k.slotAt k.qwr) 128 = true) :
    Through (exec (.launch q p sw) o) (u.enqueue (u.partNo u.cur) x b g g') 4 (results [wr q]) (fun y => y.putX q (BitVec.ofNat 64 k.qwr)) := by
  have taken : ¬ (k.full || (u.partOf u.cur).isNone) = true := by
    rw [Bool.or_eq_true, Queue.full, decide_eq_true_eq, Option.isNone_iff_eq_none]
    exact fun h => h.elim (fun h => h.elim sized room) part
  have ag : (u.enqueue (u.partNo u.cur) x b g g').here.ag = u.here.ag := rfl
  obtain ⟨w, hw, upd⟩ := writeN_seqFlow (s := u.enqueue (u.partNo u.cur) x b g g') k.qwr (by rw [Tile.bound_congr ag, free])
  refine launch_through hs performed ready hx small ha grants first second ?_ upd (KeepsFlow.putX ..) (ag.trans (second.ag.trans first.ag))
  rw [← hk, if_neg taken, bind_of_ok (op_require back _ u)]
  exact (bind_of_ok (op_modify ..)).trans hw
end

theorem launchResult : LaunchResult := by
  intro o s t u q p sw x a b b' g g' k hs performed ready hx small ha grants first second _ free hk
  refine ⟨launch_refused hs performed ready hx small ha grants first second free hk, fun sized room part back canonical aligned => ?_⟩
  have length := first.length
  have mem := State.enqueue_mem (b := b) (g := g) (g' := g') hk
  have queue := State.enqueue_queue (b := b) (g := g) (g' := g') hk small
  have qrd := congrArg Queue.qrd queue
  have read := Memory.read_write (k.slotAt k.qwr) b canonical
  rw [length] at read
  refine ⟨_, launch_enqueues hs performed ready hx small ha grants first second free hk sized room part back, rfl, congrArg Queue.qwr queue, qrd,
    (congrArg (fun m => Memory.read m _ 128) mem).trans read, fun home => ?_, fun y hy => ?_⟩
  · have slot : k.slotAt k.qwr % 16 = 0 := by rw [Queue.slotAt]; omega
    have tags := State.enqueue_tags (b := b) (g := g) (g' := g') hk
    rw [home, length] at tags
    refine tags_put (l := tagClear u.tags (k.slotAt k.qwr) 128) (tagGet_tagClear _ (by omega)) (tagGet_tagClear _ (by omega)) g g' _ ?_
    rw [tags]
    simp only [Bool.not_false, Bool.and_true]
  · rw [mem]
    exact Memory.get_write_other _ b y canonical (by rw [length]; exact hy)

end Sys2Proof.Machine
end

section
/-! PROOF. Where a placement puts the tasks of a grid (R37). -/

namespace Sys2Proof.Machine

/-! ### Blocks of equal length -/

theorem flatMap_getElem? {α β : Type} {f : α → List β} {n : Nat} (l : List α) (len : ∀ x ∈ l, (f x).length = n) {j i : Nat} (hi : i < n) :
    (l.flatMap f)[j * n + i]? = l[j]?.bind (fun x => (f x)[i]?) := by
  induction l generalizing j with
  | nil => simp
  | cons x l ih =>
    have first := len x List.mem_cons_self
    rw [List.flatMap_cons]
    cases j with
    | zero => rw [Nat.zero_mul, Nat.zero_add, List.getElem?_append_left (by omega)]; rfl
    | succ j =>
      have index : (j + 1) * n + i - (f x).length = j * n + i := by rw [first, Nat.succ_mul]; omega
      rw [List.getElem?_append_right (by rw [first, Nat.succ_mul]; omega), index, ih fun y hy => len y (List.mem_cons_of_mem _ hy)]
      rfl
theorem flatMap_length_of {α β : Type} {f : α → List β} {n : Nat} (l : List α) (len : ∀ x ∈ l, (f x).length = n) :
    (l.flatMap f).length = l.length * n := by
  induction l with
  | nil => simp
  | cons x l ih =>
    rw [List.flatMap_cons, List.length_append, len x List.mem_cons_self, ih fun y hy => len y (List.mem_cons_of_mem _ hy), List.length_cons, Nat.succ_mul]
    omega

section
variable (s : State) (mask tasks : Nat)

/-! ### The tiles of a cluster -/

theorem State.tilesFor_rising (c : Nat) : (s.tilesFor mask c).Pairwise (· < ·) := by
  refine List.Pairwise.filter _ (List.pairwise_map.mpr ?_)
  exact (List.pairwise_lt_range.filter _).imp fun h => Nat.add_lt_add_right h _
theorem State.mem_tilesFor {c k : Nat} (h : k ∈ s.tilesFor mask c) : s.idle k = true ∧ bf mask (k % 16) 1 = 1 ∧ k / 16 = c := by
  obtain ⟨placed, idle⟩ := List.mem_filter.mp h
  obtain ⟨i, hi, rfl⟩ := List.mem_map.mp placed
  obtain ⟨range, bit⟩ := List.mem_filter.mp hi
  have small := List.mem_range.mp range
  have low : (i + 16 * c) % 16 = i := by omega
  have high : (i + 16 * c) / 16 = c := by omega
  rw [low, high]
  exact ⟨idle, of_decide_eq_true bit, rfl⟩

/-- The tiles that a team takes of a cluster. -/
def State.teamTiles (c : Nat) : List Nat := (s.tilesFor mask c).take tasks

/-! ### Teams and bands -/

/-- Each team stands on a cluster of its own, in the order of the clusters. -/
theorem State.placeTeams_some {fuel n : Nat} {cs l : List Nat} (h : s.placeTeams mask tasks fuel cs (List.replicate n true) = some l) :
    ∃ ds : List Nat, ds.Sublist cs ∧ ds.length = n ∧ l = ds.flatMap (s.teamTiles mask tasks) ∧ ∀ c ∈ ds, (s.teamTiles mask tasks c).length = tasks := by
  induction fuel generalizing cs l n with
  | zero =>
    cases n with
    | zero =>
      rw [List.replicate_zero, State.placeTeams] at h
      cases h
      exact ⟨[], List.nil_sublist _, rfl, rfl, nofun⟩
    | succ n =>
      rw [List.replicate_succ, State.placeTeams] at h
      cases h
  | succ fuel ih =>
    cases n with
    | zero =>
      rw [List.replicate_zero, State.placeTeams] at h
      cases h
      exact ⟨[], List.nil_sublist _, rfl, rfl, nofun⟩
    | succ n =>
      rw [List.replicate_succ] at h
      cases cs with
      | nil =>
        rw [State.placeTeams] at h
        cases h
      | cons c cs =>
        rw [State.placeTeams] at h
        split at h
        · next enough =>
          obtain ⟨rest, hrest, rfl⟩ := Option.map_eq_some_iff.mp h
          obtain ⟨ds, sub, len, rfl, full⟩ := ih hrest
          refine ⟨c :: ds, sub.cons_cons c, by rw [List.length_cons, len], rfl, fun d hd => ?_⟩
          rcases List.mem_cons.mp hd with rfl | tail
          · rw [State.teamTiles, List.length_take, Nat.min_eq_left enough]
          · exact full d tail
        · obtain ⟨ds, sub, rest⟩ := ih (n := n + 1) (by rw [List.replicate_succ]; exact h)
          exact ⟨ds, sub.cons c, rest⟩
end

/-- The clusters of a die, rising. -/
def clustersOf (d : Nat) : List Nat := (List.range 8).map (· + 8 * d)
theorem clustersOf_rising (d : Nat) : (clustersOf d).Pairwise (· < ·) :=
  List.pairwise_map.mpr (List.pairwise_lt_range.imp fun h => Nat.add_lt_add_right h _)
theorem mem_clustersOf {d c : Nat} (h : c ∈ clustersOf d) : c / 8 = d := by
  obtain ⟨i, hi, rfl⟩ := List.mem_map.mp h
  have small := List.mem_range.mp hi
  omega

section
variable {s : State} {g : Grid}

/-- The clusters `cs` of die `d` take a band of the grid, one team each. -/
structure BandOn (s : State) (g : Grid) (d : Nat) (cs : List Nat) : Prop where
  sub : cs.Sublist (clustersOf d)
  teams : cs.length = g.teams
  full : ∀ c ∈ cs, (s.teamTiles g.tilemask g.tasks c).length = g.tasks

theorem BandOn.length {d : Nat} {cs : List Nat} (h : BandOn s g d cs) :
    (cs.flatMap (s.teamTiles g.tilemask g.tasks)).length = g.teams * g.tasks := by
  rw [flatMap_length_of cs h.full, h.teams]

/-- Each band stands on a die of its own, in the order of the dies. -/
theorem State.placeBands_some {n b : Nat} {dies l : List Nat} (h : s.placeBands g (fun _ => true) dies b n = some l) :
    ∃ css : List (List Nat), css.length = n ∧ l = css.flatMap (fun cs => cs.flatMap (s.teamTiles g.tilemask g.tasks)) ∧
      ∀ (x : Nat) (cs : List Nat), css[x]? = some cs → ∃ d, dies[x]? = some d ∧ BandOn s g d cs := by
  induction dies generalizing b n l with
  | nil =>
    cases n with
    | zero =>
      rw [State.placeBands] at h
      cases h
      exact ⟨[], rfl, rfl, nofun⟩
    | succ n =>
      rw [State.placeBands] at h
      cases h
  | cons d dies ih =>
    cases n with
    | zero =>
      rw [State.placeBands] at h
      cases h
      exact ⟨[], rfl, rfl, nofun⟩
    | succ n =>
      have wanted : (List.range g.teams).map (fun _ => true) = List.replicate g.teams true := by simp
      rw [State.placeBands, wanted] at h
      split at h
      · cases h
      · next band hband =>
        obtain ⟨rest, hrest, rfl⟩ := Option.map_eq_some_iff.mp h
        obtain ⟨cs, sub, teams, rfl, full⟩ := State.placeTeams_some s g.tilemask g.tasks hband
        obtain ⟨css, len, rfl, bands⟩ := ih hrest
        refine ⟨cs :: css, by rw [List.length_cons, len], rfl, fun x cs' hx => ?_⟩
        cases x with
        | zero =>
          cases hx
          exact ⟨d, rfl, sub, teams, full⟩
        | succ x => exact bands x cs' hx

/-! ### Where each task stands -/

theorem BandOn.task {d : Nat} {cs : List Nat} (h : BandOn s g d cs) {j i : Nat} (hj : j < g.teams) (hi : i < g.tasks) :
    ∃ c k, cs[j]? = some c ∧ (s.tilesFor g.tilemask c)[i]? = some k ∧ (cs.flatMap (s.teamTiles g.tilemask g.tasks))[j * g.tasks + i]? = some k := by
  have inside : j < cs.length := by rw [h.teams]; exact hj
  have full := h.full _ (List.getElem_mem inside)
  rw [State.teamTiles, List.length_take] at full
  have room : i < (s.tilesFor g.tilemask cs[j]).length := by omega
  have at' : (s.teamTiles g.tilemask g.tasks cs[j])[i]? = some (s.tilesFor g.tilemask cs[j])[i] := by
    rw [State.teamTiles, List.getElem?_take_of_lt hi, List.getElem?_eq_getElem room]
  refine ⟨cs[j], _, List.getElem?_eq_getElem inside, List.getElem?_eq_getElem room, ?_⟩
  rw [flatMap_getElem? cs h.full hi, List.getElem?_eq_getElem inside]
  exact at'

theorem rising_getElem? {l : List Nat} (h : l.Pairwise (· < ·)) {i x y : Nat} (hi : 0 < i) (hx : l[i - 1]? = some x) (hy : l[i]? = some y) : x < y := by
  obtain ⟨lx, rfl⟩ := List.getElem?_eq_some_iff.mp hx
  obtain ⟨ly, rfl⟩ := List.getElem?_eq_some_iff.mp hy
  exact List.pairwise_iff_getElem.mp h _ _ lx ly (by omega)

theorem State.placement_some {cores : List Nat} (h : s.placement g (fun _ => true) = some cores) :
    cores.length = g.bands * g.teams * g.tasks ∧
    ∀ b j i, b < g.bands → j < g.teams → i < g.tasks → ∃ k d, cores[(b * g.teams + j) * g.tasks + i]? = some k ∧
      (s.diesOf g.part)[b]? = some d ∧ k / 128 = d ∧ s.idle k = true ∧ bf g.tilemask (k % 16) 1 = 1 ∧
      (∀ k', 0 < i → cores[(b * g.teams + j) * g.tasks + (i - 1)]? = some k' → k' < k ∧ k' / 16 = k / 16) ∧
      ∀ k', 0 < j → cores[(b * g.teams + (j - 1)) * g.tasks + i]? = some k' → k' / 16 < k / 16 := by
  obtain ⟨css, len, rfl, bands⟩ := State.placeBands_some h
  have full : ∀ cs ∈ css, (cs.flatMap (s.teamTiles g.tilemask g.tasks)).length = g.teams * g.tasks := fun cs hcs => by
    obtain ⟨x, hx⟩ := List.mem_iff_getElem?.mp hcs
    obtain ⟨d, _, band⟩ := bands x cs hx
    exact band.length
  refine ⟨by rw [flatMap_length_of css full, len, Nat.mul_assoc], fun b j i hb hj hi => ?_⟩
  obtain ⟨d, hd, band⟩ := bands b css[b] (List.getElem?_eq_getElem (by omega))
  have place : ∀ j' i', j' < g.teams → i' < g.tasks → (css.flatMap (fun cs => cs.flatMap (s.teamTiles g.tilemask g.tasks)))[(b * g.teams + j') * g.tasks + i']? =
      (css[b].flatMap (s.teamTiles g.tilemask g.tasks))[j' * g.tasks + i']? := fun j' i' hj' hi' => by
    have inside : j' * g.tasks + i' < g.teams * g.tasks := by
      have step : (j' + 1) * g.tasks ≤ g.teams * g.tasks := Nat.mul_le_mul_right _ hj'
      rw [Nat.succ_mul] at step
      omega
    rw [Nat.add_mul, Nat.mul_assoc, Nat.add_assoc, flatMap_getElem? css full inside, List.getElem?_eq_getElem (by omega)]
    rfl
  obtain ⟨c, k, hc, hk, at'⟩ := band.task hj hi
  obtain ⟨idle, permitted, cluster⟩ := s.mem_tilesFor g.tilemask (List.mem_of_getElem? hk)
  have die := mem_clustersOf (band.sub.subset (List.mem_of_getElem? hc))
  refine ⟨k, d, (place j i hj hi).trans at', hd, by omega, idle, permitted, fun k' before hk' => ?_, fun k' before hk' => ?_⟩
  · obtain ⟨c', k'', hc', hk'', at''⟩ := band.task hj (show i - 1 < g.tasks by omega)
    rw [place j (i - 1) hj (by omega), at''] at hk'
    cases hk'
    rw [hc] at hc'
    cases hc'
    exact ⟨rising_getElem? (s.tilesFor_rising ..) before hk'' hk, ((s.mem_tilesFor g.tilemask (List.mem_of_getElem? hk'')).2.2).trans cluster.symm⟩
  · obtain ⟨c', k'', hc', hk'', at''⟩ := band.task (show j - 1 < g.teams by omega) hi
    rw [place (j - 1) i (by omega) hi, at''] at hk'
    cases hk'
    rw [(s.mem_tilesFor g.tilemask (List.mem_of_getElem? hk'')).2.2, cluster]
    exact rising_getElem? ((clustersOf_rising d).sublist band.sub) before hc' hc
end

end Sys2Proof.Machine
end

section
/-! PROOF. DISPATCH (R34 to R39, R349). -/

namespace Sys2Proof.Machine

/-! ### Reading the shape record (R39, R392) -/

theorem State.mend_memRead (s : State) (k c key n : Nat) (repl : Bool) : MemRead s (s.mend k c key n repl) := by
  unfold State.mend
  split
  · exact foldl_keeps .refl .trans (fun s w => s.mendWord_memRead ..) _ s
  · exact .refl s
theorem walkRead_memRead {p asid fuel va n : Nat} {s t : State} {b : List Byte} (h : walkRead p asid fuel va n s = .ok (b, t)) : MemRead s t := by
  induction fuel generalizing va n s t b with
  | zero =>
    cases h
    exact .refl s
  | succ fuel ih =>
    unfold walkRead at h
    split at h
    · cases h
      exact .refl s
    · dsimp only at h
      split at h
      · cases h
      · next x _ =>
        have mended := s.mend_memRead (128 * s.refDie p) (dieOf (128 * s.refDie p)) x.key (min n (65536 - va % 65536)) x.repl
        split at h
        · cases h
        · split at h
          · cases h
          · next rest =>
            cases h
            exact mended.trans (ih rest)
theorem State.readShape_memRead {s t : State} {g : Grid} {b : List Byte} (h : s.readShape g = .ok (b, t)) : MemRead s t := by
  unfold State.readShape at h
  split at h
  · cases h
  · next read =>
    split at h
    · cases h
    · cases h
      exact walkRead_memRead read

/-! ### A packet that is not placed (R35, R349) -/

theorem State.rejectPacket_result {s : State} {g : Grid} {code exitval : Nat} (hq : g.queue < 16) (canonical : Memory.wf s.mem = true) :
    (s.rejectPacket g code exitval).grids = s.grids ∧ (s.rejectPacket g code exitval).tiles = s.tiles ∧
      ((s.rejectPacket g code exitval).queue g.part g.queue).qrd = ((s.queue g.part g.queue).qrd + 1) % 2 ^ 32 ∧
      (s.rejectPacket g code exitval).readAt ((s.queue g.part g.queue).recordAt g.slot) 32 =
        completionBytes code g.job 0 0 (s.refTime g.part) exitval ∧
      ∀ y, y < (s.queue g.part g.queue).recordAt g.slot ∨ (s.queue g.part g.queue).recordAt g.slot + 32 ≤ y →
        Memory.get (s.rejectPacket g code exitval).mem y = Memory.get s.mem y := by
  rw [State.rejectPacket, State.popPacket]
  have popped := State.queue_modQueue (s.noteJob g.part g.job) g.part hq (fun u => { u with qrd := (u.qrd + 1) % 2 ^ 32 })
  have tiles : ((s.noteJob g.part g.job).modQueue g.part g.queue fun u => { u with qrd := (u.qrd + 1) % 2 ^ 32 }).tiles = s.tiles := rfl
  have grids : ((s.noteJob g.part g.job).modQueue g.part g.queue fun u => { u with qrd := (u.qrd + 1) % 2 ^ 32 }).grids = s.grids := rfl
  have mem : ((s.noteJob g.part g.job).modQueue g.part g.queue fun u => { u with qrd := (u.qrd + 1) % 2 ^ 32 }).mem = s.mem := rfl
  generalize (s.noteJob g.part g.job).modQueue g.part g.queue (fun u => { u with qrd := (u.qrd + 1) % 2 ^ 32 }) = v at popped tiles grids mem ⊢
  have record : (v.queue g.part g.queue).recordAt g.slot = (s.queue g.part g.queue).recordAt g.slot := by
    rw [popped]
    rfl
  obtain ⟨tiles', grids', parts', mem'⟩ := State.writeCompletion_keeps (s := v) (p := g.part) (q := g.queue) (slot := g.slot) (status := code)
    (job := g.job) (msgdrop := 0) (start := 0) (fin := s.refTime g.part) (exitval := exitval)
  rw [record, mem] at mem'
  have queue : (v.writeCompletion g.part g.queue g.slot code g.job 0 0 (s.refTime g.part) exitval).queue g.part g.queue = v.queue g.part g.queue := by
    rw [State.queue, State.queue, State.part, State.part, parts']
  refine ⟨grids'.trans grids, tiles'.trans tiles, ?_, mem_completed canonical mem'⟩
  rw [queue, popped]
  rfl

/-! ### The tasks of a placed grid (R39) -/

/-- A core's tile with a task put on it. -/
def Tile.takes (t : Tile) (g : Grid) (gid r k now : Nat) : Tile :=
  { t with task := some (g.refOf gid r), job := g.job, asid := g.asid, eclass := g.eclass, drowsy := [], window := lastStart k now }

/-- A task is put on core `c.1` with global rank `c.2`, and the shape record in its scratchpad. -/
def State.seatWith (s : State) (g : Grid) (gid : Nat) (shape : List Byte) (c : Nat × Nat) : State :=
  (s.seat g gid c.2 c.1).writeKey (scratchAt c.1 0) shape false

/-- The partitions, the grids and the clocks stand as they did. -/
structure SameOutside (s t : State) : Prop where
  parts : t.parts = s.parts
  grids : t.grids = s.grids
  dies : t.dies = s.dies
theorem SameOutside.refl (s : State) : SameOutside s s := ⟨rfl, rfl, rfl⟩
theorem SameOutside.trans {s t u : State} (h : SameOutside s t) (h' : SameOutside t u) : SameOutside s u :=
  ⟨h'.parts.trans h.parts, h'.grids.trans h.grids, h'.dies.trans h.dies⟩

section
variable {g : Grid} {gid : Nat} {shape : List Byte}

theorem State.seatWith_outside (s : State) (c : Nat × Nat) : SameOutside s (s.seatWith g gid shape c) := ⟨rfl, rfl, rfl⟩
theorem State.seatWith_tile (s : State) (k r : Nat) : (s.seatWith g gid shape (k, r)).tile k = (s.tile k).takes g gid r k (s.timeOf k) := by
  show (s.seat g gid r k).tile k = _
  rw [State.seat, State.tile_modTile]
  rfl
theorem State.seatWith_tile_other (s : State) {k j : Nat} (r : Nat) (h : j ≠ k) : (s.seatWith g gid shape (k, r)).tile j = s.tile j := by
  show (s.seat g gid r k).tile j = _
  rw [State.seat, State.tile_modTile_other _ _ h]
  rfl

theorem scratchAt_apart {k j n : Nat} (h : j ≠ k) (fits : n ≤ 2 ^ 19) : scratchAt j 0 + n ≤ scratchAt k 0 ∨ scratchAt k 0 + n ≤ scratchAt j 0 := by
  unfold scratchAt
  rcases Nat.lt_or_gt_of_ne h with less | more
  · have gap : (j + 1) * 2 ^ 19 ≤ k * 2 ^ 19 := Nat.mul_le_mul_right _ less
    omega
  · have gap : (k + 1) * 2 ^ 19 ≤ j * 2 ^ 19 := Nat.mul_le_mul_right _ more
    omega

theorem State.seatAll (fits : shape.length ≤ 2 ^ 19) (l : List (Nat × Nat)) (distinct : (l.map (·.1)).Nodup) (s : State)
    (canonical : Memory.wf s.mem = true) :
    SameOutside s (l.foldl (fun (s : State) c => s.seatWith g gid shape c) s) ∧
      (∀ j, j ∉ l.map (·.1) → (l.foldl (fun (s : State) c => s.seatWith g gid shape c) s).tile j = s.tile j ∧
        (l.foldl (fun (s : State) c => s.seatWith g gid shape c) s).readAt (scratchAt j 0) shape.length = s.readAt (scratchAt j 0) shape.length) ∧
      ∀ k r, (k, r) ∈ l → (l.foldl (fun (s : State) c => s.seatWith g gid shape c) s).tile k = (s.tile k).takes g gid r k (s.timeOf k) ∧
        (l.foldl (fun (s : State) c => s.seatWith g gid shape c) s).readAt (scratchAt k 0) shape.length = shape := by
  induction l generalizing s with
  | nil => exact ⟨.refl s, fun _ _ => ⟨rfl, rfl⟩, nofun⟩
  | cons c l ih =>
    obtain ⟨k, r⟩ := c
    rw [List.map_cons, List.nodup_cons] at distinct
    obtain ⟨away, distinct⟩ := distinct
    have wf : Memory.wf (s.seatWith g gid shape (k, r)).mem = true := State.writeKey_wf _ _ _ _ canonical
    have seatCanonical : Memory.wf (s.seat g gid r k).mem = true := canonical
    have outside := s.seatWith_outside (g := g) (gid := gid) (shape := shape) (k, r)
    have time : ∀ j, (s.seatWith g gid shape (k, r)).timeOf j = s.timeOf j := fun j => rfl
    have read := State.readAt_writeKey seatCanonical (scratchAt k 0) shape false
    have readOther : ∀ j, j ≠ k → (s.seatWith g gid shape (k, r)).readAt (scratchAt j 0) shape.length = s.readAt (scratchAt j 0) shape.length :=
      fun j hj => State.readAt_writeKey_other seatCanonical false (scratchAt_apart hj fits)
    have tile := s.seatWith_tile (g := g) (gid := gid) (shape := shape) k r
    have tileOther : ∀ j, j ≠ k → (s.seatWith g gid shape (k, r)).tile j = s.tile j := fun j hj => s.seatWith_tile_other r hj
    have readHere : (s.seatWith g gid shape (k, r)).readAt (scratchAt k 0) shape.length = shape := read
    rw [List.foldl_cons]
    generalize s.seatWith g gid shape (k, r) = u at wf outside time readOther tile tileOther readHere ⊢
    obtain ⟨same, others, placed⟩ := ih distinct u wf
    refine ⟨outside.trans same, fun j hj => ?_, fun k' r' hc => ?_⟩
    · obtain ⟨hne, hout⟩ := not_or.mp fun m => hj (List.mem_cons.mpr m)
      exact ⟨(others j hout).1.trans (tileOther j hne), (others j hout).2.trans (readOther j hne)⟩
    · rcases List.mem_cons.mp hc with head | tail
      · cases head
        exact ⟨(others k away).1.trans tile, (others k away).2.trans readHere⟩
      · have hne : k' ≠ k := fun same => away (same ▸ List.mem_map.mpr ⟨_, tail, rfl⟩)
        rw [← time k', ← tileOther k' hne]
        exact placed k' r' tail
end

/-! ### The decision on the chosen packet -/

section
variable {s : State} {p q i : Nat} {g : Grid}

theorem dispatch_decides (h : ChosenPacket s p q i g) : exec (.dispatch p) s = .next (s.decidePacket p q) := by
  obtain ⟨⟨c, chosen, resumed, rfl⟩, held, ok, rfl, _, free, _⟩ := h
  show execDispatch p s = _
  rw [execDispatch, chosen]
  dsimp only
  rw [if_neg (by rw [resumed, held]; decide), State.withRing_next ok free]

/-- What the dispatcher decides on the packet, in the state in which its number has been drawn. -/
def State.decision (s : State) (p q gid : Nat) (g : Grid) : State :=
  if s.packetCheck g ≠ 0 then s.rejectPacket g 4 (malformedValue (s.packetCheck g) 0 0)
  else if g.late ∧ g.dropIfLate then s.rejectPacket g 2 0
  else match s.placement g (fun _ => true) with
    | none => s.preemptFor p g
    | some cores =>
      match s.readShape g with
      | .error v => s.rejectPacket g 4 v
      | .ok (b, s) => (s.popPacket p q).seatGrid g gid cores b

theorem State.decidePacket_eq (h : ChosenPacket s p q i g) (good : s.isBad ((s.queue p q).slotAt i) 128 = false) :
    s.decidePacket p q = State.decision { s with free := s.free + 1 } p q s.free g := by
  obtain ⟨_, _, _, rfl, _, _, hg⟩ := h
  have sound : State.isBad { s with free := s.free + 1 } ((s.queue p q).slotAt (s.queue p q).qrd) 128 = false := good
  have packet : State.packetAt { s with free := s.free + 1 } p q (s.queue p q).qrd s.free = s.packetAt p q (s.queue p q).qrd s.free := rfl
  have time : State.refTime { s with free := s.free + 1 } p = s.refTime p := rfl
  have late : decide ((s.packetAt p q (s.queue p q).qrd s.free).deadline ≠ 0 ∧
      (s.packetAt p q (s.queue p q).qrd s.free).deadline < s.refTime p) = g.late := by rw [hg]
  rw [State.decidePacket, State.fresh]
  dsimp only
  rw [sound, if_neg Bool.false_ne_true, packet, time, ← hg, late]
  rfl

theorem chosenPacket_fields (h : ChosenPacket s p q i g) : g.part = p ∧ g.queue = q ∧ g.slot = i ∧ q < 16 ∧ i = (s.queue p q).qrd := by
  obtain ⟨_, _, _, rfl, small, _, rfl⟩ := h
  exact ⟨rfl, rfl, rfl, small, rfl⟩

/-- A fresh number changes no placement. -/
theorem State.placement_fresh (s : State) (n : Nat) (g : Grid) (want : Nat → Bool) :
    State.placement { s with free := n } g want = s.placement g want := by
  have tiles : ∀ mask c, State.tilesFor { s with free := n } mask c = s.tilesFor mask c := fun _ _ => rfl
  have teams : ∀ mask tasks fuel cs ts, State.placeTeams { s with free := n } mask tasks fuel cs ts = s.placeTeams mask tasks fuel cs ts := by
    intro mask tasks fuel cs ts
    induction fuel generalizing cs ts with
    | zero => cases ts <;> simp only [State.placeTeams]
    | succ fuel ih =>
      cases ts with
      | nil => simp only [State.placeTeams]
      | cons t ts =>
        cases t with
        | false => simp only [State.placeTeams, ih]
        | true =>
          cases cs with
          | nil => simp only [State.placeTeams]
          | cons c cs => simp only [State.placeTeams, ih, tiles]
  have bands : ∀ ds b m, State.placeBands { s with free := n } g want ds b m = s.placeBands g want ds b m := by
    intro ds
    induction ds with
    | nil =>
      intro b m
      cases m <;> simp only [State.placeBands]
    | cons d ds ih =>
      intro b m
      cases m with
      | zero => simp only [State.placeBands]
      | succ m => simp only [State.placeBands, teams, ih]
  exact bands ..

theorem malformedValue_check (c : Nat) : malformedValue c 0 0 = c := by simp [malformedValue]

theorem dispatch_malformed (h : ChosenPacket s p q i g) (good : s.isBad ((s.queue p q).slotAt i) 128 = false) (fails : s.packetCheck g ≠ 0) :
    exec (.dispatch p) s = .next (State.rejectPacket { s with free := s.free + 1 } g 4 (s.packetCheck g)) := by
  have same : State.packetCheck { s with free := s.free + 1 } g = s.packetCheck g := rfl
  rw [dispatch_decides h, State.decidePacket_eq h good, State.decision, same, if_pos fails, malformedValue_check]

section
variable (h : ChosenPacket s p q i g) (good : s.isBad ((s.queue p q).slotAt i) 128 = false) (passes : s.packetCheck g = 0)
include h good passes

theorem dispatch_expired (late : g.late = true) (drop : g.dropIfLate = true) :
    exec (.dispatch p) s = .next (State.rejectPacket { s with free := s.free + 1 } g 2 0) := by
  have same : State.packetCheck { s with free := s.free + 1 } g = s.packetCheck g := rfl
  rw [dispatch_decides h, State.decidePacket_eq h good, State.decision, same, if_neg (fun n => n passes), if_pos ⟨late, drop⟩]

theorem dispatch_places (kept : g.late = false ∨ g.dropIfLate = false) : exec (.dispatch p) s = .next (match s.placement g (fun _ => true) with
    | none => State.preemptFor { s with free := s.free + 1 } p g
    | some cores =>
      match State.readShape { s with free := s.free + 1 } g with
      | .error v => State.rejectPacket { s with free := s.free + 1 } g 4 v
      | .ok (b, u) => (u.popPacket p q).seatGrid g s.free cores b) := by
  have same : State.packetCheck { s with free := s.free + 1 } g = s.packetCheck g := rfl
  have stays : ¬ (g.late = true ∧ g.dropIfLate = true) := fun both => by
    rcases kept with no | no
    · rw [no] at both
      exact Bool.false_ne_true both.1
    · rw [no] at both
      exact Bool.false_ne_true both.2
  rw [dispatch_decides h, State.decidePacket_eq h good, State.decision, same, if_neg (fun n => n passes), if_neg stays, State.placement_fresh]

theorem dispatch_waits (kept : g.late = false ∨ g.dropIfLate = false) (no_room : s.placement g (fun _ => true) = none)
    (off : bf s.preempten.toNat p 1 = 0) : exec (.dispatch p) s = .next { s with free := s.free + 1 } := by
  rw [dispatch_places h good passes kept, no_room]
  exact congrArg Host.Outcome.next (if_pos (.inl off))
end

/-- A placed grid's tasks stand on their cores with the shape record. -/
theorem State.seatGrid_result {u : State} {gid : Nat} {cores : List Nat} {shape : List Byte} (fits : shape.length ≤ 2 ^ 19) (distinct : cores.Nodup)
    (canonical : Memory.wf u.mem = true) : (u.seatGrid g gid cores shape).parts = u.parts ∧
      (u.seatGrid g gid cores shape).grid? gid = some { g with cores := cores, unstarted := cores } ∧
      (∀ j, j ∉ cores → (u.seatGrid g gid cores shape).tile j = u.tile j) ∧
      ∀ (r k : Nat), cores[r]? = some k → (u.seatGrid g gid cores shape).readAt (scratchAt k 0) shape.length = shape ∧
        (u.seatGrid g gid cores shape).tile k = (u.tile k).takes g gid r k (u.timeOf k) := by
  have names : cores.zipIdx.map (·.1) = cores := List.zipIdx_map_fst 0 cores
  have seats : u.seatGrid g gid cores shape = cores.zipIdx.foldl (fun (s : State) c => s.seatWith g gid shape c)
      { u.noteJob g.part g.job with grids := keySet u.grids gid { g with cores := cores, unstarted := cores } } := rfl
  obtain ⟨same, others, placed⟩ := State.seatAll (g := g) (gid := gid) fits cores.zipIdx (by rw [names]; exact distinct)
    { u.noteJob g.part g.job with grids := keySet u.grids gid { g with cores := cores, unstarted := cores } } canonical
  rw [names] at others
  rw [seats]
  refine ⟨same.parts, (congrArg (fun l => keyFind l gid) same.grids).trans (keyFind_keySet_same ..), fun j hj => (others j hj).1, fun r k hr => ?_⟩
  obtain ⟨tile, read⟩ := placed k r (List.mk_mem_zipIdx_iff_getElem?.mpr hr)
  exact ⟨read, tile⟩

theorem dispatch_seats (h : ChosenPacket s p q i g) (canonical : Memory.wf s.mem = true) (good : s.isBad ((s.queue p q).slotAt i) 128 = false)
    (passes : s.packetCheck g = 0) (kept : g.late = false ∨ g.dropIfLate = false) {cores : List Nat} {b : List Byte} {u : State}
    (room : s.placement g (fun _ => true) = some cores) (read : State.readShape { s with free := s.free + 1 } g = .ok (b, u))
    (fits : b.length ≤ 2 ^ 19) (distinct : cores.Nodup) :
    ∃ t, exec (.dispatch p) s = .next t ∧ (t.queue p q).qrd = (i + 1) % 2 ^ 32 ∧
      t.grid? s.free = some { g with cores := cores, unstarted := cores } ∧ (∀ j, j ∉ cores → t.tile j = s.tile j) ∧
      ∀ (r k : Nat), cores[r]? = some k → t.readAt (scratchAt k 0) b.length = b ∧ t.tile k = (s.tile k).takes g s.free r k (s.timeOf k) := by
  have step := dispatch_places h good passes kept
  rw [room] at step
  dsimp only at step
  rw [read] at step
  obtain ⟨_, _, _, hq, hi⟩ := chosenPacket_fields h
  have shaped := State.readShape_memRead read
  have read_wf : Memory.wf u.mem = true := State.readShape_wf (s := { s with free := s.free + 1 }) canonical read
  have wf : Memory.wf (u.popPacket p q).mem = true := read_wf
  have tiles : ∀ j, (u.popPacket p q).tile j = s.tile j := fun j => (congrArg (fun l => keyGet Tile.idle l j) shaped.tiles : _)
  have time : ∀ j, (u.popPacket p q).timeOf j = s.timeOf j := fun j => by
    show u.timeOf j = s.timeOf j
    rw [shaped.state]
    rfl
  have queue : u.queue p q = s.queue p q := by
    rw [State.queue, shaped.part]
    rfl
  obtain ⟨parts, grid, others, seats⟩ := State.seatGrid_result (g := g) (gid := s.free) (u := u.popPacket p q) fits distinct wf
  have popped : (((u.popPacket p q).seatGrid g s.free cores b).queue p q).qrd = (i + 1) % 2 ^ 32 := by
    have whole : ((u.popPacket p q).seatGrid g s.free cores b).queue p q = (u.popPacket p q).queue p q := by
      rw [State.queue, State.queue, State.part, State.part, parts]
    rw [whole, State.popPacket, State.queue_modQueue _ _ hq, queue, hi]
  refine ⟨_, step, popped, grid, fun j hj => (others j hj).trans (tiles j), fun r k hr => ?_⟩
  obtain ⟨shape, tile⟩ := seats r k hr
  rw [tiles, time] at tile
  exact ⟨shape, tile⟩
end

theorem dispatchResult : DispatchResult := by
  refine ⟨fun s p q i a g h canonical ha good => ?_, fun s g cores => State.placement_some⟩
  obtain ⟨part, queue, slot, hq, hi⟩ := chosenPacket_fields h
  have rejected : ∀ code exitval, ∃ t, t = State.rejectPacket { s with free := s.free + 1 } g code exitval ∧ t.grids = s.grids ∧ t.tiles = s.tiles ∧
      (t.queue p q).qrd = (i + 1) % 2 ^ 32 ∧ t.readAt a 32 = completionBytes code g.job 0 0 (s.refTime p) exitval ∧
      ∀ y, y < a ∨ a + 32 ≤ y → Memory.get t.mem y = Memory.get s.mem y := fun code exitval => by
    have result := State.rejectPacket_result (s := { s with free := s.free + 1 }) (code := code) (exitval := exitval)
      (show g.queue < 16 by rw [queue]; exact hq) canonical
    rw [part, queue, slot] at result
    rw [ha, hi] at *
    exact ⟨_, rfl, result⟩
  refine ⟨fun fails => ?_, fun passes late drop => ?_, fun passes kept => ⟨dispatch_waits h good passes kept, fun cores b u room read fits distinct =>
    dispatch_seats h canonical good passes kept room read fits distinct⟩⟩
  · obtain ⟨t, rfl, result⟩ := rejected 4 (s.packetCheck g)
    exact ⟨_, dispatch_malformed h good fails, result⟩
  · obtain ⟨t, rfl, result⟩ := rejected 2 0
    exact ⟨_, dispatch_expired h good passes late drop, result⟩

/-- Settles O41: what LAUNCH leaves at the slot; the branches of the dispatcher's decision; a placement by induction over dies and clusters. -/
theorem launchAndDispatch : Obligations.LaunchAndDispatch := ⟨launchResult, dispatchResult⟩

end Sys2Proof.Machine
end
